-- ==== Sys2Proof/Word.lean ====
section
/-! DEFINITION. The words of the machine: widths, register numbers, sparse tables. -/

namespace Sys2Proof

/-- A 64-bit scalar register value (R63). -/
abbrev W64 := BitVec 64
/-- A 32-bit element slot or instruction word. -/
abbrev W32 := BitVec 32
/-- One byte of memory (R212). -/
abbrev Byte := BitVec 8
/-- A 16-bit type tag (R81). -/
abbrev Tag := BitVec 16
/-- A five-bit register field: x0–x31, or the codes of R42. -/
abbrev Reg := Fin 32
/-- A sparse table in canonical form: keys strictly rising, no entry at the default value. -/
abbrev SMap (α : Type) := List (Nat × α)

end Sys2Proof
end

