-- ==== Sys2Proof/Machine/Bits.lean ====
section
/-! DEFINITION. Sparse tables in canonical form, bit fields, sign extension and list helpers. -/

namespace Sys2Proof.Machine

/-- The value at key `k`, or `d` where the table lists none. -/
def mget {α : Type} (d : α) (m : SMap α) (k : Nat) : α :=
  match m with
  | [] => d
  | (a, v) :: t => if a = k then v else mget d t k

/-- The value at key `k`, if the table lists one. -/
def mfind {α : Type} (m : SMap α) (k : Nat) : Option α :=
  match m with
  | [] => none
  | (a, v) :: t => if a = k then some v else mfind t k

/-- Lists `v` at key `k`, keys rising. -/
def minsert {α : Type} (m : SMap α) (k : Nat) (v : α) : SMap α :=
  match m with
  | [] => [(k, v)]
  | (a, w) :: t => if k < a then (k, v) :: (a, w) :: t else if k = a then (k, v) :: t else (a, w) :: minsert t k v

/-- Takes key `k` out of the table. -/
def merase {α : Type} (m : SMap α) (k : Nat) : SMap α := m.filter (fun e => e.1 != k)

/-- Writes `v` at `k`; the default value is not listed. -/
def mset {α : Type} [DecidableEq α] (d : α) (m : SMap α) (k : Nat) (v : α) : SMap α :=
  if v = d then merase m k else minsert m k v

/-- Keys strictly rising. -/
def keysRise {α : Type} (m : SMap α) : Bool :=
  match m with
  | [] => true
  | [_] => true
  | (a, _) :: (b, w) :: t => a < b && keysRise ((b, w) :: t)

/-- Canonical form of a table with default `d`. -/
def mwf {α : Type} [DecidableEq α] (d : α) (m : SMap α) : Bool := keysRise m && m.all (fun e => e.2 != d)

/-- The natural number in bits `hi` to `lo` of `v`. -/
def bitsOf (v hi lo : Nat) : Nat := v / 2 ^ lo % 2 ^ (hi + 1 - lo)

/-- Bit `k` of `v`. -/
def bitAt (v k : Nat) : Bool := v / 2 ^ k % 2 = 1

/-- `v` modulo 2^n read as a signed number. -/
def sgn (n v : Nat) : Int :=
  let r := v % 2 ^ n
  if 2 * r < 2 ^ n then (r : Int) else (r : Int) - 2 ^ n

/-- sext64(v, n): the low n bits of v, sign-extended to 64 (R5, R63). -/
def sext64 (n v : Nat) : W64 := BitVec.ofInt 64 (sgn n v)

/-- Sign extension of a bit vector to 64 bits. -/
def sx {n : Nat} (v : BitVec n) : W64 := v.signExtend 64

/-- ceil(a / b) for b > 0. -/
def cdiv (a b : Nat) : Nat := (a + b - 1) / b

/-- The integer modulo 2^n as a natural number. -/
def intMod (n : Nat) (z : Int) : Nat := (z % (2 ^ n : Int)).toNat

/-- Little-endian value of bytes (R4). -/
def leNat (l : List Byte) : Nat := l.foldr (fun b n => b.toNat + 256 * n) 0

/-- The low `n` bytes of `v`, lowest first (R4). -/
def leBytes (n v : Nat) : List Byte :=
  match n with
  | 0 => []
  | k + 1 => BitVec.ofNat 8 v :: leBytes k (v / 256)

/-- Element `k` of a vector, `d` beyond its end. -/
def vget {α : Type} {n : Nat} (d : α) (v : Vector α n) (k : Nat) : α := if h : k < n then v[k] else d

/-- The vector with element `k` replaced; unchanged beyond its end. -/
def vput {α : Type} {n : Nat} (v : Vector α n) (k : Nat) (x : α) : Vector α n := if h : k < n then v.set k x h else v

/-- The vector with element `k` changed by `f`. -/
def vmod {α : Type} {n : Nat} (v : Vector α n) (k : Nat) (f : α → α) : Vector α n :=
  if h : k < n then v.set k (f v[k]) h else v

/-- The bit list, least significant first, of the low `n` bits of `v`. -/
def natBits (n v : Nat) : List Bool :=
  match n with
  | 0 => []
  | k + 1 => (v % 2 = 1) :: natBits k (v / 2)

/-- The number whose bits, least significant first, are the list. -/
def bitsNat (l : List Bool) : Nat := l.foldr (fun b n => b.toNat + 2 * n) 0

/-- The number with its low `n` bits in reverse order. -/
def revBits (n v : Nat) : Nat := bitsNat (natBits n v).reverse

/-- How many of the low `n` bits are 1. -/
def popCount (n v : Nat) : Nat := ((natBits n v).filter id).length

/-- Runs `f` on 0, 1, …, n − 1 in ascending order. -/
def upto {α : Type} (n : Nat) (f : Nat → α → α) (a : α) : α := (List.range n).foldl (fun x k => f k x) a

/-- Replaces the first element that satisfies `p`. -/
def replaceFirst {α : Type} (p : α → Bool) (f : α → α) (l : List α) : List α :=
  match l with
  | [] => []
  | x :: t => if p x then f x :: t else x :: replaceFirst p f t

end Sys2Proof.Machine
end

