-- ==== Sys2Proof/Syntax.lean ====
section
/-! DEFINITION. The instructions: one constructor per row of spec/opcode_table.json (R50, R51, R48), with their operands
as fields; the rows without an encoding are the events of the other agents, with their parameters as operands. -/

namespace Sys2Proof

/-- The V format (R39, R42, R43, R44): `mod` and the predicate field `pm` (mk) decode together, `ca` and `cb` are the chain bits. -/
structure VOps where
  vd : Reg
  va : Reg
  vb : Reg
  pm : Fin 8
  ca : Bool
  cb : Bool
  mod : Fin 4
  deriving DecidableEq, Repr

/-- The VM format (R39, R46): base register, signed offset in units of 16 bytes, second x register, sub field, queue. -/
structure VMOps where
  imm7 : BitVec 7
  xb : Reg
  xa : Reg
  sub : Fin 8
  q : Fin 4
  deriving DecidableEq, Repr

/-- An AMO form (R40, R233). `scope`: 0 hart, 1 core, 2 die, 3 package, 4 domain. -/
structure AmoOps where
  d : Reg
  a : Reg
  b : Reg
  scope : Fin 8
  rl : Bool
  aq : Bool
  dbl : Bool
  deriving DecidableEq, Repr

/-- MLDQ (R178): the three x operands and the four counts of word 1. -/
structure MldqOps where
  q : Fin 4
  a : Reg
  b : Reg
  c : Reg
  n : Fin 512
  k : Fin 64
  t : Fin 64
  code : Fin 8
  deriving DecidableEq, Repr

/-- The trap causes of R183. -/
inductive Cause where
  | illegalInstruction | illegalTag | shapeViolation | matrixState | misalignedAmo | fetchFault | loadFault
  | storeFault | protection | vitrineWrite | dataError | queueStall | subByteStride | barrierOverArrival
  | catalogueConfig | grammarImage | launchReject | ecall | breakpoint
  deriving DecidableEq, Repr

/-- What trap entry records (R183, R184). `ev` is the resume point written to evstart; `evValid` forces the `ev_valid`
bit; `queue` is the queue code, 15 for none; `side` is as estat's field (R182). -/
structure TrapInfo where
  cause : Cause
  eval : W64
  sub : Nat
  kind : Nat
  queue : Nat
  side : Nat
  evValid : Bool
  ev : Nat
  ilen : Nat
  deriving DecidableEq, Repr

/-- Who performs a write to a register or to memory (R208, R277, R377). -/
inductive Agent where
  | hart | privHart | host | fabric | management
  deriving DecidableEq, Repr

/-- What a reset finds (R12, R203, R379): whether every boot check passes, else the one that fails (1, 2 and 3 the firmware of dies 0, 1
and 2, above that a later one), the beds that fail
manufacturing test (die, core, bed), how many trusted keys the image carries, whether the second tier's devices are large
enough, and the log partitions that the management core enables (partition, labase, lcap; R339). -/
structure BootInfo where
  ok : Bool
  failedAt : Nat
  retired : List (Nat × Nat × Nat)
  nkeys : Nat
  tierOk : Bool
  parts : List (Nat × Nat × Nat)
  deriving DecidableEq, Repr

/-- One constructor per row of the opcode table. -/
inductive Instr where
  -- LD and ST, R230
  | ldb (d a : Reg) (imm : BitVec 12) | ldh (d a : Reg) (imm : BitVec 12) | ldw (d a : Reg) (imm : BitVec 12)
  | ldd (d a : Reg) (imm : BitVec 12) | ldbu (d a : Reg) (imm : BitVec 12) | ldhu (d a : Reg) (imm : BitVec 12)
  | ldwu (d a : Reg) (imm : BitVec 12)
  | stb (b a : Reg) (imm : BitVec 12) | sth (b a : Reg) (imm : BitVec 12) | stw (b a : Reg) (imm : BitVec 12)
  | std (b a : Reg) (imm : BitVec 12)
  -- AMO, R233
  | amoswp (o : AmoOps) | amoadd (o : AmoOps) | amoand (o : AmoOps) | amoor (o : AmoOps) | amoxor (o : AmoOps)
  | amomin (o : AmoOps) | amomax (o : AmoOps) | amominu (o : AmoOps) | amomaxu (o : AmoOps) | amocas (o : AmoOps)
  | lda (o : AmoOps) | stl (o : AmoOps)
  -- SYS, R190, R221, R302, R353
  | ecall | ebreak | eret | srd (d : Reg) (num : BitVec 11) | swr (d a : Reg) (num : BitVec 11)
  | srset (d a : Reg) (num : BitVec 11) | srclr (d a : Reg) (num : BitVec 11) | fence (scope set : Fin 8)
  | icinvR (a b : Reg) | tlbinv (a b : Reg) | waite (d a : Reg)
  -- SYNC, R356, R292
  | barArm (d a : Reg) | barArv (d : Reg) | barWt (d : Reg) | barSync (d : Reg) | barDrop (d : Reg)
  | fork (d a b : Reg) | join (d : Reg) | waitc (d a b : Reg) | launch (d a b : Reg) | safept (d a b : Reg)
  | yield (d : Reg) | halt
  -- SHAPE, R108
  | shape (d a b t : Reg) | shapeM (d a b t : Reg) | shapeG (d a b t : Reg) | vtag (n a : Reg) | qcfg (q a : Reg)
  | mxon (d a b : Reg) | mxoff | getsh (d sel n : Reg)
  -- VLD and VST, R235, R336
  | vldU (o : VMOps) | vldS (o : VMOps) | vldX (o : VMOps) | vldXO (o : VMOps) | vldSeg (o : VMOps)
  | vldC (o : VMOps) | vldFF (o : VMOps) | vtree (o : VMOps)
  | vstU (o : VMOps) | vstS (o : VMOps) | vstX (o : VMOps) | vstXO (o : VMOps) | vstSeg (o : VMOps)
  | vstC (o : VMOps)
  -- VARITH and VARITH.X, R131
  | vadd (o : VOps) | vsub (o : VOps) | vmul (o : VOps) | vmulh (o : VOps) | vdiv (o : VOps) | vmin (o : VOps)
  | vmax (o : VOps) | vsqrt (o : VOps)
  | vaddX (o : VOps) | vsubX (o : VOps) | vrsubX (o : VOps) | vmulX (o : VOps) | vdivX (o : VOps)
  | vrdivX (o : VOps) | vminX (o : VOps) | vmaxX (o : VOps)
  -- VLOGIC and VLOGIC.X, R136, R137
  | vand (o : VOps) | vor (o : VOps) | vxor (o : VOps) | vsll (o : VOps) | vsrl (o : VOps) | vsra (o : VOps)
  | vmerge (o : VOps) | vmv (o : VOps)
  | vandX (o : VOps) | vorX (o : VOps) | vxorX (o : VOps) | vsllX (o : VOps) | vsrlX (o : VOps) | vsraX (o : VOps)
  | vmergeX (o : VOps) | vsplat (o : VOps)
  -- VMAC, R135
  | vmacc (o : VOps) | vnmsac (o : VOps) | vmadd (o : VOps) | vnmsub (o : VOps) | vmaccX (o : VOps)
  | vnmsacX (o : VOps) | vabs (o : VOps) | vneg (o : VOps)
  -- VCMP, R138
  | vseq (o : VOps) | vsne (o : VOps) | vslt (o : VOps) | vsle (o : VOps) | vsltX (o : VOps) | vsgtX (o : VOps)
  | vlbnd (o : VOps) | vclass (o : VOps)
  -- VCVT, R140
  | vcvtH (o : VOps) | vcvtD (o : VOps) | vcvtQ4 (o : VOps) | vcvtI (o : VOps) | vcvtF (o : VOps) | vcvtT (o : VOps)
  | vretag (o : VOps)
  -- VRED, R145
  | vredsum (o : VOps) | vredmax (o : VOps) | vredmin (o : VOps) | vredand (o : VOps) | vredor (o : VOps)
  | vredsc (o : VOps) | vscan (o : VOps) | vredcol (o : VOps)
  -- VPERM, R154
  | vrgath (o : VOps) | vslideup (o : VOps) | vslidedn (o : VOps) | vslide1up (o : VOps) | vslide1dn (o : VOps)
  | vcompr (o : VOps) | vexpm (o : VOps) | vreshp (o : VOps)
  -- VXFM, R157
  | vunpk (o : VOps) | vpack (o : VOps) | vlut (o : VOps) | vid (o : VOps) | vclz (o : VOps) | vcpop (o : VOps)
  | vordk (o : VOps) | vbrev (o : VOps)
  -- VMSK, R159
  | mand (o : VOps) | mor (o : VOps) | mxor (o : VOps) | mandn (o : VOps) | mnot (o : VOps) | mpopc (o : VOps)
  | mfirst (o : VOps) | mseti (o : VOps)
  -- VSCL, R161
  | vmvx (o : VOps) | vmvs (o : VOps) | mmvx (o : VOps) | mmvs (o : VOps) | qstat (o : VOps) | qdrop (o : VOps)
  -- CAT, R315
  | catins (o : VOps) | catlkp (o : VOps) | catacc (o : VOps) | catdrn (o : VOps) | catclr | catcnt (o : VOps)
  | catcfg (o : VOps)
  -- COPY, R259
  | cpyG (d a b : Reg) | cpyP (d a b : Reg) | cpyX (d a b : Reg) | cpyIX (d a b : Reg)
  | cpyWait (d : Reg) (c : Fin 8) (b : Reg) | cpyStat (d : Reg) (c : Fin 8) (sel : Reg)
  | cpyAbort (d : Reg) (c : Fin 8) | cpyFill (d : Reg) (c : Fin 8) (b : Reg)
  -- Compressed memory forms and H.BRK, R48
  | hLdd (d a : Fin 8) (off : Fin 32) | hStd (b a : Fin 8) (off : Fin 32)
  | hLdw (d a : Fin 8) (off : Fin 32) | hStw (b a : Fin 8) (off : Fin 32) | hBrk
  -- MATRIX, R168
  | mzero (tile : Fin 4) | mopa (za : Fin 2) (va vb : Reg) (ca cb : Bool) | mops (za : Fin 2) (va vb : Reg) (ca cb : Bool)
  | mblk (zf za : Fin 2) (ns keep : Bool) | mrdz (vd : Reg) (zf : Fin 2) (xb : Reg)
  | mspill (sq : Fin 2) (tile : Fin 4) (xc : Reg) | mfill (tile : Fin 4) (lq : Fin 4) (xc : Reg) | mldq (o : MldqOps)
  -- GRAMMAR, R327
  | gopen (d a b c : Reg) | gadv (d a b : Reg) | gmask (md : Fin 16) (a : Reg) | gmaskM (md : Fin 16) (a : Reg) (ms : Fin 16)
  | gckpt (d a : Reg) | groll (d a b : Reg) | gfork (d a : Reg) | gfree (a : Reg) | gstat (d a : Reg) (sel : Reg)
  -- ACCESSION, R342
  | acclog (a b : Reg) | accsync (d : Reg) | acchead (d : Reg) (sel : Reg)
  -- VITRINE, R306
  | vtseal (d a b c : Reg) | vtatt (a b c : Reg) | vtdrop (a c : Reg) | vtqry (d a : Reg) (sel : Reg)
  -- ALU, R69 and R70
  | add (d a b : Reg) | sub (d a b : Reg) | and (d a b : Reg) | or (d a b : Reg) | xor (d a b : Reg)
  | sll (d a b : Reg) | srl (d a b : Reg) | sra (d a b : Reg) | slt (d a b : Reg) | sltu (d a b : Reg)
  | mul (d a b : Reg) | mulh (d a b : Reg) | mulhu (d a b : Reg) | div (d a b : Reg) | divu (d a b : Reg)
  | rem (d a b : Reg) | remu (d a b : Reg) | min (d a b : Reg) | max (d a b : Reg) | minu (d a b : Reg)
  | maxu (d a b : Reg) | addw (d a b : Reg) | subw (d a b : Reg) | clz (d a : Reg) | ctz (d a : Reg)
  | cpop (d a : Reg) | rol (d a b : Reg) | ror (d a b : Reg)
  -- ALUI, R71; LIU and PCADD, R72
  | addi (d a : Reg) (imm : BitVec 12) | andi (d a : Reg) (imm : BitVec 12) | ori (d a : Reg) (imm : BitVec 12)
  | xori (d a : Reg) (imm : BitVec 12) | slti (d a : Reg) (imm : BitVec 12) | sltiu (d a : Reg) (imm : BitVec 12)
  | slli (d a : Reg) (sh : Fin 64) | srli (d a : Reg) (sh : Fin 64) | srai (d a : Reg) (sh : Fin 64)
  | rori (d a : Reg) (sh : Fin 64) | addiw (d a : Reg) (imm : BitVec 12)
  | liu (d : Reg) (imm : BitVec 20) | pcadd (d : Reg) (imm : BitVec 20)
  -- BR, R73 (off is the offset in halfwords); JAL and JALR, R74
  | beq (a b : Reg) (off : BitVec 12) | bne (a b : Reg) (off : BitVec 12) | blt (a b : Reg) (off : BitVec 12)
  | bge (a b : Reg) (off : BitVec 12) | bltu (a b : Reg) (off : BitVec 12) | bgeu (a b : Reg) (off : BitVec 12)
  | jal (d : Reg) (off : BitVec 20) | jalr (d a : Reg) (imm : BitVec 12)
  -- SFP, R77
  | faddS (d a b : Reg) | fsubS (d a b : Reg) | fmulS (d a b : Reg) | fdivS (d a b : Reg) | fsqrtS (d a : Reg)
  | fminS (d a b : Reg) | fmaxS (d a b : Reg) | feqS (d a b : Reg) | fltS (d a b : Reg) | fcvtSL (d a : Reg)
  | fcvtLS (d a : Reg) | fcvtSD (d a : Reg) | faddD (d a b : Reg) | fsubD (d a b : Reg) | fmulD (d a b : Reg)
  | fdivD (d a b : Reg) | fsqrtD (d a : Reg) | fcvtDS (d a : Reg) | fcvtDL (d a : Reg) | fcvtLD (d a : Reg)
  -- Compressed, R48 (off is the offset in halfwords)
  | hAddi (d : Reg) (imm : BitVec 6) | hLi (d : Reg) (imm : BitVec 6)
  | hSlli (d : Reg) (sh : Fin 64) | hLiu (d : Reg) (imm : BitVec 6)
  | hMov (d a : Reg) | hNop | hAdd (d a : Reg) | hSub (d a : Reg)
  | hBz (a : Fin 8) (off : BitVec 8) | hBnz (a : Fin 8) (off : BitVec 8) | hJmp (off : BitVec 11)
  | hJmpr (a : Reg)
  -- Events: rows without an encoding (spec/95)
  | trapEntry (t : TrapInfo) | queueStall | waitEnd
  | microOperationStart (die core bed cost : Nat) | microOperationEnd (die core bed : Nat)
  | loadRowDelivery | storeRowDrain
  | copyProgress (c : Fin 8) (n : Nat) | copyFaultHeld (c : Fin 8) | cpyXGroupWrite (c : Fin 8)
  | grammarResult | accessionAppend (p : Fin 16) | batchDurable (p : Fin 16)
  | sealCompletion (v : Nat) (corrupt : Bool) | dropCompletion (v : Nat) | attestationBlock
  | preemption (gang : Nat) | contextRestore (gang : Nat) | migration | quantumExpiry (gang : Nat)
  | waitConditionEvaluation (queue : Nat) | packetTake (queue : Nat) | gangSowing (gang : Nat)
  | launchCompletion (gang : Nat)
  | wqtailWrite (by_ : Agent) (queue : Nat) (v : W64) | wqbaseWrite (by_ : Agent) (queue : Nat) (v : W64)
  | wqctlWrite (by_ : Agent) (queue : Nat) (v : W64) | wqstatWrite (by_ : Agent) (queue : Nat) (v : W64)
  | ldrainWrite (by_ : Agent) (p : Fin 16) (v : W64) | lsignWrite (by_ : Agent) (p : Fin 16) (v : W64)
  | signedStatement (p : Fin 16) | registerWrite (by_ : Agent) (addr : Nat) (v : W64)
  | loadCodeObject | unload | attestDevice | setPackageNumber | releaseFencedFrame | setTripPoint | setQuantum
  | mailboxCompletion
  | reset (b : BootInfo) | thermalRefresh (die core : Nat) (reading : BitVec 16) | powerLimitThrottle (excess : Bool)
  | scrub (addr : Nat) (double : Bool) | flitRetry (die : Nat) (retrainFails : Bool) | cxlLinkDown (port : Nat)
  | fabricReadTimeout (package : Nat)
  | fabricRequest (write : Bool) (addr : Nat) (bytes : List Byte)
  | hostRead (addr : Nat) (size : Nat) | hostWrite (addr : Nat) (bytes : List Byte)
  | migrationRequest (hart : Nat) (reason : Fin 4)
  deriving DecidableEq, Repr

end Sys2Proof
end

