-- ==== Sys2Proof/WellFormed.lean ====
section
/-! DEFINITION. Which operand values an encoding admits: the reserved fields, sub-fields and operand values of R40–R46,
R48 and R53 and of each instruction's own description. An instruction that is not well-formed is reserved: its words
raise ILLEGAL_INSTRUCTION. -/

namespace Sys2Proof

/-- What a vd, va or vb field of the V format holds, for the reserved rules of R42, R44 and R45. -/
inductive VField where
  /-- vector register or queue -/
  | vec
  /-- vector register only -/
  | vreg
  /-- mask number, bit 4 zero -/
  | msk
  /-- an x register -/
  | xr
  /-- tag source, class code or immediate: any code below the bound -/
  | code (bound : Nat)
  /-- unused: zero -/
  | none
  deriving DecidableEq, Repr

/-- Register codes a destination field admits (R42: 28 and 29 are reserved). -/
def VField.dest (f : VField) (r : Reg) : Bool :=
  match f with
  | .vec => r.val < 28 || 30 ≤ r.val
  | .vreg => r.val < 28
  | .msk => r.val < 16
  | .xr => true
  | .code n => r.val < n
  | .none => r.val = 0

/-- Register codes and chain bit a source field admits (R42, R44, R45). -/
def VField.src (f : VField) (r : Reg) (chain : Bool) : Bool :=
  match f with
  | .vec => true
  | .vreg => r.val < 28
  | .msk => r.val < 16
  | .xr => !chain
  | .code n => r.val < n && !chain
  | .none => r.val = 0 && !chain

/-- A V-format instruction whose description accepts the mods in `mods` with an optional predicate (R43, R45). -/
def VOps.ok (o : VOps) (d a b : VField) (mods : List Nat) : Bool :=
  d.dest o.vd && a.src o.va o.ca && b.src o.vb o.cb && mods.contains o.mod.val && (o.mod.val != 3 || o.pm.val != 0)

/-- As `VOps.ok`, and the .XM flag mask is not the mask destination (R124). -/
def VOps.okMask (o : VOps) (a b : VField) (mods : List Nat) : Bool :=
  o.ok .msk a b mods && (o.mod.val != 2 || o.vd.val != 8 + o.pm.val)

/-- A V-format instruction that takes no predicate: mk = 0 and a mod of `mods`. -/
def VOps.okPlain (o : VOps) (d a b : VField) (mods : List Nat) : Bool :=
  o.ok d a b mods && o.pm.val = 0

/-- VMERGE and VMERGE.X: mk selects and must not be 0 (R136). -/
def VOps.okSelect (o : VOps) (b : VField) : Bool :=
  o.ok .vec .vec b [0] && o.pm.val != 0

/-- The AMO forms other than LDA and STL (R40): scope 0 unless acquire or release is set; codes 5 to 7 reserved. -/
def AmoOps.okRmw (o : AmoOps) : Bool :=
  o.scope.val < 5 && (o.aq || o.rl || o.scope.val = 0)

/-- LDA and STL (R40): bits [6:5] reserved, any scope 0 to 4. -/
def AmoOps.okLs (o : AmoOps) : Bool :=
  o.scope.val < 5 && !o.aq && !o.rl

/-- VM forms with a memory kind in sub (R236) and xb unused. -/
def VMOps.okNoXb (o : VMOps) : Bool := o.xb.val = 0

/-- A VST form: queue values 2 and 3 are reserved (R46). -/
def VMOps.okSq (o : VMOps) : Bool := o.q.val < 2

/-- System register numbers of R181. -/
def sysRegKnown (n : BitVec 11) : Bool :=
  [0x000, 0x001, 0x002, 0x003, 0x004, 0x005, 0x006, 0x007, 0x010, 0x011, 0x020, 0x021, 0x022, 0x023,
   0x030, 0x031, 0x032, 0x033].contains n.toNat

/-- The rows of the opcode table without an encoding: events of other agents. -/
def Instr.isEvent (i : Instr) : Bool :=
  match i with
  | .trapEntry .. | .queueStall | .waitEnd | .microOperationStart .. | .microOperationEnd .. | .loadRowDelivery
  | .storeRowDrain | .copyProgress .. | .copyFaultHeld .. | .cpyXGroupWrite .. | .grammarResult | .accessionAppend ..
  | .batchDurable .. | .sealCompletion .. | .dropCompletion .. | .attestationBlock | .preemption .. | .contextRestore ..
  | .migration | .quantumExpiry .. | .waitConditionEvaluation .. | .packetTake .. | .gangSowing .. | .launchCompletion ..
  | .wqtailWrite .. | .wqbaseWrite .. | .wqctlWrite .. | .wqstatWrite .. | .ldrainWrite .. | .lsignWrite ..
  | .signedStatement .. | .registerWrite .. | .loadCodeObject | .unload | .attestDevice | .setPackageNumber
  | .releaseFencedFrame | .setTripPoint | .setQuantum | .mailboxCompletion | .reset .. | .thermalRefresh ..
  | .powerLimitThrottle .. | .scrub .. | .flitRetry .. | .cxlLinkDown .. | .fabricReadTimeout .. | .fabricRequest ..
  | .hostRead .. | .hostWrite .. | .migrationRequest .. => true
  | _ => false

/-- Every field of the encoding holds a value that is not reserved. -/
def wellFormed (i : Instr) : Bool :=
  match i with
  | .amoswp o | .amoadd o | .amoand o | .amoor o | .amoxor o | .amomin o | .amomax o | .amominu o | .amomaxu o
  | .amocas o => o.okRmw
  | .lda o => o.okLs && o.b.val = 0
  | .stl o => o.okLs && o.d.val = 0
  | .srd _ n | .swr _ _ n | .srset _ _ n | .srclr _ _ n => sysRegKnown n
  | .fence scope set => scope.val < 5 && set.val != 0
  | .shapeM _ _ _ t => 28 ≤ t.val
  | .vtag n _ => n.val < 28
  | .qcfg q _ => q.val < 6
  | .getsh _ sel n =>
    if sel.val = 12 then n.val < 28 else if sel.val = 13 then n.val < 4 else if sel.val = 14 then n.val < 2
    else sel.val < 12 && n.val = 0
  | .vldU o | .vldFF o => o.okNoXb
  | .vldS _ => true
  | .vldX o | .vldXO o => o.okNoXb
  | .vldSeg o => o.sub.val != 0
  | .vldC o => o.sub.val = 0 && o.xa != o.xb
  | .vtree o => o.sub.val = 0
  | .vstU o => o.okSq && o.okNoXb
  | .vstS o => o.okSq
  | .vstX o | .vstXO o => o.q.val = 0 && o.okNoXb
  | .vstSeg o => o.okSq && o.sub.val != 0
  | .vstC o => o.okSq && o.okNoXb && o.sub.val = 0
  | .vadd o | .vsub o | .vmul o | .vmulh o | .vdiv o | .vmin o | .vmax o => o.ok .vec .vec .vec [0, 1, 2, 3]
  | .vsqrt o => o.ok .vec .vec .none [0, 1, 2, 3]
  | .vaddX o | .vsubX o | .vrsubX o | .vmulX o | .vdivX o | .vrdivX o | .vminX o | .vmaxX o =>
    o.ok .vec .vec .xr [0, 1, 2, 3]
  | .vand o | .vor o | .vxor o => o.ok .vec .vec .vec [0, 2, 3]
  | .vsll o | .vsrl o | .vsra o => o.ok .vec .vec .vec [0, 1, 2, 3]
  | .vmerge o => o.okSelect .vec
  | .vmv o => o.ok .vec .vec .none [0, 3]
  | .vandX o | .vorX o | .vxorX o | .vsllX o | .vsrlX o | .vsraX o => o.ok .vec .vec .xr [0, 1, 2, 3]
  | .vmergeX o => o.okSelect .xr
  | .vsplat o => o.ok .vec .none .xr [0, 2, 3]
  | .vmacc o | .vnmsac o | .vmadd o | .vnmsub o => o.ok .vreg .vec .vec [0, 1, 2, 3]
  | .vmaccX o | .vnmsacX o => o.ok .vreg .vec .xr [0, 1, 2, 3]
  | .vabs o | .vneg o => o.ok .vec .vec .none [0, 1, 2, 3]
  | .vseq o | .vsne o | .vslt o | .vsle o | .vlbnd o => o.okMask .vec .vec [0, 2, 3]
  | .vsltX o | .vsgtX o => o.okMask .vec .xr [0, 1, 2, 3]
  | .vclass o => o.okMask .vec (.code 8) [0, 2, 3]
  | .vcvtH o => o.ok .vec .vec (.code 32) [0, 1, 2, 3]
  | .vcvtD o => o.ok .vec .vec .none [0, 1, 2, 3]
  | .vcvtQ4 o => o.ok .vec .vec .vec [0, 2, 3]
  | .vcvtI o | .vcvtF o | .vcvtT o => o.ok .vec .vec .none [0, 2, 3]
  | .vretag o => o.ok .vec .vec (.code 32) [0, 3]
  | .vredsum o | .vredcol o => o.ok .vec .vec .vec [0, 1, 2]
  | .vredmax o | .vredmin o => o.ok .vec .vec .vec [0, 2]
  | .vredand o | .vredor o => o.ok .vec .vec .vec [0]
  | .vredsc o => VField.vec.dest o.vd && VField.vec.src o.va o.ca && VField.vec.src o.vb o.cb
  | .vscan o => o.ok .vec .vec .vec [0, 1, 2, 3]
  | .vrgath o => o.ok .vec .vec .vec [0, 3]
  | .vslideup o | .vslidedn o | .vslide1up o | .vslide1dn o | .vreshp o => o.okPlain .vec .vec .xr [0]
  | .vcompr o | .vexpm o => o.okPlain .vec .vec .msk [0]
  | .vunpk o | .vpack o => o.ok .vec .vec .xr [0, 2, 3]
  | .vlut o => o.ok .vec .vec .vec [0, 2, 3]
  | .vid o => o.ok .vec .none .xr [0, 1, 2, 3]
  | .vclz o | .vcpop o | .vordk o | .vbrev o => o.ok .vec .vec .none [0, 2, 3]
  | .mand o | .mor o | .mxor o | .mandn o => o.ok .msk .msk .msk [0, 3]
  | .mnot o => o.ok .msk .msk .none [0, 3]
  | .mpopc o | .mfirst o => o.ok .xr .msk .none [0]
  | .mseti o => o.ok .msk (.code 2) .none [0, 3]
  | .vmvx o => o.okPlain .xr .vec .xr [0]
  | .vmvs o => o.okPlain .vreg .xr .xr [0, 1]
  | .mmvx o => o.okPlain .xr .msk .xr [0]
  | .mmvs o => o.okPlain .msk .xr .xr [0]
  | .qstat o => o.okPlain .xr (.code 6) .none [0]
  | .qdrop o => o.okPlain .none (.code 4) .xr [0]
  | .catins o | .catacc o => o.ok .msk .vec .vec [0, 3]
  | .catlkp o => o.ok .vec .vec .msk [0, 3] && !o.cb
  | .catdrn o => o.okPlain .vreg .none .msk [0] && !o.cb
  | .catcnt o => o.okPlain .xr (.code 5) .none [0]
  | .catcfg o => o.okPlain .xr .xr .none [0]
  | .cpyStat _ c sel => sel.val < 5 || (sel.val = 5 && c.val = 0) || sel.val = 6
  | .hAddi d _ | .hLi d _ => d.val != 0
  | .hSlli d _ => d.val != 0
  | .hLiu d imm => d.val != 0 && imm != 0
  | .hMov d _ | .hAdd d _ | .hSub d _ => d.val != 0
  | .hJmpr a => a.val != 0
  | .mrdz vd _ _ => VField.vec.dest vd
  | .mspill _ tile xc => tile.val < 2 || xc.val = 0
  | .mfill tile _ xc => tile.val < 2 || xc.val = 0
  | .mldq o => 1 ≤ o.n.val && o.n.val ≤ 256 && 1 ≤ o.k.val && o.k.val ≤ 32 && 1 ≤ o.t.val && o.t.val ≤ 32
  | .gstat _ _ sel => sel.val < 9
  | .acchead _ sel => sel.val < 11
  | _ => true

/-- Words a decoder may read an instruction from: not an event. -/
def Instr.encodable (i : Instr) : Bool := !i.isEvent

end Sys2Proof
end

