-- ==== Sys2Proof/Decode.lean ====
section
/-! DEFINITION. Decoding (R35–R53): total on any bytes, rejecting by name, and the encoder written from the same
encoding tables. Bits are fields of a natural number, bit 0 the least significant bit of the first halfword. -/

namespace Sys2Proof

/-- Why bytes are not an instruction (R35, R53). -/
inductive Reject where
  /-- fewer bytes than the first halfword announces -/
  | truncated
  /-- major 0x1E or 0x1F, or class 0x04 to 0x1F -/
  | major
  /-- a function code beyond the map -/
  | function
  /-- a reserved field, sub-field or operand value -/
  | field
  deriving DecidableEq, Repr

/-- The five-bit field of `w` that begins at bit `k`. -/
def fld (w k : Nat) : Reg := Fin.ofNat 32 (w / 2 ^ k)

/-- The instruction `i` where the reserved bits `c` speaks of are zero. -/
def guarded (c : Prop) [Decidable c] (i : Instr) : Except Reject Instr :=
  if c then .ok i else .error .field

/-- The fields of the V format (R39). -/
def vOps (w : Nat) : VOps :=
  ⟨fld w 7, fld w 12, fld w 17, Fin.ofNat 8 (w / 2 ^ 22), w / 2 ^ 25 % 2 = 1, w / 2 ^ 26 % 2 = 1, Fin.ofNat 4 (w / 2 ^ 27)⟩

/-- The fields of the VM format (R39). -/
def vmOps (w : Nat) : VMOps :=
  ⟨BitVec.ofNat 7 (w / 2 ^ 22), fld w 17, fld w 12, Fin.ofNat 8 (w / 2 ^ 9), Fin.ofNat 4 (w / 2 ^ 7)⟩

/-- The fields of an AMO word (R40): scope fn10[9:7], release fn10[6], acquire fn10[5], size fn10[4]. -/
def amoOps (w : Nat) : AmoOps :=
  ⟨fld w 7, fld w 12, fld w 17, Fin.ofNat 8 (w / 2 ^ 29), w / 2 ^ 28 % 2 = 1, w / 2 ^ 27 % 2 = 1, w / 2 ^ 26 % 2 = 1⟩

/-- The S and B immediates (R39): [31:25] above [11:7]. -/
def splitImm (w : Nat) : Nat := w / 2 ^ 25 % 128 * 32 + w / 2 ^ 7 % 32

/-- Major 0x00, R69 and R70: fn10 in map order. -/
def decAlu (f : Nat) (d a b : Reg) : Except Reject Instr :=
  match f with
  | 0 => .ok (.add d a b)
  | 1 => .ok (.sub d a b)
  | 2 => .ok (.and d a b)
  | 3 => .ok (.or d a b)
  | 4 => .ok (.xor d a b)
  | 5 => .ok (.sll d a b)
  | 6 => .ok (.srl d a b)
  | 7 => .ok (.sra d a b)
  | 8 => .ok (.slt d a b)
  | 9 => .ok (.sltu d a b)
  | 10 => .ok (.mul d a b)
  | 11 => .ok (.mulh d a b)
  | 12 => .ok (.mulhu d a b)
  | 13 => .ok (.div d a b)
  | 14 => .ok (.divu d a b)
  | 15 => .ok (.rem d a b)
  | 16 => .ok (.remu d a b)
  | 17 => .ok (.min d a b)
  | 18 => .ok (.max d a b)
  | 19 => .ok (.minu d a b)
  | 20 => .ok (.maxu d a b)
  | 21 => .ok (.addw d a b)
  | 22 => .ok (.subw d a b)
  | 23 => guarded (b.val = 0) (.clz d a)
  | 24 => guarded (b.val = 0) (.ctz d a)
  | 25 => guarded (b.val = 0) (.cpop d a)
  | 26 => .ok (.rol d a b)
  | 27 => .ok (.ror d a b)
  | _ => .error .function

/-- SHI (R40, R71): the selector is imm12[11:10], imm12[9:6] is zero. -/
def decShi (f : Nat) (d a : Reg) (imm : Nat) : Except Reject Instr :=
  match f with
  | 0 => guarded (imm / 64 % 16 = 0) (.slli d a (Fin.ofNat 64 imm))
  | 1 => guarded (imm / 64 % 16 = 0) (.srli d a (Fin.ofNat 64 imm))
  | 2 => guarded (imm / 64 % 16 = 0) (.srai d a (Fin.ofNat 64 imm))
  | 3 => guarded (imm / 64 % 16 = 0) (.rori d a (Fin.ofNat 64 imm))
  | _ => .error .function

/-- Major 0x01, R71. -/
def decAlui (f : Nat) (d a : Reg) (imm : Nat) : Except Reject Instr :=
  match f with
  | 0 => .ok (.addi d a (BitVec.ofNat 12 imm))
  | 1 => .ok (.andi d a (BitVec.ofNat 12 imm))
  | 2 => .ok (.ori d a (BitVec.ofNat 12 imm))
  | 3 => .ok (.xori d a (BitVec.ofNat 12 imm))
  | 4 => .ok (.slti d a (BitVec.ofNat 12 imm))
  | 5 => .ok (.sltiu d a (BitVec.ofNat 12 imm))
  | 6 => decShi (imm / 1024 % 4) d a imm
  | 7 => .ok (.addiw d a (BitVec.ofNat 12 imm))
  | _ => .error .function

/-- Major 0x04, R230. -/
def decLd (f : Nat) (d a : Reg) (imm : Nat) : Except Reject Instr :=
  match f with
  | 0 => .ok (.ldb d a (BitVec.ofNat 12 imm))
  | 1 => .ok (.ldh d a (BitVec.ofNat 12 imm))
  | 2 => .ok (.ldw d a (BitVec.ofNat 12 imm))
  | 3 => .ok (.ldd d a (BitVec.ofNat 12 imm))
  | 4 => .ok (.ldbu d a (BitVec.ofNat 12 imm))
  | 5 => .ok (.ldhu d a (BitVec.ofNat 12 imm))
  | 6 => .ok (.ldwu d a (BitVec.ofNat 12 imm))
  | _ => .error .function

/-- Major 0x05, R230. -/
def decSt (f : Nat) (b a : Reg) (imm : Nat) : Except Reject Instr :=
  match f with
  | 0 => .ok (.stb b a (BitVec.ofNat 12 imm))
  | 1 => .ok (.sth b a (BitVec.ofNat 12 imm))
  | 2 => .ok (.stw b a (BitVec.ofNat 12 imm))
  | 3 => .ok (.std b a (BitVec.ofNat 12 imm))
  | _ => .error .function

/-- Major 0x06, R73; the offset is held in halfwords. -/
noncomputable def decBr (f : Nat) (a b : Reg) (off : Nat) : Except Reject Instr :=
  match f with
  | 0 => .ok (.beq a b (BitVec.ofNat 12 off))
  | 1 => .ok (.bne a b (BitVec.ofNat 12 off))
  | 2 => .ok (.blt a b (BitVec.ofNat 12 off))
  | 3 => .ok (.bge a b (BitVec.ofNat 12 off))
  | 4 => .ok (.bltu a b (BitVec.ofNat 12 off))
  | 5 => .ok (.bgeu a b (BitVec.ofNat 12 off))
  | _ => .error .function

/-- Major 0x08, R74. -/
noncomputable def decJalr (f : Nat) (d a : Reg) (imm : Nat) : Except Reject Instr :=
  match f with
  | 0 => .ok (.jalr d a (BitVec.ofNat 12 imm))
  | _ => .error .function

/-- Major 0x09, R77. -/
noncomputable def decSfp (f : Nat) (d a b : Reg) : Except Reject Instr :=
  match f with
  | 0 => .ok (.faddS d a b)
  | 1 => .ok (.fsubS d a b)
  | 2 => .ok (.fmulS d a b)
  | 3 => .ok (.fdivS d a b)
  | 4 => guarded (b.val = 0) (.fsqrtS d a)
  | 5 => .ok (.fminS d a b)
  | 6 => .ok (.fmaxS d a b)
  | 7 => .ok (.feqS d a b)
  | 8 => .ok (.fltS d a b)
  | 9 => guarded (b.val = 0) (.fcvtSL d a)
  | 10 => guarded (b.val = 0) (.fcvtLS d a)
  | 11 => guarded (b.val = 0) (.fcvtSD d a)
  | 12 => .ok (.faddD d a b)
  | 13 => .ok (.fsubD d a b)
  | 14 => .ok (.fmulD d a b)
  | 15 => .ok (.fdivD d a b)
  | 16 => guarded (b.val = 0) (.fsqrtD d a)
  | 17 => guarded (b.val = 0) (.fcvtDS d a)
  | 18 => guarded (b.val = 0) (.fcvtDL d a)
  | 19 => guarded (b.val = 0) (.fcvtLD d a)
  | _ => .error .function

/-- Major 0x0A, R233: the function code is fn10[3:0]. -/
def decAmo (f : Nat) (o : AmoOps) : Except Reject Instr :=
  match f with
  | 0 => .ok (.amoswp o)
  | 1 => .ok (.amoadd o)
  | 2 => .ok (.amoand o)
  | 3 => .ok (.amoor o)
  | 4 => .ok (.amoxor o)
  | 5 => .ok (.amomin o)
  | 6 => .ok (.amomax o)
  | 7 => .ok (.amominu o)
  | 8 => .ok (.amomaxu o)
  | 9 => .ok (.amocas o)
  | 10 => .ok (.lda o)
  | 11 => .ok (.stl o)
  | _ => .error .function

/-- Major 0x0B (R40, R190, R221, R302, R353): `f` is fn10[3:0], `hi` is fn10[9:4]. -/
def decSys (f hi : Nat) (d a b : Reg) : Except Reject Instr :=
  match f with
  | 0 => guarded (hi = 0 ∧ d.val = 0 ∧ a.val = 0 ∧ b.val = 0) .ecall
  | 1 => guarded (hi = 0 ∧ d.val = 0 ∧ a.val = 0 ∧ b.val = 0) .ebreak
  | 2 => guarded (hi = 0 ∧ d.val = 0 ∧ a.val = 0 ∧ b.val = 0) .eret
  | 3 => guarded (a.val = 0) (.srd d (BitVec.ofNat 11 (hi * 32 + b.val)))
  | 4 => .ok (.swr d a (BitVec.ofNat 11 (hi * 32 + b.val)))
  | 5 => .ok (.srset d a (BitVec.ofNat 11 (hi * 32 + b.val)))
  | 6 => .ok (.srclr d a (BitVec.ofNat 11 (hi * 32 + b.val)))
  | 7 => guarded (hi = 0 ∧ d.val = 0 ∧ a.val < 8 ∧ b.val < 8) (.fence (Fin.ofNat 8 a.val) (Fin.ofNat 8 b.val))
  | 8 => guarded (hi = 0 ∧ d.val = 0) (.icinvR a b)
  | 9 => guarded (hi = 0 ∧ d.val = 0) (.tlbinv a b)
  | 10 => guarded (hi = 0 ∧ b.val = 0) (.waite d a)
  | _ => .error .function

/-- Major 0x0C, R356 and R292. -/
def decSync (f : Nat) (d a b : Reg) : Except Reject Instr :=
  match f with
  | 0 => guarded (b.val = 0) (.barArm d a)
  | 1 => guarded (a.val = 0 ∧ b.val = 0) (.barArv d)
  | 2 => guarded (a.val = 0 ∧ b.val = 0) (.barWt d)
  | 3 => guarded (a.val = 0 ∧ b.val = 0) (.barSync d)
  | 4 => guarded (a.val = 0 ∧ b.val = 0) (.barDrop d)
  | 5 => .ok (.fork d a b)
  | 6 => guarded (a.val = 0 ∧ b.val = 0) (.join d)
  | 7 => .ok (.waitc d a b)
  | 8 => .ok (.launch d a b)
  | 9 => .ok (.safept d a b)
  | 10 => guarded (a.val = 0 ∧ b.val = 0) (.yield d)
  | 11 => guarded (d.val = 0 ∧ a.val = 0 ∧ b.val = 0) .halt
  | _ => .error .function

/-- Major 0x0D (R40, R108): the function code is fn10[3:0], the tag source fn10[8:4]. -/
def decShape (f : Nat) (d a b t : Reg) : Except Reject Instr :=
  match f with
  | 0 => .ok (.shape d a b t)
  | 1 => .ok (.shapeM d a b t)
  | 2 => .ok (.shapeG d a b t)
  | 3 => guarded (t.val = 0 ∧ b.val = 0) (.vtag d a)
  | 4 => guarded (t.val = 0 ∧ b.val = 0) (.qcfg d a)
  | 5 => guarded (t.val = 0) (.mxon d a b)
  | 6 => guarded (t.val = 0 ∧ d.val = 0 ∧ a.val = 0 ∧ b.val = 0) .mxoff
  | 7 => guarded (t.val = 0) (.getsh d a b)
  | _ => .error .function

/-- Major 0x0E, R235. -/
def decVld (f : Nat) (o : VMOps) : Except Reject Instr :=
  match f with
  | 0 => .ok (.vldU o)
  | 1 => .ok (.vldS o)
  | 2 => .ok (.vldX o)
  | 3 => .ok (.vldXO o)
  | 4 => .ok (.vldSeg o)
  | 5 => .ok (.vldC o)
  | 6 => .ok (.vldFF o)
  | 7 => .ok (.vtree o)
  | _ => .error .function

/-- Major 0x0F, R235. -/
def decVst (f : Nat) (o : VMOps) : Except Reject Instr :=
  match f with
  | 0 => .ok (.vstU o)
  | 1 => .ok (.vstS o)
  | 2 => .ok (.vstX o)
  | 3 => .ok (.vstXO o)
  | 4 => .ok (.vstSeg o)
  | 5 => .ok (.vstC o)
  | _ => .error .function

/-- Major 0x10, in the order of R50. -/
def decVarith (f : Nat) (o : VOps) : Except Reject Instr :=
  match f with
  | 0 => .ok (.vadd o)
  | 1 => .ok (.vsub o)
  | 2 => .ok (.vmul o)
  | 3 => .ok (.vmulh o)
  | 4 => .ok (.vdiv o)
  | 5 => .ok (.vmin o)
  | 6 => .ok (.vmax o)
  | 7 => .ok (.vsqrt o)
  | _ => .error .function

/-- Major 0x11, in the order of R50. -/
def decVarithX (f : Nat) (o : VOps) : Except Reject Instr :=
  match f with
  | 0 => .ok (.vaddX o)
  | 1 => .ok (.vsubX o)
  | 2 => .ok (.vrsubX o)
  | 3 => .ok (.vmulX o)
  | 4 => .ok (.vdivX o)
  | 5 => .ok (.vrdivX o)
  | 6 => .ok (.vminX o)
  | 7 => .ok (.vmaxX o)
  | _ => .error .function

/-- Major 0x12, in the order of R50. -/
def decVlogic (f : Nat) (o : VOps) : Except Reject Instr :=
  match f with
  | 0 => .ok (.vand o)
  | 1 => .ok (.vor o)
  | 2 => .ok (.vxor o)
  | 3 => .ok (.vsll o)
  | 4 => .ok (.vsrl o)
  | 5 => .ok (.vsra o)
  | 6 => .ok (.vmerge o)
  | 7 => .ok (.vmv o)
  | _ => .error .function

/-- Major 0x13, in the order of R50. -/
def decVlogicX (f : Nat) (o : VOps) : Except Reject Instr :=
  match f with
  | 0 => .ok (.vandX o)
  | 1 => .ok (.vorX o)
  | 2 => .ok (.vxorX o)
  | 3 => .ok (.vsllX o)
  | 4 => .ok (.vsrlX o)
  | 5 => .ok (.vsraX o)
  | 6 => .ok (.vmergeX o)
  | 7 => .ok (.vsplat o)
  | _ => .error .function

/-- Major 0x14, in the order of R50. -/
def decVmac (f : Nat) (o : VOps) : Except Reject Instr :=
  match f with
  | 0 => .ok (.vmacc o)
  | 1 => .ok (.vnmsac o)
  | 2 => .ok (.vmadd o)
  | 3 => .ok (.vnmsub o)
  | 4 => .ok (.vmaccX o)
  | 5 => .ok (.vnmsacX o)
  | 6 => .ok (.vabs o)
  | 7 => .ok (.vneg o)
  | _ => .error .function

/-- Major 0x15, in the order of R50. -/
def decVcmp (f : Nat) (o : VOps) : Except Reject Instr :=
  match f with
  | 0 => .ok (.vseq o)
  | 1 => .ok (.vsne o)
  | 2 => .ok (.vslt o)
  | 3 => .ok (.vsle o)
  | 4 => .ok (.vsltX o)
  | 5 => .ok (.vsgtX o)
  | 6 => .ok (.vlbnd o)
  | 7 => .ok (.vclass o)
  | _ => .error .function

/-- Major 0x16, in the order of R50. -/
def decVcvt (f : Nat) (o : VOps) : Except Reject Instr :=
  match f with
  | 0 => .ok (.vcvtH o)
  | 1 => .ok (.vcvtD o)
  | 2 => .ok (.vcvtQ4 o)
  | 3 => .ok (.vcvtI o)
  | 4 => .ok (.vcvtF o)
  | 5 => .ok (.vcvtT o)
  | 6 => .ok (.vretag o)
  | _ => .error .function

/-- Major 0x17, in the order of R50. -/
def decVred (f : Nat) (o : VOps) : Except Reject Instr :=
  match f with
  | 0 => .ok (.vredsum o)
  | 1 => .ok (.vredmax o)
  | 2 => .ok (.vredmin o)
  | 3 => .ok (.vredand o)
  | 4 => .ok (.vredor o)
  | 5 => .ok (.vredsc o)
  | 6 => .ok (.vscan o)
  | 7 => .ok (.vredcol o)
  | _ => .error .function

/-- Major 0x18, in the order of R50. -/
def decVperm (f : Nat) (o : VOps) : Except Reject Instr :=
  match f with
  | 0 => .ok (.vrgath o)
  | 1 => .ok (.vslideup o)
  | 2 => .ok (.vslidedn o)
  | 3 => .ok (.vslide1up o)
  | 4 => .ok (.vslide1dn o)
  | 5 => .ok (.vcompr o)
  | 6 => .ok (.vexpm o)
  | 7 => .ok (.vreshp o)
  | _ => .error .function

/-- Major 0x19, in the order of R50. -/
def decVxfm (f : Nat) (o : VOps) : Except Reject Instr :=
  match f with
  | 0 => .ok (.vunpk o)
  | 1 => .ok (.vpack o)
  | 2 => .ok (.vlut o)
  | 3 => .ok (.vid o)
  | 4 => .ok (.vclz o)
  | 5 => .ok (.vcpop o)
  | 6 => .ok (.vordk o)
  | 7 => .ok (.vbrev o)
  | _ => .error .function

/-- Major 0x1A, in the order of R50. -/
def decVmsk (f : Nat) (o : VOps) : Except Reject Instr :=
  match f with
  | 0 => .ok (.mand o)
  | 1 => .ok (.mor o)
  | 2 => .ok (.mxor o)
  | 3 => .ok (.mandn o)
  | 4 => .ok (.mnot o)
  | 5 => .ok (.mpopc o)
  | 6 => .ok (.mfirst o)
  | 7 => .ok (.mseti o)
  | _ => .error .function

/-- Major 0x1B, in the order of R50. -/
def decVscl (f : Nat) (o : VOps) : Except Reject Instr :=
  match f with
  | 0 => .ok (.vmvx o)
  | 1 => .ok (.vmvs o)
  | 2 => .ok (.mmvx o)
  | 3 => .ok (.mmvs o)
  | 4 => .ok (.qstat o)
  | 5 => .ok (.qdrop o)
  | _ => .error .function

/-- Major 0x1C, in the order of R50. -/
def decCat (f : Nat) (o : VOps) : Except Reject Instr :=
  match f with
  | 0 => .ok (.catins o)
  | 1 => .ok (.catlkp o)
  | 2 => .ok (.catacc o)
  | 3 => .ok (.catdrn o)
  | 4 => guarded (o = ⟨0, 0, 0, 0, false, false, 0⟩) .catclr
  | 5 => .ok (.catcnt o)
  | 6 => .ok (.catcfg o)
  | _ => .error .function

/-- Major 0x1D, R259. -/
def decCopy (f : Nat) (d a b : Reg) : Except Reject Instr :=
  match f with
  | 0 => .ok (.cpyG d a b)
  | 1 => .ok (.cpyP d a b)
  | 2 => .ok (.cpyX d a b)
  | 3 => .ok (.cpyIX d a b)
  | 4 => guarded (a.val < 8) (.cpyWait d (Fin.ofNat 8 a.val) b)
  | 5 => guarded (a.val < 8) (.cpyStat d (Fin.ofNat 8 a.val) b)
  | 6 => guarded (a.val < 8 ∧ b.val = 0) (.cpyAbort d (Fin.ofNat 8 a.val))
  | 7 => guarded (a.val < 8) (.cpyFill d (Fin.ofNat 8 a.val) b)
  | _ => .error .function

/-- Quadrant 0 of R48, by fn3. -/
noncomputable def decQ0 (f h : Nat) : Except Reject Instr :=
  match f with
  | 0 => .ok (.hAddi (fld h 8) (BitVec.ofNat 6 (h / 4)))
  | 1 => .ok (.hLi (fld h 8) (BitVec.ofNat 6 (h / 4)))
  | 2 => .ok (.hLdd (Fin.ofNat 8 (h / 4)) (Fin.ofNat 8 (h / 32)) (fld h 8))
  | 3 => .ok (.hStd (Fin.ofNat 8 (h / 4)) (Fin.ofNat 8 (h / 32)) (fld h 8))
  | 4 => .ok (.hLdw (Fin.ofNat 8 (h / 4)) (Fin.ofNat 8 (h / 32)) (fld h 8))
  | 5 => .ok (.hStw (Fin.ofNat 8 (h / 4)) (Fin.ofNat 8 (h / 32)) (fld h 8))
  | 6 => .ok (.hSlli (fld h 8) (Fin.ofNat 64 (h / 4)))
  | 7 => .ok (.hLiu (fld h 8) (BitVec.ofNat 6 (h / 4)))
  | _ => .error .function

/-- Quadrant 1 of R48, by fn3. -/
noncomputable def decQ1 (f h : Nat) : Except Reject Instr :=
  match f with
  | 0 => if h = 0x0001 then .ok .hNop else guarded (h / 4 % 2 = 0) (.hMov (fld h 8) (fld h 3))
  | 1 => guarded (h / 4 % 2 = 0) (.hAdd (fld h 8) (fld h 3))
  | 2 => guarded (h / 4 % 2 = 0) (.hSub (fld h 8) (fld h 3))
  | 3 => .ok (.hBz (Fin.ofNat 8 (h / 1024)) (BitVec.ofNat 8 (h / 4)))
  | 4 => .ok (.hBnz (Fin.ofNat 8 (h / 1024)) (BitVec.ofNat 8 (h / 4)))
  | 5 => .ok (.hJmp (BitVec.ofNat 11 (h / 4)))
  | 6 => guarded (h / 4 % 64 = 0) (.hJmpr (fld h 8))
  | 7 => guarded (h / 4 % 2048 = 0) .hBrk
  | _ => .error .function

/-- Class 0x00, R168 and R178. -/
def decMatrix (f : Nat) (a b c d : Reg) (w1 : Nat) : Except Reject Instr :=
  match f with
  | 0 => guarded (d.val < 4 ∧ a.val = 0 ∧ b.val = 0 ∧ c.val = 0 ∧ w1 = 0) (.mzero (Fin.ofNat 4 d.val))
  | 1 => guarded (d.val < 2 ∧ c.val = 0 ∧ w1 < 4) (.mopa (Fin.ofNat 2 d.val) a b (w1 % 2 = 1) (w1 / 2 % 2 = 1))
  | 2 => guarded (d.val < 2 ∧ c.val = 0 ∧ w1 < 4) (.mops (Fin.ofNat 2 d.val) a b (w1 % 2 = 1) (w1 / 2 % 2 = 1))
  | 3 => guarded (d.val < 2 ∧ a.val < 2 ∧ b.val = 0 ∧ c.val = 0 ∧ w1 < 4) (.mblk (Fin.ofNat 2 d.val) (Fin.ofNat 2 a.val) (w1 % 2 = 1) (w1 / 2 % 2 = 1))
  | 4 => guarded (a.val < 2 ∧ c.val = 0 ∧ w1 = 0) (.mrdz d (Fin.ofNat 2 a.val) b)
  | 5 => guarded (d.val < 2 ∧ a.val < 4 ∧ b.val = 0 ∧ w1 = 0) (.mspill (Fin.ofNat 2 d.val) (Fin.ofNat 4 a.val) c)
  | 6 => guarded (d.val < 4 ∧ a.val < 4 ∧ b.val = 0 ∧ w1 = 0) (.mfill (Fin.ofNat 4 d.val) (Fin.ofNat 4 a.val) c)
  | 7 => guarded (d.val < 4 ∧ w1 < 16777216) (.mldq ⟨Fin.ofNat 4 d.val, a, b, c, Fin.ofNat 512 w1, Fin.ofNat 64 (w1 / 512), Fin.ofNat 64 (w1 / 32768), Fin.ofNat 8 (w1 / 2097152)⟩)
  | _ => .error .function

/-- Class 0x01, R327. -/
def decGrammar (f : Nat) (a b c d : Reg) (w1 : Nat) : Except Reject Instr :=
  match f with
  | 0 => guarded (w1 = 0) (.gopen d a b c)
  | 1 => guarded (c.val = 0 ∧ w1 = 0) (.gadv d a b)
  | 2 => guarded (d.val < 16 ∧ b.val = 0 ∧ c.val = 0 ∧ w1 = 0) (.gmask (Fin.ofNat 16 d.val) a)
  | 3 => guarded (d.val < 16 ∧ b.val < 16 ∧ c.val = 0 ∧ w1 = 0) (.gmaskM (Fin.ofNat 16 d.val) a (Fin.ofNat 16 b.val))
  | 4 => guarded (b.val = 0 ∧ c.val = 0 ∧ w1 = 0) (.gckpt d a)
  | 5 => guarded (c.val = 0 ∧ w1 = 0) (.groll d a b)
  | 6 => guarded (b.val = 0 ∧ c.val = 0 ∧ w1 = 0) (.gfork d a)
  | 7 => guarded (d.val = 0 ∧ b.val = 0 ∧ c.val = 0 ∧ w1 = 0) (.gfree a)
  | 8 => guarded (b.val = 0 ∧ c.val = 0 ∧ w1 < 32) (.gstat d a (Fin.ofNat 32 w1))
  | _ => .error .function

/-- Class 0x02, R342. -/
def decAccession (f : Nat) (a b c d : Reg) (w1 : Nat) : Except Reject Instr :=
  match f with
  | 0 => guarded (d.val = 0 ∧ c.val = 0 ∧ w1 = 0) (.acclog a b)
  | 1 => guarded (a.val = 0 ∧ b.val = 0 ∧ c.val = 0 ∧ w1 = 0) (.accsync d)
  | 2 => guarded (a.val = 0 ∧ b.val = 0 ∧ c.val = 0 ∧ w1 < 32) (.acchead d (Fin.ofNat 32 w1))
  | _ => .error .function

/-- Class 0x03, R306. -/
def decVitrine (f : Nat) (a b c d : Reg) (w1 : Nat) : Except Reject Instr :=
  match f with
  | 0 => guarded (w1 = 0) (.vtseal d a b c)
  | 1 => guarded (d.val = 0 ∧ w1 = 0) (.vtatt a b c)
  | 2 => guarded (d.val = 0 ∧ b.val = 0 ∧ w1 = 0) (.vtdrop a c)
  | 3 => guarded (b.val = 0 ∧ c.val = 0 ∧ w1 < 32) (.vtqry d a (Fin.ofNat 32 w1))
  | _ => .error .function

/-- A 32-bit word whose low bits are 10, by its major opcode (R39, R50), before the operand checks. -/
noncomputable def decMajor (m w : Nat) : Except Reject Instr :=
  match m with
  | 0x00 => decAlu (w / 2 ^ 22 % 1024) (fld w 7) (fld w 12) (fld w 17)
  | 0x01 => decAlui (w / 2 ^ 17 % 8) (fld w 7) (fld w 12) (w / 2 ^ 20 % 4096)
  | 0x02 => .ok (.liu (fld w 7) (BitVec.ofNat 20 (w / 2 ^ 12)))
  | 0x03 => .ok (.pcadd (fld w 7) (BitVec.ofNat 20 (w / 2 ^ 12)))
  | 0x04 => decLd (w / 2 ^ 17 % 8) (fld w 7) (fld w 12) (w / 2 ^ 20)
  | 0x05 => decSt (w / 2 ^ 17 % 8) (fld w 20) (fld w 12) (splitImm w)
  | 0x06 => decBr (w / 2 ^ 17 % 8) (fld w 12) (fld w 20) (splitImm w)
  | 0x07 => .ok (.jal (fld w 7) (BitVec.ofNat 20 (w / 2 ^ 12)))
  | 0x08 => decJalr (w / 2 ^ 17 % 8) (fld w 7) (fld w 12) (w / 2 ^ 20)
  | 0x09 => decSfp (w / 2 ^ 22 % 1024) (fld w 7) (fld w 12) (fld w 17)
  | 0x0A => decAmo (w / 2 ^ 22 % 16) (amoOps w)
  | 0x0B => decSys (w / 2 ^ 22 % 16) (w / 2 ^ 26 % 64) (fld w 7) (fld w 12) (fld w 17)
  | 0x0C => decSync (w / 2 ^ 22 % 1024) (fld w 7) (fld w 12) (fld w 17)
  | 0x0D => if w / 2 ^ 31 % 2 = 0 then decShape (w / 2 ^ 22 % 16) (fld w 7) (fld w 12) (fld w 17) (fld w 26)
            else .error .function
  | 0x0E => decVld (w / 2 ^ 29 % 8) (vmOps w)
  | 0x0F => decVst (w / 2 ^ 29 % 8) (vmOps w)
  | 0x10 => decVarith (w / 2 ^ 29 % 8) (vOps w)
  | 0x11 => decVarithX (w / 2 ^ 29 % 8) (vOps w)
  | 0x12 => decVlogic (w / 2 ^ 29 % 8) (vOps w)
  | 0x13 => decVlogicX (w / 2 ^ 29 % 8) (vOps w)
  | 0x14 => decVmac (w / 2 ^ 29 % 8) (vOps w)
  | 0x15 => decVcmp (w / 2 ^ 29 % 8) (vOps w)
  | 0x16 => decVcvt (w / 2 ^ 29 % 8) (vOps w)
  | 0x17 => decVred (w / 2 ^ 29 % 8) (vOps w)
  | 0x18 => decVperm (w / 2 ^ 29 % 8) (vOps w)
  | 0x19 => decVxfm (w / 2 ^ 29 % 8) (vOps w)
  | 0x1A => decVmsk (w / 2 ^ 29 % 8) (vOps w)
  | 0x1B => decVscl (w / 2 ^ 29 % 8) (vOps w)
  | 0x1C => decCat (w / 2 ^ 29 % 8) (vOps w)
  | 0x1D => decCopy (w / 2 ^ 22 % 1024) (fld w 7) (fld w 12) (fld w 17)
  | _ => .error .major

/-- A 64-bit encoding (R47, R51): word 0 `w`, word 1 `w1`, by its class. -/
noncomputable def decClass (k w w1 : Nat) : Except Reject Instr :=
  match k with
  | 0x00 => decMatrix (w / 2 ^ 7 % 32) (fld w 12) (fld w 17) (fld w 22) (fld w 27) w1
  | 0x01 => decGrammar (w / 2 ^ 7 % 32) (fld w 12) (fld w 17) (fld w 22) (fld w 27) w1
  | 0x02 => decAccession (w / 2 ^ 7 % 32) (fld w 12) (fld w 17) (fld w 22) (fld w 27) w1
  | 0x03 => decVitrine (w / 2 ^ 7 % 32) (fld w 12) (fld w 17) (fld w 22) (fld w 27) w1
  | _ => .error .major

/-- The length in bytes that the first halfword announces (R35). -/
def lengthOf (h : Nat) : Nat :=
  match h % 4 with
  | 0 => 2
  | 1 => 2
  | 2 => 4
  | _ => 8

/-- The instruction whose bits are `w`, of the length that bits [1:0] announce, before the operand checks. -/
noncomputable def decRaw (w : Nat) : Except Reject Instr :=
  match w % 4 with
  | 0 => decQ0 (w / 2 ^ 13 % 8) (w % 65536)
  | 1 => decQ1 (w / 2 ^ 13 % 8) (w % 65536)
  | 2 => decMajor (w / 4 % 32) (w % 2 ^ 32)
  | _ => decClass (w / 4 % 32) (w % 2 ^ 32) (w / 2 ^ 32 % 2 ^ 32)

/-- The decoder (R35–R53): the instruction in `w`, or the name of the rejection. Bits of `w` above the announced length
are not looked at. -/
noncomputable def decodeBits (w : Nat) : Except Reject Instr :=
  match decRaw w with
  | .ok i => if wellFormed i then .ok i else .error .field
  | .error r => .error r

/-- Decoding of bytes: the instruction at their head and the bytes after it. -/
noncomputable def decodeBytes (l : List Byte) : Except Reject (Instr × List Byte) :=
  match l with
  | b :: _ :: _ =>
    let n := lengthOf b.toNat
    if l.length < n then .error .truncated
    else match decodeBits (Machine.leNat (l.take n)) with
      | .ok i => .ok (i, l.drop n)
      | .error r => .error r
  | _ => .error .truncated

/-- The R format (R39). -/
def encR (m f d a b : Nat) : Nat := 2 + 4 * m + 2 ^ 7 * d + 2 ^ 12 * a + 2 ^ 17 * b + 2 ^ 22 * f

/-- The I format (R39). -/
def encI (m f d a imm : Nat) : Nat := 2 + 4 * m + 2 ^ 7 * d + 2 ^ 12 * a + 2 ^ 17 * f + 2 ^ 20 * imm

/-- The S and B formats (R39): the immediate is split into [11:7] and [31:25]. -/
def encS (m f a b imm : Nat) : Nat :=
  2 + 4 * m + 2 ^ 7 * (imm % 32) + 2 ^ 12 * a + 2 ^ 17 * f + 2 ^ 20 * b + 2 ^ 25 * (imm / 32)

/-- The U and J formats (R39). -/
def encU (m d imm : Nat) : Nat := 2 + 4 * m + 2 ^ 7 * d + 2 ^ 12 * imm

/-- The V format (R39). -/
def encV (m f : Nat) (o : VOps) : Nat :=
  2 + 4 * m + 2 ^ 7 * o.vd.val + 2 ^ 12 * o.va.val + 2 ^ 17 * o.vb.val + 2 ^ 22 * o.pm.val + 2 ^ 25 * o.ca.toNat
    + 2 ^ 26 * o.cb.toNat + 2 ^ 27 * o.mod.val + 2 ^ 29 * f

/-- The VM format (R39). -/
def encVM (m f : Nat) (o : VMOps) : Nat :=
  2 + 4 * m + 2 ^ 7 * o.q.val + 2 ^ 9 * o.sub.val + 2 ^ 12 * o.xa.val + 2 ^ 17 * o.xb.val + 2 ^ 22 * o.imm7.toNat + 2 ^ 29 * f

/-- fn10 above the function code of an AMO word (R40). -/
def encAmo (o : AmoOps) : Nat :=
  16 * o.dbl.toNat + 32 * o.aq.toNat + 64 * o.rl.toNat + 128 * o.scope.val

/-- A 64-bit encoding (R47). -/
def encL (k f a b c d w1 : Nat) : Nat :=
  3 + 4 * k + 2 ^ 7 * f + 2 ^ 12 * a + 2 ^ 17 * b + 2 ^ 22 * c + 2 ^ 27 * d + 2 ^ 32 * w1

/-- A compressed encoding (R48): quadrant, fn3, and bits [12:2] already in place. -/
def encH (q f body : Nat) : Nat := q + body + 2 ^ 13 * f

/-- The words of an instruction, as one number (R39–R48); an event has none. -/
def encode (i : Instr) : Nat :=
  match i with
  | .add d a b => encR 0x00 0 d.val a.val b.val
  | .sub d a b => encR 0x00 1 d.val a.val b.val
  | .and d a b => encR 0x00 2 d.val a.val b.val
  | .or d a b => encR 0x00 3 d.val a.val b.val
  | .xor d a b => encR 0x00 4 d.val a.val b.val
  | .sll d a b => encR 0x00 5 d.val a.val b.val
  | .srl d a b => encR 0x00 6 d.val a.val b.val
  | .sra d a b => encR 0x00 7 d.val a.val b.val
  | .slt d a b => encR 0x00 8 d.val a.val b.val
  | .sltu d a b => encR 0x00 9 d.val a.val b.val
  | .mul d a b => encR 0x00 10 d.val a.val b.val
  | .mulh d a b => encR 0x00 11 d.val a.val b.val
  | .mulhu d a b => encR 0x00 12 d.val a.val b.val
  | .div d a b => encR 0x00 13 d.val a.val b.val
  | .divu d a b => encR 0x00 14 d.val a.val b.val
  | .rem d a b => encR 0x00 15 d.val a.val b.val
  | .remu d a b => encR 0x00 16 d.val a.val b.val
  | .min d a b => encR 0x00 17 d.val a.val b.val
  | .max d a b => encR 0x00 18 d.val a.val b.val
  | .minu d a b => encR 0x00 19 d.val a.val b.val
  | .maxu d a b => encR 0x00 20 d.val a.val b.val
  | .addw d a b => encR 0x00 21 d.val a.val b.val
  | .subw d a b => encR 0x00 22 d.val a.val b.val
  | .clz d a => encR 0x00 23 d.val a.val 0
  | .ctz d a => encR 0x00 24 d.val a.val 0
  | .cpop d a => encR 0x00 25 d.val a.val 0
  | .rol d a b => encR 0x00 26 d.val a.val b.val
  | .ror d a b => encR 0x00 27 d.val a.val b.val
  | .addi d a imm => encI 0x01 0 d.val a.val imm.toNat
  | .andi d a imm => encI 0x01 1 d.val a.val imm.toNat
  | .ori d a imm => encI 0x01 2 d.val a.val imm.toNat
  | .xori d a imm => encI 0x01 3 d.val a.val imm.toNat
  | .slti d a imm => encI 0x01 4 d.val a.val imm.toNat
  | .sltiu d a imm => encI 0x01 5 d.val a.val imm.toNat
  | .slli d a sh => encI 0x01 6 d.val a.val (0 + sh.val)
  | .srli d a sh => encI 0x01 6 d.val a.val (1024 + sh.val)
  | .srai d a sh => encI 0x01 6 d.val a.val (2048 + sh.val)
  | .rori d a sh => encI 0x01 6 d.val a.val (3072 + sh.val)
  | .addiw d a imm => encI 0x01 7 d.val a.val imm.toNat
  | .liu d imm => encU 0x02 d.val imm.toNat
  | .pcadd d imm => encU 0x03 d.val imm.toNat
  | .ldb d a imm => encI 0x04 0 d.val a.val imm.toNat
  | .ldh d a imm => encI 0x04 1 d.val a.val imm.toNat
  | .ldw d a imm => encI 0x04 2 d.val a.val imm.toNat
  | .ldd d a imm => encI 0x04 3 d.val a.val imm.toNat
  | .ldbu d a imm => encI 0x04 4 d.val a.val imm.toNat
  | .ldhu d a imm => encI 0x04 5 d.val a.val imm.toNat
  | .ldwu d a imm => encI 0x04 6 d.val a.val imm.toNat
  | .stb b a imm => encS 0x05 0 a.val b.val imm.toNat
  | .sth b a imm => encS 0x05 1 a.val b.val imm.toNat
  | .stw b a imm => encS 0x05 2 a.val b.val imm.toNat
  | .std b a imm => encS 0x05 3 a.val b.val imm.toNat
  | .beq a b off => encS 0x06 0 a.val b.val off.toNat
  | .bne a b off => encS 0x06 1 a.val b.val off.toNat
  | .blt a b off => encS 0x06 2 a.val b.val off.toNat
  | .bge a b off => encS 0x06 3 a.val b.val off.toNat
  | .bltu a b off => encS 0x06 4 a.val b.val off.toNat
  | .bgeu a b off => encS 0x06 5 a.val b.val off.toNat
  | .jal d off => encU 0x07 d.val off.toNat
  | .jalr d a imm => encI 0x08 0 d.val a.val imm.toNat
  | .faddS d a b => encR 0x09 0 d.val a.val b.val
  | .fsubS d a b => encR 0x09 1 d.val a.val b.val
  | .fmulS d a b => encR 0x09 2 d.val a.val b.val
  | .fdivS d a b => encR 0x09 3 d.val a.val b.val
  | .fsqrtS d a => encR 0x09 4 d.val a.val 0
  | .fminS d a b => encR 0x09 5 d.val a.val b.val
  | .fmaxS d a b => encR 0x09 6 d.val a.val b.val
  | .feqS d a b => encR 0x09 7 d.val a.val b.val
  | .fltS d a b => encR 0x09 8 d.val a.val b.val
  | .fcvtSL d a => encR 0x09 9 d.val a.val 0
  | .fcvtLS d a => encR 0x09 10 d.val a.val 0
  | .fcvtSD d a => encR 0x09 11 d.val a.val 0
  | .faddD d a b => encR 0x09 12 d.val a.val b.val
  | .fsubD d a b => encR 0x09 13 d.val a.val b.val
  | .fmulD d a b => encR 0x09 14 d.val a.val b.val
  | .fdivD d a b => encR 0x09 15 d.val a.val b.val
  | .fsqrtD d a => encR 0x09 16 d.val a.val 0
  | .fcvtDS d a => encR 0x09 17 d.val a.val 0
  | .fcvtDL d a => encR 0x09 18 d.val a.val 0
  | .fcvtLD d a => encR 0x09 19 d.val a.val 0
  | .amoswp o => encR 0x0A (0 + encAmo o) o.d.val o.a.val o.b.val
  | .amoadd o => encR 0x0A (1 + encAmo o) o.d.val o.a.val o.b.val
  | .amoand o => encR 0x0A (2 + encAmo o) o.d.val o.a.val o.b.val
  | .amoor o => encR 0x0A (3 + encAmo o) o.d.val o.a.val o.b.val
  | .amoxor o => encR 0x0A (4 + encAmo o) o.d.val o.a.val o.b.val
  | .amomin o => encR 0x0A (5 + encAmo o) o.d.val o.a.val o.b.val
  | .amomax o => encR 0x0A (6 + encAmo o) o.d.val o.a.val o.b.val
  | .amominu o => encR 0x0A (7 + encAmo o) o.d.val o.a.val o.b.val
  | .amomaxu o => encR 0x0A (8 + encAmo o) o.d.val o.a.val o.b.val
  | .amocas o => encR 0x0A (9 + encAmo o) o.d.val o.a.val o.b.val
  | .lda o => encR 0x0A (10 + encAmo o) o.d.val o.a.val o.b.val
  | .stl o => encR 0x0A (11 + encAmo o) o.d.val o.a.val o.b.val
  | .ecall => encR 0x0B 0 0 0 0
  | .ebreak => encR 0x0B 1 0 0 0
  | .eret => encR 0x0B 2 0 0 0
  | .srd d n => encR 0x0B (3 + 16 * (n.toNat / 32)) d.val 0 (n.toNat % 32)
  | .swr d a n => encR 0x0B (4 + 16 * (n.toNat / 32)) d.val a.val (n.toNat % 32)
  | .srset d a n => encR 0x0B (5 + 16 * (n.toNat / 32)) d.val a.val (n.toNat % 32)
  | .srclr d a n => encR 0x0B (6 + 16 * (n.toNat / 32)) d.val a.val (n.toNat % 32)
  | .fence scope set => encR 0x0B 7 0 scope.val set.val
  | .icinvR a b => encR 0x0B 8 0 a.val b.val
  | .tlbinv a b => encR 0x0B 9 0 a.val b.val
  | .waite d a => encR 0x0B 10 d.val a.val 0
  | .barArm d a => encR 0x0C 0 d.val a.val 0
  | .barArv d => encR 0x0C 1 d.val 0 0
  | .barWt d => encR 0x0C 2 d.val 0 0
  | .barSync d => encR 0x0C 3 d.val 0 0
  | .barDrop d => encR 0x0C 4 d.val 0 0
  | .fork d a b => encR 0x0C 5 d.val a.val b.val
  | .join d => encR 0x0C 6 d.val 0 0
  | .waitc d a b => encR 0x0C 7 d.val a.val b.val
  | .launch d a b => encR 0x0C 8 d.val a.val b.val
  | .safept d a b => encR 0x0C 9 d.val a.val b.val
  | .yield d => encR 0x0C 10 d.val 0 0
  | .halt => encR 0x0C 11 0 0 0
  | .shape d a b t => encR 0x0D (0 + 16 * t.val) d.val a.val b.val
  | .shapeM d a b t => encR 0x0D (1 + 16 * t.val) d.val a.val b.val
  | .shapeG d a b t => encR 0x0D (2 + 16 * t.val) d.val a.val b.val
  | .vtag n a => encR 0x0D 3 n.val a.val 0
  | .qcfg q a => encR 0x0D 4 q.val a.val 0
  | .mxon d a b => encR 0x0D 5 d.val a.val b.val
  | .mxoff => encR 0x0D 6 0 0 0
  | .getsh d sel n => encR 0x0D 7 d.val sel.val n.val
  | .vldU o => encVM 0x0E 0 o
  | .vldS o => encVM 0x0E 1 o
  | .vldX o => encVM 0x0E 2 o
  | .vldXO o => encVM 0x0E 3 o
  | .vldSeg o => encVM 0x0E 4 o
  | .vldC o => encVM 0x0E 5 o
  | .vldFF o => encVM 0x0E 6 o
  | .vtree o => encVM 0x0E 7 o
  | .vstU o => encVM 0x0F 0 o
  | .vstS o => encVM 0x0F 1 o
  | .vstX o => encVM 0x0F 2 o
  | .vstXO o => encVM 0x0F 3 o
  | .vstSeg o => encVM 0x0F 4 o
  | .vstC o => encVM 0x0F 5 o
  | .vadd o => encV 0x10 0 o
  | .vsub o => encV 0x10 1 o
  | .vmul o => encV 0x10 2 o
  | .vmulh o => encV 0x10 3 o
  | .vdiv o => encV 0x10 4 o
  | .vmin o => encV 0x10 5 o
  | .vmax o => encV 0x10 6 o
  | .vsqrt o => encV 0x10 7 o
  | .vaddX o => encV 0x11 0 o
  | .vsubX o => encV 0x11 1 o
  | .vrsubX o => encV 0x11 2 o
  | .vmulX o => encV 0x11 3 o
  | .vdivX o => encV 0x11 4 o
  | .vrdivX o => encV 0x11 5 o
  | .vminX o => encV 0x11 6 o
  | .vmaxX o => encV 0x11 7 o
  | .vand o => encV 0x12 0 o
  | .vor o => encV 0x12 1 o
  | .vxor o => encV 0x12 2 o
  | .vsll o => encV 0x12 3 o
  | .vsrl o => encV 0x12 4 o
  | .vsra o => encV 0x12 5 o
  | .vmerge o => encV 0x12 6 o
  | .vmv o => encV 0x12 7 o
  | .vandX o => encV 0x13 0 o
  | .vorX o => encV 0x13 1 o
  | .vxorX o => encV 0x13 2 o
  | .vsllX o => encV 0x13 3 o
  | .vsrlX o => encV 0x13 4 o
  | .vsraX o => encV 0x13 5 o
  | .vmergeX o => encV 0x13 6 o
  | .vsplat o => encV 0x13 7 o
  | .vmacc o => encV 0x14 0 o
  | .vnmsac o => encV 0x14 1 o
  | .vmadd o => encV 0x14 2 o
  | .vnmsub o => encV 0x14 3 o
  | .vmaccX o => encV 0x14 4 o
  | .vnmsacX o => encV 0x14 5 o
  | .vabs o => encV 0x14 6 o
  | .vneg o => encV 0x14 7 o
  | .vseq o => encV 0x15 0 o
  | .vsne o => encV 0x15 1 o
  | .vslt o => encV 0x15 2 o
  | .vsle o => encV 0x15 3 o
  | .vsltX o => encV 0x15 4 o
  | .vsgtX o => encV 0x15 5 o
  | .vlbnd o => encV 0x15 6 o
  | .vclass o => encV 0x15 7 o
  | .vcvtH o => encV 0x16 0 o
  | .vcvtD o => encV 0x16 1 o
  | .vcvtQ4 o => encV 0x16 2 o
  | .vcvtI o => encV 0x16 3 o
  | .vcvtF o => encV 0x16 4 o
  | .vcvtT o => encV 0x16 5 o
  | .vretag o => encV 0x16 6 o
  | .vredsum o => encV 0x17 0 o
  | .vredmax o => encV 0x17 1 o
  | .vredmin o => encV 0x17 2 o
  | .vredand o => encV 0x17 3 o
  | .vredor o => encV 0x17 4 o
  | .vredsc o => encV 0x17 5 o
  | .vscan o => encV 0x17 6 o
  | .vredcol o => encV 0x17 7 o
  | .vrgath o => encV 0x18 0 o
  | .vslideup o => encV 0x18 1 o
  | .vslidedn o => encV 0x18 2 o
  | .vslide1up o => encV 0x18 3 o
  | .vslide1dn o => encV 0x18 4 o
  | .vcompr o => encV 0x18 5 o
  | .vexpm o => encV 0x18 6 o
  | .vreshp o => encV 0x18 7 o
  | .vunpk o => encV 0x19 0 o
  | .vpack o => encV 0x19 1 o
  | .vlut o => encV 0x19 2 o
  | .vid o => encV 0x19 3 o
  | .vclz o => encV 0x19 4 o
  | .vcpop o => encV 0x19 5 o
  | .vordk o => encV 0x19 6 o
  | .vbrev o => encV 0x19 7 o
  | .mand o => encV 0x1A 0 o
  | .mor o => encV 0x1A 1 o
  | .mxor o => encV 0x1A 2 o
  | .mandn o => encV 0x1A 3 o
  | .mnot o => encV 0x1A 4 o
  | .mpopc o => encV 0x1A 5 o
  | .mfirst o => encV 0x1A 6 o
  | .mseti o => encV 0x1A 7 o
  | .vmvx o => encV 0x1B 0 o
  | .vmvs o => encV 0x1B 1 o
  | .mmvx o => encV 0x1B 2 o
  | .mmvs o => encV 0x1B 3 o
  | .qstat o => encV 0x1B 4 o
  | .qdrop o => encV 0x1B 5 o
  | .catins o => encV 0x1C 0 o
  | .catlkp o => encV 0x1C 1 o
  | .catacc o => encV 0x1C 2 o
  | .catdrn o => encV 0x1C 3 o
  | .catclr => encV 0x1C 4 ⟨0, 0, 0, 0, false, false, 0⟩
  | .catcnt o => encV 0x1C 5 o
  | .catcfg o => encV 0x1C 6 o
  | .cpyG d a b => encR 0x1D 0 d.val a.val b.val
  | .cpyP d a b => encR 0x1D 1 d.val a.val b.val
  | .cpyX d a b => encR 0x1D 2 d.val a.val b.val
  | .cpyIX d a b => encR 0x1D 3 d.val a.val b.val
  | .cpyWait d c b => encR 0x1D 4 d.val c.val b.val
  | .cpyStat d c sel => encR 0x1D 5 d.val c.val sel.val
  | .cpyAbort d c => encR 0x1D 6 d.val c.val 0
  | .cpyFill d c b => encR 0x1D 7 d.val c.val b.val
  | .hAddi d imm => encH 0 0 (256 * d.val + 4 * imm.toNat)
  | .hLi d imm => encH 0 1 (256 * d.val + 4 * imm.toNat)
  | .hLdd r a off => encH 0 2 (256 * off.val + 32 * a.val + 4 * r.val)
  | .hStd r a off => encH 0 3 (256 * off.val + 32 * a.val + 4 * r.val)
  | .hLdw r a off => encH 0 4 (256 * off.val + 32 * a.val + 4 * r.val)
  | .hStw r a off => encH 0 5 (256 * off.val + 32 * a.val + 4 * r.val)
  | .hSlli d sh => encH 0 6 (256 * d.val + 4 * sh.val)
  | .hLiu d imm => encH 0 7 (256 * d.val + 4 * imm.toNat)
  | .hMov d a => encH 1 0 (256 * d.val + 8 * a.val)
  | .hAdd d a => encH 1 1 (256 * d.val + 8 * a.val)
  | .hSub d a => encH 1 2 (256 * d.val + 8 * a.val)
  | .hNop => encH 1 0 0
  | .hBz a off => encH 1 3 (1024 * a.val + 4 * off.toNat)
  | .hBnz a off => encH 1 4 (1024 * a.val + 4 * off.toNat)
  | .hJmp off => encH 1 5 (4 * off.toNat)
  | .hJmpr a => encH 1 6 (256 * a.val)
  | .hBrk => encH 1 7 0
  | .mzero t => encL 0 0 0 0 0 t.val 0
  | .mopa z va vb ca cb => encL 0 1 va.val vb.val 0 z.val (ca.toNat + 2 * cb.toNat)
  | .mops z va vb ca cb => encL 0 2 va.val vb.val 0 z.val (ca.toNat + 2 * cb.toNat)
  | .mblk zf za ns keep => encL 0 3 za.val 0 0 zf.val (ns.toNat + 2 * keep.toNat)
  | .mrdz vd zf xb => encL 0 4 zf.val xb.val 0 vd.val 0
  | .mspill q t xc => encL 0 5 t.val 0 xc.val q.val 0
  | .mfill t q xc => encL 0 6 q.val 0 xc.val t.val 0
  | .mldq o => encL 0 7 o.a.val o.b.val o.c.val o.q.val (o.n.val + 512 * o.k.val + 32768 * o.t.val + 2097152 * o.code.val)
  | .gopen d a b c => encL 1 0 a.val b.val c.val d.val 0
  | .gadv d a b => encL 1 1 a.val b.val 0 d.val 0
  | .gmask m a => encL 1 2 a.val 0 0 m.val 0
  | .gmaskM m a ms => encL 1 3 a.val ms.val 0 m.val 0
  | .gckpt d a => encL 1 4 a.val 0 0 d.val 0
  | .groll d a b => encL 1 5 a.val b.val 0 d.val 0
  | .gfork d a => encL 1 6 a.val 0 0 d.val 0
  | .gfree a => encL 1 7 a.val 0 0 0 0
  | .gstat d a sel => encL 1 8 a.val 0 0 d.val sel.val
  | .acclog a b => encL 2 0 a.val b.val 0 0 0
  | .accsync d => encL 2 1 0 0 0 d.val 0
  | .acchead d sel => encL 2 2 0 0 0 d.val sel.val
  | .vtseal d a b c => encL 3 0 a.val b.val c.val d.val 0
  | .vtatt a b c => encL 3 1 a.val b.val c.val 0 0
  | .vtdrop a c => encL 3 2 a.val 0 c.val 0 0
  | .vtqry d a sel => encL 3 3 a.val 0 0 d.val sel.val
  | _ => 0

/-- Length in bytes of an instruction (R35). -/
def Instr.len (i : Instr) : Nat :=
  match i with
  | .hAddi .. | .hLi .. | .hLdd .. | .hStd .. | .hLdw .. | .hStw .. | .hSlli .. | .hLiu .. | .hMov .. | .hNop | .hAdd ..
  | .hSub .. | .hBz .. | .hBnz .. | .hJmp .. | .hJmpr .. | .hBrk => 2
  | .mzero .. | .mopa .. | .mops .. | .mblk .. | .mrdz .. | .mspill .. | .mfill .. | .mldq .. | .gopen .. | .gadv ..
  | .gmask .. | .gmaskM .. | .gckpt .. | .groll .. | .gfork .. | .gfree .. | .gstat .. | .acclog .. | .accsync ..
  | .acchead .. | .vtseal .. | .vtatt .. | .vtdrop .. | .vtqry .. => 8
  | _ => 4

/-- The instruction whose bits are `w`, numbered as the opcode table numbers them, laid out in bytes as the hardware
stores them and read by the decoder; bits above `nbits` are zero. -/
noncomputable def decodeTableWord (nbits w : Nat) : Option Instr :=
  match decodeBytes (Machine.leBytes 8 (w % 2 ^ nbits)) with
  | .ok (i, _) => some i
  | .error _ => none

end Sys2Proof
end

