-- ==== Sys2Proof/Config.lean ====
section
/-! DEFINITION. What the spec leaves open: free values without a body. Nothing in Lean can evaluate one; a statement
that holds of the machine holds for every value of them. -/

namespace Sys2Proof.Config

/-- R397: what a byte of HBM or second-tier memory reads as until some agent writes it. One value per location, the same
at every read, otherwise free (log 1). -/
opaque coldByte : Nat → Byte

/-- A fresh free number, applied to the counter `State.tick` (log 5). -/
opaque freeNat : Nat → Nat

/-- A fresh free number for each of several places, applied to the counter `State.tick` and the place (log 5). -/
opaque freePick : Nat → Nat → Nat

/-- A fresh free choice between two outcomes the spec allows (log 6). -/
opaque freeBool : Nat → Bool

/-- Front-end cycles that pass at one step of the hart (R369): free (log 5). -/
opaque freeCycles : Nat → W64

/-- R397: what a byte of memory that was written before a reset reads as after it, by the number of the reset and the
byte's place (log 1). -/
opaque resetByte : Nat → Nat → Byte

/-- What a source operand reads in a column that a queue's head row does not have (row number, column): the spec states no
value (log 13). -/
opaque rowBeyond : Nat → Nat → Nat

/-- A byte the spec gives no layout for (save-area parts private to an engine, R194, R324; log 9). -/
opaque privateByte : Nat → Byte

/-- ECDSA P-521 signature `r ‖ s` (132 bytes, big-endian) by the device's key over a SHA-512 digest (R308, R345, R380):
the key and the nonce are not given (log 8). -/
opaque sign : BitVec 512 → BitVec 1056

/-- The public keys a boot image carries (R379), as X ‖ Y (log 8). -/
opaque bootKeys : Nat → BitVec 1056

/-- SHA-512 of the boot ROM and of each verified stage (R379): the images are not given (log 8). -/
opaque stageDigest : Nat → BitVec 512

end Sys2Proof.Config
end

