-- ==== Sys2Proof/Machine/State.lean ====
section
/-! DEFINITION. The state of a package (plain data): the harts with their three sides, memory, and the agents around
them, with every reset value (R12–R24, R63, R104, R120, R164, R180, R198, R252, R257, R277, R303, R312, R324, R339,
R354, R369–R372, R377–R379). -/

namespace Sys2Proof.Machine

/-- Ways the machine stops for good. -/
inductive Fault where
  /-- raised by every step once the management core has removed package power (R383: a reading at 125 °C); safe: the
  real package executes nothing more either -/
  | powerOff
  deriving DecidableEq, Repr

/-- Ways the model has no meaning. -/
inductive Refusal where
  /-- raised by a dispatch arm whose instruction has no meaning yet; safe: the run stops -/
  | notModelled (mnemonic : String)
  deriving DecidableEq, Repr

/-- One row of a load or store queue (R240, R253): its elements as patterns of the queue's tag, how many elements its
load has read so far while it is not yet visible or its store has drained (R249, R250), a number that names the row, and
the place in program order (instret) of the instruction that delivered it (R163). -/
structure Row where
  elems : List Nat
  done : Nat
  id : Nat
  by_ : Nat
  deriving DecidableEq, Repr

/-- A queue (R252): visible rows head first. `part` are the rows of a load that have been read, in full or up to a fault,
and are not yet visible (R240, R249); `sub` is how far a store has come inside its tile row or stream (R250). `fill` and
`free` are views of the rows. -/
structure QState where
  rows : List Row
  part : List Row
  sub : Nat
  /-- the model's own (log 5): the element counts of the rows taken since the queue was last known to be at rest, the latest
  first -/
  gone : List Nat
  /-- the model's own (log 5): how many of the rows stood in the queue when it was last known to be at rest -/
  sure : Nat
  deriving DecidableEq, Repr

/-- A granted copy operation in a channel (R260–R268). `form` 0 CPY.G, 1 CPY.P, 2 CPY.X, 3 CPY.IX; `units` elements (for
CPY.X, register columns), `at_` of them below cwm; then the fields of the descriptor; `idx` the index row; for CPY.X the
destination hart `dst`, its base register, the group's registers and columns, the source planes as they stood at the fork
(register by register), and the destination's `place` in program order (instret); `seq` is the sender's instret, `foot` the bytes of
the scratchpad footprint of the requested box (R264). -/
structure CopyOp where
  form : Nat
  units : Nat
  at_ : Nat
  esz : Nat
  mbase : Nat
  mpitch : Int
  spitch : Nat
  w : Nat
  ox : Int
  oy : Int
  clipw : Int
  cliph : Int
  code : Nat
  sbase : Nat
  fillv : Nat
  idx : List Int
  dst : Nat
  vdst : Nat
  regs : Nat
  cols : Nat
  planes : List (BitVec 16)
  place : Nat
  seq : Nat
  foot : Nat
  deriving DecidableEq, Repr

/-- A copy channel (R257, R258). nops and busy are views of `ops` and `nops`; `mark` is the model's own: the `seq` of the
latest operation of which cwm has passed an element, which a join observes (R222). -/
structure Chan where
  cwm : W64
  cissued : W64
  cclip : W64
  cfill : W64
  nops : Nat
  error : Bool
  aborting : Bool
  fcause : Nat
  fsub : Nat
  feval : W64
  fkind : Nat
  ops : List CopyOp
  mark : Nat
  deriving DecidableEq, Repr

def Chan.idle : Chan := ⟨0, 0, 0, 0, 0, false, false, 0, 0, 0, 0, [], 0⟩

/-- The catalogue partition (R312): entries in insertion order. -/
structure Cat where
  entries : List (W32 × W32)
  fail : W64
  cfg : W64
  deriving DecidableEq, Repr

/-- Why an access cannot perform. `addr` is eval; for DATA_ERROR it is the physical address and `kind` the memory kind
(R183, R189, R232). -/
structure AccFault where
  cause : Cause
  sub : Nat
  kind : Nat
  addr : Nat
  deriving DecidableEq, Repr

/-- A grammar configuration (R323): the automaton state, the stack, top first, and the numbers of its pool segments, the
lowest first (R325). -/
structure GConf where
  st : Nat
  stack : List Nat
  segs : List Nat
  deriving DecidableEq, Repr

/-- A grammar context (R324, R326): image, pool, configuration, and the valid checkpoints by id. -/
structure GCtx where
  image : W64
  pool : W64
  size : W64
  conf : GConf
  ring : List (Nat × GConf)
  latest : Nat
  oldest : Nat
  failed : Bool
  deriving DecidableEq, Repr

/-- A result of the grammar engine that nothing has joined yet (R328, R330): its class as WAITE numbers it (0 masks, 2 an x
register), the masks or the x register that still await it, the held fault, if it met one, and the instret of its instruction. -/
structure GPend where
  cls : Nat
  masks : List Nat
  xreg : Option Nat
  fault : Option AccFault
  by_ : Nat
  deriving DecidableEq, Repr

/-- The grammar engine's state of one hart (R324): contexts by handle, handles with the most recently named first, results
not yet joined, and the number of the next pool segment. -/
structure Gram where
  ctxs : List (Nat × GCtx)
  recency : List Nat
  pend : List GPend
  nextSeg : Nat
  deriving DecidableEq, Repr

/-- Who made a write that a strip interval holds. -/
inductive WriteSource where
  /-- a vector element of the hart -/
  | vector
  /-- a CPY.P of the hart (R222) -/
  | copy
  /-- another hart or agent -/
  | other
  deriving DecidableEq, Repr

/-- A write among those of a strip interval, in coherence order (R215, R216): the interval's number, who made it, its instruction
(instret; 0 for another agent), the element access it belongs to, whether it is single-copy atomic (R213), and the bytes it covers, each
with what it held before it and the bits that are written (R214); `done` are those that an access has been ordered behind, which no
read finds as they were before; `seen` are the ordered gathers that have read the write or a later one at a byte (R218). A write of
another agent stands here where it meets a vector write that is still open. -/
structure StripWrite where
  interval : Nat
  source : WriteSource
  by_ : Nat
  access : Nat
  whole : Bool
  bytes : List (Nat × Byte × Byte)
  done : List Nat
  seen : List (Nat × Nat)
  deriving DecidableEq, Repr

/-- What makes older writes of a hart perform before something that a later acquire may read (R219, R223, R359). -/
inductive RelKind where
  /-- a release write -/
  | write
  /-- an arrival at the gang barrier -/
  | arrival
  /-- the fork of a launch, or of an engine operation with a completion word, which has not been incremented for it -/
  | fork
  /-- the fork of an ACCLOG -/
  | log
  deriving DecidableEq, Repr

/-- A release of the hart in the open strip interval: its kind, its instret, and the bytes it writes. -/
structure Release where
  kind : RelKind
  by_ : Nat
  bytes : List Nat
  deriving DecidableEq, Repr

/-- What the lanes, queues, tiles, channels and engines of a hart hold. `v` keys a plane word by register·65536 + column,
`m` the 16 rows of a mask column by mask·65536 + column, `za` and `zf` an element by tile·65536 + i·256 + j, `spad` a
byte by its storage place, `strip` the writes of the open strip interval, the first in coherence order first
(R215–R217), `rels` the releases since the first of them. What is listed with the value 0 has been written since launch
(R121, R194). -/
structure Back where
  v : SMap (BitVec 16)
  m : SMap (BitVec 16)
  queues : Vector QState 6
  za : SMap W32
  zf : SMap W32
  zsteps : Vector Nat 2
  zkinds : Vector (Option (Tag × Tag)) 2
  chans : Vector Chan 8
  cat : Cat
  gram : Gram
  spad : SMap Byte
  strip : List StripWrite
  rels : List Release
  deriving DecidableEq, Repr

/-- The scalar, shape, tag, trap and counter registers of a hart (R63, R104, R180, R339, R369), and the number of the strip
interval that is open (R216). -/
structure Front where
  x : Vector W64 32
  pc : W64
  vl : Nat
  rc : Nat
  vstart : Nat
  ffi : Nat
  mvr : Nat
  mvc : Nat
  mmode : Bool
  gshape : Bool
  wtag : Tag
  vtag : Vector Tag 28
  qtag : Vector Tag 4
  sqtag : Vector Tag 2
  epc : W64
  ecause : W64
  eval : W64
  estat : W64
  evstart : Nat
  tvec : W64
  ehold0 : W64
  ehold1 : W64
  rmode : BitVec 3
  mreq : W64
  lcid : BitVec 7
  esave : W64
  qslim : W32
  acch : W64
  cycle : W64
  instret : W64
  interval : Nat
  deriving DecidableEq, Repr

/-- Why a hart does not go on at its pc (R25). -/
inductive Wait where
  /-- an older instruction has not completed (R185, R232, R302) -/
  | oldest
  /-- as `oldest`, before the trap that the instruction at pc takes (R20) -/
  | fault
  /-- a register an older instruction will deliver (R19, R160) -/
  | register
  /-- no window entry (R293) -/
  | window
  /-- gang barrier phase (R358) -/
  | barrier
  /-- completion word (R366) -/
  | word
  /-- copy channel (R262, R270, R272) -/
  | channel
  /-- accession durability (R344) -/
  | durable
  /-- child or parent (R23, R24, R362) -/
  | family
  /-- engine result (R191, R330) -/
  | engine
  /-- queue rows or space (R254) -/
  | queue
  /-- the HALT of the hart that the slot carried before (R22) -/
  | runAhead
  /-- at the decoder: a shape that a VLD.FF has not settled, or an operand that the shape or the tags behind the instruction are
  taken from (R112); with the load queue that the instruction fills, if it fills one (R31) -/
  | decode (fills : Option Nat)
  deriving DecidableEq, Repr

/-- An access-side or execute-side instruction that has left the decoder and not completed: its place, the registers as
they stood in program order at it (`vstart` is how far it has come), what the back held at its place, and the queue codes it
waits on: full for want of space, else for want of a row; `lanes` are the registers and masks its sources are read from (R19,
R121: renaming keeps them as they stood before it); `owed` are the x registers that instructions older than it will still
deliver into `front`, each with the instret of its writer (R19); `ordered` says that its element groups become architectural in
element order (R129); `faulty` that it holds a fault (R20, R185); `noted` is what it has settled for good: the elements that a VLD.FF
loads (R186); `out` are the vector registers of the groups that it writes (R19, R121). -/
structure Pend where
  instr : Instr
  front : Front
  ckpt : Back
  on : List Nat
  full : Bool
  lanes : Option (SMap (BitVec 16) × SMap (BitVec 16))
  owed : List (Nat × Nat)
  ordered : Bool
  faulty : Bool
  noted : Option Nat
  out : List Nat
  deriving DecidableEq, Repr

/-- Whether a hart is absent, runs, or has ended. -/
inductive Status where
  | absent
  | running
  | halted
  /-- stopped by a launch fault (R188) -/
  | stopped
  /-- taken by a pre-emption (R27) -/
  | saved
  deriving DecidableEq, Repr

/-- Who a hart is and where it stands (R11–R17, R24, R52). -/
structure Ident where
  uid : Nat
  gang : Nat
  idx : Nat
  copy : Nat
  die : Nat
  core : Nat
  slot : Nat
  share : Nat
  alcid : Nat
  aslot : Nat
  parent : Option Nat
  priv : Bool
  root : W64
  deriving DecidableEq, Repr

/-- A vector hart (R16). `digest` holds the records of the write digest of a duplicated launch by the instret of their instruction and the place
within it (R288), `trapped` says that the
last thing the hart did was trap entry; `lanes` are the source registers of an instruction that goes on; `due` are the classes
a WAITE at pc found pending when it issued (R191), or what the instruction at hand has settled (R186, R358); `stall` counts the local cycles in a row in which the hart's queues have
been stalled (R31); `owed` are the x registers still to be delivered by older instructions in flight, each with the instret of
its latest writer (R19); `asked` is the tick at which the instruction at pc began to wait for a window entry (R29); `halting`
says that the HALT at pc has been decoded (R22); `groups` are the element groups that the instruction at hand completes before
an interruption stops it, none where nothing stops it (R130); `resumed` is the resume point other than 0 that an ERET has given
and that no instruction has completed yet, or 0 (R187); `skips` are planes skipped and not yet counted (R34). -/
structure Hart where
  front : Front
  back : Back
  id : Ident
  status : Status
  wait : Option Wait
  inflight : List Pend
  nextId : Nat
  digest : List (Nat × List Byte)
  trapped : Bool
  lanes : Option (SMap (BitVec 16) × SMap (BitVec 16))
  due : Option Nat
  stall : Nat
  owed : List (Nat × Nat)
  asked : Nat
  halting : Bool
  groups : Option (List Nat)
  resumed : Nat
  skips : Nat
  deriving DecidableEq, Repr

/-- A gang barrier register with its two hidden bitmaps (R354). -/
structure Barrier where
  expected : Nat
  arrived : Nat
  phase : Bool
  nexp : Nat
  live : Nat
  arrbit : W64
  gone : W64
  deriving DecidableEq, Repr

def Barrier.reset : Barrier := ⟨0, 0, false, 0, 0, 0, 0⟩

/-- A gang and its launch (R17, R280, R354): `bars` has the barrier of each copy of the launch (R288); `since` has the local
cycle of each member (by uid, 0 where it is not listed) at which its quantum of `quantum` cycles began (R28); `due` says that a
YIELD has ended the quantum and the members are still to be taken (R368);
`order` numbers sowings, pre-emptions and resumptions as they happen (R290); `fault` is the fault record of R188 with the
member's index and copy. -/
structure Gang where
  gid : Nat
  queue : Nat
  seq : Nat
  die : Nat
  n : Nat
  share : Nat
  prio : Nat
  dup : Bool
  priv : Bool
  gshape : Bool
  entry : W64
  count : W64
  args : List W64
  cword : W64
  area : W64
  root : W64
  bars : Vector Barrier 2
  gvlmax : Nat
  since : SMap W64
  quantum : Nat
  due : Bool
  sown : Bool
  saved : Bool
  order : Nat
  fault : Option (List W64 × Nat × Nat)
  deriving DecidableEq, Repr

/-- A work queue's registers (R277, R278). -/
structure WQ where
  base : W64
  size : Nat
  root : W64
  ctl : Nat
  tail : W64
  head : W64
  done : W64
  stat : W64
  deriving DecidableEq, Repr

def WQ.reset : WQ := ⟨0, 4, 0, 0, 0, 0, 0, 0⟩

/-- An entry of the vitrine region table (R303). -/
structure Vitrine where
  state : Nat
  base : Nat
  units : Nat
  digest : BitVec 512
  vseq : W64
  pins : Nat
  deriving DecidableEq, Repr

def Vitrine.free : Vitrine := ⟨0, 0, 0, 0, 0, 0⟩

/-- A record of an accession partition on its way to durability (R341, R343): the hart whose ACCLOG made it, its sequence
number once the log engine has written it, and its bytes behind `rseq`. -/
structure AccRec where
  hart : Nat
  seq : Option Nat
  bytes : List Byte
  deriving DecidableEq, Repr

/-- An accession partition (R339). `pending` are the records forked and not yet durable, oldest first; `held` the records
reserved by an ACCLOG that waits for its rows (hart, count; R343). -/
structure Part where
  labase : W64
  lcap : Nat
  ldrain : W64
  lnext : W64
  lsign : W64
  pending : List AccRec
  held : List (Nat × Nat)
  deriving DecidableEq, Repr

def Part.reset : Part := ⟨0, 0, 0, 0, 0, [], []⟩

/-- A global or weak definition of a loaded code object (R352): its name, whether it is weak, the address of its bytes and
the SHA-512 of its body. -/
structure CodeSym where
  name : List Byte
  weak : Bool
  addr : Nat
  body : BitVec 512
  deriving DecidableEq, Repr

/-- A code object in the package (R349, R352): its placement address and footprint, its definitions, the vitrines it pins
and its `odig`. -/
structure CodeObj where
  place : Nat
  size : Nat
  symbols : List CodeSym
  pins : List Nat
  odig : BitVec 512
  deriving DecidableEq, Repr

/-- A cached translation leaf (R299): asid, virtual page base and size, and the leaf doubleword. -/
structure TlbEnt where
  asid : Nat
  base : Nat
  size : Nat
  leaf : W64
  deriving DecidableEq, Repr

/-- Engine work in progress: a seal (0), a drop (1) or an attestation (2) of vitrine `v`, or a signed statement (3) of
partition `v` (R306–R309, R345). `block` is the physical address of the attestation block, `cword` that of the completion
word, and `leaves` the leaves that gave them (R302); `part` the partition of a seal record, `hart`, `wq` and `launch` its fields. -/
structure Job where
  kind : Nat
  v : Nat
  block : Nat
  cword : Option Nat
  part : Nat
  hart : Nat
  wq : Nat
  launch : Nat
  leaves : List TlbEnt
  deriving DecidableEq, Repr

/-- Per-core state (R11, R12, R370, R371), keyed by die·128 + position. -/
structure CoreSt where
  retired : List Nat
  therm : BitVec 16
  trip : BitVec 16
  slow : Bool
  cret : W64
  clane : W64
  cskip : W64
  cqstall : W64
  lcid : Nat
  deriving DecidableEq, Repr

def CoreSt.reset : CoreSt := ⟨[], 0, 760, false, 0, 0, 0, 0, 0⟩

/-- Error counters of a die (R372). -/
structure DieCnt where
  ce : Vector W64 11
  ue : Vector W64 11
  lretry : W64
  wdrop : W64
  hdrop : W64
  fdrop : W64
  dupmis : W64
  fenced : W64
  deriving DecidableEq, Repr

def DieCnt.reset : DieCnt := ⟨Vector.replicate 11 0, Vector.replicate 11 0, 0, 0, 0, 0, 0, 0⟩

/-- Mailbox, boot, keys and part state of the management core (R1, R377–R380): `mbres` is the result of a command that has
been carried out and not yet reported. -/
structure Mgmt where
  package : Option Nat
  mbcmd : W64
  mbarg : Vector W64 4
  mbstat : W64
  mbres : Option Nat
  bstate : W64
  measure : BitVec 512
  keys : List (BitVec 1056)
  objects : List CodeObj
  deriving DecidableEq, Repr

/-- A target share that the dispatcher has reserved for a waiting SAFEPT (R392), with that SAFEPT's destination, live-register
mask and live scratchpad range. -/
structure Reservation where
  uid : Nat
  die : Nat
  core : Nat
  slot : Nat
  share : Nat
  d : Reg
  regs : Nat
  first : Nat
  len : Nat
  deriving DecidableEq, Repr

/-- A line in the package's L2s (R205, R206): the dies that hold a copy, and the one whose copy is dirty. -/
structure L2Line where
  holders : List Nat
  dirty : Option Nat
  deriving DecidableEq, Repr

/-- State of the package outside its harts and memory. `slots` gives the address (lcid, logical slot) that a physical slot
carries, keyed by (die·128 + core)·4 + slot, where it is not its core's own (R11, R394); `reserved` are the target shares of
waiting SAFEPTs (R392); `icache` keys a byte of a core's instruction cache by core·2^50 + local address, `l2` a line by its
local address / 128 where some die holds it, `poison` and `fences` the bad 8-byte units and fenced 64 KiB frames by their memory
key; `closed` are the controllers (0 to 11 of HBM, 12 + p of port p) that have fenced all of their memory for want of room (R305); `away`
are the remote 64 KiB frames, by memory key, that their home package refuses, and `shut` those of which it takes no write (R208);
`unanswered` are the packages of which a read goes unanswered (R382); `hostData` and `fabricData` are what the latest read of the host and of another package returned, empty where it was an error
(R208, R376). -/
structure Pkg where
  mgmt : Mgmt
  cores : SMap CoreSt
  dies : Vector DieCnt 3
  quantum : Vector Nat 3
  slots : SMap (Nat × Nat)
  reserved : List Reservation
  nextOrder : Nat
  served : Vector Nat 12
  wqs : SMap WQ
  vitrines : SMap Vitrine
  vseqNext : Nat
  fences : List Nat
  closed : List Nat
  away : List Nat
  shut : List Nat
  unanswered : List Nat
  poison : List Nat
  parts : Vector Part 16
  jobs : List Job
  gangs : List Gang
  nextGang : Nat
  nextUid : Nat
  tlb : List TlbEnt
  icache : List (Nat × Byte)
  l2 : SMap L2Line
  msix : Vector Nat 4
  uciDown : List Nat
  cxlDown : List Nat
  reach : List Nat
  limited : Bool
  tierOk : Bool
  power : Bool
  hostData : List Byte
  fabricData : List Byte
  deriving DecidableEq, Repr

/-- Which agent acts next. -/
inductive AgendaItem where
  /-- hart `uid` takes the next step -/
  | hart (uid : Nat)
  /-- another agent acts: an event row of the opcode table -/
  | event (e : Instr)
  /-- a translation cache keeps the leaf that hart `cpu` would walk to for this virtual address (R299) -/
  | cacheLeaf (va : Nat)
  /-- a translation cache drops its `k`-th leaf -/
  | evictLeaf (k : Nat)
  /-- the instruction cache of a core keeps the halfword at this physical address (R37, R207) -/
  | cacheCode (die core pa : Nat)
  /-- the instruction cache of a core drops that halfword -/
  | evictCode (die core pa : Nat)
  /-- a double-bit error arises in the 64 data bits of memory at this domain physical address (R189, R209) -/
  | upset (pa : Nat)
  /-- the L2 of a die takes a copy of the line at this physical address (R205, R206) -/
  | fillLine (die pa : Nat)
  /-- the L2 of a die gives up its copy, which is written back if it is dirty -/
  | evictLine (die pa : Nat)
  /-- a read that is discarded finds a double-bit error in the copy of a line that the L2 of a die holds (R189, R210) -/
  | lineError (die pa : Nat)
  /-- the home package of a remote address performs a write of its own (R205) -/
  | remoteWrite (pa : Nat) (l : List Byte)
  /-- the home package of the 64 KiB frame of a remote address begins or ends to refuse it, and to take no write of it (R208) -/
  | remoteHome (pa : Nat) (refused shut : Bool)
  /-- a reset whose boot has come to the point where bstate reads `k`, 0 to 2 (R379) -/
  | booting (b : BootInfo) (k : Nat)
  /-- the management core writes bytes at a local address (R208) -/
  | firmwareWrite (addr : Nat) (l : List Byte)
  /-- the management core reads bytes at a local address (R208) -/
  | firmwareRead (addr size : Nat)
  /-- a drop in progress has zeroed these bytes of vitrine `v`'s range (R227, R311) -/
  | dropProgress (v first len : Nat)
  /-- hart `uid` takes the next step, in which an instruction that something stops completes only these of its element groups
  (R130) -/
  | stopped (uid : Nat) (groups : List Nat)
  /-- a single-bit error of a memory kind is corrected at a die (R209, R210) -/
  | corrected (die kind : Nat)
  /-- a read that is discarded finds a double-bit error in storage of hart `uid`'s core, at the place that eval would name
  (R189, R210) -/
  | dropUnit (uid kind place : Nat)
  deriving DecidableEq, Repr

/-- The machine. `cpu` is the hart whose stream moves now; `agenda` says which agents act next (model's own, log 3);
`tick` numbers the free values (model's own, log 5). -/
structure State where
  cpu : Hart
  others : List Hart
  mem : List Host.Cell
  pkg : Pkg
  agenda : List AgendaItem
  tick : Nat
  deriving DecidableEq, Repr

def QState.empty : QState := ⟨[], [], 0, [], 0⟩

/-- INT8, the reset value of every tag (R104). -/
def tagInt8 : Tag := 0x0071

def Front.reset : Front where
  x := Vector.replicate 32 0
  pc := 0
  vl := 0
  rc := 0
  vstart := 0
  ffi := 0
  mvr := 0
  mvc := 0
  mmode := false
  gshape := false
  wtag := tagInt8
  vtag := Vector.replicate 28 tagInt8
  qtag := Vector.replicate 4 tagInt8
  sqtag := Vector.replicate 2 tagInt8
  epc := 0
  ecause := 0
  eval := 0
  estat := 0
  evstart := 0
  tvec := 0
  ehold0 := 0
  ehold1 := 0
  rmode := 0
  mreq := 0
  lcid := 0
  esave := 0
  qslim := 16777216
  acch := 0
  cycle := 0
  instret := 0
  interval := 0

def Back.reset : Back where
  v := []
  m := []
  queues := Vector.replicate 6 QState.empty
  za := []
  zf := []
  zsteps := Vector.replicate 2 0
  zkinds := Vector.replicate 2 none
  chans := Vector.replicate 8 Chan.idle
  cat := ⟨[], 0, 0⟩
  gram := ⟨[], [], [], 0⟩
  spad := []
  strip := []
  rels := []

def Ident.none : Ident := ⟨0, 0, 0, 0, 0, 0, 0, 16, 0, 0, Option.none, false, 0⟩

/-- A slot with no hart. -/
def Hart.absent : Hart := ⟨Front.reset, Back.reset, Ident.none, .absent, none, [], 0, [], false, none, none, 0, [], 0, false, none, 0, 0⟩

def Mgmt.reset : Mgmt := ⟨none, 0, Vector.replicate 4 0, 0, none, 0, 0, [], []⟩

def Pkg.reset : Pkg where
  mgmt := Mgmt.reset
  cores := []
  dies := Vector.replicate 3 DieCnt.reset
  quantum := Vector.replicate 3 4194304
  slots := []
  reserved := []
  nextOrder := 0
  served := Vector.replicate 12 2047
  wqs := []
  vitrines := []
  vseqNext := 0
  fences := []
  closed := []
  away := []
  shut := []
  unanswered := []
  poison := []
  parts := Vector.replicate 16 Part.reset
  jobs := []
  gangs := []
  nextGang := 1
  nextUid := 1
  tlb := []
  icache := []
  l2 := []
  msix := Vector.replicate 4 0
  uciDown := []
  cxlDown := []
  reach := []
  limited := false
  tierOk := true
  power := true
  hostData := []
  fabricData := []

/-- The machine right after reset, before its boot sequence has run (R379): no hart, nothing written in memory. -/
def State.reset : State := ⟨Hart.absent, [], [], Pkg.reset, [], 0⟩

end Sys2Proof.Machine
end

