-- ==== Sys2Proof/Machine/Mem.lean ====
section
/-! DEFINITION. Physical memory, the local address map, what the memory controllers refuse, and translation
(R201–R204, R295–R298, R303–R305, R339, R397). -/

namespace Sys2Proof.Machine

/-- What a byte reads as: the value last written, or the free, stable value of R397. -/
def readCell (m : List Host.Cell) (a : Nat) : Byte := (mfind m a).getD (Config.coldByte a)

/-- Writes one byte, keeping the canonical form. -/
def writeCell (m : List Host.Cell) (a : Nat) (b : Byte) : List Host.Cell := minsert m a b

/-- Canonical form of memory: addresses strictly rising. An unlisted address is one that nothing has written; its value
is free, so no listed byte can be compared with it (log 1). -/
def Memory.wf (m : List Host.Cell) : Bool := keysRise m

def readCells (m : List Host.Cell) (a n : Nat) : List Byte := (List.range n).map (fun k => readCell m (a + k))

def writeCells (m : List Host.Cell) (a : Nat) (l : List Byte) : List Host.Cell :=
  match l with
  | [] => m
  | b :: t => writeCells (writeCell m a b) (a + 1) t

/-- What stands at a local physical address (R201–R203). -/
inductive Region where
  | hbm
  | tier2
  /-- management space of a die, at an offset -/
  | mgmt (die off : Nat)
  /-- management space of the die that handles the access -/
  | own (off : Nat)
  /-- page of a work queue, at an offset -/
  | wq (queue off : Nat)
  | hole
  deriving DecidableEq, Repr

def gib64 : Nat := 68719476736
def tierBase : Nat := 0x10000000000
def tierEnd : Nat := 0x90000000000
def mgmtBase : Nat := 0x100000000000
def dieBase : Nat := 0x100010000000
def wqWindow : Nat := 0x100100000000
def pkgSpan : Nat := 2 ^ 50
def mib64 : Nat := 67108864

/-- The local address map (R201). -/
def regionOf (a : Nat) : Region :=
  if a < 12 * gib64 then (if a % gib64 < 64000000000 then .hbm else .hole)
  else if tierBase ≤ a ∧ a < tierEnd then .tier2
  else if mgmtBase ≤ a ∧ a < dieBase then .own (a - mgmtBase)
  else if dieBase ≤ a ∧ a < dieBase + 3 * 0x10000000 then .mgmt ((a - dieBase) / 0x10000000) ((a - dieBase) % 0x10000000)
  else if wqWindow ≤ a ∧ a < wqWindow + 0x800000 then .wq ((a - wqWindow) / 4096) ((a - wqWindow) % 4096)
  else .hole

/-- What stands at a local physical address of this package: the second tier only where boot has enabled it (R203). -/
def State.regionAt (s : State) (a : Nat) : Region :=
  if regionOf a = .tier2 && !s.pkg.tierOk then .hole else regionOf a

def Region.isMem (r : Region) : Bool := r = .hbm || r = .tier2

/-- The home die of a memory address (R202, R203). -/
def homeDie (a : Nat) : Nat :=
  if a < 12 * gib64 then a / gib64 / 4 else ((a - tierBase) / 65536 % 12) / 4

/-- The memory kind of R189 of a local memory address. -/
def memKind (a : Nat) : Nat := if a < tierBase then 0 else 1

/-- The package's own number while none is set is taken as 0 (log 12). -/
def State.ownPkg (s : State) : Nat := s.pkg.mgmt.package.getD 0

/-- A domain address whose package number is the package's own is local (R204). -/
def State.isLocal (s : State) (pa : Nat) : Bool := pa / pkgSpan = s.ownPkg

/-- The key under which memory holds the byte of a domain address: local bytes by local address, remote ones above
2^64. -/
def State.key (s : State) (pa : Nat) : Nat := if s.isLocal pa then pa % pkgSpan else 2 ^ 64 + pa

/-- A package whose fabric link answers (R382): the own number is set and the package is reached. -/
def State.reaches (s : State) (pa : Nat) : Bool :=
  s.pkg.mgmt.package.isSome && s.pkg.reach.contains (pa / pkgSpan)

/-- The memory or port controller of a local memory address (R202, R203): 0 to 11 of the HBM windows, 12 + p of port p. -/
def controllerOf (a : Nat) : Nat := if a < tierBase then a / gib64 else 12 + (a - tierBase) / 65536 % 12

/-- The 64 KiB frames of a controller's memory: an HBM window has 64,000,000,000 bytes, and the second tier's frames go round the
twelve ports. -/
def controllerFrames (c : Nat) : Nat := if c < 12 then 976563 else if c < 20 then 11184811 else 11184810

/-- All memory of the controller of an address is fenced: its CXL port is down (R381), or it would have held more than 4,096
fenced frames (R305). -/
def State.fencedWhole (s : State) (a : Nat) : Bool :=
  s.pkg.closed.contains (controllerOf a) || (tierBase ≤ a && s.pkg.cxlDown.contains (controllerOf a - 12))

/-- The fenced frames that a controller holds one by one. -/
def State.framesHeld (s : State) (c : Nat) : Nat :=
  (s.pkg.fences.filter (fun f => f * 65536 < tierEnd && controllerOf (f * 65536) = c)).length

/-- The frame is fenced (R189, R305, R381). -/
def State.fenced (s : State) (a : Nat) : Bool := s.pkg.fences.contains (a / 65536) || s.fencedWhole a

/-- The 64 data bits that hold a memory key have a double-bit error (R209). -/
def State.poisoned (s : State) (k : Nat) : Bool := s.pkg.poison.contains (k / 8)

/-- A byte of local memory cannot be read: its frame is fenced or its 64 data bits are bad (R189). -/
def State.unreadable (s : State) (a : Nat) : Bool := (s.regionAt a).isMem && (s.fenced a || s.poisoned a)

/-- The entry of the vitrine region table whose range holds a local address (R303). -/
def State.vitrineAt (s : State) (a : Nat) : Option (Nat × Vitrine) :=
  s.pkg.vitrines.find? (fun e => e.2.state != 0 && e.2.base ≤ a && a < e.2.base + e.2.units * mib64)

/-- The address lies in the ring or head block of a log partition (R339). -/
def State.inAccession (s : State) (a : Nat) : Bool :=
  s.pkg.parts.toList.any (fun p => p.lcap != 0 && p.labase.toNat ≤ a && a < p.labase.toNat + 4096 + 128 * 2 ^ p.lcap)

/-- What an access needs of its leaf (R298). -/
inductive Access where
  | load
  | store
  /-- AMO forms other than LDA and STL: read and write, faults as a store -/
  | amo
  | fetch
  deriving DecidableEq, Repr

def Access.cause (k : Access) : Cause :=
  match k with
  | .load => .loadFault
  | .store | .amo => .storeFault
  | .fetch => .fetchFault

/-- The index of R295 at a level. -/
def vaIndex (l va : Nat) : Nat := va / 2 ^ (46 - 10 * l) % 1024

/-- Bytes a leaf maps at a level (R295). -/
def leafSpan (l : Nat) : Nat := 2 ^ (46 - 10 * l)

/-- R296: an entry with `v` = 1 is malformed at a level. `own` is the package the table lies in. -/
def malformed (e l own : Nat) : Bool :=
  let leaf := bitAt e 1
  let addr := e / 4096 * 4096
  bitsOf e 11 8 != 0 || bitsOf e 3 2 != 0 || (leaf && l = 0) || (!leaf && l = 3)
    || (!leaf && (bitsOf e 7 4 != 0 || bitAt e 12 || addr / pkgSpan != own))
    || (leaf && addr % leafSpan l != 0) || (leaf && bitAt e 5 && !bitAt e 4)

/-- Who translates (R52, R297), and the die that handles its accesses (R201). -/
structure Ctx where
  root : Nat
  priv : Bool
  die : Nat
  deriving DecidableEq, Repr

def Hart.ctx (h : Hart) : Ctx := ⟨h.id.root.toNat, h.id.priv, h.id.die⟩

/-- Reads a table entry; a table outside populated memory is not mapped, a fenced or uncorrectable word of one is a data error
(R189). -/
def State.tableEntry (s : State) (a : Nat) (k : Access) (va : Nat) : Except AccFault Nat :=
  if !(s.regionAt a).isMem then .error ⟨k.cause, 0, 0, va⟩
  else if s.fenced a || s.poisoned a then .error ⟨.dataError, 0, memKind a, a⟩
  else .ok (leNat (readCells s.mem a 8))

/-- The walk of R298 from level `l`, `fuel` levels left: the leaf doubleword and its level. -/
def State.walk (s : State) (k : Access) (va : Nat) (fuel l t : Nat) : Except AccFault (Nat × Nat) :=
  match fuel with
  | 0 => .error ⟨k.cause, 0, 0, va⟩
  | n + 1 =>
    match s.tableEntry (t + 8 * vaIndex l va) k va with
    | .error f => .error f
    | .ok e =>
      if !bitAt e 0 then .error ⟨k.cause, 0, 0, va⟩
      else if malformed e l s.ownPkg then .error ⟨k.cause, if k = .fetch then 2 else 7, 0, va⟩
      else if bitAt e 1 then .ok (e, l)
      else s.walk k va n (l + 1) (e / 4096 * 4096 % pkgSpan)

/-- The leaf for an address: a cached one of the same asid if the caches hold it (R299), else the walk's. -/
def State.leafFor (s : State) (c : Ctx) (k : Access) (va : Nat) : Except AccFault (Nat × Nat) :=
  match s.pkg.tlb.find? (fun t => t.asid = c.root % 4096 && t.base ≤ va && va < t.base + t.size) with
  | some t => .ok (t.leaf.toNat, if t.size = leafSpan 1 then 1 else if t.size = leafSpan 2 then 2 else 3)
  | none => s.walk k va 4 0 (bitsOf c.root 49 13 * 8192)

/-- check(e) of R298. -/
def leafAllows (e : Nat) (c : Ctx) (k : Access) : Bool :=
  (match k with
   | .load => bitAt e 4
   | .store => bitAt e 5
   | .amo => bitAt e 4 && bitAt e 5
   | .fetch => bitAt e 6) && (!bitAt e 7 || c.priv)

/-- Translation of one virtual byte address to a domain physical address (R298). -/
def State.translate (s : State) (c : Ctx) (k : Access) (va : Nat) : Except AccFault Nat :=
  if 2 ^ 56 ≤ va then .error ⟨k.cause, 0, 0, va⟩
  else match s.leafFor c k va with
    | .error f => .error f
    | .ok (e, l) =>
      if leafAllows e c k then .ok (e / 4096 * 4096 + va % leafSpan l) else .error ⟨k.cause, 1, 0, va⟩

/-- Registers of management space that no hart may write (R1, R339, R377): die and offset within its space. The mailbox, the key
list and the partition registers stand on die 0 only. -/
def mgmtNoHartWrite (die off : Nat) : Bool :=
  off / 8 = 0 || (0x1000 ≤ off && off < 0x1058) || (0x1080 ≤ off && off < 0x10D8) || (0x1100 ≤ off && off < 0x1130)
    || (0x3000 ≤ off && off < 0x3048) || (0x100000 ≤ off && off < 0x102000 && off % 0x40 < 0x30)
    || (die = 0 && ((0x2000 ≤ off && off < 0x2030) || (0x4000 ≤ off && off < 0x4848)
      || (0x200000 ≤ off && off < 0x200400 && (off % 0x40 < 0x10 || (0x18 ≤ off % 0x40 && off % 0x40 < 0x20)))))

/-- A read, or a read and write, of remote memory gets an error response: from its home package, or because it goes unanswered
(R208, R382). -/
def State.errorResponse (s : State) (k : Access) (pa : Nat) : Bool :=
  k != .store && (s.pkg.unanswered.contains (pa / pkgSpan) || s.pkg.away.contains (s.key pa / 65536))

/-- The home package of a remote byte drops a write of it (R208). -/
def State.drops (s : State) (pa : Nat) : Bool :=
  !s.isLocal pa && (s.pkg.away.contains (s.key pa / 65536) || s.pkg.shut.contains (s.key pa / 65536))

/-- What refuses a translated byte address, for an access that die `d` handles (R207, R208, R232, R234, R304, R377, R382). `atomic` marks
AMO forms other than LDA, and STL. -/
def State.refusePhys (s : State) (d : Nat) (k : Access) (atomic : Bool) (va pa : Nat) : Option AccFault :=
  let a := pa % pkgSpan
  let wr := k = .store || k = .amo
  if !s.isLocal pa then
    if k = .fetch then some ⟨.fetchFault, 1, 0, va⟩
    else if !s.reaches pa || !(regionOf a).isMem || s.errorResponse k pa then some ⟨k.cause, 3, 0, va⟩
    else none
  else match s.regionAt a with
    | .hole => some ⟨k.cause, if k = .fetch && mgmtBase ≤ a then 1 else 0, 0, va⟩
    | .hbm | .tier2 =>
      if wr && s.inAccession a then some ⟨.storeFault, 1, 0, va⟩
      else if wr && (s.vitrineAt a).isSome then some ⟨.vitrineWrite, 0, 0, va⟩
      else none
    | .mgmt e off =>
      if k = .fetch then some ⟨.fetchFault, 1, 0, va⟩
      else if wr && atomic then some ⟨.storeFault, 5, 0, va⟩
      else if wr && mgmtNoHartWrite e off then some ⟨.protection, 1, 0, va⟩
      else none
    | .own off =>
      if k = .fetch then some ⟨.fetchFault, 1, 0, va⟩
      else if wr && atomic then some ⟨.storeFault, 5, 0, va⟩
      else if wr && mgmtNoHartWrite d off then some ⟨.protection, 1, 0, va⟩
      else none
    | .wq _ _ =>
      if k = .fetch then some ⟨.fetchFault, 1, 0, va⟩
      else if wr && atomic then some ⟨.storeFault, 5, 0, va⟩ else none

/-- The data error of a byte whose frame is fenced (R305), or which is read and uncorrectable (R189, R232); of remote data it has
kind 10. -/
def State.badPhys (s : State) (k : Access) (pa : Nat) : Option AccFault :=
  let a := pa % pkgSpan
  if !s.isLocal pa then
    if s.pkg.fences.contains (s.key pa / 65536) || (k != .store && s.poisoned (s.key pa)) then some ⟨.dataError, 0, 10, pa⟩ else none
  else if (s.regionAt a).isMem && (s.fenced a || (k != .store && s.poisoned a)) then some ⟨.dataError, 0, memKind a, a⟩
  else none

/-- The checks on a translated byte address. -/
def State.checkPhys (s : State) (d : Nat) (k : Access) (atomic : Bool) (va pa : Nat) : Option AccFault :=
  (s.refusePhys d k atomic va pa).or (s.badPhys k pa)

/-- One byte: translation, then the checks on the physical address. -/
def State.byteAccess (s : State) (c : Ctx) (k : Access) (atomic : Bool) (va : Nat) : Except AccFault Nat :=
  match s.translate c k va with
  | .error f => .error f
  | .ok pa => match s.checkPhys c.die k atomic va pa with
    | some f => .error f
    | none => .ok pa

/-- The physical addresses of bytes that are translated and permitted, or the fault of the first in the list's order that is not. -/
def State.admitBytes (s : State) (c : Ctx) (k : Access) (atomic : Bool) (vas : List Nat) : Except AccFault (List Nat) :=
  match vas with
  | [] => .ok []
  | va :: t => match s.translate c k va with
    | .error f => .error f
    | .ok pa => match s.refusePhys c.die k atomic va pa with
      | some f => .error f
      | none => match s.admitBytes c k atomic t with
        | .error f => .error f
        | .ok r => .ok (pa :: r)

/-- The physical addresses of the bytes at these virtual addresses, or the fault of the lowest byte in the list's order
(R231, R248): all are translated and permitted before any performs, and only then found uncorrectable. -/
def State.accessBytes (s : State) (c : Ctx) (k : Access) (atomic : Bool) (vas : List Nat) : Except AccFault (List Nat) :=
  match s.admitBytes c k atomic vas with
  | .error f => .error f
  | .ok pas => match pas.findSome? (s.badPhys k) with
    | some f => .error f
    | none => .ok pas

/-- What a channel or an engine reaches (R208): local memory, and for copies memory of other packages. -/
def State.engineReach (s : State) (remote : Bool) (pa : Nat) : Bool :=
  if s.isLocal pa then (s.regionAt (pa % pkgSpan)).isMem else remote

/-- One byte of an engine's access (R208): what it does not reach is refused as unpopulated. -/
def State.engineByte (s : State) (c : Ctx) (k : Access) (remote : Bool) (va : Nat) : Except AccFault Nat :=
  match s.translate c k va with
  | .error f => .error f
  | .ok pa => if s.engineReach remote pa then s.byteAccess c k false va else .error ⟨k.cause, 0, 0, va⟩

/-- As `accessBytes`, for an engine (R208). -/
def State.engineBytes (s : State) (c : Ctx) (k : Access) (remote : Bool) (vas : List Nat) : Except AccFault (List Nat) :=
  match vas with
  | [] => .ok []
  | va :: t => match s.engineByte c k remote va with
    | .error f => .error f
    | .ok pa => match s.engineBytes c k remote t with
      | .error f => .error f
      | .ok r => .ok (pa :: r)

/-- The addresses of `n` consecutive bytes, modulo 2^64 (R237). -/
def vaRange (va n : Nat) : List Nat := (List.range n).map (fun k => (va + k) % 2 ^ 64)

/-- The frame of a local address is fenced and counted, once; beyond 4,096 frames its controller fences all of its memory (R189, R305,
R372). -/
def State.fenceFrame (s : State) (a : Nat) : State :=
  let c := controllerOf a
  let count (n : Nat) : Vector DieCnt 3 :=
    vmod s.pkg.dies (homeDie a) (fun x => { x with fenced := x.fenced + BitVec.ofNat 64 n })
  if s.fenced a then s
  else if s.framesHeld c < 4096 then { s with pkg := { s.pkg with fences := a / 65536 :: s.pkg.fences, dies := count 1 } }
  else { s with pkg := { s.pkg with closed := c :: s.pkg.closed, dies := count (controllerFrames c - s.framesHeld c) } }

/-- Counts an uncorrectable error of a kind at a die (R372), with MSI-X vector 2 (R376). -/
def State.countUe (s : State) (d kind : Nat) : State :=
  { s with pkg := { s.pkg with
      dies := vmod s.pkg.dies d (fun c => { c with ue := vmod c.ue kind (· + 1) })
      msix := s.pkg.msix.set 2 (s.pkg.msix[2] + 1) } }

/-- Dropping an uncorrectable 64-byte word of local memory (R189, R209, R210): zeroed, its frame fenced, counted under `kind` at
its home die. -/
def State.dropWord (s : State) (kind a : Nat) : State :=
  if s.pkg.poison.any (fun u => u / 8 = a / 64) then
    (State.countUe { s with
      mem := writeCells s.mem (a / 64 * 64) (List.replicate 64 0)
      pkg := { s.pkg with poison := s.pkg.poison.filter (fun u => u / 8 != a / 64) } } (homeDie a) kind).fenceFrame a
  else s

/-- The same at another package, whose memory key is `k`, counted under kind 10 at die `d` which reads it (R189, R372). -/
def State.dropRemote (s : State) (d k : Nat) : State :=
  if s.pkg.poison.any (fun u => u / 8 = k / 64) then
    State.countUe { s with
      mem := writeCells s.mem (k / 64 * 64) (List.replicate 64 0)
      pkg := { s.pkg with
        poison := s.pkg.poison.filter (fun u => u / 8 != k / 64)
        fences := k / 65536 :: s.pkg.fences.filter (· != k / 65536) } } d 10
  else s

/-- The 64 data bits of a local range that are bad (R189, R209). -/
def State.badWords (s : State) (a n : Nat) : List Nat :=
  s.pkg.poison.filter (fun u => a < u * 8 + 8 && u * 8 < a + n)

/-- Every uncorrectable word of a local range is dropped (R189). -/
def State.sweep (s : State) (a n : Nat) : State :=
  (s.badWords a n).foldl (fun (s : State) u => s.dropWord (memKind a) (u * 8)) s

/-- The uncorrectable words among `n` bytes at a virtual address that an agent reads are dropped (R210). -/
def State.sweepAt (s : State) (c : Ctx) (va n : Nat) : State :=
  match s.translate c .load va with
  | .error _ => s
  | .ok pa => if s.isLocal pa then s.sweep (pa % pkgSpan) n else s

/-- The first address of a local range whose data cannot be read: bad, or in a fenced frame (R189, R305). -/
def State.firstUnreadable (s : State) (a n : Nat) : Option Nat := ((List.range n).map (a + ·)).find? s.unreadable

/-! Instruction caches (R37, R207). -/

/-- A physical core as a number. -/
def Ident.place (i : Ident) : Nat := 128 * i.die + i.core

/-- The key of a byte at a local address in the instruction cache of a core. -/
def codeKey (place a : Nat) : Nat := place * pkgSpan + a

/-- The instruction cache of one core, or of every core, loses the 128-byte lines that hold part of `n` bytes at a local
address. -/
def State.dropCode (s : State) (place : Option Nat) (a n : Nat) : State :=
  let hit (k : Nat) : Bool := (match place with
      | some p => k / pkgSpan = p
      | none => true)
    && a / 128 ≤ k % pkgSpan / 128 && k % pkgSpan / 128 ≤ (a + n - 1) / 128 && n != 0
  { s with pkg := { s.pkg with icache := s.pkg.icache.filter (fun e => !hit e.1) } }

/-! The L2s of the three dies (R205, R206): which of them hold a line, and which holds it dirty. Values do not depend on it. -/

/-- A line after a write that an agent of die `d` performs: every other copy is gone, its own is dirty. -/
def L2Line.wrote (e : L2Line) (d : Nat) : Option L2Line := if e.holders.contains d then some ⟨[d], some d⟩ else none

/-- The lines of `n` bytes at memory key `k` after a write of die `d`. -/
def linesWrote (l2 : SMap L2Line) (d k n : Nat) : SMap L2Line :=
  l2.filterMap (fun e =>
    if k / 128 ≤ e.1 && e.1 ≤ (k + n - 1) / 128 then (e.2.wrote d).map (fun x => (e.1, x)) else some e)

/-- Writes bytes of memory from a key on, for an agent of die `d`. DESIGN CHOICE, log 34: 64 data bits that are bad stay bad, whatever is
written over them. -/
def State.putBytes (s : State) (d k : Nat) (l : List Byte) : State :=
  { s with
    mem := writeCells s.mem k l
    pkg := { s.pkg with l2 := linesWrote s.pkg.l2 d k l.length } }

/-! Writes that meet the open vector writes of a hart (R213, R215, R220). -/

/-- Whether a strip write has an open byte among these memory keys. -/
def StripWrite.meets (w : StripWrite) (keys : List Nat) : Bool := w.bytes.any (fun e => keys.contains e.1)

/-- A write of other bytes that lands behind the open vector writes that it meets, so that a read which may still pass those sees it
whole or not at all, line by line (R213, R231). `cells` are its bytes with what they hold before it. -/
def Back.meet (b : Back) (source : WriteSource) (no : Nat) (cells : List (Nat × Byte)) : Back :=
  let keys := cells.map (fun e => e.1)
  let intervals := ((b.strip.filter (fun w => w.meets keys)).map (fun w => w.interval)).eraseDups
  let lines := (keys.map (· / 128)).eraseDups
  { b with strip := b.strip ++ intervals.flatMap (fun n => lines.map (fun k =>
      ⟨n, source, no, 0, source != .copy, (cells.filter (fun e => e.1 / 128 = k)).map (fun e => (e.1, e.2, 0xFF#8)), [], []⟩)) }

/-- A write of the bytes at these memory keys is noted in every hart whose open vector writes it meets, but not, where the hart at hand
makes it itself, in that one. -/
def State.meetStrips (s : State) (mine : Bool) (keys : List Nat) : State :=
  let cells := keys.map (fun k => (k, readCell s.mem k))
  let f (h : Hart) : Hart := { h with back := h.back.meet .other 0 cells }
  { s with cpu := if mine then s.cpu else f s.cpu, others := s.others.map f }

/-- Writes bytes of memory from a key on, for an agent of die `d` that is no hart. -/
def State.agentBytes (s : State) (d k : Nat) (l : List Byte) : State :=
  (s.meetStrips false ((List.range l.length).map (k + ·))).putBytes d k l

/-- An agent of die `d` reads bytes at memory keys: a line of theirs that is dirty at another die is written back (R206). -/
def State.readLines (s : State) (d : Nat) (keys : List Nat) : State :=
  { s with pkg := { s.pkg with l2 := s.pkg.l2.map (fun e =>
      if e.2.dirty.any (· != d) && keys.any (fun k => k / 128 = e.1) then (e.1, { e.2 with dirty := none }) else e) } }

/-- The L2 of die `d` takes a copy of a line; one that is dirty elsewhere is written back then (R206). -/
def State.fillLine (s : State) (d a : Nat) : State :=
  if d < 3 && (s.regionAt a).isMem then
    let e := (mfind s.pkg.l2 (a / 128)).getD ⟨[], none⟩
    let dirty := if e.dirty = some d then some d else none
    { s with pkg := { s.pkg with l2 := minsert s.pkg.l2 (a / 128) ⟨d :: e.holders.filter (· != d), dirty⟩ } }
  else s

/-- The L2 of die `d` gives up its copy of a line. -/
def State.evictLine (s : State) (d a : Nat) : State :=
  { s with pkg := { s.pkg with l2 := s.pkg.l2.filterMap (fun e =>
      if e.1 = a / 128 then
        let x : L2Line := ⟨e.2.holders.filter (· != d), if e.2.dirty = some d then none else e.2.dirty⟩
        if x.holders.isEmpty then none else some (e.1, x)
      else some e) } }

/-- A double-bit error in the copy that die `d` holds of a line (R189): a clean copy is invalidated, a dirty one dropped with the
frame of its home fenced; what memory then holds of the line is free. -/
def State.dropLine (s : State) (d a : Nat) : State :=
  match mfind s.pkg.l2 (a / 128) with
  | none => s
  | some e =>
    if !e.holders.contains d then s
    else
      let s1 := (s.evictLine d a).countUe d 2
      if e.dirty = some d then
        let line := a / 128 * 128
        (State.fenceFrame { s1 with
          mem := writeCells s1.mem line ((List.range 128).map (fun k => Config.resetByte s.tick (line + k))) } a)
      else s1

end Sys2Proof.Machine
end

