-- ==== Sys2Proof/Machine/Mgmt.lean ====
section
/-! DEFINITION. The registers of management space and of the work-queue window, as bytes that any agent reads and writes
(R1, R277–R279, R339, R371, R372, R377–R379). -/

namespace Sys2Proof.Machine

/-- A physical core, by die and position (R11, R12); its lcid is its position unless boot or a migration changed it. -/
def State.core (s : State) (d p : Nat) : CoreSt := (mfind s.pkg.cores (128 * d + p)).getD { CoreSt.reset with lcid := p }

def State.setCore (s : State) (d p : Nat) (c : CoreSt) : State :=
  { s with pkg := { s.pkg with cores := minsert s.pkg.cores (128 * d + p) c } }

/-- A core with two or more retired beds takes no work (R12). -/
def CoreSt.enabled (c : CoreSt) : Bool := c.retired.length < 2

/-- The position of the core that an lcid maps to (R11). -/
def State.coreOfLcid (s : State) (d n : Nat) : Option Nat :=
  (List.range 128).find? (fun p => (s.core d p).enabled && (s.core d p).lcid = n)

/-- Enabled cores of a die. -/
def State.coreCount (s : State) (d : Nat) : Nat := ((List.range 128).filter (fun p => (s.core d p).enabled)).length

def State.wq (s : State) (q : Nat) : WQ := mget WQ.reset s.pkg.wqs q

def State.setWq (s : State) (q : Nat) (w : WQ) : State :=
  { s with pkg := { s.pkg with wqs := mset WQ.reset s.pkg.wqs q w } }

def WQ.en (w : WQ) : Bool := bitAt w.ctl 0
def WQ.die (w : WQ) : Nat := bitsOf w.ctl 2 1
def WQ.byHart (w : WQ) : Bool := bitAt w.ctl 3
def WQ.privok (w : WQ) : Bool := bitAt w.ctl 4

/-- The part identification word of a die (R1). -/
def partWord (d : Nat) : Nat := 0x4B4D5303B0000001 + 0x10000 * d

/-- hseq of a partition, 0 while it is disabled and has no head block (R340). -/
def State.hseq (s : State) (p : Part) : Nat := if p.lcap = 0 then 0 else leNat (readCells s.mem p.labase.toNat 8)

/-- The 64-bit registers of a die's management space by offset (R377); offsets not named read 0. `d` is the die. -/
def State.mgmtReg (s : State) (d off : Nat) : Nat :=
  let c := vget DieCnt.reset s.pkg.dies d
  if off = 0 then partWord d
  else if 0x1000 ≤ off ∧ off < 0x1058 then (vget 0 c.ce ((off - 0x1000) / 8)).toNat
  else if 0x1080 ≤ off ∧ off < 0x10D8 then (vget 0 c.ue ((off - 0x1080) / 8)).toNat
  else if off = 0x1100 then c.lretry.toNat
  else if off = 0x1108 then c.wdrop.toNat
  else if off = 0x1110 then c.hdrop.toNat
  else if off = 0x1118 then c.fdrop.toNat
  else if off = 0x1120 then c.dupmis.toNat
  else if off = 0x1128 then c.fenced.toNat
  else if d = 0 ∧ off = 0x2000 then s.pkg.mgmt.mbcmd.toNat
  else if d = 0 ∧ 0x2008 ≤ off ∧ off < 0x2028 then (vget 0 s.pkg.mgmt.mbarg ((off - 0x2008) / 8)).toNat
  else if d = 0 ∧ off = 0x2028 then s.pkg.mgmt.mbstat.toNat
  else if off = 0x3000 then s.pkg.mgmt.bstate.toNat
  else if d = 0 ∧ off = 0x4000 then s.pkg.mgmt.keys.length
  else if 0x100000 ≤ off ∧ off < 0x102000 then
    match s.coreOfLcid d ((off - 0x100000) / 0x40) with
    | none => 0
    | some p =>
      let k := s.core d p
      match off % 0x40 with
      | 0x00 => k.cret.toNat
      | 0x08 => k.clane.toNat
      | 0x10 => k.cskip.toNat
      | 0x18 => k.cqstall.toNat
      | 0x20 => k.therm.toNat
      | 0x28 => k.trip.toNat
      | _ => 0
  else if d = 0 ∧ 0x200000 ≤ off ∧ off < 0x200400 then
    let p := vget Part.reset s.pkg.parts ((off - 0x200000) / 0x40)
    match off % 0x40 with
    | 0x00 => p.labase.toNat
    | 0x08 => p.lcap
    | 0x10 => p.ldrain.toNat
    | 0x18 => p.lnext.toNat
    | 0x20 => p.lsign.toNat
    | _ => 0
  else 0

/-- Byte `k` of a big-endian number of `n` bytes. -/
def beByte (n k v : Nat) : Byte := BitVec.ofNat 8 (v / 256 ^ (n - 1 - k))

/-- One byte of a die's management space: the boot measurement and the key list are byte strings, the rest registers. -/
def State.mgmtByte (s : State) (d off : Nat) : Byte :=
  if 0x3008 ≤ off ∧ off < 0x3048 then beByte 64 (off - 0x3008) s.pkg.mgmt.measure.toNat
  else if d = 0 ∧ 0x4008 ≤ off ∧ off < 0x4848 then
    match s.pkg.mgmt.keys[(off - 0x4008) / 132]? with
    | some k => beByte 132 ((off - 0x4008) % 132) k.toNat
    | none => 0
  else BitVec.ofNat 8 (s.mgmtReg d (off / 8 * 8) / 256 ^ (off % 8))

/-- A register of a work queue's page (R277). -/
def State.wqReg (s : State) (q off : Nat) : Nat :=
  let w := s.wq q
  match off with
  | 0x000 => w.base.toNat
  | 0x008 => w.size
  | 0x010 => w.root.toNat
  | 0x018 => w.ctl
  | 0x020 => w.tail.toNat
  | 0x028 => w.head.toNat
  | 0x030 => w.done.toNat
  | 0x038 => w.stat.toNat
  | _ => 0

/-- A byte at a local physical address, for an agent standing at die `d` (R201). -/
def State.localByte (s : State) (d a : Nat) : Byte :=
  match s.regionAt a with
  | .hbm | .tier2 => readCell s.mem a
  | .own off => s.mgmtByte d off
  | .mgmt e off => s.mgmtByte e off
  | .wq q off => BitVec.ofNat 8 (s.wqReg q (off / 8 * 8) / 256 ^ (off % 8))
  | .hole => 0

/-- A byte at a domain physical address (R204). -/
def State.physByte (s : State) (d pa : Nat) : Byte :=
  if s.isLocal pa then s.localByte d (pa % pkgSpan) else readCell s.mem (s.key pa)

/-- Counts a write dropped at a die (R372): in the dropped-write counter, and the host's and the fabric's own. -/
def State.countDrop (s : State) (d : Nat) (by_ : Agent) : State :=
  { s with pkg := { s.pkg with dies := vmod s.pkg.dies d (fun c =>
      let c := { c with wdrop := c.wdrop + 1 }
      match by_ with
      | .host => { c with hdrop := c.hdrop + 1 }
      | .fabric => { c with fdrop := c.fdrop + 1 }
      | _ => c) } }

/-- A write dropped in the work-queue window counts in `drops`, saturating, and at die 0 (R277, R278). -/
def State.wqDrop (s : State) (q : Nat) (by_ : Agent) : State :=
  let w := s.wq q
  let d := bitsOf w.stat.toNat 47 32
  let w := if d < 0xFFFF then { w with stat := w.stat + BitVec.ofNat 64 (2 ^ 32) } else w
  (s.setWq q w).countDrop 0 by_

/-- Who may write wqbase, wqsize, wqroot and wqctl (R277, R278). -/
def wqWriter (by_ : Agent) : Bool := by_ = .host || by_ = .privHart || by_ = .management

/-- The ring lies wholly in the populated part of one HBM window, or in the second tier (R277). -/
def ringOk (tier : Bool) (base size : Nat) : Bool :=
  let n := 128 * 2 ^ size
  (base + n ≤ 12 * gib64 && base / gib64 = (base + n - 1) / gib64 && (base + n - 1) % gib64 < 64000000000)
    || (tier && tierBase ≤ base && base + n ≤ tierEnd)

/-- A write of 64 bits to a register of a work-queue page (R277–R279). -/
def State.wqWrite (s : State) (by_ : Agent) (q off : Nat) (v : W64) : State :=
  let w := s.wq q
  match off with
  | 0x000 =>
    if w.en || !wqWriter by_ || v.toNat % 4096 != 0 || !ringOk s.pkg.tierOk v.toNat w.size then s.wqDrop q by_
    else s.setWq q { w with base := v, tail := 0, head := 0, done := 0 }
  | 0x008 =>
    if w.en || !wqWriter by_ || v.toNat < 4 || 16 < v.toNat || !ringOk s.pkg.tierOk w.base.toNat v.toNat then s.wqDrop q by_
    else s.setWq q { w with size := v.toNat }
  | 0x010 =>
    if w.en || !wqWriter by_ || v.toNat / 2 ^ 50 != 0 || bitAt v.toNat 12 then s.wqDrop q by_
    else s.setWq q { w with root := v }
  | 0x018 =>
    let n := v.toNat
    if !wqWriter by_ || bitsOf n 2 1 = 3 || (w.en && bitsOf n 3 1 != bitsOf w.ctl 3 1)
        || (bitAt n 0 != w.en && s.pkg.mgmt.bstate != 3) then
      s.wqDrop q by_
    else s.setWq q { w with ctl := if by_ = .management then n % 32 else n % 16 + 16 * w.privok.toNat }
  | 0x020 =>
    if by_ = .host && w.en && !w.byHart && w.tail.toNat ≤ v.toNat && v.toNat - w.head.toNat ≤ 2 ^ w.size then
      s.setWq q { w with tail := v }
    else s.wqDrop q by_
  | 0x038 => s.setWq q { w with stat := 0 }
  | _ => s.wqDrop q by_

/-- The data error of a partition's head block, which holds hseq and the chain, if it cannot be read (R189, R305). -/
def State.headBad (s : State) (p : Part) : Option AccFault :=
  (if p.lcap = 0 then none else s.firstUnreadable p.labase.toNat 0x50).map (fun a => ⟨.dataError, 0, memKind a, a⟩)

/-- Whether a value may be written to `ldrain` (R339). -/
def State.drainOk (s : State) (p : Part) (v : W64) : Bool :=
  (s.headBad p).isNone && v.toNat % 64 = 0 && p.ldrain.toNat ≤ v.toNat && v.toNat ≤ s.hseq p

/-- A signed statement requested by a write of lsign waits as a job of kind 3 on partition `v`; requests merge into the one
that waits (R345). -/
def State.requestStatement (s : State) (p : Nat) : State :=
  if s.pkg.jobs.any (fun j => j.kind = 3 && j.v = p) then s
  else { s with pkg := { s.pkg with jobs := s.pkg.jobs ++ [⟨3, p, 0, none, p, 0, 0, 0, []⟩] } }

/-- The management core enables a log partition at boot (R339): lcap 10 to 24, labase 64 KiB-aligned, the ring and head block
wholly in memory, and zero. A place that breaks a limit leaves the partition disabled. -/
def State.bootPartition (s : State) (e : Nat × Nat × Nat) : State :=
  let (k, a, cap) := e
  let n := 4096 + 128 * 2 ^ cap
  if k < 16 && a % 65536 = 0 && 10 ≤ cap && cap ≤ 24 && (s.regionAt a).isMem && (s.regionAt (a + n - 1)).isMem
      && (tierBase ≤ a || a / gib64 = (a + n - 1) / gib64) then
    { s with
      mem := writeCells s.mem a (List.replicate n 0)
      pkg := { s.pkg with parts := vput s.pkg.parts k { Part.reset with labase := BitVec.ofNat 64 a, lcap := cap } } }
  else s

/-- A write of 64 bits to a register of a die's management space (R339, R371, R372, R377, R378): what the writer may not
write, a refused value and an unnamed offset are dropped and counted; so is every write of another package (R208). Hart stores that PROTECTION refuses never come here. -/
def State.mgmtWrite (s : State) (by_ : Agent) (d off : Nat) (v : W64) : State :=
  let m := s.pkg.mgmt
  if by_ = .fabric then s.countDrop d by_
  else if d = 0 ∧ by_ = .host ∧ off = 0x2000 then
    if bitAt m.mbstat.toNat 0 || v = 0 || 7 < v.toNat then s.countDrop d by_
    else { s with pkg := { s.pkg with mgmt := { m with mbcmd := v, mbstat := m.mbstat ||| 1 } } }
  else if d = 0 ∧ by_ = .host ∧ 0x2008 ≤ off ∧ off < 0x2028 then
    { s with pkg := { s.pkg with mgmt := { m with mbarg := vput m.mbarg ((off - 0x2008) / 8) v } } }
  else if d = 0 ∧ 0x200000 ≤ off ∧ off < 0x200400 ∧ off % 0x40 = 0x10 then
    let k := (off - 0x200000) / 0x40
    let p := vget Part.reset s.pkg.parts k
    if (by_ = .host || by_ = .privHart) && s.drainOk p v then
      { s with pkg := { s.pkg with parts := vput s.pkg.parts k { p with ldrain := v } } }
    else s.countDrop d by_
  else if d = 0 ∧ 0x200000 ≤ off ∧ off < 0x200400 ∧ off % 0x40 = 0x20 then
    s.requestStatement ((off - 0x200000) / 0x40)
  else if by_ = .management ∧ ((0x1000 ≤ off ∧ off < 0x1058) ∨ (0x1080 ≤ off ∧ off < 0x10D8) ∨ (0x1100 ≤ off ∧ off < 0x1130)) then
    { s with pkg := { s.pkg with dies := vmod s.pkg.dies d (fun c =>
        if off < 0x1058 then { c with ce := vput c.ce ((off - 0x1000) / 8) v }
        else if off < 0x10D8 then { c with ue := vput c.ue ((off - 0x1080) / 8) v }
        else if off = 0x1100 then { c with lretry := v }
        else if off = 0x1108 then { c with wdrop := v }
        else if off = 0x1110 then { c with hdrop := v }
        else if off = 0x1118 then { c with fdrop := v }
        else if off = 0x1120 then { c with dupmis := v }
        else { c with fenced := v }) } }
  else if by_ = .management ∧ 0x100000 ≤ off ∧ off < 0x102000 ∧ off % 0x40 < 0x30 then
    match s.coreOfLcid d ((off - 0x100000) / 0x40) with
    | none => s
    | some p =>
      let k := s.core d p
      s.setCore d p (match off % 0x40 with
        | 0x00 => { k with cret := v }
        | 0x08 => { k with clane := v }
        | 0x10 => { k with cskip := v }
        | 0x18 => { k with cqstall := v }
        | 0x28 => { k with trip := v.setWidth 16 }
        | _ => k)
  else s.countDrop d by_

/-- The 64-bit value `old` with `l` written over its bytes from byte `k` on. -/
def mergeBytes (old k : Nat) (l : List Byte) : W64 :=
  BitVec.ofNat 64 (leNat (((leBytes 8 old).mapIdx (fun i b => if k ≤ i && i < k + l.length then l.getD (i - k) 0 else b))))

/-- Writes consecutive bytes that lie in one aligned doubleword of register space, at die `d`. -/
def State.regWrite (s : State) (by_ : Agent) (d a : Nat) (l : List Byte) : State :=
  match regionOf a with
  | .own off => s.mgmtWrite by_ d (off / 8 * 8) (mergeBytes (s.mgmtReg d (off / 8 * 8)) (off % 8) l)
  | .mgmt e off => s.mgmtWrite by_ e (off / 8 * 8) (mergeBytes (s.mgmtReg e (off / 8 * 8)) (off % 8) l)
  | .wq q off => s.wqWrite by_ q (off / 8 * 8) (mergeBytes (s.wqReg q (off / 8 * 8)) (off % 8) l)
  | _ => s

/-- Writes consecutive bytes at a domain physical address that the checks have passed: memory, or registers doubleword
by doubleword. -/
def State.physWrite (s : State) (by_ : Agent) (d pa : Nat) (l : List Byte) : State :=
  if s.isLocal pa && !(regionOf (pa % pkgSpan)).isMem then
    let a := pa % pkgSpan
    let n := min l.length (8 - a % 8)
    let s1 := s.regWrite by_ d a (l.take n)
    if n < l.length then s1.regWrite by_ d (a + n) (l.drop n) else s1
  else s.putBytes d (s.key pa) l

/-- Writes bytes at their physical addresses, ascending runs of consecutive addresses at once; those that their home package drops stay
(R208). -/
def State.physWrites (s : State) (by_ : Agent) (d : Nat) (pas : List Nat) (l : List Byte) : State :=
  match pas, l with
  | pa :: ps, b :: bs =>
    if s.isLocal pa && !(regionOf (pa % pkgSpan)).isMem then s.physWrite by_ d pa (b :: bs)
    else if s.drops pa then State.physWrites s by_ d ps bs
    else State.physWrites (s.putBytes d (s.key pa) [b]) by_ d ps bs
  | _, _ => s

/-- One write of an agent at physical addresses: harts whose open vector writes it meets note it, but not the hart that makes it. -/
def State.physWriteList (s : State) (by_ : Agent) (d : Nat) (pas : List Nat) (l : List Byte) : State :=
  (s.meetStrips (by_ = .hart || by_ = .privHart) (pas.map s.key)).physWrites by_ d pas l

end Sys2Proof.Machine
end

