-- ==== Sys2Proof/Machine/Flags.lean ====
section
/-! DEFINITION. Number formats, exact values, rounding, conversion, and every exception flag (R76, R81–R101). -/

namespace Sys2Proof.Machine

/-- An exact value (R94, R95): NaN, an infinity, a zero with its sign, or the non-zero fraction n / d with d > 0. -/
inductive Ex where
  | nan
  | inf (neg : Bool)
  | zero (neg : Bool)
  | rat (n : Int) (d : Nat)
  deriving DecidableEq, Repr

def Ex.int (z : Int) : Ex := if z = 0 then .zero false else .rat z 1

/-- n / d as an exact value; an exact zero takes the sign given. -/
def Ex.frac (n : Int) (d : Nat) (zneg : Bool) : Ex := if n = 0 then .zero zneg else .rat n d

def Ex.isNan (x : Ex) : Bool := x = .nan
def Ex.isZero (x : Ex) : Bool := match x with | .zero _ => true | _ => false

/-- The sign bit of a value that is not NaN. -/
def Ex.neg? (x : Ex) : Bool :=
  match x with
  | .nan => false
  | .inf s => s
  | .zero s => s
  | .rat n _ => n < 0

/-- Strictly below zero. -/
def Ex.below0 (x : Ex) : Bool :=
  match x with
  | .inf s => s
  | .rat n _ => n < 0
  | _ => false

def Ex.neg (x : Ex) : Ex :=
  match x with
  | .nan => .nan
  | .inf s => .inf !s
  | .zero s => .zero !s
  | .rat n d => .rat (-n) d

/-- Exact sum (R77, R132): an exact zero of opposite signs is +0, or −0 when rounding toward −∞ (rm = 2). -/
def Ex.add (rm : Nat) (x y : Ex) : Ex :=
  match x, y with
  | .nan, _ => .nan
  | _, .nan => .nan
  | .inf a, .inf b => if a = b then .inf a else .nan
  | .inf a, _ => .inf a
  | _, .inf b => .inf b
  | .zero a, .zero b => if a = b then .zero a else .zero (rm = 2)
  | .zero _, z => z
  | z, .zero _ => z
  | .rat n d, .rat m e => Ex.frac (n * e + m * d) (d * e) (rm = 2)

def Ex.sub (rm : Nat) (x y : Ex) : Ex := x.add rm y.neg

/-- Exact product. -/
def Ex.mul (x y : Ex) : Ex :=
  match x, y with
  | .nan, _ => .nan
  | _, .nan => .nan
  | .inf _, .zero _ => .nan
  | .zero _, .inf _ => .nan
  | .inf a, z => .inf (a != z.neg?)
  | z, .inf b => .inf (z.neg? != b)
  | .zero a, z => .zero (a != z.neg?)
  | z, .zero b => .zero (z.neg? != b)
  | .rat n d, .rat m e => .rat (n * m) (d * e)

/-- Exact quotient as IEEE 754-2019 specifies. -/
def Ex.div (x y : Ex) : Ex :=
  match x, y with
  | .nan, _ => .nan
  | _, .nan => .nan
  | .inf _, .inf _ => .nan
  | .zero _, .zero _ => .nan
  | .inf a, z => .inf (a != z.neg?)
  | z, .inf b => .zero (z.neg? != b)
  | .zero a, z => .zero (a != z.neg?)
  | z, .zero b => .inf (z.neg? != b)
  | .rat n d, .rat m e => .rat (n * e * m.sign) (d * m.natAbs)

/-- x · 2^k. -/
def Ex.scale (x : Ex) (k : Int) : Ex :=
  match x with
  | .rat n d => if 0 ≤ k then .rat (n * 2 ^ k.toNat) d else .rat n (d * 2 ^ (-k).toNat)
  | z => z

/-- x < y for values that are not NaN; zeros are equal. -/
def Ex.lt (x y : Ex) : Bool :=
  match x, y with
  | .nan, _ => false
  | _, .nan => false
  | .inf a, .inf b => a && !b
  | .inf a, _ => a
  | _, .inf b => !b
  | .zero _, .zero _ => false
  | .zero _, .rat m _ => 0 < m
  | .rat n _, .zero _ => n < 0
  | .rat n d, .rat m e => n * e < m * d

def Ex.eq (x y : Ex) : Bool := !x.isNan && !y.isNan && !x.lt y && !y.lt x

/-- Integer square root, bit by bit from bit `k` − 1 down. -/
def isqrtFrom (k n r : Nat) : Nat :=
  match k with
  | 0 => r
  | b + 1 => isqrtFrom b n (if (r + 2 ^ b) * (r + 2 ^ b) ≤ n then r + 2 ^ b else r)

/-- Square root: exact where it is rational at 2^−700, else a value between the same two neighbours of any kind, so that
one rounding gives the rounding of the exact root. -/
def Ex.sqrt (x : Ex) : Ex :=
  match x with
  | .nan => .nan
  | .inf s => if s then .nan else .inf false
  | .zero s => .zero s
  | .rat n d =>
    if n < 0 then .nan
    else
      let num := n.natAbs * 4 ^ 700
      let q := num / d
      let r := isqrtFrom 1300 q 0
      if r * r = q ∧ num % d = 0 then .rat r (2 ^ 700) else .rat (2 * r + 1) (2 ^ 701)

/-- A binary float format: exponent and mantissa widths, bias, whether it has infinities and which patterns are NaN, and
the magnitude pattern of the largest finite value (R83). -/
structure Fmt where
  ebits : Nat
  mbits : Nat
  bias : Nat
  hasInf : Bool
  hasNan : Bool
  maxPat : Nat
  nanPat : Nat
  deriving DecidableEq, Repr

def Fmt.width (f : Fmt) : Nat := 1 + f.ebits + f.mbits

def fp16 : Fmt := ⟨5, 10, 15, true, true, 0x7BFF, 0x7E00⟩
def fp32 : Fmt := ⟨8, 23, 127, true, true, 0x7F7FFFFF, 0x7FC00000⟩
def fp64 : Fmt := ⟨11, 52, 1023, true, true, 0x7FEFFFFFFFFFFFFF, 0x7FF8000000000000⟩
def bf16 : Fmt := ⟨8, 7, 127, true, true, 0x7F7F, 0x7FC0⟩
def e4m3 : Fmt := ⟨4, 3, 7, false, true, 0x7E, 0x7F⟩
def e5m2 : Fmt := ⟨5, 2, 15, true, true, 0x7B, 0x7E⟩
def e3m2 : Fmt := ⟨3, 2, 3, false, false, 0x1F, 0⟩
def e2m3 : Fmt := ⟨2, 3, 1, false, false, 0x1F, 0⟩
def e2m1 : Fmt := ⟨2, 1, 1, false, false, 0x7, 0⟩

/-- The exact value of a pattern (R83, R84). -/
def Fmt.val (f : Fmt) (p : Nat) : Ex :=
  let neg := bitAt p (f.ebits + f.mbits)
  let mag := p % 2 ^ (f.ebits + f.mbits)
  let e := mag / 2 ^ f.mbits
  let m := mag % 2 ^ f.mbits
  if f.maxPat < mag then (if f.hasInf && m = 0 then .inf neg else .nan)
  else if mag = 0 then .zero neg
  else
    let sig := if e = 0 then m else 2 ^ f.mbits + m
    let ex := (if e = 0 then 1 else e : Nat)
    let z := Ex.rat (if neg then -(sig : Int) else sig) 1
    z.scale ((ex : Int) - f.bias - f.mbits)

/-- Whether the magnitude is rounded up: quotient `q`, remainder `r` of divisor `d`, direction `rm` (R76, R89). The
reserved directions 5 to 7, which only a save area that software has edited can bring into rmode, round as 4 does: DESIGN
CHOICE, log 34. -/
def roundUp (rm : Nat) (neg : Bool) (q r d : Nat) : Bool :=
  match rm with
  | 0 => d < 2 * r || (2 * r = d && q % 2 = 1)
  | 1 => false
  | 2 => neg && r != 0
  | 3 => !neg && r != 0
  | _ => d ≤ 2 * r

/-- floor(log2(n / d)) for n, d > 0. -/
def floorLog2 (n d : Nat) : Int :=
  let k : Int := (Nat.log2 n : Int) - Nat.log2 d
  let below := if 0 ≤ k then n < d * 2 ^ k.toNat else n * 2 ^ (-k).toNat < d
  if below then k - 1 else k

/-- The magnitude n / d rounded to a multiple of 2^q. -/
def roundMag (rm : Nat) (neg : Bool) (n d : Nat) (q : Int) : Nat :=
  let num := if 0 ≤ q then n else n * 2 ^ (-q).toNat
  let den := if 0 ≤ q then d * 2 ^ q.toNat else d
  let k := num / den
  if roundUp rm neg k (num % den) den then k + 1 else k

/-- The pattern with a sign. -/
def Fmt.sign (f : Fmt) (neg : Bool) (mag : Nat) : Nat := if neg then mag + 2 ^ (f.ebits + f.mbits) else mag

/-- The overflow result (R90): IEEE for kinds with infinities, the largest finite otherwise. -/
def Fmt.overflow (f : Fmt) (rm : Nat) (neg : Bool) : Nat :=
  let toInf := match rm with
    | 0 => true
    | 1 => false
    | 2 => neg
    | 3 => !neg
    | _ => true
  f.sign neg (if f.hasInf && toInf then f.maxPat + 1 else f.maxPat)

/-- Rounds an exact value into a float kind (R89, R90, R95): the pattern, and whether the rounded magnitude overflowed or
the kind lacks the value. A NaN flags only where the kind has none. -/
def Fmt.round (f : Fmt) (rm : Nat) (x : Ex) : Nat × Bool :=
  match x with
  | .nan => if f.hasNan then (f.nanPat, false) else (0, true)
  | .inf s => if f.hasInf then (f.sign s (f.maxPat + 1), false) else (f.sign s f.maxPat, true)
  | .zero s => (f.sign s 0, false)
  | .rat n d =>
    let neg := n < 0
    let emin : Int := 1 - (f.bias : Int)
    let e := max emin (floorLog2 n.natAbs d)
    let mag := roundMag rm neg n.natAbs d (e - f.mbits) + (e - emin).toNat * 2 ^ f.mbits
    if f.maxPat < mag then (f.overflow rm neg, true) else (f.sign neg mag, false)

/-- The format of a float kind by kind and width (R81, R83); kind 9 is E8M0. -/
def fmtOf (kind w : Nat) : Fmt :=
  match kind with
  | 2 => if w = 16 then fp16 else fp32
  | 3 => bf16
  | 4 => e4m3
  | 5 => e5m2
  | 6 => e3m2
  | 7 => e2m3
  | _ => e2m1

def tagKind (t : Tag) : Nat := t.toNat % 16

/-- The width w of a tag's element (R81, R83). -/
def tagW (t : Tag) : Nat :=
  match tagKind t with
  | 0 | 1 | 2 => bitsOf t.toNat 8 4 + 1
  | 3 => 16
  | 4 | 5 => 8
  | 6 | 7 => 6
  | 8 => 4
  | _ => 8

/-- p(w): w rounded up to 1, 2, 4, 8, 16 or 32 (R85). -/
def planesOf (w : Nat) : Nat :=
  if w ≤ 1 then 1 else if w ≤ 2 then 2 else if w ≤ 4 then 4 else if w ≤ 8 then 8 else if w ≤ 16 then 16 else 32

def tagP (t : Tag) : Nat := planesOf (tagW t)

def tagIsInt (t : Tag) : Bool := tagKind t < 2
def tagSigned (t : Tag) : Bool := tagKind t = 1
def tagE8 (t : Tag) : Bool := tagKind t = 9
def tagFloat (t : Tag) : Bool := 2 ≤ tagKind t && tagKind t ≤ 8

/-- R82: a valid tag. -/
def tagValid (t : Tag) : Bool :=
  let n := t.toNat
  let wm := bitsOf n 8 4
  n / 512 = 0 && (match tagKind t with
    | 0 | 1 => true
    | 2 => wm = 15 || wm = 31
    | 3 | 4 | 5 | 6 | 7 | 8 | 9 => wm = 0
    | _ => false)

def tagInt (w : Nat) : Tag := BitVec.ofNat 16 (16 * (w - 1) + 1)
def tagUint (w : Nat) : Tag := BitVec.ofNat 16 (16 * (w - 1))
def tagFp16 : Tag := 0x00F2
def tagFp32 : Tag := 0x01F2
def tagBf16 : Tag := 0x0003
def tagE2m1 : Tag := 0x0008
def tagE8m0 : Tag := 0x0009

/-- Whether the kind has a NaN. -/
def tagHasNan (t : Tag) : Bool :=
  match tagKind t with
  | 2 | 3 | 4 | 5 | 9 => true
  | _ => false

/-- val(e, T) (R95). -/
def tval (t : Tag) (p : Nat) : Ex :=
  match tagKind t with
  | 0 => Ex.int (p % 2 ^ tagW t : Nat)
  | 1 => Ex.int (sgn (tagW t) p)
  | 9 => if p % 256 = 255 then .nan else (Ex.rat 1 1).scale ((p % 256 : Nat) - 127 : Int)
  | k => (fmtOf k (tagW t)).val p

/-- The integer value of a pattern under an integer tag. -/
def tint (t : Tag) (p : Nat) : Int := if tagSigned t then sgn (tagW t) p else (p % 2 ^ tagW t : Nat)

/-- ext(v, T) of a w-bit pattern: the extension planes of R87. -/
def extPat (t : Tag) (p : Nat) : Nat :=
  if tagSigned t then intMod (tagP t) (sgn (tagW t) p) else p % 2 ^ tagW t

/-- Least and greatest value of an integer tag. -/
def tagMin (t : Tag) : Int := if tagSigned t then -(2 ^ (tagW t - 1) : Int) else 0
def tagMax (t : Tag) : Int := if tagSigned t then 2 ^ (tagW t - 1) - 1 else 2 ^ tagW t - 1

/-- An integer into an integer tag (R91, R92): wrapped, or saturated; the flag when it does not fit. -/
def intWrite (t : Tag) (sat : Bool) (z : Int) : Nat × Bool :=
  if z < tagMin t then (intMod (tagW t) (if sat then tagMin t else z), true)
  else if tagMax t < z then (intMod (tagW t) (if sat then tagMax t else z), true)
  else (intMod (tagW t) z, false)

/-- n / d rounded to an integer in direction `rm`. -/
def roundInt (rm : Nat) (n : Int) (d : Nat) : Int :=
  let k := roundMag rm (n < 0) n.natAbs d 0
  if n < 0 then -(k : Int) else k

/-- A value that came from a float into an integer tag (R90, R126): rounded by `rm`, clamped, the flag when it does not
fit; NaN gives 0 and the flag; a negative value into a UINT tag gives 0 and the flag, also one that rounds to 0. -/
def clampWrite (t : Tag) (rm : Nat) (x : Ex) : Nat × Bool :=
  match x with
  | .nan => (0, true)
  | .inf s => (intMod (tagW t) (if s then tagMin t else tagMax t), true)
  | .zero _ => (0, false)
  | .rat n d => if n < 0 && !tagSigned t then (0, true) else intWrite t true (roundInt rm n d)

/-- A value into E8M0 (R90). -/
def e8Write (x : Ex) : Nat × Bool :=
  match x with
  | .rat n d =>
    let e := floorLog2 n.natAbs d
    if e < -127 then (0, true) else if 127 < e then (254, true) else ((e + 127).toNat, n < 0)
  | _ => (255, true)

/-- A value into a tag. `clamp` marks an integer target with a float source. The NaN row follows the kind: the flag is
set where the kind has no NaN; callers set it for conversions and for invalid operations (R90, R92). -/
def tagWrite (t : Tag) (rm : Nat) (sat clamp : Bool) (x : Ex) : Nat × Bool :=
  match tagKind t with
  | 0 | 1 =>
    if clamp then clampWrite t rm x
    else match x with
      | .rat n d => intWrite t sat (n / d)
      | _ => (0, false)
  | 9 => e8Write x
  | k => (fmtOf k (tagW t)).round rm x

/-- Conversion of a value with its R90 flag: `srcInt` marks a value of an integer kind. A NaN always flags. -/
def convWrite (t : Tag) (rm : Nat) (sat srcInt : Bool) (x : Ex) : Nat × Bool :=
  let r := tagWrite t rm sat (!srcInt) x
  (r.1, r.2 || x.isNan)

/-- An arithmetic result of float sources in an integer tag (R92, R126): rounded and clamped as a conversion, but with the flag where the
exact value lies outside the range, whatever it rounds to, and for a NaN or an infinity. -/
def arithClamp (t : Tag) (rm : Nat) (x : Ex) : Nat × Bool :=
  ((clampWrite t rm x).1, match x with
    | .nan | .inf _ => true
    | .zero _ => false
    | .rat n d => n < tagMin t * d || tagMax t * d < n)

/-- The value of an arithmetic result under a tag with the flag of its range: `clamp` marks an integer target with a float source. -/
def resultWrite (t : Tag) (rm : Nat) (sat clamp : Bool) (x : Ex) : Nat × Bool :=
  if clamp && tagIsInt t then arithClamp t rm x else tagWrite t rm sat clamp x

/-- The write of an arithmetic result (R92, R126): `nanIn` says that an operand was a NaN, `pre` that the operation
itself sets the flag. -/
def arithWrite (t : Tag) (rm : Nat) (sat clamp nanIn pre : Bool) (x : Ex) : Nat × Bool :=
  let r := resultWrite t rm sat clamp x
  (r.1, r.2 || pre || (x.isNan && !nanIn))

/-- The fixed-point view of a kind (R96): the shift f and the view width vw. -/
def viewOf (t : Tag) : Option (Nat × Nat) :=
  match tagKind t with
  | 0 => if tagW t ≤ 16 then some (0, tagW t + 1) else none
  | 1 => if tagW t ≤ 16 then some (0, tagW t) else none
  | 4 => some (9, 19)
  | 6 => some (4, 10)
  | 7 => some (3, 7)
  | 8 => some (1, 5)
  | _ => none

/-- fix(e, T) (R96); the E4M3 NaN has view 0. -/
def fixVal (t : Tag) (p : Nat) : Int :=
  match tval t p, viewOf t with
  | .rat n d, some (f, _) => n * 2 ^ f / d
  | _, _ => 0

/-- The promoted tag (R93), or none for E8M0. -/
def promote (a b : Tag) : Option Tag :=
  if tagE8 a || tagE8 b then none
  else if tagIsInt a && tagIsInt b then
    if tagSigned a = tagSigned b then some (if tagW a < tagW b then b else a)
    else
      let (i, u) := if tagSigned a then (tagW a, tagW b) else (tagW b, tagW a)
      some (tagInt (if i ≤ u then min (u + 1) 32 else i))
  else if tagIsInt a then some b
  else if tagIsInt b then some a
  else if a = b then some a
  else
    let narrow (t : Tag) : Bool := 4 ≤ tagKind t && tagKind t ≤ 8
    if narrow a && narrow b then some tagFp16
    else if narrow a then some b
    else if narrow b then some a
    else some tagFp32

/-- rne_fp32 as a value (R95). -/
def rne32 (x : Ex) : Ex := fp32.val (fp32.round 0 x).1

/-- VMIN and VMAX on exact values (R132): −0 orders below +0, one NaN gives the other operand, equal operands give A. -/
def exMin (a b : Ex) : Ex :=
  if a.isNan then b else if b.isNan then a
  else if b.lt a then b
  else if a.lt b then a
  else if b.isZero && b.neg? && !a.neg? then b else a

def exMax (a b : Ex) : Ex :=
  if a.isNan then b else if b.isNan then a
  else if a.lt b then b
  else if b.lt a then a
  else if a.isZero && a.neg? && !b.neg? then b else a

end Sys2Proof.Machine
end

