-- ==== Sys2Proof/Machine/Names.lean ====
section
/-! DEFINITION. What an instruction names: the x registers, vector registers, masks, tiles and queues that it reads and writes (R19,
R42, R85, R93, R121–R124, R160, R169). -/

namespace Sys2Proof.Machine

/-- x(10 + n) of a 3-bit register field (R48). -/
def shortReg (n : Fin 8) : Reg := Fin.ofNat 32 (10 + n.val)

/-- The x registers an instruction reads. -/
def xReads (i : Instr) : List Reg :=
  match i with
  | .ldb _ a _ | .ldh _ a _ | .ldw _ a _ | .ldd _ a _ | .ldbu _ a _ | .ldhu _ a _ | .ldwu _ a _ => [a]
  | .stb b a _ | .sth b a _ | .stw b a _ | .std b a _ => [a, b]
  | .amoswp o | .amoadd o | .amoand o | .amoor o | .amoxor o | .amomin o | .amomax o | .amominu o | .amomaxu o
  | .stl o => [o.a, o.b]
  | .amocas o => [o.a, o.b, o.d]
  | .lda o => [o.a]
  | .swr _ a _ | .srset _ a _ | .srclr _ a _ | .waite _ a | .barArm _ a => [a]
  | .icinvR a b | .tlbinv a b | .fork _ a b | .waitc _ a b | .launch _ a b | .safept _ a b | .shape _ a b _
  | .shapeM _ a b _ | .shapeG _ a b _ | .mxon _ a b => [a, b]
  | .vtag _ a | .qcfg _ a => [a]
  | .vldU o | .vldS o | .vldX o | .vldXO o | .vldSeg o | .vldC o | .vldFF o | .vtree o | .vstU o | .vstS o | .vstX o
  | .vstXO o | .vstSeg o | .vstC o => [o.xa, o.xb]
  | .vaddX o | .vsubX o | .vrsubX o | .vmulX o | .vdivX o | .vrdivX o | .vminX o | .vmaxX o | .vandX o | .vorX o
  | .vxorX o | .vsllX o | .vsrlX o | .vsraX o | .vmergeX o | .vsplat o | .vmaccX o | .vnmsacX o | .vsltX o | .vsgtX o
  | .vslideup o | .vslidedn o | .vslide1up o | .vslide1dn o | .vreshp o | .vunpk o | .vpack o | .vid o | .vmvx o | .mmvx o
  | .qdrop o => [o.vb]
  | .vmvs o | .mmvs o => [o.va, o.vb]
  | .catcfg o => [o.va]
  | .cpyG _ a b | .cpyP _ a b | .cpyX _ a b | .cpyIX _ a b => [a, b]
  | .cpyWait _ _ b | .cpyFill _ _ b => [b]
  | .hLdd _ a _ | .hLdw _ a _ => [shortReg a]
  | .hStd b a _ | .hStw b a _ => [shortReg a, shortReg b]
  | .mrdz _ _ xb => [xb]
  | .mfill _ _ xc => [xc]
  | .mldq o => [o.a, o.b, o.c]
  | .gopen _ a b c => [a, b, c]
  | .gadv _ a b | .groll _ a b => [a, b]
  | .gmask _ a | .gmaskM _ a _ | .gckpt _ a | .gfork _ a | .gfree a | .gstat _ a _ => [a]
  | .acclog a b => [a, b]
  | .vtseal _ a b c | .vtatt a b c => [a, b, c]
  | .vtdrop a c => [a, c]
  | .vtqry _ a _ => [a]
  | .add _ a b | .sub _ a b | .and _ a b | .or _ a b | .xor _ a b | .sll _ a b | .srl _ a b | .sra _ a b | .slt _ a b
  | .sltu _ a b | .mul _ a b | .mulh _ a b | .mulhu _ a b | .div _ a b | .divu _ a b | .rem _ a b | .remu _ a b
  | .min _ a b | .max _ a b | .minu _ a b | .maxu _ a b | .addw _ a b | .subw _ a b | .rol _ a b | .ror _ a b => [a, b]
  | .clz _ a | .ctz _ a | .cpop _ a => [a]
  | .addi _ a _ | .andi _ a _ | .ori _ a _ | .xori _ a _ | .slti _ a _ | .sltiu _ a _ | .slli _ a _ | .srli _ a _
  | .srai _ a _ | .rori _ a _ | .addiw _ a _ | .jalr _ a _ => [a]
  | .beq a b _ | .bne a b _ | .blt a b _ | .bge a b _ | .bltu a b _ | .bgeu a b _ => [a, b]
  | .faddS _ a b | .fsubS _ a b | .fmulS _ a b | .fdivS _ a b | .fminS _ a b | .fmaxS _ a b | .feqS _ a b | .fltS _ a b
  | .faddD _ a b | .fsubD _ a b | .fmulD _ a b | .fdivD _ a b => [a, b]
  | .fsqrtS _ a | .fcvtSL _ a | .fcvtLS _ a | .fcvtSD _ a | .fsqrtD _ a | .fcvtDS _ a | .fcvtDL _ a | .fcvtLD _ a => [a]
  | .hAddi d _ | .hSlli d _ => [d]
  | .hMov _ a | .hJmpr a => [a]
  | .hAdd d a | .hSub d a => [d, a]
  | .hBz a _ | .hBnz a _ => [shortReg a]
  | _ => []

/-- The x registers an instruction writes. -/
def xWrites (i : Instr) : List Reg :=
  match i with
  | .ldb d _ _ | .ldh d _ _ | .ldw d _ _ | .ldd d _ _ | .ldbu d _ _ | .ldhu d _ _ | .ldwu d _ _ => [d]
  | .amoswp o | .amoadd o | .amoand o | .amoor o | .amoxor o | .amomin o | .amomax o | .amominu o | .amomaxu o
  | .amocas o | .lda o => [o.d]
  | .srd d _ | .swr d _ _ | .srset d _ _ | .srclr d _ _ | .waite d _ | .barArm d _ | .barArv d | .barWt d | .barSync d
  | .barDrop d | .fork d _ _ | .join d | .waitc d _ _ | .launch d _ _ | .safept d _ _ | .yield d | .shape d _ _ _
  | .shapeM d _ _ _ | .shapeG d _ _ _ | .mxon d _ _ | .getsh d _ _ => [d]
  | .vldC o => [o.xa, o.xb]
  | .vstC o => [o.xa]
  | .mpopc o | .mfirst o | .vmvx o | .mmvx o | .qstat o | .catcnt o | .catcfg o => [o.vd]
  | .cpyG d _ _ | .cpyP d _ _ | .cpyX d _ _ | .cpyIX d _ _ | .cpyWait d _ _ | .cpyStat d _ _ | .cpyAbort d _
  | .cpyFill d _ _ => [d]
  | .hLdd d _ _ | .hLdw d _ _ => [shortReg d]
  | .mspill _ _ xc => [xc]
  | .gopen d _ _ _ | .gadv d _ _ | .gckpt d _ | .groll d _ _ | .gfork d _ | .gstat d _ _ | .accsync d | .acchead d _
  | .vtseal d _ _ _ | .vtqry d _ _ => [d]
  | .add d _ _ | .sub d _ _ | .and d _ _ | .or d _ _ | .xor d _ _ | .sll d _ _ | .srl d _ _ | .sra d _ _ | .slt d _ _
  | .sltu d _ _ | .mul d _ _ | .mulh d _ _ | .mulhu d _ _ | .div d _ _ | .divu d _ _ | .rem d _ _ | .remu d _ _
  | .min d _ _ | .max d _ _ | .minu d _ _ | .maxu d _ _ | .addw d _ _ | .subw d _ _ | .rol d _ _ | .ror d _ _ => [d]
  | .clz d _ | .ctz d _ | .cpop d _ => [d]
  | .addi d _ _ | .andi d _ _ | .ori d _ _ | .xori d _ _ | .slti d _ _ | .sltiu d _ _ | .slli d _ _ | .srli d _ _
  | .srai d _ _ | .rori d _ _ | .addiw d _ _ | .jalr d _ _ => [d]
  | .liu d _ | .pcadd d _ | .jal d _ => [d]
  | .faddS d _ _ | .fsubS d _ _ | .fmulS d _ _ | .fdivS d _ _ | .fminS d _ _ | .fmaxS d _ _ | .feqS d _ _ | .fltS d _ _
  | .faddD d _ _ | .fsubD d _ _ | .fmulD d _ _ | .fdivD d _ _ => [d]
  | .fsqrtS d _ | .fcvtSL d _ | .fcvtLS d _ | .fcvtSD d _ | .fsqrtD d _ | .fcvtDS d _ | .fcvtDL d _ | .fcvtLD d _ => [d]
  | .hAddi d _ | .hLi d _ | .hSlli d _ | .hLiu d _ | .hMov d _ | .hAdd d _ | .hSub d _ => [d]
  | _ => []

/-- The predicate mask of an operand word whose .XM names a flag mask in its place (R43, R124). -/
def predMask (o : VOps) : List Nat := if o.pm.val = 0 || o.mod.val = 2 then [] else [o.pm.val]

/-- The flag mask of .XM (R124). -/
def flagMasks (o : VOps) : List Nat := if o.mod.val = 2 then [8 + o.pm.val] else []

/-- The predicate mask of an instruction without .XM. -/
def plainMask (o : VOps) : List Nat := if o.pm.val = 0 then [] else [o.pm.val]

/-- The masks an instruction reads, those that a GMASK.M may read (R123, R155, R159, R161, R330). -/
def maskSources (i : Instr) : List Nat :=
  match i with
  | .vadd o | .vsub o | .vmul o | .vmulh o | .vdiv o | .vmin o | .vmax o | .vsqrt o | .vaddX o | .vsubX o | .vrsubX o
  | .vmulX o | .vdivX o | .vrdivX o | .vminX o | .vmaxX o | .vand o | .vor o | .vxor o | .vsll o | .vsrl o | .vsra o
  | .vmv o | .vandX o | .vorX o | .vxorX o | .vsllX o | .vsrlX o | .vsraX o | .vsplat o | .vmacc o | .vnmsac o
  | .vmadd o | .vnmsub o | .vmaccX o | .vnmsacX o | .vabs o | .vneg o | .vseq o | .vsne o | .vslt o | .vsle o | .vsltX o
  | .vsgtX o | .vlbnd o | .vclass o | .vcvtH o | .vcvtD o | .vcvtI o | .vcvtF o | .vcvtT o | .vretag o | .vredsum o
  | .vredmax o | .vredmin o | .vredand o | .vredor o | .vscan o | .vredcol o | .vrgath o | .vslideup o | .vslidedn o
  | .vslide1up o | .vslide1dn o | .vreshp o | .vunpk o | .vpack o | .vlut o | .vid o | .vclz o | .vcpop o | .vordk o
  | .vbrev o => predMask o
  | .vmerge o | .vmergeX o => [o.pm.val]
  | .vcvtQ4 o | .vredsc o | .catins o | .catlkp o | .catacc o => plainMask o
  | .vcompr o | .vexpm o => o.vb.val :: predMask o
  | .mand o | .mor o | .mxor o | .mandn o => o.va.val :: o.vb.val :: plainMask o
  | .mnot o | .mpopc o | .mfirst o => o.va.val :: plainMask o
  | .mseti o => plainMask o
  | .mmvx o => [o.va.val]
  | .gmaskM _ _ ms => (List.range (16 - ms.val)).map (ms.val + ·)
  | _ => []

/-- The masks an instruction other than the GRAMMAR ones writes. -/
def maskWrites (i : Instr) : List Nat :=
  match i with
  | .vseq o | .vsne o | .vslt o | .vsle o | .vsltX o | .vsgtX o | .vlbnd o | .vclass o => o.vd.val :: flagMasks o
  | .vadd o | .vsub o | .vmul o | .vmulh o | .vdiv o | .vmin o | .vmax o | .vsqrt o | .vaddX o | .vsubX o | .vrsubX o
  | .vmulX o | .vdivX o | .vrdivX o | .vminX o | .vmaxX o | .vand o | .vor o | .vxor o | .vsll o | .vsrl o | .vsra o
  | .vmv o | .vandX o | .vorX o | .vxorX o | .vsllX o | .vsrlX o | .vsraX o | .vsplat o | .vmacc o | .vnmsac o
  | .vmadd o | .vnmsub o | .vmaccX o | .vnmsacX o | .vabs o | .vneg o | .vcvtH o | .vcvtD o | .vcvtI o
  | .vcvtF o | .vcvtT o | .vretag o | .vredsum o | .vredmax o | .vredmin o | .vredand o | .vredor o | .vscan o
  | .vredcol o | .vunpk o | .vpack o | .vlut o | .vid o | .vclz o | .vcpop o | .vordk o | .vbrev o => flagMasks o
  | .mand o | .mor o | .mxor o | .mandn o | .mnot o | .mseti o | .mmvs o | .catins o | .catacc o => [o.vd.val]
  | .catlkp o | .catdrn o => [o.vb.val]
  | _ => []

/-! Vector registers, queues and tiles. -/

/-- The vector registers or queues that the operand word of an instruction names: sources and destinations. -/
def laneOps (i : Instr) : List Reg × List Reg :=
  match i with
  | .vadd o | .vsub o | .vmul o | .vmulh o | .vdiv o | .vmin o | .vmax o | .vand o | .vor o | .vxor o | .vsll o
  | .vsrl o | .vsra o | .vmerge o | .vmacc o | .vnmsac o | .vmadd o | .vnmsub o | .vcvtQ4 o | .vredsum o | .vredmax o
  | .vredmin o | .vredand o | .vredor o | .vredsc o | .vscan o | .vredcol o | .vrgath o | .vlut o =>
    ([o.va, o.vb], [o.vd])
  | .vsqrt o | .vaddX o | .vsubX o | .vrsubX o | .vmulX o | .vdivX o | .vrdivX o | .vminX o | .vmaxX o | .vmv o
  | .vandX o | .vorX o | .vxorX o | .vsllX o | .vsrlX o | .vsraX o | .vmergeX o | .vmaccX o | .vnmsacX o | .vabs o
  | .vneg o | .vcvtH o | .vcvtD o | .vcvtI o | .vcvtF o | .vcvtT o | .vretag o | .vslideup o | .vslidedn o
  | .vslide1up o | .vslide1dn o | .vcompr o | .vexpm o | .vreshp o | .vunpk o | .vpack o | .vclz o | .vcpop o
  | .vordk o | .vbrev o | .catlkp o => ([o.va], [o.vd])
  | .vsplat o | .vid o | .vmvs o | .catdrn o => ([], [o.vd])
  | .vseq o | .vsne o | .vslt o | .vsle o | .vlbnd o | .catins o | .catacc o => ([o.va, o.vb], [])
  | .vsltX o | .vsgtX o | .vclass o | .vmvx o => ([o.va], [])
  | .mopa _ va vb _ _ | .mops _ va vb _ _ => ([va, vb], [])
  | .mrdz vd _ _ => ([], [vd])
  | .mblk _ _ ns _ => (if ns then [] else [1], [])
  | _ => ([], [])

/-- Registers of a group of `n` rows at `p` planes. -/
def groupRegs (n p : Nat) : Nat := cdiv (n * p) 16

/-- The tag an operand field names: a register's vtag, a load queue's qtag (R93). -/
def Front.srcTag (f : Front) (r : Reg) : Tag :=
  if r.val < 28 then vget tagInt8 f.vtag r.val else vget tagInt8 f.qtag (r.val - 28)

/-- The tag of a destination field: a register's vtag, a store queue's sqtag. -/
def Front.dstTag (f : Front) (r : Reg) : Tag :=
  if r.val < 28 then vget tagInt8 f.vtag r.val else vget tagInt8 f.sqtag (r.val - 30)

/-- The registers of a source or destination field of `rows` rows under tag `t` (R85); a queue has none. -/
def regSpan (r : Reg) (rows : Nat) (t : Tag) : List Nat :=
  if r.val < 28 then (List.range (groupRegs rows (tagP t))).map (r.val + ·) else []

/-- The vector registers that an instruction reads as sources, whole groups under their tags (R85). -/
def srcRegs (i : Instr) (f : Front) : List Nat := (laneOps i).1.flatMap (fun r => regSpan r f.rc (f.srcTag r))

/-- The vector registers of the groups that an instruction writes; `cont` are the registers behind it, whose tags are those of its
results (R105). CATDRN writes two groups of 2·rc (R318), VRESHP one of its own row count (R156); MXON and MXOFF take and free
v20–v27 (R116). -/
def outRegs (i : Instr) (f cont : Front) : List Nat :=
  match i with
  | .mxon .. | .mxoff => (List.range 8).map (20 + ·)
  | .catdrn o => (List.range (4 * f.rc)).map (o.vd.val + ·)
  | .vreshp o => regSpan o.vd (cdiv (f.rc * f.vl) (f.x[o.vb.val]).toNat) (cont.dstTag o.vd)
  | _ => (laneOps i).2.flatMap (fun r => regSpan r f.rc (cont.dstTag r))

/-- The instruction reads vector registers (R269). -/
def readsRegs (i : Instr) : Bool :=
  (laneOps i).1.any (fun r => r.val < 28) || (match i with
    | .vmacc o | .vnmsac o | .vmadd o | .vnmsub o | .vmaccX o | .vnmsacX o => o.vd.val < 28
    | _ => false)

/-- The tiles that an instruction touches: 0 and 1 are za0 and za1, 2 and 3 zf0 and zf1 (R164, R169). -/
def tilesOf (i : Instr) : List Nat :=
  match i with
  | .mzero t | .mspill _ t _ | .mfill t _ _ => [t.val]
  | .mopa za .. | .mops za .. => [za.val]
  | .mblk zf za _ _ => [2 + zf.val, za.val]
  | .mrdz _ zf _ => [2 + zf.val]
  | .mxon .. | .mxoff => [0, 1, 2, 3]
  | _ => []

/-- A CAT instruction: all of them act on the one partition of the hart (R312). -/
def isCat (i : Instr) : Bool :=
  match i with
  | .catins _ | .catlkp _ | .catacc _ | .catdrn _ | .catclr | .catcnt _ | .catcfg _ => true
  | _ => false

/-- The masks that a GMASK or GMASK.M may write: how many it covers depends on its image (R330). -/
def gmaskOuts (i : Instr) : List Nat :=
  match i with
  | .gmask md _ | .gmaskM md _ _ => (List.range (16 - md.val)).map (md.val + ·)
  | _ => []

def isFence (i : Instr) : Bool :=
  match i with
  | .fence .. => true
  | _ => false

/-- LDA, and an AMO with acquire (R219). -/
def acquires (i : Instr) : Bool :=
  match i with
  | .lda _ => true
  | .amoswp o | .amoadd o | .amoand o | .amoor o | .amoxor o | .amomin o | .amomax o | .amominu o | .amomaxu o
  | .amocas o => o.aq
  | _ => false

end Sys2Proof.Machine
end

