-- ==== Sys2Proof/Machine/Ops.lean ====
section
/-! DEFINITION. The named operations that every meaning is built from: registers, completion, waiting, taking a trap and
returning from one, memory access by a hart, and the work that leaves the decoder before it completes
(R19–R25, R63–R65, R180–R190, R230–R232, R288, R369). -/

namespace Sys2Proof.Machine

/-- The outcome of a step of this machine. -/
abbrev Out := Host.Outcome State Fault Refusal

/-! Registers (R63–R65): x0 reads 0 and discards writes. -/

def Front.getX (f : Front) (r : Reg) : W64 := if r.val = 0 then 0 else f.x[r.val]

def Front.setX (f : Front) (r : Reg) (v : W64) : Front := if r.val = 0 then f else { f with x := f.x.set r.val v }

def State.getX (s : State) (r : Reg) : W64 := s.cpu.front.getX r

def State.setFront (s : State) (f : Front) : State := { s with cpu := { s.cpu with front := f } }

def State.setBack (s : State) (b : Back) : State := { s with cpu := { s.cpu with back := b } }

def State.setX (s : State) (r : Reg) (v : W64) : State := s.setFront (s.cpu.front.setX r v)

def State.setPc (s : State) (a : W64) : State := s.setFront { s.cpu.front with pc := a }

/-- u(x[r]) and s(x[r]). -/
def State.getU (s : State) (r : Reg) : Nat := (s.getX r).toNat

/-- The instruction at pc has completed and the stream goes on at `target` (R369): instret counts it, the cycle counter
has advanced by a free amount. A resume point is spent once nothing of its instruction is in flight and vstart is 0 again: an
instruction that leaves vstart alone has not resumed there (R187, R190). -/
def State.retireTo (s : State) (target : W64) : State :=
  let f := s.cpu.front
  { s with
    cpu := { s.cpu with
      front := { f with pc := target, instret := f.instret + 1, cycle := f.cycle + Config.freeCycles s.tick }
      wait := none
      due := none
      resumed := if s.cpu.inflight.isEmpty && f.vstart = 0 then 0 else s.cpu.resumed
      trapped := false }
    tick := s.tick + 1 }

/-- The instruction of `len` bytes at pc has completed. -/
def State.retire (s : State) (len : Nat) : State := s.retireTo (s.cpu.front.pc + BitVec.ofNat 64 len)

/-- The hart stays at its pc and waits (R25); time passes. -/
def State.block (s : State) (w : Wait) : State :=
  let f := s.cpu.front
  { s with
    cpu := { s.cpu with
      front := { f with cycle := f.cycle + Config.freeCycles s.tick }
      wait := some w
      asked := if s.cpu.wait = some .window then s.cpu.asked else s.tick
      trapped := false }
    tick := s.tick + 1 }

/-- The side of R18 that carries an instruction, as estat.side names it (R182): 0 front end, 1 access, 2 execute. -/
def sideOf (i : Instr) : Nat :=
  match i with
  | .ldb .. | .ldh .. | .ldw .. | .ldd .. | .ldbu .. | .ldhu .. | .ldwu .. | .stb .. | .sth .. | .stw .. | .std ..
  | .amoswp .. | .amoadd .. | .amoand .. | .amoor .. | .amoxor .. | .amomin .. | .amomax .. | .amominu .. | .amomaxu ..
  | .amocas .. | .lda .. | .stl .. | .vldU .. | .vldS .. | .vldX .. | .vldXO .. | .vldSeg .. | .vldC .. | .vldFF ..
  | .vtree .. | .vstU .. | .vstS .. | .vstX .. | .vstXO .. | .vstSeg .. | .vstC .. | .cpyG .. | .cpyP .. | .cpyX ..
  | .cpyIX .. | .cpyWait .. | .cpyStat .. | .cpyAbort .. | .cpyFill .. | .mldq .. | .acclog .. | .hLdd .. | .hStd ..
  | .hLdw .. | .hStw .. => 1
  | .mxon .. | .mxoff | .vadd .. | .vsub .. | .vmul .. | .vmulh .. | .vdiv .. | .vmin .. | .vmax .. | .vsqrt ..
  | .vaddX .. | .vsubX .. | .vrsubX .. | .vmulX .. | .vdivX .. | .vrdivX .. | .vminX .. | .vmaxX .. | .vand .. | .vor ..
  | .vxor .. | .vsll .. | .vsrl .. | .vsra .. | .vmerge .. | .vmv .. | .vandX .. | .vorX .. | .vxorX .. | .vsllX ..
  | .vsrlX .. | .vsraX .. | .vmergeX .. | .vsplat .. | .vmacc .. | .vnmsac .. | .vmadd .. | .vnmsub .. | .vmaccX ..
  | .vnmsacX .. | .vabs .. | .vneg .. | .vseq .. | .vsne .. | .vslt .. | .vsle .. | .vsltX .. | .vsgtX .. | .vlbnd ..
  | .vclass .. | .vcvtH .. | .vcvtD .. | .vcvtQ4 .. | .vcvtI .. | .vcvtF .. | .vcvtT .. | .vretag .. | .vredsum ..
  | .vredmax .. | .vredmin .. | .vredand .. | .vredor .. | .vredsc .. | .vscan .. | .vredcol .. | .vrgath ..
  | .vslideup .. | .vslidedn .. | .vslide1up .. | .vslide1dn .. | .vcompr .. | .vexpm .. | .vreshp .. | .vunpk ..
  | .vpack .. | .vlut .. | .vid .. | .vclz .. | .vcpop .. | .vordk .. | .vbrev .. | .mand .. | .mor .. | .mxor ..
  | .mandn .. | .mnot .. | .mpopc .. | .mfirst .. | .mseti .. | .vmvx .. | .vmvs .. | .mmvx .. | .mmvs .. | .qstat ..
  | .qdrop .. | .catins .. | .catlkp .. | .catacc .. | .catdrn .. | .catclr | .catcnt .. | .catcfg .. | .mzero ..
  | .mopa .. | .mops .. | .mblk .. | .mrdz .. | .mspill .. | .mfill .. | .gopen .. | .gadv .. | .gmask .. | .gmaskM ..
  | .gckpt .. | .groll .. | .gfork .. | .gfree .. | .gstat .. => 2
  | _ => 0

/-- Instructions without a resume point: they leave vstart as it stands (R161, R190). -/
def keepsVstart (i : Instr) : Bool :=
  match i with
  | .vmvx .. | .vmvs .. | .mmvx .. | .mmvs .. | .qstat .. | .mxon .. | .mxoff | .catins .. | .catlkp .. | .catacc ..
  | .catdrn .. | .catclr | .catcnt .. | .catcfg .. | .gopen .. | .gadv .. | .gmask .. | .gmaskM .. | .gckpt ..
  | .groll .. | .gfork .. | .gfree .. | .gstat .. | .acclog .. => true
  | .ldb .. | .ldh .. | .ldw .. | .ldd .. | .ldbu .. | .ldhu .. | .ldwu .. | .stb .. | .sth .. | .stw .. | .std ..
  | .amoswp .. | .amoadd .. | .amoand .. | .amoor .. | .amoxor .. | .amomin .. | .amomax .. | .amominu .. | .amomaxu ..
  | .amocas .. | .lda .. | .stl .. | .cpyG .. | .cpyP .. | .cpyX .. | .cpyIX .. | .cpyWait .. | .cpyStat ..
  | .cpyAbort .. | .cpyFill .. | .hLdd .. | .hStd .. | .hLdw .. | .hStw .. | .qcfg .. => true
  | _ => false

/-- vstart after instruction `i` (R104, R190). -/
def vstartAfter (i : Instr) (k : Nat) : Nat := if keepsVstart i then k else 0

/-! Taking a trap (R183, R184, R188) and returning from one (R190). -/

/-- The cause codes of R183. -/
def causeCode (c : Cause) : Nat :=
  match c with
  | .illegalInstruction => 1
  | .illegalTag => 2
  | .shapeViolation => 3
  | .matrixState => 4
  | .misalignedAmo => 5
  | .fetchFault => 6
  | .loadFault => 7
  | .storeFault => 8
  | .protection => 9
  | .vitrineWrite => 10
  | .dataError => 11
  | .queueStall => 12
  | .subByteStride => 13
  | .barrierOverArrival => 14
  | .catalogueConfig => 15
  | .grammarImage => 16
  | .launchReject => 17
  | .ecall => 18
  | .breakpoint => 19

/-- ilen of estat (R182). -/
def ilenCode (len : Nat) : Nat := if len = 2 then 0 else if len = 4 then 1 else 2

/-- estat as trap entry writes it (R182); `ev_valid` is 1 also whenever evstart is not 0 (R183). -/
def trapEstat (t : TrapInfo) : W64 :=
  BitVec.ofNat 64 (2 ^ 24 * t.sub + 2 ^ 20 * t.kind + 2 ^ 12 * t.queue + 2 ^ 5 * t.side
    + 2 ^ 4 * (t.evValid || t.ev != 0).toNat + 2 * ilenCode t.ilen + 1)

/-- A trap at instruction `i` that names no element and no queue (R183, R184). -/
def trapOf (i : Instr) (c : Cause) (eval sub : Nat) : TrapInfo :=
  ⟨c, BitVec.ofNat 64 eval, sub, 0, 15, sideOf i, false, 0, i.len⟩

/-- ILLEGAL_INSTRUCTION at `i`: eval holds the instruction bits (R53, R183). -/
def illegalOf (i : Instr) : TrapInfo := trapOf i .illegalInstruction (encode i) 0

/-- PROTECTION at `i` with the instruction bits in eval (R183). -/
def protectOf (i : Instr) (sub : Nat) : TrapInfo := trapOf i .protection (encode i) sub

/-- The package without what a waiting instruction of hart `uid` has reserved: accession records (R343) and a target
share (R392). -/
def Pkg.release (p : Pkg) (uid : Nat) : Pkg :=
  { p with
    parts := p.parts.map (fun x => { x with held := x.held.filter (fun e => e.1 != uid) })
    reserved := p.reserved.filter (fun e => e.uid != uid) }

/-- A launch fault (R188): the values R184 would have written go into the gang's fault record, and every member of the
gang, of both copies, stops. -/
def State.launchFault (s : State) (t : TrapInfo) : State :=
  let f := s.cpu.front
  let me := s.cpu.id
  let rec_ : List W64 := [f.pc, BitVec.ofNat 64 (causeCode t.cause), t.eval, (trapEstat t), BitVec.ofNat 64 t.ev]
  let hit (h : Hart) : Bool := h.id.gang = me.gang && h.status != .absent
  let stop (h : Hart) : Hart :=
    if hit h then
      { h with status := .stopped, wait := none, inflight := [], owed := [], halting := false, trapped := false } else h
  { s with
    cpu := { s.cpu with status := .stopped, wait := none, inflight := [], owed := [], halting := false, trapped := true }
    others := s.others.map stop
    pkg := { (s.cpu :: s.others.filter hit).foldl (fun p h => p.release h.id.uid) s.pkg with gangs := s.pkg.gangs.map (fun g =>
      if g.gid = me.gang && g.fault.isNone then { g with fault := some (rec_, me.idx, me.copy) } else g) }
    tick := s.tick + 1 }

/-- The next free number (log 5). -/
def State.draw (s : State) : Nat := Config.freeNat s.tick

def State.tock (s : State) : State := { s with tick := s.tick + 1 }

/-- The tag of a queue by its code: 0 to 3 are lq0–lq3, 4 and 5 are sq0 and sq1 (R104). -/
def Front.queueTag (f : Front) (q : Nat) : Tag :=
  if q < 4 then vget tagInt8 f.qtag q else vget tagInt8 f.sqtag (q - 4)

/-- Rows laid out head first with `p` planes an element from byte `off` on, with 64-byte word `w` zeroed (R189). DESIGN CHOICE, log 34: the
byte offset of eval counts from the head row. -/
def zeroQueueWord (p w off : Nat) (rows : List Row) : List Row :=
  match rows with
  | [] => []
  | r :: t =>
    let hit (j : Nat) : Bool := 512 * w < 8 * off + (j + 1) * p && 8 * off + j * p < 512 * (w + 1)
    { r with elems := r.elems.mapIdx (fun j e => if hit j then 0 else e) }
      :: zeroQueueWord p w (off + cdiv (r.elems.length * p) 8) t

/-- Counts a corrected error of a kind at a die (R210, R372). -/
def State.countCe (s : State) (d kind : Nat) : State :=
  if d < 3 && kind ≤ 10 then
    { s with pkg := { s.pkg with dies := vmod s.pkg.dies d (fun c => { c with ce := vmod c.ce kind (· + 1) }) } }
  else s

/-- Row `r` of 64 columns from `c0` on of a register or mask is zeroed; what has been written stays listed. -/
def zeroSegment (m : SMap (BitVec 16)) (reg r c0 : Nat) : SMap (BitVec 16) :=
  m.map (fun e => if e.1 / 65536 = reg && c0 ≤ e.1 % 65536 && e.1 % 65536 < c0 + 64
    then (e.1, e.2 &&& ~~~(BitVec.ofNat 16 (2 ^ r))) else e)

/-- One plane of a tile is zeroed in 64 lanes from `c0` on (R164, R165). How an element is split between its sum and its carry
planes cannot be observed (R166), so whether plane `p` of either held a 1 is free. -/
def zeroTileSegment (m : SMap W32) (tile mc p c0 seed : Nat) : SMap W32 :=
  m.map (fun e =>
    let lane := e.1 % 65536 / 256 * mc + e.1 % 256
    if e.1 / 65536 = tile && c0 ≤ lane && lane < c0 + 64 && Config.freeBool (seed + lane)
    then (e.1, e.2 - BitVec.ofNat 32 (2 ^ p)) else e)

/-- The first of the 64 columns of the hart's lane group that a lane-row place names, if it lies in a working bed of the share
(R12–R14). -/
def State.segmentColumn (s : State) (eval : Nat) : Option Nat :=
  let i := s.cpu.id
  let bed := bitsOf eval 19 16
  let retired := (s.core i.die i.core).retired
  if 4 * i.slot ≤ bed && bed < 4 * i.slot + i.share && !retired.contains bed then
    some (4096 * ((List.range bed).filter (fun b => 4 * i.slot ≤ b && !retired.contains b)).length + 64 * (eval % 64))
  else none

/-- Uncorrectable data in a lane row (R189, kind 3). The spec does not say which row number is which register: DESIGN CHOICE, log
34: rows 16r to 16r + 15 are those of v r, of a tile in the place of v20 to v27 in matrix mode, and rows 640 + 16k to 655 + 16k
those of m k; other rows hold nothing that an instruction reads. -/
def State.dropLaneRow (s : State) (eval : Nat) : State :=
  let b := s.cpu.back
  let row := bitsOf eval 15 6
  match s.segmentColumn eval with
  | none => s
  | some c0 =>
    if s.cpu.front.mmode && 320 ≤ row && row < 448 then
      State.tock (s.setBack { b with
        za := zeroTileSegment b.za ((row - 320) / 64) (if s.cpu.id.share = 4 then 128 else 256) (row % 32) c0 s.tick })
    else if row < 448 then s.setBack { b with v := zeroSegment b.v (row / 16) (row % 16) c0 }
    else if 640 ≤ row && row < 896 then s.setBack { b with m := zeroSegment b.m ((row - 640) / 16) (row % 16) c0 } else s

/-- What happens to uncorrectable data when it is found (R189): `eval` names the place as the kind says; a word of memory
(kinds 0 and 1), an L2 line (2) and remote data (10) are dropped where they stand, the hart's own storage is zeroed or
removed. DESIGN CHOICE, log 34: an entry index counts the catalogue's entries in insertion order, and a context number is its handle. -/
def State.dropBad (s : State) (kind eval : Nat) : State :=
  let s := if 3 ≤ kind && kind ≤ 9 then s.countUe s.cpu.id.die kind else s
  let b := s.cpu.back
  match kind with
  | 2 => s.dropLine s.cpu.id.die (eval % pkgSpan)
  | 3 => s.dropLaneRow eval
  | 4 => s.setBack { b with queues := vmod b.queues (eval % 8) (fun q =>
      { q with rows := zeroQueueWord (tagP (s.cpu.front.queueTag (eval % 8))) (eval / 256 / 64) 0 q.rows }) }
  | 5 => s.setBack { b with spad := b.spad.map (fun e => if e.1 / 64 = eval / 64 then (e.1, 0) else e) }
  | 6 =>
    let mc := if s.cpu.id.share = 4 then 128 else 256
    s.setBack { b with zf := b.zf.map (fun e =>
      if e.1 = bitsOf eval 32 32 * 65536 + eval % 65536 / mc * 256 + eval % 65536 % mc then (e.1, 0) else e) }
  | 7 => s.setBack { b with cat := { b.cat with entries := b.cat.entries.eraseIdx eval } }
  | 8 => s.setBack { b with gram := { b.gram with ctxs := b.gram.ctxs.map (fun e =>
      if e.1 = eval then (e.1, { e.2 with failed := true }) else e) } }
  | 9 => s.dropCode (some s.cpu.id.place) (eval % pkgSpan) 1
  | 10 => s.dropRemote s.cpu.id.die (s.key eval)
  | _ => s.dropWord (memKind (eval % pkgSpan)) (eval % pkgSpan)

/-- Every older instruction is complete: the queues are at rest (R110). -/
def Back.rested (b : Back) : Back := { b with queues := b.queues.map (fun q => { q with gone := [], sure := q.rows.length }) }

/-- Taking a trap at the instruction at pc, every older instruction complete (R184): epc, ecause, eval, evstart and estat
are written, vstart becomes 0, and the stream goes on at tvec; younger work is discarded and the strip interval closed
(R185, R216). A trap in a handler, with tvec = 0 or of DATA_ERROR ends the launch; uncorrectable data is dropped (R189). -/
def State.takeTrap (s : State) (t : TrapInfo) : State :=
  let s := if t.cause = .dataError then s.dropBad t.kind t.eval.toNat else s
  let f := s.cpu.front
  if bitAt f.estat.toNat 0 || f.tvec = 0 || t.cause = .dataError then s.launchFault t
  else
    { s with
      cpu := { s.cpu with
        front := { f with
          epc := f.pc
          ecause := BitVec.ofNat 64 (causeCode t.cause)
          eval := t.eval
          evstart := t.ev % 2 ^ 20
          estat := (trapEstat t)
          vstart := 0
          pc := f.tvec
          interval := f.interval + 1
          cycle := f.cycle + Config.freeCycles s.tick }
        back := s.cpu.back.rested
        wait := none
        due := none
        lanes := none
        inflight := []
        owed := []
        halting := false
        resumed := 0
        trapped := true }
      pkg := s.pkg.release s.cpu.id.uid
      tick := s.tick + 1 }

/-- The return of R190: vstart := evstart, active := 0, pc := epc; it closes a strip interval (R216). A resume point other
than 0 is noted for the guarantees of R187. -/
def State.returnFromTrap (s : State) : State :=
  let f := s.cpu.front
  let s1 := (s.setFront { f with
    vstart := f.evstart, estat := f.estat &&& ~~~(1 : W64), interval := f.interval + 1 }).retireTo f.epc
  { s1 with cpu := { s1.cpu with resumed := f.evstart } }

/-! Work that leaves the decoder before it completes (R19, R25, R185, R293). -/

/-- Instructions that the hart has retired (R369): those older than the oldest that is in flight, for the stream retires in program
order (DEDUCED, log 5). -/
def Hart.retired (h : Hart) : W64 :=
  match h.inflight with
  | [] => h.front.instret
  | p :: _ => p.front.instret

/-- No older instruction is uncompleted. -/
def State.oldest (s : State) : Bool := s.cpu.inflight.isEmpty

/-- Instructions in flight of a side. -/
def State.flights (s : State) (side : Nat) : List Pend := s.cpu.inflight.filter (fun p => sideOf p.instr = side)

/-- Window entries a hart holds (R293). -/
def Hart.entries (h : Hart) : Nat := (h.inflight.filter (fun p => sideOf p.instr = 2)).length

/-- The front end of a hart is waiting (R25, R26); a wait of ordinary issue and one in the decoder are none. -/
def Hart.frontWaits (h : Hart) : Bool :=
  match h.wait with
  | none | some .window | some (.decode _) | some .runAhead => false
  | _ => true

/-- The running harts of the hart's core beside it. -/
def State.coreMates (s : State) : List Hart :=
  s.others.filter (fun h => h.status = .running && h.id.die = s.cpu.id.die && h.id.core = s.cpu.id.core)

/-- Window entries that the harts of a list hold in slot `k` (R29); a hart and the one that runs ahead in its slot hold them together. -/
def slotEntries (l : List Hart) (k : Nat) : Nat := ((l.filter (fun h => h.id.slot = k)).map Hart.entries).sum

/-- Entries that a slot other than the hart's own is guaranteed and does not hold: of its 16, unless its front end waits (R26, R29). -/
def State.keptEntries (s : State) : Nat :=
  let mates := s.coreMates.filter (fun h => h.id.slot != s.cpu.id.slot)
  (((mates.filter (fun h => !h.frontWaits)).map (fun h => h.id.slot)).eraseDups.map (fun k => 16 - slotEntries mates k)).sum

/-- An instruction of the hart may take an entry of its core's window of 64 (R26, R29, R293). A slot below its 16 takes any free entry,
unless another below its own 16, as one is whose front end has waited, has asked before it; beyond its 16 it takes what no other slot
is guaranteed, the instruction that has waited longest first. -/
def State.mayEnter (s : State) : Bool :=
  let mates := s.coreMates
  let all := s.cpu :: mates
  let low (h : Hart) : Bool := slotEntries all h.id.slot < 16
  let used := (all.map Hart.entries).sum
  let asking := mates.filter (fun h => h.wait = some .window && h.id.slot != s.cpu.id.slot)
  let before (h : Hart) : Bool := s.cpu.wait != some .window || h.asked < s.cpu.asked
  used < 64 && (if low s.cpu then !asking.any (fun h => low h && before h)
    else used + s.keptEntries < 64 && !asking.any (fun h => low h || before h))

/-- The registers and masks an instruction reads as sources: as they stood before it (R19, R123). -/
def State.srcLanes (s : State) : SMap (BitVec 16) × SMap (BitVec 16) :=
  match s.cpu.lanes with
  | some l => l
  | none => (s.cpu.back.v, s.cpu.back.m)

/-- The instruction leaves the decoder unfinished, `k` elements into its work, waiting on the queues `on`; the stream goes
on behind it with the registers `cont` (R105, R112). `src` are the lanes it goes on reading. -/
def State.suspendAs (s : State) (i : Instr) (k : Nat) (on : List Nat) (full : Bool) (cont : Front)
    (src : Option (SMap (BitVec 16) × SMap (BitVec 16))) : State :=
  let p : Pend := ⟨i, { s.cpu.front with vstart := k }, s.cpu.back, on, full, src, s.cpu.owed, false, false, s.cpu.due,
    outRegs i s.cpu.front cont⟩
  let s1 := { s with cpu := { s.cpu with inflight := s.cpu.inflight ++ [p], lanes := none } }
  (s1.setFront { cont with vstart := vstartAfter i cont.vstart }).retire i.len

/-- As `suspendAs`, for an instruction that leaves shape and tags alone. -/
def State.suspend (s : State) (i : Instr) (k : Nat) (on : List Nat) (full : Bool) : State :=
  s.suspendAs i k on full s.cpu.front s.cpu.lanes

/-- Keeps the instruction until every older one has completed. -/
def State.hold (s : State) (i : Instr) : State :=
  if sideOf i = 0 then s.block .oldest else s.suspend i s.cpu.front.vstart [] false

/-- Keeps an instruction that will trap until every older one has completed (R20). -/
def State.holdFault (s : State) (i : Instr) : State :=
  if sideOf i = 0 then s.block .fault
  else
    let t := s.suspend i s.cpu.front.vstart [] false
    { t with cpu := { t.cpu with
        inflight := s.cpu.inflight ++ (t.cpu.inflight.drop s.cpu.inflight.length).map (fun p => { p with faulty := true }) } }

/-- A trap at `i`: taken once it is the oldest uncompleted instruction (R20, R185), held until then; uncorrectable data is
dropped when it is found (R189, R210). -/
def State.raise (s : State) (i : Instr) (t : TrapInfo) : State :=
  if s.oldest then s.takeTrap t
  else (if t.cause = .dataError then s.dropBad t.kind t.eval.toNat else s).holdFault i

/-- Runs `body` when `i` is the oldest uncompleted instruction of the hart (R25, R185). -/
def State.whenOldest (s : State) (i : Instr) (body : State → State) : State :=
  if s.oldest then body s else s.hold i

/-- Whether an instruction names queue `q` (R108's codes) as source or destination (R42, R114). -/
def namesQueue (i : Instr) (q : Nat) : Bool :=
  match i with
  | .vldU o | .vldS o | .vldSeg o | .vldC o | .vldFF o | .vtree o => o.q.val = q
  | .vldX o | .vldXO o => o.q.val = q || q = 5
  | .vstU o | .vstS o | .vstSeg o | .vstC o => 4 + o.q.val = q
  | .vstX _ | .vstXO _ => q = 4 || q = 5
  | .qstat o | .qdrop o => o.va.val = q
  | .cpyIX .. => q = 5
  | .mspill sq _ _ => 4 + sq.val = q
  | .mfill _ lq _ => lq.val = q
  | .mldq o => o.q.val = q
  | .acclog .. => q = 4
  | .qcfg n _ => n.val = q
  | .shapeM _ _ _ t => t.val = 28 + q
  | _ => (q < 4 && (laneOps i).1.any (fun r => r.val = 28 + q)) || (4 ≤ q && (laneOps i).2.any (fun r => r.val = 26 + q))

/-- An older QCFG of a queue that the instruction names has not completed (R114). -/
def State.queueHeld (s : State) (i : Instr) : Bool :=
  s.cpu.inflight.any (fun p =>
    match p.instr with
    | .qcfg n _ => namesQueue i n.val
    | _ => false)

/-- An execute-side instruction `i` with the registers `f` before it and `cont` behind it waits for the older execute-side `p` (R19,
R121, R169, R294): for a register that `p` writes, whether `i` reads it or may keep elements of it; for a mask, which is not renamed;
for a queue that both name, a tile that both touch, and the catalogue. -/
def Pend.delays (p : Pend) (i : Instr) (f cont : Front) : Bool :=
  let masks := maskWrites i ++ gmaskOuts i
  let made := maskWrites p.instr ++ gmaskOuts p.instr
  (srcRegs i f ++ outRegs i f cont).any p.out.contains
    || (maskSources i ++ masks).any made.contains || masks.any (maskSources p.instr).contains
    || (List.range 6).any (fun q => namesQueue i q && namesQueue p.instr q)
    || (tilesOf i).any (tilesOf p.instr).contains || (isCat i && isCat p.instr)

/-- Whether `i` may start behind the instructions in flight, with the registers `cont` behind it (R19, R114, R269, R294): the access
unit starts in program order; on the execute side a younger instruction goes on while an older one that it does not depend on
waits, but one that reads vector registers waits for an older acquire; both wait for an older QCFG of a queue they name, and behind a
FENCE. -/
def State.inTurn (s : State) (i : Instr) (cont : Front) : Bool :=
  !s.queueHeld i && !s.cpu.inflight.any (fun p => isFence p.instr) && (if sideOf i = 2 then
      !s.cpu.inflight.any (fun p =>
        (sideOf p.instr = 2 && p.delays i s.cpu.front cont) || (readsRegs i && acquires p.instr))
    else (s.flights (sideOf i)).isEmpty)

/-- Runs `body` when the instruction may start (R19, R114, R294). -/
def State.inOrder (s : State) (i : Instr) (body : State → State) : State :=
  if s.inTurn i s.cpu.front then body s else s.hold i

/-- As `inOrder`, for an instruction that retags: the stream goes on with the registers `cont` behind it (R105). -/
def State.inOrderAs (s : State) (i : Instr) (cont : Front) (body : State → State) : State :=
  if s.inTurn i cont then body s else s.suspendAs i s.cpu.front.vstart [] false cont s.cpu.lanes

/-! Memory access by a hart (R230–R232, R288). -/

/-- The trap of an access fault at `i`; `queue` is the queue code or 15, `ev` the element with `evValid`. -/
def accTrap (i : Instr) (f : AccFault) (queue : Nat) (evValid : Bool) (ev : Nat) : TrapInfo :=
  ⟨f.cause, BitVec.ofNat 64 f.addr, f.sub, f.kind, queue, sideOf i, evValid, ev, i.len⟩

/-- Reads `n` bytes at a virtual address (R231, R232). -/
def State.loadBytes (s : State) (va n : Nat) : Except AccFault (List Byte) :=
  match s.accessBytes s.cpu.ctx .load false (vaRange va n) with
  | .error f => .error f
  | .ok pas => .ok (pas.map (s.physByte s.cpu.id.die))

/-- A strip write whose bytes at the memory keys that `p` selects are behind it for every later read. -/
def StripWrite.settle (w : StripWrite) (p : Nat → Bool) : StripWrite :=
  { w with bytes := w.bytes.filter (fun e => !p e.1), done := w.done ++ (w.bytes.map (fun e => e.1)).filter p }

/-- An access is ordered behind the writes of its bytes: of a vector element, behind all of it (R220), and of another agent, behind its
bytes in common. -/
def settleWrites (l : List StripWrite) (keys : List Nat) : List StripWrite :=
  let met := (l.filter (fun w => w.source = .vector && w.meets keys)).map (fun w => w.access)
  l.map (fun w => w.settle (fun k => keys.contains k || (w.source = .vector && met.contains w.access)))

/-- Reads `n` bytes as a load of the hart does (R206, R215): with the state behind that read, which is ordered behind the strip
interval's writes of its bytes. -/
def State.loadRead (s : State) (va n : Nat) : Except AccFault (State × List Byte) :=
  match s.accessBytes s.cpu.ctx .load false (vaRange va n) with
  | .error f => .error f
  | .ok pas =>
    let b := s.cpu.back
    .ok ((s.readLines s.cpu.id.die (pas.map s.key)).setBack { b with strip := settleWrites b.strip (pas.map s.key) },
      pas.map (s.physByte s.cpu.id.die))

/-- Reads `n` bytes for a forest walker or the grammar engine (R208). -/
def State.engineLoad (s : State) (va n : Nat) : Except AccFault (List Byte) :=
  match s.engineBytes s.cpu.ctx .load false (vaRange va n) with
  | .error f => .error f
  | .ok pas => .ok (pas.map (s.physByte s.cpu.id.die))

/-- Copy 1 of a duplicated launch performs no write (R288). -/
def State.secondCopy (s : State) : Bool := s.cpu.id.copy = 1

/-- The hart belongs to a duplicated launch (R288). -/
def State.inDup (s : State) : Bool := s.pkg.gangs.any (fun g => g.gid = s.cpu.id.gang && g.dup)

/-- Inserts a digest record behind all records of instructions that are not younger. -/
def digestInsert (d : List (Nat × List Byte)) (key : Nat) (r : List Byte) : List (Nat × List Byte) :=
  d.filter (fun e => e.1 ≤ key) ++ [(key, r)] ++ d.filter (fun e => key < e.1)

/-- Adds one record to the write digest of a duplicated launch, at the place in program order of instruction number `no`, and behind
those of its records whose number is not above `sub` (R288). -/
def State.noteWriteAt (s : State) (no sub va : Nat) (l : List Byte) : State :=
  if s.inDup then
    { s with cpu := { s.cpu with
        digest := digestInsert s.cpu.digest (no * 2 ^ 32 + sub) (leBytes 8 va ++ [BitVec.ofNat 8 l.length] ++ l) } }
  else s

/-- As `noteWriteAt`, for the instruction at hand. -/
def State.noteWrite (s : State) (va : Nat) (l : List Byte) : State := s.noteWriteAt s.cpu.front.instret.toNat 0 va l

/-- Who a hart writes as (R277, R339). -/
def State.agent (s : State) : Agent := if s.cpu.id.priv then .privHart else .hart

/-! What orders the accesses of a strip interval that one hart can see (R215, R219–R223). -/

/-- The vector writes of instructions older than number `no` perform, at these bytes, before anything that follows. -/
def State.settleBefore (s : State) (no : Nat) (pas : List Nat) : State :=
  let keys := pas.map s.key
  let b := s.cpu.back
  s.setBack { b with strip := b.strip.map (fun w => if w.source = .vector && w.by_ < no then w.settle keys.contains else w) }

/-- An access other than a vector element's is ordered behind the open strip interval's writes of its bytes (R215). -/
def State.settleStrip (s : State) (pas : List Nat) : State :=
  let b := s.cpu.back
  s.setBack { b with strip := settleWrites b.strip (pas.map s.key) }

/-- The strip writes that `p` selects have performed before anything that follows. -/
def State.settleAll (s : State) (p : StripWrite → Bool) : State :=
  let b := s.cpu.back
  s.setBack { b with strip := b.strip.map (fun w => if p w then w.settle (fun _ => true) else w) }

/-- Every vector write of an instruction older than number `no` has performed before anything that follows: a chain of R220
leads from the one to the other. -/
def State.orderBehind (s : State) (no : Nat) : State :=
  let s1 := s.settleAll (fun w => w.source = .vector && w.by_ < no)
  s1.setBack { s1.cpu.back with rels := s1.cpu.back.rels.filter (fun r => no ≤ r.by_) }

/-- Every copy of the hart up to the one with number `no` has performed before anything that follows (R222). -/
def State.orderCopies (s : State) (no : Nat) : State := s.settleAll (fun w => w.source = .copy && w.by_ ≤ no)

/-- A release (R219, R223, R359), noted while the strip interval has writes that a later acquire could order. -/
def State.noteRelease (s : State) (kind : RelKind) (pas : List Nat) : State :=
  let b := s.cpu.back
  if b.strip.isEmpty then s
  else s.setBack { b with rels := b.rels ++ [⟨kind, s.cpu.front.instret.toNat, pas.map s.key⟩] }

/-- An acquire (R219, R223, R359): what is older than a release that it is known to read from is ordered before everything that
follows; it may read from another of the hart's releases by way of other agents, which is free. Of the writes that others have made,
which of them happen before the acquire is not followed: all have performed before what follows (DEDUCED, log 26). -/
def State.acquire (s : State) (reads : Release → Bool) : State :=
  let s := s.settleAll (fun w => w.source = .other)
  if s.cpu.back.rels.isEmpty then s
  else (s.orderBehind (s.cpu.back.rels.foldl (fun n r => if reads r || Config.freeBool (s.tick + r.by_) then max n r.by_ else n) 0)).tock

/-- Performs a hart's scalar write of bytes at checked physical addresses: noted for the digest, and performed unless it
is the second copy's (R288). -/
def State.performWrite (s : State) (va : Nat) (pas : List Nat) (l : List Byte) : State :=
  let s1 := s.noteWrite va l
  if s1.secondCopy then s1 else (s1.settleStrip pas).physWriteList s1.agent s1.cpu.id.die pas l

/-- Writes bytes at a virtual address, or the fault of the lowest byte (R231, R232). -/
def State.storeBytes (s : State) (va : Nat) (l : List Byte) : Except AccFault State :=
  match s.accessBytes s.cpu.ctx .store false (vaRange va l.length) with
  | .error f => .error f
  | .ok pas => .ok (s.performWrite va pas l)

/-! The share (R13–R15, R106, R115). -/

/-- Working beds of a share: of beds 4k to 4k + s − 1 of the core, those not retired (R12, R14). -/
def State.workBeds (s : State) (i : Ident) : Nat :=
  let c := s.core i.die i.core
  ((List.range i.share).filter (fun b => !c.retired.contains (4 * i.slot + b))).length

def State.vlmaxOf (s : State) (i : Ident) : Nat := 4096 * s.workBeds i

def State.vlmax (s : State) : Nat := s.vlmaxOf s.cpu.id

/-- Capacity of each queue in bytes: 256 KiB · s / 16 (R15). -/
def State.qcap (s : State) : Nat := 16384 * s.cpu.id.share

/-- Bytes of scratchpad (R15). -/
def State.spadSize (s : State) : Nat := 65536 * s.cpu.id.share

/-- MCMAX and MRMAX (R115). -/
def mcmaxOf (share : Nat) : Nat := if share = 4 then 128 else 256

def State.mrmaxOf (s : State) (i : Ident) : Nat := s.vlmaxOf i / mcmaxOf i.share / 32 * 32

/-- The slots of a share. -/
def Ident.slots (i : Ident) : List (Nat × Nat) := (List.range (i.share / 4)).map (fun k => (i.core, i.slot + k))

/-- Hart `h` has been bound to slots whose hart has not retired its HALT (R22): that hart. -/
def State.aheadOf (s : State) (h : Hart) : Option Hart :=
  (s.cpu :: s.others).find? (fun k => k.status = .running && k.id.uid < h.id.uid && k.id.die = h.id.die
    && k.id.slots.any (fun t => h.id.slots.contains t))

/-- The gang of the hart. -/
def State.gang (s : State) : Option Gang := s.pkg.gangs.find? (fun g => g.gid = s.cpu.id.gang)

def State.setGang (s : State) (g : Gang) : State :=
  { s with pkg := { s.pkg with gangs := s.pkg.gangs.map (fun h => if h.gid = g.gid then g else h) } }

/-- A member of its gang, not a FORK child (R24). -/
def State.isMember (s : State) : Bool := s.cpu.id.parent.isNone && s.gang.isSome

/-- Every hart of the package that is not absent. -/
def State.harts (s : State) : List Hart := (s.cpu :: s.others).filter (fun h => h.status != .absent)

/-- A hart put into a list ordered by number. -/
def insertHart (h : Hart) (l : List Hart) : List Hart :=
  match l with
  | [] => [h]
  | x :: t => if x.id.uid < h.id.uid then x :: insertHart h t else h :: x :: t

/-- Live FORK children of the hart, most recent last: those it has not joined, ended or not (R23, R24). -/
def State.children (s : State) : List Hart :=
  (s.others.filter (fun h => h.id.parent = some s.cpu.id.uid && h.status != .absent)).foldr insertHart []

/-- Recomputes GVLMAX of the gang as the least VLMAX of its members (R106). -/
def State.regrant (s : State) (gid : Nat) : State :=
  let ms := (s.cpu :: s.others).filter (fun h => h.id.gang = gid && h.id.parent.isNone && h.status != .absent)
  let v := ms.foldl (fun a h => min a (s.vlmaxOf h.id)) 65536
  { s with pkg := { s.pkg with gangs := s.pkg.gangs.map (fun g => if g.gid = gid then { g with gvlmax := v } else g) } }

/-! Queues (R252–R255): codes 0 to 3 are lq0–lq3, 4 and 5 are sq0 and sq1. -/

def Back.queue (b : Back) (q : Nat) : QState := vget QState.empty b.queues q

/-- Bytes of a row of `n` elements under a tag (R253). -/
def rowBytes (t : Tag) (n : Nat) : Nat := cdiv (n * tagP t) 8

/-- fill: bytes of the visible rows (R253). -/
def State.fill (s : State) (q : Nat) : Nat :=
  ((s.cpu.back.queue q).rows.map (fun r => rowBytes (s.cpu.front.queueTag q) r.elems.length)).sum

/-- The rows that hold a reservation: of what a load has begun to read and not completed, the row that comes next (R240, R249); a row
that it has read beside that one reserves its space when it is about to become visible (DEDUCED, log 25). -/
def QState.reserved (x : QState) : List Row :=
  (x.part.filter (fun r => r.done < r.elems.length)).foldl (fun l r => if l.any (fun e => e.by_ = r.by_) then l else l ++ [r]) []

/-- free space; the row that a load has begun keeps its reservation (R249, R253). -/
def State.free (s : State) (q : Nat) : Nat :=
  s.qcap - s.fill q - (((s.cpu.back.queue q).reserved.filter (fun _ => q < 4)).map (fun r => rowBytes (s.cpu.front.queueTag q) r.elems.length)).sum

def Back.setQueue (b : Back) (q : Nat) (x : QState) : Back := { b with queues := vput b.queues q x }

def Back.modQueue (b : Back) (q : Nat) (f : QState → QState) : Back := { b with queues := vmod b.queues q f }

/-- Appends a row behind all rows of queue `q` (R125, R240). -/
def State.pushRow (s : State) (q : Nat) (elems : List Nat) : State :=
  { s with cpu := { s.cpu with
      back := s.cpu.back.modQueue q (fun x => { x with
        rows := x.rows ++ [⟨elems, 0, s.cpu.nextId, s.cpu.front.instret.toNat⟩] })
      nextId := s.cpu.nextId + 1 } }

/-- The numbers at the head of a list that come to no more than `room`. -/
def within (room : Nat) (l : List Nat) : List Nat :=
  match l with
  | [] => []
  | n :: t => if n ≤ room then n :: within (room - n) t else []

/-- The queue without its `n` head rows; of the rows gone, it remembers as many as a queue of 256 KiB can hold. -/
def QState.take (x : QState) (n : Nat) : QState :=
  { x with
    rows := x.rows.drop n
    gone := within (2 ^ 21) ((x.rows.take n).reverse.map (fun r => r.elems.length) ++ x.gone)
    sure := x.sure - n }

/-- Takes `n` rows from the head of queue `q` (R255). -/
def Back.popRows (b : Back) (q n : Nat) : Back := b.modQueue q (fun x => x.take n)

end Sys2Proof.Machine
end

