-- ==== Sys2Proof/Machine/Operands.lean ====
section
/-! DEFINITION. The operand forms of the execute side: register groups and their planes, queue heads and tails, masks, x
operands, and the two ways an instruction makes its rows architectural (R42, R85–R88, R105, R122–R130, R152, R387). -/

namespace Sys2Proof.Machine

/-! Planes and masks (R85, R87, R88, R122). -/

/-- The 16 planes of a register in one lane. -/
def planeWord (v : SMap (BitVec 16)) (reg col : Nat) : Nat := (mget 0 v (reg * 65536 + col)).toNat

/-- The `w`-bit element at row `r`, column `c` of the group based at `base`, read with `p` planes (R85, R88). -/
def readElem (v : SMap (BitVec 16)) (base w p r c : Nat) : Nat :=
  let k := r * p
  (planeWord v (base + k / 16) c + 65536 * planeWord v (base + k / 16 + 1) c) / 2 ^ (k % 16) % 2 ^ w

/-- Writes all `p` planes of an element (R85, R87). -/
def writeElem (v : SMap (BitVec 16)) (base p r c pat : Nat) : SMap (BitVec 16) :=
  let k := r * p
  let put (v : SMap (BitVec 16)) (reg lo n x : Nat) : SMap (BitVec 16) :=
    let old := planeWord v reg c
    minsert v (reg * 65536 + c) (BitVec.ofNat 16 (old - old / 2 ^ lo % 2 ^ n * 2 ^ lo + x % 2 ^ n * 2 ^ lo))
  if p = 32 then put (put v (base + k / 16) 0 16 pat) (base + k / 16 + 1) 0 16 (pat / 65536)
  else put v (base + k / 16) (k % 16) p pat

/-- Bit (r, c) of a mask (R122). -/
def maskBit (m : SMap (BitVec 16)) (k r c : Nat) : Bool := bitAt (mget 0 m (k * 65536 + c)).toNat r

def setMaskBit (m : SMap (BitVec 16)) (k r c : Nat) (b : Bool) : SMap (BitVec 16) :=
  let old := (mget 0 m (k * 65536 + c)).toNat
  minsert m (k * 65536 + c) (BitVec.ofNat 16 (old - old / 2 ^ r % 2 * 2 ^ r + b.toNat * 2 ^ r))

/-! Groups (R85, R86). -/

/-- `g` rounded up to a power of two. -/
def pow2Up (g : Nat) : Nat := if g ≤ 1 then 1 else if g ≤ 2 then 2 else if g ≤ 4 then 4 else if g ≤ 8 then 8 else if g ≤ 16 then 16 else 32

/-- R86: the group is misplaced, or reaches into v20–v27 while matrix mode is on. -/
def groupBad (mmode : Bool) (base g : Nat) : Bool :=
  base % pow2Up g != 0 || 28 < base + g || (mmode && 20 < base + g)

/-- eval of SHAPE_VIOLATION: the register field and the registers required (R183). -/
def shapeEval (field regs : Nat) : Nat := field + 256 * (regs % 32)

/-- The result tag under which a destination is written: a store queue's own (R126, R387). -/
def Front.outTag (f : Front) (d : Reg) (kr : Tag) : Tag := if d.val < 28 then kr else f.dstTag d

/-- Writes `t` into vtag of the `g` registers from `base`; at least the base (R105, R128). -/
def Front.retag (f : Front) (base g : Nat) (t : Tag) : Front :=
  { f with vtag := (List.range (max g 1)).foldl (fun v k => vput v (base + k) t) f.vtag }

/-- The retagging of a destination field of `rows` rows (R105); a store queue keeps its tag. -/
def Front.retagDst (f : Front) (d : Reg) (rows : Nat) (kr : Tag) : Front :=
  if d.val < 28 then f.retag d.val (groupRegs rows (tagP kr)) kr else f

/-- A field that names v20–v27 while matrix mode is on (R86, R126 step 1). -/
def namesTile (f : Front) (r : Reg) : Bool := f.mmode && 20 ≤ r.val && r.val < 28

/-- A group check of R126 step 3: fields, their tags and row counts, in order; queue codes have no group. -/
def groupFault (f : Front) (l : List (Reg × Tag × Nat)) : Option Nat :=
  match l with
  | [] => none
  | (r, t, n) :: rest =>
    if r.val < 28 && n != 0 && groupBad f.mmode r.val (groupRegs n (tagP t)) then
      some (shapeEval r.val (groupRegs n (tagP t)))
    else groupFault f rest

/-- A trap of an execute-side or access-side instruction that names no element: it resumes where it began (R184). -/
def vTrap (f : Front) (i : Instr) (c : Cause) (eval : Nat) : TrapInfo :=
  { trapOf i c eval 0 with ev := f.vstart, evValid := f.vstart != 0 }

/-- As `vTrap`, for an instruction that is discarded whole: its resume point is 0 (R184). -/
def wTrap (i : Instr) (c : Cause) (eval : Nat) : TrapInfo := trapOf i c eval 0

/-- The first field of the list that names v20–v27 in matrix mode, as eval. -/
def tileFault (f : Front) (l : List (Reg × Tag)) : Option Nat :=
  match l with
  | [] => none
  | (r, t) :: rest =>
    if namesTile f r then some (shapeEval r.val (groupRegs f.rc (tagP t))) else tileFault f rest

/-- eval of ILLEGAL_TAG: the first refused tag and the second or 0 (R183). -/
def tagEval (a b : Tag) : Nat := a.toNat + 65536 * b.toNat

/-! Sources (R42, R88). -/

/-- Whether a source field names a load-queue head, and which. -/
def headOf (r : Reg) : Option Nat := if 28 ≤ r.val then some (r.val - 28) else none

/-- The distinct queue heads a list of source fields names (R42: one head in two fields is read once). -/
def headsOf (l : List Reg) : List Nat := (l.filterMap headOf).eraseDups

/-- `n` elements of the `k`-th visible row of queue `q`, as stored; columns that the row does not have are free (log 13). -/
def headElems (b : Back) (q k n : Nat) : List Nat :=
  let (id, e) := match (b.queue q).rows[k]? with
    | some x => (x.id, x.elems)
    | none => (0, [])
  e.take n ++ (List.range (n - e.length)).map (fun c => Config.rowBeyond id (e.length + c))

/-- `n` elements of row `row` of the group based at `base`, under tag `t`. -/
def regRow (v : SMap (BitVec 16)) (base : Nat) (t : Tag) (row n : Nat) : List Nat :=
  (List.range n).map (readElem v base (tagW t) (tagP t) row)

/-- Row `row` of a source, `n` elements under its tag: a register group's row, or the `k`-th head row. -/
def srcRow (v : SMap (BitVec 16)) (b : Back) (f : Front) (r : Reg) (row k n : Nat) : List Nat :=
  match headOf r with
  | none => regRow v r.val (f.srcTag r) row n
  | some q => (headElems b q k n).map (· % 2 ^ tagW (f.srcTag r))

/-- One element of the `k`-th visible row of queue `q`. -/
def headElem (b : Back) (q k c : Nat) : Nat :=
  match (b.queue q).rows[k]? with
  | some x => if c < x.elems.length then x.elems.getD c 0 else Config.rowBeyond x.id c
  | none => 0

/-- Row `row` of a source with all p(w) planes that are stored for each element, the head row's by R142 (R87, R88). -/
def srcPlanes (v : SMap (BitVec 16)) (b : Back) (f : Front) (r : Reg) (row k n : Nat) : List Nat :=
  let t := f.srcTag r
  match headOf r with
  | none => (List.range n).map (readElem v r.val (tagP t) (tagP t) row)
  | some q => (headElems b q k n).map (extPat t)

/-- A column reference src(row, c) of R154: tail content included, ext(0) outside 0 to VLMAX − 1. For an E8M0 source, a kind
without a zero, that is pattern 0x00: DESIGN CHOICE, log 34. -/
def srcCol (vlmax : Nat) (v : SMap (BitVec 16)) (b : Back) (f : Front) (r : Reg) (row k : Nat) (c : Int) : Nat :=
  if c < 0 || (vlmax : Int) ≤ c then 0
  else match headOf r with
    | none => readElem v r.val (tagW (f.srcTag r)) (tagP (f.srcTag r)) row c.toNat
    | some q => headElem b q k c.toNat % 2 ^ tagW (f.srcTag r)

/-- Bits of a mask row. -/
def maskRow (m : SMap (BitVec 16)) (k r n : Nat) : List Bool := (List.range n).map (fun c => maskBit m k r c)

/-- The predicate row of an instruction: all active without one and under .XM (R43, R123). -/
def predRow (m : SMap (BitVec 16)) (o : VOps) (xm : Bool) (r n : Nat) : List Bool :=
  if o.pm.val = 0 || xm then List.replicate n true else maskRow m o.pm.val r n

/-- An x value converted to a tag (R90, R127): INT reads s(x), UINT u(x), float kinds and E8M0 x[31:0] as FP32. -/
def convX (t : Tag) (rm : Nat) (sat : Bool) (x : W64) : Nat × Bool :=
  if tagIsInt t then intWrite t sat (if tagSigned t then x.toInt else (x.toNat : Int))
  else convWrite t rm false false (fp32.val (x.toNat % 2 ^ 32))

/-! Destinations and rows. -/

/-- Where results go. -/
inductive Dst where
  /-- register group based at a register, under a tag -/
  | reg (base : Nat) (t : Tag)
  /-- tail of store queue `q` -/
  | sq (q : Nat)
  | msk (m : Nat)
  | nowhere
  deriving DecidableEq, Repr

/-- The destination a vd field names, under result tag `t` (R42, R125). -/
def dstOf (d : Reg) (t : Tag) : Dst := if d.val < 28 then .reg d.val t else .sq (d.val - 26)

/-- One row of results: a value to write or none to keep, and the exception flags. -/
structure RowOut where
  vals : List (Option Nat)
  flags : List (Option Bool)
  deriving DecidableEq, Repr

/-- Writes the values of a row from column `c0` on. -/
def writeRow (v : SMap (BitVec 16)) (base : Nat) (t : Tag) (r c0 : Nat) (l : List (Option Nat)) : SMap (BitVec 16) :=
  (l.zipIdx).foldl (fun v e =>
    match e.1 with
    | some x => if c0 ≤ e.2 then writeElem v base (tagP t) r e.2 (extPat t x) else v
    | none => v) v

def writeMaskRow (m : SMap (BitVec 16)) (k r c0 : Nat) (l : List (Option Bool)) : SMap (BitVec 16) :=
  (l.zipIdx).foldl (fun m e =>
    match e.1 with
    | some x => if c0 ≤ e.2 then setMaskBit m k r e.2 x else m
    | none => m) m

/-- Writes row `r` of the result from column `c0` on; a store-queue row is appended whole, missing values zero (R125). -/
def State.putRow (s : State) (d : Dst) (flagMask : Option Nat) (r c0 : Nat) (o : RowOut) : State :=
  let s1 := match d with
    | .reg base t => s.setBack { s.cpu.back with v := writeRow s.cpu.back.v base t r c0 o.vals }
    | .sq q => s.pushRow q (o.vals.map (fun x => x.getD 0))
    | .msk m => s.setBack { s.cpu.back with m := writeMaskRow s.cpu.back.m m r c0 (o.vals.map (fun x => x.map (· != 0))) }
    | .nowhere => s
  match flagMask with
  | some k => s1.setBack { s1.cpu.back with m := writeMaskRow s1.cpu.back.m k r c0 o.flags }
  | none => s1

/-- An instruction under its snapshot: rows, elements a row, the queue heads it consumes a row at a time, the heads of
which it keeps one row to the end (VLUT's table), where its rows go, how many elements an appended row has, whether it may go on inside a row (R144: a row reduction may not),
whether its element groups become architectural in element order (R129), its row function and the planes of its multiplier that a
row skips (R34), on (source lanes, source masks, back, row). -/
structure RowJob where
  rows : Nat
  len : Nat
  heads : List Nat
  held : List Nat
  dst : Dst
  outLen : Nat
  flagMask : Option Nat
  inRow : Bool
  ordered : Bool
  row : SMap (BitVec 16) → SMap (BitVec 16) → Back → Nat → RowOut
  skip : SMap (BitVec 16) → SMap (BitVec 16) → Back → Nat → Nat := fun _ _ _ _ => 0

/-- The queue heads of a list with fewer than `n` rows (R254, R256). -/
def emptyHeads (b : Back) (heads : List Nat) (n : Nat) : List Nat :=
  heads.filter (fun q => (b.queue q).rows.length < n)

/-- Planes skipped are noted, to be counted with the instruction's progress (R34, R371). -/
def State.skipped (s : State) (n : Nat) : State := { s with cpu := { s.cpu with skips := s.cpu.skips + n } }

/-- No space for `n` elements more in the destination's store queue (R253, R254). -/
def State.dstFull (s : State) (d : Dst) (bytes : Nat) : Option Nat :=
  match d with
  | .sq q => if s.free q < bytes then some q else none
  | _ => none

def Dst.bytes (d : Dst) (f : Front) (n : Nat) : Nat :=
  match d with
  | .sq q => rowBytes (f.queueTag q) n
  | _ => 0

/-- Completion: vstart becomes 0 (R104) unless the instruction has no resume point, registers as `cont` says. -/
def State.finish (s : State) (i : Instr) (cont : Front) : State :=
  ({ s with cpu := { s.cpu with lanes := none } }.setFront { cont with vstart := vstartAfter i cont.vstart }).retire i.len

/-- Columns of an element group (R13). -/
def groupCols : Nat := 4096

/-- The number of the element group that holds column `c` of row `r` of a job with `len` columns: row by row, and bed by bed
within a row (R129). -/
def groupNo (len r c : Nat) : Nat := r * cdiv len groupCols + c / groupCols

/-- The values of a row with those that `ok` refuses left out. -/
def RowOut.only (o : RowOut) (ok : Nat → Bool) : RowOut :=
  ⟨o.vals.mapIdx (fun c x => if ok c then x else none), o.flags.mapIdx (fun c x => if ok c then x else none)⟩

/-- Leaves the decoder as `suspendAs`, in element order or not (R129). -/
def State.suspendRows (s : State) (i : Instr) (k : Nat) (on : List Nat) (full : Bool) (cont : Front)
    (src : Option (SMap (BitVec 16) × SMap (BitVec 16))) (ordered : Bool) : State :=
  let t := s.suspendAs i k on full cont src
  { t with cpu := { t.cpu with
      inflight := s.cpu.inflight ++ (t.cpu.inflight.drop s.cpu.inflight.length).map (fun p => { p with ordered := ordered }) } }

/-- The element groups of row `r` that `gs` names become architectural, from the resume point at which the instruction began on: in a
register group, a mask and the flag mask; a store-queue row waits for all of its groups (R124, R125, R130). -/
def State.putGroups (s : State) (j : RowJob) (src : SMap (BitVec 16) × SMap (BitVec 16)) (gs : List Nat) (r : Nat) : State :=
  let d := match j.dst with
    | .sq _ => .nowhere
    | d => d
  s.putRow d j.flagMask r 0 ((j.row src.1 src.2 s.cpu.back r).only (fun c =>
    s.cpu.front.vstart ≤ r * j.len + c && gs.contains (groupNo j.len r c)))

/-- Group `b` of row `r` is not among `gs`, nor below the resume point at which the instruction began. -/
def RowJob.lacks (j : RowJob) (gs : List Nat) (vstart r b : Nat) : Bool :=
  !gs.contains (groupNo j.len r (b * groupCols)) && vstart < r * j.len + (b + 1) * groupCols

/-- The instruction is stopped with only the element groups `gs` complete (R129, R130): its resume point is the first element of
the lowest one that is not, from row `r` on; where it is not held to element order, groups above it hold new values too, those
of row `r` alone while it reads queue heads. A row reduction stops at a row. -/
def State.stopRows (s : State) (i : Instr) (j : RowJob) (cont : Front) (src : SMap (BitVec 16) × SMap (BitVec 16))
    (gs : List Nat) (r : Nat) : State :=
  let beds := List.range (cdiv j.len groupCols)
  let b := if j.inRow then (beds.find? (j.lacks gs s.cpu.front.vstart r)).getD 0 else 0
  let k := max s.cpu.front.vstart (r * j.len + b * groupCols)
  let below := gs.filter (fun g => g < groupNo j.len r (b * groupCols))
  let s1 := if !j.inRow then s
    else if j.ordered then s.putGroups j src below r
    else if (j.heads ++ j.held).isEmpty then upto (j.rows - r) (fun x s => s.putGroups j src gs (r + x)) s
    else s.putGroups j src gs r
  s1.suspendRows i k [] false cont (some src) j.ordered

/-- Every element group of row `r` is to complete before the instruction is stopped. -/
def RowJob.rowGoes (j : RowJob) (groups : Option (List Nat)) (vstart r : Nat) : Bool :=
  match groups with
  | none => true
  | some gs => !(List.range (cdiv j.len groupCols)).any (j.lacks gs vstart r)

/-- Rows from `r` on, `n` of them, each architectural as it is done, heads consumed row by row; waits on an empty head or
a full store queue with its resume point at the row (R125, R130, R144, R254, R255). -/
def runRows (i : Instr) (j : RowJob) (cont : Front) (src : SMap (BitVec 16) × SMap (BitVec 16)) (n r : Nat)
    (s : State) : State :=
  match n with
  | 0 => (s.setBack (j.held.foldl (fun b q => b.popRows q 1) s.cpu.back)).finish i cont
  | m + 1 =>
    let k := max s.cpu.front.vstart (r * j.len)
    match emptyHeads s.cpu.back (j.heads ++ j.held) 1 with
    | q :: qs => s.suspendRows i k (q :: qs) false cont (some src) j.ordered
    | [] =>
      match s.dstFull j.dst (j.dst.bytes s.cpu.front j.outLen) with
      | some q => s.suspendRows i k [q] true cont (some src) j.ordered
      | none =>
      if !j.rowGoes s.cpu.groups s.cpu.front.vstart r then s.stopRows i j cont src (s.cpu.groups.getD []) r
      else
        let o := j.row src.1 src.2 s.cpu.back r
        let s1 := s.putRow j.dst j.flagMask r (if j.inRow then s.cpu.front.vstart - r * j.len else 0) o
        let s2 := (s1.setBack (j.heads.foldl (fun b q => b.popRows q 1) s1.cpu.back)).skipped (j.skip src.1 src.2 s.cpu.back r)
        runRows i j cont src m (r + 1) s2

/-- Runs a row job from the row that holds vstart; under a zero grant, and where every element lies below vstart, nothing is
done (R128, R130, R190). -/
def State.rowJob (s : State) (i : Instr) (j : RowJob) (cont : Front) : State :=
  if j.rows * j.len ≤ s.cpu.front.vstart then s.finish i cont
  else
    let r0 := s.cpu.front.vstart / j.len
    runRows i j cont s.srcLanes (j.rows - r0) r0 s

/-- A result that becomes architectural at once (R152, R169): `need` rows of each head are there and consumed at
completion, the result rows fit the store queue together. -/
structure WholeJob where
  heads : List (Nat × Nat)
  dst : Dst
  outRows : Nat
  outLen : Nat
  flagMask : Option Nat
  result : Back → List RowOut

/-- The queue heads with fewer rows than an instruction needs of each (R152, R254, R256). -/
def shortHeads (b : Back) (heads : List (Nat × Nat)) : List Nat :=
  (heads.filter (fun h => (b.queue h.1).rows.length < h.2)).map (fun h => h.1)

def State.wholeJob (s : State) (i : Instr) (j : WholeJob) (cont : Front) : State :=
  match shortHeads s.cpu.back j.heads with
  | q :: qs => s.suspendAs i 0 (q :: qs) false cont none
  | [] =>
    match s.dstFull j.dst (j.outRows * j.dst.bytes s.cpu.front j.outLen) with
    | some q => s.suspendAs i 0 [q] true cont none
    | none =>
      let rows := j.result s.cpu.back
      let s1 := (rows.zipIdx).foldl (fun s e => s.putRow j.dst j.flagMask e.2 0 e.1) s
      let s2 := s1.setBack (j.heads.foldl (fun b h => b.popRows h.1 h.2) s1.cpu.back)
      s2.finish i cont

/-- R129: the destination registers meet a source's, or a mask that is written is read. -/
def overlapping (dst : List Nat) (srcs : List (List Nat)) (masksOut masksIn : List Nat) : Bool :=
  srcs.any (fun l => l.any dst.contains) || masksOut.any masksIn.contains

/-- R129 for the fields of a vector instruction: sources, the destination under its result tag where that is a register, the mask
that it is otherwise, and the predicate and .XM masks. -/
def vopsOverlap (o : VOps) (f : Front) (srcs : List (Reg × Tag)) (dst : Option Tag) : Bool :=
  let xm := o.mod.val = 2
  overlapping ((dst.map (regSpan o.vd f.rc)).getD []) (srcs.map (fun e => regSpan e.1 f.rc e.2))
    ((if dst.isNone then [o.vd.val] else []) ++ (if xm then [8 + o.pm.val] else []))
    (if o.pm.val = 0 || xm then [] else [o.pm.val])

/-- rmode as a number (R76, R182). -/
def Front.rm (f : Front) : Nat := f.rmode.toNat

/-- The .XM flag mask (R124). -/
def vFlagMask (o : VOps) : Option Nat := if o.mod.val = 2 then some (8 + o.pm.val) else none

/-- .SAT (R124). -/
def vSat (o : VOps) : Bool := o.mod.val = 1

end Sys2Proof.Machine
end

