-- ==== Sys2Proof/Machine/Scalar.lean ====
section
/-! DEFINITION. The scalar front end: ALU, ALUI, LIU, PCADD, BR, JAL, JALR (R68–R74) and the compressed forms that expand to
them (R48, R80). -/

namespace Sys2Proof.Machine

/-- A front-end instruction that of `len` bytes writes x[d] and completes (R65, R67). -/
def State.compute (s : State) (len : Nat) (d : Reg) (v : W64) : State := (s.setX d v).retire len

/-- A two-source integer instruction. -/
def State.alu (s : State) (len : Nat) (d a b : Reg) (g : W64 → W64 → W64) : State := s.compute len d (g (s.getX a) (s.getX b))

/-- A one-source integer instruction. -/
def State.alu1 (s : State) (len : Nat) (d a : Reg) (g : W64 → W64) : State := s.compute len d (g (s.getX a))

def truth (b : Bool) : W64 := if b then 1 else 0

/-- The shift amount B[5:0]. -/
def shamt (b : W64) : Nat := b.toNat % 64

def aluSll (a b : W64) : W64 := BitVec.ofNat 64 (a.toNat * 2 ^ shamt b)
def aluSrl (a b : W64) : W64 := BitVec.ofNat 64 (a.toNat / 2 ^ shamt b)
def aluSra (a b : W64) : W64 := BitVec.ofInt 64 (a.toInt / 2 ^ shamt b)
def aluSlt (a b : W64) : W64 := truth (a.toInt < b.toInt)
def aluSltu (a b : W64) : W64 := truth (a.toNat < b.toNat)
def aluMulh (a b : W64) : W64 := BitVec.ofInt 64 (a.toInt * b.toInt / 2 ^ 64)
def aluMulhu (a b : W64) : W64 := BitVec.ofNat 64 (a.toNat * b.toNat / 2 ^ 64)

/-- R70: all ones for B = 0; the overflow case wraps. -/
def aluDiv (a b : W64) : W64 := if b = 0 then BitVec.allOnes 64 else BitVec.ofInt 64 (a.toInt.tdiv b.toInt)
def aluDivu (a b : W64) : W64 := if b = 0 then BitVec.allOnes 64 else BitVec.ofNat 64 (a.toNat / b.toNat)
/-- R70: A for B = 0; the remainder has the sign of A. -/
def aluRem (a b : W64) : W64 := if b = 0 then a else BitVec.ofInt 64 (a.toInt.tmod b.toInt)
def aluRemu (a b : W64) : W64 := if b = 0 then a else BitVec.ofNat 64 (a.toNat % b.toNat)
def aluMin (a b : W64) : W64 := if b.toInt < a.toInt then b else a
def aluMax (a b : W64) : W64 := if a.toInt < b.toInt then b else a
def aluMinu (a b : W64) : W64 := if b.toNat < a.toNat then b else a
def aluMaxu (a b : W64) : W64 := if a.toNat < b.toNat then b else a
def aluAddw (a b : W64) : W64 := sext64 32 (a.toNat + b.toNat)
def aluSubw (a b : W64) : W64 := sext64 32 (a - b).toNat

/-- R69: 64 for A = 0. -/
def aluClz (a : W64) : W64 := if a = 0 then 64 else BitVec.ofNat 64 (63 - Nat.log2 a.toNat)
def aluCtz (a : W64) : W64 := BitVec.ofNat 64 ((natBits 64 a.toNat).takeWhile (fun b => !b)).length
def aluCpop (a : W64) : W64 := BitVec.ofNat 64 (popCount 64 a.toNat)
def rotl (a : W64) (n : Nat) : W64 := BitVec.ofNat 64 (a.toNat * 2 ^ n + a.toNat / 2 ^ (64 - n))
def aluRol (a b : W64) : W64 := rotl a (shamt b)
def aluRor (a b : W64) : W64 := rotl a ((64 - shamt b) % 64)

/-- I = sext64(imm12, 12) (R71). -/
def immI (imm : BitVec 12) : W64 := imm.signExtend 64

/-- K = sext64(imm20 × 4096, 32) (R72). -/
def immU (imm : BitVec 20) : W64 := sext64 32 (imm.toNat * 4096)

/-- A branch to pc + off, off an even number of bytes (R73). -/
def State.branch (s : State) (len : Nat) (taken : Bool) (off : W64) : State :=
  if taken then s.retireTo (s.cpu.front.pc + off) else s.retire len

/-- A jump that writes the link pc + len (R74). -/
def State.jump (s : State) (len : Nat) (d : Reg) (target : W64) : State :=
  (s.setX d (s.cpu.front.pc + BitVec.ofNat 64 len)).retireTo target

/-- ADD (R69). -/
def execAdd (d a b : Reg) (s : State) : Out := .next (s.alu 4 d a b (· + ·))
/-- SUB (R69). -/
def execSub (d a b : Reg) (s : State) : Out := .next (s.alu 4 d a b (· - ·))
/-- AND (R69). -/
def execAnd (d a b : Reg) (s : State) : Out := .next (s.alu 4 d a b (· &&& ·))
/-- OR (R69). -/
def execOr (d a b : Reg) (s : State) : Out := .next (s.alu 4 d a b (· ||| ·))
/-- XOR (R69). -/
def execXor (d a b : Reg) (s : State) : Out := .next (s.alu 4 d a b (· ^^^ ·))
/-- SLL (R69). -/
def execSll (d a b : Reg) (s : State) : Out := .next (s.alu 4 d a b aluSll)
/-- SRL (R69). -/
def execSrl (d a b : Reg) (s : State) : Out := .next (s.alu 4 d a b aluSrl)
/-- SRA (R69). -/
def execSra (d a b : Reg) (s : State) : Out := .next (s.alu 4 d a b aluSra)
/-- SLT (R69). -/
def execSlt (d a b : Reg) (s : State) : Out := .next (s.alu 4 d a b aluSlt)
/-- SLTU (R69). -/
def execSltu (d a b : Reg) (s : State) : Out := .next (s.alu 4 d a b aluSltu)
/-- MUL (R69). -/
def execMul (d a b : Reg) (s : State) : Out := .next (s.alu 4 d a b (· * ·))
/-- MULH (R69). -/
def execMulh (d a b : Reg) (s : State) : Out := .next (s.alu 4 d a b aluMulh)
/-- MULHU (R69). -/
def execMulhu (d a b : Reg) (s : State) : Out := .next (s.alu 4 d a b aluMulhu)
/-- DIV (R70). -/
def execDiv (d a b : Reg) (s : State) : Out := .next (s.alu 4 d a b aluDiv)
/-- DIVU (R70). -/
def execDivu (d a b : Reg) (s : State) : Out := .next (s.alu 4 d a b aluDivu)
/-- REM (R70). -/
def execRem (d a b : Reg) (s : State) : Out := .next (s.alu 4 d a b aluRem)
/-- REMU (R70). -/
def execRemu (d a b : Reg) (s : State) : Out := .next (s.alu 4 d a b aluRemu)
/-- MIN (R69). -/
def execMin (d a b : Reg) (s : State) : Out := .next (s.alu 4 d a b aluMin)
/-- MAX (R69). -/
def execMax (d a b : Reg) (s : State) : Out := .next (s.alu 4 d a b aluMax)
/-- MINU (R69). -/
def execMinu (d a b : Reg) (s : State) : Out := .next (s.alu 4 d a b aluMinu)
/-- MAXU (R69). -/
def execMaxu (d a b : Reg) (s : State) : Out := .next (s.alu 4 d a b aluMaxu)
/-- ADDW (R69). -/
def execAddw (d a b : Reg) (s : State) : Out := .next (s.alu 4 d a b aluAddw)
/-- SUBW (R69). -/
def execSubw (d a b : Reg) (s : State) : Out := .next (s.alu 4 d a b aluSubw)
/-- CLZ (R69). -/
def execClz (d a : Reg) (s : State) : Out := .next (s.alu1 4 d a aluClz)
/-- CTZ (R69). -/
def execCtz (d a : Reg) (s : State) : Out := .next (s.alu1 4 d a aluCtz)
/-- CPOP (R69). -/
def execCpop (d a : Reg) (s : State) : Out := .next (s.alu1 4 d a aluCpop)
/-- ROL (R69). -/
def execRol (d a b : Reg) (s : State) : Out := .next (s.alu 4 d a b aluRol)
/-- ROR (R69). -/
def execRor (d a b : Reg) (s : State) : Out := .next (s.alu 4 d a b aluRor)
/-- ADDI (R71). -/
def execAddi (d a : Reg) (imm : BitVec 12) (s : State) : Out := .next (s.alu1 4 d a (· + immI imm))
/-- ANDI (R71). -/
def execAndi (d a : Reg) (imm : BitVec 12) (s : State) : Out := .next (s.alu1 4 d a (· &&& immI imm))
/-- ORI (R71). -/
def execOri (d a : Reg) (imm : BitVec 12) (s : State) : Out := .next (s.alu1 4 d a (· ||| immI imm))
/-- XORI (R71). -/
def execXori (d a : Reg) (imm : BitVec 12) (s : State) : Out := .next (s.alu1 4 d a (· ^^^ immI imm))
/-- SLTI (R71). -/
def execSlti (d a : Reg) (imm : BitVec 12) (s : State) : Out := .next (s.alu1 4 d a (aluSlt · (immI imm)))
/-- SLTIU (R71). -/
def execSltiu (d a : Reg) (imm : BitVec 12) (s : State) : Out := .next (s.alu1 4 d a (aluSltu · (immI imm)))
/-- SLLI (R71). -/
def execSlli (d a : Reg) (sh : Fin 64) (s : State) : Out := .next (s.alu1 4 d a (fun x => aluSll x (BitVec.ofNat 64 sh.val)))
/-- SRLI (R71). -/
def execSrli (d a : Reg) (sh : Fin 64) (s : State) : Out := .next (s.alu1 4 d a (fun x => aluSrl x (BitVec.ofNat 64 sh.val)))
/-- SRAI (R71). -/
def execSrai (d a : Reg) (sh : Fin 64) (s : State) : Out := .next (s.alu1 4 d a (fun x => aluSra x (BitVec.ofNat 64 sh.val)))
/-- RORI (R71). -/
def execRori (d a : Reg) (sh : Fin 64) (s : State) : Out := .next (s.alu1 4 d a (fun x => aluRor x (BitVec.ofNat 64 sh.val)))
/-- ADDIW (R71). -/
def execAddiw (d a : Reg) (imm : BitVec 12) (s : State) : Out := .next (s.alu1 4 d a (fun x => aluAddw x (immI imm)))
/-- LIU (R72). -/
def execLiu (d : Reg) (imm : BitVec 20) (s : State) : Out := .next (s.compute 4 d (immU imm))
/-- PCADD (R72). -/
def execPcadd (d : Reg) (imm : BitVec 20) (s : State) : Out := .next (s.compute 4 d (s.cpu.front.pc + immU imm))
/-- BEQ (R73). -/
def execBeq (a b : Reg) (off : BitVec 12) (s : State) : Out := .next (s.branch 4 (s.getX a = s.getX b) (2 * sx off))
/-- BNE (R73). -/
def execBne (a b : Reg) (off : BitVec 12) (s : State) : Out := .next (s.branch 4 (s.getX a != s.getX b) (2 * sx off))
/-- BLT (R73). -/
def execBlt (a b : Reg) (off : BitVec 12) (s : State) : Out := .next (s.branch 4 ((s.getX a).toInt < (s.getX b).toInt) (2 * sx off))
/-- BGE (R73). -/
def execBge (a b : Reg) (off : BitVec 12) (s : State) : Out := .next (s.branch 4 ((s.getX b).toInt ≤ (s.getX a).toInt) (2 * sx off))
/-- BLTU (R73). -/
def execBltu (a b : Reg) (off : BitVec 12) (s : State) : Out := .next (s.branch 4 (s.getU a < s.getU b) (2 * sx off))
/-- BGEU (R73). -/
def execBgeu (a b : Reg) (off : BitVec 12) (s : State) : Out := .next (s.branch 4 (s.getU b ≤ s.getU a) (2 * sx off))
/-- JAL (R74). -/
def execJal (d : Reg) (off : BitVec 20) (s : State) : Out := .next (s.jump 4 d (s.cpu.front.pc + 2 * sx off))
/-- JALR (R74): bit 0 of the target is cleared; x[a] is read first. -/
def execJalr (d a : Reg) (imm : BitVec 12) (s : State) : Out := .next (s.jump 4 d ((s.getX a + immI imm) &&& ~~~(1 : W64)))

/-- H.ADDI (R80). -/
def execHAddi (d : Reg) (imm : BitVec 6) (s : State) : Out := .next (s.alu1 2 d d (· + sx imm))
/-- H.LI (R80). -/
def execHLi (d : Reg) (imm : BitVec 6) (s : State) : Out := .next (s.compute 2 d (sx imm))
/-- H.SLLI (R80). -/
def execHSlli (d : Reg) (sh : Fin 64) (s : State) : Out := .next (s.alu1 2 d d (fun x => aluSll x (BitVec.ofNat 64 sh.val)))
/-- H.LIU (R80). -/
def execHLiu (d : Reg) (imm : BitVec 6) (s : State) : Out := .next (s.compute 2 d (immU (imm.signExtend 20)))
/-- H.MOV (R80). -/
def execHMov (d a : Reg) (s : State) : Out := .next (s.alu1 2 d a id)
/-- H.NOP (R49). -/
def execHNop  (s : State) : Out := .next (s.retire 2)
/-- H.ADD (R80). -/
def execHAdd (d a : Reg) (s : State) : Out := .next (s.alu 2 d d a (· + ·))
/-- H.SUB (R80). -/
def execHSub (d a : Reg) (s : State) : Out := .next (s.alu 2 d d a (· - ·))
/-- H.BZ (R80). -/
def execHBz (a : Fin 8) (off : BitVec 8) (s : State) : Out := .next (s.branch 2 (s.getX (shortReg a) = 0) (2 * sx off))
/-- H.BNZ (R80). -/
def execHBnz (a : Fin 8) (off : BitVec 8) (s : State) : Out := .next (s.branch 2 (s.getX (shortReg a) != 0) (2 * sx off))
/-- H.JMP (R80). -/
def execHJmp (off : BitVec 11) (s : State) : Out := .next (s.retireTo (s.cpu.front.pc + 2 * sx off))
/-- H.JMPR (R80). -/
def execHJmpr (a : Reg) (s : State) : Out := .next (s.retireTo (s.getX a &&& ~~~(1 : W64)))

end Sys2Proof.Machine
end

