-- ==== Sys2Proof/Machine/Shape.lean ====
section
/-! DEFINITION. The SHAPE major: grants, tags, queue configuration and matrix mode (R104–R117). -/

namespace Sys2Proof.Machine

/-- The grant of R107 against limit `lim` under a working tag: rc and vl. -/
def grant (tag : Tag) (lim q n : Nat) : Nat × Nat :=
  if q = 0 || n = 0 then (0, 0) else (min q (min 16 (128 / tagP tag)), min n lim)

/-- Writes a grant (R109): wtag, rc, vl, x[d]; it closes a strip interval (R216). -/
def State.granted (s : State) (d : Reg) (tag : Tag) (g : Nat × Nat) : State :=
  let f := s.cpu.front
  (s.setFront { f with wtag := tag, rc := g.1, vl := g.2, interval := f.interval + 1 }).compute 4 d (BitVec.ofNat 64 g.2)

/-- SHAPE (R109). -/
def execShape (d a b t : Reg) (s : State) : Out :=
  .next (s.granted d (s.cpu.front.srcTag t) (grant (s.cpu.front.srcTag t) s.vlmax (s.getU a) (s.getU b)))

/-- The shortening of SHAPE.M by the queue's free space `free` (R110). -/
def shorten (p free : Nat) (g : Nat × Nat) : Nat × Nat :=
  if g.1 = 0 then g
  else
    let cap := free * 8 / (g.1 * p * 32) * 32
    if 32 < g.2 && cap < g.2 then (g.1, max 32 cap) else g

/-- The limit of SHAPE.G and GETSH 9 (R111, R117): GVLMAX for a gang member with gshape set. -/
def State.gangLimit (s : State) : Nat :=
  if s.cpu.front.gshape && s.isMember then
    match s.gang with
    | some g => g.gvlmax
    | none => s.vlmax
  else s.vlmax

/-- SHAPE.G (R111). -/
def execShapeG (d a b t : Reg) (s : State) : Out :=
  .next (s.granted d (s.cpu.front.srcTag t) (grant (s.cpu.front.srcTag t) s.gangLimit (s.getU a) (s.getU b)))

/-- A value that is a valid tag with nothing above it (R82, R113). -/
def tagValue (v : W64) : Bool := v.toNat < 65536 && tagValid (v.setWidth 16)

/-- VTAG (R113). -/
def execVtag (n a : Reg) (s : State) : Out :=
  .next (
    let i := Instr.vtag n a
    let f := s.cpu.front
    if namesTile f n then s.raise i (trapOf i .shapeViolation (shapeEval n.val 1) 0)
    else if !tagValue (s.getX a) then s.raise i (trapOf i .illegalTag (s.getU a) 0)
    else (s.setFront (f.retag n.val 1 ((s.getX a).setWidth 16))).retire 4)

/-- F of SHAPE.M (R110) for load queue `q`: its free space when some of the latest rows may not have been reserved yet, and some
of the rows last taken may not have been consumed yet, as far as the queue can hold them (log 5). -/
def State.spaceNow (s : State) (q : Nat) : Nat :=
  let x := s.cpu.back.queue q
  let bytes (l : List Nat) : List Nat := l.map (rowBytes (s.cpu.front.queueTag q))
  let part := if s.cpu.inflight.any (fun p => namesQueue p.instr q) then x.part else []
  let late := bytes ((x.rows.drop x.sure ++ part).reverse.map (fun r => r.elems.length))
  let room := s.free q + (late.take (s.draw % (late.length + 1))).sum
  let early := within room (bytes x.gone)
  room - (early.take (s.tock.draw % (early.length + 1))).sum

/-- SHAPE.M (R110); a duplicated launch ignores the free space. It names its queue, so it waits for an older QCFG of it
(R114). -/
def execShapeM (d a b t : Reg) (s : State) : Out :=
  .next (
    let tag := s.cpu.front.srcTag t
    let g := grant tag s.vlmax (s.getU a) (s.getU b)
    if s.queueHeld (.shapeM d a b t) then s.block .queue
    else s.tock.tock.granted d tag (if s.inDup then g else shorten (tagP tag) (s.spaceNow (t.val - 28)) g))

/-- QCFG's new tag in the stream behind it (R112, R114). -/
def Front.retagQueue (f : Front) (n : Nat) (t : Tag) : Front :=
  if n < 4 then { f with qtag := vput f.qtag n t } else { f with sqtag := vput f.sqtag (n - 4) t }

/-- QCFG (R114): waits for older users and for the rows of a store queue to drain, then empties and retags. While it waits, the
stream goes on behind it for instructions that name other queues (R19). -/
def execQcfg (q a : Reg) (s : State) : Out :=
  .next (
    let i := Instr.qcfg q a
    let n := q.val
    let cont := s.cpu.front.retagQueue n ((s.getX a).setWidth 16)
    if !tagValue (s.getX a) then s.raise i (trapOf i .illegalTag (s.getU a) 0)
    else if s.cpu.inflight.any (fun p => namesQueue p.instr n)
        || (decide (4 ≤ n) && !(s.cpu.back.queue n).rows.isEmpty) then
      s.suspendAs i s.cpu.front.vstart [] false cont s.cpu.lanes
    else (((s.setBack (s.cpu.back.setQueue n QState.empty)).setFront cont).retire 4))

/-- eval of MATRIX_STATE (R183): mmode, a live FORK child, and zsteps of the named za tile. -/
def State.matrixEval (s : State) (tile : Option Nat) : Nat :=
  s.cpu.front.mmode.toNat + 2 * (!s.children.isEmpty).toNat
    + 256 * (match tile with
      | some k => vget 0 s.cpu.back.zsteps k
      | none => 0)

/-- The table without the entries of keys `lo` to `hi` − 1. -/
def clearKeys {α : Type} (m : SMap α) (lo hi : Nat) : SMap α := m.filter (fun e => e.1 < lo || hi ≤ e.1)

/-- Registers v20–v27 without their contents. -/
def Back.dropTileRegs (b : Back) : Back := { b with v := clearKeys b.v (20 * 65536) (28 * 65536) }

/-- The matrix grant of R115: mvr and mvc. -/
def State.matrixGrant (s : State) (qr qc : Nat) : Nat × Nat :=
  if qr = 0 || qc = 0 then (0, 0) else (min qr (s.mrmaxOf s.cpu.id), min qc (mcmaxOf s.cpu.id.share))

/-- MXON (R115, R116). -/
def execMxon (d a b : Reg) (s : State) : Out :=
  .next (
    let i := Instr.mxon d a b
    let f := s.cpu.front
    if f.mmode || !s.children.isEmpty then s.raise i (trapOf i .matrixState (s.matrixEval none) 0)
    else
      let g := s.matrixGrant (s.getU a) (s.getU b)
      let cont := { f with mmode := true, mvr := g.1, mvc := g.2 }
      s.inOrderAs i cont fun s =>
        let b := s.cpu.back.dropTileRegs
        let s1 := s.setBack { b with
          za := [], zf := [], zsteps := Vector.replicate 2 0, zkinds := Vector.replicate 2 none }
        s1.finish i (cont.setX d (BitVec.ofNat 64 (2 ^ 32 * g.1 + g.2))))

/-- MXOFF (R116): za is discarded, v20–v27 read 0. -/
def execMxoff (s : State) : Out :=
  .next (
    let f := s.cpu.front
    if !f.mmode then s.raise .mxoff (trapOf .mxoff .matrixState (s.matrixEval none) 0)
    else
      let cont := { f with mmode := false }
      s.inOrderAs .mxoff cont fun s =>
        let s1 := s.setBack { s.cpu.back.dropTileRegs with za := [] }
        s1.finish .mxoff cont)

/-- The items of GETSH (R117). -/
def State.shapeItem (s : State) (sel n : Nat) : Nat :=
  let f := s.cpu.front
  match sel with
  | 0 => f.vl
  | 1 => f.rc
  | 2 => f.vstart
  | 3 => f.ffi
  | 4 => f.mvr
  | 5 => f.mvc
  | 6 => f.mmode.toNat
  | 7 => f.gshape.toNat
  | 8 => s.vlmax
  | 9 => s.gangLimit
  | 10 => s.mrmaxOf s.cpu.id
  | 11 => f.wtag.toNat
  | 12 => (vget tagInt8 f.vtag n).toNat
  | 13 => (vget tagInt8 f.qtag n).toNat
  | _ => (vget tagInt8 f.sqtag n).toNat

/-- GETSH (R117). -/
def execGetsh (d sel n : Reg) (s : State) : Out :=
  .next (s.compute 4 d (BitVec.ofNat 64 (s.shapeItem sel.val n.val)))

end Sys2Proof.Machine
end

