-- ==== Sys2Proof/Machine/Copy.lean ====
section
/-! DEFINITION. The scratchpad and the copy channels (R178, R200, R257–R276): the engine that delivers elements, and the
COPY major. A channel advances at its own events and whenever an instruction joins with it. -/

namespace Sys2Proof.Machine

/-! The scratchpad. -/

/-- The storage place of a logical scratchpad address under a bank-rotation code (R178). -/
def swz (code a : Nat) : Nat :=
  let x := bitsOf a 19 12 * (if code = 0 then 0 else 2 * code - 1) % 32
  let bank := a / 128 % 32
  a - bank * 128 + Nat.xor bank x * 128

def Back.spadByte (b : Back) (place : Nat) : Byte := mget 0 b.spad place

def Back.spadWrite (b : Back) (places : List Nat) (l : List Byte) : Back :=
  { b with spad := (places.zip l).foldl (fun m e => minsert m e.1 e.2) b.spad }

/-! Acting for another hart. -/

/-- Hart `uid` of the package, if there is one. -/
def State.hart? (s : State) (uid : Nat) : Option Hart := s.harts.find? (fun h => h.id.uid = uid)

/-- Replaces a hart of the package by its number. -/
def State.putHart (s : State) (h : Hart) : State :=
  if s.cpu.id.uid = h.id.uid then { s with cpu := h }
  else { s with others := s.others.map (fun x => if x.id.uid = h.id.uid then h else x) }

/-- Runs `f` with hart `uid` as the hart at hand, and comes back. -/
def State.asHart (s : State) (uid : Nat) (f : State → State) : State :=
  if s.cpu.id.uid = uid then f s
  else match s.others.find? (fun h => h.id.uid = uid) with
    | none => s
    | some h =>
      let s1 := f { s with cpu := h, others := s.others.map (fun x => if x.id.uid = uid then s.cpu else x) }
      { s1 with cpu := (s1.others.find? (fun x => x.id.uid = s.cpu.id.uid)).getD s.cpu
                others := s1.others.map (fun x => if x.id.uid = s.cpu.id.uid then s1.cpu else x) }

/-- The hart address of R267. -/
def Ident.addr (i : Ident) : Nat := i.aslot % 4 * 4096 + i.alcid % 128 * 16 + i.die % 4

/-- The live hart at a hart address; one that runs ahead in its slot (R22) is reached once the slot is its own. -/
def State.hartAt (s : State) (addr : Nat) : Option Hart :=
  s.harts.find? (fun h => h.status = .running && h.id.addr = addr && (s.aheadOf h).isNone)

/-! Operations and their elements. -/

/-- The logical scratchpad address of element `k` of a CPY.G, CPY.P or CPY.IX (R265, R266). -/
def CopyOp.sp (o : CopyOp) (k : Nat) : Nat := o.sbase + k / o.w * o.spitch + k % o.w * o.esz

/-- Its storage places. -/
def CopyOp.places (o : CopyOp) (k : Nat) : List Nat := (List.range o.esz).map (fun b => swz o.code (o.sp k + b))

/-- The element of an operation that uses a storage place, if one does: the rotation is its own inverse (R178). -/
def CopyOp.elemAt (o : CopyOp) (place : Nat) : Option Nat :=
  let a := swz o.code place
  if o.form = 2 || a < o.sbase || o.spitch = 0 then none
  else
    let y := (a - o.sbase) / o.spitch
    let x := (a - o.sbase) % o.spitch
    if x < o.w * o.esz && y * o.w + x / o.esz < o.units then some (y * o.w + x / o.esz) else none

/-- The memory address of element `k`, or none for a clipped one (R265, R266). -/
def CopyOp.mem (o : CopyOp) (k : Nat) : Option Nat :=
  if o.form = 3 then
    let j := o.idx.getD (k / o.w) 0
    if 0 ≤ j && j < o.clipw then some (intMod 64 (o.mbase + j * o.mpitch + k % o.w * o.esz)) else none
  else
    let x : Int := o.ox + k % o.w
    let y : Int := o.oy + k / o.w
    if 0 ≤ x && x < o.clipw && 0 ≤ y && y < o.cliph then some (intMod 64 (o.mbase + y * o.mpitch + x * o.esz)) else none

/-- Bytes of one unit of cwm. -/
def CopyOp.unitBytes (o : CopyOp) : Nat := if o.form = 2 then 2 else o.esz

def State.chan (s : State) (c : Nat) : Chan := vget Chan.idle s.cpu.back.chans c

def State.setChan (s : State) (c : Nat) (x : Chan) : State :=
  s.setBack { s.cpu.back with chans := vput s.cpu.back.chans c x }

/-- Elements granted and not delivered. -/
def Chan.remaining (ch : Chan) : Nat := (ch.ops.map (fun o => o.units - o.at_)).sum

/-- The units of an operation that lie below cwm: a CPY.X moves cwm register by register (R261, R268). -/
def CopyOp.below (o : CopyOp) : Nat := if o.form = 2 then o.at_ / o.cols * o.cols else o.at_

/-- `out` of R260. -/
def Chan.out (ch : Chan) : Nat := (ch.ops.map (fun o => (o.units - o.below) * o.unitBytes)).sum

/-- At rest (R274). -/
def Chan.atRest (ch : Chan) : Bool := ch.nops = 0 || ch.error

/-- cstat (R258). -/
def Chan.cstat (ch : Chan) : W64 :=
  BitVec.ofNat 64 (ch.fcause * 65536 + ch.fsub * 256 + ch.nops * 16 + ch.aborting.toNat * 4 + ch.error.toNat * 2
    + (ch.nops != 0).toNat)

/-- CPY.P number `no` writes bytes at physical addresses: behind the hart's older vector writes, and beside its younger ones (R222). -/
def State.copyOut (s : State) (no : Nat) (pas : List Nat) (l : List Byte) : State :=
  let s1 := s.settleBefore no pas
  let cells := pas.map (fun pa => (s.key pa, readCell s.mem (s.key pa)))
  (s1.setBack (s1.cpu.back.meet .copy no cells)).physWriteList s1.agent s1.cpu.id.die pas l

/-- Bytes of scratchpad or memory moved by element `k` of a box operation; clipped elements of CPY.G and CPY.IX are
filled, those of CPY.P do nothing (R265, R266). -/
def State.copyElem (s : State) (o : CopyOp) (k : Nat) : Except AccFault State :=
  match o.mem k with
  | none => .ok (if o.form = 1 then s else s.setBack (s.cpu.back.spadWrite (o.places k) (leBytes o.esz o.fillv)))
  | some mp =>
    if o.form = 1 then
      match s.engineBytes s.cpu.ctx .store true (vaRange mp o.esz) with
      | .error f => .error f
      | .ok pas =>
        let l := (o.places k).map s.cpu.back.spadByte
        let s1 := s.noteWriteAt o.seq 0 mp l
        .ok (if s1.secondCopy then s1 else s1.copyOut o.seq pas l)
    else match s.engineBytes s.cpu.ctx .load true (vaRange mp o.esz) with
      | .error f => .error f
      | .ok pas => .ok ((s.readLines s.cpu.id.die (pas.map s.key)).setBack (s.cpu.back.spadWrite (o.places k) (pas.map (s.physByte s.cpu.id.die))))

/-- The channel after `n` units of its head operation, of which `clipped` were clipped; `cw` of them move cwm (R261). -/
def Chan.advance (ch : Chan) (n cw clipped : Nat) : Chan :=
  match ch.ops with
  | [] => ch
  | o :: t =>
    let ch := { ch with
      cwm := ch.cwm + BitVec.ofNat 64 cw, cclip := ch.cclip + BitVec.ofNat 64 clipped, mark := if cw = 0 then ch.mark else o.seq }
    if o.units ≤ o.at_ + n then { ch with ops := t, nops := ch.nops - 1 }
    else { ch with ops := { o with at_ := o.at_ + n } :: t }

/-- The channel with a held fault (R263). -/
def Chan.hold (ch : Chan) (f : AccFault) (addr : Nat) : Chan :=
  { ch with error := true, fcause := causeCode f.cause, fsub := f.sub, fkind := f.kind
            feval := BitVec.ofNat 64 (if f.cause = .dataError then f.addr else addr) }

/-- An instruction that reads or writes vector registers when it starts: the execute side's, and CPY.X. -/
def usesLanes (i : Instr) : Bool :=
  match i with
  | .cpyX .. => true
  | _ => sideOf i = 2

/-- Whether an instruction of hart `h` that is older than `place` and uses vector registers has not completed. -/
def Hart.olderFlight (h : Hart) (place : Nat) : Bool :=
  h.inflight.any (fun p => usesLanes p.instr && p.front.instret.toNat < place)

/-- Columns `c0` to `c0` + `n` − 1 of register `j` of a CPY.X written into the destination (R268). -/
def CopyOp.putGroup (o : CopyOp) (b : Back) (j c0 n : Nat) : Back :=
  { b with v := upto n (fun k v => minsert v ((o.vdst + j) * 65536 + c0 + k) (o.planes.getD (j * o.cols + c0 + k) 0)) b.v }

/-- The next element group of a CPY.X (R268): it waits while the destination has an older instruction uncompleted. -/
def State.copyGroup (s : State) (c : Nat) (o : CopyOp) : State :=
  match s.hart? o.dst with
  | none => s.setChan c ((s.chan c).advance (o.units - o.at_) (o.units - o.at_) 0)
  | some h =>
    if h.olderFlight o.place then s
    else
      let j := o.at_ / o.cols
      let c0 := o.at_ % o.cols
      let n := min 4096 (o.cols - c0)
      let s1 := s.putHart { h with
        back := o.putGroup h.back j c0 n, inflight := h.inflight.map (fun p => { p with ckpt := o.putGroup p.ckpt j c0 n }) }
      s1.setChan c ((s1.chan c).advance n (if c0 + n = o.cols then o.cols else 0) 0)

/-- Older operations in other channels that must come first (R262): for the storage places `places`, those that write one
and, if `readers`, those that read one; each with the channel, the operation and the last element in question. Elements that a
stopped channel will not deliver are among them until CPY.ABORT (R272). -/
def State.needs (s : State) (readers : Bool) (c seq : Nat) (places : List Nat) : List (Nat × Nat × Nat) :=
  (List.range 8).flatMap (fun k =>
    if k = c then []
    else (s.chan k).ops.filterMap (fun o =>
      if seq ≤ o.seq || (o.form = 1 && !readers) then none
      else
        let l := (places.filterMap o.elemAt).filter (o.at_ ≤ ·)
        if l.isEmpty then none else some (k, o.seq, l.foldl max 0)))

/-- What the next element of an operation has to wait for (R262): a clipped element of a CPY.P reads nothing (R265). -/
def State.headNeeds (s : State) (c : Nat) (o : CopyOp) : List (Nat × Nat × Nat) :=
  if o.form = 1 && (o.mem o.at_).isNone then [] else s.needs (o.form != 1) c o.seq (o.places o.at_)

/-- Channel `ch` is past element `j` of operation `seq`, or cannot go on. -/
def Chan.past (ch : Chan) (seq j : Nat) : Bool :=
  ch.error || (match ch.ops.find? (fun o => o.seq = seq) with
    | none => true
    | some o => j < o.at_)

/-- The next element, or element group, of channel `c` (R261, R262, R265–R268); `fuel` bounds the chain of older
operations that have to come first. DESIGN CHOICE, log 24: of the orders that R222 and R261 leave the engine, the elements of one operation
are moved in delivery order. -/
def State.chanStep (fuel c : Nat) (s : State) : State :=
  match fuel with
  | 0 => s
  | m + 1 =>
    match (s.chan c).ops with
    | [] => s
    | o :: _ =>
      if (s.chan c).error then s
      else if o.form = 2 then s.copyGroup c o
      else
        let first := s.headNeeds c o
        let s1 := first.foldl (fun s e =>
          upto (s.chan e.1).remaining (fun _ s => if (s.chan e.1).past e.2.1 e.2.2 then s else s.chanStep m e.1) s) s
        if !(s1.headNeeds c o).isEmpty then s1
        else match s1.copyElem o o.at_ with
          | .error f =>
            let s2 := if f.cause = .dataError then s1.dropBad f.kind f.addr else s1
            s2.setChan c ((s2.chan c).hold f ((o.mem o.at_).getD 0))
          | .ok s2 => s2.setChan c ((s2.chan c).advance 1 1 (o.mem o.at_).isNone.toNat)

/-- One step of channel `c`. -/
def State.copyStep (c : Nat) (s : State) : State := s.chanStep 128 c

/-- Channel `c` runs until `stop` holds of it, or until it can go no further. -/
def State.runUntil (c : Nat) (stop : Chan → Bool) (s : State) : State :=
  upto (s.chan c).remaining (fun _ s => if stop (s.chan c) then s else s.copyStep c) s

/-- Every channel runs to completion or to a held fault (R274, R275). -/
def State.restChannels (s : State) : State := upto 8 (fun c s => s.runUntil c (fun _ => false)) s

/-- Channel `c` waits for places that a stopped channel will not deliver until CPY.ABORT (R262, R263). -/
def State.chanStuck (s : State) (c : Nat) : Bool :=
  s.cpu.back.chans.toList.any Chan.error && (s.copyStep c).chan c == s.chan c

/-- Every channel is at rest (R274), or can go no further before a CPY.ABORT. -/
def State.channelsAtRest (s : State) : Bool :=
  (List.range 8).all (fun c => (s.chan c).atRest || s.chanStuck c)

/-- The cause with a code (R183). -/
def causeOfCode (n : Nat) : Cause :=
  match n with
  | 7 => .loadFault
  | 8 => .storeFault
  | 9 => .protection
  | 10 => .vitrineWrite
  | _ => .dataError

/-- The trap of the fault held in a channel, taken at `i` (R263). -/
def Chan.heldTrap (ch : Chan) (i : Instr) : TrapInfo :=
  ⟨causeOfCode ch.fcause, ch.feval, ch.fsub, ch.fkind, 15, 3, false, 0, i.len⟩

/-- The lowest channel that holds a fault. -/
def State.heldChan (s : State) : Option Chan := s.cpu.back.chans.toList.find? Chan.error

/-- The stopped channel at which the chain of waits of channel `c` ends (R262, R263). -/
def State.blocker (s : State) (fuel c : Nat) : Option Chan :=
  match fuel with
  | 0 => none
  | m + 1 =>
    if (s.chan c).error then some (s.chan c)
    else match (s.chan c).ops with
      | [] => none
      | o :: _ => if o.form = 2 then none else (s.headNeeds c o).findSome? (fun e => s.blocker m e.1)

/-- A stopped channel with an operation that would have written one of the scratchpad places (R263). -/
def State.deadPlace (s : State) (places : List Nat) : Option Chan :=
  s.cpu.back.chans.toList.find? (fun ch => ch.error && ch.ops.any (fun o =>
    o.form != 1 && places.any (fun p => match o.elemAt p with
      | some e => o.at_ ≤ e
      | none => false)))

/-- The channels moved on until every older operation's write of the places has landed or cannot (R262). -/
def State.settlePlaces (s : State) (places : List Nat) : State :=
  (s.needs false 8 (2 ^ 64) places).foldl (fun s e =>
    s.runUntil e.1 (fun ch => ch.past e.2.1 e.2.2)) s

/-! Inbound copies of CPY.X (R268). -/

/-- The channels of other harts, or the hart's own, that still write into hart `uid`. -/
def State.inbound (s : State) (uid : Nat) : List (Nat × Nat) :=
  s.harts.flatMap (fun h => (List.range 8).filterMap (fun c =>
    if (vget Chan.idle h.back.chans c).ops.any (fun o => o.form = 2 && o.dst = uid) then some (h.id.uid, c) else none))

/-- Those whose channel is not stopped: the rest deliver nothing before a CPY.ABORT. -/
def State.inboundDue (s : State) (uid : Nat) : List (Nat × Nat) :=
  (s.inbound uid).filter (fun e => !(s.hart? e.1).any (fun h => (vget Chan.idle h.back.chans e.2).error))

/-- Runs every channel that writes into the hart at hand until it no longer does, as far as it can go. -/
def State.settleInbound (s : State) : State :=
  let me := s.cpu.id.uid
  (s.inbound me).foldl (fun s e =>
    s.asHart e.1 (fun s => s.runUntil e.2 (fun ch => !ch.ops.any (fun o => o.form = 2 && o.dst = me)))) s

/-! CPY.G, CPY.P and CPY.IX (R259, R260, R264–R266). -/

/-- A precise fault of a CPY form. -/
def copyTrap (i : Instr) (c : Cause) (eval sub : Nat) : TrapInfo := trapOf i c eval sub

/-- The operation a 64-byte descriptor describes, or none where it breaks the limits of R264. -/
def copyDescriptor (form : Nat) (d : List Nat) (sbase seq : Nat) : Option CopyOp :=
  let w0 (k : Nat) : Nat := d.getD k 0
  let lo (k : Nat) : Nat := w0 k % 2 ^ 32
  let hi (k : Nat) : Nat := w0 k / 2 ^ 32
  let esz := 2 ^ (w0 5 % 4)
  if lo 2 = 0 || 65536 < lo 2 || hi 2 = 0 || 65536 < hi 2 || (form = 3 && hi 2 != 1) || hi 1 < lo 2 * esz
      || w0 5 / 32 != 0 || w0 6 != 0 || w0 7 != 0 then none
  else some
    { form := form, units := hi 2, at_ := 0, esz := esz, mbase := w0 0
      mpitch := if form = 3 then (lo 1 : Int) else sgn 32 (lo 1)
      spitch := hi 1, w := lo 2, ox := sgn 32 (lo 3), oy := sgn 32 (hi 3), clipw := lo 4, cliph := hi 4
      code := bitsOf (w0 5) 4 2, sbase := sbase, fillv := 0, idx := [], dst := 0, vdst := 0, regs := 0, cols := 0
      planes := [], place := 0, seq := seq, foot := 0 }

/-- The fork: the operation joins its channel and x[d] receives the grant (R260). -/
def State.forkCopy (s : State) (i : Instr) (d : Reg) (c grant : Nat) (o : CopyOp) : State :=
  let ch := s.chan c
  let ch := { ch with cissued := ch.cissued + BitVec.ofNat 64 grant }
  let s1 := if grant = 0 then s
    else s.setChan c { ch with nops := ch.nops + 1, ops := ch.ops ++ [o] }
  s1.compute i.len d (BitVec.ofNat 64 grant)

/-- Grants of box rows (R260): `free` bytes of the channel's window. -/
def boxGrant (h rowBytes out : Nat) : Nat :=
  let g := min h ((262144 - out) / rowBytes)
  if out = 0 then max g 1 else g

/-- In a duplicated launch a CPY waits until its channel is empty (R260); a stopped channel grants nothing. -/
def State.quiesceDup (s : State) (i : Instr) (c : Nat) (body : State → State) : State :=
  if s.inDup then
    let s1 := s.runUntil c (fun _ => false)
    if (s1.chan c).out = 0 || (s1.chan c).error then body s1 else s1.hold i
  else body s

/-- CPY.IX takes its index row and forks (R260, R266). -/
def State.forkIndexed (s : State) (i : Instr) (d : Reg) (c : Nat) (o : CopyOp) : State :=
  let f := s.cpu.front
  let need := f.vl * o.w * o.esz
  if (s.chan c).error || (s.chan c).nops = 15 || f.vl = 0 then s.forkCopy i d c 0 o
  else
    let s := s.runUntil c (fun ch => ch.out = 0 || need + ch.out ≤ 262144)
    if (s.chan c).error then s.forkCopy i d c 0 o
    else if !((s.chan c).out = 0 || need + (s.chan c).out ≤ 262144) then s.hold i
    else match (s.cpu.back.queue 5).rows with
      | [] => s.suspend i f.vstart [5] false
      | r :: _ =>
        let t := f.queueTag 5
        let o := { o with units := f.vl * o.w, idx := (List.range f.vl).map (fun k => tint t (r.elems.getD k 0)) }
        (s.setBack (s.cpu.back.popRows 5 1)).forkCopy i d c (f.vl * o.w) o

/-- The scratchpad places that an operation moves: all but those of a CPY.P's clipped elements (R265). -/
def CopyOp.moves (o : CopyOp) : List Nat :=
  (List.range o.units).flatMap (fun k => if o.form = 1 && (o.mem k).isNone then [] else o.places k)

/-- CPY.G (form 0), CPY.P (1) and CPY.IX (3): operands, descriptor, footprint, grant (R259, R260, R264). DESIGN CHOICE, log 24: of two
misplaced operands x[b] is found first. -/
def State.copyBox (s : State) (i : Instr) (form : Nat) (d a b : Reg) : State :=
  s.whenOldest i fun s =>
    let f := s.cpu.front
    let xa := s.getU a
    let xb := s.getU b
    let c := xb % 8
    if form = 3 && !tagIsInt (f.queueTag 5) then s.raise i (copyTrap i .illegalTag (tagEval (f.queueTag 5) 0) 0)
    else if bitsOf xb 31 3 != 0 then s.raise i (copyTrap i .loadFault xb 4)
    else if xa % 8 != 0 then s.raise i (copyTrap i .loadFault xa 4)
    else match s.loadRead xa 64 with
      | .error e => s.raise i (accTrap i e 15 false 0)
      | .ok (s, l) =>
        match copyDescriptor form ((List.range 8).map (fun k => leNat ((l.drop (8 * k)).take 8))) (xb / 2 ^ 32)
            f.instret.toNat with
        | none => s.raise i (copyTrap i .loadFault xa 4)
        | some o =>
          let rows := if form = 3 then f.vl else o.units
          let h := o.units
          let last := o.sbase + (rows - 1) * o.spitch + o.w * o.esz - 1
          if rows != 0 && s.spadSize ≤ last then
            s.raise i (copyTrap i (if form = 1 then .loadFault else .storeFault) (max o.sbase s.spadSize) 2)
          else
            s.quiesceDup i c fun s =>
            let o := { o with fillv := (s.chan c).cfill.toNat, foot := last + 1 - o.sbase }
            if form = 3 then s.forkIndexed i d c o
            else if (s.chan c).error || (s.chan c).nops = 15 then s.forkCopy i d c 0 o
            else
              let g := boxGrant h (o.w * o.esz) (s.chan c).out
              let o := { o with units := g * o.w }
              match (if form = 1 then s.deadPlace o.moves else none) with
              | some ch => s.raise i (ch.heldTrap i)
              | none => s.forkCopy i d c (g * o.w) o

/-- CPY.G (R265). -/
def execCpyG (d a b : Reg) (s : State) : Out := .next (s.copyBox (.cpyG d a b) 0 d a b)
/-- CPY.P (R265). -/
def execCpyP (d a b : Reg) (s : State) : Out := .next (s.copyBox (.cpyP d a b) 1 d a b)
/-- CPY.IX (R266). -/
def execCpyIX (d a b : Reg) (s : State) : Out := .next (s.copyBox (.cpyIX d a b) 3 d a b)

/-! CPY.X (R267, R268). -/

/-- A group of `g` registers that R86 refuses to a hart. -/
def copyGroupBad (f : Front) (base g : Nat) : Bool :=
  groupBad f.mmode base g || (f.mmode && 20 ≤ base && base < 28)

/-- The columns a CPY.X is granted (R260). -/
def planeGrant (n g out : Nat) : Nat :=
  let free := 262144 - out
  if n * g * 2 ≤ free then n
  else
    let cols := free / (g * 8192) * 4096
    if out = 0 then max cols (min n 4096) else cols

/-- The destination of a CPY.X, or none for the checks of its third row (R267). -/
def State.copyDest (s : State) (n g vdst xb : Nat) : Option Hart :=
  if bitsOf xb 63 14 != 0 || bitAt xb 11 || bitsOf xb 3 2 != 0 || xb % 4 = 3 then none
  else match s.hartAt xb with
    | none => none
    | some h => if copyGroupBad h.front vdst g || s.vlmaxOf h.id < n then none else some h

/-- CPY.X (R267, R268). -/
def execCpyX (d a b : Reg) (s : State) : Out :=
  .next (s.whenOldest (.cpyX d a b) fun s =>
    let i := Instr.cpyX d a b
    let f := s.cpu.front
    let xa := s.getU a
    let xb := s.getU b
    let n := xa / 2 ^ 32
    let c := bitsOf xa 16 14
    let g := bitsOf xa 12 10 + 1
    let vdst := bitsOf xa 9 5
    let vsrc := xa % 32
    if bitsOf xa 31 17 != 0 || bitAt xa 13 || 27 < vsrc || 27 < vdst then s.raise i (copyTrap i .loadFault xa 4)
    else if copyGroupBad f vsrc g || s.vlmax < n then s.raise i (copyTrap i .shapeViolation (shapeEval vsrc g) 0)
    else match s.copyDest n g vdst xb with
      | none => s.raise i (copyTrap i .storeFault xb 6)
      | some h =>
        s.quiesceDup i c fun s =>
        let ch := s.chan c
        let cols := if ch.error || ch.nops = 15 || n = 0 then 0 else planeGrant n g ch.out
        s.forkCopy i d c cols
          { form := 2, units := g * cols, at_ := 0, esz := 2, mbase := 0, mpitch := 0, spitch := 0, w := 1, ox := 0, oy := 0
            clipw := 0, cliph := 0, code := 0, sbase := 0, fillv := 0, idx := [], dst := h.id.uid, vdst := vdst, regs := g
            cols := cols
            planes := (List.range (g * cols)).map (fun k =>
              mget 0 s.srcLanes.1 ((vsrc + k / cols) * 65536 + k % cols))
            place := if h.id.uid = s.cpu.id.uid then f.instret.toNat + 1 else h.front.instret.toNat
            seq := f.instret.toNat, foot := 0 })

/-! CPY.WAIT, CPY.STAT, CPY.ABORT, CPY.FILL (R270–R273). -/

/-- CPY.WAIT (R270): a join with the operations of which cwm has passed an element (R222). Where its channel waits for bytes that a stopped
one will not deliver, it takes the fault held there, so that it always ends (R263; DEDUCED, log 24). -/
def execCpyWait (d : Reg) (c : Fin 8) (b : Reg) (s : State) : Out :=
  .next (s.inOrder (.cpyWait d c b) fun s =>
    let i := Instr.cpyWait d c b
    let target := min (s.getU b) (s.chan c.val).cissued.toNat
    let s := s.runUntil c.val (fun ch => target ≤ ch.cwm.toNat)
    let ch := s.chan c.val
    if target ≤ ch.cwm.toNat then ((s.orderBehind ch.mark).orderCopies ch.mark).compute i.len d ch.cwm
    else match s.blocker 128 c.val with
      | some x => s.raise i (x.heldTrap i)
      | none => s.block .channel)

/-- CPY.STAT (R271). -/
def execCpyStat (d : Reg) (c : Fin 8) (sel : Reg) (s : State) : Out :=
  .next (s.inOrder (.cpyStat d c sel) fun s =>
    let ch := s.chan c.val
    s.compute 4 d (match sel.val with
      | 0 => ch.cstat
      | 1 => ch.cwm
      | 2 => ch.cissued
      | 3 => ch.cclip
      | 4 => ch.cfill
      | 5 => BitVec.ofNat 64 s.cpu.id.addr
      | _ => if ch.error then ch.feval else 0))

/-- Byte `b` of element `k` of a CPY.P written to memory. -/
def State.copyByteOut (s : State) (o : CopyOp) (k b : Nat) : State :=
  match o.mem k with
  | none => s
  | some mp =>
    match s.engineByte s.cpu.ctx .store true ((mp + b) % 2 ^ 64) with
    | .error _ => s
    | .ok pa =>
      if s.secondCopy then s
      else s.copyOut o.seq [pa] [s.cpu.back.spadByte (swz o.code (o.sp k + b))]

/-- What an abort leaves of an operation's undelivered elements: each byte of a box operation, each element group of a
CPY.X, is old or delivered, by free choice (R272). -/
def State.abortOp (s : State) (o : CopyOp) : State :=
  if o.form = 2 then
    upto o.regs (fun j s => upto (cdiv o.cols 4096) (fun g s =>
      if j * o.cols + g * 4096 < o.at_ || !Config.freeBool s.tick then s.tock
      else match s.hart? o.dst with
        | none => s.tock
        | some h => (s.putHart { h with back := o.putGroup h.back j (g * 4096) (min 4096 (o.cols - g * 4096)) }).tock) s) s
  else
    upto (o.units - o.at_) (fun n s =>
      let k := o.at_ + n
      match s.copyElem o k with
      | .error _ => s.tock
      | .ok s1 =>
        upto o.esz (fun b s =>
          let p := swz o.code (o.sp k + b)
          if !Config.freeBool s.tick then s.tock
          else if o.form = 1 then (s.copyByteOut o k b).tock
          else (s.setBack (s.cpu.back.spadWrite [p] [s1.cpu.back.spadByte p])).tock) s) s

/-- CPY.ABORT (R272). -/
def execCpyAbort (d : Reg) (c : Fin 8) (s : State) : Out :=
  .next (s.whenOldest (.cpyAbort d c) fun s =>
    let s := if (s.chan c.val).error then s else (s.chan c.val).ops.foldl (fun s o => s.abortOp o) s
    let ch := s.chan c.val
    (s.setChan c.val { ch with
      cissued := ch.cwm, nops := 0, fcause := 0, fsub := 0, feval := 0, fkind := 0, error := false, aborting := false
      ops := [] }).compute 4 d ch.cwm)

/-- CPY.FILL (R273). -/
def execCpyFill (d : Reg) (c : Fin 8) (b : Reg) (s : State) : Out :=
  .next (s.inOrder (.cpyFill d c b) fun s =>
    let ch := s.chan c.val
    let x := s.getX b
    (s.setChan c.val { ch with cfill := x }).compute 4 d ch.cfill)

end Sys2Proof.Machine
end

