-- ==== Sys2Proof/Machine/Flight.lean ====
section
/-! DEFINITION. How an instruction in flight goes on, and what that changes for the instructions behind it (R19, R20,
R112, R185). Registers and lanes keep program order; queues keep the order of their rows. -/

namespace Sys2Proof.Machine

/-- Queue `c` with the changes that led from `a` to `b`: rows taken leave it, rows appended join it, marks of drained
elements and the rows not yet visible are `b`'s where `whole` says that the instruction works on the memory side. -/
def QState.follow (a b c : QState) (whole : Bool) : QState :=
  let had (q : QState) (r : Row) : Bool := q.rows.any (fun x => x.id = r.id)
  let kept := c.rows.filter (fun r => !had a r || had b r)
  let kept := kept.map (fun r => (b.rows.find? (fun x => x.id = r.id)).getD r)
  { rows := kept ++ b.rows.filter (fun r => !had a r && !had c r)
    part := if whole then b.part else c.part
    sub := if whole then b.sub else c.sub
    gone := within (2 ^ 21) ((c.rows.filter (fun r => had a r && !had b r)).reverse.map (fun r => r.elems.length) ++ c.gone)
    sure := c.sure - (c.rows.filter (fun r => had a r && !had b r)).length }

/-- Channels as `now` has them, with the fill values of `old` (R273). -/
def fillsOf (now old : Vector Chan 8) : Vector Chan 8 :=
  Vector.ofFn (fun k : Fin 8 => { now[k] with cfill := old[k].cfill })

/-- What leads from table `a` to table `b`: the keys that change, each with its new value, none where it is no longer listed. -/
def tableChanges {α : Type} [DecidableEq α] (fuel : Nat) (a b : SMap α) : List (Nat × Option α) :=
  match fuel, a, b with
  | 0, _, _ => []
  | _, [], l => l.map (fun e => (e.1, some e.2))
  | _, l, [] => l.map (fun e => (e.1, none))
  | n + 1, x :: t, y :: u =>
    if x.1 < y.1 then (x.1, none) :: tableChanges n t (y :: u)
    else if y.1 < x.1 then (y.1, some y.2) :: tableChanges n (x :: t) u
    else if x.2 = y.2 then tableChanges n t u else (y.1, some y.2) :: tableChanges n t u

/-- Table `c` with changes, in the order of their keys. -/
def tableChanged {α : Type} (fuel : Nat) (l : List (Nat × Option α)) (c : SMap α) : SMap α :=
  match fuel, l, c with
  | 0, _, _ => c
  | _, [], c => c
  | _, l, [] => l.filterMap (fun e => e.2.map (fun v => (e.1, v)))
  | n + 1, x :: t, y :: u =>
    if y.1 < x.1 then y :: tableChanged n (x :: t) u
    else
      let rest := tableChanged n t (if x.1 = y.1 then u else y :: u)
      match x.2 with
      | some v => (x.1, v) :: rest
      | none => rest

/-- Table `c` with the changes from `a` to `b`. -/
def followTable {α : Type} [DecidableEq α] (a b c : SMap α) : SMap α :=
  let l := tableChanges (a.length + b.length + 1) a b
  if l.isEmpty then c else tableChanged (l.length + c.length + 1) l c

/-- A saved back `c` with the changes from `a` to `b` of an older instruction of side `side`: lanes, tiles and catalogue
belong to the execute side, where no younger instruction has written what an older one that is still uncompleted writes (R19);
channels, contexts, scratchpad and strip are never undone, but for the fill values. -/
def Back.follow (a b c : Back) (side : Nat) : Back :=
  let qs := Vector.ofFn (fun k : Fin 6 => (a.queue k.val).follow (b.queue k.val) (c.queue k.val) (side != 2))
  let c := { c with queues := qs, chans := if fillsOf a.chans b.chans = a.chans then c.chans else fillsOf c.chans b.chans }
  if side = 2 then
    { c with
      v := followTable a.v b.v c.v, m := followTable a.m b.m c.m
      za := followTable a.za b.za c.za, zf := followTable a.zf b.zf c.zf
      zsteps := Vector.ofFn (fun k : Fin 2 => if a.zsteps[k] = b.zsteps[k] then c.zsteps[k] else b.zsteps[k])
      zkinds := Vector.ofFn (fun k : Fin 2 => if a.zkinds[k] = b.zkinds[k] then c.zkinds[k] else b.zkinds[k])
      cat := if a.cat = b.cat then c.cat else b.cat }
  else c

/-- What a discarded tail leaves (R185): the saved back `c`, with what is never undone as it stands now; every older instruction
is complete, so the queues are at rest. -/
def Back.restoreTo (now c : Back) : Back :=
  { c with
    chans := fillsOf now.chans c.chans
    gram := now.gram
    spad := now.spad
    strip := now.strip
    rels := now.rels
    queues := c.rested.queues }

/-- The x registers that instruction `no` owes to `f`, as `b` has them (R19). -/
def Front.deliver (f : Front) (owed : List (Nat × Nat)) (no : Nat) (b : Front) : Front :=
  { f with x := Vector.ofFn (fun k : Fin 32 => if owed.contains (k.val, no) then b.x[k] else f.x[k]) }

/-- A front that replaces another in time: the local clock and the migration request go on; the refusals that its stream has
counted are its own (R185). -/
def Front.now (f cur : Front) : Front :=
  { f with
    cycle := cur.cycle
    mreq := BitVec.ofNat 64 (cur.mreq.toNat % 2 ^ 32 + f.mreq.toNat / 2 ^ 32 * 2 ^ 32) }

/-- A VLD.FF that has gone on and had not settled the shape gives the stream the one that it leaves (R112, R186). -/
def Front.settled (f : Front) (p : Pend) (b : Front) : Front :=
  match p.instr with
  | .vldFF _ => if p.noted.isNone then { f with vl := b.vl, rc := b.rc, ffi := b.ffi } else f
  | _ => f

/-- An instruction that takes rows while it waits and gives them all back when something stops it (R343). -/
def Pend.givesBack (p : Pend) : Bool :=
  match p.instr with
  | .acclog .. => true
  | _ => false

/-- The lanes that an instruction in flight reads its sources from: those noted when it started, else as the instructions older than
it have left them (R19, R268). -/
def Pend.sources (p : Pend) : Option (SMap (BitVec 16) × SMap (BitVec 16)) :=
  if p.lanes.isNone then some (p.ckpt.v, p.ckpt.m) else p.lanes

/-- Instruction `i`, with place `no`, has written its masks and x registers: no reader joins with an older result of the grammar engine
for those any more; a held fault stays for a WAITE of its class and for HALT (R330). -/
def GPend.overwritten (p : GPend) (no : Nat) (i : Instr) : GPend :=
  if no ≤ p.by_ then p
  else
    { p with
      masks := p.masks.filter (fun k => !(maskWrites i).contains k)
      xreg := p.xreg.filter (fun r => !((xWrites i).map (fun x => x.val)).contains r) }

/-- What of a pending result is left to join with, or to be taken by a WAITE or HALT. -/
def GPend.counts (p : GPend) : Bool := p.fault.isSome || !p.masks.isEmpty || p.xreg.isSome

/-- The pending results of a back behind an instruction that has completed (R330). -/
def Back.wrote (b : Back) (no : Nat) (i : Instr) : Back :=
  if b.gram.pend.isEmpty then b
  else { b with gram := { b.gram with pend := (b.gram.pend.map (fun p => p.overwritten no i)).filter GPend.counts } }

/-- Lets the `k`-th instruction in flight go on through `run`, and says whether it got any further, or waits
for something else now. On a trap everything
behind it is discarded (R185); otherwise its effects reach the registers and the instructions behind it. -/
def State.resumePend (run : Instr → State → State) (k : Nat) (s : State) : State × Bool :=
  match s.cpu.inflight[k]? with
  | none => (s, false)
  | some p =>
    let cur := s.cpu.front
    let older := s.cpu.inflight.take k
    let younger := s.cpu.inflight.drop (k + 1)
    let side := sideOf p.instr
    let b0 := s.cpu.back
    let s1 := run p.instr { s with cpu := { s.cpu with
      front := p.front.now cur, inflight := older, lanes := p.sources, owed := p.owed, wait := none, due := p.noted, trapped := false } }
    let b1 := s1.cpu.back
    let ckpt := if p.givesBack && older.isEmpty then p.ckpt else b0.follow b1 p.ckpt side
    if s1.cpu.trapped || s1.cpu.status != s.cpu.status then
      ({ s1 with cpu := { s1.cpu with back := b1.restoreTo ckpt, lanes := none } }, true)
    else
      let no := p.front.instret.toNat
      let paid (l : List (Nat × Nat)) : List (Nat × Nat) := l.filter (fun e => e.2 != no)
      let goes := (s1.cpu.inflight.drop older.length).isEmpty && s1.cpu.wait.isNone
      let behind := younger.map (fun y =>
        let y1 := { y with front := y.front.settled p s1.cpu.front, ckpt := b0.follow b1 y.ckpt side }
        if goes then { y1 with front := y1.front.deliver y.owed no s1.cpu.front, owed := paid y.owed } else y1)
      let cur1 := cur.settled p s1.cpu.front
      let front := { (if goes then cur1.deliver s.cpu.owed no s1.cpu.front else cur1) with cycle := s1.cpu.front.cycle }
      let back (l : List Pend) : State := { s1 with cpu := { s1.cpu with
        front := front, inflight := l, lanes := s.cpu.lanes, owed := if goes then paid s.cpu.owed else s.cpu.owed
        wait := s.cpu.wait, due := s.cpu.due } }
      match s1.cpu.inflight.drop older.length with
      | q :: _ =>
        let q := { q with ckpt := ckpt }
        (back (older ++ q :: behind),
          q.front.vstart != p.front.vstart || b1 != b0 || q.on != p.on || q.full != p.full)
      | [] =>
        if s1.cpu.wait.isSome then
          (back (older ++ { p with ckpt := ckpt } :: behind), b1 != b0)
        else
          let t := back (older ++ behind)
          (t.setBack (t.cpu.back.wrote no p.instr), true)

/-- The first instruction in flight that gets further, from the `k`-th on. -/
def State.resumeFirst (run : Instr → State → State) (n k : Nat) (s : State) : State × Bool :=
  match n with
  | 0 => (s, false)
  | m + 1 =>
    let r := s.resumePend run k
    if r.2 then r else State.resumeFirst run m (k + 1) s

/-- The counters of the core on which the hart at hand stood (R371): instructions that it has retired, planes skipped (R34), and lane
cycles, which depend on the beds' other work and are free. -/
def State.count (before after : State) : State :=
  let i := before.cpu.id
  let k := after.core i.die i.core
  let s1 := after.setCore i.die i.core { k with
    cret := k.cret + (after.cpu.retired - before.cpu.retired)
    clane := k.clane + Config.freeCycles after.tick
    cskip := k.cskip + BitVec.ofNat 64 after.cpu.skips }
  { s1 with cpu := { s1.cpu with skips := 0 }, tick := s1.tick + 1 }

end Sys2Proof.Machine
end

