-- ==== Sys2Proof/Machine/LoadStore.lean ====
section
/-! DEFINITION. Scalar loads and stores (R230–R232) and their compressed forms (R80). -/

namespace Sys2Proof.Machine

/-- The physical address lies in management space or the work-queue pages: such loads wait for older instructions (R185). -/
def State.isReg (s : State) (pa : Nat) : Bool := s.isLocal pa && !(regionOf (pa % pkgSpan)).isMem

/-- The effective address of R230. -/
def State.ea (s : State) (a : Reg) (off : W64) : Nat := (s.getX a + off).toNat

/-- A scalar load of `n` bytes at `ea` into x[d] (R230–R232): it may perform early, its fault is taken in order (R185). It is ordered
behind the strip interval's writes of its bytes (R215); `after` is what it orders besides. -/
def State.loadThen (s : State) (i : Instr) (d : Reg) (ea n : Nat) (ext : Nat → W64) (after : List Nat → State → State) : State :=
  s.inOrder i fun s =>
    match s.accessBytes s.cpu.ctx .load false (vaRange ea n) with
    | .error f => s.raise i (accTrap i f 15 false 0)
    | .ok pas =>
      if !s.oldest && pas.any s.isReg then s.hold i
      else (after pas ((s.readLines s.cpu.id.die (pas.map s.key)).settleStrip pas)).compute i.len d (ext (leNat (pas.map (s.physByte s.cpu.id.die))))

/-- A scalar load that orders nothing else. -/
def State.loadTo (s : State) (i : Instr) (d : Reg) (ea n : Nat) (ext : Nat → W64) : State :=
  s.loadThen i d ea n ext (fun _ s => s)

/-- A scalar store of the low `n` bytes of x[b] at `ea`, as the oldest uncompleted instruction (R230–R232). -/
def State.storeFrom (s : State) (i : Instr) (b : Reg) (ea n : Nat) : State :=
  s.whenOldest i fun s =>
    match s.storeBytes ea (leBytes n (s.getU b)) with
    | .error f => s.raise i (accTrap i f 15 false 0)
    | .ok s1 => s1.retire i.len

/-- LDB (R230). -/
def execLdb (d a : Reg) (imm : BitVec 12) (s : State) : Out := .next (s.loadTo (.ldb d a imm) d (s.ea a (immI imm)) 1 (sext64 8))
/-- LDH (R230). -/
def execLdh (d a : Reg) (imm : BitVec 12) (s : State) : Out := .next (s.loadTo (.ldh d a imm) d (s.ea a (immI imm)) 2 (sext64 16))
/-- LDW (R230). -/
def execLdw (d a : Reg) (imm : BitVec 12) (s : State) : Out := .next (s.loadTo (.ldw d a imm) d (s.ea a (immI imm)) 4 (sext64 32))
/-- LDD (R230). -/
def execLdd (d a : Reg) (imm : BitVec 12) (s : State) : Out := .next (s.loadTo (.ldd d a imm) d (s.ea a (immI imm)) 8 (BitVec.ofNat 64))
/-- LDBU (R230). -/
def execLdbu (d a : Reg) (imm : BitVec 12) (s : State) : Out := .next (s.loadTo (.ldbu d a imm) d (s.ea a (immI imm)) 1 (BitVec.ofNat 64))
/-- LDHU (R230). -/
def execLdhu (d a : Reg) (imm : BitVec 12) (s : State) : Out := .next (s.loadTo (.ldhu d a imm) d (s.ea a (immI imm)) 2 (BitVec.ofNat 64))
/-- LDWU (R230). -/
def execLdwu (d a : Reg) (imm : BitVec 12) (s : State) : Out := .next (s.loadTo (.ldwu d a imm) d (s.ea a (immI imm)) 4 (BitVec.ofNat 64))
/-- STB (R230). -/
def execStb (b a : Reg) (imm : BitVec 12) (s : State) : Out := .next (s.storeFrom (.stb b a imm) b (s.ea a (immI imm)) 1)
/-- STH (R230). -/
def execSth (b a : Reg) (imm : BitVec 12) (s : State) : Out := .next (s.storeFrom (.sth b a imm) b (s.ea a (immI imm)) 2)
/-- STW (R230). -/
def execStw (b a : Reg) (imm : BitVec 12) (s : State) : Out := .next (s.storeFrom (.stw b a imm) b (s.ea a (immI imm)) 4)
/-- STD (R230). -/
def execStd (b a : Reg) (imm : BitVec 12) (s : State) : Out := .next (s.storeFrom (.std b a imm) b (s.ea a (immI imm)) 8)
/-- H.LDD (R80). -/
def execHLdd (d a : Fin 8) (off : Fin 32) (s : State) : Out := .next (s.loadTo (.hLdd d a off) (shortReg d) (s.ea (shortReg a) (BitVec.ofNat 64 (8 * off.val))) 8 (BitVec.ofNat 64))
/-- H.LDW (R80). -/
def execHLdw (d a : Fin 8) (off : Fin 32) (s : State) : Out := .next (s.loadTo (.hLdw d a off) (shortReg d) (s.ea (shortReg a) (BitVec.ofNat 64 (4 * off.val))) 4 (sext64 32))
/-- H.STD (R80). -/
def execHStd (b a : Fin 8) (off : Fin 32) (s : State) : Out := .next (s.storeFrom (.hStd b a off) (shortReg b) (s.ea (shortReg a) (BitVec.ofNat 64 (8 * off.val))) 8)
/-- H.STW (R80). -/
def execHStw (b a : Fin 8) (off : Fin 32) (s : State) : Out := .next (s.storeFrom (.hStw b a off) (shortReg b) (s.ea (shortReg a) (BitVec.ofNat 64 (4 * off.val))) 4)

end Sys2Proof.Machine
end

