-- ==== Sys2Proof/Machine/Access.lean ====
section
/-! DEFINITION. The vector access forms: VLD, VST, VTREE and MLDQ (R178, R179, R235–R250, R334–R338), with the freedom of
a strip interval (R215–R218). -/

namespace Sys2Proof.Machine

/-! Reading and writing vector elements inside a strip interval (R215). -/

/-- What byte `a` held before the first of the writes `l` that covers it. -/
def stripSaved (l : List StripWrite) (a : Nat) : Option Byte :=
  match l with
  | [] => none
  | w :: t => match mfind w.bytes a with
    | some b => some b.1
    | none => stripSaved t a

/-- The writes `l` with byte `a` holding `v` before the first of them that covers it, where memory holds `cur` behind them all; and what
it holds behind them then: a write changes the bits that are its own (R214). -/
def stripPatch (l : List StripWrite) (a : Nat) (v cur : Byte) : List StripWrite × Byte :=
  match l with
  | [] => ([], v)
  | w :: t =>
    match mfind w.bytes a with
    | none =>
      let r := stripPatch t a v cur
      (w :: r.1, r.2)
    | some b =>
      let after := (stripSaved t a).getD cur
      let r := stripPatch t a ((after &&& b.2) ||| (v &&& ~~~b.2)) cur
      ({ w with bytes := w.bytes.map (fun e => if e.1 = a then (a, v, b.2) else e) } :: r.1, r.2)

/-- The writes of the open interval of the hart. -/
def State.openStrip (s : State) : List StripWrite :=
  s.cpu.back.strip.filter (fun w => w.interval = s.cpu.front.interval)

/-- The choice below `n` that is made freely at a tick for place `i`. -/
def pick (tick n i : Nat) : Nat := if n ≤ 1 then 0 else Config.freePick tick i % n

/-- A vector element of `w` bits at these addresses whose access is single-copy atomic (R213, R214). -/
def atomicElem (w : Nat) (vas : List Nat) : Bool :=
  (w = 8 || w = 16 || w = 32) && vas.length = w / 8 && vas.headD 0 % (w / 8) = 0

/-- The number of the first write that is not known to come before a read of byte `a` (R215, R218): those before it include every
write that the read is ordered behind, and, for an ordered gather, every write it has returned or passed over there. -/
def stripLow (l : List StripWrite) (gather : Option Nat) (a : Nat) : Nat :=
  l.zipIdx.foldl (fun n e => if e.1.done.contains a || gather.any (fun g => e.1.seen.contains (g, a)) then e.2 + 1 else n) 0

/-- A single-copy atomic read of the bytes `first` to `first` + `len` − 1 sees write number `j` whole or not at all (R213): where one
of the write's bytes is read at it or behind it, all of them are. -/
def wholeAt (w : StripWrite) (j : Nat) (keys : List Nat) (first len : Nat) (pos : List Nat) : List Nat :=
  let wk := w.bytes.map (fun e => e.1) ++ w.done
  let hit (b : Nat) : Bool := first ≤ b && b < first + len && wk.contains (keys.getD b 0)
  if w.whole && wk.all ((keys.drop first).take len).contains && (List.range keys.length).any (fun b => hit b && j < pos.getD b 0) then
    pos.mapIdx (fun b p => if hit b then max p (j + 1) else p)
  else pos

/-- The bytes of a vector load element at checked addresses: each may be read behind any number of the writes of the open interval, as
R215 and R218 allow, and its atomic parts see atomic writes whole (R213); the choices are made for the places from `i` on. With them,
where an ordered gather reads (`gather` is its number), the write at which each byte stood then. -/
def State.readElement (s : State) (strip : List StripWrite) (gather : Option Nat) (i : Nat) (atoms : List (Nat × Nat))
    (pas : List Nat) : List Byte × List (Nat × Nat) :=
  if strip.isEmpty then (pas.map (s.physByte s.cpu.id.die), [])
  else
    let n := strip.length
    let keys := pas.map s.key
    let pos0 := pas.mapIdx (fun b pa =>
      max (stripLow strip gather (s.key pa)) (pick s.tick (n + 1) (i + b)))
    let pos := (strip.zipIdx.reverse).foldl (fun pos e => atoms.foldl (fun pos a => wholeAt e.1 e.2 keys a.1 a.2 pos) pos) pos0
    let passed (b k : Nat) : List (Nat × Nat) :=
      (((strip.take (pos.getD b 0)).zipIdx.filter (fun e => (mfind e.1.bytes k).isSome)).map (fun e => (e.2, k)))
    (pas.mapIdx (fun b pa => (stripSaved (strip.drop (pos.getD b 0)) (s.key pa)).getD (s.physByte s.cpu.id.die pa)),
      if gather.isSome then (keys.zipIdx).flatMap (fun e => passed e.2 e.1) else [])

/-- The writes with the places that ordered gather `gather` has reached noted. -/
def markSeen (strip : List StripWrite) (gather : Option Nat) (marks : List (Nat × Nat)) : List StripWrite :=
  match gather with
  | none => strip
  | some g => strip.mapIdx (fun j w => { w with seen := w.seen ++ (marks.filter (fun e => e.1 = j)).map (fun e => (g, e.2)) })

/-- A vector write of bytes that land together, part of element access `access`, each with its value and the bits that it changes: at
any place among the vector writes of the open interval that touch a common byte, but behind the writes of others, behind those that
something has been ordered behind, and behind those of the same instruction where the form orders its elements (R215, R218, R219). What a home package drops does not land
(R208). -/
def State.stripWrite (s : State) (ordered whole : Bool) (access : Nat) (l : List (Nat × Byte × Byte)) : State :=
  let l := l.filter (fun e => !s.drops e.1)
  let keys := l.map (fun e => s.key e.1)
  if l.isEmpty then s else
  let s := s.meetStrips true keys
  let strip := s.openStrip
  let me := s.cpu.front.instret.toNat
  let low := strip.zipIdx.foldl (fun n e =>
    if e.1.source != .vector || e.1.done.any keys.contains || (ordered && e.1.by_ = me && e.1.meets keys) then e.2 + 1 else n) 0
  let n := if strip.any (fun w => w.meets keys) then pick s.tick (strip.length - low + 1) 0 else 0
  let older := strip.take (strip.length - n)
  let init : State × List StripWrite × List (Nat × Byte × Byte) := (s.tock, strip.drop (strip.length - n), [])
  let r := l.foldl (fun st e =>
    let a := s.key e.1
    let cur := readCell st.1.mem a
    let old := (stripSaved st.2.1 a).getD cur
    let p := stripPatch st.2.1 a ((old &&& ~~~e.2.2) ||| (e.2.1 &&& e.2.2)) cur
    (st.1.putBytes s.cpu.id.die a [p.2], p.1, st.2.2 ++ [(a, old, e.2.2)])) init
  r.1.setBack { r.1.cpu.back with strip := older ++ ⟨s.cpu.front.interval, .vector, me, access, whole, r.2.2, [], []⟩ :: r.2.1 }

/-- The bits `lo` to `lo` + `n` − 1 of the run of bytes at the checked addresses, as vector writes (R213, R214, R239): bytes land by
themselves, or together where the element is atomic; a byte covered in part keeps its other bits. They are one element's, but for a
`packed` run, in which each byte is an access (R214). -/
def State.vecWrite (s : State) (ordered atomic packed : Bool) (pas : List Nat) (lo n pat : Nat) : State :=
  let val := pat % 2 ^ n * 2 ^ lo
  let mask (b : Nat) : Byte := BitVec.ofNat 8 (2 ^ min 8 (lo + n - 8 * b) - 2 ^ (lo - 8 * b))
  let byte (b : Nat) : Byte := BitVec.ofNat 8 (val / 2 ^ (8 * b))
  if s.secondCopy then s
  else if pas.any s.isReg then
    s.physWriteList s.agent s.cpu.id.die pas (pas.mapIdx (fun b pa =>
      (s.physByte s.cpu.id.die pa &&& ~~~(mask b)) ||| (byte b &&& mask b)))
  else if atomic && lo = 0 && n = 8 * pas.length then s.stripWrite ordered true s.tick (pas.mapIdx (fun b pa => (pa, byte b, 0xFF#8)))
  else
    let access := s.tick
    (pas.zipIdx).foldl (fun s e =>
      s.stripWrite ordered (n = 8 && lo % 8 = 0) (if packed then s.tick else access) [(e.1, byte e.2, mask e.2)]) s

/-! Loads (R240, R248, R249). -/

/-- What reading a row from some column on gave: for each element the values of its queue rows, up to a fault; `pas` are the physical
addresses of the bytes read; `seen` are the strip writes that an ordered gather has reached, each with a byte (R218). -/
structure RowRead where
  cols : List (List Nat)
  fault : Option AccFault
  pas : List Nat
  seen : List (Nat × Nat)
  deriving DecidableEq, Repr

/-- How the elements of a load are found: the bytes of an element, which runs of them are read at once (first byte and length,
R213), and the values of its queue rows from them. -/
structure ElemSpec where
  addrs : Nat → List Nat
  atoms : Nat → List (Nat × Nat)
  vals : Nat → List Byte → List Nat

/-- Elements `i` to `i` + `n` − 1 (R248). -/
def State.readElems (s : State) (strip : List StripWrite) (gather : Option Nat) (e : ElemSpec) (n i : Nat) : RowRead :=
  match n with
  | 0 => ⟨[], none, [], []⟩
  | m + 1 =>
    match s.accessBytes s.cpu.ctx .load false (e.addrs i) with
    | .error f => ⟨[], some f, [], []⟩
    | .ok pas =>
      let g := s.readElement strip gather (64 * i) (e.atoms i) pas
      let r := s.readElems (markSeen strip gather g.2) gather e m (i + 1)
      ⟨e.vals i g.1 :: r.cols, r.fault, pas ++ r.pas, g.2 ++ r.seen⟩

/-- A load: its queue, tile rows of `len` elements, queue rows for each tile row, whether these come from one read (`joint`), whether a
tile row takes an index row of sq1, and how a row is read, by its tile row, its field and a column to read from. `gate` is what comes
before that: the state with what it moved on, and whether the row is to wait, or traps. `cont` are the registers that the stream goes on
with. -/
structure LoadJob where
  q : Nat
  rows : Nat
  len : Nat
  fields : Nat := 1
  joint : Bool := false
  idx : Bool := false
  read : State → Nat → Nat → Nat → RowRead
  gate : State → Nat → Nat → Except (State × Option TrapInfo) State := fun s _ _ => .ok s
  cont : Front → Front := id

/-- The instruction waits `k` elements into its work. -/
def State.waitAt (s : State) (i : Instr) (k : Nat) (on : List Nat) (full : Bool) : State :=
  s.suspendAs i k on full s.cpu.front none

/-- As `waitAt`, for a load. -/
def State.loadWait (s : State) (i : Instr) (j : LoadJob) (k : Nat) (on : List Nat) (full : Bool) : State :=
  s.suspendAs i k on full (j.cont s.cpu.front) none

/-- A fault at element `k`, kept until the instruction is the oldest (R20, R248). PROTECTION names an address and no element (R183). -/
def State.raiseAt (s : State) (i : Instr) (q k : Nat) (f : AccFault) : State :=
  (s.setFront { s.cpu.front with vstart := k }).raise i (accTrap i f q (f.cause != .protection) k)

/-- The rows of queue `q` that the load at pc has read and not delivered. -/
def State.ownPart (s : State) (q : Nat) : List Row :=
  (s.cpu.back.queue q).part.filter (fun r => r.by_ = s.cpu.front.pc.toNat)

/-- Queue `q` with these rows of the load at pc read and not delivered. -/
def State.setPart (s : State) (q : Nat) (l : List Row) : State :=
  s.setBack (s.cpu.back.modQueue q (fun x =>
    { x with part := x.part.filter (fun r => r.by_ != s.cpu.front.pc.toNat) ++ l }))

/-- Makes rows visible while space lasts (R240, R253): what is left. -/
def pushRows (q : Nat) (l : List Row) (s : State) : State × List Row :=
  match l with
  | [] => (s, [])
  | r :: t =>
    if s.qcap < s.fill q + rowBytes (s.cpu.front.queueTag q) r.elems.length then (s, l)
    else pushRows q t (s.pushRow q r.elems)

/-- Queue rows that one read gives. -/
def LoadJob.width (j : LoadJob) : Nat := if j.joint then j.fields else 1

/-- Reads of a tile row. -/
def LoadJob.reads (j : LoadJob) : Nat := if j.joint then 1 else j.fields

/-- How far the access at `pc` has come inside its tile row or stream (R240, R243, R247, R250). -/
def Back.setSub (b : Back) (q : Nat) (pc : W64) (n : Nat) : Back :=
  b.modQueue q (fun x => { x with sub := if n = 0 then 0 else pc.toNat * 2 ^ 40 + n })

/-- That progress, 0 for an access at another address. -/
def Back.getSub (b : Back) (q : Nat) (pc : W64) : Nat :=
  if (b.queue q).sub / 2 ^ 40 = pc.toNat then (b.queue q).sub % 2 ^ 40 else 0

/-- `fields` rows of `len` elements, of which the columns `cols` have been read. -/
def partRows (pc : W64) (fields len : Nat) (cols : List (List Nat)) : List Row :=
  (List.range fields).map (fun k =>
    ⟨cols.map (fun c => c.getD k 0) ++ List.replicate (len - cols.length) 0, cols.length, 0, pc.toNat⟩)

/-- Reads field `fld` of tile row `r`, which holds element `k`, going on behind the columns already read; the state after it, or where
the instruction stops. -/
def State.readTileRow (s : State) (i : Instr) (j : LoadJob) (r fld k : Nat) : Except State State :=
  let part := s.ownPart j.q
  let c0 := k - r * j.len
  let own := c0 != 0 && part.length = j.width && part.all (fun p => p.done = c0)
  let bytes := rowBytes (s.cpu.front.queueTag j.q) j.len
  if j.idx && (s.cpu.back.queue 5).rows.isEmpty then .error (s.loadWait i j k [5] false)
  else if (if own then s.qcap - s.fill j.q else s.free j.q) < bytes then .error (s.loadWait i j k [j.q] true)
  else
    let before := if own then (List.range c0).map (fun c => part.map (fun p => p.elems.getD c 0)) else []
    match j.gate s r before.length with
    | .error (s1, none) => .error (s1.loadWait i j k [] false)
    | .error (s1, some t) => .error ((s1.setFront { s1.cpu.front with vstart := k }).raise i t)
    | .ok s =>
    let rd := j.read s r fld before.length
    let s := s.readLines s.cpu.id.die (rd.pas.map s.key)
    let s := if rd.seen.isEmpty then s.tock
      else (s.setBack { s.cpu.back with
        strip := markSeen s.openStrip (some s.cpu.front.instret.toNat) rd.seen }).tock
    let cols := before ++ rd.cols
    match rd.fault with
    | some f =>
      let kf := r * j.len + cols.length
      let s1 := s.setPart j.q (if cols.isEmpty then [] else partRows s.cpu.front.pc j.width j.len cols)
      .error (s1.raiseAt i j.q kf f)
    | none =>
      if rd.pas.any s.isReg && !s.oldest then .error (s.loadWait i j k [] false)
      else
        let s1 := s.setPart j.q (partRows s.cpu.front.pc j.width j.len cols)
        .ok (if j.idx then s1.setBack (s1.cpu.back.popRows 5 1) else s1)

/-- Reads from number `u` on, `n` of them: each takes its row from memory, which then becomes visible as space allows (R240, R249). -/
def loadRows (i : Instr) (j : LoadJob) (fin : State → Front) (n u : Nat) (s : State) : State :=
  match n with
  | 0 => s.finish i (fin s)
  | m + 1 =>
    let r := u / j.reads
    let fld := u % j.reads
    let k := max s.cpu.front.vstart (r * j.len)
    let part := s.ownPart j.q
    let ready := !part.isEmpty && part.all (fun p => p.done = j.len && p.elems.length = j.len)
    match (if ready then .ok s else s.readTileRow i j r fld k) with
    | .error s1 => s1
    | .ok s1 =>
      let p := pushRows j.q (s1.ownPart j.q) s1
      let s2 := p.1.setPart j.q p.2
      if p.2.isEmpty then
        let next := if fld + 1 = j.reads then 0 else fld + 1
        let s3 := if j.reads = 1 then s2 else s2.setBack (s2.cpu.back.setSub j.q s.cpu.front.pc next)
        loadRows i j fin m (u + 1) (s3.setFront { s3.cpu.front with vstart := if next = 0 then (r + 1) * j.len else r * j.len })
      else s2.loadWait i j k [j.q] true

/-- Runs a load from the row that it has come to; an empty tile accesses nothing (R235). -/
def State.loadJob (s : State) (i : Instr) (j : LoadJob) (fin : State → Front) : State :=
  if j.rows = 0 || j.len = 0 then s.finish i (fin s)
  else
    let u0 := s.cpu.front.vstart / j.len * j.reads + min (s.cpu.back.getSub j.q s.cpu.front.pc) (j.reads - 1)
    loadRows i j fin (j.rows * j.reads - u0) u0 s

/-! Operands of the VM forms (R235–R238, R242, R243). -/

/-- A := x[a] + imm7 × 16 (R235). -/
def State.vmBase (s : State) (o : VMOps) : Nat := (s.getX o.xa + BitVec.ofInt 64 (o.imm7.toInt * 16)).toNat

/-- The memory kind of the sub field, none for the queue's own tag (R236). -/
def memTag (sub : Nat) : Option Tag :=
  match sub with
  | 0 => none
  | 1 => some (tagUint 8)
  | 2 => some (tagInt 8)
  | 3 => some (tagUint 16)
  | 4 => some (tagInt 16)
  | 5 => some tagFp16
  | 6 => some tagBf16
  | _ => some tagFp32

/-- The conversion of R236 from tag `m` to tag `t`. -/
def memConvert (rm : Nat) (m t : Tag) (p : Nat) : Nat := (convWrite t rm true (tagIsInt m) (tval m p)).1

/-- A memory pattern delivered under the queue tag `t`. -/
def loadConvert (rm : Nat) (m : Option Tag) (t : Tag) (p : Nat) : Nat :=
  match m with
  | none => p % 2 ^ tagW t
  | some k => memConvert rm k t p

/-- A queue element as it is written to memory. -/
def storeConvert (rm : Nat) (m : Option Tag) (t : Tag) (p : Nat) : Nat :=
  match m with
  | none => p % 2 ^ tagW t
  | some k => memConvert rm t k (p % 2 ^ tagW t)

/-- The bytes of bits `lo` to `lo` + `n` − 1 counted from bit 0 of address `a`, modulo 2^64 (R237). -/
def bitRange (a lo n : Nat) : List Nat := vaRange (a + lo / 8) ((lo + n - 1) / 8 - lo / 8 + 1)

/-- Where element `i` starts, in bytes from A, for the whole-byte forms S and X (R237); `idx` are the index values of the
tile row that starts at element `at_`. -/
inductive Place where
  | dense
  | stride (st : Int)
  | index (sh : Nat)
  deriving DecidableEq, Repr

/-- Index values of the head row of sq1 (R242). -/
def State.indexRow (s : State) : List Nat :=
  match (s.cpu.back.queue 5).rows with
  | [] => []
  | r :: _ => r.elems

/-- The first bit of element (r, c), counted from address A modulo 2^64 bytes: the byte address and the bit in it. -/
def elemStart (s : State) (p : Place) (a wm vl r c : Nat) : Nat × Nat :=
  let i := r * vl + c
  match p with
  | .dense => ((a + i * wm / 8) % 2 ^ 64, i * wm % 8)
  | .stride st => (intMod 64 (a + i * st), 0)
  | .index sh => (intMod 64 (a + tint (s.cpu.front.queueTag 5) (s.indexRow.getD c 0) * 2 ^ sh), 0)

/-- The elements of a tile row of a U, S, X or FF form (R237). -/
def plainSpec (s : State) (p : Place) (a wm vl r : Nat) (conv : Nat → Nat) : ElemSpec where
  addrs c := let b := elemStart s p a wm vl r c; bitRange b.1 b.2 wm
  atoms c := let b := elemStart s p a wm vl r c; if b.2 = 0 && atomicElem wm (bitRange b.1 0 wm) then [(0, wm / 8)] else []
  vals c l := let b := elemStart s p a wm vl r c; [conv (leNat l / 2 ^ b.2 % 2 ^ wm)]

/-- A load of the U, S, X, XO and FF forms with tile shape from the registers (R236, R237); `ordered` where its elements are read in
their order (R218). -/
def plainLoad (s : State) (o : VMOps) (p : Place) (kind : Option Tag) (ordered : Bool) : LoadJob :=
  let f := s.cpu.front
  let t := f.queueTag o.q.val
  let wm := match kind with
    | none => tagW t
    | some m => tagW m
  let a := s.vmBase o
  { q := o.q.val, rows := f.rc, len := f.vl
    idx := match p with
      | .index _ => true
      | _ => false
    read := fun s r _ c0 =>
      s.readElems s.openStrip (if ordered then some s.cpu.front.instret.toNat else none)
        (plainSpec s p a wm f.vl r (loadConvert f.rm kind t)) (f.vl - c0) c0 }

/-- The tag and geometry checks of R236, R238 and R242 for queue `q`, in their order, then `body`. DESIGN CHOICE, log 25: they are made under
a zero grant too, and so is VLD.C's check of its offset. -/
def State.accessChecks (s : State) (i : Instr) (q : Nat) (p : Place) (kind : Option Tag) (body : State → State) : State :=
  let f := s.cpu.front
  let t := f.queueTag q
  let wm := match kind with
    | none => tagW t
    | some m => tagW m
  if tagE8 t && kind.isSome then s.raise i (vTrap f i .illegalTag (tagEval t 0))
  else match p with
    | .dense => body s
    | .stride _ => if wm % 8 != 0 then s.raise i (vTrap f i .subByteStride t.toNat) else body s
    | .index _ =>
      if !tagIsInt (f.queueTag 5) then s.raise i (vTrap f i .illegalTag (tagEval (f.queueTag 5) 0))
      else if wm % 8 != 0 then s.raise i (vTrap f i .subByteStride t.toNat) else body s

/-- A load of the U, S, X and XO forms. -/
def State.vld (s : State) (i : Instr) (o : VMOps) (p : Place) (kind : Option Tag) (ordered : Bool) : State :=
  s.inOrder i fun s => s.accessChecks i o.q.val p kind fun s =>
    s.loadJob i (plainLoad s o p kind ordered) (fun s => s.cpu.front)

/-- The stride of the S forms, in bytes (R237). -/
def State.strideOf (s : State) (o : VMOps) : Place := .stride (s.getX o.xb).toInt

/-! VLD.SEG and VST.SEG (R243). -/

/-- Field widths and where each starts in the record. -/
def segFields (xb F : Nat) : List (Nat × Nat) :=
  ((List.range F).map (fun k => (bitsOf xb (4 * k + 3) (4 * k) + 1))).foldl
    (fun l n => l ++ [(n, (l.map (·.1)).sum)]) []

def segWidth (fs : List (Nat × Nat)) : Nat := (fs.map (·.1)).sum

/-- The checks of the SEG forms (R238, R243), then `body`. -/
def State.segChecks (s : State) (i : Instr) (q : Nat) (fs : List (Nat × Nat)) (body : State → State) : State :=
  let f := s.cpu.front
  let t := f.queueTag q
  if !tagIsInt t then s.raise i (vTrap f i .illegalTag (tagEval t 0))
  else if segWidth fs % 8 != 0 then s.raise i (vTrap f i .subByteStride t.toNat)
  else body s

/-- A field of `n` bits delivered into an integer queue tag (R243). -/
def segLoad (t : Tag) (n p : Nat) : Nat :=
  (intWrite t true (if tagSigned t then sgn n p else (p % 2 ^ n : Nat))).1

/-- The first faulting element of a load from element `k` on, `n` of them. -/
def State.firstFault (s : State) (addrs : Nat → List Nat) (n k : Nat) : Option (Nat × AccFault) :=
  match n with
  | 0 => none
  | m + 1 =>
    match s.accessBytes s.cpu.ctx .load false (addrs k) with
    | .error f => some (k, f)
    | .ok _ => s.firstFault addrs m (k + 1)

/-- VLD.SEG's load: the rows of a tile row's fields are read one after another, each as space allows; where a record of the tile row
faults, its element is that of all of its fields (R248). -/
def segJob (s : State) (o : VMOps) : LoadJob :=
  let f := s.cpu.front
  let t := f.queueTag o.q.val
  let fs := segFields (s.getU o.xb) (o.sub.val + 1)
  let a := s.vmBase o
  let rb := segWidth fs / 8
  { q := o.q.val, rows := f.rc, len := f.vl, fields := fs.length
    read := fun s r fld c0 =>
      let fd := fs.getD fld (1, 0)
      let record (c : Nat) : Nat := a + (r * f.vl + c) * rb
      let bad := if fld = 0 then s.firstFault (fun c => vaRange (record c) rb) (f.vl - c0) c0 else none
      let rd := s.readElems s.openStrip none
        { addrs := fun c => bitRange (record c) fd.2 fd.1
          atoms := fun c => if fd.2 % 8 = 0 && atomicElem fd.1 (bitRange (record c) fd.2 fd.1) then [(0, fd.1 / 8)] else []
          vals := fun _ l => [segLoad t fd.1 (leNat l / 2 ^ (fd.2 % 8))] }
        ((bad.map (fun e => e.1)).getD f.vl - c0) c0
      { rd with fault := rd.fault.or (bad.map (fun e => e.2)) } }

/-! Stores (R241, R250). -/

/-- A store: its queue, tile rows, queue rows for each tile row, whether a tile row takes an index row; the bytes that
element (row, column) touches, and the write of columns `c0` to `c1` − 1 of queue row (row, field). -/
structure StoreJob where
  q : Nat
  rows : Nat
  len : Nat
  fields : Nat
  idx : Bool
  addrs : State → Nat → Nat → List Nat
  write : State → Nat → Nat → List Nat → Nat → Nat → State

/-- The first column from `c` on, `n` of them, whose bytes fault, and the fault (R248). -/
def State.storeFault (s : State) (addrs : Nat → List Nat) (n c : Nat) : Option (Nat × AccFault) :=
  match n with
  | 0 => none
  | m + 1 =>
    match s.accessBytes s.cpu.ctx .store false (addrs c) with
    | .error f => some (c, f)
    | .ok _ => s.storeFault addrs m (c + 1)

/-- Marks the head row of queue `q` as drained below element `k`. -/
def Back.markHead (b : Back) (q k : Nat) : Back :=
  b.modQueue q (fun x => match x.rows with
    | [] => x
    | r :: t => { x with rows := { r with done := k } :: t })

/-- Queue rows from number `u` on, `n` of them: a row is checked whole, written, and leaves its queue (R241, R250). -/
def storeRows (i : Instr) (j : StoreJob) (n u : Nat) (s : State) : State :=
  match n with
  | 0 => s.finish i s.cpu.front
  | m + 1 =>
    let r := u / j.fields
    let fld := u % j.fields
    let k := max s.cpu.front.vstart (r * j.len)
    let c0 := k - r * j.len
    let lacks := (if (s.cpu.back.queue j.q).rows.isEmpty then [j.q] else [])
      ++ (if j.idx && (s.cpu.back.queue 5).rows.isEmpty then [5] else [])
    match lacks, (s.cpu.back.queue j.q).rows with
    | [], row :: _ =>
        match s.storeFault (j.addrs s r) (j.len - c0) c0 with
        | some (c, f) =>
          let s1 := j.write s r fld row.elems c0 c
          (s1.setBack ((s1.cpu.back.markHead j.q c).setSub j.q s.cpu.front.pc fld)).raiseAt i j.q (r * j.len + c) f
        | none =>
          let s1 := j.write s r fld row.elems c0 j.len
          let b := s1.cpu.back.popRows j.q 1
          let b := if j.idx then b.popRows 5 1 else b
          let more := fld + 1 != j.fields
          let b := b.setSub j.q s.cpu.front.pc (if more then fld + 1 else 0)
          let s2 := s1.setBack b
          storeRows i j m (u + 1) (s2.setFront { s2.cpu.front with vstart := if more then r * j.len else (r + 1) * j.len })
    | on, _ => s.waitAt i k on false

/-- Runs a store as the oldest instruction, from the row that holds vstart (R185, R232, R250). -/
def State.storeJob (s : State) (i : Instr) (j : StoreJob) : State :=
  if j.rows = 0 || j.len = 0 then s.finish i s.cpu.front
  else
    let u0 := s.cpu.front.vstart / j.len * j.fields + min (s.cpu.back.getSub j.q s.cpu.front.pc) (j.fields - 1)
    storeRows i j (j.rows * j.fields - u0) u0 s

/-- Checked physical addresses of bytes that are known not to fault. -/
def State.physOf (s : State) (vas : List Nat) : List Nat :=
  match s.accessBytes s.cpu.ctx .store false vas with
  | .ok l => l
  | .error _ => []

/-- A store of the U, S, X and XO forms (R236, R237, R239): packed elements are written as a run of bytes. -/
def plainStore (s : State) (o : VMOps) (p : Place) (kind : Option Tag) (ordered : Bool) : StoreJob :=
  let f := s.cpu.front
  let q := 4 + o.q.val
  let t := f.queueTag q
  let wm := match kind with
    | none => tagW t
    | some m => tagW m
  let a := s.vmBase o
  let at_ (s : State) (r c : Nat) : Nat × Nat := elemStart s p a wm f.vl r c
  let pat (e : List Nat) (c : Nat) : Nat := storeConvert f.rm kind t (e.getD c 0) % 2 ^ wm
  { q := q, rows := f.rc, len := f.vl, fields := 1
    idx := match p with
      | .index _ => true
      | _ => false
    addrs := fun s r c => let b := at_ s r c; bitRange b.1 b.2 wm
    write := fun s r _ e c0 c1 =>
      let s := upto (c1 - c0) (fun n s =>
        let b := at_ s r (c0 + n)
        s.noteWrite b.1 (leBytes ((b.2 + wm + 7) / 8) (pat e (c0 + n)))) s
      if wm % 8 = 0 then
        upto (c1 - c0) (fun n s =>
          let vas := bitRange (at_ s r (c0 + n)).1 0 wm
          s.vecWrite ordered (atomicElem wm vas) false (s.physOf vas) 0 wm (pat e (c0 + n))) s
      else
        let b := at_ s r c0
        let run := (List.range (c1 - c0)).foldl (fun v n => v + pat e (c0 + n) * 2 ^ (n * wm)) 0
        if c1 = c0 then s
        else s.vecWrite ordered false true (s.physOf (bitRange b.1 b.2 ((c1 - c0) * wm))) b.2 ((c1 - c0) * wm) run }

/-- A store of the U, S, X and XO forms. -/
def State.vst (s : State) (i : Instr) (o : VMOps) (p : Place) (kind : Option Tag) (ordered : Bool) : State :=
  s.whenOldest i fun s => s.accessChecks i (4 + o.q.val) p kind fun s => s.storeJob i (plainStore s o p kind ordered)

/-- VST.SEG's store (R243); its digest records stand in the order of the records' linear index, and of the fields in each (R288). -/
def segStore (s : State) (o : VMOps) : StoreJob :=
  let f := s.cpu.front
  let q := 4 + o.q.val
  let t := f.queueTag q
  let fs := segFields (s.getU o.xb) (o.sub.val + 1)
  let a := s.vmBase o
  let rb := segWidth fs / 8
  { q := q, rows := f.rc, len := f.vl, fields := fs.length, idx := false
    addrs := fun _ r c => vaRange (a + (r * f.vl + c) * rb) rb
    write := fun s r fld e c0 c1 =>
      let fd := fs.getD fld (1, 0)
      upto (c1 - c0) (fun n s =>
        let rec_ := a + (r * f.vl + c0 + n) * rb
        let vas := bitRange rec_ fd.2 fd.1
        let z := tint t (e.getD (c0 + n) 0)
        let p := (intWrite (if tagSigned t then tagInt fd.1 else tagUint fd.1) true z).1
        let s := s.noteWriteAt s.cpu.front.instret.toNat ((r * f.vl + c0 + n) * 8 + fld) (vas.headD 0) (leBytes vas.length p)
        s.vecWrite false (atomicElem fd.1 vas) false (s.physOf vas) (fd.2 % 8) fd.1 p) s }

/-! Compressed streams (R244–R247). -/

/-- A chunk header's fields. -/
structure Chunk where
  addr : Nat
  paylen : Nat
  nnz : Nat
  tag : Tag
  /-- the bytes read on the way to the chunk and in its bitmap -/
  pas : List Nat
  deriving DecidableEq, Repr

/-- The chunk a header describes, or none where it breaks R244 by itself. -/
def chunkOf (a h : Nat) (pas : List Nat) : Option Chunk :=
  let t : Tag := BitVec.ofNat 16 (bitsOf h 7 4 * 16 + h % 16)
  let nnz := bitsOf h 20 8
  let pay := bitsOf h 44 21
  if h / 2 ^ 45 != 0 || !tagValid t || 9 < h % 16 || 4096 < nnz || pay % 8 != 0 || pay < cdiv (nnz * tagW t) 8 then none
  else some ⟨a, pay, nnz, t, pas⟩

/-- Reads bytes as the elements of a vector load, each an access of its own (R218), with their physical addresses. The places of their
choices lie above those of the values. -/
def State.vecBytes (s : State) (va n : Nat) : Except AccFault (List Byte × List Nat) :=
  match s.accessBytes s.cpu.ctx .load false (vaRange va n) with
  | .error f => .error f
  | .ok pas => .ok (pas.mapIdx (fun k pa => (s.readElement s.openStrip none (2 ^ 64 + va + k) [] [pa]).1.headD 0), pas)

/-- The chunk `n` places behind the one at `a` (R246): its header, or the fault with the number of the chunk at fault. -/
def State.scout (s : State) (n a : Nat) (pas : List Nat) : Except AccFault Chunk :=
  match s.vecBytes a 8 with
  | .error f => .error f
  | .ok (l, r) =>
    match chunkOf a (leNat l) (r ++ pas) with
    | none => .error ⟨.loadFault, 4, 0, a⟩
    | some c =>
      match n with
      | 0 => .ok c
      | m + 1 => s.scout m ((a + 520 + c.paylen) % 2 ^ 64) c.pas

/-- The data of a chunk: its bitmap, checked against `nnz` (R246). -/
def State.chunkBits (s : State) (c : Chunk) : Except AccFault (Chunk × List Bool) :=
  match s.vecBytes (c.addr + 8) 512 with
  | .error f => .error f
  | .ok (l, r) =>
    let bits := l.flatMap (fun b => natBits 8 b.toNat)
    if (bits.filter id).length != c.nnz then .error ⟨.loadFault, 4, 0, c.addr⟩ else .ok ({ c with pas := r ++ c.pas }, bits)

/-- The chunk that holds stream element `e`, with its bitmap: the one at hand, or what the scout and data passes find (R246). -/
def State.chunkAt (s : State) (a : Nat) (cache : Option (Nat × Chunk × List Bool)) (k : Nat) : Except AccFault (Chunk × List Bool) :=
  let fresh : Except AccFault (Chunk × List Bool) :=
    match s.scout k a [] with
    | .error f => .error f
    | .ok c => s.chunkBits c
  match cache with
  | some (j, c, b) => if j = k then .ok (c, b) else fresh
  | none => fresh

/-- Elements `n` from stream element `e` on, counted from the chunk at `a`, as values under `t` (R245, R246). -/
def State.readStream (s : State) (t : Tag) (a : Nat) (cache : Option (Nat × Chunk × List Bool)) (n e : Nat) : RowRead :=
  match n with
  | 0 => ⟨[], none, [], []⟩
  | m + 1 =>
    let k := e / 4096
    match s.chunkAt a cache k with
    | .error f => ⟨[], some f, [], []⟩
    | .ok (c, bits) =>
      let found := if cache.any (fun x => x.1 = k) then [] else c.pas
      if !bits.getD (e % 4096) false then
        let r := s.readStream t a (some (k, c, bits)) m (e + 1)
        { r with cols := [0] :: r.cols, pas := found ++ r.pas }
      else
        let pos := ((bits.take (e % 4096)).filter id).length
        let w := tagW c.tag
        let vas := bitRange (c.addr + 520) (pos * w) w
        match s.accessBytes s.cpu.ctx .load false vas with
        | .error f => ⟨[], some f, [], []⟩
        | .ok pas =>
          let g := s.readElement s.openStrip none (64 * e) (if atomicElem w vas then [(0, w / 8)] else []) pas
          let p := leNat g.1 / 2 ^ (pos * w % 8) % 2 ^ w
          let r := s.readStream t a (some (k, c, bits)) m (e + 1)
          ⟨[memConvert s.cpu.front.rm c.tag t p] :: r.cols, r.fault, found ++ pas ++ r.pas, []⟩

/-- VLD.C (R245, R246): x[a] and x[b] at completion. -/
def State.vldStream (s : State) (i : Instr) (o : VMOps) : State :=
  s.inOrder i fun s =>
    let f := s.cpu.front
    let a := s.vmBase o
    let off := s.getU o.xb
    let q := o.q.val
    let n := f.rc * f.vl
    let t := f.queueTag q
    if 4096 ≤ off then s.raise i (accTrap i ⟨.loadFault, 4, 0, a⟩ q true f.vstart)
    else
      let next (s : State) : Nat := (match s.scout ((off + n) / 4096 - 1) a [] with
        | .ok c => if (off + n) / 4096 = 0 then a else (c.addr + 520 + c.paylen) % 2 ^ 64
        | .error _ => a)
      let fin (s : State) : Front :=
        (s.cpu.front.setX o.xa (BitVec.ofNat 64 (if (off + n) / 4096 = 0 then a else next s))).setX o.xb
          (BitVec.ofNat 64 ((off + n) % 4096))
      if n = 0 then s.finish i (fin s)
      else s.loadJob i
        { q := q, rows := f.rc, len := f.vl
          read := fun s r _ c0 => s.readStream t a none (f.vl - c0) (off + r * f.vl + c0) } fin

/-- A kind a stream can hold (R247). -/
def streamTag (t : Tag) : Bool :=
  match tagKind t with
  | 0 | 1 => tagW t ≤ 16
  | 2 => tagW t = 16
  | _ => true

/-- The header of a chunk with `nnz` non-zero elements under `t` (R244, R247), and the bytes of its value area. -/
def chunkPay (t : Tag) (nnz : Nat) : Nat := 8 * cdiv (nnz * tagW t) 64

def chunkHead (t : Tag) (nnz : Nat) : Nat :=
  chunkPay t nnz * 2 ^ 21 + nnz * 2 ^ 8 + bitsOf t.toNat 7 4 * 16 + tagKind t

/-- Element `k` of the tile counted from the head rows, which start at tile element `base`. -/
def rowsElem (rows : List Row) (vl base k : Nat) : Nat :=
  match rows[(k - base) / vl]? with
  | some r => r.elems.getD (k % vl) 0
  | none => 0

/-- What a VST.C does in the chunk at address `a`: it begins at tile element `k`, with `fresh` at the chunk's first; `pats` are the
patterns of its elements from there on, behind `before` non-zero ones. -/
structure ChunkStore where
  t : Tag
  a : Nat
  k : Nat
  fresh : Bool
  before : Nat
  pats : List Nat

/-- The elements from `k` on that are not zero: tile element, and the number among the chunk's non-zero ones. -/
def ChunkStore.filled (c : ChunkStore) : List (Nat × Nat × Nat) :=
  ((c.pats.zipIdx.filter (fun e => e.1 != 0)).zipIdx).map (fun e => (c.k + e.1.2, c.before + e.2, e.1.1))

/-- Non-zero elements of the whole chunk. -/
def ChunkStore.nnz (c : ChunkStore) : Nat := c.before + c.filled.length

/-- The bytes of the value with number `p`. -/
def ChunkStore.place (c : ChunkStore) (p : Nat) : List Nat := bitRange (c.a + 520) (p * tagW c.t) (tagW c.t)

/-- The padding behind the values. -/
def ChunkStore.padding (c : ChunkStore) : List Nat :=
  let used := cdiv (c.nnz * tagW c.t) 8
  vaRange (c.a + 520 + used) (chunkPay c.t c.nnz - used)

/-- The lowest element that faults (R248): the header and bitmap belong to the chunk's first element, a value to its own, the padding
to the last that is not zero (DESIGN CHOICE, log 25). -/
def State.chunkFault (s : State) (c : ChunkStore) : Option (Nat × AccFault) :=
  let bad (k : Nat) (vas : List Nat) : Option (Nat × AccFault) :=
    match s.accessBytes s.cpu.ctx .store false vas with
    | .error f => some (k, f)
    | .ok _ => none
  let last := ((c.filled.getLast?).map (fun e => e.1)).getD c.k
  (((if c.fresh then [(c.k, vaRange c.a 520)] else []) ++ c.filled.map (fun e => (e.1, c.place e.2.1)) ++ [(last, c.padding)]).findSome?
    (fun e => bad e.1 e.2))

/-- Writes bytes one by one, each with its digest record. -/
def State.chunkBytes (s : State) (va : Nat) (l : List Byte) : State :=
  (l.zip (vaRange va l.length)).foldl (fun s x =>
    (s.noteWrite x.2 [x.1]).vecWrite false true false (s.physOf [x.2]) 0 8 x.1.toNat) s

/-- Writes of a chunk what belongs to tile elements below `hi` (R244, R247, R250): header and bitmap, values, and behind the last
value its padding. -/
def State.chunkWrite (s : State) (c : ChunkStore) (hi : Nat) (done : Bool) : State :=
  let w := tagW c.t
  let bits := bitsNat ((c.pats ++ List.replicate (4096 - c.pats.length) 0).map (· != 0))
  let s1 := if c.fresh && c.k < hi then s.chunkBytes c.a (leBytes 8 (chunkHead c.t c.nnz) ++ leBytes 512 bits) else s
  let s2 := (c.filled.filter (fun e => e.1 < hi)).foldl (fun s e =>
    let vas := c.place e.2.1
    (s.noteWrite (vas.headD 0) (leBytes vas.length e.2.2)).vecWrite false (atomicElem w vas) (w < 8) (s.physOf vas) (e.2.1 * w % 8) w e.2.2) s1
  if !done then s2
  else
    let lo := c.nnz * w
    let s3 := if lo % 8 = 0 then s2
      else s2.vecWrite false false true (s2.physOf (bitRange (c.a + 520) lo 1)) (lo % 8) (8 - lo % 8) 0
    s3.chunkBytes (c.padding.headD 0) (List.replicate c.padding.length 0)

/-- Chunks `n` of VST.C from tile element `k` on, behind `off` bytes of the stream, `nz` non-zero elements into the first of them
(R247, R250): elements below the first that faults are written; a row leaves the queue when all of it has been. -/
def storeChunks (i : Instr) (o : VMOps) (n k off nz : Nat) (s : State) : State :=
  let f := s.cpu.front
  let q := 4 + o.q.val
  let t := f.queueTag q
  let a := s.vmBase o
  match n with
  | 0 => (s.setBack (s.cpu.back.setSub q f.pc 0)).finish i (f.setX o.xa (BitVec.ofNat 64 (a + off)))
  | m + 1 =>
    let hi := min (f.rc * f.vl) (k / 4096 * 4096 + 4096)
    let rows := (s.cpu.back.queue q).rows
    let base := k / f.vl * f.vl
    let s := s.setFront { f with vstart := k }
    let kept (s : State) (x : Nat) : State := s.setBack (s.cpu.back.setSub q f.pc (1 + off * 8192 + x))
    if rows.length < cdiv (hi - base) f.vl then (kept s nz).waitAt i k [q] false
    else
      let c : ChunkStore := ⟨t, (a + off) % 2 ^ 64, k, k % 4096 = 0, nz,
        (List.range (hi - k)).map (fun n => rowsElem rows f.vl base (k + n) % 2 ^ tagW t)⟩
      match s.chunkFault c with
      | some (e, g) =>
        let s1 := s.chunkWrite c e false
        let s2 := s1.setBack ((s1.cpu.back.popRows q (e / f.vl - k / f.vl)).markHead q (e % f.vl))
        (kept s2 (nz + (c.filled.filter (fun x => x.1 < e)).length)).raiseAt i q e g
      | none =>
        let s1 := s.chunkWrite c hi true
        storeChunks i o m hi (off + 520 + chunkPay t c.nnz) 0
          (s1.setBack (s1.cpu.back.popRows q (hi / f.vl - k / f.vl)))

/-- VST.C (R247). -/
def State.vstStream (s : State) (i : Instr) (o : VMOps) : State :=
  s.whenOldest i fun s =>
    let f := s.cpu.front
    let q := 4 + o.q.val
    let t := f.queueTag q
    let total := f.rc * f.vl
    if !streamTag t then s.raise i (vTrap f i .illegalTag (tagEval t 0))
    else if total = 0 then s.finish i (f.setX o.xa (BitVec.ofNat 64 (s.vmBase o)))
    else
      let k := f.vstart
      let sub := if k = 0 then 0 else s.cpu.back.getSub q f.pc - 1
      storeChunks i o (cdiv total 4096 - k / 4096) k (sub / 8192) (sub % 8192) s

/-! VLD.FF (R186). -/

/-- The shape that VLD.FF settles when element `k` is the first that faults (R186). -/
def Front.trim (f : Front) (k : Nat) : Front :=
  if k < f.vl then { f with ffi := k, vl := k, rc := 1 } else { f with ffi := k, rc := k / f.vl }

/-- The shape after a VLD.FF of `n` elements that loads `k` of them (R186). -/
def Front.ffShape (f : Front) (n k : Nat) : Front := if k < n then f.trim k else { f with ffi := n }

/-- VLD.FF (R186): settles vl, rc and ffi, then delivers the tile that is left as VLD.U does. While it waits it stands under the shape
that the older instructions left (R118); the stream goes on with the one it has settled. DESIGN CHOICE, log 25: an element behind the
first that has become unreachable since is a LOAD_FAULT at that element. -/
def State.vldFirst (s : State) (i : Instr) (o : VMOps) : State :=
  s.inOrder i fun s => s.accessChecks i o.q.val .dense (memTag o.sub.val) fun s =>
    let f := s.cpu.front
    let kind := memTag o.sub.val
    let wm := match kind with
      | none => tagW (f.queueTag o.q.val)
      | some m => tagW m
    let n := f.rc * f.vl
    let a := s.vmBase o
    let go (k : Nat) : State :=
      let g := f.ffShape n k
      let left (f : Front) : Front := { f with vl := g.vl, rc := g.rc, ffi := g.ffi }
      State.loadJob { s with cpu := { s.cpu with due := some k } } i
        { plainLoad (s.setFront g) o .dense kind false with cont := left } (fun s => left s.cpu.front)
    match s.cpu.due with
    | some k => go k
    | none =>
      match s.firstFault (fun k => bitRange (a + k * wm / 8) (k * wm % 8) wm) (n - f.vstart) f.vstart with
      | none => go n
      | some (k, e) => if e.cause = .loadFault && k != 0 then go k else s.raiseAt i o.q.val k e

/-! MLDQ (R178, R179). -/

/-- The logical bit address of element `i` of row `u` (R178). -/
def mldqBit (s : State) (o : MldqOps) (p u i : Nat) : Int :=
  let xb := s.getU o.b
  8 * ((s.getU o.a : Int) + (u / o.k.val : Nat) * sgn 32 (s.getU o.c) + (u % o.k.val : Nat) * sgn 32 (xb / 2 ^ 32))
    + i * sgn 32 xb * p

/-- The logical byte addresses of an element. -/
def mldqBytes (s : State) (o : MldqOps) (p u i : Nat) : List Int :=
  (List.range (cdiv p 8)).map (fun n => mldqBit s o p u i / 8 + (n : Nat))

/-- Elements `i` to `i` + `n` − 1 of row `u`, up to the first outside the scratchpad (R179). -/
def mldqRow (s : State) (o : MldqOps) (p u n i : Nat) : RowRead :=
  match n with
  | 0 => ⟨[], none, [], []⟩
  | m + 1 =>
    let l := mldqBytes s o p u i
    match l.find? (fun a => a < 0 || (s.spadSize : Int) ≤ a) with
    | some a => ⟨[], some ⟨.loadFault, 2, 0, intMod 64 a⟩, [], []⟩
    | none =>
      let v := leNat (l.map (fun a => s.cpu.back.spadByte (swz o.code.val a.toNat)))
      let e := v / 2 ^ (mldqBit s o p u i % 8).toNat % 2 ^ p
      let r := mldqRow s o p u m (i + 1)
      { r with cols := [e] :: r.cols }

/-- The storage places of elements `i` to `i` + `n` − 1 of row `u`, up to the first element outside the scratchpad. -/
def mldqPlaces (s : State) (o : MldqOps) (p u n i : Nat) : List Nat :=
  ((List.range n).map (fun k => mldqBytes s o p u (i + k))).takeWhile (fun l => l.all (fun a => 0 ≤ a && a < (s.spadSize : Int)))
    |>.flatMap (fun l => l.map (fun a => swz o.code.val a.toNat))

/-- A row's read of scratchpad places waits for older copies into them, and takes the fault that keeps one back (R262, R263). -/
def State.placesGate (s : State) (i : Instr) (k : Nat) (places : List Nat) : Except (State × Option TrapInfo) State :=
  let s := s.settlePlaces places
  match s.deadPlace places with
  | some ch => .error (s, some { ch.heldTrap i with ev := k })
  | none => if (s.needs false 8 (2 ^ 64) places).isEmpty then .ok s else .error (s, none)

/-- MLDQ (R178, R179): each row's read waits for older copies into its places (R262). -/
def execMldq (o : MldqOps) (s : State) : Out :=
  .next (s.inOrder (.mldq o) fun s =>
    let i := Instr.mldq o
    let f := s.cpu.front
    let t := f.queueTag o.q.val
    let p := tagP t
    if p < 8 && sgn 32 (s.getU o.b) != 1 then s.raise i (vTrap f i .subByteStride t.toNat)
    else s.loadJob i
      { q := o.q.val, rows := o.k.val * o.t.val, len := o.n.val
        gate := fun s u c0 => s.placesGate i (max s.cpu.front.vstart (u * o.n.val)) (mldqPlaces s o p u (o.n.val - c0) c0)
        read := fun s u _ c0 => mldqRow s o p u (o.n.val - c0) c0 } (fun s => s.cpu.front))

/-! The VLD and VST majors. -/

/-- VLD.U (R235–R237, R240). -/
def execVldU (o : VMOps) (s : State) : Out := .next (s.vld (.vldU o) o .dense (memTag o.sub.val) false)
/-- VLD.S (R235–R238). -/
def execVldS (o : VMOps) (s : State) : Out := .next (s.vld (.vldS o) o (s.strideOf o) (memTag o.sub.val) false)
/-- VLD.X (R242). -/
def execVldX (o : VMOps) (s : State) : Out := .next (s.vld (.vldX o) o (.index o.sub.val) none false)
/-- VLD.XO (R218, R242). -/
def execVldXO (o : VMOps) (s : State) : Out := .next (s.vld (.vldXO o) o (.index o.sub.val) none true)
/-- VLD.SEG (R243). -/
def execVldSeg (o : VMOps) (s : State) : Out :=
  .next (s.inOrder (.vldSeg o) fun s =>
    s.segChecks (.vldSeg o) o.q.val (segFields (s.getU o.xb) (o.sub.val + 1)) fun s =>
      s.loadJob (.vldSeg o) (segJob s o) (fun s => s.cpu.front))
/-- VLD.C (R245, R246). -/
def execVldC (o : VMOps) (s : State) : Out := .next (s.vldStream (.vldC o) o)
/-- VLD.FF (R186). -/
def execVldFF (o : VMOps) (s : State) : Out := .next (s.vldFirst (.vldFF o) o)
/-- VST.U (R235–R237, R239). -/
def execVstU (o : VMOps) (s : State) : Out := .next (s.vst (.vstU o) o .dense (memTag o.sub.val) false)
/-- VST.S (R235–R238). -/
def execVstS (o : VMOps) (s : State) : Out := .next (s.vst (.vstS o) o (s.strideOf o) (memTag o.sub.val) false)
/-- VST.X (R218, R242). -/
def execVstX (o : VMOps) (s : State) : Out := .next (s.vst (.vstX o) o (.index o.sub.val) none false)
/-- VST.XO (R218, R242). -/
def execVstXO (o : VMOps) (s : State) : Out := .next (s.vst (.vstXO o) o (.index o.sub.val) none true)
/-- VST.SEG (R243). -/
def execVstSeg (o : VMOps) (s : State) : Out :=
  .next (s.whenOldest (.vstSeg o) fun s =>
    s.segChecks (.vstSeg o) (4 + o.q.val) (segFields (s.getU o.xb) (o.sub.val + 1)) fun s =>
      s.storeJob (.vstSeg o) (segStore s o))
/-- VST.C (R247). -/
def execVstC (o : VMOps) (s : State) : Out := .next (s.vstStream (.vstC o) o)

end Sys2Proof.Machine
end

