-- ==== Sys2Proof/Machine/Sha.lean ====
section
/-! DEFINITION. SHA-512 (FIPS 180-4), which the spec names for digests, chains and signatures without giving it (log 8). -/

namespace Sys2Proof.Machine

/-- The 80 round constants in eight numbers, ten constants of 64 bits each, the first highest. -/
def shaTables : List Nat := [
  0x428a2f98d728ae227137449123ef65cdb5c0fbcfec4d3b2fe9b5dba58189dbbc3956c25bf348b53859f111f1b605d019923f82a4af194f9bab1c5ed5da6d8118d807aa98a303024212835b0145706fbe,
  0x243185be4ee4b28c550c7dc3d5ffb4e272be5d74f27b896f80deb1fe3b1696b19bdc06a725c71235c19bf174cf692694e49b69c19ef14ad2efbe4786384f25e30fc19dc68b8cd5b5240ca1cc77ac9c65,
  0x2de92c6f592b02754a7484aa6ea6e4835cb0a9dcbd41fbd476f988da831153b5983e5152ee66dfaba831c66d2db43210b00327c898fb213fbf597fc7beef0ee4c6e00bf33da88fc2d5a79147930aa725,
  0x06ca6351e003826f142929670a0e6e7027b70a8546d22ffc2e1b21385c26c9264d2c6dfc5ac42aed53380d139d95b3df650a73548baf63de766a0abb3c77b2a881c2c92e47edaee692722c851482353b,
  0xa2bfe8a14cf10364a81a664bbc423001c24b8b70d0f89791c76c51a30654be30d192e819d6ef5218d69906245565a910f40e35855771202a106aa07032bbd1b819a4c116b8d2d0c81e376c085141ab53,
  0x2748774cdf8eeb9934b0bcb5e19b48a8391c0cb3c5c95a634ed8aa4ae3418acb5b9cca4f7763e373682e6ff3d6b2b8a3748f82ee5defb2fc78a5636f43172f6084c87814a1f0ab728cc702081a6439ec,
  0x90befffa23631e28a4506cebde82bde9bef9a3f7b2c67915c67178f2e372532bca273eceea26619cd186b8c721c0c207eada7dd6cde0eb1ef57d4f7fee6ed17806f067aa72176fba0a637dc5a2c898a6,
  0x113f9804bef90dae1b710b35131c471b28db77f523047d8432caab7b40c724933c9ebe0a15c9bebc431d67c49c100d4c4cc5d4becb3e42b6597f299cfc657e2a5fcb6fab3ad6faec6c44198c4a475817]

/-- The `n` words of 64 bits of a number, highest first. -/
def words64 (n k : Nat) : List (BitVec 64) :=
  match n with
  | 0 => []
  | m + 1 => BitVec.ofNat 64 (k >>> (64 * m)) :: words64 m k

/-- The 80 round constants. -/
def shaK : List (BitVec 64) := shaTables.flatMap (words64 10)

/-- The chaining value of a hash. -/
structure ShaState where
  a : BitVec 64
  b : BitVec 64
  c : BitVec 64
  d : BitVec 64
  e : BitVec 64
  f : BitVec 64
  g : BitVec 64
  h : BitVec 64
  deriving DecidableEq, Repr

def ShaState.init : ShaState :=
  match words64 8
      0x6a09e667f3bcc908bb67ae8584caa73b3c6ef372fe94f82ba54ff53a5f1d36f1510e527fade682d19b05688c2b3e6c1f1f83d9abfb41bd6b5be0cd19137e2179 with
  | [a, b, c, d, e, f, g, h] => ⟨a, b, c, d, e, f, g, h⟩
  | _ => ⟨0, 0, 0, 0, 0, 0, 0, 0⟩

def ShaState.add (p q : ShaState) : ShaState :=
  ⟨p.a + q.a, p.b + q.b, p.c + q.c, p.d + q.d, p.e + q.e, p.f + q.f, p.g + q.g, p.h + q.h⟩

/-- One round with its message word and constant. -/
def ShaState.round (p : ShaState) (w k : BitVec 64) : ShaState :=
  let s1 := p.e.rotateRight 14 ^^^ p.e.rotateRight 18 ^^^ p.e.rotateRight 41
  let ch := (p.e &&& p.f) ^^^ (~~~p.e &&& p.g)
  let t1 := p.h + s1 + ch + k + w
  let s0 := p.a.rotateRight 28 ^^^ p.a.rotateRight 34 ^^^ p.a.rotateRight 39
  let maj := (p.a &&& p.b) ^^^ (p.a &&& p.c) ^^^ (p.b &&& p.c)
  ⟨t1 + (s0 + maj), p.a, p.b, p.c, p.d + t1, p.e, p.f, p.g⟩

/-- The message schedule, latest word first, with `n` words more. -/
def shaExpand (n : Nat) (w : List (BitVec 64)) : List (BitVec 64) :=
  match n with
  | 0 => w
  | m + 1 =>
    let x2 := w.getD 1 0
    let x15 := w.getD 14 0
    let g1 := x2.rotateRight 19 ^^^ x2.rotateRight 61 ^^^ (x2 >>> 6)
    let g0 := x15.rotateRight 1 ^^^ x15.rotateRight 8 ^^^ (x15 >>> 7)
    shaExpand m ((g1 + w.getD 6 0 + g0 + w.getD 15 0) :: w)

/-- Big-endian words of eight bytes. -/
def beWords (n : Nat) (l : List Byte) : List (BitVec 64) :=
  match n with
  | 0 => []
  | m + 1 => BitVec.ofNat 64 (leNat (l.take 8).reverse) :: beWords m (l.drop 8)

def ShaState.block (p : ShaState) (l : List Byte) : ShaState :=
  let w := (shaExpand 64 (beWords 16 l).reverse).reverse
  p.add ((w.zip shaK).foldl (fun q e => q.round e.1 e.2) p)

/-- Blocks of 128 bytes, `n` of them. -/
def ShaState.blocks (n : Nat) (p : ShaState) (l : List Byte) : ShaState :=
  match n with
  | 0 => p
  | m + 1 => ShaState.blocks m (p.block (l.take 128)) (l.drop 128)

/-- The message with a 1 bit, zeros and its length in bits. -/
def shaPad (l : List Byte) : List Byte :=
  l ++ [0x80] ++ List.replicate ((239 - l.length % 128) % 128) 0 ++ (leBytes 16 (8 * l.length)).reverse

/-- SHA-512 of a byte string; digest byte 0 is the most significant. -/
def sha512 (l : List Byte) : BitVec 512 :=
  let m := shaPad l
  let p := ShaState.init.blocks (m.length / 128) m
  p.a ++ p.b ++ p.c ++ p.d ++ p.e ++ p.f ++ p.g ++ p.h

/-- The bytes of a digest, byte 0 first. -/
def digestBytes (d : BitVec 512) : List Byte := (leBytes 64 d.toNat).reverse

/-- The digest a string of 64 bytes stands for. -/
def digestOf (l : List Byte) : BitVec 512 := BitVec.ofNat 512 (leNat l.reverse)

end Sys2Proof.Machine
end

