-- ==== Sys2Proof/Machine/Accession.lean ====
section
/-! DEFINITION. The accession log (R228, R339–R346): records, the log engine, ACCLOG, ACCSYNC, ACCHEAD and the statement
that the management core signs. -/

namespace Sys2Proof.Machine

/-! Records (R340). -/

/-- The bytes of a record behind `rseq`. -/
def recordBytes (rtype rhart rvit rwq relem rscore rlaunch rfp : Nat) (rdig : BitVec 512) : List Byte :=
  leBytes 2 rtype ++ leBytes 2 rhart ++ leBytes 2 rvit ++ leBytes 2 rwq ++ leBytes 8 relem ++ leBytes 4 rscore
    ++ leBytes 4 rlaunch ++ leBytes 8 rfp ++ List.replicate 24 0 ++ digestBytes rdig

def fillerBytes : List Byte := recordBytes 0 0 0 0 0 0 0 0 0

def State.part (s : State) (p : Nat) : Part := vget Part.reset s.pkg.parts p

def State.setLog (s : State) (p : Nat) (x : Part) : State := { s with pkg := { s.pkg with parts := vput s.pkg.parts p x } }

/-- The place of record `q` in the ring (R340). -/
def Part.slot (x : Part) (q : Nat) : Nat := x.labase.toNat + 4096 + 128 * (q % 2 ^ x.lcap)

/-- The log engine writes a record under the next sequence number (R340, R343); in a fenced frame the write is dropped and counted
(R189, R372; DEDUCED, log 8). -/
def State.appendRecord (s : State) (p : Nat) (bytes : List Byte) : State :=
  let x := s.part p
  let q := x.lnext.toNat
  let s1 := s.setLog p { x with lnext := x.lnext + 1 }
  if s.fenced (x.slot q) then s1.countDrop (homeDie (x.slot q)) .management
  else s1.putBytes (homeDie (x.slot q)) (x.slot q) (leBytes 8 q ++ bytes)

/-- The first record that `who` admits and that is not written yet is written. -/
def State.appendOf (s : State) (p : Nat) (who : AccRec → Bool) : State :=
  let x := s.part p
  match x.pending.find? (fun r => r.seq.isNone && who r) with
  | none => s
  | some r =>
    let q := x.lnext.toNat
    let l := replaceFirst (fun e => e.seq.isNone && who e) (fun e => { e with seq := some q }) x.pending
    (s.setLog p { x with pending := l }).appendRecord p r.bytes

/-- Records forked by `who` and not written yet. -/
def Part.unwritten (x : Part) (who : AccRec → Bool) : Nat := (x.pending.filter (fun r => r.seq.isNone && who r)).length

/-- The chain C of a partition's head block, as 64 bytes (R340). -/
def State.chainBytes (s : State) (x : Part) : List Byte :=
  if x.lcap = 0 then List.replicate 64 0 else readCells s.mem (x.labase.toNat + 0x10) 64

/-- The data error that stops the chaining of batch `hseq` / 64: of the head block, else of a record (R189). -/
def State.batchBad (s : State) (x : Part) : Option AccFault :=
  match s.headBad x with
  | some f => some f
  | none => (s.firstUnreadable (x.slot (s.hseq x)) 8192).map (fun a => ⟨.dataError, 0, memKind a, a⟩)

/-- Batch `hseq` / 64 becomes durable: the chain, then hseq (R341). It needs all 64 records. Of uncorrectable data the engine writes
nothing: it is dropped, and the batch does not become durable (R189, R210). -/
def State.chainBatch (s : State) (p : Nat) : State :=
  let x := s.part p
  let h := s.hseq x
  if x.lcap = 0 || x.lnext.toNat < h + 64 then s
  else if (s.batchBad x).isSome then (s.sweep x.labase.toNat 0x50).sweep (x.slot h) 8192
  else
    let c := sha512 (s.chainBytes x ++ readCells s.mem (x.slot h) 8192)
    let d := homeDie x.labase.toNat
    let s1 := (s.putBytes d (x.labase.toNat + 0x10) (digestBytes c)).putBytes d x.labase.toNat (leBytes 8 (h + 64))
    s1.setLog p { x with pending := x.pending.filter (fun r =>
      match r.seq with
      | some q => h + 64 ≤ q
      | none => true) }

/-- The batch under way is filled with filler records (R341). -/
def State.fillBatch (s : State) (p : Nat) : State :=
  upto ((64 - (s.part p).lnext.toNat % 64) % 64) (fun _ s => s.appendRecord p fillerBytes) s

/-- ACCSYNC on one partition (R344): some of the other harts' records, every record of hart `uid`, fillers, and then batch
after batch until they are durable. How many of the others' records come first is free (R346). -/
def State.syncPartition (s : State) (uid p : Nat) : State :=
  let mine (r : AccRec) : Bool := r.hart = uid
  if !(s.part p).pending.any mine then s
  else
    let others := (s.part p).unwritten (fun r => !mine r)
    let s1 := upto (s.draw % (others + 1)) (fun _ s => s.appendOf p (fun r => !mine r)) s.tock
    let s2 := upto ((s1.part p).unwritten mine) (fun _ s => s.appendOf p mine) s1
    let last := ((s2.part p).pending.filter mine).foldl (fun m r => max m (r.seq.getD 0)) 0
    let s3 := if last / 64 * 64 + 64 ≤ (s2.part p).lnext.toNat then s2 else s2.fillBatch p
    upto (last / 64 + 1 - s3.hseq (s3.part p) / 64) (fun _ s => s.chainBatch p) s3

/-- Every record of a hart's ACCLOGs is written in the ring (R221). -/
def State.writeRecords (s : State) (uid : Nat) : State :=
  upto 16 (fun p s => upto ((s.part p).unwritten (fun r => r.hart = uid)) (fun _ s =>
    s.appendOf p (fun r => r.hart = uid)) s) s

/-! ACCLOG, ACCSYNC and ACCHEAD (R342–R344). -/

/-- Records a partition has no room for: those assigned, those forked or reserved, and `n` more, with a closing batch
(R343; what is forked and not yet appended counts as assigned). -/
def Part.full (x : Part) (n : Nat) : Bool :=
  2 ^ x.lcap + x.ldrain.toNat
    < x.lnext.toNat + x.unwritten (fun _ => true) + (x.held.map (fun e => e.2)).sum + n + 63

/-- `odig` of the code object that holds the instruction at pc, or zero (R340). -/
def State.codeDigest (s : State) : BitVec 512 :=
  match s.translate s.cpu.ctx .fetch s.cpu.front.pc.toNat with
  | .error _ => 0
  | .ok pa =>
    match s.pkg.mgmt.objects.find? (fun o => s.isLocal pa && o.place ≤ pa % pkgSpan && pa % pkgSpan < o.place + o.size) with
    | some o => o.odig
    | none => 0

/-- The launch a hart belongs to: its queue and packet number (R282). -/
def State.launchOf (s : State) : Nat × Nat :=
  match s.gang with
  | some g => (g.queue, g.seq)
  | none => (0, 0)

/-- The rows of sq0 that the ACCLOG at hand has taken. -/
def State.accRows (s : State) : List Row := (s.cpu.back.queue 4).part

/-- Takes up to `n` rows from the head of sq0 (R343). -/
def State.takeAccRows (s : State) (n : Nat) : State :=
  s.setBack (s.cpu.back.modQueue 4 (fun x => { x.take n with part := x.part ++ x.rows.take n }))

/-- An ACCLOG waits for rows: what stops it there finds sq0 as `b` had it, for it consumes no row before its fork (R343). -/
def State.awaitAccRows (s : State) (i : Instr) (b : Back) : State :=
  let t := s.suspend i s.cpu.front.vstart [4] false
  { t with cpu := { t.cpu with
      inflight := s.cpu.inflight ++ (t.cpu.inflight.drop s.cpu.inflight.length).map (fun p => { p with ckpt := b }) } }

/-- The records of one ACCLOG in element order (R340, R343). -/
def State.accRecords (s : State) (base v : Nat) (rows : List Row) : List AccRec :=
  let f := s.cpu.front
  let (q, k) := s.launchOf
  let dig := s.codeDigest
  let at_ (r c : Nat) : Nat := ((rows[r]?).map (fun x => x.elems.getD c 0)).getD 0
  (List.range (f.rc * f.vl)).map (fun e =>
    let r := e / f.vl
    let c := e % f.vl
    ⟨s.cpu.id.uid, none, recordBytes 1 s.cpu.id.addr v q ((base + e) % 2 ^ 64) (at_ (3 * r) c) k
      (at_ (3 * r + 2) c * 2 ^ 32 + at_ (3 * r + 1) c) dig⟩)

/-- The fork of ACCLOG (R343): its records join the partition; the second copy of a duplicated launch appends nothing, and
both digest the rows (R288). -/
def State.forkRecords (s : State) (p base v : Nat) : State :=
  let rows := s.accRows
  let recs := s.accRecords base v rows
  let t := s.cpu.front.queueTag 4
  let s1 := rows.foldl (fun s r => s.noteWrite 0 (leBytes (rowBytes t r.elems.length)
    (leNat (r.elems.flatMap (fun e => leBytes 4 e))))) s
  let s2 := s1.setBack (s1.cpu.back.modQueue 4 (fun x => { x with part := [] }))
  let s3 := { s2 with pkg := s2.pkg.release s.cpu.id.uid }
  if s.secondCopy then s3
  else
    let x := s3.part p
    s3.setLog p { x with pending := x.pending ++ recs }

/-- ACCLOG (R343). -/
def execAcclog (a b : Reg) (s : State) : Out :=
  .next (s.whenOldest (.acclog a b) fun s =>
    let i := Instr.acclog a b
    let f := s.cpu.front
    let p := f.acch.toNat % 16
    let n := f.rc * f.vl
    let v := s.getU b
    let t := f.queueTag 4
    let x := s.part p
    let uid := s.cpu.id.uid
    if t != tagInt 32 && t != tagUint 32 then s.raise i (trapOf i .illegalTag (tagEval t 0) 0)
    else if 255 < v && v != 0xFFFF then s.raise i (trapOf i .storeFault v 4)
    else if x.lcap = 0 then s.raise i (trapOf i .storeFault p 9)
    else if n = 0 then s.finish i f
    else if !x.held.any (fun e => e.1 = uid) && x.full n then s.raise i (trapOf i .storeFault p 8)
    else
      let s1 := if x.held.any (fun e => e.1 = uid) then s else s.setLog p { x with held := x.held ++ [(uid, n)] }
      let s2 := s1.takeAccRows (3 * f.rc - s1.accRows.length)
      if s2.accRows.length < 3 * f.rc then s2.awaitAccRows i s1.cpu.back
      else ((s2.forkRecords p (s.getU a) v).noteRelease .log []).finish i f)

/-- The partition with a record of hart `uid` that is not durable, once all that can be has become so. -/
def State.stuckPart (s : State) (uid : Nat) : Option Part :=
  s.pkg.parts.toList.find? (fun x => x.pending.any (fun r => r.hart = uid))

/-- ACCSYNC (R344). Where the log engine has stopped at data that it cannot read, the join takes DATA_ERROR; so does a head block that
cannot be read (R189). -/
def execAccsync (d : Reg) (s : State) : Out :=
  .next (
    let isLog (p : Pend) : Bool :=
      match p.instr with
      | .acclog .. => true
      | _ => false
    if s.cpu.inflight.any isLog then s.block .durable
    else
      let s1 := upto 16 (fun p s => s.syncPartition s.cpu.id.uid p) s
      let own := s1.part (s1.cpu.front.acch.toNat % 16)
      let bad := match s1.stuckPart s.cpu.id.uid with
        | some x => some ((s1.batchBad x).getD ⟨.dataError, 0, memKind x.labase.toNat, x.labase.toNat⟩)
        | none => s1.headBad own
      match bad with
      | some f => s1.raise (.accsync d) (accTrap (.accsync d) f 15 false 0)
      | none => (s1.acquire (fun r => r.kind = .log)).compute 8 d (BitVec.ofNat 64 (s1.hseq own)))

/-- Eight bytes as a doubleword with the first byte in [63:56] (R310, R344). -/
def beDouble (l : List Byte) (k : Nat) : Nat := leNat ((l.drop (8 * k)).take 8).reverse

/-- The items of ACCHEAD (R344). -/
def State.headItem (s : State) (x : Part) (sel : Nat) : Nat :=
  match sel with
  | 0 => s.hseq x
  | 1 => x.lnext.toNat
  | 10 => x.lcap
  | _ => beDouble (s.chainBytes x) (sel - 2)

/-- ACCHEAD (R344): of a head block that cannot be read it takes DATA_ERROR (R189). -/
def execAcchead (d : Reg) (sel : Reg) (s : State) : Out :=
  .next (
    let x := s.part (s.cpu.front.acch.toNat % 16)
    match (if sel.val = 1 || sel.val = 10 then none else s.headBad x) with
    | some f => s.raise (.acchead d sel) (accTrap (.acchead d sel) f 15 false 0)
    | none => s.compute 8 d (BitVec.ofNat 64 (s.headItem x sel.val)))

/-! The log engine on its own, and the host's side (R339, R341, R345). -/

/-- ACCESSION_APPEND: the next record of a freely chosen hart is written (R228, R343, R346). -/
def execAccessionAppend (p : Fin 16) (s : State) : Out :=
  .next (
    let harts := (((s.part p.val).pending.filter (fun r => r.seq.isNone)).map (fun r => r.hart)).eraseDups
    match harts[s.draw % max 1 harts.length]? with
    | none => s
    | some u => (s.appendOf p.val (fun r => r.hart = u)).tock)

/-- BATCH_DURABLE (R341). -/
def execBatchDurable (p : Fin 16) (s : State) : Out := .next (s.chainBatch p.val)

/-- LDRAIN_WRITE (R339). -/
def execLdrainWrite (by_ : Agent) (p : Fin 16) (v : W64) (s : State) : Out :=
  .next (s.mgmtWrite by_ 0 (0x200000 + 0x40 * p.val + 0x10) v)

/-- LSIGN_WRITE (R345). -/
def execLsignWrite (by_ : Agent) (p : Fin 16) (v : W64) (s : State) : Out :=
  .next (s.mgmtWrite by_ 0 (0x200000 + 0x40 * p.val + 0x20) v)

/-- An ECDSA P-521 signature over a byte string, r then s, big-endian (R308, R345, R380; log 8). -/
def signature (l : List Byte) : List Byte := (leBytes 132 (Config.sign (sha512 l)).toNat).reverse

/-- SIGNED_STATEMENT (R340, R345): the head statement, its signature, lsign and MSI-X vector 1 (R376); of a head block that cannot be
read there is none (R189). -/
def execSignedStatement (p : Fin 16) (s : State) : Out :=
  .next (
    let x := s.part p.val
    if x.lcap = 0 || !s.pkg.jobs.any (fun j => j.kind = 3 && j.v = p.val) then s
    else if (s.headBad x).isSome then s.sweep x.labase.toNat 0x50
    else
      let body := leBytes 8 p.val ++ leBytes 8 (s.hseq x) ++ s.chainBytes x ++ leBytes 8 s.ownPkg
      let s1 := s.putBytes (homeDie x.labase.toNat) (x.labase.toNat + 0x50) (body ++ signature body)
      let s2 := s1.setLog p.val { x with lsign := x.lsign + 1 }
      { s2 with pkg := { s2.pkg with
          jobs := s2.pkg.jobs.filter (fun j => !(j.kind = 3 && j.v = p.val))
          msix := s2.pkg.msix.set 1 (s2.pkg.msix[1] + 1) } })

end Sys2Proof.Machine
end

