-- ==== Sys2Proof/Machine/Amo.lean ====
section
/-! DEFINITION. Atomics, LDA and STL (R219, R233, R234, R288). Acquire and release order the vector accesses of the open strip
interval; beyond that they add nothing to the wait for older instructions in a machine that interleaves whole instructions
(log 2). -/

namespace Sys2Proof.Machine

/-- Bytes of the size bit (R233). -/
def amoSize (o : AmoOps) : Nat := if o.dbl then 8 else 4

/-- x[d] of an AMO: a word sign-extended (R233). -/
def amoOut (o : AmoOps) (v : Nat) : W64 := if o.dbl then BitVec.ofNat 64 v else sext64 32 v

/-- The checks every form but LDA shares (R234, R288): refused in a duplicated launch, then alignment. -/
def State.amoChecked (s : State) (i : Instr) (o : AmoOps) (body : Nat → State) : State :=
  if s.inDup then s.raise i (protectOf i 3)
  else if s.getU o.a % amoSize o != 0 then s.raise i (trapOf i .misalignedAmo (s.getU o.a) 0)
  else body (s.getU o.a)

/-- An acquire that reads bytes: it is known to read what a release has written there (R219). -/
def State.acquireAt (s : State) (pas : List Nat) : State :=
  s.acquire (fun r => r.kind = .write && (pas.map s.key).any r.bytes.contains)

/-- What an AMO with acquire or release orders (R219, R220): with both, everything older than it comes before everything
younger. -/
def State.amoOrder (s : State) (o : AmoOps) (pas : List Nat) : State :=
  let s1 := if o.aq then (if o.rl then s.orderBehind s.cpu.front.instret.toNat else s.acquireAt pas) else s
  if o.rl then s1.noteRelease .write pas else s1

/-- A read-modify-write form (R233): one indivisible read and write; `g` maps v, B and the comparand to the new value. -/
def State.amo (s : State) (i : Instr) (o : AmoOps) (g : Nat → Nat → Nat → Nat) : State :=
  s.whenOldest i fun s => s.amoChecked i o fun ea =>
    let n := amoSize o
    match s.accessBytes s.cpu.ctx .amo true (vaRange ea n) with
    | .error f => s.raise i (accTrap i f 15 false 0)
    | .ok pas =>
      let w := 2 ^ (8 * n)
      let v := leNat (pas.map (s.physByte s.cpu.id.die))
      let r := g v (s.getU o.b % w) (s.getU o.d % w)
      ((((s.settleStrip pas).amoOrder o pas).physWriteList s.agent s.cpu.id.die pas (leBytes n r))).compute i.len o.d (amoOut o v)

/-- AMOSWP (R233). -/
def execAmoswp (o : AmoOps) (s : State) : Out := .next (s.amo (.amoswp o) o (fun _ b _ => b))
/-- AMOADD (R233). -/
def execAmoadd (o : AmoOps) (s : State) : Out := .next (s.amo (.amoadd o) o (fun v b _ => v + b))
/-- AMOAND (R233). -/
def execAmoand (o : AmoOps) (s : State) : Out := .next (s.amo (.amoand o) o (fun v b _ => Nat.land v b))
/-- AMOOR (R233). -/
def execAmoor (o : AmoOps) (s : State) : Out := .next (s.amo (.amoor o) o (fun v b _ => Nat.lor v b))
/-- AMOXOR (R233). -/
def execAmoxor (o : AmoOps) (s : State) : Out := .next (s.amo (.amoxor o) o (fun v b _ => Nat.xor v b))
/-- AMOMIN (R233). -/
def execAmomin (o : AmoOps) (s : State) : Out := .next (s.amo (.amomin o) o (fun v b _ => if sgn (8 * amoSize o) b < sgn (8 * amoSize o) v then b else v))
/-- AMOMAX (R233). -/
def execAmomax (o : AmoOps) (s : State) : Out := .next (s.amo (.amomax o) o (fun v b _ => if sgn (8 * amoSize o) b > sgn (8 * amoSize o) v then b else v))
/-- AMOMINU (R233). -/
def execAmominu (o : AmoOps) (s : State) : Out := .next (s.amo (.amominu o) o (fun v b _ => min v b))
/-- AMOMAXU (R233). -/
def execAmomaxu (o : AmoOps) (s : State) : Out := .next (s.amo (.amomaxu o) o (fun v b _ => max v b))
/-- AMOCAS (R233). -/
def execAmocas (o : AmoOps) (s : State) : Out := .next (s.amo (.amocas o) o (fun v b c => if v = c then b else v))
/-- LDA (R233, R234): a load that acquires. -/
def execLda (o : AmoOps) (s : State) : Out :=
  .next (s.inOrder (.lda o) fun s =>
    if s.getU o.a % amoSize o != 0 then s.raise (.lda o) (trapOf (.lda o) .misalignedAmo (s.getU o.a) 0)
    else s.loadThen (.lda o) o.d (s.getU o.a) (amoSize o) (amoOut o) (fun pas s => s.acquireAt pas))

/-- STL (R233, R234): a store that releases. -/
def execStl (o : AmoOps) (s : State) : Out :=
  .next (s.whenOldest (.stl o) fun s => s.amoChecked (.stl o) o fun ea =>
    match s.accessBytes s.cpu.ctx .store true (vaRange ea (amoSize o)) with
    | .error f => s.raise (.stl o) (accTrap (.stl o) f 15 false 0)
    | .ok pas => ((s.performWrite ea pas (leBytes (amoSize o) (s.getU o.b))).noteRelease .write pas).retire 4)

end Sys2Proof.Machine
end

