-- ==== Sys2Proof/Machine/VElem.lean ====
section
/-! DEFINITION. The element-wise instruction: checks in the order of R126, the tag rules, and the element loop of R123 and
R132. -/

namespace Sys2Proof.Machine

/-- What an element function sees: the source tags, the form's own result tag, the tag written (R387), rmode, .SAT,
whether an integer result has a float source, the converted x operand, and a source row for table forms. -/
structure ECtx where
  ta : Tag
  tb : Tag
  td : Tag
  kf : Tag
  out : Tag
  rm : Nat
  sat : Bool
  clamp : Bool
  x : Nat × Bool
  xv : W64
  table : Nat → Nat

/-- The operand whose zero planes a multiply skips (R34, R134, R135). -/
inductive Multiplier where
  | none
  | va
  | vb
  | x
  deriving DecidableEq, Repr

/-- Which operands an element-wise form reads, its tag rule, and its element function on the patterns of va, vb, vd at
(r, c), with the linear index r·vl + c and the bit of m(mk); `planes` says that va is read with all its stored planes, `mult` which
operand is the multiplier of a multiply (R34). -/
structure EForm where
  useA : Bool
  useB : Bool
  useD : Bool
  useX : Bool
  select : Bool
  toMask : Bool
  kr : Front → Except Nat Tag
  elem : ECtx → Nat → Nat → Nat → Nat → Bool → Nat × Bool
  planes : Bool := false
  mult : Multiplier := .none

/-- The row function of an element-wise form. -/
def elemRow (form : EForm) (o : VOps) (f : Front) (c : ECtx) (v m : SMap (BitVec 16)) (b : Back) (r : Nat) : RowOut :=
  let n := f.vl
  let zero := List.replicate n 0
  let ra := if form.planes then srcPlanes v b f o.va r 0 n else if form.useA then srcRow v b f o.va r 0 n else zero
  let rb := if form.useB then srcRow v b f o.vb r 0 n else zero
  let rd := if form.useD && o.vd.val < 28 then
      (List.range n).map (fun k => readElem v o.vd.val (tagW c.td) (tagP c.td) r k) else zero
  let xm := o.mod.val = 2
  let bits := maskRow m o.pm.val r n
  let act := if form.select then List.replicate n true else predRow m o xm r n
  let cells := (ra.zip (rb.zip (rd.zip (act.zip bits)))).zipIdx
  let res := cells.map (fun e =>
    let ((x, y, d, a, p), k) := e
    if a then
      let z := form.elem c x y d (r * n + k) p
      (some z.1, some z.2)
    else ((if o.mod.val = 3 then some 0 else none), some false))
  ⟨res.map (·.1), res.map (·.2)⟩

/-- How many of the low `w` planes are zero in every element. -/
def zeroPlanes (w : Nat) (l : List Nat) : Nat := ((List.range w).filter (fun k => l.all (fun x => !bitAt x k))).length

/-- The planes that row `r` of a multiply skips (R34): in each element group those that are zero in every active element of its
multiplier; a multiply with a float factor, addend or result skips none (R133, R135). -/
def elemSkip (form : EForm) (o : VOps) (f : Front) (c : ECtx) (v m : SMap (BitVec 16)) (b : Back) (r : Nat) : Nat :=
  let groups := cdiv f.vl groupCols
  let act := predRow m o (o.mod.val = 2) r f.vl
  let ofReg (g : Reg) (t : Tag) : Nat :=
    ((List.range groups).map (fun k =>
      zeroPlanes (tagW t) (((((srcRow v b f g r 0 f.vl).zip act).drop (k * groupCols)).take groupCols).filterMap
        (fun e => if e.2 then some e.1 else none)))).sum
  if !tagIsInt c.kf || !tagIsInt c.out || (form.useA && !tagIsInt c.ta) || (form.useB && !tagIsInt c.tb) then 0
  else match form.mult with
    | .none => 0
    | .va => ofReg o.va c.ta
    | .vb => ofReg o.vb c.tb
    | .x => groups * zeroPlanes (tagW c.ta) [c.x.1]

/-- The fields of an element-wise form that name vector registers, with their tags. -/
def EForm.fields (form : EForm) (o : VOps) (f : Front) : List (Reg × Tag) :=
  (if form.useA then [(o.va, f.srcTag o.va)] else []) ++ (if form.useB then [(o.vb, f.srcTag o.vb)] else [])
    ++ (if form.toMask || 28 ≤ o.vd.val then [] else [(o.vd, f.dstTag o.vd)])

/-- The element context of a form. -/
def EForm.ctx (form : EForm) (o : VOps) (f : Front) (x : W64) (kr : Tag) (table : Nat → Nat) : ECtx :=
  let ta := f.srcTag o.va
  let tb := f.srcTag o.vb
  let td := if o.vd.val < 28 || 30 ≤ o.vd.val then f.dstTag o.vd else tagInt8
  let out := if form.toMask then kr else f.outTag o.vd kr
  let xt := if form.toMask || form.useA then ta else out
  { ta := ta, tb := tb, td := td, kf := kr, out := out, rm := f.rm, sat := vSat o
    clamp := tagIsInt out && ((form.useA && !tagIsInt ta) || (form.useB && !tagIsInt tb) || (form.useD && !tagIsInt td))
    x := convX xt f.rm (vSat o) x
    xv := x
    table := table }

/-- An element-wise instruction (R123–R132): the checks of R126 in order, retagging, then the rows. -/
def elementwise (i : Instr) (o : VOps) (form : EForm) (s : State) : State :=
  let f := s.cpu.front
  match tileFault f (form.fields o f) with
  | some e => s.raise i (vTrap f i .shapeViolation e)
  | none =>
    match form.kr f with
    | .error e => s.raise i (vTrap f i .illegalTag e)
    | .ok kr =>
      let groups := (if form.useA then [(o.va, f.srcTag o.va, f.rc)] else [])
        ++ (if form.useB then [(o.vb, f.srcTag o.vb, f.rc)] else [])
        ++ (if form.toMask then [] else [(o.vd, kr, f.rc)])
      match groupFault f groups with
      | some e => s.raise i (vTrap f i .shapeViolation e)
      | none =>
        let c := form.ctx o f (s.getX o.vb) kr (fun _ => 0)
        let cont := if form.toMask then f else f.retagDst o.vd f.rc kr
        s.inOrderAs i cont fun s => s.rowJob i
          { rows := f.rc, len := f.vl
            heads := headsOf ((if form.useA then [o.va] else []) ++ (if form.useB then [o.vb] else []))
            held := []
            dst := if form.toMask then .msk o.vd.val else dstOf o.vd kr
            outLen := f.vl, flagMask := vFlagMask o, inRow := true
            ordered := vopsOverlap o f
              ((if form.useA then [(o.va, f.srcTag o.va)] else []) ++ (if form.useB then [(o.vb, f.srcTag o.vb)] else [])
                ++ (if form.useD then [(o.vd, f.dstTag o.vd)] else [])) (if form.toMask then none else some kr)
            row := elemRow form o f c
            skip := elemSkip form o f c } cont

/-- A tag rule that refuses `bad`. -/
def tagRule (a b : Tag) (ok : Bool) (kr : Tag) : Except Nat Tag := if ok then .ok kr else .error (tagEval a b)

/-- A tag rule whose destination may be a store queue of a tag that `ok` admits (R126, R387). -/
def overQueue (o : VOps) (f : Front) (ok : Tag → Bool) (r : Except Nat Tag) : Except Nat Tag :=
  r.bind (fun kr => tagRule (f.outTag o.vd kr) 0 (o.vd.val < 28 || ok (f.outTag o.vd kr)) kr)

/-- No element-wise form but VSPLAT and the conversions writes a store queue of tag E8M0 (R83, R136). -/
def noScale (o : VOps) (f : Front) (r : Except Nat Tag) : Except Nat Tag := overQueue o f (fun t => !tagE8 t) r

/-- The promoted tag of va and vb, neither E8M0 (R93, R126). -/
def promoteRule (o : VOps) (f : Front) : Except Nat Tag :=
  noScale o f (match promote (f.srcTag o.va) (f.srcTag o.vb) with
  | some t => .ok t
  | none => .error (tagEval (f.srcTag o.va) (f.srcTag o.vb)))

/-- va's tag, not E8M0. -/
def vaRule (o : VOps) (f : Front) : Except Nat Tag :=
  noScale o f (tagRule (f.srcTag o.va) 0 (!tagE8 (f.srcTag o.va)) (f.srcTag o.va))

/-- va's tag, integer. -/
def vaIntRule (o : VOps) (f : Front) : Except Nat Tag :=
  noScale o f (tagRule (f.srcTag o.va) 0 (tagIsInt (f.srcTag o.va)) (f.srcTag o.va))

/-- The write of an exact result (R126, R92). -/
def ECtx.write (c : ECtx) (nanIn pre : Bool) (z : Ex) : Nat × Bool := arithWrite c.out c.rm c.sat c.clamp nanIn pre z

/-- A pattern under the form's own tag, written under a store queue's tag where that differs (R387). -/
def ECtx.writePat (c : ECtx) (p : Nat) (fl : Bool) : Nat × Bool :=
  if c.out = c.kf then (p % 2 ^ tagW c.out, fl)
  else
    let z := tval c.kf p
    let r := resultWrite c.out c.rm c.sat (tagIsInt c.out && !tagIsInt c.kf) z
    (r.1, r.2 || fl)

/-- The write of a moved element (R84, R126, R136): a NaN becomes the canonical NaN, without a flag. -/
def moveElem (c : ECtx) (p : Nat) : Nat × Bool := c.write true false (tval c.kf p)

/-- An element function of two exact values. -/
def exBin (g : ECtx → Ex → Ex → Ex) (c : ECtx) (a b : Ex) : Nat × Bool := c.write (a.isNan || b.isNan) false (g c a b)

/-- Division (R91, R92, R126, R131, R132): an integer result is the quotient truncated, all ones and the flag for B = 0,
clamped where a source is a float; a float result is the IEEE quotient, the flag for a non-zero value over zero. -/
def divElem (c : ECtx) (a b : Ex) : Nat × Bool :=
  if tagIsInt c.out then
    if b.isZero then (2 ^ tagW c.out - 1, true)
    else match a.div b with
      | .rat n d => intWrite c.out (c.sat || c.clamp) (n.tdiv d)
      | z => c.write (a.isNan || b.isNan) false z
  else c.write (a.isNan || b.isNan) (b.isZero && !a.isZero && !a.isNan) (a.div b)

/-- A form on two vector sources under a tag rule. -/
def vvForm (kr : Front → Except Nat Tag) (e : ECtx → Ex → Ex → Nat × Bool) : EForm :=
  { useA := true, useB := true, useD := false, useX := false, select := false, toMask := false, kr := kr
    elem := fun c a b _ _ _ => e c (tval c.ta a) (tval c.tb b) }

/-- A form on va and a converted x operand; a conversion flag is set for every element (R127). -/
def vxForm (kr : Front → Except Nat Tag) (e : ECtx → Ex → Ex → Nat × Bool) : EForm :=
  { useA := true, useB := false, useD := false, useX := true, select := false, toMask := false, kr := kr
    elem := fun c a _ _ _ _ =>
      let z := e c (tval c.ta a) (tval c.ta c.x.1)
      (z.1, z.2 || c.x.2) }

/-- A form on va alone. -/
def vForm (kr : Front → Except Nat Tag) (e : ECtx → Nat → Nat × Bool) : EForm :=
  { useA := true, useB := false, useD := false, useX := false, select := false, toMask := false, kr := kr
    elem := fun c a _ _ _ _ => e c a }

end Sys2Proof.Machine
end

