-- ==== Sys2Proof/Machine/VRed.lean ====
section
/-! DEFINITION. VRED: reductions, the scaled reduction, scans and column sums under accumulation-order revision 1
(R97, R98, R101, R143–R152). -/

namespace Sys2Proof.Machine

/-- How the sums of a source kind are formed (R97). -/
inductive SumMode where
  | int
  /-- FP16 and BF16: one rounding of an exact block sum -/
  | exact
  /-- FP32: the pairwise tree -/
  | tree
  deriving DecidableEq, Repr

def sumMode (t : Tag) : SumMode := if tagIsInt t then .int else if t = tagFp32 then .tree else .exact

/-- A partial sum and whether a rounding in it overflowed (R92). -/
abbrev Part32 := Ex × Bool

/-- A fold of R97: exact for integers, one rounding for float kinds. -/
def sumFold (m : SumMode) (a b : Part32) : Part32 :=
  let z := a.1.add 0 b.1
  match m with
  | .int => (z, false)
  | _ =>
    let r := fp32.round 0 z
    (fp32.val r.1, a.2 || b.2 || r.2)

/-- One level of the tree of R98: an absent child passes the other through. -/
def treeLevel (l : List (Option Part32)) : List (Option Part32) :=
  match l with
  | a :: b :: t =>
    (match a, b with
      | some x, some y => some (sumFold .tree x y)
      | some x, none => some x
      | none, y => y) :: treeLevel t
  | l => l

/-- A block value (R97, R98); none where no element is present. `l` holds the block's 32 columns. -/
def blockValue (m : SumMode) (l : List (Option Ex)) : Option Part32 :=
  let present := l.filterMap id
  if present.isEmpty then none
  else
    let sum := present.foldl (fun a x => match a with
      | none => some x
      | some y => some (y.add 0 x)) (none : Option Ex)
    let exact := sum.getD (.zero false)
    match m with
    | .int => some (exact, false)
    | .exact =>
      let r := fp32.round 0 exact
      some (fp32.val r.1, r.2)
    | .tree =>
      let special := present.any (fun x => match x with
        | .nan => true
        | .inf _ => true
        | _ => false)
      if special then
        some (exact, false)
      else
        let full := (l ++ List.replicate (32 - l.length) none).map (fun (x : Option Ex) => x.map (fun y => (y, false)))
        ((treeLevel (treeLevel (treeLevel (treeLevel (treeLevel full))))).head?).join

/-- The 32-column blocks of a row. -/
def blocks32 (l : List (Option Ex)) : List (List (Option Ex)) :=
  (List.range (cdiv l.length 32)).map (fun j => (l.drop (32 * j)).take 32)

/-- The fold of a row from its carry (R146). -/
def rowFold (m : SumMode) (l : List (Option Ex)) (c : Ex) : Part32 :=
  (blocks32 l).foldl (fun acc b =>
    match blockValue m b with
    | some x => sumFold m acc x
    | none => acc) (c, false)

/-- A NaN operand met, present elements or carry (R92). -/
def nanMet (l : List (Option Ex)) (c : Ex) : Bool := c.isNan || l.any (fun x => x = some .nan)

/-- The write of a sum into Kd (R146): wrap or sat, or to nearest-even; the flag by R92. -/
def sumWrite (kd : Tag) (sat nanIn : Bool) (z : Part32) : Nat × Bool :=
  let r := tagWrite kd 0 sat false z.1
  let quiet := nanIn && z.1.isNan && tagHasNan kd
  (r.1, !quiet && (r.2 || z.2 || (z.1.isNan && !nanIn)))

/-- The present elements of a row: values under `t`, none where inactive (R143). -/
def presentRow (t : Tag) (l : List Nat) (act : List Bool) : List (Option Ex) :=
  (l.zip act).map (fun e => if e.2 then some (tval t e.1) else none)

/-- What a row reduction computes from the va row, the element (r, 0) of vb, the whole vb row, vd's element (r, 0) and
the active columns. -/
abbrev RedFn := (ta tb kd : Tag) → (rm : Nat) → (sat : Bool) → (ra : List Nat) → (act : List Bool) → (rb : List Nat) →
  (d : Nat) → Nat × Bool

/-- A row of a row reduction: one result at (r, 0) (R143). -/
def redRow (o : VOps) (f : Front) (sc : Bool) (g : RedFn) (v m : SMap (BitVec 16)) (b : Back) (r : Nat) : RowOut :=
  let n := f.vl
  let act := predRow m o (!sc && o.mod.val = 2) r n
  let kd := f.dstTag o.vd
  let d := if o.vd.val < 28 then readElem v o.vd.val (tagW kd) (tagP kd) r 0 else 0
  let z := g (f.srcTag o.va) (f.srcTag o.vb) kd f.rm (!sc && vSat o) (srcRow v b f o.va r 0 n) act
    (srcRow v b f o.vb r 0 n) d
  ⟨[some z.1], [some z.2]⟩

/-- The checks of a reduction (R126, R143): naming, tags, groups of `vbRows` and `outRows` rows; `trap` gives
the resume point. -/
def redChecks (trap : Front → Instr → Cause → Nat → TrapInfo) (i : Instr) (o : VOps) (ok : Tag → Tag → Tag → Bool)
    (vbRows outRows : Nat) (body : State → Front → State) (s : State) : State :=
  let f := s.cpu.front
  let a := f.srcTag o.va
  let b := f.srcTag o.vb
  let kd := f.dstTag o.vd
  match tileFault f [(o.va, a), (o.vb, b), (o.vd, kd)] with
  | some e => s.raise i (trap f i .shapeViolation e)
  | none =>
    if !ok a b kd then s.raise i (trap f i .illegalTag (tagEval a b))
    else
      match groupFault f [(o.va, a, f.rc), (o.vb, b, vbRows), (o.vd, kd, outRows)] with
      | some e => s.raise i (trap f i .shapeViolation e)
      | none =>
        let cont := f.retagDst o.vd outRows kd
        s.inOrderAs i cont (fun s => body s cont)

/-- A row reduction (R143, R144): results one row at a time, resumed at a row. -/
def rowReduction (i : Instr) (o : VOps) (sc : Bool) (ok : Tag → Tag → Tag → Bool) (g : RedFn) (s : State) : State :=
  redChecks vTrap i o ok s.cpu.front.rc s.cpu.front.rc (fun s cont =>
    let f := s.cpu.front
    s.rowJob i
      { rows := f.rc, len := f.vl, heads := headsOf [o.va, o.vb], held := [], dst := dstOf o.vd (f.dstTag o.vd)
        outLen := 1, flagMask := if sc then none else vFlagMask o, inRow := false, ordered := true
        row := redRow o f sc g } cont) s

/-- Tags VREDSUM, VSCAN and VREDCOL accept (R145). -/
def sumTags (a b kd : Tag) : Bool :=
  b = kd && (if tagIsInt a then tagIsInt kd
    else (a = tagFp16 || a = tagBf16 || a = tagFp32) && (kd = tagFp16 || kd = tagBf16 || kd = tagFp32))

def maxTags (a b kd : Tag) : Bool := b = kd && !tagE8 a && !tagE8 kd
def bitTags (a b kd : Tag) : Bool := b = kd && tagIsInt a && tagIsInt kd

/-- VREDSUM (R146). -/
def redSum : RedFn := fun ta tb kd _ sat ra act rb _ =>
  let l := presentRow ta ra act
  let c := tval tb (rb.headD 0)
  sumWrite kd sat (nanMet l c) (rowFold (sumMode ta) l c)

/-- VREDSUM (R146). -/
def execVredsum (o : VOps) (s : State) : Out := .next (rowReduction (.vredsum o) o false sumTags redSum s)

/-- VREDMAX and VREDMIN (R147): folded from the carry and written by R126. -/
def redPick (pick : Ex → Ex → Ex) : RedFn := fun ta tb kd rm sat ra act rb _ =>
  let z := (presentRow ta ra act).foldl (fun a x => match x with
    | some y => pick a y
    | none => a) (tval tb (rb.headD 0))
  arithWrite kd rm sat (tagIsInt kd && !tagIsInt ta) true false z

/-- VREDMAX (R147). -/
def execVredmax (o : VOps) (s : State) : Out := .next (rowReduction (.vredmax o) o false maxTags (redPick exMax) s)
/-- VREDMIN (R147). -/
def execVredmin (o : VOps) (s : State) : Out := .next (rowReduction (.vredmin o) o false maxTags (redPick exMin) s)

/-- VREDAND and VREDOR (R147): patterns extended to Kd by ext(). -/
def redBits (g : Nat → Nat → Nat) : RedFn := fun ta _ kd _ _ ra act rb _ =>
  ((ra.zip act).foldl (fun a e => if e.2 then g a (intMod (tagW kd) (tint ta e.1)) else a) (rb.headD 0), false)

/-- VREDAND (R147). -/
def execVredand (o : VOps) (s : State) : Out := .next (rowReduction (.vredand o) o false bitTags (redBits Nat.land) s)
/-- VREDOR (R147). -/
def execVredor (o : VOps) (s : State) : Out := .next (rowReduction (.vredor o) o false bitTags (redBits Nat.lor) s)

/-- Tags VREDSC accepts (R148). vd = 30 or 31 is ILLEGAL_TAG, as R148 has it for any vd that is not FP32, and not the
reserved encoding of R125, whose list leaves VREDSC out: DESIGN CHOICE, log 34. -/
def scTags (o : VOps) (a b kd : Tag) : Bool :=
  (viewOf a).isSome && (tagE8 b || b = tagBf16) && kd = tagFp32 && o.vd.val < 28

/-- The scaled fold of R101 and R148; an overflow is an IEEE overflow to an infinity. Where S or the scale is 0, t is a zero
with the sign of the exact product, S = 0 counting as +0, so that −0 + t may stay −0: DESIGN CHOICE, log 34. -/
def redScaled (bs : Nat) : RedFn := fun ta tb _ _ _ ra act rb d =>
  let f := ((viewOf ta).getD (0, 0)).1
  let cells := ra.zip act
  let z := (List.range (cdiv ra.length bs)).foldl (fun acc j =>
    let blk := ((cells.drop (j * bs)).take bs).filter (fun e => e.2)
    if blk.isEmpty then acc
    else
      let sum : Int := (blk.map (fun e => fixVal ta e.1)).sum
      let t := match tval tb (rb.getD j 0) with
        | .nan => Ex.nan
        | .inf _ => Ex.nan
        | sc => ((Ex.int sum).mul sc).scale (-(f : Int))
      rne32 (acc.add 0 t)) (tval tagFp32 d)
  ((fp32.round 0 z).1, false)

/-- VREDSC (R148): mod encodes the block size. -/
def execVredsc (o : VOps) (s : State) : Out :=
  .next (rowReduction (.vredsc o) o true (scTags o) (redScaled (32 * 2 ^ o.mod.val)) s)

/-- The prefix sums of a block from a carry (R150): at each active column the fold of the block so far. -/
def scanBlock (m : SumMode) (kd : Tag) (sat : Bool) (acc : Part32) (nan : Bool) (b : List (Option Ex)) :
    List (Option (Nat × Bool)) :=
  (List.range b.length).map (fun c =>
    let pre := b.take (c + 1)
    match b.getD c none with
    | none => none
    | some _ =>
      match blockValue m pre with
      | some x => some (sumWrite kd sat (nan || nanMet pre (.zero false)) (sumFold m acc x))
      | none => none)

/-- A row of VSCAN (R150). -/
def scanRow (o : VOps) (f : Front) (v m : SMap (BitVec 16)) (b : Back) (r : Nat) (ka kb : Nat) : RowOut :=
  let n := f.vl
  let ta := f.srcTag o.va
  let kd := f.dstTag o.vd
  let md := sumMode ta
  let act := predRow m o (o.mod.val = 2) r n
  let l := presentRow ta (srcRow v b f o.va r ka n) act
  let c := tval kd ((srcRow v b f o.vb r kb n).headD 0)
  let out := (blocks32 l).foldl (fun st blk =>
    let acc : Part32 := st.1
    let acc' := match blockValue md blk with
      | some x => sumFold md acc x
      | none => acc
    (acc', st.2.1 || nanMet blk (.zero false), st.2.2 ++ scanBlock md kd (vSat o) acc st.2.1 blk))
    (((c, false) : Part32), c.isNan, ([] : List (Option (Nat × Bool))))
  let res := out.2.2.map (fun e => match e with
    | some z => (some z.1, some z.2)
    | none => ((if o.mod.val = 3 then some 0 else none), some false))
  ⟨res.map (·.1), res.map (·.2)⟩

/-- Rows each queue head of an instruction is read for: `a` rows through va, `b` through vb, one head read once (R42). -/
def wholeHeads (o : VOps) (a b : Nat) (useB : Bool) : List (Nat × Nat) :=
  match headOf o.va, (if useB then headOf o.vb else none) with
  | none, none => []
  | some q, none => [(q, a)]
  | none, some q => [(q, b)]
  | some p, some q => if p = q then [(p, max a b)] else [(p, a), (q, b)]

/-- VSCAN (R150, R152). -/
def execVscan (o : VOps) (s : State) : Out :=
  .next (redChecks (fun _ => wTrap) (.vscan o) o sumTags s.cpu.front.rc s.cpu.front.rc (fun s cont =>
    let f := s.cpu.front
    let i := Instr.vscan o
    if f.rc = 0 || f.vl = 0 then s.finish i cont
    else
      let src := s.srcLanes
      s.wholeJob i
        { heads := wholeHeads o f.rc f.rc true, dst := dstOf o.vd (f.dstTag o.vd), outRows := f.rc, outLen := f.vl
          flagMask := vFlagMask o
          result := fun b => (List.range f.rc).map (fun r => scanRow o f src.1 src.2 b r r r) } cont) s)

/-- VREDCOL's row (R151): the fold rounds at each row in ascending order. -/
def colRow (o : VOps) (f : Front) (v m : SMap (BitVec 16)) (b : Back) : RowOut :=
  let n := f.vl
  let ta := f.srcTag o.va
  let kd := f.dstTag o.vd
  let md := sumMode ta
  let start := (srcRow v b f o.vb 0 0 n).map (fun p => let c := tval kd p; (((c, false) : Part32), c.isNan))
  let fin := (List.range f.rc).foldl (fun acc r =>
    (acc.zip ((srcRow v b f o.va r r n).zip (predRow m o (o.mod.val = 2) r n))).map (fun e =>
      if e.2.2 then
        let x := tval ta e.2.1
        (sumFold md e.1.1 (x, false), e.1.2 || x.isNan)
      else e.1)) start
  let res := fin.map (fun e => sumWrite kd (vSat o) e.2 e.1)
  ⟨res.map (fun e => some e.1), res.map (fun e => some e.2)⟩

/-- VREDCOL (R151, R152). DESIGN CHOICE, log 34: into a store queue it appends its one row of vl elements, where R125 would have rc. -/
def execVredcol (o : VOps) (s : State) : Out :=
  .next (redChecks (fun _ => wTrap) (.vredcol o) o sumTags (min s.cpu.front.rc 1) (min s.cpu.front.rc 1) (fun s cont =>
    let f := s.cpu.front
    let i := Instr.vredcol o
    if f.rc = 0 || f.vl = 0 then s.finish i cont
    else
      let src := s.srcLanes
      s.wholeJob i
        { heads := wholeHeads o f.rc 1 true, dst := dstOf o.vd (f.dstTag o.vd), outRows := 1, outLen := f.vl
          flagMask := vFlagMask o, result := fun b => [colRow o f src.1 src.2 b] } cont) s)

end Sys2Proof.Machine
end

