-- ==== Sys2Proof/Machine/Matrix.lean ====
section
/-! DEFINITION. MATRIX other than MLDQ: the accumulator tiles (R164–R177). Each instruction takes effect whole (R169). -/

namespace Sys2Proof.Machine

/-- The key of a tile element. -/
def tileKey (t i j : Nat) : Nat := t * 65536 + i * 256 + j

/-- MATRIX_STATE at `i`, naming a za tile or none. -/
def State.matrixTrap (s : State) (i : Instr) (tile : Option Nat) : State :=
  s.raise i (wTrap i .matrixState (s.matrixEval tile))

/-- A za tile forgets its steps and kinds. -/
def Back.forgetTile (b : Back) (k : Nat) : Back :=
  { b with za := clearKeys b.za (k * 65536) ((k + 1) * 65536), zsteps := vput b.zsteps k 0, zkinds := vput b.zkinds k none }

/-- MZERO (R170). -/
def execMzero (tile : Fin 4) (s : State) : Out :=
  .next (s.inOrder (.mzero tile) fun s =>
    let k := tile.val % 2
    let b := s.cpu.back
    if tile.val < 2 then
      if !s.cpu.front.mmode then s.matrixTrap (.mzero tile) (some k)
      else (s.setBack (b.forgetTile k)).finish (.mzero tile) s.cpu.front
    else (s.setBack { b with zf := clearKeys b.zf (k * 65536) ((k + 1) * 65536) }).finish (.mzero tile) s.cpu.front)

/-- R172: the pair of tags an outer product accepts. -/
def productTags (a b : Tag) : Bool :=
  match viewOf a, viewOf b with
  | some (_, v), some (_, w) => v + w ≤ 27
  | _, _ => false

/-- Operand element i of step s (R171): a register by the column rules of R154, a head row's element or 0. -/
def productElem (vlmax : Nat) (v : SMap (BitVec 16)) (b : Back) (f : Front) (r : Reg) (step i : Nat) : Int :=
  fixVal (f.srcTag r) (match headOf r with
    | none => srcCol vlmax v b f r step step (i : Int)
    | some q => match (b.queue q).rows[step]? with
      | some x => x.elems.getD i 0
      | none => 0)

/-- The outer-product sum of `n` steps at element (i, j). -/
def productSum (vlmax : Nat) (v : SMap (BitVec 16)) (b : Back) (f : Front) (va vb : Reg) (n i j : Nat) : Int :=
  ((List.range n).map (fun st => productElem vlmax v b f va st i * productElem vlmax v b f vb st j)).sum

/-- The planes that `n` steps of an outer product skip (R34, R173): in each bed that the tile rows below mvr occupy, the planes of
the column operand's view that are zero in every element below mvc. -/
def productSkip (vlmax mc : Nat) (v : SMap (BitVec 16)) (b : Back) (f : Front) (vb : Reg) (n : Nat) : Nat :=
  match viewOf (f.srcTag vb) with
  | none => 0
  | some (_, w) =>
    cdiv (f.mvr * mc) groupCols * ((List.range n).map (fun st =>
      zeroPlanes w ((List.range f.mvc).map (fun j => intMod w (productElem vlmax v b f vb st j))))).sum

/-- Applies `g` to every element (i, j) of a tile inside the grant. -/
def overTile (m : SMap W32) (k mvr mvc : Nat) (g : Nat → Nat → W32 → W32) : SMap W32 :=
  upto mvr (fun i m => upto mvc (fun j m => minsert m (tileKey k i j) (g i j (mget 0 m (tileKey k i j)))) m) m

/-- MOPA and MOPS (R171, R172). -/
def outerProduct (i : Instr) (za : Fin 2) (va vb : Reg) (neg : Bool) (s : State) : State :=
  s.inOrder i fun s =>
    let f := s.cpu.front
    let k := za.val
    let a := f.srcTag va
    let b := f.srcTag vb
    let kinds := vget none s.cpu.back.zkinds k
    let steps := vget 0 s.cpu.back.zsteps k
    if !f.mmode then s.matrixTrap i (some k)
    else
      match (match tileFault f [(va, a), (vb, b)] with
        | some e => some e
        | none => groupFault f [(va, a, f.rc), (vb, b, f.rc)]) with
      | some e => s.raise i (wTrap i .shapeViolation e)
      | none =>
        if !productTags a b then s.raise i (wTrap i .illegalTag (tagEval a b))
        else if kinds.isSome && kinds != some (a, b) then s.raise i (wTrap i .illegalTag (tagEval a b))
        else if 32 < steps + f.rc then s.matrixTrap i (some k)
        else if f.rc = 0 || f.mvr = 0 || f.mvc = 0 then s.finish i f
        else
          let heads := match headOf va, headOf vb with
            | none, none => []
            | some p, none => [(p, f.rc)]
            | none, some q => [(q, f.rc)]
            | some p, some q => if p = q then [(p, f.rc)] else [(p, f.rc), (q, f.rc)]
          match shortHeads s.cpu.back heads with
          | q :: qs => s.suspendAs i 0 (q :: qs) false f none
          | [] =>
            let bk := s.cpu.back
            let m := overTile bk.za k f.mvr f.mvc (fun r c z =>
              let p := productSum s.vlmax s.srcLanes.1 bk f va vb f.rc r c
              z + BitVec.ofInt 32 (if neg then -p else p))
            let bk1 := { bk with za := m, zsteps := vput bk.zsteps k (steps + f.rc), zkinds := vput bk.zkinds k (some (a, b)) }
            ((s.setBack (heads.foldl (fun b h => b.popRows h.1 h.2) bk1)).skipped
              (productSkip s.vlmax (mcmaxOf s.cpu.id.share) s.srcLanes.1 bk f vb f.rc)).finish i f

/-- MOPA (R171). -/
def execMopa (za : Fin 2) (va vb : Reg) (ca cb : Bool) (s : State) : Out :=
  .next (outerProduct (.mopa za va vb ca cb) za va vb false s)

/-- MOPS (R171). -/
def execMops (za : Fin 2) (va vb : Reg) (ca cb : Bool) (s : State) : Out :=
  .next (outerProduct (.mops za va vb ca cb) za va vb true s)

/-- The E8M0 exponent in row `r`, column `c` of vsc, or none for NaN (R174). -/
def scaleExp (v : SMap (BitVec 16)) (r c : Nat) : Option Int :=
  let e := readElem v 1 8 8 r c
  if e = 255 then none else some ((e : Int) - 127)

/-- One element of MBLK (R100, R174). -/
def blockFold (z : W32) (sum : W32) (sa sb : Option Int) (fa fb : Nat) : W32 :=
  match sa, sb with
  | some a, some b =>
    BitVec.ofNat 32 (fp32.round 0 ((fp32.val z.toNat).add 0 ((Ex.int sum.toInt).scale (a + b - fa - fb)))).1
  | _, _ => BitVec.ofNat 32 fp32.nanPat

/-- MBLK (R174). -/
def execMblk (zf za : Fin 2) (ns keep : Bool) (s : State) : Out :=
  .next (s.inOrder (.mblk zf za ns keep) fun s =>
    let i := Instr.mblk zf za ns keep
    let f := s.cpu.front
    let b := s.cpu.back
    if !f.mmode then s.matrixTrap i (some za.val)
    else if !ns && !tagE8 (f.srcTag 1) then s.raise i (wTrap i .illegalTag (tagEval (f.srcTag 1) 0))
    else
      let b1 := match vget none b.zkinds za.val with
        | none => b
        | some (ta, tb) =>
          let fa := ((viewOf ta).getD (0, 0)).1
          let fb := ((viewOf tb).getD (0, 0)).1
          { b with zf := overTile b.zf zf.val f.mvr f.mvc (fun r c z =>
              blockFold z (mget 0 b.za (tileKey za.val r c)) (if ns then some 0 else scaleExp s.srcLanes.1 0 r)
                (if ns then some 0 else scaleExp s.srcLanes.1 1 c) fa fb) }
      (s.setBack (if keep then b1 else b1.forgetTile za.val)).finish i f)

/-- MRDZ (R175). -/
def execMrdz (vd : Reg) (zf : Fin 2) (xb : Reg) (s : State) : Out :=
  .next (
    let i := Instr.mrdz vd zf xb
    let f := s.cpu.front
    let t := f.dstTag vd
    match tileFault f [(vd, t)] with
    | some e => s.raise i (wTrap i .shapeViolation e)
    | none =>
      if tagE8 t then s.raise i (wTrap i .illegalTag (tagEval t 0))
      else match groupFault f [(vd, t, f.rc)] with
        | some e => s.raise i (wTrap i .shapeViolation e)
        | none =>
          let cont := f.retagDst vd f.rc t
          s.inOrderAs i cont fun s =>
            if f.rc = 0 || f.vl = 0 then s.finish i cont
            else
              let row0 := s.getU xb
              s.wholeJob i
                { heads := [], dst := dstOf vd t, outRows := f.rc, outLen := f.vl, flagMask := none
                  result := fun b => (List.range f.rc).map (fun r =>
                    ⟨(List.range f.vl).map (fun c =>
                      let z := if row0 + r < f.mvr && c < f.mvc then
                          fp32.val (mget 0 b.zf (tileKey zf.val (row0 + r) c)).toNat else .zero false
                      some (tagWrite t f.rm false true z).1), []⟩) } cont)

/-- The tile descriptor of R167. DESIGN CHOICE, log 34: ta and tb are 0 while the kinds are not valid. -/
def tileDescriptor (b : Back) (k : Nat) : W64 :=
  match vget none b.zkinds k with
  | none => BitVec.ofNat 64 (2 ^ 18 * vget 0 b.zsteps k)
  | some (ta, tb) =>
    BitVec.ofNat 64 (2 ^ 24 + 2 ^ 18 * vget 0 b.zsteps k + 2 ^ 9 * (tb.toNat % 512) + ta.toNat % 512)

/-- MSPILL (R176): mvr rows of vl raw elements; x[c] of a za tile receives its descriptor. -/
def execMspill (sq : Fin 2) (tile : Fin 4) (xc : Reg) (s : State) : Out :=
  .next (s.inOrder (.mspill sq tile xc) fun s =>
    let i := Instr.mspill sq tile xc
    let f := s.cpu.front
    let k := tile.val % 2
    let q := 4 + sq.val
    let t := f.queueTag q
    if tagW t != 32 then s.raise i (wTrap i .illegalTag (tagEval t 0))
    else if tile.val < 2 && !f.mmode then s.matrixTrap i (some k)
    else
      let cont := if tile.val < 2 then f.setX xc (tileDescriptor s.cpu.back k) else f
      if f.vl = 0 then s.finish i cont
      else if s.free q < f.mvr * rowBytes t f.vl then s.suspendAs i 0 [q] true f none
      else
        let m := if tile.val < 2 then s.cpu.back.za else s.cpu.back.zf
        let s1 := upto f.mvr (fun r s => s.pushRow q ((List.range f.vl).map (fun c =>
          if c < f.mvc then (mget 0 m (tileKey k r c)).toNat else 0))) s
        s1.finish i cont)

/-- A descriptor that MFILL refuses with MATRIX_STATE (R177). -/
def badDescriptor (v : Nat) : Bool :=
  v / 2 ^ 25 != 0 || 32 < bitsOf v 23 18 || (bitsOf v 23 18 != 0 && !bitAt v 24)

/-- The operand tags a descriptor holds, row operand first. -/
def descriptorTags (v : Nat) : Tag × Tag := (BitVec.ofNat 16 (bitsOf v 8 0), BitVec.ofNat 16 (bitsOf v 17 9))

/-- MFILL (R177). -/
def execMfill (tile lq : Fin 4) (xc : Reg) (s : State) : Out :=
  .next (s.inOrder (.mfill tile lq xc) fun s =>
    let i := Instr.mfill tile lq xc
    let f := s.cpu.front
    let k := tile.val % 2
    let q := lq.val
    let za := tile.val < 2
    let t := f.queueTag q
    let v := s.getU xc
    let (ta, tb) := descriptorTags v
    if tagW t != 32 then s.raise i (wTrap i .illegalTag (tagEval t 0))
    else if za && !f.mmode then s.matrixTrap i (some k)
    else if za && badDescriptor v then s.matrixTrap i (some k)
    else if za && bitAt v 24 && !(tagValid ta && tagValid tb && productTags ta tb) then
      s.raise i (wTrap i .illegalTag (tagEval ta tb))
    else if (s.cpu.back.queue q).rows.length < f.mvr then s.suspendAs i 0 [q] false f none
    else
      let b := s.cpu.back
      let rows := (b.queue q).rows
      let fillIn (m : SMap W32) : SMap W32 := overTile m k f.mvr f.mvc (fun r c _ =>
        BitVec.ofNat 32 (match rows[r]? with
          | some x => x.elems.getD c 0
          | none => 0))
      let b1 := if za then
          { b with za := fillIn b.za, zsteps := vput b.zsteps k (bitsOf v 23 18)
                   zkinds := vput b.zkinds k (if bitAt v 24 then some (ta, tb) else none) }
        else { b with zf := fillIn b.zf }
      (s.setBack (b1.popRows q f.mvr)).finish i f)

end Sys2Proof.Machine
end

