-- ==== Sys2Proof/Machine/Catalogue.lean ====
section
/-! DEFINITION. The CAT major: the catalogue partition (R312–R320). -/

namespace Sys2Proof.Machine

/-- E (R312). -/
def catSize (share : Nat) : Nat := 4096 * share

/-- h_w(k) in a partition of `e` entries (R314). -/
def catHash (e w k : Nat) : Nat :=
  let m := if w = 0 then 0x9E3779B1 else if w = 1 then 0x85EBCA77 else if w = 2 then 0xC2B2AE3D else 0x27D4EB2F
  k * m % 2 ^ 32 / 2 ^ (32 - Nat.log2 (e / 4))

/-- The placement of R314: the slots in use, as way · 2^16 + slot, and the stash occupancy. -/
structure Placement where
  slots : List Nat
  stash : Nat
  deriving DecidableEq, Repr

/-- Places a key: the first free candidate slot, else the stash. -/
def Placement.place (p : Placement) (e k : Nat) : Placement :=
  match (List.range 4).find? (fun w => !p.slots.contains (w * 65536 + catHash e w k)) with
  | some w => { p with slots := (w * 65536 + catHash e w k) :: p.slots }
  | none => { p with stash := p.stash + 1 }

/-- The placement of keys in insertion order. -/
def placeAll (e : Nat) (keys : List Nat) : Placement := keys.foldl (fun p k => p.place e k) ⟨[], 0⟩

/-- Whether key `k` can be inserted behind the present entries (R314). -/
def Cat.hasRoom (c : Cat) (e k : Nat) : Bool :=
  let p := placeAll e (c.entries.map (fun x => x.1.toNat))
  c.entries.length < e && ((List.range 4).any (fun w => !p.slots.contains (w * 65536 + catHash e w k)) || p.stash < 8)

/-- The tag of vkind (R313). -/
def vkindTag (cfg : W64) : Tag :=
  match bitsOf cfg.toNat 5 4 with
  | 0 => tagInt 32
  | 1 => tagUint 32
  | _ => tagFp32

/-- acc of R316. -/
def catAcc (cfg : W64) (a b : Nat) : Nat :=
  let t := vkindTag cfg
  let ex (g : Ex → Ex → Ex) : Nat := (tagWrite t 0 false false (g (tval t a) (tval t b))).1
  match cfg.toNat % 8 with
  | 0 => (a + b) % 2 ^ 32
  | 1 => min (a + b) (2 ^ 32 - 1)
  | 2 => ex (fun x y => x.add 0 y)
  | 3 => ex exMax
  | _ => ex exMin

/-- A configuration value that CATCFG refuses (R319). -/
def badCatCfg (v : Nat) : Bool :=
  let op := v % 8
  let k := bitsOf v 5 4
  v / 64 != 0 || bitAt v 3 || 4 < op || k = 3 || (op < 3 && op != k)

/-- The configuration in program order: that of the youngest CATCFG in flight, else catcfg (R319). -/
def State.catConfig (s : State) : W64 :=
  s.cpu.inflight.foldl (fun c p => match p.instr with
    | .catcfg o => p.front.getX o.va
    | _ => c) s.cpu.back.cat.cfg

/-- One element of CATINS or CATACC (R316): the partition and whether the element failed. -/
def Cat.put (c : Cat) (e : Nat) (acc : Bool) (k x : Nat) : Cat × Bool :=
  let key : W32 := BitVec.ofNat 32 k
  match mfind (c.entries.map (fun p => (p.1.toNat, p.2))) k with
  | some old =>
    let v : W32 := BitVec.ofNat 32 (if acc then catAcc c.cfg old.toNat x else x)
    ({ c with entries := c.entries.map (fun p => if p.1 = key then (key, v) else p) }, false)
  | none =>
    if c.hasRoom e k then ({ c with entries := c.entries ++ [(key, BitVec.ofNat 32 x)] }, false)
    else ({ c with fail := c.fail + 1 }, true)

/-- Keys of a row, extended to 32 bits (R315). -/
def catKey (t : Tag) (p : Nat) : Nat := intMod 32 (tint t p)

/-- The checks of R126 for key and value operands, then `body`. -/
def catChecks (i : Instr) (s : State) (fields : List (Reg × Tag)) (bad : Option Nat) (groups : List (Reg × Tag × Nat))
    (body : State) : State :=
  let f := s.cpu.front
  match tileFault f fields with
  | some e => s.raise i (wTrap i .shapeViolation e)
  | none => match bad with
    | some e => s.raise i (wTrap i .illegalTag e)
    | none => match groupFault f groups with
      | some e => s.raise i (wTrap i .shapeViolation e)
      | none => body

/-- CATINS and CATACC (R315, R316, R320). -/
def catUpdate (i : Instr) (o : VOps) (acc : Bool) (s : State) : State :=
  let f := s.cpu.front
  let ta := f.srcTag o.va
  let tb := f.srcTag o.vb
  catChecks i s [(o.va, ta), (o.vb, tb)] (if tagIsInt ta && !tagE8 tb then none else some (tagEval ta tb))
    [(o.va, ta, f.rc), (o.vb, tb, f.rc)]
    (s.inOrder i fun s =>
      if f.rc = 0 || f.vl = 0 then s.finish i f
      else
        let heads := wholeHeads o f.rc f.rc true
        match shortHeads s.cpu.back heads with
        | q :: qs => s.suspendAs i f.vstart (q :: qs) false f none
        | [] =>
          let b := s.cpu.back
          let kt := vkindTag b.cat.cfg
          let e := catSize s.cpu.id.share
          let row (st : Cat × SMap (BitVec 16)) (r : Nat) : Cat × SMap (BitVec 16) :=
            let cells := (srcRow s.srcLanes.1 b f o.va r r f.vl).zip ((srcRow s.srcLanes.1 b f o.vb r r f.vl).zip (predRow b.m o false r f.vl))
            (cells.zipIdx).foldl (fun st x =>
              let ((k, v, a), c) := x
              if a then
                let w := (tagWrite kt f.rm false (!tagIsInt tb) (tval tb v)).1
                let z := st.1.put e acc (catKey ta k) w
                (z.1, setMaskBit st.2 o.vd.val r c z.2)
              else if o.mod.val = 3 then (st.1, setMaskBit st.2 o.vd.val r c false)
              else st) st
          let z := (List.range f.rc).foldl row (b.cat, b.m)
          (s.setBack (heads.foldl (fun b h => b.popRows h.1 h.2) { b with cat := z.1, m := z.2 })).finish i f)

/-- CATINS (R316). -/
def execCatins (o : VOps) (s : State) : Out := .next (catUpdate (.catins o) o false s)

/-- CATACC (R316). -/
def execCatacc (o : VOps) (s : State) : Out := .next (catUpdate (.catacc o) o true s)

/-- CATLKP (R317): the miss mask is the field vb. -/
def execCatlkp (o : VOps) (s : State) : Out :=
  .next (
    let i := Instr.catlkp o
    let f := s.cpu.front
    let ta := f.srcTag o.va
    let kt := vkindTag s.catConfig
    let out := f.outTag o.vd kt
    let cont := f.retagDst o.vd f.rc kt
    catChecks i s ([(o.va, ta)] ++ (if o.vd.val < 28 then [(o.vd, f.dstTag o.vd)] else []))
      (if tagIsInt ta then none else some (tagEval ta 0)) [(o.va, ta, f.rc), (o.vd, kt, f.rc)]
      (s.inOrderAs i cont fun s =>
        if f.rc = 0 || f.vl = 0 then s.finish i cont
        else
          let m := s.cpu.back.m
          let v := s.srcLanes.1
          s.wholeJob i
            { heads := match headOf o.va with
                | some q => [(q, f.rc)]
                | none => []
              dst := dstOf o.vd kt, outRows := f.rc, outLen := f.vl, flagMask := some o.vb.val
              result := fun b => (List.range f.rc).map (fun r =>
                let cells := ((srcRow v b f o.va r r f.vl).zip (predRow m o false r f.vl)).map (fun x =>
                  if x.2 then
                    match mfind (b.cat.entries.map (fun p => (p.1.toNat, p.2))) (catKey ta x.1) with
                    | some w =>
                      (some (if out = kt then w.toNat
                        else (tagWrite out f.rm false (tagIsInt out && !tagIsInt kt) (tval kt w.toNat)).1), some false)
                    | none =>
                      (some (if out = kt then 0 else (tagWrite out f.rm false false (tval kt 0)).1), some true)
                  else if o.mod.val = 3 then (some 0, some false) else (none, none))
                ⟨cells.map (·.1), cells.map (·.2)⟩) } cont))

/-- CATDRN (R318): keys at vd, values 2·rc registers above, the fill mask in vb; the two groups are one of 4·rc registers to R86. -/
def execCatdrn (o : VOps) (s : State) : Out :=
  .next (
    let i := Instr.catdrn o
    let f := s.cpu.front
    let kt := vkindTag s.catConfig
    let ku := tagUint 32
    let cont := if f.rc = 0 then f.retag o.vd.val 1 ku
      else (f.retag o.vd.val (2 * f.rc) ku).retag (o.vd.val + 2 * f.rc) (2 * f.rc) kt
    if namesTile f o.vd then s.raise i (wTrap i .shapeViolation (shapeEval o.vd.val (4 * f.rc)))
    else catChecks i s [] none [(o.vd, ku, 2 * f.rc)]
      (s.inOrderAs i cont fun s =>
        if f.rc = 0 || f.vl = 0 then s.finish i cont
        else
          let b := s.cpu.back
          let n := min b.cat.entries.length (f.rc * f.vl)
          let at_ (k : Nat) : W32 × W32 := if k < n then b.cat.entries.getD k (0, 0) else (0, 0)
          let b1 := upto f.rc (fun r b => upto f.vl (fun c b =>
            let e := at_ (r * f.vl + c)
            { b with
              v := writeElem (writeElem b.v o.vd.val 32 r c e.1.toNat) (o.vd.val + 2 * f.rc) 32 r c e.2.toNat
              m := setMaskBit b.m o.vb.val r c (r * f.vl + c < n) }) b) b
          (s.setBack { b1 with cat := { b.cat with entries := b.cat.entries.drop n } }).finish i cont))

/-- CATCLR (R319). -/
def execCatclr (s : State) : Out :=
  .next (s.inOrder .catclr fun s =>
    (s.setBack { s.cpu.back with cat := { s.cpu.back.cat with entries := [], fail := 0 } }).finish .catclr s.cpu.front)

/-- The items of CATCNT (R319). -/
def State.catItem (s : State) (sel : Nat) : W64 :=
  let c := s.cpu.back.cat
  let e := catSize s.cpu.id.share
  match sel with
  | 0 => BitVec.ofNat 64 c.entries.length
  | 1 => BitVec.ofNat 64 e
  | 2 => BitVec.ofNat 64 (placeAll e (c.entries.map (fun x => x.1.toNat))).stash
  | 3 => c.fail
  | _ => c.cfg

/-- CATCNT (R319): the selector stands in va, the destination register in vd. -/
def execCatcnt (o : VOps) (s : State) : Out :=
  .next (s.inOrder (.catcnt o) fun s => s.finish (.catcnt o) (s.cpu.front.setX o.vd (s.catItem o.va.val)))

/-- CATCFG (R319). -/
def execCatcfg (o : VOps) (s : State) : Out :=
  .next (s.inOrder (.catcfg o) fun s =>
    let i := Instr.catcfg o
    let c := s.cpu.back.cat
    let v := s.getX o.va
    if badCatCfg v.toNat || (!c.entries.isEmpty && v != c.cfg) then s.raise i (trapOf i .catalogueConfig v.toNat 0)
    else (s.setBack { s.cpu.back with cat := { c with cfg := v } }).finish i (s.cpu.front.setX o.vd c.cfg))

end Sys2Proof.Machine
end

