-- ==== Sys2Proof/Machine/Forest.lean ====
section
/-! DEFINITION. Forest images and VTREE (R334–R338). -/

namespace Sys2Proof.Machine

/-- A forest descriptor (R334), with the digest word of its vitrine (R337). -/
structure Forest where
  base : Nat
  nfmt : Nat
  ntree : Nat
  maxdepth : Nat
  fkind : Nat
  nfeat : Nat
  fstride : Nat
  fbase : Nat
  nnode : Nat
  mpat : Nat
  rootoff : Nat
  nodeoff : Nat
  size : Nat
  dlow : W64
  deriving DecidableEq, Repr

/-- The tag of a feature kind (R334). -/
def featTag (k : Nat) : Tag :=
  match k with
  | 0 => tagFp32
  | 1 => tagFp16
  | 2 => tagBf16
  | 3 => tagInt 32
  | 4 => tagInt 16
  | 5 => tagInt 8
  | 6 => tagUint 16
  | _ => tagUint 8

def featSize (k : Nat) : Nat := tagW (featTag k) / 8

/-- The fields of a node record as `nfmt` places them: position and width, kind first (R335). -/
def nodeFields (nfmt : Nat) : List (Nat × Nat) :=
  [(nfmt % 128, 3), (bitsOf nfmt 13 7, 1), (bitsOf nfmt 20 14, 16), (bitsOf nfmt 27 21, 32), (bitsOf nfmt 34 28, 24),
    (bitsOf nfmt 41 35, 24)]

/-- No field leaves the record and no two overlap (R335). -/
def nodeFormatOk (nfmt : Nat) : Bool :=
  let l := nodeFields nfmt
  nfmt / 2 ^ 42 = 0 && l.all (fun e => e.1 + e.2 ≤ 128)
    && (l.zipIdx).all (fun a => (l.zipIdx).all (fun b =>
      a.2 = b.2 || a.1.1 + a.1.2 ≤ b.1.1 || b.1.1 + b.1.2 ≤ a.1.1))

/-- The descriptor of eight doublewords at `a`, or none where it breaks R334 or R335 by itself. -/
def forestOf (a : Nat) (d : List Nat) (dlow : W64) : Option Forest :=
  let w (k : Nat) : Nat := d.getD k 0
  let f : Forest :=
    ⟨a, w 1, w 2 % 2 ^ 32, bitsOf (w 2) 39 32, bitsOf (w 2) 43 40, w 3 % 2 ^ 32, w 3 / 2 ^ 32, w 4, w 5 % 2 ^ 32, w 5 / 2 ^ 32,
      w 6 % 2 ^ 32, w 6 / 2 ^ 32, w 7, dlow⟩
  if w 0 % 2 ^ 32 = 0x46525331 && w 0 / 2 ^ 32 = 1 && nodeFormatOk f.nfmt && 1 ≤ f.ntree && f.ntree ≤ 131072
      && 1 ≤ f.maxdepth && f.fkind ≤ 7 && w 2 / 2 ^ 44 = 0 && 1 ≤ f.nfeat && f.nfeat ≤ 65536
      && f.nfeat * featSize f.fkind ≤ f.fstride && 1 ≤ f.nnode && f.nnode ≤ 2 ^ 24 && f.rootoff % 4 = 0
      && f.nodeoff % 16 = 0 && f.rootoff + 4 * f.ntree ≤ f.size && f.nodeoff + 16 * f.nnode ≤ f.size && 64 ≤ f.size then some f
  else none

/-- The sealed vitrine whose range holds a virtual byte (R303), if the hart can read it. -/
def State.sealedAt (s : State) (va : Nat) : Option (Nat × Vitrine) :=
  match s.translate s.cpu.ctx .load va with
  | .error _ => none
  | .ok pa =>
    if !s.isLocal pa then none
    else match s.vitrineAt (pa % pkgSpan) with
      | some v => if v.2.state = 2 then some v else none
      | none => none

/-- Every page of `n` bytes from `va` lies in vitrine `v`. -/
def State.inVitrine (s : State) (v va n : Nat) : Bool :=
  (List.range (cdiv (va % 65536 + n) 65536)).all (fun k =>
    match s.sealedAt (if k = 0 then va else (va / 65536 + k) * 65536) with
    | some e => e.1 = v
    | none => false)

/-- The forest at `a` that a number describes: the 64 bytes of its descriptor, and above them the digest word of its vitrine. -/
def forestNoted (a n : Nat) : Option Forest :=
  forestOf a ((List.range 8).map (fun k => n / 2 ^ (64 * k) % 2 ^ 64)) (BitVec.ofNat 64 (n / 2 ^ 512))

/-- The checks of R336 on the image at `a`: the number that describes it, for `forestNoted`. -/
def State.forest (s : State) (a : Nat) : Except AccFault Nat :=
  if a % 64 != 0 then .error ⟨.loadFault, 4, 0, a⟩
  else match s.engineLoad a 64 with
    | .error f => .error f
    | .ok l => match forestNoted a (leNat l), s.sealedAt a with
      | none, _ => .error ⟨.loadFault, 4, 0, a⟩
      | some _, none => .error ⟨.loadFault, 8, 0, a⟩
      | some f, some v =>
        if s.inVitrine v.1 a f.size then .ok (leNat l + 2 ^ 512 * (v.2.digest.setWidth 64).toNat)
        else .error ⟨.loadFault, 8, 0, a⟩

/-- Field `k` of a node record. -/
def Forest.field (f : Forest) (rec_ k : Nat) : Nat :=
  let e := (nodeFields f.nfmt).getD k (0, 0)
  rec_ / 2 ^ e.1 % 2 ^ e.2

/-- A malformed node (R335). -/
def Forest.badNode (f : Forest) (rec_ : Nat) : Bool :=
  let kind := f.field rec_ 0
  5 ≤ kind || (kind != 4 && (f.nfeat ≤ f.field rec_ 2 || f.nnode ≤ f.field rec_ 4 || f.nnode ≤ f.field rec_ 5))
    || (kind = 2 && f.size < f.field rec_ 3 + 32)

/-- missing(x) of R337. -/
def Forest.missing (f : Forest) (x : Nat) : Bool :=
  let t := featTag f.fkind
  if tagIsInt t then x = f.mpat % 2 ^ tagW t else (tval t x).isNan

/-- The category that an exact value names, if it is an integer from 0 to 255. -/
def category (x : Ex) : Option Nat :=
  match x with
  | .zero _ => some 0
  | .rat n d => if d != 0 && n % d = 0 && 0 ≤ n / d && n / d ≤ 255 then some (n / d).toNat else none
  | _ => none

/-- Reads a number of `n` bytes. -/
def State.readNat (s : State) (va n : Nat) : Except AccFault Nat :=
  match s.engineLoad (va % 2 ^ 64) n with
  | .error f => .error f
  | .ok l => .ok (leNat l)

/-- The direction at a decision node for a feature pattern (R337); a categorical node reads its bitmap. -/
def State.forestDir (s : State) (f : Forest) (rec_ x : Nat) : Except AccFault Nat :=
  let t := featTag f.fkind
  let thr := tval t (f.field rec_ 3 % 2 ^ tagW t)
  let v := tval t x
  let kind := f.field rec_ 0
  if kind = 3 then .ok (f.missing x).toNat
  else if f.missing x then .ok (f.field rec_ 1)
  else if kind = 0 then .ok (!(v.lt thr)).toNat
  else if kind = 1 then .ok (!(!v.isNan && !thr.isNan && !(thr.lt v))).toNat
  else match category v with
    | none => .ok 0
    | some c => match s.readNat (f.base + f.field rec_ 3 + c / 8) 1 with
      | .error e => .error e
      | .ok b => .ok (b / 2 ^ (c % 8) % 2)

/-- The walk of one tree from node `n`, `k` decision nodes so far (R337): the leaf value and the fingerprint. -/
def State.treeWalk (s : State) (f : Forest) (smp tree : Nat) (fuel n k : Nat) (d : W64) : Except AccFault (Nat × W64) :=
  let at_ := (f.base + f.nodeoff + 16 * n) % 2 ^ 64
  match fuel with
  | 0 => .error ⟨.loadFault, 4, 0, at_⟩
  | m + 1 =>
    if f.nnode ≤ n then .error ⟨.loadFault, 4, 0, at_⟩
    else match s.readNat at_ 16 with
      | .error e => .error e
      | .ok rec_ =>
        if f.badNode rec_ then .error ⟨.loadFault, 4, 0, at_⟩
        else if f.field rec_ 0 = 4 then .ok (f.field rec_ 3, d)
        else if f.maxdepth ≤ k then .error ⟨.loadFault, 4, 0, at_⟩
        else
          let fs := featSize f.fkind
          match s.readNat (f.fbase + smp * f.fstride + f.field rec_ 2 * fs) fs with
          | .error e => .error e
          | .ok x => match s.forestDir f rec_ x with
            | .error e => .error e
            | .ok dir =>
              let d1 := (d ^^^ BitVec.ofNat 64 (tree * 2 ^ 40 + n * 2 + dir)).rotateLeft 23
              s.treeWalk f smp tree m (if dir = 0 then f.field rec_ 4 else f.field rec_ 5) (k + 1) d1

/-- The trees from `t` on, `n` of them, in ascending order (R337): sum and fingerprint. -/
def State.trees (s : State) (f : Forest) (smp : Nat) (n t sum : Nat) (d : W64) : Except AccFault (Nat × W64) :=
  match n with
  | 0 => .ok (sum, d)
  | m + 1 =>
    match s.readNat (f.base + f.rootoff + 4 * t) 4 with
    | .error e => .error e
    | .ok root => match s.treeWalk f smp t (f.maxdepth + 2) root 0 d with
      | .error e => .error e
      | .ok (leaf, d1) => s.trees f smp m (t + 1) ((sum + leaf) % 2 ^ 32) d1

/-- Samples `smp` to `smp` + `n` − 1 of a tile row (R337, R338). -/
def State.samples (s : State) (f : Forest) (n smp : Nat) : RowRead :=
  match n with
  | 0 => ⟨[], none, [], []⟩
  | m + 1 =>
    match s.trees f (smp % 2 ^ 64) f.ntree 0 0 (f.dlow ^^^ BitVec.ofNat 64 smp) with
    | .error e => ⟨[], some e, [], []⟩
    | .ok (sum, d) =>
      let r := s.samples f m (smp + 1)
      { r with cols := [sum, d.toNat % 2 ^ 32, d.toNat / 2 ^ 32] :: r.cols }

/-- A VTREE that begins checks the image and notes its descriptor and digest word; one that goes on does not read them again: tables
of a vitrine dropped under it are read as they stand (R336, R338). What happens before its fork comes before everything that follows,
whichever of its rows the execute side has consumed (R222; DEDUCED, log 26). -/
def State.treeGate (s : State) (o : VMOps) (a : Nat) : Except (State × Option TrapInfo) State :=
  if s.cpu.due.isSome then .ok s
  else match s.forest a with
    | .error f => .error (s, some (accTrap (.vtree o) f o.q.val true s.cpu.front.vstart))
    | .ok d =>
      let s1 := { s with cpu := { s.cpu with due := some d } }
      .ok (if s.openStrip.isEmpty then s1 else s1.orderBehind s.cpu.front.instret.toNat)

/-- A tile row of a VTREE from a column on, of the forest noted. -/
def State.treeRow (s : State) (a vl c0 smp : Nat) : RowRead :=
  match (s.cpu.due).bind (forestNoted a) with
  | none => ⟨[], some ⟨.loadFault, 4, 0, a⟩, [], []⟩
  | some f => s.samples f (vl - c0) (smp + c0)

/-- The tile of a VTREE, three queue rows for each tile row (R338). -/
def treeJob (s : State) (o : VMOps) : LoadJob :=
  let fr := s.cpu.front
  { q := o.q.val, rows := fr.rc, len := fr.vl, fields := 3, joint := true
    gate := fun s _ _ => s.treeGate o (s.vmBase o)
    read := fun s r _ c0 => s.treeRow (s.vmBase o) fr.vl c0 (s.getU o.xb + r * fr.vl) }

/-- VTREE (R336–R338): with an empty tile nothing is read and nothing is checked. -/
def execVtree (o : VMOps) (s : State) : Out :=
  .next (s.whenOldest (.vtree o) fun s =>
    let i := Instr.vtree o
    let fr := s.cpu.front
    let t := fr.queueTag o.q.val
    if fr.rc != 0 && fr.vl != 0 && t != tagInt 32 && t != tagUint 32 then
      s.raise i (vTrap fr i .illegalTag (tagEval t 0))
    else s.loadJob i (treeJob s o) (fun s => s.cpu.front))

end Sys2Proof.Machine
end

