-- ==== Sys2Proof/Machine/Grammar.lean ====
section
/-! DEFINITION. The GRAMMAR class: images, configurations, contexts and pools (R321–R331). An operation acts on its
context at its fork, and its result counts as pending until it is joined. -/

namespace Sys2Proof.Machine

/-! Images (R321, R322). -/

/-- The header fields of an image. -/
structure GImage where
  base : Nat
  nclass : Nat
  nstate : Nat
  ntok : Nat
  start : Nat
  eos : Nat
  nnode : Nat
  nedge : Nat
  clsoff : Nat
  trnoff : Nat
  stoff : Nat
  nodeoff : Nat
  edgeoff : Nat
  tokoff : Nat
  size : Nat
  deriving DecidableEq, Repr

/-- The 32-bit all-ones value. -/
def none32 : Nat := 2 ^ 32 - 1

/-- A little-endian field of `n` bytes at offset `o` of a byte list. -/
def fieldAt (l : List Byte) (o n : Nat) : Nat := leNat ((l.drop o).take n)

def imageOf (base : Nat) (l : List Byte) : GImage :=
  ⟨base, fieldAt l 6 2, fieldAt l 8 4, fieldAt l 12 4, fieldAt l 16 4, fieldAt l 20 4, fieldAt l 24 4, fieldAt l 28 4,
    fieldAt l 32 8, fieldAt l 40 8, fieldAt l 48 8, fieldAt l 56 8, fieldAt l 64 8, fieldAt l 72 8, fieldAt l 80 8⟩

/-- The offsets of the header fields that break a limit of R321. -/
def GImage.badFields (g : GImage) (reserved : List Byte) : List Nat :=
  let table (o bytes : Nat) : Bool := o % 8 != 0 || g.size < o + bytes
  let checks : List (Nat × Bool) :=
    [(6, g.nclass = 0 || 256 < g.nclass), (8, g.nstate = 0 || 65535 < g.nstate), (12, g.ntok = 0 || 262144 < g.ntok),
      (16, decide (g.nstate ≤ g.start)), (20, g.eos != none32 && g.ntok ≤ g.eos), (24, g.nnode = 0 || 2 ^ 24 < g.nnode),
      (28, decide (2 ^ 24 ≤ g.nedge)), (32, table g.clsoff 256), (40, table g.trnoff (8 * g.nstate * g.nclass)),
      (48, table g.stoff (16 * g.nstate)), (56, table g.nodeoff (16 * g.nnode)), (64, table g.edgeoff (8 * g.nedge)),
      (72, table g.tokoff (4 * g.ntok)), (80, decide (g.size < 128)), (88, reserved.any (· != 0))]
  (checks.filter (fun c => c.2)).map (fun c => c.1)

/-- GRAMMAR_IMAGE with `sub` 4 at a record (R330). -/
def badRecord (a : Nat) : AccFault := ⟨.grammarImage, 4, 0, a⟩

/-- The transition of a state on a byte (R322). -/
def State.transition (s : State) (g : GImage) (st byte : Nat) : Except AccFault Nat :=
  match s.readNat (g.base + g.clsoff + byte) 1 with
  | .error e => .error e
  | .ok c =>
    if g.nclass ≤ c then .error (badRecord (g.base + g.clsoff + byte))
    else
      let a := g.base + g.trnoff + 8 * (st * g.nclass + c)
      match s.readNat a 8 with
      | .error e => .error e
      | .ok e =>
        if bitsOf e 60 48 != 0 || bitsOf e 31 16 != 0 || g.nstate ≤ e % 65536 || g.nstate ≤ bitsOf e 47 32 then
          .error (badRecord a)
        else .ok e

/-- `acc` and the bitmap offset of a state (R322). -/
def State.stateRecord (s : State) (g : GImage) (st : Nat) : Except AccFault (Bool × Nat) :=
  let a := g.base + g.stoff + 16 * st
  match s.readNat a 8, s.readNat (a + 8) 8 with
  | .error e, _ => .error e
  | _, .error e => .error e
  | .ok d0, .ok ci =>
    if 1 < d0 || (ci != 0 && (ci % 8 != 0 || g.size < ci + 16 * cdiv g.ntok 64)) then .error (badRecord a)
    else .ok (d0 = 1, ci)

/-- Edge records from number `e` on, `n` of them, each with a label not below `low` (R322). -/
def State.checkEdges (s : State) (g : GImage) (n e low : Nat) : Except AccFault Unit :=
  match n with
  | 0 => .ok ()
  | m + 1 =>
    let a := g.base + g.edgeoff + 8 * e
    match s.readNat a 8 with
    | .error f => .error f
    | .ok d =>
      if bitsOf d 31 8 != 0 || g.nnode ≤ d / 2 ^ 32 || d % 256 < low then .error (badRecord a)
      else s.checkEdges g m (e + 1) (d % 256 + 1)

/-- What the records beside its path would report, where the engine meets them: the edges of node `n`, and the token entry of `eos`
(R322). DESIGN CHOICE, log 34: the spec leaves open which records an operation meets; these it may meet or not. -/
def State.besidePath (s : State) (g : GImage) (n edge0 nedges : Nat) : Except AccFault Unit :=
  let meets (k : Nat) : Bool := Config.freeBool (2 ^ 80 + 2 ^ 40 * (2 * n + k) + s.tick)
  let eos := g.base + g.tokoff + 4 * g.eos
  let entry : Except AccFault Unit :=
    if g.eos = none32 then .ok ()
    else match s.readNat eos 4 with
      | .error f => .error f
      | .ok e => if e = none32 then .ok () else .error (badRecord eos)
  match s.checkEdges g nedges edge0 0, entry with
  | .error f, .error f2 => if meets 0 then .error f else if meets 1 then .error f2 else .ok ()
  | .error f, .ok _ => if meets 0 then .error f else .ok ()
  | .ok _, .error f => if meets 1 then .error f else .ok ()
  | .ok _, .ok _ => .ok ()

/-- The bytes of the path into a node, read up the parent links (R322); `acc` are the bytes below it. DESIGN CHOICE, log 34: which
records an operation meets is open; the nodes of the path it meets always, their edges where a free choice says so. -/
def State.nodePath (s : State) (g : GImage) (fuel n : Nat) (token : Option Nat) (acc : List Nat) :
    Except AccFault (List Nat) :=
  let a := g.base + g.nodeoff + 16 * n
  match fuel with
  | 0 => .error (badRecord a)
  | m + 1 =>
    match s.readNat a 8, s.readNat (a + 8) 8 with
    | .error e, _ => .error e
    | _, .error e => .error e
    | .ok d0, .ok d1 =>
      let ne := bitsOf d0 40 32
      let par := d1 % 2 ^ 32
      let tok := bitsOf d1 50 32
      let has := bitAt d1 63
      let entry := if has && tok < g.ntok then s.readNat (g.base + g.tokoff + 4 * tok) 4 else .ok none32
      match entry with
      | .error e => .error e
      | .ok en =>
        if bitsOf d0 47 41 != 0 || d0 / 2 ^ 56 != 0 || bitsOf d1 62 51 != 0 || 256 < ne || g.nedge < d0 % 2 ^ 32 + ne
            || (par = none32) != (n = 0) || (par != none32 && g.nnode ≤ par) || (has && (g.ntok ≤ tok || en != n))
            || (token.isSome && (!has || token != some tok)) then .error (badRecord a)
        else match s.besidePath g n (d0 % 2 ^ 32) ne with
          | .error e => .error e
          | .ok _ => if n = 0 then .ok acc else s.nodePath g m par none (bitsOf d0 55 48 :: acc)

/-- The bytes of a token, none where it has no node (R322). -/
def State.tokenPath (s : State) (g : GImage) (t : Nat) : Except AccFault (Option (List Nat)) :=
  let a := g.base + g.tokoff + 4 * t
  match s.readNat a 4 with
  | .error e => .error e
  | .ok n =>
    if n = none32 then .ok none
    else if g.nnode ≤ n then .error (badRecord a)
    else match s.nodePath g 257 n (some t) [] with
      | .error e => .error e
      | .ok l => .ok (some l)

/-! Configurations (R323). -/

/-- A configuration during a walk: state, stack, depth, and the lowest position pushed to so far. -/
structure GWalk where
  st : Nat
  stack : List Nat
  depth : Nat
  low : Option Nat
  deriving DecidableEq, Repr

/-- step of R323; none is reject. `fuel` counts the transitions that may still follow an eps one. -/
def State.gstep (s : State) (g : GImage) (byte fuel : Nat) (w : GWalk) : Except AccFault (Option GWalk) :=
  match fuel with
  | 0 => .ok none
  | m + 1 =>
    match s.transition g w.st byte with
    | .error e => .error e
    | .ok e =>
      let next := e % 65536
      let moved : Option GWalk := match bitsOf e 63 62 with
        | 0 => none
        | 1 => some { w with st := next }
        | 2 => if w.depth = 4096 then none
            else some ⟨next, bitsOf e 47 32 :: w.stack, w.depth + 1, some (min (w.low.getD w.depth) w.depth)⟩
        | _ => match w.stack with
          | [] => none
          | t :: r => some { w with st := t, stack := r, depth := w.depth - 1 }
      match moved with
      | none => .ok none
      | some w1 => if bitAt e 61 then s.gstep g byte m w1 else .ok (some w1)

/-- The bytes of a token applied in order. -/
def State.gwalk (s : State) (g : GImage) (l : List Nat) (w : GWalk) : Except AccFault (Option GWalk) :=
  match l with
  | [] => .ok (some w)
  | b :: t =>
    match s.gstep g b 8193 w with
    | .error e => .error e
    | .ok none => .ok none
    | .ok (some w1) => s.gwalk g t w1

/-- The configuration after token `t`, none where it is not admissible (R323). -/
def State.allow (s : State) (g : GImage) (c : GConf) (t : Nat) : Except AccFault (Option GWalk) :=
  match s.tokenPath g t with
  | .error e => .error e
  | .ok none => .ok none
  | .ok (some l) => s.gwalk g l ⟨c.st, c.stack, c.stack.length, none⟩

/-- complete(cfg) (R323). -/
def State.gcomplete (s : State) (g : GImage) (st : Nat) (stack : List Nat) : Except AccFault Bool :=
  if !stack.isEmpty then .ok false
  else match s.stateRecord g st with
    | .error e => .error e
    | .ok r => .ok r.1

/-! Pools (R325). -/

/-- The configurations a context holds. -/
def GCtx.confs (c : GCtx) : List GConf := c.conf :: c.ring.map (·.2)

/-- Contexts on the pool at a base. -/
def Gram.onPool (g : Gram) (base : W64) : List (Nat × GCtx) := g.ctxs.filter (fun e => e.2.pool = base)

/-- Bytes of a pool in use: records, checkpoints, distinct segments (R325). -/
def Gram.poolUsed (g : Gram) (base : W64) : Nat :=
  let l := g.onPool base
  256 * l.length + 16 * (l.map (fun e => e.2.ring.length)).sum
    + 128 * (l.flatMap (fun e => e.2.confs.flatMap GConf.segs)).eraseDups.length

/-- Bytes of a pool that a hart may use: half of it in a duplicated launch (R325). -/
def State.poolSize (s : State) (size : W64) : Nat := if s.inDup then size.toNat / 2 else size.toNat

/-- The context's new configuration after a walk: a segment that several configurations hold is copied when it is pushed
into, and segments the stack has newly reached are taken (R325). -/
def Gram.restack (g : Gram) (h : Nat) (c : GCtx) (w : GWalk) : Gram × GConf :=
  let others := (g.onPool c.pool).flatMap (fun e => (if e.1 = h then e.2.ring.map (·.2) else e.2.confs).flatMap GConf.segs)
  let r := (List.range (cdiv w.depth 64)).foldl (fun (acc : List Nat × Nat) k =>
    let keep := match c.conf.segs[k]? with
      | none => none
      | some id => if others.contains id && (match w.low with
          | some lo => lo / 64 ≤ k
          | none => false) then none else some id
    match keep with
    | some id => (acc.1 ++ [id], acc.2)
    | none => (acc.1 ++ [acc.2], acc.2 + 1)) (([] : List Nat), g.nextSeg)
  ({ g with nextSeg := r.2 }, ⟨w.st, w.stack, r.1⟩)

def Gram.setCtx (g : Gram) (h : Nat) (c : GCtx) : Gram :=
  { g with ctxs := g.ctxs.map (fun e => if e.1 = h then (h, c) else e) }

/-- Names a handle for residency (R324). -/
def Gram.use (g : Gram) (h : Nat) : Gram := { g with recency := h :: g.recency.filter (· != h) }

/-- The lowest free handle, if one is free (R327). -/
def Gram.freeHandle (g : Gram) : Option Nat :=
  (List.range 256).findSome? (fun k => if g.ctxs.any (fun e => e.1 = k + 1) then none else some (k + 1))

def Gram.drop (g : Gram) (h : Nat) : Gram :=
  { g with ctxs := g.ctxs.filter (fun e => e.1 != h), recency := g.recency.filter (· != h) }

/-- Where a hart's part of a pool begins (R325). -/
def State.poolBase (s : State) (c : GCtx) : Nat := c.pool.toNat + (if s.cpu.id.copy = 1 then c.size.toNat / 2 else 0)

/-- Physical addresses of the bytes of a pool that records occupy, those that the engine may write (R208). -/
def State.poolBytes (s : State) (c : GCtx) : List Nat :=
  (List.range (s.cpu.back.gram.poolUsed c.pool)).filterMap (fun k =>
    match s.engineByte s.cpu.ctx .store false (s.poolBase c + k) with
    | .ok pa => some pa
    | .error _ => none)

/-- The engine writes its records into the pool: bytes of a layout of its own (R325, log 9). -/
def State.writePool (s : State) (c : GCtx) : State :=
  (s.poolBytes c).foldl (fun s pa => s.agentBytes s.cpu.id.die (s.key pa) [Config.privateByte (s.key pa)]) s

/-- Whether some record byte of the pool is not what the engine wrote (R325). -/
def State.poolDamaged (s : State) (c : GCtx) : Bool :=
  (s.poolBytes c).any (fun pa => !s.poisoned (s.key pa) && readCell s.mem (s.key pa) != Config.privateByte (s.key pa))

/-- The first record byte of the pool that is uncorrectable or in a fenced frame (R189, R210). -/
def State.poolUnreadable (s : State) (c : GCtx) : Option AccFault :=
  (List.range (s.cpu.back.gram.poolUsed c.pool)).findSome? (fun k =>
    match s.engineByte s.cpu.ctx .load false (s.poolBase c + k) with
    | .ok _ => none
    | .error f => if f.cause = .dataError then some f else none)

/-- Some configuration of an image of `nstate` states, free, on segments of its own (R325). -/
def anyConf (seed nstate seg : Nat) : GConf :=
  let depth := Config.freeNat (seed + 1) % 4097
  ⟨Config.freeNat seed % nstate, (List.range depth).map (fun k => Config.freeNat (seed + 2 + k) % nstate),
    (List.range (cdiv depth 64)).map (seg + ·)⟩

/-- After damage that no check has found, the configurations of the contexts on a pool may be any of their image, whose number of states
`nstate` gives, 0 where it cannot be read (R325). -/
def Gram.scramble (g : Gram) (pool : W64) (nstate : GCtx → Nat) (tick : Nat) : Gram :=
  let conf (c : GCtx) (h n : Nat) : GConf :=
    anyConf (2 ^ 72 * (tick + 1) + 2 ^ 40 * h + 2 ^ 16 * n) (nstate c) (g.nextSeg + 4096 * h + 64 * n)
  { g with
    nextSeg := g.nextSeg + 2 ^ 21
    ctxs := g.ctxs.map (fun e =>
      if e.2.pool = pool && nstate e.2 != 0 then
        (e.1, { e.2 with conf := conf e.2 e.1 0, ring := e.2.ring.mapIdx (fun k r => (r.1, conf e.2 e.1 (k + 1))) })
      else e) }

/-! Instructions (R327–R331). -/

def State.setGram (s : State) (g : Gram) : State := s.setBack { s.cpu.back with gram := g }

/-- A precise GRAMMAR_IMAGE fault. -/
def grammarTrap (i : Instr) (sub eval : Nat) : TrapInfo := trapOf i .grammarImage eval sub

/-- The pending results without the masks and x registers that something younger overwrites: no reader joins with those any
more; a held fault stays for a WAITE of its class and for HALT (R330). -/
def Gram.overwrite (g : Gram) (masks xs : List Nat) : Gram :=
  { g with pend := (g.pend.map (fun p =>
      { p with masks := p.masks.filter (fun k => !masks.contains k)
               xreg := p.xreg.filter (fun r => !xs.contains r) })).filter GPend.counts }

/-- A pending result or held fault joins the list; older pending results of its registers are overwritten. -/
def Gram.due (g : Gram) (p : GPend) : Gram :=
  let g1 := g.overwrite p.masks p.xreg.toList
  { g1 with pend := g1.pend ++ [p] }

/-- The x result of the GRAMMAR instruction at hand. -/
def State.xResult (s : State) (d : Reg) : GPend := ⟨2, [], some d.val, none, s.cpu.front.instret.toNat⟩

/-- Completes an operation with an x result (R328). -/
def State.gresult (s : State) (i : Instr) (d : Reg) (v : Nat) : State :=
  let s1 := s.setGram (s.cpu.back.gram.due (s.xResult d))
  s1.finish i (s1.cpu.front.setX d (BitVec.ofNat 64 v))

/-- An operation that met a fault: nothing is delivered, the fault is held with the result `p` (R330); uncorrectable data is dropped
when it is found (R189). -/
def State.gheld (s : State) (i : Instr) (p : GPend) (f : AccFault) : State :=
  let s1 := s.setGram (s.cpu.back.gram.due { p with fault := some f })
  let s2 := if f.cause = .dataError then s1.dropBad f.kind f.addr else s1
  s2.finish i s2.cpu.front

/-- The image of a context: its header is sealed. -/
def State.imageAt (s : State) (base : Nat) : Except AccFault GImage :=
  match s.engineLoad base 128 with
  | .error e => .error e
  | .ok l => .ok (imageOf base l)

/-- A form on an open context (R327, R328): whether it counts as a use (R324), whether a failed context is allowed, what it checks
besides before anything changes, and the result that a held fault goes with. -/
structure GForm where
  uses : Bool := true
  freed : Bool := false
  check : State → GCtx → Option TrapInfo := fun _ _ => none
  dest : State → GCtx → GPend

/-- A form with an x result. -/
def GForm.toX (d : Reg) : GForm := { dest := fun s _ => s.xResult d }

/-- What the engine finds in the pool when an operation reads the context's records (R325): an uncorrectable record holds a fault,
damage fails the context and nothing is delivered, or goes unseen and leaves some configuration of the image. Whether a record is
read at all is open. -/
def State.readRecords (s : State) (i : Instr) (form : GForm) (h : Nat) (c : GCtx) (body : Nat → GCtx → State → State) : State :=
  match s.poolUnreadable c, s.poolDamaged c with
  | none, false => body h c s
  | some f, _ => if Config.freeBool s.tick then s.tock.gheld i (form.dest s c) f else body h c s.tock
  | none, true =>
    if Config.freeBool s.tick then
      let s1 := s.tock.setGram (s.cpu.back.gram.setCtx h { c with failed := true })
      s1.finish i s1.cpu.front
    else
      let nstate (x : GCtx) : Nat := match s.imageAt x.image.toNat with
        | .error _ => 0
        | .ok g => g.nstate
      let s1 := s.tock.setGram (s.cpu.back.gram.scramble c.pool nstate s.tick)
      body h ((mfind s1.cpu.back.gram.ctxs h).getD c) s1

/-- An operation on an open context (R328): its checks, its use, then `body` on the handle and the context. -/
def State.onContext (s : State) (i : Instr) (a : Reg) (form : GForm) (body : Nat → GCtx → State → State) : State :=
  s.whenOldest i fun s =>
    let h := s.getU a
    match mfind s.cpu.back.gram.ctxs h with
    | none => s.raise i (grammarTrap i 6 h)
    | some c =>
      if c.failed && !form.freed then s.raise i (grammarTrap i 5 h)
      else match form.check s c with
        | some t => s.raise i t
        | none =>
          let s := if form.uses then s.setGram (s.cpu.back.gram.use h) else s
          if form.freed then body h c s else s.readRecords i form h c body

/-- The lowest byte of the pages from `a` to `e` − 1 that an access cannot reach. -/
def State.firstBad (s : State) (k : Access) (n a e : Nat) : Option AccFault :=
  match n with
  | 0 => none
  | m + 1 =>
    if e ≤ a then none
    else match s.engineByte s.cpu.ctx k false (a % 2 ^ 64) with
      | .error f => some f
      | .ok _ => s.firstBad k m ((a / 65536 + 1) * 65536) e

/-- Some page from `a` to `e` − 1 lies in a vitrine entry that is not free (R325). -/
def State.meetsVitrine (s : State) (n a e : Nat) : Bool :=
  match n with
  | 0 => false
  | m + 1 =>
    if e ≤ a then false
    else (match s.translate s.cpu.ctx .load a with
      | .ok pa => s.isLocal pa && (s.vitrineAt (pa % pkgSpan)).isSome
      | .error _ => false) || s.meetsVitrine m ((a / 65536 + 1) * 65536) e

/-- Two pools that may not be in use together (R325). -/
def poolConflict (b1 s1 b2 s2 : Nat) : Bool := b1 < b2 + s2 && b2 < b1 + s1 && !(b1 = b2 && s1 = s2)

/-- One of a list, by free choice. -/
def State.pick (s : State) (l : List Nat) : Option Nat := l[s.draw % l.length]?

/-- The checks of GOPEN in their order (R328): the trap, or the image. Of several fields that break a check the spec names
none: free (log 6). -/
def State.gopenChecks (s : State) (i : Instr) (base pool size : Nat) : Except TrapInfo GImage :=
  if base % 64 != 0 then .error (grammarTrap i 1 base)
  else match s.engineLoad base 128 with
    | .error f => .error (accTrap i f 15 false 0)
    | .ok l =>
      let g := imageOf base l
      let wrong := (if fieldAt l 0 4 != 0x474D4B31 then [0] else []) ++ (if fieldAt l 4 2 != 1 then [4] else [])
      let broken := g.badFields (l.drop 88)
      match s.pick wrong, s.pick broken with
        | some o, _ => .error (grammarTrap i 2 (base + o))
        | none, some o => .error (grammarTrap i 3 (base + o))
        | none, none =>
          match s.firstBad .load (g.size / 65536 + 2) (base + 128) (base + g.size) with
          | some f => .error (accTrap i f 15 false 0)
          | none =>
            let inside := match s.sealedAt base with
              | some v => s.inVitrine v.1 base g.size
              | none => false
            if !inside then .error (grammarTrap i 1 base)
            else if pool % 4096 != 0 || size % 4096 != 0 || size < 65536 || 2 ^ 32 < size
                || s.meetsVitrine (size / 65536 + 2) pool (pool + size)
                || s.cpu.back.gram.ctxs.any (fun e => poolConflict pool size e.2.pool.toNat e.2.size.toNat) then
              .error (grammarTrap i 7 pool)
            else match s.firstBad .store (size / 65536 + 2) pool (pool + size) with
              | some f => .error (accTrap i f 15 false 0)
              | none => .ok g

/-- GOPEN (R327–R329). -/
def execGopen (d a b c : Reg) (s : State) : Out :=
  .next (s.whenOldest (.gopen d a b c) fun s =>
    let i := Instr.gopen d a b c
    match s.gopenChecks i (s.getU a) (s.getU b) (s.getU c) with
    | .error t => s.raise i t
    | .ok g =>
      let gr := s.cpu.back.gram
      match gr.freeHandle with
      | none => s.gresult i d 0
      | some h =>
        let ctx : GCtx := ⟨s.getX a, s.getX b, s.getX c, ⟨g.start, [], []⟩, [], 0, 1, false⟩
        if s.poolSize ctx.size < gr.poolUsed ctx.pool + 256 then s.gresult i d 0
        else
          let s1 := s.setGram ({ gr with ctxs := minsert gr.ctxs h ctx }.use h)
          (s1.writePool ctx).gresult i d h)

/-- What GADV does to a context (R329): its result, and the grammar state after it. -/
def State.advance (s : State) (h : Nat) (c : GCtx) (t : Nat) : Except AccFault (Nat × Gram) :=
  let gr := s.cpu.back.gram
  match s.imageAt c.image.toNat with
  | .error e => .error e
  | .ok g =>
    if t = g.eos && g.eos != none32 then
      match s.gcomplete g c.conf.st c.conf.stack with
      | .error e => .error e
      | .ok b => .ok (if b then 2 else 0, gr)
    else if g.ntok ≤ t then .ok (0, gr)
    else match s.allow g c.conf t with
      | .error e => .error e
      | .ok none => .ok (0, gr)
      | .ok (some w) =>
        match s.gcomplete g w.st w.stack with
        | .error e => .error e
        | .ok b =>
          let r := gr.restack h c w
          let g1 := r.1.setCtx h { c with conf := r.2 }
          if s.poolSize c.size < g1.poolUsed c.pool then .ok (3, gr) else .ok (if b then 2 else 1, g1)

/-- GADV (R329). -/
def execGadv (d a b : Reg) (s : State) : Out :=
  .next (s.onContext (.gadv d a b) a (.toX d) fun h c s =>
    match s.advance h c (s.getU b) with
    | .error f => s.gheld (.gadv d a b) (s.xResult d) f
    | .ok (v, g) => ((s.setGram g).writePool c).gresult (.gadv d a b) d v)

/-- The mask bits of tokens `t` to `t` + `n` − 1 (R330). -/
def State.tokenBits (s : State) (g : GImage) (c : GConf) (ci n t : Nat) : Except AccFault (List Bool) :=
  match n with
  | 0 => .ok []
  | m + 1 =>
    let words := 8 * cdiv g.ntok 64
    let bit (off : Nat) : Except AccFault Bool :=
      if ci = 0 then .ok false
      else match s.readNat (g.base + off + t / 8) 1 with
        | .error e => .error e
        | .ok b => .ok (b / 2 ^ (t % 8) % 2 = 1)
    let here : Except AccFault Bool := match bit ci with
      | .error e => .error e
      | .ok true => .ok true
      | .ok false => match bit (ci + words) with
        | .error e => .error e
        | .ok true => .ok false
        | .ok false =>
          if t = g.eos then s.gcomplete g c.st c.stack
          else match s.allow g c t with
            | .error e => .error e
            | .ok w => .ok w.isSome
    match here with
    | .error e => .error e
    | .ok b => match s.tokenBits g c ci m (t + 1) with
      | .error e => .error e
      | .ok l => .ok (b :: l)

/-- All token bits of a configuration. -/
def State.maskBits (s : State) (g : GImage) (c : GConf) : Except AccFault (List Bool) :=
  match s.stateRecord g c.st with
  | .error e => .error e
  | .ok r => s.tokenBits g c r.2 g.ntok 0

/-- How many masks GMASK writes (R330). -/
def gmaskCount (g : GImage) (vl : Nat) : Nat := cdiv g.ntok (16 * vl)

/-- The masks whose result a GMASK delivers; of an image that cannot be read, the first. -/
def State.gmaskDest (s : State) (md : Nat) (c : GCtx) : GPend :=
  let n := match s.imageAt c.image.toNat with
    | .error _ => 1
    | .ok g => gmaskCount g s.cpu.front.vl
  ⟨0, (List.range (min (16 - md) n)).map (md + ·), none, none, s.cpu.front.instret.toNat⟩

/-- The shape check of GMASK and of GMASK.M from `ms` (R330). -/
def State.gmaskShape (s : State) (i : Instr) (md : Nat) (ms : Option Nat) (c : GCtx) : Option TrapInfo :=
  let vl := s.cpu.front.vl
  match s.imageAt c.image.toNat with
  | .error _ => none
  | .ok g =>
    let n := gmaskCount g vl
    let far (k : Nat) : Bool := 15 < k + n - 1
    let clash := match ms with
      | none => false
      | some k => far k || (k != md && k < md + n && md < k + n)
    if vl != 0 && (far md || clash) then some (trapOf i .shapeViolation (shapeEval md n) 0) else none

/-- GMASK, and GMASK.M with its source masks (R330). -/
def State.gmaskTo (s : State) (i : Instr) (md : Nat) (ms : Option Nat) (c : GCtx) : State :=
  let vl := s.cpu.front.vl
  let dest := s.gmaskDest md c
  match s.imageAt c.image.toNat with
  | .error f => s.gheld i dest f
  | .ok g =>
    if vl = 0 then s.finish i s.cpu.front
    else match s.maskBits g c.conf with
      | .error f => s.gheld i dest f
      | .ok l =>
        let b := s.cpu.back
        let m1 := upto (16 * gmaskCount g vl * vl) (fun t m =>
          let q := t / vl
          let src := match ms with
            | none => true
            | some k => maskBit b.m (k + q / 16) (q % 16) (t % vl)
          setMaskBit m (md + q / 16) (q % 16) (t % vl) (l.getD t false && src)) b.m
        (s.setBack { b with m := m1, gram := b.gram.due dest }).finish i s.cpu.front

/-- The two forms of GMASK. -/
def State.gmask (s : State) (i : Instr) (md : Nat) (a : Reg) (ms : Option Nat) : State :=
  s.onContext i a { check := fun s c => s.gmaskShape i md ms c, dest := fun s c => s.gmaskDest md c }
    fun _ c s => s.gmaskTo i md ms c

/-- GMASK (R330). -/
def execGmask (md : Fin 16) (a : Reg) (s : State) : Out := .next (s.gmask (.gmask md a) md.val a none)

/-- GMASK.M (R330). -/
def execGmaskM (md : Fin 16) (a : Reg) (ms : Fin 16) (s : State) : Out := .next (s.gmask (.gmaskM md a ms) md.val a (some ms.val))

/-- GCKPT (R326). -/
def execGckpt (d a : Reg) (s : State) : Out :=
  .next (s.onContext (.gckpt d a) a (.toX d) fun h c s =>
    let n := c.latest + 1
    let oldest := max c.oldest (n - 15)
    let c1 := { c with ring := (c.ring.filter (fun e => oldest ≤ e.1)) ++ [(n, c.conf)], latest := n, oldest := oldest }
    let g1 := s.cpu.back.gram.setCtx h c1
    if s.poolSize c.size < g1.poolUsed c.pool then s.gresult (.gckpt d a) d 0
    else ((s.setGram g1).writePool c1).gresult (.gckpt d a) d n)

/-- GROLL (R326). -/
def execGroll (d a b : Reg) (s : State) : Out :=
  .next (s.onContext (.groll d a b) a (.toX d) fun h c s =>
    let n := s.getU b
    match mfind c.ring n with
    | none => s.gresult (.groll d a b) d 1
    | some conf =>
      if n < c.oldest || c.latest < n then s.gresult (.groll d a b) d 1
      else
        let c1 := { c with conf := conf, ring := c.ring.filter (fun e => e.1 ≤ n), latest := n }
        ((s.setGram (s.cpu.back.gram.setCtx h c1)).writePool c1).gresult (.groll d a b) d 0)

/-- GFORK (R325, R326). -/
def execGfork (d a : Reg) (s : State) : Out :=
  .next (s.onContext (.gfork d a) a (.toX d) fun _ c s =>
    let g := s.cpu.back.gram
    match g.freeHandle with
    | none => s.gresult (.gfork d a) d 0
    | some k =>
      let g1 := { g with ctxs := minsert g.ctxs k c }
      if s.poolSize c.size < g1.poolUsed c.pool then s.gresult (.gfork d a) d 0
      else ((s.setGram (g1.use k)).writePool c).gresult (.gfork d a) d k)

/-- GFREE (R328): allowed on a failed context. -/
def execGfree (a : Reg) (s : State) : Out :=
  .next (s.onContext (.gfree a) a { freed := true, dest := fun s _ => s.xResult 0 } fun h _ s =>
    let s1 := s.setGram (s.cpu.back.gram.drop h)
    s1.finish (.gfree a) s1.cpu.front)

/-- The items of GSTAT (R331). -/
def State.gstatItem (s : State) (h : Nat) (c : GCtx) (sel : Nat) : Except AccFault Nat :=
  let g := s.cpu.back.gram
  match sel with
  | 0 => .ok c.conf.st
  | 1 => .ok c.conf.stack.length
  | 2 => .ok (match c.conf.stack with
    | [] => 2 ^ 64 - 1
    | t :: _ => t)
  | 3 => .ok c.latest
  | 4 => .ok c.oldest
  | 5 => match s.imageAt c.image.toNat with
    | .error e => .error e
    | .ok im => match s.gcomplete im c.conf.st c.conf.stack with
      | .error e => .error e
      | .ok b => .ok (b.toNat + 2 * c.failed.toNat + 4 * ((g.recency.take (2 * s.cpu.id.share)).contains h).toNat)
  | 6 => .ok c.image.toNat
  | 7 => .ok (s.poolSize c.size - g.poolUsed c.pool)
  | _ => match s.imageAt c.image.toNat with
    | .error e => .error e
    | .ok im => .ok im.ntok

/-- GSTAT (R331). -/
def execGstat (d a : Reg) (sel : Reg) (s : State) : Out :=
  .next (s.onContext (.gstat d a sel) a { GForm.toX d with uses := false } fun h c s =>
    match s.gstatItem h c sel.val with
    | .error f => s.gheld (.gstat d a sel) (s.xResult d) f
    | .ok v => s.gresult (.gstat d a sel) d v)

end Sys2Proof.Machine
end

