-- ==== Sys2Proof/Machine/Sys.lean ====
section
/-! DEFINITION. ECALL, EBREAK, ERET, the system register instructions, TLBINV and ICINV.R (R180–R192, R302, R353), and
H.BRK (R80). -/

namespace Sys2Proof.Machine

/-- ECALL (R190). -/
def execEcall (s : State) : Out := .next (s.raise .ecall (trapOf .ecall .ecall 0 0))
/-- EBREAK (R190). -/
def execEbreak (s : State) : Out := .next (s.raise .ebreak (trapOf .ebreak .breakpoint 0 0))
/-- H.BRK (R80). -/
def execHBrk (s : State) : Out := .next (s.raise .hBrk (trapOf .hBrk .breakpoint 0 0))

/-- ERET (R190): outside a handler it is illegal. -/
def execEret (s : State) : Out :=
  .next (if !bitAt s.cpu.front.estat.toNat 0 then s.raise .eret (illegalOf .eret)
    else s.whenOldest .eret State.returnFromTrap)

/-- The system registers of R181 that any hart reads; therm is the sensor of the core the hart runs on (R370). -/
def State.sysGet (s : State) (n : Nat) : W64 :=
  let f := s.cpu.front
  match n with
  | 0x000 => f.epc
  | 0x001 => f.ecause
  | 0x002 => f.eval
  | 0x003 => f.estat
  | 0x004 => BitVec.ofNat 64 f.evstart
  | 0x005 => f.tvec
  | 0x006 => f.ehold0
  | 0x007 => f.ehold1
  | 0x010 => f.rmode.setWidth 64
  | 0x011 => truth f.gshape
  | 0x020 => f.lcid.setWidth 64
  | 0x021 => f.cycle
  | 0x022 => s.cpu.retired
  | 0x023 => (s.core s.cpu.id.die s.cpu.id.core).therm.setWidth 64
  | 0x030 => f.mreq
  | 0x031 => f.esave
  | 0x032 => f.qslim.setWidth 64
  | 0x033 => f.acch
  | _ => 0

/-- Read-only registers (R181). -/
def sysReadOnly (n : Nat) : Bool := [0x001, 0x003, 0x020, 0x021, 0x022, 0x023, 0x030].contains n

/-- Privileged registers (R181). -/
def sysPrivileged (n : Nat) : Bool := [0x031, 0x032, 0x033].contains n

/-- The registers with register `n` written, or none for a refused value (R181). -/
def Front.sysPut (f : Front) (n : Nat) (v : W64) : Option Front :=
  let even := v &&& ~~~(1 : W64)
  match n with
  | 0x000 => some { f with epc := even }
  | 0x002 => some { f with eval := v }
  | 0x004 => if v.toNat < 2 ^ 20 then some { f with evstart := v.toNat } else none
  | 0x005 => some { f with tvec := even }
  | 0x006 => some { f with ehold0 := v }
  | 0x007 => some { f with ehold1 := v }
  | 0x010 => if v.toNat < 5 then some { f with rmode := v.setWidth 3 } else none
  | 0x011 => some { f with gshape := bitAt v.toNat 0 }
  | 0x031 => some { f with esave := v }
  | 0x032 => if v.toNat < 2 ^ 32 then some { f with qslim := v.setWidth 32 } else none
  | 0x033 => if v.toNat < 16 then some { f with acch := v } else none
  | _ => none

/-- A write of a system register: the checks of R181, then the register, then x[d] := old. -/
def State.sysWrite (s : State) (i : Instr) (d a : Reg) (num : BitVec 11) (g : W64 → W64 → W64) : State :=
  let n := num.toNat
  let old := s.sysGet n
  if sysReadOnly n then s.raise i (protectOf i 1)
  else if sysPrivileged n && !s.cpu.id.priv then s.raise i (protectOf i 2)
  else match s.cpu.front.sysPut n (g old (s.getX a)) with
    | none => s.raise i (illegalOf i)
    | some f => (s.setFront f).compute i.len d old

/-- SRD (R190). -/
def execSrd (d : Reg) (num : BitVec 11) (s : State) : Out := .next (s.compute 4 d (s.sysGet num.toNat))

/-- SWR (R190). -/
def execSwr (d a : Reg) (num : BitVec 11) (s : State) : Out :=
  .next (s.sysWrite (.swr d a num) d a num (fun _ x => x))
/-- SRSET (R190). -/
def execSrset (d a : Reg) (num : BitVec 11) (s : State) : Out :=
  .next (s.sysWrite (.srset d a num) d a num (fun old x => old ||| x))
/-- SRCLR (R190). -/
def execSrclr (d a : Reg) (num : BitVec 11) (s : State) : Out :=
  .next (s.sysWrite (.srclr d a num) d a num (fun old x => old &&& ~~~x))

/-- A privileged instruction (R52): PROTECTION with `sub` 0 in a hart without the attribute. -/
def State.privileged (s : State) (i : Instr) (body : State → State) : State :=
  if s.cpu.id.priv then body s else s.raise i (protectOf i 0)

/-- Cached leaves that a TLBINV drops (R302). -/
def tlbMatch (va sel : Nat) (e : TlbEnt) : Bool :=
  match bitsOf sel 13 12 with
  | 0 => e.asid = sel % 4096 && va < 2 ^ 56 && e.base ≤ va && va < e.base + e.size
  | 1 => e.asid = sel % 4096
  | _ => true

/-- TLBINV (R302): it waits for the engine accesses still to come that were translated by a leaf it drops. -/
def execTlbinv (a b : Reg) (s : State) : Out :=
  .next (s.privileged (.tlbinv a b) fun s => s.whenOldest (.tlbinv a b) fun s =>
    let sel := s.getU b
    if 2 ^ 14 ≤ sel || bitsOf sel 13 12 = 3 then s.raise (.tlbinv a b) (illegalOf (.tlbinv a b))
    else if s.pkg.jobs.any (fun j => j.leaves.any (tlbMatch (s.getU a) sel)) then s.block .engine
    else
      let drop := { s with pkg := { s.pkg with tlb := s.pkg.tlb.filter (fun e => !tlbMatch (s.getU a) sel e) } }
      drop.retire 4)

/-- Translation of ICINV.R (R353): a leaf that grants `rd` or `ex`. -/
def State.translateInv (s : State) (va : Nat) : Except AccFault Nat :=
  if 2 ^ 56 ≤ va then .error ⟨.loadFault, 0, 0, va⟩
  else match s.leafFor s.cpu.ctx .load va with
    | .error f => .error f
    | .ok (e, l) =>
      if (bitAt e 4 || bitAt e 6) && (!bitAt e 7 || s.cpu.id.priv) then .ok (e / 4096 * 4096 + va % leafSpan l)
      else .error ⟨.loadFault, 1, 0, va⟩

/-- Invalidates the 128-byte lines, in every core, that hold part of `n` bytes at a physical address; no line of another
package is cached (R205). -/
def State.dropLines (s : State) (pa n : Nat) : State := if s.isLocal pa then s.dropCode none (pa % pkgSpan) n else s

/-- The pages of a range in ascending order: the lines of those below a fault stay invalidated (R353). -/
def State.invPages (s : State) (va n : Nat) (pages : List Nat) : State × Option AccFault :=
  match pages with
  | [] => (s, none)
  | p :: t =>
    let lo := if p = 0 then 0 else p * 65536 - va % 65536
    let hi := min n ((p + 1) * 65536 - va % 65536)
    match s.translateInv ((va + lo) % 2 ^ 64) with
    | .error f => (s, some f)
    | .ok pa => (s.dropLines pa (hi - lo)).invPages va n t

/-- ICINV.R (R353). -/
def execIcinvR (a b : Reg) (s : State) : Out :=
  .next (s.privileged (.icinvR a b) fun s => s.whenOldest (.icinvR a b) fun s =>
    let n := s.getU b
    let va := s.getU a
    if n = 0 then s.retire 4
    else if 2 ^ 32 < n then s.raise (.icinvR a b) (illegalOf (.icinvR a b))
    else match s.invPages va n (List.range (cdiv (va % 65536 + n) 65536)) with
      | (s1, some f) => s1.raise (.icinvR a b) (accTrap (.icinvR a b) f 15 false 0)
      | (s1, none) => s1.retire 4)

end Sys2Proof.Machine
end

