-- ==== Sys2Proof/Machine/Vitrine.lean ====
section
/-! DEFINITION. Completion words, and the vitrine region table with its instructions and the work they start (R303–R310,
R365). -/

namespace Sys2Proof.Machine

/-- An increment of the completion word at memory key `k` is a release write that covers what forked its operation (R223): the
oldest fork that waits for that word. -/
def Back.forkDone (b : Back) (k : Nat) : Back :=
  { b with rels := replaceFirst (fun r => r.kind = .fork && r.bytes.contains k) (fun r => { r with kind := .write }) b.rels }

/-- A completion word at a physical address is incremented by 1 modulo 2^64 (R223, R365), if it can still be written; uncorrectable
data in it is dropped (R210). -/
def State.bumpWord (s : State) (d pa : Nat) : State :=
  match s.checkPhys d .amo true 0 pa with
  | some f => if f.cause = .dataError then s.dropBad f.kind f.addr else s
  | none =>
    let old := leNat ((List.range 8).map (fun k => s.physByte d (pa + k)))
    let s1 := s.physWriteList .management d ((List.range 8).map (pa + ·)) (leBytes 8 (old + 1))
    let f (h : Hart) : Hart := { h with back := h.back.forkDone (s.key pa) }
    { s1 with cpu := f s1.cpu, others := s1.others.map f }

def State.bumpOpt (s : State) (d : Nat) (pa : Option Nat) : State :=
  match pa with
  | some a => s.bumpWord d a
  | none => s

def State.vitrine (s : State) (v : Nat) : Vitrine := mget Vitrine.free s.pkg.vitrines v

def State.setVitrine (s : State) (v : Nat) (x : Vitrine) : State :=
  { s with pkg := { s.pkg with vitrines := mset Vitrine.free s.pkg.vitrines v x } }

def State.addJob (s : State) (j : Job) : State := { s with pkg := { s.pkg with jobs := s.pkg.jobs ++ [j] } }

/-- The lowest free entry of the table (R307). -/
def State.freeVitrine (s : State) : Option Nat := (List.range 256).find? (fun v => (s.vitrine v).state = 0)

/-- The range lies wholly in the populated part of one HBM window, or in the second tier (R202, R306). -/
def vitrineRange (tier : Bool) (base size : Nat) : Bool :=
  (base < 12 * gib64 && base % gib64 + size ≤ 64000000000) || (tier && tierBase ≤ base && base + size ≤ tierEnd)

def overlaps (a n b m : Nat) : Bool := a < b + m && b < a + n

/-- A completion word operand (R306): its physical address, none for 0, or the fault of a misaligned or unwritable one. -/
def State.cwordAt (s : State) (va : Nat) : Except AccFault (Option Nat) :=
  if va = 0 then .ok none
  else if va % 8 != 0 then .error ⟨.storeFault, 4, 0, va⟩
  else match s.byteAccess s.cpu.ctx .store true va with
    | .error f => .error f
    | .ok pa => .ok (some pa)

/-- An attestation block operand (R308): 256 bytes, aligned to 256. -/
def State.blockAt (s : State) (va : Nat) : Except AccFault Nat :=
  if va % 256 != 0 then .error ⟨.storeFault, 4, 0, va⟩
  else match s.accessBytes s.cpu.ctx .store true (vaRange va 256) with
    | .error f => .error f
    | .ok pas => .ok (pas.headD 0)

/-- The leaf that a store to a virtual address uses (R302). -/
def State.leafUsed (s : State) (va : Nat) : List TlbEnt :=
  let c := s.cpu.ctx
  match s.leafFor c .store va with
  | .error _ => []
  | .ok (e, l) => [⟨c.root % 4096, va / leafSpan l * leafSpan l, leafSpan l, BitVec.ofNat 64 e⟩]

/-- The leaf that a completion word operand uses; none for no word. -/
def State.wordLeaf (s : State) (va : Nat) : List TlbEnt := if va = 0 then [] else s.leafUsed va

/-- The completion word checked, then `body` with its physical address. -/
def State.withCword (s : State) (i : Instr) (c : Reg) (body : Option Nat → State) : State :=
  match s.cwordAt (s.getU c) with
  | .error f => s.raise i (accTrap i f 15 false 0)
  | .ok w => body w

/-- VTSEAL (R306, R307). -/
def execVtseal (d a b c : Reg) (s : State) : Out :=
  .next (s.privileged (.vtseal d a b c) fun s => s.whenOldest (.vtseal d a b c) fun s =>
    let i := Instr.vtseal d a b c
    let base := s.getU a
    let size := s.getU b
    let p := s.cpu.front.acch.toNat % 16
    let accHit := s.pkg.parts.toList.any (fun x =>
      x.lcap != 0 && overlaps base size x.labase.toNat (4096 + 128 * 2 ^ x.lcap))
    if s.inDup then s.raise i (protectOf i 3)
    else if base % mib64 != 0 || size = 0 || size % mib64 != 0 || 4096 * mib64 < size || !vitrineRange s.pkg.tierOk base size || accHit then
      s.raise i (protectOf i 5)
    else if s.pkg.vitrines.any (fun e => e.2.state != 0 && overlaps base size e.2.base (e.2.units * mib64)) then
      s.raise i (protectOf i 4)
    else match s.freeVitrine with
      | none => s.raise i (protectOf i 6)
      | some v =>
        if (s.part p).lcap = 0 then s.raise i (trapOf i .storeFault p 9)
        else s.withCword i c fun w =>
          let (q, k) := s.launchOf
          let s1 := s.setVitrine v { s.vitrine v with state := 1, base := base, units := size / mib64 }
          ((s1.addJob ⟨0, v, 0, w, p, s.cpu.id.addr, q, k, s.wordLeaf (s.getU c)⟩).noteRelease .fork w.toList).compute 8 d (BitVec.ofNat 64 v))

/-- VTATT (R306, R308); copy 1 of a duplicated launch writes no block (R288). -/
def execVtatt (a b c : Reg) (s : State) : Out :=
  .next (s.privileged (.vtatt a b c) fun s => s.whenOldest (.vtatt a b c) fun s =>
    let i := Instr.vtatt a b c
    let v := s.getU a
    if 255 < v then s.raise i (protectOf i 5)
    else if (s.vitrine v).state = 0 || (s.vitrine v).state = 3 then s.raise i (protectOf i 4)
    else s.withCword i c fun w =>
      match s.blockAt (s.getU b) with
      | .error f => s.raise i (accTrap i f 15 false 0)
      | .ok pa =>
        let job : Job := ⟨2, v, pa, w, 0, 0, 0, 0, s.leafUsed (s.getU b) ++ s.wordLeaf (s.getU c)⟩
        ((if s.secondCopy then s else s.addJob job).noteRelease .fork w.toList).retire 8)

/-- VTDROP (R306, R309). -/
def execVtdrop (a c : Reg) (s : State) : Out :=
  .next (s.privileged (.vtdrop a c) fun s => s.whenOldest (.vtdrop a c) fun s =>
    let i := Instr.vtdrop a c
    let v := s.getU a
    if s.inDup then s.raise i (protectOf i 3)
    else if 255 < v then s.raise i (protectOf i 5)
    else if ((s.vitrine v).state != 2 && (s.vitrine v).state != 4) || (s.vitrine v).pins != 0 then s.raise i (protectOf i 4)
    else s.withCword i c fun w =>
      (((s.setVitrine v { s.vitrine v with state := 3 }).addJob ⟨1, v, 0, w, 0, 0, 0, 0, s.wordLeaf (s.getU c)⟩).noteRelease .fork w.toList).retire 8)

/-- The items of VTQRY on an entry (R310). -/
def Vitrine.item (e : Vitrine) (sel : Nat) : Nat :=
  match sel with
  | 0 => e.pins * 2 ^ 48 + e.units * 2 ^ 32 + e.state
  | 1 => e.base
  | 2 => e.units * mib64
  | _ => beDouble (digestBytes e.digest) (sel - 3)

/-- VTQRY (R306, R310). -/
def execVtqry (d a : Reg) (sel : Reg) (s : State) : Out :=
  .next (s.privileged (.vtqry d a sel) fun s =>
    let i := Instr.vtqry d a sel
    let v := s.getU a
    if 12 ≤ sel.val then s.raise i (protectOf i 5)
    else if sel.val = 11 then
      s.compute 8 d (match s.vitrineAt v with
        | some e => BitVec.ofNat 64 e.1
        | none => BitVec.ofNat 64 (2 ^ 64 - 1))
    else if 255 < v then s.raise i (protectOf i 5)
    else s.compute 8 d (BitVec.ofNat 64 ((s.vitrine v).item sel.val)))

/-! The work that goes on by itself. -/

def State.dropJob (s : State) (kind v : Nat) : State :=
  { s with pkg := { s.pkg with jobs := s.pkg.jobs.filter (fun j => !(j.kind = kind && j.v = v)) } }

/-- Some frame of a local range that lies in one HBM window or in the second tier is fenced (R305). -/
def State.rangeFenced (s : State) (a n : Nat) : Bool :=
  s.pkg.fences.any (fun f => a < f * 65536 + 65536 && f * 65536 < a + n)
    || (List.range (min (cdiv n 65536) 12)).any (fun k => s.fencedWhole (a + 65536 * k))

/-- A double-bit error arises somewhere in a local range of 8-byte units. -/
def State.upsetIn (s : State) (a n : Nat) : State :=
  { s with
    pkg := { s.pkg with poison := (a / 8 + s.draw % (n / 8)) :: s.pkg.poison }
    tick := s.tick + 1 }

/-- Step 2 of R307: every dirty L2 line of a local range is written back and every write to it has performed, so that no later read,
vector reads of an open strip interval among them, finds what was there before (R227). -/
def State.performRange (s : State) (a n : Nat) : State :=
  let inside (k : Nat) : Bool := a ≤ k && k < a + n
  let f (h : Hart) : Hart := { h with back := { h.back with strip := h.back.strip.map (fun w => w.settle inside) } }
  { s with
    cpu := f s.cpu
    others := s.others.map f
    pkg := { s.pkg with l2 := s.pkg.l2.map (fun e => if inside (e.1 * 128) then (e.1, { e.2 with dirty := none }) else e) } }

/-- SEAL_COMPLETION (R307): the writes to the range of entry `v` have performed and the digest pass ends; `corrupt` says that it meets
uncorrectable data, at a place that is free where none is known. A range with a fenced frame fails as well (R311). -/
def execSealCompletion (v : Nat) (corrupt : Bool) (s : State) : Out :=
  .next (
    match s.pkg.jobs.find? (fun j => j.kind = 0 && j.v = v) with
    | none => s
    | some j =>
      let e := s.vitrine v
      let n := e.units * mib64
      let s := s.performRange e.base n
      if corrupt || !(s.badWords e.base n).isEmpty || s.rangeFenced e.base n then
        let s0 := if corrupt && (s.badWords e.base n).isEmpty then s.upsetIn e.base n else s
        let s1 := s0.sweep e.base n
        ((s1.setVitrine v { e with state := 4 }).dropJob 0 v).bumpOpt 0 j.cword
      else if (s.part j.part).full 1 then s
      else
        let dig := sha512 (readCells s.mem e.base n)
        let seq := (s.part j.part).lnext
        let s1 := s.appendRecord j.part (recordBytes 2 j.hart v j.wq e.base 0 j.launch n dig)
        ((s1.setVitrine v { e with state := 2, digest := dig, vseq := seq }).dropJob 0 v).bumpOpt 0 j.cword)

/-- DROP_COMPLETION (R309): the range is zero and the entry free. -/
def execDropCompletion (v : Nat) (s : State) : Out :=
  .next (
    match s.pkg.jobs.find? (fun j => j.kind = 1 && j.v = v) with
    | none => s
    | some j =>
      let e := s.vitrine v
      let n := e.units * mib64
      let s0 := s.putBytes (homeDie e.base) e.base (List.replicate n 0)
      let s1 := { s0 with pkg := { s0.pkg with poison := s.pkg.poison.filter (fun w => !(s.badWords e.base n).contains w) } }
      ((s1.setVitrine v { e with state := 0 }).dropJob 1 v).bumpOpt 0 j.cword)

/-- Part of the range of a dropping entry has been zeroed (R309): a read meets sealed content or zero, byte by byte (R227). -/
def State.dropProgress (s : State) (v first len : Nat) : State :=
  let e := s.vitrine v
  if e.state = 3 && s.pkg.jobs.any (fun j => j.kind = 1 && j.v = v) then
    s.putBytes (homeDie e.base) (e.base + first) (List.replicate (min len (e.units * mib64 - first)) 0)
  else s

/-- The attestation block of an entry (R308). -/
def State.attestation (s : State) (v : Nat) : List Byte :=
  let e := s.vitrine v
  let body := leBytes 8 (v + 256 * e.state) ++ leBytes 8 e.base ++ leBytes 8 (e.units * mib64) ++ digestBytes e.digest
    ++ leBytes 8 e.vseq.toNat ++ leBytes 8 s.ownPkg
  body ++ (if e.state = 4 then List.replicate 132 0 else signature body) ++ List.replicate 20 0

/-- Removes the first element that satisfies `p`. -/
def eraseFirst {α : Type} (p : α → Bool) (l : List α) : List α :=
  match l with
  | [] => []
  | x :: t => if p x then t else x :: eraseFirst p t

/-- ATTESTATION_BLOCK (R308): the first attestation whose entry is no longer being sealed is written. -/
def execAttestationBlock (s : State) : Out :=
  .next (
    let ready (j : Job) : Bool := j.kind = 2 && (s.vitrine j.v).state != 1
    match s.pkg.jobs.find? ready with
    | none => s
    | some j =>
      let s1 := match s.checkPhys 0 .store true 0 j.block with
        | some _ => s
        | none => s.physWriteList .management 0 ((List.range 256).map (j.block + ·)) (s.attestation j.v)
      ({ s1 with pkg := { s1.pkg with jobs := eraseFirst ready s1.pkg.jobs } }).bumpOpt 0 j.cword)

end Sys2Proof.Machine
end

