-- ==== Sys2Proof/Machine/Place.lean ====
section
/-! DEFINITION. Where harts stand: slot addresses, free shares, placement, families of a hart and its FORK children, the
instruction boundary, and the move of a hart to another core (R11, R14, R24, R27, R119, R185, R196, R276, R285, R392–R394). -/

namespace Sys2Proof.Machine

/-! Addresses of slots (R11, R267, R394). -/

def slotKey (d core slot : Nat) : Nat := (128 * d + core) * 4 + slot

/-- The address a physical slot carries: lcid and logical slot. -/
def State.slotAddr (s : State) (d core slot : Nat) : Nat × Nat :=
  (mfind s.pkg.slots (slotKey d core slot)).getD ((s.core d core).lcid, slot)

def State.setSlotAddr (s : State) (d core slot : Nat) (a : Nat × Nat) : State :=
  { s with pkg := { s.pkg with slots := minsert s.pkg.slots (slotKey d core slot) a } }

/-- Two slots of a die exchange their addresses (R394). -/
def State.swapSlots (s : State) (d : Nat) (a b : Nat × Nat) : State :=
  let x := s.slotAddr d a.1 a.2
  let y := s.slotAddr d b.1 b.2
  (s.setSlotAddr d a.1 a.2 y).setSlotAddr d b.1 b.2 x

/-- A share leaves slots `a` for slots `b` of a die, `n` slots each. A whole share that moves to a core without a resident
hart exchanges the two cores' lcids as well (R394). -/
def State.swapShare (s : State) (d : Nat) (a b : Nat × Nat) (n : Nat) (cores : Bool) : State :=
  let s1 := upto n (fun k s => s.swapSlots d (a.1, a.2 + k) (b.1, b.2 + k)) s
  if cores then
    let p := s1.core d a.1
    let q := s1.core d b.1
    (s1.setCore d a.1 { p with lcid := q.lcid }).setCore d b.1 { q with lcid := p.lcid }
  else s1

/-! Free shares and placement (R14, R285). -/

/-- A hart that holds its share: one that runs, or a FORK child that has ended and is not joined. -/
def Hart.resident (h : Hart) : Bool := h.status = .running || (h.status = .halted && h.id.parent.isSome)

/-- The gang of a hart has been taken by a pre-emption (R27): its families hold no share. -/
def State.away (s : State) (h : Hart) : Bool := s.pkg.gangs.any (fun g => g.gid = h.id.gang && g.saved)

/-- The slots of a die that harts hold, but for those that `skip` names, and those that are reserved (R392). -/
def State.takenSlots (s : State) (d : Nat) (skip : Hart → Bool) : List (Nat × Nat) :=
  (s.harts.filter (fun h => h.resident && h.id.die = d && !s.away h && !skip h)).flatMap (fun h => h.id.slots)
    ++ (s.pkg.reserved.filter (fun r => r.die = d)).flatMap (fun r =>
        (List.range (r.share / 4)).map (fun k => (r.core, r.slot + k)))

/-- A new member may be bound to the slots of a member that has decoded HALT (R22, R285, R289), unless its gang has been chosen for
pre-emption. -/
def State.bindable (s : State) (h : Hart) : Bool :=
  h.halting && h.status = .running && h.id.parent.isNone
    && !s.harts.any (fun x => x.id.parent = some h.id.uid)
    && !s.pkg.gangs.any (fun g => g.gid = h.id.gang && g.due)

/-- The order of R285 on free shares: cores below their trip point, cores with more free slots, cooler cores, the lower lcid,
the lower slot. -/
def State.placeKey (s : State) (d : Nat) (taken : List (Nat × Nat)) (c : Nat × Nat) : Nat :=
  let k := s.core d c.1
  let hot := !(k.therm.toInt < k.trip.toInt)
  let used := (taken.filter (fun t => t.1 = c.1)).eraseDups.length
  let reading := (k.therm.toInt + 32768).toNat
  (((hot.toNat * 8 + used) * 65536 + reading) * 128 + k.lcid) * 4 + c.2

/-- The free shares of `share` beds on a die that `ok` admits. -/
def State.freeShares (s : State) (d share : Nat) (taken : List (Nat × Nat)) (ok : Ident → Bool) : List (Nat × Nat) :=
  let n := share / 4
  (List.range 128).flatMap (fun core =>
    if !(s.core d core).enabled then []
    else ((List.range 4).filter (fun slot =>
      slot % n = 0 && (List.range n).all (fun k => !taken.contains (core, slot + k))
        && ok { Ident.none with die := d, core := core, slot := slot, share := share })).map (fun slot => (core, slot)))

/-- The free share that comes first (R285). -/
def State.firstShare (s : State) (d share : Nat) (taken : List (Nat × Nat)) (ok : Ident → Bool) : Option (Nat × Nat) :=
  (s.freeShares d share taken ok).foldl (fun best c =>
    match best with
    | none => some c
    | some b => if s.placeKey d taken c < s.placeKey d taken b then some c else some b) none

/-- What a hart of a family needs of the place it comes back to: how many slots above the base, its beds, and the least VLMAX and MRMAX
(R24, R118). -/
structure Need where
  slot : Nat
  share : Nat
  vl : Nat
  mvr : Nat
  deriving DecidableEq, Repr

/-- A hart to place, with its family: its beds, the copy and index that place it, and what it needs (R118). -/
structure Seat where
  share : Nat
  copy : Nat
  idx : Nat
  needs : List Need
  deriving DecidableEq, Repr

/-- A place gives every hart of the family what it needs (R118). -/
def State.meetsNeeds (s : State) (i : Ident) (l : List Need) : Bool :=
  l.all (fun e =>
    let x := { i with slot := i.slot + e.slot, share := e.share }
    e.vl ≤ s.vlmaxOf x && e.mvr ≤ s.mrmaxOf x)

/-- A share of a die may take seat `w` beside the seats placed so far (R285): copy 1 of a duplicated launch stands on cores that hold
none of copy 0, each member in a share of its twin's VLMAX and MRMAX. -/
def State.seatFits (s : State) (d : Nat) (done : List (Seat × Nat × Nat)) (w : Seat) (i : Ident) : Bool :=
  let identOf (e : Seat × Nat × Nat) : Ident := { Ident.none with die := d, core := e.2.1, slot := e.2.2, share := e.1.share }
  s.meetsNeeds i w.needs
    && done.all (fun e => e.1.copy = w.copy
      || (e.2.1 != i.core && (e.1.idx != w.idx
        || (s.vlmaxOf (identOf e) = s.vlmaxOf i && s.mrmaxOf (identOf e) = s.mrmaxOf i))))

/-- The slots of a share of `share` beds at a place. -/
def slotsAt (share : Nat) (c : Nat × Nat) : List (Nat × Nat) := (List.range (share / 4)).map (fun k => (c.1, c.2 + k))

/-- Seats placed one at a time, as far as there are shares (R285). `done` are the seats placed so far. -/
def State.seatsFound (s : State) (d : Nat) (taken : List (Nat × Nat)) (done : List (Seat × Nat × Nat)) (l : List Seat) :
    List (Seat × Nat × Nat) :=
  match l with
  | [] => done
  | w :: rest =>
    match s.firstShare d w.share taken (s.seatFits d done w) with
    | none => s.seatsFound d taken done rest
    | some c => s.seatsFound d (taken ++ slotsAt w.share c) (done ++ [(w, c)]) rest

/-- A share for every seat, or none (R285). -/
def State.placeSeats (s : State) (d : Nat) (taken : List (Nat × Nat)) (l : List Seat) : Option (List (Seat × Nat × Nat)) :=
  let r := s.seatsFound d taken [] l
  if r.length = l.length then some r else none

/-- The first placement of all seats there is, each seat's shares in the order of R285: a gang that awaits resumption is deferred only
while none exists (R118). `tried` are the shares that the next seat cannot have; `fuel` bounds the attempts. -/
def State.placeAll (s : State) (d fuel : Nat) (taken : List (Nat × Nat)) (done : List (Seat × Nat × Nat)) (tried : List (Nat × Nat))
    (l : List Seat) : Option (List (Seat × Nat × Nat)) :=
  match fuel, l with
  | _, [] => some done
  | 0, _ => none
  | n + 1, w :: rest =>
    match s.firstShare d w.share taken (fun i => !tried.contains (i.core, i.slot) && s.seatFits d done w i) with
    | none => none
    | some c =>
      match s.placeAll d n (taken ++ slotsAt w.share c) (done ++ [(w, c)]) [] rest with
      | some r => some r
      | none => s.placeAll d n taken done (c :: tried) l

/-- Beds of a share code (R280). -/
def shareBeds (code : Nat) : Nat := if code = 0 then 16 else if code = 1 then 8 else 4

/-- The seats of a gang that has not been sown. -/
def Gang.seats (g : Gang) : List Seat :=
  (List.range (if g.dup then 2 else 1)).flatMap (fun c => (List.range g.n).map (fun h => ⟨shareBeds g.share, c, h, []⟩))

/-! Families (R24): a hart with its FORK children, theirs, and so on. -/

/-- The descendants of hart `uid`. -/
def descendants (l : List Hart) (fuel uid : Nat) : List Hart :=
  match fuel with
  | 0 => []
  | m + 1 => (l.filter (fun h => h.id.parent = some uid && h.status != .absent)).flatMap (fun h =>
      h :: descendants l m h.id.uid)

def State.family (s : State) (h : Hart) : List Hart := h :: descendants s.harts 3 h.id.uid

/-- Beds of a family. -/
def State.familyShare (s : State) (h : Hart) : Nat := ((s.family h).map (fun x => x.id.share)).sum

/-! The instruction boundary (R27, R185). -/

/-- The hart stands at the oldest instruction that it has not completed, with its resume point in vstart; what is younger is
discarded (R185, R193). -/
def Hart.toBoundary (h : Hart) : Hart :=
  match h.inflight with
  | [] => { h with wait := none, lanes := none, halting := false, owed := [] }
  | p :: _ =>
    { h with
      front := p.front.now h.front
      back := h.back.restoreTo p.ckpt
      inflight := [], wait := none, lanes := none, due := none, trapped := false, stall := 0, halting := false, owed := [] }

/-- An instruction that is discarded whole when it is interrupted (R152, R169). -/
def discardedWhole (i : Instr) : Bool :=
  match i with
  | .vscan _ | .vredcol _ | .vrgath _ | .vslideup _ | .vslidedn _ | .vslide1up _ | .vslide1dn _ | .vcompr _ | .vexpm _
  | .vreshp _ | .mzero _ | .mopa .. | .mops .. | .mblk .. | .mrdz .. | .mspill .. | .mfill .. => true
  | _ => false

/-- An instruction that an ERET has resumed at a point other than 0 and that is not to be interrupted (R187): one that is discarded
whole, and an element-ordered one before the group of its resume point is architectural. -/
def Hart.guarded (h : Hart) : Bool :=
  h.resumed != 0 && (match h.inflight with
    | [] => !h.frontWaits
    | p :: _ => discardedWhole p.instr || (p.ordered && p.front.vstart ≤ h.resumed))

/-- The oldest uncompleted instruction of the hart holds a fault, which it takes before the hart is taken (R193). -/
def Hart.holdsTrap (h : Hart) : Bool :=
  match h.inflight with
  | [] => h.wait = some .fault
  | p :: _ => p.faulty

/-- The hart may be taken at its boundary now (R22, R187, R193). -/
def State.interruptible (s : State) (h : Hart) : Bool :=
  !h.guarded && !h.holdsTrap && (s.aheadOf h).isNone
    && !s.harts.any (fun k => (s.aheadOf k).any (fun x => x.id.uid = h.id.uid))

/-! Moving to another core (R196, R276, R392–R394). -/

/-- The storage places that move: the live range of SAFEPT, and the whole destination of each copy in flight, among which the operations of
a stopped channel are not (R274, R276, R393). -/
def Back.movesPlace (b : Back) (first len : Nat) (place : Nat) : Bool :=
  (first ≤ place && place < first + len)
    || b.chans.toList.any (fun ch => !ch.error && ch.ops.any (fun o =>
        (o.form = 0 || o.form = 3) && o.sbase ≤ swz o.code place && swz o.code place < o.sbase + o.foot))

/-- What of a back a move carries into a share with `vlmax` columns: the named vector registers, the masks, the scratchpad's
moving places (R196). -/
def Back.moved (b : Back) (regs first len vlmax : Nat) : Back :=
  { b with
    v := b.v.filter (fun e => bitAt regs (e.1 / 65536) && e.1 % 65536 < vlmax)
    m := b.m.filter (fun e => e.1 % 65536 < vlmax)
    spad := b.spad.filter (fun e => b.movesPlace first len e.1) }

/-- The columns below `vlmax` of a back. -/
def Back.clip (b : Back) (vlmax : Nat) : Back :=
  { b with v := b.v.filter (fun e => e.1 % 65536 < vlmax), m := b.m.filter (fun e => e.1 % 65536 < vlmax) }

/-- Hart `h` and its descendants with their slots moved from share base `from_` to `to_` (R24). -/
def Ident.reseat (i : Ident) (from_ to_ : Nat × Nat) : Ident := { i with core := to_.1, slot := i.slot - from_.2 + to_.2 }

/-- The hart at hand and its live children fit a place (R119), at whatever boundary each child is taken. -/
def State.fitsAt (s : State) (to_ : Nat × Nat) : Bool :=
  let h := s.cpu
  (s.family h).all (fun x =>
    let i := x.id.reseat (h.id.core, h.id.slot) to_
    (x.front :: (if x.id.uid = h.id.uid then [] else x.inflight.map (fun p => p.front))).all (fun f =>
      f.vl ≤ s.vlmaxOf i && (!f.mmode || f.mvr ≤ s.mrmaxOf i)))

/-- The share that an honoured migration of the hart at hand goes to (R119, R196, R392); `held` are slots that a waiting gang
has reserved (R285, R290). -/
def State.migrationTarget (s : State) (held : List (Nat × Nat)) : Option (Nat × Nat) :=
  let h := s.cpu
  if h.id.parent.isSome then none
  else
    s.firstShare h.id.die (s.familyShare h) (s.takenSlots h.id.die (fun _ => false) ++ held)
      (fun i => i.core != h.id.core && s.fitsAt (i.core, i.slot))

/-- Outbound CPY.X operations of the hart at hand complete (R276). -/
def State.finishOutbound (s : State) : State :=
  upto 8 (fun c s => s.runUntil c (fun ch => !ch.ops.any (fun o => o.form = 2))) s

/-- The results of the grammar engine that are due are delivered (R191, R193); held faults stay. -/
def State.deliverGrammar (s : State) : State :=
  let g := s.cpu.back.gram
  s.setBack { s.cpu.back with gram := { g with pend := g.pend.filter (fun p => p.fault.isSome) } }

/-- A hart's engines before a move (R193, R196, R276): outbound and inbound CPY.X and grammar results. -/
def State.settleMove (s : State) : State := s.finishOutbound.settleInbound.deliverGrammar

/-- No CPY.X out of or into the hart is under way, but for what a stopped channel keeps until CPY.ABORT (R276). -/
def State.moveReady (s : State) (h : Hart) : Bool :=
  h.back.chans.toList.all (fun ch => ch.error || !ch.ops.any (fun o => o.form = 2)) && (s.inboundDue h.id.uid).isEmpty

/-- The move of the hart at hand, with its live children, to share base `to_` (R196, R392–R394): `regs` and the live range
are SAFEPT's; children move whole, at their boundaries. What it wrote has performed, so nothing it reads on the target is older
(R229). -/
def State.moveHart (s : State) (to_ : Nat × Nat) (regs first len : Nat) : State :=
  let s := { s with pkg := s.pkg.release s.cpu.id.uid }
  let h := s.cpu
  let base := (h.id.core, h.id.slot)
  let share := s.familyShare h
  let vacant := !(s.takenSlots h.id.die (fun x => x.id.uid = h.id.uid)).any (fun t => t.1 = to_.1)
  let kids := (descendants s.harts 3 h.id.uid).map (fun x => x.id.uid)
  let me := { h with
    id := h.id.reseat base to_
    back := { h.back.moved regs first len (s.vlmaxOf (h.id.reseat base to_)) with strip := [], rels := [] }
    front := { h.front with mreq := 0 } }
  let s1 := { s with
    cpu := me
    others := s.others.map (fun (x : Hart) =>
      if kids.contains x.id.uid then
        let y := x.toBoundary
        { y with id := y.id.reseat base to_, back := { y.back.clip (s.vlmaxOf (y.id.reseat base to_)) with strip := [], rels := [] } }
      else x) }
  (s1.swapShare h.id.die base to_ (share / 4) (share = 16 && vacant)).regrant h.id.gang

end Sys2Proof.Machine
end

