-- ==== Sys2Proof/Machine/Launch.lean ====
section
/-! DEFINITION. Launch packets and the dispatchers: the checks of a packet, wait conditions, the order of service, taking a
packet, sowing a gang, and the completion of a launch (R17, R21, R52, R277–R288, R290, R365). -/

namespace Sys2Proof.Machine

/-! Packets (R280): sixteen doublewords. -/

def pkt (p : List Nat) (k : Nat) : Nat := p.getD k 0

def packetBytes (l : List Byte) : List Nat := (List.range 16).map (fun k => leNat ((l.drop (8 * k)).take 8))

def pktWaits (p : List Nat) : Nat := bitsOf (pkt p 0) 14 13
def pktDup (p : List Nat) : Bool := bitAt (pkt p 0) 12
def pktPriv (p : List Nat) : Bool := bitAt (pkt p 0) 11
def pktPrio (p : List Nat) : Nat := bitsOf (pkt p 0) 9 8
def pktMembers (p : List Nat) : Nat := pkt p 0 % 64 + 1

/-- `waddrk` and `wthrk`. -/
def pktWait (p : List Nat) (k : Nat) : Nat × Nat := (pkt p (13 + k), pkt p 15 / 2 ^ (32 * k) % 2 ^ 32)

/-- Check 1 of R281: format. -/
def badFormat (p : List Nat) : Bool :=
  let w := pkt p 0
  w / 2 ^ 24 != 0 || bitAt w 15 || bitsOf w 23 16 != 1 || bitsOf w 7 6 = 3 || pktWaits p = 3
    || (List.range 2).any (fun k => pktWaits p ≤ k && ((pktWait p k).1 != 0 || (pktWait p k).2 != 0))

/-- Check 3 of R281: alignments of a packet; unused wait words are covered by check 1. -/
def badAlign (p : List Nat) : Bool :=
  pkt p 1 % 2 != 0 || pkt p 11 % 8 != 0 || pkt p 13 % 8 != 0 || pkt p 14 % 8 != 0 || pkt p 12 % 65536 != 0

/-- `area` alone against check 3. -/
def badArea (p : List Nat) : Bool := pkt p 12 % 65536 != 0

/-- The gang a packet describes, before it is sown. -/
def gangOf (p : List Nat) (queue seq die : Nat) (root : W64) : Gang where
  gid := 0
  queue := queue
  seq := seq % 2 ^ 32
  die := die
  n := pktMembers p
  share := bitsOf (pkt p 0) 7 6
  prio := pktPrio p
  dup := pktDup p
  priv := pktPriv p
  gshape := bitAt (pkt p 0) 10
  entry := BitVec.ofNat 64 (pkt p 1)
  count := BitVec.ofNat 64 (pkt p 2)
  args := (List.range 8).map (fun k => BitVec.ofNat 64 (pkt p (3 + k)))
  cword := BitVec.ofNat 64 (pkt p 11)
  area := BitVec.ofNat 64 (pkt p 12)
  root := root
  bars := Vector.replicate 2 Barrier.reset
  gvlmax := 0
  since := []
  quantum := 0
  due := false
  sown := false
  saved := false
  order := 0
  fault := none

/-- Who the addresses of a launch are translated for (R281, R282). -/
def Gang.ctx (g : Gang) : Ctx := ⟨g.root.toNat, g.priv, g.die⟩

/-- The save area of member `h` of copy `c` (R282). -/
def Gang.esave (g : Gang) (c h : Nat) : Nat := (g.area.toNat + 0x10000 + (64 * c + h) * 0x910000) % 2 ^ 64

/-- Check 2 of R281: the gang cannot stand on the die even with every share free, placed one member at a time as R285 places it
(DESIGN CHOICE, log 35). -/
def State.unplaceable (s : State) (g : Gang) : Bool := (s.placeSeats g.die [] g.seats).isNone

/-- `area` fails check 6 of R281: a page from its first byte to the end of the last save area is not mapped writable. A page that
refuses a store in another way, such as one in a vitrine or in a fenced frame, counts as not mapped writable (DESIGN CHOICE,
log 35). -/
def State.areaUnmapped (s : State) (g : Gang) : Bool :=
  let last := 0x10000 + (64 * (if g.dup then 1 else 0) + (g.n - 1)) * 0x910000 + 0x903000
  (List.range (cdiv last 65536)).any (fun k =>
    match s.byteAccess g.ctx .store true ((g.area.toNat + 65536 * k) % 2 ^ 64) with
    | .ok _ => false
    | .error _ => true)

/-- A doubleword is mapped readable and writable for a launch; one that an AMO is refused at in any way counts as not mapped
(DESIGN CHOICE, log 35). -/
def State.wordMapped (s : State) (c : Ctx) (va : Nat) : Bool :=
  match s.accessBytes c .amo true (vaRange va 8) with
  | .ok _ => true
  | .error _ => false

/-- Check 6 of R281 on everything but `area`. An entry that a fetch is refused at in any other way counts as not mapped executable (DESIGN
CHOICE, log 35). -/
def State.wordsUnmapped (s : State) (p : List Nat) (g : Gang) : Bool :=
  (List.range (pktWaits p)).any (fun k => !s.wordMapped g.ctx (pktWait p k).1)
    || (g.cword != 0 && !s.wordMapped g.ctx g.cword.toNat)
    || (match s.byteAccess g.ctx .fetch false g.entry.toNat with
      | .ok _ => false
      | .error _ => true)

/-- The lowest reason code that applies at take, or 0 (R281). -/
def State.takeReason (s : State) (p : List Nat) (g : Gang) (privok : Bool) : Nat :=
  if badFormat p then 1
  else if s.unplaceable g then 2
  else if badAlign p then 3
  else if g.priv && !privok then 4
  else if s.areaUnmapped g || s.wordsUnmapped p g then 6
  else 0

/-! Head packets (R279, R283, R284). -/

/-- The local address of slot `k` of a ring (R279). -/
def WQ.slot (w : WQ) (k : Nat) : Nat := w.base.toNat + 128 * (k % 2 ^ w.size)

/-- What a packet that cannot be read stands for: one that breaks the format and whose `area` is not aligned, so that it is rejected
with reason 1 and leaves no record (DESIGN CHOICE, log 35). -/
def unreadPacket : List Nat := [2 ^ 24, 0, 0, 0, 0, 0, 0, 0, 0, 0, 0, 0, 1, 0, 0, 0]

/-- The packet in slot `k` of a ring, read byte by byte (R279); nothing of one with an unreadable byte is passed on (R189). -/
def State.ringPacket (s : State) (q k : Nat) : List Nat :=
  let w := s.wq q
  if (List.range 16).any (fun b => s.unreadable (w.slot k + 8 * b)) then unreadPacket
  else packetBytes ((List.range 128).map (fun b => s.localByte w.die (w.slot k + b)))

/-- A wait condition holds (R284): one that is not mapped readable and writable holds without a read, and so does one that an AMO is
refused at in any other way (DESIGN CHOICE, log 35). -/
def State.waitHolds (s : State) (c : Ctx) (d : Nat) (w : Nat × Nat) : Bool :=
  match s.accessBytes c .amo true (vaRange w.1 8) with
  | .error _ => true
  | .ok pas =>
    let v := leNat (pas.map (s.physByte d)) % 2 ^ 32
    (v + 2 ^ 32 - w.2) % 2 ^ 32 < 2 ^ 31

/-- Uncorrectable data in the wait words of a packet, which have been read, is dropped (R210). -/
def State.sweepWaits (s : State) (c : Ctx) (p : List Nat) : State :=
  (List.range (min (pktWaits p) 2)).foldl (fun s k => s.sweepAt c (pktWait p k).1 8) s

/-- The head packet of a queue is ready (R283). With `nwait` = 3, which is rejected at take, both words are waited for (DESIGN CHOICE,
log 35). -/
def State.headReady (s : State) (q : Nat) : Bool :=
  let w := s.wq q
  if !w.en || !(w.head.toNat < w.tail.toNat) then false
  else
    let p := s.ringPacket q w.head.toNat
    let c : Ctx := ⟨w.root.toNat, pktPriv p, w.die⟩
    (List.range (min (pktWaits p) 2)).all (fun k => s.waitHolds c w.die (pktWait p k))

/-! What a dispatcher considers first (R290). -/

inductive Choice where
  /-- a gang that has been taken and not placed, or that awaits resumption -/
  | gang (gid : Nat)
  | queue (q : Nat)
  deriving DecidableEq, Repr

/-- Something a dispatcher may choose, with the key that orders it: the smallest key comes first. -/
def State.choices (s : State) (d : Nat) : List (Nat × Choice) :=
  let gangs := (s.pkg.gangs.filter (fun g => g.die = d && (!g.sown || g.saved) && g.fault.isNone)).map (fun g =>
    ((3 - g.prio) * 2 ^ 72 + (if g.sown then 2 ^ 70 else 0) + g.order, Choice.gang g.gid))
  let queues := (s.pkg.wqs.filter (fun e => e.2.die = d && s.headReady e.1)).map (fun e =>
    let prio := pktPrio (s.ringPacket e.1 e.2.head.toNat)
    let last := vget 0 s.pkg.served (4 * d + prio)
    ((3 - prio) * 2 ^ 72 + 2 ^ 71 + (e.1 + 2047 - last) % 2048, Choice.queue e.1))
  gangs ++ queues

/-- Puts an alternative into a list ordered by key. -/
def insertChoice (c : Nat × Choice) (l : List (Nat × Choice)) : List (Nat × Choice) :=
  match l with
  | [] => [c]
  | b :: t => if b.1 < c.1 then b :: insertChoice c t else c :: b :: t

/-! What is waiting to be placed (R118, R285, R290). -/

def State.gangById (s : State) (gid : Nat) : Option Gang := s.pkg.gangs.find? (fun g => g.gid = gid)

/-- The saved members of a gang that stand at the head of their families. -/
def State.savedHeads (s : State) (gid : Nat) : List Hart :=
  s.harts.filter (fun h => h.id.gang = gid && h.id.parent.isNone && h.status = .saved)

/-- The seats a gang needs: its own before it is sown, its saved families' afterwards (R118). -/
def State.seatsOf (s : State) (g : Gang) : List Seat :=
  if !g.sown then g.seats
  else (s.savedHeads g.gid).map (fun h =>
    ⟨s.familyShare h, h.id.copy, h.id.idx,
      (s.family h).map (fun x => ⟨x.id.slot - h.id.slot, x.id.share, x.front.vl, x.front.mvr⟩)⟩)

/-- The slots that a gang cannot be placed on: those of harts that `skip` does not name, but for those that a new member may be
bound to (R289), and those that other gangs hold. -/
def State.closedSlots (s : State) (g : Gang) (held : List (Nat × Nat)) (skip : Hart → Bool) : List (Nat × Nat) :=
  s.takenSlots g.die (fun h => skip h || (!g.sown && s.bindable h)) ++ held

/-- A placement of a gang beside the slots `held`, with the shares of some harts taken as free. -/
def State.placement (s : State) (g : Gang) (held : List (Nat × Nat)) (skip : Hart → Bool) : Option (List (Seat × Nat × Nat)) :=
  if g.sown then s.placeAll g.die 65536 (s.closedSlots g held skip) [] [] (s.seatsOf g)
  else s.placeSeats g.die (s.closedSlots g held skip) (s.seatsOf g)

/-- The slots of a list of seats. -/
def seatSlots (l : List (Seat × Nat × Nat)) : List (Nat × Nat) :=
  l.flatMap (fun e => (List.range (e.1.share / 4)).map (fun k => (e.2.1, e.2.2 + k)))

/-- The free shares that a gang which cannot be placed reserves: all that it can use (R290). -/
def State.reserves (s : State) (g : Gang) (held : List (Nat × Nat)) : List (Nat × Nat) :=
  seatSlots (s.seatsFound g.die (s.closedSlots g held (fun _ => false)) [] (s.seatsOf g))

/-- What a dispatcher does next (R290): its choice with the slots held against it, the gangs that come before others and cannot be
placed, each with the slots held against it, and every slot held so far. -/
structure Service where
  chosen : Option (Choice × List (Nat × Nat))
  waiting : List (Gang × List (Nat × Nat))
  held : List (Nat × Nat)
  deriving DecidableEq, Repr

/-- One more alternative in the order of R290. A gang that can be placed beside what is held may be chosen, another reserves what it
can use. A head packet is taken where no gang waits before it, and otherwise where it is rejected or its gang can be placed. -/
def State.serve (s : State) (r : Service) (c : Choice) : Service :=
  let first (goes : Bool) : Option (Choice × List (Nat × Nat)) := if r.chosen.isNone && goes then some (c, r.held) else r.chosen
  match c with
  | .gang gid =>
    match s.gangById gid with
    | none => r
    | some g =>
      match s.placement g r.held (fun _ => false) with
      | some l => { r with chosen := first true, held := r.held ++ seatSlots l }
      | none => { r with waiting := r.waiting ++ [(g, r.held)], held := r.held ++ s.reserves g r.held }
  | .queue q =>
    let w := s.wq q
    let p := s.ringPacket q w.head.toNat
    let g := gangOf p q w.head.toNat w.die w.root
    { r with chosen := first (r.waiting.isEmpty || s.takeReason p g w.privok != 0 || (s.placement g r.held (fun _ => false)).isSome) }

/-- What the dispatcher of a die does next: the highest priority first, a gang already taken before gangs awaiting resumption in the
order of their pre-emption, then queues round-robin (R290). A package whose UCIe link is down or that has not booted serves nothing
(R374, R379). -/
def State.service (s : State) (d : Nat) : Service :=
  if !s.pkg.uciDown.isEmpty || s.pkg.mgmt.bstate != 3 then ⟨none, [], []⟩
  else ((s.choices d).foldr insertChoice []).foldl (fun r c => s.serve r c.2) ⟨none, [], []⟩

/-- What a dispatcher serves next. -/
def State.choice (s : State) (d : Nat) : Option Choice := (s.service d).chosen.map (fun e => e.1)

/-- The priority of the gang a hart belongs to. -/
def State.prioOf (s : State) (h : Hart) : Nat := ((s.gangById h.id.gang).map (fun g => g.prio)).getD 0

/-- The slots that the waiting gangs of a die have reserved (R290). -/
def State.gangHolds (s : State) (d : Nat) : List (Nat × Nat) :=
  (s.service d).waiting.flatMap (fun e => s.reserves e.1 e.2)

/-! Records, completion words and rejection (R281, R282, R287). -/

/-- Writes at a virtual address of a launch, where it can. -/
def State.launchWrite (s : State) (g : Gang) (va : Nat) (l : List Byte) : State :=
  match s.accessBytes g.ctx .store true (vaRange va l.length) with
  | .error _ => s
  | .ok pas => s.physWriteList .management g.die pas l

/-- The launch record (R282). -/
def Gang.record (g : Gang) (status reason hart copy : Nat) (mismatch : Bool) (fault : List W64) : List Byte :=
  let d0 := status + 2 ^ 8 * reason + 2 ^ 16 * hart + 2 ^ 22 * mismatch.toNat + 2 ^ 23 * copy + 2 ^ 32 * g.seq
  leBytes 8 d0 ++ (List.range 5).flatMap (fun k => leBytes 8 (fault.getD k 0).toNat) ++ leBytes 16 0

/-- The launch's completion word is incremented (R287). One that no longer takes the write is skipped, as is the record, and wqdone counts
(DESIGN CHOICE, log 35). -/
def State.bumpCword (s : State) (g : Gang) : State :=
  if g.cword = 0 then s
  else match s.byteAccess g.ctx .amo true g.cword.toNat with
    | .error _ => s
    | .ok pa => s.bumpWord g.die pa

def State.wqDone (s : State) (q : Nat) : State := s.setWq q { s.wq q with done := (s.wq q).done + 1 }

/-- A rejected packet is consumed (R281): the queue's status, the record and the completion word where they passed, wqdone. -/
def State.reject (s : State) (q : Nat) (p : List Nat) (g : Gang) (reason : Nat) : State :=
  let w := s.wq q
  let rej := bitAt w.stat.toNat 0
  let stat := BitVec.ofNat 64 (w.stat.toNat / 2 ^ 16 * 2 ^ 16 + 256 * reason + 1)
  let s1 := s.setWq q { w with head := w.head + 1, stat := stat }
  let s2 := if rej then s1 else { s1 with pkg := { s1.pkg with msix := s1.pkg.msix.set 3 (s1.pkg.msix[3] + 1) } }
  let s3 := if badArea p || s.areaUnmapped g then s2 else s2.launchWrite g g.area.toNat (g.record 2 reason 0 0 false [])
  let s4 := if pkt p 11 % 8 != 0 then s3 else s3.bumpCword g
  s4.wqDone q

/-- PACKET_TAKE (R279, R281, R283): the dispatcher takes the head packet of a queue when that is its choice; uncorrectable data in it
is dropped (R210). -/
def execPacketTake (queue : Nat) (s : State) : Out :=
  .next (
    let w := s.wq queue
    if s.choice w.die != some (.queue queue) then s
    else
      let k := w.head.toNat
      let p := s.ringPacket queue k
      let g := gangOf p queue k w.die w.root
      let s := { s with pkg := { s.pkg with served := vput s.pkg.served (4 * w.die + g.prio) queue } }
      let reason := s.takeReason p g w.privok
      let s := (s.sweepWaits ⟨w.root.toNat, pktPriv p, w.die⟩ p).sweep (w.slot k) 128
      if reason != 0 then s.reject queue p g reason
      else
        let s1 := s.setWq queue { w with head := w.head + 1 }
        { s1 with pkg := { s1.pkg with
            gangs := s1.pkg.gangs ++ [{ g with gid := s1.pkg.nextGang, order := s1.pkg.nextOrder }]
            nextGang := s1.pkg.nextGang + 1
            nextOrder := s1.pkg.nextOrder + 1 } })

/-- WAIT_CONDITION_EVALUATION (R284): the wait words of a waiting head packet are read; what they say counts when a packet is
chosen. -/
def execWaitConditionEvaluation (queue : Nat) (s : State) : Out :=
  .next (
    let w := s.wq queue
    if !w.en || !(w.head.toNat < w.tail.toNat) then s
    else
      let p := s.ringPacket queue w.head.toNat
      s.sweepWaits ⟨w.root.toNat, pktPriv p, w.die⟩ p)

/-! Sowing (R21, R285, R286). -/

/-- The x registers of R21. -/
def launchX (g : Gang) (idx : Nat) : Vector W64 32 :=
  Vector.ofFn (fun k : Fin 32 =>
    if k.val = 10 then g.count
    else if k.val = 11 then BitVec.ofNat 64 idx
    else if k.val = 12 then BitVec.ofNat 64 g.n
    else if 13 ≤ k.val && k.val < 18 then g.args.getD (k.val - 13) 0
    else if 5 ≤ k.val && k.val < 8 then g.args.getD k.val 0
    else 0)

/-- A member as it begins (R21, R286), in zeroed storage (R200). -/
def State.sownHart (s : State) (g : Gang) (uid : Nat) (e : Seat × Nat × Nat) : Hart :=
  let a := s.slotAddr g.die e.2.1 e.2.2
  { Hart.absent with
    front := { Front.reset with
      x := launchX g e.1.idx
      pc := g.entry
      gshape := g.gshape
      lcid := BitVec.ofNat 7 a.1
      esave := BitVec.ofNat 64 (g.esave e.1.copy e.1.idx) }
    id := ⟨uid, g.gid, e.1.idx, e.1.copy, g.die, e.2.1, e.2.2, e.1.share, a.1, a.2, none, g.priv, g.root⟩
    status := .running }

/-- A hart that is no more, in a slot of one of these new ones. -/
def Hart.replaced (h : Hart) (new : List Hart) : Bool :=
  h.status = .absent && new.any (fun k => k.id.die = h.id.die && h.id.slots.any k.id.slots.contains)

/-- The members of a gang at their seats; those of a gang without a place are absent. -/
def State.sow (s : State) (g : Gang) (seats : List (Seat × Nat × Nat)) : State :=
  let harts := seats.zipIdx.map (fun e => s.sownHart g (s.pkg.nextUid + e.2) e.1)
  let g1 := { g with
    sown := true, bars := Vector.replicate 2 { Barrier.reset with live := g.n }, order := s.pkg.nextOrder, quantum := vget 0 s.pkg.quantum g.die }
  let s1 := s.setGang g1
  ({ s1 with
    others := s1.others.filter (fun (h : Hart) => !h.replaced harts) ++ harts
    pkg := { s1.pkg with nextUid := s1.pkg.nextUid + harts.length, nextOrder := s1.pkg.nextOrder + 1 } }).regrant g.gid

/-- The slots held against a gang, if it is what its dispatcher serves next. -/
def State.chosenGang (s : State) (g : Gang) : Option (List (Nat × Nat)) :=
  match (s.service g.die).chosen with
  | some (.gang k, held) => if k = g.gid then some held else none
  | _ => none

/-- GANG_SOWING (R285): the gang is sown when it is its dispatcher's choice and every member has a share. -/
def execGangSowing (gang : Nat) (s : State) : Out :=
  .next (
    match s.gangById gang with
    | none => s
    | some g =>
      if g.sown then s
      else match (s.chosenGang g).bind (fun held => s.placement g held (fun _ => false)) with
        | none => s
        | some seats => s.sow g seats)

/-! Completion (R287, R288). -/

/-- The harts of a gang, FORK children among them. -/
def State.gangHarts (s : State) (gid : Nat) : List Hart := s.harts.filter (fun h => h.id.gang = gid)

/-- Every member of every copy has retired HALT, or a launch fault has stopped the gang. -/
def State.gangDone (s : State) (g : Gang) : Bool :=
  g.sown && (g.fault.isSome || ((s.gangHarts g.gid).filter (fun h => h.id.parent.isNone)).all (fun h => h.status = .halted))

/-- The digest of a member's writes (R288). -/
def Hart.writeDigest (h : Hart) : BitVec 512 := sha512 (h.digest.flatMap (fun e => e.2))

/-- Some member's digest differs from its twin's (R288). -/
def State.twinsDiffer (s : State) (g : Gang) : Bool :=
  let ms := (s.gangHarts g.gid).filter (fun h => h.id.parent.isNone)
  g.dup && ms.any (fun h => h.id.copy = 0 && ms.any (fun k =>
    k.id.copy = 1 && k.id.idx = h.id.idx && k.writeDigest != h.writeDigest))

/-- A hart of a launch that has completed: it is no more, but its registers keep what it left in them until the next hart of its slot
begins (R390). -/
def Hart.gone (h : Hart) : Hart := { h with status := .absent, wait := none, inflight := [], owed := [], halting := false }

/-- The gang leaves the package. -/
def State.dropGang (s : State) (gid : Nat) : State :=
  let f (h : Hart) : Hart := if h.id.gang = gid then h.gone else h
  { s with
    cpu := f s.cpu
    others := s.others.map f
    pkg := { s.pkg with gangs := s.pkg.gangs.filter (fun g => g.gid != gid) } }

/-- What hart `h` has forked performs: its copies in flight, its log records not yet written (R223, R287, R343). -/
def State.performOf (s : State) (h : Hart) : State :=
  let s1 := if h.back.chans.toList.all (fun c => c.ops.isEmpty) then s else s.asHart h.id.uid State.restChannels
  s1.writeRecords h.id.uid

/-- Every access of the launch performs (R287): a launch fault stops harts whose copies are in flight. -/
def State.performGang (s : State) (g : Gang) : State := (s.gangHarts g.gid).foldl (fun s h => s.performOf h) s

/-- The completion of a launch (R287): its accesses, the record, the completion word, wqdone; then nothing of it is left. -/
def State.completeGang (s0 : State) (g : Gang) : State :=
  let s := s0.performGang g
  let mis := s.twinsDiffer g
  let rec_ := match g.fault with
    | some f => g.record 3 0 f.2.1 f.2.2 mis f.1
    | none => g.record 1 0 0 0 mis []
  let s1 := if mis then { s with pkg := { s.pkg with dies := vmod s.pkg.dies g.die (fun c => { c with dupmis := c.dupmis + 1 }) } }
    else s
  (((s1.launchWrite g g.area.toNat rec_).bumpCword g).wqDone g.queue).dropGang g.gid

/-- LAUNCH_COMPLETION (R287). -/
def execLaunchCompletion (gang : Nat) (s : State) : Out :=
  .next (
    match s.gangById gang with
    | none => s
    | some g => if s.gangDone g then s.completeGang g else s)

end Sys2Proof.Machine
end

