-- ==== Sys2Proof/Machine/Context.lean ====
section
/-! DEFINITION. Pre-emption, the save area, restore, and the scheduling quantum (R24, R27, R28, R118, R193–R195, R275,
R290). -/

namespace Sys2Proof.Machine

/-! The save area (R194). What R194 names without laying it out stands where log 9 says (DESIGN CHOICE). -/

/-- Doublewords as bytes. -/
def dwords (l : List Nat) : List Byte := l.flatMap (leBytes 8)

/-- The register section at 0x100. -/
def regSection (f : Front) (b : Back) : List Byte :=
  let desc (k : Nat) : Nat := if f.mmode then (tileDescriptor b k).toNat else 0
  dwords ([f.pc, f.epc, f.ecause, f.eval, f.estat].map (fun v => v.toNat))
    ++ dwords [f.evstart, f.tvec.toNat, f.ehold0.toNat, f.ehold1.toNat, f.rmode.toNat, f.mreq.toNat, f.qslim.toNat, f.acch.toNat]
    ++ dwords [f.vl + 2 ^ 17 * f.rc + 2 ^ 22 * f.vstart + 2 ^ 42 * f.ffi,
        f.mvr + 2 ^ 9 * f.mvc + 2 ^ 18 * f.mmode.toNat + 2 ^ 19 * f.gshape.toNat + 2 ^ 20 * f.wtag.toNat]
    ++ (f.vtag.toList ++ f.qtag.toList ++ f.sqtag.toList).flatMap (fun t => leBytes 2 t.toNat) ++ leBytes 4 0
    ++ dwords [desc 0, desc 1, f.cycle.toNat, f.instret.toNat] ++ leBytes 32 0

/-- Doubleword `k` of a byte string. -/
def dwordAt (l : List Byte) (k : Nat) : Nat := leNat ((l.drop (8 * k)).take 8)

/-- The registers that a register section and the 31 doublewords before it give (R195). Bits that a register does not have, and
bit 0 of an address of code, read as 0 whatever the area holds (R6, R66, R81, R182, R339). DESIGN CHOICE, log 34: a tag that R82 calls
invalid is kept as the area has it, and works as one of 8 bits. -/
def Front.fromSection (f : Front) (x : List Byte) (l : List Byte) : Front :=
  let d (k : Nat) : Nat := dwordAt l k
  let w (k : Nat) : W64 := BitVec.ofNat 64 (d k)
  let code (k : Nat) : W64 := BitVec.ofNat 64 (d k / 2 * 2)
  let tag (k : Nat) : Tag := BitVec.ofNat 16 (leNat ((l.drop (0x78 + 2 * k)).take 2) % 512)
  { f with
    x := Vector.ofFn (fun k : Fin 32 => if k.val = 0 then 0 else BitVec.ofNat 64 (dwordAt x (k.val - 1)))
    pc := code 0, epc := code 1, ecause := BitVec.ofNat 64 (d 2 % 256), eval := w 3, estat := w 4 &&& 0xFFF0F0F7#64
    evstart := d 5 % 2 ^ 20, tvec := code 6, ehold0 := w 7, ehold1 := w 8, rmode := BitVec.ofNat 3 (d 9)
    mreq := w 10 &&& 0xFFFF0000FF01#64, qslim := BitVec.ofNat 32 (d 11), acch := BitVec.ofNat 64 (d 12 % 16)
    vl := d 13 % 2 ^ 17, rc := bitsOf (d 13) 21 17, vstart := bitsOf (d 13) 41 22, ffi := bitsOf (d 13) 62 42
    mvr := d 14 % 2 ^ 9, mvc := bitsOf (d 14) 17 9, mmode := bitAt (d 14) 18, gshape := bitAt (d 14) 19
    wtag := BitVec.ofNat 16 (bitsOf (d 14) 28 20)
    vtag := Vector.ofFn (fun k : Fin 28 => tag k.val)
    qtag := Vector.ofFn (fun k : Fin 4 => tag (28 + k.val))
    sqtag := Vector.ofFn (fun k : Fin 2 => tag (32 + k.val))
    cycle := w 26, instret := w 27 }

/-- Registers of a plane table that have been written since launch (R121). -/
def presentRegs (m : SMap (BitVec 16)) : List Nat := (m.map (fun e => e.1 / 65536)).eraseDups

/-- A register or mask as `n` halfwords (R194). -/
def halfwords (m : SMap (BitVec 16)) (reg n : Nat) : List Byte :=
  (List.range n).flatMap (fun c => leBytes 2 (mget 0 m (reg * 65536 + c)).toNat)

/-- A plane table with a register's halfwords put in. -/
def putHalfwords (m : SMap (BitVec 16)) (reg : Nat) (l : List Byte) : SMap (BitVec 16) :=
  upto (l.length / 2) (fun c m => minsert m (reg * 65536 + c) (BitVec.ofNat 16 (leNat ((l.drop (2 * c)).take 2)))) m

/-- Queue rows as their bytes, one behind the other (R253). -/
def rowBits (t : Tag) (r : Row) : List Byte :=
  leBytes (rowBytes t r.elems.length) ((r.elems.zipIdx.map (fun e => e.1 % 2 ^ tagP t * 2 ^ (e.2 * tagP t))).sum)

/-- Rows with the elements that bytes from the head on give them. -/
def rowsFrom (t : Tag) (rows : List Row) (l : List Byte) : List Row :=
  match rows with
  | [] => []
  | r :: rest =>
    let n := rowBytes t r.elems.length
    let v := leNat (l.take n)
    { r with elems := (List.range r.elems.length).map (fun j => v / 2 ^ (j * tagP t) % 2 ^ tagP t) } :: rowsFrom t rest (l.drop n)

/-- Bytes whose layout the spec leaves to the engine that writes them (log 9). -/
def State.privateBytes (s : State) (n : Nat) : List Byte :=
  (List.range n).map (fun k => Config.privateByte (s.tick * 2 ^ 32 + k))

/-- Scratchpad rows written since launch. -/
def Back.spadRows (b : Back) : List Nat := (b.spad.map (fun e => e.1 / 4096)).eraseDups

/-- The presence bits at 0x200, lowest first: v0 to v27, m0 to m15, the 256 scratchpad rows, zf. -/
def presence (b : Back) : List Byte :=
  let bit (on : Bool) (k : Nat) : Nat := if on then 2 ^ k else 0
  leBytes 64 (((presentRegs b.v).map (bit true)).sum + ((presentRegs b.m).map (fun k => bit true (28 + k))).sum
    + (b.spadRows.map (fun k => bit true (44 + k))).sum + bit (!b.zf.isEmpty) 300)

/-- za0 and za1 in the place of v20 to v27: for each tile 32 sum planes and then 32 carry planes of every lane (R164, R194). How an
element is split between them cannot be told (R166), so the carry is free. -/
def State.tileBytes (s : State) (b : Back) (mc n : Nat) : List (Nat × List Byte) :=
  (List.range 8).map (fun k =>
    (0x1000 + 0x20000 * (20 + k), (List.range n).flatMap (fun c =>
      let v := (mget 0 b.za (tileKey (k / 4) (c / mc) (c % mc))).toNat
      let carry := Config.freeNat (s.tick + (k / 4 * 65536 + c) * 2 ^ 64) % 2 ^ 32
      leBytes 2 ((if k % 4 < 2 then (v + 2 ^ 32 - carry) % 2 ^ 32 else carry) / 65536 ^ (k % 2)))))

/-- The element of a za tile that its four saved registers hold in lane `c`. -/
def tileElem (regs : List (List Byte)) (c : Nat) : W32 :=
  let h (k : Nat) : Nat := leNat (((regs.getD k []).drop (2 * c)).take 2)
  BitVec.ofNat 32 (h 0 + 65536 * h 1 + h 2 + 65536 * h 3)

/-- The context map at 0x800: a doubleword for each handle (R324). The place of a record in its pool is private to the engine:
DESIGN CHOICE, log 9: records stand 256 bytes apart in the order of their handles. -/
def Gram.contextMap (g : Gram) (part : GCtx → Nat) : List Nat :=
  (List.range 256).map (fun k =>
    match mfind g.ctxs (k + 1) with
    | none => 0
    | some c => part c + 256 * ((g.onPool c.pool).filter (fun e => e.1 ≤ k)).length + c.failed.toNat)

/-- The progress of a queue (R249, R250, R252): the elements of its incomplete row, or those drained from its head row, in [16:0],
and how far the access at its resume point has come beyond that. -/
def QState.progress (x : QState) : Nat :=
  (match x.part, x.rows with
    | r :: _, _ => r.done
    | [], r :: _ => r.done
    | [], [] => 0) + 2 ^ 17 * (x.sub % 2 ^ 40)

/-- A queue with the progress that a save area gives. -/
def QState.withProgress (x : QState) (n : Nat) : QState :=
  let put (l : List Row) : List Row := match l with
    | [] => []
    | r :: t => { r with done := min (n % 2 ^ 17) r.elems.length } :: t
  let sub := n / 2 ^ 17 % 2 ^ 40
  { x with
    rows := if x.part.isEmpty then put x.rows else x.rows
    part := x.part.map (fun r => { r with done := min (n % 2 ^ 17) r.elems.length })
    sub := if sub = 0 then 0 else x.sub / 2 ^ 40 * 2 ^ 40 + sub }

/-- Bytes of rows of a queue with tag `t`. -/
def rowsSize (t : Tag) (l : List Row) : Nat := (l.map (fun r => rowBytes t r.elems.length)).sum

/-- The sections a save writes, in their order (R194): offset and bytes. An incomplete row stands behind the queue's rows (R249). -/
def State.saveSections (s : State) (h : Hart) : List (Nat × List Byte) :=
  let f := h.front
  let b := h.back
  let n := s.vlmaxOf h.id
  let mc := mcmaxOf h.id.share
  let fills := (List.range 6).map (fun q => rowsSize (f.queueTag q) (b.queue q).rows)
  let resident := b.gram.recency.take (2 * h.id.share)
  [(8, dwords ((f.x.toList.drop 1).map (fun v => v.toNat))), (0x100, regSection f b), (0x200, presence b), (0x240, dwords fills),
      (0x270, dwords ((List.range 6).map (fun q => (b.queue q).progress)))]
    ++ b.chans.toList.zipIdx.map (fun e =>
      (0x400 + 64 * e.2, dwords [e.1.cwm.toNat, e.1.cissued.toNat, e.1.cclip.toNat, e.1.cfill.toNat, e.1.cstat.toNat, 0, 0, 0]))
    ++ [(0x600, dwords [b.cat.cfg.toNat, b.cat.entries.length, b.cat.fail.toNat]),
      (0x800, dwords (b.gram.contextMap (fun c => ({ s with cpu := h } : State).poolBase c)))]
    ++ ((presentRegs b.v).filter (fun r => !(f.mmode && 20 ≤ r))).map (fun r => (0x1000 + 0x20000 * r, halfwords b.v r n))
    ++ (if f.mmode then s.tileBytes b mc n else [])
    ++ (presentRegs b.m).map (fun r => (0x381000 + 0x20000 * r, halfwords b.m r n))
    ++ (List.range 6).map (fun q => (0x581000 + 0x40000 * q, ((b.queue q).rows ++ (b.queue q).part).flatMap (rowBits (f.queueTag q))))
    ++ b.spadRows.map (fun r => (0x701000 + 4096 * r, (List.range 4096).map (fun k => b.spadByte (4096 * r + k))))
    ++ (if b.zf.isEmpty then [] else (List.range 2).map (fun t => (0x801000 + 0x40000 * t,
        (List.range (s.mrmaxOf h.id * mc)).flatMap (fun k => leBytes 4 (mget 0 b.zf (tileKey t (k / mc) (k % mc))).toNat))))
    ++ [(0x881000, b.cat.entries.flatMap (fun e => leBytes 4 e.1.toNat ++ leBytes 4 e.2.toNat))]
    ++ (if resident.isEmpty then [] else [(0x901000, s.privateBytes (256 * resident.length))])

/-- Writes in a hart's save area, byte by byte where it is mapped. -/
def State.areaWrite (s : State) (h : Hart) (off : Nat) (l : List Byte) : State :=
  l.zipIdx.foldl (fun s e =>
    match s.byteAccess h.ctx .store true ((h.front.esave.toNat + off + e.2) % 2 ^ 64) with
    | .error _ => s
    | .ok pa => s.physWriteList .management h.id.die [pa] [e.1]) s

/-- Reads in a hart's save area. -/
def State.areaRead (s : State) (h : Hart) (off n : Nat) : Option (List Byte) :=
  match s.accessBytes h.ctx .load false (vaRange (h.front.esave.toNat + off) n) with
  | .error _ => none
  | .ok pas => some (pas.map (s.physByte h.id.die))

/-- A save (R193, R194): the sections, then `valid`. -/
def State.saveHart (s : State) (h : Hart) : State :=
  let s1 := (s.saveSections h).foldl (fun s e => s.areaWrite h e.1 e.2) s
  (s1.areaWrite h 0 (leBytes 8 1)).tock

/-! Pre-emption (R27, R193). -/

/-- The engines of the hart at hand come to rest as far as they can (R193, R268, R275). -/
def State.restEngines (s : State) : State := s.restChannels.settleInbound

/-- A running hart of a gang. -/
def Hart.runs (h : Hart) (gid : Nat) : Bool := h.id.gang = gid && h.status = .running

/-- The channels of a hart are at rest and no copy that still comes writes into it. -/
def State.hartRests (s : State) (h : Hart) : Bool :=
  ({ s with cpu := h } : State).channelsAtRest && (s.inboundDue h.id.uid).isEmpty

/-- A hart at its boundary, its results delivered, saved; every older write of it has performed (R185, R193, R229). -/
def State.takeHart (s : State) (uid : Nat) : State :=
  match (s.asHart uid (fun s => State.deliverGrammar { s with cpu := s.cpu.toBoundary })).hart? uid with
  | none => s
  | some h =>
    let h := { h with back := { h.back with strip := [], rels := [] } }
    ((s.putHart h).saveHart h).putHart { h with status := .saved }

/-- Every member of the gang, with its children, is taken (R24, R27, R193), once each of them can be interrupted and its engines are
at rest; until then the gang is marked as chosen. -/
def State.preempt (s : State) (gid : Nat) : State :=
  let ids := (s.harts.filter (fun h => h.runs gid)).map (fun h => h.id.uid)
  let s1 := ids.foldl (fun s u => s.asHart u State.restEngines) s
  if !(s1.harts.filter (fun h => h.runs gid)).all (fun h => s1.interruptible h && s1.hartRests h) then
    { s1 with pkg := { s1.pkg with gangs := s1.pkg.gangs.map (fun g => if g.gid = gid then { g with due := true } else g) } }
  else
    let s2 := ids.foldl State.takeHart s1
    let s3 := { s2 with pkg := ids.foldl (fun p u => p.release u) s2.pkg }
    { s3 with pkg := { s3.pkg with
        gangs := s3.pkg.gangs.map (fun g =>
          if g.gid = gid then { g with saved := true, due := false, order := s3.pkg.nextOrder } else g)
        nextOrder := s3.pkg.nextOrder + 1 } }

/-- A gang is the next that R290 pre-empts for a waiting gang of higher priority. -/
def State.isVictim (s : State) (g : Gang) : Bool :=
  match (s.service g.die).waiting.find? (fun e => (s.placement e.1 e.2 (fun h => s.prioOf h < e.1.prio)).isSome) with
  | none => false
  | some e =>
    g.prio < e.1.prio && g.sown && !g.saved
      && s.pkg.gangs.all (fun k => k.gid = g.gid || !k.sown || k.saved || k.die != g.die || s.gangDone k
        || g.prio < k.prio || (g.prio = k.prio && k.order < g.order))

/-- A waiting gang of equal priority needs a share that gang `g` holds (R28, R290, R368). -/
def State.isNeeded (s : State) (g : Gang) : Bool :=
  g.sown && !g.saved && (s.service g.die).waiting.any (fun w =>
    g.prio = w.1.prio
      && (match s.placement w.1 w.2 (fun h => s.prioOf h ≤ w.1.prio) with
        | none => false
        | some l => (seatSlots l).any (fun t => (s.gangHarts g.gid).any (fun h => h.resident && h.id.slots.contains t))))

/-- PREEMPTION (R27, R193, R290): of a gang that R290 names, or that has been chosen and could not be taken yet. -/
def execPreemption (gang : Nat) (s : State) : Out :=
  .next (
    match s.gangById gang with
    | none => s
    | some g => if (s.isVictim g || g.due) && !g.saved && !s.gangDone g then s.preempt gang else s)

/-- The local clocks of a gang's members (R28). -/
def State.clocks (s : State) (gid : Nat) : SMap W64 :=
  ((s.gangHarts gid).filter (fun h => h.id.parent.isNone)).foldl (fun m h => minsert m h.id.uid h.front.cycle) []

/-- A member has run for the gang's quantum (R28). -/
def State.quantumOver (s : State) (g : Gang) : Bool :=
  (s.gangHarts g.gid).any (fun h => h.status = .running && h.id.parent.isNone
    && g.quantum ≤ (h.front.cycle - mget 0 g.since h.id.uid).toNat)

/-- QUANTUM_EXPIRY (R28): the gang is taken if a waiting gang of its priority needs its shares; a new quantum begins
otherwise. -/
def execQuantumExpiry (gang : Nat) (s : State) : Out :=
  .next (
    match s.gangById gang with
    | none => s
    | some g =>
      if !g.sown || g.saved || s.gangDone g || !s.quantumOver g then s
      else if s.isNeeded g then s.preempt gang
      else s.setGang { g with since := s.clocks gang, quantum := vget 0 s.pkg.quantum g.die })

/-! Restore (R195). -/

/-- What an area gives, or `old` where it cannot be read. -/
def State.areaOr {α : Type} (s : State) (h : Hart) (off n : Nat) (old : α) (f : List Byte → α) : α :=
  match s.areaRead h off n with
  | some l => f l
  | none => old

/-- The channel that an area's five doublewords give (R257, R275): idle but for `error` and a held fault; `feval` and `fkind` are
not among them and stay, as do the operations that a stopped channel keeps or that wait for it. -/
def Chan.fromArea (ch : Chan) (l : List Byte) : Chan :=
  let st := dwordAt l 4
  let err := bitAt st 1
  { ch with
    cwm := BitVec.ofNat 64 (dwordAt l 0), cissued := BitVec.ofNat 64 (dwordAt l 1), cclip := BitVec.ofNat 64 (dwordAt l 2)
    cfill := BitVec.ofNat 64 (dwordAt l 3), nops := if err || !ch.error then min (bitsOf st 7 4) ch.ops.length else 0, error := err, aborting := bitAt st 2
    fcause := if err then bitsOf st 23 16 else 0, fsub := if err then bitsOf st 15 8 else 0
    feval := if err then ch.feval else 0, fkind := if err then ch.fkind else 0, ops := if err || !ch.error then ch.ops else [] }

/-- The contexts that a context map leaves (R324): those whose doubleword is not 0, failed where bit 0 says so. -/
def Gram.fromMap (g : Gram) (l : List Byte) : Gram :=
  let word (k : Nat) : Nat := dwordAt l (k - 1)
  { g with
    ctxs := (g.ctxs.filter (fun e => word e.1 != 0)).map (fun e => (e.1, { e.2 with failed := bitAt (word e.1) 0 }))
    recency := g.recency.filter (fun k => word k != 0) }

/-- The back that a save area gives to a hart with registers `f`: what is present, of the vector registers, masks, scratchpad rows
and zf; za in matrix mode; the queues' rows as far as their fill counts go, the incomplete row and the progress; channels; the catalogue;
whether a grammar context is open and whether it has failed. The lengths of the queues' rows and the records of grammar contexts, which are
private, are the hart's own (log 9). -/
def State.reloadBack (s : State) (h : Hart) (f : Front) : Back :=
  let n := s.vlmaxOf h.id
  let mc := mcmaxOf h.id.share
  let b := h.back
  let here := s.areaOr h 0x200 64 (presence b) (fun l => l)
  let on (k : Nat) : Bool := bitAt (leNat here) k
  let planes (base first count : Nat) : SMap (BitVec 16) :=
    ((List.range count).filter (fun r => on (first + r))).foldl (fun m r =>
      s.areaOr h (base + 0x20000 * r) (2 * n) m (putHalfwords m r)) []
  let spad := ((List.range 256).filter (fun r => on (44 + r))).foldl (fun m r =>
    s.areaOr h (0x701000 + 4096 * r) 4096 m (fun l => l.zipIdx.foldl (fun m e => minsert m (4096 * r + e.2) e.1) m)) []
  let zf := if !on 300 then [] else upto 2 (fun t m =>
    s.areaOr h (0x801000 + 0x40000 * t) (4 * (s.mrmaxOf h.id * mc)) m (fun l => upto (l.length / 4) (fun k m =>
      minsert m (tileKey t (k / mc) (k % mc)) (BitVec.ofNat 32 (leNat ((l.drop (4 * k)).take 4)))) m)) []
  let za := if !f.mmode then [] else upto 2 (fun t m =>
    let regs := (List.range 4).map (fun k => s.areaOr h (0x1000 + 0x20000 * (20 + 4 * t + k)) (2 * n) [] (fun l => l))
    upto n (fun c m => minsert m (tileKey t (c / mc) (c % mc)) (tileElem regs c)) m) []
  let desc (k : Nat) : Nat := if f.mmode then s.areaOr h (0x1C0 + 8 * k) 8 0 leNat else 0
  let cfg := s.areaOr h 0x600 24 [b.cat.cfg.toNat, b.cat.entries.length, b.cat.fail.toNat] (fun l => (List.range 3).map (dwordAt l))
  let count := min (cfg.getD 1 0) (4096 * h.id.share)
  { b with
    v := if f.mmode then (planes 0x1000 0 28).filter (fun e => e.1 / 65536 < 20) else planes 0x1000 0 28
    m := planes 0x381000 28 16
    spad := spad, zf := zf, za := za
    zsteps := Vector.ofFn (fun k : Fin 2 => bitsOf (desc k.val) 23 18)
    zkinds := Vector.ofFn (fun k : Fin 2 => if bitAt (desc k.val) 24 then some (descriptorTags (desc k.val)) else none)
    queues := Vector.ofFn (fun q : Fin 6 =>
      let x := b.queue q.val
      let t := f.queueTag q.val
      let fill := s.areaOr h (0x240 + 8 * q.val) 8 (rowsSize t x.rows) leNat
      let kept := x.rows.take (within fill (x.rows.map (fun r => rowBytes t r.elems.length))).length
      let n := rowsSize t kept
      let y := s.areaOr h (0x581000 + 0x40000 * q.val) (n + rowsSize t x.part) x (fun l =>
        { x with rows := rowsFrom t kept l, part := rowsFrom t x.part (l.drop n) })
      s.areaOr h (0x270 + 8 * q.val) 8 y (fun l => y.withProgress (leNat l)))
    chans := Vector.ofFn (fun k : Fin 8 => s.areaOr h (0x400 + 64 * k.val) 40 b.chans[k] b.chans[k].fromArea)
    cat := ⟨s.areaOr h 0x881000 (8 * count) b.cat.entries (fun l => (List.range count).map (fun k =>
        (BitVec.ofNat 32 (dwordAt l k), BitVec.ofNat 32 (dwordAt l k / 2 ^ 32)))),
      BitVec.ofNat 64 (cfg.getD 2 0), BitVec.ofNat 64 (cfg.getD 0 0) &&& 0x37#64⟩
    gram := s.areaOr h 0x800 2048 b.gram b.gram.fromMap }

/-- The contents that a save area gives back to a hart; what cannot be read stays. -/
def State.reload (s : State) (h : Hart) : Hart :=
  let f := match s.areaRead h 8 248, s.areaRead h 0x100 256 with
    | some x, some l => h.front.fromSection x l
    | _, _ => h.front
  { h with front := f, back := s.reloadBack h f }

/-- A restored hart at its place: what its save area holds, `pending` of mreq cleared, its columns below the share's VLMAX.
A child that has ended keeps what it ended with until its parent joins it. -/
def State.revive (s : State) (h : Hart) (base to_ : Nat × Nat) : State :=
  let id := h.id.reseat base to_
  if h.status != .saved then s.putHart { h with id := id, back := h.back.clip (s.vlmaxOf id) }
  else
  let h1 := s.reload h
  let h2 := { h1 with
    id := id
    front := { h1.front with mreq := h1.front.mreq &&& ~~~(1 : W64) }
    back := h1.back.clip (s.vlmaxOf id)
    status := .running, wait := none }
  (s.areaWrite h 0 (leBytes 8 0)).putHart h2

/-- The first part of a save area, of those that a save of `h` writes, that holds uncorrectable data or lies in a fenced frame (R189,
R210). -/
def State.areaFault (s : State) (h : Hart) : Option AccFault :=
  if s.pkg.poison.isEmpty && s.pkg.fences.isEmpty && s.pkg.closed.isEmpty && s.pkg.cxlDown.isEmpty then none
  else ((0, leBytes 8 0) :: s.saveSections h).findSome? (fun e =>
    match s.accessBytes h.ctx .load false (vaRange (h.front.esave.toNat + e.1) e.2.length) with
    | .error f => if f.cause = .dataError then some f else none
    | .ok _ => none)

/-- A save area whose `valid` is not 1 (R195). -/
def State.invalidArea (s : State) (h : Hart) : Bool := s.areaRead h 0 8 != some (leBytes 8 1)

/-- The trap values of a launch fault at a restore (R195). -/
def restoreFault (h : Hart) : TrapInfo := ⟨.dataError, h.front.esave, 0, 0, 15, 4, false, h.front.vstart, 4⟩

/-- The hart's address goes with it (R11): the slot that carried it and the slot it enters exchange theirs, unless another
hart has taken it. -/
def State.carryAddr (s : State) (h : Hart) (to_ : Nat × Nat) (k : Nat) : State :=
  match (List.range 512).find? (fun n => s.slotAddr h.id.die (n / 4) (n % 4) = (h.id.alcid, h.id.aslot + k)) with
  | none => s
  | some n =>
    if (s.takenSlots h.id.die (fun _ => false)).contains (n / 4, n % 4) then s
    else s.swapSlots h.id.die (n / 4, n % 4) (to_.1, to_.2 + k)

/-- A saved family comes back at a place. -/
def State.restoreFamily (s : State) (h : Hart) (to_ : Nat × Nat) : State :=
  let base := (h.id.core, h.id.slot)
  let s1 := upto (s.familyShare h / 4) (fun k s => s.carryAddr h to_ k) s
  (s1.family h).foldl (fun s x => s.revive x base to_) s1

/-- CONTEXT_RESTORE (R27, R118, R195): the whole gang, when it is its dispatcher's choice and every member has a place. GVLMAX is
recomputed, as it is when a member migrates (DESIGN CHOICE, log 34: R106 does not name a restore). Uncorrectable data in a save area ends
the launch, as its consumer takes DATA_ERROR (R189). -/
def execContextRestore (gang : Nat) (s : State) : Out :=
  .next (
    match s.gangById gang with
    | none => s
    | some g =>
      if !g.saved then s
      else match (s.chosenGang g).bind (fun held => s.placement g held (fun _ => false)) with
        | none => s
        | some seats =>
          let saved := s.harts.filter (fun h => h.id.gang = gang && h.status = .saved)
          match saved.find? (fun h => s.invalidArea h || (s.areaFault h).isSome) with
          | some h => s.asHart h.id.uid (fun s =>
              match s.areaFault h with
              | some f => (s.dropBad f.kind f.addr).launchFault { restoreFault h with eval := BitVec.ofNat 64 f.addr, kind := f.kind }
              | none => s.launchFault (restoreFault h))
          | none =>
            let s1 := ((s.savedHeads gang).zip seats).foldl (fun s e => s.restoreFamily e.1 e.2.2) s
            let s2 := s1.setGang { g with
              saved := false, order := s1.pkg.nextOrder, quantum := vget 0 s1.pkg.quantum g.die, since := s1.clocks gang }
            ({ s2 with pkg := { s2.pkg with nextOrder := s2.pkg.nextOrder + 1 } }).regrant gang)

end Sys2Proof.Machine
end

