-- ==== Sys2Proof/Machine/Sync.lean ====
section
/-! DEFINITION. The SYNC major (R23, R24, R292, R354–R368, R384, R392) and the events of migration. -/

namespace Sys2Proof.Machine

/-! The gang barrier register (R354, R355, R357, R358). -/

/-- The register as the barrier instructions return it. -/
def Barrier.word (g : Barrier) : W64 :=
  BitVec.ofNat 64 (g.expected % 128 + 2 ^ 8 * (g.arrived % 128) + 2 ^ 15 * g.phase.toNat + 2 ^ 16 * (g.nexp % 128)
    + 2 ^ 24 * (g.live % 128))

def Barrier.waits (g : Barrier) (h : Nat) : Bool := bitAt g.arrbit.toNat h
def Barrier.hasGone (g : Barrier) (h : Nat) : Bool := bitAt g.gone.toNat h

/-- An arrival is refused (R355). -/
def Barrier.refuses (g : Barrier) (h : Nat) : Bool := g.expected = 0 || g.waits h || g.hasGone h

/-- An arrival takes effect (R355). -/
def Barrier.arrive (g : Barrier) (h : Nat) : Barrier :=
  if g.arrived + 1 = g.expected then
    { g with phase := !g.phase, arrived := 0, arrbit := 0, expected := g.nexp }
  else { g with arrbit := g.arrbit ||| BitVec.ofNat 64 (2 ^ h), arrived := g.arrived + 1 }

/-- A member leaves (R358): `gone`, `live` and `nexp`, which never falls below 0. -/
def Barrier.leave (g : Barrier) (h : Nat) : Barrier :=
  { g with gone := g.gone ||| BitVec.ofNat 64 (2 ^ h), live := g.live - 1, nexp := g.nexp - 1 }

/-- Arming with count `c` (R357). -/
def Barrier.arm (g : Barrier) (c : Nat) : Barrier :=
  if g.arrived = 0 then { g with expected := c, nexp := c } else { g with nexp := c }

/-- The drop of HALT (R362): a member that has not gone leaves, and arrives where the barrier is armed and it has not
arrived. -/
def Barrier.haltDrop (g : Barrier) (h : Nat) : Barrier :=
  if g.hasGone h then g
  else if g.expected = 0 then { g with gone := g.gone ||| BitVec.ofNat 64 (2 ^ h), live := g.live - 1 }
  else if g.waits h then g.leave h
  else (g.leave h).arrive h

/-- The barrier of the hart's gang: each copy of a duplicated launch has its own (R288). -/
def State.bar (s : State) : Barrier :=
  match s.gang with
  | some g => vget Barrier.reset g.bars s.cpu.id.copy
  | none => Barrier.reset

def State.setBar (s : State) (b : Barrier) : State :=
  match s.gang with
  | some g => s.setGang { g with bars := vput g.bars s.cpu.id.copy b }
  | none => s

/-- A barrier instruction is illegal in a FORK child (R24, R356). -/
def State.inGang (s : State) (i : Instr) (body : State → State) : State :=
  if s.cpu.id.parent.isSome then s.raise i (illegalOf i) else body s

/-- A barrier instruction that changes the register: the dispatcher applies it once and for good, and no trap of an older
instruction can take it back, so every one of those has completed (R20, R384); for an arrival they have performed too (R219, R359). -/
def State.barrier (s : State) (i : Instr) (body : Barrier → Nat → State → State) : State :=
  s.inGang i fun s => s.whenOldest i fun s => body s.bar s.cpu.id.idx s

/-- The register after an arrival of the hart at hand, which is a release (R355, R359). -/
def State.arrived (s : State) (g : Barrier) : State := (s.setBar g).noteRelease .arrival []

/-- The return of BAR.WT or BAR.SYNC, which acquires what the hart's own arrivals released (R359). -/
def State.leaveBarrier (s : State) (d : Reg) (g : Barrier) : State := (s.acquire (fun r => r.kind = .arrival)).compute 4 d g.word

/-- BARRIER_OVER_ARRIVAL at `i` (R355, R384). -/
def overArrival (i : Instr) (g : Barrier) : TrapInfo :=
  ⟨.barrierOverArrival, g.word, 0, 0, 15, 4, false, 0, i.len⟩

/-- BAR.ARM (R357). -/
def execBarArm (d a : Reg) (s : State) : Out :=
  .next (s.barrier (.barArm d a) fun g _ s =>
    let c := s.getU a
    if 64 < c || g.live < c then s.raise (.barArm d a) (illegalOf (.barArm d a))
    else (s.setBar (g.arm c)).compute 4 d g.word)

/-- BAR.ARV (R358). -/
def execBarArv (d : Reg) (s : State) : Out :=
  .next (s.barrier (.barArv d) fun g h s =>
    if g.refuses h then s.raise (.barArv d) (overArrival (.barArv d) g)
    else (s.arrived (g.arrive h)).compute 4 d g.word)

/-- BAR.WT (R358): it returns at once where the hart waits for no phase. -/
def execBarWt (d : Reg) (s : State) : Out :=
  .next (s.inGang (.barWt d) fun s =>
    if s.bar.waits s.cpu.id.idx then s.block .barrier else s.leaveBarrier d s.bar)

/-- The hart notes that the BAR.SYNC at pc has arrived. -/
def State.noteArrival (s : State) : State := { s with cpu := { s.cpu with due := some 0 } }

/-- BAR.SYNC (R358): the arrival once, then the wait. -/
def execBarSync (d : Reg) (s : State) : Out :=
  .next (s.barrier (.barSync d) fun g h s =>
    if s.cpu.due.isNone && g.refuses h then s.raise (.barSync d) (overArrival (.barSync d) g)
    else
      let s1 := if s.cpu.due.isNone then (s.arrived (g.arrive h)).noteArrival else s
      if s1.bar.waits h then s1.block .barrier else s1.leaveBarrier d s1.bar)

/-- BAR.DROP (R358). -/
def execBarDrop (d : Reg) (s : State) : Out :=
  .next (s.barrier (.barDrop d) fun g h s =>
    if g.refuses h then s.raise (.barDrop d) (overArrival (.barDrop d) g)
    else (s.arrived ((g.leave h).arrive h)).compute 4 d g.word)

/-! FORK (R23, R363). -/

/-- The columns of a table from `n` on, numbered from 0. -/
def shiftDown (m : SMap (BitVec 16)) (n : Nat) : SMap (BitVec 16) :=
  (m.filter (fun e => n ≤ e.1 % 65536)).map (fun e => (e.1 - n, e.2))

/-- The table without the columns from `n` on. -/
def below (m : SMap (BitVec 16)) (n : Nat) : SMap (BitVec 16) := m.filter (fun e => e.1 % 65536 < n)

/-- Lower columns from `m`, and those of `u` behind column `n` (R24). -/
def joinCols (m u : SMap (BitVec 16)) (n : Nat) : SMap (BitVec 16) :=
  u.foldl (fun t e => minsert t (e.1 + n) e.2) (below m n)

/-- The fault of FORK's third check (R363). -/
def State.forkArea (s : State) (va : Nat) : Option (Nat × Nat) :=
  if va % 65536 != 0 then some (4, va)
  else ((List.range (cdiv 0x903000 65536)).find? (fun k =>
    match s.byteAccess s.cpu.ctx .store true ((va + 65536 * k) % 2 ^ 64) with
    | .ok _ => false
    | .error _ => true)).map (fun k => (1, (va + 65536 * k) % 2 ^ 64))

/-- The child as it begins (R23, R363): `n` columns stay with the parent, `half` beds go to the child. -/
def State.forkChild (s : State) (entry area : W64) (half n : Nat) : Hart :=
  let h := s.cpu
  let f := h.front
  let b := h.back
  let slot := h.id.slot + half / 4
  let a := s.slotAddr h.id.die h.id.core slot
  let low := 65536 * half
  { Hart.absent with
    front := { Front.reset with
      x := Vector.ofFn (fun k : Fin 32 => if 10 ≤ k.val && k.val < 14 then f.x[k] else 0)
      pc := entry &&& ~~~(1 : W64)
      wtag := f.wtag, vtag := f.vtag, qtag := f.qtag, sqtag := f.sqtag
      tvec := f.tvec, rmode := f.rmode, qslim := f.qslim, acch := f.acch, gshape := f.gshape
      lcid := f.lcid, esave := area }
    back := { Back.reset with
      v := shiftDown b.v n
      m := shiftDown b.m n
      spad := (b.spad.filter (fun e => low ≤ e.1)).map (fun e => (e.1 - low, e.2)) }
    id := { h.id with uid := s.pkg.nextUid, slot := slot, share := half, alcid := a.1, aslot := a.2, parent := some h.id.uid }
    status := .running }

/-- What a FORK or a JOIN makes of a back (R104, R164, R312): zf at +0, the catalogue empty. -/
def Back.reshare (b : Back) : Back := { b with zf := [], cat := { b.cat with entries := [] } }

/-- The front behind a FORK or JOIN: vl and rc 0, a new strip interval (R23, R24, R216). -/
def Front.reshare (f : Front) : Front := { f with vl := 0, rc := 0, interval := f.interval + 1 }

/-- The parent after FORK, the child beside it, GVLMAX recomputed and x[d] written (R23, R360, R363). -/
def State.forked (s : State) (d : Reg) (entry area : W64) : State :=
  let h := s.cpu
  let half := h.id.share / 2
  let n := s.vlmaxOf { h.id with share := half }
  let child := s.forkChild entry area half n
  let b := h.back
  let b1 := { b.reshare with v := below b.v n, m := below b.m n, spad := b.spad.filter (fun e => e.1 < 65536 * half) }
  let s1 := { s with
    cpu := { h with id := { h.id with share := half }, back := b1, front := h.front.reshare }
    others := s.others ++ [child]
    pkg := { s.pkg with nextUid := s.pkg.nextUid + 1 } }
  (s1.regrant h.id.gang).compute 4 d (BitVec.ofNat 64 child.id.addr)

def State.queuesEmpty (s : State) : Bool := s.cpu.back.queues.toList.all (fun q => q.rows.isEmpty && q.part.isEmpty)

/-- Runs `body` when no copy that still comes writes into the hart (R268); a stopped channel delivers nothing more (R263). -/
def State.whenDelivered (s : State) (body : State → State) : State :=
  let s1 := s.settleInbound
  if (s1.inboundDue s1.cpu.id.uid).isEmpty then body s1 else s1.block .engine

/-- Runs `body` when the channels are at rest (R274). -/
def State.whenRested (s : State) (body : State → State) : State :=
  let s1 := s.restChannels
  if s1.channelsAtRest then body s1 else s1.block .channel

/-- Runs `body` when the queues are empty, the channels at rest and no copy is inbound (R23, R268, R274, R364). -/
def State.whenQuiet (s : State) (body : State → State) : State :=
  if !s.queuesEmpty then s.block .queue
  else s.whenRested fun s => s.whenDelivered body

/-- FORK (R23, R363). -/
def execFork (d a b : Reg) (s : State) : Out :=
  .next (
    let i := Instr.fork d a b
    if s.cpu.front.mmode then s.raise i (trapOf i .matrixState (s.matrixEval none) 0)
    else if s.cpu.id.share = 4 || s.bar.expected != 0 then s.raise i (illegalOf i)
    else match s.forkArea (s.getU b) with
      | some (sub, va) => s.raise i (trapOf i .storeFault va sub)
      | none => s.whenOldest i fun s => s.whenQuiet fun s => s.forked d (s.getX a) (s.getX b))

/-! JOIN (R24, R364). -/

/-- A child that has ended gives its half back to the hart at hand (R24, R268): columns, scratchpad, and its records of the
write digest. -/
def State.absorb (s : State) (c : Hart) : State :=
  let h := s.cpu
  let b := h.back
  let n := s.vlmaxOf h.id
  let low := 65536 * h.id.share
  let b1 := { b.reshare with
    v := joinCols b.v c.back.v n
    m := joinCols b.m c.back.m n
    spad := c.back.spad.foldl (fun t (e : Nat × Byte) => minsert t (e.1 + low) e.2) b.spad }
  let s1 := { s with
    cpu := { h with
      id := { h.id with share := 2 * h.id.share }
      back := b1
      front := h.front.reshare
      digest := h.digest ++ c.digest.map (fun (e : Nat × List Byte) => (h.front.instret.toNat * 2 ^ 32, e.2)) }
    others := s.others.filter (fun x => x.id.uid != c.id.uid) }
  s1.regrant h.id.gang

/-- The hart at hand has ended: its contexts are free (R324, R362), its stream stands behind its last instruction. -/
def State.endHart (s : State) (len : Nat) : State :=
  let b := s.cpu.back
  let s1 := (s.setBack { b with gram := ⟨[], [], [], 0⟩ }).retire len
  { s1 with cpu := { s1.cpu with status := .halted } }

/-- A result of the grammar engine that holds a fault (R330). -/
def State.grammarFault (s : State) : Option GPend := s.cpu.back.gram.pend.find? (fun p => p.fault.isSome)

/-- The trap of a held grammar fault, taken at `i`, whose resume point is `ev` (R330). -/
def engineTrap (i : Instr) (ev : Nat) (f : AccFault) : TrapInfo :=
  ⟨f.cause, BitVec.ofNat 64 f.addr, f.sub, f.kind, 15, 3, ev != 0, ev, i.len⟩

/-- The resume point of an instruction that has done nothing yet (R184): where it began, but 0 for one that has none or is discarded
whole. -/
def Front.resumePoint (f : Front) (i : Instr) : Nat :=
  if sideOf i = 0 || keepsVstart i || discardedWhole i then 0 else f.vstart

/-- The fault that result `p` holds is taken at `i`, and is held no more (R330). -/
def State.takeGrammarFault (s : State) (i : Instr) (p : GPend) : State :=
  let g := s.cpu.back.gram
  match p.fault with
  | none => s
  | some f => (s.setGram { g with pend := eraseFirst (fun q => q == p) g.pend }).takeTrap (engineTrap i (s.cpu.front.resumePoint i) f)

/-- A hart that ends awaits its grammar results and takes a fault that one of them holds (R330, R362, R364; for JOIN log 34). -/
def State.whenJoined (s : State) (i : Instr) (body : State → State) : State :=
  match s.grammarFault with
  | some p => s.takeGrammarFault i p
  | none => body s

/-- JOIN (R364): of a parent with its most recent child, of a child, or of neither. -/
def execJoin (d : Reg) (s : State) : Out :=
  .next (
    let i := Instr.join d
    match s.children.getLast? with
    | some c =>
      if s.cpu.front.mmode then s.raise i (trapOf i .matrixState (s.matrixEval none) 0)
      else if c.status = .running then s.block .family
      else s.whenOldest i fun s => s.whenRested fun s => s.whenDelivered fun s =>
        (s.absorb c).compute 4 d (c.front.getX 10)
    | none =>
      if s.cpu.id.parent.isNone then s.raise i (illegalOf i)
      else if s.cpu.front.mmode then s.raise i (trapOf i .matrixState (s.matrixEval none) 0)
      else s.whenOldest i fun s => s.whenQuiet fun s => s.whenJoined i fun s => s.endHart 4)

/-! HALT (R24, R362). -/

/-- The MXOFF that a child's HALT performs (R362). -/
def State.dropTiles (s : State) : State :=
  if s.cpu.front.mmode then
    let s1 := s.setBack { s.cpu.back.dropTileRegs with za := [] }
    s1.setFront { s1.cpu.front with mmode := false }
  else s

/-- HALT (R362). -/
def execHalt (s : State) : Out :=
  .next (s.whenOldest .halt fun s =>
    if s.children.any (fun c => c.status = .running) then s.block .family
    else s.whenRested fun s =>
      match s.heldChan with
      | some ch => s.takeTrap (ch.heldTrap .halt)
      | none => s.whenJoined .halt fun s => s.whenDelivered fun s =>
        let joined (s : State) : State := s.children.reverse.foldl (fun s c => s.absorb c) s
        if s.cpu.id.parent.isSome then (if s.queuesEmpty then (joined s.dropTiles).endHart 4 else s.block .queue)
        else
          let s1 := joined s
          (s1.setBar (s1.bar.haltDrop s1.cpu.id.idx)).endHart 4)

/-! WAITC and LAUNCH (R292, R366). -/

/-- Base register, offset and size of what a scalar store or an AMO writes (R230, R233). -/
def scalarStore (i : Instr) : Option (Reg × W64 × Nat) :=
  match i with
  | .stb _ a imm => some (a, immI imm, 1)
  | .sth _ a imm => some (a, immI imm, 2)
  | .stw _ a imm => some (a, immI imm, 4)
  | .std _ a imm => some (a, immI imm, 8)
  | .hStw _ a off => some (shortReg a, BitVec.ofNat 64 (4 * off.val), 4)
  | .hStd _ a off => some (shortReg a, BitVec.ofNat 64 (8 * off.val), 8)
  | .amoswp o | .amoadd o | .amoand o | .amoor o | .amoxor o | .amomin o | .amomax o | .amominu o | .amomaxu o
  | .amocas o | .stl o => some (o.a, 0, amoSize o)
  | _ => none

/-- A VST form. -/
def isVst (i : Instr) : Bool :=
  match i with
  | .vstU _ | .vstS _ | .vstX _ | .vstXO _ | .vstSeg _ | .vstC _ => true
  | _ => false

/-- An instruction in flight may still store to one of the bytes `pas`: a scalar store or AMO to one of them, or one whose base is
still owed, or a VST. -/
def State.mayStore (s : State) (p : Pend) (pas : List Nat) : Bool :=
  match scalarStore p.instr with
  | some (a, off, n) =>
    p.owed.any (fun e => e.1 = a.val) || (vaRange (p.front.getX a + off).toNat n).any (fun va =>
      match s.translate s.cpu.ctx .load va with
      | .ok pa => pas.contains pa
      | .error _ => false)
  | none => isVst p.instr

/-- WAITC (R366): each read of the word is a load that comes behind the hart's older stores to it (R215) and behind its older acquires
(R219); its return acquires (R223). -/
def execWaitc (d a b : Reg) (s : State) : Out :=
  .next (
    let i := Instr.waitc d a b
    let va := s.getU a
    if va % 8 != 0 then s.raise i (trapOf i .loadFault va 4)
    else match s.accessBytes s.cpu.ctx .load false (vaRange va 8) with
      | .error f => s.raise i (accTrap i f 15 false 0)
      | .ok pas =>
        if s.cpu.inflight.any (fun p => acquires p.instr || s.mayStore p pas) then s.block .oldest
        else
          let s1 := (s.readLines s.cpu.id.die (pas.map s.key)).settleStrip pas
          let w : W64 := BitVec.ofNat 64 (leNat (pas.map (s1.physByte s1.cpu.id.die)))
          if (w - s1.getX b).toNat < 2 ^ 63 then (s1.acquireAt pas).compute 4 d w else s1.block .word)

/-- Checks 1, 3 and 4 of R281 as LAUNCH makes them: the lowest reason, or 0. -/
def launchReason (p : List Nat) (privok priv : Bool) : Nat :=
  if badFormat p then 1 else if badAlign p then 3 else if pktPriv p && !(privok && priv) then 4 else 0

/-- The packet is written into its slot of the ring (R292), where the memory controller takes the bytes (R208). -/
def State.appendPacket (s : State) (w : WQ) (l : List Byte) : State :=
  let a := s.ownPkg * pkgSpan + w.slot w.tail.toNat
  (l.zipIdx).foldl (fun s e =>
    match s.checkPhys w.die .store true (a + e.2) (a + e.2) with
    | some _ => s
    | none => s.physWriteList .management w.die [a + e.2] [e.1]) s

/-- The append is the fork edge of the launch (R222, R223): its completion word releases what is older. -/
def State.forkLaunch (s : State) (w : WQ) (p : List Nat) : State :=
  if pkt p 11 = 0 then s
  else match s.byteAccess ⟨w.root.toNat, pktPriv p, w.die⟩ .amo true (pkt p 11) with
    | .ok pa => s.noteRelease .fork [pa]
    | .error _ => s

/-- LAUNCH (R288, R292). -/
def execLaunch (d a b : Reg) (s : State) : Out :=
  .next (s.whenOldest (.launch d a b) fun s =>
    let i := Instr.launch d a b
    let va := s.getU a
    let q := s.getU b
    let w := s.wq q
    if s.inDup then s.raise i (protectOf i 3)
    else if va % 128 != 0 then s.raise i (trapOf i .launchReject va 3)
    else if 2047 < q || !w.en || !w.byHart then s.raise i (trapOf i .launchReject va 5)
    else match s.loadRead va 128 with
      | .error f => s.raise i (accTrap i f 15 false 0)
      | .ok (s, l) =>
        let r := launchReason (packetBytes l) w.privok s.cpu.id.priv
        if r != 0 then s.raise i (trapOf i .launchReject va r)
        else if 2 ^ w.size ≤ w.tail.toNat - w.head.toNat then s.compute 4 d 0
        else
          let s1 := (s.appendPacket w l).forkLaunch w (packetBytes l)
          (s1.setWq q { w with tail := w.tail + 1 }).compute 4 d (w.tail + 1))

/-! SAFEPT and YIELD (R119, R182, R196, R367, R368, R392). -/

/-- mreq after a refusal: `refusals` + 1, saturating (R182). -/
def refuseReq (m : W64) : W64 :=
  if bitsOf m.toNat 47 32 = 0xFFFF then m else m + BitVec.ofNat 64 (2 ^ 32)

/-- The reservation of the hart at hand. -/
def State.reservation (s : State) : Option Reservation := s.pkg.reserved.find? (fun r => r.uid = s.cpu.id.uid)

/-- The SAFEPT at pc is refused (R119, R392): what it had reserved is free again. -/
def State.refuseMove (s : State) (d : Reg) : State :=
  let f := s.cpu.front
  let kept := s.pkg.reserved.filter (fun e => e.uid != s.cpu.id.uid)
  (({ s with pkg := { s.pkg with reserved := kept } }).setFront { f with mreq := refuseReq f.mreq }).compute 4 d 2

/-- The gang of the hart has been chosen for pre-emption (R27). -/
def State.chosenToGo (s : State) : Bool := s.gang.any (fun g => g.due)

/-- A pre-emption that is pending is taken at the boundary of the instruction at pc, which does nothing before it is resumed (R197). -/
def State.yieldFirst (s : State) : State :=
  let s1 := State.preempt { s with pkg := s.pkg.release s.cpu.id.uid } s.cpu.id.gang
  if s1.cpu.status = .running then s1.block .oldest else s1

/-- The honoured SAFEPT at pc moves the hart and completes (R196, R392), in the order of R193: it waits until its children stand where
they can be interrupted and the engines of all of them have come to rest. Of a target that meanwhile breaks R119 it is refused; a pre-emption that is
pending comes first (R197). -/
def State.migrate (s : State) (r : Reservation) : State :=
  let me := s.cpu.id.uid
  let kids := (descendants s.harts 3 me).map (fun h => h.id.uid)
  if s.chosenToGo then s.yieldFirst else
  let s1 := kids.foldl (fun s u => s.asHart u State.settleMove) s.settleMove
  if !s1.fitsAt (r.core, r.slot) then s1.refuseMove r.d
  else if (s1.aheadOf s1.cpu).isSome then s1.block .runAhead
  else if !(s1.family s1.cpu).all (fun h => s1.moveReady h && (h.id.uid = me || s1.interruptible h)) then s1.block .engine
  else (s1.moveHart (r.core, r.slot) r.regs r.first r.len).compute 4 r.d 1

/-- SAFEPT (R367). -/
def execSafept (d a b : Reg) (s : State) : Out :=
  .next (
    let i := Instr.safept d a b
    let f := s.cpu.front
    if 2 ^ 28 ≤ s.getU b then s.raise i (illegalOf i)
    else match s.reservation with
      | some r => if s.oldest then s.migrate r else s.block .oldest
      | none =>
        if !bitAt f.mreq.toNat 0 || bitAt f.estat.toNat 0 then s.compute 4 d 0
        else if s.chosenToGo then s.yieldFirst
        else match s.migrationTarget (s.gangHolds s.cpu.id.die) with
          | none => s.refuseMove d
          | some t =>
            let r : Reservation := ⟨s.cpu.id.uid, s.cpu.id.die, t.1, t.2, s.familyShare s.cpu, d, s.getU b, s.getU a % 2 ^ 32,
              s.getU a / 2 ^ 32⟩
            let s1 := { s with pkg := { s.pkg with reserved := s.pkg.reserved ++ [r] } }
            if s1.oldest then s1.migrate r else s1.block .oldest)

/-- MIGRATION (R196): a SAFEPT whose request is honoured moves its hart once no older instruction is uncompleted. -/
def execMigration (s : State) : Out :=
  .next (
    match s.reservation with
    | none => s
    | some r => if s.oldest && s.cpu.status = .running then State.count s (s.migrate r) else s)

/-- MIGRATION_REQUEST (R182): `pending` and `reason` are set together in a hart whose `pending` is 0. -/
def Front.requestMove (f : Front) (reason : Nat) : Front :=
  if bitAt f.mreq.toNat 0 then f
  else { f with mreq := BitVec.ofNat 64 (f.mreq.toNat / 2 ^ 16 * 2 ^ 16 + 256 * reason + 1) }

/-- The reasons of MIGRATION_REQUEST: firmware request, bed error policy, load rebalancing, and thermal (R182). -/
def execMigrationRequest (hart : Nat) (reason : Fin 4) (s : State) : Out :=
  .next (
    match s.hart? hart with
    | some h => if h.status = .running then s.putHart { h with front := h.front.requestMove reason.val } else s
    | none => s)

/-- YIELD (R368): the gang is taken, at once or as soon as its engines rest. -/
def execYield (d : Reg) (s : State) : Out :=
  .next (
    match s.gang with
    | none => s.compute 4 d 0
    | some g =>
      if s.isNeeded g then (s.compute 4 d 1).preempt g.gid else s.compute 4 d 0)

end Sys2Proof.Machine
end

