-- ==== Sys2Proof/Machine/Hazard.lean ====
section
/-! DEFINITION. Which x registers and masks an instruction reads and writes: what a younger instruction waits for (R19, R25,
R160, R328, R330). -/

namespace Sys2Proof.Machine

/-- How many masks a GMASK or GMASK.M covers (R330). -/
def State.maskSpan (s : State) (a : Reg) : Nat :=
  match mfind s.cpu.back.gram.ctxs (s.getU a) with
  | none => 1
  | some c => match s.imageAt c.image.toNat with
    | .ok g => if s.cpu.front.vl = 0 then 1 else cdiv g.ntok (16 * s.cpu.front.vl)
    | .error _ => 1

/-- The masks an instruction reads (R123, R155, R159, R161, R330). -/
def State.maskReads (s : State) (i : Instr) : List Nat :=
  match i with
  | .gmaskM _ a ms => (List.range (s.maskSpan a)).map (fun k => ms.val + k)
  | _ => maskSources i

/-- A pending result as the next instruction finds it: behind the instructions in flight, of which none has written yet (R330). -/
def State.seenBy (s : State) (p : GPend) : GPend :=
  s.cpu.inflight.foldl (fun p x => p.overwritten x.front.instret.toNat x.instr) p

/-- An instruction reads an x register or a mask that a pending result of the grammar engine delivers (R25, R330). -/
def State.joins (s : State) (i : Instr) (p : GPend) : Bool :=
  let p := s.seenBy p
  p.masks.any (s.maskReads i).contains || p.xreg.any (fun r => r != 0 && ((xReads i).map (fun r => r.val)).contains r)

/-- The result with a held fault that an instruction joins with (R330). -/
def State.joinFault (s : State) (i : Instr) : Option GPend :=
  s.cpu.back.gram.pend.find? (fun p => p.fault.isSome && s.joins i p)

/-- The results that `sel` selects are joined (R222, R328): what is older than their operations is ordered before what follows. -/
def State.joinResults (s : State) (sel : GPend → Bool) : State :=
  let g := s.cpu.back.gram
  let got (p : GPend) : Bool := p.fault.isNone && sel p
  (s.setGram { g with pend := g.pend.filter (fun p => !got p) }).orderBehind
    ((g.pend.filter got).foldl (fun n p => max n p.by_) 0)

/-- The pending results that an instruction joins with (R328, R330). -/
def State.settleGrammar (s : State) (i : Instr) : State :=
  if s.cpu.back.gram.pend.isEmpty then s else s.joinResults (s.joins i)

/-- An x register that `i` reads is still to be delivered by an older instruction in flight (R19, R25). -/
def State.xBusy (s : State) (i : Instr) : Bool :=
  (xReads i).any (fun r => r.val != 0 && s.cpu.owed.any (fun e => e.1 = r.val))

/-- The registers of hart `uid` that copies of CPY.X have still to write (R268). -/
def State.inboundRegs (s : State) (uid : Nat) : List Nat :=
  s.harts.flatMap (fun h => h.back.chans.toList.flatMap (fun ch => ch.ops.flatMap (fun o =>
    if o.form = 2 && o.dst = uid then (List.range (o.regs - o.at_ / o.cols)).map (o.vdst + o.at_ / o.cols + ·) else [])))

/-- An instruction may read or write one of the vector registers `regs`: those of its sources under their tags, and as many from its
destination on as 32-bit elements take. -/
def touchesLanes (f : Front) (i : Instr) (regs : List Nat) : Bool :=
  let l := laneOps i
  l.1.any (fun r => (regSpan r 16 (f.srcTag r)).any regs.contains)
    || l.2.any (fun r => r.val < 28 && regs.any (fun k => r.val ≤ k && k < r.val + 32))

/-- The instruction waits for an inbound copy (R268): MXON and MXOFF for every one that still comes, and so does a CPY.X, which names
its source in a register; others for those that write a register of theirs. -/
def State.awaitsCopy (s : State) (i : Instr) : Bool :=
  match i with
  | .mxon .. | .mxoff | .cpyX .. => !(s.inboundDue s.cpu.id.uid).isEmpty
  | _ => touchesLanes s.cpu.front i (s.inboundRegs s.cpu.id.uid)

/-- The operands of `i` that the shape or the tags behind it are taken from are still to be delivered, so that it waits in the decoder
(R19, R112): the x registers of the scalar front end's instructions, of MXON and of VRESHP, and the configuration that CATLKP and
CATDRN retag by. -/
def State.decodeWaits (s : State) (i : Instr) : Bool :=
  match i with
  | .mxon .. | .vreshp _ => s.xBusy i
  | .catlkp _ | .catdrn _ => s.cpu.inflight.any (fun p =>
      match p.instr with
      | .catcfg o => p.owed.any (fun e => e.1 = o.va.val)
      | _ => false)
  | _ => false

/-- An instruction of the access unit or the execute side leaves the decoder, or stays in flight, without having begun (R25): an
x register that it reads is still to be delivered, or a copy is inbound into a vector register of its operands (R268). -/
def State.parks (s : State) (i : Instr) : Bool :=
  sideOf i != 0 && (s.xBusy i || (!(s.inbound s.cpu.id.uid).isEmpty && s.awaitsCopy i))

/-- Instruction `i` in flight with nothing of it done: `run` finds a FENCE ahead of it, and the tags that it writes stand in the
stream behind it (R105). -/
def State.park (s : State) (run : Instr → State → State) (i : Instr) : State :=
  let n := s.cpu.inflight.length
  let stop : Pend := ⟨.fence 0 7, s.cpu.front, s.cpu.back, [], false, none, [], false, false, none, []⟩
  let t := run i { s with cpu := { s.cpu with inflight := s.cpu.inflight ++ [stop] } }
  { t with cpu := { t.cpu with inflight := t.cpu.inflight.eraseIdx n } }

/-- The meaning of an instruction where its operands are there, else its wait for them. It joins with the results of the grammar
engine that it reads, and takes a fault that one of them holds once it is the oldest (R328, R330). -/
def State.start (run : Instr → State → State) (i : Instr) (s : State) : State :=
  if s.parks i then s.park run i
  else match s.joinFault i with
    | none => run i (s.settleGrammar i)
    | some p => if s.oldest then s.takeGrammarFault i p else if sideOf i = 0 then s.block .fault else s.park run i

/-- The hart behind the instruction that has left its decoder: the x registers that the instruction writes are owed by it where
it is in flight, and by nothing older (R19). -/
def Hart.owing (h before : Hart) (i : Instr) : Hart :=
  let mine := (xWrites i).map (fun r => r.val)
  let left := before.owed.filter (fun e => !mine.contains e.1)
  if h.trapped || h.wait.isSome || h.status != .running then h
  else if before.inflight.length < h.inflight.length then
    { h with owed := left ++ mine.map (fun r => (r, before.front.instret.toNat)) }
  else { h with owed := left }

end Sys2Proof.Machine
end

