-- ==== Sys2Proof/Machine/Join.lean ====
section
/-! DEFINITION. FENCE and WAITE (R191, R221). -/

namespace Sys2Proof.Machine

/-- The classes of FENCE's set that an instruction in flight belongs to (R221): 1 s, 2 v, 4 e. -/
def fenceClass (i : Instr) : Nat :=
  match i with
  | .ldb .. | .ldh .. | .ldw .. | .ldd .. | .ldbu .. | .ldhu .. | .ldwu .. | .stb .. | .sth .. | .stw .. | .std ..
  | .amoswp .. | .amoadd .. | .amoand .. | .amoor .. | .amoxor .. | .amomin .. | .amomax .. | .amominu .. | .amomaxu ..
  | .amocas .. | .lda .. | .stl .. | .hLdd .. | .hStd .. | .hLdw .. | .hStw .. => 1
  | .vldU .. | .vldS .. | .vldX .. | .vldXO .. | .vldSeg .. | .vldC .. | .vldFF .. | .vstU .. | .vstS .. | .vstX ..
  | .vstXO .. | .vstSeg .. | .vstC .. => 2
  | .vtree .. | .cpyG .. | .cpyP .. | .cpyX .. | .cpyIX .. | .acclog .. | .gopen .. | .gadv .. | .gmask .. | .gmaskM ..
  | .gckpt .. | .groll .. | .gfork .. | .gfree .. | .gstat .. => 4
  | _ => 0

/-- The instruction belongs to one of the classes of `set`. -/
def inSet (set : Nat) (i : Instr) : Bool := Nat.land set (fenceClass i) != 0

/-- FENCE joins the engine operations (R221, R222): the copies, the grammar operations, and the appends of ACCLOG, whose records have
been written; results that hold a fault stay. -/
def State.joinEngines (s : State) : State :=
  let b := s.cpu.back
  let logs := b.rels.filter (fun r => r.kind = .log)
  let copies := b.chans.toList.foldl (fun n ch => max n ch.mark) 0
  ((s.joinResults (fun _ => true)).orderBehind (max (logs.foldl (fun n r => max n r.by_) 0) copies)).orderCopies copies

/-- FENCE (R221): the older instructions of its set complete; with e the engine operations do; with v every older vector write has
performed before what follows. -/
def execFence (scope set : Fin 8) (s : State) : Out :=
  .next (
    let i := Instr.fence scope set
    if 4 < scope.val || set.val = 0 then s.raise i (illegalOf i)
    else if s.cpu.inflight.any (fun p => inSet set.val p.instr) then s.block .oldest
    else
      let s1 := if bitAt set.val 2 then (s.restChannels).writeRecords s.cpu.id.uid else s
      if bitAt set.val 2 && !s1.channelsAtRest then s1.block .channel
      else
        let s2 := if bitAt set.val 2 then s1.joinEngines else s1
        let s3 := if bitAt set.val 1 then s2.setBack { s2.cpu.back with strip := [], rels := [] } else s2
        s3.retire 4)

/-- An execute-side instruction in flight that will deliver an x register (R191). -/
def State.xResults (s : State) : Bool := s.cpu.inflight.any (fun p => sideOf p.instr = 2 && !(xWrites p.instr).isEmpty)

/-- A GMASK or GMASK.M in flight. -/
def State.maskResults (s : State) : Bool :=
  s.cpu.inflight.any (fun p =>
    match p.instr with
    | .gmask .. | .gmaskM .. => true
    | _ => false)

/-- Pending results of class 0 or 2, without a fault or with one. -/
def State.gramDue (s : State) (cls : Nat) (held : Bool) : Bool :=
  s.cpu.back.gram.pend.any (fun p => p.fault.isSome = held && p.cls = cls)

/-- The classes pending when a WAITE issues (R191): a result that its engine may have delivered by then counts freely. -/
def State.dueClasses (s : State) : Nat :=
  let may (k : Nat) : Bool := Config.freeBool (s.tick + k)
  (s.maskResults || s.gramDue 0 true || (s.gramDue 0 false && may 0)).toNat
    + 2 * (!(s.inbound s.cpu.id.uid).isEmpty).toNat
    + 4 * (s.xResults || s.gramDue 2 true || (s.gramDue 2 false && may 1)).toNat

/-- The channel with a held fault that keeps an inbound copy from being delivered. -/
def State.inboundFault (s : State) : Option Chan :=
  ((s.inbound s.cpu.id.uid).filterMap (fun e => (s.hart? e.1).map (fun h => vget Chan.idle h.back.chans e.2))).find? Chan.error

/-- The result of a selected class that holds a fault. -/
def State.selectedFault (s : State) (sel : Nat) : Option GPend :=
  s.cpu.back.gram.pend.find? (fun p => p.fault.isSome && bitAt sel p.cls)

/-- The wait of WAITE (R191): the classes pending at issue are noted once; then every selected result is delivered, or the
fault that keeps it back is taken. -/
def State.awaitResults (s : State) (i : Instr) (d : Reg) (sel : Nat) : State :=
  let noted := s.cpu.due.isSome
  let due := s.cpu.due.getD (Nat.land sel s.dueClasses)
  let s := if noted then s else { s with cpu := { s.cpu with due := some due }, tick := s.tick + 2 }
  if (bitAt sel 0 && s.maskResults) || (bitAt sel 2 && s.xResults) then s.block .engine
  else match s.selectedFault sel with
    | some p => if s.oldest then s.takeGrammarFault i p else s.block .fault
    | none =>
      let s1 := if bitAt sel 1 then s.settleInbound else s
      if bitAt sel 1 && !(s1.inbound s1.cpu.id.uid).isEmpty then
        match s1.inboundFault with
        | some ch => s1.raise i (ch.heldTrap i)
        | none => s1.block .engine
      else
        (s1.joinResults (fun p => bitAt sel p.cls)).compute 4 d (BitVec.ofNat 64 due)

/-- WAITE (R191). -/
def execWaite (d a : Reg) (s : State) : Out :=
  .next (
    let i := Instr.waite d a
    let sel := s.getU a
    if 8 ≤ sel then s.raise i (illegalOf i)
    else if sel = 0 then s.compute 4 d 0
    else s.awaitResults i d sel)

end Sys2Proof.Machine
end

