-- ==== Sys2Proof/Machine/Engines.lean ====
section
/-! DEFINITION. The events inside a hart: trap entry from outside its stream, queue stalls, the end of waits, lane timing, the
progress of loads and stores in flight, of copy channels, and of the grammar engine (R25, R31, R33, R184, R240, R241, R256,
R261–R263, R268, R294, R328). They act on the hart at hand. -/

namespace Sys2Proof.Machine

/-- TRAP_ENTRY (R184, R185): the hart at hand takes a trap at its oldest uncompleted instruction; so do errors that are
found in its own storage (R189). -/
def execTrapEntry (t : TrapInfo) (s : State) : Out :=
  .next (if s.cpu.status = .running then State.takeTrap { s with cpu := s.cpu.toBoundary } t else s)

/-! Queue stalls (R31, R242, R256). -/

/-- The load queue an access-side instruction fills. -/
def loadsInto (i : Instr) : Option Nat :=
  match i with
  | .vldU o | .vldS o | .vldX o | .vldXO o | .vldSeg o | .vldC o | .vldFF o | .vtree o => some o.q.val
  | .mldq o => some o.q.val
  | _ => none

/-- The store queue a VST form drains. -/
def storesFrom (i : Instr) : Option Nat :=
  match i with
  | .vstU o | .vstS o | .vstSeg o | .vstC o => some (4 + o.q.val)
  | .vstX _ | .vstXO _ => some 4
  | _ => none

/-- The forms that take index rows from sq1 (R242, R266). -/
def isIndexed (i : Instr) : Bool :=
  match i with
  | .vldX _ | .vldXO _ | .vstX _ | .vstXO _ | .cpyIX .. => true
  | _ => false

/-- An execute-side instruction in flight that appends rows to sq1. -/
def Pend.indexes (p : Pend) : Bool :=
  match p.instr with
  | .mspill sq _ _ => sq.val = 1 && p.front.mvr != 0 && p.front.vl != 0
  | i => (laneOps i).2.any (fun r => r.val = 31) && p.front.rc != 0 && p.front.vl != 0

/-- The oldest access-side instruction waits for an index row that no older execute-side instruction will append (R242). -/
def State.indexWait (s : State) : Bool :=
  match s.flights 1 with
  | p :: _ => isIndexed p.instr && p.on.contains 5
    && !(s.cpu.inflight.takeWhile (fun x => sideOf x.instr != 1)).any Pend.indexes
  | [] => false

/-- The queues on which the access unit counts as blocked on a full load queue (R31, R242). -/
def State.accessBlock (s : State) : List Nat :=
  match s.flights 1 with
  | p :: _ => if p.full then p.on else if s.indexWait then [5] else []
  | [] => []

/-- An access-side instruction of the hart that fills queue `q` is in flight or waits in the decoder. -/
def State.fillComes (s : State) (q : Nat) : Bool :=
  (s.flights 1).any (fun x => loadsInto x.instr = some q) || s.cpu.wait = some (.decode (some q))

/-- The queues on which the oldest execute-side instruction is blocked for good: a full store queue, or an empty load queue
that nothing of the hart's access side will fill (R31). -/
def State.executeBlock (s : State) : List Nat :=
  match s.flights 2 with
  | p :: _ => if p.full then p.on else p.on.filter (fun q => !s.fillComes q)
  | [] => []

/-- The queue-stall condition of R31 and the queues that it involves (R256): both sides blocked, or the window full while the front end
cannot hand on its next instruction. -/
def State.stallQueues (s : State) : Option (List Nat) :=
  let a := s.accessBlock
  let e := s.executeBlock
  let held := (s.flights 1).filterMap (fun p =>
    (storesFrom p.instr).bind (fun q => if (s.cpu.back.queue q).rows.isEmpty then some q else none))
  let full := match s.flights 2 with
    | p :: _ => p.full
    | [] => true
  if !a.isEmpty && !e.isEmpty then some (a ++ e ++ held)
  else if s.cpu.wait.isSome && !s.mayEnter && (s.flights 1).isEmpty && !full && !e.isEmpty then some e
  else none

/-- The trap of a queue stall at an instruction (R31, R183, R256). -/
def stallTrap (p : Pend) (qs : List Nat) (index : Bool) : TrapInfo :=
  let bits := ((List.range 6).map (fun q => if qs.contains q then 2 ^ q else 0)).sum
  ⟨.queueStall, BitVec.ofNat 64 bits, 0, 0, if index then 5 else qs.foldl min 5, sideOf p.instr, true, p.front.vstart,
    p.instr.len⟩

/-- QUEUE_STALL is taken at the oldest uncompleted instruction, and counted (R31, R371). -/
def State.takeStall (s : State) (qs : List Nat) : State :=
  match s.cpu.inflight with
  | [] => s
  | p :: _ =>
    let i := s.cpu.id
    let k := s.core i.die i.core
    let t := stallTrap p qs s.indexWait
    let s1 := s.setCore i.die i.core { k with cqstall := k.cqstall + 1 }
    State.takeTrap { s1 with cpu := s1.cpu.toBoundary } t

/-- QUEUE_STALL (R31): the count of cycles has reached qslim while the condition holds; a limit of 0 turns it off. -/
def execQueueStall (s : State) : Out :=
  .next (
    match s.stallQueues with
    | none => s
    | some qs =>
      if s.cpu.status = .running && s.cpu.front.qslim != 0 && decide (s.cpu.front.qslim.toNat ≤ s.cpu.stall) then s.takeStall qs
      else s)

/-- WAIT_END (R25): the instruction at pc is tried again. -/
def execWaitEnd (s : State) : Out := .next { s with cpu := { s.cpu with wait := none } }

/-! Lane timing (R33, R294, R371). -/

/-- MICRO_OPERATION_START (R294): the bed is busy for the cost, which the core's lane counter counts (R371); no result
depends on it. -/
def execMicroOperationStart (die core bed cost : Nat) (s : State) : Out :=
  .next (
    if die < 3 && core < 128 && bed < 16 && !(s.core die core).retired.contains bed then
      s.setCore die core { s.core die core with clane := (s.core die core).clane + BitVec.ofNat 64 cost }
    else s)

/-- MICRO_OPERATION_END (R33): the bed is idle again; the instruction's own meaning says what it writes. -/
def execMicroOperationEnd (_die _core _bed : Nat) (s : State) : Out := .next s

/-! Loads and stores in flight (R240, R241). -/

def Out.state (s : State) (o : Out) : State :=
  match o with
  | .next t => t
  | _ => s

/-- The meaning of a load form. -/
def runLoad (i : Instr) (s : State) : State :=
  match i with
  | .vldU o => (execVldU o s).state s
  | .vldS o => (execVldS o s).state s
  | .vldX o => (execVldX o s).state s
  | .vldXO o => (execVldXO o s).state s
  | .vldSeg o => (execVldSeg o s).state s
  | .vldC o => (execVldC o s).state s
  | .vldFF o => (execVldFF o s).state s
  | .vtree o => (execVtree o s).state s
  | .mldq o => (execMldq o s).state s
  | _ => s

/-- The meaning of a store form. -/
def runStore (i : Instr) (s : State) : State :=
  match i with
  | .vstU o => (execVstU o s).state s
  | .vstS o => (execVstS o s).state s
  | .vstX o => (execVstX o s).state s
  | .vstXO o => (execVstXO o s).state s
  | .vstSeg o => (execVstSeg o s).state s
  | .vstC o => (execVstC o s).state s
  | _ => s

/-- The oldest access-side instruction in flight goes on, if `ok` admits it. -/
def State.accessGoes (s : State) (ok : Instr → Bool) (run : Instr → State → State) : State :=
  match s.cpu.inflight.findIdx? (fun p => sideOf p.instr = 1) with
  | none => s
  | some k =>
    match s.cpu.inflight[k]? with
    | some p => if s.cpu.status = .running && ok p.instr then State.count s (s.resumePend (State.start run) k).1 else s
    | none => s

/-- LOAD_ROW_DELIVERY (R240). -/
def execLoadRowDelivery (s : State) : Out := .next (s.accessGoes (fun i => (loadsInto i).isSome) runLoad)

/-- STORE_ROW_DRAIN (R241). -/
def execStoreRowDrain (s : State) : Out := .next (s.accessGoes (fun i => (storesFrom i).isSome) runStore)

/-! Copy channels and the grammar engine (R261–R263, R268, R328). -/

/-- COPY_PROGRESS (R261): up to `n` elements, or element groups, of channel `c`. -/
def execCopyProgress (c : Fin 8) (n : Nat) (s : State) : Out :=
  .next (upto (min n (s.chan c.val).remaining) (fun _ s => s.copyStep c.val) s)

/-- COPY_FAULT_HELD (R263): channel `c` goes on to the fault that it holds then. -/
def execCopyFaultHeld (c : Fin 8) (s : State) : Out :=
  .next (
    let s1 := s.runUntil c.val Chan.error
    if (s1.chan c.val).error then s1 else s)

/-- CPY_X_GROUP_WRITE (R268). -/
def execCpyXGroupWrite (c : Fin 8) (s : State) : Out :=
  .next (
    match (s.chan c.val).ops with
    | o :: _ => if o.form = 2 then s.copyStep c.val else s
    | [] => s)

/-- GRAMMAR_RESULT (R328, R330): the oldest result without a fault is delivered; a held fault stays until an instruction
joins with it. -/
def execGrammarResult (s : State) : Out :=
  .next (
    let g := s.cpu.back.gram
    s.setBack { s.cpu.back with gram := { g with pend := eraseFirst (fun p => p.fault.isNone) g.pend } })

end Sys2Proof.Machine
end

