-- ==== Sys2Proof/Machine/Ecdsa.lean ====
section
/-! DEFINITION. Verification of an ECDSA signature on the curve P-521 (FIPS 186-4), which the spec names without giving it
(R348; log 8). -/

namespace Sys2Proof.Machine

def p521P : Nat := 2 ^ 521 - 1
def p521N : Nat :=
  0x1FFFFFFFFFFFFFFFFFFFFFFFFFFFFFFFFFFFFFFFFFFFFFFFFFFFFFFFFFFFFFFFFFA51868783BF2F966B7FCC0148F709A5D03BB5C9B8899C47AEBB6FB71E91386409
def p521Gx : Nat :=
  0xC6858E06B70404E9CD9E3ECB662395B4429C648139053FB521F828AF606B4D3DBAA14B5E77EFE75928FE1DC127A2FFA8DE3348B3C1856A429BF97E7E31C2E5BD66
def p521Gy : Nat :=
  0x11839296A789A3BC0045C8A5FB42C7D1BD998F54449579B446817AFBD17273E662C97EE72995EF42640C550B9013FAD0761353C7086A272C24088BE94769FD16650

/-- `b` to the power `e` modulo `m`, over the low `fuel` bits of `e`. -/
def powMod (m fuel b e : Nat) : Nat :=
  match fuel with
  | 0 => 1 % m
  | k + 1 =>
    let r := powMod m k (b * b % m) (e / 2)
    if e % 2 = 1 then r * b % m else r

/-- The inverse modulo a prime of at most 521 bits. -/
def invMod (m a : Nat) : Nat := powMod m 521 a (m - 2)

/-- A point of the curve: affine coordinates, or none for the point at infinity. -/
abbrev CurvePoint := Option (Nat × Nat)

/-- The chord-and-tangent sum. -/
def pointAdd (a b : CurvePoint) : CurvePoint :=
  match a, b with
  | none, q => q
  | p, none => p
  | some (x1, y1), some (x2, y2) =>
    if x1 = x2 ∧ (y1 + y2) % p521P = 0 then none
    else
      let l := if x1 = x2 then (3 * x1 * x1 + (p521P - 3)) * invMod p521P (2 * y1 % p521P) % p521P
        else (y2 + p521P - y1) * invMod p521P ((x2 + p521P - x1) % p521P) % p521P
      let x := (l * l + 2 * p521P - x1 - x2) % p521P
      some (x, (l * (x1 + p521P - x) + p521P - y1) % p521P)

/-- `k` times a point, over the low `fuel` bits of `k`. -/
def pointMul (fuel k : Nat) (q : CurvePoint) : CurvePoint :=
  match fuel with
  | 0 => none
  | m + 1 =>
    let r := pointMul m (k / 2) (pointAdd q q)
    if k % 2 = 1 then pointAdd r q else r

/-- Whether a 132-byte signature (r then s) over a SHA-512 digest verifies against a key (X then Y). -/
def ecdsaVerify (key : BitVec 1056) (digest : BitVec 512) (sig : BitVec 1056) : Bool :=
  let r := sig.toNat / 2 ^ 528
  let s := sig.toNat % 2 ^ 528
  if r = 0 || s = 0 || p521N ≤ r || p521N ≤ s then false
  else
    let w := invMod p521N s
    let u := pointMul 521 (digest.toNat * w % p521N) (some (p521Gx, p521Gy))
    let v := pointMul 521 (r * w % p521N) (some (key.toNat / 2 ^ 528, key.toNat % 2 ^ 528))
    match pointAdd u v with
    | none => false
    | some (x, _) => x % p521N = r

end Sys2Proof.Machine
end

