-- ==== Sys2Proof/Machine/Rewrite.lean ====
section
/-! DEFINITION. What the rewriter engine changes in text (R59, R347, R351): the x-register fields of every form, the chain
bits, and relocated fields. Words are natural numbers, bit 0 the least significant bit of the first halfword. -/

namespace Sys2Proof.Machine

/-- The 5-bit x-register fields of a 32-bit word, by the place of their lowest bit (R39, R40, R50): `m` is the major, `f` the
fn3 of the V formats, `r` the low four bits of fn10. Fields that a form leaves zero name x0, which no map moves. -/
def xFields32 (m f r : Nat) : List Nat :=
  match m with
  | 0x00 | 0x09 | 0x0A | 0x0C => [7, 12, 17]
  | 0x01 | 0x04 | 0x08 => [7, 12]
  | 0x02 | 0x03 | 0x07 => [7]
  | 0x05 | 0x06 => [12, 20]
  | 0x0B => if 3 ≤ r && r ≤ 6 then [7, 12] else if r = 8 || r = 9 then [12, 17] else if r = 10 then [7, 12] else []
  | 0x0D => if r ≤ 2 || r = 5 then [7, 12, 17] else if r = 3 || r = 4 then [12] else if r = 7 then [7] else []
  | 0x0E | 0x0F => [12, 17]
  | 0x11 | 0x13 => [17]
  | 0x14 | 0x15 => if f = 4 || f = 5 then [17] else []
  | 0x18 => if f = 1 || f = 2 || f = 3 || f = 4 || f = 7 then [17] else []
  | 0x19 => if f = 0 || f = 1 || f = 3 then [17] else []
  | 0x1A => if f = 5 || f = 6 then [7] else []
  | 0x1B => if f = 0 || f = 2 then [7, 17] else if f = 1 || f = 3 then [12, 17] else if f = 4 then [7] else if f = 5 then [17] else []
  | 0x1C => if f = 5 then [7] else if f = 6 then [7, 12] else []
  | 0x1D => if r < 4 then [7, 12, 17] else if r = 4 || r = 7 then [7, 17] else if r = 5 || r = 6 then [7] else []
  | _ => []

/-- The x-register fields of a 64-bit word by class and fn5 (R47, R51). -/
def xFields64 (k f : Nat) : List Nat :=
  match k with
  | 0 => if f = 4 then [17] else if f = 5 || f = 6 then [22] else if f = 7 then [12, 17, 22] else []
  | 1 => if f = 0 then [12, 17, 22, 27] else if f = 1 || f = 5 then [12, 17, 27] else if f = 2 || f = 3 || f = 7 then [12]
    else if f = 4 || f = 6 || f = 8 then [12, 27] else []
  | 2 => if f = 0 then [12, 17] else [27]
  | 3 => if f = 0 then [12, 17, 22, 27] else if f = 1 then [12, 17, 22] else if f = 2 then [12, 22] else [12, 27]
  | _ => []

/-- The 5-bit fields of a compressed form, and its 3-bit n′ fields (R48). -/
def xFields16 (q f : Nat) : List Nat × List Nat :=
  if q = 0 then if 2 ≤ f && f ≤ 5 then ([], [2, 5]) else ([8], [])
  else if f ≤ 2 then ([8, 3], [])
  else if f = 3 || f = 4 then ([], [10])
  else if f = 6 then ([8], [])
  else ([], [])

/-- Replaces the `n` bits from `k` on. -/
def setField (w k n v : Nat) : Nat := w - w / 2 ^ k % 2 ^ n * 2 ^ k + v % 2 ^ n * 2 ^ k

/-- Renumbers the x registers of the instruction in `w` (R351). -/
def renumber (xmap : List Nat) (w : Nat) : Nat :=
  let at_ (n : Nat) : Nat := xmap.getD n n
  let five (l : List Nat) (w : Nat) : Nat := l.foldl (fun v k => setField v k 5 (at_ (w / 2 ^ k % 32))) w
  match w % 4 with
  | 2 => five (xFields32 (w / 4 % 32) (w / 2 ^ 29 % 8) (w / 2 ^ 22 % 16)) w
  | 3 => five (xFields64 (w / 4 % 32) (w / 2 ^ 7 % 32)) w
  | q =>
    let l := xFields16 q (w / 2 ^ 13 % 8)
    l.2.foldl (fun v k => setField v k 3 (at_ (10 + w / 2 ^ k % 8) - 10)) (five l.1 w)

/-- Whether va and vb of a V-format word are register or queue-head operands (R42, R44). -/
def chainable (m f : Nat) : Bool × Bool :=
  match m with
  | 0x10 => (true, f != 7)
  | 0x11 => (true, false)
  | 0x12 => (true, f != 7)
  | 0x13 => (f != 7, false)
  | 0x14 => (true, f < 4)
  | 0x15 => (true, f < 4 || f = 6)
  | 0x16 => (true, f = 2)
  | 0x17 => (true, true)
  | 0x18 => (true, f = 0)
  | 0x19 => (f != 3, f = 2)
  | 0x1B => (f = 0, false)
  | 0x1C => (f = 0 || f = 1 || f = 2, f = 0 || f = 2)
  | _ => (false, false)

/-- Applies the chain policy (R351): 0 keep, 1 clear, 2 set on register and queue-head operands. -/
def applyChain (policy w : Nat) : Nat :=
  let m := w / 4 % 32
  if policy = 0 then w
  else if w % 4 = 2 && 0x10 ≤ m && m ≤ 0x1C then
    let c := chainable m (w / 2 ^ 29 % 8)
    if policy = 1 then setField w 25 2 0
    else setField w 25 2 ((w / 2 ^ 25 % 2).max c.1.toNat + 2 * (w / 2 ^ 26 % 2).max c.2.toNat)
  else if w % 4 = 3 && m = 0 && (w / 2 ^ 7 % 32 = 1 || w / 2 ^ 7 % 32 = 2) then
    setField w 32 2 (if policy = 1 then 0 else 3)
  else w

/-! Relocation (R59, R347). -/

/-- lo(e): the low 12 bits, sign-extended. -/
def relLo (e : Int) : Int := sgn 12 (intMod 12 e)

/-- %hi(e) where e is in reach of LIU and ADDI or of PCADD, else none. -/
def relHi (e : Int) : Option Nat :=
  if -(2 ^ 31) ≤ e && e ≤ 2 ^ 31 - 2049 then some (intMod 20 ((e - relLo e) / 4096)) else none

/-- Puts an S-format immediate into a word. -/
def putS (w : Nat) (v : Int) : Nat := setField (setField w 25 7 (intMod 12 v / 32)) 7 5 (intMod 12 v)

/-- An even offset in reach, in halfwords. -/
def relOff (bits : Nat) (v : Int) : Option Nat :=
  if v % 2 = 0 && -(2 ^ (bits - 1)) ≤ v && v ≤ 2 ^ (bits - 1) - 2 then some (intMod (bits - 1) (v / 2)) else none

/-- The instruction or doubleword `w` at address `p` relocated by a type, with e = S + A; for types 5 and 6 `target` is the e
of the %pchi at the label (R59, R347). None where the value does not fit. -/
def relocate (ty : Nat) (e p target : Int) (w : Nat) : Option Nat :=
  match ty with
  | 1 => (relHi e).map (setField w 12 20)
  | 2 => some (setField w 20 12 (intMod 12 e))
  | 3 => some (putS w (relLo e))
  | 4 => (relHi (e - p)).map (setField w 12 20)
  | 5 => some (setField w 20 12 (intMod 12 (target - e)))
  | 6 => some (putS w (relLo (target - e)))
  | 7 => (relOff 13 (e - p)).map (fun h => setField (setField w 25 7 (h / 32)) 7 5 h)
  | 8 => (relOff 21 (e - p)).map (setField w 12 20)
  | 9 => (relOff 9 (e - p)).map (setField w 2 8)
  | 10 => (relOff 12 (e - p)).map (setField w 2 11)
  | _ => some (intMod 64 e)

/-- Bytes that a relocation type covers. -/
def relWidth (ty : Nat) : Nat := if ty = 11 then 8 else if ty = 9 || ty = 10 then 2 else 4

/-- The instructions of a text section, each rewritten by `g`; bytes that end inside an instruction stay (R35, R351). -/
def rewriteText (g : Nat → Nat) (fuel : Nat) (l : List Byte) : List Byte :=
  match fuel with
  | 0 => l
  | m + 1 =>
    let n := match l with
      | [] => 0
      | b :: _ => if b.toNat % 4 < 2 then 2 else if b.toNat % 4 = 2 then 4 else 8
    if n = 0 || l.length < n then l
    else leBytes n (g (leNat (l.take n))) ++ rewriteText g m (l.drop n)

end Sys2Proof.Machine
end

