-- ==== Sys2Proof/Machine/Loader.lean ====
section
/-! DEFINITION. Loading a code object (R347–R352): reading its tables, every check in order, placement, resolution,
relocation, and what a load and an unload leave. All addresses are local physical addresses (R378). -/

namespace Sys2Proof.Machine

/-! The tables of an object (R347). -/

/-- `n` bytes of an object from `off` on, as a number. -/
def objField (l : List Byte) (off n : Nat) : Nat := leNat ((l.drop off).take n)

structure SecEnt where
  name : Nat
  kind : Nat
  align : Nat
  size : Nat
  off : Nat
  rsv : Nat
  deriving DecidableEq, Repr

structure SymEnt where
  name : Nat
  sec : Nat
  bind : Nat
  type : Nat
  value : Nat
  size : Nat
  deriving DecidableEq, Repr

structure RelEnt where
  sec : Nat
  type : Nat
  rsv : Nat
  sym : Nat
  off : Nat
  addend : Int
  raw : List Byte
  deriving DecidableEq, Repr

def secEnt (l : List Byte) (o : Nat) : SecEnt :=
  ⟨objField l o 4, objField l (o + 4) 1, objField l (o + 5) 1, objField l (o + 8) 8, objField l (o + 16) 8, objField l (o + 6) 2 + objField l (o + 24) 8⟩

def symEnt (l : List Byte) (o : Nat) : SymEnt :=
  ⟨objField l o 4, objField l (o + 4) 2, objField l (o + 6) 1, objField l (o + 7) 1, objField l (o + 8) 8, objField l (o + 16) 8⟩

def relEnt (l : List Byte) (o : Nat) : RelEnt :=
  ⟨objField l o 2, objField l (o + 2) 1, objField l (o + 3) 1, objField l (o + 4) 4, objField l (o + 8) 8, sgn 64 (objField l (o + 16) 8), (l.drop o).take 24⟩

/-- An object as read: all its bytes, and its tables. -/
structure CodeImage where
  bytes : List Byte
  secs : List SecEnt
  syms : List SymEnt
  rels : List RelEnt
  deriving DecidableEq, Repr

def codeImage (l : List Byte) : CodeImage :=
  { bytes := l
    secs := (List.range (objField l 8 2)).map (fun k => secEnt l (objField l 24 8 + 32 * k))
    syms := (List.range (objField l 12 4)).map (fun k => symEnt l (objField l 32 8 + 24 * k))
    rels := (List.range (objField l 16 4)).map (fun k => relEnt l (objField l 40 8 + 24 * k)) }

def CodeImage.form (o : CodeImage) : Nat := objField o.bytes 6 1
def CodeImage.rev (o : CodeImage) : Nat := objField o.bytes 7 1

/-- The required digests. -/
def CodeImage.vits (o : CodeImage) : List (BitVec 512) :=
  (List.range (objField o.bytes 10 2)).map (fun k => digestOf ((o.bytes.drop (objField o.bytes 56 8 + 64 * k)).take 64))

/-- The bytes of the string table. -/
def CodeImage.strings (o : CodeImage) : List Byte := (o.bytes.drop (objField o.bytes 48 8)).take (objField o.bytes 20 4)

/-- A name: the bytes up to the zero byte. -/
def CodeImage.nameAt (o : CodeImage) (n : Nat) : List Byte := (o.strings.drop n).takeWhile (· != 0)

/-- A name lies below the size of the string table and ends inside it. -/
def CodeImage.nameOk (o : CodeImage) (n : Nat) : Bool := n < objField o.bytes 20 4 && (o.strings.drop n).contains 0

def CodeImage.sec (o : CodeImage) (k : Nat) : SecEnt := o.secs.getD k ⟨0, 0, 0, 0, 0, 0⟩
def CodeImage.sym (o : CodeImage) (k : Nat) : SymEnt := o.syms.getD k ⟨0, 0xFFFF, 0, 0, 0, 0⟩

/-! Format (LOAD_FORMAT of R349). -/

/-- A table or section of `n` bytes at `off` lies between the start of the object and its signature. -/
def CodeImage.inFile (o : CodeImage) (off n : Nat) : Bool := off + n + 132 ≤ o.bytes.length

/-- The header, but for `rev`. -/
def headerOk (l : List Byte) : Bool :=
  let inFile (off n : Nat) : Bool := off + n + 132 ≤ l.length
  objField l 0 4 = 0x4C554F42 && objField l 4 2 = 1 && objField l 6 1 ≤ 1 && 1 ≤ objField l 8 2 && objField l 8 2 ≤ 64 && objField l 10 2 ≤ 16
    && objField l 72 56 = 0 && inFile (objField l 24 8) (32 * objField l 8 2) && inFile (objField l 32 8) (24 * objField l 12 4)
    && inFile (objField l 40 8) (24 * objField l 16 4) && inFile (objField l 48 8) (objField l 20 4) && inFile (objField l 56 8) (64 * objField l 10 2)

def CodeImage.secOk (o : CodeImage) (e : SecEnt) : Bool :=
  o.nameOk e.name && e.kind ≤ 3 && e.align ≤ 16 && e.rsv = 0 && (if e.kind = 3 then e.off = 0 else o.inFile e.off e.size)

def CodeImage.symOk (o : CodeImage) (e : SymEnt) : Bool :=
  o.nameOk e.name && e.bind ≤ 2 && e.type ≤ 2
    && (e.sec = 0xFFFF || (e.sec < o.secs.length && e.value + e.size ≤ (o.sec e.sec).size))

def CodeImage.relOk (o : CodeImage) (e : RelEnt) : Bool :=
  e.sec < o.secs.length && 1 ≤ e.type && e.type ≤ 11 && e.rsv = 0 && e.sym < o.syms.length
    && (o.sec e.sec).kind != 3 && e.off + relWidth e.type ≤ (o.sec e.sec).size

def CodeImage.tablesOk (o : CodeImage) : Bool := o.secs.all o.secOk && o.syms.all o.symOk && o.rels.all o.relOk

/-! Placement (R350). -/

/-- The address of each section, and the end of the last, from address `a` on. -/
def placeSections (l : List SecEnt) (a : Nat) : List Nat × Nat :=
  match l with
  | [] => ([], a)
  | e :: t =>
    let p := cdiv a (2 ^ e.align) * 2 ^ e.align
    let r := placeSections t (p + e.size)
    (p :: r.1, r.2)

/-- The bytes of a section before relocation. -/
def CodeImage.secBytes (o : CodeImage) (e : SecEnt) : List Byte :=
  if e.kind = 3 then List.replicate e.size 0 else (o.bytes.drop e.off).take e.size

/-! Symbols (R350, R352). -/

/-- SHA-512 over a symbol's bytes and the relocation entries that fall within them. -/
def CodeImage.body (o : CodeImage) (e : SymEnt) : BitVec 512 :=
  sha512 ((((o.secBytes (o.sec e.sec)).drop e.value).take e.size)
    ++ (o.rels.filter (fun r => r.sec = e.sec && e.value ≤ r.off && r.off < e.value + e.size)).flatMap (fun r => r.raw))

/-- The global and weak definitions of an object placed with its sections at `places`. -/
def CodeImage.definitions (o : CodeImage) (places : List Nat) : List CodeSym :=
  (o.syms.filter (fun e => e.sec != 0xFFFF && e.bind != 0)).map (fun e =>
    ⟨o.nameAt e.name, e.bind = 2, places.getD e.sec 0 + e.value, o.body e⟩)

/-- The definition of a name that stands: the first strong one, else the first weak one; loaded definitions come first. -/
def standing (l : List CodeSym) (name : List Byte) : Option CodeSym :=
  match l.find? (fun e => e.name = name && !e.weak) with
  | some e => some e
  | none => l.find? (fun e => e.name = name)

/-- A new strong definition meets a loaded strong one with a different body (LOAD_DUPSYM). -/
def clashes (loaded new : List CodeSym) : Bool :=
  new.any (fun e => !e.weak && loaded.any (fun f => f.name = e.name && !f.weak && f.body != e.body))

/-- The address S of a symbol: a local definition's own, else that of the definition that stands. -/
def CodeImage.symAddr (o : CodeImage) (places : List Nat) (defs : List CodeSym) (e : SymEnt) : Option Nat :=
  if e.sec != 0xFFFF && e.bind = 0 then some (places.getD e.sec 0 + e.value)
  else (standing defs (o.nameAt e.name)).map (fun d => d.addr)

/-! Relocation (R59, R347). -/

/-- A relocation with its address P, its e = S + A, and for types 5 and 6 the e of the %pchi that its symbol labels. -/
structure Fixup where
  rel : RelEnt
  p : Nat
  e : Int
  target : Int
  deriving DecidableEq, Repr

/-- The fixups of an object whose symbols all have an address. Those of types 5 and 6 whose label holds no relocation of type
4 are LOAD_FORMAT, and answered with none. -/
def CodeImage.fixups (o : CodeImage) (places : List Nat) (defs : List CodeSym) : List (Option Fixup) :=
  let base (r : RelEnt) : Fixup :=
    ⟨r, places.getD r.sec 0 + r.off, (((o.symAddr places defs (o.sym r.sym)).getD 0 : Nat) : Int) + r.addend, 0⟩
  o.rels.map (fun r =>
    let f := base r
    if r.type = 5 || r.type = 6 then
      (o.rels.find? (fun q => q.type = 4 && ((base q).p : Int) = f.e)).map (fun q => { f with target := (base q).e })
    else some f)

/-- Applies one fixup to the bytes of its section; none where the value does not fit (LOAD_RANGE). -/
def Fixup.apply (f : Fixup) (l : List Byte) : Option (List Byte) :=
  let n := relWidth f.rel.type
  (relocate f.rel.type f.e f.p f.target (objField l f.rel.off n)).map (fun w =>
    l.take f.rel.off ++ leBytes n w ++ l.drop (f.rel.off + n))

/-- A section with its fixups applied. -/
def fixSection (fs : List Fixup) (l : List Byte) : Option (List Byte) :=
  match fs with
  | [] => some l
  | f :: t => (f.apply l).bind (fixSection t)

/-! The register map (R351). -/

/-- A permutation of 0 to 31 that keeps 0 and maps 10 to 17 onto themselves. -/
def xmapOk (l : List Nat) : Bool :=
  l.length = 32 && (List.range 32).all (fun n => l.contains n) && l.getD 0 1 = 0
    && (List.range 8).all (fun k => 10 ≤ l.getD (10 + k) 0 && l.getD (10 + k) 0 ≤ 17)

/-- The map of a request: that at `mbarg3`, the identity for 0 and for a bound object; none where the loader cannot read it, for it
reaches only memory that is not fenced and not bad (R189, R208). -/
def State.xmap (s : State) (o : CodeImage) : Option (List Nat) :=
  let a := (vget 0 s.pkg.mgmt.mbarg 3).toNat
  if o.form = 0 || a = 0 then some (List.range 32)
  else if (List.range 32).all (fun k => (s.regionAt (a + k)).isMem && !s.unreadable (a + k)) then
    some ((List.range 32).map (fun k => (readCell s.mem (a + k)).toNat))
  else none

/-- What the rewriter makes of the text of a section: the chain policy, then the register map (R351). -/
def CodeImage.rewrite (o : CodeImage) (policy : Nat) (xmap : List Nat) (l : List Byte) : List Byte :=
  rewriteText (fun w => if o.form = 1 then renumber xmap (applyChain policy w) else applyChain policy w) l.length l

/-! The load (R349). -/

/-- The signature verifies against one of the trusted keys (R348). -/
def State.signed (s : State) (l : List Byte) : Bool :=
  let n := l.length - 132
  let d := sha512 (l.take n)
  let sig : BitVec 1056 := BitVec.ofNat 1056 (leNat (l.drop n).reverse)
  132 ≤ l.length && s.pkg.mgmt.keys.any (fun k => ecdsaVerify k d sig)

/-- The lowest-numbered sealed entry with a digest. -/
def State.sealedWith (s : State) (d : BitVec 512) : Option Nat :=
  (List.range 256).find? (fun v => (s.vitrine v).state = 2 && (s.vitrine v).digest = d)

/-- The footprint is writable device memory, outside every vitrine and log partition. -/
def State.spaceOk (s : State) (a n : Nat) : Bool :=
  a % 65536 = 0 && vitrineRange s.pkg.tierOk a n && !(List.range (cdiv n 65536)).any (fun k => s.fenced (a + 65536 * k))
    && !s.pkg.vitrines.any (fun e => e.2.state != 0 && overlaps a n e.2.base (e.2.units * mib64))
    && !s.pkg.parts.toList.any (fun x => x.lcap != 0 && overlaps a n x.labase.toNat (4096 + 128 * 2 ^ x.lcap))

/-- A load that has passed every check: the address and bytes of each section. -/
structure CodeLoad where
  image : CodeImage
  place : Nat
  size : Nat
  parts : List (Nat × SecEnt × List Byte)
  symbols : List CodeSym
  pins : List Nat
  deriving DecidableEq, Repr

/-- The checks of R349 in their order, on the bytes `l` of an object. -/
def State.checkLoad (s : State) (l : List Byte) : Except Nat CodeLoad :=
  let m := s.pkg.mgmt
  let a := (vget 0 m.mbarg 1).toNat
  let policy := (vget 0 m.mbarg 2).toNat % 4
  if !s.signed l then .error 1
  else if !headerOk l || policy = 3 then .error 2
  else
    let o := codeImage l
    let r := placeSections o.secs a
    let loaded := m.objects.flatMap (fun x => x.symbols)
    let new := o.definitions r.1
    let defs := loaded ++ new
    let fs := o.fixups r.1 defs
    let fixed := (o.secs.zip r.1).zipIdx.map (fun e =>
      (e.1.2, e.1.1, fixSection ((fs.filterMap id).filter (fun f => f.rel.sec = e.2)) (o.secBytes e.1.1)))
    let unresolved := o.syms.any (fun e => (o.symAddr r.1 defs e).isNone)
    if !o.tablesOk || (!unresolved && fs.any Option.isNone) then .error 2
    else if o.rev != 1 then .error 3
    else if o.vits.any (fun d => (s.sealedWith d).isNone) then .error 4
    else if clashes loaded new then .error 5
    else if unresolved then .error 6
    else if fixed.any (fun e => e.2.2.isNone) then .error 7
    else if !(s.xmap o).any xmapOk then .error 8
    else if !s.spaceOk a (r.2 - a) then .error 9
    else .ok {
      image := o
      place := a
      size := r.2 - a
      parts := fixed.map (fun e =>
        let b := e.2.2.getD []
        (e.1, e.2.1, if e.2.1.kind = 0 then o.rewrite policy ((s.xmap o).getD []) b else b))
      symbols := new
      pins := o.vits.filterMap s.sealedWith }

/-- Pins one more use of an entry, or one fewer; the count has 16 bits (R303). -/
def State.pin (s : State) (v : Nat) (up : Bool) : State :=
  let e := s.vitrine v
  s.setVitrine v { e with pins := (e.pins + (if up then 1 else 65535)) % 65536 }

/-- What a load does once every check has passed (R349): pins, sections over zeroed padding, caches, the object's record. -/
def State.performLoad (s : State) (c : CodeLoad) : State :=
  let s1 := c.pins.foldl (fun (s : State) v => s.pin v true) s
  let s2 := c.parts.foldl (fun (s : State) e => s.agentBytes 0 e.1 e.2.2) (s1.agentBytes 0 c.place (List.replicate c.size 0))
  let text := c.parts.filter (fun (e : Nat × SecEnt × List Byte) => e.2.1.kind = 0)
  let s3 := text.foldl (fun (s : State) e => s.dropCode none e.1 e.2.1.size) s2
  { s3 with pkg := { s3.pkg with mgmt := { s3.pkg.mgmt with
      objects := s3.pkg.mgmt.objects ++ [⟨c.place, c.size, c.symbols, c.pins, sha512 c.image.bytes⟩] } } }

/-- A mailbox command is under way and has not been carried out (R378). -/
def State.commandIs (s : State) (k : Nat) : Bool :=
  bitAt s.pkg.mgmt.mbstat.toNat 0 && s.pkg.mgmt.mbcmd.toNat = k && s.pkg.mgmt.mbres.isNone

/-- The result of the command that has been carried out. -/
def State.commandDone (s : State) (res : Nat) : State :=
  { s with pkg := { s.pkg with mgmt := { s.pkg.mgmt with mbres := some res } } }

/-- Argument `k` of the command. -/
def State.mbArg (s : State) (k : Nat) : Nat := (vget 0 s.pkg.mgmt.mbarg k).toNat

/-- The loader reads `n` bytes (R208): populated memory, none of it fenced or uncorrectable. -/
def State.loadable (s : State) (a n : Nat) : Bool :=
  vitrineRange s.pkg.tierOk a n && (s.badWords a n).isEmpty && !s.rangeFenced a n

/-- LOAD_CODE_OBJECT (R349). Of an object that cannot be read the signature does not verify (DESIGN CHOICE, log 35: R208 says only
that the load is refused); uncorrectable data in it is dropped (R210). -/
def execLoadCodeObject (s : State) : Out :=
  .next (
    if !s.commandIs 1 then s
    else
      let a := s.mbArg 0
      let n := if s.loadable a 128 then leNat (readCells s.mem (a + 64) 8) else 128
      if !s.loadable a n then (s.sweep a n).commandDone 1
      else match s.checkLoad (readCells s.mem a n) with
        | .error e => (if e = 8 then s.sweep (s.mbArg 3) 32 else s).commandDone e
        | .ok c => (s.performLoad c).commandDone 0)

/-- UNLOAD (R349, R378). -/
def execUnload (s : State) : Out :=
  .next (
    if !s.commandIs 2 then s
    else match s.pkg.mgmt.objects.find? (fun o => o.place = s.mbArg 0) with
      | none => s.commandDone 9
      | some o =>
        let s1 := o.pins.foldl (fun (s : State) v => s.pin v false) s
        ({ s1 with pkg := { s1.pkg with mgmt := { s1.pkg.mgmt with
            objects := eraseFirst (fun x => x.place = o.place) s1.pkg.mgmt.objects } } }).commandDone 0)

end Sys2Proof.Machine
end

