-- ==== Sys2Proof/Machine/Package.lean ====
section
/-! DEFINITION. What the host, the management core, the fabric and the hardware around the harts do: work-queue and register
writes, mailbox commands 3 to 7, reset and boot, sensors, errors, links, and accesses from outside (R12, R182, R203, R208,
R210, R277–R279, R305, R370, R374, R376–R383). -/

namespace Sys2Proof.Machine

/-! Writes to registers (R277–R279, R377). -/

/-- A write to a register of queue `q`: the fabric reaches none, and there is none from 2,048 on (R208, R277). -/
def State.queueWrite (s : State) (by_ : Agent) (q off : Nat) (v : W64) : State :=
  if 2048 ≤ q then s.countDrop 0 by_ else if by_ = .fabric then s.wqDrop q by_ else s.wqWrite by_ q off v

/-- WQTAIL_WRITE (R279). -/
def execWqtailWrite (by_ : Agent) (queue : Nat) (v : W64) (s : State) : Out := .next (s.queueWrite by_ queue 0x020 v)

/-- WQBASE_WRITE (R277). -/
def execWqbaseWrite (by_ : Agent) (queue : Nat) (v : W64) (s : State) : Out := .next (s.queueWrite by_ queue 0x000 v)

/-- WQCTL_WRITE (R278). -/
def execWqctlWrite (by_ : Agent) (queue : Nat) (v : W64) (s : State) : Out := .next (s.queueWrite by_ queue 0x018 v)

/-- WQSTAT_WRITE (R278). -/
def execWqstatWrite (by_ : Agent) (queue : Nat) (v : W64) (s : State) : Out := .next (s.queueWrite by_ queue 0x038 v)

/-- What the host reaches of the address map through its BARs (R208, R376). -/
def State.hostReaches (s : State) (a : Nat) : Bool :=
  match s.regionAt a with
  | .hbm | .tier2 | .wq .. => true
  | .mgmt d _ => d = 0
  | .own _ | .hole => false

/-- A write that is refused counts where it is dropped (R277, R372): at the die of memory or of management space, in the page of a
queue, else at die 0, where the host link ends (R376) and with it every host write to another die's space (log 32). -/
def State.refuseWrite (s : State) (by_ : Agent) (a : Nat) : State :=
  match s.regionAt a with
  | .hbm | .tier2 => s.countDrop (homeDie a) by_
  | .mgmt d _ => s.countDrop (if by_ = .host then 0 else d) by_
  | .wq q _ => s.wqDrop q by_
  | .own _ | .hole => s.countDrop 0 by_

/-- REGISTER_WRITE (R377): a doubleword of management space or of a queue page. A hart's store that PROTECTION refuses changes
nothing here: the hart has trapped. -/
def execRegisterWrite (by_ : Agent) (addr : Nat) (v : W64) (s : State) : Out :=
  .next (
    let refused := match regionOf addr with
      | .own off => mgmtNoHartWrite 0 off
      | .mgmt d off => mgmtNoHartWrite d off
      | _ => false
    if (regionOf addr).isMem || regionOf addr = .hole || addr % 8 != 0 then s
    else if by_ = .fabric || (by_ = .host && !s.hostReaches addr) then s.refuseWrite by_ addr
    else if (by_ = .hart || by_ = .privHart) && refused then s
    else s.regWrite by_ 0 addr (leBytes 8 v.toNat))

/-! Mailbox commands 3 to 7 (R28, R189, R370, R378, R380, R382). -/

/-- The trusted keys as bytes (R379). -/
def Mgmt.keyBytes (m : Mgmt) : List Byte := m.keys.flatMap (fun k => (leBytes 132 k.toNat).reverse)

/-- The block of command 3 (R380). -/
def State.deviceBlock (s : State) (nonce : Nat) : List Byte :=
  let cores := s.coreCount 0 + 256 * s.coreCount 1 + 65536 * s.coreCount 2
  let body := leBytes 8 (partWord 0) ++ leBytes 8 s.ownPkg ++ leBytes 8 nonce ++ digestBytes s.pkg.mgmt.measure
    ++ digestBytes (sha512 s.pkg.mgmt.keyBytes) ++ leBytes 8 cores
  body ++ signature body ++ List.replicate 220 0

/-- A local address that agents other than the log engine may write: populated, not fenced, in no vitrine and no log
partition (R208). -/
def State.writable (s : State) (a : Nat) : Bool :=
  (s.regionAt a).isMem && !s.fenced a && (s.vitrineAt a).isNone && !s.inAccession a

/-- ATTEST_DEVICE (R380). -/
def execAttestDevice (s : State) : Out :=
  .next (
    let a := s.mbArg 0
    if !s.commandIs 3 then s
    else if a % 512 != 0 || regionOf a != .hbm || !s.writable a then s.commandDone 0x20
    else (s.agentBytes 0 a (s.deviceBlock (s.mbArg 1))).commandDone 0)

/-- SET_PACKAGE_NUMBER (R378, R382): the fabric ports come up; which packages answer is free. -/
def execSetPackageNumber (s : State) : Out :=
  .next (
    let n := s.mbArg 0
    if !s.commandIs 4 then s
    else if 16383 < n || s.pkg.mgmt.package.isSome || s.pkg.wqs.any (fun e => e.2.en) then s.commandDone 0x21
    else
      let answer := (List.range 16384).filter (fun p => p != n && Config.freeBool (s.tick + p))
      State.commandDone { s with
        pkg := { s.pkg with mgmt := { s.pkg.mgmt with package := some n }, reach := answer }
        tick := s.tick + 16384 } 0)

/-- RELEASE_FENCED_FRAME (R189, R305): memory that a controller or a port has fenced as a whole stays fenced until reset. -/
def execReleaseFencedFrame (s : State) : Out :=
  .next (
    let a := s.mbArg 0
    if !s.commandIs 5 then s
    else if !(s.regionAt a).isMem || !s.fenced a then s.commandDone 0x22
    else if s.fencedWhole a then s.commandDone 0
    else State.commandDone { s with pkg := { s.pkg with fences := s.pkg.fences.filter (· != a / 65536) } } 0)

/-- SET_TRIP_POINT (R370, R378). -/
def execSetTripPoint (s : State) : Out :=
  .next (
    let d := bitsOf (s.mbArg 0) 9 8
    let v := (vget 0 s.pkg.mgmt.mbarg 1).toInt
    if !s.commandIs 6 then s
    else match (if d < 3 then s.coreOfLcid d (s.mbArg 0 % 128) else none) with
      | none => s.commandDone 0x23
      | some p =>
        if v < -320 || 1200 < v then s.commandDone 0x23
        else (s.setCore d p { s.core d p with trip := BitVec.ofInt 16 v }).commandDone 0)

/-- SET_QUANTUM (R28, R378). -/
def execSetQuantum (s : State) : Out :=
  .next (
    let d := s.mbArg 0 % 4
    let v := s.mbArg 1
    if !s.commandIs 7 then s
    else if d = 3 || v < 65536 || 2 ^ 32 ≤ v then s.commandDone 0x24
    else State.commandDone { s with pkg := { s.pkg with quantum := vput s.pkg.quantum d v } } 0)

/-- MAILBOX_COMPLETION (R376, R378). -/
def execMailboxCompletion (s : State) : Out :=
  .next (
    match s.pkg.mgmt.mbres with
    | none => s
    | some r => { s with pkg := { s.pkg with
        mgmt := { s.pkg.mgmt with mbstat := BitVec.ofNat 64 (256 * r), mbres := none }
        msix := s.pkg.msix.set 0 (s.pkg.msix[0] + 1) } })

/-! Reset and boot (R12, R203, R379). -/

/-- The measurement after the ROM and `n` verified stages. -/
def measureStages (n : Nat) : BitVec 512 :=
  upto n (fun k m => sha512 (digestBytes m ++ digestBytes (Config.stageDigest (k + 1))))
    (sha512 (List.replicate 64 0 ++ digestBytes (Config.stageDigest 0)))

/-- Stages verified before boot ends: the firmware of die 0, then that of dies 1 and 2. -/
def bootStages (b : BootInfo) : Nat := if b.ok then 3 else min 3 (b.failedAt - 1)

/-- Beds of a core that boot has retired. -/
def bootRetired (b : BootInfo) (d p : Nat) : List Nat :=
  (b.retired.filterMap (fun e => if e.1 = d && e.2.1 = p && e.2.2 < 16 then some e.2.2 else none)).eraseDups

/-- Core `p` of die `d` after boot: enabled cores take rising lcids (R11, R12). -/
def bootCore (b : BootInfo) (d p : Nat) : CoreSt :=
  { CoreSt.reset with
    retired := bootRetired b d p
    lcid := ((List.range p).filter (fun k => (bootRetired b d k).length < 2)).length }

/-- The cores that differ from their reset values after boot. -/
def bootCores (b : BootInfo) : SMap CoreSt :=
  if b.retired.isEmpty then []
  else (List.range 384).map (fun k => (k, bootCore b (k / 128) (k % 128)))

/-- Everything as after reset, with what boot has made of package `p`; what memory holds is free (R397). -/
def State.resetTo (s : State) (p : Pkg) : State :=
  { State.reset with
    mem := s.mem.map (fun c => (c.1, Config.resetByte s.tick c.1))
    pkg := p
    agenda := s.agenda
    tick := s.tick + 1 }

/-- RESET (R339, R379, R397): everything as after reset, then the boot sequence, which sets up the log partitions. -/
def execReset (b : BootInfo) (s : State) : Out :=
  let s1 := s.resetTo { Pkg.reset with
    mgmt := { Mgmt.reset with
      bstate := if b.ok then 3 else 4
      measure := measureStages (bootStages b)
      keys := if b.ok then (List.range (min b.nkeys 16)).map Config.bootKeys else [] }
    cores := bootCores b
    tierOk := b.tierOk }
  .next (if b.ok then b.parts.foldl State.bootPartition s1 else s1)

/-- A reset whose boot has come to where bstate reads `k`: reset, the firmware of die 0 verified, or cores and links ready (R379). How
it goes on from there is a RESET. -/
def State.bootTo (s : State) (b : BootInfo) (k : Nat) : State :=
  let got := if k = 0 then 0 else if k = 1 then 1 else 3
  if 2 < k || bootStages b < got || (k = 2 && !b.ok && b.failedAt ≤ 4) then s
  else s.resetTo { Pkg.reset with
    mgmt := { Mgmt.reset with bstate := BitVec.ofNat 64 k, measure := if k = 0 then 0 else measureStages got }
    cores := if k = 2 then bootCores b else []
    tierOk := k != 2 || b.tierOk }

/-! Sensors and power (R182, R370, R383). -/

/-- THERMAL_REFRESH (R370, R383): the reading, a request in every resident hart at the trip point, halved clocks, power
removal. -/
def execThermalRefresh (die core : Nat) (reading : BitVec 16) (s : State) : Out :=
  .next (
    let t := reading.toInt
    let k := s.core die core
    if 3 ≤ die || 128 ≤ core || t < -320 || 1200 < t then s
    else
      let slow := if 880 ≤ t then true else if t < 840 then false else k.slow
      let hit (h : Hart) : Hart :=
        if h.status = .running && h.id.die = die && h.id.core = core && k.trip.toInt ≤ t then
          { h with front := h.front.requestMove 1 } else h
      let s1 := s.setCore die core { k with therm := reading, slow := slow }
      { s1 with
        cpu := hit s1.cpu
        others := s1.others.map hit
        pkg := { s1.pkg with power := s1.pkg.power && decide (t < 1000) } })

/-- POWER_LIMIT_THROTTLE (R383): clocks are lowered or restored; only time changes. -/
def execPowerLimitThrottle (excess : Bool) (s : State) : Out := .next { s with pkg := { s.pkg with limited := excess } }

/-! Errors and links (R189, R210, R374, R381, R382). -/

/-- SCRUB (R210): a unit of memory is read; a single-bit error is corrected and counted, a double-bit error dropped. -/
def execScrub (addr : Nat) (double : Bool) (s : State) : Out :=
  .next (
    if !(s.regionAt addr).isMem then s
    else if double then State.dropWord { s with pkg := { s.pkg with poison := addr / 8 :: s.pkg.poison } } (memKind addr) addr
    else s.countCe (homeDie addr) (memKind addr))

/-- The launch fault of a UCIe link that is down (R374). -/
def linkFault : TrapInfo := ⟨.dataError, 0, 0, 2, 15, 0, false, 0, 4⟩

/-- Every running launch ends by launch fault (R374). -/
def State.faultAll (s : State) : State :=
  s.pkg.gangs.foldl (fun s g =>
    if !g.sown || s.gangDone g then s
    else match (s.gangHarts g.gid).head? with
      | some h => s.asHart h.id.uid (fun s => s.launchFault linkFault)
      | none => s) s

/-- FLIT_RETRY (R374): a flit is retried on a link of the die; a UCIe link that fails to retrain is down. -/
def execFlitRetry (die : Nat) (retrainFails : Bool) (s : State) : Out :=
  .next (
    let s1 := { s with pkg := { s.pkg with dies := vmod s.pkg.dies die (fun c => { c with lretry := c.lretry + 1 }) } }
    if !retrainFails || 3 ≤ die then s1
    else State.faultAll { s1 with pkg := { s1.pkg with
        uciDown := die :: s1.pkg.uciDown, mgmt := { s1.pkg.mgmt with bstate := 4 } } })

/-- CXL_LINK_DOWN (R381): all frames of the port are fenced, and counted by its die (R372). -/
def execCxlLinkDown (port : Nat) (s : State) : Out :=
  .next (
    if 12 ≤ port || s.pkg.cxlDown.contains port then s
    else
      let c := 12 + port
      let more := if s.pkg.closed.contains c then 0 else controllerFrames c - s.framesHeld c
      { s with pkg := { s.pkg with
          cxlDown := port :: s.pkg.cxlDown
          dies := vmod s.pkg.dies (port / 4) (fun c => { c with fenced := c.fenced + BitVec.ofNat 64 more }) } })

/-- FABRIC_READ_TIMEOUT (R208, R382): a read of the package that the next step makes goes unanswered, and completes with an error
response. -/
def execFabricReadTimeout (package : Nat) (s : State) : Out :=
  .next { s with pkg := { s.pkg with unanswered := package :: s.pkg.unanswered } }

/-! Accesses from outside (R208, R376). -/

/-- A read by another package (R208): its data, or an error response, empty, where it meets something else than memory, a fenced frame
or uncorrectable data, which is dropped and counted under kind 0 (R372). -/
def State.fabricRead (s : State) (a n : Nat) : State :=
  let places := (List.range n).map (a + ·)
  let answer (s : State) (l : List Byte) : State := { s with pkg := { s.pkg with fabricData := l } }
  if !places.all (fun a => (s.regionAt a).isMem && !s.fenced a) then answer s []
  else if (s.badWords a n).isEmpty then answer (s.readLines (homeDie a) places) (readCells s.mem a n)
  else answer ((s.badWords a n).foldl (fun (s : State) u => s.dropWord 0 (u * 8)) s) []

/-- Bytes written to memory by an agent of the home die, where every one may be written (R206, R208). -/
def State.outsideWrite (s : State) (a : Nat) (l : List Byte) : State := s.agentBytes (homeDie a) a l

/-- FABRIC_REQUEST (R208): a read or a write of memory from another package; none comes before the ports are up (R382). -/
def execFabricRequest (write : Bool) (addr : Nat) (bytes : List Byte) (s : State) : Out :=
  .next (
    let places := (List.range bytes.length).map (addr + ·)
    if s.pkg.mgmt.package.isNone then s
    else if !write then s.fabricRead addr bytes.length
    else if places.all s.writable then s.outsideWrite addr bytes
    else s.refuseWrite .fabric addr)

/-- HOST_READ (R208, R376): the bytes, or none where the read completes with Unsupported Request. -/
def execHostRead (addr size : Nat) (s : State) : Out :=
  .next (
    let places := (List.range size).map (addr + ·)
    if !places.all (fun a => s.hostReaches a && !((s.regionAt a).isMem && s.fenced a)) then
      { s with pkg := { s.pkg with hostData := [] } }
    else if !(s.badWords addr size).isEmpty then
      let s1 := s.sweep addr size
      { s1 with pkg := { s1.pkg with hostData := [] } }
    else
      let s1 := s.readLines (homeDie addr) places
      { s1 with pkg := { s1.pkg with hostData := places.map (s.localByte 0) } })

/-- Writes bytes to registers, doubleword by doubleword. -/
def State.regWrites (fuel : Nat) (by_ : Agent) (a : Nat) (l : List Byte) (s : State) : State :=
  match fuel with
  | 0 => s
  | m + 1 =>
    let n := min l.length (8 - a % 8)
    if l.isEmpty then s else State.regWrites m by_ (a + n) (l.drop n) (s.regWrite by_ 0 a (l.take n))

/-- HOST_WRITE (R208, R376). -/
def execHostWrite (addr : Nat) (bytes : List Byte) (s : State) : Out :=
  .next (
    let places := (List.range bytes.length).map (addr + ·)
    if places.all s.writable then s.outsideWrite addr bytes
    else if places.all (fun a => s.hostReaches a && !(s.regionAt a).isMem) then s.regWrites bytes.length .host addr bytes
    else s.refuseWrite .host addr)

/-- The management core reads local memory (R206, R208): uncorrectable data is dropped. -/
def State.firmwareRead (s : State) (a n : Nat) : State := (s.readLines 0 ((List.range n).map (a + ·))).sweep a n

/-- The management core writes local memory and registers (R208); what it cannot write is reported to firmware. -/
def State.firmwareWrite (s : State) (a : Nat) (l : List Byte) : State :=
  let places := (List.range l.length).map (a + ·)
  if places.all s.writable then s.agentBytes 0 a l
  else if places.all (fun a => !(s.regionAt a).isMem && s.regionAt a != .hole) then s.regWrites l.length .management a l
  else s

end Sys2Proof.Machine
end

