-- ==== Sys2Proof/Machine/Sfp.lean ====
section
/-! DEFINITION. Scalar floating point (R75–R79). -/

namespace Sys2Proof.Machine

/-- The FP32 value in bits [31:0] (R75). -/
def valS (v : W64) : Ex := fp32.val (v.toNat % 2 ^ 32)

/-- The FP64 value. -/
def valD (v : W64) : Ex := fp64.val v.toNat

/-- A result rounded once in direction `rm` and written with zeros above (R75, R76). -/
def fpOut (f : Fmt) (rm : Nat) (z : Ex) : W64 := BitVec.ofNat 64 (f.round rm z).1

/-- rmode at the instruction's place in program order (R76). -/
def State.rm (s : State) : Nat := s.cpu.front.rmode.toNat

/-- FCVT.L.S and FCVT.L.D (R79): rounded by rmode, limited to the signed 64-bit range; NaN gives 0. -/
def fpToInt (rm : Nat) (z : Ex) : W64 :=
  match z with
  | .nan => 0
  | .inf neg => BitVec.ofInt 64 (if neg then -2 ^ 63 else 2 ^ 63 - 1)
  | .zero _ => 0
  | .rat n d => BitVec.ofInt 64 (max (-2 ^ 63) (min (2 ^ 63 - 1) (roundInt rm n d)))

/-- FADD.S (R77). -/
def execFaddS (d a b : Reg) (s : State) : Out := .next (s.alu 4 d a b (fun x y => fpOut fp32 s.rm ((valS x).add s.rm (valS y))))
/-- FSUB.S (R77). -/
def execFsubS (d a b : Reg) (s : State) : Out := .next (s.alu 4 d a b (fun x y => fpOut fp32 s.rm ((valS x).sub s.rm (valS y))))
/-- FMUL.S (R77). -/
def execFmulS (d a b : Reg) (s : State) : Out := .next (s.alu 4 d a b (fun x y => fpOut fp32 s.rm ((valS x).mul (valS y))))
/-- FDIV.S (R77). -/
def execFdivS (d a b : Reg) (s : State) : Out := .next (s.alu 4 d a b (fun x y => fpOut fp32 s.rm ((valS x).div (valS y))))
/-- FSQRT.S (R77). -/
def execFsqrtS (d a : Reg) (s : State) : Out := .next (s.alu1 4 d a (fun x => fpOut fp32 s.rm (valS x).sqrt))
/-- FMIN.S (R78). -/
def execFminS (d a b : Reg) (s : State) : Out := .next (s.alu 4 d a b (fun x y => fpOut fp32 s.rm (exMin (valS x) (valS y))))
/-- FMAX.S (R78). -/
def execFmaxS (d a b : Reg) (s : State) : Out := .next (s.alu 4 d a b (fun x y => fpOut fp32 s.rm (exMax (valS x) (valS y))))
/-- FEQ.S (R77). -/
def execFeqS (d a b : Reg) (s : State) : Out := .next (s.alu 4 d a b (fun x y => truth ((valS x).eq (valS y))))
/-- FLT.S (R77). -/
def execFltS (d a b : Reg) (s : State) : Out := .next (s.alu 4 d a b (fun x y => truth ((valS x).lt (valS y))))
/-- FADD.D (R77). -/
def execFaddD (d a b : Reg) (s : State) : Out := .next (s.alu 4 d a b (fun x y => fpOut fp64 s.rm ((valD x).add s.rm (valD y))))
/-- FSUB.D (R77). -/
def execFsubD (d a b : Reg) (s : State) : Out := .next (s.alu 4 d a b (fun x y => fpOut fp64 s.rm ((valD x).sub s.rm (valD y))))
/-- FMUL.D (R77). -/
def execFmulD (d a b : Reg) (s : State) : Out := .next (s.alu 4 d a b (fun x y => fpOut fp64 s.rm ((valD x).mul (valD y))))
/-- FDIV.D (R77). -/
def execFdivD (d a b : Reg) (s : State) : Out := .next (s.alu 4 d a b (fun x y => fpOut fp64 s.rm ((valD x).div (valD y))))
/-- FSQRT.D (R77). -/
def execFsqrtD (d a : Reg) (s : State) : Out := .next (s.alu1 4 d a (fun x => fpOut fp64 s.rm (valD x).sqrt))
/-- FCVT.S.L (R77). -/
def execFcvtSL (d a : Reg) (s : State) : Out := .next (s.alu1 4 d a (fun x => fpOut fp32 s.rm (Ex.int x.toInt)))
/-- FCVT.L.S (R79). -/
def execFcvtLS (d a : Reg) (s : State) : Out := .next (s.alu1 4 d a (fun x => fpToInt s.rm (valS x)))
/-- FCVT.S.D (R77). -/
def execFcvtSD (d a : Reg) (s : State) : Out := .next (s.alu1 4 d a (fun x => fpOut fp32 s.rm (valD x)))
/-- FCVT.D.S (R77): exact. -/
def execFcvtDS (d a : Reg) (s : State) : Out := .next (s.alu1 4 d a (fun x => fpOut fp64 s.rm (valS x)))
/-- FCVT.D.L (R77). -/
def execFcvtDL (d a : Reg) (s : State) : Out := .next (s.alu1 4 d a (fun x => fpOut fp64 s.rm (Ex.int x.toInt)))
/-- FCVT.L.D (R79). -/
def execFcvtLD (d a : Reg) (s : State) : Out := .next (s.alu1 4 d a (fun x => fpToInt s.rm (valD x)))

end Sys2Proof.Machine
end

