-- ==== Sys2Proof/Machine/VArith.lean ====
section
/-! DEFINITION. VARITH, VARITH.X and VMAC (R131–R135). -/

namespace Sys2Proof.Machine

def opAdd (c : ECtx) (a b : Ex) : Nat × Bool := exBin (fun c a b => a.add c.rm b) c a b
def opSub (c : ECtx) (a b : Ex) : Nat × Bool := exBin (fun c a b => a.sub c.rm b) c a b
def opMul (c : ECtx) (a b : Ex) : Nat × Bool := exBin (fun _ a b => a.mul b) c a b
def opMin (c : ECtx) (a b : Ex) : Nat × Bool := c.write true false (exMin a b)
def opMax (c : ECtx) (a b : Ex) : Nat × Bool := c.write true false (exMax a b)

/-- floor(A × B / 2^w), w the width of the result (R131). -/
def opMulh (c : ECtx) (a b : Ex) : Nat × Bool :=
  match a.mul b with
  | .rat n _ => c.write false false (Ex.int (n / 2 ^ tagW c.out))
  | z => c.write false false z

/-- VADD (R131). -/
def execVadd (o : VOps) (s : State) : Out := .next (elementwise (.vadd o) o (vvForm (promoteRule o) opAdd) s)
/-- VSUB (R131). -/
def execVsub (o : VOps) (s : State) : Out := .next (elementwise (.vsub o) o (vvForm (promoteRule o) opSub) s)
/-- VMUL (R131). -/
def execVmul (o : VOps) (s : State) : Out := .next (elementwise (.vmul o) o { vvForm (promoteRule o) opMul with mult := .vb } s)

/-- Both sources integer: the promoted tag (R93); a store queue's tag integer too. -/
def intPromoteRule (o : VOps) (f : Front) : Except Nat Tag :=
  if tagIsInt (f.srcTag o.va) && tagIsInt (f.srcTag o.vb) then overQueue o f tagIsInt (promoteRule o f)
  else .error (tagEval (f.srcTag o.va) (f.srcTag o.vb))

/-- VMULH (R131): integer only; the result tag is a store queue's own there, and must be integer. -/
def execVmulh (o : VOps) (s : State) : Out := .next (elementwise (.vmulh o) o { vvForm (intPromoteRule o) opMulh with mult := .vb } s)
/-- VDIV (R131, R132). -/
def execVdiv (o : VOps) (s : State) : Out := .next (elementwise (.vdiv o) o (vvForm (promoteRule o) divElem) s)
/-- VMIN (R132). -/
def execVmin (o : VOps) (s : State) : Out := .next (elementwise (.vmin o) o (vvForm (promoteRule o) opMin) s)
/-- VMAX (R132). -/
def execVmax (o : VOps) (s : State) : Out := .next (elementwise (.vmax o) o (vvForm (promoteRule o) opMax) s)

/-- va's tag, float. -/
def vaFloatRule (o : VOps) (f : Front) : Except Nat Tag :=
  noScale o f (tagRule (f.srcTag o.va) 0 (tagFloat (f.srcTag o.va)) (f.srcTag o.va))

/-- VSQRT (R131): the flag for A < 0 is that of a NaN from no NaN. -/
def execVsqrt (o : VOps) (s : State) : Out :=
  .next (elementwise (.vsqrt o) o (vForm (vaFloatRule o) (fun c a =>
    let x := tval c.ta a
    c.write x.isNan false x.sqrt)) s)

/-- VADD.X (R131). -/
def execVaddX (o : VOps) (s : State) : Out := .next (elementwise (.vaddX o) o (vxForm (vaRule o) opAdd) s)
/-- VSUB.X (R131). -/
def execVsubX (o : VOps) (s : State) : Out := .next (elementwise (.vsubX o) o (vxForm (vaRule o) opSub) s)
/-- VRSUB.X: X − A (R131). -/
def execVrsubX (o : VOps) (s : State) : Out :=
  .next (elementwise (.vrsubX o) o (vxForm (vaRule o) (fun c a x => opSub c x a)) s)
/-- VMUL.X (R131). -/
def execVmulX (o : VOps) (s : State) : Out := .next (elementwise (.vmulX o) o { vxForm (vaRule o) opMul with mult := .x } s)
/-- VDIV.X (R131). -/
def execVdivX (o : VOps) (s : State) : Out := .next (elementwise (.vdivX o) o (vxForm (vaRule o) divElem) s)
/-- VRDIV.X: X / A (R131). -/
def execVrdivX (o : VOps) (s : State) : Out :=
  .next (elementwise (.vrdivX o) o (vxForm (vaRule o) (fun c a x => divElem c x a)) s)
/-- VMIN.X (R131, R132). -/
def execVminX (o : VOps) (s : State) : Out := .next (elementwise (.vminX o) o (vxForm (vaRule o) opMin) s)
/-- VMAX.X (R131, R132). -/
def execVmaxX (o : VOps) (s : State) : Out := .next (elementwise (.vmaxX o) o (vxForm (vaRule o) opMax) s)

/-- The accumulator keeps vd's tag (R93, R135); no operand is E8M0. -/
def accRule (o : VOps) (useB : Bool) (f : Front) : Except Nat Tag :=
  let a := f.srcTag o.va
  let b := f.srcTag o.vb
  let d := f.dstTag o.vd
  if tagE8 a || (useB && tagE8 b) then .error (tagEval a (if useB then b else d))
  else if tagE8 d then .error (tagEval d a) else .ok d

/-- An accumulator form on vd, va and vb, of which `m` is the multiplier: one exact value, rounded once (R135). -/
def accForm (o : VOps) (m : Multiplier) (g : Nat → Ex → Ex → Ex → Ex) : EForm :=
  { mult := m, useA := true, useB := true, useD := true, useX := false, select := false, toMask := false, kr := accRule o true
    elem := fun c a b d _ _ =>
      let x := tval c.ta a
      let y := tval c.tb b
      let z := tval c.td d
      c.write (x.isNan || y.isNan || z.isNan) false (g c.rm z x y) }

/-- An accumulator form on vd, va and x, converted to va's tag (R135). -/
def accXForm (o : VOps) (g : Nat → Ex → Ex → Ex → Ex) : EForm :=
  { mult := .x, useA := true, useB := false, useD := true, useX := true, select := false, toMask := false, kr := accRule o false
    elem := fun c a _ d _ _ =>
      let x := tval c.ta a
      let y := tval c.ta c.x.1
      let z := tval c.td d
      let r := c.write (x.isNan || y.isNan || z.isNan) false (g c.rm z x y)
      (r.1, r.2 || c.x.2) }

/-- VMACC: D + A × B (R135). -/
def execVmacc (o : VOps) (s : State) : Out :=
  .next (elementwise (.vmacc o) o (accForm o .vb (fun rm d a b => d.add rm (a.mul b))) s)
/-- VNMSAC: D − A × B (R135). -/
def execVnmsac (o : VOps) (s : State) : Out :=
  .next (elementwise (.vnmsac o) o (accForm o .vb (fun rm d a b => d.sub rm (a.mul b))) s)
/-- VMADD: D × A + B (R135). -/
def execVmadd (o : VOps) (s : State) : Out :=
  .next (elementwise (.vmadd o) o (accForm o .va (fun rm d a b => (d.mul a).add rm b)) s)
/-- VNMSUB: B − D × A (R135). -/
def execVnmsub (o : VOps) (s : State) : Out :=
  .next (elementwise (.vnmsub o) o (accForm o .va (fun rm d a b => b.sub rm (d.mul a))) s)
/-- VMACC.X: D + A × X (R135). -/
def execVmaccX (o : VOps) (s : State) : Out :=
  .next (elementwise (.vmaccX o) o (accXForm o (fun rm d a x => d.add rm (a.mul x))) s)
/-- VNMSAC.X: D − A × X (R135). -/
def execVnmsacX (o : VOps) (s : State) : Out :=
  .next (elementwise (.vnmsacX o) o (accXForm o (fun rm d a x => d.sub rm (a.mul x))) s)

/-- VABS (R135): the sign cleared. -/
def execVabs (o : VOps) (s : State) : Out :=
  .next (elementwise (.vabs o) o (vForm (vaRule o) (fun c a =>
    let x := tval c.ta a
    c.write true false (if x.neg? then x.neg else x))) s)

/-- VNEG (R135): the sign inverted; an integer zero stays 0. -/
def execVneg (o : VOps) (s : State) : Out :=
  .next (elementwise (.vneg o) o (vForm (vaRule o) (fun c a =>
    let x := tval c.ta a
    c.write true false (if tagIsInt c.ta && x.isZero then x else x.neg))) s)

end Sys2Proof.Machine
end

