-- ==== Sys2Proof/Machine/VCmp.lean ====
section
/-! DEFINITION. VCMP (R138, R139). -/

namespace Sys2Proof.Machine

/-- Neither source E8M0 (R138); no result tag is written. -/
def cmpRule (o : VOps) (useB : Bool) (f : Front) : Except Nat Tag :=
  let a := f.srcTag o.va
  let b := if useB then f.srcTag o.vb else 0
  if tagE8 a then .error (tagEval a b) else if useB && tagE8 b then .error (tagEval a b) else .ok a

/-- A compare of exact values: the bit, and whether a NaN operand sets the flag (R138). -/
def cmpForm (o : VOps) (nanFlag : Bool) (g : Ex → Ex → Bool) : EForm :=
  { useA := true, useB := true, useD := false, useX := false, select := false, toMask := true, kr := cmpRule o true
    elem := fun c a b _ _ _ =>
      let x := tval c.ta a
      let y := tval c.tb b
      ((g x y).toNat, nanFlag && (x.isNan || y.isNan)) }

/-- A compare with the x operand converted to va's tag. -/
def cmpXForm (o : VOps) (g : Ex → Ex → Bool) : EForm :=
  { useA := true, useB := false, useD := false, useX := true, select := false, toMask := true, kr := cmpRule o false
    elem := fun c a _ _ _ _ =>
      let x := tval c.ta a
      let y := tval c.ta c.x.1
      ((g x y).toNat, x.isNan || y.isNan || c.x.2) }

/-- VSEQ (R138). -/
def execVseq (o : VOps) (s : State) : Out := .next (elementwise (.vseq o) o (cmpForm o false Ex.eq) s)
/-- VSNE (R138): true for a NaN operand. -/
def execVsne (o : VOps) (s : State) : Out :=
  .next (elementwise (.vsne o) o (cmpForm o false (fun a b => !a.eq b)) s)
/-- VSLT (R138). -/
def execVslt (o : VOps) (s : State) : Out := .next (elementwise (.vslt o) o (cmpForm o true Ex.lt) s)
/-- VSLE (R138). -/
def execVsle (o : VOps) (s : State) : Out :=
  .next (elementwise (.vsle o) o (cmpForm o true (fun a b => a.lt b || a.eq b)) s)
/-- VSLT.X (R138). -/
def execVsltX (o : VOps) (s : State) : Out := .next (elementwise (.vsltX o) o (cmpXForm o Ex.lt) s)
/-- VSGT.X (R138). -/
def execVsgtX (o : VOps) (s : State) : Out :=
  .next (elementwise (.vsgtX o) o (cmpXForm o (fun a b => b.lt a)) s)

/-- VLBND (R138): 0 ≤ A < B on integers. -/
def execVlbnd (o : VOps) (s : State) : Out :=
  .next (elementwise (.vlbnd o) o
    { useA := true, useB := true, useD := false, useX := false, select := false, toMask := true
      kr := fun f =>
        tagRule (f.srcTag o.va) (f.srcTag o.vb) (tagIsInt (f.srcTag o.va) && tagIsInt (f.srcTag o.vb)) (f.srcTag o.va)
      elem := fun c a b _ _ _ =>
        ((decide (0 ≤ tint c.ta a) && decide (tint c.ta a < tint c.tb b)).toNat, false) } s)

/-- The class of an element (R139). -/
def classBit (t : Tag) (code p : Nat) : Bool :=
  let x := tval t p
  if tagIsInt t then
    match code with
    | 0 | 1 | 3 => false
    | 2 | 7 => tint t p = 0
    | 4 => tint t p != 0
    | 5 => tint t p < 0
    | _ => true
  else
    let f := fmtOf (tagKind t) (tagW t)
    let mag := p % 2 ^ (f.ebits + f.mbits)
    let inf := match x with
      | .inf _ => true
      | _ => false
    let fin := !x.isNan && !inf
    let sub := fin && mag != 0 && mag < 2 ^ f.mbits
    match code with
    | 0 => x.isNan
    | 1 => inf
    | 2 => x.isZero
    | 3 => sub
    | 4 => fin && !x.isZero && !sub
    | 5 => !x.isNan && bitAt p (f.ebits + f.mbits)
    | 6 => fin
    | _ => x.isZero || sub

/-- VCLASS (R139): vb holds the class code. -/
def execVclass (o : VOps) (s : State) : Out :=
  .next (elementwise (.vclass o) o
    { useA := true, useB := false, useD := false, useX := false, select := false, toMask := true
      kr := cmpRule o false
      elem := fun c a _ _ _ _ => ((classBit c.ta o.vb.val a).toNat, false) } s)

end Sys2Proof.Machine
end

