-- ==== Sys2Proof/Machine/VCvt.lean ====
section
/-! DEFINITION. VCVT (R140–R142). -/

namespace Sys2Proof.Machine

/-- A conversion of va to the tag of the destination, in direction `rm` (R90, R140). -/
def convElem (rm : ECtx → Nat) (c : ECtx) (p : Nat) : Nat × Bool :=
  convWrite c.out (rm c) c.sat (tagIsInt c.ta) (tval c.ta p)

/-- A conversion form: a tag rule, a direction, and whether the tag-source field vb is named (R86). -/
def cvtForm (kr : Front → Except Nat Tag) (rm : ECtx → Nat) : EForm := vForm kr (convElem rm)

/-- SHAPE_VIOLATION for a tag source that names v20–v27 while matrix mode is on (R86), before `body`. -/
def namingTagSource (i : Instr) (o : VOps) (body : State → State) (s : State) : State :=
  let f := s.cpu.front
  if namesTile f o.vb && !namesTile f o.va then
    s.raise i (vTrap f i .shapeViolation (shapeEval o.vb.val (groupRegs f.rc (tagP (f.srcTag o.vb)))))
  else body s

/-- VCVT.H (R140): to the tag of the register that vb names, which is not read. -/
def execVcvtH (o : VOps) (s : State) : Out :=
  .next (namingTagSource (.vcvtH o) o
    (elementwise (.vcvtH o) o (cvtForm (fun f => .ok (f.srcTag o.vb)) ECtx.rm)) s)

/-- VCVT.D (R140): to vd's current tag. -/
def execVcvtD (o : VOps) (s : State) : Out :=
  .next (elementwise (.vcvtD o) o (cvtForm (fun f => .ok (f.dstTag o.vd)) ECtx.rm) s)

/-- VCVT.Q4 (R141): A × 2^(127 − e) rounded once to E2M1. -/
def execVcvtQ4 (o : VOps) (s : State) : Out :=
  .next (elementwise (.vcvtQ4 o) o
    (vvForm (fun f =>
        let a := f.srcTag o.va
        let b := f.srcTag o.vb
        tagRule a b ((a = tagFp32 || a = tagFp16 || a = tagBf16) && tagE8 b) tagE2m1)
      (fun c a b =>
        let z := match b with
          | .rat n d => a.mul (.rat d n.toNat)
          | _ => .nan
        convWrite c.out c.rm c.sat false z)) s)

/-- INT with the plane width of the source (R140). -/
def toIntRule (o : VOps) (f : Front) : Except Nat Tag :=
  let a := f.srcTag o.va
  tagRule a 0 (!tagIsInt a) (tagInt (tagP a))

/-- VCVT.I (R140): rounded by rmode. -/
def execVcvtI (o : VOps) (s : State) : Out := .next (elementwise (.vcvtI o) o (cvtForm (toIntRule o) ECtx.rm) s)

/-- VCVT.F (R140): integer to FP32. -/
def execVcvtF (o : VOps) (s : State) : Out :=
  .next (elementwise (.vcvtF o) o
    (cvtForm (fun f => tagRule (f.srcTag o.va) 0 (tagIsInt (f.srcTag o.va)) tagFp32) ECtx.rm) s)

/-- VCVT.T (R140): toward zero, whatever rmode holds. -/
def execVcvtT (o : VOps) (s : State) : Out :=
  .next (elementwise (.vcvtT o) o (cvtForm (toIntRule o) (fun _ => 1)) s)

/-- The pattern of a head element under the tag `t` that VRETAG gives it (R142): its planes, then the extension. -/
def headRetag (q t : Tag) (p : Nat) : Nat :=
  if tagSigned q then intMod (tagW t) (sgn (tagW q) p) else p % 2 ^ tagW q % 2 ^ tagW t

/-- A row of VRETAG (R142): va read under the new tag; no value is converted unless a store queue's tag differs. -/
def retagRow (o : VOps) (f : Front) (c : ECtx) (v m : SMap (BitVec 16)) (b : Back) (r : Nat) : RowOut :=
  let n := f.vl
  let ra := match headOf o.va with
    | none => regRow v o.va.val c.kf r n
    | some q => (headElems b q 0 n).map (headRetag (f.srcTag o.va) c.kf)
  let res := (ra.zip (predRow m o false r n)).map (fun e =>
    if e.2 then some (c.writePat e.1 false).1 else if o.mod.val = 3 then some 0 else none)
  ⟨res, res.map (fun _ => some false)⟩

/-- VRETAG (R142). -/
def execVretag (o : VOps) (s : State) : Out :=
  .next (namingTagSource (.vretag o) o (fun s =>
    let i := Instr.vretag o
    let f := s.cpu.front
    let t := f.srcTag o.vb
    match tileFault f [(o.va, f.srcTag o.va), (o.vd, t)] with
    | some e => s.raise i (vTrap f i .shapeViolation e)
    | none =>
      match groupFault f [(o.va, t, f.rc), (o.vd, t, f.rc)] with
      | some e => s.raise i (vTrap f i .shapeViolation e)
      | none =>
        let c := (cvtForm (fun f => .ok (f.srcTag o.vb)) ECtx.rm).ctx o f 0 t (fun _ => 0)
        let cont := f.retagDst o.vd f.rc t
        s.inOrderAs i cont fun s => s.rowJob i
          { rows := f.rc, len := f.vl, heads := headsOf [o.va], held := [], dst := dstOf o.vd t
            outLen := f.vl, flagMask := none, inRow := true, ordered := vopsOverlap o f [(o.va, t)] (some t)
            row := retagRow o f c } cont) s)

end Sys2Proof.Machine
end

