-- ==== Sys2Proof/Machine/VLogic.lean ====
section
/-! DEFINITION. VLOGIC and VLOGIC.X (R136, R137). -/

namespace Sys2Proof.Machine

/-- Both sources integer, or both the same float kind (R136). -/
def bitRule (o : VOps) (f : Front) : Except Nat Tag :=
  let a := f.srcTag o.va
  let b := f.srcTag o.vb
  if (tagIsInt a && tagIsInt b) || (tagFloat a && a = b) then promoteRule o f else .error (tagEval a b)

/-- The pattern of a source extended by ext() to the form's result tag (R136). -/
def bitsUnder (c : ECtx) (t : Tag) (p : Nat) : Nat := if tagIsInt t then intMod (tagW c.kf) (tint t p) else p

/-- A bitwise form on two vector sources. -/
def bitForm (o : VOps) (g : Nat → Nat → Nat) : EForm :=
  { useA := true, useB := true, useD := false, useX := false, select := false, toMask := false, kr := bitRule o
    elem := fun c a b _ _ _ => c.writePat (g (bitsUnder c c.ta a) (bitsUnder c c.tb b)) false }

/-- A bitwise form on va and the x operand converted to va's tag; the flag is the conversion's, and .SAT touches nothing else (R136). -/
def bitXForm (o : VOps) (g : Nat → Nat → Nat) : EForm :=
  { useA := true, useB := false, useD := false, useX := true, select := false, toMask := false, kr := vaIntRule o
    elem := fun c a _ _ _ _ => { c with sat := false }.writePat (g a c.x.1) c.x.2 }

/-- VAND (R136). -/
def execVand (o : VOps) (s : State) : Out := .next (elementwise (.vand o) o (bitForm o Nat.land) s)
/-- VOR (R136). -/
def execVor (o : VOps) (s : State) : Out := .next (elementwise (.vor o) o (bitForm o Nat.lor) s)
/-- VXOR (R136). -/
def execVxor (o : VOps) (s : State) : Out := .next (elementwise (.vxor o) o (bitForm o Nat.xor) s)
/-- VAND.X (R136). -/
def execVandX (o : VOps) (s : State) : Out := .next (elementwise (.vandX o) o (bitXForm o Nat.land) s)
/-- VOR.X (R136). -/
def execVorX (o : VOps) (s : State) : Out := .next (elementwise (.vorX o) o (bitXForm o Nat.lor) s)
/-- VXOR.X (R136). -/
def execVxorX (o : VOps) (s : State) : Out := .next (elementwise (.vxorX o) o (bitXForm o Nat.xor) s)

/-- Whether a shift amount lies in the width of va (R137). -/
def shiftIn (c : ECtx) (n : Int) : Bool := 0 ≤ n && n < tagW c.kf

/-- VSLL (R137): A × 2^n written by R126; outside the width 0 with the flag for A ≠ 0, or the limit of A's sign in the result tag, that
of va where a store queue is no integer (DESIGN CHOICE, log 34: a float has no such limit). -/
def opSll (c : ECtx) (a : Nat) (n : Int) : Nat × Bool :=
  let z := tint c.ta a
  if shiftIn c n then c.write false false (Ex.int (z * 2 ^ n.toNat))
  else if z = 0 then c.writePat 0 false
  else if c.sat && tagIsInt c.out then (intMod (tagW c.out) (if z < 0 then tagMin c.out else tagMax c.out), true)
  else if c.sat then c.writePat (intMod (tagW c.kf) (if z < 0 then tagMin c.kf else tagMax c.kf)) true
  else c.writePat 0 true

/-- VSRL (R137). -/
def opSrl (c : ECtx) (a : Nat) (n : Int) : Nat × Bool := c.writePat (if shiftIn c n then a / 2 ^ n.toNat else 0) false

/-- VSRA (R137): floor(A / 2^n) for INT, as VSRL for UINT. -/
def opSra (c : ECtx) (a : Nat) (n : Int) : Nat × Bool :=
  if tagSigned c.ta then
    let z := tint c.ta a
    c.writePat (intMod (tagW c.kf) (if shiftIn c n then z / 2 ^ n.toNat else if z < 0 then -1 else 0)) false
  else opSrl c a n

/-- va and vb integer; the result has va's tag (R136). -/
def shiftRule (o : VOps) (f : Front) : Except Nat Tag :=
  noScale o f (tagRule (f.srcTag o.va) (f.srcTag o.vb) (tagIsInt (f.srcTag o.va) && tagIsInt (f.srcTag o.vb)) (f.srcTag o.va))

/-- A shift by vb. -/
def shiftForm (o : VOps) (g : ECtx → Nat → Int → Nat × Bool) : EForm :=
  { useA := true, useB := true, useD := false, useX := false, select := false, toMask := false, kr := shiftRule o
    elem := fun c a b _ _ _ => g c a (tint c.tb b) }

/-- A shift by the x operand converted to va's tag, the one thing that .SAT touches (R136). -/
def shiftXForm (o : VOps) (g : ECtx → Nat → Int → Nat × Bool) : EForm :=
  { useA := true, useB := false, useD := false, useX := true, select := false, toMask := false, kr := vaIntRule o
    elem := fun c a _ _ _ _ =>
      let z := g { c with sat := false } a (tint c.ta c.x.1)
      (z.1, z.2 || c.x.2) }

/-- VSLL (R137). -/
def execVsll (o : VOps) (s : State) : Out := .next (elementwise (.vsll o) o (shiftForm o opSll) s)
/-- VSRL (R137). -/
def execVsrl (o : VOps) (s : State) : Out := .next (elementwise (.vsrl o) o (shiftForm o opSrl) s)
/-- VSRA (R137). -/
def execVsra (o : VOps) (s : State) : Out := .next (elementwise (.vsra o) o (shiftForm o opSra) s)
/-- VSLL.X (R137). -/
def execVsllX (o : VOps) (s : State) : Out := .next (elementwise (.vsllX o) o (shiftXForm o opSll) s)
/-- VSRL.X (R137). -/
def execVsrlX (o : VOps) (s : State) : Out := .next (elementwise (.vsrlX o) o (shiftXForm o opSrl) s)
/-- VSRA.X (R137). -/
def execVsraX (o : VOps) (s : State) : Out := .next (elementwise (.vsraX o) o (shiftXForm o opSra) s)

/-- VMERGE (R136): mk selects at every inside position. -/
def execVmerge (o : VOps) (s : State) : Out :=
  .next (elementwise (.vmerge o) o
    { useA := true, useB := true, useD := false, useX := false, select := true, toMask := false
      kr := fun f =>
        let a := f.srcTag o.va
        noScale o f (tagRule a (f.srcTag o.vb) (a = f.srcTag o.vb && !tagE8 a) a)
      elem := fun c a b _ _ p => moveElem c (if p then b else a) } s)

/-- VMERGE.X (R136). -/
def execVmergeX (o : VOps) (s : State) : Out :=
  .next (elementwise (.vmergeX o) o
    { useA := true, useB := false, useD := false, useX := true, select := true, toMask := false, kr := vaRule o
      elem := fun c a _ _ _ p => moveElem c (if p then c.x.1 else a) } s)

/-- VMV (R136). -/
def execVmv (o : VOps) (s : State) : Out := .next (elementwise (.vmv o) o (vForm (vaRule o) moveElem) s)

/-- VSPLAT (R136): X converted to vd's own tag. -/
def execVsplat (o : VOps) (s : State) : Out :=
  .next (elementwise (.vsplat o) o
    { useA := false, useB := false, useD := false, useX := true, select := false, toMask := false
      kr := fun f => .ok (f.dstTag o.vd)
      elem := fun c _ _ _ _ _ => c.x } s)

end Sys2Proof.Machine
end

