-- ==== Sys2Proof/Machine/VMask.lean ====
section
/-! DEFINITION. VMSK and VSCL (R159–R163). -/

namespace Sys2Proof.Machine

/-- A VMSK form that writes a mask (R159): bit (r, c) from the bits of the sources; `srcs` are the masks it reads. -/
def maskForm (i : Instr) (o : VOps) (srcs : List Nat) (g : Bool → Bool → Bool) (s : State) : State :=
  s.inOrder i fun s =>
    let f := s.cpu.front
    s.rowJob i
      { rows := f.rc, len := f.vl, heads := [], held := [], dst := .msk o.vd.val, outLen := f.vl, flagMask := none, inRow := true
        ordered := overlapping [] [] [o.vd.val] (o.pm.val :: srcs), row := fun _ m _ r =>
          ⟨(List.range f.vl).map (fun c =>
            if o.pm.val = 0 || maskBit m o.pm.val r c then
              some (g (maskBit m o.va.val r c) (maskBit m o.vb.val r c)).toNat
            else if o.mod.val = 3 then some 0 else none), []⟩ } f

/-- MAND (R159). -/
def execMand (o : VOps) (s : State) : Out := .next (maskForm (.mand o) o [o.va.val, o.vb.val] (· && ·) s)
/-- MOR (R159). -/
def execMor (o : VOps) (s : State) : Out := .next (maskForm (.mor o) o [o.va.val, o.vb.val] (· || ·) s)
/-- MXOR (R159). -/
def execMxor (o : VOps) (s : State) : Out := .next (maskForm (.mxor o) o [o.va.val, o.vb.val] (fun a b => a != b) s)
/-- MANDN (R159). -/
def execMandn (o : VOps) (s : State) : Out := .next (maskForm (.mandn o) o [o.va.val, o.vb.val] (fun a b => a && !b) s)
/-- MNOT (R159). -/
def execMnot (o : VOps) (s : State) : Out := .next (maskForm (.mnot o) o [o.va.val] (fun a _ => !a) s)
/-- MSETI (R159): va holds the bit. -/
def execMseti (o : VOps) (s : State) : Out := .next (maskForm (.mseti o) o [] (fun _ _ => o.va.val = 1) s)

/-- The linear indices of active positions with bit 1, ascending (R159). -/
def activeBits (o : VOps) (f : Front) (m : SMap (BitVec 16)) : List Nat :=
  (List.range (f.rc * f.vl)).filter (fun k =>
    (o.pm.val = 0 || maskBit m o.pm.val (k / f.vl) (k % f.vl)) && maskBit m o.va.val (k / f.vl) (k % f.vl))

/-- An execute-side instruction that writes x[d] and nothing else (R160). -/
def toX (i : Instr) (d : Reg) (g : State → W64) (s : State) : State :=
  s.inOrder i fun s =>
    let s1 := s.setX d (g s)
    s1.finish i s1.cpu.front

/-- MPOPC (R159, R160). -/
def execMpopc (o : VOps) (s : State) : Out :=
  .next (toX (.mpopc o) o.vd (fun s => BitVec.ofNat 64 (activeBits o s.cpu.front s.cpu.back.m).length) s)

/-- MFIRST (R159, R160): all ones when there is none. -/
def execMfirst (o : VOps) (s : State) : Out :=
  .next (toX (.mfirst o) o.vd (fun s =>
    match activeBits o s.cpu.front s.cpu.back.m with
    | k :: _ => BitVec.ofNat 64 k
    | [] => BitVec.allOnes 64) s)

/-- An element as VMVX delivers it (R161). -/
def elemToX (t : Tag) (p : Nat) : W64 :=
  if tagIsInt t then BitVec.ofInt 64 (tint t p) else BitVec.ofNat 64 (fp32.round 0 (tval t p)).1

/-- VMVX (R161): the element at linear index u(x[b]); a head it names gives rc rows. -/
def execVmvx (o : VOps) (s : State) : Out :=
  .next (s.inOrder (.vmvx o) fun s =>
    let i := Instr.vmvx o
    let f := s.cpu.front
    let t := f.srcTag o.va
    match tileFault f [(o.va, t)] with
    | some e => s.raise i (wTrap i .shapeViolation e)
    | none =>
      match groupFault f [(o.va, t, f.rc)] with
      | some e => s.raise i (wTrap i .shapeViolation e)
      | none =>
        let k := s.getU o.vb
        let r := k / f.vl
        let v := if k < f.rc * f.vl then elemToX t (srcCol s.vlmax s.srcLanes.1 s.cpu.back f o.va r r (k % f.vl : Nat)) else 0
        let heads := if f.rc = 0 || f.vl = 0 then [] else wholeHeads o f.rc 0 false
        match shortHeads s.cpu.back heads with
        | q :: qs => s.suspendAs i 0 (q :: qs) false f none
        | [] =>
          let s1 := s.setBack (heads.foldl (fun b h => b.popRows h.1 h.2) s.cpu.back)
          s1.finish i (f.setX o.vd v))

/-- VMVS (R161): x[a] converted to vd's tag, into one element. -/
def execVmvs (o : VOps) (s : State) : Out :=
  .next (
    let i := Instr.vmvs o
    let f := s.cpu.front
    let t := f.dstTag o.vd
    match tileFault f [(o.vd, t)] with
    | some e => s.raise i (wTrap i .shapeViolation e)
    | none =>
      match groupFault f [(o.vd, t, f.rc)] with
      | some e => s.raise i (wTrap i .shapeViolation e)
      | none =>
        let cont := f.retagDst o.vd f.rc t
        s.inOrderAs i cont fun s =>
        let k := s.getU o.vb
        let s1 := if k < f.rc * f.vl then
            s.setBack { s.cpu.back with
              v := writeElem s.cpu.back.v o.vd.val (tagP t) (k / f.vl) (k % f.vl)
                (extPat t (convX t f.rm (vSat o) (s.getX o.va)).1) }
          else s
        s1.finish i cont)

/-- MMVX (R161): 64 mask bits from linear index u(x[b]). -/
def execMmvx (o : VOps) (s : State) : Out :=
  .next (toX (.mmvx o) o.vd (fun s =>
    let f := s.cpu.front
    let k := s.getU o.vb
    BitVec.ofNat 64 (bitsNat ((List.range 64).map (fun j =>
      k + j < f.rc * f.vl && maskBit s.cpu.back.m o.va.val ((k + j) / f.vl) ((k + j) % f.vl))))) s)

/-- MMVS (R161): up to 64 mask bits from x[a]. -/
def execMmvs (o : VOps) (s : State) : Out :=
  .next (s.inOrder (.mmvs o) fun s =>
    let f := s.cpu.front
    let k := s.getU o.vb
    let x := s.getU o.va
    let m := upto 64 (fun j m =>
      if k + j < f.rc * f.vl then setMaskBit m o.vd.val ((k + j) / f.vl) ((k + j) % f.vl) (bitAt x j) else m) s.cpu.back.m
    (s.setBack { s.cpu.back with m := m }).finish (.mmvs o) f)

/-- fill of a store queue as QSTAT may find it (R162): any amount of draining by the older VST instructions, those in flight
and those whose last rows are still on their way (log 5). -/
def State.storeFill (s : State) (q : Nat) : Nat :=
  let x := s.cpu.back.queue q
  let late := within (s.qcap - s.fill q) (x.gone.map (rowBytes (s.cpu.front.queueTag q)))
  let drains := s.cpu.inflight.any (fun p => sideOf p.instr = 1 && namesQueue p.instr q)
  if drains && Config.freeBool (s.tick + 1) then s.fill q - s.draw % (s.fill q + 1)
  else s.fill q + (late.take (s.draw % (late.length + 1))).sum

/-- QSTAT (R162): a load queue shows any fill from the rows delivered up to the capacity, with any reservation; a store queue
any amount of draining. -/
def execQstat (o : VOps) (s : State) : Out :=
  .next (s.inOrder (.qstat o) fun s =>
    let q := o.va.val
    let fill := if q < 4 then s.fill q + s.draw % (s.qcap - s.fill q + 1) else s.storeFill q
    let held := if q < 4 then s.tock.draw % (s.qcap - fill + 1) else 0
    let s1 := s.tock.tock.setX o.vd (BitVec.ofNat 64 ((s.qcap - fill - held) * 2 ^ 32 + fill))
    s1.finish (.qstat o) s1.cpu.front)

/-- QDROP (R163): drops u(x[b]) rows of older loads, waiting for those not yet delivered; vstart counts the rows dropped. It
drops them under a grant of zero too, R163 having no such condition: DESIGN CHOICE, log 34. -/
def execQdrop (o : VOps) (s : State) : Out :=
  .next (s.inOrder (.qdrop o) fun s =>
    let f := s.cpu.front
    let q := o.va.val
    let want := s.getU o.vb - f.vstart
    let due := ((s.cpu.back.queue q).rows.takeWhile (fun r => r.by_ < f.instret.toNat)).length
    let n := min want due
    let s1 := s.setBack (s.cpu.back.popRows q n)
    if n = want then s1.finish (.qdrop o) f
    else s1.suspendAs (.qdrop o) (f.vstart + n) [q] false f none)

end Sys2Proof.Machine
end

