-- ==== Sys2Proof/Machine/VPerm.lean ====
section
/-! DEFINITION. VPERM (R152, R154–R156): each result becomes architectural at once. -/

namespace Sys2Proof.Machine

/-- What a rearrangement reads: a column of va as the result tag holds it, a column of vb, a mask bit and the predicate of
row r; `put` writes a pattern of va's tag under the result tag. -/
structure PermIn where
  vl : Nat
  a : Nat → Int → Nat
  put : Nat → Nat
  b : Nat → Nat → Int
  msk : Nat → Nat → Bool
  act : Nat → Nat → Bool

/-- A rearrangement that keeps the shape (R152, R154): checks by R126, then every row of the result at once. `useB` reads
vb as a vector (VRGATH). -/
def rearrange (i : Instr) (o : VOps) (useB : Bool) (g : State → PermIn → Nat → List (Option Nat)) (s : State) : State :=
    let f := s.cpu.front
    let a := f.srcTag o.va
    let b := f.srcTag o.vb
    match tileFault f ([(o.va, a)] ++ (if useB then [(o.vb, b)] else []) ++ [(o.vd, a)]) with
    | some e => s.raise i (wTrap i .shapeViolation e)
    | none =>
      if useB && !tagIsInt b then s.raise i (wTrap i .illegalTag (tagEval b 0))
      else
        match groupFault f ([(o.va, a, f.rc)] ++ (if useB then [(o.vb, b, f.rc)] else []) ++ [(o.vd, a, f.rc)]) with
        | some e => s.raise i (wTrap i .shapeViolation e)
        | none =>
          let cont := f.retagDst o.vd f.rc a
          s.inOrderAs i cont fun s => if f.rc = 0 || f.vl = 0 then s.finish i cont
          else
            let src := s.srcLanes
            let c := (vForm (fun _ => .ok a) moveElem).ctx o f 0 a (fun _ => 0)
            s.wholeJob i
              { heads := wholeHeads o f.rc f.rc useB, dst := dstOf o.vd a, outRows := f.rc, outLen := f.vl, flagMask := none
                result := fun bk =>
                  let p : PermIn :=
                    { vl := f.vl
                      a := fun r k => (moveElem c (srcCol s.vlmax src.1 bk f o.va r r k)).1
                      put := fun x => (moveElem c x).1
                      b := fun r k => tint b (srcCol s.vlmax src.1 bk f o.vb r r k)
                      msk := fun r k => maskBit src.2 o.vb.val r k
                      act := fun r k => o.pm.val = 0 || maskBit src.2 o.pm.val r k }
                  (List.range f.rc).map (fun r =>
                    let l := g s p r
                    ⟨l, l.map (fun _ => none)⟩) } cont

/-- A row whose column c is `h c`. -/
def permRow (n : Nat) (h : Nat → Option Nat) : List (Option Nat) := (List.range n).map h

/-- VRGATH (R154): under .Z an inactive position is zero (R123, R125); pattern 0x00 for an E8M0 result: DESIGN CHOICE, log 34. -/
def execVrgath (o : VOps) (s : State) : Out :=
  .next (rearrange (.vrgath o) o true (fun _ p r => permRow p.vl (fun c =>
    if p.act r c then some (p.a r (p.b r c)) else if o.mod.val = 3 then some 0 else none)) s)

/-- VSLIDEUP (R154). -/
def execVslideup (o : VOps) (s : State) : Out :=
  .next (rearrange (.vslideup o) o false (fun s p r => permRow p.vl (fun c =>
    if c < s.getU o.vb then none else some (p.a r (c - s.getU o.vb : Nat)))) s)

/-- VSLIDEDN (R154). -/
def execVslidedn (o : VOps) (s : State) : Out :=
  .next (rearrange (.vslidedn o) o false (fun s p r => permRow p.vl (fun c => some (p.a r (c + s.getU o.vb : Nat)))) s)

/-- x[b] converted to the tag of va (R127). -/
def slideX (o : VOps) (s : State) : Nat := (convX (s.cpu.front.srcTag o.va) s.cpu.front.rm false (s.getX o.vb)).1

/-- VSLIDE1UP (R154). -/
def execVslide1up (o : VOps) (s : State) : Out :=
  .next (rearrange (.vslide1up o) o false (fun s p r => permRow p.vl (fun c =>
    some (if c = 0 then p.put (slideX o s) else p.a r (c - 1 : Nat)))) s)

/-- VSLIDE1DN (R154). -/
def execVslide1dn (o : VOps) (s : State) : Out :=
  .next (rearrange (.vslide1dn o) o false (fun s p r => permRow p.vl (fun c =>
    some (if c + 1 = p.vl then p.put (slideX o s) else p.a r (c + 1 : Nat)))) s)

/-- The columns below vl whose mask bit is 1, ascending (R155). -/
def setColumns (p : PermIn) (r : Nat) : List Nat := (List.range p.vl).filter (p.msk r)

/-- VCOMPR (R155). -/
def execVcompr (o : VOps) (s : State) : Out :=
  .next (rearrange (.vcompr o) o false (fun _ p r =>
    let l := setColumns p r
    l.map (fun (c : Nat) => some (p.a r c)) ++ List.replicate (p.vl - l.length) none) s)

/-- VEXPM's row: the j-th column with bit 1 receives src(r, j) (R155). -/
def expandRow (p : PermIn) (r : Nat) : List (Option Nat) :=
  ((List.range p.vl).foldl (fun (st : Nat × List (Option Nat)) c =>
    if p.msk r c then (st.1 + 1, some (p.a r st.1) :: st.2) else (st.1, none :: st.2)) (0, [])).2.reverse

/-- VEXPM (R155). -/
def execVexpm (o : VOps) (s : State) : Out := .next (rearrange (.vexpm o) o false (fun _ p r => expandRow p r) s)

/-- VRESHP's faults beyond R126 (R156): n outside 1 to VLMAX, more rows than RCMAX, or a misplaced group; ev_valid is 1. -/
def reshapeFault (f : Front) (vlmax : Nat) (o : VOps) (a : Tag) (n rd : Nat) : Option Nat :=
  if n = 0 || vlmax < n || min 16 (128 / tagP a) < rd then some (shapeEval o.vd.val (groupRegs rd (tagP a)))
  else groupFault f [(o.vd, a, rd)]

/-- VRESHP (R156). -/
def execVreshp (o : VOps) (s : State) : Out :=
  .next (
    let i := Instr.vreshp o
    let f := s.cpu.front
    let a := f.srcTag o.va
    let n := s.getU o.vb
    let rd := if n = 0 then 0 else cdiv (f.rc * f.vl) n
    match tileFault f [(o.va, a), (o.vd, a)] with
    | some e => s.raise i (wTrap i .shapeViolation e)
    | none =>
      match groupFault f [(o.va, a, f.rc)] with
      | some e => s.raise i (wTrap i .shapeViolation e)
      | none =>
        match reshapeFault f s.vlmax o a n rd with
        | some e => s.raise i { wTrap i .shapeViolation e with evValid := true }
        | none =>
          let cont := f.retagDst o.vd rd a
          s.inOrderAs i cont fun s => if f.rc = 0 || f.vl = 0 then s.finish i cont
          else
            let src := s.srcLanes
            let c := (vForm (fun _ => .ok a) moveElem).ctx o f 0 a (fun _ => 0)
            s.wholeJob i
              { heads := wholeHeads o f.rc 0 false, dst := dstOf o.vd a, outRows := rd, outLen := n, flagMask := none
                result := fun bk => (List.range rd).map (fun r =>
                  let l := (List.range n).map (fun k =>
                    let e := r * n + k
                    if e < f.rc * f.vl then
                      some (moveElem c (srcCol s.vlmax src.1 bk f o.va (e / f.vl) (e / f.vl) (e % f.vl : Nat))).1
                    else none)
                  ⟨l, l.map (fun _ => none)⟩) } cont)

end Sys2Proof.Machine
end

