-- ==== Sys2Proof/Machine/VXfm.lean ====
section
/-! DEFINITION. VXFM (R157, R158). -/

namespace Sys2Proof.Machine

/-- va and vd integer; the result has vd's tag (R157). -/
def intToVdRule (o : VOps) (f : Front) : Except Nat Tag :=
  tagRule (f.srcTag o.va) (f.dstTag o.vd) (tagIsInt (f.srcTag o.va) && tagIsInt (f.dstTag o.vd)) (f.dstTag o.vd)

/-- VUNPK (R157): bits from o = u(x[b]) up of va's stored planes; at or above p(wa) the extension plane, a copy of bit
wa − 1 for an INT tag. -/
def execVunpk (o : VOps) (s : State) : Out :=
  .next (elementwise (.vunpk o) o
    { vForm (intToVdRule o) (fun c a =>
        let p := tagP c.ta
        let ext : Int := if tagSigned c.ta && bitAt a (tagW c.ta - 1) then -1 else 0
        c.writePat (intMod (tagW c.kf) (((a : Int) + ext * 2 ^ p) / 2 ^ min c.xv.toNat 64)) false) with
      planes := true } s)

/-- Bits [o + i] of `d` replaced by bits i of `a`, for i below `wa` and o + i below `wd` (R157). -/
def packBits (d a off wa wd : Nat) : Nat :=
  let n := min wa (wd - off)
  d - d / 2 ^ off % 2 ^ n * 2 ^ off + a % 2 ^ n * 2 ^ off

/-- VPACK (R157): the other bits of vd keep their values; a store-queue row has none. -/
def execVpack (o : VOps) (s : State) : Out :=
  .next (elementwise (.vpack o) o
    { useA := true, useB := false, useD := true, useX := false, select := false, toMask := false, kr := intToVdRule o
      elem := fun c a _ d _ _ => c.writePat (packBits d a (min c.xv.toNat 64) (tagW c.ta) (tagW c.kf)) false } s)

/-- A row of VLUT. -/
def lutRow (o : VOps) (f : Front) (c : ECtx) (vlmax : Nat) (v m : SMap (BitVec 16)) (b : Back) (r k : Nat) : RowOut :=
  let n := f.vl
  let res := ((srcRow v b f o.va r k n).zip (predRow m o (o.mod.val = 2) r n)).map (fun e =>
    if e.2 then
      let z := moveElem c (srcCol vlmax v b f o.vb 0 0 (tint c.ta e.1))
      (some z.1, some z.2)
    else ((if o.mod.val = 3 then some 0 else none), some false))
  ⟨res.map (·.1), res.map (·.2)⟩

/-- VLUT (R157): vb[0][val(A)] by the column rules of R154. A head named by vb is one row, consumed with the instruction; where
va names the same head, its rows are read once and the first is the table (R42). -/
def execVlut (o : VOps) (s : State) : Out :=
  .next (
    let i := Instr.vlut o
    let f := s.cpu.front
    let a := f.srcTag o.va
    let b := f.srcTag o.vb
    match tileFault f [(o.va, a), (o.vb, b), (o.vd, f.dstTag o.vd)] with
    | some e => s.raise i (vTrap f i .shapeViolation e)
    | none =>
      if !tagIsInt a || tagE8 b then s.raise i (vTrap f i .illegalTag (tagEval a b))
      else if tagE8 (f.outTag o.vd b) then s.raise i (vTrap f i .illegalTag (tagEval (f.outTag o.vd b) 0))
      else
        match groupFault f [(o.va, a, f.rc), (o.vb, b, min f.rc 1), (o.vd, b, f.rc)] with
        | some e => s.raise i (vTrap f i .shapeViolation e)
        | none =>
          let c := { (vForm (fun _ => .ok b) moveElem).ctx o f 0 b (fun _ => 0) with
            clamp := tagIsInt (f.outTag o.vd b) && !tagIsInt b }
          let cont := f.retagDst o.vd f.rc b
          let lim := s.vlmax
          s.inOrderAs i cont fun s => match headOf o.va, headOf o.vb with
          | some p, some q =>
            if p = q then
              if f.rc = 0 || f.vl = 0 then s.finish i cont
              else
                let src := s.srcLanes
                s.wholeJob i
                  { heads := [(q, f.rc)], dst := dstOf o.vd b, outRows := f.rc, outLen := f.vl, flagMask := vFlagMask o
                    result := fun bk => (List.range f.rc).map (fun r => lutRow o f c lim src.1 src.2 bk r r) } cont
            else
              s.rowJob i
                { rows := f.rc, len := f.vl, heads := [p], held := [q], dst := dstOf o.vd b, outLen := f.vl
                  flagMask := vFlagMask o, inRow := true, ordered := vopsOverlap o f [(o.va, a), (o.vb, b)] (some b)
                  row := fun v m bk r => lutRow o f c lim v m bk r 0 } cont
          | _, _ =>
            s.rowJob i
              { rows := f.rc, len := f.vl, heads := headsOf [o.va], held := headsOf [o.vb], dst := dstOf o.vd b
                outLen := f.vl, flagMask := vFlagMask o, inRow := true
                ordered := vopsOverlap o f [(o.va, a), (o.vb, b)] (some b)
                row := fun v m bk r => lutRow o f c lim v m bk r 0 } cont)

/-- VID (R157): u(x[b]) + r·vl + c written by R126. -/
def execVid (o : VOps) (s : State) : Out :=
  .next (elementwise (.vid o) o
    { useA := false, useB := false, useD := false, useX := false, select := false, toMask := false
      kr := fun f => tagRule (f.dstTag o.vd) 0 (!tagE8 (f.dstTag o.vd)) (f.dstTag o.vd)
      elem := fun c _ _ _ k _ => c.write false false (Ex.int ((c.xv.toNat + k : Nat) : Int)) } s)

/-- VCLZ (R157): zeros above the highest set bit of A in w bits. -/
def execVclz (o : VOps) (s : State) : Out :=
  .next (elementwise (.vclz o) o (vForm (intToVdRule o) (fun c a =>
    c.write false false (Ex.int ((tagW c.ta - (if a = 0 then 0 else Nat.log2 a + 1) : Nat) : Int)))) s)

/-- VCPOP (R157). -/
def execVcpop (o : VOps) (s : State) : Out :=
  .next (elementwise (.vcpop o) o (vForm (intToVdRule o) (fun c a =>
    c.write false false (Ex.int ((popCount (tagW c.ta) a : Nat) : Int)))) s)

/-- The ordering key of R158. -/
def ordKey (t : Tag) (p : Nat) : Nat :=
  let w := tagW t
  let top := 2 ^ (w - 1)
  if tagIsInt t then
    if tagSigned t then (p + top) % 2 ^ w else p
  else if (tval t p).isNan then 2 ^ w - 1
  else if p < top then p + top
  else 2 ^ w - 1 - p

/-- VORDK (R158). -/
def execVordk (o : VOps) (s : State) : Out :=
  .next (elementwise (.vordk o) o
    (vForm (fun f =>
        let a := f.srcTag o.va
        noScale o f (tagRule a 0 (!tagE8 a) (tagUint (tagW a))))
      (fun c a => c.writePat (ordKey c.ta a) false)) s)

/-- VBREV (R157). -/
def execVbrev (o : VOps) (s : State) : Out :=
  .next (elementwise (.vbrev o) o (vForm (vaIntRule o) (fun c a => c.writePat (revBits (tagW c.ta) a) false)) s)

end Sys2Proof.Machine
end

