-- ==== Sys2Proof/Machine/Dispatch.lean ====
section
/-! DEFINITION. One arm per instruction: a direct call of its meaning. -/

namespace Sys2Proof.Machine

def exec (i : Instr) (s : State) : Host.Outcome State Fault Refusal :=
  match i with
  | .ldb d a imm => Sys2Proof.Machine.execLdb d a imm s
  | .ldh d a imm => Sys2Proof.Machine.execLdh d a imm s
  | .ldw d a imm => Sys2Proof.Machine.execLdw d a imm s
  | .ldd d a imm => Sys2Proof.Machine.execLdd d a imm s
  | .ldbu d a imm => Sys2Proof.Machine.execLdbu d a imm s
  | .ldhu d a imm => Sys2Proof.Machine.execLdhu d a imm s
  | .ldwu d a imm => Sys2Proof.Machine.execLdwu d a imm s
  | .stb b a imm => Sys2Proof.Machine.execStb b a imm s
  | .sth b a imm => Sys2Proof.Machine.execSth b a imm s
  | .stw b a imm => Sys2Proof.Machine.execStw b a imm s
  | .std b a imm => Sys2Proof.Machine.execStd b a imm s
  | .amoswp o => Sys2Proof.Machine.execAmoswp o s
  | .amoadd o => Sys2Proof.Machine.execAmoadd o s
  | .amoand o => Sys2Proof.Machine.execAmoand o s
  | .amoor o => Sys2Proof.Machine.execAmoor o s
  | .amoxor o => Sys2Proof.Machine.execAmoxor o s
  | .amomin o => Sys2Proof.Machine.execAmomin o s
  | .amomax o => Sys2Proof.Machine.execAmomax o s
  | .amominu o => Sys2Proof.Machine.execAmominu o s
  | .amomaxu o => Sys2Proof.Machine.execAmomaxu o s
  | .amocas o => Sys2Proof.Machine.execAmocas o s
  | .lda o => Sys2Proof.Machine.execLda o s
  | .stl o => Sys2Proof.Machine.execStl o s
  | .ecall => Sys2Proof.Machine.execEcall s
  | .ebreak => Sys2Proof.Machine.execEbreak s
  | .eret => Sys2Proof.Machine.execEret s
  | .srd d num => Sys2Proof.Machine.execSrd d num s
  | .swr d a num => Sys2Proof.Machine.execSwr d a num s
  | .srset d a num => Sys2Proof.Machine.execSrset d a num s
  | .srclr d a num => Sys2Proof.Machine.execSrclr d a num s
  | .fence scope set => Sys2Proof.Machine.execFence scope set s
  | .icinvR a b => Sys2Proof.Machine.execIcinvR a b s
  | .tlbinv a b => Sys2Proof.Machine.execTlbinv a b s
  | .waite d a => Sys2Proof.Machine.execWaite d a s
  | .barArm d a => Sys2Proof.Machine.execBarArm d a s
  | .barArv d => Sys2Proof.Machine.execBarArv d s
  | .barWt d => Sys2Proof.Machine.execBarWt d s
  | .barSync d => Sys2Proof.Machine.execBarSync d s
  | .barDrop d => Sys2Proof.Machine.execBarDrop d s
  | .fork d a b => Sys2Proof.Machine.execFork d a b s
  | .join d => Sys2Proof.Machine.execJoin d s
  | .waitc d a b => Sys2Proof.Machine.execWaitc d a b s
  | .launch d a b => Sys2Proof.Machine.execLaunch d a b s
  | .safept d a b => Sys2Proof.Machine.execSafept d a b s
  | .yield d => Sys2Proof.Machine.execYield d s
  | .halt => Sys2Proof.Machine.execHalt s
  | .shape d a b t => Sys2Proof.Machine.execShape d a b t s
  | .shapeM d a b t => Sys2Proof.Machine.execShapeM d a b t s
  | .shapeG d a b t => Sys2Proof.Machine.execShapeG d a b t s
  | .vtag n a => Sys2Proof.Machine.execVtag n a s
  | .qcfg q a => Sys2Proof.Machine.execQcfg q a s
  | .mxon d a b => Sys2Proof.Machine.execMxon d a b s
  | .mxoff => Sys2Proof.Machine.execMxoff s
  | .getsh d sel n => Sys2Proof.Machine.execGetsh d sel n s
  | .vldU o => Sys2Proof.Machine.execVldU o s
  | .vldS o => Sys2Proof.Machine.execVldS o s
  | .vldX o => Sys2Proof.Machine.execVldX o s
  | .vldXO o => Sys2Proof.Machine.execVldXO o s
  | .vldSeg o => Sys2Proof.Machine.execVldSeg o s
  | .vldC o => Sys2Proof.Machine.execVldC o s
  | .vldFF o => Sys2Proof.Machine.execVldFF o s
  | .vtree o => Sys2Proof.Machine.execVtree o s
  | .vstU o => Sys2Proof.Machine.execVstU o s
  | .vstS o => Sys2Proof.Machine.execVstS o s
  | .vstX o => Sys2Proof.Machine.execVstX o s
  | .vstXO o => Sys2Proof.Machine.execVstXO o s
  | .vstSeg o => Sys2Proof.Machine.execVstSeg o s
  | .vstC o => Sys2Proof.Machine.execVstC o s
  | .vadd o => Sys2Proof.Machine.execVadd o s
  | .vsub o => Sys2Proof.Machine.execVsub o s
  | .vmul o => Sys2Proof.Machine.execVmul o s
  | .vmulh o => Sys2Proof.Machine.execVmulh o s
  | .vdiv o => Sys2Proof.Machine.execVdiv o s
  | .vmin o => Sys2Proof.Machine.execVmin o s
  | .vmax o => Sys2Proof.Machine.execVmax o s
  | .vsqrt o => Sys2Proof.Machine.execVsqrt o s
  | .vaddX o => Sys2Proof.Machine.execVaddX o s
  | .vsubX o => Sys2Proof.Machine.execVsubX o s
  | .vrsubX o => Sys2Proof.Machine.execVrsubX o s
  | .vmulX o => Sys2Proof.Machine.execVmulX o s
  | .vdivX o => Sys2Proof.Machine.execVdivX o s
  | .vrdivX o => Sys2Proof.Machine.execVrdivX o s
  | .vminX o => Sys2Proof.Machine.execVminX o s
  | .vmaxX o => Sys2Proof.Machine.execVmaxX o s
  | .vand o => Sys2Proof.Machine.execVand o s
  | .vor o => Sys2Proof.Machine.execVor o s
  | .vxor o => Sys2Proof.Machine.execVxor o s
  | .vsll o => Sys2Proof.Machine.execVsll o s
  | .vsrl o => Sys2Proof.Machine.execVsrl o s
  | .vsra o => Sys2Proof.Machine.execVsra o s
  | .vmerge o => Sys2Proof.Machine.execVmerge o s
  | .vmv o => Sys2Proof.Machine.execVmv o s
  | .vandX o => Sys2Proof.Machine.execVandX o s
  | .vorX o => Sys2Proof.Machine.execVorX o s
  | .vxorX o => Sys2Proof.Machine.execVxorX o s
  | .vsllX o => Sys2Proof.Machine.execVsllX o s
  | .vsrlX o => Sys2Proof.Machine.execVsrlX o s
  | .vsraX o => Sys2Proof.Machine.execVsraX o s
  | .vmergeX o => Sys2Proof.Machine.execVmergeX o s
  | .vsplat o => Sys2Proof.Machine.execVsplat o s
  | .vmacc o => Sys2Proof.Machine.execVmacc o s
  | .vnmsac o => Sys2Proof.Machine.execVnmsac o s
  | .vmadd o => Sys2Proof.Machine.execVmadd o s
  | .vnmsub o => Sys2Proof.Machine.execVnmsub o s
  | .vmaccX o => Sys2Proof.Machine.execVmaccX o s
  | .vnmsacX o => Sys2Proof.Machine.execVnmsacX o s
  | .vabs o => Sys2Proof.Machine.execVabs o s
  | .vneg o => Sys2Proof.Machine.execVneg o s
  | .vseq o => Sys2Proof.Machine.execVseq o s
  | .vsne o => Sys2Proof.Machine.execVsne o s
  | .vslt o => Sys2Proof.Machine.execVslt o s
  | .vsle o => Sys2Proof.Machine.execVsle o s
  | .vsltX o => Sys2Proof.Machine.execVsltX o s
  | .vsgtX o => Sys2Proof.Machine.execVsgtX o s
  | .vlbnd o => Sys2Proof.Machine.execVlbnd o s
  | .vclass o => Sys2Proof.Machine.execVclass o s
  | .vcvtH o => Sys2Proof.Machine.execVcvtH o s
  | .vcvtD o => Sys2Proof.Machine.execVcvtD o s
  | .vcvtQ4 o => Sys2Proof.Machine.execVcvtQ4 o s
  | .vcvtI o => Sys2Proof.Machine.execVcvtI o s
  | .vcvtF o => Sys2Proof.Machine.execVcvtF o s
  | .vcvtT o => Sys2Proof.Machine.execVcvtT o s
  | .vretag o => Sys2Proof.Machine.execVretag o s
  | .vredsum o => Sys2Proof.Machine.execVredsum o s
  | .vredmax o => Sys2Proof.Machine.execVredmax o s
  | .vredmin o => Sys2Proof.Machine.execVredmin o s
  | .vredand o => Sys2Proof.Machine.execVredand o s
  | .vredor o => Sys2Proof.Machine.execVredor o s
  | .vredsc o => Sys2Proof.Machine.execVredsc o s
  | .vscan o => Sys2Proof.Machine.execVscan o s
  | .vredcol o => Sys2Proof.Machine.execVredcol o s
  | .vrgath o => Sys2Proof.Machine.execVrgath o s
  | .vslideup o => Sys2Proof.Machine.execVslideup o s
  | .vslidedn o => Sys2Proof.Machine.execVslidedn o s
  | .vslide1up o => Sys2Proof.Machine.execVslide1up o s
  | .vslide1dn o => Sys2Proof.Machine.execVslide1dn o s
  | .vcompr o => Sys2Proof.Machine.execVcompr o s
  | .vexpm o => Sys2Proof.Machine.execVexpm o s
  | .vreshp o => Sys2Proof.Machine.execVreshp o s
  | .vunpk o => Sys2Proof.Machine.execVunpk o s
  | .vpack o => Sys2Proof.Machine.execVpack o s
  | .vlut o => Sys2Proof.Machine.execVlut o s
  | .vid o => Sys2Proof.Machine.execVid o s
  | .vclz o => Sys2Proof.Machine.execVclz o s
  | .vcpop o => Sys2Proof.Machine.execVcpop o s
  | .vordk o => Sys2Proof.Machine.execVordk o s
  | .vbrev o => Sys2Proof.Machine.execVbrev o s
  | .mand o => Sys2Proof.Machine.execMand o s
  | .mor o => Sys2Proof.Machine.execMor o s
  | .mxor o => Sys2Proof.Machine.execMxor o s
  | .mandn o => Sys2Proof.Machine.execMandn o s
  | .mnot o => Sys2Proof.Machine.execMnot o s
  | .mpopc o => Sys2Proof.Machine.execMpopc o s
  | .mfirst o => Sys2Proof.Machine.execMfirst o s
  | .mseti o => Sys2Proof.Machine.execMseti o s
  | .vmvx o => Sys2Proof.Machine.execVmvx o s
  | .vmvs o => Sys2Proof.Machine.execVmvs o s
  | .mmvx o => Sys2Proof.Machine.execMmvx o s
  | .mmvs o => Sys2Proof.Machine.execMmvs o s
  | .qstat o => Sys2Proof.Machine.execQstat o s
  | .qdrop o => Sys2Proof.Machine.execQdrop o s
  | .catins o => Sys2Proof.Machine.execCatins o s
  | .catlkp o => Sys2Proof.Machine.execCatlkp o s
  | .catacc o => Sys2Proof.Machine.execCatacc o s
  | .catdrn o => Sys2Proof.Machine.execCatdrn o s
  | .catclr => Sys2Proof.Machine.execCatclr s
  | .catcnt o => Sys2Proof.Machine.execCatcnt o s
  | .catcfg o => Sys2Proof.Machine.execCatcfg o s
  | .cpyG d a b => Sys2Proof.Machine.execCpyG d a b s
  | .cpyP d a b => Sys2Proof.Machine.execCpyP d a b s
  | .cpyX d a b => Sys2Proof.Machine.execCpyX d a b s
  | .cpyIX d a b => Sys2Proof.Machine.execCpyIX d a b s
  | .cpyWait d c b => Sys2Proof.Machine.execCpyWait d c b s
  | .cpyStat d c sel => Sys2Proof.Machine.execCpyStat d c sel s
  | .cpyAbort d c => Sys2Proof.Machine.execCpyAbort d c s
  | .cpyFill d c b => Sys2Proof.Machine.execCpyFill d c b s
  | .hLdd d a off => Sys2Proof.Machine.execHLdd d a off s
  | .hStd b a off => Sys2Proof.Machine.execHStd b a off s
  | .hLdw d a off => Sys2Proof.Machine.execHLdw d a off s
  | .hStw b a off => Sys2Proof.Machine.execHStw b a off s
  | .hBrk => Sys2Proof.Machine.execHBrk s
  | .mzero tile => Sys2Proof.Machine.execMzero tile s
  | .mopa za va vb ca cb => Sys2Proof.Machine.execMopa za va vb ca cb s
  | .mops za va vb ca cb => Sys2Proof.Machine.execMops za va vb ca cb s
  | .mblk zf za ns keep => Sys2Proof.Machine.execMblk zf za ns keep s
  | .mrdz vd zf xb => Sys2Proof.Machine.execMrdz vd zf xb s
  | .mspill sq tile xc => Sys2Proof.Machine.execMspill sq tile xc s
  | .mfill tile lq xc => Sys2Proof.Machine.execMfill tile lq xc s
  | .mldq o => Sys2Proof.Machine.execMldq o s
  | .gopen d a b c => Sys2Proof.Machine.execGopen d a b c s
  | .gadv d a b => Sys2Proof.Machine.execGadv d a b s
  | .gmask md a => Sys2Proof.Machine.execGmask md a s
  | .gmaskM md a ms => Sys2Proof.Machine.execGmaskM md a ms s
  | .gckpt d a => Sys2Proof.Machine.execGckpt d a s
  | .groll d a b => Sys2Proof.Machine.execGroll d a b s
  | .gfork d a => Sys2Proof.Machine.execGfork d a s
  | .gfree a => Sys2Proof.Machine.execGfree a s
  | .gstat d a sel => Sys2Proof.Machine.execGstat d a sel s
  | .acclog a b => Sys2Proof.Machine.execAcclog a b s
  | .accsync d => Sys2Proof.Machine.execAccsync d s
  | .acchead d sel => Sys2Proof.Machine.execAcchead d sel s
  | .vtseal d a b c => Sys2Proof.Machine.execVtseal d a b c s
  | .vtatt a b c => Sys2Proof.Machine.execVtatt a b c s
  | .vtdrop a c => Sys2Proof.Machine.execVtdrop a c s
  | .vtqry d a sel => Sys2Proof.Machine.execVtqry d a sel s
  | .add d a b => Sys2Proof.Machine.execAdd d a b s
  | .sub d a b => Sys2Proof.Machine.execSub d a b s
  | .and d a b => Sys2Proof.Machine.execAnd d a b s
  | .or d a b => Sys2Proof.Machine.execOr d a b s
  | .xor d a b => Sys2Proof.Machine.execXor d a b s
  | .sll d a b => Sys2Proof.Machine.execSll d a b s
  | .srl d a b => Sys2Proof.Machine.execSrl d a b s
  | .sra d a b => Sys2Proof.Machine.execSra d a b s
  | .slt d a b => Sys2Proof.Machine.execSlt d a b s
  | .sltu d a b => Sys2Proof.Machine.execSltu d a b s
  | .mul d a b => Sys2Proof.Machine.execMul d a b s
  | .mulh d a b => Sys2Proof.Machine.execMulh d a b s
  | .mulhu d a b => Sys2Proof.Machine.execMulhu d a b s
  | .div d a b => Sys2Proof.Machine.execDiv d a b s
  | .divu d a b => Sys2Proof.Machine.execDivu d a b s
  | .rem d a b => Sys2Proof.Machine.execRem d a b s
  | .remu d a b => Sys2Proof.Machine.execRemu d a b s
  | .min d a b => Sys2Proof.Machine.execMin d a b s
  | .max d a b => Sys2Proof.Machine.execMax d a b s
  | .minu d a b => Sys2Proof.Machine.execMinu d a b s
  | .maxu d a b => Sys2Proof.Machine.execMaxu d a b s
  | .addw d a b => Sys2Proof.Machine.execAddw d a b s
  | .subw d a b => Sys2Proof.Machine.execSubw d a b s
  | .clz d a => Sys2Proof.Machine.execClz d a s
  | .ctz d a => Sys2Proof.Machine.execCtz d a s
  | .cpop d a => Sys2Proof.Machine.execCpop d a s
  | .rol d a b => Sys2Proof.Machine.execRol d a b s
  | .ror d a b => Sys2Proof.Machine.execRor d a b s
  | .addi d a imm => Sys2Proof.Machine.execAddi d a imm s
  | .andi d a imm => Sys2Proof.Machine.execAndi d a imm s
  | .ori d a imm => Sys2Proof.Machine.execOri d a imm s
  | .xori d a imm => Sys2Proof.Machine.execXori d a imm s
  | .slti d a imm => Sys2Proof.Machine.execSlti d a imm s
  | .sltiu d a imm => Sys2Proof.Machine.execSltiu d a imm s
  | .slli d a sh => Sys2Proof.Machine.execSlli d a sh s
  | .srli d a sh => Sys2Proof.Machine.execSrli d a sh s
  | .srai d a sh => Sys2Proof.Machine.execSrai d a sh s
  | .rori d a sh => Sys2Proof.Machine.execRori d a sh s
  | .addiw d a imm => Sys2Proof.Machine.execAddiw d a imm s
  | .liu d imm => Sys2Proof.Machine.execLiu d imm s
  | .pcadd d imm => Sys2Proof.Machine.execPcadd d imm s
  | .beq a b off => Sys2Proof.Machine.execBeq a b off s
  | .bne a b off => Sys2Proof.Machine.execBne a b off s
  | .blt a b off => Sys2Proof.Machine.execBlt a b off s
  | .bge a b off => Sys2Proof.Machine.execBge a b off s
  | .bltu a b off => Sys2Proof.Machine.execBltu a b off s
  | .bgeu a b off => Sys2Proof.Machine.execBgeu a b off s
  | .jal d off => Sys2Proof.Machine.execJal d off s
  | .jalr d a imm => Sys2Proof.Machine.execJalr d a imm s
  | .faddS d a b => Sys2Proof.Machine.execFaddS d a b s
  | .fsubS d a b => Sys2Proof.Machine.execFsubS d a b s
  | .fmulS d a b => Sys2Proof.Machine.execFmulS d a b s
  | .fdivS d a b => Sys2Proof.Machine.execFdivS d a b s
  | .fsqrtS d a => Sys2Proof.Machine.execFsqrtS d a s
  | .fminS d a b => Sys2Proof.Machine.execFminS d a b s
  | .fmaxS d a b => Sys2Proof.Machine.execFmaxS d a b s
  | .feqS d a b => Sys2Proof.Machine.execFeqS d a b s
  | .fltS d a b => Sys2Proof.Machine.execFltS d a b s
  | .fcvtSL d a => Sys2Proof.Machine.execFcvtSL d a s
  | .fcvtLS d a => Sys2Proof.Machine.execFcvtLS d a s
  | .fcvtSD d a => Sys2Proof.Machine.execFcvtSD d a s
  | .faddD d a b => Sys2Proof.Machine.execFaddD d a b s
  | .fsubD d a b => Sys2Proof.Machine.execFsubD d a b s
  | .fmulD d a b => Sys2Proof.Machine.execFmulD d a b s
  | .fdivD d a b => Sys2Proof.Machine.execFdivD d a b s
  | .fsqrtD d a => Sys2Proof.Machine.execFsqrtD d a s
  | .fcvtDS d a => Sys2Proof.Machine.execFcvtDS d a s
  | .fcvtDL d a => Sys2Proof.Machine.execFcvtDL d a s
  | .fcvtLD d a => Sys2Proof.Machine.execFcvtLD d a s
  | .hAddi d imm => Sys2Proof.Machine.execHAddi d imm s
  | .hLi d imm => Sys2Proof.Machine.execHLi d imm s
  | .hSlli d sh => Sys2Proof.Machine.execHSlli d sh s
  | .hLiu d imm => Sys2Proof.Machine.execHLiu d imm s
  | .hMov d a => Sys2Proof.Machine.execHMov d a s
  | .hNop => Sys2Proof.Machine.execHNop s
  | .hAdd d a => Sys2Proof.Machine.execHAdd d a s
  | .hSub d a => Sys2Proof.Machine.execHSub d a s
  | .hBz a off => Sys2Proof.Machine.execHBz a off s
  | .hBnz a off => Sys2Proof.Machine.execHBnz a off s
  | .hJmp off => Sys2Proof.Machine.execHJmp off s
  | .hJmpr a => Sys2Proof.Machine.execHJmpr a s
  | .trapEntry t => Sys2Proof.Machine.execTrapEntry t s
  | .queueStall => Sys2Proof.Machine.execQueueStall s
  | .waitEnd => Sys2Proof.Machine.execWaitEnd s
  | .microOperationStart die core bed cost => Sys2Proof.Machine.execMicroOperationStart die core bed cost s
  | .microOperationEnd die core bed => Sys2Proof.Machine.execMicroOperationEnd die core bed s
  | .loadRowDelivery => Sys2Proof.Machine.execLoadRowDelivery s
  | .storeRowDrain => Sys2Proof.Machine.execStoreRowDrain s
  | .copyProgress c n => Sys2Proof.Machine.execCopyProgress c n s
  | .copyFaultHeld c => Sys2Proof.Machine.execCopyFaultHeld c s
  | .cpyXGroupWrite c => Sys2Proof.Machine.execCpyXGroupWrite c s
  | .grammarResult => Sys2Proof.Machine.execGrammarResult s
  | .accessionAppend p => Sys2Proof.Machine.execAccessionAppend p s
  | .batchDurable p => Sys2Proof.Machine.execBatchDurable p s
  | .sealCompletion v corrupt => Sys2Proof.Machine.execSealCompletion v corrupt s
  | .dropCompletion v => Sys2Proof.Machine.execDropCompletion v s
  | .attestationBlock => Sys2Proof.Machine.execAttestationBlock s
  | .preemption gang => Sys2Proof.Machine.execPreemption gang s
  | .contextRestore gang => Sys2Proof.Machine.execContextRestore gang s
  | .migration => Sys2Proof.Machine.execMigration s
  | .quantumExpiry gang => Sys2Proof.Machine.execQuantumExpiry gang s
  | .waitConditionEvaluation queue => Sys2Proof.Machine.execWaitConditionEvaluation queue s
  | .packetTake queue => Sys2Proof.Machine.execPacketTake queue s
  | .gangSowing gang => Sys2Proof.Machine.execGangSowing gang s
  | .launchCompletion gang => Sys2Proof.Machine.execLaunchCompletion gang s
  | .wqtailWrite by_ queue v => Sys2Proof.Machine.execWqtailWrite by_ queue v s
  | .wqbaseWrite by_ queue v => Sys2Proof.Machine.execWqbaseWrite by_ queue v s
  | .wqctlWrite by_ queue v => Sys2Proof.Machine.execWqctlWrite by_ queue v s
  | .wqstatWrite by_ queue v => Sys2Proof.Machine.execWqstatWrite by_ queue v s
  | .ldrainWrite by_ p v => Sys2Proof.Machine.execLdrainWrite by_ p v s
  | .lsignWrite by_ p v => Sys2Proof.Machine.execLsignWrite by_ p v s
  | .signedStatement p => Sys2Proof.Machine.execSignedStatement p s
  | .registerWrite by_ addr v => Sys2Proof.Machine.execRegisterWrite by_ addr v s
  | .loadCodeObject => Sys2Proof.Machine.execLoadCodeObject s
  | .unload => Sys2Proof.Machine.execUnload s
  | .attestDevice => Sys2Proof.Machine.execAttestDevice s
  | .setPackageNumber => Sys2Proof.Machine.execSetPackageNumber s
  | .releaseFencedFrame => Sys2Proof.Machine.execReleaseFencedFrame s
  | .setTripPoint => Sys2Proof.Machine.execSetTripPoint s
  | .setQuantum => Sys2Proof.Machine.execSetQuantum s
  | .mailboxCompletion => Sys2Proof.Machine.execMailboxCompletion s
  | .reset b => Sys2Proof.Machine.execReset b s
  | .thermalRefresh die core reading => Sys2Proof.Machine.execThermalRefresh die core reading s
  | .powerLimitThrottle excess => Sys2Proof.Machine.execPowerLimitThrottle excess s
  | .scrub addr double => Sys2Proof.Machine.execScrub addr double s
  | .flitRetry die retrainFails => Sys2Proof.Machine.execFlitRetry die retrainFails s
  | .cxlLinkDown port => Sys2Proof.Machine.execCxlLinkDown port s
  | .fabricReadTimeout package => Sys2Proof.Machine.execFabricReadTimeout package s
  | .fabricRequest write addr bytes => Sys2Proof.Machine.execFabricRequest write addr bytes s
  | .hostRead addr size => Sys2Proof.Machine.execHostRead addr size s
  | .hostWrite addr bytes => Sys2Proof.Machine.execHostWrite addr bytes s
  | .migrationRequest hart reason => Sys2Proof.Machine.execMigrationRequest hart reason s

end Sys2Proof.Machine
end

