-- ==== Sys2Proof/Machine/Run.lean ====
section
/-! DEFINITION. How a hart goes on: fetching and decoding its next instruction, what that waits for, instructions in flight,
queue stalls, the counters of its core; and who acts when nobody is named (R19, R20, R25, R31, R35–R38, R53, R66, R112, R268,
R328, R330, R369, R371; log 3, 10). -/

namespace Sys2Proof.Machine

/-- The meaning of an instruction, as a state. -/
def State.run (i : Instr) (s : State) : State := Out.state s (exec i s)

/-! Fetch and decode. -/

/-- A byte as fetch sees it: that of the core's instruction cache where it holds it (R37). -/
def State.codeByte (s : State) (pa : Nat) : Byte :=
  (mfind s.pkg.icache (codeKey s.cpu.id.place (pa % pkgSpan))).getD (s.physByte s.cpu.id.die pa)

/-- `n` bytes of code from a virtual address on. -/
def State.codeBytes (s : State) (va n : Nat) : Except AccFault (List Byte) :=
  match s.accessBytes s.cpu.ctx .fetch false (vaRange va n) with
  | .error f => .error f
  | .ok pas => .ok (pas.map s.codeByte)

/-- The trap of a fetch that fails (R36, R66, R184): eval is the lowest halfword that could not be fetched. -/
def State.fetchTrap (s : State) (f : AccFault) (len : Nat) : TrapInfo :=
  ⟨f.cause, BitVec.ofNat 64 (if f.cause = .fetchFault then f.addr / 2 * 2 else f.addr), f.sub, f.kind, 15, 0,
    s.cpu.front.vstart != 0, s.cpu.front.vstart, len⟩

/-- ILLEGAL_INSTRUCTION at bytes that decode to nothing (R53). -/
def State.illegalTrap (s : State) (l : List Byte) : TrapInfo :=
  ⟨.illegalInstruction, BitVec.ofNat 64 (leNat l), 0, 0, 15, 0, s.cpu.front.vstart != 0, s.cpu.front.vstart, l.length⟩

/-- The instruction at pc (R35, R36), or the trap it takes instead. -/
noncomputable def State.fetch (s : State) : Except TrapInfo Instr :=
  let pc := s.cpu.front.pc.toNat
  match s.codeBytes pc 2 with
  | .error f => .error (s.fetchTrap f 2)
  | .ok h =>
    let n := lengthOf (leNat h)
    match s.codeBytes pc n with
    | .error f => .error (s.fetchTrap f n)
    | .ok l => match decodeBytes l with
      | .ok (i, _) => .ok i
      | .error _ => .error (s.illegalTrap l)

/-! What the next instruction waits for. -/

/-- An instruction that reads the shape or takes a snapshot of it (R112). -/
def readsShape (i : Instr) : Bool :=
  match i with
  | .shape .. | .shapeM .. | .shapeG .. | .getsh .. | .vtag .. | .qcfg .. | .fork .. | .join .. | .safept .. => true
  | _ => sideOf i = 2 || (sideOf i = 1 && fenceClass i != 1)

/-- A VLD.FF that has not settled the shape is in flight (R112). -/
def State.unsettled (s : State) : Bool :=
  s.cpu.inflight.any (fun p =>
    match p.instr with
    | .vldFF _ => p.noted.isNone
    | _ => false)

/-- Instruction `i` has completed at once since `before`. -/
def Hart.completed (h before : Hart) : Bool :=
  !h.trapped && h.wait.isNone && h.status = .running && h.inflight.length ≤ before.inflight.length

/-- The next instruction leaves the decoder: what it writes is owed from then on (R19), or has overwritten older results of the grammar
engine (R330), and a HALT has been decoded (R22). -/
def State.issue (s : State) (i : Instr) : State :=
  let t := State.start (fun i s => s.run i) i s
  let h := t.cpu.owing s.cpu i
  let h := if h.completed s.cpu then { h with back := h.back.wrote s.cpu.front.instret.toNat i } else h
  { t with cpu := { h with halting := h.halting || (i == .halt && h.status = .running && !h.trapped) } }

/-- The next instruction is handed to its side, unless something keeps it in the decoder or the front end: the slot's older hart, the
shape, an x register, a window entry. An instruction of another side waits there for its operands. -/
def State.hand (s : State) (i : Instr) : State :=
  if sideOf i = 1 && (s.aheadOf s.cpu).isSome then s.block .runAhead
  else if (s.unsettled && readsShape i) || s.decodeWaits i then s.block (.decode (loadsInto i))
  else if sideOf i = 0 && s.xBusy i then s.block .register
  else
    let s1 := if (s.inbound s.cpu.id.uid).isEmpty then s else s.settleInbound
    if sideOf i = 2 && !s1.mayEnter then s1.block .window
    else s1.issue i

/-- The hart may decode: the slot is its own, or the hart that leaves it has decoded its HALT and held the same share (R22). -/
def State.mayDecode (s : State) : Bool :=
  match s.aheadOf s.cpu with
  | none => true
  | some h => h.id.share = s.cpu.id.share && h.id.slot = s.cpu.id.slot

/-- The next instruction of the stream, or the trap at its place once every older instruction is complete (R20). -/
noncomputable def State.nextInstr (s : State) : State :=
  if !s.mayDecode then s.block .runAhead
  else match s.fetch with
    | .ok i => s.hand i
    | .error t => if s.oldest then s.takeTrap t else s.block .fault

/-- The stall counter of R31 behind what the hart did since `before`: it counts the cycles that passed (log 5) while the
condition holds, and clears when it fails; at a limit other than 0 the hart takes QUEUE_STALL. -/
def State.stallCheck (s before : State) : State :=
  match s.stallQueues with
  | none => { s with cpu := { s.cpu with stall := 0 } }
  | some qs =>
    let n := s.cpu.stall + (s.cpu.front.cycle - before.cpu.front.cycle).toNat
    if s.cpu.status = .running && s.cpu.front.qslim != 0 && decide (s.cpu.front.qslim.toNat ≤ n) then s.takeStall qs
    else { s with cpu := { s.cpu with stall := n } }

/-- The first instruction in flight that can go on does, and whether there was one. -/
def State.progress (s : State) : State × Bool :=
  let s1 := if (s.inbound s.cpu.id.uid).isEmpty then s else s.settleInbound
  s1.resumeFirst (State.start (fun i s => s.run i)) s1.cpu.inflight.length 0

/-- One step of the hart at hand: the first instruction in flight that can go on does; else the next one is taken up. -/
noncomputable def State.hartStep (s : State) : State :=
  let r := s.progress
  State.count s ((if r.2 then r.1 else s.nextInstr).stallCheck s)

/-! Who acts when nobody is named (log 10). -/

/-- A row of the opcode table without an encoding. -/
def isEvent (i : Instr) : Bool :=
  match i with
  | .trapEntry .. | .queueStall | .waitEnd | .microOperationStart .. | .microOperationEnd .. | .loadRowDelivery
  | .storeRowDrain | .copyProgress .. | .copyFaultHeld .. | .cpyXGroupWrite .. | .grammarResult | .accessionAppend ..
  | .batchDurable .. | .sealCompletion .. | .dropCompletion .. | .attestationBlock | .preemption .. | .contextRestore ..
  | .migration | .quantumExpiry .. | .waitConditionEvaluation .. | .packetTake .. | .gangSowing .. | .launchCompletion ..
  | .wqtailWrite .. | .wqbaseWrite .. | .wqctlWrite .. | .wqstatWrite .. | .ldrainWrite .. | .lsignWrite ..
  | .signedStatement .. | .registerWrite .. | .loadCodeObject | .unload | .attestDevice | .setPackageNumber
  | .releaseFencedFrame | .setTripPoint | .setQuantum | .mailboxCompletion | .reset .. | .thermalRefresh ..
  | .powerLimitThrottle .. | .scrub .. | .flitRetry .. | .cxlLinkDown .. | .fabricReadTimeout .. | .fabricRequest ..
  | .hostRead .. | .hostWrite .. | .migrationRequest .. => true
  | _ => false

/-- What the dispatchers may do: complete launches, pre-empt, take a packet, sow or restore a gang. -/
noncomputable def State.dispatcherEvents (s : State) : List Instr :=
  s.pkg.gangs.map (fun g => Instr.launchCompletion g.gid) ++ s.pkg.gangs.map (fun g => Instr.preemption g.gid)
    ++ (List.range 3).flatMap (fun d =>
      match s.choice d with
      | some (.queue q) => [Instr.packetTake q]
      | some (.gang g) => [Instr.gangSowing g, Instr.contextRestore g]
      | none => [])

/-- The first of the events that changes anything. -/
def State.firstEvent (s : State) (l : List Instr) : Option State :=
  match l with
  | [] => none
  | e :: t => if s.run e = s then s.firstEvent t else some (s.run e)

/-- The hart at place `k` of the others becomes the hart at hand, which joins the end of the others. -/
def State.swapIn (s : State) (k : Nat) : State :=
  match s.others[k]? with
  | none => s
  | some h =>
    let rest := s.others.eraseIdx k
    { s with cpu := h, others := if s.cpu.id.uid = 0 then rest else rest ++ [s.cpu] }

/-- The next running hart after the one at hand. -/
def State.rotate (s : State) : Option State :=
  (s.others.findIdx? (fun h => h.status = .running)).map s.swapIn

/-- Nobody is named: the hart at hand goes on; when it waits or has none of its own, the dispatchers act, then the next
hart. -/
noncomputable def State.defaultStep (s : State) : State :=
  if s.cpu.status = .running && (s.cpu.wait.isNone || s.progress.2) then s.hartStep
  else match s.firstEvent s.dispatcherEvents with
    | some t => t
    | none => match s.rotate with
      | some t => t.hartStep
      | none => if s.cpu.status = .running then s.hartStep else s.tock

/-! Caches and errors of the agenda (R37, R189, R299, R301). -/

/-- A translation cache keeps the leaf for a virtual address of the hart at hand: a valid, well-formed one. An uncorrectable word of a
table that the walk meets is dropped (R189). -/
def State.cacheLeaf (s : State) (va : Nat) : State :=
  match s.walk .load va 4 0 (bitsOf s.cpu.id.root.toNat 49 13 * 8192) with
  | .error f => if f.cause = .dataError then s.dropBad f.kind f.addr else s
  | .ok (e, l) =>
    { s with pkg := { s.pkg with
        tlb := ⟨s.cpu.id.root.toNat % 4096, va / leafSpan l * leafSpan l, leafSpan l, BitVec.ofNat 64 e⟩ :: s.pkg.tlb } }

/-- The instruction cache of a core keeps the halfword at a local address of memory. -/
def State.cacheCode (s : State) (die core pa : Nat) : State :=
  let a := pa / 2 * 2
  let at_ (k : Nat) : Nat := codeKey (128 * die + core) (a + k)
  if die < 3 && core < 128 && (s.regionAt a).isMem && !s.unreadable a then
    { s with pkg := { s.pkg with icache := (List.range 2).foldl (fun m k => minsert m (at_ k) (readCell s.mem (a + k))) s.pkg.icache } }
  else s

/-- The instruction cache of a core drops the halfword at a local address. -/
def State.evictCode (s : State) (die core pa : Nat) : State :=
  { s with pkg := { s.pkg with icache := s.pkg.icache.filter (fun e => e.1 / 2 != codeKey (128 * die + core) pa / 2) } }

/-- The home package of a remote address writes memory there (R205). -/
def State.remoteWrite (s : State) (pa : Nat) (l : List Byte) : State :=
  let places := (List.range l.length).map (pa + ·)
  l.zipIdx.foldl (fun s e =>
    let a := pa + e.2
    if s.isLocal a || !(regionOf (a % pkgSpan)).isMem then s else { s with mem := writeCell s.mem (s.key a) e.1 })
    (s.meetStrips false (places.map s.key))

/-- What the home package of the frame of a remote address admits from now on (R208). -/
def State.remoteHome (s : State) (pa : Nat) (refused shut : Bool) : State :=
  let f := s.key pa / 65536
  let put (on : Bool) (l : List Nat) : List Nat := if on then f :: l.filter (· != f) else l.filter (· != f)
  if s.isLocal pa then s
  else { s with pkg := { s.pkg with away := put refused s.pkg.away, shut := put shut s.pkg.shut } }

/-- Hart `uid` becomes the hart at hand, if it is there. -/
def State.turnTo (s : State) (uid : Nat) : State :=
  if s.cpu.id.uid = uid then s
  else match s.others.findIdx? (fun h => h.id.uid = uid) with
    | some k => s.swapIn k
    | none => s

/-- The step of a hart in which an instruction that something stops completes the element groups `gs` and no others (R130). -/
noncomputable def State.stoppedStep (s : State) (gs : List Nat) : State :=
  let t := State.hartStep { s with cpu := { s.cpu with groups := some gs } }
  { t with cpu := { t.cpu with groups := none } }

/-- An item of the agenda. -/
noncomputable def State.act (s : State) (a : AgendaItem) : Out :=
  match a with
  | .hart uid =>
    let s1 := s.turnTo uid
    .next (if s1.cpu.id.uid = uid && s1.cpu.status = .running then s1.hartStep else s1)
  | .event e => if isEvent e then exec e s else .next s
  | .cacheLeaf va => .next (s.cacheLeaf va)
  | .evictLeaf k => .next { s with pkg := { s.pkg with tlb := s.pkg.tlb.eraseIdx k } }
  | .cacheCode die core pa => .next (s.cacheCode die core pa)
  | .evictCode die core pa => .next (s.evictCode die core pa)
  | .upset pa => .next (if (regionOf (pa % pkgSpan)).isMem then { s with pkg := { s.pkg with poison := s.key pa / 8 :: s.pkg.poison } } else s)
  | .fillLine die pa => .next (s.fillLine die pa)
  | .evictLine die pa => .next (s.evictLine die pa)
  | .lineError die pa => .next (s.dropLine die pa)
  | .remoteWrite pa l => .next (s.remoteWrite pa l)
  | .firmwareWrite a l => .next (s.firmwareWrite a l)
  | .remoteHome pa refused shut => .next (s.remoteHome pa refused shut)
  | .booting b k => .next (s.bootTo b k)
  | .firmwareRead a n => .next (s.firmwareRead a n)
  | .dropProgress v first len => .next (s.dropProgress v first len)
  | .stopped uid gs =>
    let s1 := s.turnTo uid
    .next (if s1.cpu.id.uid = uid && s1.cpu.status = .running then s1.stoppedStep gs else s1)
  | .corrected die kind => .next (s.countCe die kind)
  | .dropUnit uid kind place => .next (s.asHart uid (fun s => if 3 ≤ kind && kind ≤ 9 then s.dropBad kind place else s))

end Sys2Proof.Machine
end

