-- ==== Sys2Proof/Machine/Step.lean ====
section
/-! DEFINITION. The step function, and the placing of an instruction where it fetches. -/

namespace Sys2Proof.Machine

/-- What the agents do at a step: the first item of the agenda, or the default choice of who acts. -/
noncomputable def State.stepOf (s : State) : Out :=
  match s.agenda with
  | a :: rest => State.act { s with agenda := rest } a
  | [] => .next s.defaultStep

/-- One step (log 3). A package without power does nothing (R383). Packages of which a read goes unanswered answer again once a step has
met that (R382). -/
noncomputable def step (s : State) : Host.Outcome State Fault Refusal :=
  if !s.pkg.power then .fault .powerOff
  else if s.pkg.unanswered.isEmpty then s.stepOf
  else
    match s.stepOf with
    | .next t =>
      .next { t with pkg := { t.pkg with unanswered := t.pkg.unanswered.take (t.pkg.unanswered.length - s.pkg.unanswered.length) } }
    | o => o

/-- Where the fetch state places its tables and code: a level-0 table, a level-1 table whose entry 0 maps 64 GiB of HBM
window 0, and pc. -/
def fetchRoot : Nat := 0x2000
def fetchTable : Nat := 0x4000
def fetchPc : Nat := 0x10000

/-- A booted package with one hart of a sown launch in a whole share, its tables in memory (R21, R286, R295; log 14): what a
launch leaves when a program begins. -/
def State.launched (s : State) : State :=
  let uid := s.pkg.nextUid
  let gid := s.pkg.nextGang
  let gang : Gang :=
    { gid := gid, queue := 0, seq := 0, die := 0, n := 1, share := 0, prio := 0, dup := false, priv := false, gshape := false
      entry := BitVec.ofNat 64 fetchPc, count := 0, args := List.replicate 8 0, cword := 0, area := 0
      root := BitVec.ofNat 64 fetchRoot, bars := Vector.replicate 2 { Barrier.reset with live := 1 }, gvlmax := 65536
      since := [], quantum := vget 0 s.pkg.quantum 0, due := false, sown := true, saved := false, order := s.pkg.nextOrder, fault := none }
  let hart : Hart :=
    { Hart.absent with
      front := { Front.reset with x := launchX gang 0, pc := gang.entry, esave := BitVec.ofNat 64 (gang.esave 0 0) }
      id := ⟨uid, gid, 0, 0, 0, 0, 0, 16, 0, 0, none, false, gang.root⟩
      status := .running }
  { s with
    cpu := hart
    mem := writeCells (writeCells s.mem fetchRoot (leBytes 8 (fetchTable + 1))) fetchTable (leBytes 8 0x73)
    pkg := { s.pkg with
      mgmt := { s.pkg.mgmt with bstate := 3 }
      gangs := s.pkg.gangs ++ [gang]
      nextGang := gid + 1
      nextUid := uid + 1
      nextOrder := s.pkg.nextOrder + 1 } }

/-- The instruction with bits `w` stands where the next step fetches (log 14). -/
def State.withFetchWord (s : State) (nbits w : Nat) : State :=
  let s1 := if s.cpu.status = .running then s else s.launched
  let places := (vaRange s1.cpu.front.pc.toNat 8).filterMap (fun va => (s1.translate s1.cpu.ctx .fetch va).toOption)
  { s1 with
    cpu := { s1.cpu with inflight := [], wait := none, due := none }
    mem := ((places.map s1.key).zip (leBytes 8 (w % 2 ^ nbits))).foldl (fun m e => writeCell m e.1 e.2) s1.mem
    agenda := []
    pkg := { s1.pkg with
      power := true
      icache := s1.pkg.icache.filter (fun e => !(places.map (fun pa => codeKey s1.cpu.id.place (pa % pkgSpan))).contains e.1) } }

end Sys2Proof.Machine
end

