-- ==== Sys2Proof/Safety.lean ====
section
/-! DEFINITION. What a safe run is: none of its steps ends in a fault or a refusal, and the states keep the canonical form of
memory. -/

namespace Sys2Proof

/-- The states that one step leads from and to. -/
def Steps (s t : Machine.State) : Prop := Machine.step s = .next t

/-- The states that a run from `s` passes through. -/
inductive Reaches : Machine.State → Machine.State → Prop where
  | here (s : Machine.State) : Reaches s s
  | step (s t u : Machine.State) : Steps s t → Reaches t u → Reaches s u

/-- A run from `s` never stops and memory stays canonical. -/
def SafeRun (s : Machine.State) : Prop :=
  ∀ t, Reaches s t → (∃ u, Steps t u) ∧ Machine.Memory.wf t.mem = true

end Sys2Proof
end

