-- ==== Sys2Proof/Certificates/Slice0/Obligations.lean ====
section
/-! DEFINITION. The statements about this machine, and the terms they are stated in. -/

namespace Sys2Proof.Claims

open Sys2Proof.Machine

/-- Every byte of memory reads as before. -/
def SameMem (s t : State) : Prop := ∀ a, readCell t.mem a = readCell s.mem a

/-- Nothing outside the hart at hand has changed. -/
def SameRest (s t : State) : Prop := t.others = s.others ∧ t.pkg = s.pkg ∧ t.agenda = s.agenda ∧ SameMem s t

/-- Of the other harts only what orders the vector accesses of their open strip intervals (R215) may have changed. -/
def SameOthers (s t : State) : Prop :=
  ∃ f : Hart → List StripWrite, t.others = s.others.map (fun h => { h with back := { h.back with strip := f h } })

/-- The same of the hart at hand. -/
def SameCpu (s t : State) : Prop := t.cpu = { s.cpu with back := { s.cpu.back with strip := t.cpu.back.strip } }

/-- Of the hart at hand only its front registers may have changed; it waits for nothing and has not trapped. -/
def SameHart (s t : State) : Prop :=
  t.cpu = { s.cpu with front := t.cpu.front, wait := none, due := none, resumed := t.cpu.resumed, trapped := false }

/-- Of the lanes' side only what orders the vector accesses of the open strip interval (R215 to R223) may have changed. -/
def SameBack (s t : State) : Prop :=
  t.cpu.back = { s.cpu.back with strip := t.cpu.back.strip, rels := t.cpu.back.rels }

/-- Of the package only what the L2s hold of a line (R205, R206) may have changed. -/
def SamePkg (s t : State) : Prop := t.pkg = { s.pkg with l2 := t.pkg.l2 }

/-- The instruction has retired and the stream goes on at `pc`; every front register is as before but the x registers, pc and
the two counters. -/
def RetiresAt (s t : State) (pc : W64) : Prop :=
  t.cpu.front = { s.cpu.front with
    x := t.cpu.front.x, pc := pc, instret := s.cpu.front.instret + 1, cycle := t.cpu.front.cycle }
    ∧ SameHart s t ∧ SameRest s t

/-- x[d] holds `v` (x0 holds 0, R65), every other x register what it held. -/
def WritesX (s t : State) (d : Reg) (v : W64) : Prop :=
  t.getX d = (if d.val = 0 then 0 else v) ∧ ∀ r, r ≠ d → t.getX r = s.getX r

/-- Every x register holds what it held. -/
def KeepsX (s t : State) : Prop := ∀ r, t.getX r = s.getX r

/-- What an integer instruction computes: its destination, the value of its rule, and its length in bytes (R69 to R72, R80). -/
def intResult (i : Instr) (s : State) : Option (Reg × W64 × Nat) :=
  let x := s.getX
  let bit (b : Bool) : W64 := if b then 1 else 0
  let n (v : W64) : Nat := v.toNat % 64
  let im (v : BitVec 12) : W64 := v.signExtend 64
  match i with
  | .add d a b => some (d, x a + x b, 4)
  | .sub d a b => some (d, x a - x b, 4)
  | .and d a b => some (d, x a &&& x b, 4)
  | .or d a b => some (d, x a ||| x b, 4)
  | .xor d a b => some (d, x a ^^^ x b, 4)
  | .sll d a b => some (d, x a <<< n (x b), 4)
  | .srl d a b => some (d, x a >>> n (x b), 4)
  | .sra d a b => some (d, (x a).sshiftRight (n (x b)), 4)
  | .slt d a b => some (d, bit ((x a).slt (x b)), 4)
  | .sltu d a b => some (d, bit ((x a).ult (x b)), 4)
  | .mul d a b => some (d, x a * x b, 4)
  | .mulh d a b => some (d, (((x a).signExtend 128 * (x b).signExtend 128) >>> 64).setWidth 64, 4)
  | .mulhu d a b => some (d, (((x a).setWidth 128 * (x b).setWidth 128) >>> 64).setWidth 64, 4)
  | .div d a b => some (d, if x b = 0 then BitVec.allOnes 64 else (x a).sdiv (x b), 4)
  | .divu d a b => some (d, if x b = 0 then BitVec.allOnes 64 else x a / x b, 4)
  | .rem d a b => some (d, if x b = 0 then x a else (x a).srem (x b), 4)
  | .remu d a b => some (d, if x b = 0 then x a else x a % x b, 4)
  | .min d a b => some (d, if (x b).slt (x a) then x b else x a, 4)
  | .max d a b => some (d, if (x a).slt (x b) then x b else x a, 4)
  | .minu d a b => some (d, if (x b).ult (x a) then x b else x a, 4)
  | .maxu d a b => some (d, if (x a).ult (x b) then x b else x a, 4)
  | .addw d a b => some (d, ((x a + x b).setWidth 32).signExtend 64, 4)
  | .subw d a b => some (d, ((x a - x b).setWidth 32).signExtend 64, 4)
  | .clz d a => some (d, (x a).clz, 4)
  | .ctz d a => some (d, (x a).ctz, 4)
  | .cpop d a => some (d, (x a).cpop, 4)
  | .rol d a b => some (d, (x a).rotateLeft (n (x b)), 4)
  | .ror d a b => some (d, (x a).rotateRight (n (x b)), 4)
  | .addi d a v => some (d, x a + im v, 4)
  | .andi d a v => some (d, x a &&& im v, 4)
  | .ori d a v => some (d, x a ||| im v, 4)
  | .xori d a v => some (d, x a ^^^ im v, 4)
  | .slti d a v => some (d, bit ((x a).slt (im v)), 4)
  | .sltiu d a v => some (d, bit ((x a).ult (im v)), 4)
  | .slli d a k => some (d, x a <<< k.val, 4)
  | .srli d a k => some (d, x a >>> k.val, 4)
  | .srai d a k => some (d, (x a).sshiftRight k.val, 4)
  | .rori d a k => some (d, (x a).rotateRight k.val, 4)
  | .addiw d a v => some (d, ((x a + im v).setWidth 32).signExtend 64, 4)
  | .liu d v => some (d, (v ++ (0 : BitVec 12)).signExtend 64, 4)
  | .pcadd d v => some (d, s.cpu.front.pc + (v ++ (0 : BitVec 12)).signExtend 64, 4)
  | .hAddi d v => some (d, x d + v.signExtend 64, 2)
  | .hLi d v => some (d, v.signExtend 64, 2)
  | .hSlli d k => some (d, x d <<< k.val, 2)
  | .hLiu d v => some (d, (v ++ (0 : BitVec 12)).signExtend 64, 2)
  | .hMov d a => some (d, x a, 2)
  | .hAdd d a => some (d, x d + x a, 2)
  | .hSub d a => some (d, x d - x a, 2)
  | .hNop => some (0, 0, 2)
  | _ => none

/-- What a scalar floating-point instruction computes (R75 to R79): each result is its rule's exact value rounded once by
rmode, FMIN.S and FMAX.S choose an operand, the compares give 0 or 1. -/
def floatResult (i : Instr) (s : State) : Option (Reg × W64) :=
  let rm := s.cpu.front.rmode.toNat
  let sv (r : Reg) : Ex := fp32.val (s.getU r % 2 ^ 32)
  let dv (r : Reg) : Ex := fp64.val (s.getU r)
  let so (z : Ex) : W64 := BitVec.ofNat 64 (fp32.round rm z).1
  let dd (z : Ex) : W64 := BitVec.ofNat 64 (fp64.round rm z).1
  match i with
  | .faddS d a b => some (d, so ((sv a).add rm (sv b)))
  | .fsubS d a b => some (d, so ((sv a).sub rm (sv b)))
  | .fmulS d a b => some (d, so ((sv a).mul (sv b)))
  | .fdivS d a b => some (d, so ((sv a).div (sv b)))
  | .fsqrtS d a => some (d, so (sv a).sqrt)
  | .fminS d a b => some (d, so (exMin (sv a) (sv b)))
  | .fmaxS d a b => some (d, so (exMax (sv a) (sv b)))
  | .feqS d a b => some (d, if (sv a).eq (sv b) then 1 else 0)
  | .fltS d a b => some (d, if (sv a).lt (sv b) then 1 else 0)
  | .faddD d a b => some (d, dd ((dv a).add rm (dv b)))
  | .fsubD d a b => some (d, dd ((dv a).sub rm (dv b)))
  | .fmulD d a b => some (d, dd ((dv a).mul (dv b)))
  | .fdivD d a b => some (d, dd ((dv a).div (dv b)))
  | .fsqrtD d a => some (d, dd (dv a).sqrt)
  | .fcvtSL d a => some (d, so (Ex.int (s.getX a).toInt))
  | .fcvtLS d a => some (d, fpToInt rm (sv a))
  | .fcvtSD d a => some (d, so (dv a))
  | .fcvtDS d a => some (d, dd (sv a))
  | .fcvtDL d a => some (d, dd (Ex.int (s.getX a).toInt))
  | .fcvtLD d a => some (d, fpToInt rm (dv a))
  | _ => none

/-- Where the stream goes on after a branch (R73, R80). -/
def branchTarget (i : Instr) (s : State) : Option W64 :=
  let x := s.getX
  let go (len : W64) (c : Bool) (off : W64) : W64 := s.cpu.front.pc + (if c then off else len)
  let o12 (v : BitVec 12) : W64 := v.signExtend 64 <<< 1
  let o8 (v : BitVec 8) : W64 := v.signExtend 64 <<< 1
  match i with
  | .beq a b v => some (go 4 (x a == x b) (o12 v))
  | .bne a b v => some (go 4 (!(x a == x b)) (o12 v))
  | .blt a b v => some (go 4 ((x a).slt (x b)) (o12 v))
  | .bge a b v => some (go 4 (!(x a).slt (x b)) (o12 v))
  | .bltu a b v => some (go 4 ((x a).ult (x b)) (o12 v))
  | .bgeu a b v => some (go 4 (!(x a).ult (x b)) (o12 v))
  | .hBz a v => some (go 2 (x (shortReg a) == 0) (o8 v))
  | .hBnz a v => some (go 2 (!(x (shortReg a) == 0)) (o8 v))
  | .hJmp v => some (s.cpu.front.pc + (v.signExtend 64 <<< 1))
  | .hJmpr a => some (x a &&& ~~~(1 : W64))
  | _ => none


/-- A scalar load: its destination, the address of R230, how many bytes, and what they become. -/
def loadForm (i : Instr) (s : State) : Option (Reg × Nat × Nat × (Nat → W64)) :=
  let at_ (a : Reg) (off : W64) : Nat := (s.getX a + off).toNat
  let im (v : BitVec 12) : W64 := v.signExtend 64
  let s8 (v : Nat) : W64 := (BitVec.ofNat 8 v).signExtend 64
  let s16 (v : Nat) : W64 := (BitVec.ofNat 16 v).signExtend 64
  let s32 (v : Nat) : W64 := (BitVec.ofNat 32 v).signExtend 64
  let u : Nat → W64 := BitVec.ofNat 64
  match i with
  | .ldb d a v => some (d, at_ a (im v), 1, s8)
  | .ldh d a v => some (d, at_ a (im v), 2, s16)
  | .ldw d a v => some (d, at_ a (im v), 4, s32)
  | .ldd d a v => some (d, at_ a (im v), 8, u)
  | .ldbu d a v => some (d, at_ a (im v), 1, u)
  | .ldhu d a v => some (d, at_ a (im v), 2, u)
  | .ldwu d a v => some (d, at_ a (im v), 4, u)
  | .hLdd d a k => some (shortReg d, at_ (shortReg a) (BitVec.ofNat 64 (8 * k.val)), 8, u)
  | .hLdw d a k => some (shortReg d, at_ (shortReg a) (BitVec.ofNat 64 (4 * k.val)), 4, s32)
  | .lda o => some (o.d, s.getU o.a, if o.dbl then 8 else 4, if o.dbl then u else s32)
  | _ => none

/-- A scalar store: its source, the address of R230, and how many bytes. -/
def storeForm (i : Instr) (s : State) : Option (Reg × Nat × Nat) :=
  let at_ (a : Reg) (off : W64) : Nat := (s.getX a + off).toNat
  let im (v : BitVec 12) : W64 := v.signExtend 64
  match i with
  | .stb b a v => some (b, at_ a (im v), 1)
  | .sth b a v => some (b, at_ a (im v), 2)
  | .stw b a v => some (b, at_ a (im v), 4)
  | .std b a v => some (b, at_ a (im v), 8)
  | .hStd b a k => some (shortReg b, at_ (shortReg a) (BitVec.ofNat 64 (8 * k.val)), 8)
  | .hStw b a k => some (shortReg b, at_ (shortReg a) (BitVec.ofNat 64 (4 * k.val)), 4)
  | .stl o => some (o.b, s.getU o.a, if o.dbl then 8 else 4)
  | _ => none

/-- The new value of an atomic, from the old value, u(x[b]) and u(x[d]) modulo the width `w` (R233). -/
def amoForm (i : Instr) : Option (AmoOps × (Nat → Nat → Nat → Nat → Nat)) :=
  match i with
  | .amoswp o => some (o, fun _ _ b _ => b)
  | .amoadd o => some (o, fun w v b _ => (v + b) % 2 ^ w)
  | .amoand o => some (o, fun _ v b _ => v &&& b)
  | .amoor o => some (o, fun _ v b _ => v ||| b)
  | .amoxor o => some (o, fun _ v b _ => v ^^^ b)
  | .amomin o => some (o, fun w v b _ => if (BitVec.ofNat w b).toInt < (BitVec.ofNat w v).toInt then b else v)
  | .amomax o => some (o, fun w v b _ => if (BitVec.ofNat w v).toInt < (BitVec.ofNat w b).toInt then b else v)
  | .amominu o => some (o, fun _ v b _ => if b < v then b else v)
  | .amomaxu o => some (o, fun _ v b _ => if v < b then b else v)
  | .amocas o => some (o, fun _ v b c => if v = c then b else v)
  | _ => none

/-- AMO forms, LDA and STL need an address that is a multiple of their size (R234). -/
def alignedFor (i : Instr) (ea n : Nat) : Prop :=
  match i with
  | .lda _ | .stl _ => ea % n = 0
  | _ => True

/-- No address of the list is one of a register: each is memory of this package or of another. -/
def AllMemory (s : State) (pas : List Nat) : Prop :=
  ∀ pa ∈ pas, ¬(s.isLocal pa = true ∧ (regionOf (pa % pkgSpan)).isMem = false)

/-- The byte that a write of `l` at the physical addresses `pas` leaves at memory key `a`, if it writes there; those that their home
package drops stay (R208). -/
def storedAt (s : State) (pas : List Nat) (l : List Byte) (a : Nat) : Option Byte :=
  ((((pas.zip l).filter (fun e => !s.drops e.1)).map (fun e => (s.key e.1, e.2))).reverse.find? (fun e => e.1 == a)).map
    (fun e => e.2)

/-- The bytes `l` stand at `pas`, and every other byte of memory is as before. -/
def StoresAt (s t : State) (pas : List Nat) (l : List Byte) : Prop :=
  ∀ a, readCell t.mem a = (storedAt s pas l a).getD (readCell s.mem a)

/-- The instruction of `len` bytes has retired; of the hart only pc, the two counters, the x registers, the order of the open
strip's accesses and the write digest may have changed, of the machine only memory and what notes the write (R206, R215). -/
def RetiresStore (s t : State) (len : Nat) : Prop :=
  t.cpu.front = { s.cpu.front with
      x := t.cpu.front.x, pc := s.cpu.front.pc + BitVec.ofNat 64 len, instret := s.cpu.front.instret + 1
      cycle := t.cpu.front.cycle }
    ∧ t.cpu = { s.cpu with
        front := t.cpu.front, back := t.cpu.back, digest := t.cpu.digest
        wait := none, due := none, resumed := t.cpu.resumed, trapped := false }
    ∧ SameBack s t ∧ SameOthers s t ∧ SamePkg s t ∧ t.agenda = s.agenda

/-- As `RetiresStore`, for a load: the other harts, digest and memory are as before. -/
def RetiresLoad (s t : State) (len : Nat) : Prop :=
  RetiresStore s t len ∧ t.cpu.digest = s.cpu.digest ∧ t.others = s.others ∧ SameMem s t

/-- estat as trap entry writes it (R182). -/
def estatOf (sub kind queue side : Nat) (evValid : Bool) (ilen : Nat) : W64 :=
  BitVec.ofNat 64 (sub <<< 24 + kind <<< 20 + queue <<< 12 + side <<< 5 + evValid.toNat <<< 4
    + (if ilen = 2 then 0 else if ilen = 4 then 1 else 2) <<< 1 + 1)

/-- Trap entry (R184): the trap registers hold the trap, vstart is 0, the stream goes on at tvec, a strip interval is closed;
every other front register, and memory, is as before. -/
def Traps (s t : State) (cause : Nat) (eval estat : W64) (ev : Nat) : Prop :=
  t.cpu.front = { s.cpu.front with
      epc := s.cpu.front.pc, ecause := BitVec.ofNat 64 cause, eval := eval, estat := estat, evstart := ev
      vstart := 0, pc := s.cpu.front.tvec, interval := s.cpu.front.interval + 1, cycle := t.cpu.front.cycle }
    ∧ t.cpu.status = s.cpu.status ∧ t.cpu.inflight = [] ∧ t.cpu.trapped = true ∧ t.others = s.others ∧ SameMem s t

/-- A handler is set and none is active: a trap other than DATA_ERROR is taken (R184, R188). -/
def CanTrap (s : State) : Prop := s.cpu.front.tvec ≠ 0 ∧ s.cpu.front.estat.getLsbD 0 = false


/-- No older instruction is uncompleted, no channel holds an operation or a fault, no result of the grammar engine is pending
and no copy is on its way into the hart. -/
def Quiet (s : State) : Prop :=
  s.cpu.inflight = [] ∧ (∀ k, k < 8 → (vget Chan.idle s.cpu.back.chans k).ops = [] ∧ (vget Chan.idle s.cpu.back.chans k).nops = 0
    ∧ (vget Chan.idle s.cpu.back.chans k).error = false)
    ∧ s.cpu.back.gram.pend = [] ∧ s.inbound s.cpu.id.uid = []

/-- The system registers with what they read as (R181). -/
def sysTable (s : State) : List (Nat × W64) :=
  let f := s.cpu.front
  [(0x000, f.epc), (0x001, f.ecause), (0x002, f.eval), (0x003, f.estat), (0x004, BitVec.ofNat 64 f.evstart), (0x005, f.tvec),
    (0x006, f.ehold0), (0x007, f.ehold1), (0x010, f.rmode.setWidth 64), (0x011, if f.gshape then 1 else 0),
    (0x020, f.lcid.setWidth 64), (0x021, f.cycle), (0x022, f.instret),
    (0x023, (s.core s.cpu.id.die s.cpu.id.core).therm.setWidth 64), (0x030, f.mreq), (0x031, f.esave),
    (0x032, f.qslim.setWidth 64), (0x033, f.acch)]

/-- The writable system registers: number, whether only a privileged hart writes it, whether a value is accepted, and what the
register then reads as (R181, R182). -/
def sysWritable : List (Nat × Bool × (W64 → Prop) × (W64 → W64)) :=
  let any (_ : W64) : Prop := True
  let even (v : W64) : W64 := v &&& ~~~(1 : W64)
  [(0x000, false, any, even), (0x002, false, any, id), (0x004, false, fun v => v.toNat < 2 ^ 20, id), (0x005, false, any, even),
    (0x006, false, any, id), (0x007, false, any, id), (0x010, false, fun v => v.toNat < 5, id),
    (0x011, false, any, fun v => v &&& 1), (0x031, true, any, id), (0x032, true, fun v => v.toNat < 2 ^ 32, id),
    (0x033, true, fun v => v.toNat < 16, id)]

/-- The form, the old value and x[a] to the new value (R190). -/
def sysForm (i : Instr) : Option (Reg × Reg × BitVec 11 × (W64 → W64 → W64)) :=
  match i with
  | .swr d a n => some (d, a, n, fun _ x => x)
  | .srset d a n => some (d, a, n, fun old x => old ||| x)
  | .srclr d a n => some (d, a, n, fun old x => old &&& ~~~x)
  | _ => none

/-- Only x registers, pc, the counters and system register `n` of the front have changed; register `n` reads as `v`. -/
def WritesSys (s t : State) (n : Nat) (v : W64) : Prop :=
  t.cpu.front = { s.cpu.front with
      x := t.cpu.front.x, pc := s.cpu.front.pc + 4, instret := s.cpu.front.instret + 1, cycle := t.cpu.front.cycle
      epc := t.cpu.front.epc, eval := t.cpu.front.eval, evstart := t.cpu.front.evstart, tvec := t.cpu.front.tvec
      ehold0 := t.cpu.front.ehold0, ehold1 := t.cpu.front.ehold1, rmode := t.cpu.front.rmode, gshape := t.cpu.front.gshape
      esave := t.cpu.front.esave, qslim := t.cpu.front.qslim, acch := t.cpu.front.acch }
    ∧ (n, v) ∈ sysTable t
    ∧ (∀ e, e ∈ sysTable s → e.1 ≠ n → e.1 ≠ 0x021 → e.1 ≠ 0x022 → e ∈ sysTable t)
    ∧ SameHart s t ∧ SameRest s t

/-- The barrier register of a copy of a gang (R354), and the count a barrier instruction returns. -/
def barWord (g : Barrier) : W64 :=
  BitVec.ofNat 64 (g.expected % 128 + (g.arrived % 128) <<< 8 + g.phase.toNat <<< 15 + (g.nexp % 128) <<< 16
    + (g.live % 128) <<< 24)

/-- A barrier instruction has retired: x[d] holds `w`, the barrier of the hart's copy is `b`; nothing else has changed but in
the gang's record and in what orders the strip's accesses. -/
def Barriers (s t : State) (d : Reg) (w : W64) (b : Barrier) : Prop :=
  WritesX s t d w ∧ t.bar = b
    ∧ t.cpu.front = { s.cpu.front with
        x := t.cpu.front.x, pc := s.cpu.front.pc + 4, instret := s.cpu.front.instret + 1, cycle := t.cpu.front.cycle }
    ∧ t.cpu = { s.cpu with
        front := t.cpu.front, back := t.cpu.back, wait := none, due := none, resumed := t.cpu.resumed, trapped := false }
    ∧ SameBack s t ∧ t.others = s.others ∧ SameMem s t ∧ { t.pkg with gangs := s.pkg.gangs } = s.pkg

/-- A member of a gang with nothing older uncompleted. -/
def AtBarrier (s : State) : Prop :=
  s.cpu.inflight = [] ∧ s.cpu.id.parent = none ∧ s.cpu.id.copy < 2 ∧ s.gang.isSome = true

/-- The barrier after the arrival of member `h` (R355). -/
def arrived (g : Barrier) (h : Nat) : Barrier :=
  if g.arrived + 1 = g.expected then
    { g with phase := !g.phase, arrived := 0, arrbit := 0, expected := g.nexp }
  else { g with arrived := g.arrived + 1, arrbit := g.arrbit ||| (1#64 <<< h) }

/-- An arrival of member `h` is allowed (R355). -/
def MayArrive (g : Barrier) (h : Nat) : Prop :=
  g.expected ≠ 0 ∧ bitAt g.arrbit.toNat h = false ∧ bitAt g.gone.toNat h = false


/-- Every queue of the hart is empty. -/
def QueuesEmpty (s : State) : Prop := ∀ k, k < 6 → (s.cpu.back.queue k).rows = [] ∧ (s.cpu.back.queue k).part = []

/-- The instruction has retired at `pc` with these front registers; of the hart only they, the lanes' side (`back`) and its
notes may have changed, and nothing but memory and the package's own records outside the hart. -/
def RetiresWith (s t : State) (f : Front) : Prop :=
  t.cpu.front = { f with instret := s.cpu.front.instret + 1, cycle := t.cpu.front.cycle }
    ∧ t.cpu = { s.cpu with front := t.cpu.front, back := t.cpu.back, lanes := t.cpu.lanes, wait := none, due := none
                           resumed := t.cpu.resumed, skips := t.cpu.skips, trapped := false }
    ∧ (t.cpu.lanes = s.cpu.lanes ∨ t.cpu.lanes = none)

/-- As `RetiresWith`, with the rest of the machine as before. -/
def RetiresOnly (s t : State) (f : Front) : Prop := RetiresWith s t f ∧ SameRest s t

/-- The front registers with pc moved past an instruction of `len` bytes and the x registers as `t` holds them. -/
def past (s t : State) (len : Nat) : Front :=
  { s.cpu.front with x := t.cpu.front.x, pc := s.cpu.front.pc + BitVec.ofNat 64 len }

/-- The barrier after member `h` halts (R362). -/
def haltedBar (g : Barrier) (h : Nat) : Barrier :=
  if bitAt g.gone.toNat h then g
  else
    let out := { g with gone := g.gone ||| (1#64 <<< h), live := g.live - 1 }
    if g.expected = 0 then out
    else if bitAt g.arrbit.toNat h then { out with nexp := g.nexp - 1 }
    else arrived { out with nexp := g.nexp - 1 } h

/-- The grant of R107 under a limit. -/
def grantOf (tag : Tag) (lim q n : Nat) : Nat × Nat :=
  if q = 0 ∨ n = 0 then (0, 0) else (min q (min 16 (128 / tagP tag)), min n lim)

/-- The shortening of R110 by the free bytes of the queue. -/
def shortened (tag : Tag) (free : Nat) (g : Nat × Nat) : Nat × Nat :=
  let cap := free * 8 / (g.1 * tagP tag * 32) * 32
  if 0 < g.1 ∧ 32 < g.2 ∧ cap < g.2 then (g.1, max 32 cap) else g

/-- A SHAPE form has retired: wtag, rc and vl hold the grant, x[d] holds vl, a strip interval is closed (R109). -/
def Grants (s t : State) (d : Reg) (tag : Tag) (g : Nat × Nat) : Prop :=
  WritesX s t d (BitVec.ofNat 64 g.2)
    ∧ RetiresOnly s t { past s t 4 with wtag := tag, rc := g.1, vl := g.2, interval := s.cpu.front.interval + 1 }
    ∧ t.cpu.back = s.cpu.back

/-- The tag that operand field `r` of a SHAPE form names (R108). -/
def tagOf (f : Front) (r : Reg) : Tag :=
  if h : r.val < 28 then f.vtag[r.val] else f.qtag[r.val - 28]'(by omega)

/-- The table of GETSH (R117). -/
def shapeTable (s : State) (n : Nat) : List Nat :=
  let f := s.cpu.front
  [f.vl, f.rc, f.vstart, f.ffi, f.mvr, f.mvc, f.mmode.toNat, f.gshape.toNat, s.vlmax, s.gangLimit, s.mrmaxOf s.cpu.id,
    f.wtag.toNat, (vget tagInt8 f.vtag n).toNat, (vget tagInt8 f.qtag n).toNat, (vget tagInt8 f.sqtag n).toNat]


/-! Vector instructions on registers. -/

/-- Nothing older is uncompleted, the instruction begins at its first element, nothing stops it part way (R130), and rc and vl lie in
their ranges (R104). -/
def Begins (s : State) : Prop :=
  s.cpu.inflight = [] ∧ s.cpu.lanes = none ∧ s.cpu.groups = none ∧ s.cpu.front.vstart = 0 ∧ s.cpu.front.rc ≤ 16 ∧ s.cpu.front.vl ≤ 65536

/-- The tag of a vector register. -/
def vtagOf (s : State) (r : Reg) : Tag := vget tagInt8 s.cpu.front.vtag r.val

/-- The element at (row, c) of the group based at register `r`, read under tag `t` (R85, R88). -/
def elemAt (s : State) (r : Reg) (t : Tag) (row c : Nat) : Nat :=
  readElem s.cpu.back.v r.val (tagW t) (tagP t) row c

/-- The element at (row, c) under the register's own tag. -/
def el (s : State) (r : Reg) (row c : Nat) : Nat := elemAt s r (vtagOf s r) row c

/-- Registers a group of `rows` rows takes (R85). -/
def regsFor (rows : Nat) (t : Tag) : Nat := (rows * tagP t + 15) / 16

/-- The registers that a group may lie in: v0 to v27, in matrix mode v0 to v19 (R86). -/
def lanesEnd (s : State) : Nat := if s.cpu.front.mmode then 20 else 28

/-- The group is aligned to its size rounded up to a power of two, and lies in registers it may lie in (R86). -/
def Fits (s : State) (r : Reg) (rows : Nat) (t : Tag) : Prop :=
  r.val < lanesEnd s ∧ r.val % pow2Up (regsFor rows t) = 0 ∧ r.val + regsFor rows t ≤ lanesEnd s

/-- The position is active (R43, R123): no predicate, .XM, or its bit is 1. -/
def activeAt (s : State) (o : VOps) (row c : Nat) : Bool :=
  decide (o.pm.val = 0) || decide (o.mod.val = 2) || maskBit s.cpu.back.m o.pm.val row c

/-- Below `rows` rows and `n` columns the group at `vd` holds `val` under `kr` (none: what it held); every other plane, and
every further row of the group's registers, is as before. -/
def HoldsGroup (s t : State) (vd : Reg) (kr : Tag) (rows n : Nat) (val : Nat → Nat → Option Nat) : Prop :=
  (∀ r c, r < rows → c < n →
    elemAt t vd kr r c = match val r c with
      | some x => x % 2 ^ tagW kr
      | none => elemAt s vd kr r c)
  ∧ (∀ k c, c < 65536 → (k < vd.val ∨ vd.val + regsFor rows kr ≤ k ∨ n ≤ c) →
    planeWord t.cpu.back.v k c = planeWord s.cpu.back.v k c)
  ∧ (∀ r c, rows ≤ r → (r + 1) * tagP kr ≤ 16 * regsFor rows kr → c < 65536 →
    readElem t.cpu.back.v vd.val (tagP kr) (tagP kr) r c = readElem s.cpu.back.v vd.val (tagP kr) (tagP kr) r c)

/-- Below rc rows and vl columns mask `k` holds `val` (none: what it held); every other mask bit is as before. -/
def HoldsMask (s t : State) (k : Nat) (val : Nat → Nat → Option Bool) : Prop :=
  (∀ r c, r < s.cpu.front.rc → c < s.cpu.front.vl →
    maskBit t.cpu.back.m k r c = (val r c).getD (maskBit s.cpu.back.m k r c))
  ∧ (∀ j r c, r < 16 → c < 65536 → (j ≠ k ∨ s.cpu.front.rc ≤ r ∨ s.cpu.front.vl ≤ c) →
    maskBit t.cpu.back.m j r c = maskBit s.cpu.back.m j r c)

/-- The vtag table with the tags of a written group (R105): its registers, at least the base, carry `kr`. -/
def Retags (s t : State) (vd : Reg) (rows : Nat) (kr : Tag) : Prop :=
  ∀ k, k < 28 → vget tagInt8 t.cpu.front.vtag k =
    if vd.val ≤ k ∧ k < vd.val + max 1 (regsFor rows kr) then kr else vget tagInt8 s.cpu.front.vtag k

/-- A vector instruction has retired: of the front only vtag, vstart, pc and the counters may have changed, of the back only
registers and masks. -/
def RetiresVec (s t : State) : Prop :=
  KeepsX s t ∧ RetiresOnly s t { past s t 4 with vtag := t.cpu.front.vtag, vstart := 0 }
    ∧ t.cpu.back = { s.cpu.back with v := t.cpu.back.v, m := t.cpu.back.m }

/-- The integer of the p(w) planes stored for an element, extended beyond them as its sign bit says (R87, R157). -/
def storedInt (t : Tag) (a : Nat) : Int :=
  (a : Int) + (if tagSigned t && bitAt a (tagW t - 1) then -1 else 0) * 2 ^ tagP t

/-- The form of each element-wise instruction whose result is a vector (R131 to R142, R157, R158). -/
def vecForm (i : Instr) : Option (VOps × EForm) :=
  match i with
  | .vadd o => some (o, vvForm (promoteRule o) opAdd)
  | .vsub o => some (o, vvForm (promoteRule o) opSub)
  | .vmul o => some (o, vvForm (promoteRule o) opMul)
  | .vmulh o => some (o, vvForm (intPromoteRule o) opMulh)
  | .vdiv o => some (o, vvForm (promoteRule o) divElem)
  | .vmin o => some (o, vvForm (promoteRule o) opMin)
  | .vmax o => some (o, vvForm (promoteRule o) opMax)
  | .vsqrt o => some (o, vForm (vaFloatRule o) (fun c a => c.write (tval c.ta a).isNan false (tval c.ta a).sqrt))
  | .vaddX o => some (o, vxForm (vaRule o) opAdd)
  | .vsubX o => some (o, vxForm (vaRule o) opSub)
  | .vrsubX o => some (o, vxForm (vaRule o) (fun c a x => opSub c x a))
  | .vmulX o => some (o, vxForm (vaRule o) opMul)
  | .vdivX o => some (o, vxForm (vaRule o) divElem)
  | .vrdivX o => some (o, vxForm (vaRule o) (fun c a x => divElem c x a))
  | .vminX o => some (o, vxForm (vaRule o) opMin)
  | .vmaxX o => some (o, vxForm (vaRule o) opMax)
  | .vmacc o => some (o, accForm o .vb (fun rm d a b => d.add rm (a.mul b)))
  | .vnmsac o => some (o, accForm o .vb (fun rm d a b => d.sub rm (a.mul b)))
  | .vmadd o => some (o, accForm o .va (fun rm d a b => (d.mul a).add rm b))
  | .vnmsub o => some (o, accForm o .va (fun rm d a b => b.sub rm (d.mul a)))
  | .vmaccX o => some (o, accXForm o (fun rm d a x => d.add rm (a.mul x)))
  | .vnmsacX o => some (o, accXForm o (fun rm d a x => d.sub rm (a.mul x)))
  | .vabs o => some (o, vForm (vaRule o) (fun c a =>
      c.write true false (if (tval c.ta a).neg? then (tval c.ta a).neg else tval c.ta a)))
  | .vneg o => some (o, vForm (vaRule o) (fun c a =>
      c.write true false (if tagIsInt c.ta && (tval c.ta a).isZero then tval c.ta a else (tval c.ta a).neg)))
  | .vand o => some (o, bitForm o Nat.land)
  | .vor o => some (o, bitForm o Nat.lor)
  | .vxor o => some (o, bitForm o Nat.xor)
  | .vandX o => some (o, bitXForm o Nat.land)
  | .vorX o => some (o, bitXForm o Nat.lor)
  | .vxorX o => some (o, bitXForm o Nat.xor)
  | .vsll o => some (o, shiftForm o opSll)
  | .vsrl o => some (o, shiftForm o opSrl)
  | .vsra o => some (o, shiftForm o opSra)
  | .vsllX o => some (o, shiftXForm o opSll)
  | .vsrlX o => some (o, shiftXForm o opSrl)
  | .vsraX o => some (o, shiftXForm o opSra)
  | .vmerge o => some (o, { useA := true, useB := true, useD := false, useX := false, select := true, toMask := false
                            kr := fun f => noScale o f (tagRule (f.srcTag o.va) (f.srcTag o.vb)
                              (f.srcTag o.va = f.srcTag o.vb && !tagE8 (f.srcTag o.va)) (f.srcTag o.va))
                            elem := fun c a b _ _ p => moveElem c (if p then b else a) })
  | .vmergeX o => some (o, { useA := true, useB := false, useD := false, useX := true, select := true, toMask := false
                             kr := vaRule o, elem := fun c a _ _ _ p => moveElem c (if p then c.x.1 else a) })
  | .vmv o => some (o, vForm (vaRule o) moveElem)
  | .vsplat o => some (o, { useA := false, useB := false, useD := false, useX := true, select := false, toMask := false
                            kr := fun f => .ok (f.dstTag o.vd), elem := fun c _ _ _ _ _ => c.x })
  | .vcvtH o => some (o, cvtForm (fun f => .ok (f.srcTag o.vb)) ECtx.rm)
  | .vcvtD o => some (o, cvtForm (fun f => .ok (f.dstTag o.vd)) ECtx.rm)
  | .vcvtQ4 o => some (o, vvForm
      (fun f => tagRule (f.srcTag o.va) (f.srcTag o.vb)
        ((f.srcTag o.va = tagFp32 || f.srcTag o.va = tagFp16 || f.srcTag o.va = tagBf16) && tagE8 (f.srcTag o.vb)) tagE2m1)
      (fun c a b => convWrite c.out c.rm c.sat false (match b with
        | .rat n d => a.mul (.rat d n.toNat)
        | _ => .nan)))
  | .vcvtI o => some (o, cvtForm (toIntRule o) ECtx.rm)
  | .vcvtF o => some (o, cvtForm (fun f => tagRule (f.srcTag o.va) 0 (tagIsInt (f.srcTag o.va)) tagFp32) ECtx.rm)
  | .vcvtT o => some (o, cvtForm (toIntRule o) (fun _ => 1))
  | .vunpk o => some (o, { vForm (intToVdRule o) (fun c a =>
      c.writePat (intMod (tagW c.kf) (storedInt c.ta a / 2 ^ min c.xv.toNat 64)) false) with planes := true })
  | .vpack o => some (o, { useA := true, useB := false, useD := true, useX := false, select := false, toMask := false
                           kr := intToVdRule o
                           elem := fun c a _ d _ _ =>
                            c.writePat (packBits d a (min c.xv.toNat 64) (tagW c.ta) (tagW c.kf)) false })
  | .vid o => some (o, { useA := false, useB := false, useD := false, useX := false, select := false, toMask := false
                         kr := fun f => tagRule (f.dstTag o.vd) 0 (!tagE8 (f.dstTag o.vd)) (f.dstTag o.vd)
                         elem := fun c _ _ _ k _ => c.write false false (Ex.int ((c.xv.toNat + k : Nat) : Int)) })
  | .vclz o => some (o, vForm (intToVdRule o) (fun c a =>
      c.write false false (Ex.int ((tagW c.ta - (if a = 0 then 0 else Nat.log2 a + 1) : Nat) : Int))))
  | .vcpop o => some (o, vForm (intToVdRule o) (fun c a =>
      c.write false false (Ex.int ((popCount (tagW c.ta) a : Nat) : Int))))
  | .vordk o => some (o, vForm
      (fun f => noScale o f (tagRule (f.srcTag o.va) 0 (!tagE8 (f.srcTag o.va)) (tagUint (tagW (f.srcTag o.va)))))
      (fun c a => c.writePat (ordKey c.ta a) false))
  | .vbrev o => some (o, vForm (vaIntRule o) (fun c a => c.writePat (revBits (tagW c.ta) a) false))
  | _ => none

/-- The form of each compare (R138, R139). -/
def cmpForms (i : Instr) : Option (VOps × EForm) :=
  match i with
  | .vseq o => some (o, cmpForm o false Ex.eq)
  | .vsne o => some (o, cmpForm o false (fun a b => !a.eq b))
  | .vslt o => some (o, cmpForm o true Ex.lt)
  | .vsle o => some (o, cmpForm o true (fun a b => a.lt b || a.eq b))
  | .vsltX o => some (o, cmpXForm o Ex.lt)
  | .vsgtX o => some (o, cmpXForm o (fun a b => b.lt a))
  | .vlbnd o => some (o, { useA := true, useB := true, useD := false, useX := false, select := false, toMask := true
                           kr := fun f => tagRule (f.srcTag o.va) (f.srcTag o.vb)
                            (tagIsInt (f.srcTag o.va) && tagIsInt (f.srcTag o.vb)) (f.srcTag o.va)
                           elem := fun c a b _ _ _ =>
                            ((decide (0 ≤ tint c.ta a) && decide (tint c.ta a < tint c.tb b)).toNat, false) })
  | .vclass o => some (o, { useA := true, useB := false, useD := false, useX := false, select := false, toMask := true
                            kr := cmpRule o false
                            elem := fun c a _ _ _ _ => ((classBit c.ta o.vb.val a).toNat, false) })
  | _ => none

/-- The element of va that a form reads in registers: its w bits, or all planes that are stored for it. -/
def firstSource (s : State) (o : VOps) (form : EForm) (r c : Nat) : Nat :=
  let t := vtagOf s o.va
  if form.planes then readElem s.cpu.back.v o.va.val (tagP t) (tagP t) r c else el s o.va r c

/-- What an element function gives at (r, c): value and flag. -/
def formAt (s : State) (o : VOps) (form : EForm) (kr : Tag) (r c : Nat) : Nat × Bool :=
  let ctx := form.ctx o s.cpu.front (s.getX o.vb) kr (fun _ => 0)
  form.elem ctx (if form.useA then firstSource s o form r c else 0) (if form.useB then el s o.vb r c else 0)
    (if form.useD then el s o.vd r c else 0) (r * s.cpu.front.vl + c) (maskBit s.cpu.back.m o.pm.val r c)

/-- The operands a form reads are vector registers whose groups fit. -/
def FormFits (s : State) (o : VOps) (form : EForm) : Prop :=
  (form.useA = true → o.va.val < 28 ∧ Fits s o.va s.cpu.front.rc (vtagOf s o.va))
    ∧ (form.useB = true → o.vb.val < 28 ∧ Fits s o.vb s.cpu.front.rc (vtagOf s o.vb))

/-- The integer a two-source instruction computes from two integer elements (R131, R132); none for a division by 0. -/
def intVec (i : Instr) : Option (VOps × (Int → Int → Option Int)) :=
  match i with
  | .vadd o => some (o, fun a b => some (a + b))
  | .vsub o => some (o, fun a b => some (a - b))
  | .vmul o => some (o, fun a b => some (a * b))
  | .vmin o => some (o, fun a b => some (min a b))
  | .vmax o => some (o, fun a b => some (max a b))
  | .vdiv o => some (o, fun a b => if b = 0 then none else some (a.tdiv b))
  | _ => none

/-- The integer an element of an integer tag stands for. -/
def intOf (t : Tag) (p : Nat) : Int :=
  if tagSigned t then (BitVec.ofNat (tagW t) p).toInt else ((p % 2 ^ tagW t : Nat) : Int)

/-- The least and the greatest integer of a tag (R83). -/
def rangeOf (t : Tag) : Int × Int :=
  if tagSigned t then (-(2 ^ (tagW t - 1)), 2 ^ (tagW t - 1) - 1) else (0, 2 ^ tagW t - 1)


/-! The rest of the execute side. -/

/-- The predicate bit: no predicate, or the bit of m(mk). -/
def pmAt (s : State) (o : VOps) (row c : Nat) : Bool := decide (o.pm.val = 0) || maskBit s.cpu.back.m o.pm.val row c

/-- An element of a source field at (row, c): of a register group under its tag, or of row `row` of a load queue. -/
def srcEl (s : State) (r : Reg) (row c : Nat) : Nat :=
  if r.val < 28 then el s r row c else headElem s.cpu.back (r.val - 28) row c % 2 ^ tagW (s.cpu.front.srcTag r)

/-- A source of `n` rows can be read: its group fits, or its queue has the rows. -/
def SourceReady (s : State) (r : Reg) (n : Nat) : Prop :=
  if r.val < 28 then Fits s r n (vtagOf s r) else n ≤ (s.cpu.back.queue (r.val - 28)).rows.length

/-- Queue `q` has lost `n` rows from its head. -/
def Loses (s t : State) (q n : Nat) : Prop :=
  (t.cpu.back.queue q).rows = (s.cpu.back.queue q).rows.drop n ∧ (t.cpu.back.queue q).part = (s.cpu.back.queue q).part
    ∧ (t.cpu.back.queue q).sub = (s.cpu.back.queue q).sub

/-- Each load queue that a field of the list names has lost `n` rows; the others none (R42, R255). -/
def Consumes (s t : State) (l : List Reg) (n : Nat) : Prop :=
  ∀ q, q < 4 → Loses s t q (if l.any (fun r => r.val == 28 + q) then n else 0)

/-- The source fields that a form reads. -/
def formSources (o : VOps) (form : EForm) : List Reg :=
  (if form.useA then [o.va] else []) ++ (if form.useB then [o.vb] else [])

/-- As `formAt`, for sources of either kind; a store queue has no old element. -/
def formFrom (s : State) (o : VOps) (form : EForm) (kr : Tag) (r c : Nat) : Nat × Bool :=
  let ctx := form.ctx o s.cpu.front (s.getX o.vb) kr (fun _ => 0)
  let first := if o.va.val < 28 then firstSource s o form r c
    else if form.planes then extPat (s.cpu.front.srcTag o.va) (headElem s.cpu.back (o.va.val - 28) r c) else srcEl s o.va r c
  form.elem ctx (if form.useA then first else 0) (if form.useB then srcEl s o.vb r c else 0)
    (if form.useD && o.vd.val < 28 then el s o.vd r c else 0) (r * s.cpu.front.vl + c) (maskBit s.cpu.back.m o.pm.val r c)

/-- The pattern a moved element takes: that of a NaN is the canonical one of its kind (R84). -/
def moved (t : Tag) (p : Nat) : Nat :=
  if (tval t p).isNan then
    match tagKind t with
    | 2 => if tagW t = 16 then 0x7E00 else 0x7FC00000
    | 3 => 0x7FC0
    | 4 => 0x7F
    | 5 => 0x7E
    | _ => 0xFF
  else p

/-- The value src(row, c) of a column reference (R154): 0 outside 0 to VLMAX − 1. -/
def colOf (s : State) (r : Reg) (row : Nat) (c : Int) : Nat :=
  if 0 ≤ c ∧ c < (s.vlmax : Int) then srcEl s r row c.toNat else 0

/-- The columns below vl whose bit of mask `k` is 1. -/
def maskCols (s : State) (k row : Nat) : List Nat := (List.range s.cpu.front.vl).filter (fun c => maskBit s.cpu.back.m k row c)

/-- x[b] under the tag of va, as a slide inserts it (R127, R154). -/
def slideIn (s : State) (o : VOps) : Nat := (convX (s.cpu.front.srcTag o.va) s.cpu.front.rmode.toNat false (s.getX o.vb)).1

/-- What a rearrangement leaves at (r, c), none for what was there (R154, R155). -/
def permForm (i : Instr) (s : State) : Option (VOps × (Nat → Nat → Option Nat)) :=
  match i with
  | .vrgath o => some (o, fun r c =>
      if pmAt s o r c then some (colOf s o.va r (intOf (s.cpu.front.srcTag o.vb) (srcEl s o.vb r c)))
      else if o.mod.val = 3 then some 0 else none)
  | .vslideup o => some (o, fun r c => if c < s.getU o.vb then none else some (srcEl s o.va r (c - s.getU o.vb)))
  | .vslidedn o => some (o, fun r c => some (colOf s o.va r ((c : Int) + (s.getU o.vb : Int))))
  | .vslide1up o => some (o, fun r c => some (if c = 0 then slideIn s o else srcEl s o.va r (c - 1)))
  | .vslide1dn o => some (o, fun r c =>
      some (if c + 1 = s.cpu.front.vl then slideIn s o else srcEl s o.va r (c + 1)))
  | .vcompr o => some (o, fun r c => ((maskCols s o.vb.val r)[c]?).map (fun k => srcEl s o.va r k))
  | .vexpm o => some (o, fun r c =>
      if maskBit s.cpu.back.m o.vb.val r c then
        some (srcEl s o.va r ((maskCols s o.vb.val r).filter (fun k => k < c)).length) else none)
  | _ => none

/-- A row of a source, vl elements. -/
def srcRowOf (s : State) (r : Reg) (row : Nat) : List Nat := (List.range s.cpu.front.vl).map (srcEl s r row)

/-- Each row reduction: whether it is the scaled one, the tags it accepts, and its function (R145 to R148). -/
def redForm (i : Instr) : Option (VOps × Bool × (Tag → Tag → Tag → Bool) × RedFn) :=
  match i with
  | .vredsum o => some (o, false, sumTags, redSum)
  | .vredmax o => some (o, false, maxTags, redPick exMax)
  | .vredmin o => some (o, false, maxTags, redPick exMin)
  | .vredand o => some (o, false, bitTags, redBits Nat.land)
  | .vredor o => some (o, false, bitTags, redBits Nat.lor)
  | .vredsc o => some (o, true, scTags o, redScaled (32 * 2 ^ o.mod.val))
  | _ => none

/-- The pattern `p` is the integer `z` written under the integer tag `k`: exact where `z` is in range, the nearer limit with
`sat`, else modulo 2^w (R83, R91). -/
def WritesInt (k : Tag) (sat : Bool) (z : Int) (p : Nat) : Prop :=
  let lim := rangeOf k
  (lim.1 ≤ z → z ≤ lim.2 → intOf k p = z) ∧ (z < lim.1 → sat = true → intOf k p = lim.1)
    ∧ (lim.2 < z → sat = true → intOf k p = lim.2) ∧ (sat = false → (intOf k p - z) % (2 ^ tagW k : Nat) = 0)

/-- The sum of the active elements of row `r` of va in the first `n` columns. -/
def activeSum (s : State) (o : VOps) (r n : Nat) : Int :=
  (((List.range n).filter (activeAt s o r)).map (fun c => intOf (vtagOf s o.va) (el s o.va r c))).sum

/-- The integer that a reduction, scan or column sum of integers leaves at (r, c) (R146, R147, R150, R151). -/
def intReduction (i : Instr) (s : State) : Option (VOps × Nat × Nat × (Nat → Nat → Option Int)) :=
  let carry (o : VOps) (r c : Nat) : Int := intOf (vtagOf s o.vb) (el s o.vb r c)
  let f := s.cpu.front
  match i with
  | .vredsum o => some (o, f.rc, min 1 f.vl, fun r _ => some (carry o r 0 + activeSum s o r f.vl))
  | .vredmax o => some (o, f.rc, min 1 f.vl, fun r _ => some
      (((List.range f.vl).filter (activeAt s o r)).foldl (fun a c => max a (intOf (vtagOf s o.va) (el s o.va r c))) (carry o r 0)))
  | .vredmin o => some (o, f.rc, min 1 f.vl, fun r _ => some
      (((List.range f.vl).filter (activeAt s o r)).foldl (fun a c => min a (intOf (vtagOf s o.va) (el s o.va r c))) (carry o r 0)))
  | .vscan o => some (o, f.rc, f.vl, fun r c =>
      if activeAt s o r c then some (carry o r 0 + activeSum s o r (c + 1)) else none)
  | .vredcol o => some (o, min f.rc 1, f.vl, fun _ c => some
      (carry o 0 c + (((List.range f.rc).filter (fun r => activeAt s o r c)).map
        (fun r => intOf (vtagOf s o.va) (el s o.va r c))).sum))
  | _ => none

/-- The bit each mask instruction makes of the bits of its sources (R159). -/
def maskFn (i : Instr) : Option (VOps × (Bool → Bool → Bool)) :=
  match i with
  | .mand o => some (o, fun a b => a && b)
  | .mor o => some (o, fun a b => a || b)
  | .mxor o => some (o, fun a b => xor a b)
  | .mandn o => some (o, fun a b => a && !b)
  | .mnot o => some (o, fun a _ => !a)
  | .mseti o => some (o, fun _ _ => decide (o.va.val = 1))
  | _ => none

/-- The linear index of an active position whose bit of mask va is 1. -/
def countedBit (s : State) (o : VOps) (k : Nat) : Bool :=
  let vl := s.cpu.front.vl
  pmAt s o (k / vl) (k % vl) && maskBit s.cpu.back.m o.va.val (k / vl) (k % vl)

/-- An instruction that only writes x[d] has retired. -/
def RetiresX (s t : State) (d : Reg) (v : W64) : Prop :=
  WritesX s t d v ∧ RetiresOnly s t (past s t 4) ∧ t.cpu.back = s.cpu.back


/-! The vector access forms. -/

/-- The element rows of a queue, head first. -/
def rowsOf (s : State) (q : Nat) : List (List Nat) := (s.cpu.back.queue q).rows.map (fun r => r.elems)

/-- A load begins here with room for `n` rows of `len` elements in queue `q`; no vector write of the strip interval is open. -/
def MayDeliver (s : State) (q n len : Nat) : Prop :=
  s.cpu.inflight = [] ∧ s.cpu.front.vstart = 0 ∧ (s.cpu.back.queue q).part = [] ∧ (s.cpu.back.queue q).sub = 0
    ∧ s.fill q + n * rowBytes (s.cpu.front.queueTag q) len ≤ s.qcap ∧ s.openStrip = []

/-- A load has retired with the front `f`: queue `q` has gained the rows `l`, sq1 has lost `idx` rows, every other queue and
the rest of the machine is as before but for what the L2s hold. -/
def Delivers (s t : State) (f : Front) (q idx : Nat) (l : List (List Nat)) : Prop :=
  t.cpu.front = { f with instret := s.cpu.front.instret + 1, cycle := t.cpu.front.cycle }
    ∧ t.cpu = { s.cpu with front := t.cpu.front, back := t.cpu.back, nextId := t.cpu.nextId, lanes := none, wait := none
                           due := none, resumed := t.cpu.resumed, trapped := false }
    ∧ t.cpu.back = { s.cpu.back with queues := t.cpu.back.queues }
    ∧ rowsOf t q = rowsOf s q ++ l ∧ (t.cpu.back.queue q).part = [] ∧ (t.cpu.back.queue q).sub = 0
    ∧ Loses s t 5 idx ∧ (∀ k, k < 5 → k ≠ q → t.cpu.back.queue k = s.cpu.back.queue k)
    ∧ t.others = s.others ∧ SamePkg s t ∧ t.agenda = s.agenda ∧ SameMem s t

/-- The bytes at the virtual addresses, all of them in memory; none where one cannot be read. -/
def memoryAt (s : State) (vas : List Nat) : Option (List Byte) :=
  match s.accessBytes s.cpu.ctx .load false vas with
  | .ok pas => if pas.any s.isReg then none else some (pas.map (s.physByte s.cpu.id.die))
  | .error _ => none

/-- The bytes that `n` bits from bit `lo` of address `a` lie in (R237). -/
def bytesOfBits (a lo n : Nat) : List Nat :=
  (List.range ((lo % 8 + n + 7) / 8)).map (fun k => (a + lo / 8 + k) % 2 ^ 64)

/-- The width of an element in memory: of the memory kind, or of the queue's tag (R236). -/
def memWidth (s : State) (q : Nat) (kind : Option Tag) : Nat := tagW (kind.getD (s.cpu.front.queueTag q))

/-- Where an element of a U, S, X or XO form starts: address and bit (R237, R242). -/
def startOf (i : Instr) (s : State) (o : VMOps) (wm r c : Nat) : Nat × Nat :=
  let a := (s.getX o.xa + BitVec.ofInt 64 (o.imm7.toInt * 16)).toNat
  let n := r * s.cpu.front.vl + c
  let idx : Int := tint (s.cpu.front.queueTag 5) (((rowsOf s 5).getD r []).getD c 0)
  let whole (z : Int) : Nat × Nat := ((z % 2 ^ 64).toNat, 0)
  match i with
  | .vldS _ | .vstS _ => whole ((a : Int) + n * (s.getX o.xb).toInt)
  | .vldX _ | .vldXO _ | .vstX _ | .vstXO _ => whole ((a : Int) + idx * 2 ^ o.sub.val)
  | _ => ((a + n * wm / 8) % 2 ^ 64, n * wm % 8)

/-- The memory kind a form names (R236); the indexed forms name a scale there. -/
def kindOf (i : Instr) (o : VMOps) : Option Tag :=
  match i with
  | .vldX _ | .vldXO _ | .vstX _ | .vstXO _ => none
  | _ => memTag o.sub.val

/-- The plain load forms and the plain store forms. -/
def plainLoads (i : Instr) : Option VMOps :=
  match i with
  | .vldU o | .vldS o | .vldX o | .vldXO o => some o
  | _ => none

def plainStores (i : Instr) : Option VMOps :=
  match i with
  | .vstU o | .vstS o | .vstX o | .vstXO o => some o
  | _ => none

/-- An index row is taken for each tile row. -/
def indexed (i : Instr) : Bool :=
  match i with
  | .vldX _ | .vldXO _ | .vstX _ | .vstXO _ => true
  | _ => false

/-- Tags and widths that R236, R238 and R242 accept for queue `q`. -/
def FormTags (i : Instr) (s : State) (q : Nat) (o : VMOps) : Prop :=
  tagValid (s.cpu.front.queueTag q) = true ∧ ¬(tagE8 (s.cpu.front.queueTag q) = true ∧ (kindOf i o).isSome = true)
    ∧ (indexed i = true → tagIsInt (s.cpu.front.queueTag 5) = true ∧ s.cpu.front.rc ≤ (rowsOf s 5).length)
    ∧ ((indexed i = true ∨ i = .vldS o ∨ i = .vstS o) → memWidth s q (kindOf i o) % 8 = 0)

/-- The pattern that a plain load delivers for element (r, c) (R236). -/
def loadedElem (i : Instr) (s : State) (o : VMOps) (r c : Nat) : Option Nat :=
  let t := s.cpu.front.queueTag o.q.val
  let wm := memWidth s o.q.val (kindOf i o)
  let b := startOf i s o wm r c
  (memoryAt s (bytesOfBits b.1 b.2 wm)).map (fun l =>
    let p := leNat l / 2 ^ b.2 % 2 ^ wm
    match kindOf i o with
    | none => p % 2 ^ tagW t
    | some k => (convWrite t s.cpu.front.rmode.toNat true (tagIsInt k) (tval k p)).1)

/-- A field of a record form: width, and where it starts in the record (R243). -/
def recordFields (s : State) (o : VMOps) : List (Nat × Nat) :=
  (List.range (o.sub.val + 1)).map (fun k =>
    ((s.getU o.xb / 2 ^ (4 * k)) % 16 + 1, ((List.range k).map (fun j => (s.getU o.xb / 2 ^ (4 * j)) % 16 + 1)).sum))

def recordWidth (s : State) (o : VMOps) : Nat := ((recordFields s o).map (fun e => e.1)).sum

/-- The address of record (r, c). -/
def recordAt (s : State) (o : VMOps) (r c : Nat) : Nat :=
  (s.getX o.xa + BitVec.ofInt 64 (o.imm7.toInt * 16)).toNat + (r * s.cpu.front.vl + c) * (recordWidth s o / 8)

/-- The integer that a field of `n` bits holds, of the signedness of tag `t`. -/
def fieldInt (t : Tag) (n p : Nat) : Int := if tagSigned t then (BitVec.ofNat n p).toInt else ((p % 2 ^ n : Nat) : Int)

/-- Bits that a store writes: at the addresses `vas`, `n` bits from bit `lo` on, the value `pat`. -/
structure Piece where
  vas : List Nat
  lo : Nat
  n : Nat
  pat : Nat

/-- Bit `b` of memory key `a` is bit `j` of the piece; a byte that its home package drops is none of its (R208). -/
def Piece.covers (s : State) (p : Piece) (a b j : Nat) : Prop :=
  j < p.n ∧ (p.lo + j) % 8 = b
    ∧ ∃ pas pa, s.accessBytes s.cpu.ctx .store false p.vas = .ok pas ∧ pas[(p.lo + j) / 8]? = some pa ∧ s.drops pa = false
      ∧ s.key pa = a

/-- Every piece can be stored to memory, no two bits of them meet, and no store changes what the translation of a piece reads. -/
def Storable (s : State) (l : List Piece) : Prop :=
  (∀ p ∈ l, ∃ pas, s.accessBytes s.cpu.ctx .store false p.vas = .ok pas ∧ pas.length = p.vas.length
      ∧ ∀ pa ∈ pas, s.isReg pa = false)
    ∧ (∀ (i k : Nat) (p r : Piece) (a b j h : Nat), l[i]? = some p → l[k]? = some r → p.covers s a b j → r.covers s a b h →
        i = k ∧ j = h)
    ∧ (∀ (m : List Host.Cell) (f : Front) (k : Back) (os : List Hart) (e : SMap L2Line) (n : Nat),
        (∀ a, (∀ p ∈ l, ∀ b j, ¬p.covers s a b j) → readCell m a = readCell s.mem a) →
        ∀ p ∈ l, ({ s with
            mem := m, cpu := { s.cpu with front := f, back := k }, others := os, pkg := { s.pkg with l2 := e }, tick := n } :
            State).accessBytes s.cpu.ctx .store false p.vas = s.accessBytes s.cpu.ctx .store false p.vas)

/-- Memory holds the pieces, and every other bit as before. -/
def Stored (s t : State) (l : List Piece) : Prop :=
  (∀ p ∈ l, ∀ a b j, p.covers s a b j → (readCell t.mem a).getLsbD b = p.pat.testBit j)
    ∧ (∀ a b, b < 8 → (∀ p ∈ l, ∀ j, ¬p.covers s a b j) → (readCell t.mem a).getLsbD b = (readCell s.mem a).getLsbD b)

/-- A store begins here: it is the oldest, starts at its first element, no vector write is open, it is not the second copy's. -/
def MayStore (s : State) (q : Nat) : Prop :=
  s.cpu.inflight = [] ∧ s.cpu.front.vstart = 0 ∧ (s.cpu.back.queue q).sub = 0 ∧ s.openStrip = [] ∧ s.secondCopy = false

/-- Tile rows that an access form goes through: none of an empty tile (R235). -/
def tileRows (s : State) : Nat := if s.cpu.front.vl = 0 then 0 else s.cpu.front.rc

/-- A store has retired with the front `f`: queue `q` has lost `n` rows, sq1 `idx` rows besides; outside memory nothing else
has changed but the strip and the digest. -/
def RetiresDrain (s t : State) (f : Front) (q n idx : Nat) : Prop :=
  t.cpu.front = { f with instret := s.cpu.front.instret + 1, cycle := t.cpu.front.cycle }
    ∧ t.cpu = { s.cpu with front := t.cpu.front, back := t.cpu.back, digest := t.cpu.digest, lanes := none, wait := none
                           due := none, resumed := t.cpu.resumed, trapped := false }
    ∧ t.cpu.back = { s.cpu.back with queues := t.cpu.back.queues, strip := t.cpu.back.strip }
    ∧ (∀ k, k < 6 → rowsOf t k = (rowsOf s k).drop (if k = q then n else if k = 5 then idx else 0))
    ∧ SameOthers s t ∧ SamePkg s t ∧ t.agenda = s.agenda

/-- Element `c` of the row at place `r` of a queue, 0 where the row is shorter. -/
def queueElem (s : State) (q r c : Nat) : Nat := ((rowsOf s q).getD r []).getD c 0

/-- What a plain store writes for element (r, c) (R236, R237). -/
def storedPiece (i : Instr) (s : State) (o : VMOps) (r c : Nat) : Piece :=
  let t := s.cpu.front.queueTag (4 + o.q.val)
  let wm := memWidth s (4 + o.q.val) (kindOf i o)
  let b := startOf i s o wm r c
  let e := queueElem s (4 + o.q.val) r c % 2 ^ tagW t
  { vas := bytesOfBits b.1 b.2 wm, lo := b.2, n := wm
    pat := match kindOf i o with
      | none => e
      | some k => (convWrite k s.cpu.front.rmode.toNat true (tagIsInt t) (tval t e)).1 }

/-- What VST.SEG writes for field `k` of record (r, c): the field's integer, saturated to its width (R243). -/
def recordPiece (s : State) (o : VMOps) (r c k : Nat) : Piece :=
  let t := s.cpu.front.queueTag (4 + o.q.val)
  let fd := (recordFields s o).getD k (1, 0)
  let z := tint t (queueElem s (4 + o.q.val) (r * (o.sub.val + 1) + k) c)
  let lim : Int × Int := if tagSigned t then (-(2 ^ (fd.1 - 1)), 2 ^ (fd.1 - 1) - 1) else (0, 2 ^ fd.1 - 1)
  { vas := bytesOfBits (recordAt s o r c) fd.2 fd.1, lo := fd.2 % 8, n := fd.1
    pat := ((max lim.1 (min lim.2 z)) % 2 ^ fd.1).toNat }

/-- A chunk of 4,096 patterns of tag `t`: header, bitmap of the patterns that are not zero, and these, packed, in whole doublewords
(R244). -/
def chunkOfPatterns (t : Tag) (l : List Nat) : List Byte :=
  let w := tagW t
  let some_ := l.filter (fun p => p != 0)
  let pay := 8 * ((some_.length * w + 63) / 64)
  leBytes 8 (pay * 2 ^ 21 + some_.length * 2 ^ 8 + bitsOf t.toNat 7 4 * 16 + tagKind t)
    ++ leBytes 512 (l.zipIdx.map (fun e => if e.1 = 0 then 0 else 2 ^ e.2)).sum
    ++ leBytes pay (some_.zipIdx.map (fun e => e.1 * 2 ^ (e.2 * w))).sum

/-- The bytes VST.C writes: chunk after chunk of 4,096 elements, the last padded with zeros (R244, R247). -/
def streamBytes (s : State) (o : VMOps) : List Byte :=
  let f := s.cpu.front
  let t := f.queueTag (4 + o.q.val)
  let n := f.rc * f.vl
  (List.range ((n + 4095) / 4096)).flatMap (fun j => chunkOfPatterns t ((List.range 4096).map (fun k =>
    let e := 4096 * j + k
    if e < n then queueElem s (4 + o.q.val) (e / f.vl) (e % f.vl) % 2 ^ tagW t else 0)))

/-- The tile that VLD.FF settles (R186): ffi, vl and rc. -/
def settled (s : State) (first : Option Nat) : Nat × Nat × Nat :=
  let f := s.cpu.front
  match first with
  | none => (f.rc * f.vl, f.vl, f.rc)
  | some k => if k < f.vl then (k, k, 1) else (k, f.vl, k / f.vl)

/-- The element bytes of VLD.FF at linear index `k`. -/
def firstBytes (s : State) (o : VMOps) (k : Nat) : List Nat :=
  let wm := memWidth s o.q.val (memTag o.sub.val)
  let a := (s.getX o.xa + BitVec.ofInt 64 (o.imm7.toInt * 16)).toNat
  bytesOfBits ((a + k * wm / 8) % 2 ^ 64) (k * wm % 8) wm

/-- An element of MLDQ (R178): its logical bytes, and the bit of the first. -/
def scratchAt (s : State) (o : MldqOps) (u i : Nat) : List Int × Nat :=
  let p := tagP (s.cpu.front.queueTag o.q.val)
  let lo (r : Reg) : Int := (BitVec.ofNat 32 (s.getU r)).toInt
  let hi (r : Reg) : Int := (BitVec.ofNat 32 (s.getU r / 2 ^ 32)).toInt
  let bit : Int := 8 * ((s.getU o.a : Int) + (u / o.k.val : Nat) * lo o.c + (u % o.k.val : Nat) * hi o.b) + i * lo o.b * p
  ((List.range ((p + 7) / 8)).map (fun n => bit / 8 + (n : Nat)), (bit % 8).toNat)


/-! Copy channels, tiles, the catalogue, the grammar engine, the accession log and the vitrines. -/

/-- Channel `c` of the hart. -/
def chanOf (s : State) (c : Nat) : Chan := vget Chan.idle s.cpu.back.chans c

/-- A CPY form has forked: channel `c` is `ch`, the others as before; x[d] holds `grant`. A descriptor that it has read may have
changed what the L2s hold and what orders the strip's accesses. -/
def Forks (s t : State) (d : Reg) (grant : Nat) (c : Nat) (ch : Chan) : Prop :=
  WritesX s t d (BitVec.ofNat 64 grant) ∧ RetiresWith s t (past s t 4)
    ∧ t.others = s.others ∧ SamePkg s t ∧ t.agenda = s.agenda ∧ SameMem s t
    ∧ t.cpu.back = { s.cpu.back with chans := t.cpu.back.chans, queues := t.cpu.back.queues, strip := t.cpu.back.strip }
    ∧ ∀ k, k < 8 → chanOf t k = if k = c then ch else chanOf s k

/-- The channel that has been granted `grant` units of operation `o`. -/
def granted (ch : Chan) (grant : Nat) (o : CopyOp) : Chan :=
  if grant = 0 then ch
  else { ch with cissued := ch.cissued + BitVec.ofNat 64 grant, nops := ch.nops + 1, ops := ch.ops ++ [o] }

/-- The eight doublewords of a descriptor at x[a], where it can be read. -/
def descriptorAt (s : State) (a : Reg) : Option (List Nat) :=
  if s.getU a % 8 ≠ 0 then none
  else match s.loadBytes (s.getU a) 64 with
    | .ok l => some ((List.range 8).map (fun k => leNat ((l.drop (8 * k)).take 8)))
    | .error _ => none

/-- The descriptor of a box operation, from its doublewords, keeps the limits of R264 (its height `h`). -/
def BoxOk (form : Nat) (w : List Nat) (h : Nat) : Prop :=
  let lo (k : Nat) : Nat := w.getD k 0 % 2 ^ 32
  let hi (k : Nat) : Nat := w.getD k 0 / 2 ^ 32
  0 < lo 2 ∧ lo 2 ≤ 65536 ∧ h = hi 2 ∧ 0 < h ∧ h ≤ 65536 ∧ (form = 3 → h = 1) ∧ lo 2 * 2 ^ (w.getD 5 0 % 4) ≤ hi 1
    ∧ w.getD 5 0 < 32 ∧ w.getD 6 0 = 0 ∧ w.getD 7 0 = 0

/-- The operation that a descriptor grants: `n` elements (R264 to R266). -/
def boxOp (s : State) (form n : Nat) (w : List Nat) (b : Reg) (idx : List Int) : CopyOp :=
  let lo (k : Nat) : Nat := w.getD k 0 % 2 ^ 32
  let hi (k : Nat) : Nat := w.getD k 0 / 2 ^ 32
  let sg (x : Nat) : Int := (BitVec.ofNat 32 x).toInt
  { form := form, units := n, at_ := 0, esz := 2 ^ (w.getD 5 0 % 4), mbase := w.getD 0 0
    mpitch := if form = 3 then (lo 1 : Int) else sg (lo 1)
    spitch := hi 1, w := lo 2, ox := sg (lo 3), oy := sg (hi 3), clipw := lo 4, cliph := hi 4, code := w.getD 5 0 / 4 % 8
    sbase := s.getU b / 2 ^ 32, fillv := (chanOf s (s.getU b % 8)).cfill.toNat, idx := idx, dst := 0, vdst := 0, regs := 0
    cols := 0, planes := [], place := 0, seq := s.cpu.front.instret.toNat
    foot := ((if form = 3 then s.cpu.front.vl else hi 2) - 1) * hi 1 + lo 2 * 2 ^ (w.getD 5 0 % 4) }

/-- The last scratchpad byte of `rows` rows of a box lies in the scratchpad. -/
def BoxFits (s : State) (w : List Nat) (b : Reg) (rows : Nat) : Prop :=
  s.getU b / 2 ^ 32 + (rows - 1) * (w.getD 1 0 / 2 ^ 32) + (w.getD 2 0 % 2 ^ 32) * 2 ^ (w.getD 5 0 % 4) - 1 < s.spadSize

/-- Bytes a channel still has under way. -/
def outOf (ch : Chan) : Nat :=
  (ch.ops.map (fun o => (o.units - (if o.form = 2 then o.at_ / o.cols * o.cols else o.at_)) * (if o.form = 2 then 2 else o.esz))).sum

/-- Element (i, j) of za or zf tile `k`. -/
def zaAt (s : State) (k i j : Nat) : W32 := mget 0 s.cpu.back.za (k * 65536 + i * 256 + j)
def zfAt (s : State) (k i j : Nat) : W32 := mget 0 s.cpu.back.zf (k * 65536 + i * 256 + j)

/-- Steps and operand tags of a za tile (R164, R167). -/
def stepsOf (s : State) (k : Nat) : Nat := vget 0 s.cpu.back.zsteps k
def kindsOf (s : State) (k : Nat) : Option (Tag × Tag) := vget none s.cpu.back.zkinds k

/-- A matrix instruction has retired: of the hart only vstart, the tiles, registers and queues may have changed. -/
def RetiresTile (s t : State) (len : Nat) : Prop :=
  RetiresOnly s t { past s t len with vtag := t.cpu.front.vtag, vstart := 0 }
    ∧ t.cpu.back = { s.cpu.back with
        v := t.cpu.back.v, queues := t.cpu.back.queues, za := t.cpu.back.za, zf := t.cpu.back.zf
        zsteps := t.cpu.back.zsteps, zkinds := t.cpu.back.zkinds }

/-- The tiles hold these elements inside the 256 × 256 grid. -/
def HoldsTiles (t : State) (za zf : Nat → Nat → Nat → W32) : Prop :=
  ∀ k i j, k < 2 → i < 256 → j < 256 → zaAt t k i j = za k i j ∧ zfAt t k i j = zf k i j

/-- Operand element `i` of step `st` of an outer product (R171): 0 outside the row. -/
def productAt (s : State) (r : Reg) (st i : Nat) : Int :=
  fixVal (s.cpu.front.srcTag r) (if r.val < 28 then colOf s r st i else ((rowsOf s (r.val - 28)).getD st []).getD i 0)

/-- The E8M0 exponent in row `r`, column `c` of v1, none for NaN (R174). -/
def scaleAt (s : State) (r c : Nat) : Option Int :=
  let e := readElem s.cpu.back.v 1 8 8 r c
  if e = 255 then none else some ((e : Int) - 127)

/-- What MBLK adds into zf: za × 2^(sa + sb − fa − fb), rounded once with the old value (R100, R174). -/
def blockValueAt (old sum : W32) (sa sb : Option Int) (fa fb : Nat) : W32 :=
  match sa, sb with
  | some a, some b =>
    BitVec.ofNat 32 (fp32.round 0 ((fp32.val old.toNat).add 0 ((Ex.int sum.toInt).scale (a + b - (fa + fb : Nat))))).1
  | _, _ => 0x7FC00000

/-- An element of the catalogue under CATINS or CATACC: its key and its value under vkind (R315, R316). -/
def catElem (s : State) (o : VOps) (k : Nat) : Nat × Nat :=
  let f := s.cpu.front
  let r := k / f.vl
  let c := k % f.vl
  ((tint (f.srcTag o.va) (srcEl s o.va r c) % 2 ^ 32).toNat,
    (tagWrite (vkindTag s.cpu.back.cat.cfg) f.rmode.toNat false (!tagIsInt (f.srcTag o.vb))
      (tval (f.srcTag o.vb) (srcEl s o.vb r c))).1)

/-- The catalogue before linear element `k`: every active element below it has been put, in ascending order (R320). -/
def catBefore (s : State) (o : VOps) (acc : Bool) (k : Nat) : Cat :=
  ((List.range k).filter (fun n => pmAt s o (n / s.cpu.front.vl) (n % s.cpu.front.vl))).foldl
    (fun c n => (c.put (4096 * s.cpu.id.share) acc (catElem s o n).1 (catElem s o n).2).1) s.cpu.back.cat

/-- The value the catalogue lists for a key. -/
def catFind (c : Cat) (key : Nat) : Option Nat := ((c.entries.find? (fun e => e.1.toNat == key)).map (fun e => e.2.toNat))

/-- A grammar operation on context `h` can begin: nothing older, the context is open and sound, its pool can be read. -/
def OnContext (s : State) (a : Reg) (c : GCtx) : Prop :=
  s.cpu.inflight = [] ∧ mfind s.cpu.back.gram.ctxs (s.getU a) = some c ∧ c.failed = false ∧ s.poolDamaged c = false
    ∧ s.poolUnreadable c = none

/-- A grammar operation has retired: of the hart only x registers, masks and the engine's state may have changed, of memory
only bytes of the pool of context `c` (R324, R325). -/
def RetiresGrammar (s t : State) (c : GCtx) : Prop :=
  t.cpu.front = { past s t 8 with instret := s.cpu.front.instret + 1, cycle := t.cpu.front.cycle }
    ∧ t.cpu = { s.cpu with
        front := t.cpu.front, back := t.cpu.back, lanes := none, wait := none, due := none, resumed := t.cpu.resumed, trapped := false }
    ∧ t.cpu.back = { s.cpu.back with m := t.cpu.back.m, gram := t.cpu.back.gram, strip := t.cpu.back.strip }
    ∧ SameOthers s t ∧ SamePkg s t ∧ t.agenda = s.agenda
    ∧ ∀ a, (∀ k pa, k < max (s.poolSize c.size) (t.cpu.back.gram.poolUsed c.pool) → s.translate s.cpu.ctx .store (s.poolBase c + k) = .ok pa → s.key pa ≠ a) →
      readCell t.mem a = readCell s.mem a

/-- Context `h` after the operation. -/
def ctxOf (t : State) (h : Nat) : Option GCtx := mfind t.cpu.back.gram.ctxs h

/-- Every context but `h` is as before. -/
def OtherContexts (s t : State) (h : Nat) : Prop := ∀ k, k ≠ h → ctxOf t k = ctxOf s k

/-- A configuration, without the segments that hold its stack. -/
def confOf (c : GConf) : Nat × List Nat := (c.st, c.stack)

/-- The contexts once the one at handle `h` has moved to `w`: segments that it shares and has pushed into are copied (R325). -/
def movedGram (s : State) (h : Nat) (c : GCtx) (w : GWalk) : Gram :=
  let r := s.cpu.back.gram.restack h c w
  r.1.setCtx h { c with conf := r.2 }

/-- A context with its configuration checkpointed under the next id; the last 16 checkpoints stay (R326). -/
def checkpointed (c : GCtx) : GCtx :=
  let oldest := max c.oldest (c.latest - 14)
  { c with ring := c.ring.filter (fun x => oldest ≤ x.1) ++ [(c.latest + 1, c.conf)], latest := c.latest + 1, oldest := oldest }

/-- An instruction of 8 bytes on the package's engines has retired: x[d] holds `v`, the hart is otherwise as before but in what
orders the strip's accesses. -/
def RetiresEight (s t : State) (d : Reg) (v : W64) : Prop :=
  WritesX s t d v ∧ RetiresWith s t (past s t 8) ∧ SameBack s t ∧ t.others = s.others ∧ SameMem s t

/-- The outer products: tile, operands, and whether the products are subtracted. -/
def outerForm (i : Instr) : Option (Fin 2 × Reg × Reg × Bool) :=
  match i with
  | .mopa za va vb _ _ => some (za, va, vb, false)
  | .mops za va vb _ _ => some (za, va, vb, true)
  | _ => none

/-- The box copies: form, destination register and operands. -/
def boxForm (i : Instr) : Option (Nat × Reg × Reg × Reg) :=
  match i with
  | .cpyG d a b => some (0, d, a, b)
  | .cpyP d a b => some (1, d, a, b)
  | _ => none

/-- The catalogue updates, and whether an old value is accumulated. -/
def catForm (i : Instr) : Option (VOps × Bool) :=
  match i with
  | .catins o => some (o, false)
  | .catacc o => some (o, true)
  | _ => none

/-- The mask instructions of the grammar engine: destination, context and source masks. -/
def gmaskForm (i : Instr) : Option (Fin 16 × Reg × Option (Fin 16)) :=
  match i with
  | .gmask md a => some (md, a, none)
  | .gmaskM md a ms => some (md, a, some ms)
  | _ => none

/-- The items of CPY.STAT (R258, R271). -/
def chanItem (s : State) (ch : Chan) (sel : Nat) : Option W64 :=
  [BitVec.ofNat 64 (ch.fcause <<< 16 + ch.fsub <<< 8 + ch.nops <<< 4 + ch.aborting.toNat <<< 2 + ch.error.toNat <<< 1
      + (if ch.nops = 0 then 0 else 1)),
    ch.cwm, ch.cissued, ch.cclip, ch.cfill, BitVec.ofNat 64 s.cpu.id.addr, if ch.error then ch.feval else 0][sel]?

/-- A catalogue instruction has retired: only the catalogue, masks, registers and queues of the hart may have changed. -/
def RetiresCat (s t : State) : Prop :=
  RetiresOnly s t { past s t 4 with vtag := t.cpu.front.vtag }
    ∧ t.cpu.back = { s.cpu.back with
        v := t.cpu.back.v, m := t.cpu.back.m, queues := t.cpu.back.queues, cat := t.cpu.back.cat }

/-- The descriptor of a za tile (R167). -/
def tileWord (s : State) (k : Nat) : W64 :=
  match kindsOf s k with
  | none => BitVec.ofNat 64 (2 ^ 18 * stepsOf s k)
  | some (ta, tb) => BitVec.ofNat 64 (2 ^ 24 + 2 ^ 18 * stepsOf s k + 2 ^ 9 * (tb.toNat % 512) + ta.toNat % 512)

/-- The head block of a partition, which holds hseq and the chain, can be read (R189, R305). -/
def HeadReadable (s : State) (x : Part) : Prop := x.lcap = 0 ∨ ∀ k, k < 0x50 → s.unreadable (x.labase.toNat + k) = false

/-- A partition in order (R339 to R341): its hseq is a batch boundary at or below every number that is not durable, and numbers are
left for what is pending. -/
def LogSound (s : State) (x : Part) : Prop :=
  x.lcap ≠ 0 ∧ s.hseq x % 64 = 0 ∧ s.hseq x ≤ x.lnext.toNat
    ∧ (∀ r ∈ x.pending, ∀ q, r.seq = some q → s.hseq x ≤ q ∧ q < x.lnext.toNat)
    ∧ x.lnext.toNat + x.pending.length + 64 < 2 ^ 64

/-- The record ACCLOG makes of linear element `e` (R340, R343). -/
def recordOf (s : State) (base v e : Nat) : AccRec :=
  let vl := s.cpu.front.vl
  let at_ (k : Nat) : Nat := queueElem s 4 (3 * (e / vl) + k) (e % vl)
  ⟨s.cpu.id.uid, none, recordBytes 1 s.cpu.id.addr v s.launchOf.1 ((base + e) % 2 ^ 64) (at_ 0) s.launchOf.2
    (at_ 2 * 2 ^ 32 + at_ 1) s.codeDigest⟩

/-- The bytes `l` stand at key `base` and behind it, and every other byte of memory is as before. -/
def Puts (s t : State) (base : Nat) (l : List Byte) : Prop :=
  ∀ a, readCell t.mem a = if base ≤ a ∧ a < base + l.length then l.getD (a - base) 0 else readCell s.mem a

/-- Harts, memory and agenda are as before. -/
def SameButPkg (s t : State) : Prop := t.cpu = s.cpu ∧ t.others = s.others ∧ t.agenda = s.agenda ∧ SameMem s t

/-- A ring of 2^size packets of 128 bytes lies in the populated part of one HBM window, or in an enabled second tier (R277). -/
def RingFits (tier : Bool) (base size : Nat) : Prop :=
  (∃ k, k < 12 ∧ 68719476736 * k ≤ base ∧ base + 128 * 2 ^ size ≤ 68719476736 * k + 64000000000)
    ∨ (tier = true ∧ 0x10000000000 ≤ base ∧ base + 128 * 2 ^ size ≤ 0x90000000000)

/-- The write that `l` at the storage places `places` leaves at place `p`, if it writes there. -/
def placedAt (places : List Nat) (l : List Byte) (p : Nat) : Option Byte :=
  ((places.zip l).reverse.find? (fun e => e.1 == p)).map (fun e => e.2)

/-- The head operation of channel `c` is `o`, with its next element `o.at_` to deliver and nothing older in its way. -/
def NextElement (s : State) (c : Nat) (o : CopyOp) : Prop :=
  (s.chan c).ops.head? = some o ∧ (s.chan c).error = false ∧ o.at_ < o.units ∧ o.form ≠ 2
    ∧ s.needs (o.form != 1) c o.seq (o.places o.at_) = []

/-- The state in which instruction `p` in flight goes on, with no other in flight. -/
def goingOn (s : State) (p : Pend) : State :=
  { s with cpu := { s.cpu with
      front := p.front.now s.cpu.front, inflight := [], lanes := p.sources, owed := p.owed, wait := none, due := p.noted
      trapped := false } }

/-- A queue-stall trap's eval (R183): bit q for each queue q of the list. -/
def queueBits (qs : List Nat) : W64 :=
  BitVec.ofNat 64 (((List.range 6).map (fun q => if qs.contains q then 2 ^ q else 0)).sum)

/-- Every entry of the gang list under `gid` satisfies `P`. -/
def GangIs (t : State) (gid : Nat) (P : Gang → Prop) : Prop := ∀ g ∈ t.pkg.gangs, g.gid = gid → P g

/-- The launch state of R21. -/
def BeginsLaunch (g : Gang) (h : Hart) (idx : Nat) : Prop :=
  h.status = .running ∧ h.front.pc = g.entry ∧ h.back = Back.reset ∧ h.wait = none ∧ h.inflight = []
    ∧ (h.front.vl, h.front.rc, h.front.vstart, h.front.ffi, h.front.mvr, h.front.mvc) = (0, 0, 0, 0, 0, 0)
    ∧ h.front.mmode = false
    ∧ ∀ k, k < 32 → vget 0 h.front.x k =
        if k = 10 then g.count else if k = 11 then BitVec.ofNat 64 idx else if k = 12 then BitVec.ofNat 64 g.n
        else if 13 ≤ k ∧ k ≤ 17 then g.args.getD (k - 13) 0 else if 5 ≤ k ∧ k ≤ 7 then g.args.getD k 0 else 0

/-- The attestation block of entry `v` (R308). -/
def attested (s : State) (v : Nat) : List Byte :=
  let e := s.vitrine v
  let body := leBytes 8 (v + 256 * e.state) ++ leBytes 8 e.base ++ leBytes 8 (e.units * 67108864) ++ digestBytes e.digest
    ++ leBytes 8 e.vseq.toNat ++ leBytes 8 s.ownPkg
  body ++ (if e.state = 4 then List.replicate 132 0 else (leBytes 132 (Config.sign (sha512 body)).toNat).reverse)
    ++ List.replicate 20 0

/-- The bytes at the hart's pc decode to `i` (R35, R36): the first halfword, then as many bytes as it announces. -/
def FetchesTo (s : State) (i : Instr) : Prop :=
  ∃ h l rest, s.codeBytes s.cpu.front.pc.toNat 2 = .ok h ∧ s.codeBytes s.cpu.front.pc.toNat (lengthOf (leNat h)) = .ok l
    ∧ decodeBytes l = .ok (i, rest)

/-- A dropped write of an agent has been counted at die `d` (R372), and at no other die. -/
def Counted (s t : State) (by_ : Agent) (d : Nat) : Prop :=
  let c := vget DieCnt.reset s.pkg.dies d
  vget DieCnt.reset t.pkg.dies d = { c with
      wdrop := c.wdrop + 1, hdrop := c.hdrop + (if by_ = .host then 1 else 0), fdrop := c.fdrop + (if by_ = .fabric then 1 else 0) }
    ∧ ∀ e, e ≠ d → vget DieCnt.reset t.pkg.dies e = vget DieCnt.reset s.pkg.dies e

/-- At most uncorrectable words have been dropped: zeroed, their frames fenced, and counted (R189, R210). -/
def Swept (s t : State) : Prop :=
  t.cpu = s.cpu ∧ t.others = s.others ∧ t.agenda = s.agenda
    ∧ t.pkg = { s.pkg with
        poison := t.pkg.poison, fences := t.pkg.fences, closed := t.pkg.closed, dies := t.pkg.dies, msix := t.pkg.msix }
    ∧ (∀ u ∈ t.pkg.poison, u ∈ s.pkg.poison)
    ∧ ∀ a, readCell t.mem a = readCell s.mem a
        ∨ (readCell t.mem a = 0 ∧ ∃ u ∈ s.pkg.poison, u / 8 = a / 64 ∧ u ∉ t.pkg.poison)

/-- A write of an agent has been dropped and counted at die `d`; nothing else has changed. -/
def Drops (s t : State) (by_ : Agent) (d : Nat) : Prop :=
  SameButPkg s t ∧ Counted s t by_ d ∧ { t.pkg with dies := s.pkg.dies } = s.pkg

/-- A write to the page of queue `q` has been dropped and counted there, `drops` saturating, and at die 0 (R277, R278). -/
def QueueDrops (s t : State) (by_ : Agent) (q : Nat) : Prop :=
  let w := s.wq q
  SameButPkg s t ∧ Counted s t by_ 0 ∧ { t.pkg with dies := s.pkg.dies, wqs := s.pkg.wqs } = s.pkg
    ∧ t.wq q = { w with stat := if bitsOf w.stat.toNat 47 32 < 65535 then w.stat + 0x100000000 else w.stat }
    ∧ ∀ k, k ≠ q → t.wq k = s.wq k

/-- Write `e` of an agent to the page of queue `q`: where `ok` holds the queue's registers become `w`, else the write is dropped; there
are 2,048 queues, and another package reaches none (R208, R277). -/
def QueueWrite (s : State) (by_ : Agent) (q : Nat) (e : Instr) (ok : Prop) (w : WQ) : Prop :=
  (q < 2048 → by_ ≠ .fabric → ok → ∃ t, exec e s = .next t ∧ SameButPkg s t ∧ { t.pkg with wqs := s.pkg.wqs } = s.pkg
      ∧ t.wq q = w ∧ ∀ k, k ≠ q → t.wq k = s.wq k)
    ∧ (q < 2048 → (by_ = .fabric ∨ ¬ok) → ∃ t, exec e s = .next t ∧ QueueDrops s t by_ q)
    ∧ (2048 ≤ q → ∃ t, exec e s = .next t ∧ Drops s t by_ 0)

/-- Who may write wqbase, wqsize, wqroot and wqctl (R277, R278). -/
def Owner (by_ : Agent) : Prop := by_ = .host ∨ by_ = .privHart ∨ by_ = .management

/-- The offsets of the error counters (R372) and of the core counters (R371). -/
def errorCounter (off : Nat) : Bool :=
  (0x1000 ≤ off && off < 0x1058) || (0x1080 ≤ off && off < 0x10D8) || (0x1100 ≤ off && off < 0x1130)
def coreCounter (off : Nat) : Bool := 0x100000 ≤ off && off < 0x102000 && off % 64 < 0x30

/-- What the management core writes at an offset of a core's counters; the reading of its sensor it does not write. -/
def coreWrite (k : CoreSt) (off : Nat) (v : W64) : CoreSt :=
  if off = 0x00 then { k with cret := v } else if off = 0x08 then { k with clane := v } else if off = 0x10 then { k with cskip := v }
  else if off = 0x18 then { k with cqstall := v } else if off = 0x28 then { k with trip := v.setWidth 16 } else k

/-- R302: the leaf is one that TLBINV with x[a] and x[b] selects. -/
def Selects (s : State) (a b : Reg) (e : TlbEnt) : Prop :=
  0x2000 ≤ s.getU b ∨ (e.asid = s.getU b % 4096 ∧ (0x1000 ≤ s.getU b
    ∨ (s.getU a < 2 ^ 56 ∧ e.base ≤ s.getU a ∧ s.getU a < e.base + e.size)))

/-- The hart has no child, and its slot is its own (R22, R196). -/
def MayMove (s : State) : Prop :=
  s.aheadOf s.cpu = none ∧ ∀ h ∈ s.others, h.id.parent ≠ some s.cpu.id.uid

end Sys2Proof.Claims

open Sys2Proof Sys2Proof.Machine Sys2Proof.Claims

/-- R69, R70, R71, R72 and the computing forms of R80: each integer instruction, in every state and with every operand, writes
its rule's value to x[d] and retires; nothing else of the machine changes. -/
def Obligations.IntegerResults : Prop :=
  ∀ (i : Instr) (s : State) (d : Reg) (v : W64) (len : Nat), intResult i s = some (d, v, len) →
    ∃ t, exec i s = .next t ∧ WritesX s t d v ∧ RetiresAt s t (s.cpu.front.pc + BitVec.ofNat 64 len)

/-- R75 to R79: each scalar floating-point instruction writes its result to x[d] and retires; no flag exists and nothing else
changes. -/
def Obligations.FloatResults : Prop :=
  ∀ (i : Instr) (s : State) (d : Reg) (v : W64), floatResult i s = some (d, v) →
    ∃ t, exec i s = .next t ∧ WritesX s t d v ∧ RetiresAt s t (s.cpu.front.pc + 4)

/-- R73 and the branches of R80: a branch goes to its target when its condition holds and else on; it writes no register. -/
def Obligations.BranchTargets : Prop :=
  ∀ (i : Instr) (s : State) (p : W64), branchTarget i s = some p →
    ∃ t, exec i s = .next t ∧ KeepsX s t ∧ RetiresAt s t p

/-- R74: JAL and JALR write the link pc + 4 and go to their target; JALR reads x[a] before it writes x[d]. -/
def Obligations.JumpsLink : Prop :=
  (∀ (d : Reg) (off : BitVec 20) (s : State), ∃ t, exec (.jal d off) s = .next t ∧ WritesX s t d (s.cpu.front.pc + 4)
    ∧ RetiresAt s t (s.cpu.front.pc + off.signExtend 64 <<< 1))
  ∧ (∀ (d a : Reg) (imm : BitVec 12) (s : State), ∃ t, exec (.jalr d a imm) s = .next t
    ∧ WritesX s t d (s.cpu.front.pc + 4) ∧ RetiresAt s t ((s.getX a + imm.signExtend 64) &&& ~~~(1 : W64)))

/-- R230 to R232, LDA by R233: a load whose bytes are all readable delivers them, extended as its row says, little-endian. -/
def Obligations.LoadResults : Prop :=
  ∀ (i : Instr) (s : State) (d : Reg) (ea n : Nat) (ext : Nat → W64) (l : List Byte),
    loadForm i s = some (d, ea, n, ext) → s.cpu.inflight = [] → alignedFor i ea n → s.loadBytes ea n = .ok l →
    ∃ t, exec i s = .next t ∧ WritesX s t d (ext (leNat l)) ∧ RetiresLoad s t i.len

/-- R230 to R232, STL by R233: a store to memory writes the low bytes of x[b] at the bytes of its address and nowhere else. Copy
1 of a duplicated launch writes nothing (R288). -/
def Obligations.StoreResults : Prop :=
  ∀ (i : Instr) (s : State) (b : Reg) (ea n : Nat) (pas : List Nat),
    storeForm i s = some (b, ea, n) → s.cpu.inflight = [] → alignedFor i ea n →
    (∀ o, i = .stl o → s.inDup = false) →
    (∀ atomic, s.accessBytes s.cpu.ctx .store atomic (vaRange ea n) = .ok pas) → AllMemory s pas →
    ∃ t, exec i s = .next t ∧ KeepsX s t ∧ RetiresStore s t i.len
      ∧ (if s.cpu.id.copy = 1 then SameMem s t else StoresAt s t pas (leBytes n (s.getU b)))

/-- R233: an atomic on memory returns the old value in x[d] and leaves its function of the old value, x[b] and x[d]. -/
def Obligations.AtomicResults : Prop :=
  ∀ (i : Instr) (s : State) (o : AmoOps) (g : Nat → Nat → Nat → Nat → Nat) (pas : List Nat),
    amoForm i = some (o, g) → s.cpu.inflight = [] → s.inDup = false →
    let n := if o.dbl then 8 else 4
    let old := leNat (pas.map (s.physByte s.cpu.id.die))
    let new := g (8 * n) old (s.getU o.b % 2 ^ (8 * n)) (s.getU o.d % 2 ^ (8 * n))
    s.getU o.a % n = 0 → s.accessBytes s.cpu.ctx .amo true (vaRange (s.getU o.a) n) = .ok pas → AllMemory s pas →
    ∃ t, exec i s = .next t
      ∧ WritesX s t o.d (if o.dbl then BitVec.ofNat 64 old else (BitVec.ofNat 32 old).signExtend 64)
      ∧ RetiresStore s t 4 ∧ StoresAt s t pas (leBytes n new)

/-- R184, R231, R232: a scalar load or store that a byte refuses traps at that byte and writes nothing. -/
def Obligations.AccessFaultsTrap : Prop :=
  ∀ (i : Instr) (s : State) (ea n : Nat) (f : AccFault) (k : Access),
    ((∃ d ext, loadForm i s = some (d, ea, n, ext) ∧ k = .load) ∨ (∃ b, storeForm i s = some (b, ea, n) ∧ k = .store)) →
    (∀ o, i ≠ .stl o) → s.cpu.inflight = [] → alignedFor i ea n → CanTrap s → f.cause ≠ .dataError →
    s.accessBytes s.cpu.ctx k false (vaRange ea n) = .error f →
    ∃ t, exec i s = .next t
      ∧ Traps s t (causeCode f.cause) (BitVec.ofNat 64 f.addr) (estatOf f.sub f.kind 15 1 false i.len) 0

/-- R234: an atomic form, LDA or STL at an address that is not a multiple of its size takes MISALIGNED_AMO. -/
def Obligations.MisalignedAtomicsTrap : Prop :=
  ∀ (i : Instr) (s : State) (o : AmoOps),
    (i = .lda o ∨ i = .stl o ∨ ∃ g, amoForm i = some (o, g)) → s.cpu.inflight = [] → s.inDup = false → CanTrap s →
    s.getU o.a % (if o.dbl then 8 else 4) ≠ 0 →
    ∃ t, exec i s = .next t ∧ Traps s t 5 (s.getX o.a) (estatOf 0 0 15 1 false 4) 0

/-- R190, R80: ECALL, EBREAK and H.BRK take their trap, epc at the instruction, eval 0. -/
def Obligations.SystemCallsTrap : Prop :=
  ∀ (s : State), s.cpu.inflight = [] → CanTrap s →
    (∃ t, exec .ecall s = .next t ∧ Traps s t 18 0 (estatOf 0 0 15 0 false 4) 0)
    ∧ (∃ t, exec .ebreak s = .next t ∧ Traps s t 19 0 (estatOf 0 0 15 0 false 4) 0)
    ∧ (∃ t, exec .hBrk s = .next t ∧ Traps s t 19 0 (estatOf 0 0 15 0 false 2) 0)

/-- R190: ERET in a handler restores vstart from evstart, clears active and goes to epc; outside one it is illegal. -/
def Obligations.EretReturns : Prop :=
  ∀ (s : State), s.cpu.inflight = [] →
    (s.cpu.front.estat.getLsbD 0 = true → ∃ t, exec .eret s = .next t
      ∧ t.cpu.front = { s.cpu.front with
          vstart := s.cpu.front.evstart, estat := s.cpu.front.estat &&& ~~~(1 : W64), pc := s.cpu.front.epc
          interval := s.cpu.front.interval + 1, instret := s.cpu.front.instret + 1, cycle := t.cpu.front.cycle }
      ∧ SameHart s t ∧ SameRest s t)
    ∧ (CanTrap s → ∃ t, exec .eret s = .next t
      ∧ Traps s t 1 (BitVec.ofNat 64 (encode .eret)) (estatOf 0 0 15 0 false 4) 0)

/-- R188: a trap in a handler, or with tvec = 0, is a launch fault: the hart and every member of its gang stop, and a gang that
holds no fault record yet receives the five values of R184. -/
def Obligations.TrapsInHandlersEndTheLaunch : Prop :=
  ∀ (s : State), s.cpu.inflight = [] → ¬ CanTrap s →
    ∃ t, exec .ecall s = .next t ∧ t.cpu.status = .stopped
      ∧ (∀ h ∈ t.others, h.id.gang = s.cpu.id.gang → h.status = .stopped ∨ h.status = .absent)
      ∧ (∀ g ∈ t.pkg.gangs, g.gid = s.cpu.id.gang → (∀ g' ∈ s.pkg.gangs, g'.gid = s.cpu.id.gang → g'.fault = none) →
          g.fault = some ([s.cpu.front.pc, 18, 0, estatOf 0 0 15 0 false 4, 0], s.cpu.id.idx, s.cpu.id.copy))

/-- R181, R190, R369: SRD of every register of the table reads it, and a number the table does not hold reads 0; instret counts
exactly the retired instructions when none is in flight. -/
def Obligations.SystemReads : Prop :=
  ∀ (d : Reg) (n : BitVec 11) (s : State), s.cpu.inflight = [] →
    ∃ t, exec (.srd d n) s = .next t ∧ RetiresAt s t (s.cpu.front.pc + 4)
      ∧ (∀ v, (n.toNat, v) ∈ sysTable s → WritesX s t d v)
      ∧ ((∀ v, (n.toNat, v) ∉ sysTable s) → WritesX s t d 0)

/-- R181, R190: SWR, SRSET and SRCLR of a writable register by a hart that may write it: x[d] receives the old value, the
register the new one, nothing else changes. R181, R183: a write of a read-only register takes PROTECTION with sub 1, one of a privileged register by a hart without the
attribute PROTECTION with sub 2, and one of a value that the register refuses ILLEGAL_INSTRUCTION; none writes anything else. -/
def Obligations.SystemWrites : Prop :=
  (∀ (i : Instr) (s : State) (d a : Reg) (n : BitVec 11) (g : W64 → W64 → W64) (pv : Bool) (ok : W64 → Prop) (kept : W64 → W64)
    (old : W64),
    sysForm i = some (d, a, n, g) → (n.toNat, pv, ok, kept) ∈ sysWritable → (pv = true → s.cpu.id.priv = true) →
    (n.toNat, old) ∈ sysTable s → ok (g old (s.getX a)) →
    ∃ t, exec i s = .next t ∧ WritesX s t d old ∧ WritesSys s t n.toNat (kept (g old (s.getX a))))
  ∧ (∀ (i : Instr) (s : State) (d a : Reg) (n : BitVec 11) (g : W64 → W64 → W64),
    sysForm i = some (d, a, n, g) → s.cpu.inflight = [] → CanTrap s →
    (n.toNat ∈ [0x001, 0x003, 0x020, 0x021, 0x022, 0x023, 0x030] →
      ∃ t, exec i s = .next t ∧ Traps s t 9 (BitVec.ofNat 64 (encode i)) (estatOf 1 0 15 0 false 4) 0)
    ∧ (n.toNat ∈ [0x031, 0x032, 0x033] → s.cpu.id.priv = false →
      ∃ t, exec i s = .next t ∧ Traps s t 9 (BitVec.ofNat 64 (encode i)) (estatOf 2 0 15 0 false 4) 0))
  ∧ (∀ (i : Instr) (s : State) (d a : Reg) (n : BitVec 11) (g : W64 → W64 → W64) (pv : Bool) (ok : W64 → Prop) (kept : W64 → W64)
    (old : W64),
    sysForm i = some (d, a, n, g) → (n.toNat, pv, ok, kept) ∈ sysWritable → (pv = true → s.cpu.id.priv = true) →
    (n.toNat, old) ∈ sysTable s → s.cpu.inflight = [] → CanTrap s → ¬ok (g old (s.getX a)) →
    ∃ t, exec i s = .next t ∧ Traps s t 1 (BitVec.ofNat 64 (encode i)) (estatOf 0 0 15 0 false 4) 0)

/-- R302, R353, R52: TLBINV drops exactly the cached leaves it selects, where no engine access still to come was translated by one of
them; ICINV.R over bytes of one page drops exactly the cached
lines, of every core, that hold one of them, and of a length 0 drops nothing; both are refused to a hart without the privileged attribute. -/
def Obligations.InvalidationsDrop : Prop :=
  (∀ (a b : Reg) (s : State), s.cpu.inflight = [] → s.cpu.id.priv = true → s.getU b < 0x3000 →
    (∀ j ∈ s.pkg.jobs, ∀ e ∈ j.leaves, ¬Selects s a b e) →
    ∃ t, exec (.tlbinv a b) s = .next t ∧ KeepsX s t
      ∧ t.cpu.front = { s.cpu.front with
          pc := s.cpu.front.pc + 4, instret := s.cpu.front.instret + 1, cycle := t.cpu.front.cycle }
      ∧ SameHart s t ∧ SameMem s t
      ∧ (∀ e, e ∈ t.pkg.tlb ↔ e ∈ s.pkg.tlb ∧ ¬Selects s a b e) ∧ { t.pkg with tlb := s.pkg.tlb } = s.pkg)
  ∧ (∀ (a b : Reg) (s : State) (pa : Nat), s.cpu.inflight = [] → s.cpu.id.priv = true → s.getU a % 65536 + s.getU b ≤ 65536 →
    s.translateInv (s.getU a) = .ok pa →
    ∃ t, exec (.icinvR a b) s = .next t ∧ KeepsX s t
      ∧ t.cpu.front = { s.cpu.front with
          pc := s.cpu.front.pc + 4, instret := s.cpu.front.instret + 1, cycle := t.cpu.front.cycle }
      ∧ SameHart s t ∧ SameMem s t
      ∧ (∀ e, e ∈ t.pkg.icache ↔ e ∈ s.pkg.icache ∧
          ¬ (s.getU b ≠ 0 ∧ s.isLocal pa = true ∧ pa % 2 ^ 50 / 128 ≤ e.1 % 2 ^ 50 / 128
            ∧ e.1 % 2 ^ 50 / 128 ≤ (pa % 2 ^ 50 + s.getU b - 1) / 128)) ∧ { t.pkg with icache := s.pkg.icache } = s.pkg)
  ∧ (∀ (a b : Reg) (s : State), s.cpu.inflight = [] → s.cpu.id.priv = false → CanTrap s →
    (∃ t, exec (.tlbinv a b) s = .next t
      ∧ Traps s t 9 (BitVec.ofNat 64 (encode (.tlbinv a b))) (estatOf 0 0 15 0 false 4) 0)
    ∧ (∃ t, exec (.icinvR a b) s = .next t
      ∧ Traps s t 9 (BitVec.ofNat 64 (encode (.icinvR a b))) (estatOf 0 0 15 0 false 4) 0))

/-- R354, R355, R357, R358: each barrier instruction of a member, where it is allowed, returns the register and changes it as
its row says; BAR.WT and BAR.SYNC complete when the member's arrival is not pending. An arrival that R355 refuses takes
BARRIER_OVER_ARRIVAL with the register in eval, and a count that R357 refuses takes ILLEGAL_INSTRUCTION. -/
def Obligations.BarrierResults : Prop :=
  (∀ (d a : Reg) (s : State), AtBarrier s →
    (s.getU a ≤ 64 → s.getU a ≤ s.bar.live → ∃ t, exec (.barArm d a) s = .next t ∧ Barriers s t d (barWord s.bar)
      { s.bar with nexp := s.getU a, expected := if s.bar.arrived = 0 then s.getU a else s.bar.expected })
    ∧ (MayArrive s.bar s.cpu.id.idx → ∃ t, exec (.barArv d) s = .next t
      ∧ Barriers s t d (barWord s.bar) (arrived s.bar s.cpu.id.idx))
    ∧ (bitAt s.bar.arrbit.toNat s.cpu.id.idx = false → ∃ t, exec (.barWt d) s = .next t
      ∧ Barriers s t d (barWord s.bar) s.bar)
    ∧ (MayArrive s.bar s.cpu.id.idx → s.bar.arrived + 1 = s.bar.expected → s.cpu.due = none →
      ∃ t, exec (.barSync d) s = .next t
        ∧ Barriers s t d (barWord (arrived s.bar s.cpu.id.idx)) (arrived s.bar s.cpu.id.idx))
    ∧ (MayArrive s.bar s.cpu.id.idx → ∃ t, exec (.barDrop d) s = .next t
      ∧ Barriers s t d (barWord s.bar) (arrived
        { s.bar with gone := s.bar.gone ||| (1#64 <<< s.cpu.id.idx), live := s.bar.live - 1, nexp := s.bar.nexp - 1 }
        s.cpu.id.idx)))
  ∧ (∀ (d a : Reg) (s : State), AtBarrier s → CanTrap s →
    (¬MayArrive s.bar s.cpu.id.idx →
      (∃ t, exec (.barArv d) s = .next t ∧ Traps s t 14 (barWord s.bar) (estatOf 0 0 15 4 false 4) 0 ∧ t.bar = s.bar)
      ∧ (s.cpu.due = none → ∃ t, exec (.barSync d) s = .next t
        ∧ Traps s t 14 (barWord s.bar) (estatOf 0 0 15 4 false 4) 0 ∧ t.bar = s.bar)
      ∧ (∃ t, exec (.barDrop d) s = .next t ∧ Traps s t 14 (barWord s.bar) (estatOf 0 0 15 4 false 4) 0 ∧ t.bar = s.bar))
    ∧ ((64 < s.getU a ∨ s.bar.live < s.getU a) → ∃ t, exec (.barArm d a) s = .next t
      ∧ Traps s t 1 (BitVec.ofNat 64 (encode (.barArm d a))) (estatOf 0 0 15 0 false 4) 0 ∧ t.bar = s.bar))

/-- R109, R110, R111: the SHAPE forms grant rows and columns by the tag of their source, up to VLMAX or GVLMAX; SHAPE.M of a queue
at rest shortens the grant by its free space, and grants as SHAPE in a duplicated launch. R110: whatever the free space is found to
be, SHAPE.M whose queue no older QCFG holds (R114) grants the rows of SHAPE, and its columns or, where it shortens them, a smaller
multiple of 32. -/
def Obligations.ShapeGrants : Prop :=
  ((∀ (d a b r : Reg) (s : State), ∃ t, exec (.shape d a b r) s = .next t
    ∧ Grants s t d (tagOf s.cpu.front r) (grantOf (tagOf s.cpu.front r) s.vlmax (s.getU a) (s.getU b)))
  ∧ (∀ (d a b r : Reg) (s : State), ∃ t, exec (.shapeG d a b r) s = .next t
    ∧ Grants s t d (tagOf s.cpu.front r) (grantOf (tagOf s.cpu.front r) s.gangLimit (s.getU a) (s.getU b)))
  ∧ (∀ (d a b r : Reg) (s : State), 28 ≤ r.val → s.cpu.inflight = [] → (s.cpu.back.queue (r.val - 28)).gone = [] →
    (s.cpu.back.queue (r.val - 28)).sure = (s.cpu.back.queue (r.val - 28)).rows.length →
    ∃ t, exec (.shapeM d a b r) s = .next t
      ∧ Grants s t d (tagOf s.cpu.front r)
          (let g := grantOf (tagOf s.cpu.front r) s.vlmax (s.getU a) (s.getU b)
           if s.inDup then g else shortened (tagOf s.cpu.front r) (s.free (r.val - 28)) g)))
  ∧ (∀ (d a b r : Reg) (s : State), s.queueHeld (.shapeM d a b r) = false → ∃ t, exec (.shapeM d a b r) s = .next t
    ∧ (let g := grantOf (tagOf s.cpu.front r) s.vlmax (s.getU a) (s.getU b)
       ∃ vl, Grants s t d (tagOf s.cpu.front r) (g.1, vl) ∧ (vl = g.2 ∨ (vl < g.2 ∧ 32 ≤ vl ∧ vl % 32 = 0))))


/-- R113, R114, R82: VTAG sets one register's tag; QCFG empties its queue and sets the queue's tag, once no user of the queue is
in flight and a store queue has drained. A value that is no valid tag takes ILLEGAL_TAG. R117: GETSH writes the item its selector names. -/
def Obligations.TagsAreSet : Prop :=
  ((∀ (n a : Reg) (s : State), n.val < 28 → ¬(s.cpu.front.mmode = true ∧ 20 ≤ n.val) →
    (s.getX a).toNat < 65536 → tagValid ((s.getX a).setWidth 16) = true →
    ∃ t, exec (.vtag n a) s = .next t ∧ t.cpu.back = s.cpu.back ∧ KeepsX s t
      ∧ RetiresOnly s t { past s t 4 with vtag := t.cpu.front.vtag }
      ∧ ∀ k, k < 28 → vget 0 t.cpu.front.vtag k = if k = n.val then (s.getX a).setWidth 16 else vget 0 s.cpu.front.vtag k)
  ∧ (∀ (q a : Reg) (s : State), q.val < 6 → s.cpu.inflight = [] → (4 ≤ q.val → (s.cpu.back.queue q.val).rows = []) →
    (s.getX a).toNat < 65536 → tagValid ((s.getX a).setWidth 16) = true →
    ∃ t, exec (.qcfg q a) s = .next t ∧ KeepsX s t
      ∧ RetiresOnly s t { past s t 4 with qtag := t.cpu.front.qtag, sqtag := t.cpu.front.sqtag }
      ∧ t.cpu.back = { s.cpu.back with queues := t.cpu.back.queues }
      ∧ (∀ k, k < 6 → t.cpu.front.queueTag k = if k = q.val then (s.getX a).setWidth 16 else s.cpu.front.queueTag k)
      ∧ (∀ k, k < 6 → t.cpu.back.queue k = if k = q.val then QState.empty else s.cpu.back.queue k))
  ∧ (∀ (n a : Reg) (s : State), s.cpu.inflight = [] → CanTrap s → ¬(s.cpu.front.mmode = true ∧ 20 ≤ n.val ∧ n.val < 28) →
    ¬((s.getX a).toNat < 65536 ∧ tagValid ((s.getX a).setWidth 16) = true) →
    ∃ t, exec (.vtag n a) s = .next t ∧ Traps s t 2 (s.getX a) (estatOf 0 0 15 0 false 4) 0)
  ∧ (∀ (q a : Reg) (s : State), q.val < 6 → s.cpu.inflight = [] → CanTrap s →
    ¬((s.getX a).toNat < 65536 ∧ tagValid ((s.getX a).setWidth 16) = true) →
    ∃ t, exec (.qcfg q a) s = .next t ∧ Traps s t 2 (s.getX a) (estatOf 0 0 15 0 false 4) 0
      ∧ ∀ k, (t.cpu.back.queue k).rows = (s.cpu.back.queue k).rows))
  ∧ (∀ (d sel n : Reg) (s : State) (v : Nat), (shapeTable s n.val)[sel.val]? = some v →
    ∃ t, exec (.getsh d sel n) s = .next t ∧ WritesX s t d (BitVec.ofNat 64 v) ∧ RetiresAt s t (s.cpu.front.pc + 4))

/-- R115, R116: MXON turns matrix mode on, grants mvr and mvc, clears the tiles and v20 to v27; MXOFF turns it off and discards
za and those registers. Each takes MATRIX_STATE in the other mode. -/
def Obligations.MatrixModeSwitches : Prop :=
  ∀ (d a b : Reg) (s : State), s.cpu.inflight = [] →
    (s.cpu.front.mmode = false → s.children = [] →
      ∃ t, exec (.mxon d a b) s = .next t
        ∧ (let r := if s.getU a = 0 ∨ s.getU b = 0 then 0 else min (s.getU a) (s.mrmaxOf s.cpu.id)
           let c := if s.getU a = 0 ∨ s.getU b = 0 then 0 else min (s.getU b) (if s.cpu.id.share = 4 then 128 else 256)
           WritesX s t d (BitVec.ofNat 64 (2 ^ 32 * r + c))
            ∧ RetiresOnly s t { past s t 4 with mmode := true, mvr := r, mvc := c })
        ∧ t.cpu.back = { s.cpu.back with
            v := t.cpu.back.v, za := [], zf := [], zsteps := Vector.replicate 2 0, zkinds := Vector.replicate 2 none }
        ∧ (∀ k c, c < 65536 → planeWord t.cpu.back.v k c = if 20 ≤ k ∧ k < 28 then 0 else planeWord s.cpu.back.v k c))
    ∧ (s.cpu.front.mmode = true →
      ∃ t, exec .mxoff s = .next t ∧ KeepsX s t ∧ RetiresOnly s t { past s t 4 with mmode := false }
        ∧ t.cpu.back = { s.cpu.back with v := t.cpu.back.v, za := [] }
        ∧ (∀ k c, c < 65536 → planeWord t.cpu.back.v k c = if 20 ≤ k ∧ k < 28 then 0 else planeWord s.cpu.back.v k c))
    ∧ (CanTrap s → s.cpu.front.mmode = true → s.children = [] →
      ∃ t, exec (.mxon d a b) s = .next t ∧ Traps s t 4 1 (estatOf 0 0 15 2 false 4) 0)
    ∧ (CanTrap s → s.cpu.front.mmode = false → s.children = [] →
      ∃ t, exec .mxoff s = .next t ∧ Traps s t 4 0 (estatOf 0 0 15 2 false 4) 0)

/-- R362: a gang member without children, quiet, halts: its contexts are freed, it leaves the barrier, and it runs
no more. That its pc then stands behind the HALT is the model's reading (log 33, DEDUCED). -/
def Obligations.HaltEndsAHart : Prop :=
  ∀ (s : State), AtBarrier s → Quiet s → s.children = [] →
    ∃ t, exec .halt s = .next t ∧ t.cpu.status = .halted ∧ t.bar = haltedBar s.bar s.cpu.id.idx
      ∧ t.cpu.front = { s.cpu.front with
          pc := s.cpu.front.pc + 4, instret := s.cpu.front.instret + 1, cycle := t.cpu.front.cycle }
      ∧ t.cpu.back = { s.cpu.back with gram := ⟨[], [], [], 0⟩ } ∧ t.others = s.others ∧ SameMem s t

/-- R23, R363: FORK halves the share, and a child begins at x[a] with the caller's x10 to x13, its tags and the upper half. R24, R364: JOIN of a parent takes back the half of its youngest child, once that has ended, with x10 of the child in x[d], and
waits for it until then; JOIN of a child ends it. The checks of R363 and R364 take their traps in their order. -/
def Obligations.ForksAndJoins : Prop :=
  (∀ (d a b : Reg) (s : State), Quiet s → QueuesEmpty s → s.cpu.front.mmode = false → s.cpu.id.share ≠ 4 →
    s.bar.expected = 0 → s.forkArea (s.getU b) = none →
    ∃ t c, exec (.fork d a b) s = .next t ∧ t.others = s.others ++ [c] ∧ WritesX s t d (BitVec.ofNat 64 c.id.addr)
      ∧ c.status = .running ∧ c.id.parent = some s.cpu.id.uid ∧ c.id.share = s.cpu.id.share / 2
      ∧ t.cpu.id = { s.cpu.id with share := s.cpu.id.share / 2 }
      ∧ c.id.slot = s.cpu.id.slot + s.cpu.id.share / 8
      ∧ c.front.pc = s.getX a &&& ~~~(1 : W64) ∧ c.front.esave = s.getX b
      ∧ (∀ r : Reg, c.front.getX r = if 10 ≤ r.val ∧ r.val ≤ 13 then s.getX r else 0)
      ∧ c.front.vtag = s.cpu.front.vtag ∧ c.front.tvec = s.cpu.front.tvec ∧ c.front.estat = 0
      ∧ t.cpu.front = { past s t 4 with
          vl := 0, rc := 0, interval := s.cpu.front.interval + 1
          instret := s.cpu.front.instret + 1, cycle := t.cpu.front.cycle }
      ∧ SameMem s t)
  ∧ ((∀ (d : Reg) (s : State) (c : Hart), Quiet s → s.children.getLast? = some c → c.status ≠ .running →
    s.cpu.front.mmode = false →
    ∃ t, exec (.join d) s = .next t ∧ WritesX s t d (c.front.getX 10)
      ∧ t.cpu.id = { s.cpu.id with share := 2 * s.cpu.id.share }
      ∧ t.others = s.others.filter (fun x => x.id.uid != c.id.uid)
      ∧ t.cpu.front = { past s t 4 with
          vl := 0, rc := 0, interval := s.cpu.front.interval + 1
          instret := s.cpu.front.instret + 1, cycle := t.cpu.front.cycle }
      ∧ t.cpu.back.zf = [] ∧ t.cpu.back.cat.entries = [] ∧ SameMem s t)
  ∧ (∀ (d : Reg) (s : State), Quiet s → QueuesEmpty s → s.children = [] → s.cpu.id.parent.isSome = true →
    s.cpu.front.mmode = false →
    ∃ t, exec (.join d) s = .next t ∧ t.cpu.status = .halted ∧ KeepsX s t ∧ t.others = s.others ∧ SameMem s t)
  ∧ (∀ (d : Reg) (s : State) (c : Hart), s.children.getLast? = some c → c.status = .running → s.cpu.front.mmode = false →
    ∃ t, exec (.join d) s = .next t ∧ t.cpu.wait = some .family ∧ t.cpu.front = { s.cpu.front with cycle := t.cpu.front.cycle }
      ∧ t.cpu.back = s.cpu.back ∧ SameRest s t))
  ∧ (∀ (d a b : Reg) (s : State), s.cpu.inflight = [] → CanTrap s →
    (s.cpu.front.mmode = true → ∃ t, exec (.fork d a b) s = .next t
      ∧ Traps s t 4 (if s.children = [] then 1 else 3) (estatOf 0 0 15 0 false 4) 0)
    ∧ (s.cpu.front.mmode = false → (s.cpu.id.share = 4 ∨ s.bar.expected ≠ 0) → ∃ t, exec (.fork d a b) s = .next t
      ∧ Traps s t 1 (BitVec.ofNat 64 (encode (.fork d a b))) (estatOf 0 0 15 0 false 4) 0)
    ∧ (s.cpu.front.mmode = false → s.cpu.id.share ≠ 4 → s.bar.expected = 0 →
      (s.getU b % 65536 ≠ 0 → ∃ t, exec (.fork d a b) s = .next t ∧ Traps s t 8 (s.getX b) (estatOf 4 0 15 0 false 4) 0)
      ∧ (∀ k f, s.getU b % 65536 = 0 → k < 145 →
        s.byteAccess s.cpu.ctx .store true ((s.getU b + 65536 * k) % 2 ^ 64) = .error f →
        (∀ j, j < k → ∃ pa, s.byteAccess s.cpu.ctx .store true ((s.getU b + 65536 * j) % 2 ^ 64) = .ok pa) →
        ∃ t, exec (.fork d a b) s = .next t
          ∧ Traps s t 8 (BitVec.ofNat 64 (s.getU b + 65536 * k)) (estatOf 1 0 15 0 false 4) 0))
    ∧ (s.cpu.front.mmode = true → (s.children ≠ [] ∨ s.cpu.id.parent.isSome = true) → ∃ t, exec (.join d) s = .next t
      ∧ Traps s t 4 (if s.children = [] then 1 else 3) (estatOf 0 0 15 0 false 4) 0)
    ∧ (s.children = [] → s.cpu.id.parent = none → ∃ t, exec (.join d) s = .next t
      ∧ Traps s t 1 (BitVec.ofNat 64 (encode (.join d))) (estatOf 0 0 15 0 false 4) 0))

/-- R221, R191: FENCE and WAITE complete at once in a quiet hart; FENCE with v leaves no older vector
write unperformed, with neither v nor e it changes nothing, WAITE returns that nothing was pending. -/
def Obligations.FencesComplete : Prop :=
  (∀ (scope set : Fin 8) (s : State), Quiet s → scope.val ≤ 4 → set.val ≠ 0 →
    (∀ p, p < 16 → (s.part p).unwritten (fun r => r.hart = s.cpu.id.uid) = 0) →
    ∃ t, exec (.fence scope set) s = .next t ∧ KeepsX s t ∧ RetiresOnly s t (past s t 4) ∧ SameBack s t
      ∧ (set.val / 2 % 2 = 1 → t.cpu.back.strip = [] ∧ t.cpu.back.rels = [])
      ∧ (set.val / 2 = 0 → t.cpu.back = s.cpu.back))
  ∧ (∀ (d a : Reg) (s : State), Quiet s → s.cpu.due = none → s.getU a < 8 →
    ∃ t, exec (.waite d a) s = .next t ∧ WritesX s t d 0 ∧ RetiresOnly s t (past s t 4) ∧ t.cpu.back = s.cpu.back)

/-- R366: WAITC, behind the hart's older stores to the word and its older acquires, returns it once it has reached x[b]; until then the hart waits at its
pc. -/
def Obligations.WaitcReturnsTheWord : Prop :=
  ∀ (d a b : Reg) (s : State) (pas : List Nat), s.getU a % 8 = 0 →
    s.accessBytes s.cpu.ctx .load false (vaRange (s.getU a) 8) = .ok pas →
    (∀ p ∈ s.cpu.inflight, acquires p.instr = false ∧ s.mayStore p pas = false) →
    let l := pas.map (s.physByte s.cpu.id.die)
    let w : W64 := BitVec.ofNat 64 (leNat l)
    ((w - s.getX b).toNat < 2 ^ 63 → ∃ t, exec (.waitc d a b) s = .next t ∧ WritesX s t d w
      ∧ RetiresLoad s t 4)
    ∧ (2 ^ 63 ≤ (w - s.getX b).toNat → ∃ t, exec (.waitc d a b) s = .next t ∧ KeepsX s t ∧ t.cpu.wait = some .word
      ∧ t.cpu.front = { s.cpu.front with cycle := t.cpu.front.cycle } ∧ t.cpu.inflight = s.cpu.inflight
      ∧ SameBack s t ∧ t.others = s.others ∧ SamePkg s t ∧ t.agenda = s.agenda ∧ SameMem s t)

/-- R292, R279: LAUNCH into a queue with room appends the packet at the ring's tail and returns the new tail; into a full queue
it returns 0 and appends nothing. -/
def Obligations.LaunchAppends : Prop :=
  ∀ (d a b : Reg) (s : State) (l : List Byte), s.cpu.inflight = [] → s.inDup = false → s.getU a % 128 = 0 →
    s.getU b ≤ 2047 → (s.wq (s.getU b)).en = true → (s.wq (s.getU b)).byHart = true → s.loadBytes (s.getU a) 128 = .ok l →
    launchReason (packetBytes l) (s.wq (s.getU b)).privok s.cpu.id.priv = 0 →
    let w := s.wq (s.getU b)
    let slot := w.base.toNat + 128 * (w.tail.toNat % 2 ^ w.size)
    let at_ := s.ownPkg * 2 ^ 50 + slot
    (2 ^ w.size ≤ w.tail.toNat - w.head.toNat → ∃ t, exec (.launch d a b) s = .next t ∧ WritesX s t d 0
      ∧ RetiresLoad s t 4)
    ∧ (w.tail.toNat - w.head.toNat < 2 ^ w.size → slot + 128 ≤ 2 ^ 50 →
      (∀ k, k < 128 → s.checkPhys w.die .store true (at_ + k) (at_ + k) = none) →
      ∃ t, exec (.launch d a b) s = .next t ∧ WritesX s t d (w.tail + 1)
        ∧ t.wq (s.getU b) = { w with tail := w.tail + 1 } ∧ (∀ q, q ≠ s.getU b → t.wq q = s.wq q)
        ∧ (∀ k, readCell t.mem k = if slot ≤ k ∧ k < slot + 128 then l.getD (k - slot) 0 else readCell s.mem k)
        ∧ RetiresWith s t (past s t 4) ∧ SameBack s t ∧ SameOthers s t
        ∧ { t.pkg with wqs := s.pkg.wqs, l2 := s.pkg.l2 } = s.pkg)

/-- R367, R182, R392: SAFEPT returns 0 when no migration is pending or a handler runs, and where no pre-emption is pending (R197), 2 with
`refusals` counted when there is no target, and 1 when a hart without children has moved to the target's core and slot, its request
cleared; a mask of 2^28 or more is illegal. R368: YIELD of a hart whose gang no waiting gang of its priority needs returns 0 and changes nothing else. -/
def Obligations.SafeptResults : Prop :=
  (∀ (d a b : Reg) (s : State), s.cpu.inflight = [] → s.getU b < 2 ^ 28 → s.reservation = none →
    ((s.cpu.front.mreq.getLsbD 0 = false ∨ s.cpu.front.estat.getLsbD 0 = true) →
      ∃ t, exec (.safept d a b) s = .next t ∧ WritesX s t d 0 ∧ RetiresAt s t (s.cpu.front.pc + 4))
    ∧ (s.cpu.front.mreq.getLsbD 0 = true → s.cpu.front.estat.getLsbD 0 = false → s.chosenToGo = false →
      s.migrationTarget (s.gangHolds s.cpu.id.die) = none →
      ∃ t, exec (.safept d a b) s = .next t ∧ WritesX s t d 2
        ∧ RetiresOnly s t { past s t 4 with mreq := t.cpu.front.mreq } ∧ t.cpu.back = s.cpu.back
        ∧ t.cpu.front.mreq.setWidth 32 = s.cpu.front.mreq.setWidth 32
        ∧ bitsOf t.cpu.front.mreq.toNat 47 32 = min 0xFFFF (bitsOf s.cpu.front.mreq.toNat 47 32 + 1))
    ∧ (∀ to_, s.cpu.front.mreq.getLsbD 0 = true → s.cpu.front.estat.getLsbD 0 = false → s.chosenToGo = false → Quiet s →
      MayMove s → s.migrationTarget (s.gangHolds s.cpu.id.die) = some to_ →
      ∃ t, exec (.safept d a b) s = .next t ∧ t.getX d = (if d.val = 0 then 0 else 1) ∧ t.cpu.front.mreq = 0
        ∧ t.cpu.id.core = to_.1 ∧ t.cpu.id.slot = to_.2 ∧ t.cpu.front.pc = s.cpu.front.pc + 4 ∧ SameMem s t))
  ∧ (∀ (d a b : Reg) (s : State), s.cpu.inflight = [] → CanTrap s → 2 ^ 28 ≤ s.getU b →
    ∃ t, exec (.safept d a b) s = .next t
      ∧ Traps s t 1 (BitVec.ofNat 64 (encode (.safept d a b))) (estatOf 0 0 15 0 false 4) 0)
  ∧ (∀ (d : Reg) (s : State), (∀ g, s.gang = some g → s.isNeeded g = false) →
    ∃ t, exec (.yield d) s = .next t ∧ WritesX s t d 0 ∧ RetiresAt s t (s.cpu.front.pc + 4))

/-- R123 to R132, R135 to R137, R140, R141, R157, R158: an element-wise instruction on registers writes its element function's
value at every active position, 0 at the others under .MZ and nothing there else; it retags the group, sets vstart to 0,
records flags in the mask of .XM, and changes no other plane, mask bit or register. -/
def Obligations.ElementwiseResults : Prop :=
  ∀ (i : Instr) (o : VOps) (form : EForm) (s : State) (kr : Tag), vecForm i = some (o, form) → Begins s →
    o.vd.val < 28 → FormFits s o form → form.kr s.cpu.front = .ok kr → Fits s o.vd s.cpu.front.rc kr →
    (i = .vcvtH o → o.vb.val < lanesEnd s) →
    ∃ t, exec i s = .next t ∧ RetiresVec s t ∧ Retags s t o.vd s.cpu.front.rc kr
      ∧ HoldsGroup s t o.vd kr s.cpu.front.rc s.cpu.front.vl (fun r c =>
          if form.select || activeAt s o r c then some (formAt s o form kr r c).1
          else if o.mod.val = 3 then some 0 else none)
      ∧ (if o.mod.val = 2 then
          HoldsMask s t (8 + o.pm.val) (fun r c => some (formAt s o form kr r c).2)
        else t.cpu.back.m = s.cpu.back.m)

/-- R138, R139: a compare on registers writes its bit at every active position of the mask vd, and its NaN or conversion flag in
the mask of .XM; no vector register and no tag changes. -/
def Obligations.CompareResults : Prop :=
  ∀ (i : Instr) (o : VOps) (form : EForm) (s : State) (kr : Tag), cmpForms i = some (o, form) → Begins s →
    FormFits s o form → form.kr s.cpu.front = .ok kr → (o.mod.val = 2 → o.vd.val ≠ 8 + o.pm.val) →
    ∃ t, exec i s = .next t ∧ RetiresVec s t ∧ t.cpu.front.vtag = s.cpu.front.vtag ∧ t.cpu.back.v = s.cpu.back.v
      ∧ (∀ r c, r < s.cpu.front.rc → c < s.cpu.front.vl →
          maskBit t.cpu.back.m o.vd.val r c =
            if activeAt s o r c then decide ((formAt s o form kr r c).1 ≠ 0)
            else if o.mod.val = 3 then false else maskBit s.cpu.back.m o.vd.val r c)
      ∧ (o.mod.val = 2 → ∀ r c, r < s.cpu.front.rc → c < s.cpu.front.vl →
          maskBit t.cpu.back.m (8 + o.pm.val) r c = (formAt s o form kr r c).2)
      ∧ (∀ j r c, r < 16 → c < 65536 →
          ((j ≠ o.vd.val ∧ ¬(o.mod.val = 2 ∧ j = 8 + o.pm.val)) ∨ s.cpu.front.rc ≤ r ∨ s.cpu.front.vl ≤ c) →
          maskBit t.cpu.back.m j r c = maskBit s.cpu.back.m j r c)

/-- R91, R131, R132: VADD, VSUB, VMUL, VMIN, VMAX and VDIV of two sources of one integer tag compute the exact integer; a result
outside the tag's range wraps, or with .SAT takes the nearer limit; a division by 0 gives all ones. -/
def Obligations.IntegerElements : Prop :=
  ∀ (i : Instr) (o : VOps) (op : Int → Int → Option Int) (s : State), intVec i = some (o, op) → Begins s →
    o.va.val < 28 → o.vb.val < 28 → o.vd.val < 28 → tagIsInt (vtagOf s o.va) = true → vtagOf s o.vb = vtagOf s o.va →
    tagValid (vtagOf s o.va) = true →
    Fits s o.va s.cpu.front.rc (vtagOf s o.va) → Fits s o.vb s.cpu.front.rc (vtagOf s o.va) →
    Fits s o.vd s.cpu.front.rc (vtagOf s o.va) →
    ∃ t, exec i s = .next t ∧ RetiresVec s t ∧ Retags s t o.vd s.cpu.front.rc (vtagOf s o.va)
      ∧ ∀ r c, r < s.cpu.front.rc → c < s.cpu.front.vl → activeAt s o r c = true →
        (let k := vtagOf s o.va
         let lim := rangeOf k
         match op (intOf k (el s o.va r c)) (intOf k (el s o.vb r c)) with
         | none => elemAt t o.vd k r c = 2 ^ tagW k - 1
         | some z =>
           (lim.1 ≤ z → z ≤ lim.2 → intOf k (elemAt t o.vd k r c) = z)
           ∧ (z < lim.1 → o.mod.val = 1 → intOf k (elemAt t o.vd k r c) = lim.1)
           ∧ (lim.2 < z → o.mod.val = 1 → intOf k (elemAt t o.vd k r c) = lim.2)
           ∧ ((z < lim.1 ∨ lim.2 < z) → o.mod.val ≠ 1 →
              (intOf k (elemAt t o.vd k r c) - z) % 2 ^ tagW k = 0))

/-- R42, R125, R254, R255, R387: the element-wise instructions and compares take their sources from registers or from the rows at
the heads of load queues, which lose one row for each row of the instruction, and write a register group, a mask, or rows at
the tail of a store queue under that queue's tag. That a form which reads its destination's old bits finds zeros at a store queue is the
model's reading (log 15, DEDUCED). -/
def Obligations.QueueOperands : Prop :=
  ∀ (i : Instr) (o : VOps) (form : EForm) (s : State) (kr : Tag), (vecForm i = some (o, form) ∨ cmpForms i = some (o, form)) →
    wellFormed i = true → Begins s → (i = .vcvtH o → 28 ≤ o.vb.val ∨ o.vb.val < lanesEnd s) →
    (∀ r ∈ formSources o form, SourceReady s r s.cpu.front.rc) →
    form.kr s.cpu.front = .ok kr → (form.toMask = false → o.vd.val < 28 → Fits s o.vd s.cpu.front.rc kr) →
    (form.toMask = false → 28 ≤ o.vd.val →
      s.cpu.front.rc * rowBytes (s.cpu.front.queueTag (o.vd.val - 26)) s.cpu.front.vl ≤ s.free (o.vd.val - 26)) →
    ∃ t, exec i s = .next t ∧ KeepsX s t ∧ SameRest s t
      ∧ t.cpu.front = { past s t 4 with
          vtag := t.cpu.front.vtag, vstart := 0, instret := s.cpu.front.instret + 1, cycle := t.cpu.front.cycle }
      ∧ t.cpu.back = { s.cpu.back with v := t.cpu.back.v, m := t.cpu.back.m, queues := t.cpu.back.queues }
      ∧ Consumes s t (formSources o form) (if s.cpu.front.vl = 0 then 0 else s.cpu.front.rc)
      ∧ (form.toMask = false → o.vd.val < 28 →
          Retags s t o.vd s.cpu.front.rc kr
            ∧ HoldsGroup s t o.vd kr s.cpu.front.rc s.cpu.front.vl (fun r c =>
              if form.select || activeAt s o r c then some (formFrom s o form kr r c).1
              else if o.mod.val = 3 then some 0 else none)
            ∧ ∀ q, 4 ≤ q → q < 6 → t.cpu.back.queue q = s.cpu.back.queue q)
      ∧ (form.toMask = false → 28 ≤ o.vd.val →
          t.cpu.back.v = s.cpu.back.v ∧ t.cpu.front.vtag = s.cpu.front.vtag
            ∧ ∀ q, 4 ≤ q → q < 6 → (t.cpu.back.queue q).rows.map (fun x => x.elems) =
              (s.cpu.back.queue q).rows.map (fun x => x.elems) ++
                (if q = o.vd.val - 26 ∧ s.cpu.front.vl ≠ 0 then
                  (List.range s.cpu.front.rc).map (fun r => (List.range s.cpu.front.vl).map (fun c =>
                    if form.select || activeAt s o r c then (formFrom s o form kr r c).1 else 0))
                else []))
      ∧ (form.toMask = true → t.cpu.back.v = s.cpu.back.v ∧ t.cpu.front.vtag = s.cpu.front.vtag
          ∧ ∀ r c, r < s.cpu.front.rc → c < s.cpu.front.vl →
            maskBit t.cpu.back.m o.vd.val r c =
              if activeAt s o r c then decide ((formFrom s o form kr r c).1 ≠ 0)
              else if o.mod.val = 3 then false else maskBit s.cpu.back.m o.vd.val r c)
      ∧ (o.mod.val = 2 → ∀ r c, r < s.cpu.front.rc → c < s.cpu.front.vl →
          maskBit t.cpu.back.m (8 + o.pm.val) r c = (formFrom s o form kr r c).2)
      ∧ (form.toMask = false → o.mod.val ≠ 2 → t.cpu.back.m = s.cpu.back.m)

/-- R84, R154, R155, R156: the rearrangements move elements of va, from registers or queue rows, to the columns their rules name;
VRESHP lays the elements out in rows of u(x[b]). The result has va's tag, and a NaN is the canonical one. Pattern 0 where an E8M0
result has no zero is the model's choice (log 34). -/
def Obligations.Rearrangements : Prop :=
  (∀ (i : Instr) (o : VOps) (val : Nat → Nat → Option Nat) (s : State), permForm i s = some (o, val) → Begins s →
    o.vd.val < 28 → SourceReady s o.va s.cpu.front.rc → tagValid (s.cpu.front.srcTag o.va) = true →
    (i = .vrgath o → SourceReady s o.vb s.cpu.front.rc ∧ tagIsInt (s.cpu.front.srcTag o.vb) = true) →
    Fits s o.vd s.cpu.front.rc (s.cpu.front.srcTag o.va) → s.cpu.front.vl ≤ s.vlmax →
    ∃ t, exec i s = .next t ∧ KeepsX s t
      ∧ RetiresOnly s t { past s t 4 with vtag := t.cpu.front.vtag, vstart := 0 }
      ∧ t.cpu.back = { s.cpu.back with v := t.cpu.back.v, queues := t.cpu.back.queues }
      ∧ Consumes s t (o.va :: (if i = .vrgath o then [o.vb] else [])) (if s.cpu.front.vl = 0 then 0 else s.cpu.front.rc)
      ∧ Retags s t o.vd s.cpu.front.rc (s.cpu.front.srcTag o.va)
      ∧ HoldsGroup s t o.vd (s.cpu.front.srcTag o.va) s.cpu.front.rc s.cpu.front.vl (fun r c =>
          (val r c).map (moved (s.cpu.front.srcTag o.va))))
  ∧ (∀ (o : VOps) (s : State) (rows : Nat), Begins s → o.vd.val < 28 → SourceReady s o.va s.cpu.front.rc →
    tagValid (s.cpu.front.srcTag o.va) = true → 0 < s.getU o.vb → s.getU o.vb ≤ s.vlmax → s.vlmax ≤ 65536 →
    s.cpu.front.vl ≤ s.vlmax →
    rows = (s.cpu.front.rc * s.cpu.front.vl + s.getU o.vb - 1) / s.getU o.vb →
    rows ≤ min 16 (128 / tagP (s.cpu.front.srcTag o.va)) → Fits s o.vd rows (s.cpu.front.srcTag o.va) →
    ∃ t, exec (.vreshp o) s = .next t ∧ KeepsX s t
      ∧ RetiresOnly s t { past s t 4 with vtag := t.cpu.front.vtag, vstart := 0 }
      ∧ t.cpu.back = { s.cpu.back with v := t.cpu.back.v, queues := t.cpu.back.queues }
      ∧ Consumes s t [o.va] (if s.cpu.front.vl = 0 then 0 else s.cpu.front.rc)
      ∧ Retags s t o.vd rows (s.cpu.front.srcTag o.va)
      ∧ HoldsGroup s t o.vd (s.cpu.front.srcTag o.va) rows (s.getU o.vb) (fun r c =>
          let e := r * s.getU o.vb + c
          if e < s.cpu.front.rc * s.cpu.front.vl then
            some (moved (s.cpu.front.srcTag o.va) (srcEl s o.va (e / s.cpu.front.vl) (e % s.cpu.front.vl))) else none))

/-- R157, R142: VLUT replaces each active element of va by the element of row 0 of vb at that column; VRETAG reads va under the tag
of vb and changes no pattern. -/
def Obligations.TablesAndRetags : Prop :=
  (∀ (o : VOps) (s : State), Begins s → o.va.val < 28 → o.vb.val < 28 → o.vd.val < 28 → tagIsInt (vtagOf s o.va) = true →
    tagE8 (vtagOf s o.vb) = false → tagValid (vtagOf s o.vb) = true → Fits s o.va s.cpu.front.rc (vtagOf s o.va) →
    Fits s o.vb (min s.cpu.front.rc 1) (vtagOf s o.vb) → Fits s o.vd s.cpu.front.rc (vtagOf s o.vb) →
    ∃ t, exec (.vlut o) s = .next t ∧ RetiresVec s t ∧ Retags s t o.vd s.cpu.front.rc (vtagOf s o.vb)
      ∧ HoldsGroup s t o.vd (vtagOf s o.vb) s.cpu.front.rc s.cpu.front.vl (fun r c =>
          if activeAt s o r c then some (moved (vtagOf s o.vb) (colOf s o.vb 0 (intOf (vtagOf s o.va) (el s o.va r c))))
          else if o.mod.val = 3 then some 0 else none)
      ∧ (if o.mod.val = 2 then HoldsMask s t (8 + o.pm.val) (fun _ _ => some false) else t.cpu.back.m = s.cpu.back.m))
  ∧ (∀ (o : VOps) (s : State), Begins s → o.va.val < 28 → o.vb.val < lanesEnd s → o.vd.val < 28 → tagValid (vtagOf s o.vb) = true →
    Fits s o.va s.cpu.front.rc (vtagOf s o.vb) → Fits s o.vd s.cpu.front.rc (vtagOf s o.vb) →
    ∃ t, exec (.vretag o) s = .next t ∧ RetiresVec s t ∧ Retags s t o.vd s.cpu.front.rc (vtagOf s o.vb)
      ∧ t.cpu.back.m = s.cpu.back.m
      ∧ HoldsGroup s t o.vd (vtagOf s o.vb) s.cpu.front.rc s.cpu.front.vl (fun r c =>
          if pmAt s o r c then some (elemAt s o.va (vtagOf s o.vb) r c) else if o.mod.val = 3 then some 0 else none))

/-- R143 to R148: a row reduction writes one element of vd's tag at (r, 0) of each row, of the active elements of va and the carry
of vb, and with .XM its flag in the mask; a row of no elements writes nothing. R150, R151, R152: VSCAN leaves the prefix sums of each row, VREDCOL one row of column sums, whole and at once. -/
def Obligations.RowReductions : Prop :=
  (∀ (i : Instr) (o : VOps) (sc : Bool) (ok : Tag → Tag → Tag → Bool) (g : RedFn) (s : State),
    redForm i = some (o, sc, ok, g) → Begins s → o.vd.val < 28 →
    ok (s.cpu.front.srcTag o.va) (s.cpu.front.srcTag o.vb) (vtagOf s o.vd) = true →
    SourceReady s o.va s.cpu.front.rc → SourceReady s o.vb s.cpu.front.rc → Fits s o.vd s.cpu.front.rc (vtagOf s o.vd) →
    tagValid (vtagOf s o.vd) = true →
    let act (r c : Nat) : Bool := pmAt s o r c || (!sc && decide (o.mod.val = 2))
    let z (r : Nat) : Nat × Bool := g (s.cpu.front.srcTag o.va) (s.cpu.front.srcTag o.vb) (vtagOf s o.vd) s.cpu.front.rmode.toNat
      (!sc && decide (o.mod.val = 1)) (srcRowOf s o.va r) ((List.range s.cpu.front.vl).map (act r)) (srcRowOf s o.vb r)
      (el s o.vd r 0)
    ∃ t, exec i s = .next t ∧ KeepsX s t
      ∧ RetiresOnly s t { past s t 4 with vtag := t.cpu.front.vtag, vstart := 0 }
      ∧ t.cpu.back = { s.cpu.back with v := t.cpu.back.v, m := t.cpu.back.m, queues := t.cpu.back.queues }
      ∧ Consumes s t [o.va, o.vb] (if s.cpu.front.vl = 0 then 0 else s.cpu.front.rc)
      ∧ Retags s t o.vd s.cpu.front.rc (vtagOf s o.vd)
      ∧ HoldsGroup s t o.vd (vtagOf s o.vd) s.cpu.front.rc (min 1 s.cpu.front.vl) (fun r _ => some (z r).1)
      ∧ (if sc = false ∧ o.mod.val = 2 then
          HoldsMask s t (8 + o.pm.val) (fun r c => if c = 0 then some (z r).2 else none)
        else t.cpu.back.m = s.cpu.back.m))
  ∧ (∀ (o : VOps) (s : State), Begins s → o.vd.val < 28 →
    sumTags (s.cpu.front.srcTag o.va) (s.cpu.front.srcTag o.vb) (vtagOf s o.vd) = true → SourceReady s o.va s.cpu.front.rc →
    tagValid (vtagOf s o.vd) = true →
    (SourceReady s o.vb s.cpu.front.rc → Fits s o.vd s.cpu.front.rc (vtagOf s o.vd) →
      ∃ t, exec (.vscan o) s = .next t ∧ KeepsX s t
        ∧ RetiresOnly s t { past s t 4 with vtag := t.cpu.front.vtag, vstart := 0 }
        ∧ t.cpu.back = { s.cpu.back with v := t.cpu.back.v, m := t.cpu.back.m, queues := t.cpu.back.queues }
        ∧ Consumes s t [o.va, o.vb] (if s.cpu.front.vl = 0 then 0 else s.cpu.front.rc)
        ∧ Retags s t o.vd s.cpu.front.rc (vtagOf s o.vd)
        ∧ HoldsGroup s t o.vd (vtagOf s o.vd) s.cpu.front.rc s.cpu.front.vl (fun r c =>
            (scanRow o s.cpu.front s.cpu.back.v s.cpu.back.m s.cpu.back r r r).vals.getD c none)
        ∧ (o.mod.val ≠ 2 → t.cpu.back.m = s.cpu.back.m))
    ∧ (SourceReady s o.vb (min s.cpu.front.rc 1) → Fits s o.vd (min s.cpu.front.rc 1) (vtagOf s o.vd) →
      ∃ t, exec (.vredcol o) s = .next t ∧ KeepsX s t
        ∧ RetiresOnly s t { past s t 4 with vtag := t.cpu.front.vtag, vstart := 0 }
        ∧ t.cpu.back = { s.cpu.back with v := t.cpu.back.v, m := t.cpu.back.m, queues := t.cpu.back.queues }
        ∧ (∀ q, q < 4 → Loses s t q
            (if s.cpu.front.vl = 0 then 0 else if o.va.val = 28 + q then s.cpu.front.rc
              else if o.vb.val = 28 + q then min s.cpu.front.rc 1 else 0))
        ∧ Retags s t o.vd (min s.cpu.front.rc 1) (vtagOf s o.vd)
        ∧ HoldsGroup s t o.vd (vtagOf s o.vd) (min s.cpu.front.rc 1) s.cpu.front.vl (fun _ c =>
            (colRow o s.cpu.front s.cpu.back.v s.cpu.back.m s.cpu.back).vals.getD c none)
        ∧ (o.mod.val ≠ 2 → t.cpu.back.m = s.cpu.back.m)))

/-- R145, R146, R147, R150, R151: reductions, scans and column sums of integers leave the exact integer, written under vd's tag. -/
def Obligations.IntegerReductions : Prop :=
  ∀ (i : Instr) (o : VOps) (rows n : Nat) (val : Nat → Nat → Option Int) (s : State),
    intReduction i s = some (o, rows, n, val) → Begins s → o.va.val < 28 → o.vb.val < 28 → o.vd.val < 28 →
    tagIsInt (vtagOf s o.va) = true → tagIsInt (vtagOf s o.vd) = true → vtagOf s o.vb = vtagOf s o.vd →
    tagValid (vtagOf s o.va) = true → tagValid (vtagOf s o.vd) = true → (o.mod.val = 1 → i = .vredsum o ∨ i = .vscan o ∨ i = .vredcol o) →
    Fits s o.va s.cpu.front.rc (vtagOf s o.va) → Fits s o.vb rows (vtagOf s o.vd) → Fits s o.vd rows (vtagOf s o.vd) →
    ∃ t, exec i s = .next t ∧ RetiresVec s t
      ∧ ∀ r c z, r < rows → c < n → val r c = some z →
        WritesInt (vtagOf s o.vd) (decide (o.mod.val = 1)) z (elemAt t o.vd (vtagOf s o.vd) r c)

/-- R159: the mask instructions write their bit at every active position below the shape, 0 at the others under .MZ; nothing else
changes. -/
def Obligations.MaskResults : Prop :=
  ∀ (i : Instr) (o : VOps) (g : Bool → Bool → Bool) (s : State), maskFn i = some (o, g) → Begins s →
    ∃ t, exec i s = .next t ∧ RetiresVec s t ∧ t.cpu.front.vtag = s.cpu.front.vtag ∧ t.cpu.back.v = s.cpu.back.v
      ∧ HoldsMask s t o.vd.val (fun r c =>
          if pmAt s o r c then some (g (maskBit s.cpu.back.m o.va.val r c) (maskBit s.cpu.back.m o.vb.val r c))
          else if o.mod.val = 3 then some false else none)

/-- R159 to R161: MPOPC counts and MFIRST finds the active bits; VMVX and MMVX read an element and 64 mask bits at a linear index
into x[d]; VMVS and MMVS write them from x[a]. R162, R163: QSTAT returns a count of free bytes and of filled bytes that rows on their way may have changed; QDROP takes
u(x[b]) rows of older loads from the head, under a grant of zero too (log 34: the model's choice); VMVX of a queue head takes rc rows (log
17, DEDUCED). -/
def Obligations.LanesToScalarsAndBack : Prop :=
  (∀ (o : VOps) (s : State), Begins s →
    (∃ t, exec (.mpopc o) s = .next t ∧ RetiresX s t o.vd
      (BitVec.ofNat 64 ((List.range (s.cpu.front.rc * s.cpu.front.vl)).countP (countedBit s o))))
    ∧ (∃ t, exec (.mfirst o) s = .next t ∧ RetiresX s t o.vd
      (match (List.range (s.cpu.front.rc * s.cpu.front.vl)).find? (countedBit s o) with
        | some k => BitVec.ofNat 64 k
        | none => BitVec.allOnes 64))
    ∧ (SourceReady s o.va s.cpu.front.rc → s.cpu.front.vl ≤ s.vlmax →
      ∃ t, exec (.vmvx o) s = .next t
        ∧ WritesX s t o.vd
          (let k := s.getU o.vb
           let p := srcEl s o.va (k / s.cpu.front.vl) (k % s.cpu.front.vl)
           let tag := s.cpu.front.srcTag o.va
           if s.cpu.front.rc * s.cpu.front.vl ≤ k then 0
           else if tagIsInt tag then BitVec.ofInt 64 (intOf tag p)
           else BitVec.ofNat 64 (fp32.round 0 (tval tag p)).1)
        ∧ RetiresOnly s t (past s t 4) ∧ t.cpu.back = { s.cpu.back with queues := t.cpu.back.queues }
        ∧ Consumes s t [o.va] (if s.cpu.front.vl = 0 then 0 else s.cpu.front.rc))
    ∧ (o.vd.val < 28 → tagValid (vtagOf s o.vd) = true →
      Fits s o.vd s.cpu.front.rc (vtagOf s o.vd) →
      ∃ t, exec (.vmvs o) s = .next t ∧ RetiresVec s t ∧ t.cpu.back.m = s.cpu.back.m
        ∧ Retags s t o.vd s.cpu.front.rc (vtagOf s o.vd)
        ∧ HoldsGroup s t o.vd (vtagOf s o.vd) s.cpu.front.rc s.cpu.front.vl (fun r c =>
            if r * s.cpu.front.vl + c = s.getU o.vb then
              some (convX (vtagOf s o.vd) s.cpu.front.rmode.toNat (decide (o.mod.val = 1)) (s.getX o.va)).1 else none))
    ∧ (∃ t v, exec (.mmvx o) s = .next t ∧ RetiresX s t o.vd v
      ∧ ∀ j, j < 64 → v.getLsbD j =
        (decide (s.getU o.vb + j < s.cpu.front.rc * s.cpu.front.vl)
          && maskBit s.cpu.back.m o.va.val ((s.getU o.vb + j) / s.cpu.front.vl) ((s.getU o.vb + j) % s.cpu.front.vl)))
    ∧ (∃ t, exec (.mmvs o) s = .next t ∧ RetiresVec s t ∧ t.cpu.front.vtag = s.cpu.front.vtag ∧ t.cpu.back.v = s.cpu.back.v
      ∧ HoldsMask s t o.vd.val (fun r c =>
          let k := r * s.cpu.front.vl + c
          if s.getU o.vb ≤ k ∧ k < s.getU o.vb + 64 then some ((s.getX o.va).getLsbD (k - s.getU o.vb)) else none)))
  ∧ ((∀ (o : VOps) (s : State), s.cpu.inflight = [] → o.va.val < 6 → s.fill o.va.val ≤ s.qcap →
    ∃ t free fill, exec (.qstat o) s = .next t ∧ RetiresX s t o.vd (BitVec.ofNat 64 (free * 2 ^ 32 + fill))
      ∧ free + fill ≤ s.qcap ∧ (o.va.val < 4 → s.fill o.va.val ≤ fill)
      ∧ (4 ≤ o.va.val → fill ≤ s.fill o.va.val ∧ free = s.qcap - fill))
  ∧ (∀ (o : VOps) (s : State), Begins s → o.va.val < 4 → s.getU o.vb ≤ (s.cpu.back.queue o.va.val).rows.length →
    (∀ r ∈ (s.cpu.back.queue o.va.val).rows, r.by_ < s.cpu.front.instret.toNat) →
    ∃ t, exec (.qdrop o) s = .next t ∧ KeepsX s t ∧ RetiresOnly s t (past s t 4)
      ∧ t.cpu.back = { s.cpu.back with queues := t.cpu.back.queues } ∧ Loses s t o.va.val (s.getU o.vb)
      ∧ ∀ k, k < 6 → k ≠ o.va.val → t.cpu.back.queue k = s.cpu.back.queue k))

/-- R235 to R237, R240, R242, R248: a plain load whose elements all stand in readable memory appends one queue row for each tile row,
each element read at its address and converted to the queue's tag; the indexed forms take one row of sq1 for each. R243, R235, R240: VLD.SEG appends one queue row for each field of each row of records, each field an integer of its bits under
the queue's tag, saturated. -/
def Obligations.PlainLoadsDeliver : Prop :=
  (∀ (i : Instr) (o : VMOps) (s : State) (val : Nat → Nat → Nat), plainLoads i = some o →
    MayDeliver s o.q.val s.cpu.front.rc s.cpu.front.vl → FormTags i s o.q.val o →
    (∀ r c, r < s.cpu.front.rc → c < s.cpu.front.vl → loadedElem i s o r c = some (val r c)) →
    ∃ t, exec i s = .next t
      ∧ Delivers s t { past s t 4 with x := s.cpu.front.x, vstart := 0 } o.q.val
          (if indexed i then tileRows s else 0)
          ((List.range (tileRows s)).map (fun r => (List.range s.cpu.front.vl).map (val r))))
  ∧ (∀ (o : VMOps) (s : State) (val : Nat → Nat → Nat → Nat),
    MayDeliver s o.q.val (s.cpu.front.rc * (o.sub.val + 1)) s.cpu.front.vl →
    tagIsInt (s.cpu.front.queueTag o.q.val) = true → tagValid (s.cpu.front.queueTag o.q.val) = true →
    recordWidth s o % 8 = 0 →
    (∀ r c k, r < s.cpu.front.rc → c < s.cpu.front.vl → k ≤ o.sub.val →
      ∃ l, memoryAt s ((List.range (recordWidth s o / 8)).map (fun n => (recordAt s o r c + n) % 2 ^ 64)) = some l
        ∧ (let t := s.cpu.front.queueTag o.q.val
           let fd := (recordFields s o).getD k (1, 0)
           let z := fieldInt t fd.1 (leNat l / 2 ^ fd.2)
           val r k c = ((max (rangeOf t).1 (min (rangeOf t).2 z)) % 2 ^ tagW t).toNat)) →
    ∃ t, exec (.vldSeg o) s = .next t
      ∧ Delivers s t { past s t 4 with x := s.cpu.front.x, vstart := 0 } o.q.val 0
          ((List.range (tileRows s * (o.sub.val + 1))).map (fun n =>
            (List.range s.cpu.front.vl).map (val (n / (o.sub.val + 1)) (n % (o.sub.val + 1))))))

/-- R245, R246, R186, R336 to R338, R178, R179: VLD.C delivers the elements of its stream and moves x[a] and x[b] past them, VLD.FF
delivers the tile before the first fault and sets ffi, vl and rc, VTREE delivers sums and fingerprints, MLDQ elements of the
scratchpad. -/
def Obligations.OtherLoadsDeliver : Prop :=
  (∀ (o : VMOps) (s : State) (val : Nat → Nat → Nat), MayDeliver s o.q.val s.cpu.front.rc s.cpu.front.vl →
    s.getU o.xb < 4096 →
    (∀ r, r < s.cpu.front.rc → ∃ pas, s.readStream (s.cpu.front.queueTag o.q.val) (s.vmBase o) none s.cpu.front.vl
      (s.getU o.xb + r * s.cpu.front.vl) = ⟨(List.range s.cpu.front.vl).map (fun c => [val r c]), none, pas, []⟩) →
    (4096 ≤ s.getU o.xb + s.cpu.front.rc * s.cpu.front.vl →
      ∃ c, s.scout ((s.getU o.xb + s.cpu.front.rc * s.cpu.front.vl) / 4096 - 1) (s.vmBase o) [] = .ok c) →
    ∃ t f, exec (.vldC o) s = .next t
      ∧ (let e := s.getU o.xb + s.cpu.front.rc * s.cpu.front.vl
         let a := if e < 4096 then s.vmBase o
           else match s.scout (e / 4096 - 1) (s.vmBase o) [] with
             | .ok c => (c.addr + 520 + c.paylen) % 2 ^ 64
             | .error _ => 0
         f = ((s.cpu.front.setX o.xa (BitVec.ofNat 64 a)).setX o.xb (BitVec.ofNat 64 (e % 4096))))
      ∧ Delivers s t { f with pc := s.cpu.front.pc + 4, vstart := 0 } o.q.val 0
          ((List.range (tileRows s)).map (fun r => (List.range s.cpu.front.vl).map (val r))))
  ∧ (∀ (o : VMOps) (s : State) (first : Option Nat) (val : Nat → Nat), MayDeliver s o.q.val s.cpu.front.rc s.cpu.front.vl →
    s.cpu.due = none →
    tagValid (s.cpu.front.queueTag o.q.val) = true → ¬(tagE8 (s.cpu.front.queueTag o.q.val) = true ∧ o.sub.val ≠ 0) →
    (first = none → ∀ k, k < s.cpu.front.rc * s.cpu.front.vl → (memoryAt s (firstBytes s o k)).isSome = true) →
    (∀ n, first = some n → 0 < n ∧ n < s.cpu.front.rc * s.cpu.front.vl
      ∧ (∃ e, s.accessBytes s.cpu.ctx .load false (firstBytes s o n) = .error e ∧ e.cause = .loadFault)
      ∧ ∀ k, k < n → (memoryAt s (firstBytes s o k)).isSome = true) →
    (∀ k l, memoryAt s (firstBytes s o k) = some l →
      let t := s.cpu.front.queueTag o.q.val
      let wm := memWidth s o.q.val (memTag o.sub.val)
      let p := leNat l / 2 ^ (k * wm % 8) % 2 ^ wm
      val k = match memTag o.sub.val with
        | none => p % 2 ^ tagW t
        | some m => (convWrite t s.cpu.front.rmode.toNat true (tagIsInt m) (tval m p)).1) →
    let z := settled s first
    ∃ t, exec (.vldFF o) s = .next t
      ∧ Delivers s t { past s t 4 with x := s.cpu.front.x, vstart := 0, ffi := z.1, vl := z.2.1, rc := z.2.2 } o.q.val 0
          (if z.2.1 = 0 then []
            else (List.range z.2.2).map (fun r => (List.range z.2.1).map (fun c => val (r * z.2.1 + c)))))
  ∧ (∀ (o : VMOps) (s : State) (m : Nat) (f : Forest) (val : Nat → Nat → List Nat), s.cpu.due = none →
    MayDeliver s o.q.val (3 * s.cpu.front.rc) s.cpu.front.vl →
    (s.cpu.front.queueTag o.q.val = tagInt 32 ∨ s.cpu.front.queueTag o.q.val = tagUint 32) → s.forest (s.vmBase o) = .ok m →
    forestNoted (s.vmBase o) m = some f →
    (∀ r, r < s.cpu.front.rc → s.samples f s.cpu.front.vl (s.getU o.xb + r * s.cpu.front.vl)
      = ⟨(List.range s.cpu.front.vl).map (val r), none, [], []⟩) →
    ∃ t, exec (.vtree o) s = .next t
      ∧ Delivers s t { past s t 4 with x := s.cpu.front.x, vstart := 0 } o.q.val 0
          ((List.range (3 * tileRows s)).map (fun n =>
            (List.range s.cpu.front.vl).map (fun c => (val (n / 3) c).getD (n % 3) 0))))
  ∧ (∀ (o : MldqOps) (s : State), MayDeliver s o.q.val (o.k.val * o.t.val) o.n.val → Quiet s →
    (tagP (s.cpu.front.queueTag o.q.val) < 8 → (BitVec.ofNat 32 (s.getU o.b)).toInt = 1) →
    (∀ u i, u < o.k.val * o.t.val → i < o.n.val → ∀ a ∈ (scratchAt s o u i).1, 0 ≤ a ∧ a < (s.spadSize : Int)) →
    ∃ t, exec (.mldq o) s = .next t
      ∧ Delivers s t { past s t 8 with x := s.cpu.front.x, vstart := 0 } o.q.val 0
          (if o.n.val = 0 then []
            else (List.range (o.k.val * o.t.val)).map (fun u => (List.range o.n.val).map (fun i =>
              let b := scratchAt s o u i
              leNat (b.1.map (fun a => s.cpu.back.spadByte (swz o.code.val a.toNat))) / 2 ^ b.2
                % 2 ^ tagP (s.cpu.front.queueTag o.q.val)))))

/-- R235 to R239, R241, R242, R243: a store whose elements can all be stored, and do not meet, writes each element's bits at its
address and no other bit of memory; one queue row leaves its queue for each tile row, or for each field of it. -/
def Obligations.VectorStores : Prop :=
  (∀ (i : Instr) (o : VMOps) (s : State), plainStores i = some o → wellFormed i = true → MayStore s (4 + o.q.val) →
    FormTags i s (4 + o.q.val) o → s.cpu.front.rc ≤ (rowsOf s (4 + o.q.val)).length →
    (let l := (List.range s.cpu.front.rc).flatMap (fun r => (List.range s.cpu.front.vl).map (storedPiece i s o r))
     Storable s l →
      ∃ t, exec i s = .next t ∧ Stored s t l
        ∧ RetiresDrain s t { past s t 4 with x := s.cpu.front.x, vstart := 0 } (4 + o.q.val) (tileRows s)
            (if indexed i then tileRows s else 0)))
  ∧ (∀ (o : VMOps) (s : State), o.q.val < 2 → MayStore s (4 + o.q.val) →
    tagIsInt (s.cpu.front.queueTag (4 + o.q.val)) = true → recordWidth s o % 8 = 0 →
    s.cpu.front.rc * (o.sub.val + 1) ≤ (rowsOf s (4 + o.q.val)).length →
    (let l := (List.range s.cpu.front.rc).flatMap (fun r => (List.range (o.sub.val + 1)).flatMap (fun k =>
        (List.range s.cpu.front.vl).map (fun c => recordPiece s o r c k)))
     (∀ r c, r < s.cpu.front.rc → c < s.cpu.front.vl → ∃ pas, s.accessBytes s.cpu.ctx .store false
        ((List.range (recordWidth s o / 8)).map (fun n => (recordAt s o r c + n) % 2 ^ 64)) = .ok pas) →
     Storable s l →
      ∃ t, exec (.vstSeg o) s = .next t ∧ Stored s t l
        ∧ RetiresDrain s t { past s t 4 with x := s.cpu.front.x, vstart := 0 } (4 + o.q.val)
            (tileRows s * (o.sub.val + 1)) 0))
  ∧ (∀ (o : VMOps) (s : State), o.q.val < 2 → MayStore s (4 + o.q.val) →
    streamTag (s.cpu.front.queueTag (4 + o.q.val)) = true → s.cpu.front.rc ≤ (rowsOf s (4 + o.q.val)).length →
    (let w := streamBytes s o
     let l : List Piece := w.mapIdx (fun n b => ⟨[(s.vmBase o + n) % 2 ^ 64], 0, 8, b.toNat⟩)
     Storable s l →
      ∃ t, exec (.vstC o) s = .next t ∧ Stored s t l
        ∧ RetiresDrain s t
            { (s.cpu.front.setX o.xa (BitVec.ofNat 64 (s.vmBase o + w.length))) with pc := s.cpu.front.pc + 4, vstart := 0 }
            (4 + o.q.val) (tileRows s) 0))

/-- R259, R260, R264 to R266: CPY.G and CPY.P of a sound descriptor fork with a grant of whole rows, as many as the window holds and at
least one into an empty channel, or with none; CPY.IX with one row of sq1 or none. x[d] receives the grant. R260, R267, R268: CPY.X forks with a grant of columns, all of them where the window holds them, else whole groups of 4,096; the
operation carries the planes of its source registers as they stand, to the hart at the address in x[b]. R259, R264: a misplaced operand,
a descriptor that breaks a limit and a footprint that leaves the scratchpad take their faults. -/
def Obligations.BoxCopiesFork : Prop :=
  ((∀ (i : Instr) (form : Nat) (d a b : Reg) (s : State) (w : List Nat) (h : Nat), boxForm i = some (form, d, a, b) →
    s.cpu.inflight = [] → s.inDup = false → descriptorAt s a = some w → BoxOk form w h → s.getU b / 8 % 2 ^ 29 = 0 →
    BoxFits s w b h → (form = 1 → ∀ k, k < 8 → k ≠ s.getU b % 8 → (chanOf s k).error = false) →
    let c := s.getU b % 8
    let ch := chanOf s c
    let n := w.getD 2 0 % 2 ^ 32
    let g := min h ((262144 - outOf ch) / (n * 2 ^ (w.getD 5 0 % 4)))
    let rows := if ch.error = true ∨ ch.nops = 15 then 0 else if outOf ch = 0 then max g 1 else g
    ∃ t, exec i s = .next t ∧ t.cpu.back.queues = s.cpu.back.queues
      ∧ Forks s t d (rows * n) c (granted ch (rows * n) (boxOp s form (rows * n) w b [])))
  ∧ (∀ (d a b : Reg) (s : State) (w : List Nat), s.cpu.inflight = [] → s.inDup = false →
    tagIsInt (s.cpu.front.queueTag 5) = true → descriptorAt s a = some w → BoxOk 3 w 1 → s.getU b / 8 % 2 ^ 29 = 0 →
    (s.cpu.front.vl ≠ 0 → BoxFits s w b s.cpu.front.vl) →
    let c := s.getU b % 8
    let ch := chanOf s c
    let n := w.getD 2 0 % 2 ^ 32
    ((ch.error = true ∨ ch.nops = 15 ∨ s.cpu.front.vl = 0) →
      ∃ t, exec (.cpyIX d a b) s = .next t ∧ Forks s t d 0 c ch ∧ t.cpu.back.queues = s.cpu.back.queues)
    ∧ (∀ row rest, ch.error = false → ch.nops ≠ 15 → s.cpu.front.vl ≠ 0 → rowsOf s 5 = row :: rest →
      (outOf ch = 0 ∨ s.cpu.front.vl * n * 2 ^ (w.getD 5 0 % 4) + outOf ch ≤ 262144) →
      ∃ t, exec (.cpyIX d a b) s = .next t ∧ rowsOf t 5 = rest
        ∧ (∀ k, k < 5 → t.cpu.back.queue k = s.cpu.back.queue k)
        ∧ Forks s t d (s.cpu.front.vl * n) c (granted ch (s.cpu.front.vl * n) (boxOp s 3 (s.cpu.front.vl * n) w b
            ((List.range s.cpu.front.vl).map (fun k => tint (s.cpu.front.queueTag 5) (row.getD k 0))))))))
  ∧ (∀ (d a b : Reg) (s : State) (h : Hart), s.cpu.inflight = [] → s.inDup = false → s.cpu.lanes = none →
    (let xa := s.getU a
     let n := xa / 2 ^ 32
     let c := xa / 2 ^ 14 % 8
     let g := xa / 2 ^ 10 % 8 + 1
     let vdst := xa / 2 ^ 5 % 32
     let vsrc := xa % 32
     let ch := chanOf s c
     let room := 262144 - outOf ch
     let cols := if ch.error = true ∨ ch.nops = 15 ∨ n = 0 then 0
       else if n * g * 2 ≤ room then n
       else if outOf ch = 0 then max (room / (g * 8192) * 4096) (min n 4096) else room / (g * 8192) * 4096
     xa / 2 ^ 17 % 2 ^ 15 = 0 → xa / 2 ^ 13 % 2 = 0 → vsrc ≤ 27 → vdst ≤ 27 →
     copyGroupBad s.cpu.front vsrc g = false → n ≤ s.vlmax →
     s.getU b / 2 ^ 14 = 0 → s.getU b / 2 ^ 11 % 2 = 0 → s.getU b / 4 % 4 = 0 → s.getU b % 4 ≠ 3 →
     s.hartAt (s.getU b) = some h → copyGroupBad h.front vdst g = false → n ≤ s.vlmaxOf h.id →
     ∃ t o, exec (.cpyX d a b) s = .next t ∧ t.cpu.back.queues = s.cpu.back.queues ∧ t.pkg = s.pkg
       ∧ t.cpu.back.strip = s.cpu.back.strip
       ∧ Forks s t d cols c (granted ch cols o)
       ∧ o.form = 2 ∧ o.units = g * cols ∧ o.at_ = 0 ∧ o.dst = h.id.uid ∧ o.vdst = vdst ∧ o.regs = g ∧ o.cols = cols
       ∧ ∀ j k, j < g → k < cols → (o.planes.getD (j * cols + k) 0).toNat = planeWord s.cpu.back.v (vsrc + j) k))
  ∧ (∀ (i : Instr) (form : Nat) (d a b : Reg) (s : State),
    (boxForm i = some (form, d, a, b) ∨ (i = .cpyIX d a b ∧ form = 3 ∧ tagIsInt (s.cpu.front.queueTag 5) = true)) →
    s.cpu.inflight = [] → CanTrap s →
    (s.getU b / 8 % 2 ^ 29 = 0 → s.getU a % 8 ≠ 0 →
      ∃ t, exec i s = .next t ∧ Traps s t 7 (s.getX a) (estatOf 4 0 15 1 false 4) 0)
    ∧ (∀ w, descriptorAt s a = some w →
      (s.getU b / 8 % 2 ^ 29 ≠ 0 → ∃ t, exec i s = .next t ∧ Traps s t 7 (s.getX b) (estatOf 4 0 15 1 false 4) 0)
      ∧ (s.getU b / 8 % 2 ^ 29 = 0 → (∀ h, ¬BoxOk form w h) →
        ∃ t, exec i s = .next t ∧ Traps s t 7 (s.getX a) (estatOf 4 0 15 1 false 4) 0)
      ∧ (∀ h, s.getU b / 8 % 2 ^ 29 = 0 → BoxOk form w h → (form = 3 → s.cpu.front.vl ≠ 0) →
        ¬BoxFits s w b (if form = 3 then s.cpu.front.vl else h) →
        ∃ t, exec i s = .next t ∧ Traps s t (if form = 1 then 7 else 8) (BitVec.ofNat 64 (max (s.getU b / 2 ^ 32) s.spadSize))
          (estatOf 2 0 15 1 false 4) 0)))

/-- R263, R270 to R273: CPY.WAIT returns cwm once it has reached its target, and takes the fault a stopped channel holds; CPY.STAT
returns an item; CPY.ABORT empties the channel and returns cwm, CPY.FILL sets cfill and returns the old one. -/
def Obligations.ChannelControls : Prop :=
  ∀ (d b sel : Reg) (c : Fin 8) (s : State), s.cpu.inflight = [] →
    (min (s.getU b) (chanOf s c.val).cissued.toNat ≤ (chanOf s c.val).cwm.toNat →
      ∃ t, exec (.cpyWait d c b) s = .next t ∧ WritesX s t d (chanOf s c.val).cwm ∧ RetiresOnly s t (past s t 4) ∧ SameBack s t)
    ∧ ((chanOf s c.val).cwm.toNat < min (s.getU b) (chanOf s c.val).cissued.toNat → (chanOf s c.val).error = true →
      7 ≤ (chanOf s c.val).fcause → (chanOf s c.val).fcause ≤ 10 → CanTrap s →
      ∃ t, exec (.cpyWait d c b) s = .next t
        ∧ Traps s t (chanOf s c.val).fcause (chanOf s c.val).feval
            (estatOf (chanOf s c.val).fsub (chanOf s c.val).fkind 15 3 false 4) 0)
    ∧ (∀ v, chanItem s (chanOf s c.val) sel.val = some v →
      ∃ t, exec (.cpyStat d c sel) s = .next t ∧ RetiresX s t d v)
    ∧ (s.cpu.status = .running → ∃ t, exec (.cpyAbort d c) s = .next t ∧ WritesX s t d (chanOf s c.val).cwm
      ∧ t.cpu.front = { past s t 4 with instret := s.cpu.front.instret + 1, cycle := t.cpu.front.cycle }
      ∧ chanOf t c.val = { chanOf s c.val with
          cissued := (chanOf s c.val).cwm, nops := 0, fcause := 0, fsub := 0, feval := 0, fkind := 0, error := false
          aborting := false, ops := [] }
      ∧ (∀ k, k < 8 → k ≠ c.val → chanOf t k = chanOf s k)
      ∧ (((chanOf s c.val).ops = [] ∨ (chanOf s c.val).error = true) →
          SameRest s t ∧ t.cpu.back = { s.cpu.back with chans := t.cpu.back.chans }))
    ∧ (∃ t, exec (.cpyFill d c b) s = .next t
      ∧ Forks s t d (chanOf s c.val).cfill.toNat c.val { chanOf s c.val with cfill := s.getX b }
      ∧ t.cpu.back.queues = s.cpu.back.queues ∧ t.pkg = s.pkg ∧ t.cpu.back.strip = s.cpu.back.strip)

/-- R170 to R172, R169: MZERO clears one tile; MOPA and MOPS add to and subtract from every element inside the grant the sum of rc
products of operand elements, count the steps and fix the tile's operand tags. R100, R174: MBLK adds the scaled integers of a za tile into a zf tile, one rounding an element, NaN where a scale is NaN, and
clears the za tile unless it keeps it. -/
def Obligations.OuterProducts : Prop :=
  ((∀ (tile : Fin 4) (s : State), s.cpu.inflight = [] → (tile.val < 2 → s.cpu.front.mmode = true) →
    ∃ t, exec (.mzero tile) s = .next t ∧ KeepsX s t ∧ RetiresTile s t 8 ∧ t.cpu.front.vtag = s.cpu.front.vtag
      ∧ t.cpu.back.v = s.cpu.back.v ∧ t.cpu.back.queues = s.cpu.back.queues
      ∧ HoldsTiles t (fun k i j => if k = tile.val then 0 else zaAt s k i j) (fun k i j => if k + 2 = tile.val then 0 else zfAt s k i j)
      ∧ ∀ k, k < 2 → stepsOf t k = (if k = tile.val then 0 else stepsOf s k)
          ∧ kindsOf t k = (if k = tile.val then none else kindsOf s k))
  ∧ (∀ (i : Instr) (za : Fin 2) (va vb : Reg) (neg : Bool) (s : State), outerForm i = some (za, va, vb, neg) →
    s.cpu.inflight = [] → s.cpu.front.mmode = true → s.cpu.front.mvr ≤ 256 → s.cpu.front.mvc ≤ 256 →
    SourceReady s va s.cpu.front.rc → SourceReady s vb s.cpu.front.rc →
    productTags (s.cpu.front.srcTag va) (s.cpu.front.srcTag vb) = true →
    (kindsOf s za.val = none ∨ kindsOf s za.val = some (s.cpu.front.srcTag va, s.cpu.front.srcTag vb)) →
    stepsOf s za.val + s.cpu.front.rc ≤ 32 →
    let n := if s.cpu.front.mvr = 0 ∨ s.cpu.front.mvc = 0 then 0 else s.cpu.front.rc
    let sum (r c : Nat) : Int := ((List.range n).map (fun st => productAt s va st r * productAt s vb st c)).sum
    ∃ t, exec i s = .next t ∧ KeepsX s t ∧ RetiresTile s t 8 ∧ t.cpu.front.vtag = s.cpu.front.vtag
      ∧ t.cpu.back.v = s.cpu.back.v ∧ Consumes s t [va, vb] n
      ∧ HoldsTiles t (fun k r c => if k = za.val ∧ r < s.cpu.front.mvr ∧ c < s.cpu.front.mvc then
            zaAt s k r c + BitVec.ofInt 32 (if neg then -sum r c else sum r c) else zaAt s k r c) (zfAt s)
      ∧ ∀ k, k < 2 → stepsOf t k = (if k = za.val then stepsOf s k + n else stepsOf s k)
          ∧ kindsOf t k = (if k = za.val ∧ n ≠ 0 then some (s.cpu.front.srcTag va, s.cpu.front.srcTag vb) else kindsOf s k)))
  ∧ (∀ (zf za : Fin 2) (ns keep : Bool) (s : State), s.cpu.inflight = [] → s.cpu.front.mmode = true → s.cpu.front.mvr ≤ 256 →
    s.cpu.front.mvc ≤ 256 → (ns = false → tagE8 (vtagOf s 1) = true) →
    ∃ t, exec (.mblk zf za ns keep) s = .next t ∧ KeepsX s t ∧ RetiresTile s t 8 ∧ t.cpu.front.vtag = s.cpu.front.vtag
      ∧ t.cpu.back.v = s.cpu.back.v ∧ t.cpu.back.queues = s.cpu.back.queues
      ∧ HoldsTiles t (fun k i j => if k = za.val ∧ keep = false then 0 else zaAt s k i j)
          (fun k i j => if k = zf.val ∧ i < s.cpu.front.mvr ∧ j < s.cpu.front.mvc then
              match kindsOf s za.val with
              | none => zfAt s k i j
              | some (ta, tb) => blockValueAt (zfAt s k i j) (zaAt s za.val i j) (if ns then some 0 else scaleAt s 0 i)
                  (if ns then some 0 else scaleAt s 1 j) ((viewOf ta).getD (0, 0)).1 ((viewOf tb).getD (0, 0)).1
            else zfAt s k i j)
      ∧ ∀ k, k < 2 → stepsOf t k = (if k = za.val ∧ keep = false then 0 else stepsOf s k)
          ∧ kindsOf t k = (if k = za.val ∧ keep = false then none else kindsOf s k))

/-- R175, R176, R177, R167: MRDZ writes rows of a zf tile into registers under vd's tag; MSPILL appends mvr rows of raw elements and
returns the tile's descriptor; MFILL takes them back. -/
def Obligations.TilesMove : Prop :=
  (∀ (vd : Reg) (zf : Fin 2) (xb : Reg) (s : State), Begins s → vd.val < 28 → Fits s vd s.cpu.front.rc (vtagOf s vd) →
    tagE8 (vtagOf s vd) = false → tagValid (vtagOf s vd) = true →
    ∃ t, exec (.mrdz vd zf xb) s = .next t ∧ KeepsX s t ∧ RetiresTile s t 8 ∧ t.cpu.back.queues = s.cpu.back.queues
      ∧ HoldsTiles t (zaAt s) (zfAt s) ∧ Retags s t vd s.cpu.front.rc (vtagOf s vd)
      ∧ HoldsGroup s t vd (vtagOf s vd) s.cpu.front.rc s.cpu.front.vl (fun r c =>
          some (tagWrite (vtagOf s vd) s.cpu.front.rmode.toNat false true
            (if s.getU xb + r < s.cpu.front.mvr ∧ c < s.cpu.front.mvc then fp32.val (zfAt s zf.val (s.getU xb + r) c).toNat
             else .zero false)).1))
  ∧ (∀ (sq : Fin 2) (tile : Fin 4) (xc : Reg) (s : State), s.cpu.inflight = [] →
    tagW (s.cpu.front.queueTag (4 + sq.val)) = 32 → (tile.val < 2 → s.cpu.front.mmode = true) →
    s.cpu.front.mvr * rowBytes (s.cpu.front.queueTag (4 + sq.val)) s.cpu.front.vl ≤ s.free (4 + sq.val) →
    ∃ t, exec (.mspill sq tile xc) s = .next t ∧ SameRest s t
      ∧ (if tile.val < 2 then WritesX s t xc (tileWord s tile.val) else KeepsX s t)
      ∧ t.cpu.front = { past s t 8 with vstart := 0, instret := s.cpu.front.instret + 1, cycle := t.cpu.front.cycle }
      ∧ t.cpu.back = { s.cpu.back with queues := t.cpu.back.queues }
      ∧ rowsOf t (4 + sq.val) = rowsOf s (4 + sq.val) ++ (if s.cpu.front.vl = 0 then []
          else (List.range s.cpu.front.mvr).map (fun r => (List.range s.cpu.front.vl).map (fun c =>
            if c < s.cpu.front.mvc then (if tile.val < 2 then zaAt s tile.val r c else zfAt s (tile.val - 2) r c).toNat else 0)))
      ∧ ∀ k, k < 6 → k ≠ 4 + sq.val → t.cpu.back.queue k = s.cpu.back.queue k)
  ∧ (∀ (tile lq : Fin 4) (xc : Reg) (s : State), s.cpu.inflight = [] → s.cpu.front.mvr ≤ 256 → s.cpu.front.mvc ≤ 256 →
    tagW (s.cpu.front.queueTag lq.val) = 32 → s.cpu.front.mvr ≤ (rowsOf s lq.val).length →
    (tile.val < 2 → s.cpu.front.mmode = true ∧ s.getU xc < 2 ^ 25 ∧ s.getU xc / 2 ^ 18 % 64 ≤ 32
      ∧ ((s.getX xc).getLsbD 24 = false → s.getU xc / 2 ^ 18 % 64 = 0)
      ∧ ((s.getX xc).getLsbD 24 = true → tagValid (BitVec.ofNat 16 (s.getU xc % 512)) = true
          ∧ tagValid (BitVec.ofNat 16 (s.getU xc / 512 % 512)) = true
          ∧ productTags (BitVec.ofNat 16 (s.getU xc % 512)) (BitVec.ofNat 16 (s.getU xc / 512 % 512)) = true)) →
    let filled (r c : Nat) : W32 := BitVec.ofNat 32 (queueElem s lq.val r c)
    let inside (r c : Nat) : Prop := r < s.cpu.front.mvr ∧ c < s.cpu.front.mvc
    ∃ t, exec (.mfill tile lq xc) s = .next t ∧ KeepsX s t ∧ RetiresTile s t 8 ∧ t.cpu.front.vtag = s.cpu.front.vtag
      ∧ t.cpu.back.v = s.cpu.back.v ∧ (∀ k, k < 6 → k ≠ lq.val → t.cpu.back.queue k = s.cpu.back.queue k)
      ∧ Loses s t lq.val s.cpu.front.mvr
      ∧ (∀ k r c, k < 2 → r < 256 → c < 256 →
          (k = tile.val → inside r c → zaAt t k r c = filled r c)
          ∧ (¬(k = tile.val ∧ inside r c) → zaAt t k r c = zaAt s k r c)
          ∧ (k + 2 = tile.val → inside r c → zfAt t k r c = filled r c)
          ∧ (¬(k + 2 = tile.val ∧ inside r c) → zfAt t k r c = zfAt s k r c))
      ∧ ∀ k, k < 2 → stepsOf t k = (if k = tile.val then s.getU xc / 2 ^ 18 % 64 else stepsOf s k)
          ∧ kindsOf t k = (if k = tile.val then
              (if (s.getX xc).getLsbD 24 then
                some (BitVec.ofNat 16 (s.getU xc % 512), BitVec.ofNat 16 (s.getU xc / 512 % 512)) else none)
            else kindsOf s k))

/-- R312 to R318, R320: CATINS and CATACC put every active element in ascending order and set its failure bit; CATLKP delivers the
value of each active key, or 0 and a miss bit; CATDRN moves the oldest entries into registers. R319, R312: CATCLR empties the partition and its failure count, CATCNT reads an item, CATCFG sets the configuration of an empty
partition and returns the old one; a value R319 refuses takes CATALOGUE_CONFIG. -/
def Obligations.CatalogueElements : Prop :=
  ((∀ (i : Instr) (o : VOps) (acc : Bool) (s : State), catForm i = some (o, acc) → Begins s →
    SourceReady s o.va s.cpu.front.rc → SourceReady s o.vb s.cpu.front.rc → tagIsInt (s.cpu.front.srcTag o.va) = true →
    tagE8 (s.cpu.front.srcTag o.vb) = false →
    ∃ t, exec i s = .next t ∧ KeepsX s t ∧ RetiresCat s t ∧ t.cpu.front.vtag = s.cpu.front.vtag ∧ t.cpu.back.v = s.cpu.back.v
      ∧ Consumes s t [o.va, o.vb] (tileRows s)
      ∧ t.cpu.back.cat = catBefore s o acc (s.cpu.front.rc * s.cpu.front.vl)
      ∧ HoldsMask s t o.vd.val (fun r c =>
          let k := r * s.cpu.front.vl + c
          if pmAt s o r c then
            some ((catBefore s o acc k).put (4096 * s.cpu.id.share) acc (catElem s o k).1 (catElem s o k).2).2
          else if o.mod.val = 3 then some false else none))
  ∧ (∀ (o : VOps) (s : State), Begins s → o.vd.val < 28 → SourceReady s o.va s.cpu.front.rc →
    tagIsInt (s.cpu.front.srcTag o.va) = true → Fits s o.vd s.cpu.front.rc (vkindTag s.cpu.back.cat.cfg) →
    let key (r c : Nat) : Nat := (tint (s.cpu.front.srcTag o.va) (srcEl s o.va r c) % 2 ^ 32).toNat
    ∃ t, exec (.catlkp o) s = .next t ∧ KeepsX s t ∧ RetiresCat s t ∧ t.cpu.back.cat = s.cpu.back.cat
      ∧ Consumes s t [o.va] (tileRows s) ∧ Retags s t o.vd s.cpu.front.rc (vkindTag s.cpu.back.cat.cfg)
      ∧ HoldsGroup s t o.vd (vkindTag s.cpu.back.cat.cfg) s.cpu.front.rc s.cpu.front.vl (fun r c =>
          if pmAt s o r c then some ((catFind s.cpu.back.cat (key r c)).getD 0) else if o.mod.val = 3 then some 0 else none)
      ∧ HoldsMask s t o.vb.val (fun r c =>
          if pmAt s o r c then some (catFind s.cpu.back.cat (key r c)).isNone else if o.mod.val = 3 then some false else none))
  ∧ (∀ (o : VOps) (s : State), Begins s → o.vd.val < 28 → Fits s o.vd (2 * s.cpu.front.rc) (tagUint 32) →
    let n := min s.cpu.back.cat.entries.length (s.cpu.front.rc * s.cpu.front.vl)
    let rc := s.cpu.front.rc
    let entry (r c : Nat) : W32 × W32 :=
      if r * s.cpu.front.vl + c < n then s.cpu.back.cat.entries.getD (r * s.cpu.front.vl + c) (0, 0) else (0, 0)
    ∃ t, exec (.catdrn o) s = .next t ∧ KeepsX s t ∧ RetiresCat s t ∧ t.cpu.back.queues = s.cpu.back.queues
      ∧ t.cpu.back.cat = { s.cpu.back.cat with entries := s.cpu.back.cat.entries.drop n }
      ∧ (∀ r c, r < rc → c < s.cpu.front.vl →
          readElem t.cpu.back.v o.vd.val 32 32 r c = (entry r c).1.toNat
            ∧ readElem t.cpu.back.v (o.vd.val + 2 * rc) 32 32 r c = (entry r c).2.toNat)
      ∧ (∀ k c, c < 65536 → (k < o.vd.val ∨ o.vd.val + 4 * rc ≤ k ∨ s.cpu.front.vl ≤ c) →
          planeWord t.cpu.back.v k c = planeWord s.cpu.back.v k c)
      ∧ HoldsMask s t o.vb.val (fun r c => some (decide (r * s.cpu.front.vl + c < n)))
      ∧ ∀ k, k < 28 → vget tagInt8 t.cpu.front.vtag k =
          if o.vd.val ≤ k ∧ k < o.vd.val + max 1 (2 * rc) then tagUint 32
          else if o.vd.val + 2 * rc ≤ k ∧ k < o.vd.val + 4 * rc then vkindTag s.cpu.back.cat.cfg
          else vget tagInt8 s.cpu.front.vtag k))
  ∧ (∀ (o : VOps) (s : State), s.cpu.inflight = [] →
    (∃ t, exec .catclr s = .next t ∧ KeepsX s t ∧ RetiresCat s t ∧ t.cpu.front.vtag = s.cpu.front.vtag
      ∧ t.cpu.back = { s.cpu.back with cat := ⟨[], 0, s.cpu.back.cat.cfg⟩ })
    ∧ (∀ v, [BitVec.ofNat 64 s.cpu.back.cat.entries.length, BitVec.ofNat 64 (4096 * s.cpu.id.share),
        BitVec.ofNat 64 (placeAll (4096 * s.cpu.id.share) (s.cpu.back.cat.entries.map (fun x => x.1.toNat))).stash,
        s.cpu.back.cat.fail, s.cpu.back.cat.cfg][o.va.val]? = some v →
      ∃ t, exec (.catcnt o) s = .next t ∧ RetiresX s t o.vd v)
    ∧ (badCatCfg (s.getU o.va) = false → (s.cpu.back.cat.entries = [] ∨ s.getX o.va = s.cpu.back.cat.cfg) →
      ∃ t, exec (.catcfg o) s = .next t ∧ WritesX s t o.vd s.cpu.back.cat.cfg ∧ RetiresOnly s t (past s t 4)
        ∧ t.cpu.back = { s.cpu.back with cat := { s.cpu.back.cat with cfg := s.getX o.va } })
    ∧ (CanTrap s → (badCatCfg (s.getU o.va) = true
        ∨ (s.cpu.back.cat.entries ≠ [] ∧ s.getX o.va ≠ s.cpu.back.cat.cfg)) →
      ∃ t, exec (.catcfg o) s = .next t ∧ Traps s t 15 (s.getX o.va) (estatOf 0 0 15 2 false 4) 0))

/-- R323, R324, R327 to R329: GOPEN of a sound image and pool opens the lowest free handle at the start state, or returns 0; GADV
moves a context by an admissible token and returns 1, or 2 where its configuration is complete; where the pool does not hold what the
contexts would then use, with the segments that the move needs, it leaves the context and returns 3. A token that is not admissible
leaves it and returns 0. R330: GMASK and GMASK.M write the token bits of a context, from linear position 0 of mask md on, and with source masks only where
those have a bit; no other mask bit changes. -/
def Obligations.GrammarMoves : Prop :=
  ((∀ (d a b c : Reg) (s : State) (g : GImage), s.cpu.inflight = [] →
    s.gopenChecks (.gopen d a b c) (s.getU a) (s.getU b) (s.getU c) = .ok g →
    let ctx : GCtx := ⟨s.getX a, s.getX b, s.getX c, ⟨g.start, [], []⟩, [], 0, 1, false⟩
    ∃ t, exec (.gopen d a b c) s = .next t ∧ RetiresGrammar s t ctx ∧ t.cpu.back.m = s.cpu.back.m
      ∧ match s.cpu.back.gram.freeHandle with
        | none => WritesX s t d 0 ∧ ∀ k, ctxOf t k = ctxOf s k
        | some h =>
          if s.poolSize ctx.size < s.cpu.back.gram.poolUsed ctx.pool + 256 then WritesX s t d 0 ∧ ∀ k, ctxOf t k = ctxOf s k
          else WritesX s t d (BitVec.ofNat 64 h) ∧ ctxOf t h = some ctx ∧ OtherContexts s t h)
  ∧ (∀ (d a b : Reg) (s : State) (c : GCtx) (g : GImage), OnContext s a c → s.imageAt c.image.toNat = .ok g →
    (s.getU b = g.eos → g.eos ≠ none32 → ∀ ok, s.gcomplete g c.conf.st c.conf.stack = .ok ok →
      ∃ t, exec (.gadv d a b) s = .next t ∧ RetiresGrammar s t c ∧ WritesX s t d (if ok then 2 else 0)
        ∧ ∀ k, ctxOf t k = ctxOf s k)
    ∧ (¬(s.getU b = g.eos ∧ g.eos ≠ none32) → (g.ntok ≤ s.getU b ∨ s.allow g c.conf (s.getU b) = .ok none) →
      ∃ t, exec (.gadv d a b) s = .next t ∧ RetiresGrammar s t c ∧ WritesX s t d 0 ∧ ∀ k, ctxOf t k = ctxOf s k)
    ∧ (∀ w ok, ¬(s.getU b = g.eos ∧ g.eos ≠ none32) → s.getU b < g.ntok → s.allow g c.conf (s.getU b) = .ok (some w) →
      s.gcomplete g w.st w.stack = .ok ok →
      (s.poolSize c.size < (movedGram s (s.getU a) c w).poolUsed c.pool →
        ∃ t, exec (.gadv d a b) s = .next t ∧ RetiresGrammar s t c ∧ WritesX s t d 3 ∧ ∀ k, ctxOf t k = ctxOf s k)
      ∧ ((movedGram s (s.getU a) c w).poolUsed c.pool ≤ s.poolSize c.size →
        ∃ t e, exec (.gadv d a b) s = .next t ∧ RetiresGrammar s t c ∧ WritesX s t d (if ok then 2 else 1)
          ∧ OtherContexts s t (s.getU a) ∧ ctxOf t (s.getU a) = some { c with conf := e } ∧ confOf e = (w.st, w.stack)))))
  ∧ (∀ (i : Instr) (md : Fin 16) (a : Reg) (ms : Option (Fin 16)) (s : State) (c : GCtx) (g : GImage) (l : List Bool),
    gmaskForm i = some (md, a, ms) → OnContext s a c → s.imageAt c.image.toNat = .ok g → 0 < s.cpu.front.vl →
    s.cpu.front.vl ≤ 65536 → 0 < g.ntok → s.maskBits g c.conf = .ok l →
    (let vl := s.cpu.front.vl
     let n := (g.ntok + 16 * vl - 1) / (16 * vl)
     md.val + n ≤ 16 → (∀ k, ms = some k → k.val + n ≤ 16 ∧ (k = md ∨ k.val + n ≤ md.val ∨ md.val + n ≤ k.val)) →
     ∃ t, exec i s = .next t ∧ KeepsX s t ∧ RetiresGrammar s t c ∧ SameMem s t ∧ (∀ k, ctxOf t k = ctxOf s k)
      ∧ (∀ q col, q < 16 * n → col < vl → maskBit t.cpu.back.m (md.val + q / 16) (q % 16) col =
          (l.getD (q * vl + col) false && (match ms with
            | none => true
            | some k => maskBit s.cpu.back.m (k.val + q / 16) (q % 16) col)))
      ∧ ∀ k r col, r < 16 → col < 65536 → (k < md.val ∨ md.val + n ≤ k ∨ vl ≤ col) →
          maskBit t.cpu.back.m k r col = maskBit s.cpu.back.m k r col))

/-- R325, R326, R328, R331: GCKPT numbers a checkpoint of the configuration, of which the last 16 stay, GROLL goes back to one, GFORK
copies a context to the lowest free handle. GCKPT and GFORK return 0 and change no context exactly where the pool does not hold what
the contexts would then use (a record's 256 bytes, 16 for each checkpoint, 128 for each segment), or no handle is free; GROLL returns
1 where the id is not valid. GFREE closes a handle, GSTAT reads an item. -/
def Obligations.GrammarContexts : Prop :=
  (∀ (a : Reg) (s : State) (c : GCtx), s.cpu.inflight = [] → ctxOf s (s.getU a) = some c →
    ∃ t, exec (.gfree a) s = .next t ∧ KeepsX s t ∧ RetiresGrammar s t c ∧ ctxOf t (s.getU a) = none
      ∧ OtherContexts s t (s.getU a))
  ∧ ∀ (d a b sel : Reg) (s : State) (c : GCtx), OnContext s a c →
    let h := s.getU a
    let g := s.cpu.back.gram
    (s.poolSize c.size < (g.setCtx h (checkpointed c)).poolUsed c.pool →
      ∃ t, exec (.gckpt d a) s = .next t ∧ RetiresGrammar s t c ∧ WritesX s t d 0 ∧ ∀ k, ctxOf t k = ctxOf s k)
    ∧ ((g.setCtx h (checkpointed c)).poolUsed c.pool ≤ s.poolSize c.size →
      ∃ t, exec (.gckpt d a) s = .next t ∧ RetiresGrammar s t c ∧ WritesX s t d (BitVec.ofNat 64 (c.latest + 1))
        ∧ ctxOf t h = some (checkpointed c) ∧ OtherContexts s t h)
    ∧ (∀ conf, mfind c.ring (s.getU b) = some conf → c.oldest ≤ s.getU b → s.getU b ≤ c.latest →
      ∃ t, exec (.groll d a b) s = .next t ∧ RetiresGrammar s t c ∧ OtherContexts s t h ∧ WritesX s t d 0
        ∧ ctxOf t h = some { c with
            conf := conf, ring := c.ring.filter (fun x => x.1 ≤ s.getU b), latest := s.getU b })
    ∧ ((mfind c.ring (s.getU b) = none ∨ s.getU b < c.oldest ∨ c.latest < s.getU b) →
      ∃ t, exec (.groll d a b) s = .next t ∧ RetiresGrammar s t c ∧ WritesX s t d 1 ∧ ∀ k, ctxOf t k = ctxOf s k)
    ∧ ((∀ k, g.freeHandle = some k → s.poolSize c.size < { g with ctxs := minsert g.ctxs k c }.poolUsed c.pool) →
      ∃ t, exec (.gfork d a) s = .next t ∧ RetiresGrammar s t c ∧ WritesX s t d 0 ∧ ∀ k, ctxOf t k = ctxOf s k)
    ∧ (∀ k, g.freeHandle = some k → { g with ctxs := minsert g.ctxs k c }.poolUsed c.pool ≤ s.poolSize c.size →
      ∃ t, exec (.gfork d a) s = .next t ∧ RetiresGrammar s t c ∧ WritesX s t d (BitVec.ofNat 64 k) ∧ ctxOf t k = some c
        ∧ OtherContexts s t k)
    ∧ (∀ v, s.gstatItem h c sel.val = .ok v →
      ∃ t, exec (.gstat d a sel) s = .next t ∧ RetiresGrammar s t c ∧ WritesX s t d (BitVec.ofNat 64 v)
        ∧ (∀ k, ctxOf t k = ctxOf s k)
        ∧ (sel.val < 5 → some v = [c.conf.st, c.conf.stack.length, c.conf.stack.headD (2 ^ 64 - 1), c.latest, c.oldest][sel.val]?))

/-- R339, R340, R343, R344: ACCLOG takes 3·rc rows of sq0 and forks one record for each element, in element order, into the hart's
partition; ACCSYNC, of sound partitions whose data can be read, returns the hseq of the state after it, in which no record of the hart
is pending any more; where the hart has no records, it changes nothing else. ACCHEAD reads the head. -/
def Obligations.AccessionInstructions : Prop :=
  (∀ (a b : Reg) (s : State), s.cpu.inflight = [] →
    (s.cpu.front.queueTag 4 = tagInt 32 ∨ s.cpu.front.queueTag 4 = tagUint 32) → (s.getU b ≤ 255 ∨ s.getU b = 0xFFFF) →
    (let p := s.cpu.front.acch.toNat % 16
     let x := s.part p
     let n := s.cpu.front.rc * s.cpu.front.vl
     x.lcap ≠ 0 → (∀ e ∈ x.held, e.1 ≠ s.cpu.id.uid) → (n ≠ 0 → x.full n = false) →
     (s.cpu.back.queue 4).part = [] → 3 * s.cpu.front.rc ≤ (rowsOf s 4).length → s.secondCopy = false →
     ∃ t, exec (.acclog a b) s = .next t ∧ KeepsX s t
       ∧ t.cpu.front = { past s t 8 with instret := s.cpu.front.instret + 1, cycle := t.cpu.front.cycle }
       ∧ t.cpu.back = { s.cpu.back with queues := t.cpu.back.queues, rels := t.cpu.back.rels }
       ∧ (t.part p).pending = x.pending ++ (List.range n).map (recordOf s (s.getU a) (s.getU b))
       ∧ (∀ k, k < 16 → k ≠ p → (t.part k).pending = (s.part k).pending)
       ∧ rowsOf t 4 = (rowsOf s 4).drop (3 * tileRows s) ∧ (∀ k, k < 6 → k ≠ 4 → t.cpu.back.queue k = s.cpu.back.queue k)
       ∧ t.others = s.others ∧ SameMem s t
       ∧ { t.pkg with parts := s.pkg.parts, reserved := s.pkg.reserved } = s.pkg))
  ∧ (∀ (d : Reg) (s : State), (∀ p ∈ s.cpu.inflight, ∀ a b, p.instr ≠ .acclog a b) →
    ((∀ a, s.unreadable a = false) →
      (∀ p, p < 16 → (∃ r ∈ (s.part p).pending, r.hart = s.cpu.id.uid) → LogSound s (s.part p)) →
      (∀ p k, p < 16 → k < 16 → p ≠ k → (s.part p).lcap ≠ 0 → (s.part k).lcap ≠ 0 →
        overlaps (s.part p).labase.toNat (4096 + 128 * 2 ^ (s.part p).lcap) (s.part k).labase.toNat
          (4096 + 128 * 2 ^ (s.part k).lcap) = false) →
      ∃ t, exec (.accsync d) s = .next t
        ∧ (∀ p, p < 16 → ∀ r ∈ (t.part p).pending, r.hart ≠ s.cpu.id.uid)
        ∧ WritesX s t d (BitVec.ofNat 64 (t.hseq (t.part (s.cpu.front.acch.toNat % 16))))
        ∧ t.cpu.front = { past s t 8 with instret := s.cpu.front.instret + 1, cycle := t.cpu.front.cycle }
        ∧ SameBack s t ∧ t.others = s.others)
    ∧ (HeadReadable s (s.part (s.cpu.front.acch.toNat % 16)) →
      (∀ p, p < 16 → ∀ r ∈ (s.part p).pending, r.hart ≠ s.cpu.id.uid) →
      ∃ t, exec (.accsync d) s = .next t ∧ RetiresEight s t d (BitVec.ofNat 64 (s.hseq (s.part (s.cpu.front.acch.toNat % 16))))
        ∧ t.pkg = s.pkg))
  ∧ (∀ (d sel : Reg) (s : State),
    let x := s.part (s.cpu.front.acch.toNat % 16)
    (sel.val = 1 ∨ sel.val = 10 ∨ HeadReadable s x) →
    ∃ t v, exec (.acchead d sel) s = .next t ∧ RetiresEight s t d (BitVec.ofNat 64 v) ∧ t.pkg = s.pkg
      ∧ (sel.val = 0 → v = s.hseq x) ∧ (sel.val = 1 → v = x.lnext.toNat) ∧ (sel.val = 10 → v = x.lcap)
      ∧ (2 ≤ sel.val → sel.val ≤ 9 → v = leNat ((s.chainBytes x).drop (8 * (sel.val - 2)) |>.take 8).reverse))

/-- R303, R306 to R310: VTSEAL of a privileged hart starts to seal a free range under the lowest free entry, VTATT an attestation of an
entry, VTDROP the drop of a sealed one without pins; VTQRY reads the table. Each takes PROTECTION in an unprivileged hart. -/
def Obligations.VitrineInstructions : Prop :=
  (∀ (d a b c : Reg) (s : State) (v : Nat) (w : Option Nat), s.cpu.id.priv = true → s.cpu.inflight = [] → s.inDup = false →
    s.getU a % mib64 = 0 → 0 < s.getU b → s.getU b % mib64 = 0 → s.getU b ≤ 4096 * mib64 →
    vitrineRange s.pkg.tierOk (s.getU a) (s.getU b) = true →
    (∀ p, p < 16 → (s.part p).lcap ≠ 0 →
      overlaps (s.getU a) (s.getU b) (s.part p).labase.toNat (4096 + 128 * 2 ^ (s.part p).lcap) = false) →
    (∀ e ∈ s.pkg.vitrines, e.2.state ≠ 0 → overlaps (s.getU a) (s.getU b) e.2.base (e.2.units * mib64) = false) →
    s.freeVitrine = some v → (s.part (s.cpu.front.acch.toNat % 16)).lcap ≠ 0 → s.cwordAt (s.getU c) = .ok w →
    ∃ t, exec (.vtseal d a b c) s = .next t ∧ RetiresEight s t d (BitVec.ofNat 64 v)
      ∧ t.vitrine v = { s.vitrine v with state := 1, base := s.getU a, units := s.getU b / mib64 }
      ∧ (∀ k, k ≠ v → t.vitrine k = s.vitrine k)
      ∧ t.pkg.jobs = s.pkg.jobs
          ++ [⟨0, v, 0, w, s.cpu.front.acch.toNat % 16, s.cpu.id.addr, s.launchOf.1, s.launchOf.2, s.wordLeaf (s.getU c)⟩]
      ∧ { t.pkg with vitrines := s.pkg.vitrines, jobs := s.pkg.jobs } = s.pkg)
  ∧ (∀ (a b c : Reg) (s : State) (w : Option Nat) (pa : Nat), s.cpu.id.priv = true → s.cpu.inflight = [] → s.getU a ≤ 255 →
    (s.vitrine (s.getU a)).state ≠ 0 → (s.vitrine (s.getU a)).state ≠ 3 → s.cwordAt (s.getU c) = .ok w →
    s.blockAt (s.getU b) = .ok pa → s.secondCopy = false →
    ∃ t, exec (.vtatt a b c) s = .next t ∧ RetiresEight s t 0 0
      ∧ t.pkg = { s.pkg with jobs := s.pkg.jobs ++ [⟨2, s.getU a, pa, w, 0, 0, 0, 0, s.leafUsed (s.getU b) ++ s.wordLeaf (s.getU c)⟩] })
  ∧ (∀ (a c : Reg) (s : State) (w : Option Nat), s.cpu.id.priv = true → s.cpu.inflight = [] → s.inDup = false →
    s.getU a ≤ 255 → ((s.vitrine (s.getU a)).state = 2 ∨ (s.vitrine (s.getU a)).state = 4) →
    (s.vitrine (s.getU a)).pins = 0 → s.cwordAt (s.getU c) = .ok w →
    ∃ t, exec (.vtdrop a c) s = .next t ∧ RetiresEight s t 0 0
      ∧ t.vitrine (s.getU a) = { s.vitrine (s.getU a) with state := 3 } ∧ (∀ k, k ≠ s.getU a → t.vitrine k = s.vitrine k)
      ∧ t.pkg.jobs = s.pkg.jobs ++ [⟨1, s.getU a, 0, w, 0, 0, 0, 0, s.wordLeaf (s.getU c)⟩]
      ∧ { t.pkg with vitrines := s.pkg.vitrines, jobs := s.pkg.jobs } = s.pkg)
  ∧ (∀ (d a sel : Reg) (s : State), s.cpu.id.priv = true → sel.val < 12 → (sel.val < 11 → s.getU a ≤ 255) →
    let e := s.vitrine (s.getU a)
    ∃ t v, exec (.vtqry d a sel) s = .next t ∧ RetiresEight s t d (BitVec.ofNat 64 v) ∧ t.pkg = s.pkg
      ∧ (sel.val = 0 → v = e.pins * 2 ^ 48 + e.units * 2 ^ 32 + e.state) ∧ (sel.val = 1 → v = e.base)
      ∧ (sel.val = 2 → v = e.units * mib64)
      ∧ (3 ≤ sel.val → sel.val < 11 → v = leNat ((digestBytes e.digest).drop (8 * (sel.val - 3)) |>.take 8).reverse)
      ∧ (sel.val = 11 → v = ((s.vitrineAt (s.getU a)).map (fun x => x.1)).getD (2 ^ 64 - 1)))
  ∧ (∀ (i : Instr) (s : State), s.cpu.id.priv = false → s.cpu.inflight = [] → CanTrap s →
    (match i with
      | .vtseal .. | .vtatt .. | .vtdrop .. | .vtqry .. => True
      | _ => False) →
    ∃ t, exec i s = .next t ∧ Traps s t 9 (BitVec.ofNat 64 (encode i)) (estatOf 0 0 15 0 false 8) 0)

/-- R184: TRAP_ENTRY writes the trap registers and enters the handler. R31: QUEUE_STALL traps at the oldest uncompleted instruction
and counts (R371). R25: WAIT_END lets the instruction at pc be tried again. R33, R294: a micro-operation's start counts its cost and
its end changes nothing architectural. R240, R241: a row delivery and a row drain are the load or store in flight going on. R328:
GRAMMAR_RESULT delivers the oldest pending result. R182: MIGRATION_REQUEST sets pending and reason together. R196: MIGRATION moves
the hart to its reserved share and completes its SAFEPT. -/
def Obligations.HartEvents : Prop :=
  (∀ (tr : TrapInfo) (s : State), s.cpu.status = .running → s.cpu.inflight = [] → CanTrap s → tr.cause ≠ .dataError →
    ∃ t, exec (.trapEntry tr) s = .next t
      ∧ Traps s t (causeCode tr.cause) tr.eval
          (estatOf tr.sub tr.kind tr.queue tr.side (tr.evValid || tr.ev != 0) tr.ilen) (tr.ev % 2 ^ 20))
  ∧ (∀ (s : State) (p : Pend) (qs : List Nat), s.cpu.status = .running → s.cpu.inflight.head? = some p →
    s.cpu.front.qslim ≠ 0 → s.cpu.front.qslim.toNat ≤ s.cpu.stall → s.stallQueues = some qs → p.front.tvec ≠ 0 → p.front.estat.getLsbD 0 = false →
    ∃ t, exec .queueStall s = .next t ∧ t.cpu.front.epc = p.front.pc ∧ t.cpu.front.ecause = 12
      ∧ t.cpu.front.eval = queueBits qs ∧ t.cpu.front.evstart = p.front.vstart % 2 ^ 20 ∧ t.cpu.front.pc = p.front.tvec
      ∧ t.cpu.inflight = [] ∧ t.others = s.others ∧ SameMem s t
      ∧ (t.core s.cpu.id.die s.cpu.id.core).cqstall = (s.core s.cpu.id.die s.cpu.id.core).cqstall + 1)
  ∧ (∀ s : State, exec .waitEnd s = .next { s with cpu := { s.cpu with wait := none } })
  ∧ (∀ (die core bed cost : Nat) (s : State), die < 3 → core < 128 → bed < 16 → bed ∉ (s.core die core).retired →
    ∃ t, exec (.microOperationStart die core bed cost) s = .next t ∧ SameButPkg s t
      ∧ t.core die core = { s.core die core with clane := (s.core die core).clane + BitVec.ofNat 64 cost })
  ∧ (∀ (die core bed : Nat) (s : State), exec (.microOperationEnd die core bed) s = .next s)
  ∧ (∀ (s : State) (p : Pend), s.cpu.status = .running → s.cpu.inflight = [p] → p.owed = [] → s.cpu.back.gram.pend = [] →
    s.inbound s.cpu.id.uid = [] →
    ((loadsInto p.instr).isSome → ∃ t, exec .loadRowDelivery s = .next t ∧ ∀ u, exec p.instr (goingOn s p) = .next u →
      u.cpu.inflight = [] → u.cpu.wait = none → u.cpu.trapped = false → u.cpu.status = .running →
      t.cpu.inflight = [] ∧ t.cpu.back = u.cpu.back ∧ t.mem = u.mem ∧ t.cpu.front.instret = s.cpu.front.instret
        ∧ t.cpu.front.pc = s.cpu.front.pc)
    ∧ ((storesFrom p.instr).isSome → ∃ t, exec .storeRowDrain s = .next t ∧ ∀ u, exec p.instr (goingOn s p) = .next u →
      u.cpu.inflight = [] → u.cpu.wait = none → u.cpu.trapped = false → u.cpu.status = .running →
      t.cpu.inflight = [] ∧ t.cpu.back = u.cpu.back ∧ t.mem = u.mem ∧ t.cpu.front.instret = s.cpu.front.instret
        ∧ t.cpu.front.pc = s.cpu.front.pc))
  ∧ (∀ (s : State) (p : GPend) (rest : List GPend), s.cpu.back.gram.pend = p :: rest → p.fault = none →
    exec .grammarResult s = .next (s.setBack { s.cpu.back with gram := { s.cpu.back.gram with pend := rest } }))
  ∧ (∀ (reason : Fin 4) (s : State), s.cpu.status = .running → s.cpu.front.mreq.getLsbD 0 = false →
    ∃ t, exec (.migrationRequest s.cpu.id.uid reason) s = .next t
      ∧ t.cpu = { s.cpu with front := { s.cpu.front with mreq := t.cpu.front.mreq } }
      ∧ t.cpu.front.mreq.toNat = s.cpu.front.mreq.toNat / 65536 * 65536 + 256 * reason.val + 1
      ∧ t.others = s.others ∧ t.pkg = s.pkg ∧ SameMem s t)
  ∧ (∀ (s : State) (r : Reservation), s.cpu.status = .running → Quiet s → MayMove s → s.chosenToGo = false →
    s.reservation = some r → s.fitsAt (r.core, r.slot) = true →
    ∃ t, exec .migration s = .next t ∧ WritesX s t r.d 1 ∧ t.cpu.front.pc = s.cpu.front.pc + 4 ∧ t.cpu.front.mreq = 0
      ∧ (t.cpu.id.core, t.cpu.id.slot) = (r.core, r.slot) ∧ t.cpu.id.uid = s.cpu.id.uid ∧ SameMem s t)

/-- R261, R265, R266: one element of a box copy is delivered: CPY.G and CPY.IX write it, or the fill value where it is clipped, into
the scratchpad; CPY.P writes memory; cwm advances by one and cclip by a clipped one. R263: an element that faults is held in its
channel and cwm stops. R268: the next element group of a CPY.X is written into the destination's planes. -/
def Obligations.CopyEvents : Prop :=
  (∀ (c : Fin 8) (s : State) (o : CopyOp), NextElement s c.val o →
    (o.mem o.at_ = none → o.form ≠ 1 →
      ∃ t, exec (.copyProgress c 1) s = .next t ∧ SameMem s t
        ∧ (t.chan c.val).cwm = (s.chan c.val).cwm + 1 ∧ (t.chan c.val).cclip = (s.chan c.val).cclip + 1
        ∧ ∀ p, t.cpu.back.spadByte p = (placedAt (o.places o.at_) (leBytes o.esz o.fillv) p).getD (s.cpu.back.spadByte p))
    ∧ (∀ mp pas, o.mem o.at_ = some mp → o.form ≠ 1 → s.engineBytes s.cpu.ctx .load true (vaRange mp o.esz) = .ok pas →
      ∃ t, exec (.copyProgress c 1) s = .next t ∧ SameMem s t
        ∧ (t.chan c.val).cwm = (s.chan c.val).cwm + 1 ∧ (t.chan c.val).cclip = (s.chan c.val).cclip
        ∧ ∀ p, t.cpu.back.spadByte p
            = (placedAt (o.places o.at_) (pas.map (s.physByte s.cpu.id.die)) p).getD (s.cpu.back.spadByte p))
    ∧ (∀ mp pas, o.mem o.at_ = some mp → o.form = 1 → s.inDup = false → s.secondCopy = false →
      s.engineBytes s.cpu.ctx .store true (vaRange mp o.esz) = .ok pas →
      ∃ t, exec (.copyProgress c 1) s = .next t ∧ StoresAt s t pas ((o.places o.at_).map s.cpu.back.spadByte)
        ∧ (t.chan c.val).cwm = (s.chan c.val).cwm + 1 ∧ t.cpu.back.spad = s.cpu.back.spad)
    ∧ (∀ mp f, o.mem o.at_ = some mp →
      s.engineBytes s.cpu.ctx (if o.form = 1 then .store else .load) true (vaRange mp o.esz) = .error f →
      ∃ t, exec (.copyFaultHeld c) s = .next t ∧ (f.cause ≠ .dataError → SameMem s t ∧ t.cpu.back.spad = s.cpu.back.spad)
        ∧ (t.chan c.val).error = true ∧ (t.chan c.val).fcause = causeCode f.cause ∧ (t.chan c.val).fsub = f.sub
        ∧ (t.chan c.val).feval = BitVec.ofNat 64 (if f.cause = .dataError then f.addr else mp)
        ∧ (t.chan c.val).cwm = (s.chan c.val).cwm))
  ∧ (∀ (c : Fin 8) (s : State) (o : CopyOp) (h : Hart), s.cpu.status = .running → (s.chan c.val).ops.head? = some o →
    (s.chan c.val).error = false → o.form = 2 → s.hart? o.dst = some h → h.olderFlight o.place = false →
    ∃ t h', exec (.cpyXGroupWrite c) s = .next t ∧ t.hart? o.dst = some h' ∧ SameMem s t
      ∧ (let j := o.at_ / o.cols
         let c0 := o.at_ % o.cols
         let n := min 4096 (o.cols - c0)
         let base := (o.vdst + j) * 65536 + c0
         (t.chan c.val).cwm = (s.chan c.val).cwm + (if c0 + n = o.cols then BitVec.ofNat 64 o.cols else 0)
          ∧ ∀ k, mget 0 h'.back.v k =
              if base ≤ k ∧ k < base + n then o.planes.getD (j * o.cols + c0 + (k - base)) 0 else mget 0 h.back.v k))

/-- R284, R210: evaluating wait conditions changes nothing by itself but what uncorrectable words that are read meet. R281, R283: the head packet that is its dispatcher's choice is taken
and its gang waits to be placed, or it is rejected: wqstat, wqhead and wqdone say so, and no record is written where `area` failed.
R285, R286, R21: a gang with a share for every member is sown, each member in its launch state, each copy of a duplicated launch with a
barrier of its own (log 27, DEDUCED). R287, R390: a finished launch with no copy or log record under
way writes its record, counts in wqdone and leaves; its harts are no more, with their registers as they stood. -/
def Obligations.PacketsAndLaunches : Prop :=
  (∀ (q : Nat) (s : State), ∃ t, exec (.waitConditionEvaluation q) s = .next t ∧ Swept s t ∧ (s.pkg.poison = [] → t = s))
  ∧ (∀ (q : Nat) (s : State), s.choice (s.wq q).die = some (.queue q) →
    let w := s.wq q
    let p := s.ringPacket q w.head.toNat
    let g := gangOf p q w.head.toNat w.die w.root
    s.badWords (w.slot w.head.toNat) 128 = [] →
    (∀ k pa, k < pktWaits p → k < 2 → s.translate ⟨w.root.toNat, pktPriv p, w.die⟩ .load (pktWait p k).1 = .ok pa →
      s.badWords (pa % pkgSpan) 8 = []) →
    (s.takeReason p g w.privok = 0 →
      ∃ t, exec (.packetTake q) s = .next t ∧ SameButPkg s t ∧ t.wq q = { w with head := w.head + 1 }
        ∧ t.pkg.gangs = s.pkg.gangs ++ [{ g with gid := s.pkg.nextGang, order := s.pkg.nextOrder }])
    ∧ (s.takeReason p g w.privok ≠ 0 → (badArea p = true ∨ s.areaUnmapped g = true) → (pkt p 11 % 8 ≠ 0 ∨ pkt p 11 % 2 ^ 64 = 0) →
      ∃ t, exec (.packetTake q) s = .next t ∧ SameButPkg s t ∧ t.pkg.gangs = s.pkg.gangs
        ∧ t.wq q = { w with
            head := w.head + 1, done := w.done + 1
            stat := BitVec.ofNat 64 (w.stat.toNat / 65536 * 65536 + 256 * s.takeReason p g w.privok + 1) })
    ∧ (∀ pas, s.takeReason p g w.privok ≠ 0 → badArea p = false → s.areaUnmapped g = false → pkt p 11 % 2 ^ 64 = 0 →
      s.accessBytes g.ctx .store true (vaRange g.area.toNat 64) = .ok pas → AllMemory s pas →
      ∃ t, exec (.packetTake q) s = .next t ∧ t.pkg.gangs = s.pkg.gangs ∧ (t.wq q).done = w.done + 1
        ∧ StoresAt s t pas (leBytes 8 (2 + 256 * s.takeReason p g w.privok + 2 ^ 32 * g.seq) ++ List.replicate 56 0)))
  ∧ (∀ (s : State) (g : Gang) (held : List (Nat × Nat)) (seats : List (Seat × Nat × Nat)), s.gangById g.gid = some g →
    g.sown = false → s.chosenGang g = some held → s.placement g held (fun _ => false) = some seats →
    ∃ t hs, exec (.gangSowing g.gid) s = .next t ∧ t.cpu = s.cpu
      ∧ t.others = s.others.filter (fun h => !h.replaced hs) ++ hs ∧ hs.length = seats.length ∧ SameMem s t
      ∧ (∀ (k : Nat) (e : Seat × Nat × Nat) (h : Hart), seats[k]? = some e → hs[k]? = some h →
          BeginsLaunch g h e.1.idx ∧ (h.id.gang, h.id.die, h.id.core, h.id.slot) = (g.gid, g.die, e.2.1, e.2.2)
            ∧ (h.id.idx, h.id.copy, h.id.priv) = (e.1.idx, e.1.copy, g.priv))
      ∧ GangIs t g.gid (fun x => x.sown = true ∧ x.bars = Vector.replicate 2 { Barrier.reset with live := g.n }))
  ∧ (∀ (s : State) (g : Gang) (pas : List Nat), s.gangById g.gid = some g → s.gangDone g = true → g.fault = none →
    g.dup = false → g.cword = 0 →
    (∀ h ∈ s.gangHarts g.gid, (h.back.chans.toList.all (fun c => c.ops.isEmpty)) = true
      ∧ ∀ p, p < 16 → (s.part p).unwritten (fun r => r.hart = h.id.uid) = 0) →
    s.accessBytes g.ctx .store true (vaRange g.area.toNat 64) = .ok pas → AllMemory s pas →
    ∃ t, exec (.launchCompletion g.gid) s = .next t
      ∧ StoresAt s t pas (leBytes 8 (1 + 2 ^ 32 * g.seq) ++ List.replicate 56 0)
      ∧ (t.wq g.queue).done = (s.wq g.queue).done + 1
      ∧ GangIs t g.gid (fun _ => False) ∧ (∀ h ∈ t.cpu :: t.others, h.id.gang = g.gid → h.status = .absent)
      ∧ (t.cpu :: t.others).map (fun h => (h.id, h.front)) = (s.cpu :: s.others).map (fun h => (h.id, h.front)))

/-- R27, R193, R229: a pre-empted hart at rest keeps its registers, every older write of it has performed, and it runs no more; its
gang waits for resumption. R195: a restored hart runs at its place with the registers of its save area, mreq's pending bit cleared.
R28: a member's quantum ends and, with nobody waiting for the gang's shares, the next begins. -/
def Obligations.GangsComeAndGo : Prop :=
  (∀ (s : State) (g : Gang), s.gangById g.gid = some g → (s.isVictim g = true ∨ g.due = true) → g.saved = false →
    s.gangDone g = false → s.cpu.status = .running → s.cpu.id.gang = g.gid → (∀ h ∈ s.others, h.runs g.gid = false) → Quiet s →
    s.interruptible s.cpu = true →
    ∃ t, exec (.preemption g.gid) s = .next t ∧ t.cpu.status = .saved ∧ t.cpu.front = s.cpu.front
      ∧ t.cpu.back = { s.cpu.back with strip := [], rels := [] } ∧ SameOthers s t
      ∧ GangIs t g.gid (fun x => x.saved = true ∧ x.due = false ∧ x.order = s.pkg.nextOrder))
  ∧ (∀ (s : State) (g : Gang) (held : List (Nat × Nat)) (seat : Seat) (to_ : Nat × Nat) (x l : List Byte),
    s.gangById g.gid = some g → g.saved = true → s.chosenGang g = some held →
    s.placement g held (fun _ => false) = some [(seat, to_)] →
    s.cpu.status = .saved → s.cpu.id.gang = g.gid → s.cpu.id.parent = none →
    (∀ h ∈ s.others, h.id.gang ≠ g.gid ∧ h.id.parent ≠ some s.cpu.id.uid) → s.invalidArea s.cpu = false →
    s.areaFault s.cpu = none → s.areaRead s.cpu 8 248 = some x → s.areaRead s.cpu 0x100 256 = some l →
    ∃ t, exec (.contextRestore g.gid) s = .next t ∧ t.cpu.status = .running ∧ SameOthers s t
      ∧ (t.cpu.id.core, t.cpu.id.slot) = to_ ∧ t.cpu.front.lcid = s.cpu.front.lcid
      ∧ t.cpu.front.pc = BitVec.ofNat 64 (dwordAt l 0) &&& ~~~(1 : W64)
      ∧ t.cpu.front.vstart = bitsOf (dwordAt l 13) 41 22
      ∧ t.cpu.front.mreq = BitVec.ofNat 64 (dwordAt l 10) &&& 0xFFFF0000FF00#64
      ∧ (∀ k, 0 < k → k < 32 → vget 0 t.cpu.front.x k = BitVec.ofNat 64 (dwordAt x (k - 1)))
      ∧ GangIs t g.gid (fun y => y.saved = false ∧ y.sown = g.sown))
  ∧ (∀ (s : State) (g : Gang) (h : Hart), s.gangById g.gid = some g → g.sown = true → g.saved = false → s.gangDone g = false →
    s.isNeeded g = false → h ∈ s.harts → h.id.gang = g.gid → h.status = .running → h.id.parent = none →
    g.quantum ≤ (h.front.cycle - mget 0 g.since h.id.uid).toNat →
    ∃ t, exec (.quantumExpiry g.gid) s = .next t ∧ SameButPkg s t
      ∧ GangIs t g.gid (fun x => x = { g with since := s.clocks g.gid, quantum := vget 0 s.pkg.quantum g.die }))

/-- R277 to R279, R372: a write of wqtail, wqbase, wqctl or wqstat by any agent is taken where the rules accept it, and else dropped
and counted; one of wqctl that would change en before the block is ready is dropped whole (log 26, DEDUCED). R339: so is one of
ldrain; no value is taken where the head block cannot be read. R345: a write of lsign requests one signed statement. R377, R378: a doubleword write to
management space or a queue page starts a mailbox command, sets an argument, a counter of the management core, or what the other forms
set; any other is dropped and counted at its die (a host's at die 0: log 32); the alias at
0x100000000000 names the registers of die 0 (log 26: the model's choice beside R201), and one that PROTECTION refuses a hart, or to no register, changes nothing. -/
def Obligations.RegisterWrites : Prop :=
  (∀ (by_ : Agent) (q : Nat) (v : W64) (s : State),
    QueueWrite s by_ q (.wqtailWrite by_ q v) (by_ = .host ∧ (s.wq q).en = true ∧ (s.wq q).byHart = false
      ∧ (s.wq q).tail.toNat ≤ v.toNat ∧ v.toNat ≤ (s.wq q).head.toNat + 2 ^ (s.wq q).size) { s.wq q with tail := v }
    ∧ QueueWrite s by_ q (.wqbaseWrite by_ q v) (Owner by_ ∧ (s.wq q).en = false ∧ v.toNat % 4096 = 0
      ∧ RingFits s.pkg.tierOk v.toNat (s.wq q).size) { s.wq q with base := v, tail := 0, head := 0, done := 0 }
    ∧ QueueWrite s by_ q (.wqctlWrite by_ q v) (Owner by_ ∧ bitsOf v.toNat 2 1 ≠ 3
      ∧ ((s.wq q).en = true → bitsOf v.toNat 3 1 = bitsOf (s.wq q).ctl 3 1)
      ∧ (v.getLsbD 0 ≠ (s.wq q).en → s.pkg.mgmt.bstate = 3))
      { s.wq q with ctl := if by_ = .management then v.toNat % 32 else v.toNat % 16 + 16 * (s.wq q).privok.toNat }
    ∧ QueueWrite s by_ q (.wqstatWrite by_ q v) (by_ ≠ .fabric) { s.wq q with stat := 0 })
  ∧ (∀ (by_ : Agent) (p : Fin 16) (v : W64) (s : State),
    let x := s.part p.val
    let ok : Prop := (by_ = .host ∨ by_ = .privHart) ∧ HeadReadable s x ∧ v.toNat % 64 = 0 ∧ x.ldrain.toNat ≤ v.toNat ∧ v.toNat ≤ s.hseq x
    (ok → exec (.ldrainWrite by_ p v) s = .next (s.setLog p.val { x with ldrain := v }))
    ∧ (¬ok → ∃ t, exec (.ldrainWrite by_ p v) s = .next t ∧ Drops s t by_ 0)
    ∧ (by_ ≠ .fabric → (∃ j ∈ s.pkg.jobs, j.kind = 3 ∧ j.v = p.val) → exec (.lsignWrite by_ p v) s = .next s)
    ∧ (by_ ≠ .fabric → (∀ j ∈ s.pkg.jobs, ¬(j.kind = 3 ∧ j.v = p.val)) → exec (.lsignWrite by_ p v) s
        = .next { s with pkg := { s.pkg with jobs := s.pkg.jobs ++ [⟨3, p.val, 0, none, p.val, 0, 0, 0, []⟩] } })
    ∧ (by_ = .fabric → ∃ t, exec (.lsignWrite by_ p v) s = .next t ∧ Drops s t by_ 0)
    ∧ exec (.registerWrite by_ (0x100010200010 + 0x40 * p.val) v) s = exec (.ldrainWrite by_ p v) s
    ∧ exec (.registerWrite by_ (0x100010200020 + 0x40 * p.val) v) s = exec (.lsignWrite by_ p v) s)
  ∧ (∀ (by_ : Agent) (q : Nat) (v : W64) (s : State), q < 2048 →
    let page := 0x100100000000 + 4096 * q
    exec (.registerWrite by_ page v) s = exec (.wqbaseWrite by_ q v) s
    ∧ exec (.registerWrite by_ (page + 0x018) v) s = exec (.wqctlWrite by_ q v) s
    ∧ exec (.registerWrite by_ (page + 0x020) v) s = exec (.wqtailWrite by_ q v) s
    ∧ exec (.registerWrite by_ (page + 0x038) v) s = exec (.wqstatWrite by_ q v) s
    ∧ QueueWrite s by_ q (.registerWrite by_ (page + 0x008) v) (Owner by_ ∧ (s.wq q).en = false ∧ 4 ≤ v.toNat ∧ v.toNat ≤ 16
      ∧ RingFits s.pkg.tierOk (s.wq q).base.toNat v.toNat) { s.wq q with size := v.toNat }
    ∧ QueueWrite s by_ q (.registerWrite by_ (page + 0x010) v) (Owner by_ ∧ (s.wq q).en = false ∧ v.toNat < 2 ^ 50
      ∧ v.getLsbD 12 = false) { s.wq q with root := v }
    ∧ ∀ k, k < 512 → k ∉ [0, 1, 2, 3, 4, 7] → QueueWrite s by_ q (.registerWrite by_ (page + 8 * k) v) False (s.wq q))
  ∧ (∀ (by_ : Agent) (d off : Nat) (v : W64) (s : State), d < 3 → off < 0x10000000 → off % 8 = 0 →
    let write := exec (.registerWrite by_ (0x100010000000 + 0x10000000 * d + off) v) s
    ((by_ = .hart ∨ by_ = .privHart) → mgmtNoHartWrite d off = true → write = .next s)
    ∧ (by_ = .host → d = 0 → off = 0x2000 → s.pkg.mgmt.mbstat.getLsbD 0 = false → 1 ≤ v.toNat → v.toNat ≤ 7 →
      write = .next { s with pkg := { s.pkg with mgmt := { s.pkg.mgmt with mbcmd := v, mbstat := s.pkg.mgmt.mbstat ||| 1 } } })
    ∧ (∀ k : Fin 4, by_ = .host → d = 0 → off = 0x2008 + 8 * k.val →
      write = .next { s with pkg := { s.pkg with mgmt := { s.pkg.mgmt with mbarg := s.pkg.mgmt.mbarg.set k.val v } } })
    ∧ (by_ = .management → errorCounter off = true → ∃ t, write = .next t ∧ SameButPkg s t ∧ t.mgmtReg d off = v.toNat)
    ∧ (by_ = .management → coreCounter off = true →
      (s.coreOfLcid d ((off - 0x100000) / 64) = none → write = .next s)
      ∧ ∀ p, s.coreOfLcid d ((off - 0x100000) / 64) = some p → ∃ t, write = .next t ∧ SameButPkg s t
        ∧ t.core d p = coreWrite (s.core d p) (off % 64) v)
    ∧ (¬((by_ = .hart ∨ by_ = .privHart) ∧ mgmtNoHartWrite d off = true) →
      ¬(by_ = .host ∧ d = 0 ∧ 0x2008 ≤ off ∧ off < 0x2028) →
      ¬(by_ = .host ∧ d = 0 ∧ off = 0x2000 ∧ s.pkg.mgmt.mbstat.getLsbD 0 = false ∧ 1 ≤ v.toNat ∧ v.toNat ≤ 7) →
      ¬(by_ = .management ∧ (errorCounter off = true ∨ coreCounter off = true)) →
      ¬(d = 0 ∧ 0x200000 ≤ off ∧ off < 0x200400 ∧ (off % 0x40 = 0x10 ∨ off % 0x40 = 0x20)) →
      ∃ t, write = .next t ∧ Drops s t by_ (if by_ = .host then 0 else d))
    ∧ (by_ ≠ .host → exec (.registerWrite by_ (0x100000000000 + off) v) s = exec (.registerWrite by_ (0x100010000000 + off) v) s)
    ∧ ∃ t, exec (.registerWrite .host (0x100000000000 + off) v) s = .next t ∧ Drops s t .host 0)
  ∧ (∀ (by_ : Agent) (a : Nat) (v : W64) (s : State), (regionOf a).isMem = true ∨ regionOf a = .hole ∨ a % 8 ≠ 0 →
    exec (.registerWrite by_ a v) s = .next s)

/-- R341, R343: a forked record is written in its ring slot under the next sequence number (log 8: of a fenced slot the write is dropped
and counted), and a full batch becomes durable under the new chain value, where its data can be read (R189). R307, R189: a seal that ends well makes the entry sealed, one that met corrupt data, which is zeroed and fenced,
or a fenced frame makes it corrupt; which word was corrupt is free (log 6, 30). R309: a dropped entry's range is zero and the entry is
free, its other fields as they were (log 30, DEDUCED). R308, R345: an attestation block and a signed statement are written. -/
def Obligations.EngineEvents : Prop :=
  (∀ (p : Fin 16) (s : State) (r : AccRec) (rest : List AccRec), (s.part p.val).pending = r :: rest → r.seq = none →
    (∀ e ∈ rest, e.hart = r.hart) →
    let slot := (s.part p.val).labase.toNat + 4096 + 128 * ((s.part p.val).lnext.toNat % 2 ^ (s.part p.val).lcap)
    ∃ t, exec (.accessionAppend p) s = .next t ∧ (t.part p.val).lnext = (s.part p.val).lnext + 1
      ∧ (s.fenced slot = false → Puts s t slot (leBytes 8 (s.part p.val).lnext.toNat ++ r.bytes))
      ∧ (s.fenced slot = true → SameMem s t ∧ Counted s t .management (homeDie slot)))
  ∧ (∀ (p : Fin 16) (s : State),
    let x := s.part p.val
    let h := s.hseq x
    let ring := x.labase.toNat + 4096 + 128 * (h % 2 ^ x.lcap)
    let read : Prop := HeadReadable s x ∧ ∀ k, k < 8192 → s.unreadable (ring + k) = false
    x.lcap ≠ 0 → h + 64 ≤ x.lnext.toNat →
    (read → ∃ t, exec (.batchDurable p) s = .next t ∧ t.hseq (t.part p.val) = h + 64
      ∧ t.chainBytes (t.part p.val) = digestBytes (sha512 (s.chainBytes x ++ readCells s.mem ring 8192)))
    ∧ (¬read → ∃ t, exec (.batchDurable p) s = .next t ∧ t.part p.val = x ∧ Swept s t))
  ∧ (∀ (v : Nat) (s : State) (j : Job), s.pkg.jobs.find? (fun j => j.kind = 0 && j.v = v) = some j → j.cword = none →
    s.badWords (s.vitrine v).base ((s.vitrine v).units * 67108864) = [] →
    (s.rangeFenced (s.vitrine v).base ((s.vitrine v).units * 67108864) = false → (s.part j.part).full 1 = false →
      ∃ t, exec (.sealCompletion v false) s = .next t
        ∧ t.vitrine v = { s.vitrine v with
            state := 2, vseq := (s.part j.part).lnext
            digest := sha512 (readCells s.mem (s.vitrine v).base ((s.vitrine v).units * 67108864)) })
    ∧ (s.rangeFenced (s.vitrine v).base ((s.vitrine v).units * 67108864) = true →
      ∃ t, exec (.sealCompletion v false) s = .next t ∧ t.vitrine v = { s.vitrine v with state := 4 } ∧ SameMem s t)
    ∧ (0 < (s.vitrine v).units → ∃ t a, exec (.sealCompletion v true) s = .next t ∧ t.vitrine v = { s.vitrine v with state := 4 }
      ∧ (s.vitrine v).base < a + 8 ∧ a < (s.vitrine v).base + (s.vitrine v).units * 67108864 ∧ t.fenced a = true
      ∧ ∀ x, readCell t.mem x = if x / 64 = a / 64 then 0 else readCell s.mem x))
  ∧ (∀ (v : Nat) (s : State) (j : Job), s.pkg.jobs.find? (fun j => j.kind = 1 && j.v = v) = some j → j.cword = none →
    ∃ t, exec (.dropCompletion v) s = .next t ∧ t.vitrine v = { s.vitrine v with state := 0 }
      ∧ Puts s t (s.vitrine v).base (List.replicate ((s.vitrine v).units * 67108864) 0))
  ∧ (∀ (s : State) (j : Job), s.pkg.jobs.find? (fun j => j.kind = 2 && (s.vitrine j.v).state != 1) = some j → j.cword = none →
    s.checkPhys 0 .store true 0 j.block = none → j.block % 256 = 0 → s.drops j.block = false →
    ∃ t, exec .attestationBlock s = .next t ∧ Puts s t (s.key j.block) (attested s j.v))
  ∧ (∀ (p : Fin 16) (s : State), (s.part p.val).lcap ≠ 0 → HeadReadable s (s.part p.val) →
    s.pkg.jobs.any (fun j => j.kind = 3 && j.v = p.val) = true →
    ∃ t, exec (.signedStatement p) s = .next t ∧ (t.part p.val).lsign = (s.part p.val).lsign + 1
      ∧ (∀ j ∈ t.pkg.jobs, ¬(j.kind = 3 ∧ j.v = p.val)) ∧ vget 0 t.pkg.msix 1 = vget 0 s.pkg.msix 1 + 1
      ∧ (let body := leBytes 8 p.val ++ leBytes 8 (s.hseq (s.part p.val)) ++ s.chainBytes (s.part p.val) ++ leBytes 8 s.ownPkg
         Puts s t ((s.part p.val).labase.toNat + 0x50)
          (body ++ (leBytes 132 (Config.sign (sha512 body)).toNat).reverse)))

/-- R349: a load that fails a check reports it (that of an object which cannot be read reports LOAD_SIG: the model's choice, log 35), and
one that passes records its object; an unload removes one. R380: the device block
is written. R382, R378: the package number is set once. R189, R305: a fenced frame is released, but for one that
its controller or port has fenced with all of its memory; of a frame that is not fenced the command fails. R370: a trip point is set. R28: a quantum
is set. R378, R376: the mailbox reports the result. -/
def Obligations.MailboxCommands : Prop :=
  (∀ (s : State), s.commandIs 1 = true →
    let a := s.mbArg 0
    let n := leNat (readCells s.mem (a + 64) 8)
    let r := s.checkLoad (readCells s.mem a n)
    let read : Prop := s.loadable a 128 = true ∧ s.loadable a n = true
    (¬read → ∃ t, exec .loadCodeObject s = .next t ∧ t.pkg.mgmt.mbres = some 1 ∧ t.cpu = s.cpu ∧ t.others = s.others
      ∧ t.pkg.mgmt.objects = s.pkg.mgmt.objects)
    ∧ (∀ e, read → r = .error e → ∃ t, exec .loadCodeObject s = .next t ∧ t.pkg.mgmt = { s.pkg.mgmt with mbres := some e }
      ∧ Swept s { t with pkg := { t.pkg with mgmt := s.pkg.mgmt } } ∧ (e ≠ 8 → SameMem s t))
    ∧ (∀ c, read → r = .ok c → ∃ t o, exec .loadCodeObject s = .next t ∧ t.pkg.mgmt.mbres = some 0
      ∧ t.pkg.mgmt.objects = s.pkg.mgmt.objects ++ [o]
      ∧ (o.place, o.size, o.pins) = (s.mbArg 1, c.size, c.pins) ∧ SameCpu s t ∧ SameOthers s t))
  ∧ (∀ (s : State), s.commandIs 2 = true → s.pkg.mgmt.objects.find? (fun o => o.place = s.mbArg 0) = none →
    exec .unload s = .next { s with pkg := { s.pkg with mgmt := { s.pkg.mgmt with mbres := some 9 } } })
  ∧ (∀ (s : State) (o : CodeObj) (rest : List CodeObj), s.commandIs 2 = true → s.pkg.mgmt.objects = o :: rest →
    o.place = s.mbArg 0 →
    ∃ t, exec .unload s = .next t ∧ SameButPkg s t ∧ t.pkg.mgmt.objects = rest ∧ t.pkg.mgmt.mbres = some 0)
  ∧ (∀ (s : State), s.commandIs 3 = true → s.mbArg 0 % 512 = 0 → regionOf (s.mbArg 0) = .hbm → s.writable (s.mbArg 0) = true →
    ∃ t, exec .attestDevice s = .next t ∧ t.pkg.mgmt.mbres = some 0
      ∧ (let body := leBytes 8 0x4B4D5303B0000001 ++ leBytes 8 s.ownPkg ++ leBytes 8 (s.mbArg 1)
            ++ digestBytes s.pkg.mgmt.measure ++ digestBytes (sha512 (s.pkg.mgmt.keys.flatMap (fun k => (leBytes 132 k.toNat).reverse)))
            ++ leBytes 8 (s.coreCount 0 + 256 * s.coreCount 1 + 65536 * s.coreCount 2)
         Puts s t (s.mbArg 0)
          (body ++ (leBytes 132 (Config.sign (sha512 body)).toNat).reverse ++ List.replicate 220 0)))
  ∧ (∀ (s : State), s.commandIs 4 = true → s.mbArg 0 < 16384 → s.pkg.mgmt.package = none → (∀ e ∈ s.pkg.wqs, e.2.en = false) →
    ∃ t, exec .setPackageNumber s = .next t ∧ SameButPkg s t ∧ t.pkg.mgmt.package = some (s.mbArg 0) ∧ t.pkg.mgmt.mbres = some 0
      ∧ s.mbArg 0 ∉ t.pkg.reach)
  ∧ (∀ (s : State), s.commandIs 5 = true →
    let a := s.mbArg 0
    ((s.regionAt a).isMem = true → s.fencedWhole a = false → a / 65536 ∈ s.pkg.fences →
      ∃ t, exec .releaseFencedFrame s = .next t ∧ SameButPkg s t ∧ a / 65536 ∉ t.pkg.fences
        ∧ (∀ f, f ≠ a / 65536 → (f ∈ t.pkg.fences ↔ f ∈ s.pkg.fences)) ∧ t.pkg.mgmt.mbres = some 0)
    ∧ ((s.regionAt a).isMem = true → s.fencedWhole a = true → exec .releaseFencedFrame s
      = .next { s with pkg := { s.pkg with mgmt := { s.pkg.mgmt with mbres := some 0 } } })
    ∧ (((s.regionAt a).isMem = false ∨ s.fenced a = false) → exec .releaseFencedFrame s
      = .next { s with pkg := { s.pkg with mgmt := { s.pkg.mgmt with mbres := some 0x22 } } }))
  ∧ (∀ (s : State) (d p : Nat), s.commandIs 6 = true → d = bitsOf (s.mbArg 0) 9 8 → d < 3 →
    s.coreOfLcid d (s.mbArg 0 % 128) = some p →
    let v := (vget 0 s.pkg.mgmt.mbarg 1).toInt
    (-320 ≤ v → v ≤ 1200 → ∃ t, exec .setTripPoint s = .next t ∧ SameButPkg s t
      ∧ t.core d p = { s.core d p with trip := BitVec.ofInt 16 v } ∧ t.pkg.mgmt.mbres = some 0)
    ∧ ((v < -320 ∨ 1200 < v) → exec .setTripPoint s
      = .next { s with pkg := { s.pkg with mgmt := { s.pkg.mgmt with mbres := some 0x23 } } }))
  ∧ (∀ (s : State), s.commandIs 7 = true →
    let d := s.mbArg 0 % 4
    let v := s.mbArg 1
    (d < 3 → 65536 ≤ v → v < 2 ^ 32 → ∃ t, exec .setQuantum s = .next t ∧ SameButPkg s t
      ∧ vget 0 t.pkg.quantum d = v ∧ t.pkg.mgmt.mbres = some 0)
    ∧ ((d = 3 ∨ v < 65536 ∨ 2 ^ 32 ≤ v) → exec .setQuantum s
      = .next { s with pkg := { s.pkg with mgmt := { s.pkg.mgmt with mbres := some 0x24 } } }))
  ∧ (∀ (s : State) (r : Nat), s.pkg.mgmt.mbres = some r →
    ∃ t, exec .mailboxCompletion s = .next t ∧ SameButPkg s t ∧ t.pkg.mgmt.mbstat = BitVec.ofNat 64 (256 * r)
      ∧ t.pkg.mgmt.mbres = none ∧ vget 0 t.pkg.msix 0 = vget 0 s.pkg.msix 0 + 1)

/-- R379: RESET leaves no hart, the boot state of its checks and no package number. R370, R383: a thermal reading is noted, requests
a migration of each hart on the core at the trip point, slows clocks and at 125 °C removes power. R210: a scrub counts a single-bit error and drops and fences
a double-bit one. R374: a retried flit is counted. R381: a CXL port that is down fences its frames. R208, R382: of a package whose
read times out, reads of the next step (log 32, DEDUCED: which reads the event stands for) complete with an error response, writes go
on. R208, R376: reads and writes of memory from outside; other packages make none before the ports are up (R382). -/
def Obligations.PackageEvents : Prop :=
  (∀ (b : BootInfo) (s : State), ∃ t, exec (.reset b) s = .next t ∧ t.cpu = Hart.absent ∧ t.others = []
    ∧ t.pkg.mgmt.bstate = (if b.ok then 3 else 4) ∧ t.pkg.mgmt.package = none ∧ t.pkg.gangs = [] ∧ t.pkg.wqs = []
    ∧ t.pkg.vitrines = [] ∧ t.pkg.fences = [] ∧ t.pkg.power = true)
  ∧ (∀ (die core : Nat) (r : BitVec 16) (s : State), die < 3 → core < 128 → -320 ≤ r.toInt → r.toInt ≤ 1200 →
    ∃ t, exec (.thermalRefresh die core r) s = .next t ∧ SameMem s t
      ∧ t.core die core = { s.core die core with
          therm := r, slow := if 880 ≤ r.toInt then true else if r.toInt < 840 then false else (s.core die core).slow }
      ∧ t.pkg.power = (s.pkg.power && decide (r.toInt < 1000))
      ∧ t.others.length = s.others.length
      ∧ ∀ (k : Nat) (h : Hart), (s.cpu :: s.others)[k]? = some h → ∃ m, (t.cpu :: t.others)[k]? = some { h with front := { h.front with mreq := m } }
          ∧ (if h.status = .running ∧ (h.id.die, h.id.core) = (die, core) ∧ (s.core die core).trip.toInt ≤ r.toInt
                ∧ h.front.mreq.getLsbD 0 = false then m.toNat = h.front.mreq.toNat / 65536 * 65536 + 257
              else m = h.front.mreq))
  ∧ (∀ (excess : Bool) (s : State), exec (.powerLimitThrottle excess) s = .next { s with pkg := { s.pkg with limited := excess } })
  ∧ (∀ (a : Nat) (s : State), (s.regionAt a).isMem = true →
    (∃ t, exec (.scrub a false) s = .next t ∧ SameButPkg s t
      ∧ vget 0 (vget DieCnt.reset t.pkg.dies (homeDie a)).ce (memKind a)
        = vget 0 (vget DieCnt.reset s.pkg.dies (homeDie a)).ce (memKind a) + 1)
    ∧ (∃ t, exec (.scrub a true) s = .next t ∧ Puts s t (a / 64 * 64) (List.replicate 64 0) ∧ t.fenced a = true
      ∧ (∀ u ∈ t.pkg.poison, u / 8 ≠ a / 64)
      ∧ vget 0 (vget DieCnt.reset t.pkg.dies (homeDie a)).ue (memKind a)
        = vget 0 (vget DieCnt.reset s.pkg.dies (homeDie a)).ue (memKind a) + 1))
  ∧ (∀ (die : Nat) (s : State), die < 3 → ∃ t, exec (.flitRetry die false) s = .next t ∧ SameButPkg s t
      ∧ (vget DieCnt.reset t.pkg.dies die).lretry = (vget DieCnt.reset s.pkg.dies die).lretry + 1)
  ∧ (∀ (port : Nat) (s : State), port < 12 → ∃ t, exec (.cxlLinkDown port) s = .next t ∧ SameButPkg s t
      ∧ ∀ a, 0x10000000000 ≤ a → (a - 0x10000000000) / 65536 % 12 = port → t.fenced a = true)
  ∧ (∀ (p : Nat) (s : State),
    let t : State := { s with pkg := { s.pkg with unanswered := p :: s.pkg.unanswered } }
    exec (.fabricReadTimeout p) s = .next t
      ∧ ∀ d va pa, s.isLocal pa = false → pa / pkgSpan = p →
          t.checkPhys d .load false va pa = some ⟨.loadFault, 3, 0, va⟩
            ∧ t.checkPhys d .store false va pa = s.checkPhys d .store false va pa)
  ∧ (∀ (w : Bool) (a : Nat) (l : List Byte) (s : State), s.pkg.mgmt.package = none → exec (.fabricRequest w a l) s = .next s)
  ∧ (∀ (a : Nat) (l : List Byte) (s : State), (∀ k, k < l.length → s.writable (a + k) = true) →
    (s.pkg.mgmt.package ≠ none →
      ∃ t, exec (.fabricRequest true a l) s = .next t ∧ Puts s t a l ∧ SamePkg s t ∧ SameCpu s t ∧ SameOthers s t)
    ∧ (∃ t, exec (.hostWrite a l) s = .next t ∧ Puts s t a l ∧ SamePkg s t ∧ SameCpu s t ∧ SameOthers s t))
  ∧ (∀ (a k : Nat) (l : List Byte) (s : State), (s.regionAt a).isMem = true → k < l.length → s.writable (a + k) = false →
    (s.pkg.mgmt.package ≠ none → ∃ t, exec (.fabricRequest true a l) s = .next t ∧ Drops s t .fabric (homeDie a))
    ∧ (∃ t, exec (.hostWrite a l) s = .next t ∧ Drops s t .host (homeDie a)))
  ∧ (∀ (a n : Nat) (s : State), (∀ k, k < n → (s.regionAt (a + k)).isMem = true ∧ s.fenced (a + k) = false) → s.badWords a n = [] →
    (∃ t, exec (.hostRead a n) s = .next t ∧ SameButPkg s t
      ∧ t.pkg = { s.pkg with hostData := readCells s.mem a n, l2 := t.pkg.l2 })
    ∧ ∀ l : List Byte, l.length = n → s.pkg.mgmt.package ≠ none →
      ∃ t, exec (.fabricRequest false a l) s = .next t ∧ SameButPkg s t
        ∧ t.pkg = { s.pkg with fabricData := readCells s.mem a n, l2 := t.pkg.l2 })
  ∧ (∀ (a k : Nat) (l : List Byte) (s : State), s.pkg.mgmt.package ≠ none → k < l.length →
    ((s.regionAt (a + k)).isMem = false ∨ s.fenced (a + k) = true) →
    exec (.fabricRequest false a l) s = .next { s with pkg := { s.pkg with fabricData := [] } })

/-- R25, R35, R36: when the bytes at pc decode to `i`, the hart's slot is its own, it is quiet and waits for nothing, and the window has
room, a step is the meaning of `i`. Behind it, where the queues are not stalled, the stall counter of R31 is 0, the core's counters have
gone on (R371), reads go unanswered no more (R382), and the x registers that an instruction in flight will write are owed by it (R19).
The agenda names who acts else, and a package without power stops (R383). -/
def Obligations.StepRunsDecoded : Prop :=
  (∀ (s : State) (i : Instr), s.pkg.power = true → s.agenda = [] → s.cpu.status = .running → s.cpu.wait = none → Quiet s →
    s.cpu.owed = [] → s.aheadOf s.cpu = none → (sideOf i = 2 → s.mayEnter = true) → FetchesTo s i →
    ∃ t u, exec i s = .next t ∧ step s = .next u
      ∧ (t.stallQueues = none →
        u.cpu = { t.cpu with
          owed := u.cpu.owed, halting := t.cpu.halting || (i == .halt && t.cpu.status = .running && !t.cpu.trapped)
          stall := 0, skips := 0 }
        ∧ u.others = t.others ∧ u.mem = t.mem ∧ u.agenda = t.agenda ∧ u.pkg = { t.pkg with cores := u.pkg.cores, unanswered := [] }
        ∧ (t.cpu.status = .running → t.cpu.wait = none → t.cpu.trapped = false →
          u.cpu.owed = if t.cpu.inflight = [] then [] else (xWrites i).map (fun r => (r.val, s.cpu.front.instret.toNat)))))
  ∧ (∀ (s : State) (e : Instr) (rest : List AgendaItem), s.pkg.power = true → s.agenda = .event e :: rest → e.isEvent = true →
    (s.pkg.unanswered = [] → step s = exec e { s with agenda := rest })
    ∧ ∀ t, exec e { s with agenda := rest } = .next t → step s = .next { t with pkg := { t.pkg with
        unanswered := t.pkg.unanswered.take (t.pkg.unanswered.length - s.pkg.unanswered.length) } })
  ∧ (∀ (s : State), s.pkg.power = false → step s = .fault .powerOff)

/-- Words of the spec's worked encodings (R format, AMO and FENCE), and one of each other format, I, B, S, U, J, V, VM, compressed and
64-bit, written out from R39, R47 and R48; a word of a reserved major decodes to nothing. -/
def Obligations.DecodingIsRight : Prop :=
  decodeTableWord 32 0x01C6202E = some (.fence 2 3)
  ∧ decodeTableWord 32 0x5C58B52A = some (.amoadd ⟨10, 11, 12, 2, true, true, true⟩)
  ∧ decodeTableWord 32 0x0218B532 = some (.launch 10 11 12)
  ∧ decodeTableWord 32 0b111111111111_000_00101_01010_00001_10 = some (.addi 10 5 0xFFF)
  ∧ decodeTableWord 32 0b0000001_00110_001_00101_00100_00110_10 = some (.bne 5 6 0x024)
  ∧ decodeTableWord 16 0b001_00001_000011_00 = some (.hLi 1 3)
  ∧ decodeTableWord 64 0b00000000000000000000000000000011_00001_00000_00110_00101_00001_00000_11
      = some (.mopa 1 5 6 true true)
  ∧ decodeTableWord 32 0b1111111_00110_011_00101_11000_00101_10 = some (.std 6 5 0xFF8)
  ∧ decodeTableWord 32 0b10101011110011011110_01010_00010_10 = some (.liu 10 0xABCDE)
  ∧ decodeTableWord 32 0b11111111111111111110_00001_00111_10 = some (.jal 1 0xFFFFE)
  ∧ decodeTableWord 32 0b000_00_0_1_101_00010_00001_00011_10000_10 = some (.vadd ⟨3, 1, 2, 5, true, false, 0⟩)
  ∧ decodeTableWord 32 0b001_1111111_01100_01011_000_10_01110_10 = some (.vldS ⟨127, 12, 11, 0, 2⟩)
  ∧ decodeTableWord 32 0x0000007E = none

/-- R39, R40, R47, R48: the words of every well-formed instruction decode to it, with every operand at every value the encoding
admits, whatever follows them; and whatever decodes has exactly those words. -/
def Obligations.EncodingRoundTrip : Prop :=
  (∀ (i : Instr) (rest : List Byte), i.isEvent = false → wellFormed i = true →
    decodeBytes (leBytes i.len (encode i) ++ rest) = .ok (i, rest))
  ∧ (∀ (l rest : List Byte) (i : Instr), decodeBytes l = .ok (i, rest) →
    i.isEvent = false ∧ wellFormed i = true ∧ l = leBytes i.len (encode i) ++ rest)

/-- Every step keeps the canonical form of memory (log 1): its addresses strictly rise. -/
def Obligations.MemoryStaysCanonical : Prop :=
  ∀ s t : State, Memory.wf s.mem = true → step s = .next t → Memory.wf t.mem = true

/-- R379, R277, R278, R28, R303, R378: after reset no hart is there and memory lists nothing; queues, quanta, regions and
the mailbox hold their reset values, and the counters of every die and core are 0 (R371, R372). -/
def Obligations.ResetState : Prop :=
  let s := State.reset
  Memory.wf s.mem = true ∧ (∀ a, readCell s.mem a = Config.coldByte a) ∧ s.harts = [] ∧ s.agenda = []
    ∧ (∀ q, s.wq q = ⟨0, 4, 0, 0, 0, 0, 0, 0⟩) ∧ (∀ d, d < 3 → vget 0 s.pkg.quantum d = 4194304)
    ∧ (∀ v, (s.vitrine v).state = 0) ∧ (∀ p, p < 16 → (s.part p).lcap = 0)
    ∧ s.pkg.mgmt.bstate = 0 ∧ s.pkg.mgmt.mbstat = 0 ∧ s.pkg.mgmt.package = none ∧ s.pkg.power = true
    ∧ (∀ d off, d < 3 → off % 8 = 0 → errorCounter off = true → s.mgmtReg d off = 0)
    ∧ (∀ d p, d < 3 → p < 128 → (s.core d p).cret = 0 ∧ (s.core d p).clane = 0 ∧ (s.core d p).cskip = 0 ∧ (s.core d p).cqstall = 0)
    ∧ Front.reset.qslim = 16777216 ∧ (∀ k, k < 28 → vget 0 Front.reset.vtag k = 0x0071)
end

