-- ==== Sys2Proof/Laws/Memory.lean ====
section
/-! SUPPORT. Sparse tables and memory: a read after a write, and the canonical form that every write keeps (log 1). -/

namespace Sys2Proof.Machine

/-! Sparse tables. -/

theorem mfind_minsert {α : Type} (m : SMap α) (k j : Nat) (v : α) :
    mfind (minsert m k v) j = if j = k then some v else mfind m j := by
  induction m with
  | nil => simp [minsert, mfind, eq_comm]
  | cons e t ih =>
    obtain ⟨a, w⟩ := e
    unfold minsert
    split
    · simp [mfind, eq_comm]
    · split
      · subst_vars
        by_cases h : a = j <;> simp [mfind, h, Ne.symm]
      · simp only [mfind, ih]
        by_cases h : a = j
        · subst h; simp; intro h2; omega
        · simp [h]

theorem mget_minsert {α : Type} (d : α) (m : SMap α) (k j : Nat) (v : α) :
    mget d (minsert m k v) j = if j = k then v else mget d m j := by
  induction m with
  | nil => simp [minsert, mget, eq_comm]
  | cons e t ih =>
    obtain ⟨a, w⟩ := e
    unfold minsert
    split
    · simp [mget, eq_comm]
    · split
      · subst_vars
        by_cases h : a = j <;> simp [mget, h, Ne.symm]
      · simp only [mget, ih]
        by_cases h : a = j
        · subst h; simp; intro h2; omega
        · simp [h]

theorem mget_merase {α : Type} (d : α) (m : SMap α) (k j : Nat) :
    mget d (merase m k) j = if j = k then d else mget d m j := by
  induction m with
  | nil => simp [merase, mget]
  | cons e t ih =>
    obtain ⟨a, w⟩ := e
    unfold merase at ih ⊢
    by_cases h : a = k
    · subst h
      simp only [List.filter_cons, bne_self_eq_false, Bool.false_eq_true, if_false, ih, mget]
      by_cases hj : a = j
      · subst hj; simp
      · simp [hj, Ne.symm hj]
    · have : (a != k) = true := by simpa using h
      simp only [List.filter_cons, this, if_true, mget, ih]
      by_cases hj : a = j
      · subst hj; simp [h]
      · simp [hj]

/-- A read after a write that lists no default value. -/
theorem mget_mset {α : Type} [DecidableEq α] (d : α) (m : SMap α) (k j : Nat) (v : α) :
    mget d (mset d m k v) j = if j = k then v else mget d m j := by
  unfold mset
  split
  · subst_vars; exact mget_merase _ _ _ _
  · exact mget_minsert _ _ _ _ _

/-- Keys that rise, said of all pairs. -/
theorem keysRise_iff {α : Type} (m : SMap α) : keysRise m = true ↔ m.Pairwise (fun a b => a.1 < b.1) := by
  induction m with
  | nil => simp [keysRise]
  | cons e t ih =>
    cases t with
    | nil => simp [keysRise]
    | cons f t =>
      obtain ⟨a, v⟩ := e
      obtain ⟨b, w⟩ := f
      simp only [keysRise, Bool.and_eq_true, decide_eq_true_eq, ih, List.pairwise_cons, List.mem_cons]
      constructor
      · rintro ⟨h, h1, h2⟩
        refine ⟨?_, h1, h2⟩
        rintro x (rfl | hx)
        · exact h
        · exact lt_trans h (h1 x hx)
      · rintro ⟨h, h1, h2⟩
        exact ⟨h _ (.inl rfl), h1, h2⟩

theorem mem_minsert {α : Type} (m : SMap α) (k : Nat) (v : α) (e : Nat × α) :
    e ∈ minsert m k v → e = (k, v) ∨ e ∈ m := by
  induction m with
  | nil => simp [minsert]
  | cons f t ih =>
    obtain ⟨a, w⟩ := f
    unfold minsert
    split
    · simp
    · split
      · simp; tauto
      · simp only [List.mem_cons]
        rintro (h | h)
        · exact .inr (.inl h)
        · rcases ih h with h | h
          · exact .inl h
          · exact .inr (.inr h)

/-- Listing a value keeps the keys rising. -/
theorem keysRise_minsert {α : Type} (m : SMap α) (k : Nat) (v : α) (h : keysRise m = true) :
    keysRise (minsert m k v) = true := by
  rw [keysRise_iff] at h ⊢
  induction m with
  | nil => simp [minsert]
  | cons e t ih =>
    obtain ⟨a, w⟩ := e
    have ha : ∀ {x : Nat × α}, x ∈ t → a < x.1 := fun hx => (List.pairwise_cons.1 h).1 _ hx
    have ht := (List.pairwise_cons.1 h).2
    unfold minsert
    split
    · rename_i hk
      refine List.pairwise_cons.2 ⟨?_, h⟩
      intro x hx
      rcases List.mem_cons.1 hx with rfl | hx
      · exact hk
      · exact lt_trans hk (ha hx)
    · split
      · rename_i e
        subst e
        exact List.pairwise_cons.2 ⟨fun x hx => ha hx, ht⟩
      · rename_i h1 h2
        refine List.pairwise_cons.2 ⟨?_, ih ht⟩
        intro x hx
        rcases mem_minsert t k v x hx with rfl | hx
        · show a < k
          omega
        · exact ha hx

/-- Taking a key out keeps the keys rising. -/
theorem keysRise_filter {α : Type} (m : SMap α) (p : Nat × α → Bool) (h : keysRise m = true) :
    keysRise (m.filter p) = true := by
  rw [keysRise_iff] at h ⊢
  exact h.filter p

theorem keysRise_mset {α : Type} [DecidableEq α] (d : α) (m : SMap α) (k : Nat) (v : α) (h : keysRise m = true) :
    keysRise (mset d m k v) = true := by
  unfold mset
  split
  · exact keysRise_filter _ _ h
  · exact keysRise_minsert _ _ _ h

/-- Changing values at their keys keeps the keys rising. -/
theorem keysRise_map {α β : Type} (m : SMap α) (g : Nat × α → β) (h : keysRise m = true) :
    keysRise (m.map (fun e => (e.1, g e))) = true := by
  rw [keysRise_iff] at h ⊢
  rw [List.pairwise_map]
  exact h

/-! Memory. -/

theorem readCell_writeCell (m : List Host.Cell) (a k : Nat) (b : Byte) :
    readCell (writeCell m a b) k = if k = a then b else readCell m k := by
  unfold readCell writeCell
  rw [mfind_minsert]
  split <;> simp

theorem readCell_writeCells (m : List Host.Cell) (a k : Nat) (l : List Byte) :
    readCell (writeCells m a l) k = if a ≤ k ∧ k < a + l.length then l.getD (k - a) 0 else readCell m k := by
  induction l generalizing m a with
  | nil =>
    have : ¬(a ≤ k ∧ k < a) := by omega
    simp [writeCells, this]
  | cons b t ih =>
    simp only [writeCells, ih, readCell_writeCell, List.length_cons]
    by_cases h1 : k = a
    · subst h1
      simp
    · by_cases h2 : a + 1 ≤ k ∧ k < a + 1 + t.length
      · have h3 : a ≤ k ∧ k < a + (t.length + 1) := by omega
        have h4 : k - a = (k - (a + 1)) + 1 := by omega
        simp only [h2, h3, and_self, if_true]
        rw [h4, List.getD_cons_succ]
      · have h3 : ¬(a ≤ k ∧ k < a + (t.length + 1)) := by omega
        rw [if_neg h2, if_neg h3, if_neg h1]

/-- A write leaves every byte outside it alone. -/
theorem readCell_writeCells_outside (m : List Host.Cell) (a k : Nat) (l : List Byte) (h : k < a ∨ a + l.length ≤ k) :
    readCell (writeCells m a l) k = readCell m k := by
  rw [readCell_writeCells, if_neg (by omega)]

theorem readCells_writeCells (m : List Host.Cell) (a : Nat) (l : List Byte) :
    readCells (writeCells m a l) a l.length = l := by
  apply List.ext_getElem
  · simp [readCells]
  · intro k h1 h2
    simp only [readCells, List.getElem_map, List.getElem_range, readCell_writeCells]
    rw [if_pos (by omega)]
    simp [h2]

/-- Memory with nothing listed, as after reset, is canonical. -/
theorem Memory.wf_nil : Memory.wf [] = true := rfl

theorem Memory.wf_reset : Memory.wf State.reset.mem = true := rfl

theorem Memory.wf_writeCell (m : List Host.Cell) (a : Nat) (b : Byte) (h : Memory.wf m = true) :
    Memory.wf (writeCell m a b) = true := keysRise_minsert m a b h

theorem Memory.wf_writeCells (m : List Host.Cell) (a : Nat) (l : List Byte) (h : Memory.wf m = true) :
    Memory.wf (writeCells m a l) = true := by
  induction l generalizing m a with
  | nil => exact h
  | cons b t ih => exact ih _ _ (Memory.wf_writeCell m a b h)

theorem Memory.wf_foldl {β : Type} (l : List β) (g : List Host.Cell → β → List Host.Cell) (m : List Host.Cell)
    (hg : ∀ m e, Memory.wf m = true → Memory.wf (g m e) = true) (h : Memory.wf m = true) :
    Memory.wf (l.foldl g m) = true := by
  induction l generalizing m with
  | nil => exact h
  | cons e t ih => exact ih _ (hg m e h)

/-! Bytes and numbers. -/

@[simp] theorem leBytes_length (n v : Nat) : (leBytes n v).length = n := by
  induction n generalizing v with
  | zero => rfl
  | succ k ih => simp [leBytes, ih]

@[simp] theorem leNat_nil : leNat [] = 0 := rfl

@[simp] theorem leNat_cons (b : Byte) (l : List Byte) : leNat (b :: l) = b.toNat + 256 * leNat l := rfl

theorem leNat_lt (l : List Byte) : leNat l < 256 ^ l.length := by
  induction l with
  | nil => simp
  | cons b t ih =>
    have := b.isLt
    simp only [leNat_cons, List.length_cons, pow_succ]
    omega

/-- The little-endian value of the bytes of a number is the number (R4). -/
theorem leNat_leBytes (n v : Nat) : leNat (leBytes n v) = v % 256 ^ n := by
  induction n generalizing v with
  | zero => simp [leBytes, Nat.mod_one]
  | succ k ih =>
    have h8 : (2 : Nat) ^ 8 = 256 := by norm_num
    rw [leBytes, leNat_cons, ih, BitVec.toNat_ofNat, h8, pow_succ, Nat.mul_comm (256 ^ k) 256, Nat.mod_mul]

/-- The bytes of the value of bytes are the bytes. -/
theorem leBytes_leNat (l : List Byte) : leBytes l.length (leNat l) = l := by
  induction l with
  | nil => rfl
  | cons b t ih =>
    have h1 : (b.toNat + 256 * leNat t) / 256 = leNat t := by have := b.isLt; omega
    have h2 : BitVec.ofNat 8 (b.toNat + 256 * leNat t) = b := by
      apply BitVec.eq_of_toNat_eq
      have := b.isLt
      simp only [BitVec.toNat_ofNat]
      omega
    simp only [List.length_cons, leBytes, leNat_cons, h1, h2, ih]

end Sys2Proof.Machine
end

