-- ==== Sys2Proof/Laws/State.lean ====
section
/-! SUPPORT. What each update of the state leaves in each field: one lemma for each, so that no proof unfolds an update. -/

namespace Sys2Proof.Machine

/-! `State.setFront` -/

@[simp] theorem State.setFront_front (s : State) (f : Front) : (s.setFront f).cpu.front = f := rfl
@[simp] theorem State.setFront_back (s : State) (f : Front) : (s.setFront f).cpu.back = s.cpu.back := rfl
@[simp] theorem State.setFront_id (s : State) (f : Front) : (s.setFront f).cpu.id = s.cpu.id := rfl
@[simp] theorem State.setFront_status (s : State) (f : Front) : (s.setFront f).cpu.status = s.cpu.status := rfl
@[simp] theorem State.setFront_wait (s : State) (f : Front) : (s.setFront f).cpu.wait = s.cpu.wait := rfl
@[simp] theorem State.setFront_inflight (s : State) (f : Front) : (s.setFront f).cpu.inflight = s.cpu.inflight := rfl
@[simp] theorem State.setFront_nextId (s : State) (f : Front) : (s.setFront f).cpu.nextId = s.cpu.nextId := rfl
@[simp] theorem State.setFront_digest (s : State) (f : Front) : (s.setFront f).cpu.digest = s.cpu.digest := rfl
@[simp] theorem State.setFront_trapped (s : State) (f : Front) : (s.setFront f).cpu.trapped = s.cpu.trapped := rfl
@[simp] theorem State.setFront_lanes (s : State) (f : Front) : (s.setFront f).cpu.lanes = s.cpu.lanes := rfl
@[simp] theorem State.setFront_due (s : State) (f : Front) : (s.setFront f).cpu.due = s.cpu.due := rfl
@[simp] theorem State.setFront_stall (s : State) (f : Front) : (s.setFront f).cpu.stall = s.cpu.stall := rfl
@[simp] theorem State.setFront_owed (s : State) (f : Front) : (s.setFront f).cpu.owed = s.cpu.owed := rfl
@[simp] theorem State.setFront_asked (s : State) (f : Front) : (s.setFront f).cpu.asked = s.cpu.asked := rfl
@[simp] theorem State.setFront_halting (s : State) (f : Front) : (s.setFront f).cpu.halting = s.cpu.halting := rfl
@[simp] theorem State.setFront_groups (s : State) (f : Front) : (s.setFront f).cpu.groups = s.cpu.groups := rfl
@[simp] theorem State.setFront_resumed (s : State) (f : Front) : (s.setFront f).cpu.resumed = s.cpu.resumed := rfl
@[simp] theorem State.setFront_skips (s : State) (f : Front) : (s.setFront f).cpu.skips = s.cpu.skips := rfl
@[simp] theorem State.setFront_others (s : State) (f : Front) : (s.setFront f).others = s.others := rfl
@[simp] theorem State.setFront_mem (s : State) (f : Front) : (s.setFront f).mem = s.mem := rfl
@[simp] theorem State.setFront_pkg (s : State) (f : Front) : (s.setFront f).pkg = s.pkg := rfl
@[simp] theorem State.setFront_agenda (s : State) (f : Front) : (s.setFront f).agenda = s.agenda := rfl
@[simp] theorem State.setFront_tick (s : State) (f : Front) : (s.setFront f).tick = s.tick := rfl

/-! `State.setBack` -/

@[simp] theorem State.setBack_front (s : State) (b : Back) : (s.setBack b).cpu.front = s.cpu.front := rfl
@[simp] theorem State.setBack_back (s : State) (b : Back) : (s.setBack b).cpu.back = b := rfl
@[simp] theorem State.setBack_id (s : State) (b : Back) : (s.setBack b).cpu.id = s.cpu.id := rfl
@[simp] theorem State.setBack_status (s : State) (b : Back) : (s.setBack b).cpu.status = s.cpu.status := rfl
@[simp] theorem State.setBack_wait (s : State) (b : Back) : (s.setBack b).cpu.wait = s.cpu.wait := rfl
@[simp] theorem State.setBack_inflight (s : State) (b : Back) : (s.setBack b).cpu.inflight = s.cpu.inflight := rfl
@[simp] theorem State.setBack_nextId (s : State) (b : Back) : (s.setBack b).cpu.nextId = s.cpu.nextId := rfl
@[simp] theorem State.setBack_digest (s : State) (b : Back) : (s.setBack b).cpu.digest = s.cpu.digest := rfl
@[simp] theorem State.setBack_trapped (s : State) (b : Back) : (s.setBack b).cpu.trapped = s.cpu.trapped := rfl
@[simp] theorem State.setBack_lanes (s : State) (b : Back) : (s.setBack b).cpu.lanes = s.cpu.lanes := rfl
@[simp] theorem State.setBack_due (s : State) (b : Back) : (s.setBack b).cpu.due = s.cpu.due := rfl
@[simp] theorem State.setBack_stall (s : State) (b : Back) : (s.setBack b).cpu.stall = s.cpu.stall := rfl
@[simp] theorem State.setBack_owed (s : State) (b : Back) : (s.setBack b).cpu.owed = s.cpu.owed := rfl
@[simp] theorem State.setBack_asked (s : State) (b : Back) : (s.setBack b).cpu.asked = s.cpu.asked := rfl
@[simp] theorem State.setBack_halting (s : State) (b : Back) : (s.setBack b).cpu.halting = s.cpu.halting := rfl
@[simp] theorem State.setBack_groups (s : State) (b : Back) : (s.setBack b).cpu.groups = s.cpu.groups := rfl
@[simp] theorem State.setBack_resumed (s : State) (b : Back) : (s.setBack b).cpu.resumed = s.cpu.resumed := rfl
@[simp] theorem State.setBack_skips (s : State) (b : Back) : (s.setBack b).cpu.skips = s.cpu.skips := rfl
@[simp] theorem State.setBack_others (s : State) (b : Back) : (s.setBack b).others = s.others := rfl
@[simp] theorem State.setBack_mem (s : State) (b : Back) : (s.setBack b).mem = s.mem := rfl
@[simp] theorem State.setBack_pkg (s : State) (b : Back) : (s.setBack b).pkg = s.pkg := rfl
@[simp] theorem State.setBack_agenda (s : State) (b : Back) : (s.setBack b).agenda = s.agenda := rfl
@[simp] theorem State.setBack_tick (s : State) (b : Back) : (s.setBack b).tick = s.tick := rfl

/-! `State.setX` -/

@[simp] theorem State.setX_front (s : State) (r : Reg) (v : W64) : (s.setX r v).cpu.front = s.cpu.front.setX r v := rfl
@[simp] theorem State.setX_back (s : State) (r : Reg) (v : W64) : (s.setX r v).cpu.back = s.cpu.back := rfl
@[simp] theorem State.setX_id (s : State) (r : Reg) (v : W64) : (s.setX r v).cpu.id = s.cpu.id := rfl
@[simp] theorem State.setX_status (s : State) (r : Reg) (v : W64) : (s.setX r v).cpu.status = s.cpu.status := rfl
@[simp] theorem State.setX_wait (s : State) (r : Reg) (v : W64) : (s.setX r v).cpu.wait = s.cpu.wait := rfl
@[simp] theorem State.setX_inflight (s : State) (r : Reg) (v : W64) : (s.setX r v).cpu.inflight = s.cpu.inflight := rfl
@[simp] theorem State.setX_nextId (s : State) (r : Reg) (v : W64) : (s.setX r v).cpu.nextId = s.cpu.nextId := rfl
@[simp] theorem State.setX_digest (s : State) (r : Reg) (v : W64) : (s.setX r v).cpu.digest = s.cpu.digest := rfl
@[simp] theorem State.setX_trapped (s : State) (r : Reg) (v : W64) : (s.setX r v).cpu.trapped = s.cpu.trapped := rfl
@[simp] theorem State.setX_lanes (s : State) (r : Reg) (v : W64) : (s.setX r v).cpu.lanes = s.cpu.lanes := rfl
@[simp] theorem State.setX_due (s : State) (r : Reg) (v : W64) : (s.setX r v).cpu.due = s.cpu.due := rfl
@[simp] theorem State.setX_stall (s : State) (r : Reg) (v : W64) : (s.setX r v).cpu.stall = s.cpu.stall := rfl
@[simp] theorem State.setX_owed (s : State) (r : Reg) (v : W64) : (s.setX r v).cpu.owed = s.cpu.owed := rfl
@[simp] theorem State.setX_asked (s : State) (r : Reg) (v : W64) : (s.setX r v).cpu.asked = s.cpu.asked := rfl
@[simp] theorem State.setX_halting (s : State) (r : Reg) (v : W64) : (s.setX r v).cpu.halting = s.cpu.halting := rfl
@[simp] theorem State.setX_groups (s : State) (r : Reg) (v : W64) : (s.setX r v).cpu.groups = s.cpu.groups := rfl
@[simp] theorem State.setX_resumed (s : State) (r : Reg) (v : W64) : (s.setX r v).cpu.resumed = s.cpu.resumed := rfl
@[simp] theorem State.setX_skips (s : State) (r : Reg) (v : W64) : (s.setX r v).cpu.skips = s.cpu.skips := rfl
@[simp] theorem State.setX_others (s : State) (r : Reg) (v : W64) : (s.setX r v).others = s.others := rfl
@[simp] theorem State.setX_mem (s : State) (r : Reg) (v : W64) : (s.setX r v).mem = s.mem := rfl
@[simp] theorem State.setX_pkg (s : State) (r : Reg) (v : W64) : (s.setX r v).pkg = s.pkg := rfl
@[simp] theorem State.setX_agenda (s : State) (r : Reg) (v : W64) : (s.setX r v).agenda = s.agenda := rfl
@[simp] theorem State.setX_tick (s : State) (r : Reg) (v : W64) : (s.setX r v).tick = s.tick := rfl

/-! `State.setPc` -/

@[simp] theorem State.setPc_front (s : State) (a : W64) : (s.setPc a).cpu.front = { s.cpu.front with pc := a } := rfl
@[simp] theorem State.setPc_back (s : State) (a : W64) : (s.setPc a).cpu.back = s.cpu.back := rfl
@[simp] theorem State.setPc_id (s : State) (a : W64) : (s.setPc a).cpu.id = s.cpu.id := rfl
@[simp] theorem State.setPc_status (s : State) (a : W64) : (s.setPc a).cpu.status = s.cpu.status := rfl
@[simp] theorem State.setPc_wait (s : State) (a : W64) : (s.setPc a).cpu.wait = s.cpu.wait := rfl
@[simp] theorem State.setPc_inflight (s : State) (a : W64) : (s.setPc a).cpu.inflight = s.cpu.inflight := rfl
@[simp] theorem State.setPc_nextId (s : State) (a : W64) : (s.setPc a).cpu.nextId = s.cpu.nextId := rfl
@[simp] theorem State.setPc_digest (s : State) (a : W64) : (s.setPc a).cpu.digest = s.cpu.digest := rfl
@[simp] theorem State.setPc_trapped (s : State) (a : W64) : (s.setPc a).cpu.trapped = s.cpu.trapped := rfl
@[simp] theorem State.setPc_lanes (s : State) (a : W64) : (s.setPc a).cpu.lanes = s.cpu.lanes := rfl
@[simp] theorem State.setPc_due (s : State) (a : W64) : (s.setPc a).cpu.due = s.cpu.due := rfl
@[simp] theorem State.setPc_stall (s : State) (a : W64) : (s.setPc a).cpu.stall = s.cpu.stall := rfl
@[simp] theorem State.setPc_owed (s : State) (a : W64) : (s.setPc a).cpu.owed = s.cpu.owed := rfl
@[simp] theorem State.setPc_asked (s : State) (a : W64) : (s.setPc a).cpu.asked = s.cpu.asked := rfl
@[simp] theorem State.setPc_halting (s : State) (a : W64) : (s.setPc a).cpu.halting = s.cpu.halting := rfl
@[simp] theorem State.setPc_groups (s : State) (a : W64) : (s.setPc a).cpu.groups = s.cpu.groups := rfl
@[simp] theorem State.setPc_resumed (s : State) (a : W64) : (s.setPc a).cpu.resumed = s.cpu.resumed := rfl
@[simp] theorem State.setPc_skips (s : State) (a : W64) : (s.setPc a).cpu.skips = s.cpu.skips := rfl
@[simp] theorem State.setPc_others (s : State) (a : W64) : (s.setPc a).others = s.others := rfl
@[simp] theorem State.setPc_mem (s : State) (a : W64) : (s.setPc a).mem = s.mem := rfl
@[simp] theorem State.setPc_pkg (s : State) (a : W64) : (s.setPc a).pkg = s.pkg := rfl
@[simp] theorem State.setPc_agenda (s : State) (a : W64) : (s.setPc a).agenda = s.agenda := rfl
@[simp] theorem State.setPc_tick (s : State) (a : W64) : (s.setPc a).tick = s.tick := rfl

/-! `State.tock` -/

@[simp] theorem State.tock_front (s : State) : s.tock.cpu.front = s.cpu.front := rfl
@[simp] theorem State.tock_back (s : State) : s.tock.cpu.back = s.cpu.back := rfl
@[simp] theorem State.tock_id (s : State) : s.tock.cpu.id = s.cpu.id := rfl
@[simp] theorem State.tock_status (s : State) : s.tock.cpu.status = s.cpu.status := rfl
@[simp] theorem State.tock_wait (s : State) : s.tock.cpu.wait = s.cpu.wait := rfl
@[simp] theorem State.tock_inflight (s : State) : s.tock.cpu.inflight = s.cpu.inflight := rfl
@[simp] theorem State.tock_nextId (s : State) : s.tock.cpu.nextId = s.cpu.nextId := rfl
@[simp] theorem State.tock_digest (s : State) : s.tock.cpu.digest = s.cpu.digest := rfl
@[simp] theorem State.tock_trapped (s : State) : s.tock.cpu.trapped = s.cpu.trapped := rfl
@[simp] theorem State.tock_lanes (s : State) : s.tock.cpu.lanes = s.cpu.lanes := rfl
@[simp] theorem State.tock_due (s : State) : s.tock.cpu.due = s.cpu.due := rfl
@[simp] theorem State.tock_stall (s : State) : s.tock.cpu.stall = s.cpu.stall := rfl
@[simp] theorem State.tock_owed (s : State) : s.tock.cpu.owed = s.cpu.owed := rfl
@[simp] theorem State.tock_asked (s : State) : s.tock.cpu.asked = s.cpu.asked := rfl
@[simp] theorem State.tock_halting (s : State) : s.tock.cpu.halting = s.cpu.halting := rfl
@[simp] theorem State.tock_groups (s : State) : s.tock.cpu.groups = s.cpu.groups := rfl
@[simp] theorem State.tock_resumed (s : State) : s.tock.cpu.resumed = s.cpu.resumed := rfl
@[simp] theorem State.tock_skips (s : State) : s.tock.cpu.skips = s.cpu.skips := rfl
@[simp] theorem State.tock_others (s : State) : s.tock.others = s.others := rfl
@[simp] theorem State.tock_mem (s : State) : s.tock.mem = s.mem := rfl
@[simp] theorem State.tock_pkg (s : State) : s.tock.pkg = s.pkg := rfl
@[simp] theorem State.tock_agenda (s : State) : s.tock.agenda = s.agenda := rfl
@[simp] theorem State.tock_tick (s : State) : s.tock.tick = s.tick + 1 := rfl

/-! `State.retireTo` -/

@[simp] theorem State.retireTo_front (s : State) (a : W64) : (s.retireTo a).cpu.front = { s.cpu.front with
      pc := a, instret := s.cpu.front.instret + 1, cycle := s.cpu.front.cycle + Config.freeCycles s.tick } := rfl
@[simp] theorem State.retireTo_back (s : State) (a : W64) : (s.retireTo a).cpu.back = s.cpu.back := rfl
@[simp] theorem State.retireTo_id (s : State) (a : W64) : (s.retireTo a).cpu.id = s.cpu.id := rfl
@[simp] theorem State.retireTo_status (s : State) (a : W64) : (s.retireTo a).cpu.status = s.cpu.status := rfl
@[simp] theorem State.retireTo_wait (s : State) (a : W64) : (s.retireTo a).cpu.wait = none := rfl
@[simp] theorem State.retireTo_inflight (s : State) (a : W64) : (s.retireTo a).cpu.inflight = s.cpu.inflight := rfl
@[simp] theorem State.retireTo_nextId (s : State) (a : W64) : (s.retireTo a).cpu.nextId = s.cpu.nextId := rfl
@[simp] theorem State.retireTo_digest (s : State) (a : W64) : (s.retireTo a).cpu.digest = s.cpu.digest := rfl
@[simp] theorem State.retireTo_trapped (s : State) (a : W64) : (s.retireTo a).cpu.trapped = false := rfl
@[simp] theorem State.retireTo_lanes (s : State) (a : W64) : (s.retireTo a).cpu.lanes = s.cpu.lanes := rfl
@[simp] theorem State.retireTo_due (s : State) (a : W64) : (s.retireTo a).cpu.due = none := rfl
@[simp] theorem State.retireTo_stall (s : State) (a : W64) : (s.retireTo a).cpu.stall = s.cpu.stall := rfl
@[simp] theorem State.retireTo_owed (s : State) (a : W64) : (s.retireTo a).cpu.owed = s.cpu.owed := rfl
@[simp] theorem State.retireTo_asked (s : State) (a : W64) : (s.retireTo a).cpu.asked = s.cpu.asked := rfl
@[simp] theorem State.retireTo_halting (s : State) (a : W64) : (s.retireTo a).cpu.halting = s.cpu.halting := rfl
@[simp] theorem State.retireTo_groups (s : State) (a : W64) : (s.retireTo a).cpu.groups = s.cpu.groups := rfl
@[simp] theorem State.retireTo_resumed (s : State) (a : W64) : (s.retireTo a).cpu.resumed = if s.cpu.inflight.isEmpty && s.cpu.front.vstart = 0 then 0 else s.cpu.resumed := rfl
@[simp] theorem State.retireTo_skips (s : State) (a : W64) : (s.retireTo a).cpu.skips = s.cpu.skips := rfl
@[simp] theorem State.retireTo_others (s : State) (a : W64) : (s.retireTo a).others = s.others := rfl
@[simp] theorem State.retireTo_mem (s : State) (a : W64) : (s.retireTo a).mem = s.mem := rfl
@[simp] theorem State.retireTo_pkg (s : State) (a : W64) : (s.retireTo a).pkg = s.pkg := rfl
@[simp] theorem State.retireTo_agenda (s : State) (a : W64) : (s.retireTo a).agenda = s.agenda := rfl
@[simp] theorem State.retireTo_tick (s : State) (a : W64) : (s.retireTo a).tick = s.tick + 1 := rfl

/-! `State.retire` -/

@[simp] theorem State.retire_front (s : State) (n : Nat) : (s.retire n).cpu.front = { s.cpu.front with
      pc := s.cpu.front.pc + BitVec.ofNat 64 n, instret := s.cpu.front.instret + 1
      cycle := s.cpu.front.cycle + Config.freeCycles s.tick } := rfl
@[simp] theorem State.retire_back (s : State) (n : Nat) : (s.retire n).cpu.back = s.cpu.back := rfl
@[simp] theorem State.retire_id (s : State) (n : Nat) : (s.retire n).cpu.id = s.cpu.id := rfl
@[simp] theorem State.retire_status (s : State) (n : Nat) : (s.retire n).cpu.status = s.cpu.status := rfl
@[simp] theorem State.retire_wait (s : State) (n : Nat) : (s.retire n).cpu.wait = none := rfl
@[simp] theorem State.retire_inflight (s : State) (n : Nat) : (s.retire n).cpu.inflight = s.cpu.inflight := rfl
@[simp] theorem State.retire_nextId (s : State) (n : Nat) : (s.retire n).cpu.nextId = s.cpu.nextId := rfl
@[simp] theorem State.retire_digest (s : State) (n : Nat) : (s.retire n).cpu.digest = s.cpu.digest := rfl
@[simp] theorem State.retire_trapped (s : State) (n : Nat) : (s.retire n).cpu.trapped = false := rfl
@[simp] theorem State.retire_lanes (s : State) (n : Nat) : (s.retire n).cpu.lanes = s.cpu.lanes := rfl
@[simp] theorem State.retire_due (s : State) (n : Nat) : (s.retire n).cpu.due = none := rfl
@[simp] theorem State.retire_stall (s : State) (n : Nat) : (s.retire n).cpu.stall = s.cpu.stall := rfl
@[simp] theorem State.retire_owed (s : State) (n : Nat) : (s.retire n).cpu.owed = s.cpu.owed := rfl
@[simp] theorem State.retire_asked (s : State) (n : Nat) : (s.retire n).cpu.asked = s.cpu.asked := rfl
@[simp] theorem State.retire_halting (s : State) (n : Nat) : (s.retire n).cpu.halting = s.cpu.halting := rfl
@[simp] theorem State.retire_groups (s : State) (n : Nat) : (s.retire n).cpu.groups = s.cpu.groups := rfl
@[simp] theorem State.retire_resumed (s : State) (n : Nat) : (s.retire n).cpu.resumed = if s.cpu.inflight.isEmpty && s.cpu.front.vstart = 0 then 0 else s.cpu.resumed := rfl
@[simp] theorem State.retire_skips (s : State) (n : Nat) : (s.retire n).cpu.skips = s.cpu.skips := rfl
@[simp] theorem State.retire_others (s : State) (n : Nat) : (s.retire n).others = s.others := rfl
@[simp] theorem State.retire_mem (s : State) (n : Nat) : (s.retire n).mem = s.mem := rfl
@[simp] theorem State.retire_pkg (s : State) (n : Nat) : (s.retire n).pkg = s.pkg := rfl
@[simp] theorem State.retire_agenda (s : State) (n : Nat) : (s.retire n).agenda = s.agenda := rfl
@[simp] theorem State.retire_tick (s : State) (n : Nat) : (s.retire n).tick = s.tick + 1 := rfl

/-! `State.block` -/

@[simp] theorem State.block_front (s : State) (w : Wait) : (s.block w).cpu.front = { s.cpu.front with cycle := s.cpu.front.cycle + Config.freeCycles s.tick } := rfl
@[simp] theorem State.block_back (s : State) (w : Wait) : (s.block w).cpu.back = s.cpu.back := rfl
@[simp] theorem State.block_id (s : State) (w : Wait) : (s.block w).cpu.id = s.cpu.id := rfl
@[simp] theorem State.block_status (s : State) (w : Wait) : (s.block w).cpu.status = s.cpu.status := rfl
@[simp] theorem State.block_wait (s : State) (w : Wait) : (s.block w).cpu.wait = some w := rfl
@[simp] theorem State.block_inflight (s : State) (w : Wait) : (s.block w).cpu.inflight = s.cpu.inflight := rfl
@[simp] theorem State.block_nextId (s : State) (w : Wait) : (s.block w).cpu.nextId = s.cpu.nextId := rfl
@[simp] theorem State.block_digest (s : State) (w : Wait) : (s.block w).cpu.digest = s.cpu.digest := rfl
@[simp] theorem State.block_trapped (s : State) (w : Wait) : (s.block w).cpu.trapped = false := rfl
@[simp] theorem State.block_lanes (s : State) (w : Wait) : (s.block w).cpu.lanes = s.cpu.lanes := rfl
@[simp] theorem State.block_due (s : State) (w : Wait) : (s.block w).cpu.due = s.cpu.due := rfl
@[simp] theorem State.block_stall (s : State) (w : Wait) : (s.block w).cpu.stall = s.cpu.stall := rfl
@[simp] theorem State.block_owed (s : State) (w : Wait) : (s.block w).cpu.owed = s.cpu.owed := rfl
@[simp] theorem State.block_asked (s : State) (w : Wait) : (s.block w).cpu.asked = if s.cpu.wait = some .window then s.cpu.asked else s.tick := rfl
@[simp] theorem State.block_halting (s : State) (w : Wait) : (s.block w).cpu.halting = s.cpu.halting := rfl
@[simp] theorem State.block_groups (s : State) (w : Wait) : (s.block w).cpu.groups = s.cpu.groups := rfl
@[simp] theorem State.block_resumed (s : State) (w : Wait) : (s.block w).cpu.resumed = s.cpu.resumed := rfl
@[simp] theorem State.block_skips (s : State) (w : Wait) : (s.block w).cpu.skips = s.cpu.skips := rfl
@[simp] theorem State.block_others (s : State) (w : Wait) : (s.block w).others = s.others := rfl
@[simp] theorem State.block_mem (s : State) (w : Wait) : (s.block w).mem = s.mem := rfl
@[simp] theorem State.block_pkg (s : State) (w : Wait) : (s.block w).pkg = s.pkg := rfl
@[simp] theorem State.block_agenda (s : State) (w : Wait) : (s.block w).agenda = s.agenda := rfl
@[simp] theorem State.block_tick (s : State) (w : Wait) : (s.block w).tick = s.tick + 1 := rfl

/-! `State.setGang` -/

@[simp] theorem State.setGang_front (s : State) (g : Gang) : (s.setGang g).cpu.front = s.cpu.front := rfl
@[simp] theorem State.setGang_back (s : State) (g : Gang) : (s.setGang g).cpu.back = s.cpu.back := rfl
@[simp] theorem State.setGang_id (s : State) (g : Gang) : (s.setGang g).cpu.id = s.cpu.id := rfl
@[simp] theorem State.setGang_status (s : State) (g : Gang) : (s.setGang g).cpu.status = s.cpu.status := rfl
@[simp] theorem State.setGang_wait (s : State) (g : Gang) : (s.setGang g).cpu.wait = s.cpu.wait := rfl
@[simp] theorem State.setGang_inflight (s : State) (g : Gang) : (s.setGang g).cpu.inflight = s.cpu.inflight := rfl
@[simp] theorem State.setGang_nextId (s : State) (g : Gang) : (s.setGang g).cpu.nextId = s.cpu.nextId := rfl
@[simp] theorem State.setGang_digest (s : State) (g : Gang) : (s.setGang g).cpu.digest = s.cpu.digest := rfl
@[simp] theorem State.setGang_trapped (s : State) (g : Gang) : (s.setGang g).cpu.trapped = s.cpu.trapped := rfl
@[simp] theorem State.setGang_lanes (s : State) (g : Gang) : (s.setGang g).cpu.lanes = s.cpu.lanes := rfl
@[simp] theorem State.setGang_due (s : State) (g : Gang) : (s.setGang g).cpu.due = s.cpu.due := rfl
@[simp] theorem State.setGang_stall (s : State) (g : Gang) : (s.setGang g).cpu.stall = s.cpu.stall := rfl
@[simp] theorem State.setGang_owed (s : State) (g : Gang) : (s.setGang g).cpu.owed = s.cpu.owed := rfl
@[simp] theorem State.setGang_asked (s : State) (g : Gang) : (s.setGang g).cpu.asked = s.cpu.asked := rfl
@[simp] theorem State.setGang_halting (s : State) (g : Gang) : (s.setGang g).cpu.halting = s.cpu.halting := rfl
@[simp] theorem State.setGang_groups (s : State) (g : Gang) : (s.setGang g).cpu.groups = s.cpu.groups := rfl
@[simp] theorem State.setGang_resumed (s : State) (g : Gang) : (s.setGang g).cpu.resumed = s.cpu.resumed := rfl
@[simp] theorem State.setGang_skips (s : State) (g : Gang) : (s.setGang g).cpu.skips = s.cpu.skips := rfl
@[simp] theorem State.setGang_others (s : State) (g : Gang) : (s.setGang g).others = s.others := rfl
@[simp] theorem State.setGang_mem (s : State) (g : Gang) : (s.setGang g).mem = s.mem := rfl
@[simp] theorem State.setGang_pkg (s : State) (g : Gang) : (s.setGang g).pkg = { s.pkg with gangs := s.pkg.gangs.map (fun h => if h.gid = g.gid then g else h) } := rfl
@[simp] theorem State.setGang_agenda (s : State) (g : Gang) : (s.setGang g).agenda = s.agenda := rfl
@[simp] theorem State.setGang_tick (s : State) (g : Gang) : (s.setGang g).tick = s.tick := rfl

/-! `State.setWq` -/

@[simp] theorem State.setWq_front (s : State) (q : Nat) (w : WQ) : (s.setWq q w).cpu.front = s.cpu.front := rfl
@[simp] theorem State.setWq_back (s : State) (q : Nat) (w : WQ) : (s.setWq q w).cpu.back = s.cpu.back := rfl
@[simp] theorem State.setWq_id (s : State) (q : Nat) (w : WQ) : (s.setWq q w).cpu.id = s.cpu.id := rfl
@[simp] theorem State.setWq_status (s : State) (q : Nat) (w : WQ) : (s.setWq q w).cpu.status = s.cpu.status := rfl
@[simp] theorem State.setWq_wait (s : State) (q : Nat) (w : WQ) : (s.setWq q w).cpu.wait = s.cpu.wait := rfl
@[simp] theorem State.setWq_inflight (s : State) (q : Nat) (w : WQ) : (s.setWq q w).cpu.inflight = s.cpu.inflight := rfl
@[simp] theorem State.setWq_nextId (s : State) (q : Nat) (w : WQ) : (s.setWq q w).cpu.nextId = s.cpu.nextId := rfl
@[simp] theorem State.setWq_digest (s : State) (q : Nat) (w : WQ) : (s.setWq q w).cpu.digest = s.cpu.digest := rfl
@[simp] theorem State.setWq_trapped (s : State) (q : Nat) (w : WQ) : (s.setWq q w).cpu.trapped = s.cpu.trapped := rfl
@[simp] theorem State.setWq_lanes (s : State) (q : Nat) (w : WQ) : (s.setWq q w).cpu.lanes = s.cpu.lanes := rfl
@[simp] theorem State.setWq_due (s : State) (q : Nat) (w : WQ) : (s.setWq q w).cpu.due = s.cpu.due := rfl
@[simp] theorem State.setWq_stall (s : State) (q : Nat) (w : WQ) : (s.setWq q w).cpu.stall = s.cpu.stall := rfl
@[simp] theorem State.setWq_owed (s : State) (q : Nat) (w : WQ) : (s.setWq q w).cpu.owed = s.cpu.owed := rfl
@[simp] theorem State.setWq_asked (s : State) (q : Nat) (w : WQ) : (s.setWq q w).cpu.asked = s.cpu.asked := rfl
@[simp] theorem State.setWq_halting (s : State) (q : Nat) (w : WQ) : (s.setWq q w).cpu.halting = s.cpu.halting := rfl
@[simp] theorem State.setWq_groups (s : State) (q : Nat) (w : WQ) : (s.setWq q w).cpu.groups = s.cpu.groups := rfl
@[simp] theorem State.setWq_resumed (s : State) (q : Nat) (w : WQ) : (s.setWq q w).cpu.resumed = s.cpu.resumed := rfl
@[simp] theorem State.setWq_skips (s : State) (q : Nat) (w : WQ) : (s.setWq q w).cpu.skips = s.cpu.skips := rfl
@[simp] theorem State.setWq_others (s : State) (q : Nat) (w : WQ) : (s.setWq q w).others = s.others := rfl
@[simp] theorem State.setWq_mem (s : State) (q : Nat) (w : WQ) : (s.setWq q w).mem = s.mem := rfl
@[simp] theorem State.setWq_pkg (s : State) (q : Nat) (w : WQ) : (s.setWq q w).pkg = { s.pkg with wqs := mset WQ.reset s.pkg.wqs q w } := rfl
@[simp] theorem State.setWq_agenda (s : State) (q : Nat) (w : WQ) : (s.setWq q w).agenda = s.agenda := rfl
@[simp] theorem State.setWq_tick (s : State) (q : Nat) (w : WQ) : (s.setWq q w).tick = s.tick := rfl

/-! `State.setCore` -/

@[simp] theorem State.setCore_front (s : State) (d p : Nat) (c : CoreSt) : (s.setCore d p c).cpu.front = s.cpu.front := rfl
@[simp] theorem State.setCore_back (s : State) (d p : Nat) (c : CoreSt) : (s.setCore d p c).cpu.back = s.cpu.back := rfl
@[simp] theorem State.setCore_id (s : State) (d p : Nat) (c : CoreSt) : (s.setCore d p c).cpu.id = s.cpu.id := rfl
@[simp] theorem State.setCore_status (s : State) (d p : Nat) (c : CoreSt) : (s.setCore d p c).cpu.status = s.cpu.status := rfl
@[simp] theorem State.setCore_wait (s : State) (d p : Nat) (c : CoreSt) : (s.setCore d p c).cpu.wait = s.cpu.wait := rfl
@[simp] theorem State.setCore_inflight (s : State) (d p : Nat) (c : CoreSt) : (s.setCore d p c).cpu.inflight = s.cpu.inflight := rfl
@[simp] theorem State.setCore_nextId (s : State) (d p : Nat) (c : CoreSt) : (s.setCore d p c).cpu.nextId = s.cpu.nextId := rfl
@[simp] theorem State.setCore_digest (s : State) (d p : Nat) (c : CoreSt) : (s.setCore d p c).cpu.digest = s.cpu.digest := rfl
@[simp] theorem State.setCore_trapped (s : State) (d p : Nat) (c : CoreSt) : (s.setCore d p c).cpu.trapped = s.cpu.trapped := rfl
@[simp] theorem State.setCore_lanes (s : State) (d p : Nat) (c : CoreSt) : (s.setCore d p c).cpu.lanes = s.cpu.lanes := rfl
@[simp] theorem State.setCore_due (s : State) (d p : Nat) (c : CoreSt) : (s.setCore d p c).cpu.due = s.cpu.due := rfl
@[simp] theorem State.setCore_stall (s : State) (d p : Nat) (c : CoreSt) : (s.setCore d p c).cpu.stall = s.cpu.stall := rfl
@[simp] theorem State.setCore_owed (s : State) (d p : Nat) (c : CoreSt) : (s.setCore d p c).cpu.owed = s.cpu.owed := rfl
@[simp] theorem State.setCore_asked (s : State) (d p : Nat) (c : CoreSt) : (s.setCore d p c).cpu.asked = s.cpu.asked := rfl
@[simp] theorem State.setCore_halting (s : State) (d p : Nat) (c : CoreSt) : (s.setCore d p c).cpu.halting = s.cpu.halting := rfl
@[simp] theorem State.setCore_groups (s : State) (d p : Nat) (c : CoreSt) : (s.setCore d p c).cpu.groups = s.cpu.groups := rfl
@[simp] theorem State.setCore_resumed (s : State) (d p : Nat) (c : CoreSt) : (s.setCore d p c).cpu.resumed = s.cpu.resumed := rfl
@[simp] theorem State.setCore_skips (s : State) (d p : Nat) (c : CoreSt) : (s.setCore d p c).cpu.skips = s.cpu.skips := rfl
@[simp] theorem State.setCore_others (s : State) (d p : Nat) (c : CoreSt) : (s.setCore d p c).others = s.others := rfl
@[simp] theorem State.setCore_mem (s : State) (d p : Nat) (c : CoreSt) : (s.setCore d p c).mem = s.mem := rfl
@[simp] theorem State.setCore_pkg (s : State) (d p : Nat) (c : CoreSt) : (s.setCore d p c).pkg = { s.pkg with cores := minsert s.pkg.cores (128 * d + p) c } := rfl
@[simp] theorem State.setCore_agenda (s : State) (d p : Nat) (c : CoreSt) : (s.setCore d p c).agenda = s.agenda := rfl
@[simp] theorem State.setCore_tick (s : State) (d p : Nat) (c : CoreSt) : (s.setCore d p c).tick = s.tick := rfl

/-! `State.setLog` -/

@[simp] theorem State.setLog_front (s : State) (p : Nat) (x : Part) : (s.setLog p x).cpu.front = s.cpu.front := rfl
@[simp] theorem State.setLog_back (s : State) (p : Nat) (x : Part) : (s.setLog p x).cpu.back = s.cpu.back := rfl
@[simp] theorem State.setLog_id (s : State) (p : Nat) (x : Part) : (s.setLog p x).cpu.id = s.cpu.id := rfl
@[simp] theorem State.setLog_status (s : State) (p : Nat) (x : Part) : (s.setLog p x).cpu.status = s.cpu.status := rfl
@[simp] theorem State.setLog_wait (s : State) (p : Nat) (x : Part) : (s.setLog p x).cpu.wait = s.cpu.wait := rfl
@[simp] theorem State.setLog_inflight (s : State) (p : Nat) (x : Part) : (s.setLog p x).cpu.inflight = s.cpu.inflight := rfl
@[simp] theorem State.setLog_nextId (s : State) (p : Nat) (x : Part) : (s.setLog p x).cpu.nextId = s.cpu.nextId := rfl
@[simp] theorem State.setLog_digest (s : State) (p : Nat) (x : Part) : (s.setLog p x).cpu.digest = s.cpu.digest := rfl
@[simp] theorem State.setLog_trapped (s : State) (p : Nat) (x : Part) : (s.setLog p x).cpu.trapped = s.cpu.trapped := rfl
@[simp] theorem State.setLog_lanes (s : State) (p : Nat) (x : Part) : (s.setLog p x).cpu.lanes = s.cpu.lanes := rfl
@[simp] theorem State.setLog_due (s : State) (p : Nat) (x : Part) : (s.setLog p x).cpu.due = s.cpu.due := rfl
@[simp] theorem State.setLog_stall (s : State) (p : Nat) (x : Part) : (s.setLog p x).cpu.stall = s.cpu.stall := rfl
@[simp] theorem State.setLog_owed (s : State) (p : Nat) (x : Part) : (s.setLog p x).cpu.owed = s.cpu.owed := rfl
@[simp] theorem State.setLog_asked (s : State) (p : Nat) (x : Part) : (s.setLog p x).cpu.asked = s.cpu.asked := rfl
@[simp] theorem State.setLog_halting (s : State) (p : Nat) (x : Part) : (s.setLog p x).cpu.halting = s.cpu.halting := rfl
@[simp] theorem State.setLog_groups (s : State) (p : Nat) (x : Part) : (s.setLog p x).cpu.groups = s.cpu.groups := rfl
@[simp] theorem State.setLog_resumed (s : State) (p : Nat) (x : Part) : (s.setLog p x).cpu.resumed = s.cpu.resumed := rfl
@[simp] theorem State.setLog_skips (s : State) (p : Nat) (x : Part) : (s.setLog p x).cpu.skips = s.cpu.skips := rfl
@[simp] theorem State.setLog_others (s : State) (p : Nat) (x : Part) : (s.setLog p x).others = s.others := rfl
@[simp] theorem State.setLog_mem (s : State) (p : Nat) (x : Part) : (s.setLog p x).mem = s.mem := rfl
@[simp] theorem State.setLog_pkg (s : State) (p : Nat) (x : Part) : (s.setLog p x).pkg = { s.pkg with parts := vput s.pkg.parts p x } := rfl
@[simp] theorem State.setLog_agenda (s : State) (p : Nat) (x : Part) : (s.setLog p x).agenda = s.agenda := rfl
@[simp] theorem State.setLog_tick (s : State) (p : Nat) (x : Part) : (s.setLog p x).tick = s.tick := rfl

/-! `State.setChan` -/

@[simp] theorem State.setChan_front (s : State) (c : Nat) (x : Chan) : (s.setChan c x).cpu.front = s.cpu.front := rfl
@[simp] theorem State.setChan_back (s : State) (c : Nat) (x : Chan) : (s.setChan c x).cpu.back = { s.cpu.back with chans := vput s.cpu.back.chans c x } := rfl
@[simp] theorem State.setChan_id (s : State) (c : Nat) (x : Chan) : (s.setChan c x).cpu.id = s.cpu.id := rfl
@[simp] theorem State.setChan_status (s : State) (c : Nat) (x : Chan) : (s.setChan c x).cpu.status = s.cpu.status := rfl
@[simp] theorem State.setChan_wait (s : State) (c : Nat) (x : Chan) : (s.setChan c x).cpu.wait = s.cpu.wait := rfl
@[simp] theorem State.setChan_inflight (s : State) (c : Nat) (x : Chan) : (s.setChan c x).cpu.inflight = s.cpu.inflight := rfl
@[simp] theorem State.setChan_nextId (s : State) (c : Nat) (x : Chan) : (s.setChan c x).cpu.nextId = s.cpu.nextId := rfl
@[simp] theorem State.setChan_digest (s : State) (c : Nat) (x : Chan) : (s.setChan c x).cpu.digest = s.cpu.digest := rfl
@[simp] theorem State.setChan_trapped (s : State) (c : Nat) (x : Chan) : (s.setChan c x).cpu.trapped = s.cpu.trapped := rfl
@[simp] theorem State.setChan_lanes (s : State) (c : Nat) (x : Chan) : (s.setChan c x).cpu.lanes = s.cpu.lanes := rfl
@[simp] theorem State.setChan_due (s : State) (c : Nat) (x : Chan) : (s.setChan c x).cpu.due = s.cpu.due := rfl
@[simp] theorem State.setChan_stall (s : State) (c : Nat) (x : Chan) : (s.setChan c x).cpu.stall = s.cpu.stall := rfl
@[simp] theorem State.setChan_owed (s : State) (c : Nat) (x : Chan) : (s.setChan c x).cpu.owed = s.cpu.owed := rfl
@[simp] theorem State.setChan_asked (s : State) (c : Nat) (x : Chan) : (s.setChan c x).cpu.asked = s.cpu.asked := rfl
@[simp] theorem State.setChan_halting (s : State) (c : Nat) (x : Chan) : (s.setChan c x).cpu.halting = s.cpu.halting := rfl
@[simp] theorem State.setChan_groups (s : State) (c : Nat) (x : Chan) : (s.setChan c x).cpu.groups = s.cpu.groups := rfl
@[simp] theorem State.setChan_resumed (s : State) (c : Nat) (x : Chan) : (s.setChan c x).cpu.resumed = s.cpu.resumed := rfl
@[simp] theorem State.setChan_skips (s : State) (c : Nat) (x : Chan) : (s.setChan c x).cpu.skips = s.cpu.skips := rfl
@[simp] theorem State.setChan_others (s : State) (c : Nat) (x : Chan) : (s.setChan c x).others = s.others := rfl
@[simp] theorem State.setChan_mem (s : State) (c : Nat) (x : Chan) : (s.setChan c x).mem = s.mem := rfl
@[simp] theorem State.setChan_pkg (s : State) (c : Nat) (x : Chan) : (s.setChan c x).pkg = s.pkg := rfl
@[simp] theorem State.setChan_agenda (s : State) (c : Nat) (x : Chan) : (s.setChan c x).agenda = s.agenda := rfl
@[simp] theorem State.setChan_tick (s : State) (c : Nat) (x : Chan) : (s.setChan c x).tick = s.tick := rfl

/-! `State.skipped` -/

@[simp] theorem State.skipped_front (s : State) (n : Nat) : (s.skipped n).cpu.front = s.cpu.front := rfl
@[simp] theorem State.skipped_back (s : State) (n : Nat) : (s.skipped n).cpu.back = s.cpu.back := rfl
@[simp] theorem State.skipped_id (s : State) (n : Nat) : (s.skipped n).cpu.id = s.cpu.id := rfl
@[simp] theorem State.skipped_status (s : State) (n : Nat) : (s.skipped n).cpu.status = s.cpu.status := rfl
@[simp] theorem State.skipped_wait (s : State) (n : Nat) : (s.skipped n).cpu.wait = s.cpu.wait := rfl
@[simp] theorem State.skipped_inflight (s : State) (n : Nat) : (s.skipped n).cpu.inflight = s.cpu.inflight := rfl
@[simp] theorem State.skipped_nextId (s : State) (n : Nat) : (s.skipped n).cpu.nextId = s.cpu.nextId := rfl
@[simp] theorem State.skipped_digest (s : State) (n : Nat) : (s.skipped n).cpu.digest = s.cpu.digest := rfl
@[simp] theorem State.skipped_trapped (s : State) (n : Nat) : (s.skipped n).cpu.trapped = s.cpu.trapped := rfl
@[simp] theorem State.skipped_lanes (s : State) (n : Nat) : (s.skipped n).cpu.lanes = s.cpu.lanes := rfl
@[simp] theorem State.skipped_due (s : State) (n : Nat) : (s.skipped n).cpu.due = s.cpu.due := rfl
@[simp] theorem State.skipped_stall (s : State) (n : Nat) : (s.skipped n).cpu.stall = s.cpu.stall := rfl
@[simp] theorem State.skipped_owed (s : State) (n : Nat) : (s.skipped n).cpu.owed = s.cpu.owed := rfl
@[simp] theorem State.skipped_asked (s : State) (n : Nat) : (s.skipped n).cpu.asked = s.cpu.asked := rfl
@[simp] theorem State.skipped_halting (s : State) (n : Nat) : (s.skipped n).cpu.halting = s.cpu.halting := rfl
@[simp] theorem State.skipped_groups (s : State) (n : Nat) : (s.skipped n).cpu.groups = s.cpu.groups := rfl
@[simp] theorem State.skipped_resumed (s : State) (n : Nat) : (s.skipped n).cpu.resumed = s.cpu.resumed := rfl
@[simp] theorem State.skipped_skips (s : State) (n : Nat) : (s.skipped n).cpu.skips = s.cpu.skips + n := rfl
@[simp] theorem State.skipped_others (s : State) (n : Nat) : (s.skipped n).others = s.others := rfl
@[simp] theorem State.skipped_mem (s : State) (n : Nat) : (s.skipped n).mem = s.mem := rfl
@[simp] theorem State.skipped_pkg (s : State) (n : Nat) : (s.skipped n).pkg = s.pkg := rfl
@[simp] theorem State.skipped_agenda (s : State) (n : Nat) : (s.skipped n).agenda = s.agenda := rfl
@[simp] theorem State.skipped_tick (s : State) (n : Nat) : (s.skipped n).tick = s.tick := rfl

/-! `State.putBytes` -/

@[simp] theorem State.putBytes_front (s : State) (d k : Nat) (l : List Byte) : (s.putBytes d k l).cpu.front = s.cpu.front := rfl
@[simp] theorem State.putBytes_back (s : State) (d k : Nat) (l : List Byte) : (s.putBytes d k l).cpu.back = s.cpu.back := rfl
@[simp] theorem State.putBytes_id (s : State) (d k : Nat) (l : List Byte) : (s.putBytes d k l).cpu.id = s.cpu.id := rfl
@[simp] theorem State.putBytes_status (s : State) (d k : Nat) (l : List Byte) : (s.putBytes d k l).cpu.status = s.cpu.status := rfl
@[simp] theorem State.putBytes_wait (s : State) (d k : Nat) (l : List Byte) : (s.putBytes d k l).cpu.wait = s.cpu.wait := rfl
@[simp] theorem State.putBytes_inflight (s : State) (d k : Nat) (l : List Byte) : (s.putBytes d k l).cpu.inflight = s.cpu.inflight := rfl
@[simp] theorem State.putBytes_nextId (s : State) (d k : Nat) (l : List Byte) : (s.putBytes d k l).cpu.nextId = s.cpu.nextId := rfl
@[simp] theorem State.putBytes_digest (s : State) (d k : Nat) (l : List Byte) : (s.putBytes d k l).cpu.digest = s.cpu.digest := rfl
@[simp] theorem State.putBytes_trapped (s : State) (d k : Nat) (l : List Byte) : (s.putBytes d k l).cpu.trapped = s.cpu.trapped := rfl
@[simp] theorem State.putBytes_lanes (s : State) (d k : Nat) (l : List Byte) : (s.putBytes d k l).cpu.lanes = s.cpu.lanes := rfl
@[simp] theorem State.putBytes_due (s : State) (d k : Nat) (l : List Byte) : (s.putBytes d k l).cpu.due = s.cpu.due := rfl
@[simp] theorem State.putBytes_stall (s : State) (d k : Nat) (l : List Byte) : (s.putBytes d k l).cpu.stall = s.cpu.stall := rfl
@[simp] theorem State.putBytes_owed (s : State) (d k : Nat) (l : List Byte) : (s.putBytes d k l).cpu.owed = s.cpu.owed := rfl
@[simp] theorem State.putBytes_asked (s : State) (d k : Nat) (l : List Byte) : (s.putBytes d k l).cpu.asked = s.cpu.asked := rfl
@[simp] theorem State.putBytes_halting (s : State) (d k : Nat) (l : List Byte) : (s.putBytes d k l).cpu.halting = s.cpu.halting := rfl
@[simp] theorem State.putBytes_groups (s : State) (d k : Nat) (l : List Byte) : (s.putBytes d k l).cpu.groups = s.cpu.groups := rfl
@[simp] theorem State.putBytes_resumed (s : State) (d k : Nat) (l : List Byte) : (s.putBytes d k l).cpu.resumed = s.cpu.resumed := rfl
@[simp] theorem State.putBytes_skips (s : State) (d k : Nat) (l : List Byte) : (s.putBytes d k l).cpu.skips = s.cpu.skips := rfl
@[simp] theorem State.putBytes_others (s : State) (d k : Nat) (l : List Byte) : (s.putBytes d k l).others = s.others := rfl
@[simp] theorem State.putBytes_mem (s : State) (d k : Nat) (l : List Byte) : (s.putBytes d k l).mem = writeCells s.mem k l := rfl
@[simp] theorem State.putBytes_pkg (s : State) (d k : Nat) (l : List Byte) : (s.putBytes d k l).pkg = { s.pkg with l2 := linesWrote s.pkg.l2 d k l.length } := rfl
@[simp] theorem State.putBytes_agenda (s : State) (d k : Nat) (l : List Byte) : (s.putBytes d k l).agenda = s.agenda := rfl
@[simp] theorem State.putBytes_tick (s : State) (d k : Nat) (l : List Byte) : (s.putBytes d k l).tick = s.tick := rfl

/-! `State.settleStrip` -/

@[simp] theorem State.settleStrip_front (s : State) (pas : List Nat) : (s.settleStrip pas).cpu.front = s.cpu.front := rfl
@[simp] theorem State.settleStrip_back (s : State) (pas : List Nat) : (s.settleStrip pas).cpu.back = { s.cpu.back with strip := settleWrites s.cpu.back.strip (pas.map s.key) } := rfl
@[simp] theorem State.settleStrip_id (s : State) (pas : List Nat) : (s.settleStrip pas).cpu.id = s.cpu.id := rfl
@[simp] theorem State.settleStrip_status (s : State) (pas : List Nat) : (s.settleStrip pas).cpu.status = s.cpu.status := rfl
@[simp] theorem State.settleStrip_wait (s : State) (pas : List Nat) : (s.settleStrip pas).cpu.wait = s.cpu.wait := rfl
@[simp] theorem State.settleStrip_inflight (s : State) (pas : List Nat) : (s.settleStrip pas).cpu.inflight = s.cpu.inflight := rfl
@[simp] theorem State.settleStrip_nextId (s : State) (pas : List Nat) : (s.settleStrip pas).cpu.nextId = s.cpu.nextId := rfl
@[simp] theorem State.settleStrip_digest (s : State) (pas : List Nat) : (s.settleStrip pas).cpu.digest = s.cpu.digest := rfl
@[simp] theorem State.settleStrip_trapped (s : State) (pas : List Nat) : (s.settleStrip pas).cpu.trapped = s.cpu.trapped := rfl
@[simp] theorem State.settleStrip_lanes (s : State) (pas : List Nat) : (s.settleStrip pas).cpu.lanes = s.cpu.lanes := rfl
@[simp] theorem State.settleStrip_due (s : State) (pas : List Nat) : (s.settleStrip pas).cpu.due = s.cpu.due := rfl
@[simp] theorem State.settleStrip_stall (s : State) (pas : List Nat) : (s.settleStrip pas).cpu.stall = s.cpu.stall := rfl
@[simp] theorem State.settleStrip_owed (s : State) (pas : List Nat) : (s.settleStrip pas).cpu.owed = s.cpu.owed := rfl
@[simp] theorem State.settleStrip_asked (s : State) (pas : List Nat) : (s.settleStrip pas).cpu.asked = s.cpu.asked := rfl
@[simp] theorem State.settleStrip_halting (s : State) (pas : List Nat) : (s.settleStrip pas).cpu.halting = s.cpu.halting := rfl
@[simp] theorem State.settleStrip_groups (s : State) (pas : List Nat) : (s.settleStrip pas).cpu.groups = s.cpu.groups := rfl
@[simp] theorem State.settleStrip_resumed (s : State) (pas : List Nat) : (s.settleStrip pas).cpu.resumed = s.cpu.resumed := rfl
@[simp] theorem State.settleStrip_skips (s : State) (pas : List Nat) : (s.settleStrip pas).cpu.skips = s.cpu.skips := rfl
@[simp] theorem State.settleStrip_others (s : State) (pas : List Nat) : (s.settleStrip pas).others = s.others := rfl
@[simp] theorem State.settleStrip_mem (s : State) (pas : List Nat) : (s.settleStrip pas).mem = s.mem := rfl
@[simp] theorem State.settleStrip_pkg (s : State) (pas : List Nat) : (s.settleStrip pas).pkg = s.pkg := rfl
@[simp] theorem State.settleStrip_agenda (s : State) (pas : List Nat) : (s.settleStrip pas).agenda = s.agenda := rfl
@[simp] theorem State.settleStrip_tick (s : State) (pas : List Nat) : (s.settleStrip pas).tick = s.tick := rfl

/-! `State.setGram` -/

@[simp] theorem State.setGram_front (s : State) (g : Gram) : (s.setGram g).cpu.front = s.cpu.front := rfl
@[simp] theorem State.setGram_back (s : State) (g : Gram) : (s.setGram g).cpu.back = { s.cpu.back with gram := g } := rfl
@[simp] theorem State.setGram_id (s : State) (g : Gram) : (s.setGram g).cpu.id = s.cpu.id := rfl
@[simp] theorem State.setGram_status (s : State) (g : Gram) : (s.setGram g).cpu.status = s.cpu.status := rfl
@[simp] theorem State.setGram_wait (s : State) (g : Gram) : (s.setGram g).cpu.wait = s.cpu.wait := rfl
@[simp] theorem State.setGram_inflight (s : State) (g : Gram) : (s.setGram g).cpu.inflight = s.cpu.inflight := rfl
@[simp] theorem State.setGram_nextId (s : State) (g : Gram) : (s.setGram g).cpu.nextId = s.cpu.nextId := rfl
@[simp] theorem State.setGram_digest (s : State) (g : Gram) : (s.setGram g).cpu.digest = s.cpu.digest := rfl
@[simp] theorem State.setGram_trapped (s : State) (g : Gram) : (s.setGram g).cpu.trapped = s.cpu.trapped := rfl
@[simp] theorem State.setGram_lanes (s : State) (g : Gram) : (s.setGram g).cpu.lanes = s.cpu.lanes := rfl
@[simp] theorem State.setGram_due (s : State) (g : Gram) : (s.setGram g).cpu.due = s.cpu.due := rfl
@[simp] theorem State.setGram_stall (s : State) (g : Gram) : (s.setGram g).cpu.stall = s.cpu.stall := rfl
@[simp] theorem State.setGram_owed (s : State) (g : Gram) : (s.setGram g).cpu.owed = s.cpu.owed := rfl
@[simp] theorem State.setGram_asked (s : State) (g : Gram) : (s.setGram g).cpu.asked = s.cpu.asked := rfl
@[simp] theorem State.setGram_halting (s : State) (g : Gram) : (s.setGram g).cpu.halting = s.cpu.halting := rfl
@[simp] theorem State.setGram_groups (s : State) (g : Gram) : (s.setGram g).cpu.groups = s.cpu.groups := rfl
@[simp] theorem State.setGram_resumed (s : State) (g : Gram) : (s.setGram g).cpu.resumed = s.cpu.resumed := rfl
@[simp] theorem State.setGram_skips (s : State) (g : Gram) : (s.setGram g).cpu.skips = s.cpu.skips := rfl
@[simp] theorem State.setGram_others (s : State) (g : Gram) : (s.setGram g).others = s.others := rfl
@[simp] theorem State.setGram_mem (s : State) (g : Gram) : (s.setGram g).mem = s.mem := rfl
@[simp] theorem State.setGram_pkg (s : State) (g : Gram) : (s.setGram g).pkg = s.pkg := rfl
@[simp] theorem State.setGram_agenda (s : State) (g : Gram) : (s.setGram g).agenda = s.agenda := rfl
@[simp] theorem State.setGram_tick (s : State) (g : Gram) : (s.setGram g).tick = s.tick := rfl

end Sys2Proof.Machine
end

