-- ==== Sys2Proof/Laws/Registers.lean ====
section
/-! SUPPORT. Registers: reading one after a write, x0, and what a write of an x register leaves in the other fields (R63, R65). -/

namespace Sys2Proof.Machine

@[simp] theorem Front.getX_zero (f : Front) : f.getX 0 = 0 := rfl

@[simp] theorem Front.setX_zero (f : Front) (v : W64) : f.setX 0 v = f := rfl

theorem Front.getX_setX (f : Front) (r k : Reg) (v : W64) :
    (f.setX r v).getX k = if k = r then (if r.val = 0 then 0 else v) else f.getX k := by
  unfold Front.getX Front.setX
  by_cases hk : k = r
  · subst hk
    by_cases h0 : k.val = 0 <;> simp [h0]
  · have hv : r.val ≠ k.val := fun h => hk (Fin.ext h.symm)
    by_cases h0 : r.val = 0
    · simp [h0, hk]
    · simp [h0, hk, Vector.getElem_set_ne, hv]

/-- x[r] after it was written. -/
theorem Front.getX_setX_same (f : Front) (r : Reg) (v : W64) :
    (f.setX r v).getX r = if r.val = 0 then 0 else v := by simp [Front.getX_setX]

/-- Another register keeps its value. -/
theorem Front.getX_setX_other (f : Front) (r k : Reg) (v : W64) (h : k ≠ r) : (f.setX r v).getX k = f.getX k := by
  simp [Front.getX_setX, h]

/-- A write of an x register changes nothing but the x registers. -/
theorem Front.setX_eq (f : Front) (r : Reg) (v : W64) : f.setX r v = { f with x := (f.setX r v).x } := by
  unfold Front.setX; split <;> rfl

@[simp] theorem State.getX_setFront (s : State) (f : Front) (r : Reg) : (s.setFront f).getX r = f.getX r := rfl

theorem State.getX_setX (s : State) (r k : Reg) (v : W64) :
    (s.setX r v).getX k = if k = r then (if r.val = 0 then 0 else v) else s.getX k := Front.getX_setX _ _ _ _

@[simp] theorem State.getX_setBack (s : State) (b : Back) (r : Reg) : (s.setBack b).getX r = s.getX r := rfl

@[simp] theorem State.getX_tock (s : State) (r : Reg) : s.tock.getX r = s.getX r := rfl

@[simp] theorem State.getX_retireTo (s : State) (a : W64) (r : Reg) : (s.retireTo a).getX r = s.getX r := rfl

@[simp] theorem State.getX_retire (s : State) (n : Nat) (r : Reg) : (s.retire n).getX r = s.getX r := rfl

@[simp] theorem State.getX_block (s : State) (w : Wait) (r : Reg) : (s.block w).getX r = s.getX r := rfl

/-! Vectors read with a default. -/

theorem vget_vput {α : Type} {n : Nat} (d : α) (v : Vector α n) (k j : Nat) (x : α) :
    vget d (vput v k x) j = if j = k ∧ k < n then x else vget d v j := by
  unfold vget vput
  by_cases hk : k < n
  · by_cases hj : j < n
    · by_cases e : j = k
      · subst e; simp [hk]
      · simp [hk, hj, e, Vector.getElem_set_ne, Ne.symm e]
    · have e : j ≠ k := by omega
      simp [hk, hj, e]
  · simp [hk]

theorem vget_vmod {α : Type} {n : Nat} (d : α) (v : Vector α n) (k j : Nat) (g : α → α) :
    vget d (vmod v k g) j = if j = k ∧ k < n then g (vget d v k) else vget d v j := by
  unfold vget vmod
  by_cases hk : k < n
  · by_cases hj : j < n
    · by_cases e : j = k
      · subst e; simp [hk]
      · simp [hk, hj, e, Vector.getElem_set_ne, Ne.symm e]
    · have e : j ≠ k := by omega
      simp [hk, hj, e]
  · simp [hk]

/-- A queue after one queue was replaced. -/
theorem Back.queue_setQueue (b : Back) (q k : Nat) (x : QState) :
    (b.setQueue q x).queue k = if k = q ∧ q < 6 then x else b.queue k := vget_vput _ _ _ _ _

/-- A queue after one queue was changed. -/
theorem Back.queue_modQueue (b : Back) (q k : Nat) (g : QState → QState) :
    (b.modQueue q g).queue k = if k = q ∧ q < 6 then g (b.queue q) else b.queue k := vget_vmod _ _ _ _ _

end Sys2Proof.Machine
end

