-- ==== Sys2Proof/Laws/Writes.lean ====
section
/-! SUPPORT. Every operation that writes memory keeps its canonical form, and what a write to memory leaves (log 1). -/

namespace Sys2Proof.Machine

@[simp] theorem State.countDrop_mem (s : State) (d : Nat) (w : Agent) : (s.countDrop d w).mem = s.mem := rfl

@[simp] theorem State.wqDrop_mem (s : State) (q : Nat) (w : Agent) : (s.wqDrop q w).mem = s.mem := rfl

@[simp] theorem State.countUe_mem (s : State) (d k : Nat) : (s.countUe d k).mem = s.mem := rfl

@[simp] theorem State.fenceFrame_mem (s : State) (a : Nat) : (s.fenceFrame a).mem = s.mem := by
  unfold State.fenceFrame
  extract_lets c count
  split
  · rfl
  · split <;> rfl

@[simp] theorem State.meetStrips_mem (s : State) (mine : Bool) (keys : List Nat) : (s.meetStrips mine keys).mem = s.mem := rfl
@[simp] theorem State.meetStrips_pkg (s : State) (mine : Bool) (keys : List Nat) : (s.meetStrips mine keys).pkg = s.pkg := rfl
@[simp] theorem State.meetStrips_tick (s : State) (mine : Bool) (keys : List Nat) : (s.meetStrips mine keys).tick = s.tick := rfl
@[simp] theorem State.meetStrips_agenda (s : State) (mine : Bool) (keys : List Nat) : (s.meetStrips mine keys).agenda = s.agenda := rfl

@[simp] theorem State.requestStatement_mem (s : State) (p : Nat) : (s.requestStatement p).mem = s.mem := by
  unfold State.requestStatement; split <;> rfl

/-- A write of a work-queue register changes no memory. -/
@[simp] theorem State.wqWrite_mem (s : State) (w : Agent) (q off : Nat) (v : W64) : (s.wqWrite w q off v).mem = s.mem := by
  unfold State.wqWrite
  extract_lets u
  split <;> first | rfl | (split <;> rfl)

theorem State.bootPartition_wf (s : State) (e : Nat × Nat × Nat) (h : Memory.wf s.mem = true) :
    Memory.wf (s.bootPartition e).mem = true := by
  unfold State.bootPartition
  dsimp only
  split
  · exact Memory.wf_writeCells _ _ _ h
  · exact h

/-- Memory is canonical after a choice if it is after both ways. -/
theorem State.ite_wf (c : Prop) [Decidable c] (a b : State) (ha : Memory.wf a.mem = true) (hb : Memory.wf b.mem = true) :
    Memory.wf (if c then a else b).mem = true := by
  by_cases hc : c
  · rw [if_pos hc]; exact ha
  · rw [if_neg hc]; exact hb

/-- A write of a management register changes no memory. -/
theorem State.mgmtWrite_wf (s : State) (w : Agent) (d off : Nat) (v : W64) (h : Memory.wf s.mem = true) :
    Memory.wf (s.mgmtWrite w d off v).mem = true := by
  unfold State.mgmtWrite
  extract_lets m
  refine State.ite_wf _ _ _ h (State.ite_wf _ _ _ (State.ite_wf _ _ _ h h) (State.ite_wf _ _ _ h (State.ite_wf _ _ _ (State.ite_wf _ _ _ h h) ?_)))
  refine State.ite_wf _ _ _ (by rw [State.requestStatement_mem]; exact h) ?_
  refine State.ite_wf _ _ _ h (State.ite_wf _ _ _ ?_ h)
  split <;> exact h

theorem State.regWrite_wf (s : State) (w : Agent) (d a : Nat) (l : List Byte) (h : Memory.wf s.mem = true) :
    Memory.wf (s.regWrite w d a l).mem = true := by
  unfold State.regWrite
  split
  · exact State.mgmtWrite_wf _ _ _ _ _ h
  · exact State.mgmtWrite_wf _ _ _ _ _ h
  · simpa using h
  · exact h

/-- Bytes put into memory keep it canonical. -/
theorem State.putBytes_wf (s : State) (d k : Nat) (l : List Byte) (h : Memory.wf s.mem = true) :
    Memory.wf (s.putBytes d k l).mem = true := Memory.wf_writeCells _ _ _ h

theorem State.physWrite_wf (s : State) (w : Agent) (d pa : Nat) (l : List Byte) (h : Memory.wf s.mem = true) :
    Memory.wf (s.physWrite w d pa l).mem = true := by
  unfold State.physWrite
  dsimp only
  repeat' split
  · exact State.regWrite_wf _ _ _ _ _ (State.regWrite_wf _ _ _ _ _ h)
  · exact State.regWrite_wf _ _ _ _ _ h
  · exact State.putBytes_wf _ _ _ _ h

theorem State.physWrites_wf (s : State) (w : Agent) (d : Nat) (pas : List Nat) (l : List Byte)
    (h : Memory.wf s.mem = true) : Memory.wf (s.physWrites w d pas l).mem = true := by
  induction pas generalizing s l with
  | nil => unfold State.physWrites; exact h
  | cons pa ps ih =>
    cases l with
    | nil => unfold State.physWrites; exact h
    | cons b bs =>
      unfold State.physWrites
      split
      · exact State.physWrite_wf _ _ _ _ _ h
      · split
        · exact ih _ _ h
        · exact ih _ _ (State.putBytes_wf _ _ _ _ h)

/-- A write of an agent keeps memory canonical. -/
theorem State.physWriteList_wf (s : State) (w : Agent) (d : Nat) (pas : List Nat) (l : List Byte)
    (h : Memory.wf s.mem = true) : Memory.wf (s.physWriteList w d pas l).mem = true :=
  State.physWrites_wf _ _ _ _ _ h

@[simp] theorem State.noteWriteAt_mem (s : State) (k j va : Nat) (l : List Byte) : (s.noteWriteAt k j va l).mem = s.mem := by
  unfold State.noteWriteAt; split <;> rfl

@[simp] theorem State.noteWrite_mem (s : State) (va : Nat) (l : List Byte) : (s.noteWrite va l).mem = s.mem :=
  State.noteWriteAt_mem _ _ _ _ _

/-- A hart's scalar write keeps memory canonical. -/
theorem State.performWrite_wf (s : State) (va : Nat) (pas : List Nat) (l : List Byte) (h : Memory.wf s.mem = true) :
    Memory.wf (s.performWrite va pas l).mem = true := by
  unfold State.performWrite
  dsimp only
  split
  · simpa using h
  · exact State.physWriteList_wf _ _ _ _ _ (by simpa using h)

theorem State.storeBytes_wf (s t : State) (va : Nat) (l : List Byte) (h : Memory.wf s.mem = true)
    (e : s.storeBytes va l = .ok t) : Memory.wf t.mem = true := by
  unfold State.storeBytes at e
  split at e
  · cases e
  · cases e
    exact State.performWrite_wf _ _ _ _ h

/-- Dropping a word of memory keeps memory canonical (R189). -/
theorem State.dropWord_wf (s : State) (kind a : Nat) (h : Memory.wf s.mem = true) :
    Memory.wf (s.dropWord kind a).mem = true := by
  unfold State.dropWord
  split
  · rw [State.fenceFrame_mem, State.countUe_mem]
    dsimp only
    exact Memory.wf_writeCells _ _ _ h
  · exact h

theorem State.dropRemote_wf (s : State) (d k : Nat) (h : Memory.wf s.mem = true) : Memory.wf (s.dropRemote d k).mem = true := by
  unfold State.dropRemote
  split
  · rw [State.countUe_mem]
    dsimp only
    exact Memory.wf_writeCells _ _ _ h
  · exact h

theorem State.dropLine_wf (s : State) (d a : Nat) (h : Memory.wf s.mem = true) : Memory.wf (s.dropLine d a).mem = true := by
  unfold State.dropLine
  split
  · exact h
  · split
    · exact h
    · have h1 : Memory.wf ((s.evictLine d a).countUe d 2).mem = true := h
      generalize (s.evictLine d a).countUe d 2 = u at h1
      extract_lets line
      split
      · rw [State.fenceFrame_mem]
        dsimp only
        exact Memory.wf_writeCells _ _ _ h1
      · exact h1

@[simp] theorem State.dropLaneRow_mem (s : State) (e : Nat) : (s.dropLaneRow e).mem = s.mem := by
  unfold State.dropLaneRow
  dsimp only
  repeat' split
  all_goals rfl

theorem State.dropBad_wf (s : State) (kind eval : Nat) (h : Memory.wf s.mem = true) :
    Memory.wf (s.dropBad kind eval).mem = true := by
  have h0 : Memory.wf (if 3 ≤ kind && kind ≤ 9 then s.countUe s.cpu.id.die kind else s).mem = true := by
    split <;> exact h
  unfold State.dropBad
  generalize (if 3 ≤ kind && kind ≤ 9 then s.countUe s.cpu.id.die kind else s) = u at h0
  dsimp only
  repeat' split
  all_goals first
    | exact h0
    | exact State.dropWord_wf _ _ _ h0
    | exact State.dropRemote_wf _ _ _ h0
    | exact State.dropLine_wf _ _ _ h0
    | (rw [State.dropLaneRow_mem]; exact h0)

@[simp] theorem State.launchFault_mem (s : State) (t : TrapInfo) : (s.launchFault t).mem = s.mem := rfl

/-- Taking a trap writes no memory, but for the word a DATA_ERROR drops (R184, R189). -/
theorem State.takeTrap_wf (s : State) (t : TrapInfo) (h : Memory.wf s.mem = true) : Memory.wf (s.takeTrap t).mem = true := by
  have h0 : Memory.wf (if t.cause = .dataError then s.dropBad t.kind t.eval.toNat else s).mem = true := by
    split
    · exact State.dropBad_wf _ _ _ h
    · exact h
  unfold State.takeTrap
  generalize (if t.cause = .dataError then s.dropBad t.kind t.eval.toNat else s) = u at h0
  dsimp only
  split
  · exact h0
  · exact h0

/-! What a write to memory leaves. -/

/-- Bytes written to memory stand there, and no other byte of memory has changed. -/
theorem State.physWrite_memory (s : State) (w : Agent) (d pa : Nat) (l : List Byte)
    (h : (s.isLocal pa && !(regionOf (pa % pkgSpan)).isMem) = false) : s.physWrite w d pa l = s.putBytes d (s.key pa) l := by
  unfold State.physWrite
  simp [h]

/-- Which addresses are local, and where memory lists them, rests on the package's number alone (R204). -/
theorem State.isLocal_congr {s t : State} (h : t.pkg.mgmt.package = s.pkg.mgmt.package) : t.isLocal = s.isLocal := by
  have ho : t.ownPkg = s.ownPkg := by unfold State.ownPkg; rw [h]
  funext pa
  unfold State.isLocal
  rw [ho]

theorem State.key_congr {s t : State} (h : t.pkg.mgmt.package = s.pkg.mgmt.package) : t.key = s.key := by
  funext pa
  unfold State.key
  rw [State.isLocal_congr h]

theorem State.drops_congr {s t : State} (h : t.pkg.mgmt.package = s.pkg.mgmt.package) (ha : t.pkg.away = s.pkg.away)
    (hs : t.pkg.shut = s.pkg.shut) : t.drops = s.drops := by
  funext pa
  unfold State.drops
  rw [State.isLocal_congr h, State.key_congr h, ha, hs]

/-- An address at which a write lands in memory: no local register, and no frame whose home package drops it (R208). -/
def State.lands (s : State) (pa : Nat) : Bool := !(s.isLocal pa && !(regionOf (pa % pkgSpan)).isMem) && !s.drops pa

theorem State.lands_congr {s t : State} (h : t.pkg.mgmt.package = s.pkg.mgmt.package) (ha : t.pkg.away = s.pkg.away)
    (hs : t.pkg.shut = s.pkg.shut) : t.lands = s.lands := by
  funext pa
  unfold State.lands
  rw [State.isLocal_congr h, State.drops_congr h ha hs]

/-- Bytes written at places of memory: they stand there, and beside memory only what the L2s hold has changed (R206). -/
theorem State.physWrites_memory (s : State) (w : Agent) (d : Nat) (pas : List Nat) (l : List Byte)
    (h : ∀ pa ∈ pas, s.lands pa = true) :
    (s.physWrites w d pas l).mem = ((pas.map s.key).zip l).foldl (fun m e => writeCell m e.1 e.2) s.mem
      ∧ (s.physWrites w d pas l).pkg = { s.pkg with l2 := (s.physWrites w d pas l).pkg.l2 }
      ∧ (s.physWrites w d pas l).cpu = s.cpu ∧ (s.physWrites w d pas l).others = s.others
      ∧ (s.physWrites w d pas l).agenda = s.agenda ∧ (s.physWrites w d pas l).tick = s.tick := by
  induction pas generalizing s l with
  | nil => unfold State.physWrites; exact ⟨rfl, rfl, rfl, rfl, rfl, rfl⟩
  | cons pa ps ih =>
    cases l with
    | nil => unfold State.physWrites; exact ⟨by simp, rfl, rfl, rfl, rfl, rfl⟩
    | cons b bs =>
      have hp := h pa (by simp)
      simp only [State.lands, Bool.and_eq_true, Bool.not_eq_true'] at hp
      have e : s.physWrites w d (pa :: ps) (b :: bs) = (s.putBytes d (s.key pa) [b]).physWrites w d ps bs := by
        conv_lhs => unfold State.physWrites
        rw [if_neg (by simp [hp.1]), if_neg (by simp [hp.2])]
      have hk : (s.putBytes d (s.key pa) [b]).key = s.key := State.key_congr rfl
      have hl : (s.putBytes d (s.key pa) [b]).lands = s.lands := State.lands_congr rfl rfl rfl
      obtain ⟨h1, h2, h3, h4, h5, h6⟩ := ih (s.putBytes d (s.key pa) [b]) bs (fun q hq => by rw [hl]; exact h q (by simp [hq]))
      rw [e]
      refine ⟨?_, ?_, h3, h4, h5, h6⟩
      · rw [h1, hk]; rfl
      · rw [h2]; rfl

/-- The same for one write of an agent: the open strips of the other harts note it (R215). -/
theorem State.physWriteList_memory (s : State) (w : Agent) (d : Nat) (pas : List Nat) (l : List Byte)
    (h : ∀ pa ∈ pas, s.lands pa = true) :
    (s.physWriteList w d pas l).mem = ((pas.map s.key).zip l).foldl (fun m e => writeCell m e.1 e.2) s.mem
      ∧ (s.physWriteList w d pas l).pkg = { s.pkg with l2 := (s.physWriteList w d pas l).pkg.l2 }
      ∧ (s.physWriteList w d pas l).cpu = (s.meetStrips (w = .hart || w = .privHart) (pas.map s.key)).cpu
      ∧ (s.physWriteList w d pas l).others = (s.meetStrips (w = .hart || w = .privHart) (pas.map s.key)).others
      ∧ (s.physWriteList w d pas l).agenda = s.agenda ∧ (s.physWriteList w d pas l).tick = s.tick := by
  have hk : (s.meetStrips (w = .hart || w = .privHart) (pas.map s.key)).key = s.key := State.key_congr rfl
  have hl : (s.meetStrips (w = .hart || w = .privHart) (pas.map s.key)).lands = s.lands := State.lands_congr rfl rfl rfl
  have := State.physWrites_memory (s.meetStrips (w = .hart || w = .privHart) (pas.map s.key)) w d pas l
    (fun q hq => by rw [hl]; exact h q hq)
  rw [hk] at this
  exact this

end Sys2Proof.Machine
end

