-- ==== Sys2Proof/Laws/Operations.lean ====
section
/-! SUPPORT. What each shared operation of the instruction stream can do, said once: waiting, holding, suspending, taking a
trap and returning from one (R19–R25, R184–R190). -/

namespace Sys2Proof.Machine

/-! Order: with nothing older uncompleted an instruction goes on at once. -/

theorem State.oldest_iff (s : State) : s.oldest = true ↔ s.cpu.inflight = [] := by
  unfold State.oldest; cases s.cpu.inflight <;> simp

@[simp] theorem State.flights_of_nil (s : State) (k : Nat) (h : s.cpu.inflight = []) : s.flights k = [] := by
  simp [State.flights, h]

theorem State.whenOldest_nil (s : State) (i : Instr) (body : State → State) (h : s.cpu.inflight = []) :
    s.whenOldest i body = body s := by simp [State.whenOldest, State.oldest, h]

theorem State.inTurn_nil (s : State) (i : Instr) (cont : Front) (h : s.cpu.inflight = []) : s.inTurn i cont = true := by
  simp [State.inTurn, State.queueHeld, h]

theorem State.inOrder_nil (s : State) (i : Instr) (body : State → State) (h : s.cpu.inflight = []) :
    s.inOrder i body = body s := by simp [State.inOrder, State.inTurn_nil s i _ h]

theorem State.inOrderAs_nil (s : State) (i : Instr) (cont : Front) (body : State → State) (h : s.cpu.inflight = []) :
    s.inOrderAs i cont body = body s := by simp [State.inOrderAs, State.inTurn_nil s i _ h]

theorem State.raise_nil (s : State) (i : Instr) (t : TrapInfo) (h : s.cpu.inflight = []) : s.raise i t = s.takeTrap t := by
  simp [State.raise, State.oldest, h]

/-- An instruction that leaves the decoder is in flight behind the others, and the stream goes on with `cont` (R19, R105). -/
theorem State.suspendAs_spec (s : State) (i : Instr) (k : Nat) (on : List Nat) (full : Bool) (cont : Front)
    (src : Option (SMap (BitVec 16) × SMap (BitVec 16))) :
    (s.suspendAs i k on full cont src).cpu.inflight = s.cpu.inflight
        ++ [⟨i, { s.cpu.front with vstart := k }, s.cpu.back, on, full, src, s.cpu.owed, false, false, s.cpu.due,
          outRegs i s.cpu.front cont⟩]
      ∧ (s.suspendAs i k on full cont src).cpu.front = { cont with
          vstart := vstartAfter i cont.vstart, pc := cont.pc + BitVec.ofNat 64 i.len, instret := cont.instret + 1
          cycle := cont.cycle + Config.freeCycles s.tick } := ⟨rfl, rfl⟩

/-- Keeping an instruction changes no memory, no other hart, nothing of the package and nothing that the hart's lanes, queues and
engines hold. -/
theorem State.suspendAs_rest (s : State) (i : Instr) (k : Nat) (on : List Nat) (full : Bool) (cont : Front)
    (src : Option (SMap (BitVec 16) × SMap (BitVec 16))) :
    (s.suspendAs i k on full cont src).mem = s.mem ∧ (s.suspendAs i k on full cont src).others = s.others
      ∧ (s.suspendAs i k on full cont src).pkg = s.pkg ∧ (s.suspendAs i k on full cont src).cpu.back = s.cpu.back :=
  ⟨rfl, rfl, rfl, rfl⟩

theorem State.hold_rest (s : State) (i : Instr) :
    (s.hold i).mem = s.mem ∧ (s.hold i).others = s.others ∧ (s.hold i).pkg = s.pkg ∧ (s.hold i).cpu.back = s.cpu.back := by
  unfold State.hold
  split <;> exact ⟨rfl, rfl, rfl, rfl⟩

/-! Traps. -/

theorem bitAt_zero (v : W64) : bitAt v.toNat 0 = v.getLsbD 0 := by
  unfold bitAt
  rw [BitVec.getLsbD, Nat.testBit_zero, pow_zero, Nat.div_one]

/-- A launch fault stops the hart where it stands (R188). -/
theorem State.launchFault_spec (s : State) (t : TrapInfo) :
    (s.launchFault t).cpu.status = .stopped ∧ (s.launchFault t).cpu.front = s.cpu.front
      ∧ (s.launchFault t).cpu.back = s.cpu.back ∧ (s.launchFault t).cpu.inflight = []
      ∧ (s.launchFault t).cpu.trapped = true ∧ (s.launchFault t).mem = s.mem := ⟨rfl, rfl, rfl, rfl, rfl, rfl⟩

/-- A trap that is taken (R184): a handler is set, none is active, and the cause is not DATA_ERROR. -/
theorem State.takeTrap_taken (s : State) (t : TrapInfo) (h1 : s.cpu.front.tvec ≠ 0)
    (h2 : s.cpu.front.estat.getLsbD 0 = false) (h3 : t.cause ≠ .dataError) :
    s.takeTrap t = { s with
      cpu := { s.cpu with
        front := { s.cpu.front with
          epc := s.cpu.front.pc, ecause := BitVec.ofNat 64 (causeCode t.cause), eval := t.eval, evstart := t.ev % 2 ^ 20
          estat := trapEstat t, vstart := 0, pc := s.cpu.front.tvec, interval := s.cpu.front.interval + 1
          cycle := s.cpu.front.cycle + Config.freeCycles s.tick }
        back := s.cpu.back.rested, wait := none, due := none, lanes := none, inflight := [], owed := [], halting := false
        resumed := 0, trapped := true }
      pkg := s.pkg.release s.cpu.id.uid
      tick := s.tick + 1 } := by
  have hc : (bitAt s.cpu.front.estat.toNat 0 || decide (s.cpu.front.tvec = 0) || decide (t.cause = .dataError)) = false := by
    rw [bitAt_zero, h2, decide_eq_false h1, decide_eq_false h3]; rfl
  unfold State.takeTrap
  simp only [h3, if_false]
  rw [if_neg (by rw [decide_eq_false h3] at hc; rw [decide_eq_false (p := False) id, hc]; decide)]

/-- A trap in a handler or with tvec = 0 ends the launch (R188). -/
theorem State.takeTrap_ends (s : State) (t : TrapInfo) (h : s.cpu.front.estat.getLsbD 0 = true ∨ s.cpu.front.tvec = 0)
    (h3 : t.cause ≠ .dataError) : s.takeTrap t = s.launchFault t := by
  unfold State.takeTrap
  simp only [h3, if_false, bitAt_zero]
  rcases h with h | h <;> simp [h]

/-- A DATA_ERROR drops the word it found and ends the launch (R188, R189). -/
theorem State.takeTrap_dataError (s : State) (t : TrapInfo) (h : t.cause = .dataError) :
    s.takeTrap t = (s.dropBad t.kind t.eval.toNat).launchFault t := by
  unfold State.takeTrap
  simp [h]

/-- The return from a trap (R190). -/
theorem State.returnFromTrap_front (s : State) :
    s.returnFromTrap.cpu.front = { s.cpu.front with
      vstart := s.cpu.front.evstart, estat := s.cpu.front.estat &&& ~~~(1 : W64), pc := s.cpu.front.epc
      interval := s.cpu.front.interval + 1, instret := s.cpu.front.instret + 1
      cycle := s.cpu.front.cycle + Config.freeCycles s.tick } := rfl

theorem State.returnFromTrap_rest (s : State) :
    s.returnFromTrap.mem = s.mem ∧ s.returnFromTrap.others = s.others ∧ s.returnFromTrap.pkg = s.pkg
      ∧ s.returnFromTrap.cpu.back = s.cpu.back ∧ s.returnFromTrap.agenda = s.agenda := ⟨rfl, rfl, rfl, rfl, rfl⟩

/-! Access by a hart. -/

/-- A load gives its bytes exactly where every byte of it passes the checks (R231, R232). -/
theorem State.loadBytes_ok (s : State) (va n : Nat) (l : List Byte) :
    s.loadBytes va n = .ok l ↔
      ∃ pas, s.accessBytes s.cpu.ctx .load false (vaRange va n) = .ok pas ∧ l = pas.map (s.physByte s.cpu.id.die) := by
  unfold State.loadBytes
  split
  · rename_i f h; simp [h]
  · rename_i pas h; simp [h, eq_comm]

theorem State.admitBytes_ok (s : State) (c : Ctx) (k : Access) (atomic : Bool) (vas pas : List Nat) :
    s.admitBytes c k atomic vas = .ok pas ↔
      List.Forall₂ (fun va pa => s.translate c k va = .ok pa ∧ s.refusePhys c.die k atomic va pa = none) vas pas := by
  induction vas generalizing pas with
  | nil =>
    unfold State.admitBytes
    constructor
    · intro h; cases h; exact .nil
    · intro h; cases h; rfl
  | cons va t ih =>
    unfold State.admitBytes
    constructor
    · intro h
      split at h
      · cases h
      · rename_i pa hb
        split at h
        · cases h
        · rename_i hr
          split at h
          · cases h
          · rename_i r he
            cases h
            exact .cons ⟨hb, hr⟩ ((ih r).1 he)
    · intro h
      cases h with
      | cons hb ht => simp [hb.1, hb.2, (ih _).2 ht]

theorem State.byteAccess_ok (s : State) (c : Ctx) (k : Access) (atomic : Bool) (va pa : Nat) :
    s.byteAccess c k atomic va = .ok pa ↔
      (s.translate c k va = .ok pa ∧ s.refusePhys c.die k atomic va pa = none) ∧ s.badPhys k pa = none := by
  unfold State.byteAccess
  cases ht : s.translate c k va with
  | error f => simp
  | ok q =>
    simp only [Except.ok.injEq]
    unfold State.checkPhys
    constructor
    · intro h
      cases hr : s.refusePhys c.die k atomic va q with
      | some f => simp [hr] at h
      | none =>
        simp only [hr, Option.none_or] at h
        split at h
        · cases h
        · rename_i hb
          cases h
          exact ⟨⟨rfl, hr⟩, hb⟩
    · rintro ⟨⟨rfl, hr⟩, hb⟩
      simp [hr, hb]

/-- A list of bytes passes the checks exactly where each byte does, and gives one physical address for each. -/
theorem State.accessBytes_ok (s : State) (c : Ctx) (k : Access) (atomic : Bool) (vas pas : List Nat) :
    s.accessBytes c k atomic vas = .ok pas ↔ List.Forall₂ (fun va pa => s.byteAccess c k atomic va = .ok pa) vas pas := by
  simp only [State.byteAccess_ok]
  unfold State.accessBytes
  constructor
  · intro h
    split at h
    · cases h
    · rename_i l ha
      split at h
      · cases h
      · rename_i hb
        cases h
        have hf := (s.admitBytes_ok c k atomic vas pas).1 ha
        rw [List.findSome?_eq_none_iff] at hb
        clear ha
        induction hf with
        | nil => exact .nil
        | cons h1 _ ih => exact .cons ⟨h1, hb _ (by simp)⟩ (ih (fun q hq => hb q (by simp [hq])))
  · intro h
    have hf : s.admitBytes c k atomic vas = .ok pas := (s.admitBytes_ok c k atomic vas pas).2 (h.imp (fun _ _ e => e.1))
    have hb : pas.findSome? (s.badPhys k) = none := by
      rw [List.findSome?_eq_none_iff]
      clear hf
      induction h with
      | nil => simp
      | cons h1 _ ih =>
        intro q hq
        rcases List.mem_cons.1 hq with rfl | hq
        · exact h1.2
        · exact ih q hq
    simp [hf, hb]

theorem State.accessBytes_length (s : State) (c : Ctx) (k : Access) (atomic : Bool) (vas pas : List Nat)
    (h : s.accessBytes c k atomic vas = .ok pas) : pas.length = vas.length :=
  ((s.accessBytes_ok c k atomic vas pas).1 h).length_eq.symm

@[simp] theorem vaRange_length (va n : Nat) : (vaRange va n).length = n := by simp [vaRange]

/-- A scalar store to memory by a hart that is no second copy (R288): its bytes stand at the physical addresses. -/
theorem State.performWrite_memory (s : State) (va : Nat) (pas : List Nat) (l : List Byte) (h2 : s.secondCopy = false)
    (h : ∀ pa ∈ pas, s.lands pa = true) :
    (s.performWrite va pas l).mem = ((pas.map s.key).zip l).foldl (fun m e => writeCell m e.1 e.2) s.mem := by
  unfold State.performWrite
  have hn : ∀ u : State, u = s.noteWrite va l → u.secondCopy = false ∧ u.pkg = s.pkg ∧ u.mem = s.mem := by
    rintro u rfl
    unfold State.noteWrite State.noteWriteAt
    split
    · exact ⟨h2, rfl, rfl⟩
    · exact ⟨h2, rfl, rfl⟩
  obtain ⟨e1, e2, e3⟩ := hn _ rfl
  simp only [e1, Bool.false_eq_true, if_false]
  generalize s.noteWrite va l = u at e1 e2 e3 ⊢
  have hp : (u.settleStrip pas).pkg = s.pkg := e2
  have hk : (u.settleStrip pas).key = s.key := State.key_congr (by rw [hp])
  have hl : (u.settleStrip pas).lands = s.lands := State.lands_congr (by rw [hp]) (by rw [hp]) (by rw [hp])
  rw [(State.physWriteList_memory _ _ _ _ _ (by rw [hl]; exact h)).1, hk]
  simp [e3]

/-! Queues. -/

/-- Appending a row changes only the queue it goes to (R125, R240). -/
theorem State.pushRow_rows (s : State) (q : Nat) (l : List Nat) (h : q < 6) :
    ((s.pushRow q l).cpu.back.queue q).rows
      = (s.cpu.back.queue q).rows ++ [⟨l, 0, s.cpu.nextId, s.cpu.front.instret.toNat⟩] := by
  unfold State.pushRow
  simp [Back.queue_modQueue, h]

theorem State.pushRow_other (s : State) (q k : Nat) (l : List Nat) (h : k ≠ q) :
    (s.pushRow q l).cpu.back.queue k = s.cpu.back.queue k := by
  unfold State.pushRow
  simp [Back.queue_modQueue, h]

theorem State.pushRow_rest (s : State) (q : Nat) (l : List Nat) :
    (s.pushRow q l).mem = s.mem ∧ (s.pushRow q l).others = s.others ∧ (s.pushRow q l).pkg = s.pkg
      ∧ (s.pushRow q l).cpu.front = s.cpu.front := ⟨rfl, rfl, rfl, rfl⟩

/-- Taking rows from the head (R255). -/
theorem Back.popRows_queue (b : Back) (q k n : Nat) :
    (b.popRows q n).queue k
      = if k = q ∧ q < 6 then (b.queue q).take n else b.queue k :=
  Back.queue_modQueue _ _ _ _

end Sys2Proof.Machine
end

