-- ==== Sys2Proof/Laws/PerInstr.lean ====
section
/-! SUPPORT. Statements made instruction by instruction, one lemma for each constructor. -/

namespace Sys2Proof.Laws

open Sys2Proof Sys2Proof.Machine

/-- A word of `n` bytes whose low bits announce `n` bytes (R35). -/
def Announces (w n : Nat) : Prop := w < 2 ^ (8 * n) ∧ lengthOf w = n

theorem encR_announces {m f d a b : Nat} (hm : m < 32) (hf : f < 1024) (hd : d < 32) (ha : a < 32) (hb : b < 32) :
    Announces (encR m f d a b) 4 := by
  have h : encR m f d a b % 4 = 2 := by unfold encR; omega
  exact ⟨by unfold encR; omega, by unfold lengthOf; simp [h]⟩

theorem encI_announces {m f d a v : Nat} (hm : m < 32) (hf : f < 8) (hd : d < 32) (ha : a < 32) (hv : v < 4096) :
    Announces (encI m f d a v) 4 := by
  have h : encI m f d a v % 4 = 2 := by unfold encI; omega
  exact ⟨by unfold encI; omega, by unfold lengthOf; simp [h]⟩

theorem encS_announces {m f a b v : Nat} (hm : m < 32) (hf : f < 8) (ha : a < 32) (hb : b < 32) (hv : v < 4096) :
    Announces (encS m f a b v) 4 := by
  have h : encS m f a b v % 4 = 2 := by unfold encS; omega
  exact ⟨by unfold encS; omega, by unfold lengthOf; simp [h]⟩

theorem encU_announces {m d v : Nat} (hm : m < 32) (hd : d < 32) (hv : v < 1048576) : Announces (encU m d v) 4 := by
  have h : encU m d v % 4 = 2 := by unfold encU; omega
  exact ⟨by unfold encU; omega, by unfold lengthOf; simp [h]⟩

theorem toNat_lt_two (b : Bool) : b.toNat < 2 := by cases b <;> decide

theorem encV_announces {m f : Nat} (o : VOps) (hm : m < 32) (hf : f < 8) : Announces (encV m f o) 4 := by
  obtain ⟨d, a, b, p, x, y, z⟩ := o
  have h1 := d.isLt
  have h2 := a.isLt
  have h3 := b.isLt
  have h4 := p.isLt
  have h5 := z.isLt
  have h6 := toNat_lt_two x
  have h7 := toNat_lt_two y
  have h : encV m f ⟨d, a, b, p, x, y, z⟩ % 4 = 2 := by unfold encV; dsimp only; omega
  exact ⟨by unfold encV; dsimp only; omega, by unfold lengthOf; simp [h]⟩

theorem encVM_announces {m f : Nat} (o : VMOps) (hm : m < 32) (hf : f < 8) : Announces (encVM m f o) 4 := by
  obtain ⟨v, b, a, u, q⟩ := o
  have h1 := v.isLt
  have h2 := b.isLt
  have h3 := a.isLt
  have h4 := u.isLt
  have h5 := q.isLt
  have h : encVM m f ⟨v, b, a, u, q⟩ % 4 = 2 := by unfold encVM; dsimp only; omega
  exact ⟨by unfold encVM; dsimp only; omega, by unfold lengthOf; simp [h]⟩

theorem encAmo_announces {f : Nat} (o : AmoOps) (hf : f < 16) :
    Announces (encR 0x0A (f + encAmo o) o.d.val o.a.val o.b.val) 4 := by
  have h1 := o.scope.isLt
  have h2 := toNat_lt_two o.rl
  have h3 := toNat_lt_two o.aq
  have h4 := toNat_lt_two o.dbl
  exact encR_announces (by omega) (by unfold encAmo; omega) o.d.isLt o.a.isLt o.b.isLt

theorem encL_announces {k f a b c d w : Nat} (hk : k < 32) (hf : f < 32) (ha : a < 32) (hb : b < 32) (hc : c < 32) (hd : d < 32)
    (hw : w < 4294967296) : Announces (encL k f a b c d w) 8 := by
  have h : encL k f a b c d w % 4 = 3 := by unfold encL; omega
  exact ⟨by unfold encL; omega, by unfold lengthOf; simp [h]⟩

theorem encH_announces {q f body : Nat} (hq : q < 2) (hf : f < 8) (hb : body < 8192) (h4 : body % 4 = 0) :
    Announces (encH q f body) 2 := by
  have h : encH q f body % 4 = q := by unfold encH; omega
  refine ⟨by unfold encH; omega, ?_⟩
  unfold lengthOf
  rw [h]
  interval_cases q <;> rfl

namespace WordLength

/-- The word that encodes the instruction has as many bytes as the instruction, and its low bits announce them (R35). An event
has no word. -/
def Statement (i : Instr) : Prop := i.isEvent = false → Announces (encode i) i.len

theorem ldb (d : Reg) (a : Reg) (imm : BitVec 12) : Statement (.ldb d a imm) := fun _ => by
  have h_d := d.isLt
  have h_a := a.isLt
  have h_imm := imm.isLt
  exact encI_announces (by omega) (by omega) (by omega) (by omega) (by omega)

theorem ldh (d : Reg) (a : Reg) (imm : BitVec 12) : Statement (.ldh d a imm) := fun _ => by
  have h_d := d.isLt
  have h_a := a.isLt
  have h_imm := imm.isLt
  exact encI_announces (by omega) (by omega) (by omega) (by omega) (by omega)

theorem ldw (d : Reg) (a : Reg) (imm : BitVec 12) : Statement (.ldw d a imm) := fun _ => by
  have h_d := d.isLt
  have h_a := a.isLt
  have h_imm := imm.isLt
  exact encI_announces (by omega) (by omega) (by omega) (by omega) (by omega)

theorem ldd (d : Reg) (a : Reg) (imm : BitVec 12) : Statement (.ldd d a imm) := fun _ => by
  have h_d := d.isLt
  have h_a := a.isLt
  have h_imm := imm.isLt
  exact encI_announces (by omega) (by omega) (by omega) (by omega) (by omega)

theorem ldbu (d : Reg) (a : Reg) (imm : BitVec 12) : Statement (.ldbu d a imm) := fun _ => by
  have h_d := d.isLt
  have h_a := a.isLt
  have h_imm := imm.isLt
  exact encI_announces (by omega) (by omega) (by omega) (by omega) (by omega)

theorem ldhu (d : Reg) (a : Reg) (imm : BitVec 12) : Statement (.ldhu d a imm) := fun _ => by
  have h_d := d.isLt
  have h_a := a.isLt
  have h_imm := imm.isLt
  exact encI_announces (by omega) (by omega) (by omega) (by omega) (by omega)

theorem ldwu (d : Reg) (a : Reg) (imm : BitVec 12) : Statement (.ldwu d a imm) := fun _ => by
  have h_d := d.isLt
  have h_a := a.isLt
  have h_imm := imm.isLt
  exact encI_announces (by omega) (by omega) (by omega) (by omega) (by omega)

theorem stb (b : Reg) (a : Reg) (imm : BitVec 12) : Statement (.stb b a imm) := fun _ => by
  have h_b := b.isLt
  have h_a := a.isLt
  have h_imm := imm.isLt
  exact encS_announces (by omega) (by omega) (by omega) (by omega) (by omega)

theorem sth (b : Reg) (a : Reg) (imm : BitVec 12) : Statement (.sth b a imm) := fun _ => by
  have h_b := b.isLt
  have h_a := a.isLt
  have h_imm := imm.isLt
  exact encS_announces (by omega) (by omega) (by omega) (by omega) (by omega)

theorem stw (b : Reg) (a : Reg) (imm : BitVec 12) : Statement (.stw b a imm) := fun _ => by
  have h_b := b.isLt
  have h_a := a.isLt
  have h_imm := imm.isLt
  exact encS_announces (by omega) (by omega) (by omega) (by omega) (by omega)

theorem std (b : Reg) (a : Reg) (imm : BitVec 12) : Statement (.std b a imm) := fun _ => by
  have h_b := b.isLt
  have h_a := a.isLt
  have h_imm := imm.isLt
  exact encS_announces (by omega) (by omega) (by omega) (by omega) (by omega)

theorem amoswp (o : AmoOps) : Statement (.amoswp o) := fun _ => encAmo_announces _ (by decide)

theorem amoadd (o : AmoOps) : Statement (.amoadd o) := fun _ => encAmo_announces _ (by decide)

theorem amoand (o : AmoOps) : Statement (.amoand o) := fun _ => encAmo_announces _ (by decide)

theorem amoor (o : AmoOps) : Statement (.amoor o) := fun _ => encAmo_announces _ (by decide)

theorem amoxor (o : AmoOps) : Statement (.amoxor o) := fun _ => encAmo_announces _ (by decide)

theorem amomin (o : AmoOps) : Statement (.amomin o) := fun _ => encAmo_announces _ (by decide)

theorem amomax (o : AmoOps) : Statement (.amomax o) := fun _ => encAmo_announces _ (by decide)

theorem amominu (o : AmoOps) : Statement (.amominu o) := fun _ => encAmo_announces _ (by decide)

theorem amomaxu (o : AmoOps) : Statement (.amomaxu o) := fun _ => encAmo_announces _ (by decide)

theorem amocas (o : AmoOps) : Statement (.amocas o) := fun _ => encAmo_announces _ (by decide)

theorem lda (o : AmoOps) : Statement (.lda o) := fun _ => encAmo_announces _ (by decide)

theorem stl (o : AmoOps) : Statement (.stl o) := fun _ => encAmo_announces _ (by decide)

theorem ecall : Statement .ecall := fun _ => by
  exact encR_announces (by omega) (by omega) (by omega) (by omega) (by omega)

theorem ebreak : Statement .ebreak := fun _ => by
  exact encR_announces (by omega) (by omega) (by omega) (by omega) (by omega)

theorem eret : Statement .eret := fun _ => by
  exact encR_announces (by omega) (by omega) (by omega) (by omega) (by omega)

theorem srd (d : Reg) (num : BitVec 11) : Statement (.srd d num) := fun _ => by
  have h_d := d.isLt
  have h_num := num.isLt
  exact encR_announces (by omega) (by omega) (by omega) (by omega) (by omega)

theorem swr (d : Reg) (a : Reg) (num : BitVec 11) : Statement (.swr d a num) := fun _ => by
  have h_d := d.isLt
  have h_a := a.isLt
  have h_num := num.isLt
  exact encR_announces (by omega) (by omega) (by omega) (by omega) (by omega)

theorem srset (d : Reg) (a : Reg) (num : BitVec 11) : Statement (.srset d a num) := fun _ => by
  have h_d := d.isLt
  have h_a := a.isLt
  have h_num := num.isLt
  exact encR_announces (by omega) (by omega) (by omega) (by omega) (by omega)

theorem srclr (d : Reg) (a : Reg) (num : BitVec 11) : Statement (.srclr d a num) := fun _ => by
  have h_d := d.isLt
  have h_a := a.isLt
  have h_num := num.isLt
  exact encR_announces (by omega) (by omega) (by omega) (by omega) (by omega)

theorem fence (scope : Fin 8) (set : Fin 8) : Statement (.fence scope set) := fun _ => by
  have h_scope := scope.isLt
  have h_set := set.isLt
  exact encR_announces (by omega) (by omega) (by omega) (by omega) (by omega)

theorem icinvR (a : Reg) (b : Reg) : Statement (.icinvR a b) := fun _ => by
  have h_a := a.isLt
  have h_b := b.isLt
  exact encR_announces (by omega) (by omega) (by omega) (by omega) (by omega)

theorem tlbinv (a : Reg) (b : Reg) : Statement (.tlbinv a b) := fun _ => by
  have h_a := a.isLt
  have h_b := b.isLt
  exact encR_announces (by omega) (by omega) (by omega) (by omega) (by omega)

theorem waite (d : Reg) (a : Reg) : Statement (.waite d a) := fun _ => by
  have h_d := d.isLt
  have h_a := a.isLt
  exact encR_announces (by omega) (by omega) (by omega) (by omega) (by omega)

theorem barArm (d : Reg) (a : Reg) : Statement (.barArm d a) := fun _ => by
  have h_d := d.isLt
  have h_a := a.isLt
  exact encR_announces (by omega) (by omega) (by omega) (by omega) (by omega)

theorem barArv (d : Reg) : Statement (.barArv d) := fun _ => by
  have h_d := d.isLt
  exact encR_announces (by omega) (by omega) (by omega) (by omega) (by omega)

theorem barWt (d : Reg) : Statement (.barWt d) := fun _ => by
  have h_d := d.isLt
  exact encR_announces (by omega) (by omega) (by omega) (by omega) (by omega)

theorem barSync (d : Reg) : Statement (.barSync d) := fun _ => by
  have h_d := d.isLt
  exact encR_announces (by omega) (by omega) (by omega) (by omega) (by omega)

theorem barDrop (d : Reg) : Statement (.barDrop d) := fun _ => by
  have h_d := d.isLt
  exact encR_announces (by omega) (by omega) (by omega) (by omega) (by omega)

theorem fork (d : Reg) (a : Reg) (b : Reg) : Statement (.fork d a b) := fun _ => by
  have h_d := d.isLt
  have h_a := a.isLt
  have h_b := b.isLt
  exact encR_announces (by omega) (by omega) (by omega) (by omega) (by omega)

theorem join (d : Reg) : Statement (.join d) := fun _ => by
  have h_d := d.isLt
  exact encR_announces (by omega) (by omega) (by omega) (by omega) (by omega)

theorem waitc (d : Reg) (a : Reg) (b : Reg) : Statement (.waitc d a b) := fun _ => by
  have h_d := d.isLt
  have h_a := a.isLt
  have h_b := b.isLt
  exact encR_announces (by omega) (by omega) (by omega) (by omega) (by omega)

theorem launch (d : Reg) (a : Reg) (b : Reg) : Statement (.launch d a b) := fun _ => by
  have h_d := d.isLt
  have h_a := a.isLt
  have h_b := b.isLt
  exact encR_announces (by omega) (by omega) (by omega) (by omega) (by omega)

theorem safept (d : Reg) (a : Reg) (b : Reg) : Statement (.safept d a b) := fun _ => by
  have h_d := d.isLt
  have h_a := a.isLt
  have h_b := b.isLt
  exact encR_announces (by omega) (by omega) (by omega) (by omega) (by omega)

theorem yield (d : Reg) : Statement (.yield d) := fun _ => by
  have h_d := d.isLt
  exact encR_announces (by omega) (by omega) (by omega) (by omega) (by omega)

theorem halt : Statement .halt := fun _ => by
  exact encR_announces (by omega) (by omega) (by omega) (by omega) (by omega)

theorem shape (d : Reg) (a : Reg) (b : Reg) (t : Reg) : Statement (.shape d a b t) := fun _ => by
  have h_d := d.isLt
  have h_a := a.isLt
  have h_b := b.isLt
  have h_t := t.isLt
  exact encR_announces (by omega) (by omega) (by omega) (by omega) (by omega)

theorem shapeM (d : Reg) (a : Reg) (b : Reg) (t : Reg) : Statement (.shapeM d a b t) := fun _ => by
  have h_d := d.isLt
  have h_a := a.isLt
  have h_b := b.isLt
  have h_t := t.isLt
  exact encR_announces (by omega) (by omega) (by omega) (by omega) (by omega)

theorem shapeG (d : Reg) (a : Reg) (b : Reg) (t : Reg) : Statement (.shapeG d a b t) := fun _ => by
  have h_d := d.isLt
  have h_a := a.isLt
  have h_b := b.isLt
  have h_t := t.isLt
  exact encR_announces (by omega) (by omega) (by omega) (by omega) (by omega)

theorem vtag (n : Reg) (a : Reg) : Statement (.vtag n a) := fun _ => by
  have h_n := n.isLt
  have h_a := a.isLt
  exact encR_announces (by omega) (by omega) (by omega) (by omega) (by omega)

theorem qcfg (q : Reg) (a : Reg) : Statement (.qcfg q a) := fun _ => by
  have h_q := q.isLt
  have h_a := a.isLt
  exact encR_announces (by omega) (by omega) (by omega) (by omega) (by omega)

theorem mxon (d : Reg) (a : Reg) (b : Reg) : Statement (.mxon d a b) := fun _ => by
  have h_d := d.isLt
  have h_a := a.isLt
  have h_b := b.isLt
  exact encR_announces (by omega) (by omega) (by omega) (by omega) (by omega)

theorem mxoff : Statement .mxoff := fun _ => by
  exact encR_announces (by omega) (by omega) (by omega) (by omega) (by omega)

theorem getsh (d : Reg) (sel : Reg) (n : Reg) : Statement (.getsh d sel n) := fun _ => by
  have h_d := d.isLt
  have h_sel := sel.isLt
  have h_n := n.isLt
  exact encR_announces (by omega) (by omega) (by omega) (by omega) (by omega)

theorem vldU (o : VMOps) : Statement (.vldU o) := fun _ => encVM_announces _ (by decide) (by decide)

theorem vldS (o : VMOps) : Statement (.vldS o) := fun _ => encVM_announces _ (by decide) (by decide)

theorem vldX (o : VMOps) : Statement (.vldX o) := fun _ => encVM_announces _ (by decide) (by decide)

theorem vldXO (o : VMOps) : Statement (.vldXO o) := fun _ => encVM_announces _ (by decide) (by decide)

theorem vldSeg (o : VMOps) : Statement (.vldSeg o) := fun _ => encVM_announces _ (by decide) (by decide)

theorem vldC (o : VMOps) : Statement (.vldC o) := fun _ => encVM_announces _ (by decide) (by decide)

theorem vldFF (o : VMOps) : Statement (.vldFF o) := fun _ => encVM_announces _ (by decide) (by decide)

theorem vtree (o : VMOps) : Statement (.vtree o) := fun _ => encVM_announces _ (by decide) (by decide)

theorem vstU (o : VMOps) : Statement (.vstU o) := fun _ => encVM_announces _ (by decide) (by decide)

theorem vstS (o : VMOps) : Statement (.vstS o) := fun _ => encVM_announces _ (by decide) (by decide)

theorem vstX (o : VMOps) : Statement (.vstX o) := fun _ => encVM_announces _ (by decide) (by decide)

theorem vstXO (o : VMOps) : Statement (.vstXO o) := fun _ => encVM_announces _ (by decide) (by decide)

theorem vstSeg (o : VMOps) : Statement (.vstSeg o) := fun _ => encVM_announces _ (by decide) (by decide)

theorem vstC (o : VMOps) : Statement (.vstC o) := fun _ => encVM_announces _ (by decide) (by decide)

theorem vadd (o : VOps) : Statement (.vadd o) := fun _ => encV_announces _ (by decide) (by decide)

theorem vsub (o : VOps) : Statement (.vsub o) := fun _ => encV_announces _ (by decide) (by decide)

theorem vmul (o : VOps) : Statement (.vmul o) := fun _ => encV_announces _ (by decide) (by decide)

theorem vmulh (o : VOps) : Statement (.vmulh o) := fun _ => encV_announces _ (by decide) (by decide)

theorem vdiv (o : VOps) : Statement (.vdiv o) := fun _ => encV_announces _ (by decide) (by decide)

theorem vmin (o : VOps) : Statement (.vmin o) := fun _ => encV_announces _ (by decide) (by decide)

theorem vmax (o : VOps) : Statement (.vmax o) := fun _ => encV_announces _ (by decide) (by decide)

theorem vsqrt (o : VOps) : Statement (.vsqrt o) := fun _ => encV_announces _ (by decide) (by decide)

theorem vaddX (o : VOps) : Statement (.vaddX o) := fun _ => encV_announces _ (by decide) (by decide)

theorem vsubX (o : VOps) : Statement (.vsubX o) := fun _ => encV_announces _ (by decide) (by decide)

theorem vrsubX (o : VOps) : Statement (.vrsubX o) := fun _ => encV_announces _ (by decide) (by decide)

theorem vmulX (o : VOps) : Statement (.vmulX o) := fun _ => encV_announces _ (by decide) (by decide)

theorem vdivX (o : VOps) : Statement (.vdivX o) := fun _ => encV_announces _ (by decide) (by decide)

theorem vrdivX (o : VOps) : Statement (.vrdivX o) := fun _ => encV_announces _ (by decide) (by decide)

theorem vminX (o : VOps) : Statement (.vminX o) := fun _ => encV_announces _ (by decide) (by decide)

theorem vmaxX (o : VOps) : Statement (.vmaxX o) := fun _ => encV_announces _ (by decide) (by decide)

theorem vand (o : VOps) : Statement (.vand o) := fun _ => encV_announces _ (by decide) (by decide)

theorem vor (o : VOps) : Statement (.vor o) := fun _ => encV_announces _ (by decide) (by decide)

theorem vxor (o : VOps) : Statement (.vxor o) := fun _ => encV_announces _ (by decide) (by decide)

theorem vsll (o : VOps) : Statement (.vsll o) := fun _ => encV_announces _ (by decide) (by decide)

theorem vsrl (o : VOps) : Statement (.vsrl o) := fun _ => encV_announces _ (by decide) (by decide)

theorem vsra (o : VOps) : Statement (.vsra o) := fun _ => encV_announces _ (by decide) (by decide)

theorem vmerge (o : VOps) : Statement (.vmerge o) := fun _ => encV_announces _ (by decide) (by decide)

theorem vmv (o : VOps) : Statement (.vmv o) := fun _ => encV_announces _ (by decide) (by decide)

theorem vandX (o : VOps) : Statement (.vandX o) := fun _ => encV_announces _ (by decide) (by decide)

theorem vorX (o : VOps) : Statement (.vorX o) := fun _ => encV_announces _ (by decide) (by decide)

theorem vxorX (o : VOps) : Statement (.vxorX o) := fun _ => encV_announces _ (by decide) (by decide)

theorem vsllX (o : VOps) : Statement (.vsllX o) := fun _ => encV_announces _ (by decide) (by decide)

theorem vsrlX (o : VOps) : Statement (.vsrlX o) := fun _ => encV_announces _ (by decide) (by decide)

theorem vsraX (o : VOps) : Statement (.vsraX o) := fun _ => encV_announces _ (by decide) (by decide)

theorem vmergeX (o : VOps) : Statement (.vmergeX o) := fun _ => encV_announces _ (by decide) (by decide)

theorem vsplat (o : VOps) : Statement (.vsplat o) := fun _ => encV_announces _ (by decide) (by decide)

theorem vmacc (o : VOps) : Statement (.vmacc o) := fun _ => encV_announces _ (by decide) (by decide)

theorem vnmsac (o : VOps) : Statement (.vnmsac o) := fun _ => encV_announces _ (by decide) (by decide)

theorem vmadd (o : VOps) : Statement (.vmadd o) := fun _ => encV_announces _ (by decide) (by decide)

theorem vnmsub (o : VOps) : Statement (.vnmsub o) := fun _ => encV_announces _ (by decide) (by decide)

theorem vmaccX (o : VOps) : Statement (.vmaccX o) := fun _ => encV_announces _ (by decide) (by decide)

theorem vnmsacX (o : VOps) : Statement (.vnmsacX o) := fun _ => encV_announces _ (by decide) (by decide)

theorem vabs (o : VOps) : Statement (.vabs o) := fun _ => encV_announces _ (by decide) (by decide)

theorem vneg (o : VOps) : Statement (.vneg o) := fun _ => encV_announces _ (by decide) (by decide)

theorem vseq (o : VOps) : Statement (.vseq o) := fun _ => encV_announces _ (by decide) (by decide)

theorem vsne (o : VOps) : Statement (.vsne o) := fun _ => encV_announces _ (by decide) (by decide)

theorem vslt (o : VOps) : Statement (.vslt o) := fun _ => encV_announces _ (by decide) (by decide)

theorem vsle (o : VOps) : Statement (.vsle o) := fun _ => encV_announces _ (by decide) (by decide)

theorem vsltX (o : VOps) : Statement (.vsltX o) := fun _ => encV_announces _ (by decide) (by decide)

theorem vsgtX (o : VOps) : Statement (.vsgtX o) := fun _ => encV_announces _ (by decide) (by decide)

theorem vlbnd (o : VOps) : Statement (.vlbnd o) := fun _ => encV_announces _ (by decide) (by decide)

theorem vclass (o : VOps) : Statement (.vclass o) := fun _ => encV_announces _ (by decide) (by decide)

theorem vcvtH (o : VOps) : Statement (.vcvtH o) := fun _ => encV_announces _ (by decide) (by decide)

theorem vcvtD (o : VOps) : Statement (.vcvtD o) := fun _ => encV_announces _ (by decide) (by decide)

theorem vcvtQ4 (o : VOps) : Statement (.vcvtQ4 o) := fun _ => encV_announces _ (by decide) (by decide)

theorem vcvtI (o : VOps) : Statement (.vcvtI o) := fun _ => encV_announces _ (by decide) (by decide)

theorem vcvtF (o : VOps) : Statement (.vcvtF o) := fun _ => encV_announces _ (by decide) (by decide)

theorem vcvtT (o : VOps) : Statement (.vcvtT o) := fun _ => encV_announces _ (by decide) (by decide)

theorem vretag (o : VOps) : Statement (.vretag o) := fun _ => encV_announces _ (by decide) (by decide)

theorem vredsum (o : VOps) : Statement (.vredsum o) := fun _ => encV_announces _ (by decide) (by decide)

theorem vredmax (o : VOps) : Statement (.vredmax o) := fun _ => encV_announces _ (by decide) (by decide)

theorem vredmin (o : VOps) : Statement (.vredmin o) := fun _ => encV_announces _ (by decide) (by decide)

theorem vredand (o : VOps) : Statement (.vredand o) := fun _ => encV_announces _ (by decide) (by decide)

theorem vredor (o : VOps) : Statement (.vredor o) := fun _ => encV_announces _ (by decide) (by decide)

theorem vredsc (o : VOps) : Statement (.vredsc o) := fun _ => encV_announces _ (by decide) (by decide)

theorem vscan (o : VOps) : Statement (.vscan o) := fun _ => encV_announces _ (by decide) (by decide)

theorem vredcol (o : VOps) : Statement (.vredcol o) := fun _ => encV_announces _ (by decide) (by decide)

theorem vrgath (o : VOps) : Statement (.vrgath o) := fun _ => encV_announces _ (by decide) (by decide)

theorem vslideup (o : VOps) : Statement (.vslideup o) := fun _ => encV_announces _ (by decide) (by decide)

theorem vslidedn (o : VOps) : Statement (.vslidedn o) := fun _ => encV_announces _ (by decide) (by decide)

theorem vslide1up (o : VOps) : Statement (.vslide1up o) := fun _ => encV_announces _ (by decide) (by decide)

theorem vslide1dn (o : VOps) : Statement (.vslide1dn o) := fun _ => encV_announces _ (by decide) (by decide)

theorem vcompr (o : VOps) : Statement (.vcompr o) := fun _ => encV_announces _ (by decide) (by decide)

theorem vexpm (o : VOps) : Statement (.vexpm o) := fun _ => encV_announces _ (by decide) (by decide)

theorem vreshp (o : VOps) : Statement (.vreshp o) := fun _ => encV_announces _ (by decide) (by decide)

theorem vunpk (o : VOps) : Statement (.vunpk o) := fun _ => encV_announces _ (by decide) (by decide)

theorem vpack (o : VOps) : Statement (.vpack o) := fun _ => encV_announces _ (by decide) (by decide)

theorem vlut (o : VOps) : Statement (.vlut o) := fun _ => encV_announces _ (by decide) (by decide)

theorem vid (o : VOps) : Statement (.vid o) := fun _ => encV_announces _ (by decide) (by decide)

theorem vclz (o : VOps) : Statement (.vclz o) := fun _ => encV_announces _ (by decide) (by decide)

theorem vcpop (o : VOps) : Statement (.vcpop o) := fun _ => encV_announces _ (by decide) (by decide)

theorem vordk (o : VOps) : Statement (.vordk o) := fun _ => encV_announces _ (by decide) (by decide)

theorem vbrev (o : VOps) : Statement (.vbrev o) := fun _ => encV_announces _ (by decide) (by decide)

theorem mand (o : VOps) : Statement (.mand o) := fun _ => encV_announces _ (by decide) (by decide)

theorem mor (o : VOps) : Statement (.mor o) := fun _ => encV_announces _ (by decide) (by decide)

theorem mxor (o : VOps) : Statement (.mxor o) := fun _ => encV_announces _ (by decide) (by decide)

theorem mandn (o : VOps) : Statement (.mandn o) := fun _ => encV_announces _ (by decide) (by decide)

theorem mnot (o : VOps) : Statement (.mnot o) := fun _ => encV_announces _ (by decide) (by decide)

theorem mpopc (o : VOps) : Statement (.mpopc o) := fun _ => encV_announces _ (by decide) (by decide)

theorem mfirst (o : VOps) : Statement (.mfirst o) := fun _ => encV_announces _ (by decide) (by decide)

theorem mseti (o : VOps) : Statement (.mseti o) := fun _ => encV_announces _ (by decide) (by decide)

theorem vmvx (o : VOps) : Statement (.vmvx o) := fun _ => encV_announces _ (by decide) (by decide)

theorem vmvs (o : VOps) : Statement (.vmvs o) := fun _ => encV_announces _ (by decide) (by decide)

theorem mmvx (o : VOps) : Statement (.mmvx o) := fun _ => encV_announces _ (by decide) (by decide)

theorem mmvs (o : VOps) : Statement (.mmvs o) := fun _ => encV_announces _ (by decide) (by decide)

theorem qstat (o : VOps) : Statement (.qstat o) := fun _ => encV_announces _ (by decide) (by decide)

theorem qdrop (o : VOps) : Statement (.qdrop o) := fun _ => encV_announces _ (by decide) (by decide)

theorem catins (o : VOps) : Statement (.catins o) := fun _ => encV_announces _ (by decide) (by decide)

theorem catlkp (o : VOps) : Statement (.catlkp o) := fun _ => encV_announces _ (by decide) (by decide)

theorem catacc (o : VOps) : Statement (.catacc o) := fun _ => encV_announces _ (by decide) (by decide)

theorem catdrn (o : VOps) : Statement (.catdrn o) := fun _ => encV_announces _ (by decide) (by decide)

theorem catclr : Statement .catclr := fun _ => encV_announces _ (by decide) (by decide)

theorem catcnt (o : VOps) : Statement (.catcnt o) := fun _ => encV_announces _ (by decide) (by decide)

theorem catcfg (o : VOps) : Statement (.catcfg o) := fun _ => encV_announces _ (by decide) (by decide)

theorem cpyG (d : Reg) (a : Reg) (b : Reg) : Statement (.cpyG d a b) := fun _ => by
  have h_d := d.isLt
  have h_a := a.isLt
  have h_b := b.isLt
  exact encR_announces (by omega) (by omega) (by omega) (by omega) (by omega)

theorem cpyP (d : Reg) (a : Reg) (b : Reg) : Statement (.cpyP d a b) := fun _ => by
  have h_d := d.isLt
  have h_a := a.isLt
  have h_b := b.isLt
  exact encR_announces (by omega) (by omega) (by omega) (by omega) (by omega)

theorem cpyX (d : Reg) (a : Reg) (b : Reg) : Statement (.cpyX d a b) := fun _ => by
  have h_d := d.isLt
  have h_a := a.isLt
  have h_b := b.isLt
  exact encR_announces (by omega) (by omega) (by omega) (by omega) (by omega)

theorem cpyIX (d : Reg) (a : Reg) (b : Reg) : Statement (.cpyIX d a b) := fun _ => by
  have h_d := d.isLt
  have h_a := a.isLt
  have h_b := b.isLt
  exact encR_announces (by omega) (by omega) (by omega) (by omega) (by omega)

theorem cpyWait (d : Reg) (c : Fin 8) (b : Reg) : Statement (.cpyWait d c b) := fun _ => by
  have h_d := d.isLt
  have h_c := c.isLt
  have h_b := b.isLt
  exact encR_announces (by omega) (by omega) (by omega) (by omega) (by omega)

theorem cpyStat (d : Reg) (c : Fin 8) (sel : Reg) : Statement (.cpyStat d c sel) := fun _ => by
  have h_d := d.isLt
  have h_c := c.isLt
  have h_sel := sel.isLt
  exact encR_announces (by omega) (by omega) (by omega) (by omega) (by omega)

theorem cpyAbort (d : Reg) (c : Fin 8) : Statement (.cpyAbort d c) := fun _ => by
  have h_d := d.isLt
  have h_c := c.isLt
  exact encR_announces (by omega) (by omega) (by omega) (by omega) (by omega)

theorem cpyFill (d : Reg) (c : Fin 8) (b : Reg) : Statement (.cpyFill d c b) := fun _ => by
  have h_d := d.isLt
  have h_c := c.isLt
  have h_b := b.isLt
  exact encR_announces (by omega) (by omega) (by omega) (by omega) (by omega)

theorem hLdd (d : Fin 8) (a : Fin 8) (off : Fin 32) : Statement (.hLdd d a off) := fun _ => by
  have h_d := d.isLt
  have h_a := a.isLt
  have h_off := off.isLt
  exact encH_announces (by omega) (by omega) (by omega) (by omega)

theorem hStd (b : Fin 8) (a : Fin 8) (off : Fin 32) : Statement (.hStd b a off) := fun _ => by
  have h_b := b.isLt
  have h_a := a.isLt
  have h_off := off.isLt
  exact encH_announces (by omega) (by omega) (by omega) (by omega)

theorem hLdw (d : Fin 8) (a : Fin 8) (off : Fin 32) : Statement (.hLdw d a off) := fun _ => by
  have h_d := d.isLt
  have h_a := a.isLt
  have h_off := off.isLt
  exact encH_announces (by omega) (by omega) (by omega) (by omega)

theorem hStw (b : Fin 8) (a : Fin 8) (off : Fin 32) : Statement (.hStw b a off) := fun _ => by
  have h_b := b.isLt
  have h_a := a.isLt
  have h_off := off.isLt
  exact encH_announces (by omega) (by omega) (by omega) (by omega)

theorem hBrk : Statement .hBrk := fun _ => by
  exact encH_announces (by omega) (by omega) (by omega) (by omega)

theorem mzero (tile : Fin 4) : Statement (.mzero tile) := fun _ => by
  have h_tile := tile.isLt
  exact encL_announces (by omega) (by omega) (by omega) (by omega) (by omega) (by omega) (by omega)

theorem mopa (za : Fin 2) (va : Reg) (vb : Reg) (ca : Bool) (cb : Bool) : Statement (.mopa za va vb ca cb) := fun _ => by
  have h_za := za.isLt
  have h_va := va.isLt
  have h_vb := vb.isLt
  have h_ca := toNat_lt_two ca
  have h_cb := toNat_lt_two cb
  exact encL_announces (by omega) (by omega) (by omega) (by omega) (by omega) (by omega) (by omega)

theorem mops (za : Fin 2) (va : Reg) (vb : Reg) (ca : Bool) (cb : Bool) : Statement (.mops za va vb ca cb) := fun _ => by
  have h_za := za.isLt
  have h_va := va.isLt
  have h_vb := vb.isLt
  have h_ca := toNat_lt_two ca
  have h_cb := toNat_lt_two cb
  exact encL_announces (by omega) (by omega) (by omega) (by omega) (by omega) (by omega) (by omega)

theorem mblk (zf : Fin 2) (za : Fin 2) (ns : Bool) (keep : Bool) : Statement (.mblk zf za ns keep) := fun _ => by
  have h_zf := zf.isLt
  have h_za := za.isLt
  have h_ns := toNat_lt_two ns
  have h_keep := toNat_lt_two keep
  exact encL_announces (by omega) (by omega) (by omega) (by omega) (by omega) (by omega) (by omega)

theorem mrdz (vd : Reg) (zf : Fin 2) (xb : Reg) : Statement (.mrdz vd zf xb) := fun _ => by
  have h_vd := vd.isLt
  have h_zf := zf.isLt
  have h_xb := xb.isLt
  exact encL_announces (by omega) (by omega) (by omega) (by omega) (by omega) (by omega) (by omega)

theorem mspill (sq : Fin 2) (tile : Fin 4) (xc : Reg) : Statement (.mspill sq tile xc) := fun _ => by
  have h_sq := sq.isLt
  have h_tile := tile.isLt
  have h_xc := xc.isLt
  exact encL_announces (by omega) (by omega) (by omega) (by omega) (by omega) (by omega) (by omega)

theorem mfill (tile : Fin 4) (lq : Fin 4) (xc : Reg) : Statement (.mfill tile lq xc) := fun _ => by
  have h_tile := tile.isLt
  have h_lq := lq.isLt
  have h_xc := xc.isLt
  exact encL_announces (by omega) (by omega) (by omega) (by omega) (by omega) (by omega) (by omega)

theorem mldq (o : MldqOps) : Statement (.mldq o) := fun _ => by
  have h_o1 := o.q.isLt
  have h_o2 := o.a.isLt
  have h_o3 := o.b.isLt
  have h_o4 := o.c.isLt
  have h_o5 := o.n.isLt
  have h_o6 := o.k.isLt
  have h_o7 := o.t.isLt
  have h_o8 := o.code.isLt
  exact encL_announces (by omega) (by omega) (by omega) (by omega) (by omega) (by omega) (by omega)

theorem gopen (d : Reg) (a : Reg) (b : Reg) (c : Reg) : Statement (.gopen d a b c) := fun _ => by
  have h_d := d.isLt
  have h_a := a.isLt
  have h_b := b.isLt
  have h_c := c.isLt
  exact encL_announces (by omega) (by omega) (by omega) (by omega) (by omega) (by omega) (by omega)

theorem gadv (d : Reg) (a : Reg) (b : Reg) : Statement (.gadv d a b) := fun _ => by
  have h_d := d.isLt
  have h_a := a.isLt
  have h_b := b.isLt
  exact encL_announces (by omega) (by omega) (by omega) (by omega) (by omega) (by omega) (by omega)

theorem gmask (md : Fin 16) (a : Reg) : Statement (.gmask md a) := fun _ => by
  have h_md := md.isLt
  have h_a := a.isLt
  exact encL_announces (by omega) (by omega) (by omega) (by omega) (by omega) (by omega) (by omega)

theorem gmaskM (md : Fin 16) (a : Reg) (ms : Fin 16) : Statement (.gmaskM md a ms) := fun _ => by
  have h_md := md.isLt
  have h_a := a.isLt
  have h_ms := ms.isLt
  exact encL_announces (by omega) (by omega) (by omega) (by omega) (by omega) (by omega) (by omega)

theorem gckpt (d : Reg) (a : Reg) : Statement (.gckpt d a) := fun _ => by
  have h_d := d.isLt
  have h_a := a.isLt
  exact encL_announces (by omega) (by omega) (by omega) (by omega) (by omega) (by omega) (by omega)

theorem groll (d : Reg) (a : Reg) (b : Reg) : Statement (.groll d a b) := fun _ => by
  have h_d := d.isLt
  have h_a := a.isLt
  have h_b := b.isLt
  exact encL_announces (by omega) (by omega) (by omega) (by omega) (by omega) (by omega) (by omega)

theorem gfork (d : Reg) (a : Reg) : Statement (.gfork d a) := fun _ => by
  have h_d := d.isLt
  have h_a := a.isLt
  exact encL_announces (by omega) (by omega) (by omega) (by omega) (by omega) (by omega) (by omega)

theorem gfree (a : Reg) : Statement (.gfree a) := fun _ => by
  have h_a := a.isLt
  exact encL_announces (by omega) (by omega) (by omega) (by omega) (by omega) (by omega) (by omega)

theorem gstat (d : Reg) (a : Reg) (sel : Reg) : Statement (.gstat d a sel) := fun _ => by
  have h_d := d.isLt
  have h_a := a.isLt
  have h_sel := sel.isLt
  exact encL_announces (by omega) (by omega) (by omega) (by omega) (by omega) (by omega) (by omega)

theorem acclog (a : Reg) (b : Reg) : Statement (.acclog a b) := fun _ => by
  have h_a := a.isLt
  have h_b := b.isLt
  exact encL_announces (by omega) (by omega) (by omega) (by omega) (by omega) (by omega) (by omega)

theorem accsync (d : Reg) : Statement (.accsync d) := fun _ => by
  have h_d := d.isLt
  exact encL_announces (by omega) (by omega) (by omega) (by omega) (by omega) (by omega) (by omega)

theorem acchead (d : Reg) (sel : Reg) : Statement (.acchead d sel) := fun _ => by
  have h_d := d.isLt
  have h_sel := sel.isLt
  exact encL_announces (by omega) (by omega) (by omega) (by omega) (by omega) (by omega) (by omega)

theorem vtseal (d : Reg) (a : Reg) (b : Reg) (c : Reg) : Statement (.vtseal d a b c) := fun _ => by
  have h_d := d.isLt
  have h_a := a.isLt
  have h_b := b.isLt
  have h_c := c.isLt
  exact encL_announces (by omega) (by omega) (by omega) (by omega) (by omega) (by omega) (by omega)

theorem vtatt (a : Reg) (b : Reg) (c : Reg) : Statement (.vtatt a b c) := fun _ => by
  have h_a := a.isLt
  have h_b := b.isLt
  have h_c := c.isLt
  exact encL_announces (by omega) (by omega) (by omega) (by omega) (by omega) (by omega) (by omega)

theorem vtdrop (a : Reg) (c : Reg) : Statement (.vtdrop a c) := fun _ => by
  have h_a := a.isLt
  have h_c := c.isLt
  exact encL_announces (by omega) (by omega) (by omega) (by omega) (by omega) (by omega) (by omega)

theorem vtqry (d : Reg) (a : Reg) (sel : Reg) : Statement (.vtqry d a sel) := fun _ => by
  have h_d := d.isLt
  have h_a := a.isLt
  have h_sel := sel.isLt
  exact encL_announces (by omega) (by omega) (by omega) (by omega) (by omega) (by omega) (by omega)

theorem add (d : Reg) (a : Reg) (b : Reg) : Statement (.add d a b) := fun _ => by
  have h_d := d.isLt
  have h_a := a.isLt
  have h_b := b.isLt
  exact encR_announces (by omega) (by omega) (by omega) (by omega) (by omega)

theorem sub (d : Reg) (a : Reg) (b : Reg) : Statement (.sub d a b) := fun _ => by
  have h_d := d.isLt
  have h_a := a.isLt
  have h_b := b.isLt
  exact encR_announces (by omega) (by omega) (by omega) (by omega) (by omega)

theorem and (d : Reg) (a : Reg) (b : Reg) : Statement (.and d a b) := fun _ => by
  have h_d := d.isLt
  have h_a := a.isLt
  have h_b := b.isLt
  exact encR_announces (by omega) (by omega) (by omega) (by omega) (by omega)

theorem or (d : Reg) (a : Reg) (b : Reg) : Statement (.or d a b) := fun _ => by
  have h_d := d.isLt
  have h_a := a.isLt
  have h_b := b.isLt
  exact encR_announces (by omega) (by omega) (by omega) (by omega) (by omega)

theorem xor (d : Reg) (a : Reg) (b : Reg) : Statement (.xor d a b) := fun _ => by
  have h_d := d.isLt
  have h_a := a.isLt
  have h_b := b.isLt
  exact encR_announces (by omega) (by omega) (by omega) (by omega) (by omega)

theorem sll (d : Reg) (a : Reg) (b : Reg) : Statement (.sll d a b) := fun _ => by
  have h_d := d.isLt
  have h_a := a.isLt
  have h_b := b.isLt
  exact encR_announces (by omega) (by omega) (by omega) (by omega) (by omega)

theorem srl (d : Reg) (a : Reg) (b : Reg) : Statement (.srl d a b) := fun _ => by
  have h_d := d.isLt
  have h_a := a.isLt
  have h_b := b.isLt
  exact encR_announces (by omega) (by omega) (by omega) (by omega) (by omega)

theorem sra (d : Reg) (a : Reg) (b : Reg) : Statement (.sra d a b) := fun _ => by
  have h_d := d.isLt
  have h_a := a.isLt
  have h_b := b.isLt
  exact encR_announces (by omega) (by omega) (by omega) (by omega) (by omega)

theorem slt (d : Reg) (a : Reg) (b : Reg) : Statement (.slt d a b) := fun _ => by
  have h_d := d.isLt
  have h_a := a.isLt
  have h_b := b.isLt
  exact encR_announces (by omega) (by omega) (by omega) (by omega) (by omega)

theorem sltu (d : Reg) (a : Reg) (b : Reg) : Statement (.sltu d a b) := fun _ => by
  have h_d := d.isLt
  have h_a := a.isLt
  have h_b := b.isLt
  exact encR_announces (by omega) (by omega) (by omega) (by omega) (by omega)

theorem mul (d : Reg) (a : Reg) (b : Reg) : Statement (.mul d a b) := fun _ => by
  have h_d := d.isLt
  have h_a := a.isLt
  have h_b := b.isLt
  exact encR_announces (by omega) (by omega) (by omega) (by omega) (by omega)

theorem mulh (d : Reg) (a : Reg) (b : Reg) : Statement (.mulh d a b) := fun _ => by
  have h_d := d.isLt
  have h_a := a.isLt
  have h_b := b.isLt
  exact encR_announces (by omega) (by omega) (by omega) (by omega) (by omega)

theorem mulhu (d : Reg) (a : Reg) (b : Reg) : Statement (.mulhu d a b) := fun _ => by
  have h_d := d.isLt
  have h_a := a.isLt
  have h_b := b.isLt
  exact encR_announces (by omega) (by omega) (by omega) (by omega) (by omega)

theorem div (d : Reg) (a : Reg) (b : Reg) : Statement (.div d a b) := fun _ => by
  have h_d := d.isLt
  have h_a := a.isLt
  have h_b := b.isLt
  exact encR_announces (by omega) (by omega) (by omega) (by omega) (by omega)

theorem divu (d : Reg) (a : Reg) (b : Reg) : Statement (.divu d a b) := fun _ => by
  have h_d := d.isLt
  have h_a := a.isLt
  have h_b := b.isLt
  exact encR_announces (by omega) (by omega) (by omega) (by omega) (by omega)

theorem rem (d : Reg) (a : Reg) (b : Reg) : Statement (.rem d a b) := fun _ => by
  have h_d := d.isLt
  have h_a := a.isLt
  have h_b := b.isLt
  exact encR_announces (by omega) (by omega) (by omega) (by omega) (by omega)

theorem remu (d : Reg) (a : Reg) (b : Reg) : Statement (.remu d a b) := fun _ => by
  have h_d := d.isLt
  have h_a := a.isLt
  have h_b := b.isLt
  exact encR_announces (by omega) (by omega) (by omega) (by omega) (by omega)

theorem min (d : Reg) (a : Reg) (b : Reg) : Statement (.min d a b) := fun _ => by
  have h_d := d.isLt
  have h_a := a.isLt
  have h_b := b.isLt
  exact encR_announces (by omega) (by omega) (by omega) (by omega) (by omega)

theorem max (d : Reg) (a : Reg) (b : Reg) : Statement (.max d a b) := fun _ => by
  have h_d := d.isLt
  have h_a := a.isLt
  have h_b := b.isLt
  exact encR_announces (by omega) (by omega) (by omega) (by omega) (by omega)

theorem minu (d : Reg) (a : Reg) (b : Reg) : Statement (.minu d a b) := fun _ => by
  have h_d := d.isLt
  have h_a := a.isLt
  have h_b := b.isLt
  exact encR_announces (by omega) (by omega) (by omega) (by omega) (by omega)

theorem maxu (d : Reg) (a : Reg) (b : Reg) : Statement (.maxu d a b) := fun _ => by
  have h_d := d.isLt
  have h_a := a.isLt
  have h_b := b.isLt
  exact encR_announces (by omega) (by omega) (by omega) (by omega) (by omega)

theorem addw (d : Reg) (a : Reg) (b : Reg) : Statement (.addw d a b) := fun _ => by
  have h_d := d.isLt
  have h_a := a.isLt
  have h_b := b.isLt
  exact encR_announces (by omega) (by omega) (by omega) (by omega) (by omega)

theorem subw (d : Reg) (a : Reg) (b : Reg) : Statement (.subw d a b) := fun _ => by
  have h_d := d.isLt
  have h_a := a.isLt
  have h_b := b.isLt
  exact encR_announces (by omega) (by omega) (by omega) (by omega) (by omega)

theorem clz (d : Reg) (a : Reg) : Statement (.clz d a) := fun _ => by
  have h_d := d.isLt
  have h_a := a.isLt
  exact encR_announces (by omega) (by omega) (by omega) (by omega) (by omega)

theorem ctz (d : Reg) (a : Reg) : Statement (.ctz d a) := fun _ => by
  have h_d := d.isLt
  have h_a := a.isLt
  exact encR_announces (by omega) (by omega) (by omega) (by omega) (by omega)

theorem cpop (d : Reg) (a : Reg) : Statement (.cpop d a) := fun _ => by
  have h_d := d.isLt
  have h_a := a.isLt
  exact encR_announces (by omega) (by omega) (by omega) (by omega) (by omega)

theorem rol (d : Reg) (a : Reg) (b : Reg) : Statement (.rol d a b) := fun _ => by
  have h_d := d.isLt
  have h_a := a.isLt
  have h_b := b.isLt
  exact encR_announces (by omega) (by omega) (by omega) (by omega) (by omega)

theorem ror (d : Reg) (a : Reg) (b : Reg) : Statement (.ror d a b) := fun _ => by
  have h_d := d.isLt
  have h_a := a.isLt
  have h_b := b.isLt
  exact encR_announces (by omega) (by omega) (by omega) (by omega) (by omega)

theorem addi (d : Reg) (a : Reg) (imm : BitVec 12) : Statement (.addi d a imm) := fun _ => by
  have h_d := d.isLt
  have h_a := a.isLt
  have h_imm := imm.isLt
  exact encI_announces (by omega) (by omega) (by omega) (by omega) (by omega)

theorem andi (d : Reg) (a : Reg) (imm : BitVec 12) : Statement (.andi d a imm) := fun _ => by
  have h_d := d.isLt
  have h_a := a.isLt
  have h_imm := imm.isLt
  exact encI_announces (by omega) (by omega) (by omega) (by omega) (by omega)

theorem ori (d : Reg) (a : Reg) (imm : BitVec 12) : Statement (.ori d a imm) := fun _ => by
  have h_d := d.isLt
  have h_a := a.isLt
  have h_imm := imm.isLt
  exact encI_announces (by omega) (by omega) (by omega) (by omega) (by omega)

theorem xori (d : Reg) (a : Reg) (imm : BitVec 12) : Statement (.xori d a imm) := fun _ => by
  have h_d := d.isLt
  have h_a := a.isLt
  have h_imm := imm.isLt
  exact encI_announces (by omega) (by omega) (by omega) (by omega) (by omega)

theorem slti (d : Reg) (a : Reg) (imm : BitVec 12) : Statement (.slti d a imm) := fun _ => by
  have h_d := d.isLt
  have h_a := a.isLt
  have h_imm := imm.isLt
  exact encI_announces (by omega) (by omega) (by omega) (by omega) (by omega)

theorem sltiu (d : Reg) (a : Reg) (imm : BitVec 12) : Statement (.sltiu d a imm) := fun _ => by
  have h_d := d.isLt
  have h_a := a.isLt
  have h_imm := imm.isLt
  exact encI_announces (by omega) (by omega) (by omega) (by omega) (by omega)

theorem slli (d : Reg) (a : Reg) (sh : Fin 64) : Statement (.slli d a sh) := fun _ => by
  have h_d := d.isLt
  have h_a := a.isLt
  have h_sh := sh.isLt
  exact encI_announces (by omega) (by omega) (by omega) (by omega) (by omega)

theorem srli (d : Reg) (a : Reg) (sh : Fin 64) : Statement (.srli d a sh) := fun _ => by
  have h_d := d.isLt
  have h_a := a.isLt
  have h_sh := sh.isLt
  exact encI_announces (by omega) (by omega) (by omega) (by omega) (by omega)

theorem srai (d : Reg) (a : Reg) (sh : Fin 64) : Statement (.srai d a sh) := fun _ => by
  have h_d := d.isLt
  have h_a := a.isLt
  have h_sh := sh.isLt
  exact encI_announces (by omega) (by omega) (by omega) (by omega) (by omega)

theorem rori (d : Reg) (a : Reg) (sh : Fin 64) : Statement (.rori d a sh) := fun _ => by
  have h_d := d.isLt
  have h_a := a.isLt
  have h_sh := sh.isLt
  exact encI_announces (by omega) (by omega) (by omega) (by omega) (by omega)

theorem addiw (d : Reg) (a : Reg) (imm : BitVec 12) : Statement (.addiw d a imm) := fun _ => by
  have h_d := d.isLt
  have h_a := a.isLt
  have h_imm := imm.isLt
  exact encI_announces (by omega) (by omega) (by omega) (by omega) (by omega)

theorem liu (d : Reg) (imm : BitVec 20) : Statement (.liu d imm) := fun _ => by
  have h_d := d.isLt
  have h_imm := imm.isLt
  exact encU_announces (by omega) (by omega) (by omega)

theorem pcadd (d : Reg) (imm : BitVec 20) : Statement (.pcadd d imm) := fun _ => by
  have h_d := d.isLt
  have h_imm := imm.isLt
  exact encU_announces (by omega) (by omega) (by omega)

theorem beq (a : Reg) (b : Reg) (off : BitVec 12) : Statement (.beq a b off) := fun _ => by
  have h_a := a.isLt
  have h_b := b.isLt
  have h_off := off.isLt
  exact encS_announces (by omega) (by omega) (by omega) (by omega) (by omega)

theorem bne (a : Reg) (b : Reg) (off : BitVec 12) : Statement (.bne a b off) := fun _ => by
  have h_a := a.isLt
  have h_b := b.isLt
  have h_off := off.isLt
  exact encS_announces (by omega) (by omega) (by omega) (by omega) (by omega)

theorem blt (a : Reg) (b : Reg) (off : BitVec 12) : Statement (.blt a b off) := fun _ => by
  have h_a := a.isLt
  have h_b := b.isLt
  have h_off := off.isLt
  exact encS_announces (by omega) (by omega) (by omega) (by omega) (by omega)

theorem bge (a : Reg) (b : Reg) (off : BitVec 12) : Statement (.bge a b off) := fun _ => by
  have h_a := a.isLt
  have h_b := b.isLt
  have h_off := off.isLt
  exact encS_announces (by omega) (by omega) (by omega) (by omega) (by omega)

theorem bltu (a : Reg) (b : Reg) (off : BitVec 12) : Statement (.bltu a b off) := fun _ => by
  have h_a := a.isLt
  have h_b := b.isLt
  have h_off := off.isLt
  exact encS_announces (by omega) (by omega) (by omega) (by omega) (by omega)

theorem bgeu (a : Reg) (b : Reg) (off : BitVec 12) : Statement (.bgeu a b off) := fun _ => by
  have h_a := a.isLt
  have h_b := b.isLt
  have h_off := off.isLt
  exact encS_announces (by omega) (by omega) (by omega) (by omega) (by omega)

theorem jal (d : Reg) (off : BitVec 20) : Statement (.jal d off) := fun _ => by
  have h_d := d.isLt
  have h_off := off.isLt
  exact encU_announces (by omega) (by omega) (by omega)

theorem jalr (d : Reg) (a : Reg) (imm : BitVec 12) : Statement (.jalr d a imm) := fun _ => by
  have h_d := d.isLt
  have h_a := a.isLt
  have h_imm := imm.isLt
  exact encI_announces (by omega) (by omega) (by omega) (by omega) (by omega)

theorem faddS (d : Reg) (a : Reg) (b : Reg) : Statement (.faddS d a b) := fun _ => by
  have h_d := d.isLt
  have h_a := a.isLt
  have h_b := b.isLt
  exact encR_announces (by omega) (by omega) (by omega) (by omega) (by omega)

theorem fsubS (d : Reg) (a : Reg) (b : Reg) : Statement (.fsubS d a b) := fun _ => by
  have h_d := d.isLt
  have h_a := a.isLt
  have h_b := b.isLt
  exact encR_announces (by omega) (by omega) (by omega) (by omega) (by omega)

theorem fmulS (d : Reg) (a : Reg) (b : Reg) : Statement (.fmulS d a b) := fun _ => by
  have h_d := d.isLt
  have h_a := a.isLt
  have h_b := b.isLt
  exact encR_announces (by omega) (by omega) (by omega) (by omega) (by omega)

theorem fdivS (d : Reg) (a : Reg) (b : Reg) : Statement (.fdivS d a b) := fun _ => by
  have h_d := d.isLt
  have h_a := a.isLt
  have h_b := b.isLt
  exact encR_announces (by omega) (by omega) (by omega) (by omega) (by omega)

theorem fsqrtS (d : Reg) (a : Reg) : Statement (.fsqrtS d a) := fun _ => by
  have h_d := d.isLt
  have h_a := a.isLt
  exact encR_announces (by omega) (by omega) (by omega) (by omega) (by omega)

theorem fminS (d : Reg) (a : Reg) (b : Reg) : Statement (.fminS d a b) := fun _ => by
  have h_d := d.isLt
  have h_a := a.isLt
  have h_b := b.isLt
  exact encR_announces (by omega) (by omega) (by omega) (by omega) (by omega)

theorem fmaxS (d : Reg) (a : Reg) (b : Reg) : Statement (.fmaxS d a b) := fun _ => by
  have h_d := d.isLt
  have h_a := a.isLt
  have h_b := b.isLt
  exact encR_announces (by omega) (by omega) (by omega) (by omega) (by omega)

theorem feqS (d : Reg) (a : Reg) (b : Reg) : Statement (.feqS d a b) := fun _ => by
  have h_d := d.isLt
  have h_a := a.isLt
  have h_b := b.isLt
  exact encR_announces (by omega) (by omega) (by omega) (by omega) (by omega)

theorem fltS (d : Reg) (a : Reg) (b : Reg) : Statement (.fltS d a b) := fun _ => by
  have h_d := d.isLt
  have h_a := a.isLt
  have h_b := b.isLt
  exact encR_announces (by omega) (by omega) (by omega) (by omega) (by omega)

theorem fcvtSL (d : Reg) (a : Reg) : Statement (.fcvtSL d a) := fun _ => by
  have h_d := d.isLt
  have h_a := a.isLt
  exact encR_announces (by omega) (by omega) (by omega) (by omega) (by omega)

theorem fcvtLS (d : Reg) (a : Reg) : Statement (.fcvtLS d a) := fun _ => by
  have h_d := d.isLt
  have h_a := a.isLt
  exact encR_announces (by omega) (by omega) (by omega) (by omega) (by omega)

theorem fcvtSD (d : Reg) (a : Reg) : Statement (.fcvtSD d a) := fun _ => by
  have h_d := d.isLt
  have h_a := a.isLt
  exact encR_announces (by omega) (by omega) (by omega) (by omega) (by omega)

theorem faddD (d : Reg) (a : Reg) (b : Reg) : Statement (.faddD d a b) := fun _ => by
  have h_d := d.isLt
  have h_a := a.isLt
  have h_b := b.isLt
  exact encR_announces (by omega) (by omega) (by omega) (by omega) (by omega)

theorem fsubD (d : Reg) (a : Reg) (b : Reg) : Statement (.fsubD d a b) := fun _ => by
  have h_d := d.isLt
  have h_a := a.isLt
  have h_b := b.isLt
  exact encR_announces (by omega) (by omega) (by omega) (by omega) (by omega)

theorem fmulD (d : Reg) (a : Reg) (b : Reg) : Statement (.fmulD d a b) := fun _ => by
  have h_d := d.isLt
  have h_a := a.isLt
  have h_b := b.isLt
  exact encR_announces (by omega) (by omega) (by omega) (by omega) (by omega)

theorem fdivD (d : Reg) (a : Reg) (b : Reg) : Statement (.fdivD d a b) := fun _ => by
  have h_d := d.isLt
  have h_a := a.isLt
  have h_b := b.isLt
  exact encR_announces (by omega) (by omega) (by omega) (by omega) (by omega)

theorem fsqrtD (d : Reg) (a : Reg) : Statement (.fsqrtD d a) := fun _ => by
  have h_d := d.isLt
  have h_a := a.isLt
  exact encR_announces (by omega) (by omega) (by omega) (by omega) (by omega)

theorem fcvtDS (d : Reg) (a : Reg) : Statement (.fcvtDS d a) := fun _ => by
  have h_d := d.isLt
  have h_a := a.isLt
  exact encR_announces (by omega) (by omega) (by omega) (by omega) (by omega)

theorem fcvtDL (d : Reg) (a : Reg) : Statement (.fcvtDL d a) := fun _ => by
  have h_d := d.isLt
  have h_a := a.isLt
  exact encR_announces (by omega) (by omega) (by omega) (by omega) (by omega)

theorem fcvtLD (d : Reg) (a : Reg) : Statement (.fcvtLD d a) := fun _ => by
  have h_d := d.isLt
  have h_a := a.isLt
  exact encR_announces (by omega) (by omega) (by omega) (by omega) (by omega)

theorem hAddi (d : Reg) (imm : BitVec 6) : Statement (.hAddi d imm) := fun _ => by
  have h_d := d.isLt
  have h_imm := imm.isLt
  exact encH_announces (by omega) (by omega) (by omega) (by omega)

theorem hLi (d : Reg) (imm : BitVec 6) : Statement (.hLi d imm) := fun _ => by
  have h_d := d.isLt
  have h_imm := imm.isLt
  exact encH_announces (by omega) (by omega) (by omega) (by omega)

theorem hSlli (d : Reg) (sh : Fin 64) : Statement (.hSlli d sh) := fun _ => by
  have h_d := d.isLt
  have h_sh := sh.isLt
  exact encH_announces (by omega) (by omega) (by omega) (by omega)

theorem hLiu (d : Reg) (imm : BitVec 6) : Statement (.hLiu d imm) := fun _ => by
  have h_d := d.isLt
  have h_imm := imm.isLt
  exact encH_announces (by omega) (by omega) (by omega) (by omega)

theorem hMov (d : Reg) (a : Reg) : Statement (.hMov d a) := fun _ => by
  have h_d := d.isLt
  have h_a := a.isLt
  exact encH_announces (by omega) (by omega) (by omega) (by omega)

theorem hNop : Statement .hNop := fun _ => by
  exact encH_announces (by omega) (by omega) (by omega) (by omega)

theorem hAdd (d : Reg) (a : Reg) : Statement (.hAdd d a) := fun _ => by
  have h_d := d.isLt
  have h_a := a.isLt
  exact encH_announces (by omega) (by omega) (by omega) (by omega)

theorem hSub (d : Reg) (a : Reg) : Statement (.hSub d a) := fun _ => by
  have h_d := d.isLt
  have h_a := a.isLt
  exact encH_announces (by omega) (by omega) (by omega) (by omega)

theorem hBz (a : Fin 8) (off : BitVec 8) : Statement (.hBz a off) := fun _ => by
  have h_a := a.isLt
  have h_off := off.isLt
  exact encH_announces (by omega) (by omega) (by omega) (by omega)

theorem hBnz (a : Fin 8) (off : BitVec 8) : Statement (.hBnz a off) := fun _ => by
  have h_a := a.isLt
  have h_off := off.isLt
  exact encH_announces (by omega) (by omega) (by omega) (by omega)

theorem hJmp (off : BitVec 11) : Statement (.hJmp off) := fun _ => by
  have h_off := off.isLt
  exact encH_announces (by omega) (by omega) (by omega) (by omega)

theorem hJmpr (a : Reg) : Statement (.hJmpr a) := fun _ => by
  have h_a := a.isLt
  exact encH_announces (by omega) (by omega) (by omega) (by omega)

theorem trapEntry (t : TrapInfo) : Statement (.trapEntry t) := nofun

theorem queueStall : Statement .queueStall := nofun

theorem waitEnd : Statement .waitEnd := nofun

theorem microOperationStart (die : Nat) (core : Nat) (bed : Nat) (cost : Nat) : Statement (.microOperationStart die core bed cost) := nofun

theorem microOperationEnd (die : Nat) (core : Nat) (bed : Nat) : Statement (.microOperationEnd die core bed) := nofun

theorem loadRowDelivery : Statement .loadRowDelivery := nofun

theorem storeRowDrain : Statement .storeRowDrain := nofun

theorem copyProgress (c : Fin 8) (n : Nat) : Statement (.copyProgress c n) := nofun

theorem copyFaultHeld (c : Fin 8) : Statement (.copyFaultHeld c) := nofun

theorem cpyXGroupWrite (c : Fin 8) : Statement (.cpyXGroupWrite c) := nofun

theorem grammarResult : Statement .grammarResult := nofun

theorem accessionAppend (p : Fin 16) : Statement (.accessionAppend p) := nofun

theorem batchDurable (p : Fin 16) : Statement (.batchDurable p) := nofun

theorem sealCompletion (v : Nat) (corrupt : Bool) : Statement (.sealCompletion v corrupt) := nofun

theorem dropCompletion (v : Nat) : Statement (.dropCompletion v) := nofun

theorem attestationBlock : Statement .attestationBlock := nofun

theorem preemption (gang : Nat) : Statement (.preemption gang) := nofun

theorem contextRestore (gang : Nat) : Statement (.contextRestore gang) := nofun

theorem migration : Statement .migration := nofun

theorem quantumExpiry (gang : Nat) : Statement (.quantumExpiry gang) := nofun

theorem waitConditionEvaluation (queue : Nat) : Statement (.waitConditionEvaluation queue) := nofun

theorem packetTake (queue : Nat) : Statement (.packetTake queue) := nofun

theorem gangSowing (gang : Nat) : Statement (.gangSowing gang) := nofun

theorem launchCompletion (gang : Nat) : Statement (.launchCompletion gang) := nofun

theorem wqtailWrite (by_ : Agent) (queue : Nat) (v : W64) : Statement (.wqtailWrite by_ queue v) := nofun

theorem wqbaseWrite (by_ : Agent) (queue : Nat) (v : W64) : Statement (.wqbaseWrite by_ queue v) := nofun

theorem wqctlWrite (by_ : Agent) (queue : Nat) (v : W64) : Statement (.wqctlWrite by_ queue v) := nofun

theorem wqstatWrite (by_ : Agent) (queue : Nat) (v : W64) : Statement (.wqstatWrite by_ queue v) := nofun

theorem ldrainWrite (by_ : Agent) (p : Fin 16) (v : W64) : Statement (.ldrainWrite by_ p v) := nofun

theorem lsignWrite (by_ : Agent) (p : Fin 16) (v : W64) : Statement (.lsignWrite by_ p v) := nofun

theorem signedStatement (p : Fin 16) : Statement (.signedStatement p) := nofun

theorem registerWrite (by_ : Agent) (addr : Nat) (v : W64) : Statement (.registerWrite by_ addr v) := nofun

theorem loadCodeObject : Statement .loadCodeObject := nofun

theorem unload : Statement .unload := nofun

theorem attestDevice : Statement .attestDevice := nofun

theorem setPackageNumber : Statement .setPackageNumber := nofun

theorem releaseFencedFrame : Statement .releaseFencedFrame := nofun

theorem setTripPoint : Statement .setTripPoint := nofun

theorem setQuantum : Statement .setQuantum := nofun

theorem mailboxCompletion : Statement .mailboxCompletion := nofun

theorem reset (b : BootInfo) : Statement (.reset b) := nofun

theorem thermalRefresh (die : Nat) (core : Nat) (reading : BitVec 16) : Statement (.thermalRefresh die core reading) := nofun

theorem powerLimitThrottle (excess : Bool) : Statement (.powerLimitThrottle excess) := nofun

theorem scrub (addr : Nat) (double : Bool) : Statement (.scrub addr double) := nofun

theorem flitRetry (die : Nat) (retrainFails : Bool) : Statement (.flitRetry die retrainFails) := nofun

theorem cxlLinkDown (port : Nat) : Statement (.cxlLinkDown port) := nofun

theorem fabricReadTimeout (package : Nat) : Statement (.fabricReadTimeout package) := nofun

theorem fabricRequest (write : Bool) (addr : Nat) (bytes : List Byte) : Statement (.fabricRequest write addr bytes) := nofun

theorem hostRead (addr : Nat) (size : Nat) : Statement (.hostRead addr size) := nofun

theorem hostWrite (addr : Nat) (bytes : List Byte) : Statement (.hostWrite addr bytes) := nofun

theorem migrationRequest (hart : Nat) (reason : Fin 4) : Statement (.migrationRequest hart reason) := nofun

end WordLength

end Sys2Proof.Laws
end

