-- ==== Sys2Proof/Tests/Slice0.lean ====
section
/-! SUPPORT. Tests: decoding of words assembled from the encoding tables, refusals of ill-formed terms, single steps with results
from the spec's rules, and for every statement a state and operands that meet its hypotheses. -/

namespace Sys2Proof.Tests

set_option Elab.async false

open Sys2Proof Sys2Proof.Machine Sys2Proof.Claims

/-! Small states. -/

def onFront (g : Front → Front) (s : State) : State := { s with cpu := { s.cpu with front := g s.cpu.front } }

def onBack (g : Back → Back) (s : State) : State := { s with cpu := { s.cpu with back := g s.cpu.back } }

def onId (g : Ident → Ident) (s : State) : State := { s with cpu := { s.cpu with id := g s.cpu.id } }

def onPkg (g : Pkg → Pkg) (s : State) : State := { s with pkg := g s.pkg }

def onMgmt (g : Mgmt → Mgmt) (s : State) : State := onPkg (fun p => { p with mgmt := g p.mgmt }) s

def onGang (g : Gang → Gang) (s : State) : State := onPkg (fun p => { p with gangs := p.gangs.map g }) s

/-- The x registers of the list hold its values. -/
def xs (l : List (Nat × W64)) (s : State) : State :=
  onFront (fun f => { f with x := l.foldl (fun v e => vput v e.1 e.2) f.x }) s

/-- Bytes at rising addresses from `a`. -/
def cells (a : Nat) (l : List Byte) : List Host.Cell :=
  match l with
  | [] => []
  | b :: t => (a, b) :: cells (a + 1) t

/-- What memory lists at the `k`-th of bytes laid out behind everything else. -/
theorem mfind_cells (m : SMap Byte) (a k : Nat) (l : List Byte) (h : ∀ e ∈ m, e.1 < a) :
    mfind (m ++ cells a l) (a + k) = l[k]? := by
  induction m with
  | cons e t ih =>
    have he := h e (by simp)
    have hn : e.1 ≠ a + k := by omega
    simp only [List.cons_append, mfind, if_neg hn]
    exact ih fun x hx => h x (by simp [hx])
  | nil =>
    clear h
    induction l generalizing a k with
    | nil => simp [cells, mfind]
    | cons b t ih =>
      cases k with
      | zero => simp [cells, mfind]
      | succ n => simpa [cells, mfind, Nat.add_assoc, Nat.add_comm 1 n] using ih (a + 1) n

/-- The bytes of `v` at address `a`. -/
def poke (a n v : Nat) (s : State) : State := { s with mem := writeCells s.mem a (leBytes n v) }

/-- One hart of a sown launch in a whole share, with a handler at 0x800, the first 64 GiB mapped to themselves by a cached leaf. -/
def demo : State :=
  onFront (fun f => { f with tvec := 0x800 })
    (onPkg (fun p => { p with tlb := [⟨0, 0, 68719476736, 0x73⟩] }) State.reset.launched)

/-- As `demo`, privileged. -/
def demoPriv : State := onId (fun i => { i with priv := true }) demo

/-- The hart runs in a handler. -/
def demoActive : State := onFront (fun f => { f with estat := 0x19, epc := 0x1234, evstart := 9 }) demo

/-- A tile of `rc` rows and `vl` columns. -/
def tile (rc vl : Nat) (s : State) : State := onFront (fun f => { f with rc := rc, vl := vl }) s

/-- Rows of elements at the head of queue `q`, under tag `t`. -/
def rows (q : Nat) (t : Tag) (l : List (List Nat)) (s : State) : State :=
  onFront (fun f => if q < 4 then { f with qtag := vput f.qtag q t } else { f with sqtag := vput f.sqtag (q - 4) t })
    (onBack (fun b => b.setQueue q ⟨l.map (fun e => ⟨e, e.length, 0, 0⟩), [], 0, [], l.length⟩) s)

/-- A value, and no fault. -/
def isOk {ε α : Type} (e : Except ε α) : Bool :=
  match e with
  | .ok _ => true
  | .error _ => false

/-- The state after an instruction. -/
def after (i : Instr) (s : State) : State :=
  match exec i s with
  | .next t => t
  | _ => s

theorem exists_ok {ε α : Type} {e : Except ε α} (h : isOk e = true) : ∃ a, e = .ok a := by
  cases e with
  | ok a => exact ⟨a, rfl⟩
  | error x => cases h

/-- The words decode to the instructions beside them. -/
noncomputable def decodesTo (l : List (Nat × Instr)) : Bool := l.all (fun e => decide (decodeBits e.1 = .ok e.2))

/-! Terms that are not well-formed, one for each kind of check. -/

theorem test_refuses_illformed :
    [Instr.amoadd ⟨1, 2, 3, 5, false, true, true⟩, .amoadd ⟨1, 2, 3, 1, false, false, true⟩, .lda ⟨1, 2, 3, 0, false, false, true⟩,
      .lda ⟨1, 2, 0, 0, true, false, true⟩, .stl ⟨1, 2, 3, 0, false, false, true⟩, .srd 1 0x008, .swr 1 2 0x034, .srset 1 2 0x7FF,
      .srclr 1 2 0x012, .fence 5 1, .fence 0 0, .shapeM 1 2 3 27, .vtag 28 1, .qcfg 6 1, .getsh 1 15 0, .getsh 1 12 28, .getsh 1 13 4,
      .getsh 1 14 2, .getsh 1 0 1, .vldU ⟨0, 1, 2, 0, 0⟩, .vldX ⟨0, 1, 2, 0, 0⟩, .vldSeg ⟨0, 1, 2, 0, 0⟩, .vldC ⟨0, 2, 2, 0, 0⟩,
      .vldC ⟨0, 1, 2, 1, 0⟩, .vtree ⟨0, 1, 2, 1, 0⟩, .vstU ⟨0, 0, 2, 0, 2⟩, .vstS ⟨0, 1, 2, 0, 3⟩, .vstX ⟨0, 0, 2, 0, 1⟩,
      .vstSeg ⟨0, 1, 2, 0, 0⟩, .vstC ⟨0, 1, 2, 0, 0⟩, .cpyStat 1 1 5, .cpyStat 1 0 7, .hAddi 0 1, .hLi 0 1, .hSlli 0 1, .hLiu 0 1,
      .hLiu 1 0, .hMov 0 1, .hJmpr 0, .mrdz 28 0 1, .mspill 0 2 1, .mfill 3 0 1, .mldq ⟨0, 1, 2, 3, 0, 1, 1, 0⟩,
      .mldq ⟨0, 1, 2, 3, 257, 1, 1, 0⟩, .mldq ⟨0, 1, 2, 3, 1, 33, 1, 0⟩, .mldq ⟨0, 1, 2, 3, 1, 1, 0, 0⟩, .gstat 1 2 9, .acchead 1 11].all
      (fun i => !wellFormed i) = true := by decide

/-- Fields of the V format: destinations 28 and 29, mods an instruction does not take, .MZ without a predicate, chain bits on fields
that name no vector register, a flag mask that is the destination. -/
theorem test_refuses_illformed_vector :
    [Instr.vadd ⟨28, 1, 2, 0, false, false, 0⟩, .vadd ⟨29, 1, 2, 0, false, false, 0⟩, .vadd ⟨3, 1, 2, 0, false, false, 3⟩,
      .vsqrt ⟨3, 1, 2, 0, false, false, 0⟩, .vsqrt ⟨3, 1, 0, 0, false, true, 0⟩, .vaddX ⟨3, 1, 2, 0, false, true, 0⟩,
      .vand ⟨3, 1, 2, 0, false, false, 1⟩, .vmerge ⟨3, 1, 2, 0, false, false, 0⟩, .vmergeX ⟨3, 1, 2, 1, false, true, 0⟩,
      .vmv ⟨3, 1, 0, 1, false, false, 2⟩, .vmacc ⟨30, 1, 2, 0, false, false, 0⟩, .vseq ⟨16, 1, 2, 0, false, false, 0⟩,
      .vseq ⟨9, 1, 2, 1, false, false, 2⟩, .vclass ⟨3, 1, 8, 0, false, false, 0⟩, .vredand ⟨3, 1, 2, 0, false, false, 1⟩,
      .vslideup ⟨3, 1, 2, 1, false, false, 0⟩, .vcompr ⟨3, 1, 16, 0, false, false, 0⟩, .mand ⟨16, 1, 2, 0, false, false, 0⟩,
      .mseti ⟨1, 2, 0, 0, false, false, 0⟩, .mpopc ⟨3, 1, 0, 0, false, false, 1⟩, .vmvx ⟨3, 1, 2, 1, false, false, 0⟩,
      .vmvs ⟨30, 1, 2, 0, false, false, 0⟩, .qstat ⟨3, 6, 0, 0, false, false, 0⟩, .qdrop ⟨0, 4, 2, 0, false, false, 0⟩,
      .catins ⟨3, 1, 2, 0, false, false, 1⟩, .catdrn ⟨30, 0, 2, 0, false, false, 0⟩, .catcnt ⟨3, 5, 0, 0, false, false, 0⟩,
      .catcfg ⟨3, 1, 1, 0, false, false, 0⟩, .vlbnd ⟨3, 1, 2, 0, false, false, 1⟩, .vcvtH ⟨3, 1, 2, 0, false, true, 0⟩,
      .vredsc ⟨29, 1, 2, 0, false, false, 0⟩, .vid ⟨3, 1, 2, 0, false, false, 0⟩, .vsplat ⟨3, 0, 2, 0, false, false, 1⟩].all
      (fun i => !wellFormed i) = true := by decide

/-! Words from the encoding tables (spec/opcode_table.json; the 64-bit ones from R47, R168, R178, R306, R327 and R342). -/

theorem test_decode_alu : decodesTo [
  (0b0000000000_10011_01110_01001_0000010, .add 9 14 19),
  (0b0000000001_10011_01110_01001_0000010, .sub 9 14 19),
  (0b0000000010_10011_01110_01001_0000010, .and 9 14 19),
  (0b0000000011_10011_01110_01001_0000010, .or 9 14 19),
  (0b0000000100_10011_01110_01001_0000010, .xor 9 14 19),
  (0b0000000101_10011_01110_01001_0000010, .sll 9 14 19),
  (0b0000000110_10011_01110_01001_0000010, .srl 9 14 19),
  (0b0000000111_10011_01110_01001_0000010, .sra 9 14 19),
  (0b0000001000_10011_01110_01001_0000010, .slt 9 14 19),
  (0b0000001001_10011_01110_01001_0000010, .sltu 9 14 19),
  (0b0000001010_10011_01110_01001_0000010, .mul 9 14 19),
  (0b0000001011_10011_01110_01001_0000010, .mulh 9 14 19),
  (0b0000001100_10011_01110_01001_0000010, .mulhu 9 14 19),
  (0b0000001101_10011_01110_01001_0000010, .div 9 14 19),
  (0b0000001110_10011_01110_01001_0000010, .divu 9 14 19),
  (0b0000001111_10011_01110_01001_0000010, .rem 9 14 19),
  (0b0000010000_10011_01110_01001_0000010, .remu 9 14 19),
  (0b0000010001_10011_01110_01001_0000010, .min 9 14 19),
  (0b0000010010_10011_01110_01001_0000010, .max 9 14 19),
  (0b0000010011_10011_01110_01001_0000010, .minu 9 14 19),
  (0b0000010100_10011_01110_01001_0000010, .maxu 9 14 19),
  (0b0000010101_10011_01110_01001_0000010, .addw 9 14 19),
  (0b0000010110_10011_01110_01001_0000010, .subw 9 14 19),
  (0b000001011100000_01110_01001_0000010, .clz 9 14),
  (0b000001100000000_01110_01001_0000010, .ctz 9 14),
  (0b000001100100000_01110_01001_0000010, .cpop 9 14),
  (0b0000011010_10011_01110_01001_0000010, .rol 9 14 19),
  (0b0000011011_10011_01110_01001_0000010, .ror 9 14 19)] = true := by decide +kernel

theorem test_decode_alui : decodesTo [
  (0b010101010101_000_01110_01001_0000110, .addi 9 14 1365),
  (0b010101010101_001_01110_01001_0000110, .andi 9 14 1365),
  (0b010101010101_010_01110_01001_0000110, .ori 9 14 1365),
  (0b010101010101_011_01110_01001_0000110, .xori 9 14 1365),
  (0b010101010101_100_01110_01001_0000110, .slti 9 14 1365),
  (0b010101010101_101_01110_01001_0000110, .sltiu 9 14 1365),
  (0b000000_100101_110_01110_01001_0000110, .slli 9 14 37),
  (0b010000_100101_110_01110_01001_0000110, .srli 9 14 37),
  (0b100000_100101_110_01110_01001_0000110, .srai 9 14 37),
  (0b110000_100101_110_01110_01001_0000110, .rori 9 14 37),
  (0b010101010101_111_01110_01001_0000110, .addiw 9 14 1365)] = true := by decide +kernel

theorem test_decode_ld : decodesTo [
  (0b010101010101_000_01110_01001_0010010, .ldb 9 14 1365),
  (0b010101010101_001_01110_01001_0010010, .ldh 9 14 1365),
  (0b010101010101_010_01110_01001_0010010, .ldw 9 14 1365),
  (0b010101010101_011_01110_01001_0010010, .ldd 9 14 1365),
  (0b010101010101_100_01110_01001_0010010, .ldbu 9 14 1365),
  (0b010101010101_101_01110_01001_0010010, .ldhu 9 14 1365),
  (0b010101010101_110_01110_01001_0010010, .ldwu 9 14 1365)] = true := by decide +kernel

theorem test_decode_st : decodesTo [
  (0b1011001_10011_000_01110_10011_0010110, .stb 19 14 2867),
  (0b1011001_10011_001_01110_10011_0010110, .sth 19 14 2867),
  (0b1011001_10011_010_01110_10011_0010110, .stw 19 14 2867),
  (0b1011001_10011_011_01110_10011_0010110, .std 19 14 2867)] = true := by decide +kernel

theorem test_decode_br : decodesTo [
  (0b1010101_10011_000_01110_10011_0011010, .beq 14 19 2739),
  (0b1010101_10011_001_01110_10011_0011010, .bne 14 19 2739),
  (0b1010101_10011_010_01110_10011_0011010, .blt 14 19 2739),
  (0b1010101_10011_011_01110_10011_0011010, .bge 14 19 2739),
  (0b1010101_10011_100_01110_10011_0011010, .bltu 14 19 2739),
  (0b1010101_10011_101_01110_10011_0011010, .bgeu 14 19 2739)] = true := by decide +kernel

theorem test_decode_sfp : decodesTo [
  (0b0000000000_10011_01110_01001_0100110, .faddS 9 14 19),
  (0b0000000001_10011_01110_01001_0100110, .fsubS 9 14 19),
  (0b0000000010_10011_01110_01001_0100110, .fmulS 9 14 19),
  (0b0000000011_10011_01110_01001_0100110, .fdivS 9 14 19),
  (0b000000010000000_01110_01001_0100110, .fsqrtS 9 14),
  (0b0000000101_10011_01110_01001_0100110, .fminS 9 14 19),
  (0b0000000110_10011_01110_01001_0100110, .fmaxS 9 14 19),
  (0b0000000111_10011_01110_01001_0100110, .feqS 9 14 19),
  (0b0000001000_10011_01110_01001_0100110, .fltS 9 14 19),
  (0b000000100100000_01110_01001_0100110, .fcvtSL 9 14),
  (0b000000101000000_01110_01001_0100110, .fcvtLS 9 14),
  (0b000000101100000_01110_01001_0100110, .fcvtSD 9 14),
  (0b0000001100_10011_01110_01001_0100110, .faddD 9 14 19),
  (0b0000001101_10011_01110_01001_0100110, .fsubD 9 14 19),
  (0b0000001110_10011_01110_01001_0100110, .fmulD 9 14 19),
  (0b0000001111_10011_01110_01001_0100110, .fdivD 9 14 19),
  (0b000001000000000_01110_01001_0100110, .fsqrtD 9 14),
  (0b000001000100000_01110_01001_0100110, .fcvtDS 9 14),
  (0b000001001000000_01110_01001_0100110, .fcvtDL 9 14),
  (0b000001001100000_01110_01001_0100110, .fcvtLD 9 14)] = true := by decide +kernel

theorem test_decode_amo : decodesTo [
  (0b010_1_1_1_0000_10011_01110_01001_0101010, .amoswp ⟨9, 14, 19, 2, true, true, true⟩),
  (0b010_1_1_1_0001_10011_01110_01001_0101010, .amoadd ⟨9, 14, 19, 2, true, true, true⟩),
  (0b010_1_1_1_0010_10011_01110_01001_0101010, .amoand ⟨9, 14, 19, 2, true, true, true⟩),
  (0b010_1_1_1_0011_10011_01110_01001_0101010, .amoor ⟨9, 14, 19, 2, true, true, true⟩),
  (0b010_1_1_1_0100_10011_01110_01001_0101010, .amoxor ⟨9, 14, 19, 2, true, true, true⟩),
  (0b010_1_1_1_0101_10011_01110_01001_0101010, .amomin ⟨9, 14, 19, 2, true, true, true⟩),
  (0b010_1_1_1_0110_10011_01110_01001_0101010, .amomax ⟨9, 14, 19, 2, true, true, true⟩),
  (0b010_1_1_1_0111_10011_01110_01001_0101010, .amominu ⟨9, 14, 19, 2, true, true, true⟩),
  (0b010_1_1_1_1000_10011_01110_01001_0101010, .amomaxu ⟨9, 14, 19, 2, true, true, true⟩),
  (0b010_1_1_1_1001_10011_01110_01001_0101010, .amocas ⟨9, 14, 19, 2, true, true, true⟩),
  (0b010_00_1_101000000_01110_01001_0101010, .lda ⟨9, 14, 0, 2, false, false, true⟩),
  (0b010_00_1_1011_10011_01110_000000101010, .stl ⟨0, 14, 19, 2, false, false, true⟩)] = true := by decide +kernel

theorem test_decode_sys : decodesTo [
  (0b00000000000000000000000000101110, .ecall),
  (0b00000000010000000000000000101110, .ebreak),
  (0b00000000100000000000000000101110, .eret),
  (0b000001_0011_10001_00000_01001_0101110, .srd 9 49),
  (0b000001_0100_10001_01110_01001_0101110, .swr 9 14 49),
  (0b000001_0101_10001_01110_01001_0101110, .srset 9 14 49),
  (0b000001_0110_10001_01110_01001_0101110, .srclr 9 14 49),
  (0b000000011100_011_00_010_000000101110, .fence 2 3),
  (0b0000001000_10011_01110_000000101110, .icinvR 14 19),
  (0b0000001001_10011_01110_000000101110, .tlbinv 14 19),
  (0b000000101000000_01110_01001_0101110, .waite 9 14)] = true := by decide +kernel

theorem test_decode_sync : decodesTo [
  (0b000000000000000_01110_01001_0110010, .barArm 9 14),
  (0b00000000010000000000_01001_0110010, .barArv 9),
  (0b00000000100000000000_01001_0110010, .barWt 9),
  (0b00000000110000000000_01001_0110010, .barSync 9),
  (0b00000001000000000000_01001_0110010, .barDrop 9),
  (0b0000000101_10011_01110_01001_0110010, .fork 9 14 19),
  (0b00000001100000000000_01001_0110010, .join 9),
  (0b0000000111_10011_01110_01001_0110010, .waitc 9 14 19),
  (0b0000001000_10011_01110_01001_0110010, .launch 9 14 19),
  (0b0000001001_10011_01110_01001_0110010, .safept 9 14 19),
  (0b00000010100000000000_01001_0110010, .yield 9),
  (0b00000010110000000000000000110010, .halt)] = true := by decide +kernel

theorem test_decode_shape : decodesTo [
  (0b0_11110_0000_10011_01110_01001_0110110, .shape 9 14 19 30),
  (0b0111_10_0001_10011_01110_01001_0110110, .shapeM 9 14 19 30),
  (0b0_11110_0010_10011_01110_01001_0110110, .shapeG 9 14 19 30),
  (0b000000001100000_01110_00010_0110110, .vtag 2 14),
  (0b000000010000000_01110_00001_0110110, .qcfg 1 14),
  (0b0000000101_10011_01110_01001_0110110, .mxon 9 14 19),
  (0b00000001100000000000000000110110, .mxoff),
  (0b0000000111_00011_01101_01001_0110110, .getsh 9 13 3)] = true := by decide +kernel

theorem test_decode_vld : decodesTo [
  (0b000_1011001_00000_01110_110_01_0111010, .vldU ⟨89, 0, 14, 6, 1⟩),
  (0b001_1011001_10011_01110_110_01_0111010, .vldS ⟨89, 19, 14, 6, 1⟩),
  (0b010_1011001_00000_01110_010_01_0111010, .vldX ⟨89, 0, 14, 2, 1⟩),
  (0b011_1011001_00000_01110_010_01_0111010, .vldXO ⟨89, 0, 14, 2, 1⟩),
  (0b100_1011001_10011_01110_100_01_0111010, .vldSeg ⟨89, 19, 14, 4, 1⟩),
  (0b101_1011001_10011_01110_000_01_0111010, .vldC ⟨89, 19, 14, 0, 1⟩),
  (0b110_1011001_00000_01110_110_01_0111010, .vldFF ⟨89, 0, 14, 6, 1⟩),
  (0b111_1011001_10011_01110_000_01_0111010, .vtree ⟨89, 19, 14, 0, 1⟩)] = true := by decide +kernel

theorem test_decode_vst : decodesTo [
  (0b000_1011001_00000_01110_110_0_1_0111110, .vstU ⟨89, 0, 14, 6, 1⟩),
  (0b001_1011001_10011_01110_110_0_1_0111110, .vstS ⟨89, 19, 14, 6, 1⟩),
  (0b010_1011001_00000_01110_010_000111110, .vstX ⟨89, 0, 14, 2, 0⟩),
  (0b011_1011001_00000_01110_010_000111110, .vstXO ⟨89, 0, 14, 2, 0⟩),
  (0b100_1011001_10011_01110_100_0_1_0111110, .vstSeg ⟨89, 19, 14, 4, 1⟩),
  (0b101_1011001_00000_01110_0000_1_0111110, .vstC ⟨89, 0, 14, 0, 1⟩)] = true := by decide +kernel

theorem test_decode_varith : decodesTo [
  (0b000_00_1_1_011_10011_01110_01001_1000010, .vadd ⟨9, 14, 19, 3, true, true, 0⟩),
  (0b001_00_1_1_011_10011_01110_01001_1000010, .vsub ⟨9, 14, 19, 3, true, true, 0⟩),
  (0b010_00_1_1_011_10011_01110_01001_1000010, .vmul ⟨9, 14, 19, 3, true, true, 0⟩),
  (0b011_00_1_1_011_10011_01110_01001_1000010, .vmulh ⟨9, 14, 19, 3, true, true, 0⟩),
  (0b100_00_1_1_011_10011_01110_01001_1000010, .vdiv ⟨9, 14, 19, 3, true, true, 0⟩),
  (0b101_00_1_1_011_10011_01110_01001_1000010, .vmin ⟨9, 14, 19, 3, true, true, 0⟩),
  (0b110_00_1_1_011_10011_01110_01001_1000010, .vmax ⟨9, 14, 19, 3, true, true, 0⟩),
  (0b111_00_0_1_011_00000_01110_01001_1000010, .vsqrt ⟨9, 14, 0, 3, true, false, 0⟩)] = true := by decide +kernel

theorem test_decode_varithX : decodesTo [
  (0b000_00_0_1_011_10011_01110_01001_1000110, .vaddX ⟨9, 14, 19, 3, true, false, 0⟩),
  (0b001_00_0_1_011_10011_01110_01001_1000110, .vsubX ⟨9, 14, 19, 3, true, false, 0⟩),
  (0b010_00_0_1_011_10011_01110_01001_1000110, .vrsubX ⟨9, 14, 19, 3, true, false, 0⟩),
  (0b011_00_0_1_011_10011_01110_01001_1000110, .vmulX ⟨9, 14, 19, 3, true, false, 0⟩),
  (0b100_00_0_1_011_10011_01110_01001_1000110, .vdivX ⟨9, 14, 19, 3, true, false, 0⟩),
  (0b101_00_0_1_011_10011_01110_01001_1000110, .vrdivX ⟨9, 14, 19, 3, true, false, 0⟩),
  (0b110_00_0_1_011_10011_01110_01001_1000110, .vminX ⟨9, 14, 19, 3, true, false, 0⟩),
  (0b111_00_0_1_011_10011_01110_01001_1000110, .vmaxX ⟨9, 14, 19, 3, true, false, 0⟩)] = true := by decide +kernel

theorem test_decode_vlogic : decodesTo [
  (0b000_00_1_1_011_10011_01110_01001_1001010, .vand ⟨9, 14, 19, 3, true, true, 0⟩),
  (0b001_00_1_1_011_10011_01110_01001_1001010, .vor ⟨9, 14, 19, 3, true, true, 0⟩),
  (0b010_00_1_1_011_10011_01110_01001_1001010, .vxor ⟨9, 14, 19, 3, true, true, 0⟩),
  (0b011_00_1_1_011_10011_01110_01001_1001010, .vsll ⟨9, 14, 19, 3, true, true, 0⟩),
  (0b100_00_1_1_011_10011_01110_01001_1001010, .vsrl ⟨9, 14, 19, 3, true, true, 0⟩),
  (0b101_00_1_1_011_10011_01110_01001_1001010, .vsra ⟨9, 14, 19, 3, true, true, 0⟩),
  (0b11000_1_1_011_10011_01110_01001_1001010, .vmerge ⟨9, 14, 19, 3, true, true, 0⟩),
  (0b111_00_0_1_011_00000_01110_01001_1001010, .vmv ⟨9, 14, 0, 3, true, false, 0⟩)] = true := by decide +kernel

theorem test_decode_vlogicX : decodesTo [
  (0b000_00_0_1_011_10011_01110_01001_1001110, .vandX ⟨9, 14, 19, 3, true, false, 0⟩),
  (0b001_00_0_1_011_10011_01110_01001_1001110, .vorX ⟨9, 14, 19, 3, true, false, 0⟩),
  (0b010_00_0_1_011_10011_01110_01001_1001110, .vxorX ⟨9, 14, 19, 3, true, false, 0⟩),
  (0b011_00_0_1_011_10011_01110_01001_1001110, .vsllX ⟨9, 14, 19, 3, true, false, 0⟩),
  (0b100_00_0_1_011_10011_01110_01001_1001110, .vsrlX ⟨9, 14, 19, 3, true, false, 0⟩),
  (0b101_00_0_1_011_10011_01110_01001_1001110, .vsraX ⟨9, 14, 19, 3, true, false, 0⟩),
  (0b110000_1_011_10011_01110_01001_1001110, .vmergeX ⟨9, 14, 19, 3, true, false, 0⟩),
  (0b111_00_00_011_10011_00000_01001_1001110, .vsplat ⟨9, 0, 19, 3, false, false, 0⟩)] = true := by decide +kernel

theorem test_decode_vmac : decodesTo [
  (0b000_00_1_1_011_10011_01110_01001_1010010, .vmacc ⟨9, 14, 19, 3, true, true, 0⟩),
  (0b001_00_1_1_011_10011_01110_01001_1010010, .vnmsac ⟨9, 14, 19, 3, true, true, 0⟩),
  (0b010_00_1_1_011_10011_01110_01001_1010010, .vmadd ⟨9, 14, 19, 3, true, true, 0⟩),
  (0b011_00_1_1_011_10011_01110_01001_1010010, .vnmsub ⟨9, 14, 19, 3, true, true, 0⟩),
  (0b100_00_0_1_011_10011_01110_01001_1010010, .vmaccX ⟨9, 14, 19, 3, true, false, 0⟩),
  (0b101_00_0_1_011_10011_01110_01001_1010010, .vnmsacX ⟨9, 14, 19, 3, true, false, 0⟩),
  (0b110_00_0_1_011_00000_01110_01001_1010010, .vabs ⟨9, 14, 0, 3, true, false, 0⟩),
  (0b111_00_0_1_011_00000_01110_01001_1010010, .vneg ⟨9, 14, 0, 3, true, false, 0⟩)] = true := by decide +kernel

theorem test_decode_vcmp : decodesTo [
  (0b000_00_1_1_011_10011_01110_0_1001_1010110, .vseq ⟨9, 14, 19, 3, true, true, 0⟩),
  (0b001_00_1_1_011_10011_01110_0_1001_1010110, .vsne ⟨9, 14, 19, 3, true, true, 0⟩),
  (0b010_00_1_1_011_10011_01110_0_1001_1010110, .vslt ⟨9, 14, 19, 3, true, true, 0⟩),
  (0b011_00_1_1_011_10011_01110_0_1001_1010110, .vsle ⟨9, 14, 19, 3, true, true, 0⟩),
  (0b100_00_0_1_011_10011_01110_0_1001_1010110, .vsltX ⟨9, 14, 19, 3, true, false, 0⟩),
  (0b101_00_0_1_011_10011_01110_0_1001_1010110, .vsgtX ⟨9, 14, 19, 3, true, false, 0⟩),
  (0b110_00_1_1_011_10011_01110_0_1001_1010110, .vlbnd ⟨9, 14, 19, 3, true, true, 0⟩),
  (0b111_00_0_1_011_00101_01110_0_1001_1010110, .vclass ⟨9, 14, 5, 3, true, false, 0⟩)] = true := by decide +kernel

theorem test_decode_vcvt : decodesTo [
  (0b000_00_0_1_011_11011_01110_01001_1011010, .vcvtH ⟨9, 14, 27, 3, true, false, 0⟩),
  (0b001_00_0_1_011_00000_01110_01001_1011010, .vcvtD ⟨9, 14, 0, 3, true, false, 0⟩),
  (0b010_00_1_1_011_10011_01110_01001_1011010, .vcvtQ4 ⟨9, 14, 19, 3, true, true, 0⟩),
  (0b011_00_0_1_011_00000_01110_01001_1011010, .vcvtI ⟨9, 14, 0, 3, true, false, 0⟩),
  (0b100_00_0_1_011_00000_01110_01001_1011010, .vcvtF ⟨9, 14, 0, 3, true, false, 0⟩),
  (0b101_00_0_1_011_00000_01110_01001_1011010, .vcvtT ⟨9, 14, 0, 3, true, false, 0⟩),
  (0b110_00_0_1_011_11011_01110_01001_1011010, .vretag ⟨9, 14, 27, 3, true, false, 0⟩)] = true := by decide +kernel

theorem test_decode_vred : decodesTo [
  (0b000_00_1_1_011_10011_01110_01001_1011110, .vredsum ⟨9, 14, 19, 3, true, true, 0⟩),
  (0b001_00_1_1_011_10011_01110_01001_1011110, .vredmax ⟨9, 14, 19, 3, true, true, 0⟩),
  (0b010_00_1_1_011_10011_01110_01001_1011110, .vredmin ⟨9, 14, 19, 3, true, true, 0⟩),
  (0b011_00_1_1_011_10011_01110_01001_1011110, .vredand ⟨9, 14, 19, 3, true, true, 0⟩),
  (0b100_00_1_1_011_10011_01110_01001_1011110, .vredor ⟨9, 14, 19, 3, true, true, 0⟩),
  (0b101_11_1_1_011_10011_01110_01001_1011110, .vredsc ⟨9, 14, 19, 3, true, true, 3⟩),
  (0b110_00_1_1_011_10011_01110_01001_1011110, .vscan ⟨9, 14, 19, 3, true, true, 0⟩),
  (0b111_00_1_1_011_10011_01110_01001_1011110, .vredcol ⟨9, 14, 19, 3, true, true, 0⟩)] = true := by decide +kernel

theorem test_decode_vperm : decodesTo [
  (0b000_00_1_1_011_10011_01110_01001_1100010, .vrgath ⟨9, 14, 19, 3, true, true, 0⟩),
  (0b001000_1_000_10011_01110_01001_1100010, .vslideup ⟨9, 14, 19, 0, true, false, 0⟩),
  (0b010000_1_000_10011_01110_01001_1100010, .vslidedn ⟨9, 14, 19, 0, true, false, 0⟩),
  (0b011000_1_000_10011_01110_01001_1100010, .vslide1up ⟨9, 14, 19, 0, true, false, 0⟩),
  (0b100000_1_000_10011_01110_01001_1100010, .vslide1dn ⟨9, 14, 19, 0, true, false, 0⟩),
  (0b10100_1_1_0000_0011_01110_01001_1100010, .vcompr ⟨9, 14, 3, 0, true, true, 0⟩),
  (0b11000_1_1_0000_0011_01110_01001_1100010, .vexpm ⟨9, 14, 3, 0, true, true, 0⟩),
  (0b111000_1_000_10011_01110_01001_1100010, .vreshp ⟨9, 14, 19, 0, true, false, 0⟩)] = true := by decide +kernel

theorem test_decode_vxfm : decodesTo [
  (0b000_00_0_1_011_10011_01110_01001_1100110, .vunpk ⟨9, 14, 19, 3, true, false, 0⟩),
  (0b001_00_0_1_011_10011_01110_01001_1100110, .vpack ⟨9, 14, 19, 3, true, false, 0⟩),
  (0b010_00_1_1_011_10011_01110_01001_1100110, .vlut ⟨9, 14, 19, 3, true, true, 0⟩),
  (0b011_00_00_011_10011_00000_01001_1100110, .vid ⟨9, 0, 19, 3, false, false, 0⟩),
  (0b100_00_0_1_011_00000_01110_01001_1100110, .vclz ⟨9, 14, 0, 3, true, false, 0⟩),
  (0b101_00_0_1_011_00000_01110_01001_1100110, .vcpop ⟨9, 14, 0, 3, true, false, 0⟩),
  (0b110_00_0_1_011_00000_01110_01001_1100110, .vordk ⟨9, 14, 0, 3, true, false, 0⟩),
  (0b111_00_0_1_011_00000_01110_01001_1100110, .vbrev ⟨9, 14, 0, 3, true, false, 0⟩)] = true := by decide +kernel

theorem test_decode_vmsk : decodesTo [
  (0b000_00_1_1_011_0_0011_0_1110_0_1001_1101010, .mand ⟨9, 14, 3, 3, true, true, 0⟩),
  (0b001_00_1_1_011_0_0011_0_1110_0_1001_1101010, .mor ⟨9, 14, 3, 3, true, true, 0⟩),
  (0b010_00_1_1_011_0_0011_0_1110_0_1001_1101010, .mxor ⟨9, 14, 3, 3, true, true, 0⟩),
  (0b011_00_1_1_011_0_0011_0_1110_0_1001_1101010, .mandn ⟨9, 14, 3, 3, true, true, 0⟩),
  (0b100_00_0_1_011_000000_1110_0_1001_1101010, .mnot ⟨9, 14, 0, 3, true, false, 0⟩),
  (0b101000_1_011_000000_1110_01001_1101010, .mpopc ⟨9, 14, 0, 3, true, false, 0⟩),
  (0b110000_1_011_000000_1110_01001_1101010, .mfirst ⟨9, 14, 0, 3, true, false, 0⟩),
  (0b111_00_00_011_000000000_1_0_1001_1101010, .mseti ⟨9, 1, 0, 3, false, false, 0⟩)] = true := by decide +kernel

theorem test_decode_vscl : decodesTo [
  (0b000000_1_000_10011_01110_01001_1101110, .vmvx ⟨9, 14, 19, 0, true, false, 0⟩),
  (0b0010_1_00000_10011_01110_01001_1101110, .vmvs ⟨9, 14, 19, 0, false, false, 1⟩),
  (0b010000_1_000_10011_0_1110_01001_1101110, .mmvx ⟨9, 14, 19, 0, true, false, 0⟩),
  (0b0110000000_10011_01110_0_1001_1101110, .mmvs ⟨9, 14, 19, 0, false, false, 0⟩),
  (0b100000000000000_00100_01001_1101110, .qstat ⟨9, 4, 0, 0, false, false, 0⟩),
  (0b1010000000_10011_000_01_000001101110, .qdrop ⟨0, 1, 19, 0, false, false, 0⟩)] = true := by decide +kernel

theorem test_decode_cat : decodesTo [
  (0b000_00_1_1_011_10011_01110_0_1001_1110010, .catins ⟨9, 14, 19, 3, true, true, 0⟩),
  (0b001_00_0_1_011_0_0011_01110_01001_1110010, .catlkp ⟨9, 14, 3, 3, true, false, 0⟩),
  (0b010_00_1_1_011_10011_01110_0_1001_1110010, .catacc ⟨9, 14, 19, 3, true, true, 0⟩),
  (0b01100000000_0011_00000_01001_1110010, .catdrn ⟨9, 0, 3, 0, false, false, 0⟩),
  (0b10000000000000000000000001110010, .catclr),
  (0b101000000000000_00100_01001_1110010, .catcnt ⟨9, 4, 0, 0, false, false, 0⟩),
  (0b110000000000000_01110_01001_1110010, .catcfg ⟨9, 14, 0, 0, false, false, 0⟩)] = true := by decide +kernel

theorem test_decode_copy : decodesTo [
  (0b0000000000_10011_01110_01001_1110110, .cpyG 9 14 19),
  (0b0000000001_10011_01110_01001_1110110, .cpyP 9 14 19),
  (0b0000000010_10011_01110_01001_1110110, .cpyX 9 14 19),
  (0b0000000011_10011_01110_01001_1110110, .cpyIX 9 14 19),
  (0b0000000100_10011_00_101_01001_1110110, .cpyWait 9 5 19),
  (0b0000000101_00110_00_101_01001_1110110, .cpyStat 9 5 6),
  (0b00000001100000000_101_01001_1110110, .cpyAbort 9 5),
  (0b0000000111_10011_00_101_01001_1110110, .cpyFill 9 5 19)] = true := by decide +kernel

theorem test_decode_compressed : decodesTo [
  (0b000_01001_011001_00, .hAddi 9 25),
  (0b001_01001_011001_00, .hLi 9 25),
  (0b010_10101_010_011_00, .hLdd 3 2 21),
  (0b011_10101_010_011_00, .hStd 3 2 21),
  (0b100_10101_010_011_00, .hLdw 3 2 21),
  (0b101_10101_010_011_00, .hStw 3 2 21),
  (0b110_01001_100101_00, .hSlli 9 37),
  (0b111_01001_011001_00, .hLiu 9 25),
  (0b000_01001_01110_001, .hMov 9 14),
  (0b0000000000000001, .hNop),
  (0b001_01001_01110_001, .hAdd 9 14),
  (0b010_01001_01110_001, .hSub 9 14),
  (0b011_010_01010101_01, .hBz 2 85),
  (0b100_010_01010101_01, .hBnz 2 85),
  (0b101_01101010101_01, .hJmp 853),
  (0b110_01110_00000001, .hJmpr 14),
  (0b1110000000000001, .hBrk)] = true := by decide +kernel

theorem test_decode_matrix : decodesTo [
  (0b00000000000000000000000000000000_00011_00000_00000_00000_00000_00000_11, .mzero 3),
  (0b00000000000000000000000000000011_00001_00000_00110_00101_00001_00000_11, .mopa 1 5 6 true true),
  (0b00000000000000000000000000000010_00001_00000_00110_11100_00010_00000_11, .mops 1 28 6 false true),
  (0b00000000000000000000000000000001_00001_00000_00000_00001_00011_00000_11, .mblk 1 1 true false),
  (0b00000000000000000000000000000000_01001_00000_10011_00001_00100_00000_11, .mrdz 9 1 19),
  (0b00000000000000000000000000000000_00001_00000_00000_00011_00101_00000_11, .mspill 1 3 0),
  (0b00000000000000000000000000000000_00001_01110_00000_00010_00110_00000_11, .mfill 1 2 14),
  (0b00000000100000010100000100000000_00010_00101_10011_01110_00111_00000_11, .mldq ⟨2, 14, 19, 5, 256, 32, 2, 4⟩)] = true := by decide +kernel

theorem test_decode_grammar : decodesTo [
  (0b00000000000000000000000000000000_01001_00101_10011_01110_00000_00001_11, .gopen 9 14 19 5),
  (0b00000000000000000000000000000000_01001_00000_10011_01110_00001_00001_11, .gadv 9 14 19),
  (0b00000000000000000000000000000000_01001_00000_00000_01110_00010_00001_11, .gmask 9 14),
  (0b00000000000000000000000000000000_01001_00000_00011_01110_00011_00001_11, .gmaskM 9 14 3),
  (0b00000000000000000000000000000000_01001_00000_00000_01110_00100_00001_11, .gckpt 9 14),
  (0b00000000000000000000000000000000_01001_00000_10011_01110_00101_00001_11, .groll 9 14 19),
  (0b00000000000000000000000000000000_01001_00000_00000_01110_00110_00001_11, .gfork 9 14),
  (0b00000000000000000000000000000000_00000_00000_00000_01110_00111_00001_11, .gfree 14),
  (0b00000000000000000000000000001000_01001_00000_00000_01110_01000_00001_11, .gstat 9 14 8)] = true := by decide +kernel

theorem test_decode_accession : decodesTo [
  (0b00000000000000000000000000000000_00000_00000_10011_01110_00000_00010_11, .acclog 14 19),
  (0b00000000000000000000000000000000_01001_00000_00000_00000_00001_00010_11, .accsync 9),
  (0b00000000000000000000000000001010_01001_00000_00000_00000_00010_00010_11, .acchead 9 10)] = true := by decide +kernel

theorem test_decode_vitrine : decodesTo [
  (0b00000000000000000000000000000000_01001_00101_10011_01110_00000_00011_11, .vtseal 9 14 19 5),
  (0b00000000000000000000000000000000_00000_00101_10011_01110_00001_00011_11, .vtatt 14 19 5),
  (0b00000000000000000000000000000000_00000_00101_00000_01110_00010_00011_11, .vtdrop 14 5),
  (0b00000000000000000000000000001011_01001_00000_00000_01110_00011_00011_11, .vtqry 9 14 11)] = true := by decide +kernel

theorem test_decode_upperAndJumps : decodesTo [
  (0b00110011010101010101_01001_0001010, .liu 9 210261),
  (0b00110011010101010101_01001_0001110, .pcadd 9 210261),
  (0b10110011001101010101_01001_0011110, .jal 9 734037),
  (0b010101010101_000_01110_01001_0100010, .jalr 9 14 1365)] = true := by decide +kernel

/-! What meets the hypotheses of the statements, in their order. -/

theorem test_meets_IntegerResults :
    [Instr.add 1 2 3, .sub 1 2 3, .and 1 2 3, .or 1 2 3, .xor 1 2 3, .sll 1 2 3, .srl 1 2 3, .sra 1 2 3, .slt 1 2 3, .sltu 1 2 3,
      .mul 1 2 3, .mulh 1 2 3, .mulhu 1 2 3, .div 1 2 3, .divu 1 2 3, .rem 1 2 3, .remu 1 2 3, .min 1 2 3, .max 1 2 3,
      .minu 1 2 3, .maxu 1 2 3, .addw 1 2 3, .subw 1 2 3, .clz 1 2, .ctz 1 2, .cpop 1 2, .rol 1 2 3, .ror 1 2 3, .addi 0 2 0x800,
      .andi 1 2 3, .ori 1 2 3, .xori 1 2 3, .slti 1 2 3, .sltiu 1 2 0xFFF, .slli 1 2 63, .srli 1 2 63, .srai 1 2 63, .rori 1 2 63,
      .addiw 1 2 3, .liu 31 0xFFFFF, .pcadd 1 0x80000, .hAddi 1 0x20, .hLi 1 0x1F, .hSlli 1 63, .hLiu 1 0x20, .hMov 1 0,
      .hAdd 1 1, .hSub 1 1, .hNop].all (fun i => (intResult i demo).isSome) = true := by decide +kernel

theorem test_meets_FloatResults :
    [Instr.faddS 1 2 3, .fsubS 1 2 3, .fmulS 1 2 3, .fdivS 1 2 3, .fsqrtS 1 2, .fminS 1 2 3, .fmaxS 1 2 3, .feqS 1 2 3, .fltS 1 2 3,
      .faddD 1 2 3, .fsubD 1 2 3, .fmulD 1 2 3, .fdivD 1 2 3, .fsqrtD 1 2, .fcvtSL 1 2, .fcvtLS 1 2, .fcvtSD 1 2, .fcvtDS 1 2,
      .fcvtDL 1 2, .fcvtLD 0 31].all (fun i => (floatResult i demo).isSome) = true := by decide +kernel

theorem test_meets_BranchTargets :
    [Instr.beq 1 2 0x800, .bne 1 2 0x7FF, .blt 1 2 1, .bge 1 2 1, .bltu 1 2 1, .bgeu 1 2 1, .hBz 0 0x80, .hBnz 7 0x7F, .hJmp 0x400,
      .hJmpr 0].all (fun i => (branchTarget i demo).isSome) = true := by decide +kernel

/-- Data at 0x20000, its address in x8 (the shortest forms reach x8 to x15) and x1. -/
def dataAt : State := xs [(1, 0x20000), (8, 0x20000), (2, 0x1122334455667788)] (poke 0x20000 16 0x8000000000000000F0E0D0C0B0A09080 demo)

theorem test_meets_LoadResults :
    [Instr.ldb 2 1 15, .ldh 2 1 14, .ldw 2 1 12, .ldd 0 1 8, .ldbu 2 1 0, .ldhu 2 1 1, .ldwu 2 1 3, .hLdd 1 0 1, .hLdw 1 0 3,
      .lda ⟨2, 1, 0, 4, false, false, true⟩, .lda ⟨2, 1, 0, 0, false, false, false⟩].Forall (fun i =>
      ∃ d ea n ext, loadForm i dataAt = some (d, ea, n, ext) ∧ dataAt.cpu.inflight = [] ∧ alignedFor i ea n
        ∧ ∃ l, dataAt.loadBytes ea n = .ok l) := by
  simp only [List.Forall]
  and_intros <;> exact ⟨_, _, _, _, rfl, rfl, by trivial, exists_ok (by decide +kernel)⟩

theorem test_meets_StoreResults :
    [dataAt, onId (fun i => { i with copy := 1 }) dataAt].Forall (fun s =>
      [Instr.stb 2 1 15, .sth 2 1 14, .stw 2 1 12, .std 2 1 9, .hStd 2 0 31, .hStw 2 0 31, .stl ⟨0, 1, 2, 4, false, false, true⟩,
        .stl ⟨0, 1, 2, 0, false, false, false⟩].Forall (fun i =>
        ∃ b ea n pas, storeForm i s = some (b, ea, n) ∧ s.cpu.inflight = [] ∧ alignedFor i ea n ∧ s.inDup = false
          ∧ pas = vaRange ea n
          ∧ (∀ atomic, s.accessBytes s.cpu.ctx .store atomic (vaRange ea n) = .ok pas) ∧ AllMemory s pas)) := by
  simp only [List.Forall]
  and_intros <;> exact ⟨_, _, _, _, rfl, rfl, by trivial, by decide +kernel, rfl,
    by decide +kernel, by unfold AllMemory; decide +kernel⟩

theorem test_meets_AtomicResults :
    [true, false].Forall (fun dbl => let o : AmoOps := ⟨3, 1, 2, 0, false, false, dbl⟩
      [Instr.amoswp o, .amoadd o, .amoand o, .amoor o, .amoxor o, .amomin o, .amomax o, .amominu o, .amomaxu o,
        .amocas o].Forall (fun i => ∃ g pas, amoForm i = some (o, g) ∧ dataAt.cpu.inflight = [] ∧ dataAt.inDup = false
        ∧ dataAt.getU o.a % (if o.dbl then 8 else 4) = 0 ∧ pas = vaRange 0x20000 (if o.dbl then 8 else 4)
        ∧ dataAt.accessBytes dataAt.cpu.ctx .amo true (vaRange (dataAt.getU o.a) (if o.dbl then 8 else 4)) = .ok pas
        ∧ AllMemory dataAt pas)) := by
  simp only [List.Forall]
  and_intros <;> exact ⟨_, _, rfl, rfl, by decide +kernel, by decide +kernel, rfl, by decide +kernel,
    by unfold AllMemory; decide +kernel⟩

/-- A load whose third byte, and a store whose first byte, lies beyond the populated part of its window. -/
theorem test_meets_AccessFaultsTrap :
    let s := xs [(1, 0xEE6B27FFE)] demo
    CanTrap s ∧ s.cpu.inflight = []
      ∧ (∃ f, s.accessBytes s.cpu.ctx .load false (vaRange 0xEE6B27FFE 4) = .error f ∧ f.cause ≠ .dataError
        ∧ ∃ d ext, loadForm (.ldw 2 1 0) s = some (d, 0xEE6B27FFE, 4, ext))
      ∧ (∃ f, s.accessBytes s.cpu.ctx .load false (vaRange 0xEE6B28000 8) = .error f ∧ f.cause ≠ .dataError
        ∧ ∃ d ext, loadForm (.lda ⟨2, 2, 0, 0, false, false, true⟩) (xs [(2, 0xEE6B28000)] s) = some (d, 0xEE6B28000, 8, ext))
      ∧ (∃ f, s.accessBytes s.cpu.ctx .store false (vaRange 0xEE6B28000 1) = .error f ∧ f.cause ≠ .dataError
        ∧ ∃ b, storeForm (.stb 2 1 2) s = some (b, 0xEE6B28000, 1)) := by
  refine ⟨by unfold CanTrap; decide +kernel, rfl, ⟨⟨.loadFault, 0, 0, 0xEE6B28000⟩, by decide +kernel, by decide, _, _, rfl⟩,
    ⟨⟨.loadFault, 0, 0, 0xEE6B28000⟩, by decide +kernel, by decide, _, _, rfl⟩,
    ⟨⟨.storeFault, 0, 0, 0xEE6B28000⟩, by decide +kernel, by decide, _, rfl⟩⟩

theorem test_meets_MisalignedAtomicsTrap :
    let s := xs [(1, 0x20004)] demo
    CanTrap s ∧ s.cpu.inflight = [] ∧ s.inDup = false ∧ s.getU 1 % 8 ≠ 0
      ∧ (xs [(1, 0x20003)] demo).getU 1 % 4 ≠ 0 ∧ ∃ g, amoForm (.amocas ⟨2, 1, 3, 0, false, false, true⟩) = some (⟨2, 1, 3, 0, false, false, true⟩, g) := by
  refine ⟨by unfold CanTrap; decide +kernel, rfl, by decide +kernel, by decide +kernel, by decide +kernel, _, rfl⟩

theorem test_meets_SystemCallsTrap : CanTrap demo ∧ demo.cpu.inflight = [] := by unfold CanTrap; decide +kernel

theorem test_meets_EretReturns :
    (demoActive.cpu.inflight = [] ∧ demoActive.cpu.front.estat.getLsbD 0 = true) ∧ demo.cpu.inflight = [] ∧ CanTrap demo := by
  unfold CanTrap; decide +kernel

theorem test_meets_TrapsInHandlersEndTheLaunch :
    demoActive.cpu.inflight = [] ∧ ¬CanTrap demoActive ∧ ¬CanTrap (onFront (fun f => { f with tvec := 0 }) demo) := by
  unfold CanTrap; decide +kernel

theorem test_meets_SystemReads : demo.cpu.inflight = [] ∧ ((0x033 : BitVec 11).toNat, (0 : W64)) ∈ sysTable demo
    ∧ ∀ v, ((0x008 : BitVec 11).toNat, v) ∉ sysTable demo := by
  have h : ∀ e ∈ sysTable demo, e.1 ≠ 8 := by decide +kernel
  exact ⟨rfl, by decide +kernel, fun v hv => h _ hv rfl⟩

/-- A user register with any value, and the last value that each limited register accepts. -/
theorem test_meets_SystemWrites :
    (∃ ok kept, ((0x005 : BitVec 11).toNat, false, ok, kept) ∈ sysWritable ∧ ok (-1) ∧ (0x005, (0x800 : W64)) ∈ sysTable demo)
      ∧ (∃ ok kept, ((0x004 : BitVec 11).toNat, false, ok, kept) ∈ sysWritable ∧ ok 0xFFFFF)
      ∧ (∃ ok kept, ((0x010 : BitVec 11).toNat, false, ok, kept) ∈ sysWritable ∧ ok 4)
      ∧ (∃ ok kept, ((0x032 : BitVec 11).toNat, true, ok, kept) ∈ sysWritable ∧ ok 0xFFFFFFFF)
      ∧ (∃ ok kept, ((0x033 : BitVec 11).toNat, true, ok, kept) ∈ sysWritable ∧ ok 15 ∧ demoPriv.cpu.id.priv = true)
      ∧ ((∃ g, sysForm (.swr 1 2 5) = some (1, 2, 5, g)) ∧ (∃ g, sysForm (.srset 1 2 5) = some (1, 2, 5, g))
        ∧ ∃ g, sysForm (.srclr 1 2 5) = some (1, 2, 5, g))
      ∧ demo.cpu.inflight = [] ∧ CanTrap demo ∧ (0x030 : BitVec 11).toNat ∈ [0x001, 0x003, 0x020, 0x021, 0x022, 0x023, 0x030]
      ∧ (0x031 : BitVec 11).toNat ∈ [0x031, 0x032, 0x033] ∧ demo.cpu.id.priv = false := by
  refine ⟨⟨_, _, List.mem_of_getElem (i := 3) (h := by decide) rfl, trivial, by decide +kernel⟩,
    ⟨_, _, List.mem_of_getElem (i := 2) (h := by decide) rfl, by decide⟩,
    ⟨_, _, List.mem_of_getElem (i := 6) (h := by decide) rfl, by decide⟩,
    ⟨_, _, List.mem_of_getElem (i := 9) (h := by decide) rfl, by decide⟩,
    ⟨_, _, List.mem_of_getElem (i := 10) (h := by decide) rfl, by decide, rfl⟩,
    ⟨⟨_, rfl⟩, ⟨_, rfl⟩, _, rfl⟩, rfl, by unfold CanTrap; decide +kernel, by decide, by decide, rfl⟩

/-- The first value that each limited register refuses. -/
theorem test_meets_SystemWrites_refused :
    (∃ ok kept, ((0x004 : BitVec 11).toNat, false, ok, kept) ∈ sysWritable ∧ ¬ok 0x100000)
      ∧ (∃ ok kept, ((0x010 : BitVec 11).toNat, false, ok, kept) ∈ sysWritable ∧ ¬ok 5)
      ∧ (∃ ok kept, ((0x032 : BitVec 11).toNat, true, ok, kept) ∈ sysWritable ∧ ¬ok 0x100000000)
      ∧ (∃ ok kept, ((0x033 : BitVec 11).toNat, true, ok, kept) ∈ sysWritable ∧ ¬ok 16)
      ∧ (∃ v, (0x004, v) ∈ sysTable demoPriv) ∧ demoPriv.cpu.inflight = [] ∧ CanTrap demoPriv ∧ demoPriv.cpu.id.priv = true := by
  refine ⟨⟨_, _, List.mem_of_getElem (i := 2) (h := by decide) rfl, by decide⟩,
    ⟨_, _, List.mem_of_getElem (i := 6) (h := by decide) rfl, by decide⟩,
    ⟨_, _, List.mem_of_getElem (i := 9) (h := by decide) rfl, by decide⟩,
    ⟨_, _, List.mem_of_getElem (i := 10) (h := by decide) rfl, by decide⟩,
    ⟨_, List.mem_of_getElem (i := 4) (h := by decide +kernel) rfl⟩, rfl, by unfold CanTrap; decide +kernel, rfl⟩

theorem test_meets_InvalidationsDrop :
    let s := xs [(1, 0x2FFFF), (2, 0x2FFF), (3, 1), (4, 0)] demoPriv
    s.cpu.inflight = [] ∧ s.cpu.id.priv = true ∧ s.getU 2 < 0x3000 ∧ s.getU 1 % 65536 + s.getU 3 ≤ 65536
      ∧ s.getU 1 % 65536 + s.getU 4 ≤ 65536 ∧ s.translateInv (s.getU 1) = .ok 0x2FFFF
      ∧ s.pkg.jobs = [] ∧ demo.cpu.inflight = [] ∧ demo.cpu.id.priv = false ∧ CanTrap demo := by
  unfold CanTrap; decide +kernel

/-- A member whose gang's barrier expects `e` of 64 live members, `a` having arrived. -/
def atBar (e a : Nat) : State :=
  onGang (fun g => { g with bars := Vector.replicate 2 ⟨e, a, false, e, 64, if a = 0 then 0 else 2, 0⟩ }) (xs [(1, 64), (2, 0)] demo)

theorem test_meets_BarrierResults :
    AtBarrier (atBar 2 1) ∧ (atBar 0 0).getU 1 ≤ 64 ∧ (atBar 0 0).getU 1 ≤ (atBar 0 0).bar.live ∧ MayArrive (atBar 2 1).bar (atBar 2 1).cpu.id.idx
      ∧ (atBar 2 1).bar.arrived + 1 = (atBar 2 1).bar.expected ∧ MayArrive (atBar 64 0).bar (atBar 64 0).cpu.id.idx
      ∧ bitAt (atBar 2 1).bar.arrbit.toNat (atBar 2 1).cpu.id.idx = false ∧ (atBar 2 1).cpu.due = none := by
  unfold AtBarrier MayArrive; decide +kernel

/-- An arrival before the barrier is armed, a second one of a member, and a count above 64. -/
theorem test_meets_BarrierResults_refused :
    [atBar 0 0, onGang (fun g => { g with bars := Vector.replicate 2 ⟨2, 1, false, 2, 64, 1, 0⟩ }) (xs [(1, 65)] demo)].Forall (fun s =>
      AtBarrier s ∧ CanTrap s ∧ ¬MayArrive s.bar s.cpu.id.idx ∧ s.cpu.due = none ∧ (64 < s.getU 1 ∨ s.getU 1 = 64))
      ∧ 64 < (xs [(1, 65)] (atBar 0 0)).getU 1 := by
  unfold AtBarrier CanTrap MayArrive; decide +kernel

theorem test_meets_ShapeGrants : (28 : Nat) ≤ (28 : Reg).val ∧ 28 ≤ (31 : Reg).val ∧ demo.cpu.inflight = []
    ∧ ∀ q, q < 6 → (demo.cpu.back.queue q).gone = [] ∧ (demo.cpu.back.queue q).sure = (demo.cpu.back.queue q).rows.length := by decide +kernel

theorem test_meets_TagsAreSet :
    let s := xs [(1, 0x0010), (2, 0x10071)] demo
    ((27 : Reg).val < 28 ∧ ¬(s.cpu.front.mmode = true ∧ 20 ≤ (27 : Reg).val) ∧ (s.getX 1).toNat < 65536
        ∧ tagValid ((s.getX 1).setWidth 16) = true)
      ∧ ((5 : Reg).val < 6 ∧ s.cpu.inflight = [] ∧ (4 ≤ (5 : Reg).val → (s.cpu.back.queue (5 : Reg).val).rows = []))
      ∧ (CanTrap s ∧ ¬((s.getX 2).toNat < 65536 ∧ tagValid ((s.getX 2).setWidth 16) = true))
      ∧ (shapeTable s (31 : Reg).val)[(14 : Reg).val]?.isSome = true := by
  unfold CanTrap; decide +kernel

theorem test_meets_MatrixModeSwitches :
    (demo.cpu.inflight = [] ∧ demo.cpu.front.mmode = false ∧ demo.children = [] ∧ CanTrap demo)
      ∧ (let s := onFront (fun f => { f with mmode := true }) demo
         s.cpu.inflight = [] ∧ s.cpu.front.mmode = true ∧ s.children = [] ∧ CanTrap s) := by
  unfold CanTrap; decide +kernel

theorem test_meets_HaltEndsAHart : AtBarrier demo ∧ Quiet demo ∧ demo.children = [] := by
  unfold AtBarrier Quiet; decide +kernel

/-- The hart with a child that has halted. -/
def withChild : State :=
  let s := after (.fork 1 2 3) (xs [(2, 0x30000), (3, 0x100000)] demo)
  { s with others := s.others.map (fun h => { h with status := .halted }) }

theorem test_meets_ForksAndJoins :
    (let s := xs [(3, 0x100000)] demo
     Quiet s ∧ QueuesEmpty s ∧ s.cpu.front.mmode = false ∧ s.cpu.id.share ≠ 4 ∧ s.bar.expected = 0 ∧ s.forkArea (s.getU 3) = none)
      ∧ (Quiet withChild ∧ withChild.cpu.front.mmode = false
        ∧ ∃ c, withChild.children.getLast? = some c ∧ c.status ≠ .running)
      ∧ (let s := onId (fun i => { i with parent := some 7 }) demo
         Quiet s ∧ QueuesEmpty s ∧ s.children = [] ∧ s.cpu.id.parent.isSome = true ∧ s.cpu.front.mmode = false) := by
  refine ⟨by unfold Quiet QueuesEmpty; decide +kernel, ⟨by unfold Quiet; decide +kernel, by decide +kernel, _, rfl, ?_⟩,
    by unfold Quiet QueuesEmpty; decide +kernel⟩
  decide +kernel

/-- Matrix mode with and without a child, the smallest share, a save area that is misaligned, and one whose last page is not mapped. -/
theorem test_meets_ForksAndJoins_refused :
    (demo.cpu.inflight = [] ∧ CanTrap demo ∧ demo.children = [] ∧ demo.cpu.id.parent = none ∧ demo.cpu.front.mmode = false
        ∧ demo.bar.expected = 0 ∧ demo.cpu.id.share ≠ 4)
      ∧ (let s := onFront (fun f => { f with mmode := true }) withChild
         s.cpu.inflight = [] ∧ CanTrap s ∧ s.cpu.front.mmode = true ∧ s.children ≠ [])
      ∧ (onId (fun i => { i with share := 4 }) demo).cpu.id.share = 4
      ∧ (xs [(3, 0x10001)] demo).getU 3 % 65536 ≠ 0
      ∧ (let s := xs [(3, 0xEE6AA0000)] demo
         s.getU 3 % 65536 = 0
          ∧ s.byteAccess s.cpu.ctx .store true ((s.getU 3 + 65536 * 9) % 2 ^ 64) = .error ⟨.storeFault, 0, 0, 0xEE6B30000⟩
          ∧ ∀ j, j < 9 → isOk (s.byteAccess s.cpu.ctx .store true ((s.getU 3 + 65536 * j) % 2 ^ 64)) = true)
      ∧ (let s := after (.fork 1 2 3) (xs [(2, 0x30000), (3, 0x100000)] demo)
         s.cpu.front.mmode = false ∧ s.children.getLast?.isSome = true ∧ ∀ c ∈ s.children.getLast?, c.status = .running) := by
  unfold CanTrap; decide +kernel

theorem test_meets_FencesComplete :
    let s := xs [(1, 7)] demo
    Quiet s ∧ (4 : Fin 8).val ≤ 4 ∧ (7 : Fin 8).val ≠ 0 ∧ (∀ p, p < 16 → (s.part p).unwritten (fun r => r.hart = s.cpu.id.uid) = 0)
      ∧ s.cpu.due = none ∧ s.getU 1 < 8 := by
  unfold Quiet; decide +kernel

theorem test_meets_WaitcReturnsTheWord :
    let s := xs [(1, 0x20000), (2, 0xF0E0D0C0B0A09080), (3, 0xF0E0D0C0B0A09081)] dataAt
    ∃ pas, s.getU 1 % 8 = 0 ∧ s.accessBytes s.cpu.ctx .load false (vaRange (s.getU 1) 8) = .ok pas
      ∧ (∀ p ∈ s.cpu.inflight, s.mayStore p pas = false)
      ∧ (let w : W64 := BitVec.ofNat 64 (leNat (pas.map (s.physByte s.cpu.id.die)))
         (w - s.getX 2).toNat < 2 ^ 63 ∧ 2 ^ 63 ≤ (w - s.getX 3).toNat) :=
  ⟨vaRange 0x20000 8, by decide +kernel⟩

/-- A queue of 16 packets at 0x300000 with `n` of them present, a sound packet at 0x40000. -/
def withQueue (n : Nat) : State :=
  xs [(1, 0x40000), (2, 7)]
    ({ demo with mem := writeCells demo.mem 0x40000 (leBytes 8 0x10000 ++ leBytes 8 0x10000 ++ List.replicate 112 0)
                 pkg := { demo.pkg with wqs := [(7, ⟨0x300000, 4, 0x2000, 9, BitVec.ofNat 64 (3 + n), 3, 0, 0⟩)] } })

theorem test_meets_LaunchAppends :
    [15, 16].Forall (fun n => let s := withQueue n
      s.cpu.inflight = [] ∧ s.inDup = false ∧ s.getU 1 % 128 = 0 ∧ s.getU 2 ≤ 2047 ∧ (s.wq (s.getU 2)).en = true
        ∧ (s.wq (s.getU 2)).byHart = true
        ∧ (∃ l, s.loadBytes (s.getU 1) 128 = .ok l ∧ launchReason (packetBytes l) (s.wq (s.getU 2)).privok s.cpu.id.priv = 0))
      ∧ (let w := (withQueue 15).wq 7
         let s := withQueue 15
         let slot := w.base.toNat + 128 * (w.tail.toNat % 2 ^ w.size)
         w.tail.toNat - w.head.toNat < 2 ^ w.size ∧ slot + 128 ≤ 2 ^ 50
          ∧ ∀ k, k < 128 → s.checkPhys w.die .store true (s.ownPkg * 2 ^ 50 + slot + k) (s.ownPkg * 2 ^ 50 + slot + k) = none)
      ∧ (let w := (withQueue 16).wq 7
         2 ^ w.size ≤ w.tail.toNat - w.head.toNat) := by
  have h : ∀ n ∈ [15, 16], (withQueue n).loadBytes ((withQueue n).getU 1) 128
      = .ok (leBytes 8 0x10000 ++ leBytes 8 0x10000 ++ List.replicate 112 0) := by decide +kernel
  simp only [List.Forall]
  refine ⟨⟨?_, ?_⟩, by decide +kernel, by decide +kernel⟩
  · exact ⟨by decide +kernel, by decide +kernel, by decide +kernel, by decide +kernel, by decide +kernel, by decide +kernel, _,
      h 15 (by decide), by decide +kernel⟩
  · exact ⟨by decide +kernel, by decide +kernel, by decide +kernel, by decide +kernel, by decide +kernel, by decide +kernel, _,
      h 16 (by decide), by decide +kernel⟩

/-- Every core of die 0 but core 0 has no working bed. -/
def oneCore (s : State) : State :=
  onPkg (fun p => { p with cores := (List.range 127).map (fun k => (k + 1, { CoreSt.reset with retired := List.range 16 })) }) s

theorem test_meets_SafeptResults :
    let s := xs [(2, 0xFFFFFFF)] demo
    let t := onFront (fun f => { f with mreq := 1 }) s
    (s.cpu.inflight = [] ∧ s.getU 2 < 2 ^ 28 ∧ s.reservation = none ∧ s.cpu.front.mreq.getLsbD 0 = false)
      ∧ (t.chosenToGo = false ∧ (oneCore t).chosenToGo = false)
      ∧ (CanTrap s ∧ 2 ^ 28 ≤ (xs [(2, 0x10000000)] demo).getU 2)
      ∧ (t.cpu.inflight = [] ∧ t.cpu.front.mreq.getLsbD 0 = true ∧ t.cpu.front.estat.getLsbD 0 = false ∧ Quiet t ∧ MayMove t
        ∧ t.reservation = none ∧ (t.migrationTarget (t.gangHolds t.cpu.id.die)).isSome = true)
      ∧ (let u := oneCore t
         u.cpu.inflight = [] ∧ u.reservation = none ∧ u.migrationTarget (u.gangHolds u.cpu.id.die) = none)
      ∧ (∀ g ∈ demo.gang, demo.isNeeded g = false) := by
  unfold Quiet MayMove CanTrap; decide +kernel

/-- Two rows of five columns; v0 to v3 hold INT8, v4 to v11 and v16 to v19 FP32, v12 E8M0, v13 UINT8, v14 INT16. -/
def lanes5 : State :=
  tile 2 5 (onFront (fun f => { f with vtag := Vector.ofFn (fun k =>
    if k.val < 4 then tagInt8 else if k.val = 12 then tagE8m0 else if k.val = 13 then tagUint 8
    else if k.val = 14 then tagInt 16 else tagFp32) }) demo)

/-- In matrix mode a group may end with v19 (R86): what the statements on vector forms ask of registers is met there too. -/
theorem test_meets_matrixMode :
    let s := onFront (fun f => { f with mmode := true }) lanes5
    Begins s ∧ Fits s 16 s.cpu.front.rc (vtagOf s 16) ∧ SourceReady s 16 s.cpu.front.rc ∧ ¬Fits s 20 s.cpu.front.rc tagFp32
      ∧ Fits lanes5 24 s.cpu.front.rc tagFp32 := by
  unfold Begins SourceReady Fits lanesEnd vtagOf; decide +kernel

/-- Operands with destination, sources, mask and mod. -/
def vo (d a b : Reg) (m : Fin 8 := 0) (mod : Fin 4 := 0) : VOps := ⟨d, a, b, m, false, false, mod⟩

theorem test_meets_ElementwiseResults :
    [Instr.vadd (vo 3 0 1 7 1), .vsub (vo 16 4 8 1 2), .vmul (vo 16 4 8 1 3), .vmulh (vo 26 0 13), .vdiv (vo 0 0 1), .vmin (vo 3 0 1),
      .vmax (vo 3 0 1), .vsqrt (vo 24 4 0), .vaddX (vo 3 0 1), .vsubX (vo 3 0 1), .vrsubX (vo 3 0 1), .vmulX (vo 3 0 1),
      .vdivX (vo 3 0 1), .vrdivX (vo 3 0 1), .vminX (vo 3 0 1), .vmaxX (vo 3 0 31), .vmacc (vo 16 4 8), .vnmsac (vo 16 4 8),
      .vmadd (vo 16 4 8), .vnmsub (vo 16 4 8), .vmaccX (vo 16 4 8), .vnmsacX (vo 16 4 8), .vabs (vo 3 0 0), .vneg (vo 3 0 0),
      .vand (vo 3 0 1), .vor (vo 3 0 1), .vxor (vo 3 0 1), .vandX (vo 3 0 1), .vorX (vo 3 0 1), .vxorX (vo 3 0 1), .vsll (vo 3 0 1),
      .vsrl (vo 3 0 1), .vsra (vo 3 0 1), .vsllX (vo 3 0 1), .vsrlX (vo 3 0 1), .vsraX (vo 3 0 1), .vmerge (vo 3 0 1 1),
      .vmergeX (vo 3 0 1 1), .vmv (vo 3 0 0), .vsplat (vo 3 0 1), .vcvtH (vo 20 4 27), .vcvtD (vo 3 4 0), .vcvtQ4 (vo 3 4 12),
      .vcvtI (vo 20 4 0), .vcvtF (vo 20 0 0), .vcvtT (vo 20 4 0), .vunpk (vo 14 0 1), .vpack (vo 14 0 1), .vid (vo 14 0 1),
      .vclz (vo 14 0 0), .vcpop (vo 14 0 0), .vordk (vo 20 4 0), .vbrev (vo 3 0 0)].Forall (fun i =>
      ∃ o form kr, vecForm i = some (o, form) ∧ form.kr lanes5.cpu.front = .ok kr ∧ wellFormed i = true ∧ Begins lanes5 ∧ o.vd.val < 28
        ∧ FormFits lanes5 o form ∧ Fits lanes5 o.vd lanes5.cpu.front.rc kr ∧ (i = .vcvtH o → o.vb.val < 28)) := by
  simp only [List.Forall]
  and_intros <;> exact ⟨_, _, _, rfl, rfl, by decide, by unfold Begins; decide +kernel, by decide,
    by unfold FormFits Fits lanesEnd vtagOf; decide +kernel, by unfold Fits lanesEnd; decide +kernel, by decide +kernel⟩

theorem test_meets_CompareResults :
    [Instr.vseq (vo 14 0 1 7 2), .vsne (vo 3 4 8), .vslt (vo 3 4 8), .vsle (vo 3 4 8), .vsltX (vo 3 4 8 1 2), .vsgtX (vo 3 4 8),
      .vlbnd (vo 3 0 13), .vclass (vo 3 4 7 1 3)].Forall (fun i =>
      ∃ o form kr, cmpForms i = some (o, form) ∧ form.kr lanes5.cpu.front = .ok kr ∧ Begins lanes5 ∧ FormFits lanes5 o form
        ∧ (o.mod.val = 2 → o.vd.val ≠ 8 + o.pm.val)) := by
  simp only [List.Forall]
  and_intros <;> first
    | exact ⟨_, _, _, rfl, rfl, by unfold Begins; decide +kernel, by unfold FormFits Fits lanesEnd vtagOf; decide +kernel, by decide +kernel⟩

theorem test_meets_IntegerElements :
    [Instr.vadd (vo 3 0 1 0 1), .vsub (vo 3 0 1), .vmul (vo 3 0 1), .vmin (vo 3 0 1), .vmax (vo 3 0 1), .vdiv (vo 3 0 1)].Forall (fun i =>
      ∃ o op, intVec i = some (o, op) ∧ Begins lanes5 ∧ o.va.val < 28 ∧ o.vb.val < 28 ∧ o.vd.val < 28 ∧ tagIsInt (vtagOf lanes5 o.va) = true
        ∧ vtagOf lanes5 o.vb = vtagOf lanes5 o.va ∧ tagValid (vtagOf lanes5 o.va) = true
        ∧ Fits lanes5 o.va lanes5.cpu.front.rc (vtagOf lanes5 o.va) ∧ Fits lanes5 o.vb lanes5.cpu.front.rc (vtagOf lanes5 o.va)
        ∧ Fits lanes5 o.vd lanes5.cpu.front.rc (vtagOf lanes5 o.va)) := by
  simp only [List.Forall]
  and_intros <;> exact ⟨_, _, rfl, by unfold Begins Fits lanesEnd vtagOf; decide +kernel⟩

/-- `lanes5` with two rows of INT8 in lq0 and of FP32 in lq3. -/
def queued : State := rows 0 tagInt8 [[1, 2, 3, 4, 5], [6, 7, 8, 9, 255]] (rows 3 tagFp32 [[1, 2, 3, 4, 5], [6, 7, 8, 9, 0]] lanes5)

theorem test_meets_QueueOperands :
    [Instr.vadd (vo 30 28 28), .vmacc (vo 16 31 4), .vadd (vo 31 0 28), .vmv (vo 3 28 0), .vid (vo 31 0 1),
      .vseq (vo 2 31 4), .vslt (vo 2 28 28 1 2)].Forall (fun i =>
      ∃ o form kr, (vecForm i = some (o, form) ∨ cmpForms i = some (o, form)) ∧ form.kr queued.cpu.front = .ok kr ∧ wellFormed i = true
        ∧ Begins queued ∧ (∀ r ∈ formSources o form, SourceReady queued r queued.cpu.front.rc)
        ∧ (form.toMask = false → o.vd.val < 28 → Fits queued o.vd queued.cpu.front.rc kr)
        ∧ (form.toMask = false → 28 ≤ o.vd.val →
          queued.cpu.front.rc * rowBytes (queued.cpu.front.queueTag (o.vd.val - 26)) queued.cpu.front.vl ≤ queued.free (o.vd.val - 26))) := by
  simp only [List.Forall]
  and_intros <;> first
    | exact ⟨_, _, _, .inl rfl, rfl, by decide, by unfold Begins; decide +kernel,
        by unfold formSources SourceReady Fits lanesEnd vtagOf; decide +kernel, by unfold Fits lanesEnd; decide +kernel, by decide +kernel⟩
    | exact ⟨_, _, _, .inr rfl, rfl, by decide, by unfold Begins; decide +kernel,
        by unfold formSources SourceReady Fits lanesEnd vtagOf; decide +kernel, by unfold Fits lanesEnd; decide +kernel, by decide +kernel⟩

theorem test_meets_Rearrangements :
    ([Instr.vrgath (vo 3 28 0), .vslideup (vo 3 0 1), .vslidedn (vo 3 0 1), .vslide1up (vo 16 31 1), .vslide1dn (vo 3 0 1),
      .vcompr (vo 3 0 15), .vexpm (vo 3 28 0)].Forall (fun i => ∃ o val, permForm i queued = some (o, val) ∧ Begins queued ∧ o.vd.val < 28
        ∧ SourceReady queued o.va queued.cpu.front.rc ∧ tagValid (queued.cpu.front.srcTag o.va) = true
        ∧ (i = .vrgath o → SourceReady queued o.vb queued.cpu.front.rc ∧ tagIsInt (queued.cpu.front.srcTag o.vb) = true)
        ∧ Fits queued o.vd queued.cpu.front.rc (queued.cpu.front.srcTag o.va) ∧ queued.cpu.front.vl ≤ queued.vlmax))
    ∧ (let s := xs [(1, 3)] queued
       let o := vo 24 0 1
       Begins s ∧ o.vd.val < 28 ∧ SourceReady s o.va s.cpu.front.rc ∧ tagValid (s.cpu.front.srcTag o.va) = true ∧ 0 < s.getU o.vb
        ∧ s.getU o.vb ≤ s.vlmax ∧ s.vlmax ≤ 65536 ∧ s.cpu.front.vl ≤ s.vlmax
        ∧ 4 = (s.cpu.front.rc * s.cpu.front.vl + s.getU o.vb - 1) / s.getU o.vb ∧ 4 ≤ min 16 (128 / tagP (s.cpu.front.srcTag o.va))
        ∧ Fits s o.vd 4 (s.cpu.front.srcTag o.va)) := by
  refine ⟨?_, by unfold Begins SourceReady Fits lanesEnd vtagOf; decide +kernel⟩
  simp only [List.Forall]
  and_intros <;> exact ⟨_, _, rfl, by unfold Begins SourceReady Fits lanesEnd vtagOf; decide +kernel⟩

theorem test_meets_TablesAndRetags :
    (let o := vo 16 13 4
     Begins lanes5 ∧ o.va.val < 28 ∧ o.vb.val < 28 ∧ o.vd.val < 28 ∧ tagIsInt (vtagOf lanes5 o.va) = true
      ∧ tagE8 (vtagOf lanes5 o.vb) = false ∧ tagValid (vtagOf lanes5 o.vb) = true ∧ Fits lanes5 o.va lanes5.cpu.front.rc (vtagOf lanes5 o.va)
      ∧ Fits lanes5 o.vb (min lanes5.cpu.front.rc 1) (vtagOf lanes5 o.vb) ∧ Fits lanes5 o.vd lanes5.cpu.front.rc (vtagOf lanes5 o.vb))
    ∧ (let o := vo 27 1 13
       Begins lanes5 ∧ o.va.val < 28 ∧ o.vb.val < 28 ∧ o.vd.val < 28 ∧ tagValid (vtagOf lanes5 o.vb) = true
        ∧ Fits lanes5 o.va lanes5.cpu.front.rc (vtagOf lanes5 o.vb) ∧ Fits lanes5 o.vd lanes5.cpu.front.rc (vtagOf lanes5 o.vb)) := by
  unfold Begins Fits lanesEnd vtagOf; decide +kernel

theorem test_meets_RowReductions :
    ([Instr.vredsum (vo 16 31 4 0 2), .vredmax (vo 16 31 4), .vredmin (vo 3 28 0), .vredand (vo 3 28 0), .vredor (vo 3 28 0),
      .vredsc (vo 16 28 12 0 3)].Forall (fun i =>
      ∃ o sc ok g, redForm i = some (o, sc, ok, g) ∧ Begins queued ∧ o.vd.val < 28
        ∧ ok (queued.cpu.front.srcTag o.va) (queued.cpu.front.srcTag o.vb) (vtagOf queued o.vd) = true
        ∧ SourceReady queued o.va queued.cpu.front.rc ∧ SourceReady queued o.vb queued.cpu.front.rc
        ∧ Fits queued o.vd queued.cpu.front.rc (vtagOf queued o.vd) ∧ tagValid (vtagOf queued o.vd) = true))
    ∧ (let o := vo 16 31 4
       Begins queued ∧ o.vd.val < 28
        ∧ sumTags (queued.cpu.front.srcTag o.va) (queued.cpu.front.srcTag o.vb) (vtagOf queued o.vd) = true
        ∧ SourceReady queued o.va queued.cpu.front.rc ∧ tagValid (vtagOf queued o.vd) = true
        ∧ SourceReady queued o.vb queued.cpu.front.rc ∧ Fits queued o.vd queued.cpu.front.rc (vtagOf queued o.vd)
        ∧ SourceReady queued o.vb (min queued.cpu.front.rc 1) ∧ Fits queued o.vd (min queued.cpu.front.rc 1) (vtagOf queued o.vd)) := by
  refine ⟨?_, by unfold Begins SourceReady Fits lanesEnd vtagOf; decide +kernel⟩
  simp only [List.Forall]
  and_intros <;> exact ⟨_, _, _, _, rfl, by unfold Begins SourceReady Fits lanesEnd vtagOf; decide +kernel⟩

theorem test_meets_IntegerReductions :
    [Instr.vredsum (vo 3 0 1 0 1), .vredmax (vo 3 0 1), .vredmin (vo 3 0 1), .vscan (vo 3 0 1 0 1), .vredcol (vo 3 0 1 0 1)].Forall (fun i =>
      ∃ o rows n val, intReduction i lanes5 = some (o, rows, n, val) ∧ Begins lanes5 ∧ o.va.val < 28 ∧ o.vb.val < 28 ∧ o.vd.val < 28
        ∧ tagIsInt (vtagOf lanes5 o.va) = true ∧ tagIsInt (vtagOf lanes5 o.vd) = true ∧ vtagOf lanes5 o.vb = vtagOf lanes5 o.vd
        ∧ tagValid (vtagOf lanes5 o.va) = true ∧ tagValid (vtagOf lanes5 o.vd) = true
        ∧ (o.mod.val = 1 → i = .vredsum o ∨ i = .vscan o ∨ i = .vredcol o)
        ∧ Fits lanes5 o.va lanes5.cpu.front.rc (vtagOf lanes5 o.va) ∧ Fits lanes5 o.vb rows (vtagOf lanes5 o.vd)
        ∧ Fits lanes5 o.vd rows (vtagOf lanes5 o.vd)) := by
  simp only [List.Forall]
  and_intros <;> exact ⟨_, _, _, _, rfl, by unfold Begins Fits lanesEnd vtagOf; decide +kernel⟩

theorem test_meets_MaskResults :
    Begins lanes5 ∧ [Instr.mand (vo 15 0 15 7 3), .mor (vo 1 2 3), .mxor (vo 1 2 3), .mandn (vo 1 2 3), .mnot (vo 1 2 0),
      .mseti (vo 1 1 0)].all (fun i => (maskFn i).isSome && wellFormed i) = true := by
  unfold Begins; decide +kernel

theorem test_meets_LanesToScalarsAndBack :
    (let o := vo 1 28 2
     Begins queued ∧ queued.cpu.front.mmode = false ∧ SourceReady queued o.va queued.cpu.front.rc ∧ queued.cpu.front.vl ≤ queued.vlmax)
    ∧ (let o := vo 24 1 2 0 1
       queued.cpu.front.mmode = false ∧ o.vd.val < 28 ∧ tagValid (vtagOf queued o.vd) = true
        ∧ Fits queued o.vd queued.cpu.front.rc (vtagOf queued o.vd))
    ∧ (queued.cpu.inflight = [] ∧ (vo 1 5 0).va.val < 6 ∧ queued.fill 5 ≤ queued.qcap ∧ queued.fill 0 ≤ queued.qcap)
    ∧ (let s := xs [(1, 2)] (onFront (fun f => { f with instret := 1 }) queued)
       Begins s ∧ (vo 0 0 1).va.val < 4 ∧ s.getU 1 ≤ (s.cpu.back.queue 0).rows.length
        ∧ ∀ r ∈ (s.cpu.back.queue 0).rows, r.by_ < s.cpu.front.instret.toNat) := by
  unfold Begins SourceReady Fits lanesEnd vtagOf; decide +kernel

theorem some_getD {α : Type} (d : α) {o : Option α} (h : o.isSome = true) : o = some (o.getD d) := by
  cases o with
  | none => cases h
  | some a => rfl

theorem each_elem {f : Nat → Nat → Option Nat} {n m : Nat} (h : ∀ r, r < n → ∀ c, c < m → (f r c).isSome = true) :
    ∃ val : Nat → Nat → Nat, ∀ r c, r < n → c < m → f r c = some (val r c) :=
  ⟨fun r c => (f r c).getD 0, fun r c hr hc => some_getD 0 (h r hr c hc)⟩

/-- One row of two columns, eight bytes at 0x20000 and one at the end of the window's populated part; lq0, sq0 and sq1 hold INT8,
the stores' rows two elements each. -/
def twoElems : State :=
  rows 4 tagInt8 [[1, 2], [3, 4]] (rows 5 tagInt8 [[0, 1]] (tile 1 2 (xs [(1, 0x20000), (2, 1), (3, 0x77), (4, 0xEE6B27FFF), (5, 4094)]
    (poke 0xEE6B27FFF 1 9 (poke 0x20000 8 0x0807060504030201 demo)))))

/-- Operands of an access form. -/
def vm (a b : Reg) (q : Fin 4 := 0) (sub : Fin 8 := 0) (imm : BitVec 7 := 0) : VMOps := ⟨imm, b, a, sub, q⟩

theorem test_meets_PlainLoadsDeliver :
    ([Instr.vldU (vm 1 0 3 0), .vldU (vm 1 0 0 3), .vldS (vm 1 2), .vldX (vm 1 0), .vldXO (vm 1 0 1 2)].Forall (fun i =>
      ∃ o, plainLoads i = some o ∧ wellFormed i = true ∧ MayDeliver twoElems o.q.val twoElems.cpu.front.rc twoElems.cpu.front.vl
        ∧ FormTags i twoElems o.q.val o
        ∧ ∃ val : Nat → Nat → Nat, ∀ r c, r < twoElems.cpu.front.rc → c < twoElems.cpu.front.vl → loadedElem i twoElems o r c = some (val r c)))
    ∧ (let s := twoElems
       let o := vm 1 3 0 1
       MayDeliver s o.q.val (s.cpu.front.rc * (o.sub.val + 1)) s.cpu.front.vl ∧ tagIsInt (s.cpu.front.queueTag o.q.val) = true
        ∧ tagValid (s.cpu.front.queueTag o.q.val) = true ∧ recordWidth s o % 8 = 0
        ∧ ∀ r, r < s.cpu.front.rc → ∀ c, c < s.cpu.front.vl →
          (memoryAt s ((List.range (recordWidth s o / 8)).map (fun n => (recordAt s o r c + n) % 2 ^ 64))).isSome = true) := by
  refine ⟨?_, by unfold MayDeliver; decide +kernel⟩
  simp only [List.Forall]
  and_intros <;> exact ⟨_, rfl, by decide, by unfold MayDeliver; decide +kernel, by unfold FormTags; decide +kernel,
    each_elem (by decide +kernel)⟩

/-- Bytes in rising order at `a`, behind everything that `demo` lists. -/
def image (a : Nat) (l : List Byte) (s : State) : State := { s with mem := demo.mem ++ cells a l }

/-- A compressed stream at 0x40000: one chunk of INT8 whose last element is 5. -/
def streamed : State :=
  tile 1 2 (xs [(1, 0x40000), (2, 4094)] (image 0x40000
    (leBytes 8 (0x71 + 2 ^ 8 + 8 * 2 ^ 21) ++ List.replicate 511 0 ++ [0x80] ++ leBytes 8 5) demo))

/-- A stream's bitmap with its last bit set. -/
def lastBit : List Byte := List.replicate 511 0 ++ [0x80]

theorem lastBit_length : lastBit.length = 512 := by simp only [lastBit, List.length_append, List.length_replicate, List.length_singleton]

theorem streamed_byte (k : Nat) (hk : k < 512) : streamed.physByte 0 (0x40008 + k) = lastBit.getD k 0 := by
  have h1 : 0x40008 + k < 12 * gib64 := by unfold gib64; omega
  have h2 : (0x40008 + k) % gib64 < 64000000000 := by unfold gib64; omega
  have hr : regionOf (0x40008 + k) = .hbm := by simp [regionOf, h1, h2]
  have h3 : (0x40008 + k) / pkgSpan = 0 := by unfold pkgSpan; omega
  have hm : (0x40008 + k) % pkgSpan = 0x40008 + k := by unfold pkgSpan; omega
  have h0 : streamed.ownPkg = 0 := by decide +kernel
  have hd : ∀ e ∈ demo.mem, e.1 < 0x40000 := by decide +kernel
  have h8 : (leBytes 8 (0x71 + 2 ^ 8 + 8 * 2 ^ 21)).length = 8 := by decide
  have hs : streamed.mem = demo.mem ++ cells 0x40000 (leBytes 8 (0x71 + 2 ^ 8 + 8 * 2 ^ 21) ++ (lastBit ++ leBytes 8 5)) := rfl
  have hc : mfind streamed.mem (0x40008 + k) = some (lastBit.getD k 0) := by
    rw [hs, show 0x40008 + k = 0x40000 + (8 + k) by omega, mfind_cells _ _ _ _ hd, List.getElem?_append_right (by omega), h8,
      Nat.add_sub_cancel_left, List.getElem?_append_left (by rw [lastBit_length]; exact hk), List.getD_eq_getElem?_getD,
      List.getElem?_eq_getElem (by rw [lastBit_length]; exact hk), Option.getD_some]
  simp [State.physByte, State.isLocal, h3, h0, hm, State.localByte, State.regionAt, hr, readCell, hc]

theorem streamed_bits : streamed.vecBytes 0x40008 512 = .ok (lastBit, vaRange 0x40008 512) := by
  have hp : streamed.accessBytes streamed.cpu.ctx .load false (vaRange 0x40008 512) = .ok (vaRange 0x40008 512) := by decide +kernel
  have ho : streamed.openStrip = [] := by decide +kernel
  have hd : streamed.cpu.id.die = 0 := by decide +kernel
  have he : (vaRange 0x40008 512).mapIdx (fun _ pa => streamed.physByte 0 pa) = lastBit := by
    refine List.ext_getElem (by simp [vaRange, lastBit_length]) fun k h1 h2 => ?_
    have hk : k < 512 := by rwa [lastBit_length] at h2
    have hm : (0x40008 + k) % 2 ^ 64 = 0x40008 + k := by omega
    simp only [List.getElem_mapIdx, vaRange, List.getElem_map, List.getElem_range, hm, streamed_byte k hk]
    rw [List.getD_eq_getElem?_getD, List.getElem?_eq_getElem h2, Option.getD_some]
  simp only [State.vecBytes, hp, State.readElement, ho, hd, List.isEmpty_nil, if_true, List.map_cons, List.map_nil, List.headD_cons, he]

/-- The bits of bitmap bytes. -/
def flagsOf (l : List Byte) : List Bool := l.flatMap (fun b => natBits 8 b.toNat)

theorem chunk_bits {s : State} {c : Chunk} {l : List Byte} {r : List Nat} (hv : s.vecBytes (c.addr + 8) 512 = .ok (l, r))
    (hn : ((flagsOf l).filter id).length = c.nnz) : s.chunkBits c = .ok ({ c with pas := r ++ c.pas }, flagsOf l) := by
  unfold flagsOf at hn
  unfold State.chunkBits
  rw [hv]
  simp only [hn, bne_self_eq_false, Bool.false_eq_true, if_false, flagsOf]

/-- The stream's chunk, with what has been read of it. -/
def streamChunk (pas : List Nat) : Chunk := ⟨0x40000, 8, 1, 0x71, pas⟩

theorem streamed_chunk : streamed.chunkAt 0x40000 none 0
    = .ok (streamChunk (vaRange 0x40008 512 ++ vaRange 0x40000 8), flagsOf lastBit) := by
  have hs : streamed.scout 0 0x40000 [] = .ok (streamChunk (vaRange 0x40000 8)) := by decide +kernel
  have hb := chunk_bits (c := streamChunk (vaRange 0x40000 8)) streamed_bits (by decide +kernel)
  simp only [State.chunkAt, hs]
  exact hb

/-- The last two elements of a chunk of which only the very last is not 0. -/
theorem last_row {s : State} {a pa : Nat} {c : Chunk} {bits : List Bool} (h : s.chunkAt a none 0 = .ok (c, bits)) (ha : c.addr = a)
    (ht : c.tag = tagInt8) (h0 : bits.getD 4094 false = false) (h1 : bits.getD 4095 false = true)
    (hn : ((bits.take 4095).filter id).length = 0)
    (hp : s.accessBytes s.cpu.ctx .load false (bitRange (a + 520) (0 * 8) 8) = .ok [pa])
    (hv : memConvert s.cpu.front.rm tagInt8 tagInt8 (leNat (s.readElement s.openStrip none (64 * 4095)
      (if atomicElem 8 (bitRange (a + 520) (0 * 8) 8) then [(0, 8 / 8)] else []) [pa]).1 / 2 ^ (0 * 8 % 8) % 2 ^ 8) = 5) :
    ∃ pas, s.readStream tagInt8 a none 2 4094 = ⟨[[0], [5]], none, pas, []⟩ := by
  have hk : s.chunkAt a (some (0, c, bits)) 0 = .ok (c, bits) := by simp [State.chunkAt]
  have hw : tagW tagInt8 = 8 := by decide
  refine ⟨c.pas ++ [pa], ?_⟩
  simp only [State.readStream, show 4094 / 4096 = 0 from rfl, show 4094 % 4096 = 4094 from rfl, show (4094 + 1) % 4096 = 4095 from rfl,
    show 4094 + 1 = 4095 from rfl, h, hk, h0, h1, hn, ha, ht, hw, hp, hv, Bool.not_true, Bool.not_false, if_true, Bool.false_eq_true,
    if_false, Option.any_some, Option.any_none, decide_true, List.nil_append, List.append_nil]

theorem streamed_row : ∃ pas, streamed.readStream tagInt8 0x40000 none 2 4094 = ⟨[[0], [5]], none, pas, []⟩ :=
  last_row (pa := 0x40208) streamed_chunk rfl rfl (by decide +kernel) (by decide +kernel) (by decide +kernel) (by decide +kernel)
    (by decide +kernel)

/-- A forest at 0x40000 in a sealed vitrine (R334, R335): one tree, x < 2 goes to a leaf of 10, else to one of 20; the samples 1
and 2 at 0x20000. -/
def forested : State :=
  rows 0 (tagInt 32) [] (tile 1 2 (xs [(1, 0x40000)] (onPkg (fun p => { p with vitrines := [(3, ⟨2, 0, 1, 77, 0, 0⟩)] })
    { demo with mem := demo.mem ++ ([(0x20000, 1), (0x20001, 2)] ++ cells 0x40000 (leBytes 128 0x140000000400000000000000000000000a00000004000000020000000100000002000000000000000000000000000000000000000000000000000000800000005000000040000000000000000300000000000200000000000100000001000007010000000100000304040101800000000146525331)) })))

theorem test_meets_OtherLoadsDeliver_stream :
    let s := streamed
    let o := vm 1 2
    MayDeliver s o.q.val s.cpu.front.rc s.cpu.front.vl ∧ s.getU o.xb < 4096
      ∧ (∃ val : Nat → Nat → Nat, ∀ r, r < s.cpu.front.rc → ∃ pas, s.readStream (s.cpu.front.queueTag o.q.val) (s.vmBase o) none
          s.cpu.front.vl (s.getU o.xb + r * s.cpu.front.vl) = ⟨(List.range s.cpu.front.vl).map (fun c => [val r c]), none, pas, []⟩)
      ∧ 4096 ≤ s.getU o.xb + s.cpu.front.rc * s.cpu.front.vl
      ∧ ∃ c, s.scout ((s.getU o.xb + s.cpu.front.rc * s.cpu.front.vl) / 4096 - 1) (s.vmBase o) [] = .ok c := by
  intro s o
  have hr : s.cpu.front.rc = 1 := by decide +kernel
  have hl : s.cpu.front.vl = 2 := by decide +kernel
  have ht : s.cpu.front.queueTag o.q.val = tagInt8 := by decide +kernel
  have ha : s.vmBase o = 0x40000 := by decide +kernel
  have hb : s.getU o.xb = 4094 := by decide +kernel
  refine ⟨by unfold MayDeliver; decide +kernel, by decide +kernel, ⟨fun _ c => 5 * c, fun r h => ?_⟩, by decide +kernel,
    exists_ok (by decide +kernel)⟩
  obtain rfl : r = 0 := by omega
  rw [hl, ht, ha, hb]
  exact streamed_row

/-- A tile that can be read whole (x1), and one whose second element lies beyond the populated part (x4). -/
theorem test_meets_OtherLoadsDeliver_first :
    let s := twoElems
    MayDeliver s 0 s.cpu.front.rc s.cpu.front.vl ∧ s.cpu.due = none ∧ tagValid (s.cpu.front.queueTag 0) = true
      ∧ ¬(tagE8 (s.cpu.front.queueTag 0) = true ∧ (vm 1 0).sub.val ≠ 0)
      ∧ (∀ k, k < s.cpu.front.rc * s.cpu.front.vl → (memoryAt s (firstBytes s (vm 1 0) k)).isSome = true)
      ∧ (0 < 1 ∧ 1 < s.cpu.front.rc * s.cpu.front.vl
        ∧ (∃ e, s.accessBytes s.cpu.ctx .load false (firstBytes s (vm 4 0) 1) = .error e ∧ e.cause = .loadFault)
        ∧ ∀ k, k < 1 → (memoryAt s (firstBytes s (vm 4 0) k)).isSome = true)
      ∧ (let o := vm 4 0
         ∃ val : Nat → Nat, ∀ k l, memoryAt s (firstBytes s o k) = some l →
          let t := s.cpu.front.queueTag o.q.val
          let wm := memWidth s o.q.val (memTag o.sub.val)
          let p := leNat l / 2 ^ (k * wm % 8) % 2 ^ wm
          val k = match memTag o.sub.val with
            | none => p % 2 ^ tagW t
            | some m => (convWrite t s.cpu.front.rmode.toNat true (tagIsInt m) (tval m p)).1) := by
  intro s
  refine ⟨by unfold MayDeliver; decide +kernel, rfl, by decide +kernel, by decide +kernel, by decide +kernel, ⟨by decide, by decide +kernel,
    ⟨⟨.loadFault, 0, 0, 0xEE6B28000⟩, by decide +kernel, rfl⟩, by decide +kernel⟩,
    fun k => match memoryAt s (firstBytes s (vm 4 0) k) with
      | none => 0
      | some l => leNat l / 2 ^ (k * memWidth s 0 none % 8) % 2 ^ memWidth s 0 none % 2 ^ tagW (s.cpu.front.queueTag 0), ?_⟩
  intro k l h
  simp only [h]
  rfl

/-- The number that describes the forest, and what it describes. -/
def forestNumber : Nat := (forested.forest 0x40000).toOption.getD 0
def forestRead : Forest := (forestNoted 0x40000 forestNumber).getD ⟨0, 0, 0, 0, 0, 0, 0, 0, 0, 0, 0, 0, 0, 0⟩

theorem test_meets_OtherLoadsDeliver_trees :
    let s := forested
    let o := vm 1 0
    s.cpu.due = none ∧ MayDeliver s o.q.val (3 * s.cpu.front.rc) s.cpu.front.vl
      ∧ (s.cpu.front.queueTag o.q.val = tagInt 32 ∨ s.cpu.front.queueTag o.q.val = tagUint 32) ∧ s.forest (s.vmBase o) = .ok forestNumber
      ∧ forestNoted (s.vmBase o) forestNumber = some forestRead ∧ forestRead.dlow = 77
      ∧ ∃ val : Nat → Nat → List Nat, ∀ r, r < s.cpu.front.rc → s.samples forestRead s.cpu.front.vl (s.getU o.xb + r * s.cpu.front.vl)
          = ⟨(List.range s.cpu.front.vl).map (val r), none, [], []⟩ := by
  intro s o
  exact ⟨rfl, by unfold MayDeliver; decide +kernel, by decide +kernel, by decide +kernel, by decide +kernel, by decide +kernel,
    fun _ c => ((s.samples forestRead 2 0).cols).getD c [], by decide +kernel⟩

/-- The last bytes of the scratchpad. -/
theorem test_meets_OtherLoadsDeliver_pad :
    let s := xs [(1, 1048575), (2, 1)] demo
    let o : MldqOps := ⟨0, 1, 2, 0, 1, 1, 1, 0⟩
    MayDeliver s o.q.val (o.k.val * o.t.val) o.n.val ∧ Quiet s
      ∧ (tagP (s.cpu.front.queueTag o.q.val) < 8 → (BitVec.ofNat 32 (s.getU o.b)).toInt = 1)
      ∧ ∀ u i, u < o.k.val * o.t.val → i < o.n.val → ∀ a ∈ (scratchAt s o u i).1, 0 ≤ a ∧ a < (s.spadSize : Int) := by
  intro s o
  exact ⟨by unfold MayDeliver; decide +kernel, by unfold Quiet; decide +kernel, by decide +kernel, fun u i hu hi =>
    (by decide +kernel : ∀ u, u < o.k.val * o.t.val → ∀ i, i < o.n.val → ∀ a ∈ (scratchAt s o u i).1, 0 ≤ a ∧ a < (s.spadSize : Int)) u hu i hi⟩

/-- Bytes of the first window that a store to `demo`'s memory reaches. -/
theorem demo_access (u : State) (e : SMap L2Line) (hp : u.pkg = { demo.pkg with l2 := e }) (va : Nat) (h : va < 60000000000) :
    u.accessBytes demo.cpu.ctx .store false [va] = .ok [va] := by
  have hl : u.isLocal va = true := by
    simp only [State.isLocal, State.ownPkg, hp, decide_eq_true_eq]
    show va / pkgSpan = 0
    unfold pkgSpan; omega
  have hm : va % pkgSpan = va := by unfold pkgSpan; omega
  have hr : u.regionAt va = .hbm := by
    have : regionOf va = .hbm := by
      unfold regionOf gib64; rw [if_pos (by omega), if_pos (by omega)]
    simp [State.regionAt, this]
  have ht : u.translate demo.cpu.ctx .store va = .ok va := by
    have hf : u.pkg.tlb.find? (fun t => t.asid = demo.cpu.ctx.root % 4096 && t.base ≤ va && va < t.base + t.size)
        = some ⟨0, 0, 68719476736, 0x73⟩ := by
      rw [hp]
      show List.find? _ [(⟨0, 0, 68719476736, 0x73⟩ : TlbEnt)] = _
      rw [List.find?_cons_of_pos]
      have : (0 : Nat) = demo.cpu.ctx.root % 4096 := by decide +kernel
      simp [← this]; omega
    have hlf : u.leafFor demo.cpu.ctx .store va = .ok (0x73, 1) := by
      unfold State.leafFor; rw [hf]; simp [leafSpan]
    unfold State.translate
    rw [if_neg (by omega), hlf]
    have : leafAllows 0x73 demo.cpu.ctx .store = true := by decide +kernel
    simp only [this, if_true]
    show Except.ok (0x73 / 4096 * 4096 + va % leafSpan 1) = _
    have : va % leafSpan 1 = va := by unfold leafSpan; omega
    rw [this]; simp
  have hc : u.refusePhys demo.cpu.ctx.die .store false va va = none ∧ u.badPhys .store va = none := by
    have h1 : u.inAccession va = false := by
      have a0 : demo.pkg.parts = Vector.replicate 16 Part.reset := by decide +kernel
      unfold State.inAccession; rw [hp, a0]; simp [Part.reset]
    have h2 : u.vitrineAt va = none := by unfold State.vitrineAt; rw [hp]; rfl
    have h3 : u.fenced va = false := by
      unfold State.fenced State.fencedWhole; rw [hp]
      have a1 : demo.pkg.fences = [] := by decide +kernel
      have a2 : demo.pkg.cxlDown = [] := by decide +kernel
      have a3 : demo.pkg.closed = [] := by decide +kernel
      rw [a1, a2, a3]; simp
    unfold State.refusePhys State.badPhys
    simp only [hl, hm, hr, h1, h2, h3]
    simp
  simp only [State.accessBytes, State.admitBytes, ht, hc.1, List.findSome?_cons, hc.2, List.findSome?_nil]

theorem demo_key (s : State) (e : SMap L2Line) (hp : s.pkg = { demo.pkg with l2 := e }) (va : Nat) (h : va < 60000000000) : s.key va = va ∧ s.isReg va = false := by
  have hl : s.isLocal va = true := by
    simp only [State.isLocal, State.ownPkg, hp, decide_eq_true_eq]
    show va / pkgSpan = 0
    unfold pkgSpan; omega
  have hm : va % pkgSpan = va := by unfold pkgSpan; omega
  have hr : regionOf va = .hbm := by unfold regionOf gib64; rw [if_pos (by omega), if_pos (by omega)]
  exact ⟨by simp [State.key, hl, hm], by simp [State.isReg, hm, hr, Region.isMem]⟩

/-- Whole bytes side by side can be stored. -/
theorem storable_bytes (s : State) (e : SMap L2Line) (hp : s.pkg = { demo.pkg with l2 := e }) (hi : s.cpu.ctx = demo.cpu.ctx) (base : Nat) (l : List Piece)
    (hl : ∀ (k : Nat) (p : Piece), l[k]? = some p → p.vas = [base + k] ∧ p.lo = 0 ∧ p.n = 8) (hb : base + l.length ≤ 60000000000) :
    Storable s l := by
  have hm : ∀ p ∈ l, ∃ k, k < l.length ∧ p.vas = [base + k] ∧ p.lo = 0 ∧ p.n = 8 := fun p hp => by
    obtain ⟨k, hk, rfl⟩ := List.getElem_of_mem hp
    exact ⟨k, hk, hl k _ (List.getElem?_eq_getElem hk)⟩
  have cov : ∀ (k : Nat) (p : Piece) (a b j : Nat), l[k]? = some p → p.covers s a b j → a = base + k ∧ b = j := by
    intro k p a b j hk hc
    obtain ⟨h1, h2, h3⟩ := hl k p hk
    have hkl : k < l.length := (List.getElem?_eq_some_iff.1 hk).1
    obtain ⟨hj, hb', pas, pa, hpas, hpa, -, ha⟩ := hc
    rw [h1, hi, demo_access s e hp _ (by omega)] at hpas
    obtain rfl := Except.ok.inj hpas
    rw [h2] at hpa hb'
    rw [h3] at hj
    have : (0 + j) / 8 = 0 := by omega
    rw [this, List.getElem?_cons_zero, Option.some.injEq] at hpa
    rw [← hpa, (demo_key s e hp (base + k) (by omega)).1] at ha
    exact ⟨ha.symm, by omega⟩
  refine ⟨fun p hpm => ?_, fun i k p r a b j h h1 h2 hc1 hc2 => ?_, fun m f k os e' n _ p hpm => ?_⟩
  · obtain ⟨k, hk, hv, -, -⟩ := hm p hpm
    refine ⟨[base + k], by rw [hv, hi, demo_access s e hp _ (by omega)], by rw [hv], fun pa h => ?_⟩
    obtain rfl := List.mem_singleton.1 h
    exact (demo_key s e hp _ (by omega)).2
  · obtain ⟨x1, y1⟩ := cov i p a b j h1 hc1
    obtain ⟨x2, y2⟩ := cov k r a b h h2 hc2
    omega
  · obtain ⟨k', hk, hv, -, -⟩ := hm p hpm
    rw [hv, hi, demo_access s e hp _ (by omega)]
    exact demo_access { s with mem := m, cpu := { s.cpu with front := f, back := k }, others := os, pkg := { s.pkg with l2 := e' }, tick := n }
      e' (by rw [hp]) (base + k') (by omega)

/-- What the pieces of a store from `twoElems` begin at, when they are whole bytes in a row from 0x20000. -/
theorem bytes_at (s : State) (e : SMap L2Line) (hp : s.pkg = { demo.pkg with l2 := e }) (hi : s.cpu.ctx = demo.cpu.ctx) (l : List Piece) (n : Nat) (hn : n ≤ 1000)
    (h : l.map (fun p => (p.vas, p.lo, p.n)) = (List.range n).map (fun k => ([0x20000 + k], 0, 8))) : Storable s l := by
  have hlen : l.length = n := by simpa using congrArg List.length h
  refine storable_bytes s e hp hi 0x20000 l (fun k p hk => ?_) (by omega)
  have h1 := congrArg (fun x => x[k]?) h
  have hk' : k < n := hlen ▸ (List.getElem?_eq_some_iff.1 hk).1
  simp only [List.getElem?_map, hk, Option.map_some, List.getElem?_range hk', Option.some.injEq, Prod.mk.injEq] at h1
  exact h1

theorem test_meets_VectorStores_plain :
    [Instr.vstU (vm 1 0), .vstU (vm 1 0 0 2), .vstS (vm 1 2), .vstX (vm 1 0), .vstXO (vm 1 0)].Forall (fun i =>
      ∃ o, plainStores i = some o ∧ wellFormed i = true ∧ MayStore twoElems (4 + o.q.val) ∧ FormTags i twoElems (4 + o.q.val) o
        ∧ twoElems.cpu.front.rc ≤ (rowsOf twoElems (4 + o.q.val)).length
        ∧ Storable twoElems ((List.range twoElems.cpu.front.rc).flatMap (fun r =>
            (List.range twoElems.cpu.front.vl).map (storedPiece i twoElems o r)))) := by
  have hp : twoElems.pkg = { demo.pkg with l2 := [] } := by decide +kernel
  have hi : twoElems.cpu.ctx = demo.cpu.ctx := by decide +kernel
  simp only [List.Forall]
  and_intros <;> exact ⟨_, rfl, by decide, by unfold MayStore; decide +kernel, by unfold FormTags; decide +kernel, by decide +kernel,
    bytes_at _ _ hp hi _ 2 (by omega) (by decide +kernel)⟩

theorem test_meets_VectorStores_records :
    let s := tile 1 1 (xs [(3, 0x77)] twoElems)
    let o := vm 1 3 0 1
    o.q.val < 2 ∧ MayStore s (4 + o.q.val) ∧ tagIsInt (s.cpu.front.queueTag (4 + o.q.val)) = true ∧ recordWidth s o % 8 = 0
      ∧ s.cpu.front.rc * (o.sub.val + 1) ≤ (rowsOf s (4 + o.q.val)).length
      ∧ (∀ r, r < s.cpu.front.rc → ∀ c, c < s.cpu.front.vl → isOk (s.accessBytes s.cpu.ctx .store false
        ((List.range (recordWidth s o / 8)).map (fun n => (recordAt s o r c + n) % 2 ^ 64))) = true)
      ∧ Storable s ((List.range s.cpu.front.rc).flatMap (fun r => (List.range (o.sub.val + 1)).flatMap (fun k =>
        (List.range s.cpu.front.vl).map (fun c => recordPiece s o r c k)))) := by
  intro s o
  have hp : s.pkg = { demo.pkg with l2 := [] } := by decide +kernel
  have hi : s.cpu.ctx = demo.cpu.ctx := by decide +kernel
  exact ⟨by decide, by unfold MayStore; decide +kernel, by decide +kernel, by decide +kernel, by decide +kernel, by decide +kernel,
    bytes_at _ _ hp hi _ 2 (by omega) (by decide +kernel)⟩

theorem test_meets_VectorStores_stream :
    let s := twoElems
    let o := vm 1 0
    o.q.val < 2 ∧ MayStore s (4 + o.q.val) ∧ streamTag (s.cpu.front.queueTag (4 + o.q.val)) = true
      ∧ s.cpu.front.rc ≤ (rowsOf s (4 + o.q.val)).length
      ∧ Storable s ((streamBytes s o).mapIdx (fun n b => ⟨[(s.vmBase o + n) % 2 ^ 64], 0, 8, b.toNat⟩)) := by
  intro s o
  have hp : s.pkg = { demo.pkg with l2 := [] } := by decide +kernel
  have hi : s.cpu.ctx = demo.cpu.ctx := by decide +kernel
  have hl : (streamBytes s o).length = 528 := by decide +kernel
  have ha : s.vmBase o = 0x20000 := by decide +kernel
  refine ⟨by decide, by unfold MayStore; decide +kernel, by decide +kernel, by decide +kernel, ?_⟩
  refine storable_bytes s _ hp hi 0x20000 _ (fun k p hk => ?_) (by rw [List.length_mapIdx]; omega)
  have hk' : k < 528 := by
    have := (List.getElem?_eq_some_iff.1 hk).1
    rw [List.length_mapIdx] at this; omega
  rw [List.getElem?_mapIdx] at hk
  obtain ⟨b, -, rfl⟩ := Option.map_eq_some_iff.1 hk
  exact ⟨by rw [ha]; simp only [List.cons.injEq, and_true]; omega, rfl, rfl⟩

/-- Doublewords in memory at 0x40000. -/
def words (l : List Nat) (s : State) : State :=
  { s with mem := demo.mem ++ cells 0x40000 (l.flatMap (leBytes 8)) }

/-- A box of 4 × 2 bytes at the end of the scratchpad. -/
def boxDesc : List Nat := [0x50000, 16 + 8 * 2 ^ 32, 4 + 2 * 2 ^ 32, 0, 100 + 100 * 2 ^ 32, 0, 0, 0]

def boxed : State := xs [(1, 0x40000), (2, 7 + (1048576 - 12) * 2 ^ 32)] (words boxDesc demo)

/-- Rows of 4 bytes by two indices. -/
def indexedBox : State :=
  rows 5 (tagInt 32) [[3, 4294967295]] (tile 1 2 (xs [(1, 0x40000), (2, 0)]
    (words [0x50000, 16 + 8 * 2 ^ 32, 4 + 2 ^ 32, 0, 100 + 100 * 2 ^ 32, 0, 0, 0] demo)))

theorem test_meets_BoxCopiesFork_boxes :
    (let s := boxed
     boxForm (.cpyG 3 1 2) = some (0, 3, 1, 2) ∧ boxForm (.cpyP 3 1 2) = some (1, 3, 1, 2) ∧ s.cpu.inflight = [] ∧ s.inDup = false
      ∧ descriptorAt s 1 = some boxDesc ∧ BoxOk 0 boxDesc 2 ∧ BoxOk 1 boxDesc 2 ∧ s.getU 2 / 8 % 2 ^ 29 = 0 ∧ BoxFits s boxDesc 2 2
      ∧ ∀ k, k < 8 → (chanOf s k).error = false)
    ∧ (let s := indexedBox
       s.cpu.inflight = [] ∧ s.inDup = false ∧ tagIsInt (s.cpu.front.queueTag 5) = true
        ∧ (∃ w, descriptorAt s 1 = some w ∧ BoxOk 3 w 1 ∧ BoxFits s w 2 s.cpu.front.vl) ∧ s.getU 2 / 8 % 2 ^ 29 = 0
        ∧ (chanOf s (s.getU 2 % 8)).error = false ∧ (chanOf s (s.getU 2 % 8)).nops ≠ 15 ∧ s.cpu.front.vl ≠ 0
        ∧ (∃ row rest, rowsOf s 5 = row :: rest) ∧ outOf (chanOf s (s.getU 2 % 8)) = 0
        ∧ (tile 1 0 s).cpu.front.vl = 0) := by
  refine ⟨by unfold BoxOk BoxFits; decide +kernel, rfl, by decide +kernel, by decide +kernel,
    ⟨[0x50000, 16 + 8 * 2 ^ 32, 4 + 2 ^ 32, 0, 100 + 100 * 2 ^ 32, 0, 0, 0], by decide +kernel, by unfold BoxOk; decide +kernel,
      by unfold BoxFits; decide +kernel⟩, by decide +kernel, by decide +kernel, by decide +kernel, by decide +kernel,
    ⟨[3, 4294967295], [], by decide +kernel⟩, by decide +kernel, by decide +kernel⟩

/-- A misaligned descriptor, a reserved bit beside the channel, a descriptor that breaks a limit, and a box that ends one byte beyond
the scratchpad. -/
theorem test_meets_BoxCopiesFork_refused :
    (let s := xs [(1, 0x40001)] boxed
     s.cpu.inflight = [] ∧ CanTrap s ∧ s.getU 2 / 8 % 2 ^ 29 = 0 ∧ s.getU 1 % 8 ≠ 0)
    ∧ (descriptorAt (xs [(2, 8)] boxed) 1 = some boxDesc ∧ (xs [(2, 8)] boxed).getU 2 / 8 % 2 ^ 29 ≠ 0)
    ∧ (let s := words (boxDesc.set 7 1) boxed
       descriptorAt s 1 = some (boxDesc.set 7 1) ∧ s.getU 2 / 8 % 2 ^ 29 = 0 ∧ ∀ h, ¬BoxOk 1 (boxDesc.set 7 1) h)
    ∧ (let s := xs [(2, (1048576 - 11) * 2 ^ 32)] boxed
       descriptorAt s 1 = some boxDesc ∧ BoxOk 0 boxDesc 2 ∧ ¬BoxFits s boxDesc 2 2)
    ∧ (let s := xs [(2, (1048576 - 3) * 2 ^ 32)] indexedBox
       s.cpu.front.vl ≠ 0 ∧ ∃ w, descriptorAt s 1 = some w ∧ BoxOk 3 w 1 ∧ ¬BoxFits s w 2 s.cpu.front.vl) := by
  refine ⟨by unfold CanTrap; decide +kernel, by decide +kernel, ⟨by decide +kernel, by decide +kernel, fun h hb => ?_⟩,
    by unfold BoxOk BoxFits; decide +kernel, by decide +kernel,
    [0x50000, 16 + 8 * 2 ^ 32, 4 + 2 ^ 32, 0, 100 + 100 * 2 ^ 32, 0, 0, 0], by decide +kernel, by unfold BoxOk; decide +kernel,
      by unfold BoxFits; decide +kernel⟩
  unfold BoxOk at hb
  revert hb
  simp [boxDesc]

/-- CPY.X to the hart itself: v0 to v27, the last register and all its columns. -/
def planesCopy : State := xs [(1, 65536 * 2 ^ 32 + 27 * 2 ^ 5 + 26), (2, BitVec.ofNat 64 demo.cpu.id.addr)] demo

theorem test_meets_BoxCopiesFork_planes :
    let s := planesCopy
    let xa := s.getU 1
    let n := xa / 2 ^ 32
    (s.cpu.inflight = [] ∧ s.inDup = false ∧ s.cpu.lanes = none)
      ∧ (xa / 2 ^ 17 % 2 ^ 15 = 0 ∧ xa / 2 ^ 13 % 2 = 0 ∧ xa % 32 ≤ 27 ∧ xa / 2 ^ 5 % 32 ≤ 27 ∧ n ≤ s.vlmax)
      ∧ (s.getU 2 / 2 ^ 14 = 0 ∧ s.getU 2 / 2 ^ 11 % 2 = 0 ∧ s.getU 2 / 4 % 4 = 0 ∧ s.getU 2 % 4 ≠ 3)
      ∧ copyGroupBad s.cpu.front (xa % 32) (xa / 2 ^ 10 % 8 + 1) = false
      ∧ (s.hartAt (s.getU 2)).isSome = true
      ∧ ∀ h ∈ s.hartAt (s.getU 2), copyGroupBad h.front (xa / 2 ^ 5 % 32) (xa / 2 ^ 10 % 8 + 1) = false ∧ n ≤ s.vlmaxOf h.id := by
  decide +kernel

/-- Channel 7 has been granted 8 units and stopped at 5 with a held LOAD_FAULT. -/
def stoppedChan : State :=
  xs [(1, 5), (2, 6)] (onBack (fun b =>
    let ch : Chan := { Chan.idle with cwm := 5, cissued := 8, nops := 1, error := true, fcause := 7, feval := 0x50000 }
    { b with chans := vput b.chans 7 ch }) demo)

theorem test_meets_ChannelControls :
    let s := stoppedChan
    let ch := chanOf s 7
    s.cpu.inflight = [] ∧ min (s.getU 1) ch.cissued.toNat ≤ ch.cwm.toNat ∧ ch.cwm.toNat < min (s.getU 2) ch.cissued.toNat ∧ ch.error = true
      ∧ 7 ≤ ch.fcause ∧ ch.fcause ≤ 10 ∧ CanTrap s ∧ (∀ sel, sel < 7 → (chanItem s ch sel).isSome = true) ∧ s.cpu.status = .running
      ∧ (ch.ops = [] ∨ ch.error = true) := by
  unfold CanTrap; decide +kernel

/-- Matrix mode with a grant of 3 × 4, E4M3 rows in lq0, INT8 rows in lq1 and FP32 patterns in lq2. -/
def inMatrix : State :=
  onFront (fun f => { f with
      mmode := true, mvr := 3, mvc := 4, rc := 2, vl := 4
      sqtag := vput f.sqtag 0 tagFp32
      vtag := vput (vput f.vtag 1 tagE8m0) 4 tagFp32 })
    (rows 0 0x0004 [[1, 2, 3], [4, 5, 6]] (rows 1 0x0071 [[1, 2, 3, 4], [5, 6, 7, 8]]
      (rows 2 tagFp32 [[1, 2, 3, 4], [1, 2, 3, 4], [1, 2, 3, 4]] (xs [(2, 1), (3, 32 * 2 ^ 18 + 2 ^ 24 + 0x71 * 2 ^ 9 + 4)] demo))))

theorem test_meets_OuterProducts :
    let s := inMatrix
    s.cpu.inflight = [] ∧ s.cpu.front.mmode = true ∧ s.cpu.front.mvr ≤ 256 ∧ s.cpu.front.mvc ≤ 256
      ∧ (outerForm (.mopa 1 28 29 true true)).isSome = true ∧ (outerForm (.mops 0 28 29 true true)).isSome = true
      ∧ SourceReady s 28 s.cpu.front.rc ∧ SourceReady s 29 s.cpu.front.rc ∧ SourceReady s 16 s.cpu.front.rc
      ∧ productTags (s.cpu.front.srcTag 28) (s.cpu.front.srcTag 29) = true ∧ kindsOf s 1 = none ∧ stepsOf s 1 + s.cpu.front.rc ≤ 32
      ∧ tagE8 (vtagOf s 1) = true ∧ (∀ tile : Fin 4, tile.val < 2 → s.cpu.front.mmode = true) := by
  unfold SourceReady Fits lanesEnd vtagOf; decide +kernel

theorem test_meets_TilesMove :
    let s := inMatrix
    (Begins s ∧ (4 : Reg).val < 28 ∧ Fits s 4 s.cpu.front.rc (vtagOf s 4) ∧ (4 : Reg).val + regsFor s.cpu.front.rc (vtagOf s 4) ≤ 20
        ∧ tagE8 (vtagOf s 4) = false ∧ tagValid (vtagOf s 4) = true)
      ∧ (tagW (s.cpu.front.queueTag 4) = 32 ∧ s.cpu.front.mmode = true
        ∧ s.cpu.front.mvr * rowBytes (s.cpu.front.queueTag 4) s.cpu.front.vl ≤ s.free 4)
      ∧ (s.cpu.front.mvr ≤ 256 ∧ s.cpu.front.mvc ≤ 256 ∧ tagW (s.cpu.front.queueTag 2) = 32 ∧ s.cpu.front.mvr ≤ (rowsOf s 2).length)
      ∧ (s.getU 3 < 2 ^ 25 ∧ s.getU 3 / 2 ^ 18 % 64 ≤ 32 ∧ (s.getX 3).getLsbD 24 = true
        ∧ tagValid (BitVec.ofNat 16 (s.getU 3 % 512)) = true ∧ tagValid (BitVec.ofNat 16 (s.getU 3 / 512 % 512)) = true
        ∧ productTags (BitVec.ofNat 16 (s.getU 3 % 512)) (BitVec.ofNat 16 (s.getU 3 / 512 % 512)) = true)
      ∧ (s.getU 0 < 2 ^ 25 ∧ (s.getX 0).getLsbD 24 = false ∧ s.getU 0 / 2 ^ 18 % 64 = 0) := by
  unfold Begins Fits lanesEnd vtagOf; decide +kernel

/-- The catalogue holds two keys, INT32 values. -/
def catalogued : State :=
  onBack (fun b => { b with cat := ⟨[(7, 70), (4294967295, 1)], 0, 3⟩ }) (xs [(1, 3), (2, 4)] lanes5)

theorem test_meets_CatalogueElements :
    (let o := vo 2 28 31 1 3
     catForm (.catins o) = some (o, false) ∧ catForm (.catacc o) = some (o, true) ∧ Begins queued ∧ SourceReady queued o.va queued.cpu.front.rc
      ∧ SourceReady queued o.vb queued.cpu.front.rc ∧ tagIsInt (queued.cpu.front.srcTag o.va) = true
      ∧ tagE8 (queued.cpu.front.srcTag o.vb) = false)
    ∧ (let s := catalogued
       Begins s ∧ SourceReady s 0 s.cpu.front.rc ∧ tagIsInt (s.cpu.front.srcTag 0) = true ∧ Fits s 24 s.cpu.front.rc (vkindTag s.cpu.back.cat.cfg)
        ∧ Fits s 16 (2 * s.cpu.front.rc) (tagUint 32) ∧ s.cpu.inflight = [] ∧ badCatCfg (s.getU 1) = false
        ∧ s.getX 1 = s.cpu.back.cat.cfg ∧ CanTrap s ∧ badCatCfg (2 ^ 63) = true
        ∧ s.cpu.back.cat.entries ≠ [] ∧ s.getX 2 ≠ s.cpu.back.cat.cfg) := by
  unfold Begins SourceReady Fits lanesEnd CanTrap vtagOf; decide +kernel

/-- A grammar image at 0x40000 in a sealed vitrine (R321, R322): token 0 is the byte 0x61, which leads from state 0 to the accepting
state 1 and nowhere from there; token 1 ends the text. -/
def grammared : State :=
  tile 1 1 (xs [(1, 0x40000), (2, 0x80000000), (3, 65536), (4, 1), (5, 2), (6, 5)]
    (onPkg (fun p => { p with vitrines := [(3, ⟨2, 0, 1, 77, 0, 0⟩)] })
      (image 0x40000 (leBytes 128 0x1e000000000000001d800000000000001d000000000000001b000000000000001900000000000000180000000000000008000000001000000020000000100000000000000020000000200010001474d4b31 ++ List.replicate 256 0 ++ leBytes 96 0xffffffff0000000100000000000000008000000000000000006100000000000000000000ffffffff0000000100000000000000000000000000000000000000010000000000000000000000000000000000000000000000004000000000000001) demo)))

def gimg : GImage := ⟨0x40000, 1, 2, 2, 0, 1, 2, 1, 128, 384, 400, 432, 464, 472, 480⟩

/-- A context in state `st` with one checkpoint, its pool where nothing is mapped. -/
def gctx (st : Nat) : GCtx := ⟨0x40000, 0x100000000000000, 65536, ⟨st, [], []⟩, [(1, ⟨0, [], []⟩)], 1, 1, false⟩

/-- Handle 1 is open in state 0, handle 2 in state 1. -/
def opened : State :=
  onBack (fun b => { b with gram := ⟨[(1, gctx 0), (2, gctx 1)], [1, 2], [], 0⟩ }) grammared

/-- Two contexts on a pool of 512 bytes. -/
def crowded : State :=
  onBack (fun b => { b with gram := ⟨(List.range 2).map (fun k => (k + 1, { gctx 0 with size := 512 })), [], [], 0⟩ }) grammared

/-- 256 contexts, that of handle 1 on a pool of its own. -/
def manned : State :=
  onBack (fun b => { b with
    gram := ⟨(List.range 256).map (fun k => (k + 1, if k = 0 then gctx 0 else { gctx 0 with pool := 0 })), [], [], 0⟩ }) grammared

/-- With the handles 1 to 256 open none is free. -/
theorem handles_taken (c : Nat → GCtx) (r : List Nat) (p : List GPend) (n : Nat) :
    (⟨(List.range 256).map (fun k => (k + 1, c k)), r, p, n⟩ : Gram).freeHandle = none := by
  simp only [Gram.freeHandle, List.findSome?_eq_none_iff, List.any_map]
  intro k hk
  have h : (List.range 256).any ((fun e : Nat × GCtx => decide (e.1 = k + 1)) ∘ fun k => (k + 1, c k)) = true :=
    List.any_eq_true.mpr ⟨k, hk, by simp⟩
  simp [h]

/-- `n` contexts on one pool. -/
def pooled (n : Nat) (ring : List (Nat × GConf)) : State :=
  onBack (fun b => { b with gram := ⟨(List.range n).map (fun k => (k + 1, ⟨0x40000, 0x80000000, 65536, ⟨0, [], []⟩, ring, 0, 1, false⟩)), [], [], 0⟩ })
    grammared

theorem test_meets_GrammarMoves_open :
    [grammared, pooled 256 [], pooled 255 [(1, ⟨0, [], []⟩)]].all (fun s => s.cpu.inflight.isEmpty
      && decide (s.gopenChecks (.gopen 7 1 2 3) (s.getU 1) (s.getU 2) (s.getU 3) = .ok gimg)) = true
    ∧ grammared.cpu.back.gram.freeHandle = some 1 ∧ (pooled 256 []).cpu.back.gram.freeHandle = none
    ∧ (let s := pooled 255 [(1, ⟨0, [], []⟩)]
       s.cpu.back.gram.freeHandle = some 256 ∧ s.poolSize (s.getX 3) < s.cpu.back.gram.poolUsed (s.getX 2) + 256) :=
  ⟨by decide +kernel, by decide +kernel, handles_taken _ _ _ _, by decide +kernel⟩

theorem test_meets_GrammarMoves_advance :
    (let s := opened
     OnContext s 4 (gctx 0) ∧ OnContext s 5 (gctx 1) ∧ s.imageAt (gctx 0).image.toNat = .ok gimg
      ∧ (s.getU 4 = gimg.eos ∧ gimg.eos ≠ none32 ∧ s.gcomplete gimg 0 [] = .ok false ∧ s.gcomplete gimg 1 [] = .ok true)
      ∧ (¬(s.getU 0 = gimg.eos ∧ gimg.eos ≠ none32) ∧ s.allow gimg (gctx 1).conf (s.getU 0) = .ok none)
      ∧ (¬(s.getU 5 = gimg.eos ∧ gimg.eos ≠ none32) ∧ gimg.ntok ≤ s.getU 5)
      ∧ (s.getU 0 < gimg.ntok ∧ s.allow gimg (gctx 0).conf (s.getU 0) = .ok (some ⟨1, [], 0, none⟩) ∧ s.gcomplete gimg 1 [] = .ok true)
      ∧ (s.cpu.front.vl ≤ 65536 ∧ 0 < s.cpu.front.vl ∧ 0 < gimg.ntok ∧ s.maskBits gimg (gctx 0).conf = .ok [true, false]
        ∧ gmaskForm (.gmask 15 4) = some (15, 4, none) ∧ gmaskForm (.gmaskM 15 4 15) = some (15, 4, some 15)
        ∧ (15 : Fin 16).val + (gimg.ntok + 16 * s.cpu.front.vl - 1) / (16 * s.cpu.front.vl) ≤ 16)) :=
  ⟨by unfold OnContext; decide +kernel, by unfold OnContext; decide +kernel, by decide +kernel⟩

/-- The pool holds what a move and a checkpoint need, or does not; the same of a fork, and of one without a free handle. -/
theorem test_meets_Grammar_pools :
    (let s := opened
     s.poolSize (gctx 0).size = 65536 ∧ (movedGram s 1 (gctx 0) ⟨1, [], 0, none⟩).poolUsed (gctx 0).pool = 2 * 272
      ∧ (s.cpu.back.gram.setCtx 1 (checkpointed (gctx 0))).poolUsed (gctx 0).pool = 2 * 272 + 16
      ∧ s.cpu.back.gram.freeHandle = some 3
      ∧ { s.cpu.back.gram with ctxs := minsert s.cpu.back.gram.ctxs 3 (gctx 0) }.poolUsed (gctx 0).pool = 3 * 272)
    ∧ (let s := crowded
       let c := { gctx 0 with size := 512 }
       OnContext s 4 c ∧ s.poolSize c.size = 512
        ∧ (movedGram s 1 c ⟨1, [], 0, none⟩).poolUsed c.pool = 2 * 272
        ∧ (s.cpu.back.gram.setCtx 1 (checkpointed c)).poolUsed c.pool = 2 * 272 + 16
        ∧ s.cpu.back.gram.freeHandle = some 3
        ∧ { s.cpu.back.gram with ctxs := minsert s.cpu.back.gram.ctxs 3 c }.poolUsed c.pool = 3 * 272) := by
  unfold OnContext; decide +kernel

/-- A context of a hart whose 256 handles are all open. -/
theorem test_meets_Grammar_handles :
    OnContext manned 4 (gctx 0) ∧ manned.cpu.back.gram.freeHandle = none :=
  ⟨by unfold OnContext; decide +kernel, handles_taken _ _ _ _⟩

theorem test_meets_GrammarContexts :
    let s := opened
    ctxOf s (s.getU 4) = some (gctx 0) ∧ OnContext s 4 (gctx 0) ∧ mfind (gctx 0).ring (s.getU 4) = some ⟨0, [], []⟩ ∧ (gctx 0).oldest ≤ s.getU 4 ∧ s.getU 4 ≤ (gctx 0).latest
      ∧ mfind (gctx 0).ring (s.getU 5) = none ∧ s.getU 0 < (gctx 0).oldest ∧ (gctx 0).latest < s.getU 5
      ∧ ∀ sel, sel < 9 → isOk (s.gstatItem 1 (gctx 0) sel) = true := by
  unfold OnContext; decide +kernel

/-- Partition 0 has a ring of 256 records at 0x200000, sq0 six rows of INT32. -/
def logging : State :=
  rows 4 (tagInt 32) (List.replicate 6 [1, 2]) (tile 2 2 (xs [(1, 0), (2, 255), (3, 0xFFFF)]
    (onPkg (fun p => { p with parts := vput p.parts 0 { Part.reset with labase := 0x200000, lcap := 8 } }) demo)))

theorem test_meets_AccessionInstructions :
    (let s := logging
     let x := s.part (s.cpu.front.acch.toNat % 16)
     let n := s.cpu.front.rc * s.cpu.front.vl
     s.cpu.inflight = [] ∧ (s.cpu.front.queueTag 4 = tagInt 32 ∨ s.cpu.front.queueTag 4 = tagUint 32) ∧ s.getU 2 ≤ 255 ∧ s.getU 3 = 0xFFFF
      ∧ x.lcap ≠ 0 ∧ (∀ e ∈ x.held, e.1 ≠ s.cpu.id.uid) ∧ (n ≠ 0 → x.full n = false) ∧ (s.cpu.back.queue 4).part = []
      ∧ 3 * s.cpu.front.rc ≤ (rowsOf s 4).length ∧ s.secondCopy = false)
    ∧ (∀ p ∈ logging.cpu.inflight, ∀ a b, p.instr ≠ .acclog a b)
    ∧ (∀ p, p < 16 → ∀ r ∈ (logging.part p).pending, r.hart ≠ logging.cpu.id.uid) := by
  have h : logging.cpu.inflight = [] := rfl
  exact ⟨by decide +kernel, fun p hp => absurd (h ▸ hp) List.not_mem_nil, by decide +kernel⟩

/-- Partition 0 holds one record of the hart and one of another, its head says that nothing is durable. -/
def logged : State :=
  let x : Part := { Part.reset with labase := 0x200000, lcap := 8, lnext := 1, pending := [⟨9, some 0, []⟩, ⟨1, none, []⟩] }
  poke 0x200000 8 0 (onPkg (fun p => { p with parts := vput p.parts 0 x }) demo)

/-- Memory without a fence and without an error can be read. -/
theorem readable {s : State} (h : s.pkg.fences = [] ∧ s.pkg.closed = [] ∧ s.pkg.cxlDown = [] ∧ s.pkg.poison = []) (a : Nat) :
    s.unreadable a = false := by
  simp [State.unreadable, State.fenced, State.fencedWhole, State.poisoned, h]

theorem test_meets_AccessionInstructions_sync :
    let s := logged
    (∀ a, s.unreadable a = false)
      ∧ (∀ p, p < 16 → (∃ r ∈ (s.part p).pending, r.hart = s.cpu.id.uid) → LogSound s (s.part p))
      ∧ (∃ r ∈ (s.part 0).pending, r.hart = s.cpu.id.uid) ∧ LogSound s (s.part 0)
      ∧ (∀ p k, p < 16 → k < 16 → p ≠ k → (s.part p).lcap ≠ 0 → (s.part k).lcap ≠ 0 →
        overlaps (s.part p).labase.toNat (4096 + 128 * 2 ^ (s.part p).lcap) (s.part k).labase.toNat
          (4096 + 128 * 2 ^ (s.part k).lcap) = false)
      ∧ HeadReadable s (s.part (s.cpu.front.acch.toNat % 16)) := by
  intro s
  have h0 : LogSound s (s.part 0) := by
    refine ⟨by decide +kernel, by decide +kernel, by decide +kernel, ?_, by decide +kernel⟩
    intro r hr q hq
    have h1 : ∀ r ∈ (s.part 0).pending, r.seq = none ∨ r.seq = some 0 := by decide +kernel
    have h2 : s.hseq (s.part 0) = 0 ∧ (s.part 0).lnext.toNat = 1 := by decide +kernel
    rcases h1 r hr with h | h <;> rw [h] at hq
    · cases hq
    · obtain rfl := Option.some.inj hq
      omega
  have hp : ∀ p, p < 16 → p ≠ 0 → (s.part p).pending = [] ∧ (s.part p).lcap = 0 := by decide +kernel
  refine ⟨readable (by decide +kernel), fun p h ⟨r, hr, _⟩ => ?_, by decide +kernel, h0, fun p k h1 h2 hne e1 e2 => ?_, by unfold HeadReadable; decide +kernel⟩
  · by_cases hz : p = 0
    · exact hz ▸ h0
    · rw [(hp p h hz).1] at hr; cases hr
  · by_cases hz : p = 0
    · exact absurd (hp k h2 (fun e => hne (hz.trans e.symm))).2 e2
    · exact absurd (hp p h1 hz).2 e1

/-- A privileged hart over a log of 256 records, entry 5 sealed and entry 6 corrupt. -/
def sealing : State :=
  xs [(1, 0x8000000), (2, 0x4000000), (3, 0), (4, 0x30000), (5, 5), (6, 6), (7, 255), (8, 0x30008)]
    (onPkg (fun p => { p with
        parts := vput p.parts 0 { Part.reset with labase := 0x200000, lcap := 8 }
        vitrines := [(5, ⟨2, 0x10000000, 1, 0, 0, 0⟩), (6, ⟨4, 0x14000000, 1, 0, 0, 0⟩)] }) demoPriv)

theorem test_meets_VitrineInstructions :
    let s := sealing
    (s.cpu.id.priv = true ∧ s.cpu.inflight = [] ∧ s.inDup = false ∧ s.getU 1 % mib64 = 0 ∧ 0 < s.getU 2 ∧ s.getU 2 % mib64 = 0
        ∧ s.getU 2 ≤ 4096 * mib64 ∧ vitrineRange s.pkg.tierOk (s.getU 1) (s.getU 2) = true
        ∧ (∀ p, p < 16 → (s.part p).lcap ≠ 0 →
          overlaps (s.getU 1) (s.getU 2) (s.part p).labase.toNat (4096 + 128 * 2 ^ (s.part p).lcap) = false)
        ∧ (∀ e ∈ s.pkg.vitrines, e.2.state ≠ 0 → overlaps (s.getU 1) (s.getU 2) e.2.base (e.2.units * mib64) = false)
        ∧ s.freeVitrine = some 0 ∧ (s.part (s.cpu.front.acch.toNat % 16)).lcap ≠ 0 ∧ s.cwordAt (s.getU 3) = .ok none
        ∧ s.cwordAt (s.getU 8) = .ok (some 0x30008))
      ∧ (s.getU 5 ≤ 255 ∧ (s.vitrine (s.getU 5)).state ≠ 0 ∧ (s.vitrine (s.getU 5)).state ≠ 3 ∧ s.blockAt (s.getU 4) = .ok 0x30000
        ∧ s.secondCopy = false)
      ∧ ((s.vitrine (s.getU 5)).state = 2 ∧ (s.vitrine (s.getU 6)).state = 4 ∧ (s.vitrine (s.getU 5)).pins = 0
        ∧ (s.vitrine (s.getU 6)).pins = 0)
      ∧ (s.getU 7 ≤ 255 ∧ (11 : Reg).val < 12)
      ∧ (demo.cpu.id.priv = false ∧ demo.cpu.inflight = [] ∧ CanTrap demo) := by
  unfold CanTrap; decide +kernel

/-- Instruction `i` in flight, waiting on `qs`, from where `s` stands. -/
def pending (s : State) (i : Instr) (qs : List Nat) (full : Bool) : Pend :=
  { instr := i, front := s.cpu.front, ckpt := s.cpu.back, on := qs, full := full, lanes := none, owed := [], ordered := false
    faulty := false, noted := none, out := [] }

/-- The hart waits for a row of lq0 that no load will bring, with a load that finds no room behind it, as long as its limit. -/
def stalled : State :=
  let s := onFront (fun f => { f with vl := 65536, qslim := 7 }) demo
  { s with cpu := { s.cpu with
      stall := 7, inflight := [pending s (.vmv (vo 3 28 0)) [0] false, pending s (.vldU (vm 1 0 1)) [1] true] } }

theorem test_meets_HartEvents :
    (∃ tr : TrapInfo, demo.cpu.status = .running ∧ demo.cpu.inflight = [] ∧ CanTrap demo ∧ tr.cause = .loadFault)
      ∧ (let s := stalled
         ∃ p, s.cpu.status = .running ∧ s.cpu.inflight.head? = some p ∧ s.cpu.front.qslim ≠ 0
          ∧ s.cpu.front.qslim.toNat ≤ s.cpu.stall ∧ s.stallQueues.isSome = true ∧ p.front.tvec ≠ 0 ∧ p.front.estat.getLsbD 0 = false)
      ∧ ((15 : Nat) < 16 ∧ 15 ∉ (demo.core 2 127).retired)
      ∧ (let s := onBack (fun b => { b with gram := ⟨[], [], [⟨1, [3], none, none, 0⟩], 0⟩ }) demo
         s.cpu.back.gram.pend = [⟨1, [3], none, none, 0⟩])
      ∧ demo.cpu.front.mreq.getLsbD 0 = false
      ∧ (let s := onPkg (fun p => { p with reserved := [⟨1, 0, 5, 0, 16, 3, 0xFFFFFFF, 0, 0⟩] }) (onFront (fun f => { f with mreq := 1 }) demo)
         s.cpu.status = .running ∧ Quiet s ∧ MayMove s ∧ s.chosenToGo = false ∧ s.reservation.isSome = true
          ∧ ∀ r ∈ s.reservation, s.fitsAt (r.core, r.slot) = true) := by
  refine ⟨⟨⟨.loadFault, 0, 0, 0, 0, 0, false, 0, 4⟩, by unfold CanTrap; decide +kernel⟩, ⟨_, rfl, rfl, by decide +kernel⟩,
    by decide +kernel, by decide +kernel, by decide +kernel, by unfold Quiet MayMove; decide +kernel⟩

/-- A load whose row is due, and a store whose row is there, as the one instruction in flight: each goes on to its end. -/
theorem test_meets_HartEvents_rows :
    [(Instr.vldU (vm 1 0), twoElems), (.vstU (vm 1 0), twoElems)].all (fun e =>
      let p : Pend := pending e.2 e.1 [] false
      let s : State := { e.2 with cpu := { e.2.cpu with inflight := [p] } }
      p.owed.isEmpty && s.cpu.back.gram.pend.isEmpty && (s.inbound s.cpu.id.uid).isEmpty
        && ((loadsInto p.instr).isSome || (storesFrom p.instr).isSome) && (match exec p.instr (goingOn s p) with
        | .next u => u.cpu.inflight.isEmpty && u.cpu.wait.isNone && !u.cpu.trapped && decide (u.cpu.status = .running)
        | _ => false)) = true := by decide +kernel

/-- Channel 0 has one operation under way. -/
def copying (o : CopyOp) : State :=
  onBack (fun b => { b with chans := vput b.chans 0 { Chan.idle with cissued := 8, nops := 1, ops := [o] } }) demo

/-- Two elements of four bytes at 0x50000, the first two columns to the left of the picture clipped. -/
def gather (ox : Int) : CopyOp := boxOp demo 0 2 [0x50000, 16 + 8 * 2 ^ 32, 2 + 2 ^ 32, (ox % 2 ^ 32).toNat, 100 + 100 * 2 ^ 32, 2, 0, 0] 0 []

/-- As `gather`, under another form, memory base or hart. -/
def elementsAt (form mbase : Nat) : CopyOp := { gather 0 with form := form, mbase := mbase }
def groupOf : CopyOp := { gather 0 with form := 2, dst := 1, vdst := 3, regs := 1, cols := 1, planes := [7], units := 1 }

/-- The next element is clipped, read, written, or faults. -/
theorem test_meets_CopyEvents_elements :
    [gather (-2), elementsAt 0 0x50000, elementsAt 1 0x50000, elementsAt 0 0xEE6B28000].Forall (fun o => NextElement (copying o) 0 o)
      ∧ (gather (-2)).mem (gather (-2)).at_ = none ∧ (gather (-2)).form ≠ 1
      ∧ (elementsAt 0 0x50000).mem 0 = some 0x50000 ∧ (elementsAt 1 0x50000).mem 0 = some 0x50000
      ∧ (elementsAt 0 0xEE6B28000).mem 0 = some 0xEE6B28000 := by
  unfold NextElement; decide +kernel

theorem test_meets_CopyEvents :
    [(copying (elementsAt 0 0x50000)).engineBytes demo.cpu.ctx .load true (vaRange 0x50000 4),
        (copying (elementsAt 1 0x50000)).engineBytes demo.cpu.ctx .store true (vaRange 0x50000 4)].Forall (fun r => r = .ok (vaRange 0x50000 4))
      ∧ ((copying (elementsAt 1 0x50000)).inDup = false ∧ (copying (elementsAt 1 0x50000)).secondCopy = false)
      ∧ (copying (elementsAt 0 0xEE6B28000)).engineBytes demo.cpu.ctx .load true (vaRange 0xEE6B28000 4) = .error ⟨.loadFault, 0, 0, 0xEE6B28000⟩
      ∧ (let s := copying groupOf
         s.cpu.status = .running ∧ (s.chan 0).ops.head? = some groupOf ∧ (s.chan 0).error = false ∧ groupOf.form = 2
          ∧ (s.hart? groupOf.dst).isSome = true ∧ ∀ h ∈ s.hart? groupOf.dst, h.olderFlight groupOf.place = false) := by
  decide +kernel

/-- Queue 7 of die 0 holds one packet that no hart stands in the way of; `area` and `p0` are its words. -/
def packets (p0 area : Nat) : State :=
  onPkg (fun p => { p with wqs := [(7, ⟨0x300000, 4, 0x2000, 9, 1, 0, 0, 0⟩)] })
    ({ demo with mem := demo.mem ++ cells 0x300000 (leBytes 8 p0 ++ leBytes 8 0x10000 ++ List.replicate 80 0 ++ leBytes 8 area
      ++ List.replicate 24 0) })

theorem test_meets_PacketsAndLaunches_taken :
    let s := packets 0x10000 0x1000000
    let w := s.wq 7
    s.choice w.die = some (.queue 7) ∧ s.badWords (w.slot w.head.toNat) 128 = [] ∧ s.pkg.poison = []
      ∧ s.takeReason (s.ringPacket 7 w.head.toNat) (gangOf (s.ringPacket 7 w.head.toNat) 7 w.head.toNat w.die w.root) w.privok = 0 := by
  decide +kernel

/-- A packet rejected with an area that fails, and one whose record is written. -/
theorem test_meets_PacketsAndLaunches_rejected :
    [packets 0x20000 0x1000001, packets 0x20000 0x1000000].Forall (fun s =>
      let w := s.wq 7
      let p := s.ringPacket 7 w.head.toNat
      s.choice w.die = some (.queue 7) ∧ s.badWords (w.slot w.head.toNat) 128 = [] ∧ s.pkg.poison = [] ∧ pkt p 11 % 2 ^ 64 = 0
        ∧ s.takeReason p (gangOf p 7 w.head.toNat w.die w.root) w.privok ≠ 0)
    ∧ badArea ((packets 0x20000 0x1000001).ringPacket 7 0) = true
    ∧ (let s := packets 0x20000 0x1000000
       let p := s.ringPacket 7 0
       let g := gangOf p 7 0 (s.wq 7).die (s.wq 7).root
       badArea p = false ∧ s.areaUnmapped g = false ∧ (s.wq 7).head = 0
        ∧ s.accessBytes g.ctx .store true (vaRange g.area.toNat 64) = .ok (vaRange 0x1000000 64) ∧ AllMemory s (vaRange 0x1000000 64)) := by
  unfold AllMemory; decide +kernel

/-- A second gang of two members of half a share that waits to be placed. -/
def waiting (s : State) : State :=
  onPkg (fun p => { p with gangs := p.gangs ++ (p.gangs.take 1).map (fun g =>
    { g with gid := 2, n := 2, share := 1, prio := 1, sown := false, order := 9, area := 0x1000000 }) }) s

theorem test_meets_PacketsAndLaunches_sown :
    let s := waiting demo
    (s.gangById 2).isSome = true ∧ (∀ g ∈ s.gangById 2, g.sown = false ∧ (s.chosenGang g).isSome = true
      ∧ ∀ held ∈ s.chosenGang g, (s.placement g held (fun _ => false)).isSome = true) := by decide +kernel

theorem test_meets_PacketsAndLaunches_finished :
    let s : State := onGang (fun g => { g with area := 0x100000 }) { demo with cpu := { demo.cpu with status := .halted } }
    (s.gangById 1).isSome = true ∧ AllMemory s (vaRange 0x100000 64)
      ∧ ∀ g ∈ s.gangById 1, s.gangDone g = true ∧ g.fault = none ∧ g.dup = false ∧ g.cword = 0
        ∧ (∀ h ∈ s.gangHarts g.gid, (h.back.chans.toList.all (fun c => c.ops.isEmpty)) = true
          ∧ ∀ p, p < 16 → (s.part p).unwritten (fun r => r.hart = h.id.uid) = 0)
        ∧ s.accessBytes g.ctx .store true (vaRange g.area.toNat 64) = .ok (vaRange 0x100000 64) := by unfold AllMemory; decide +kernel

/-- A launch whose hart is saved; its area at 0x100000 is valid. -/
def savedGang : State :=
  { onGang (fun g => { g with saved := true }) (poke 0x100000 8 1 (onFront (fun f => { f with esave := 0x100000 }) demo)) with
    cpu := { (onFront (fun f => { f with esave := 0x100000 }) demo).cpu with status := .saved } }

/-- A victim of a waiting gang, and a member whose pre-emption is due. -/
theorem test_meets_GangsComeAndGo_leaves :
    [waiting (oneCore demo), onGang (fun g => { g with due := true }) demo].Forall (fun s =>
      (s.gangById 1).isSome = true ∧ (∀ g ∈ s.gangById 1, (s.isVictim g = true ∨ g.due = true) ∧ g.saved = false ∧ s.gangDone g = false
        ∧ s.cpu.id.gang = g.gid)
      ∧ s.cpu.status = .running ∧ s.others = [] ∧ Quiet s ∧ s.interruptible s.cpu = true) := by
  unfold Quiet; decide +kernel

theorem test_meets_GangsComeAndGo_returns :
    let s := savedGang
    (s.gangById 1).isSome = true ∧ (∀ g ∈ s.gangById 1, g.saved = true ∧ s.cpu.id.gang = g.gid ∧ s.chosenGang g = some []
      ∧ s.placement g [] (fun _ => false) = some [(⟨16, 0, 0, [⟨0, 16, 0, 0⟩]⟩, 0, 0)])
      ∧ s.cpu.status = .saved ∧ s.cpu.id.parent = none ∧ s.others = [] ∧ s.invalidArea s.cpu = false ∧ s.areaFault s.cpu = none
      ∧ (s.areaRead s.cpu 8 248).isSome = true ∧ (s.areaRead s.cpu 0x100 256).isSome = true := by
  decide +kernel

theorem test_meets_GangsComeAndGo :
    let s := onGang (fun g => { g with quantum := 0 }) demo
    let h := s.cpu
    (s.gangById 1).isSome = true ∧ h ∈ s.harts ∧ h.status = .running ∧ h.id.parent = none
      ∧ ∀ g ∈ s.gangById 1, g.sown = true ∧ g.saved = false ∧ s.gangDone g = false ∧ s.isNeeded g = false ∧ h.id.gang = g.gid
        ∧ g.quantum ≤ (h.front.cycle - mget 0 g.since h.id.uid).toNat := by
  decide +kernel

/-- The mailbox runs command `k` with these arguments. -/
def commanded (k : Nat) (args : List W64) (s : State) : State :=
  onMgmt (fun m => { m with mbcmd := BitVec.ofNat 64 k, mbstat := 1, mbarg := Vector.ofFn (fun j => args.getD j.val 0) }) s

/-- A code object of one empty section at 0x40000, signed for the key 0 0, which is no point of the curve: its even
multiples are the point at infinity, so a signature can be written down without a secret. -/
def signedObject : State :=
  commanded 1 [0x40000, 0x1000000] (onMgmt (fun m => { m with keys := [0] }) { demo with mem := cells 0x40000 (leBytes 300 0xd82ac98bc51a458e422a77228be2d4961857a1ae63190115d55d0aafb21a50bead6bd1d68cbee6d054949ba7692a15659965b4f38e13d095ce3e0e72655eba68000066bde5c2317e7ef99b426a85c1b34833dea8ffa227c11dfe2859e7ef775e4ba1ba3d4d6b60af28f821b53f053981649c42b4952366cb3e9ecde90404b7068e85c600000000000000000000000000000000000000000000000000000000000000001000000403000000000000000000000000000000000000000000000000000000000000000000000000000000000000000000000000000000000000000000000000000000000000012c00000000000000a000000000000000a000000000000000a000000000000000a0000000000000008000000001000000000000000000000001010000014c554f42) })

/-- Partition 3 with a record to write and a full batch behind the head, work of every kind in progress. -/
def engines : State :=
  onPkg (fun p => { p with
      parts := vput p.parts 3 { Part.reset with labase := 0x200000, lcap := 8, lnext := 64, pending := [⟨1, none, []⟩] }
      vitrines := [(5, ⟨1, 0x10000000, 1, 0, 0, 0⟩), (6, ⟨3, 0x14000000, 1, 0, 0, 0⟩), (7, ⟨2, 0x18000000, 1, 0, 0, 0⟩)]
      jobs := [⟨0, 5, 0, none, 3, 0, 0, 0, []⟩, ⟨1, 6, 0, none, 0, 0, 0, 0, []⟩, ⟨2, 7, 0x30000, none, 0, 0, 0, 0, []⟩,
        ⟨3, 3, 0, none, 0, 0, 0, 0, []⟩] })
    (poke 0x200000 8 0 demo)

/-- The last queue holds one packet of its 16 and takes more from the host; the last partition has a batch to drain. -/
def queueAtHost : State := onPkg (fun p => { p with wqs := [(2047, ⟨0x300000, 4, 0x2000, 1, 5, 3, 0, 0⟩)] }) demo

def drainable : State :=
  onPkg (fun p => { p with parts := vput p.parts 15 { Part.reset with labase := 0x200000, lcap := 8 } }) (poke 0x200000 8 128 demo)

/-- Values that a queue's registers take, at both ends of a ring's place, and values they refuse. -/
theorem test_meets_RegisterWrites_queues :
    (let w := queueAtHost.wq 2047
     (w.en = true ∧ w.byHart = false) ∧ w.head.toNat + 2 ^ w.size = 19 ∧ w.tail.toNat = 5)
    ∧ (let w := demo.wq 2047
       w.en = false ∧ (0xEE6B27000 : W64).toNat % 4096 = 0 ∧ (0x8FFFFFF000 : W64).toNat % 4096 = 0
        ∧ bitsOf (9 : W64).toNat 2 1 ≠ 3 ∧ bitsOf (6 : W64).toNat 2 1 = 3 ∧ demo.pkg.mgmt.bstate = 3 ∧ (0x2000 : W64).getLsbD 12 = false
        ∧ (0x1000 : W64).getLsbD 12 = true)
    ∧ RingFits demo.pkg.tierOk 0xEE6B27000 (demo.wq 2047).size ∧ RingFits demo.pkg.tierOk 0x8FFFFFFF000 (demo.wq 2047).size
    ∧ RingFits demo.pkg.tierOk (demo.wq 2047).base.toNat 16 ∧ ¬RingFits false 0x8FFFFFFF000 4 := by
  refine ⟨by decide +kernel, by decide +kernel, .inl ⟨0, by decide +kernel⟩, .inr (by decide +kernel), .inl ⟨0, by decide +kernel⟩, ?_⟩
  rintro (⟨k, hk, h1, h2⟩ | ⟨h, -⟩)
  · omega
  · cases h

theorem test_meets_RegisterWrites_logs :
    (let s := drainable
     HeadReadable s (s.part 15) ∧ (128 : W64).toNat ≤ s.hseq (s.part 15) ∧ (128 : W64).toNat % 64 = 0 ∧ (s.part 15).ldrain.toNat ≤ (128 : W64).toNat
      ∧ (129 : W64).toNat % 64 ≠ 0)
    ∧ (∃ j ∈ engines.pkg.jobs, j.kind = 3 ∧ j.v = 3) ∧ demo.pkg.jobs = [] := by
  unfold HeadReadable; decide +kernel

/-- An offset for each case of a write to management space. -/
theorem test_meets_RegisterWrites :
    mgmtNoHartWrite 0 0x2000 = true ∧ mgmtNoHartWrite 2 0x1F00 = false
    ∧ (demo.pkg.mgmt.mbstat.getLsbD 0 = false ∧ 1 ≤ (7 : W64).toNat ∧ (7 : W64).toNat ≤ 7)
    ∧ errorCounter 0x1128 = true ∧ errorCounter 0x1130 = false ∧ coreCounter 0x101FE8 = true ∧ coreCounter 0x101FF0 = false
    ∧ demo.coreOfLcid 0 127 = some 127 ∧ (0x101FE8 - 0x100000) / 64 = 127
    ∧ (let s := onPkg (fun p => { p with cores := [(127, { CoreSt.reset with retired := List.range 16 })] }) demo
       s.coreOfLcid 0 127 = none)
    ∧ (regionOf 0).isMem = true := by decide +kernel

/-- The oldest job of kind `k`. -/
def jobOf (s : State) (k : Nat) : Option Job := s.pkg.jobs.find? (fun j => j.kind = k)

theorem test_meets_EngineEvents_seals :
    [engines, onPkg (fun p => { p with fences := [4096] }) engines].Forall (fun s =>
      s.pkg.jobs.find? (fun j => j.kind = 0 && j.v = 5) = jobOf s 0 ∧ (jobOf s 0).isSome = true
        ∧ (∀ j ∈ jobOf s 0, j.cword = none ∧ (s.part j.part).full 1 = false)
        ∧ s.badWords (s.vitrine 5).base ((s.vitrine 5).units * 67108864) = [] ∧ 0 < (s.vitrine 5).units)
      ∧ engines.rangeFenced 0x10000000 67108864 = false
      ∧ (onPkg (fun p => { p with fences := [4096] }) engines).rangeFenced 0x10000000 67108864 = true := by decide +kernel

theorem test_meets_EngineEvents :
    let s := engines
    ((s.part 3).pending = [⟨1, none, []⟩] ∧ (⟨1, none, []⟩ : AccRec).seq = none)
      ∧ (s.fenced 0x203000 = false ∧ (onPkg (fun p => { p with fences := [32] }) s).fenced 0x203000 = true
        ∧ 0x203000 = (s.part 3).labase.toNat + 4096 + 128 * ((s.part 3).lnext.toNat % 2 ^ (s.part 3).lcap))
      ∧ ((∀ a, s.unreadable a = false) ∧ HeadReadable s (s.part 3)
        ∧ ¬HeadReadable (onPkg (fun p => { p with fences := [32] }) s) (s.part 3))
      ∧ ((s.part 3).lcap ≠ 0 ∧ s.hseq (s.part 3) + 64 ≤ (s.part 3).lnext.toNat)
      ∧ (s.pkg.jobs.find? (fun j => j.kind = 1 && j.v = 6) = jobOf s 1 ∧ (jobOf s 1).isSome = true ∧ ∀ j ∈ jobOf s 1, j.cword = none)
      ∧ (s.pkg.jobs.find? (fun j => j.kind = 2 && (s.vitrine j.v).state != 1) = jobOf s 2 ∧ (jobOf s 2).isSome = true
        ∧ ∀ j ∈ jobOf s 2, j.cword = none ∧ s.checkPhys 0 .store true 0 j.block = none ∧ j.block % 256 = 0
          ∧ s.drops j.block = false)
      ∧ s.pkg.jobs.any (fun j => j.kind = 3 && j.v = 3) = true := by
  exact ⟨by decide +kernel, by decide +kernel, ⟨readable (by decide +kernel), by unfold HeadReadable; decide +kernel⟩, by decide +kernel⟩

/-- An object that is read and passes, one that no key signs, and one outside memory. -/
theorem test_meets_MailboxCommands_load :
    (let s := signedObject
     let n := leNat (readCells s.mem (s.mbArg 0 + 64) 8)
     s.commandIs 1 = true ∧ (s.loadable (s.mbArg 0) 128 = true ∧ s.loadable (s.mbArg 0) n = true)
      ∧ isOk (s.checkLoad (readCells s.mem (s.mbArg 0) n)) = true)
    ∧ (let s := onMgmt (fun m => { m with keys := [] }) signedObject
       let n := leNat (readCells s.mem (s.mbArg 0 + 64) 8)
       s.commandIs 1 = true ∧ (s.loadable (s.mbArg 0) 128 = true ∧ s.loadable (s.mbArg 0) n = true)
        ∧ s.checkLoad (readCells s.mem (s.mbArg 0) n) = .error 1)
    ∧ (let s := commanded 1 [0xEE6B28000] demo
       s.commandIs 1 = true ∧ s.loadable (s.mbArg 0) 128 = false) := by decide +kernel

def loadedObject : CodeObj := ⟨0x1000000, 16, [], [], 0⟩

theorem test_meets_MailboxCommands :
    (let s := commanded 2 [0x1000000] demo
     s.commandIs 2 = true ∧ s.pkg.mgmt.objects.find? (fun o => o.place = s.mbArg 0) = none)
    ∧ (let s := commanded 2 [0x1000000] (onMgmt (fun m => { m with objects := [loadedObject] }) demo)
       s.commandIs 2 = true ∧ s.pkg.mgmt.objects = loadedObject :: [] ∧ loadedObject.place = s.mbArg 0)
    ∧ (let s := commanded 3 [0x30000] demo
       s.commandIs 3 = true ∧ s.mbArg 0 % 512 = 0 ∧ regionOf (s.mbArg 0) = .hbm ∧ s.writable (s.mbArg 0) = true)
    ∧ (let s := commanded 4 [16383] demo
       s.commandIs 4 = true ∧ s.mbArg 0 < 16384 ∧ s.pkg.mgmt.package = none ∧ ∀ e ∈ s.pkg.wqs, e.2.en = false)
    ∧ (let s := commanded 5 [0x3FFFF] (onPkg (fun p => { p with fences := [3] }) demo)
       s.commandIs 5 = true ∧ (s.regionAt (s.mbArg 0)).isMem = true ∧ s.fencedWhole (s.mbArg 0) = false
        ∧ s.mbArg 0 / 65536 ∈ s.pkg.fences)
    ∧ (let s := commanded 5 [0x10000000000] (onPkg (fun p => { p with cxlDown := [0] }) demo)
       s.commandIs 5 = true ∧ (s.regionAt (s.mbArg 0)).isMem = true ∧ s.fencedWhole (s.mbArg 0) = true)
    ∧ (let s := commanded 5 [0x10000] demo
       s.commandIs 5 = true ∧ s.fenced (s.mbArg 0) = false)
    ∧ (let s := commanded 6 [0x200, 1200] demo
       s.commandIs 6 = true ∧ 2 = bitsOf (s.mbArg 0) 9 8 ∧ s.coreOfLcid 2 (s.mbArg 0 % 128) = some 0
        ∧ (vget 0 s.pkg.mgmt.mbarg 1).toInt ≤ 1200 ∧ 1200 < (vget 0 (commanded 6 [0x200, 1201] demo).pkg.mgmt.mbarg 1).toInt)
    ∧ (let s := commanded 7 [2, 65536] demo
       s.commandIs 7 = true ∧ s.mbArg 0 % 4 < 3 ∧ 65536 ≤ s.mbArg 1 ∧ s.mbArg 1 < 2 ^ 32
        ∧ (commanded 7 [2, 65535] demo).mbArg 1 < 65536)
    ∧ (onMgmt (fun m => { m with mbres := some 0x24 }) demo).pkg.mgmt.mbres = some 0x24 := by decide +kernel

theorem test_meets_PackageEvents :
    ((demo.core 0 0).trip.toInt ≤ (1200 : BitVec 16).toInt ∧ (1200 : BitVec 16).toInt ≤ 1200 ∧ -320 ≤ (0xFEC0 : BitVec 16).toInt
        ∧ (0xFEC0 : BitVec 16).toInt < (demo.core 0 0).trip.toInt ∧ demo.cpu.status = .running ∧ (demo.cpu.id.die, demo.cpu.id.core) = (0, 0)
        ∧ demo.cpu.front.mreq.getLsbD 0 = false)
      ∧ ((demo.regionAt 0xEE6B27FFF).isMem = true ∧ (demo.regionAt 0x8FFFFFFFFFF).isMem = true)
      ∧ ((11 : Nat) < 12 ∧ 0x10000000000 ≤ 0x100000B0000 ∧ (0x100000B0000 - 0x10000000000) / 65536 % 12 = 11)
      ∧ (∀ k, k < 8 → demo.writable (0xEE6B27FF8 + k) = true)
      ∧ (∀ k, k < 8 → (demo.regionAt (0x8FFFFFFFFF8 + k)).isMem = true ∧ demo.fenced (0x8FFFFFFFFF8 + k) = false)
      ∧ demo.badWords 0x8FFFFFFFFF8 8 = []
      ∧ (let s := onPkg (fun p => { p with fences := [0] }) demo
         (s.regionAt 0xFFF8).isMem = true ∧ s.writable 0xFFFF = false ∧ s.fenced 0xFFFF = true)
      ∧ (demo.regionAt 0xEE6B28000).isMem = false
      ∧ ((onMgmt (fun m => { m with package := some 5 }) demo).pkg.mgmt.package ≠ none ∧ demo.pkg.mgmt.package = none)
      ∧ (demo.isLocal (7 * 2 ^ 50) = false ∧ 7 * 2 ^ 50 / pkgSpan = 7) := by decide +kernel

theorem test_meets_StepRunsDecoded :
    (let s := poke 0x10000 4 0x0018B502 demo
     (s.pkg.power = true ∧ s.agenda = [] ∧ s.cpu.status = .running ∧ s.cpu.wait = none ∧ Quiet s ∧ s.cpu.owed = [] ∧ s.aheadOf s.cpu = none
        ∧ s.mayEnter = true)
      ∧ FetchesTo s (.add 10 11 12))
    ∧ (let s := poke 0x10000 8 0x000140400250D383 demo; FetchesTo s (.mldq ⟨0, 13, 8, 9, 64, 32, 2, 0⟩))
    ∧ (let s := poke 0x10000 2 0b001_00001_000011_00 demo; FetchesTo s (.hLi 1 3))
    ∧ Instr.waitEnd.isEvent = true
    ∧ (onPkg (fun p => { p with power := false }) demo).pkg.power = false := by
  refine ⟨⟨by unfold Quiet; decide +kernel, leBytes 2 0xB502, leBytes 4 0x0018B502, [], by decide +kernel⟩,
    ⟨leBytes 2 0xD383, leBytes 8 0x000140400250D383, [], by decide +kernel⟩,
    ⟨leBytes 2 0b001_00001_000011_00, leBytes 2 0b001_00001_000011_00, [], by decide +kernel⟩, rfl, rfl⟩

theorem test_meets_EncodingRoundTrip :
    (Instr.mldq ⟨7, 31, 31, 31, 256, 32, 32, 3⟩).isEvent = false ∧ wellFormed (.mldq ⟨7, 31, 31, 31, 256, 32, 32, 3⟩) = true
      ∧ decodeBytes (leBytes 8 0x000140400250D383 ++ [1]) = .ok (.mldq ⟨0, 13, 8, 9, 64, 32, 2, 0⟩, [1]) := by decide +kernel

theorem test_meets_MemoryStaysCanonical :
    Memory.wf (poke 0x10000 4 0x0018B502 demo).mem = true ∧ ∃ t, step (poke 0x10000 4 0x0018B502 demo) = .next t :=
  ⟨by decide +kernel, _, rfl⟩

/-! Single steps with results the spec states. -/

/-- spec/03, the example behind R70. -/
theorem test_step_division :
    ([(Instr.div 12 10 11, (-3 : W64)), (.rem 12 10 11, -1), (.div 12 10 0, -1), (.rem 12 10 0, -7)].all
      (fun e => (after e.1 (xs [(10, -7), (11, 2)] demo)).getX 12 == e.2)
    && [(Instr.mul 12 10 11, (0xFFFFFFFFFFFFFFFE : W64)), (.mulh 12 10 11, -1), (.mulhu 12 10 11, 1)].all
      (fun e => (after e.1 (xs [(10, -1), (11, 2)] demo)).getX 12 == e.2)) = true := by decide +kernel

/-- spec/03, R72 and R80. -/
theorem test_step_upper :
    ((after (.liu 10 0x80000) demo).getX 10 == 0xFFFFFFFF80000000 && (after (.hLiu 5 0x3F) demo).getX 5 == 0xFFFFFFFFFFFFF000
      && (after (.add 0 10 10) (xs [(10, 3)] demo)).getX 0 == 0) = true := by decide +kernel

/-- spec/03, the example behind R79. -/
theorem test_step_float_rounding :
    [((0 : BitVec 3), (0x3F800000 : W64)), (1, 0x3F800000), (3, 0x3F800001), (4, 0x3F800001)].all (fun e =>
      (after (.faddS 10 11 12) (xs [(11, 0x3F800000), (12, 0x33800000)] (onFront (fun f => { f with rmode := e.1 }) demo))).getX 10 == e.2)
      = true := by decide +kernel

theorem test_step_float_to_integer :
    ([((0 : BitVec 3), (-2 : W64)), (1, -2), (2, -3), (3, -2), (4, -3)].all (fun e =>
      (after (.fcvtLS 10 11) (xs [(11, 0xC0200000)] (onFront (fun f => { f with rmode := e.1 }) demo))).getX 10 == e.2)
      && (after (.fcvtLS 10 11) (xs [(11, 0x7F800000)] demo)).getX 10 == 0x7FFFFFFFFFFFFFFF) = true := by decide +kernel

/-- spec/05, the example behind R115: a whole share with one bed retired, and a full core. -/
theorem test_step_mxon :
    ((after (.mxon 10 11 12) (xs [(11, 300), (12, 300)] (onPkg (fun p => { p with cores := [(0, { CoreSt.reset with retired := [5] })] }) demo))).getX 10
        == 0x000000E000000100
      && (after (.mxon 10 11 12) (xs [(11, 300), (12, 300)] demo)).getX 10 == 0x0000010000000100) = true := by decide +kernel

/-- One row whose column 0 holds `p` under tag `t` in v`k`. -/
def put (k : Nat) (t : Tag) (p : Nat) (s : State) : State :=
  onFront (fun f => { f with vtag := vput f.vtag k t })
    (onBack (fun b => { b with v := (List.range ((tagP t + 15) / 16)).foldl (fun m j => mset 0 m ((k + j) * 65536) (BitVec.ofNat 16 (p / 2 ^ (16 * j)))) b.v }) s)

/-- spec/04, the example behind R93: INT8 −100 plus UINT16 40,000 is INT17 39,900; INT32 and UINT32 wrap, or saturate. -/
theorem test_step_promotion :
    (let s := after (.vadd (vo 8 4 6)) (put 4 tagInt8 0x9C (put 6 (tagUint 16) 40000 (tile 1 1 demo)))
     let w := tile 1 1 (put 4 (tagInt 32) 0x7FFFFFFF (put 6 (tagUint 32) 1 demo))
     vget 0 s.cpu.front.vtag 8 == tagInt 17 && elemAt s 8 (tagInt 17) 0 0 == 39900
      && elemAt (after (.vadd (vo 8 4 6)) w) 8 (tagInt 32) 0 0 == 0x80000000
      && elemAt (after (.vadd (vo 8 4 6 0 1)) w) 8 (tagInt 32) 0 0 == 0x7FFFFFFF) = true := by decide +kernel

/-- spec/06, the example behind R135: 0 + 1.125 × 7 with one rounding. -/
theorem test_step_vmacc :
    elemAt (after (.vmacc (vo 8 10 12)) (put 8 tagFp16 0 (put 10 4 0x39 (put 12 tagInt8 7 (tile 1 1 demo))))) 8 tagFp16 0 0 = 0x47E0 := by
  decide +kernel

/-- spec/06, the example behind R142. -/
theorem test_step_retag :
    (let s := put 4 tagInt8 0x12FD (put 2 (tagInt 16) 0 (tile 1 1 demo))
     let s := { s with cpu := { s.cpu with back := { s.cpu.back with v := [(4 * 65536, 0x12FD)] } } }
     elemAt (after (.vretag (vo 6 4 2)) s) 6 (tagInt 16) 0 0 == 0x12FD && elemAt (after (.vcvtH (vo 6 4 2)) s) 6 (tagInt 16) 0 0 == 0xFFFD) = true := by
  decide +kernel

/-- spec/07, the example behind R155: columns beyond vl are read, indices outside the share give 0. -/
theorem test_step_gather :
    (let f (l : List Nat) (k : Nat) : SMap (BitVec 16) := l.mapIdx (fun c p => (k * 65536 + c, BitVec.ofNat 16 p))
     let s := onBack (fun b => { b with v := f ((List.range 32).map (fun c => 10 * c)) 5 ++ f [3, 9, 16384, 0, 7, 7, 0xFFFF, 20] 6 })
      (onId (fun i => { i with share := 4 }) (onFront (fun f => { f with vtag := vput (vput f.vtag 5 (tagInt 16)) 6 (tagInt 16) }) (tile 1 8 demo)))
     (List.range 8).map (fun c => elemAt (after (.vrgath (vo 7 5 6)) s) 7 (tagInt 16) 0 c)) = [30, 90, 0, 0, 70, 70, 0, 200] := by
  decide +kernel

/-- spec/18, the example behind R359: member 0 arms for three of three members, and a member drops. -/
theorem test_step_barrier :
    (let s := onGang (fun g => { g with bars := Vector.replicate 2 { Barrier.reset with live := 3 } }) (xs [(11, 3)] demo)
     let t := after (.barArm 0 11) s
     let u := after (.barDrop 5) t
     barWord t.bar == 0x03030003 && u.getX 5 == 0x03030003 && barWord u.bar == 0x02020103) = true := by decide +kernel

/-- spec/17, the example behind R338, at 0x40000 with its samples from 0x50000 on. -/
def forestExample : State :=
  let d : List Nat := [0x146525331, 0x0000030404020180, 0x800000002, 0x800000002, 0x50000, 6, 64 + 80 * 2 ^ 32, 176, 3 * 2 ^ 32, 0,
    0x4020000000000000, 0x0000000200000001, 0x0000006400000004, 0, 0xFFFFFFD800000004, 0, 0x109, 0x0000000500000004,
    0x0000000700000004, 0, 0x000000FA00000004, 0]
  rows 2 (tagInt 32) [] (tile 1 2 (xs [(8, 0x40000), (9, 1)] (onPkg (fun p => { p with vitrines := [(3, ⟨2, 0, 1, 0x8000000000000001, 0, 0⟩)] })
    { demo with mem := cells 0x40000 (d.flatMap (leBytes 8)) ++ cells 0x50008 ([0xBF00000040400000, 0x7FC000003F800000].flatMap (leBytes 8)) })))

theorem test_step_vtree :
    rowsOf (after (.vtree (vm 8 9 2)) forestExample) 2
      = [[0xFFFFFFDF, 0x15E], [0x03000000, 0x03800000], [0x80006000, 0x8000E000]] := by decide +kernel

/-- A trap from a system call: where the values stand (R184). -/
theorem test_step_ecall :
    (let t := after .ecall demo
     t.cpu.front.epc == 0x10000 && t.cpu.front.ecause == 18 && t.cpu.front.pc == 0x800 && t.cpu.front.estat.getLsbD 0) = true := by
  decide +kernel

/-- spec/11, the stores of its first example, alone: bytes 2 and 3 of the word. -/
theorem test_step_store :
    readCells (after (.sth 7 6 2) (xs [(6, 0x20000), (7, 0x2222)] (poke 0x20000 4 0x11111111 demo))).mem 0x20000 4 = [0x11, 0x11, 0x22, 0x22] := by
  decide +kernel

end Sys2Proof.Tests
end

section
/-! PROOF. The values of the integer instructions (R69 to R72): each rule over natural numbers and integers is the bit-vector
operation of the same name. -/

namespace Sys2Proof.Machine

/-! Shifts and rotates take the amount B[5:0]. -/

theorem shamt_lt (b : W64) : shamt b < 64 := Nat.mod_lt _ (by decide)

@[simp] theorem shamt_ofFin (k : Fin 64) : shamt (BitVec.ofNat 64 k.val) = k.val := by
  have := k.isLt
  simp only [shamt, BitVec.toNat_ofNat]
  omega

theorem aluSll_eq (a b : W64) : aluSll a b = a <<< shamt b := by
  apply BitVec.eq_of_toNat_eq
  simp [aluSll, Nat.shiftLeft_eq]

theorem aluSrl_eq (a b : W64) : aluSrl a b = a >>> shamt b := by
  have hlt : a.toNat / 2 ^ shamt b < 2 ^ 64 := lt_of_le_of_lt (Nat.div_le_self _ _) a.isLt
  apply BitVec.eq_of_toNat_eq
  rw [aluSrl, BitVec.toNat_ofNat, Nat.mod_eq_of_lt hlt, BitVec.toNat_ushiftRight, Nat.shiftRight_eq_div_pow]

theorem aluSra_eq (a b : W64) : aluSra a b = a.sshiftRight (shamt b) := by
  have h : a.toInt / 2 ^ shamt b = (a.sshiftRight (shamt b)).toInt := by
    rw [BitVec.toInt_sshiftRight, Int.shiftRight_eq_div_pow]; norm_cast
  rw [aluSra, h, BitVec.ofInt_toInt]

/-- For an amount below 64 the two halves of a rotation share no bit, so their sum is their disjunction. -/
theorem rotl_eq (a : W64) (n : Nat) (h : n < 64) : rotl a n = a.rotateLeft n := by
  have hlow : a.toNat / 2 ^ (64 - n) < 2 ^ n := by
    rw [Nat.div_lt_iff_lt_mul (by positivity), ← pow_add, show n + (64 - n) = 64 by omega]
    exact a.isLt
  have hmod : 2 ^ n ∣ 2 ^ 64 := pow_dvd_pow 2 h.le
  apply BitVec.eq_of_toNat_eq
  rw [rotl, ← Nat.shiftLeft_eq, Nat.shiftLeft_add_eq_or_of_lt hlow, BitVec.toNat_ofNat, BitVec.toNat_rotateLeft,
    Nat.or_mod_two_pow, Nat.mod_eq_of_lt h, ← Nat.shiftRight_eq_div_pow,
    Nat.mod_eq_of_lt (a := a.toNat >>> (64 - n)) (by
      rw [Nat.shiftRight_eq_div_pow]; exact lt_of_le_of_lt (Nat.div_le_self _ _) a.isLt)]

theorem rotateLeft_sub_eq_rotateRight (a : W64) (n : Nat) (h : n < 64) : a.rotateLeft ((64 - n) % 64) = a.rotateRight n := by
  obtain rfl | hn := Nat.eq_zero_or_pos n
  · have h0 : a >>> 64 = 0 := BitVec.ushiftRight_eq_zero (le_refl 64)
    simp [BitVec.rotateLeft_def, BitVec.rotateRight_def, h0]
  · rw [BitVec.rotateLeft_mod_eq_rotateLeft, BitVec.rotateLeft_def, BitVec.rotateRight_def, Nat.mod_eq_of_lt h,
      Nat.mod_eq_of_lt (by omega : 64 - n < 64), show 64 - (64 - n) = n by omega, BitVec.or_comm]

theorem aluRol_eq (a b : W64) : aluRol a b = a.rotateLeft (shamt b) := rotl_eq a _ (shamt_lt b)

theorem aluRor_eq (a b : W64) : aluRor a b = a.rotateRight (shamt b) := by
  rw [aluRor, rotl_eq a _ (Nat.mod_lt _ (by decide)), rotateLeft_sub_eq_rotateRight a _ (shamt_lt b)]

/-! The upper half of a product. -/

/-- Bits 64 to 127 of an integer. -/
theorem ofInt_ediv_two_pow (z : Int) : BitVec.ofInt 64 (z / 2 ^ 64) = (BitVec.ofInt 128 z >>> 64).setWidth 64 := by
  apply BitVec.eq_of_toNat_eq
  simp only [BitVec.toNat_ofInt, BitVec.toNat_setWidth, BitVec.toNat_ushiftRight, Nat.shiftRight_eq_div_pow]
  omega

theorem aluMulh_eq (a b : W64) :
    aluMulh a b = ((a.signExtend 128 * b.signExtend 128) >>> 64).setWidth 64 := by
  rw [aluMulh, ofInt_ediv_two_pow, BitVec.ofInt_mul]; rfl

theorem aluMulhu_eq (a b : W64) :
    aluMulhu a b = ((a.setWidth 128 * b.setWidth 128) >>> 64).setWidth 64 := by
  have hlt : a.toNat * b.toNat < 2 ^ 128 := by
    calc a.toNat * b.toNat < 2 ^ 64 * 2 ^ 64 := Nat.mul_lt_mul'' a.isLt b.isLt
      _ = 2 ^ 128 := by norm_num
  have hwide (x : W64) : x.toNat % 2 ^ 128 = x.toNat := by have := x.isLt; omega
  apply BitVec.eq_of_toNat_eq
  simp only [aluMulhu, BitVec.toNat_ofNat, BitVec.toNat_setWidth, BitVec.toNat_ushiftRight, BitVec.toNat_mul, hwide,
    Nat.mod_eq_of_lt hlt, Nat.shiftRight_eq_div_pow]

/-! Division (R70). -/

theorem aluDiv_eq (a b : W64) : aluDiv a b = if b = 0 then BitVec.allOnes 64 else a.sdiv b := by
  have h : BitVec.ofInt 64 (a.toInt.tdiv b.toInt) = a.sdiv b := by
    apply BitVec.eq_of_toInt_eq
    rw [BitVec.toInt_ofInt, BitVec.toInt_sdiv]
  rw [aluDiv, h]

theorem aluDivu_eq (a b : W64) : aluDivu a b = if b = 0 then BitVec.allOnes 64 else a / b := by
  rw [aluDivu, ← BitVec.toNat_udiv, BitVec.ofNat_toNat, BitVec.setWidth_eq]

theorem aluRem_eq (a b : W64) : aluRem a b = if b = 0 then a else a.srem b := by
  rw [aluRem, ← BitVec.toInt_srem, BitVec.ofInt_toInt]

theorem aluRemu_eq (a b : W64) : aluRemu a b = if b = 0 then a else a % b := by
  rw [aluRemu, ← BitVec.toNat_umod, BitVec.ofNat_toNat, BitVec.setWidth_eq]

/-! Minimum and maximum. -/

theorem aluMin_eq (a b : W64) : aluMin a b = if b.slt a then b else a := by
  simp only [aluMin, BitVec.slt_iff_toInt_lt]

theorem aluMax_eq (a b : W64) : aluMax a b = if a.slt b then b else a := by
  simp only [aluMax, BitVec.slt_iff_toInt_lt]

theorem aluMinu_eq (a b : W64) : aluMinu a b = if b.ult a then b else a := by
  simp only [aluMinu, BitVec.ult_iff_lt, BitVec.lt_def]

theorem aluMaxu_eq (a b : W64) : aluMaxu a b = if a.ult b then b else a := by
  simp only [aluMaxu, BitVec.ult_iff_lt, BitVec.lt_def]

/-! Sign extension (R5) and the words of 32 bits. -/

/-- sext64 extends the low bits of its argument as a bit vector does. -/
theorem sext64_eq (n v : Nat) : sext64 n v = (BitVec.ofNat n v).signExtend 64 := by
  have h : sgn n v = (BitVec.ofNat n v).toInt := by
    simp [sgn, BitVec.toInt_eq_toNat_cond]
  rw [sext64, h]; rfl

/-- Equal signed values extend alike, whatever their widths. -/
theorem signExtend_congr {m n : Nat} {a : BitVec m} {b : BitVec n} (h : a.toInt = b.toInt) :
    a.signExtend 64 = b.signExtend 64 := congrArg (BitVec.ofInt 64) h

theorem aluAddw_eq (a b : W64) : aluAddw a b = ((a + b).setWidth 32).signExtend 64 := by
  have h : BitVec.ofNat 32 (a.toNat + b.toNat) = (a + b).setWidth 32 := by
    rw [BitVec.setWidth_add a b (by decide), BitVec.ofNat_add, BitVec.ofNat_toNat, BitVec.ofNat_toNat]
  rw [aluAddw, sext64_eq, h]

theorem aluSubw_eq (a b : W64) : aluSubw a b = ((a - b).setWidth 32).signExtend 64 := by
  rw [aluSubw, sext64_eq, BitVec.ofNat_toNat]

/-- K of R72 is the immediate above twelve zeros. -/
theorem immU_eq (v : BitVec 20) : immU v = (v ++ (0 : BitVec 12)).signExtend 64 := by
  have h : BitVec.ofNat 32 (v.toNat * 4096) = v ++ (0 : BitVec 12) := by
    have := v.isLt
    apply BitVec.eq_of_toNat_eq
    rw [BitVec.toNat_append, BitVec.toNat_ofNat, Nat.shiftLeft_eq, Nat.mod_eq_of_lt (by omega)]
    exact (Nat.or_zero _).symm
  rw [immU, sext64_eq, h]

/-- The immediate of H.LIU, extended to that of LIU. -/
theorem immU_signExtend (v : BitVec 6) : immU (v.signExtend 20) = (v ++ (0 : BitVec 12)).signExtend 64 := by
  rw [immU_eq]
  refine signExtend_congr ?_
  change (v.signExtend 20 ++ 0#12).toInt = (v ++ 0#12).toInt
  rw [BitVec.toInt_append_zero, BitVec.toInt_append_zero, BitVec.toInt_signExtend_of_le (by decide)]

/-! Counts of bits. -/

theorem natBits_eq_map_testBit (n v : Nat) : natBits n v = (List.range n).map v.testBit := by
  induction n generalizing v with
  | zero => rfl
  | succ k ih =>
    rw [natBits, ih, List.range_succ_eq_map, List.map_cons, List.map_map, Nat.testBit_zero]
    simp only [List.cons.injEq, true_and]
    exact List.map_congr_left (fun i _ => (Nat.testBit_succ v i).symm)

/-- One bit more. -/
theorem popCount_succ (n v : Nat) : popCount (n + 1) v = popCount n v + (v.testBit n).toNat := by
  simp only [popCount, natBits_eq_map_testBit, List.range_succ, List.map_append, List.filter_append, List.length_append]
  cases h : v.testBit n <;> simp [h]

theorem popCount_eq_cpopNatRec {w : Nat} (x : BitVec w) (n : Nat) : popCount n x.toNat = x.cpopNatRec n 0 := by
  induction n with
  | zero => rfl
  | succ k ih => rw [popCount_succ, ih, BitVec.cpopNatRec_succ, BitVec.cpopNatRec_eq (0 + _), Nat.zero_add]; rfl

theorem aluCpop_eq (a : W64) : aluCpop a = a.cpop := congrArg (BitVec.ofNat 64) (popCount_eq_cpopNatRec a 64)

theorem aluClz_eq (a : W64) : aluClz a = a.clz := by
  unfold aluClz
  split
  case isTrue h => exact (BitVec.clz_eq_iff_eq_zero.2 h).symm
  case isFalse h =>
    have hn : a.toNat ≠ 0 := fun e => h (BitVec.eq_of_toNat_eq e)
    have hc : a.clz.toNat < 64 := BitVec.clz_lt_iff_ne_zero.2 h
    have hlog : Nat.log2 a.toNat = 63 - a.clz.toNat := by
      rw [Nat.log2_eq_iff hn, show 63 - a.clz.toNat + 1 = 64 - a.clz.toNat by omega]
      exact ⟨BitVec.two_pow_sub_clz_le_toNat_of_ne_zero (by decide) h, BitVec.toNat_lt_two_pow_sub_clz⟩
    rw [hlog, show 63 - (63 - a.clz.toNat) = a.clz.toNat by omega, BitVec.ofNat_toNat, BitVec.setWidth_eq]

theorem toNat_ctz_zero : (0 : W64).ctz.toNat = 64 :=
  congrArg BitVec.toNat (BitVec.clz_eq_iff_eq_zero.2 (BitVec.reverse_eq_zero_iff.2 rfl))

/-- The first bit that is 1, or 64 where none is. -/
theorem findIdx_natBits (a : W64) : (natBits 64 a.toNat).findIdx id = a.ctz.toNat := by
  rw [natBits_eq_map_testBit]
  by_cases h : a = 0
  · subst h
    rw [toNat_ctz_zero, List.findIdx_eq_length_of_false (by simp)]
    simp
  · have hc : a.ctz.toNat < 64 := BitVec.ctz_lt_iff_ne_zero.2 h
    rw [List.findIdx_eq (by simpa using hc)]
    refine ⟨?_, fun j hj => ?_⟩
    · simpa [BitVec.testBit_toNat] using BitVec.getLsbD_true_ctz_of_ne_zero h
    · simpa [BitVec.testBit_toNat] using BitVec.getLsbD_false_of_lt_ctz hj

theorem aluCtz_eq (a : W64) : aluCtz a = a.ctz := by
  have hle : a.ctz.toNat ≤ 64 := BitVec.clz_le (x := a.reverse)
  have hlen : ((natBits 64 a.toNat).takeWhile (fun b => !b)).length = a.ctz.toNat := by
    rw [List.takeWhile_eq_take_findIdx_not, List.length_take]
    simp only [Bool.not_not]
    rw [show (fun b : Bool => b) = id from rfl, findIdx_natBits, natBits_eq_map_testBit]
    simpa using hle
  rw [aluCtz, hlen, BitVec.ofNat_toNat, BitVec.setWidth_eq]

end Sys2Proof.Machine
end

section
/-! PROOF. What the front end's shared operations do: computing a register, branching and jumping complete the instruction and
leave the rest of the machine alone (R65, R67, R73, R74). -/

namespace Sys2Proof.Claims

open Sys2Proof.Machine

/-- Completing an instruction moves the stream and touches no register. -/
theorem keepsX_retireTo (s : State) (p : W64) : KeepsX s (s.retireTo p) := fun _ => rfl

theorem retiresAt_retireTo (s : State) (p : W64) : RetiresAt s (s.retireTo p) p :=
  ⟨rfl, rfl, rfl, rfl, rfl, fun _ => rfl⟩

theorem writesX_setX_retireTo (s : State) (d : Reg) (v p : W64) : WritesX s ((s.setX d v).retireTo p) d v := by
  refine ⟨?_, fun r hr => ?_⟩
  · rw [State.getX_retireTo, State.getX_setX, if_pos rfl]
  · rw [State.getX_retireTo, State.getX_setX, if_neg hr]

/-- A write of x[d] changes nothing that `RetiresAt` keeps: x0 discards it, any other register is among the x registers. -/
theorem retiresAt_setX_retireTo (s : State) (d : Reg) (v p : W64) : RetiresAt s ((s.setX d v).retireTo p) p := by
  refine ⟨?_, rfl, rfl, rfl, rfl, fun _ => rfl⟩
  rw [State.retireTo_front, State.setX_front, Front.setX_eq]

theorem compute_eq_retireTo (s : State) (len : Nat) (d : Reg) (v : W64) :
    s.compute len d v = (s.setX d v).retireTo (s.cpu.front.pc + BitVec.ofNat 64 len) := by
  have hpc : (s.setX d v).cpu.front.pc = s.cpu.front.pc := by rw [State.setX_front, Front.setX_eq]
  rw [State.compute, State.retire, hpc]

/-- Computing a register, said once for every instruction that does it: the write and the completion. -/
theorem compute_spec (s : State) (len : Nat) (d : Reg) (v : W64) :
    WritesX s (s.compute len d v) d v ∧ RetiresAt s (s.compute len d v) (s.cpu.front.pc + BitVec.ofNat 64 len) := by
  rw [compute_eq_retireTo]
  exact ⟨writesX_setX_retireTo s d v _, retiresAt_setX_retireTo s d v _⟩

/-- A branch completes at one address or the other. -/
theorem branch_eq_retireTo (s : State) (len : Nat) (c : Bool) (off : W64) :
    s.branch len c off = s.retireTo (s.cpu.front.pc + if c then off else BitVec.ofNat 64 len) := by
  cases c <;> rfl

/-- Offsets count halfwords. -/
theorem two_mul_sx {n : Nat} (v : BitVec n) : (2 : W64) * sx v = v.signExtend 64 <<< 1 := by
  rw [BitVec.shiftLeft_eq_mul_twoPow, BitVec.mul_comm]; rfl

end Sys2Proof.Claims
end

section
/-! PROOF. The integer and scalar floating-point instructions (R69 to R72, R75 to R80): each computes its rule's value into x[d]. -/

namespace Sys2Proof.Claims

open Sys2Proof Sys2Proof.Machine

theorem next_compute_congr {s : State} {len : Nat} {d : Reg} {v w : W64} (h : v = w) :
    (.next (s.compute len d v) : Out) = .next (s.compute len d w) := by rw [h]

/-- The effect is `State.compute` of the rule's value: by definition where the model computes with the bit-vector operation itself,
else by the lemma that its rule over numbers is that operation. -/
theorem exec_of_intResult {i : Instr} {s : State} {d : Reg} {v : W64} {len : Nat} (h : intResult i s = some (d, v, len)) :
    exec i s = .next (s.compute len d v) := by
  cases i with
  | add | sub | and | or | xor | mul | slt | sltu | addi | andi | ori | xori | slti | sltiu
  | hAddi | hLi | hMov | hAdd | hSub | hNop => cases h; rfl
  | sll => cases h; exact next_compute_congr (aluSll_eq _ _)
  | srl => cases h; exact next_compute_congr (aluSrl_eq _ _)
  | sra => cases h; exact next_compute_congr (aluSra_eq _ _)
  | mulh => cases h; exact next_compute_congr (aluMulh_eq _ _)
  | mulhu => cases h; exact next_compute_congr (aluMulhu_eq _ _)
  | div => cases h; exact next_compute_congr (aluDiv_eq _ _)
  | divu => cases h; exact next_compute_congr (aluDivu_eq _ _)
  | rem => cases h; exact next_compute_congr (aluRem_eq _ _)
  | remu => cases h; exact next_compute_congr (aluRemu_eq _ _)
  | min => cases h; exact next_compute_congr (aluMin_eq _ _)
  | max => cases h; exact next_compute_congr (aluMax_eq _ _)
  | minu => cases h; exact next_compute_congr (aluMinu_eq _ _)
  | maxu => cases h; exact next_compute_congr (aluMaxu_eq _ _)
  | addw | addiw => cases h; exact next_compute_congr (aluAddw_eq _ _)
  | subw => cases h; exact next_compute_congr (aluSubw_eq _ _)
  | clz => cases h; exact next_compute_congr (aluClz_eq _)
  | ctz => cases h; exact next_compute_congr (aluCtz_eq _)
  | cpop => cases h; exact next_compute_congr (aluCpop_eq _)
  | rol => cases h; exact next_compute_congr (aluRol_eq _ _)
  | ror => cases h; exact next_compute_congr (aluRor_eq _ _)
  | slli d a k | hSlli d k => cases h; exact next_compute_congr ((aluSll_eq _ _).trans (by rw [shamt_ofFin]))
  | srli d a k => cases h; exact next_compute_congr ((aluSrl_eq _ _).trans (by rw [shamt_ofFin]))
  | srai d a k => cases h; exact next_compute_congr ((aluSra_eq _ _).trans (by rw [shamt_ofFin]))
  | rori d a k => cases h; exact next_compute_congr ((aluRor_eq _ _).trans (by rw [shamt_ofFin]))
  | liu => cases h; exact next_compute_congr (immU_eq _)
  | pcadd => cases h; exact next_compute_congr (congrArg _ (immU_eq _))
  | hLiu => cases h; exact next_compute_congr (immU_signExtend _)
  | _ => cases h

/-- Here the statement and the model round the same exact value, by the same rmode, so the split alone decides. -/
theorem exec_of_floatResult {i : Instr} {s : State} {d : Reg} {v : W64} (h : floatResult i s = some (d, v)) :
    exec i s = .next (s.compute 4 d v) := by
  cases i with
  | faddS | fsubS | fmulS | fdivS | fsqrtS | fminS | fmaxS | feqS | fltS | faddD | fsubD | fmulD | fdivD | fsqrtD
  | fcvtSL | fcvtLS | fcvtSD | fcvtDS | fcvtDL | fcvtLD => cases h; rfl
  | _ => cases h

/-- Settles O1, from the value lemma of each instruction and what computing a register does. -/
theorem integerResults : Obligations.IntegerResults := by
  intro i s d v len h
  exact ⟨s.compute len d v, exec_of_intResult h, compute_spec s len d v⟩

/-- Settles O2, as O1: every scalar floating-point instruction computes one register. -/
theorem floatResults : Obligations.FloatResults := by
  intro i s d v h
  exact ⟨s.compute 4 d v, exec_of_floatResult h, compute_spec s 4 d v⟩

end Sys2Proof.Claims
end

section
/-! PROOF. Branches and jumps (R73, R74, R80). -/

namespace Sys2Proof.Claims

open Sys2Proof Sys2Proof.Machine

theorem next_branch_eq {n : Nat} {s : State} {len : Nat} {c c' : Bool} (v : BitVec n) (h : c = c') :
    (.next (s.branch len c (2 * sx v)) : Out)
      = .next (s.retireTo (s.cpu.front.pc + if c' then v.signExtend 64 <<< 1 else BitVec.ofNat 64 len)) := by
  rw [branch_eq_retireTo, two_mul_sx, h]

theorem decide_toInt_le (a b : W64) : decide (b.toInt ≤ a.toInt) = !a.slt b := by
  rw [← BitVec.sle_eq_decide, BitVec.sle_eq_not_slt]

theorem decide_toNat_le (a b : W64) : decide (b.toNat ≤ a.toNat) = !a.ult b := by
  rw [BitVec.ult, ← decide_not, decide_eq_decide]
  exact Nat.not_lt.symm

/-- The effect is completion at the target: the model's conditions over signed and natural numbers are the bit-vector orders. -/
theorem exec_of_branchTarget {i : Instr} {s : State} {p : W64} (h : branchTarget i s = some p) :
    exec i s = .next (s.retireTo p) := by
  cases i with
  | beq a b v | bne a b v | blt a b v | bltu a b v | hBz a v | hBnz a v => cases h; exact next_branch_eq v rfl
  | bge a b v => cases h; exact next_branch_eq v (decide_toInt_le _ _)
  | bgeu a b v => cases h; exact next_branch_eq v (decide_toNat_le _ _)
  | hJmp v => cases h; rw [← two_mul_sx]; rfl
  | hJmpr => cases h; rfl
  | _ => cases h

/-- Settles O3: a branch is completion at its target, and completion touches no register. -/
theorem branchTargets : Obligations.BranchTargets := by
  intro i s p h
  exact ⟨s.retireTo p, exec_of_branchTarget h, keepsX_retireTo s p, retiresAt_retireTo s p⟩

/-- Settles O4: both jumps write the link and complete at a target computed from the state before the write. -/
theorem jumpsLink : Obligations.JumpsLink := by
  refine ⟨fun d off s => ⟨_, rfl, writesX_setX_retireTo s d _ _, ?_⟩,
    fun d a imm s => ⟨_, rfl, writesX_setX_retireTo s d _ _, retiresAt_setX_retireTo s d _ _⟩⟩
  rw [← two_mul_sx]
  exact retiresAt_setX_retireTo s d _ _

end Sys2Proof.Claims
end

section
/-! PROOF. Queues after a trap is taken (R184). -/

namespace Sys2Proof.Machine

/-- A queue at rest keeps its rows. -/
theorem Back.rows_queue_rested (b : Back) (k : Nat) : (b.rested.queue k).rows = (b.queue k).rows := by
  unfold Back.rested Back.queue vget
  by_cases hk : k < 6 <;> simp [hk]

end Sys2Proof.Machine
end

section
/-! PROOF. Completing an instruction that has set front registers, and taking a trap with nothing older uncompleted (R184, R369). -/

namespace Sys2Proof.Claims

open Sys2Proof Sys2Proof.Machine

/-- What has retired after front registers were set has retired with them: `f` counts no instruction of its own. -/
theorem retiresOnly_of_retiresAt_setFront {s t : State} {f : Front} {p : W64} (h : RetiresAt (s.setFront f) t p)
    (hf : f.instret = s.cpu.front.instret) : RetiresOnly s t { f with x := t.cpu.front.x, pc := p } := by
  obtain ⟨hfront, hhart, hrest⟩ := h
  have hback : t.cpu.back = s.cpu.back := (congrArg Hart.back hhart :)
  have hlanes : t.cpu.lanes = s.cpu.lanes := (congrArg Hart.lanes hhart :)
  have hskips : t.cpu.skips = s.cpu.skips := (congrArg Hart.skips hhart :)
  refine ⟨⟨?_, ?_, .inl hlanes⟩, hrest⟩
  · rw [hfront, State.setFront_front, hf]
  · rw [hback, hlanes, hskips]
    exact hhart

/-- `RetiresOnly` leaves the lanes' side open. -/
theorem retiresOnly_setBack (s t : State) (b : Back) (f : Front) : RetiresOnly (s.setBack b) t f ↔ RetiresOnly s t f := Iff.rfl

/-- estat of a trap that names no element and no queue (R182). -/
theorem trapEstat_trapOf (i : Instr) (c : Cause) (eval sub : Nat) :
    trapEstat (trapOf i c eval sub) = estatOf sub 0 15 (sideOf i) false i.len := by
  unfold trapEstat trapOf estatOf
  rw [show (if i.len = 2 then 0 else if i.len = 4 then 1 else 2) = ilenCode i.len from rfl]
  simp [Nat.shiftLeft_eq, Nat.mul_comm]

theorem traps_raise_trapOf {s : State} (i : Instr) {c : Cause} (eval sub : Nat) (hin : s.cpu.inflight = []) (hc : CanTrap s)
    (hd : c ≠ .dataError) :
    Traps s (s.raise i (trapOf i c eval sub)) (causeCode c) (BitVec.ofNat 64 eval) (estatOf sub 0 15 (sideOf i) false i.len) 0 := by
  obtain ⟨htvec, hactive⟩ := hc
  rw [State.raise_nil s i _ hin, State.takeTrap_taken s _ htvec hactive hd, ← trapEstat_trapOf i c eval sub]
  exact ⟨rfl, rfl, rfl, rfl, rfl, fun _ => rfl⟩

/-- Taking a trap leaves the rows of the queues (R184). -/
theorem rows_raise_trapOf {s : State} (i : Instr) {c : Cause} (eval sub k : Nat) (hin : s.cpu.inflight = []) (hc : CanTrap s)
    (hd : c ≠ .dataError) :
    ((s.raise i (trapOf i c eval sub)).cpu.back.queue k).rows = (s.cpu.back.queue k).rows := by
  obtain ⟨htvec, hactive⟩ := hc
  rw [State.raise_nil s i _ hin, State.takeTrap_taken s _ htvec hactive hd]
  exact Back.rows_queue_rested s.cpu.back k

theorem ofNat_getU (s : State) (r : Reg) : BitVec.ofNat 64 (s.getU r) = s.getX r := by
  rw [State.getU, BitVec.ofNat_toNat, BitVec.setWidth_eq]

end Sys2Proof.Claims
end

section
/-! PROOF. The SHAPE forms (R107 to R111). -/

namespace Sys2Proof.Claims

open Sys2Proof Sys2Proof.Machine

theorem srcTag_eq_tagOf (f : Front) (r : Reg) : f.srcTag r = tagOf f r := by
  have hr := r.isLt
  unfold Front.srcTag tagOf
  split
  case isTrue h => simp [vget, h]
  case isFalse h => simp [vget, show r.val - 28 < 4 by omega]

theorem grant_eq_grantOf (tag : Tag) (lim q n : Nat) : grant tag lim q n = grantOf tag lim q n := by
  simp [grant, grantOf]

theorem shorten_eq_shortened (tag : Tag) (free : Nat) (g : Nat × Nat) : shorten (tagP tag) free g = shortened tag free g := by
  unfold shorten shortened
  by_cases h : g.1 = 0
  · simp [h]
  · simp [h, Nat.pos_of_ne_zero h]

/-- A shortened grant keeps its rows, and its columns or a smaller multiple of 32 (R110). -/
theorem shortened_spec (tag : Tag) (free : Nat) (g : Nat × Nat) :
    ∃ vl, shortened tag free g = (g.1, vl) ∧ (vl = g.2 ∨ (vl < g.2 ∧ 32 ≤ vl ∧ vl % 32 = 0)) := by
  unfold shortened
  dsimp only
  split
  case isTrue h =>
    obtain ⟨-, hwide, hcap⟩ := h
    exact ⟨_, rfl, .inr (by omega)⟩
  case isFalse => exact ⟨g.2, rfl, .inl rfl⟩

/-- Writing a grant, said once for the three forms (R109). -/
theorem grants_granted (s : State) (d : Reg) (tag : Tag) (g : Nat × Nat) : Grants s (s.granted d tag g) d tag g := by
  obtain ⟨hx, hat⟩ := compute_spec (s.setFront { s.cpu.front with
    wtag := tag, rc := g.1, vl := g.2, interval := s.cpu.front.interval + 1 }) 4 d (BitVec.ofNat 64 g.2)
  exact ⟨hx, retiresOnly_of_retiresAt_setFront hat rfl, rfl⟩

/-- What SHAPE.M grants when it finds `free` bytes free (R110); a duplicated launch ignores them. -/
def queueGrant (s : State) (a b r : Reg) (free : Nat) : Nat × Nat :=
  let g := grantOf (tagOf s.cpu.front r) s.vlmax (s.getU a) (s.getU b)
  if s.inDup then g else shortened (tagOf s.cpu.front r) free g

/-- SHAPE.M draws two free values and grants by the space it then finds (log 5). -/
theorem exec_shapeM (d a b r : Reg) (s : State) (h : s.queueHeld (.shapeM d a b r) = false) :
    exec (.shapeM d a b r) s
      = .next (s.tock.tock.granted d (tagOf s.cpu.front r) (queueGrant s a b r (s.spaceNow (r.val - 28)))) := by
  change execShapeM d a b r s = _
  simp only [execShapeM, queueGrant, h, Bool.false_eq_true, if_false, srcTag_eq_tagOf, grant_eq_grantOf, shorten_eq_shortened]

/-- The two values drawn are no part of what `Grants` speaks of. -/
theorem exec_shapeM_grants (d a b r : Reg) (s : State) (h : s.queueHeld (.shapeM d a b r) = false) :
    ∃ t, exec (.shapeM d a b r) s = .next t
      ∧ Grants s t d (tagOf s.cpu.front r) (queueGrant s a b r (s.spaceNow (r.val - 28))) :=
  ⟨_, exec_shapeM d a b r s h, grants_granted s.tock.tock d _ _⟩

/-- Of a queue at rest, every row has been reserved and every row taken has been consumed, so SHAPE.M finds its free space. -/
theorem spaceNow_of_rest (s : State) (q : Nat) (hin : s.cpu.inflight = []) (hgone : (s.cpu.back.queue q).gone = [])
    (hsure : (s.cpu.back.queue q).sure = (s.cpu.back.queue q).rows.length) : s.spaceNow q = s.free q := by
  simp [State.spaceNow, hin, hgone, hsure, within]

/-- Whatever the free space, SHAPE.M grants SHAPE's rows, and its columns or a smaller multiple of 32. -/
theorem queueGrant_spec (s : State) (a b r : Reg) (free : Nat) :
    let g := grantOf (tagOf s.cpu.front r) s.vlmax (s.getU a) (s.getU b)
    ∃ vl, queueGrant s a b r free = (g.1, vl) ∧ (vl = g.2 ∨ (vl < g.2 ∧ 32 ≤ vl ∧ vl % 32 = 0)) := by
  intro g
  unfold queueGrant
  split
  case isTrue => exact ⟨_, rfl, .inl rfl⟩
  case isFalse => exact shortened_spec _ _ _

/-- Settles O17: the three forms write a grant, and only the number of bytes that SHAPE.M finds free is open. -/
theorem shapeGrants : Obligations.ShapeGrants := by
  refine ⟨⟨fun d a b r s => ⟨_, rfl, ?_⟩, fun d a b r s => ⟨_, rfl, ?_⟩, fun d a b r s _ hin hgone hsure => ?_⟩,
    fun d a b r s hheld => ?_⟩
  · rw [srcTag_eq_tagOf, grant_eq_grantOf]
    exact grants_granted s d _ _
  · rw [srcTag_eq_tagOf, grant_eq_grantOf]
    exact grants_granted s d _ _
  · have hheld : s.queueHeld (.shapeM d a b r) = false := by simp [State.queueHeld, hin]
    have hgrants := exec_shapeM_grants d a b r s hheld
    rwa [spaceNow_of_rest s _ hin hgone hsure] at hgrants
  · obtain ⟨t, ht, hgrants⟩ := exec_shapeM_grants d a b r s hheld
    obtain ⟨vl, hvl, hbound⟩ := queueGrant_spec s a b r (s.spaceNow (r.val - 28))
    exact ⟨t, ht, vl, hvl ▸ hgrants, hbound⟩

end Sys2Proof.Claims
end

section
/-! PROOF. VTAG, QCFG and GETSH (R82, R113, R114, R117). -/

namespace Sys2Proof.Claims

open Sys2Proof Sys2Proof.Machine

/-- VTAG retags one register. -/
theorem retag_one (f : Front) (n : Nat) (t : Tag) : f.retag n 1 t = { f with vtag := vput f.vtag n t } := rfl

/-- Retagging a queue changes nothing but the queue tags. -/
theorem exists_retagQueue_eq (f : Front) (n : Nat) (t : Tag) :
    ∃ qt sqt, f.retagQueue n t = { f with qtag := qt, sqtag := sqt } := by
  unfold Front.retagQueue
  split
  · exact ⟨_, f.sqtag, rfl⟩
  · exact ⟨f.qtag, _, rfl⟩

theorem queueTag_retagQueue (f : Front) (n k : Nat) (t : Tag) (hn : n < 6) :
    (f.retagQueue n t).queueTag k = if k = n then t else f.queueTag k := by
  unfold Front.retagQueue Front.queueTag
  by_cases hload : n < 4
  · by_cases hk : k < 4
    · simp [hload, hk, vget_vput]
    · simp [hload, hk, show k ≠ n by omega]
  · by_cases hk : k < 4
    · simp [hload, hk, show k ≠ n by omega]
    · simp [hload, hk, vget_vput, show n - 4 < 2 by omega, show k - 4 = n - 4 ↔ k = n by omega]

/-- The model's test of a tag value is that of R82 and R113. -/
theorem tagValue_iff (v : W64) : tagValue v = true ↔ v.toNat < 65536 ∧ tagValid (v.setWidth 16) = true := by
  simp [tagValue]

theorem namesTile_iff (f : Front) (r : Reg) : namesTile f r = true ↔ f.mmode = true ∧ 20 ≤ r.val ∧ r.val < 28 := by
  simp [namesTile, and_assoc]

theorem exec_vtag (n a : Reg) (s : State) (htile : namesTile s.cpu.front n = false) (hv : tagValue (s.getX a) = true) :
    exec (.vtag n a) s = .next ((s.setFront (s.cpu.front.retag n.val 1 ((s.getX a).setWidth 16))).retire 4) := by
  change execVtag n a s = _
  simp [execVtag, htile, hv]

theorem exec_vtag_illegal (n a : Reg) (s : State) (htile : namesTile s.cpu.front n = false) (hv : tagValue (s.getX a) = false) :
    exec (.vtag n a) s = .next (s.raise (.vtag n a) (trapOf (.vtag n a) .illegalTag (s.getU a) 0)) := by
  change execVtag n a s = _
  simp [execVtag, htile, hv]

/-- With nothing in flight, QCFG waits only for the rows of a store queue (R114). -/
theorem exec_qcfg (q a : Reg) (s : State) (hin : s.cpu.inflight = []) (hdrained : 4 ≤ q.val → (s.cpu.back.queue q.val).rows = [])
    (hv : tagValue (s.getX a) = true) :
    exec (.qcfg q a) s = .next (((s.setBack (s.cpu.back.setQueue q.val QState.empty)).setFront
      (s.cpu.front.retagQueue q.val ((s.getX a).setWidth 16))).retire 4) := by
  have hrows : (decide (4 ≤ q.val) && !(s.cpu.back.queue q.val).rows.isEmpty) = false := by
    by_cases h : 4 ≤ q.val
    · simp [hdrained h]
    · simp [h]
  change execQcfg q a s = _
  simp [execQcfg, hv, hin, hrows]

theorem exec_qcfg_illegal (q a : Reg) (s : State) (hv : tagValue (s.getX a) = false) :
    exec (.qcfg q a) s = .next (s.raise (.qcfg q a) (trapOf (.qcfg q a) .illegalTag (s.getU a) 0)) := by
  change execQcfg q a s = _
  simp [execQcfg, hv]

/-- R113: the tag of register `n` alone changes. -/
theorem vtag_sets (n a : Reg) (s : State) (hn : n.val < 28) (htile : namesTile s.cpu.front n = false)
    (hv : tagValue (s.getX a) = true) :
    ∃ t, exec (.vtag n a) s = .next t ∧ t.cpu.back = s.cpu.back ∧ KeepsX s t
      ∧ RetiresOnly s t { past s t 4 with vtag := t.cpu.front.vtag }
      ∧ ∀ k, k < 28 → vget 0 t.cpu.front.vtag k = if k = n.val then (s.getX a).setWidth 16 else vget 0 s.cpu.front.vtag k := by
  have hat := retiresAt_retireTo (s.setFront (s.cpu.front.retag n.val 1 ((s.getX a).setWidth 16)))
    (s.cpu.front.pc + BitVec.ofNat 64 4)
  refine ⟨_, exec_vtag n a s htile hv, rfl, fun _ => rfl, retiresOnly_of_retiresAt_setFront hat rfl, fun k _ => ?_⟩
  rw [State.retire_front, State.setFront_front, retag_one, vget_vput]
  simp [hn]

/-- R114: queue `q` alone is emptied and retagged. -/
theorem qcfg_sets (q a : Reg) (s : State) (hq : q.val < 6) (hin : s.cpu.inflight = [])
    (hdrained : 4 ≤ q.val → (s.cpu.back.queue q.val).rows = []) (hv : tagValue (s.getX a) = true) :
    ∃ t, exec (.qcfg q a) s = .next t ∧ KeepsX s t
      ∧ RetiresOnly s t { past s t 4 with qtag := t.cpu.front.qtag, sqtag := t.cpu.front.sqtag }
      ∧ t.cpu.back = { s.cpu.back with queues := t.cpu.back.queues }
      ∧ (∀ k, k < 6 → t.cpu.front.queueTag k = if k = q.val then (s.getX a).setWidth 16 else s.cpu.front.queueTag k)
      ∧ (∀ k, k < 6 → t.cpu.back.queue k = if k = q.val then QState.empty else s.cpu.back.queue k) := by
  obtain ⟨qt, sqt, hcont⟩ := exists_retagQueue_eq s.cpu.front q.val ((s.getX a).setWidth 16)
  refine ⟨_, exec_qcfg q a s hin hdrained hv, fun r => ?_, ?_, rfl, fun k _ => ?_, fun k _ => ?_⟩
  · rw [hcont]; rfl
  · rw [hcont]
    have hat := retiresAt_retireTo ((s.setBack (s.cpu.back.setQueue q.val QState.empty)).setFront
      { s.cpu.front with qtag := qt, sqtag := sqt }) (s.cpu.front.pc + BitVec.ofNat 64 4)
    exact (retiresOnly_setBack s _ _ _).mp (retiresOnly_of_retiresAt_setFront hat rfl)
  · exact queueTag_retagQueue s.cpu.front q.val k _ hq
  · rw [State.retire_back, State.setFront_back, State.setBack_back, Back.queue_setQueue]
    simp [hq]

/-- The table of the statement lists the model's items in the order of their selectors. -/
theorem shapeTable_eq_map (s : State) (n : Nat) : shapeTable s n = (List.range 15).map (fun k => s.shapeItem k n) := rfl

theorem shapeItem_of_shapeTable {s : State} {sel n v : Nat} (h : (shapeTable s n)[sel]? = some v) : s.shapeItem sel n = v := by
  rw [shapeTable_eq_map, List.getElem?_map, Option.map_eq_some_iff] at h
  obtain ⟨k, hk, hitem⟩ := h
  obtain ⟨hlt, rfl⟩ := List.getElem?_eq_some_iff.1 hk
  rwa [List.getElem_range] at hitem

/-- Settles O18: VTAG and QCFG with a valid value, their traps with any other, and GETSH computing its item. -/
theorem tagsAreSet : Obligations.TagsAreSet := by
  refine ⟨⟨fun n a s hn htile hlt hv => ?_, fun q a s hq hin hdrained hlt hv => ?_, fun n a s hin hc htile hbad => ?_,
    fun q a s _ hin hc hbad => ?_⟩, fun d sel n s v h => ?_⟩
  · have htile : namesTile s.cpu.front n = false :=
      Bool.eq_false_iff.2 fun h => htile (((namesTile_iff _ _).1 h).imp_right And.left)
    exact vtag_sets n a s hn htile ((tagValue_iff _).2 ⟨hlt, hv⟩)
  · exact qcfg_sets q a s hq hin hdrained ((tagValue_iff _).2 ⟨hlt, hv⟩)
  · have htile : namesTile s.cpu.front n = false := Bool.eq_false_iff.2 (mt (namesTile_iff _ _).1 htile)
    have hbad : tagValue (s.getX a) = false := Bool.eq_false_iff.2 (mt (tagValue_iff _).1 hbad)
    refine ⟨_, exec_vtag_illegal n a s htile hbad, ?_⟩
    rw [← ofNat_getU]
    exact traps_raise_trapOf (.vtag n a) (s.getU a) 0 hin hc nofun
  · have hbad : tagValue (s.getX a) = false := Bool.eq_false_iff.2 (mt (tagValue_iff _).1 hbad)
    refine ⟨_, exec_qcfg_illegal q a s hbad, ?_, fun k => rows_raise_trapOf _ _ _ k hin hc nofun⟩
    rw [← ofNat_getU]
    exact traps_raise_trapOf (.qcfg q a) (s.getU a) 0 hin hc nofun
  · rw [← shapeItem_of_shapeTable h]
    exact ⟨_, rfl, compute_spec s 4 d _⟩

end Sys2Proof.Claims
end

section
/-! PROOF. What an agent writes is memory or a register of the package (R201, R277, R371): the hart at hand stays as it is, but that
writes of others note themselves in its open strip interval (R215). -/

namespace Sys2Proof.Machine

@[simp] theorem State.requestStatement_cpu (s : State) (p : Nat) : (s.requestStatement p).cpu = s.cpu := by
  unfold State.requestStatement; split <;> rfl

/-- A choice leaves the hart at hand as it is if both ways do. -/
theorem State.ite_cpu {s a b : State} (c : Prop) [Decidable c] (ha : a.cpu = s.cpu) (hb : b.cpu = s.cpu) :
    (if c then a else b).cpu = s.cpu := by
  split
  · exact ha
  · exact hb

@[simp] theorem State.wqWrite_cpu (s : State) (w : Agent) (q off : Nat) (v : W64) : (s.wqWrite w q off v).cpu = s.cpu := by
  unfold State.wqWrite
  extract_lets u
  split
  case h_6 | h_7 => rfl
  all_goals exact State.ite_cpu _ rfl rfl

@[simp] theorem State.mgmtWrite_cpu (s : State) (w : Agent) (d off : Nat) (v : W64) : (s.mgmtWrite w d off v).cpu = s.cpu := by
  unfold State.mgmtWrite
  extract_lets m
  refine State.ite_cpu _ rfl (State.ite_cpu _ (State.ite_cpu _ rfl rfl) (State.ite_cpu _ rfl ?_))
  refine State.ite_cpu _ (State.ite_cpu _ rfl rfl) ?_
  refine State.ite_cpu _ (s.requestStatement_cpu _) (State.ite_cpu _ rfl (State.ite_cpu _ ?_ rfl))
  split <;> rfl

@[simp] theorem State.regWrite_cpu (s : State) (w : Agent) (d a : Nat) (l : List Byte) : (s.regWrite w d a l).cpu = s.cpu := by
  unfold State.regWrite
  split <;> simp

@[simp] theorem State.physWrite_cpu (s : State) (w : Agent) (d pa : Nat) (l : List Byte) : (s.physWrite w d pa l).cpu = s.cpu := by
  unfold State.physWrite
  dsimp only
  split
  · split <;> simp
  · rfl

@[simp] theorem State.physWrites_cpu (s : State) (w : Agent) (d : Nat) (pas : List Nat) (l : List Byte) :
    (s.physWrites w d pas l).cpu = s.cpu := by
  induction pas generalizing s l with
  | nil => unfold State.physWrites; rfl
  | cons pa ps ih =>
    cases l with
    | nil => unfold State.physWrites; rfl
    | cons b bs =>
      unfold State.physWrites
      split
      · exact State.physWrite_cpu s w d pa _
      · split
        · exact ih s bs
        · exact ih (s.putBytes d (s.key pa) [b]) bs

/-- A hart's own write notes itself in the strips of others alone. -/
theorem State.physWriteList_agent_cpu (s : State) (d : Nat) (pas : List Nat) (l : List Byte) :
    (s.physWriteList s.agent d pas l).cpu = s.cpu := by
  have hmine : (decide (s.agent = .hart) || decide (s.agent = .privHart)) = true := by
    unfold State.agent; split <;> rfl
  rw [State.physWriteList, State.physWrites_cpu, hmine]
  rfl

end Sys2Proof.Machine
end

section
/-! PROOF. Copy channels at rest: a channel that has reached its mark, and one that a held fault stops, run no further (R261, R263). -/

namespace Sys2Proof.Machine

/-- What every step keeps holds after `n` of them. -/
theorem upto_induction {α : Type} {P : α → Prop} {n : Nat} {f : Nat → α → α} {a : α} (ha : P a)
    (hf : ∀ k x, P x → P (f k x)) : P (upto n f a) :=
  List.foldlRecOn (List.range n) _ ha fun x hx k _ => hf k x hx

theorem upto_eq_self {α : Type} {n : Nat} {f : Nat → α → α} {a : α} (hf : ∀ k, f k a = a) : upto n f a = a :=
  upto_induction (P := (· = a)) rfl fun k x hx => by rw [hx, hf k]

theorem State.chanStep_of_error (s : State) (fuel c : Nat) (h : (s.chan c).error = true) : s.chanStep fuel c = s := by
  cases fuel with
  | zero => rfl
  | succ m =>
    unfold State.chanStep
    split
    · rfl
    · rw [if_pos h]

theorem State.runUntil_of_stop (s : State) (c : Nat) (stop : Chan → Bool) (h : stop (s.chan c) = true) :
    s.runUntil c stop = s := upto_eq_self fun _ => if_pos h

theorem State.runUntil_of_error (s : State) (c : Nat) (stop : Chan → Bool) (h : (s.chan c).error = true) :
    s.runUntil c stop = s := upto_eq_self fun _ => by
  split
  · rfl
  · exact s.chanStep_of_error 128 c h

/-- A stopped channel waits for none but itself. -/
theorem State.blocker_of_error (s : State) (fuel c : Nat) (h : (s.chan c).error = true) :
    s.blocker (fuel + 1) c = some (s.chan c) := by
  rw [State.blocker, if_pos h]

/-- The code of R183 of a held fault other than DATA_ERROR gives its cause back. -/
theorem causeCode_causeOfCode {n : Nat} (hlo : 7 ≤ n) (hhi : n ≤ 10) :
    causeCode (causeOfCode n) = n ∧ causeOfCode n ≠ .dataError := by
  interval_cases n <;> exact ⟨rfl, nofun⟩

theorem State.chan_setChan (s : State) (c k : Nat) (x : Chan) (hc : c < 8) :
    (s.setChan c x).chan k = if k = c then x else s.chan k := by
  rw [State.chan, State.setChan, State.setBack_back, vget_vput]
  simp [State.chan, hc]

/-- A join changes nothing but what orders the accesses of the open strip interval (R222). -/
theorem State.exists_order_eq (s : State) (no : Nat) :
    ∃ w r, (s.orderBehind no).orderCopies no = s.setBack { s.cpu.back with strip := w, rels := r } := ⟨_, _, rfl⟩

end Sys2Proof.Machine
end

section
/-! PROOF. What CPY.ABORT may have delivered of a channel's operations leaves the stream and the channels of the hart (R272). -/

namespace Sys2Proof.Machine

/-- The hart at hand runs in `t`, with the front registers and the channels that it has in `s`. -/
def SameStream (s t : State) : Prop :=
  t.cpu.status = .running ∧ t.cpu.front = s.cpu.front ∧ t.cpu.back.chans = s.cpu.back.chans

theorem SameStream.getX {s t : State} (h : SameStream s t) (r : Reg) : t.getX r = s.getX r :=
  congrArg (fun f : Front => f.getX r) h.2.1

theorem SameStream.chan {s t : State} (h : SameStream s t) (c : Nat) : t.chan c = s.chan c :=
  congrArg (fun v => vget Chan.idle v c) h.2.2

theorem SameStream.of_cpu_eq {s t u : State} (h : SameStream s t) (hcpu : u.cpu = t.cpu) : SameStream s u := by
  unfold SameStream
  rwa [hcpu]

theorem SameStream.setBack {s t : State} (h : SameStream s t) {b : Back} (hb : b.chans = t.cpu.back.chans) :
    SameStream s (t.setBack b) :=
  ⟨h.1, h.2.1, hb.trans h.2.2⟩

/-- A hart that runs is the first that its number finds. -/
theorem State.hart?_self (s : State) (h : s.cpu.status = .running) : s.hart? s.cpu.id.uid = some s.cpu := by
  simp [State.hart?, State.harts, h]

theorem State.uid_of_hart? {s : State} {uid : Nat} {h : Hart} (hh : s.hart? uid = some h) : h.id.uid = uid := by
  simpa using List.find?_some hh

/-- Registers written into a hart that its number finds, be it the one at hand or another. -/
theorem SameStream.putHart {s t : State} (hs : SameStream s t) {uid : Nat} {h : Hart} (hh : t.hart? uid = some h) {b : Back}
    (hb : b.chans = h.back.chans) : SameStream s (t.putHart { h with back := b }) := by
  unfold State.putHart
  split
  case isTrue heq =>
    have huid : uid = t.cpu.id.uid := (State.uid_of_hart? hh).symm.trans heq.symm
    obtain rfl : t.cpu = h := by rwa [huid, t.hart?_self hs.1, Option.some.injEq] at hh
    exact hs.setBack hb
  case isFalse => exact hs

theorem SameStream.copyOut {s t : State} (h : SameStream s t) (no : Nat) (pas : List Nat) (l : List Byte) :
    SameStream s (t.copyOut no pas l) := by
  have hmeet (cells : List (Nat × Byte)) :
      SameStream s ((t.settleBefore no pas).setBack ((t.settleBefore no pas).cpu.back.meet .copy no cells)) :=
    (SameStream.setBack h rfl).setBack rfl
  exact (hmeet _).of_cpu_eq (State.physWriteList_agent_cpu _ _ _ _)

/-- The scratchpad's bytes go to memory, or to nowhere. -/
theorem SameStream.copyByteOut {s t : State} (h : SameStream s t) (o : CopyOp) (k b : Nat) :
    SameStream s (t.copyByteOut o k b) := by
  unfold State.copyByteOut
  split
  · exact h
  · split
    · exact h
    · split
      · exact h
      · exact h.copyOut _ _ _

/-- By the two kinds of operation: element groups of a CPY.X into a hart, bytes of a box into the scratchpad or memory. -/
theorem SameStream.abortOp {s t : State} (h : SameStream s t) (o : CopyOp) : SameStream s (t.abortOp o) := by
  unfold State.abortOp
  split
  · refine upto_induction h fun j u hu => upto_induction hu fun g u hu => ?_
    split
    · exact hu
    · split
      · exact hu
      · next hart hfind => exact hu.putHart hfind rfl
  · refine upto_induction h fun n u hu => ?_
    dsimp only
    split
    · exact hu
    · refine upto_induction hu fun b v hv => ?_
      split
      · exact hv
      · split
        · exact hv.copyByteOut o _ b
        · exact hv.setBack rfl

/-- What a CPY.ABORT delivers before it empties the channel: of one that holds no fault, bytes by free choice. -/
def State.abortOps (s : State) (ch : Chan) : State :=
  if ch.error then s else ch.ops.foldl (fun s o => s.abortOp o) s

theorem State.sameStream_abortOps (s : State) (ch : Chan) (h : s.cpu.status = .running) : SameStream s (s.abortOps ch) := by
  have hs : SameStream s s := ⟨h, rfl, rfl⟩
  unfold State.abortOps
  split
  · exact hs
  · exact List.foldlRecOn ch.ops _ hs fun t ht o _ => ht.abortOp o

theorem State.abortOps_eq_self (s : State) (ch : Chan) (h : ch.ops = [] ∨ ch.error = true) : s.abortOps ch = s := by
  unfold State.abortOps
  rcases h with h | h <;> simp [h]

end Sys2Proof.Machine
end

section
/-! PROOF. CPY.WAIT, CPY.STAT, CPY.ABORT and CPY.FILL (R263, R270 to R273). -/

namespace Sys2Proof.Claims

open Sys2Proof Sys2Proof.Machine

/-- Computing a register after the lanes' side was set to `b`. -/
theorem compute_setBack_spec (s : State) (b : Back) (len : Nat) (d : Reg) (v : W64) :
    let t := (s.setBack b).compute len d v
    WritesX s t d v ∧ RetiresOnly s t (past s t len) ∧ t.cpu.back = b := by
  intro t
  obtain ⟨hx, hat⟩ := compute_spec (s.setBack b) len d v
  exact ⟨hx, (retiresOnly_setBack s t b _).mp (retiresOnly_of_retiresAt_setFront (f := s.cpu.front) hat rfl), rfl⟩

/-- An emptied channel (R272): all that was granted is delivered, and no fault is held. -/
def emptied (ch : Chan) : Chan :=
  { ch with
    cissued := ch.cwm, nops := 0, fcause := 0, fsub := 0, feval := 0, fkind := 0, error := false, aborting := false, ops := [] }

theorem exec_cpyWait_returns (d b : Reg) (c : Fin 8) (s : State) (hin : s.cpu.inflight = [])
    (h : min (s.getU b) (chanOf s c.val).cissued.toNat ≤ (chanOf s c.val).cwm.toNat) :
    exec (.cpyWait d c b) s = .next (((s.orderBehind (chanOf s c.val).mark).orderCopies (chanOf s c.val).mark).compute 4 d
      (chanOf s c.val).cwm) := by
  change min (s.getU b) (s.chan c.val).cissued.toNat ≤ (s.chan c.val).cwm.toNat at h
  change execCpyWait d c b s = _
  rw [execCpyWait, State.inOrder_nil s _ _ hin]
  dsimp only
  rw [State.runUntil_of_stop s c.val _ (decide_eq_true h), if_pos h]
  rfl

theorem exec_cpyWait_faults (d b : Reg) (c : Fin 8) (s : State) (hin : s.cpu.inflight = [])
    (h : (chanOf s c.val).cwm.toNat < min (s.getU b) (chanOf s c.val).cissued.toNat) (herr : (chanOf s c.val).error = true) :
    exec (.cpyWait d c b) s = .next (s.takeTrap ((chanOf s c.val).heldTrap (.cpyWait d c b))) := by
  change (s.chan c.val).cwm.toNat < min (s.getU b) (s.chan c.val).cissued.toNat at h
  change (s.chan c.val).error = true at herr
  change execCpyWait d c b s = _
  rw [execCpyWait, State.inOrder_nil s _ _ hin]
  dsimp only
  rw [State.runUntil_of_error s c.val _ herr, if_neg h.not_ge, State.blocker_of_error s 127 c.val herr]
  exact congrArg Host.Outcome.next (State.raise_nil s _ _ hin)

/-- The word of CPY.STAT's item 0 (R258): its fields lie apart, so their sum is their shifts'. -/
theorem cstat_eq (ch : Chan) : ch.cstat = BitVec.ofNat 64 (ch.fcause <<< 16 + ch.fsub <<< 8 + ch.nops <<< 4
    + ch.aborting.toNat <<< 2 + ch.error.toNat <<< 1 + (if ch.nops = 0 then 0 else 1)) := by
  have hbusy : (ch.nops != 0).toNat = if ch.nops = 0 then 0 else 1 := by split <;> simp [*]
  simp only [Chan.cstat, hbusy, Nat.shiftLeft_eq, Nat.reducePow]

/-- The items of the statement's list, by selector, are the model's. -/
theorem exec_cpyStat (d sel : Reg) (c : Fin 8) (s : State) (v : W64) (hin : s.cpu.inflight = [])
    (h : chanItem s (chanOf s c.val) sel.val = some v) : exec (.cpyStat d c sel) s = .next (s.compute 4 d v) := by
  change execCpyStat d c sel s = _
  rw [execCpyStat, State.inOrder_nil s _ _ hin]
  unfold chanItem at h
  rw [← cstat_eq] at h
  generalize sel.val = n at h ⊢
  have hlt : n < 7 := (List.getElem?_eq_some_iff.1 h).1
  interval_cases n <;> exact next_compute_congr (Option.some.inj h)

theorem exec_cpyAbort (d : Reg) (c : Fin 8) (s : State) (hin : s.cpu.inflight = []) :
    exec (.cpyAbort d c) s
      = let u := s.abortOps (chanOf s c.val)
        .next ((u.setChan c.val (emptied (chanOf u c.val))).compute 4 d (chanOf u c.val).cwm) := by
  change execCpyAbort d c s = _
  rw [execCpyAbort, State.whenOldest_nil s _ _ hin]
  rfl

theorem exec_cpyFill (d b : Reg) (c : Fin 8) (s : State) (hin : s.cpu.inflight = []) :
    exec (.cpyFill d c b) s
      = .next ((s.setChan c.val { chanOf s c.val with cfill := s.getX b }).compute 4 d (chanOf s c.val).cfill) := by
  change execCpyFill d c b s = _
  rw [execCpyFill, State.inOrder_nil s _ _ hin]
  rfl

/-- estat of a held fault (R182, R263): side 3, no queue and no element. -/
theorem trapEstat_heldTrap (ch : Chan) (i : Instr) :
    trapEstat (ch.heldTrap i) = estatOf ch.fsub ch.fkind 15 3 false i.len := by
  unfold trapEstat Chan.heldTrap estatOf
  rw [show (if i.len = 2 then 0 else if i.len = 4 then 1 else 2) = ilenCode i.len from rfl]
  simp [Nat.shiftLeft_eq, Nat.mul_comm]

/-- Trap entry, of whatever trap (R184). -/
theorem traps_takeTrap {s : State} (t : TrapInfo) (hc : CanTrap s) (hd : t.cause ≠ .dataError) :
    Traps s (s.takeTrap t) (causeCode t.cause) t.eval (trapEstat t) (t.ev % 2 ^ 20) := by
  obtain ⟨htvec, hactive⟩ := hc
  rw [State.takeTrap_taken s t htvec hactive hd]
  exact ⟨rfl, rfl, rfl, rfl, rfl, fun _ => rfl⟩

/-- R263: the trap is the held fault's. -/
theorem traps_heldTrap {s : State} (ch : Chan) (i : Instr) (hlo : 7 ≤ ch.fcause) (hhi : ch.fcause ≤ 10) (hc : CanTrap s) :
    Traps s (s.takeTrap (ch.heldTrap i)) ch.fcause ch.feval (estatOf ch.fsub ch.fkind 15 3 false i.len) 0 := by
  obtain ⟨hcode, hne⟩ := causeCode_causeOfCode hlo hhi
  have htraps := traps_takeTrap (ch.heldTrap i) hc hne
  rwa [trapEstat_heldTrap, show causeCode (ch.heldTrap i).cause = ch.fcause from hcode] at htraps

/-- R270: CPY.WAIT returns at a mark that is already reached. -/
theorem cpyWait_returns (d b : Reg) (c : Fin 8) (s : State) (hin : s.cpu.inflight = [])
    (h : min (s.getU b) (chanOf s c.val).cissued.toNat ≤ (chanOf s c.val).cwm.toNat) :
    ∃ t, exec (.cpyWait d c b) s = .next t ∧ WritesX s t d (chanOf s c.val).cwm ∧ RetiresOnly s t (past s t 4)
      ∧ SameBack s t := by
  obtain ⟨w, r, hjoin⟩ := s.exists_order_eq (chanOf s c.val).mark
  obtain ⟨hx, hret, -⟩ := compute_setBack_spec s { s.cpu.back with strip := w, rels := r } 4 d (chanOf s c.val).cwm
  exact ⟨_, (exec_cpyWait_returns d b c s hin h).trans (by rw [hjoin]), hx, hret, rfl⟩

/-- Retiring with the front registers of `u` is retiring with those of `s`, where the two have the same. -/
theorem front_retired_congr {s t u : State} {len : Nat} (h : u.cpu.front = s.cpu.front)
    (ht : t.cpu.front = { past u t len with instret := u.cpu.front.instret + 1, cycle := t.cpu.front.cycle }) :
    t.cpu.front = { past s t len with instret := s.cpu.front.instret + 1, cycle := t.cpu.front.cycle } := by
  unfold past at ht ⊢
  rwa [h] at ht

/-- R272: the stream sees cwm and an empty channel, whatever bytes the stopped operations delivered; where none ran, nothing else. -/
theorem cpyAbort_empties (d : Reg) (c : Fin 8) (s : State) (hin : s.cpu.inflight = []) (hrun : s.cpu.status = .running) :
    ∃ t, exec (.cpyAbort d c) s = .next t ∧ WritesX s t d (chanOf s c.val).cwm
      ∧ t.cpu.front = { past s t 4 with instret := s.cpu.front.instret + 1, cycle := t.cpu.front.cycle }
      ∧ chanOf t c.val = emptied (chanOf s c.val)
      ∧ (∀ k, k < 8 → k ≠ c.val → chanOf t k = chanOf s k)
      ∧ (((chanOf s c.val).ops = [] ∨ (chanOf s c.val).error = true) →
          SameRest s t ∧ t.cpu.back = { s.cpu.back with chans := t.cpu.back.chans }) := by
  have hsame := s.sameStream_abortOps (chanOf s c.val) hrun
  have hquiet := s.abortOps_eq_self (chanOf s c.val)
  have hexec := exec_cpyAbort d c s hin
  generalize s.abortOps (chanOf s c.val) = u at hsame hquiet hexec
  have hchan : ∀ k, chanOf u k = chanOf s k := hsame.chan
  simp only [hchan] at hexec
  obtain ⟨⟨hxd, hxr⟩, ⟨⟨hfront, -, -⟩, hrest⟩, hback⟩ := compute_setBack_spec u
    { u.cpu.back with chans := vput u.cpu.back.chans c.val (emptied (chanOf s c.val)) } 4 d (chanOf s c.val).cwm
  refine ⟨_, hexec, ⟨hxd, fun r hr => (hxr r hr).trans (hsame.getX r)⟩, 
    front_retired_congr hsame.2.1 hfront, ?_, fun k _ hk => ?_, fun hstopped => ?_⟩
  · exact (State.chan_setChan u c.val c.val _ c.isLt).trans (if_pos rfl)
  · exact ((State.chan_setChan u c.val k _ c.isLt).trans (if_neg hk)).trans (hchan k)
  · obtain rfl := hquiet hstopped
    exact ⟨hrest, rfl⟩

/-- R273: CPY.FILL sets one register of one channel. -/
theorem cpyFill_sets (d b : Reg) (c : Fin 8) (s : State) (hin : s.cpu.inflight = []) :
    ∃ t, exec (.cpyFill d c b) s = .next t
      ∧ Forks s t d (chanOf s c.val).cfill.toNat c.val { chanOf s c.val with cfill := s.getX b }
      ∧ t.cpu.back.queues = s.cpu.back.queues ∧ t.pkg = s.pkg ∧ t.cpu.back.strip = s.cpu.back.strip := by
  obtain ⟨hx, ⟨hret, hothers, hpkg, hagenda, hmem⟩, -⟩ := compute_setBack_spec s
    { s.cpu.back with chans := vput s.cpu.back.chans c.val { chanOf s c.val with cfill := s.getX b } } 4 d (chanOf s c.val).cfill
  refine ⟨_, exec_cpyFill d b c s hin, ⟨?_, hret, hothers, rfl, hagenda, hmem, rfl, fun k _ => ?_⟩, rfl, hpkg, rfl⟩
  · rw [BitVec.ofNat_toNat, BitVec.setWidth_eq]
    exact hx
  · exact State.chan_setChan s c.val k _ c.isLt

/-- Settles O40: each of the four is a register computed beside a write of the channel or of the strip's order, but for CPY.WAIT at a
stopped channel, which takes the held fault. -/
theorem channelControls : Obligations.ChannelControls := by
  intro d b sel c s hin
  refine ⟨cpyWait_returns d b c s hin, fun htarget herr hlo hhi hc => ?_, fun v hv => ?_, cpyAbort_empties d c s hin,
    cpyFill_sets d b c s hin⟩
  · exact ⟨_, exec_cpyWait_faults d b c s hin htarget herr, traps_heldTrap _ _ hlo hhi hc⟩
  · exact ⟨_, exec_cpyStat d sel c s v hin hv, compute_setBack_spec s s.cpu.back 4 d v⟩

end Sys2Proof.Claims
end

section
/-! PROOF. Loops over the positions of a tile, row by row (R123, R320): what one step leaves in a cell that no other step touches is
seen after the last, and a cell that no step touches is as before. -/

namespace Sys2Proof.Machine

variable {α β : Type}

@[simp] theorem upto_zero (f : Nat → α → α) (a : α) : upto 0 f a = a := rfl

theorem upto_succ (n : Nat) (f : Nat → α → α) (a : α) : upto (n + 1) f a = f n (upto n f a) := by
  simp [upto, List.range_succ]

theorem upto_congr {n : Nat} {f g : Nat → α → α} (a : α) (h : ∀ k, k < n → ∀ x, f k x = g k x) : upto n f a = upto n g a :=
  List.foldl_ext _ _ a fun x k hk => h k (List.mem_range.1 hk) x

/-- What no step changes is as before the loop. -/
theorem upto_frame {n : Nat} {f : Nat → α → α} {a : α} (g : α → β) (h : ∀ k, k < n → ∀ x, g (f k x) = g x) :
    g (upto n f a) = g a :=
  List.foldlRecOn (motive := fun x => g x = g a) (List.range n) _ rfl
    fun x hx k hk => (h k (List.mem_range.1 hk) x).trans hx

/-- What step `k` alone changes is as that step leaves it. -/
theorem upto_at {n k : Nat} {f : Nat → α → α} {a : α} (g : α → β) (u : β → β) (hk : k < n) (hat : ∀ x, g (f k x) = u (g x))
    (hoff : ∀ j, j < n → j ≠ k → ∀ x, g (f j x) = g x) : g (upto n f a) = u (g a) := by
  induction n with
  | zero => omega
  | succ n ih =>
    rw [upto_succ]
    obtain rfl | hlt := Nat.eq_or_lt_of_le (Nat.lt_succ_iff.1 hk)
    · rw [hat, upto_frame g fun j hj => hoff j (by omega) (by omega)]
    · rw [hoff n (by omega) (by omega), ih hlt fun j hj => hoff j (by omega)]

theorem upto_add (n m : Nat) (f : Nat → α → α) (a : α) : upto (n + m) f a = upto m (fun k => f (n + k)) (upto n f a) := by
  simp [upto, List.range_add, List.foldl_map]

/-- A loop over a list that is mapped from the indices runs through the indices. -/
theorem foldl_zipIdx_map_range (n : Nat) (val : Nat → β) (f : α → β × Nat → α) (a : α) :
    ((List.range n).map val).zipIdx.foldl f a = upto n (fun k x => f x (val k, k)) a := by
  have hzip : ((List.range n).map val).zipIdx = (List.range n).map (fun k => (val k, k)) := by
    apply List.ext_getElem <;> simp
  rw [hzip, List.foldl_map, upto]

/-- `f` at each position (row, column) of a tile, rows ascending, and columns within a row (R320). -/
def tileLoop (rc vl : Nat) (f : Nat → Nat → α → α) (a : α) : α := upto rc (fun r => upto vl (f r)) a

theorem tileLoop_frame {rc vl : Nat} {f : Nat → Nat → α → α} {a : α} (g : α → β)
    (h : ∀ r c, r < rc → c < vl → ∀ x, g (f r c x) = g x) : g (tileLoop rc vl f a) = g a :=
  upto_frame g fun r hr _ => upto_frame g fun c hc => h r c hr hc

theorem tileLoop_at {rc vl r c : Nat} {f : Nat → Nat → α → α} {a : α} (g : α → β) (u : β → β) (hr : r < rc) (hc : c < vl)
    (hat : ∀ x, g (f r c x) = u (g x))
    (hoff : ∀ i j, i < rc → j < vl → ¬(i = r ∧ j = c) → ∀ x, g (f i j x) = g x) : g (tileLoop rc vl f a) = u (g a) :=
  upto_at g u hr (fun _ => upto_at g u hc hat fun j hj hne => hoff r j hr hj fun h => hne h.2)
    fun i hi hne _ => upto_frame g fun j hj => hoff i j hi hj fun h => hne h.1

/-- The positions of a tile in linear order (R123). -/
theorem tileLoop_eq_upto (rc vl : Nat) (f : Nat → Nat → α → α) (a : α) :
    tileLoop rc vl f a = upto (rc * vl) (fun k => f (k / vl) (k % vl)) a := by
  unfold tileLoop
  induction rc with
  | zero => simp
  | succ n ih =>
    rw [upto_succ, ih, Nat.succ_mul, upto_add]
    refine upto_congr _ fun c hc x => ?_
    rw [Nat.mul_comm n vl, Nat.mul_add_div (by omega), Nat.mul_add_mod, Nat.div_eq_of_lt hc, Nat.mod_eq_of_lt hc, Nat.add_zero]

theorem tileLoop_empty {rc vl : Nat} (f : Nat → Nat → α → α) (a : α) (h : rc * vl = 0) : tileLoop rc vl f a = a := by
  rw [tileLoop_eq_upto, h, upto_zero]

end Sys2Proof.Machine
end

section
/-! PROOF. Mask bits and 32-bit elements: a read after a write (R85, R87, R88, R122). -/

namespace Sys2Proof.Machine

/-! Masks. -/

theorem bitAt_eq_testBit (v k : Nat) : bitAt v k = v.testBit k := Nat.testBit_eq_decide_div_mod_eq.symm

/-- A number with bit `r` replaced: the bits above it, the new one and the bits below it. -/
theorem testBit_replace_bit (n r k : Nat) (b : Bool) :
    (n - n / 2 ^ r % 2 * 2 ^ r + b.toNat * 2 ^ r).testBit k = if k = r then b else n.testBit k := by
  have hsplit : n - n / 2 ^ r % 2 * 2 ^ r + b.toNat * 2 ^ r = 2 ^ r * (2 * (n / 2 ^ r / 2) + b.toNat) + n % 2 ^ r := by
    have hn := Nat.div_add_mod n (2 ^ r)
    have hq := Nat.div_add_mod (n / 2 ^ r) 2
    have hmul : 2 ^ r * (n / 2 ^ r) = 2 ^ r * (2 * (n / 2 ^ r / 2)) + n / 2 ^ r % 2 * 2 ^ r := by
      conv_lhs => rw [← hq]
      ring
    have hnew : 2 ^ r * (2 * (n / 2 ^ r / 2) + b.toNat) = 2 ^ r * (2 * (n / 2 ^ r / 2)) + b.toNat * 2 ^ r := by ring
    omega
  rw [hsplit, Nat.testBit_two_pow_mul_add _ (Nat.mod_lt _ (by positivity)), Nat.testBit_mod_two_pow]
  rcases Nat.lt_trichotomy k r with hlt | rfl | hgt
  · simp [hlt, hlt.ne]
  · cases b <;> simp
  · obtain ⟨j, hj⟩ : ∃ j, k - r = j + 1 := ⟨k - r - 1, by omega⟩
    have hhigh : (2 * (n / 2 ^ r / 2) + b.toNat) / 2 = n / 2 ^ r / 2 := by have := b.toNat_lt; omega
    rw [if_neg (by omega), if_neg (by omega), hj, Nat.testBit_succ, hhigh, ← Nat.testBit_succ, Nat.testBit_div_two_pow]
    congr 1
    omega

theorem maskBit_setMaskBit (m : SMap (BitVec 16)) (k : Nat) {r c : Nat} (b : Bool) (j : Nat) {i d : Nat} (hr : r < 16)
    (hc : c < 65536) (hd : d < 65536) :
    maskBit (setMaskBit m k r c b) j i d = if j = k ∧ i = r ∧ d = c then b else maskBit m j i d := by
  unfold maskBit setMaskBit
  simp only [mget_minsert, bitAt_eq_testBit]
  by_cases hcell : j = k ∧ d = c
  · obtain ⟨rfl, rfl⟩ := hcell
    simp only [if_true, BitVec.toNat_ofNat, Nat.testBit_mod_two_pow, testBit_replace_bit, true_and, and_true]
    by_cases hi : i < 16
    · simp [hi]
    · have hbig (w : BitVec 16) : w.toNat.testBit i = false := Nat.testBit_lt_two_pow
        (w.isLt.trans_le (Nat.pow_le_pow_right (by decide) (by omega)))
      simp only [hi, hbig, show i ≠ r by omega, if_false, decide_false, Bool.false_and]
  · rw [if_neg (by omega), if_neg (by tauto)]

/-- A bit of a mask written, or kept. -/
def putBit (k r c : Nat) (x : Option Bool) (m : SMap (BitVec 16)) : SMap (BitVec 16) :=
  match x with
  | some b => setMaskBit m k r c b
  | none => m

theorem maskBit_putBit (m : SMap (BitVec 16)) (k : Nat) {r c : Nat} (x : Option Bool) (j : Nat) {i d : Nat} (hr : r < 16)
    (hc : c < 65536) (hd : d < 65536) :
    maskBit (putBit k r c x m) j i d = if j = k ∧ i = r ∧ d = c then x.getD (maskBit m j i d) else maskBit m j i d := by
  cases x with
  | some b => exact maskBit_setMaskBit m k b j hr hc hd
  | none => exact (ite_self _).symm

theorem writeMaskRow_map_range (m : SMap (BitVec 16)) (k r n : Nat) (val : Nat → Option Bool) :
    writeMaskRow m k r 0 ((List.range n).map val) = upto n (fun c => putBit k r c (val c)) m := by
  unfold writeMaskRow
  rw [foldl_zipIdx_map_range]
  exact upto_congr _ fun c _ x => by unfold putBit; cases val c <;> simp

/-! Elements of 32 bits: two registers hold their planes. -/

theorem planeWord_minsert (v : SMap (BitVec 16)) (reg : Nat) {c : Nat} (w : BitVec 16) (k : Nat) {d : Nat} (hc : c < 65536)
    (hd : d < 65536) :
    planeWord (minsert v (reg * 65536 + c) w) k d = if k = reg ∧ d = c then w.toNat else planeWord v k d := by
  unfold planeWord
  rw [mget_minsert]
  by_cases h : k = reg ∧ d = c
  · rw [if_pos (by omega), if_pos h]
  · rw [if_neg (by omega), if_neg h]

theorem planeWord_lt (v : SMap (BitVec 16)) (k c : Nat) : planeWord v k c < 65536 := (mget 0 v (k * 65536 + c)).isLt

theorem writeElem_32 (v : SMap (BitVec 16)) (base r c x : Nat) :
    writeElem v base 32 r c x = minsert (minsert v ((base + 2 * r) * 65536 + c) (BitVec.ofNat 16 x))
      ((base + 2 * r + 1) * 65536 + c) (BitVec.ofNat 16 (x / 65536)) := by
  have hlow (n y : Nat) (hn : n < 65536) : n - n % 65536 + y % 65536 = y % 65536 := by omega
  have hword (y : Nat) : BitVec.ofNat 16 (y % 65536) = BitVec.ofNat 16 y := BitVec.eq_of_toNat_eq (by simp)
  unfold writeElem
  simp only [if_true, show r * 32 / 16 = 2 * r by omega, pow_zero, Nat.div_one, Nat.mul_one, Nat.reducePow,
    hlow _ _ (planeWord_lt _ _ _), hword]

theorem planeWord_writeElem_32 (v : SMap (BitVec 16)) (base r : Nat) {c : Nat} (x k : Nat) {d : Nat} (hc : c < 65536)
    (hd : d < 65536) :
    planeWord (writeElem v base 32 r c x) k d =
      if k = base + 2 * r + 1 ∧ d = c then x / 65536 % 65536
      else if k = base + 2 * r ∧ d = c then x % 65536 else planeWord v k d := by
  rw [writeElem_32, planeWord_minsert _ _ _ _ hc hd, planeWord_minsert _ _ _ _ hc hd, BitVec.toNat_ofNat, BitVec.toNat_ofNat]

theorem readElem_32 (v : SMap (BitVec 16)) (base w r c : Nat) :
    readElem v base w 32 r c = (planeWord v (base + 2 * r) c + 65536 * planeWord v (base + 2 * r + 1) c) % 2 ^ w := by
  unfold readElem
  simp only [show r * 32 / 16 = 2 * r by omega, show r * 32 % 16 = 0 by omega, pow_zero, Nat.div_one]

/-- An element that stands in the registers and the column of the write. -/
theorem readElem_writeElem_32_same (v : SMap (BitVec 16)) (base r : Nat) {c : Nat} (x : Nat) (hc : c < 65536) :
    readElem (writeElem v base 32 r c x) base 32 32 r c = x % 2 ^ 32 := by
  rw [readElem_32, planeWord_writeElem_32 _ _ _ _ _ hc hc, planeWord_writeElem_32 _ _ _ _ _ hc hc, if_neg (by omega),
    if_pos ⟨rfl, rfl⟩, if_pos ⟨rfl, rfl⟩]
  omega

/-- An element whose registers or column the write does not touch. -/
theorem readElem_writeElem_32_other (v : SMap (BitVec 16)) (base r : Nat) {c : Nat} (x low w i : Nat) {d : Nat} (hc : c < 65536)
    (hd : d < 65536) (h : low + 2 * i + 1 < base + 2 * r ∨ base + 2 * r + 1 < low + 2 * i ∨ d ≠ c) :
    readElem (writeElem v base 32 r c x) low w 32 i d = readElem v low w 32 i d := by
  rw [readElem_32, readElem_32, planeWord_writeElem_32 _ _ _ _ _ hc hd, planeWord_writeElem_32 _ _ _ _ _ hc hd,
    if_neg (by omega), if_neg (by omega), if_neg (by omega), if_neg (by omega)]

end Sys2Proof.Machine
end

section
/-! PROOF. What a loop over a tile leaves in masks and in registers of 32-bit elements (R85, R122, R123). -/

namespace Sys2Proof.Machine

theorem maskBit_tileLoop_putBit {rc vl k r c : Nat} (val : Nat → Nat → Option Bool) (m : SMap (BitVec 16)) (hrc : rc ≤ 16)
    (hvl : vl ≤ 65536) (hr : r < rc) (hc : c < vl) :
    maskBit (tileLoop rc vl (fun r c => putBit k r c (val r c)) m) k r c = (val r c).getD (maskBit m k r c) := by
  refine tileLoop_at (fun m => maskBit m k r c) ((val r c).getD ·) hr hc (fun m => ?_) fun i j hi hj hne m => ?_
  · exact (maskBit_putBit m k _ k (by omega) (by omega) (by omega)).trans (if_pos ⟨rfl, rfl, rfl⟩)
  · exact (maskBit_putBit m k _ k (by omega) (by omega) (by omega)).trans (if_neg (by omega))

theorem maskBit_tileLoop_putBit_outside {rc vl k j r c : Nat} (val : Nat → Nat → Option Bool) (m : SMap (BitVec 16))
    (hrc : rc ≤ 16) (hvl : vl ≤ 65536) (hc : c < 65536) (hout : j ≠ k ∨ rc ≤ r ∨ vl ≤ c) :
    maskBit (tileLoop rc vl (fun r c => putBit k r c (val r c)) m) j r c = maskBit m j r c :=
  tileLoop_frame (fun m => maskBit m j r c) fun i d hi hd m =>
    (maskBit_putBit m k _ j (by omega) (by omega) hc).trans (if_neg (by omega))

/-- An element of a group of 32-bit elements written, or kept. -/
def putElem (base r c : Nat) (x : Option Nat) (v : SMap (BitVec 16)) : SMap (BitVec 16) :=
  match x with
  | some x => writeElem v base 32 r c x
  | none => v

theorem readElem_putElem_same (v : SMap (BitVec 16)) (base r : Nat) {c : Nat} (x : Option Nat) (hc : c < 65536) :
    readElem (putElem base r c x v) base 32 32 r c = (x.map (· % 2 ^ 32)).getD (readElem v base 32 32 r c) := by
  cases x with
  | some x => exact readElem_writeElem_32_same v base r x hc
  | none => rfl

theorem readElem_putElem_other (v : SMap (BitVec 16)) (base r : Nat) {c : Nat} (x : Option Nat) (low w i : Nat) {d : Nat}
    (hc : c < 65536) (hd : d < 65536) (h : low + 2 * i + 1 < base + 2 * r ∨ base + 2 * r + 1 < low + 2 * i ∨ d ≠ c) :
    readElem (putElem base r c x v) low w 32 i d = readElem v low w 32 i d := by
  cases x with
  | some x => exact readElem_writeElem_32_other v base r x low w i hc hd h
  | none => rfl

theorem planeWord_putElem_other (v : SMap (BitVec 16)) (base r : Nat) {c : Nat} (x : Option Nat) (k : Nat) {d : Nat}
    (hc : c < 65536) (hd : d < 65536) (h : k < base + 2 * r ∨ base + 2 * r + 1 < k ∨ d ≠ c) :
    planeWord (putElem base r c x v) k d = planeWord v k d := by
  cases x with
  | some x => exact (planeWord_writeElem_32 v base r x k hc hd).trans (by rw [if_neg (by omega), if_neg (by omega)])
  | none => rfl

theorem readElem_tileLoop_putElem {rc vl base r c : Nat} (val : Nat → Nat → Option Nat) (v : SMap (BitVec 16))
    (hvl : vl ≤ 65536) (hr : r < rc) (hc : c < vl) :
    readElem (tileLoop rc vl (fun r c => putElem base r c (val r c)) v) base 32 32 r c
      = ((val r c).map (· % 2 ^ 32)).getD (readElem v base 32 32 r c) := by
  refine tileLoop_at (fun v => readElem v base 32 32 r c) (((val r c).map (· % 2 ^ 32)).getD ·) hr hc (fun v => ?_)
    fun i j hi hj hne v => ?_
  · exact readElem_putElem_same v base r _ (by omega)
  · exact readElem_putElem_other v base i _ base 32 r (by omega) (by omega) (by omega)

theorem planeWord_tileLoop_putElem_outside {rc vl base k c : Nat} (val : Nat → Nat → Option Nat) (v : SMap (BitVec 16))
    (hvl : vl ≤ 65536) (hc : c < 65536) (hout : k < base ∨ base + 2 * rc ≤ k ∨ vl ≤ c) :
    planeWord (tileLoop rc vl (fun r c => putElem base r c (val r c)) v) k c = planeWord v k c :=
  tileLoop_frame (fun v => planeWord v k c) fun i j hi hj v =>
    planeWord_putElem_other v base i _ k (by omega) hc (by omega)

/-- The stored planes of a 32-bit pattern are its 32 bits (R87). -/
theorem extPat_32 {t : Tag} (hw : tagW t = 32) (hp : tagP t = 32) (x : Nat) : extPat t x = x % 2 ^ 32 := by
  unfold extPat
  rw [hw, hp]
  split
  · unfold intMod sgn
    dsimp only
    split <;> omega
  · rfl

theorem writeRow_map_range_32 {t : Tag} (hw : tagW t = 32) (hp : tagP t = 32) (v : SMap (BitVec 16)) (base r n : Nat)
    (val : Nat → Option Nat) :
    writeRow v base t r 0 ((List.range n).map val) = upto n (fun c => putElem base r c ((val c).map (· % 2 ^ 32))) v := by
  unfold writeRow
  rw [foldl_zipIdx_map_range]
  refine upto_congr _ fun c _ v => ?_
  unfold putElem
  cases val c with
  | some x => simp [hp, extPat_32 hw hp]
  | none => rfl

end Sys2Proof.Machine
end

section
/-! PROOF. Sources of an instruction that begins: its checks pass, and each source row is the row of elements that the statements
name (R42, R86, R88, R126). -/

namespace Sys2Proof.Claims

open Sys2Proof Sys2Proof.Machine

/-! The checks of R126. -/

theorem tileFault_eq_none {f : Front} {l : List (Reg × Tag)} (h : ∀ e ∈ l, namesTile f e.1 = false) : tileFault f l = none := by
  induction l with
  | nil => rfl
  | cons e l ih =>
    unfold tileFault
    rw [if_neg (by simp [h e (by simp)])]
    exact ih fun d hd => h d (by simp [hd])

theorem groupFault_eq_none {f : Front} {l : List (Reg × Tag × Nat)}
    (h : ∀ e ∈ l, e.1.val < 28 → groupBad f.mmode e.1.val (groupRegs e.2.2 (tagP e.2.1)) = false) : groupFault f l = none := by
  induction l with
  | nil => rfl
  | cons e l ih =>
    unfold groupFault
    have hpass : (decide (e.1.val < 28) && e.2.2 != 0 && groupBad f.mmode e.1.val (groupRegs e.2.2 (tagP e.2.1))) = false := by
      by_cases hr : e.1.val < 28
      · simp [h e (by simp) hr]
      · simp [hr]
    rw [if_neg (by simpa using hpass)]
    exact ih fun d hd => h d (by simp [hd])

theorem namesTile_of_fits {s : State} {r : Reg} {n : Nat} {t : Tag} (h : Fits s r n t) : namesTile s.cpu.front r = false := by
  obtain ⟨hlt, -, -⟩ := h
  unfold lanesEnd at hlt
  refine Bool.eq_false_iff.2 fun hn => ?_
  obtain ⟨hm, hlo, -⟩ := (namesTile_iff _ _).1 hn
  rw [if_pos hm] at hlt
  omega

theorem groupBad_of_fits {s : State} {r : Reg} {n : Nat} {t : Tag} (h : Fits s r n t) :
    groupBad s.cpu.front.mmode r.val (groupRegs n (tagP t)) = false := by
  obtain ⟨-, halign, hend⟩ := h
  have hregs : groupRegs n (tagP t) = regsFor n t := rfl
  unfold lanesEnd at hend
  unfold groupBad
  simp only [Bool.or_eq_false_iff, Bool.and_eq_false_imp, bne_eq_false_iff_eq, decide_eq_false_iff_not, hregs]
  refine ⟨⟨halign, ?_⟩, fun hm => ?_⟩
  · split at hend <;> omega
  · rw [if_pos hm] at hend
    omega

theorem fits_of_sourceReady {s : State} {r : Reg} {n : Nat} (h : SourceReady s r n) (hr : r.val < 28) :
    Fits s r n (s.cpu.front.srcTag r) := by
  unfold SourceReady at h
  unfold Front.srcTag
  rwa [if_pos hr] at h ⊢

theorem rows_of_sourceReady {s : State} {r : Reg} {n : Nat} (h : SourceReady s r n) (hr : ¬r.val < 28) :
    n ≤ (s.cpu.back.queue (r.val - 28)).rows.length := by
  unfold SourceReady at h
  rwa [if_neg hr] at h

theorem namesTile_of_sourceReady {s : State} {r : Reg} {n : Nat} (h : SourceReady s r n) :
    namesTile s.cpu.front r = false := by
  by_cases hr : r.val < 28
  · exact namesTile_of_fits (fits_of_sourceReady h hr)
  · exact Bool.eq_false_iff.2 fun hn => hr ((namesTile_iff _ _).1 hn).2.2

theorem groupBad_of_sourceReady {s : State} {r : Reg} {n : Nat} (h : SourceReady s r n) (hr : r.val < 28) :
    groupBad s.cpu.front.mmode r.val (groupRegs n (tagP (s.cpu.front.srcTag r))) = false :=
  groupBad_of_fits (fits_of_sourceReady h hr)

/-! Source rows and predicates. -/

theorem srcLanes_of_none {s : State} (h : s.cpu.lanes = none) : s.srcLanes = (s.cpu.back.v, s.cpu.back.m) := by
  rw [State.srcLanes, h]

/-- The elements of a row that the queue has: those it was delivered with, and free ones behind them (log 13). -/
theorem headElems_eq_map (b : Back) (q k n : Nat) (hk : k < (b.queue q).rows.length) :
    headElems b q k n = (List.range n).map (headElem b q k) := by
  unfold headElems headElem
  simp only [List.getElem?_eq_getElem hk]
  generalize (b.queue q).rows[k] = x
  have hlen : (x.elems.take n).length = min n x.elems.length := List.length_take
  refine List.ext_getElem ?_ fun c hc hrange => ?_
  · rw [List.length_append, hlen, List.length_map, List.length_map, List.length_range, List.length_range]
    omega
  · have hcn : c < n := by simpa using hrange
    rw [List.getElem_map, List.getElem_range]
    by_cases hlt : c < x.elems.length
    · rw [if_pos hlt, List.getElem_append_left (by omega), List.getElem_take, List.getD_eq_getElem _ _ hlt]
    · rw [if_neg hlt, List.getElem_append_right (by omega), List.getElem_map, List.getElem_range, hlen]
      congr 1
      omega

theorem srcRow_eq_map {s : State} {r : Reg} {row rows : Nat} (n : Nat) (h : SourceReady s r rows) (hrow : row < rows) :
    srcRow s.cpu.back.v s.cpu.back s.cpu.front r row row n = (List.range n).map (srcEl s r row) := by
  unfold srcRow headOf
  by_cases hr : r.val < 28
  · have hel : srcEl s r row = readElem s.cpu.back.v r.val (tagW (s.cpu.front.srcTag r)) (tagP (s.cpu.front.srcTag r)) row := by
      funext c
      unfold srcEl Front.srcTag
      rw [if_pos hr, if_pos hr]
      rfl
    rw [if_neg (by omega), hel]
    rfl
  · have hq := rows_of_sourceReady h hr
    rw [if_pos (by omega)]
    dsimp only
    rw [headElems_eq_map _ _ _ _ (by omega), List.map_map]
    refine List.map_congr_left fun c _ => ?_
    unfold srcEl
    rw [if_neg hr]
    rfl

theorem predRow_eq_map (s : State) (o : VOps) (r n : Nat) :
    predRow s.cpu.back.m o false r n = (List.range n).map (pmAt s o r) := by
  unfold predRow maskRow
  have hpm (c : Nat) : pmAt s o r c = (decide (o.pm.val = 0) || maskBit s.cpu.back.m o.pm.val r c) := rfl
  by_cases h : o.pm.val = 0
  · have hall : pmAt s o r = fun _ => true := funext fun c => by simp [hpm, h]
    simp [h, hall]
  · simp [h, hpm]

/-! Queue heads (R42, R255). -/

/-- The heads that the fields of a list name, each once, with `n` rows to be taken of each. -/
def TakesHeads (l : List Reg) (n : Nat) (heads : List (Nat × Nat)) : Prop :=
  (heads.map (·.1)).Nodup ∧ ∀ q m, (q, m) ∈ heads ↔ m = n ∧ ∃ r ∈ l, r.val = 28 + q

/-- The head that one field names. -/
def oneHead (r : Reg) (n : Nat) : List (Nat × Nat) :=
  match headOf r with
  | some q => [(q, n)]
  | none => []

theorem headOf_of_lt {r : Reg} (h : r.val < 28) : headOf r = none := if_neg (by omega)

theorem headOf_of_le {r : Reg} (h : 28 ≤ r.val) : headOf r = some (r.val - 28) := if_pos h

theorem takesHeads_nil {l : List Reg} (n : Nat) (h : ∀ r ∈ l, r.val < 28) : TakesHeads l n [] :=
  ⟨List.nodup_nil, fun _ _ => ⟨nofun, fun ⟨_, r, hr, hval⟩ => by have := h r hr; omega⟩⟩

theorem takesHeads_singleton {l : List Reg} (n q : Nat) (h : ∀ k, (∃ r ∈ l, r.val = 28 + k) ↔ k = q) : TakesHeads l n [(q, n)] :=
  ⟨List.nodup_singleton _, fun k m => by rw [h, List.mem_singleton, Prod.mk.injEq, and_comm]⟩

theorem takesHeads_oneHead (r : Reg) (n : Nat) : TakesHeads [r] n (oneHead r n) := by
  unfold oneHead
  rcases Nat.lt_or_ge r.val 28 with hr | hr
  · rw [headOf_of_lt hr]
    exact takesHeads_nil n (by simpa using hr)
  · rw [headOf_of_le hr]
    refine takesHeads_singleton n _ fun k => ?_
    rw [List.exists_mem_cons_iff, or_iff_left (by simp)]
    omega

theorem takesHeads_wholeHeads (o : VOps) (n : Nat) : TakesHeads [o.va, o.vb] n (wholeHeads o n n true) := by
  have hfields (k : Nat) : (∃ r ∈ [o.va, o.vb], r.val = 28 + k) ↔ o.va.val = 28 + k ∨ o.vb.val = 28 + k := by simp
  unfold wholeHeads
  rw [if_pos rfl]
  rcases Nat.lt_or_ge o.va.val 28 with ha | ha <;> rcases Nat.lt_or_ge o.vb.val 28 with hb | hb
  · rw [headOf_of_lt ha, headOf_of_lt hb]
    exact takesHeads_nil n (by simpa using ⟨ha, hb⟩)
  · rw [headOf_of_lt ha, headOf_of_le hb]
    exact takesHeads_singleton n _ fun k => (hfields k).trans (by omega)
  · rw [headOf_of_le ha, headOf_of_lt hb]
    exact takesHeads_singleton n _ fun k => (hfields k).trans (by omega)
  · rw [headOf_of_le ha, headOf_of_le hb]
    dsimp only
    split
    case isTrue heq =>
      rw [Nat.max_self]
      exact takesHeads_singleton n _ fun k => (hfields k).trans (by omega)
    case isFalse hne =>
      refine ⟨List.nodup_cons.2 ⟨by simpa using hne, List.nodup_singleton _⟩, fun q m => ?_⟩
      rw [hfields, List.mem_cons, List.mem_singleton, Prod.mk.injEq, Prod.mk.injEq]
      omega

theorem shortHeads_eq_nil {s : State} {l : List Reg} {n : Nat} {heads : List (Nat × Nat)} (hh : TakesHeads l n heads)
    (h : ∀ r ∈ l, SourceReady s r n) : shortHeads s.cpu.back heads = [] := by
  unfold shortHeads
  rw [List.map_eq_nil_iff, List.filter_eq_nil_iff]
  rintro ⟨q, m⟩ he
  obtain ⟨rfl, r, hr, hval⟩ := (hh.2 q m).1 he
  have hrows := rows_of_sourceReady (h r hr) (by omega)
  rw [show r.val - 28 = q by omega] at hrows
  simpa using hrows

/-- The rows of the heads are taken (R255). -/
def popHeads (heads : List (Nat × Nat)) (b : Back) : Back := heads.foldl (fun b h => b.popRows h.1 h.2) b

/-- Taking rows changes nothing but the queues. -/
theorem popHeads_eq (heads : List (Nat × Nat)) (b : Back) :
    popHeads heads b = { b with queues := (popHeads heads b).queues } := by
  induction heads generalizing b with
  | nil => rfl
  | cons e heads ih => exact ih (b.popRows e.1 e.2)

theorem queue_popHeads {heads : List (Nat × Nat)} (b : Back) {k n : Nat} (hk : k < 6) (hd : (heads.map (·.1)).Nodup)
    (hn : ∀ e ∈ heads, e.2 = n) :
    (popHeads heads b).queue k = if k ∈ heads.map (·.1) then (b.queue k).take n else b.queue k := by
  induction heads generalizing b with
  | nil => simp [popHeads]
  | cons e heads ih =>
    rw [List.map_cons, List.nodup_cons] at hd
    obtain ⟨hnew, hd⟩ := hd
    refine (ih (b.popRows e.1 e.2) hd fun d hd => hn d (by simp [hd])).trans ?_
    rw [Back.popRows_queue, hn e (by simp), List.map_cons]
    by_cases hke : k = e.1
    · subst hke
      rw [if_neg hnew, if_pos ⟨rfl, hk⟩, if_pos List.mem_cons_self]
    · rw [if_neg (c := k = e.1 ∧ e.1 < 6) fun h => hke h.1]
      exact if_congr (List.mem_cons.trans (or_iff_right hke)).symm rfl rfl

theorem consumes_popHeads {s t : State} {l : List Reg} {n : Nat} {heads : List (Nat × Nat)} {b : Back} (hh : TakesHeads l n heads)
    (hb : b.queues = s.cpu.back.queues) (ht : t.cpu.back.queues = (popHeads heads b).queues) : Consumes s t l n := by
  intro q hlt
  obtain ⟨hd, hmem⟩ := hh
  have hiff : q ∈ heads.map (·.1) ↔ l.any (fun r => r.val == 28 + q) = true := by
    simp only [List.mem_map, List.any_eq_true, beq_iff_eq]
    constructor
    · rintro ⟨⟨q, m⟩, he, rfl⟩
      exact ((hmem q m).1 he).2
    · exact fun hr => ⟨(q, n), (hmem q n).2 ⟨rfl, hr⟩, rfl⟩
  have hold : b.queue q = s.cpu.back.queue q := congrArg (fun v => vget QState.empty v q) hb
  have hnew : t.cpu.back.queue q = (popHeads heads b).queue q := congrArg (fun v => vget QState.empty v q) ht
  unfold Loses
  rw [hnew, queue_popHeads b (by omega) hd fun e he => ((hmem e.1 e.2).1 he).1, hold]
  by_cases h : q ∈ heads.map (·.1)
  · rw [if_pos h, if_pos (hiff.1 h)]
    exact ⟨rfl, rfl, rfl⟩
  · rw [if_neg h, if_neg (mt hiff.2 h)]
    exact ⟨rfl, rfl, rfl⟩

/-- Taking no rows leaves a queue its rows. -/
theorem consumes_zero {s t : State} (l : List Reg) (h : t.cpu.back.queues = s.cpu.back.queues) : Consumes s t l 0 := by
  intro q _
  have hq : t.cpu.back.queue q = s.cpu.back.queue q := congrArg (fun v => vget QState.empty v q) h
  unfold Loses
  rw [hq, ite_self]
  exact ⟨rfl, rfl, rfl⟩

/-- What an instruction that goes through the tile takes of the heads: their rows, or none where the tile is empty (R128, R255). -/
def takeRows (s : State) (heads : List (Nat × Nat)) (b : Back) : Back :=
  if s.cpu.front.rc = 0 ∨ s.cpu.front.vl = 0 then b else popHeads heads b

theorem takeRows_eq (s : State) (heads : List (Nat × Nat)) (b : Back) :
    takeRows s heads b = { b with queues := (takeRows s heads b).queues } := by
  unfold takeRows
  split
  · rfl
  · exact popHeads_eq heads b

theorem consumes_takeRows {s t : State} {l : List Reg} {heads : List (Nat × Nat)} {b : Back}
    (hh : TakesHeads l s.cpu.front.rc heads) (hb : b.queues = s.cpu.back.queues)
    (ht : t.cpu.back.queues = (takeRows s heads b).queues) : Consumes s t l (tileRows s) := by
  unfold takeRows at ht
  unfold tileRows
  by_cases hempty : s.cpu.front.rc = 0 ∨ s.cpu.front.vl = 0
  · rw [if_pos hempty] at ht
    rw [show (if s.cpu.front.vl = 0 then 0 else s.cpu.front.rc) = 0 by split <;> tauto]
    exact consumes_zero l (ht.trans hb)
  · rw [if_neg hempty] at ht
    rw [if_neg (by tauto)]
    exact consumes_popHeads hh hb ht

/-! Retagging (R105). -/

theorem vget_retag (f : Front) (base g k : Nat) (t : Tag) (hk : k < 28) :
    vget tagInt8 (f.retag base g t).vtag k = if base ≤ k ∧ k < base + max 1 g then t else vget tagInt8 f.vtag k := by
  have hloop (n : Nat) : vget tagInt8 ((List.range n).foldl (fun v j => vput v (base + j) t) f.vtag) k
      = if base ≤ k ∧ k < base + n then t else vget tagInt8 f.vtag k := by
    induction n with
    | zero => rw [if_neg (by omega)]; rfl
    | succ n ih =>
      rw [List.range_succ, List.foldl_append, List.foldl_cons, List.foldl_nil, vget_vput, ih]
      by_cases h : k = base + n
      · rw [if_pos ⟨h, by omega⟩, if_pos (by omega)]
      · rw [if_neg (fun hk => h hk.1)]
        exact if_congr (by omega) rfl rfl
  rw [Nat.max_comm]
  exact hloop _

end Sys2Proof.Claims
end

section
/-! PROOF. Completing a CAT instruction, and the rows of one that takes effect whole (R152, R190, R320). -/

namespace Sys2Proof.Claims

open Sys2Proof Sys2Proof.Machine

/-- Completion of an instruction without a resume point: the stream goes on behind it with the registers `f`. -/
theorem retiresOnly_finish (s : State) (b : Back) (i : Instr) (f : Front) (hkeep : keepsVstart i = true) (hlen : i.len = 4)
    (hf : f.instret = s.cpu.front.instret) :
    RetiresOnly s ((s.setBack b).finish i f) { f with pc := f.pc + BitVec.ofNat 64 4 } := by
  unfold State.finish vstartAfter
  rw [if_pos hkeep, hlen]
  refine ⟨⟨?_, rfl, .inr rfl⟩, rfl, rfl, rfl, fun _ => rfl⟩
  rw [State.retire_front, State.setFront_front, ← hf]

/-- A CAT instruction that writes no x register. -/
theorem retiresCat_finish (s : State) (i : Instr) (tags : Vector Tag 28) (v m : SMap (BitVec 16)) (qs : Vector QState 6) (c : Cat)
    (hkeep : keepsVstart i = true) (hlen : i.len = 4) :
    let t := (s.setBack { s.cpu.back with v := v, m := m, queues := qs, cat := c }).finish i { s.cpu.front with vtag := tags }
    KeepsX s t ∧ RetiresCat s t :=
  ⟨fun _ => rfl, retiresOnly_finish s _ i _ hkeep hlen rfl, rfl⟩

/-- A CAT instruction that computes x[d]. -/
theorem finish_setX_spec (s : State) (b : Back) (i : Instr) (d : Reg) (v : W64) (hkeep : keepsVstart i = true) (hlen : i.len = 4) :
    let t := (s.setBack b).finish i (s.cpu.front.setX d v)
    WritesX s t d v ∧ RetiresOnly s t (past s t 4) ∧ t.cpu.back = b := by
  intro t
  have hget (r : Reg) : t.getX r = (s.cpu.front.setX d v).getX r := rfl
  refine ⟨⟨?_, fun r hr => ?_⟩, ?_, rfl⟩
  · rw [hget, Front.getX_setX_same]
  · rw [hget, Front.getX_setX_other _ _ _ _ hr]; rfl
  · have hret := retiresOnly_finish s b i (s.cpu.front.setX d v) hkeep hlen (by rw [Front.setX_eq])
    have hpast : past s t 4 = { s.cpu.front.setX d v with pc := (s.cpu.front.setX d v).pc + BitVec.ofNat 64 4 } := by
      change { s.cpu.front with x := (s.cpu.front.setX d v).x, pc := s.cpu.front.pc + BitVec.ofNat 64 4 } = _
      rw [Front.setX_eq]
    rwa [hpast]

/-- Writes of lanes and of masks do not meet. -/
theorem upto_lanes (n : Nat) (fv fm : Nat → SMap (BitVec 16) → SMap (BitVec 16)) (b : Back) :
    upto n (fun k b => { b with v := fv k b.v, m := fm k b.m }) b = { b with v := upto n fv b.v, m := upto n fm b.m } := by
  induction n with
  | zero => rfl
  | succ n ih => simp only [upto_succ, ih]

theorem tileLoop_lanes (rc vl : Nat) (fv fm : Nat → Nat → SMap (BitVec 16) → SMap (BitVec 16)) (b : Back) :
    tileLoop rc vl (fun r c b => { b with v := fv r c b.v, m := fm r c b.m }) b
      = { b with v := tileLoop rc vl fv b.v, m := tileLoop rc vl fm b.m } := by
  rw [tileLoop_eq_upto, tileLoop_eq_upto, tileLoop_eq_upto, upto_lanes]

theorem upto_setBack (n : Nat) (g : Nat → Back → Back) (s : State) :
    upto n (fun k s => s.setBack (g k s.cpu.back)) s = s.setBack (upto n g s.cpu.back) := by
  induction n with
  | zero => rfl
  | succ n ih => rw [upto_succ, ih, upto_succ]; rfl

/-- A job that takes effect whole into registers and a mask: its heads have their rows, and registers are never full (R152). -/
theorem wholeJob_reg {s : State} (i : Instr) {j : WholeJob} (cont : Front) {base k n : Nat} {t : Tag} {row : Nat → RowOut}
    (hdst : j.dst = .reg base t) (hflag : j.flagMask = some k) (hshort : shortHeads s.cpu.back j.heads = [])
    (hres : j.result s.cpu.back = (List.range n).map row) :
    s.wholeJob i j cont = (s.setBack (popHeads j.heads { s.cpu.back with
      v := upto n (fun r v => writeRow v base t r 0 (row r).vals) s.cpu.back.v
      m := upto n (fun r m => writeMaskRow m k r 0 (row r).flags) s.cpu.back.m })).finish i cont := by
  have hloop : (j.result s.cpu.back).zipIdx.foldl (fun s e => s.putRow j.dst j.flagMask e.2 0 e.1) s
      = s.setBack { s.cpu.back with
          v := upto n (fun r v => writeRow v base t r 0 (row r).vals) s.cpu.back.v
          m := upto n (fun r m => writeMaskRow m k r 0 (row r).flags) s.cpu.back.m } := by
    rw [hres, hdst, hflag, foldl_zipIdx_map_range, ← upto_lanes, ← upto_setBack]
    rfl
  unfold State.wholeJob
  rw [hshort]
  dsimp only
  rw [show s.dstFull j.dst _ = none by rw [hdst]; rfl]
  dsimp only
  rw [hloop]
  rfl

end Sys2Proof.Claims
end

section
/-! PROOF. CATINS and CATACC (R315, R316, R320). -/

namespace Sys2Proof.Claims

open Sys2Proof Sys2Proof.Machine

theorem catChecks_pass {i : Instr} {s body : State} {fields : List (Reg × Tag)} {groups : List (Reg × Tag × Nat)}
    (hfields : ∀ e ∈ fields, namesTile s.cpu.front e.1 = false)
    (hgroups : ∀ e ∈ groups, e.1.val < 28 → groupBad s.cpu.front.mmode e.1.val (groupRegs e.2.2 (tagP e.2.1)) = false) :
    catChecks i s fields none groups body = body := by
  unfold catChecks
  dsimp only
  rw [tileFault_eq_none hfields, groupFault_eq_none hgroups]

/-- The failure bit that CATINS or CATACC sets at (r, c), none for what was there (R316, R320). -/
def catBit (s : State) (o : VOps) (acc : Bool) (r c : Nat) : Option Bool :=
  let k := r * s.cpu.front.vl + c
  if pmAt s o r c then
    some ((catBefore s o acc k).put (4096 * s.cpu.id.share) acc (catElem s o k).1 (catElem s o k).2).2
  else if o.mod.val = 3 then some false else none

/-- The step of CATINS or CATACC at (r, c): the catalogue and the masks behind it. -/
def catStep (s : State) (o : VOps) (acc : Bool) (r c : Nat) (st : Cat × SMap (BitVec 16)) : Cat × SMap (BitVec 16) :=
  let f := s.cpu.front
  if pmAt s o r c then
    let z := st.1.put (catSize s.cpu.id.share) acc (catKey (f.srcTag o.va) (srcEl s o.va r c))
      (tagWrite (vkindTag s.cpu.back.cat.cfg) f.rm false (!tagIsInt (f.srcTag o.vb)) (tval (f.srcTag o.vb) (srcEl s o.vb r c))).1
    (z.1, setMaskBit st.2 o.vd.val r c z.2)
  else if o.mod.val = 3 then (st.1, setMaskBit st.2 o.vd.val r c false)
  else st

theorem catBefore_succ (s : State) (o : VOps) (acc : Bool) (n : Nat) :
    catBefore s o acc (n + 1) = if pmAt s o (n / s.cpu.front.vl) (n % s.cpu.front.vl) then
      ((catBefore s o acc n).put (4096 * s.cpu.id.share) acc (catElem s o n).1 (catElem s o n).2).1 else catBefore s o acc n := by
  unfold catBefore
  rw [List.range_succ, List.filter_append, List.foldl_append]
  by_cases h : pmAt s o (n / s.cpu.front.vl) (n % s.cpu.front.vl) <;> simp [h]

/-- What one step adds, from the catalogue that the elements before it have left. -/
theorem catStep_catBefore (s : State) (o : VOps) (acc : Bool) (n : Nat) (m : SMap (BitVec 16)) :
    let vl := s.cpu.front.vl
    catStep s o acc (n / vl) (n % vl) (catBefore s o acc n, m)
      = (catBefore s o acc (n + 1), putBit o.vd.val (n / vl) (n % vl) (catBit s o acc (n / vl) (n % vl)) m) := by
  intro vl
  unfold catStep catBit
  rw [catBefore_succ, Nat.div_add_mod']
  by_cases hact : pmAt s o (n / vl) (n % vl)
  · simp only [vl, hact, if_true]
    rfl
  · by_cases hmod : o.mod.val = 3
    · simp only [vl, hact, hmod, if_true]
      rfl
    · simp only [vl, hact, hmod, if_false]
      rfl

/-- The elements are put in ascending order, and each failure bit is its element's (R320). -/
theorem tileLoop_catStep (s : State) (o : VOps) (acc : Bool) (rc : Nat) (m : SMap (BitVec 16)) :
    tileLoop rc s.cpu.front.vl (catStep s o acc) (s.cpu.back.cat, m)
      = (catBefore s o acc (rc * s.cpu.front.vl),
          tileLoop rc s.cpu.front.vl (fun r c => putBit o.vd.val r c (catBit s o acc r c)) m) := by
  rw [tileLoop_eq_upto, tileLoop_eq_upto]
  generalize rc * s.cpu.front.vl = n
  induction n with
  | zero => rfl
  | succ n ih => rw [upto_succ, ih, upto_succ]; exact catStep_catBefore s o acc n _

/-- The lanes' side behind CATINS or CATACC, before rows are taken. -/
def catBack (s : State) (o : VOps) (acc : Bool) : Back :=
  { s.cpu.back with
    cat := catBefore s o acc (s.cpu.front.rc * s.cpu.front.vl)
    m := tileLoop s.cpu.front.rc s.cpu.front.vl (fun r c => putBit o.vd.val r c (catBit s o acc r c)) s.cpu.back.m }

theorem catBack_of_empty (s : State) (o : VOps) (acc : Bool) (h : s.cpu.front.rc = 0 ∨ s.cpu.front.vl = 0) :
    catBack s o acc = s.cpu.back := by
  have hzero : s.cpu.front.rc * s.cpu.front.vl = 0 := Nat.mul_eq_zero.2 h
  unfold catBack
  rw [tileLoop_empty _ _ hzero, hzero]
  rfl

/-- CATINS and CATACC complete with the catalogue and the masks of their steps. -/
theorem catUpdate_eq (i : Instr) (o : VOps) (acc : Bool) (s : State) (hs : Begins s) (ha : SourceReady s o.va s.cpu.front.rc)
    (hb : SourceReady s o.vb s.cpu.front.rc) (hint : tagIsInt (s.cpu.front.srcTag o.va) = true)
    (he8 : tagE8 (s.cpu.front.srcTag o.vb) = false) :
    catUpdate i o acc s = (s.setBack (takeRows s (wholeHeads o s.cpu.front.rc s.cpu.front.rc true) (catBack s o acc))).finish i
      s.cpu.front := by
  obtain ⟨hin, hlanes, -⟩ := hs
  unfold catUpdate
  dsimp only
  rw [hint, he8, if_pos (show (true && !false) = true from rfl),
    catChecks_pass (by simp [namesTile_of_sourceReady ha, namesTile_of_sourceReady hb])
      (by simpa using ⟨groupBad_of_sourceReady ha, groupBad_of_sourceReady hb⟩), State.inOrder_nil s _ _ hin]
  by_cases hempty : s.cpu.front.rc = 0 ∨ s.cpu.front.vl = 0
  · rw [if_pos (by simpa using hempty), takeRows, if_pos hempty, catBack_of_empty s o acc hempty]
    rfl
  · have hheads := takesHeads_wholeHeads o s.cpu.front.rc
    rw [if_neg (by simpa using hempty), takeRows, if_neg hempty, shortHeads_eq_nil hheads (by simp [ha, hb]),
      srcLanes_of_none hlanes]
    dsimp only
    refine (congrArg (fun z : Cat × SMap (BitVec 16) => (s.setBack (popHeads _ { s.cpu.back with
      cat := z.1, m := z.2 })).finish i s.cpu.front) (?_ : _ = tileLoop s.cpu.front.rc s.cpu.front.vl (catStep s o acc)
        (s.cpu.back.cat, s.cpu.back.m))).trans ?_
    · refine List.foldl_ext _ _ _ fun st r hr => ?_
      have hrow := List.mem_range.1 hr
      rw [srcRow_eq_map _ ha hrow, srcRow_eq_map _ hb hrow, predRow_eq_map, List.zip_map', List.zip_map', foldl_zipIdx_map_range]
      rfl
    · rw [tileLoop_catStep]
      rfl

theorem exec_of_catForm {i : Instr} {o : VOps} {acc : Bool} (s : State) (h : catForm i = some (o, acc)) :
    exec i s = .next (catUpdate i o acc s) ∧ keepsVstart i = true ∧ i.len = 4 := by
  cases i with
  | catins | catacc => cases h; exact ⟨rfl, rfl, rfl⟩
  | _ => cases h

/-- R315, R316, R320. -/
theorem catForm_puts {i : Instr} {o : VOps} {acc : Bool} {s : State} (hi : catForm i = some (o, acc)) (hs : Begins s)
    (ha : SourceReady s o.va s.cpu.front.rc) (hb : SourceReady s o.vb s.cpu.front.rc)
    (hint : tagIsInt (s.cpu.front.srcTag o.va) = true) (he8 : tagE8 (s.cpu.front.srcTag o.vb) = false) :
    ∃ t, exec i s = .next t ∧ KeepsX s t ∧ RetiresCat s t ∧ t.cpu.front.vtag = s.cpu.front.vtag ∧ t.cpu.back.v = s.cpu.back.v
      ∧ Consumes s t [o.va, o.vb] (tileRows s)
      ∧ t.cpu.back.cat = catBefore s o acc (s.cpu.front.rc * s.cpu.front.vl)
      ∧ HoldsMask s t o.vd.val (catBit s o acc) := by
  obtain ⟨hexec, hkeep, hlen⟩ := exec_of_catForm s hi
  rw [hexec, catUpdate_eq i o acc s hs ha hb hint he8, takeRows_eq]
  obtain ⟨-, -, -, -, hrc, hvl⟩ := hs
  obtain ⟨hx, hret⟩ := retiresCat_finish s i s.cpu.front.vtag (catBack s o acc).v (catBack s o acc).m
    (takeRows s (wholeHeads o s.cpu.front.rc s.cpu.front.rc true) (catBack s o acc)).queues (catBack s o acc).cat hkeep hlen
  refine ⟨_, rfl, hx, hret, rfl, rfl, consumes_takeRows (takesHeads_wholeHeads o _) (b := catBack s o acc) rfl rfl, rfl,
    fun r c hr hc => ?_, fun j r c _ hc hout => ?_⟩
  · exact maskBit_tileLoop_putBit _ _ hrc hvl hr hc
  · exact maskBit_tileLoop_putBit_outside _ _ hrc hvl hc hout

end Sys2Proof.Claims
end

section
/-! PROOF. CATLKP (R315, R317). -/

namespace Sys2Proof.Claims

open Sys2Proof Sys2Proof.Machine

/-- Every kind of value has 32 bits (R313). -/
theorem vkindTag_width (cfg : W64) : tagW (vkindTag cfg) = 32 ∧ tagP (vkindTag cfg) = 32 := by
  unfold vkindTag
  split <;> decide

theorem catConfig_of_nil {s : State} (h : s.cpu.inflight = []) : s.catConfig = s.cpu.back.cat.cfg := by
  simp [State.catConfig, h]

theorem catFind_eq_mfind (c : Cat) (k : Nat) :
    catFind c k = (mfind (c.entries.map (fun p => (p.1.toNat, p.2))) k).map BitVec.toNat := by
  unfold catFind
  induction c.entries with
  | nil => rfl
  | cons e l ih =>
    rw [List.map_cons, mfind]
    by_cases h : e.1.toNat = k
    · rw [if_pos h, List.find?_cons_of_pos (by simpa using h)]
      rfl
    · rw [if_neg h, List.find?_cons_of_neg (by simpa using h), ih]

/-- The key at (r, c) (R315). -/
def keyAt (s : State) (o : VOps) (r c : Nat) : Nat := (tint (s.cpu.front.srcTag o.va) (srcEl s o.va r c) % 2 ^ 32).toNat

/-- What CATLKP leaves at (r, c) in its destination, none for what was there (R317). -/
def lookedUp (s : State) (o : VOps) (r c : Nat) : Option Nat :=
  if pmAt s o r c then some ((catFind s.cpu.back.cat (keyAt s o r c)).getD 0) else if o.mod.val = 3 then some 0 else none

/-- The miss bit at (r, c), none for what was there (R317). -/
def missed (s : State) (o : VOps) (r c : Nat) : Option Bool :=
  if pmAt s o r c then some (catFind s.cpu.back.cat (keyAt s o r c)).isNone else if o.mod.val = 3 then some false else none

/-- Row `r` of CATLKP. -/
def lookRow (s : State) (o : VOps) (r : Nat) : RowOut :=
  ⟨(List.range s.cpu.front.vl).map (lookedUp s o r), (List.range s.cpu.front.vl).map (missed s o r)⟩

/-- The lanes' side behind CATLKP, before rows are taken. -/
def lookBack (s : State) (o : VOps) : Back :=
  { s.cpu.back with
    v := tileLoop s.cpu.front.rc s.cpu.front.vl (fun r c => putElem o.vd.val r c ((lookedUp s o r c).map (· % 2 ^ 32))) s.cpu.back.v
    m := tileLoop s.cpu.front.rc s.cpu.front.vl (fun r c => putBit o.vb.val r c (missed s o r c)) s.cpu.back.m }

theorem lookBack_of_empty (s : State) (o : VOps) (h : s.cpu.front.rc = 0 ∨ s.cpu.front.vl = 0) : lookBack s o = s.cpu.back := by
  have hzero : s.cpu.front.rc * s.cpu.front.vl = 0 := Nat.mul_eq_zero.2 h
  unfold lookBack
  rw [tileLoop_empty _ _ hzero, tileLoop_empty _ _ hzero]

/-- The rows of CATLKP, written one after the other. -/
theorem lookBack_eq_rows (s : State) (o : VOps) {kt : Tag} (hw : tagW kt = 32) (hp : tagP kt = 32) :
    lookBack s o = { s.cpu.back with
      v := upto s.cpu.front.rc (fun r v => writeRow v o.vd.val kt r 0 (lookRow s o r).vals) s.cpu.back.v
      m := upto s.cpu.front.rc (fun r m => writeMaskRow m o.vb.val r 0 (lookRow s o r).flags) s.cpu.back.m } := by
  unfold lookRow
  simp only [writeRow_map_range_32 hw hp, writeMaskRow_map_range]
  rfl

/-- CATLKP completes with its rows in the lanes, under the tag of the values. -/
theorem exec_catlkp (o : VOps) (s : State) (hs : Begins s) (hvd : o.vd.val < 28) (ha : SourceReady s o.va s.cpu.front.rc)
    (hint : tagIsInt (s.cpu.front.srcTag o.va) = true) (hfit : Fits s o.vd s.cpu.front.rc (vkindTag s.cpu.back.cat.cfg)) :
    exec (.catlkp o) s = .next ((s.setBack (takeRows s (oneHead o.va s.cpu.front.rc) (lookBack s o))).finish (.catlkp o)
      (s.cpu.front.retagDst o.vd s.cpu.front.rc (vkindTag s.cpu.back.cat.cfg))) := by
  obtain ⟨hin, hlanes, -⟩ := hs
  obtain ⟨hw, hp⟩ := vkindTag_width s.cpu.back.cat.cfg
  change execCatlkp o s = _
  unfold execCatlkp
  dsimp only
  rw [catConfig_of_nil hin, hint, if_pos hvd, if_pos rfl,
    catChecks_pass (by simp [namesTile_of_sourceReady ha, namesTile_of_fits hfit])
      (by simpa using ⟨groupBad_of_sourceReady ha, fun _ => groupBad_of_fits hfit⟩), State.inOrderAs_nil s _ _ _ hin]
  by_cases hempty : s.cpu.front.rc = 0 ∨ s.cpu.front.vl = 0
  · rw [if_pos (by simpa using hempty), takeRows, if_pos hempty, lookBack_of_empty s o hempty]
    rfl
  · rw [if_neg (by simpa using hempty), takeRows, if_neg hempty, lookBack_eq_rows s o hw hp]
    refine congrArg Host.Outcome.next (wholeJob_reg _ _ (if_pos hvd) rfl
      (shortHeads_eq_nil (takesHeads_oneHead o.va _) (by simpa using ha)) (List.map_congr_left fun r hr => ?_))
    rw [srcLanes_of_none hlanes, srcRow_eq_map _ ha (List.mem_range.1 hr), predRow_eq_map, List.zip_map', Front.outTag, if_pos hvd]
    refine (congrArg (fun cells => RowOut.mk (cells.map (·.1)) (cells.map (·.2))) (List.map_map.trans (List.map_congr_left
      fun c _ => ?_) : _ = (List.range s.cpu.front.vl).map (fun c => (lookedUp s o r c, missed s o r c)))).trans ?_
    · have hkey : catKey (s.cpu.front.srcTag o.va) (srcEl s o.va r c) = keyAt s o r c := rfl
      simp only [Function.comp_apply, hkey, if_true, lookedUp, missed, catFind_eq_mfind]
      by_cases hact : pmAt s o r c
      · cases hfind : mfind (s.cpu.back.cat.entries.map (fun p => (p.1.toNat, p.2))) (keyAt s o r c) <;> simp [hact]
      · by_cases hmod : o.mod.val = 3 <;> simp [hact, hmod]
    · unfold lookRow
      rw [List.map_map, List.map_map]
      rfl

/-- R315, R317. -/
theorem catlkp_delivers {o : VOps} {s : State} (hs : Begins s) (hvd : o.vd.val < 28) (ha : SourceReady s o.va s.cpu.front.rc)
    (hint : tagIsInt (s.cpu.front.srcTag o.va) = true) (hfit : Fits s o.vd s.cpu.front.rc (vkindTag s.cpu.back.cat.cfg)) :
    ∃ t, exec (.catlkp o) s = .next t ∧ KeepsX s t ∧ RetiresCat s t ∧ t.cpu.back.cat = s.cpu.back.cat
      ∧ Consumes s t [o.va] (tileRows s) ∧ Retags s t o.vd s.cpu.front.rc (vkindTag s.cpu.back.cat.cfg)
      ∧ HoldsGroup s t o.vd (vkindTag s.cpu.back.cat.cfg) s.cpu.front.rc s.cpu.front.vl (lookedUp s o)
      ∧ HoldsMask s t o.vb.val (missed s o) := by
  rw [exec_catlkp o s hs hvd ha hint hfit, takeRows_eq]
  obtain ⟨-, -, -, -, hrc, hvl⟩ := hs
  obtain ⟨hw, hp⟩ := vkindTag_width s.cpu.back.cat.cfg
  generalize vkindTag s.cpu.back.cat.cfg = kt at hw hp ⊢
  have hregs : regsFor s.cpu.front.rc kt = 2 * s.cpu.front.rc := by unfold regsFor; rw [hp]; omega
  have hcont : s.cpu.front.retagDst o.vd s.cpu.front.rc kt
      = { s.cpu.front with vtag := (s.cpu.front.retag o.vd.val (regsFor s.cpu.front.rc kt) kt).vtag } := if_pos hvd
  rw [hcont]
  obtain ⟨hx, hret⟩ := retiresCat_finish s (.catlkp o) (s.cpu.front.retag o.vd.val (regsFor s.cpu.front.rc kt) kt).vtag
    (lookBack s o).v (lookBack s o).m (takeRows s (oneHead o.va s.cpu.front.rc) (lookBack s o)).queues (lookBack s o).cat rfl rfl
  refine ⟨_, rfl, hx, hret, rfl, consumes_takeRows (takesHeads_oneHead o.va _) (b := lookBack s o) rfl rfl,
    fun k hk => vget_retag _ _ _ _ _ hk, ⟨fun r c hr hc => ?_, fun k c hc hout => ?_, fun r c hlo hhi _ => ?_⟩,
    fun r c hr hc => ?_, fun j r c _ hc hout => ?_⟩
  · have hread := readElem_tileLoop_putElem (base := o.vd.val) (fun r c => (lookedUp s o r c).map (· % 2 ^ 32))
      s.cpu.back.v hvl hr hc
    unfold elemAt
    rw [hw, hp]
    refine hread.trans ?_
    cases lookedUp s o r c with
    | some x => exact Nat.mod_mod x _
    | none => rfl
  · rw [hregs] at hout
    exact planeWord_tileLoop_putElem_outside _ _ hvl hc hout
  · rw [hregs, hp] at hhi
    omega
  · exact maskBit_tileLoop_putBit _ _ hrc hvl hr hc
  · exact maskBit_tileLoop_putBit_outside _ _ hrc hvl hc hout

end Sys2Proof.Claims
end

section
/-! PROOF. CATDRN (R318). -/

namespace Sys2Proof.Claims

open Sys2Proof Sys2Proof.Machine

/-- How many entries CATDRN takes. -/
def drainCount (s : State) : Nat := min s.cpu.back.cat.entries.length (s.cpu.front.rc * s.cpu.front.vl)

/-- The entry that CATDRN moves to (r, c), zeros behind the last. -/
def drained (s : State) (r c : Nat) : W32 × W32 :=
  if r * s.cpu.front.vl + c < drainCount s then s.cpu.back.cat.entries.getD (r * s.cpu.front.vl + c) (0, 0) else (0, 0)

/-- Key and value of the entry at (r, c) written into the two groups. -/
def drainElem (s : State) (o : VOps) (r c : Nat) (v : SMap (BitVec 16)) : SMap (BitVec 16) :=
  writeElem (writeElem v o.vd.val 32 r c (drained s r c).1.toNat) (o.vd.val + 2 * s.cpu.front.rc) 32 r c (drained s r c).2.toNat

/-- The fill bit at (r, c). -/
def drainBit (s : State) (r c : Nat) : Option Bool := some (decide (r * s.cpu.front.vl + c < drainCount s))

/-- The lanes' side behind CATDRN. -/
def drainBack (s : State) (o : VOps) : Back :=
  { s.cpu.back with
    v := tileLoop s.cpu.front.rc s.cpu.front.vl (drainElem s o) s.cpu.back.v
    m := tileLoop s.cpu.front.rc s.cpu.front.vl (fun r c => putBit o.vb.val r c (drainBit s r c)) s.cpu.back.m
    cat := { s.cpu.back.cat with entries := s.cpu.back.cat.entries.drop (drainCount s) } }

/-- The front behind CATDRN: the keys' group is UINT32, the values' group has the kind of the catalogue (R105, R318). -/
def drainFront (s : State) (o : VOps) : Front :=
  let f := s.cpu.front
  if f.rc = 0 then f.retag o.vd.val 1 (tagUint 32)
  else (f.retag o.vd.val (2 * f.rc) (tagUint 32)).retag (o.vd.val + 2 * f.rc) (2 * f.rc) (vkindTag s.cpu.back.cat.cfg)

theorem drainBack_of_empty (s : State) (o : VOps) (h : s.cpu.front.rc = 0 ∨ s.cpu.front.vl = 0) : drainBack s o = s.cpu.back := by
  have hzero : s.cpu.front.rc * s.cpu.front.vl = 0 := Nat.mul_eq_zero.2 h
  unfold drainBack drainCount
  rw [tileLoop_empty _ _ hzero, tileLoop_empty _ _ hzero, hzero, Nat.min_zero, List.drop_zero]

theorem exec_catdrn (o : VOps) (s : State) (hin : s.cpu.inflight = []) (hfit : Fits s o.vd (2 * s.cpu.front.rc) (tagUint 32)) :
    exec (.catdrn o) s = .next ((s.setBack (drainBack s o)).finish (.catdrn o) (drainFront s o)) := by
  change execCatdrn o s = _
  unfold execCatdrn
  dsimp only
  rw [if_neg (by simp [namesTile_of_fits hfit]), catChecks_pass (by simp) (by simpa using fun _ => groupBad_of_fits hfit),
    State.inOrderAs_nil s _ _ _ hin, catConfig_of_nil hin]
  by_cases hempty : s.cpu.front.rc = 0 ∨ s.cpu.front.vl = 0
  · rw [if_pos (by simpa using hempty), drainBack_of_empty s o hempty]
    rfl
  · have hloop := tileLoop_lanes s.cpu.front.rc s.cpu.front.vl (drainElem s o)
      (fun r c => putBit o.vb.val r c (drainBit s r c)) s.cpu.back
    rw [if_neg (by simpa using hempty)]
    refine (congrArg (fun b : Back => Host.Outcome.next ((s.setBack { b with cat := (drainBack s o).cat }).finish (.catdrn o)
      (drainFront s o))) (?_ : _ = tileLoop s.cpu.front.rc s.cpu.front.vl (fun r c b => { b with
        v := drainElem s o r c b.v, m := putBit o.vb.val r c (drainBit s r c) b.m }) s.cpu.back)).trans ?_
    · rfl
    · rw [hloop]
      rfl

/-- Neither group's elements meet those of the other. -/
theorem drainElem_other (s : State) (o : VOps) {r c i d : Nat} (v : SMap (BitVec 16)) (hr : r < s.cpu.front.rc)
    (hi : i < s.cpu.front.rc) (hc : c < 65536) (hd : d < 65536) (hne : ¬(i = r ∧ d = c)) :
    readElem (drainElem s o r c v) o.vd.val 32 32 i d = readElem v o.vd.val 32 32 i d
      ∧ readElem (drainElem s o r c v) (o.vd.val + 2 * s.cpu.front.rc) 32 32 i d
        = readElem v (o.vd.val + 2 * s.cpu.front.rc) 32 32 i d := by
  unfold drainElem
  constructor
  · rw [readElem_writeElem_32_other _ _ _ _ _ _ _ hc hd (by omega), readElem_writeElem_32_other _ _ _ _ _ _ _ hc hd (by omega)]
  · rw [readElem_writeElem_32_other _ _ _ _ _ _ _ hc hd (by omega), readElem_writeElem_32_other _ _ _ _ _ _ _ hc hd (by omega)]

theorem drainElem_same (s : State) (o : VOps) {r c : Nat} (v : SMap (BitVec 16)) (hr : r < s.cpu.front.rc) (hc : c < 65536) :
    readElem (drainElem s o r c v) o.vd.val 32 32 r c = (drained s r c).1.toNat
      ∧ readElem (drainElem s o r c v) (o.vd.val + 2 * s.cpu.front.rc) 32 32 r c = (drained s r c).2.toNat := by
  unfold drainElem
  constructor
  · rw [readElem_writeElem_32_other _ _ _ _ _ _ _ hc hc (by omega), readElem_writeElem_32_same _ _ _ _ hc]
    exact Nat.mod_eq_of_lt (drained s r c).1.isLt
  · rw [readElem_writeElem_32_same _ _ _ _ hc]
    exact Nat.mod_eq_of_lt (drained s r c).2.isLt

theorem readElem_drainBack (s : State) (o : VOps) {r c : Nat} (hvl : s.cpu.front.vl ≤ 65536) (hr : r < s.cpu.front.rc)
    (hc : c < s.cpu.front.vl) :
    readElem (drainBack s o).v o.vd.val 32 32 r c = (drained s r c).1.toNat
      ∧ readElem (drainBack s o).v (o.vd.val + 2 * s.cpu.front.rc) 32 32 r c = (drained s r c).2.toNat := by
  refine ⟨tileLoop_at (fun v => readElem v o.vd.val 32 32 r c) (fun _ => (drained s r c).1.toNat) hr hc
      (fun v => ?_) fun i j hi hj hne v => ?_,
    tileLoop_at (fun v => readElem v (o.vd.val + 2 * s.cpu.front.rc) 32 32 r c) (fun _ => (drained s r c).2.toNat) hr hc
      (fun v => ?_) fun i j hi hj hne v => ?_⟩
  · exact (drainElem_same s o v hr (by omega)).1
  · exact (drainElem_other s o v hi hr (by omega) (by omega) (by omega)).1
  · exact (drainElem_same s o v hr (by omega)).2
  · exact (drainElem_other s o v hi hr (by omega) (by omega) (by omega)).2

theorem planeWord_drainBack_outside (s : State) (o : VOps) {k c : Nat} (hvl : s.cpu.front.vl ≤ 65536) (hc : c < 65536)
    (hout : k < o.vd.val ∨ o.vd.val + 4 * s.cpu.front.rc ≤ k ∨ s.cpu.front.vl ≤ c) :
    planeWord (drainBack s o).v k c = planeWord s.cpu.back.v k c := by
  refine tileLoop_frame (fun v => planeWord v k c) fun i j hi hj v => ?_
  unfold drainElem
  rw [planeWord_writeElem_32 _ _ _ _ _ (by omega) hc, planeWord_writeElem_32 _ _ _ _ _ (by omega) hc, if_neg (by omega),
    if_neg (by omega), if_neg (by omega), if_neg (by omega)]

theorem vget_drainFront (s : State) (o : VOps) {k : Nat} (hk : k < 28) :
    vget tagInt8 (drainFront s o).vtag k =
      if o.vd.val ≤ k ∧ k < o.vd.val + max 1 (2 * s.cpu.front.rc) then tagUint 32
      else if o.vd.val + 2 * s.cpu.front.rc ≤ k ∧ k < o.vd.val + 4 * s.cpu.front.rc then vkindTag s.cpu.back.cat.cfg
      else vget tagInt8 s.cpu.front.vtag k := by
  unfold drainFront
  dsimp only
  by_cases hrc : s.cpu.front.rc = 0
  · rw [if_pos hrc, vget_retag _ _ _ _ _ hk, hrc, if_neg (c := o.vd.val + 2 * 0 ≤ k ∧ k < o.vd.val + 4 * 0) (by omega)]
    rfl
  · rw [if_neg hrc, vget_retag _ _ _ _ _ hk, vget_retag _ _ _ _ _ hk]
    by_cases hkeys : o.vd.val ≤ k ∧ k < o.vd.val + max 1 (2 * s.cpu.front.rc)
    · rw [if_pos hkeys, if_pos hkeys, if_neg (by omega)]
    · rw [if_neg hkeys, if_neg hkeys]
      exact if_congr (by omega) rfl rfl

/-- CATDRN changes no front register but tags. -/
theorem drainFront_eq (s : State) (o : VOps) : drainFront s o = { s.cpu.front with vtag := (drainFront s o).vtag } := by
  unfold drainFront
  dsimp only
  split <;> rfl

/-- R318. -/
theorem catdrn_drains {o : VOps} {s : State} (hs : Begins s) (hfit : Fits s o.vd (2 * s.cpu.front.rc) (tagUint 32)) :
    ∃ t, exec (.catdrn o) s = .next t ∧ KeepsX s t ∧ RetiresCat s t ∧ t.cpu.back.queues = s.cpu.back.queues
      ∧ t.cpu.back.cat = { s.cpu.back.cat with entries := s.cpu.back.cat.entries.drop (drainCount s) }
      ∧ (∀ r c, r < s.cpu.front.rc → c < s.cpu.front.vl →
          readElem t.cpu.back.v o.vd.val 32 32 r c = (drained s r c).1.toNat
            ∧ readElem t.cpu.back.v (o.vd.val + 2 * s.cpu.front.rc) 32 32 r c = (drained s r c).2.toNat)
      ∧ (∀ k c, c < 65536 → (k < o.vd.val ∨ o.vd.val + 4 * s.cpu.front.rc ≤ k ∨ s.cpu.front.vl ≤ c) →
          planeWord t.cpu.back.v k c = planeWord s.cpu.back.v k c)
      ∧ HoldsMask s t o.vb.val (drainBit s)
      ∧ ∀ k, k < 28 → vget tagInt8 t.cpu.front.vtag k = vget tagInt8 (drainFront s o).vtag k := by
  obtain ⟨hin, -, -, -, hrc, hvl⟩ := hs
  rw [exec_catdrn o s hin hfit, drainFront_eq]
  obtain ⟨hx, hret⟩ := retiresCat_finish s (.catdrn o) (drainFront s o).vtag (drainBack s o).v (drainBack s o).m
    s.cpu.back.queues (drainBack s o).cat rfl rfl
  refine ⟨_, rfl, hx, hret, rfl, rfl, fun r c hr hc => readElem_drainBack s o hvl hr hc,
    fun k c hc hout => planeWord_drainBack_outside s o hvl hc hout, ⟨fun r c hr hc => ?_, fun j r c _ hc hout => ?_⟩,
    fun k _ => rfl⟩
  · exact maskBit_tileLoop_putBit _ _ hrc hvl hr hc
  · exact maskBit_tileLoop_putBit_outside _ _ hrc hvl hc hout

end Sys2Proof.Claims
end

section
/-! PROOF. CATCLR, CATCNT and CATCFG (R312, R319). -/

namespace Sys2Proof.Claims

open Sys2Proof Sys2Proof.Machine

theorem catclr_empties {s : State} (hin : s.cpu.inflight = []) :
    ∃ t, exec .catclr s = .next t ∧ KeepsX s t ∧ RetiresCat s t ∧ t.cpu.front.vtag = s.cpu.front.vtag
      ∧ t.cpu.back = { s.cpu.back with cat := ⟨[], 0, s.cpu.back.cat.cfg⟩ } := by
  obtain ⟨hx, hret⟩ := retiresCat_finish s .catclr s.cpu.front.vtag s.cpu.back.v s.cpu.back.m s.cpu.back.queues
    ⟨[], 0, s.cpu.back.cat.cfg⟩ rfl rfl
  exact ⟨_, congrArg Host.Outcome.next (State.inOrder_nil s .catclr _ hin), hx, hret, rfl, rfl⟩

/-- The items in the order of their selectors (R319). -/
def catItems (s : State) : List W64 :=
  [BitVec.ofNat 64 s.cpu.back.cat.entries.length, BitVec.ofNat 64 (4096 * s.cpu.id.share),
    BitVec.ofNat 64 (placeAll (4096 * s.cpu.id.share) (s.cpu.back.cat.entries.map (fun x => x.1.toNat))).stash,
    s.cpu.back.cat.fail, s.cpu.back.cat.cfg]

theorem catItem_of_catItems {s : State} {sel : Nat} {v : W64} (h : (catItems s)[sel]? = some v) : s.catItem sel = v := by
  have hlt : sel < 5 := (List.getElem?_eq_some_iff.1 h).1
  interval_cases sel <;> exact Option.some.inj h

theorem catcnt_reads {o : VOps} {s : State} {v : W64} (hin : s.cpu.inflight = []) (h : (catItems s)[o.va.val]? = some v) :
    ∃ t, exec (.catcnt o) s = .next t ∧ RetiresX s t o.vd v := by
  refine ⟨_, congrArg Host.Outcome.next (State.inOrder_nil s (.catcnt o) _ hin), ?_⟩
  rw [catItem_of_catItems h]
  exact finish_setX_spec s s.cpu.back (.catcnt o) o.vd v rfl rfl

/-- CATCFG refuses a value, or a new one while the partition holds entries (R319). -/
def refusesCfg (s : State) (v : W64) : Bool :=
  badCatCfg v.toNat || (!s.cpu.back.cat.entries.isEmpty && v != s.cpu.back.cat.cfg)

theorem refusesCfg_iff (s : State) (v : W64) : refusesCfg s v = true ↔
    badCatCfg v.toNat = true ∨ (s.cpu.back.cat.entries ≠ [] ∧ v ≠ s.cpu.back.cat.cfg) := by
  simp [refusesCfg]

theorem exec_catcfg (o : VOps) (s : State) (hin : s.cpu.inflight = []) :
    exec (.catcfg o) s = .next (if refusesCfg s (s.getX o.va) = true then
        s.raise (.catcfg o) (trapOf (.catcfg o) .catalogueConfig (s.getU o.va) 0)
      else (s.setBack { s.cpu.back with cat := { s.cpu.back.cat with cfg := s.getX o.va } }).finish (.catcfg o)
        (s.cpu.front.setX o.vd s.cpu.back.cat.cfg)) :=
  congrArg Host.Outcome.next (State.inOrder_nil s (.catcfg o) _ hin)

theorem catcfg_sets {o : VOps} {s : State} (hin : s.cpu.inflight = []) (hok : badCatCfg (s.getU o.va) = false)
    (hsame : s.cpu.back.cat.entries = [] ∨ s.getX o.va = s.cpu.back.cat.cfg) :
    ∃ t, exec (.catcfg o) s = .next t ∧ WritesX s t o.vd s.cpu.back.cat.cfg ∧ RetiresOnly s t (past s t 4)
      ∧ t.cpu.back = { s.cpu.back with cat := { s.cpu.back.cat with cfg := s.getX o.va } } := by
  have hpass : ¬refusesCfg s (s.getX o.va) = true := fun h => by
    rcases (refusesCfg_iff _ _).1 h with hbad | ⟨hent, hnew⟩
    · exact Bool.eq_false_iff.1 hok hbad
    · exact hsame.elim hent hnew
  exact ⟨_, (exec_catcfg o s hin).trans (by rw [if_neg hpass]), finish_setX_spec s _ (.catcfg o) o.vd _ rfl rfl⟩

theorem catcfg_traps {o : VOps} {s : State} (hin : s.cpu.inflight = []) (hc : CanTrap s)
    (hbad : badCatCfg (s.getU o.va) = true ∨ (s.cpu.back.cat.entries ≠ [] ∧ s.getX o.va ≠ s.cpu.back.cat.cfg)) :
    ∃ t, exec (.catcfg o) s = .next t ∧ Traps s t 15 (s.getX o.va) (estatOf 0 0 15 2 false 4) 0 := by
  refine ⟨_, (exec_catcfg o s hin).trans (by rw [if_pos ((refusesCfg_iff _ _).2 hbad)]), ?_⟩
  rw [← ofNat_getU]
  exact traps_raise_trapOf (.catcfg o) (s.getU o.va) 0 hin hc nofun

/-- Settles O43: CATINS and CATACC put in linear order, by induction over the elements; CATLKP and CATDRN write each position of the
tile once; the others touch one register or the partition. -/
theorem catalogueElements : Obligations.CatalogueElements := by
  refine ⟨⟨fun i o acc s hi hs ha hb hint he8 => catForm_puts hi hs ha hb hint he8,
      fun o s hs hvd ha hint hfit => catlkp_delivers hs hvd ha hint hfit, fun o s hs _ hfit => ?_⟩,
    fun o s hin => ⟨catclr_empties hin, fun v hv => catcnt_reads hin hv, catcfg_sets hin, catcfg_traps hin⟩⟩
  obtain ⟨t, ht, hx, hret, hqueues, hcat, helems, hplanes, hmask, htags⟩ := catdrn_drains hs hfit
  exact ⟨t, ht, hx, hret, hqueues, hcat, helems, hplanes, hmask, fun k hk => (htags k hk).trans (vget_drainFront s o hk)⟩

end Sys2Proof.Claims
end
section
/-! PROOF. The fields of a word of each format stand where the decoder reads them (R39, R40, R47, R48). -/

namespace Sys2Proof

theorem fld_eq {w k : Nat} {r : Reg} (h : w / 2 ^ k % 32 = r.val) : fld w k = r := Fin.ext h

/-- A word whose low bits are 10 is decoded by its major opcode (R35, R39). -/
theorem decRaw_of_major {w m : Nat} (h4 : w % 4 = 2) (hm : w / 4 % 32 = m) (hw : w < 2 ^ 32) : decRaw w = decMajor m w := by
  unfold decRaw
  rw [h4, hm, Nat.mod_eq_of_lt hw]
  rfl

/-- A word whose low bits are 11 is decoded by its class (R35, R47). -/
theorem decRaw_of_class {w k : Nat} (h4 : w % 4 = 3) (hk : w / 4 % 32 = k) :
    decRaw w = decClass k (w % 2 ^ 32) (w / 2 ^ 32 % 2 ^ 32) := by
  unfold decRaw
  rw [h4, hk]
  rfl

theorem decRaw_encR {m f : Nat} (hm : m < 32) (hf : f < 1024) (d a b : Reg) :
    decRaw (encR m f d.val a.val b.val) = decMajor m (encR m f d.val a.val b.val) := by
  have := d.isLt; have := a.isLt; have := b.isLt
  exact decRaw_of_major (by unfold encR; omega) (by unfold encR; omega) (by unfold encR; omega)

/-- The fields of the R format. -/
theorem encR_fields {m f : Nat} (hm : m < 32) (hf : f < 1024) (d a b : Reg) :
    encR m f d.val a.val b.val / 2 ^ 22 % 1024 = f ∧ fld (encR m f d.val a.val b.val) 7 = d
      ∧ fld (encR m f d.val a.val b.val) 12 = a ∧ fld (encR m f d.val a.val b.val) 17 = b := by
  have := d.isLt; have := a.isLt; have := b.isLt
  refine ⟨?_, fld_eq ?_, fld_eq ?_, fld_eq ?_⟩ <;> unfold encR <;> omega

theorem decRaw_encI {m f v : Nat} (hm : m < 32) (hf : f < 8) (hv : v < 4096) (d a : Reg) :
    decRaw (encI m f d.val a.val v) = decMajor m (encI m f d.val a.val v) := by
  have := d.isLt; have := a.isLt
  exact decRaw_of_major (by unfold encI; omega) (by unfold encI; omega) (by unfold encI; omega)

/-- The fields of the I format. -/
theorem encI_fields {m f v : Nat} (hm : m < 32) (hf : f < 8) (d a : Reg) :
    encI m f d.val a.val v / 2 ^ 17 % 8 = f ∧ fld (encI m f d.val a.val v) 7 = d ∧ fld (encI m f d.val a.val v) 12 = a
      ∧ encI m f d.val a.val v / 2 ^ 20 = v := by
  have := d.isLt; have := a.isLt
  refine ⟨?_, fld_eq ?_, fld_eq ?_, ?_⟩ <;> unfold encI <;> omega

theorem decRaw_encS {m f v : Nat} (hm : m < 32) (hf : f < 8) (hv : v < 4096) (a b : Reg) :
    decRaw (encS m f a.val b.val v) = decMajor m (encS m f a.val b.val v) := by
  have := a.isLt; have := b.isLt
  exact decRaw_of_major (by unfold encS; omega) (by unfold encS; omega) (by unfold encS; omega)

/-- The fields of the S and B formats. -/
theorem encS_fields {m f v : Nat} (hm : m < 32) (hf : f < 8) (hv : v < 4096) (a b : Reg) :
    encS m f a.val b.val v / 2 ^ 17 % 8 = f ∧ fld (encS m f a.val b.val v) 12 = a ∧ fld (encS m f a.val b.val v) 20 = b
      ∧ splitImm (encS m f a.val b.val v) = v := by
  have := a.isLt; have := b.isLt
  have hsplit := Nat.div_add_mod v 32
  have hlow : v % 32 < 32 := Nat.mod_lt v (by decide)
  have hhigh : v / 32 < 128 := by omega
  unfold splitImm encS
  generalize v / 32 = q, v % 32 = r at hsplit hlow hhigh
  generalize hw : 2 + 4 * m + 2 ^ 7 * r + 2 ^ 12 * a.val + 2 ^ 17 * f + 2 ^ 20 * b.val + 2 ^ 25 * q = w
  have hb : w / 2 ^ 20 = b.val + 32 * q := by omega
  have hq : w / 2 ^ 25 = q := by omega
  have hr : w / 2 ^ 7 = r + 32 * (a.val + 32 * (f + 8 * (b.val + 32 * q))) := by omega
  refine ⟨?_, fld_eq ?_, fld_eq ?_, ?_⟩ <;> omega

theorem decRaw_encU {m : Nat} (hm : m < 32) (d : Reg) (v : BitVec 20) :
    decRaw (encU m d.val v.toNat) = decMajor m (encU m d.val v.toNat) := by
  have := d.isLt; have := v.isLt
  exact decRaw_of_major (by unfold encU; omega) (by unfold encU; omega) (by unfold encU; omega)

/-- The fields of the U and J formats. -/
theorem encU_fields {m : Nat} (hm : m < 32) (d : Reg) (v : BitVec 20) :
    fld (encU m d.val v.toNat) 7 = d ∧ BitVec.ofNat 20 (encU m d.val v.toNat / 2 ^ 12) = v := by
  have := d.isLt; have := v.isLt
  refine ⟨fld_eq ?_, BitVec.eq_of_toNat_eq ?_⟩
  · unfold encU; omega
  · rw [BitVec.toNat_ofNat]; unfold encU; omega

theorem decide_toNat_mod_two (b : Bool) (n : Nat) (h : n % 2 = b.toNat) : decide (n % 2 = 1) = b := by
  cases b <;> simp [h]

theorem toNat_decide_mod_two (n : Nat) : (decide (n % 2 = 1)).toNat = n % 2 := by
  rcases Nat.mod_two_eq_zero_or_one n with h | h <;> rw [h] <;> rfl

theorem decRaw_encV {m f : Nat} (hm : m < 32) (hf : f < 8) (o : VOps) : decRaw (encV m f o) = decMajor m (encV m f o) := by
  have := o.vd.isLt; have := o.va.isLt; have := o.vb.isLt; have := o.pm.isLt; have := o.mod.isLt
  have := o.ca.toNat_lt; have := o.cb.toNat_lt
  exact decRaw_of_major (by unfold encV; omega) (by unfold encV; omega) (by unfold encV; omega)

/-- The fields of the V format. -/
theorem encV_fields {m f : Nat} (hm : m < 32) (hf : f < 8) (o : VOps) :
    encV m f o / 2 ^ 29 % 8 = f ∧ vOps (encV m f o) = o := by
  obtain ⟨d, a, b, p, x, y, z⟩ := o
  have := d.isLt; have := a.isLt; have := b.isLt; have := p.isLt; have := z.isLt; have := x.toNat_lt; have := y.toNat_lt
  refine ⟨by unfold encV; dsimp only; omega, ?_⟩
  unfold vOps
  rw [fld_eq (r := d) (by unfold encV; dsimp only; omega), fld_eq (r := a) (by unfold encV; dsimp only; omega),
    fld_eq (r := b) (by unfold encV; dsimp only; omega), decide_toNat_mod_two x _ (by unfold encV; dsimp only; omega),
    decide_toNat_mod_two y _ (by unfold encV; dsimp only; omega),
    show Fin.ofNat 8 (encV m f ⟨d, a, b, p, x, y, z⟩ / 2 ^ 22) = p from Fin.ext (by
      show _ % 8 = _; unfold encV; dsimp only; omega),
    show Fin.ofNat 4 (encV m f ⟨d, a, b, p, x, y, z⟩ / 2 ^ 27) = z from Fin.ext (by
      show _ % 4 = _; unfold encV; dsimp only; omega)]

theorem decRaw_encVM {m f : Nat} (hm : m < 32) (hf : f < 8) (o : VMOps) :
    decRaw (encVM m f o) = decMajor m (encVM m f o) := by
  have := o.imm7.isLt; have := o.xa.isLt; have := o.xb.isLt; have := o.sub.isLt; have := o.q.isLt
  exact decRaw_of_major (by unfold encVM; omega) (by unfold encVM; omega) (by unfold encVM; omega)

/-- The fields of the VM format. -/
theorem encVM_fields {m f : Nat} (hm : m < 32) (hf : f < 8) (o : VMOps) :
    encVM m f o / 2 ^ 29 % 8 = f ∧ vmOps (encVM m f o) = o := by
  obtain ⟨v, b, a, u, q⟩ := o
  have := v.isLt; have := b.isLt; have := a.isLt; have := u.isLt; have := q.isLt
  refine ⟨by unfold encVM; dsimp only; omega, ?_⟩
  unfold vmOps
  rw [fld_eq (r := b) (by unfold encVM; dsimp only; omega), fld_eq (r := a) (by unfold encVM; dsimp only; omega),
    show BitVec.ofNat 7 (encVM m f ⟨v, b, a, u, q⟩ / 2 ^ 22) = v from BitVec.eq_of_toNat_eq (by
      rw [BitVec.toNat_ofNat]; unfold encVM; dsimp only; omega),
    show Fin.ofNat 8 (encVM m f ⟨v, b, a, u, q⟩ / 2 ^ 9) = u from Fin.ext (by
      show _ % 8 = _; unfold encVM; dsimp only; omega),
    show Fin.ofNat 4 (encVM m f ⟨v, b, a, u, q⟩ / 2 ^ 7) = q from Fin.ext (by
      show _ % 4 = _; unfold encVM; dsimp only; omega)]

theorem encAmo_lt (o : AmoOps) : encAmo o < 1024 ∧ encAmo o % 16 = 0 := by
  have := o.scope.isLt; have := o.rl.toNat_lt; have := o.aq.toNat_lt; have := o.dbl.toNat_lt
  unfold encAmo; omega

/-- The fields of an AMO word. -/
theorem encAmo_fields {f : Nat} (hf : f < 16) (o : AmoOps) :
    encR 0x0A (f + encAmo o) o.d.val o.a.val o.b.val / 2 ^ 22 % 16 = f
      ∧ amoOps (encR 0x0A (f + encAmo o) o.d.val o.a.val o.b.val) = o := by
  obtain ⟨hlt, hlow⟩ := encAmo_lt o
  obtain ⟨hfn, hd, ha, hb⟩ := encR_fields (m := 0x0A) (by decide) (show f + encAmo o < 1024 by omega) o.d o.a o.b
  generalize encR 0x0A (f + encAmo o) o.d.val o.a.val o.b.val = w at hfn hd ha hb
  obtain ⟨d, a, b, s, r, q, l⟩ := o
  have := s.isLt; have := r.toNat_lt; have := q.toNat_lt; have := l.toNat_lt
  unfold encAmo at hfn hlow
  dsimp only at hfn hlow hd ha hb
  refine ⟨by omega, ?_⟩
  unfold amoOps
  rw [hd, ha, hb, decide_toNat_mod_two r _ (by omega), decide_toNat_mod_two q _ (by omega), decide_toNat_mod_two l _ (by omega),
    show Fin.ofNat 8 (w / 2 ^ 29) = s from Fin.ext (by show _ % 8 = _; omega)]

/-- The fields of a 64-bit encoding. -/
theorem encL_fields {k f v : Nat} (hk : k < 32) (hf : f < 32) (hv : v < 2 ^ 32) (a b c d : Reg) :
    encL k f a.val b.val c.val d.val v % 4 = 3 ∧ encL k f a.val b.val c.val d.val v / 4 % 32 = k
      ∧ encL k f a.val b.val c.val d.val v % 2 ^ 32 / 2 ^ 7 % 32 = f
      ∧ fld (encL k f a.val b.val c.val d.val v % 2 ^ 32) 12 = a ∧ fld (encL k f a.val b.val c.val d.val v % 2 ^ 32) 17 = b
      ∧ fld (encL k f a.val b.val c.val d.val v % 2 ^ 32) 22 = c ∧ fld (encL k f a.val b.val c.val d.val v % 2 ^ 32) 27 = d
      ∧ encL k f a.val b.val c.val d.val v / 2 ^ 32 % 2 ^ 32 = v := by
  have := d.isLt; have := a.isLt; have := b.isLt; have := c.isLt
  refine ⟨?_, ?_, ?_, fld_eq ?_, fld_eq ?_, fld_eq ?_, fld_eq ?_, ?_⟩ <;> unfold encL <;> omega

end Sys2Proof
end

section
/-! PROOF. The words of an instruction decode to it (R39, R40, R47, R48): each major opcode and class reads its map at the fields that
the encoder wrote. -/

namespace Sys2Proof

theorem decRaw_of_decR {m f : Nat} {d a b : Reg} {i : Instr} (dec : Nat → Reg → Reg → Reg → Except Reject Instr) (hm : m < 32)
    (hf : f < 1024) (hmajor : ∀ w, decMajor m w = dec (w / 2 ^ 22 % 1024) (fld w 7) (fld w 12) (fld w 17))
    (h : dec f d a b = .ok i) : decRaw (encR m f d.val a.val b.val) = .ok i := by
  obtain ⟨hfn, hd, ha, hb⟩ := encR_fields hm hf d a b
  rw [decRaw_encR hm hf, hmajor, hfn, hd, ha, hb, h]

theorem decRaw_of_decAmo {f : Nat} {o : AmoOps} {i : Instr} (hf : f < 16) (h : decAmo f o = .ok i) :
    decRaw (encR 0x0A (f + encAmo o) o.d.val o.a.val o.b.val) = .ok i := by
  obtain ⟨hlt, hlow⟩ := encAmo_lt o
  obtain ⟨hfn, ho⟩ := encAmo_fields hf o
  rw [decRaw_encR (by decide) (by omega)]
  change decAmo (_ / 2 ^ 22 % 16) (amoOps _) = _
  rw [hfn, ho, h]

theorem decRaw_of_decSys {f hi : Nat} {d a b : Reg} {i : Instr} (hf : f < 16) (hhi : hi < 64) (h : decSys f hi d a b = .ok i) :
    decRaw (encR 0x0B (f + 16 * hi) d.val a.val b.val) = .ok i := by
  obtain ⟨hfn, hd, ha, hb⟩ := encR_fields (m := 0x0B) (f := f + 16 * hi) (by decide) (by omega) d a b
  rw [decRaw_encR (by decide) (by omega)]
  generalize encR 0x0B (f + 16 * hi) d.val a.val b.val = w at hfn hd ha hb
  change decSys (w / 2 ^ 22 % 16) (w / 2 ^ 26 % 64) (fld w 7) (fld w 12) (fld w 17) = _
  rw [hd, ha, hb, show w / 2 ^ 22 % 16 = f by omega, show w / 2 ^ 26 % 64 = hi by omega, h]

theorem decRaw_of_decShape {f : Nat} {d a b t : Reg} {i : Instr} (hf : f < 16) (h : decShape f d a b t = .ok i) :
    decRaw (encR 0x0D (f + 16 * t.val) d.val a.val b.val) = .ok i := by
  have := t.isLt
  have hfn10 : f + 16 * t.val < 512 := by omega
  obtain ⟨hfn, hd, ha, hb⟩ := encR_fields (m := 0x0D) (f := f + 16 * t.val) (by decide) (by omega) d a b
  rw [decRaw_encR (by decide) (by omega)]
  generalize encR 0x0D (f + 16 * t.val) d.val a.val b.val = w at hfn hd ha hb
  change (if w / 2 ^ 31 % 2 = 0 then decShape (w / 2 ^ 22 % 16) (fld w 7) (fld w 12) (fld w 17) (fld w 26) else _) = _
  rw [if_pos (by omega), hd, ha, hb, show w / 2 ^ 22 % 16 = f by omega, fld_eq (w := w) (k := 26) (r := t) (by omega), h]

theorem decRaw_of_decI {m f v : Nat} {d a : Reg} {i : Instr} (dec : Nat → Reg → Reg → Nat → Except Reject Instr) (hm : m < 32)
    (hf : f < 8) (hv : v < 4096) (hmajor : ∀ w, decMajor m w = dec (w / 2 ^ 17 % 8) (fld w 7) (fld w 12) (w / 2 ^ 20))
    (h : dec f d a v = .ok i) : decRaw (encI m f d.val a.val v) = .ok i := by
  obtain ⟨hfn, hd, ha, hval⟩ := encI_fields (v := v) hm hf d a
  rw [decRaw_encI hm hf hv, hmajor, hfn, hd, ha, hval, h]

theorem decRaw_of_decAlui {f v : Nat} {d a : Reg} {i : Instr} (hf : f < 8) (hv : v < 4096) (h : decAlui f d a v = .ok i) :
    decRaw (encI 0x01 f d.val a.val v) = .ok i :=
  decRaw_of_decI (fun f d a v => decAlui f d a (v % 4096)) (by decide) hf hv (fun _ => rfl) (by
    rwa [Nat.mod_eq_of_lt hv])

theorem decRaw_of_decS {m f : Nat} {a b : Reg} {v : BitVec 12} {i : Instr} (dec : Nat → Reg → Reg → Nat → Except Reject Instr)
    (hm : m < 32) (hf : f < 8) (hmajor : ∀ w, decMajor m w = dec (w / 2 ^ 17 % 8) (fld w 12) (fld w 20) (splitImm w))
    (h : dec f a b v.toNat = .ok i) : decRaw (encS m f a.val b.val v.toNat) = .ok i := by
  obtain ⟨hfn, ha, hb, hv⟩ := encS_fields hm hf v.isLt a b
  rw [decRaw_encS hm hf v.isLt, hmajor, hfn, ha, hb, hv, h]

theorem decRaw_of_decU {m : Nat} {d : Reg} {v : BitVec 20} {i : Instr} (dec : Reg → BitVec 20 → Instr) (hm : m < 32)
    (hmajor : ∀ w, decMajor m w = .ok (dec (fld w 7) (BitVec.ofNat 20 (w / 2 ^ 12)))) (h : dec d v = i) :
    decRaw (encU m d.val v.toNat) = .ok i := by
  obtain ⟨hd, hv⟩ := encU_fields hm d v
  rw [decRaw_encU hm, hmajor, hd, hv, h]

theorem decRaw_of_decV {m f : Nat} {o : VOps} {i : Instr} (dec : Nat → VOps → Except Reject Instr) (hm : m < 32) (hf : f < 8)
    (hmajor : ∀ w, decMajor m w = dec (w / 2 ^ 29 % 8) (vOps w)) (h : dec f o = .ok i) : decRaw (encV m f o) = .ok i := by
  obtain ⟨hfn, ho⟩ := encV_fields hm hf o
  rw [decRaw_encV hm hf, hmajor, hfn, ho, h]

theorem decRaw_of_decVM {m f : Nat} {o : VMOps} {i : Instr} (dec : Nat → VMOps → Except Reject Instr) (hm : m < 32) (hf : f < 8)
    (hmajor : ∀ w, decMajor m w = dec (w / 2 ^ 29 % 8) (vmOps w)) (h : dec f o = .ok i) : decRaw (encVM m f o) = .ok i := by
  obtain ⟨hfn, ho⟩ := encVM_fields hm hf o
  rw [decRaw_encVM hm hf, hmajor, hfn, ho, h]

theorem decRaw_of_decL {k f v : Nat} {a b c d : Reg} {i : Instr} (dec : Nat → Reg → Reg → Reg → Reg → Nat → Except Reject Instr)
    (hk : k < 32) (hf : f < 32) (hv : v < 2 ^ 32)
    (hclass : ∀ w w1, decClass k w w1 = dec (w / 2 ^ 7 % 32) (fld w 12) (fld w 17) (fld w 22) (fld w 27) w1)
    (h : dec f a b c d v = .ok i) : decRaw (encL k f a.val b.val c.val d.val v) = .ok i := by
  obtain ⟨h4, hclassAt, hfn, ha, hb, hc, hd, hw1⟩ := encL_fields hk hf hv a b c d
  rw [decRaw_of_class h4 hclassAt, hclass, hfn, ha, hb, hc, hd, hw1, h]

/-- A compressed word is decoded by its quadrant and fn3 (R48). -/
theorem encH_fields {q f body : Nat} (hq : q < 4) (hbody : body < 8192) (hlow : body % 4 = 0) (hf : f < 8) :
    encH q f body % 4 = q ∧ encH q f body / 2 ^ 13 % 8 = f ∧ encH q f body % 65536 = encH q f body := by
  refine ⟨?_, ?_, ?_⟩ <;> unfold encH <;> omega

theorem decRaw_of_decQ0 {f body : Nat} {i : Instr} (hbody : body < 8192) (hlow : body % 4 = 0) (hf : f < 8)
    (h : decQ0 f (encH 0 f body) = .ok i) : decRaw (encH 0 f body) = .ok i := by
  obtain ⟨h4, hfn, hw⟩ := encH_fields (q := 0) (by decide) hbody hlow hf
  unfold decRaw
  rw [h4, hfn, hw]
  exact h

theorem decRaw_of_decQ1 {f body : Nat} {i : Instr} (hbody : body < 8192) (hlow : body % 4 = 0) (hf : f < 8)
    (h : decQ1 f (encH 1 f body) = .ok i) : decRaw (encH 1 f body) = .ok i := by
  obtain ⟨h4, hfn, hw⟩ := encH_fields (q := 1) (by decide) hbody hlow hf
  unfold decRaw
  rw [h4, hfn, hw]
  exact h

theorem guarded_pos {c : Prop} [Decidable c] {i : Instr} (h : c) : guarded c i = .ok i := if_pos h

theorem finOfNat_val {n : Nat} [NeZero n] (k : Fin n) : Fin.ofNat n k.val = k := Fin.ext (Nat.mod_eq_of_lt k.isLt)

/-- A narrower field as a register code. -/
def regOf {n : Nat} (k : Fin n) (h : n ≤ 32) : Reg := ⟨k.val, k.isLt.trans_le h⟩

/-- SHI: the selector stands above the amount (R40, R71). -/
theorem decShi_sel {sel : Nat} {d a : Reg} {i : Instr} (hsel : sel < 4) (k : Fin 64)
    (h : decShi sel d a k.val = .ok i) : decAlui 6 d a (1024 * sel + k.val) = .ok i := by
  have hk := k.isLt
  have hval : Fin.ofNat 64 (1024 * sel + k.val) = Fin.ofNat 64 k.val := Fin.ext (by show _ % 64 = _ % 64; omega)
  have hfield : (1024 * sel + k.val) / 64 % 16 = k.val / 64 % 16 := by omega
  change decShi ((1024 * sel + k.val) / 1024 % 4) d a (1024 * sel + k.val) = .ok i
  rw [show (1024 * sel + k.val) / 1024 % 4 = sel by omega]
  unfold decShi at h ⊢
  rwa [hval, hfield]

theorem encH_fields_imm {q : Nat} (hq : q < 4) (d : Reg) (v : BitVec 6) :
    (∀ f, fld (encH q f (256 * d.val + 4 * v.toNat)) 8 = d)
      ∧ ∀ f, BitVec.ofNat 6 (encH q f (256 * d.val + 4 * v.toNat) / 4) = v := by
  have := d.isLt; have := v.isLt
  refine ⟨fun f => fld_eq ?_, fun f => BitVec.eq_of_toNat_eq ?_⟩
  · unfold encH; omega
  · rw [BitVec.toNat_ofNat]; unfold encH; omega

theorem encH_fields_mem {q : Nat} (hq : q < 4) (r a : Fin 8) (off : Reg) :
    (∀ f, Fin.ofNat 8 (encH q f (256 * off.val + 32 * a.val + 4 * r.val) / 4) = r)
      ∧ (∀ f, Fin.ofNat 8 (encH q f (256 * off.val + 32 * a.val + 4 * r.val) / 32) = a)
      ∧ ∀ f, fld (encH q f (256 * off.val + 32 * a.val + 4 * r.val)) 8 = off := by
  have := r.isLt; have := a.isLt; have := off.isLt
  refine ⟨fun f => Fin.ext ?_, fun f => Fin.ext ?_, fun f => fld_eq ?_⟩
  · show _ % 8 = _; unfold encH; omega
  · show _ % 8 = _; unfold encH; omega
  · unfold encH; omega

theorem encH_fields_pair {q : Nat} (hq : q < 4) (d a : Reg) :
    (∀ f, encH q f (256 * d.val + 8 * a.val) / 4 % 2 = 0) ∧ (∀ f, fld (encH q f (256 * d.val + 8 * a.val)) 8 = d)
      ∧ ∀ f, fld (encH q f (256 * d.val + 8 * a.val)) 3 = a := by
  have := d.isLt; have := a.isLt
  refine ⟨fun f => ?_, fun f => fld_eq ?_, fun f => fld_eq ?_⟩ <;> unfold encH <;> omega

theorem encH_fields_branch {q : Nat} (hq : q < 4) (a : Fin 8) (v : BitVec 8) :
    (∀ f, Fin.ofNat 8 (encH q f (1024 * a.val + 4 * v.toNat) / 1024) = a)
      ∧ ∀ f, BitVec.ofNat 8 (encH q f (1024 * a.val + 4 * v.toNat) / 4) = v := by
  have := a.isLt; have := v.isLt
  refine ⟨fun f => Fin.ext ?_, fun f => BitVec.eq_of_toNat_eq ?_⟩
  · show _ % 8 = _; unfold encH; omega
  · rw [BitVec.toNat_ofNat]; unfold encH; omega

theorem ofNat_regOf {n : Nat} [NeZero n] (k : Fin n) (h : n ≤ 32) : Fin.ofNat n (regOf k h).val = k := finOfNat_val k

/-- Two flags in the low bits of word 1 (R168). -/
theorem flagPair_fields (x y : Bool) :
    x.toNat + 2 * y.toNat < 4 ∧ decide ((x.toNat + 2 * y.toNat) % 2 = 1) = x ∧ decide ((x.toNat + 2 * y.toNat) / 2 % 2 = 1) = y := by
  cases x <;> cases y <;> decide

/-- Word 1 of MLDQ (R178): its counts lie in 24 bits. -/
theorem mldqWord_fields (o : MldqOps) :
    let w := o.n.val + 512 * o.k.val + 32768 * o.t.val + 2097152 * o.code.val
    w < 16777216 ∧ Fin.ofNat 512 w = o.n ∧ Fin.ofNat 64 (w / 512) = o.k ∧ Fin.ofNat 64 (w / 32768) = o.t
      ∧ Fin.ofNat 8 (w / 2097152) = o.code := by
  have := o.n.isLt; have := o.k.isLt; have := o.t.isLt; have := o.code.isLt
  refine ⟨by omega, Fin.ext ?_, Fin.ext ?_, Fin.ext ?_, Fin.ext ?_⟩
  · show _ % 512 = _; omega
  · show _ % 64 = _; omega
  · show _ % 64 = _; omega
  · show _ % 8 = _; omega

theorem decMatrix_mldq (o : MldqOps) :
    decMatrix 7 o.a o.b o.c (regOf o.q (by decide)) (o.n.val + 512 * o.k.val + 32768 * o.t.val + 2097152 * o.code.val)
      = .ok (.mldq o) := by
  obtain ⟨hlt, hn, hk, ht, hcode⟩ := mldqWord_fields o
  refine (guarded_pos ⟨o.q.isLt, hlt⟩).trans ?_
  rw [hn, hk, ht, hcode, ofNat_regOf]

/-- The words of a well-formed instruction, without the operand checks. -/
theorem decRaw_encode {i : Instr} (hev : i.isEvent = false) (hwf : wellFormed i = true) : decRaw (encode i) = .ok i := by
  cases i with
  | add | sub | and | or | xor | sll | srl | sra | slt | sltu | mul | mulh | mulhu | div | divu | rem | remu | min | max |
  minu | maxu | addw | subw | rol | ror =>
    exact decRaw_of_decR decAlu (by decide) (by decide) (fun _ => rfl) rfl
  | clz | ctz | cpop =>
    exact decRaw_of_decR (b := 0) decAlu (by decide) (by decide) (fun _ => rfl) rfl
  | faddS | fsubS | fmulS | fdivS | fminS | fmaxS | feqS | fltS | faddD | fsubD | fmulD | fdivD =>
    exact decRaw_of_decR decSfp (by decide) (by decide) (fun _ => rfl) rfl
  | fsqrtS | fcvtSL | fcvtLS | fcvtSD | fsqrtD | fcvtDS | fcvtDL | fcvtLD =>
    exact decRaw_of_decR (b := 0) decSfp (by decide) (by decide) (fun _ => rfl) rfl
  | fork | waitc | launch | safept =>
    exact decRaw_of_decR decSync (by decide) (by decide) (fun _ => rfl) rfl
  | barArm =>
    exact decRaw_of_decR (b := 0) decSync (by decide) (by decide) (fun _ => rfl) rfl
  | barArv | barWt | barSync | barDrop | join | yield =>
    exact decRaw_of_decR (a := 0) (b := 0) decSync (by decide) (by decide) (fun _ => rfl) rfl
  | halt =>
    exact decRaw_of_decR (d := 0) (a := 0) (b := 0) decSync (by decide) (by decide) (fun _ => rfl) rfl
  | cpyG | cpyP | cpyX | cpyIX =>
    exact decRaw_of_decR decCopy (by decide) (by decide) (fun _ => rfl) rfl
  | cpyWait d c b | cpyStat d c b | cpyFill d c b =>
    exact decRaw_of_decR (a := regOf c (by decide)) decCopy (by decide) (by decide) (fun _ => rfl) (by simp [decCopy, guarded, regOf])
  | cpyAbort d c =>
    exact decRaw_of_decR (a := regOf c (by decide)) (b := 0) decCopy (by decide) (by decide) (fun _ => rfl) (by simp [decCopy, guarded, regOf])
  | amoswp | amoadd | amoand | amoor | amoxor | amomin | amomax | amominu | amomaxu | amocas | lda | stl =>
    exact decRaw_of_decAmo (by decide) rfl
  | ecall | ebreak | eret =>
    exact decRaw_of_decSys (hi := 0) (d := 0) (a := 0) (b := 0) (by decide) (by decide) rfl
  | srd d n =>
    have := n.isLt
    exact decRaw_of_decSys (a := 0) (b := ⟨n.toNat % 32, by omega⟩) (by decide) (by omega)
      (by simp [decSys, guarded, Nat.div_add_mod'])
  | swr d a n | srset d a n | srclr d a n =>
    have := n.isLt
    exact decRaw_of_decSys (b := ⟨n.toNat % 32, by omega⟩) (by decide) (by omega) (by simp [decSys, Nat.div_add_mod'])
  | fence scope set =>
    exact decRaw_of_decSys (hi := 0) (d := 0) (a := regOf scope (by decide)) (b := regOf set (by decide)) (by decide) (by decide)
      (by simp [decSys, guarded, regOf])
  | icinvR | tlbinv => exact decRaw_of_decSys (hi := 0) (d := 0) (by decide) (by decide) rfl
  | waite => exact decRaw_of_decSys (hi := 0) (b := 0) (by decide) (by decide) rfl
  | shape | shapeM | shapeG => exact decRaw_of_decShape (by decide) rfl
  | vtag | qcfg => exact decRaw_of_decShape (t := 0) (b := 0) (by decide) rfl
  | mxon | getsh => exact decRaw_of_decShape (t := 0) (by decide) rfl
  | mxoff => exact decRaw_of_decShape (t := 0) (d := 0) (a := 0) (b := 0) (by decide) rfl
  | ldb | ldh | ldw | ldd | ldbu | ldhu | ldwu =>
    exact decRaw_of_decI decLd (by decide) (by decide) (BitVec.isLt _) (fun _ => rfl) (by simp [decLd])
  | jalr => exact decRaw_of_decI decJalr (by decide) (by decide) (BitVec.isLt _) (fun _ => rfl) (by simp [decJalr])
  | addi | andi | ori | xori | slti | sltiu | addiw =>
    exact decRaw_of_decAlui (by decide) (BitVec.isLt _) (by simp [decAlui])
  | slli d a k =>
    exact decRaw_of_decAlui (by decide) (by have := k.isLt; omega) (decShi_sel (sel := 0) (by decide) k (by simp [decShi, guarded]; omega))
  | srli d a k =>
    exact decRaw_of_decAlui (by decide) (by have := k.isLt; omega) (decShi_sel (sel := 1) (by decide) k (by simp [decShi, guarded]; omega))
  | srai d a k =>
    exact decRaw_of_decAlui (by decide) (by have := k.isLt; omega) (decShi_sel (sel := 2) (by decide) k (by simp [decShi, guarded]; omega))
  | rori d a k =>
    exact decRaw_of_decAlui (by decide) (by have := k.isLt; omega) (decShi_sel (sel := 3) (by decide) k (by simp [decShi, guarded]; omega))
  | stb | sth | stw | std =>
    exact decRaw_of_decS (fun f a b v => decSt f b a v) (by decide) (by decide) (fun _ => rfl) (by simp [decSt])
  | beq | bne | blt | bge | bltu | bgeu => exact decRaw_of_decS decBr (by decide) (by decide) (fun _ => rfl) (by simp [decBr])
  | liu => exact decRaw_of_decU .liu (by decide) (fun _ => rfl) rfl
  | pcadd => exact decRaw_of_decU .pcadd (by decide) (fun _ => rfl) rfl
  | jal => exact decRaw_of_decU .jal (by decide) (fun _ => rfl) rfl
  | vldU | vldS | vldX | vldXO | vldSeg | vldC | vldFF | vtree =>
    exact decRaw_of_decVM decVld (by decide) (by decide) (fun _ => rfl) rfl
  | vstU | vstS | vstX | vstXO | vstSeg | vstC =>
    exact decRaw_of_decVM decVst (by decide) (by decide) (fun _ => rfl) rfl
  | vadd | vsub | vmul | vmulh | vdiv | vmin | vmax | vsqrt =>
    exact decRaw_of_decV decVarith (by decide) (by decide) (fun _ => rfl) rfl
  | vaddX | vsubX | vrsubX | vmulX | vdivX | vrdivX | vminX | vmaxX =>
    exact decRaw_of_decV decVarithX (by decide) (by decide) (fun _ => rfl) rfl
  | vand | vor | vxor | vsll | vsrl | vsra | vmerge | vmv =>
    exact decRaw_of_decV decVlogic (by decide) (by decide) (fun _ => rfl) rfl
  | vandX | vorX | vxorX | vsllX | vsrlX | vsraX | vmergeX | vsplat =>
    exact decRaw_of_decV decVlogicX (by decide) (by decide) (fun _ => rfl) rfl
  | vmacc | vnmsac | vmadd | vnmsub | vmaccX | vnmsacX | vabs | vneg =>
    exact decRaw_of_decV decVmac (by decide) (by decide) (fun _ => rfl) rfl
  | vseq | vsne | vslt | vsle | vsltX | vsgtX | vlbnd | vclass =>
    exact decRaw_of_decV decVcmp (by decide) (by decide) (fun _ => rfl) rfl
  | vcvtH | vcvtD | vcvtQ4 | vcvtI | vcvtF | vcvtT | vretag =>
    exact decRaw_of_decV decVcvt (by decide) (by decide) (fun _ => rfl) rfl
  | vredsum | vredmax | vredmin | vredand | vredor | vredsc | vscan | vredcol =>
    exact decRaw_of_decV decVred (by decide) (by decide) (fun _ => rfl) rfl
  | vrgath | vslideup | vslidedn | vslide1up | vslide1dn | vcompr | vexpm | vreshp =>
    exact decRaw_of_decV decVperm (by decide) (by decide) (fun _ => rfl) rfl
  | vunpk | vpack | vlut | vid | vclz | vcpop | vordk | vbrev =>
    exact decRaw_of_decV decVxfm (by decide) (by decide) (fun _ => rfl) rfl
  | mand | mor | mxor | mandn | mnot | mpopc | mfirst | mseti =>
    exact decRaw_of_decV decVmsk (by decide) (by decide) (fun _ => rfl) rfl
  | vmvx | vmvs | mmvx | mmvs | qstat | qdrop =>
    exact decRaw_of_decV decVscl (by decide) (by decide) (fun _ => rfl) rfl
  | catins | catlkp | catacc | catdrn | catcnt | catcfg =>
    exact decRaw_of_decV decCat (by decide) (by decide) (fun _ => rfl) rfl
  | catclr => exact decRaw_of_decV decCat (by decide) (by decide) (fun _ => rfl) (guarded_pos rfl)
  | hAddi d v | hLi d v | hLiu d v =>
    have := d.isLt; have := v.isLt
    obtain ⟨hd, hv⟩ := encH_fields_imm (q := 0) (by decide) d v
    exact decRaw_of_decQ0 (by omega) (by omega) (by decide) (by simp only [decQ0, hd, hv])
  | hSlli d k =>
    have := d.isLt; have := k.isLt
    have hk : Fin.ofNat 64 (encH 0 6 (256 * d.val + 4 * k.val) / 4) = k := Fin.ext (by show _ % 64 = _; unfold encH; omega)
    exact decRaw_of_decQ0 (by omega) (by omega) (by decide) (by
      simp only [decQ0, hk, fld_eq (w := encH 0 6 (256 * d.val + 4 * k.val)) (k := 8) (r := d) (by unfold encH; omega)])
  | hLdd r a off | hStd r a off | hLdw r a off | hStw r a off =>
    have := r.isLt; have := a.isLt; have := off.isLt
    obtain ⟨hr, ha, hoff⟩ := encH_fields_mem (q := 0) (by decide) r a off
    exact decRaw_of_decQ0 (by omega) (by omega) (by decide) (by simp only [decQ0, hr, ha, hoff])
  | mzero t =>
    exact decRaw_of_decL (a := 0) (b := 0) (c := 0) (d := regOf t (by decide)) decMatrix (by decide) (by decide) (by decide) (fun _ _ => rfl)
      (by simp [decMatrix, guarded, regOf])
  | mopa z va vb ca cb | mops z va vb ca cb =>
    obtain ⟨hw, hca, hcb⟩ := flagPair_fields ca cb
    exact decRaw_of_decL (c := 0) (d := regOf z (by decide)) decMatrix (by decide) (by decide) (hw.trans (by decide)) (fun _ _ => rfl)
      ((guarded_pos ⟨z.isLt, rfl, hw⟩).trans (by rw [ofNat_regOf, hca, hcb]))
  | mblk zf za ns keep =>
    obtain ⟨hw, hns, hkeep⟩ := flagPair_fields ns keep
    exact decRaw_of_decL (a := regOf za (by decide)) (b := 0) (c := 0) (d := regOf zf (by decide)) decMatrix (by decide) (by decide)
      (hw.trans (by decide)) (fun _ _ => rfl)
      ((guarded_pos ⟨zf.isLt, za.isLt, rfl, rfl, hw⟩).trans (by rw [ofNat_regOf, ofNat_regOf, hns, hkeep]))
  | mrdz vd zf xb =>
    exact decRaw_of_decL (a := regOf zf (by decide)) (c := 0) decMatrix (by decide) (by decide) (by decide) (fun _ _ => rfl)
      ((guarded_pos ⟨zf.isLt, rfl, rfl⟩).trans (by rw [ofNat_regOf]))
  | mspill q t xc =>
    exact decRaw_of_decL (a := regOf t (by decide)) (b := 0) (d := regOf q (by decide)) decMatrix (by decide) (by decide)
      (by decide) (fun _ _ => rfl) ((guarded_pos ⟨q.isLt, t.isLt, rfl, rfl⟩).trans (by rw [ofNat_regOf, ofNat_regOf]))
  | mfill t q xc =>
    exact decRaw_of_decL (a := regOf q (by decide)) (b := 0) (d := regOf t (by decide)) decMatrix (by decide) (by decide)
      (by decide) (fun _ _ => rfl) ((guarded_pos ⟨t.isLt, q.isLt, rfl, rfl⟩).trans (by rw [ofNat_regOf, ofNat_regOf]))
  | mldq o =>
    have hw : o.n.val + 512 * o.k.val + 32768 * o.t.val + 2097152 * o.code.val < 2 ^ 32 :=
      (mldqWord_fields o).1.trans (by decide)
    exact decRaw_of_decL (d := regOf o.q (by decide)) decMatrix (by decide) (by decide) hw (fun _ _ => rfl) (decMatrix_mldq o)
  | gopen =>
    exact decRaw_of_decL decGrammar (by decide) (by decide) (by decide) (fun _ _ => rfl) rfl
  | gadv | groll =>
    exact decRaw_of_decL (c := 0) decGrammar (by decide) (by decide) (by decide) (fun _ _ => rfl) rfl
  | gmask m a =>
    exact decRaw_of_decL (b := 0) (c := 0) (d := regOf m (by decide)) decGrammar (by decide) (by decide) (by decide) (fun _ _ => rfl)
      (by simp [decGrammar, guarded, regOf])
  | gmaskM m a ms =>
    exact decRaw_of_decL (b := regOf ms (by decide)) (c := 0) (d := regOf m (by decide)) decGrammar (by decide) (by decide) (by decide) (fun _ _ => rfl)
      (by simp [decGrammar, guarded, regOf])
  | gckpt | gfork =>
    exact decRaw_of_decL (b := 0) (c := 0) decGrammar (by decide) (by decide) (by decide) (fun _ _ => rfl) rfl
  | gfree =>
    exact decRaw_of_decL (b := 0) (c := 0) (d := 0) decGrammar (by decide) (by decide) (by decide) (fun _ _ => rfl) rfl
  | gstat d a sel =>
    exact decRaw_of_decL (b := 0) (c := 0) decGrammar (by decide) (by decide) (by have := sel.isLt; omega) (fun _ _ => rfl)
      (by simp [decGrammar, guarded])
  | acclog =>
    exact decRaw_of_decL (c := 0) (d := 0) decAccession (by decide) (by decide) (by decide) (fun _ _ => rfl) rfl
  | accsync =>
    exact decRaw_of_decL (a := 0) (b := 0) (c := 0) decAccession (by decide) (by decide) (by decide) (fun _ _ => rfl) rfl
  | acchead d sel =>
    exact decRaw_of_decL (a := 0) (b := 0) (c := 0) decAccession (by decide) (by decide) (by have := sel.isLt; omega) (fun _ _ => rfl)
      (by simp [decAccession, guarded])
  | vtseal =>
    exact decRaw_of_decL decVitrine (by decide) (by decide) (by decide) (fun _ _ => rfl) rfl
  | vtatt =>
    exact decRaw_of_decL (d := 0) decVitrine (by decide) (by decide) (by decide) (fun _ _ => rfl) rfl
  | vtdrop =>
    exact decRaw_of_decL (b := 0) (d := 0) decVitrine (by decide) (by decide) (by decide) (fun _ _ => rfl) rfl
  | vtqry d a sel =>
    exact decRaw_of_decL (b := 0) (c := 0) decVitrine (by decide) (by decide) (by have := sel.isLt; omega) (fun _ _ => rfl)
      (by simp [decVitrine, guarded])
  | hNop => exact decRaw_of_decQ1 (by decide) (by decide) (by decide) rfl
  | hBrk => exact decRaw_of_decQ1 (by decide) (by decide) (by decide) (guarded_pos (by decide))
  | hMov d a =>
    have := a.isLt
    have hd0 : d.val ≠ 0 := by simpa [wellFormed] using hwf
    obtain ⟨hlow, hd, ha⟩ := encH_fields_pair (q := 1) (by decide) d a
    exact decRaw_of_decQ1 (by omega) (by omega) (by decide)
      ((if_neg (by unfold encH; omega)).trans (by rw [guarded_pos (hlow _), hd, ha]))
  | hAdd d a | hSub d a =>
    have := a.isLt; have := d.isLt
    obtain ⟨hlow, hd, ha⟩ := encH_fields_pair (q := 1) (by decide) d a
    exact decRaw_of_decQ1 (by omega) (by omega) (by decide) (by simp only [decQ1]; rw [guarded_pos (hlow _), hd, ha])
  | hBz a v | hBnz a v =>
    have := a.isLt; have := v.isLt
    obtain ⟨ha, hv⟩ := encH_fields_branch (q := 1) (by decide) a v
    exact decRaw_of_decQ1 (by omega) (by omega) (by decide) (by simp only [decQ1, ha, hv])
  | hJmp v =>
    have := v.isLt
    have hv : BitVec.ofNat 11 (encH 1 5 (4 * v.toNat) / 4) = v := BitVec.eq_of_toNat_eq (by
      rw [BitVec.toNat_ofNat]; unfold encH; omega)
    exact decRaw_of_decQ1 (by omega) (by omega) (by decide) (by simp only [decQ1, hv])
  | hJmpr a =>
    have := a.isLt
    refine decRaw_of_decQ1 (by omega) (by omega) (by decide) ((guarded_pos (by unfold encH; omega)).trans ?_)
    rw [fld_eq (r := a) (by unfold encH; omega)]
  | _ => cases hev

end Sys2Proof
end

section
/-! PROOF. What decodes has the words of its instruction (R39, R40, R47, R48): each map answers an instruction that encodes the fields
it was given, and the fields of a word give the word back. -/

namespace Sys2Proof

/-- The instruction has a word, of `n` bytes, and it is `w`. -/
def Encodes (i : Instr) (n w : Nat) : Prop := i.isEvent = false ∧ i.len = n ∧ encode i = w

theorem Encodes.of_eq {i : Instr} {n w v : Nat} (h : Encodes i n w) (e : w = v) : Encodes i n v := e ▸ h

theorem guarded_eq_ok {c : Prop} [Decidable c] {i j : Instr} : guarded c j = .ok i ↔ c ∧ j = i := by
  unfold guarded
  split <;> simp [*]

theorem val_finOfNat {n m : Nat} [NeZero n] (h : m < n) : (Fin.ofNat n m).val = m := Nat.mod_eq_of_lt h

theorem toNat_bvOfNat {n m : Nat} (h : m < 2 ^ n) : (BitVec.ofNat n m).toNat = m := by
  rw [BitVec.toNat_ofNat, Nat.mod_eq_of_lt h]

theorem encodes_of_decAlu {f : Nat} {d a b : Reg} {i : Instr} (h : decAlu f d a b = .ok i) :
    Encodes i 4 (encR 0x00 f d.val a.val b.val) := by
  unfold decAlu at h
  split at h
  case h_24 | h_25 | h_26 =>
    obtain ⟨hb, rfl⟩ := guarded_eq_ok.1 h
    exact ⟨rfl, rfl, by rw [hb]; rfl⟩
  all_goals cases h
  all_goals exact ⟨rfl, rfl, rfl⟩

theorem encodes_of_decSfp {f : Nat} {d a b : Reg} {i : Instr} (h : decSfp f d a b = .ok i) :
    Encodes i 4 (encR 0x09 f d.val a.val b.val) := by
  unfold decSfp at h
  split at h
  case h_5 | h_10 | h_11 | h_12 | h_17 | h_18 | h_19 | h_20 =>
    obtain ⟨hb, rfl⟩ := guarded_eq_ok.1 h
    exact ⟨rfl, rfl, by rw [hb]; rfl⟩
  all_goals cases h
  all_goals exact ⟨rfl, rfl, rfl⟩

theorem encodes_of_decShi {sel v : Nat} {d a : Reg} {i : Instr} (hv : v < 4096) (hsel : v / 1024 % 4 = sel)
    (h : decShi sel d a v = .ok i) : Encodes i 4 (encI 0x01 6 d.val a.val v) := by
  have himm : ∀ {base}, v / 64 % 16 = 0 → v / 1024 * 1024 = base → base + (Fin.ofNat 64 v).val = v := fun {base} hlow hbase => by
    show base + v % 64 = v
    omega
  unfold decShi at h
  split at h
  case h_5 => cases h
  all_goals
    obtain ⟨hlow, rfl⟩ := guarded_eq_ok.1 h
    exact ⟨rfl, rfl, congrArg (encI 0x01 6 d.val a.val) (himm hlow (by omega))⟩

theorem encodes_of_decAlui {f v : Nat} {d a : Reg} {i : Instr} (hv : v < 4096) (h : decAlui f d a v = .ok i) :
    Encodes i 4 (encI 0x01 f d.val a.val v) := by
  unfold decAlui at h
  split at h
  case h_7 => exact encodes_of_decShi hv rfl h
  all_goals cases h
  all_goals exact ⟨rfl, rfl, congrArg (encI 0x01 _ d.val a.val) (toNat_bvOfNat hv)⟩

theorem encodes_of_decLd {f v : Nat} {d a : Reg} {i : Instr} (hv : v < 4096) (h : decLd f d a v = .ok i) :
    Encodes i 4 (encI 0x04 f d.val a.val v) := by
  unfold decLd at h
  split at h
  all_goals cases h
  all_goals exact ⟨rfl, rfl, congrArg (encI 0x04 _ d.val a.val) (toNat_bvOfNat hv)⟩

theorem encodes_of_decJalr {f v : Nat} {d a : Reg} {i : Instr} (hv : v < 4096) (h : decJalr f d a v = .ok i) :
    Encodes i 4 (encI 0x08 f d.val a.val v) := by
  unfold decJalr at h
  split at h
  all_goals cases h
  all_goals exact ⟨rfl, rfl, congrArg (encI 0x08 _ d.val a.val) (toNat_bvOfNat hv)⟩

theorem encodes_of_decSt {f v : Nat} {a b : Reg} {i : Instr} (hv : v < 4096) (h : decSt f b a v = .ok i) :
    Encodes i 4 (encS 0x05 f a.val b.val v) := by
  unfold decSt at h
  split at h
  all_goals cases h
  all_goals exact ⟨rfl, rfl, congrArg (encS 0x05 _ a.val b.val) (toNat_bvOfNat hv)⟩

theorem encodes_of_decBr {f v : Nat} {a b : Reg} {i : Instr} (hv : v < 4096) (h : decBr f a b v = .ok i) :
    Encodes i 4 (encS 0x06 f a.val b.val v) := by
  unfold decBr at h
  split at h
  all_goals cases h
  all_goals exact ⟨rfl, rfl, congrArg (encS 0x06 _ a.val b.val) (toNat_bvOfNat hv)⟩

theorem encodes_of_decAmo {f : Nat} {o : AmoOps} {i : Instr} (h : decAmo f o = .ok i) :
    Encodes i 4 (encR 0x0A (f + encAmo o) o.d.val o.a.val o.b.val) := by
  unfold decAmo at h
  split at h
  all_goals cases h
  all_goals exact ⟨rfl, rfl, rfl⟩

/-- The number of a system register is split over fn10 and the b field (R40). -/
theorem sysNum_split {hi : Nat} (b : Reg) (hhi : hi < 64) :
    (BitVec.ofNat 11 (hi * 32 + b.val)).toNat / 32 = hi ∧ (BitVec.ofNat 11 (hi * 32 + b.val)).toNat % 32 = b.val := by
  have := b.isLt
  rw [toNat_bvOfNat (by omega)]
  omega

theorem encodes_of_decSys {f hi : Nat} {d a b : Reg} {i : Instr} (hhi : hi < 64) (h : decSys f hi d a b = .ok i) :
    Encodes i 4 (encR 0x0B (f + 16 * hi) d.val a.val b.val) := by
  obtain ⟨hnum, hlow⟩ := sysNum_split b hhi
  unfold decSys at h
  split at h
  case h_1 | h_2 | h_3 =>
    obtain ⟨⟨rfl, hd, ha, hb⟩, rfl⟩ := guarded_eq_ok.1 h
    exact ⟨rfl, rfl, by rw [hd, ha, hb]; rfl⟩
  case h_4 =>
    obtain ⟨ha, rfl⟩ := guarded_eq_ok.1 h
    exact ⟨rfl, rfl, by rw [ha]; unfold encode; dsimp only; rw [hnum, hlow]⟩
  case h_5 | h_6 | h_7 =>
    cases h
    exact ⟨rfl, rfl, by unfold encode; dsimp only; rw [hnum, hlow]⟩
  case h_8 =>
    obtain ⟨⟨rfl, hd, ha, hb⟩, rfl⟩ := guarded_eq_ok.1 h
    exact ⟨rfl, rfl, by unfold encode; dsimp only; rw [hd, val_finOfNat ha, val_finOfNat hb]⟩
  case h_9 | h_10 =>
    obtain ⟨⟨rfl, hd⟩, rfl⟩ := guarded_eq_ok.1 h
    exact ⟨rfl, rfl, by rw [hd]; rfl⟩
  case h_11 =>
    obtain ⟨⟨rfl, hb⟩, rfl⟩ := guarded_eq_ok.1 h
    exact ⟨rfl, rfl, by rw [hb]; rfl⟩
  case h_12 => cases h

theorem encodes_of_decSync {f : Nat} {d a b : Reg} {i : Instr} (h : decSync f d a b = .ok i) :
    Encodes i 4 (encR 0x0C f d.val a.val b.val) := by
  unfold decSync at h
  split at h
  case h_1 =>
    obtain ⟨hb, rfl⟩ := guarded_eq_ok.1 h
    exact ⟨rfl, rfl, by rw [hb]; rfl⟩
  case h_2 | h_3 | h_4 | h_5 | h_7 | h_11 =>
    obtain ⟨⟨ha, hb⟩, rfl⟩ := guarded_eq_ok.1 h
    exact ⟨rfl, rfl, by rw [ha, hb]; rfl⟩
  case h_12 =>
    obtain ⟨⟨hd, ha, hb⟩, rfl⟩ := guarded_eq_ok.1 h
    exact ⟨rfl, rfl, by rw [hd, ha, hb]; rfl⟩
  all_goals cases h
  all_goals exact ⟨rfl, rfl, rfl⟩

theorem encodes_of_decShape {f : Nat} {d a b t : Reg} {i : Instr} (h : decShape f d a b t = .ok i) :
    Encodes i 4 (encR 0x0D (f + 16 * t.val) d.val a.val b.val) := by
  unfold decShape at h
  split at h
  case h_4 | h_5 =>
    obtain ⟨⟨ht, hb⟩, rfl⟩ := guarded_eq_ok.1 h
    exact ⟨rfl, rfl, by rw [ht, hb]; rfl⟩
  case h_6 | h_8 =>
    obtain ⟨ht, rfl⟩ := guarded_eq_ok.1 h
    exact ⟨rfl, rfl, by rw [ht]; rfl⟩
  case h_7 =>
    obtain ⟨⟨ht, hd, ha, hb⟩, rfl⟩ := guarded_eq_ok.1 h
    exact ⟨rfl, rfl, by rw [ht, hd, ha, hb]; rfl⟩
  all_goals cases h
  all_goals exact ⟨rfl, rfl, rfl⟩

theorem encodes_of_decCopy {f : Nat} {d a b : Reg} {i : Instr} (h : decCopy f d a b = .ok i) :
    Encodes i 4 (encR 0x1D f d.val a.val b.val) := by
  unfold decCopy at h
  split at h
  case h_5 | h_6 | h_8 =>
    obtain ⟨ha, rfl⟩ := guarded_eq_ok.1 h
    exact ⟨rfl, rfl, by unfold encode; dsimp only; rw [val_finOfNat ha]⟩
  case h_7 =>
    obtain ⟨⟨ha, hb⟩, rfl⟩ := guarded_eq_ok.1 h
    exact ⟨rfl, rfl, by unfold encode; dsimp only; rw [val_finOfNat ha, hb]⟩
  all_goals cases h
  all_goals exact ⟨rfl, rfl, rfl⟩

theorem encodes_of_decVld {f : Nat} {o : VMOps} {i : Instr} (h : decVld f o = .ok i) : Encodes i 4 (encVM 0x0E f o) := by
  unfold decVld at h
  split at h <;> cases h <;> exact ⟨rfl, rfl, rfl⟩

theorem encodes_of_decVst {f : Nat} {o : VMOps} {i : Instr} (h : decVst f o = .ok i) : Encodes i 4 (encVM 0x0F f o) := by
  unfold decVst at h
  split at h <;> cases h <;> exact ⟨rfl, rfl, rfl⟩

theorem encodes_of_decVarith {f : Nat} {o : VOps} {i : Instr} (h : decVarith f o = .ok i) : Encodes i 4 (encV 0x10 f o) := by
  unfold decVarith at h
  split at h <;> cases h <;> exact ⟨rfl, rfl, rfl⟩

theorem encodes_of_decVarithX {f : Nat} {o : VOps} {i : Instr} (h : decVarithX f o = .ok i) : Encodes i 4 (encV 0x11 f o) := by
  unfold decVarithX at h
  split at h <;> cases h <;> exact ⟨rfl, rfl, rfl⟩

theorem encodes_of_decVlogic {f : Nat} {o : VOps} {i : Instr} (h : decVlogic f o = .ok i) : Encodes i 4 (encV 0x12 f o) := by
  unfold decVlogic at h
  split at h <;> cases h <;> exact ⟨rfl, rfl, rfl⟩

theorem encodes_of_decVlogicX {f : Nat} {o : VOps} {i : Instr} (h : decVlogicX f o = .ok i) : Encodes i 4 (encV 0x13 f o) := by
  unfold decVlogicX at h
  split at h <;> cases h <;> exact ⟨rfl, rfl, rfl⟩

theorem encodes_of_decVmac {f : Nat} {o : VOps} {i : Instr} (h : decVmac f o = .ok i) : Encodes i 4 (encV 0x14 f o) := by
  unfold decVmac at h
  split at h <;> cases h <;> exact ⟨rfl, rfl, rfl⟩

theorem encodes_of_decVcmp {f : Nat} {o : VOps} {i : Instr} (h : decVcmp f o = .ok i) : Encodes i 4 (encV 0x15 f o) := by
  unfold decVcmp at h
  split at h <;> cases h <;> exact ⟨rfl, rfl, rfl⟩

theorem encodes_of_decVcvt {f : Nat} {o : VOps} {i : Instr} (h : decVcvt f o = .ok i) : Encodes i 4 (encV 0x16 f o) := by
  unfold decVcvt at h
  split at h <;> cases h <;> exact ⟨rfl, rfl, rfl⟩

theorem encodes_of_decVred {f : Nat} {o : VOps} {i : Instr} (h : decVred f o = .ok i) : Encodes i 4 (encV 0x17 f o) := by
  unfold decVred at h
  split at h <;> cases h <;> exact ⟨rfl, rfl, rfl⟩

theorem encodes_of_decVperm {f : Nat} {o : VOps} {i : Instr} (h : decVperm f o = .ok i) : Encodes i 4 (encV 0x18 f o) := by
  unfold decVperm at h
  split at h <;> cases h <;> exact ⟨rfl, rfl, rfl⟩

theorem encodes_of_decVxfm {f : Nat} {o : VOps} {i : Instr} (h : decVxfm f o = .ok i) : Encodes i 4 (encV 0x19 f o) := by
  unfold decVxfm at h
  split at h <;> cases h <;> exact ⟨rfl, rfl, rfl⟩

theorem encodes_of_decVmsk {f : Nat} {o : VOps} {i : Instr} (h : decVmsk f o = .ok i) : Encodes i 4 (encV 0x1A f o) := by
  unfold decVmsk at h
  split at h <;> cases h <;> exact ⟨rfl, rfl, rfl⟩

theorem encodes_of_decVscl {f : Nat} {o : VOps} {i : Instr} (h : decVscl f o = .ok i) : Encodes i 4 (encV 0x1B f o) := by
  unfold decVscl at h
  split at h
  all_goals cases h
  all_goals exact ⟨rfl, rfl, rfl⟩

theorem encodes_of_decCat {f : Nat} {o : VOps} {i : Instr} (h : decCat f o = .ok i) : Encodes i 4 (encV 0x1C f o) := by
  unfold decCat at h
  split at h
  case h_5 =>
    obtain ⟨rfl, rfl⟩ := guarded_eq_ok.1 h
    exact ⟨rfl, rfl, rfl⟩
  all_goals cases h
  all_goals exact ⟨rfl, rfl, rfl⟩

/-- Two flags from the low bits of word 1. -/
theorem flagPair_word {w : Nat} (h : w < 4) : (decide (w % 2 = 1)).toNat + 2 * (decide (w / 2 % 2 = 1)).toNat = w := by
  interval_cases w <;> rfl

/-- The counts of MLDQ from word 1. -/
theorem mldqWord_eq {w : Nat} (h : w < 16777216) :
    (Fin.ofNat 512 w).val + 512 * (Fin.ofNat 64 (w / 512)).val + 32768 * (Fin.ofNat 64 (w / 32768)).val
      + 2097152 * (Fin.ofNat 8 (w / 2097152)).val = w := by
  show w % 512 + 512 * (w / 512 % 64) + 32768 * (w / 32768 % 64) + 2097152 * (w / 2097152 % 8) = w
  omega

theorem encodes_of_decMatrix {f w1 : Nat} {a b c d : Reg} {i : Instr} (h : decMatrix f a b c d w1 = .ok i) :
    Encodes i 8 (encL 0 f a.val b.val c.val d.val w1) := by
  unfold decMatrix at h
  split at h
  case h_1 =>
    obtain ⟨⟨hd, ha, hb, hc, hw⟩, rfl⟩ := guarded_eq_ok.1 h
    exact ⟨rfl, rfl, by unfold encode; dsimp only; rw [val_finOfNat hd, ha, hb, hc, hw]⟩
  case h_2 | h_3 =>
    obtain ⟨⟨hd, hc, hw⟩, rfl⟩ := guarded_eq_ok.1 h
    exact ⟨rfl, rfl, by unfold encode; dsimp only; rw [val_finOfNat hd, hc, flagPair_word hw]⟩
  case h_4 =>
    obtain ⟨⟨hd, ha, hb, hc, hw⟩, rfl⟩ := guarded_eq_ok.1 h
    exact ⟨rfl, rfl, by unfold encode; dsimp only; rw [val_finOfNat hd, val_finOfNat ha, hb, hc, flagPair_word hw]⟩
  case h_5 =>
    obtain ⟨⟨ha, hc, hw⟩, rfl⟩ := guarded_eq_ok.1 h
    exact ⟨rfl, rfl, by unfold encode; dsimp only; rw [val_finOfNat ha, hc, hw]⟩
  case h_6 | h_7 =>
    obtain ⟨⟨hd, ha, hb, hw⟩, rfl⟩ := guarded_eq_ok.1 h
    exact ⟨rfl, rfl, by unfold encode; dsimp only; rw [val_finOfNat hd, val_finOfNat ha, hb, hw]⟩
  case h_8 =>
    obtain ⟨⟨hd, hw⟩, rfl⟩ := guarded_eq_ok.1 h
    exact ⟨rfl, rfl, by unfold encode; dsimp only; rw [val_finOfNat hd, mldqWord_eq hw]⟩
  case h_9 => cases h

theorem encodes_of_decGrammar {f w1 : Nat} {a b c d : Reg} {i : Instr} (h : decGrammar f a b c d w1 = .ok i) :
    Encodes i 8 (encL 1 f a.val b.val c.val d.val w1) := by
  unfold decGrammar at h
  split at h
  case h_1 =>
    obtain ⟨hw, rfl⟩ := guarded_eq_ok.1 h
    exact ⟨rfl, rfl, by rw [hw]; rfl⟩
  case h_2 | h_6 =>
    obtain ⟨⟨hc, hw⟩, rfl⟩ := guarded_eq_ok.1 h
    exact ⟨rfl, rfl, by rw [hc, hw]; rfl⟩
  case h_3 =>
    obtain ⟨⟨hd, hb, hc, hw⟩, rfl⟩ := guarded_eq_ok.1 h
    exact ⟨rfl, rfl, by unfold encode; dsimp only; rw [val_finOfNat hd, hb, hc, hw]⟩
  case h_4 =>
    obtain ⟨⟨hd, hb, hc, hw⟩, rfl⟩ := guarded_eq_ok.1 h
    exact ⟨rfl, rfl, by unfold encode; dsimp only; rw [val_finOfNat hd, val_finOfNat hb, hc, hw]⟩
  case h_5 | h_7 =>
    obtain ⟨⟨hb, hc, hw⟩, rfl⟩ := guarded_eq_ok.1 h
    exact ⟨rfl, rfl, by rw [hb, hc, hw]; rfl⟩
  case h_8 =>
    obtain ⟨⟨hd, hb, hc, hw⟩, rfl⟩ := guarded_eq_ok.1 h
    exact ⟨rfl, rfl, by rw [hd, hb, hc, hw]; rfl⟩
  case h_9 =>
    obtain ⟨⟨hb, hc, hw⟩, rfl⟩ := guarded_eq_ok.1 h
    exact ⟨rfl, rfl, by unfold encode; dsimp only; rw [val_finOfNat hw, hb, hc]⟩
  case h_10 => cases h

theorem encodes_of_decAccession {f w1 : Nat} {a b c d : Reg} {i : Instr} (h : decAccession f a b c d w1 = .ok i) :
    Encodes i 8 (encL 2 f a.val b.val c.val d.val w1) := by
  unfold decAccession at h
  split at h
  case h_1 =>
    obtain ⟨⟨hd, hc, hw⟩, rfl⟩ := guarded_eq_ok.1 h
    exact ⟨rfl, rfl, by rw [hd, hc, hw]; rfl⟩
  case h_2 =>
    obtain ⟨⟨ha, hb, hc, hw⟩, rfl⟩ := guarded_eq_ok.1 h
    exact ⟨rfl, rfl, by rw [ha, hb, hc, hw]; rfl⟩
  case h_3 =>
    obtain ⟨⟨ha, hb, hc, hw⟩, rfl⟩ := guarded_eq_ok.1 h
    exact ⟨rfl, rfl, by unfold encode; dsimp only; rw [val_finOfNat hw, ha, hb, hc]⟩
  case h_4 => cases h

theorem encodes_of_decVitrine {f w1 : Nat} {a b c d : Reg} {i : Instr} (h : decVitrine f a b c d w1 = .ok i) :
    Encodes i 8 (encL 3 f a.val b.val c.val d.val w1) := by
  unfold decVitrine at h
  split at h
  case h_1 =>
    obtain ⟨hw, rfl⟩ := guarded_eq_ok.1 h
    exact ⟨rfl, rfl, by rw [hw]; rfl⟩
  case h_2 =>
    obtain ⟨⟨hd, hw⟩, rfl⟩ := guarded_eq_ok.1 h
    exact ⟨rfl, rfl, by rw [hd, hw]; rfl⟩
  case h_3 =>
    obtain ⟨⟨hd, hb, hw⟩, rfl⟩ := guarded_eq_ok.1 h
    exact ⟨rfl, rfl, by rw [hd, hb, hw]; rfl⟩
  case h_4 =>
    obtain ⟨⟨hb, hc, hw⟩, rfl⟩ := guarded_eq_ok.1 h
    exact ⟨rfl, rfl, by unfold encode; dsimp only; rw [val_finOfNat hw, hb, hc]⟩
  case h_5 => cases h

end Sys2Proof
end

section
/-! PROOF. The fields of a word put together are the word, and so what decodes from it encodes to it (R35, R39, R47, R48). -/

namespace Sys2Proof

section
variable {m w : Nat} (h4 : w % 4 = 2) (hm : w / 4 % 32 = m) (hw : w < 2 ^ 32)
include h4 hm hw

theorem encR_fld : encR m (w / 2 ^ 22 % 1024) (fld w 7).val (fld w 12).val (fld w 17).val = w := by
  show encR m (w / 2 ^ 22 % 1024) (w / 2 ^ 7 % 32) (w / 2 ^ 12 % 32) (w / 2 ^ 17 % 32) = w
  unfold encR; omega

omit hw in
theorem encI_fld : encI m (w / 2 ^ 17 % 8) (fld w 7).val (fld w 12).val (w / 2 ^ 20) = w := by
  show encI m (w / 2 ^ 17 % 8) (w / 2 ^ 7 % 32) (w / 2 ^ 12 % 32) (w / 2 ^ 20) = w
  unfold encI; omega

theorem encS_fld : encS m (w / 2 ^ 17 % 8) (fld w 12).val (fld w 20).val (splitImm w) = w := by
  show encS m (w / 2 ^ 17 % 8) (w / 2 ^ 12 % 32) (w / 2 ^ 20 % 32) (w / 2 ^ 25 % 128 * 32 + w / 2 ^ 7 % 32) = w
  unfold encS; omega

theorem encU_fld : encU m (fld w 7).val (BitVec.ofNat 20 (w / 2 ^ 12)).toNat = w := by
  rw [toNat_bvOfNat (by omega)]
  show encU m (w / 2 ^ 7 % 32) (w / 2 ^ 12) = w
  unfold encU; omega

theorem encV_vOps : encV m (w / 2 ^ 29 % 8) (vOps w) = w := by
  have hx := toNat_decide_mod_two (w / 2 ^ 25)
  have hy := toNat_decide_mod_two (w / 2 ^ 26)
  unfold encV vOps
  dsimp only
  rw [hx, hy]
  show 2 + 4 * m + 2 ^ 7 * (w / 2 ^ 7 % 32) + 2 ^ 12 * (w / 2 ^ 12 % 32) + 2 ^ 17 * (w / 2 ^ 17 % 32) + 2 ^ 22 * (w / 2 ^ 22 % 8)
    + 2 ^ 25 * (w / 2 ^ 25 % 2) + 2 ^ 26 * (w / 2 ^ 26 % 2) + 2 ^ 27 * (w / 2 ^ 27 % 4) + 2 ^ 29 * (w / 2 ^ 29 % 8) = w
  omega

theorem encVM_vmOps : encVM m (w / 2 ^ 29 % 8) (vmOps w) = w := by
  unfold encVM vmOps
  dsimp only
  rw [BitVec.toNat_ofNat]
  show 2 + 4 * m + 2 ^ 7 * (w / 2 ^ 7 % 4) + 2 ^ 9 * (w / 2 ^ 9 % 8) + 2 ^ 12 * (w / 2 ^ 12 % 32) + 2 ^ 17 * (w / 2 ^ 17 % 32)
    + 2 ^ 22 * (w / 2 ^ 22 % 2 ^ 7) + 2 ^ 29 * (w / 2 ^ 29 % 8) = w
  omega

theorem encR_amoOps : encR m (w / 2 ^ 22 % 16 + encAmo (amoOps w)) (amoOps w).d.val (amoOps w).a.val (amoOps w).b.val = w := by
  have hfn : w / 2 ^ 22 % 16 + encAmo (amoOps w) = w / 2 ^ 22 % 1024 := by
    unfold encAmo amoOps
    dsimp only
    rw [toNat_decide_mod_two, toNat_decide_mod_two, toNat_decide_mod_two]
    show w / 2 ^ 22 % 16 + (16 * (w / 2 ^ 26 % 2) + 32 * (w / 2 ^ 27 % 2) + 64 * (w / 2 ^ 28 % 2) + 128 * (w / 2 ^ 29 % 8)) = _
    omega
  rw [hfn]
  exact encR_fld h4 hm hw

/-- fn10 is a function code below a field. -/
theorem encR_split {f : Nat} (hf : f = w / 2 ^ 22 % 1024) : encR m f (fld w 7).val (fld w 12).val (fld w 17).val = w := by
  rw [hf]
  exact encR_fld h4 hm hw

omit h4 hm hw in
theorem splitImm_lt (w : Nat) : splitImm w < 4096 := by unfold splitImm; omega

/-- A word of a major opcode. -/
theorem encodes_of_decMajor {i : Instr} (h : decMajor m w = .ok i) : Encodes i 4 w := by
  have hR := encR_fld h4 hm hw
  have hI := encI_fld h4 hm
  have hS := encS_fld h4 hm hw
  have hU := encU_fld h4 hm hw
  have hV := encV_vOps h4 hm hw
  have hVM := encVM_vmOps h4 hm hw
  unfold decMajor at h
  split at h
  case h_1 => exact (encodes_of_decAlu h).of_eq hR
  case h_2 =>
    rw [Nat.mod_eq_of_lt (a := w / 2 ^ 20) (by omega)] at h
    exact (encodes_of_decAlui (by omega) h).of_eq hI
  case h_3 | h_4 | h_8 =>
    cases h
    exact ⟨rfl, rfl, hU⟩
  case h_5 => exact (encodes_of_decLd (by omega) h).of_eq hI
  case h_6 => exact (encodes_of_decSt (splitImm_lt w) h).of_eq hS
  case h_7 => exact (encodes_of_decBr (splitImm_lt w) h).of_eq hS
  case h_9 => exact (encodes_of_decJalr (by omega) h).of_eq hI
  case h_10 => exact (encodes_of_decSfp h).of_eq hR
  case h_11 => exact (encodes_of_decAmo h).of_eq (encR_amoOps h4 hm hw)
  case h_12 => exact (encodes_of_decSys (Nat.mod_lt _ (by decide)) h).of_eq (encR_split h4 hm hw (by omega))
  case h_13 => exact (encodes_of_decSync h).of_eq hR
  case h_14 =>
    split at h
    · have ht : w / 2 ^ 22 % 16 + 16 * (w / 2 ^ 26 % 32) = w / 2 ^ 22 % 1024 := by omega
      exact (encodes_of_decShape h).of_eq (encR_split h4 hm hw ht)
    · cases h
  case h_15 => exact (encodes_of_decVld h).of_eq hVM
  case h_16 => exact (encodes_of_decVst h).of_eq hVM
  case h_17 => exact (encodes_of_decVarith h).of_eq hV
  case h_18 => exact (encodes_of_decVarithX h).of_eq hV
  case h_19 => exact (encodes_of_decVlogic h).of_eq hV
  case h_20 => exact (encodes_of_decVlogicX h).of_eq hV
  case h_21 => exact (encodes_of_decVmac h).of_eq hV
  case h_22 => exact (encodes_of_decVcmp h).of_eq hV
  case h_23 => exact (encodes_of_decVcvt h).of_eq hV
  case h_24 => exact (encodes_of_decVred h).of_eq hV
  case h_25 => exact (encodes_of_decVperm h).of_eq hV
  case h_26 => exact (encodes_of_decVxfm h).of_eq hV
  case h_27 => exact (encodes_of_decVmsk h).of_eq hV
  case h_28 => exact (encodes_of_decVscl h).of_eq hV
  case h_29 => exact (encodes_of_decCat h).of_eq hV
  case h_30 => exact (encodes_of_decCopy h).of_eq hR
  case h_31 => cases h

end

theorem encL_fld {k w : Nat} (w1 : Nat) (h4 : w % 4 = 3) (hk : w / 4 % 32 = k) (hw : w < 2 ^ 32) :
    encL k (w / 2 ^ 7 % 32) (fld w 12).val (fld w 17).val (fld w 22).val (fld w 27).val w1 = w + 2 ^ 32 * w1 := by
  show encL k (w / 2 ^ 7 % 32) (w / 2 ^ 12 % 32) (w / 2 ^ 17 % 32) (w / 2 ^ 22 % 32) (w / 2 ^ 27 % 32) w1 = _
  unfold encL; omega

/-- The two words of a class. -/
theorem encodes_of_decClass {k w w1 : Nat} {i : Instr} (h4 : w % 4 = 3) (hk : w / 4 % 32 = k) (hw : w < 2 ^ 32)
    (h : decClass k w w1 = .ok i) : Encodes i 8 (w + 2 ^ 32 * w1) := by
  have hL := encL_fld w1 h4 hk hw
  unfold decClass at h
  split at h
  case h_1 => exact (encodes_of_decMatrix h).of_eq hL
  case h_2 => exact (encodes_of_decGrammar h).of_eq hL
  case h_3 => exact (encodes_of_decAccession h).of_eq hL
  case h_4 => exact (encodes_of_decVitrine h).of_eq hL
  case h_5 => cases h

/-- A halfword of quadrant 0. -/
theorem encodes_of_decQ0 {f w : Nat} {i : Instr} (h4 : w % 4 = 0) (hf : w / 2 ^ 13 % 8 = f) (hw : w < 65536)
    (h : decQ0 f w = .ok i) : Encodes i 2 w := by
  unfold decQ0 at h
  split at h
  case h_1 | h_2 | h_8 =>
    cases h
    refine ⟨rfl, rfl, ?_⟩
    show encH 0 _ (256 * (w / 2 ^ 8 % 32) + 4 * (w / 4 % 2 ^ 6)) = w
    unfold encH; omega
  case h_3 | h_4 | h_5 | h_6 =>
    cases h
    refine ⟨rfl, rfl, ?_⟩
    show encH 0 _ (256 * (w / 2 ^ 8 % 32) + 32 * (w / 32 % 8) + 4 * (w / 4 % 8)) = w
    unfold encH; omega
  case h_7 =>
    cases h
    refine ⟨rfl, rfl, ?_⟩
    show encH 0 _ (256 * (w / 2 ^ 8 % 32) + 4 * (w / 4 % 64)) = w
    unfold encH; omega
  case h_9 => cases h

/-- A halfword of quadrant 1. -/
theorem encodes_of_decQ1 {f w : Nat} {i : Instr} (h4 : w % 4 = 1) (hf : w / 2 ^ 13 % 8 = f) (hw : w < 65536)
    (h : decQ1 f w = .ok i) : Encodes i 2 w := by
  have hpair : w / 4 % 2 = 0 → encH 1 f (256 * (w / 2 ^ 8 % 32) + 8 * (w / 2 ^ 3 % 32)) = w := fun _ => by
    unfold encH; omega
  unfold decQ1 at h
  split at h
  case h_1 =>
    split at h
    case isTrue he =>
      cases h
      exact ⟨rfl, rfl, he.symm⟩
    case isFalse =>
      obtain ⟨hlow, rfl⟩ := guarded_eq_ok.1 h
      exact ⟨rfl, rfl, hpair hlow⟩
  case h_2 | h_3 =>
    obtain ⟨hlow, rfl⟩ := guarded_eq_ok.1 h
    exact ⟨rfl, rfl, hpair hlow⟩
  case h_4 | h_5 =>
    cases h
    refine ⟨rfl, rfl, ?_⟩
    show encH 1 _ (1024 * (w / 1024 % 8) + 4 * (w / 4 % 2 ^ 8)) = w
    unfold encH; omega
  case h_6 =>
    cases h
    refine ⟨rfl, rfl, ?_⟩
    show encH 1 5 (4 * (w / 4 % 2 ^ 11)) = w
    unfold encH; omega
  case h_7 =>
    obtain ⟨hlow, rfl⟩ := guarded_eq_ok.1 h
    refine ⟨rfl, rfl, ?_⟩
    show encH 1 6 (256 * (w / 2 ^ 8 % 32)) = w
    unfold encH; omega
  case h_8 =>
    obtain ⟨hlow, rfl⟩ := guarded_eq_ok.1 h
    refine ⟨rfl, rfl, ?_⟩
    show encH 1 7 0 = w
    unfold encH; omega
  case h_9 => cases h

/-- What decodes from `w` encodes to the bits of `w` that its length takes in. -/
theorem encodes_of_decRaw {w : Nat} {i : Instr} (h : decRaw w = .ok i) :
    Encodes i (lengthOf w) (w % 256 ^ lengthOf w) := by
  unfold decRaw at h
  unfold lengthOf
  split at h
  case h_1 h4 => exact encodes_of_decQ0 (by omega) (by omega) (by omega) h
  case h_2 h4 => exact encodes_of_decQ1 (by omega) (by omega) (by omega) h
  case h_3 h4 => exact encodes_of_decMajor (by omega) (by omega) (Nat.mod_lt _ (by decide)) h
  case h_4 hn0 hn1 hn2 =>
    have h4 : w % 4 = 3 := by
      have := Nat.mod_lt w (show 4 > 0 by decide)
      interval_cases hlow : w % 4
      · exact (hn0 rfl).elim
      · exact (hn1 rfl).elim
      · exact (hn2 rfl).elim
      · rfl
    exact (encodes_of_decClass (by omega) (by omega) (Nat.mod_lt _ (by decide)) h).of_eq (by omega)

end Sys2Proof
end

section
/-! PROOF. Decoding and encoding agree (R39, R40, R47, R48). -/

namespace Sys2Proof

open Machine

/-- Bits [1:0] of the first byte announce the length (R35). -/
theorem lengthOf_congr {v w : Nat} (h : v % 4 = w % 4) : lengthOf v = lengthOf w := by
  unfold lengthOf
  rw [h]

theorem two_le_lengthOf (w : Nat) : 2 ≤ lengthOf w := by
  unfold lengthOf
  split <;> decide

theorem decodeBits_eq_ok {w : Nat} {i : Instr} : decodeBits w = .ok i ↔ decRaw w = .ok i ∧ wellFormed i = true := by
  unfold decodeBits
  split
  case h_1 j hj =>
    rw [hj]
    split
    case isTrue hwf => exact ⟨fun h => ⟨h, by cases h; exact hwf⟩, fun h => h.1⟩
    case isFalse hwf => exact ⟨fun h => (by cases h), fun ⟨h, hi⟩ => by cases h; exact absurd hi hwf⟩
  case h_2 r hr =>
    rw [hr]
    exact ⟨fun h => (by cases h), fun h => by cases h.1⟩

/-- The head of a list of bytes decodes where as many bytes stand there as its first announces. -/
theorem decodeBytes_eq_ok {l rest : List Byte} {i : Instr} : decodeBytes l = .ok (i, rest) ↔
    2 ≤ l.length ∧ lengthOf (leNat l) ≤ l.length ∧ decodeBits (leNat (l.take (lengthOf (leNat l)))) = .ok i
      ∧ rest = l.drop (lengthOf (leNat l)) := by
  match l with
  | [] => exact ⟨fun h => (by cases h), fun h => absurd h.1 (by decide)⟩
  | [_] => exact ⟨fun h => (by cases h), fun h => absurd h.1 (by simp)⟩
  | b :: c :: t =>
    have hlen : lengthOf b.toNat = lengthOf (leNat (b :: c :: t)) := lengthOf_congr (by rw [leNat_cons]; omega)
    rw [← hlen]
    unfold decodeBytes
    dsimp only
    split
    case isTrue hlt => exact ⟨fun h => (by cases h), fun h => absurd h.2.1 (by omega)⟩
    case isFalse hge =>
      split
      case h_1 j hj =>
        rw [hj]
        simp only [Except.ok.injEq, Prod.mk.injEq, List.length_cons]
        exact ⟨fun ⟨hi, hr⟩ => ⟨by omega, by simpa using hge, hi, hr.symm⟩, fun ⟨_, _, hi, hr⟩ => ⟨hi, hr.symm⟩⟩
      case h_2 r hr =>
        rw [hr]
        exact ⟨fun h => (by cases h), fun h => by cases h.2.2.1⟩

theorem leNat_append (a b : List Byte) : leNat (a ++ b) = leNat a + 256 ^ a.length * leNat b := by
  induction a with
  | nil => simp
  | cons x a ih => rw [List.cons_append, leNat_cons, leNat_cons, ih, List.length_cons, pow_succ]; ring

/-- What follows the first byte is not looked at for the length. -/
theorem lengthOf_leNat_append {a : List Byte} (b : List Byte) (h : 2 ≤ a.length) : lengthOf (leNat (a ++ b)) = lengthOf (leNat a) := by
  refine lengthOf_congr ?_
  obtain ⟨n, hn⟩ : ∃ n, a.length = n + 1 := ⟨a.length - 1, by omega⟩
  rw [leNat_append, hn, pow_succ, show 256 ^ n * 256 * leNat b = 4 * (64 * (256 ^ n * leNat b)) by ring, Nat.add_mul_mod_self_left]

/-- The bytes of a well-formed instruction decode to it, whatever follows. -/
theorem decodeBytes_leBytes_append {i : Instr} (rest : List Byte) (hev : i.isEvent = false) (hwf : wellFormed i = true) :
    decodeBytes (leBytes i.len (encode i) ++ rest) = .ok (i, rest) := by
  have hraw := decRaw_encode hev hwf
  obtain ⟨-, hlen, hword⟩ := encodes_of_decRaw hraw
  have htwo := two_le_lengthOf (encode i)
  have hval : leNat (leBytes i.len (encode i)) = encode i := by rw [leNat_leBytes, hlen, ← hword]
  have hannounced : lengthOf (leNat (leBytes i.len (encode i) ++ rest)) = i.len := by
    rw [lengthOf_leNat_append rest (by rw [leBytes_length]; omega), hval, hlen]
  have htake : (leBytes i.len (encode i) ++ rest).take i.len = leBytes i.len (encode i) :=
    List.take_left' (leBytes_length _ _)
  have hdrop : (leBytes i.len (encode i) ++ rest).drop i.len = rest := List.drop_left' (leBytes_length _ _)
  rw [decodeBytes_eq_ok, hannounced, htake, hdrop, hval, List.length_append, leBytes_length]
  exact ⟨by omega, by omega, decodeBits_eq_ok.2 ⟨hraw, hwf⟩, rfl⟩

/-- Bytes that decode are those of their instruction. -/
theorem eq_leBytes_of_decodeBytes {l rest : List Byte} {i : Instr} (h : decodeBytes l = .ok (i, rest)) :
    i.isEvent = false ∧ wellFormed i = true ∧ l = leBytes i.len (encode i) ++ rest := by
  obtain ⟨htwo, hlong, hbits, rfl⟩ := decodeBytes_eq_ok.1 h
  obtain ⟨hraw, hwf⟩ := decodeBits_eq_ok.1 hbits
  obtain ⟨hev, hlen, hword⟩ := encodes_of_decRaw hraw
  have hn := two_le_lengthOf (leNat l)
  have htake : (l.take (lengthOf (leNat l))).length = lengthOf (leNat l) := by rw [List.length_take]; omega
  have hannounced : lengthOf (leNat (l.take (lengthOf (leNat l)))) = lengthOf (leNat l) := by
    conv_rhs => rw [← List.take_append_drop (lengthOf (leNat l)) l]
    exact (lengthOf_leNat_append _ (by omega)).symm
  rw [hannounced] at hlen hword
  have hlt := leNat_lt (l.take (lengthOf (leNat l)))
  rw [htake] at hlt
  refine ⟨hev, hwf, ?_⟩
  have hbytes := leBytes_leNat (l.take (lengthOf (leNat l)))
  rw [htake] at hbytes
  rw [hlen, hword, Nat.mod_eq_of_lt hlt, hbytes, List.take_append_drop]

end Sys2Proof
end

section
/-! PROOF. The round trip of the encoding (R39, R40, R47, R48). -/

namespace Sys2Proof.Claims

/-- Settles O58: the encoder's words decode to their instruction by its format's fields, and the fields of a word that decodes put
together are the word. -/
theorem encodingRoundTrip : Obligations.EncodingRoundTrip :=
  ⟨fun _ rest hev hwf => decodeBytes_leBytes_append rest hev hwf, fun _ _ _ h => eq_leBytes_of_decodeBytes h⟩

end Sys2Proof.Claims
end

section
/-! PROOF. Words of the spec's worked encodings and one of each format (R39, R47, R48). -/

namespace Sys2Proof.Claims

/-- Settles O57: the kernel decodes each of the words. -/
theorem decodingIsRight : Obligations.DecodingIsRight := by
  unfold Obligations.DecodingIsRight
  decide

end Sys2Proof.Claims
end

section
/-! PROOF. The system instructions: ECALL, EBREAK and H.BRK, ERET, launch faults, and the system registers. -/

namespace Sys2Proof.Claims

open Sys2Proof Sys2Proof.Machine

/-- Settles O10: each of the three raises its trap, which a hart with nothing older uncompleted takes. -/
theorem systemCallsTrap : Obligations.SystemCallsTrap := by
  unfold Obligations.SystemCallsTrap
  intro s hin hc
  exact ⟨⟨_, rfl, traps_raise_trapOf .ecall 0 0 hin hc (by decide)⟩,
    ⟨_, rfl, traps_raise_trapOf .ebreak 0 0 hin hc (by decide)⟩,
    ⟨_, rfl, traps_raise_trapOf .hBrk 0 0 hin hc (by decide)⟩⟩

theorem traps_raise_illegalOf {s : State} (i : Instr) (hin : s.cpu.inflight = []) (hc : CanTrap s) :
    Traps s (s.raise i (illegalOf i)) 1 (BitVec.ofNat 64 (encode i)) (estatOf 0 0 15 (sideOf i) false i.len) 0 :=
  traps_raise_trapOf i (encode i) 0 hin hc (by decide)

theorem traps_raise_protectOf {s : State} (i : Instr) (sub : Nat) (hin : s.cpu.inflight = []) (hc : CanTrap s) :
    Traps s (s.raise i (protectOf i sub)) 9 (BitVec.ofNat 64 (encode i)) (estatOf sub 0 15 (sideOf i) false i.len) 0 :=
  traps_raise_trapOf i (encode i) sub hin hc (by decide)

theorem exec_eret_returns {s : State} (hin : s.cpu.inflight = []) (h : s.cpu.front.estat.getLsbD 0 = true) :
    exec .eret s = .next s.returnFromTrap := by
  change execEret s = _
  simp [execEret, bitAt_zero, h, State.whenOldest_nil s _ _ hin]

theorem exec_eret_illegal {s : State} (h : s.cpu.front.estat.getLsbD 0 = false) :
    exec .eret s = .next (s.raise .eret (illegalOf .eret)) := by
  change execEret s = _
  simp only [execEret, bitAt_zero, h, Bool.not_false, if_true]

/-- Settles O11: inside a handler ERET is the model's return from a trap, outside one it raises ILLEGAL_INSTRUCTION. -/
theorem eretReturns : Obligations.EretReturns := by
  unfold Obligations.EretReturns
  intro s hin
  refine ⟨fun h => ⟨_, exec_eret_returns hin h, rfl, rfl, rfl, rfl, rfl, fun _ => rfl⟩, fun hc => ?_⟩
  exact ⟨_, exec_eret_illegal hc.2, traps_raise_illegalOf .eret hin hc⟩

/-- The gangs of the machine after a launch fault (R188). -/
theorem State.launchFault_gangs (s : State) (t : TrapInfo) :
    (s.launchFault t).pkg.gangs = s.pkg.gangs.map (fun g =>
      if g.gid = s.cpu.id.gang && g.fault.isNone then
        { g with fault := some ([s.cpu.front.pc, BitVec.ofNat 64 (causeCode t.cause), t.eval, trapEstat t, BitVec.ofNat 64 t.ev],
          s.cpu.id.idx, s.cpu.id.copy) }
      else g) := rfl

/-- A launch fault stops every member of the gang (R188). -/
theorem State.launchFault_stops (s : State) (t : TrapInfo) :
    ∀ h ∈ (s.launchFault t).others, h.id.gang = s.cpu.id.gang → h.status = .stopped ∨ h.status = .absent := by
  intro h hh hg
  simp only [State.launchFault, List.mem_map] at hh
  obtain ⟨k, -, rfl⟩ := hh
  by_cases hk : k.id.gang = s.cpu.id.gang ∧ k.status ≠ .absent
  · simp [hk]
  · simp_all

/-- The fault record of a launch fault goes to each gang of the hart that holds none (R188). -/
theorem State.launchFault_records (s : State) (t : TrapInfo) (g : Gang) (hg : g ∈ (s.launchFault t).pkg.gangs)
    (hgid : g.gid = s.cpu.id.gang) (hnone : ∀ g' ∈ s.pkg.gangs, g'.gid = s.cpu.id.gang → g'.fault = none) :
    g.fault = some ([s.cpu.front.pc, BitVec.ofNat 64 (causeCode t.cause), t.eval, trapEstat t, BitVec.ofNat 64 t.ev],
      s.cpu.id.idx, s.cpu.id.copy) := by
  rw [State.launchFault_gangs, List.mem_map] at hg
  obtain ⟨g0, hg0, rfl⟩ := hg
  by_cases hid : g0.gid = s.cpu.id.gang
  · simp [hid, hnone g0 hg0 hid]
  · simp [hid] at hgid

/-- Settles O12: the trap is a launch fault, which stops the gang and fills its record. -/
theorem trapsInHandlersEndTheLaunch : Obligations.TrapsInHandlersEndTheLaunch := by
  unfold Obligations.TrapsInHandlersEndTheLaunch
  intro s hin hc
  have hend : s.cpu.front.estat.getLsbD 0 = true ∨ s.cpu.front.tvec = 0 := by
    by_contra hn
    simp only [not_or, Bool.not_eq_true] at hn
    exact hc ⟨hn.2, hn.1⟩
  have he : s.raise .ecall (trapOf .ecall .ecall 0 0) = s.launchFault (trapOf .ecall .ecall 0 0) := by
    rw [State.raise_nil s _ _ hin, State.takeTrap_ends s _ hend (by decide)]
  refine ⟨_, congrArg Host.Outcome.next he, rfl, State.launchFault_stops s _, fun g hg hgid hnone => ?_⟩
  have := State.launchFault_records s _ g hg hgid hnone
  rwa [trapEstat_trapOf] at this

/-- The numbers of R181's table. -/
def sysNumbers : List Nat :=
  [0x000, 0x001, 0x002, 0x003, 0x004, 0x005, 0x006, 0x007, 0x010, 0x011, 0x020, 0x021, 0x022, 0x023, 0x030, 0x031, 0x032, 0x033]

/-- What the table gives for a number: it is what the model reads, but for instret, which the model reads without the instructions
in flight (log 5). -/
def sysRead (s : State) (n : Nat) : W64 := if n = 0x022 then s.cpu.front.instret else s.sysGet n

theorem sysTable_eq_map (s : State) : sysTable s = sysNumbers.map (fun n => (n, sysRead s n)) := rfl

theorem mem_sysTable (s : State) (n : Nat) (v : W64) : (n, v) ∈ sysTable s ↔ n ∈ sysNumbers ∧ v = sysRead s n := by
  rw [sysTable_eq_map, List.mem_map]
  constructor
  · rintro ⟨k, hk, he⟩
    obtain ⟨rfl, rfl⟩ := Prod.mk.inj he
    exact ⟨hk, rfl⟩
  · rintro ⟨hn, rfl⟩
    exact ⟨n, hn, rfl⟩

theorem sysRead_of_ne (s : State) {n : Nat} (h : n ≠ 0x022) : sysRead s n = s.sysGet n := if_neg h

theorem sysRead_eq_sysGet {s : State} (hin : s.cpu.inflight = []) (n : Nat) : sysRead s n = s.sysGet n := by
  unfold sysRead
  split
  next h => subst h; simp [State.sysGet, Hart.retired, hin]
  next => rfl

theorem sysGet_of_not_mem (s : State) {n : Nat} (h : n ∉ sysNumbers) : s.sysGet n = 0 := by
  unfold State.sysGet
  split <;> first | rfl | exact absurd (by decide) h

/-- Settles O13: with nothing in flight the model reads what the table says, and 0 beside it. -/
theorem systemReads : Obligations.SystemReads := by
  unfold Obligations.SystemReads
  intro d n s hin
  obtain ⟨hx, hret⟩ := compute_spec s 4 d (s.sysGet n.toNat)
  refine ⟨_, rfl, hret, fun v hv => ?_, fun hno => ?_⟩
  · rw [((mem_sysTable s _ v).1 hv).2, sysRead_eq_sysGet hin]
    exact hx
  · have hout : n.toNat ∉ sysNumbers := fun h => hno _ ((mem_sysTable s _ _).2 ⟨h, rfl⟩)
    rw [← sysGet_of_not_mem s hout]
    exact hx

/-- `f'` is `f` but for writable system registers. -/
def OnlySys (f f' : Front) : Prop :=
  f' = { f with
    epc := f'.epc, eval := f'.eval, evstart := f'.evstart, tvec := f'.tvec, ehold0 := f'.ehold0, ehold1 := f'.ehold1
    rmode := f'.rmode, gshape := f'.gshape, esave := f'.esave, qslim := f'.qslim, acch := f'.acch }

/-- The same once the x registers, pc and the two counters have changed too. -/
theorem OnlySys.retired {f0 f g : Front} {xs : Vector W64 32} {pc n cyc : W64} (h : OnlySys f0 f)
    (hg : g = { f with x := xs, pc := pc, instret := n, cycle := cyc }) :
    g = { f0 with
      x := g.x, pc := pc, instret := n, cycle := g.cycle
      epc := g.epc, eval := g.eval, evstart := g.evstart, tvec := g.tvec, ehold0 := g.ehold0, ehold1 := g.ehold1
      rmode := g.rmode, gshape := g.gshape, esave := g.esave, qslim := g.qslim, acch := g.acch } := by
  subst hg
  conv_lhs => rw [h]

theorem truth_bitAt_zero (v : W64) : truth (bitAt v.toNat 0) = v &&& 1 := by
  rw [bitAt_zero]
  ext i hi
  rcases Nat.eq_zero_or_pos i with rfl | hpos
  · cases h : v.getLsbD 0 <;> simp_all [truth]
  · cases h : v.getLsbD 0 <;> simp [truth, BitVec.getElem_one, show i ≠ 0 by omega]

/-- A write that is accepted changes only system registers, and every other number reads as before. -/
theorem sysPut_frame {s : State} {n : Nat} {v : W64} {f : Front} (h : s.cpu.front.sysPut n v = some f) :
    OnlySys s.cpu.front f ∧ ∀ k, k ≠ n → (s.setFront f).sysGet k = s.sysGet k := by
  unfold Front.sysPut at h
  split at h
  all_goals first | cases h | (split at h <;> cases h)
  all_goals
    refine ⟨rfl, fun k hk => ?_⟩
    unfold State.sysGet
    split <;> first | exact absurd rfl hk | rfl

theorem setWidth_setWidth_of_lt {v : W64} {n : Nat} (h : v.toNat < 2 ^ n) : (v.setWidth n).setWidth 64 = v := by
  apply BitVec.eq_of_toNat_eq
  rw [BitVec.toNat_setWidth, BitVec.toNat_setWidth, Nat.mod_eq_of_lt h, Nat.mod_eq_of_lt v.isLt]

/-- A value that a writable register accepts is written, and the register reads back what it keeps of it. -/
theorem sysPut_of_writable {n : Nat} {pv : Bool} {ok : W64 → Prop} {kept : W64 → W64} (hw : (n, pv, ok, kept) ∈ sysWritable)
    (s : State) {v : W64} (hok : ok v) : ∃ f, s.cpu.front.sysPut n v = some f ∧ (s.setFront f).sysGet n = kept v := by
  simp only [sysWritable, List.mem_cons, Prod.mk.injEq, List.not_mem_nil, or_false] at hw
  rcases hw with h | h | h | h | h | h | h | h | h | h | h <;> obtain ⟨rfl, rfl, rfl, rfl⟩ := h
  case inr.inr.inl => exact ⟨_, if_pos hok, BitVec.ofNat_toNat _ _⟩
  case inr.inr.inr.inr.inr.inr.inl =>
    exact ⟨_, if_pos hok, setWidth_setWidth_of_lt (n := 3) (Nat.lt_trans hok (by decide))⟩
  case inr.inr.inr.inr.inr.inr.inr.inl => exact ⟨_, rfl, truth_bitAt_zero v⟩
  case inr.inr.inr.inr.inr.inr.inr.inr.inr.inl => exact ⟨_, if_pos hok, setWidth_setWidth_of_lt hok⟩
  case inr.inr.inr.inr.inr.inr.inr.inr.inr.inr => exact ⟨_, if_pos hok, rfl⟩
  all_goals exact ⟨_, rfl, rfl⟩

theorem sysPut_of_refused {n : Nat} {pv : Bool} {ok : W64 → Prop} {kept : W64 → W64} (hw : (n, pv, ok, kept) ∈ sysWritable)
    (f : Front) {v : W64} (hbad : ¬ok v) : f.sysPut n v = none := by
  simp only [sysWritable, List.mem_cons, Prod.mk.injEq, List.not_mem_nil, or_false] at hw
  rcases hw with h | h | h | h | h | h | h | h | h | h | h <;> obtain ⟨rfl, rfl, rfl, rfl⟩ := h
  case inr.inr.inl | inr.inr.inr.inr.inr.inr.inl | inr.inr.inr.inr.inr.inr.inr.inr.inr.inl
    | inr.inr.inr.inr.inr.inr.inr.inr.inr.inr => exact if_neg hbad
  all_goals exact absurd trivial hbad

/-- The writable registers are not read-only, and the privileged ones among them are those that ask for the attribute. -/
theorem checks_of_writable {n : Nat} {pv : Bool} {ok : W64 → Prop} {kept : W64 → W64} (hw : (n, pv, ok, kept) ∈ sysWritable) :
    sysReadOnly n = false ∧ sysPrivileged n = pv := by
  simp only [sysWritable, List.mem_cons, Prod.mk.injEq, List.not_mem_nil, or_false] at hw
  rcases hw with h | h | h | h | h | h | h | h | h | h | h <;> obtain ⟨rfl, rfl, -, -⟩ := h <;> exact ⟨rfl, rfl⟩

theorem exec_of_sysForm {i : Instr} {d a : Reg} {n : BitVec 11} {g : W64 → W64 → W64} (h : sysForm i = some (d, a, n, g))
    (s : State) : exec i s = .next (s.sysWrite i d a n g) ∧ sideOf i = 0 ∧ i.len = 4 := by
  unfold sysForm at h
  split at h <;> cases h
  all_goals exact ⟨rfl, rfl, rfl⟩

/-- An accepted write in a hart that may make it (R181). -/
theorem sysWrite_of_some {s : State} {i : Instr} {d a : Reg} {n : BitVec 11} {g : W64 → W64 → W64} {f : Front}
    (hro : sysReadOnly n.toNat = false) (hpv : sysPrivileged n.toNat = true → s.cpu.id.priv = true)
    (hput : s.cpu.front.sysPut n.toNat (g (s.sysGet n.toNat) (s.getX a)) = some f) :
    s.sysWrite i d a n g = (s.setFront f).compute i.len d (s.sysGet n.toNat) := by
  have hp : (sysPrivileged n.toNat && !s.cpu.id.priv) = false := by cases h : sysPrivileged n.toNat <;> simp_all
  simp [State.sysWrite, hro, hp, hput]

theorem sysWrite_of_none {s : State} {i : Instr} {d a : Reg} {n : BitVec 11} {g : W64 → W64 → W64}
    (hro : sysReadOnly n.toNat = false) (hpv : sysPrivileged n.toNat = true → s.cpu.id.priv = true)
    (hput : s.cpu.front.sysPut n.toNat (g (s.sysGet n.toNat) (s.getX a)) = none) :
    s.sysWrite i d a n g = s.raise i (illegalOf i) := by
  have hp : (sysPrivileged n.toNat && !s.cpu.id.priv) = false := by cases h : sysPrivileged n.toNat <;> simp_all
  simp [State.sysWrite, hro, hp, hput]

theorem sysWrite_of_readOnly (s : State) (i : Instr) (d a : Reg) {n : BitVec 11} (g : W64 → W64 → W64)
    (h : sysReadOnly n.toNat = true) : s.sysWrite i d a n g = s.raise i (protectOf i 1) := if_pos h

theorem sysWrite_of_unprivileged {s : State} (i : Instr) (d a : Reg) {n : BitVec 11} (g : W64 → W64 → W64)
    (hro : sysReadOnly n.toNat = false) (h : sysPrivileged n.toNat = true) (hp : s.cpu.id.priv = false) :
    s.sysWrite i d a n g = s.raise i (protectOf i 2) := by
  simp [State.sysWrite, hro, h, hp]

/-- An instruction that writes x[d] and retires changes no system register but the two counters. -/
theorem sysGet_compute (s : State) (len : Nat) (d : Reg) (v : W64) {k : Nat} (hcyc : k ≠ 0x021) (hret : k ≠ 0x022) :
    (s.compute len d v).sysGet k = s.sysGet k := by
  have hx : s.setX d v = s.setFront { s.cpu.front with x := (s.cpu.front.setX d v).x } :=
    congrArg s.setFront (Front.setX_eq s.cpu.front d v)
  rw [compute_eq_retireTo, hx]
  unfold State.sysGet
  split <;> first | exact absurd rfl hcyc | exact absurd rfl hret | rfl

/-- What a completing write of a system register leaves (R190). -/
theorem writesSys_compute {s : State} {f : Front} {n : Nat} (d : Reg) (old : W64) (hn : n ∈ sysNumbers)
    (hcyc : n ≠ 0x021) (hret : n ≠ 0x022) (honly : OnlySys s.cpu.front f)
    (hother : ∀ k, k ≠ n → (s.setFront f).sysGet k = s.sysGet k) :
    let t := (s.setFront f).compute 4 d old
    WritesX s t d old ∧ WritesSys s t n ((s.setFront f).sysGet n) := by
  intro t
  obtain ⟨⟨hd, hx⟩, hfront, hhart, hrest⟩ := compute_spec (s.setFront f) 4 d old
  have hget : ∀ r, f.getX r = s.getX r := fun r => by rw [honly]; rfl
  have hread : ∀ k, k ≠ 0x021 → k ≠ 0x022 → sysRead t k = (s.setFront f).sysGet k := fun k h1 h2 => by
    rw [sysRead_of_ne t h2]; exact sysGet_compute _ 4 d old h1 h2
  refine ⟨⟨hd, fun r hr => (hx r hr).trans (hget r)⟩, ?_, ?_, ?_, hhart, hrest⟩
  · change t.cpu.front = _
    have hpc : f.pc = s.cpu.front.pc := by rw [honly]
    have hin : f.instret = s.cpu.front.instret := by rw [honly]
    rw [← hpc, ← hin]
    exact honly.retired hfront
  · exact (mem_sysTable t n _).2 ⟨hn, (hread n hcyc hret).symm⟩
  · rintro ⟨k, v⟩ he hk hk1 hk2
    obtain ⟨hmem, rfl⟩ := (mem_sysTable s k v).1 he
    exact (mem_sysTable t k _).2 ⟨hmem, by rw [hread k hk1 hk2, hother k hk, sysRead_of_ne s hk2]⟩

/-- Settles O14: the three clauses are the three ways a system write goes: accepted, refused for its register, refused for its value. -/
theorem systemWrites : Obligations.SystemWrites := by
  unfold Obligations.SystemWrites
  refine ⟨fun i s d a n g pv ok kept old hi hw hpv hold hok => ?_, fun i s d a n g hi hin hc => ⟨fun hro => ?_, fun hp hpriv => ?_⟩,
    fun i s d a n g pv ok kept old hi hw hpv hold hin hc hbad => ?_⟩
  · obtain ⟨hexec, -, hlen⟩ := exec_of_sysForm hi s
    obtain ⟨hro, rfl⟩ := checks_of_writable hw
    have hne : n.toNat ≠ 0x021 ∧ n.toNat ≠ 0x022 := by
      constructor <;> intro h <;> rw [h] at hro <;> cases hro
    obtain ⟨hn, rfl⟩ := (mem_sysTable s _ _).1 hold
    rw [sysRead_of_ne s hne.2] at hok ⊢
    obtain ⟨f, hput, hback⟩ := sysPut_of_writable hw s hok
    obtain ⟨honly, hother⟩ := sysPut_frame hput
    have hspec := writesSys_compute d (s.sysGet n.toNat) hn hne.1 hne.2 honly hother
    rw [hback] at hspec
    rw [hexec, sysWrite_of_some hro hpv hput, hlen]
    exact ⟨_, rfl, hspec⟩
  · obtain ⟨hexec, hside, hlen⟩ := exec_of_sysForm hi s
    have ht := traps_raise_protectOf i 1 hin hc
    rw [hside, hlen] at ht
    rw [hexec, sysWrite_of_readOnly s i d a g (List.contains_iff_mem.2 hro)]
    exact ⟨_, rfl, ht⟩
  · obtain ⟨hexec, hside, hlen⟩ := exec_of_sysForm hi s
    have ht := traps_raise_protectOf i 2 hin hc
    rw [hside, hlen] at ht
    have hro : sysReadOnly n.toNat = false := by
      simp only [List.mem_cons, List.not_mem_nil, or_false] at hp
      rcases hp with h | h | h <;> rw [h] <;> rfl
    rw [hexec, sysWrite_of_unprivileged i d a g hro (List.contains_iff_mem.2 hp) hpriv]
    exact ⟨_, rfl, ht⟩
  · obtain ⟨hexec, hside, hlen⟩ := exec_of_sysForm hi s
    have ht := traps_raise_illegalOf i hin hc
    rw [hside, hlen] at ht
    obtain ⟨hro, rfl⟩ := checks_of_writable hw
    have hne : n.toNat ≠ 0x022 := fun h => by rw [h] at hro; cases hro
    obtain ⟨-, rfl⟩ := (mem_sysTable s _ _).1 hold
    rw [sysRead_of_ne s hne] at hbad
    rw [hexec, sysWrite_of_none hro hpv (sysPut_of_refused hw _ hbad)]
    exact ⟨_, rfl, ht⟩

end Sys2Proof.Claims
end

section
/-! PROOF. Scalar access to memory: what orders accesses changes nothing else, and what loads, stores and atomics leave. -/

namespace Sys2Proof.Machine

/-- Of the machine only what orders the strip's accesses, what the L2s hold of a line and the number of free values have changed
(R206, R215). -/
def Orders (s u : State) : Prop :=
  ∃ w r l n, u = { s with
    cpu := { s.cpu with back := { s.cpu.back with strip := w, rels := r } }, pkg := { s.pkg with l2 := l }, tick := n }

theorem Orders.refl (s : State) : Orders s s := ⟨_, _, _, _, rfl⟩

theorem Orders.trans {s u v : State} (h : Orders s u) (h' : Orders u v) : Orders s v := by
  obtain ⟨_, _, _, _, rfl⟩ := h
  obtain ⟨_, _, _, _, rfl⟩ := h'
  exact ⟨_, _, _, _, rfl⟩

theorem orders_readLines (s : State) (d : Nat) (keys : List Nat) : Orders s (s.readLines d keys) := ⟨_, _, _, _, rfl⟩

theorem orders_settleStrip (s : State) (pas : List Nat) : Orders s (s.settleStrip pas) := ⟨_, _, _, _, rfl⟩

theorem orders_settleAll (s : State) (p : StripWrite → Bool) : Orders s (s.settleAll p) := ⟨_, _, _, _, rfl⟩

theorem orders_orderBehind (s : State) (no : Nat) : Orders s (s.orderBehind no) := ⟨_, _, _, _, rfl⟩

theorem orders_noteRelease (s : State) (k : RelKind) (pas : List Nat) : Orders s (s.noteRelease k pas) := by
  unfold State.noteRelease
  dsimp only
  split
  · exact Orders.refl s
  · exact ⟨_, _, _, _, rfl⟩

theorem orders_acquire (s : State) (reads : Release → Bool) : Orders s (s.acquire reads) := by
  unfold State.acquire
  dsimp only
  split
  · exact orders_settleAll s _
  · exact ⟨_, _, _, _, rfl⟩

theorem orders_acquireAt (s : State) (pas : List Nat) : Orders s (s.acquireAt pas) := orders_acquire s _

theorem orders_amoOrder (s : State) (o : AmoOps) (pas : List Nat) : Orders s (s.amoOrder o pas) := by
  unfold State.amoOrder
  by_cases haq : o.aq = true <;> by_cases hrl : o.rl = true
  · simpa [haq, hrl] using (orders_orderBehind s _).trans (orders_noteRelease _ _ _)
  · simpa [haq, hrl] using orders_acquireAt s pas
  · simpa [haq, hrl] using orders_noteRelease s _ _
  · simpa [haq, hrl] using Orders.refl s

/-- As `Orders`, and besides memory, the write digest, and what orders the accesses of the other harts. -/
def Touches (s u : State) : Prop :=
  ∃ (w : List StripWrite) (r : List Release) (d : List (Nat × List Byte)) (f : Hart → List StripWrite) (l : SMap L2Line)
    (m : List Host.Cell) (n : Nat), u = { s with
    cpu := { s.cpu with back := { s.cpu.back with strip := w, rels := r }, digest := d }
    others := s.others.map (fun h : Hart => { h with back := { h.back with strip := f h } })
    pkg := { s.pkg with l2 := l }, mem := m, tick := n }

theorem Orders.touches {s u : State} (h : Orders s u) : Touches s u := by
  obtain ⟨w, r, l, n, rfl⟩ := h
  refine ⟨w, r, s.cpu.digest, fun h => h.back.strip, l, s.mem, n, ?_⟩
  simp

theorem Touches.trans {s u v : State} (h : Touches s u) (h' : Touches u v) : Touches s v := by
  obtain ⟨_, _, _, _, _, _, _, rfl⟩ := h
  obtain ⟨_, _, _, g, _, _, _, rfl⟩ := h'
  simp only [List.map_map]
  exact ⟨_, _, _, _, _, _, _, rfl⟩

theorem Touches.key {s u : State} (h : Touches s u) : u.key = s.key := by
  obtain ⟨_, _, _, _, _, _, _, rfl⟩ := h
  exact State.key_congr rfl

theorem Touches.drops {s u : State} (h : Touches s u) : u.drops = s.drops := by
  obtain ⟨_, _, _, _, _, _, _, rfl⟩ := h
  exact State.drops_congr rfl rfl rfl

theorem Touches.isLocal {s u : State} (h : Touches s u) : u.isLocal = s.isLocal := by
  obtain ⟨_, _, _, _, _, _, _, rfl⟩ := h
  exact State.isLocal_congr rfl

theorem touches_digest (s : State) (d : List (Nat × List Byte)) : Touches s { s with cpu := { s.cpu with digest := d } } :=
  ⟨s.cpu.back.strip, s.cpu.back.rels, d, fun h => h.back.strip, s.pkg.l2, s.mem, s.tick, by simp⟩

theorem touches_noteWrite (s : State) (va : Nat) (l : List Byte) : Touches s (s.noteWrite va l) := by
  unfold State.noteWrite State.noteWriteAt
  split
  · exact touches_digest s _
  · exact (Orders.refl s).touches

/-- The bytes of a write that reach memory, by memory key: those that their home package drops do not (R208). -/
def State.kept (s : State) (pas : List Nat) (l : List Byte) : List (Nat × Byte) :=
  ((pas.zip l).filter (fun e => !s.drops e.1)).map (fun e => (s.key e.1, e.2))

/-- A write to memory writes the bytes that are kept, and changes beside memory only what the L2s hold (R206, R208). -/
theorem State.physWrites_kept (s : State) (w : Agent) (d : Nat) (pas : List Nat) (l : List Byte)
    (h : ∀ pa ∈ pas, ¬(s.isLocal pa = true ∧ (regionOf (pa % pkgSpan)).isMem = false)) :
    ∃ l2, s.physWrites w d pas l = { s with
      mem := (s.kept pas l).foldl (fun m e => writeCell m e.1 e.2) s.mem, pkg := { s.pkg with l2 := l2 } } := by
  induction pas generalizing s l with
  | nil => exact ⟨s.pkg.l2, by simp [State.physWrites, State.kept]⟩
  | cons pa ps ih =>
    cases l with
    | nil => exact ⟨s.pkg.l2, by simp [State.physWrites, State.kept]⟩
    | cons b bs =>
      have hreg : (s.isLocal pa && !(regionOf (pa % pkgSpan)).isMem) = false := by
        have := h pa (by simp)
        cases hl : s.isLocal pa <;> simp_all
      have htail : ∀ q ∈ ps, ¬(s.isLocal q = true ∧ (regionOf (q % pkgSpan)).isMem = false) := fun q hq => h q (by simp [hq])
      unfold State.physWrites
      rw [if_neg (by simp [hreg])]
      split
      next hd =>
        have hk : s.kept (pa :: ps) (b :: bs) = s.kept ps bs := by simp [State.kept, hd]
        rw [hk]
        exact ih s bs htail
      next hd =>
        have hk : s.kept (pa :: ps) (b :: bs) = (s.key pa, b) :: s.kept ps bs := by simp [State.kept, hd]
        obtain ⟨l2, he⟩ := ih (s.putBytes d (s.key pa) [b]) bs htail
        have hkept : (s.putBytes d (s.key pa) [b]).kept ps bs = s.kept ps bs := rfl
        rw [he, hk, hkept]
        exact ⟨l2, rfl⟩

theorem State.agent_isHart (s : State) : (decide (s.agent = .hart) || decide (s.agent = .privHart)) = true := by
  unfold State.agent; split <;> rfl

/-- A hart's write to memory. -/
theorem State.physWriteList_kept (s : State) (d : Nat) (pas : List Nat) (l : List Byte)
    (h : ∀ pa ∈ pas, ¬(s.isLocal pa = true ∧ (regionOf (pa % pkgSpan)).isMem = false)) :
    Touches s (s.physWriteList s.agent d pas l)
      ∧ (s.physWriteList s.agent d pas l).mem = (s.kept pas l).foldl (fun m e => writeCell m e.1 e.2) s.mem := by
  unfold State.physWriteList
  rw [State.agent_isHart]
  obtain ⟨l2, he⟩ := (s.meetStrips true (pas.map s.key)).physWrites_kept s.agent d pas l h
  have hkept : (s.meetStrips true (pas.map s.key)).kept pas l = s.kept pas l := rfl
  rw [hkept] at he
  rw [he]
  exact ⟨⟨_, _, _, fun h => (h.back.meet .other 0 _).strip, _, _, _, rfl⟩, rfl⟩

end Sys2Proof.Machine

namespace Sys2Proof.Claims

open Sys2Proof Sys2Proof.Machine

/-- What reads back after a list of byte writes: the last one at the address. -/
theorem readCell_foldl_writeCell (l : List (Nat × Byte)) (m : List Host.Cell) (a : Nat) :
    readCell (l.foldl (fun m e => writeCell m e.1 e.2) m) a
      = ((l.reverse.find? (fun e => e.1 == a)).map (fun e => e.2)).getD (readCell m a) := by
  induction l generalizing m with
  | nil => rfl
  | cons e t ih =>
    rw [List.foldl_cons, ih, List.reverse_cons, List.find?_append, readCell_writeCell]
    cases t.reverse.find? (fun e => e.1 == a) with
    | some x => rfl
    | none =>
      by_cases he : e.1 = a
      · simp [he]
      · simp [he, Ne.symm he]

theorem storesAt_of_mem {s t : State} {pas : List Nat} {l : List Byte}
    (h : t.mem = (s.kept pas l).foldl (fun m e => writeCell m e.1 e.2) s.mem) : StoresAt s t pas l := by
  intro a
  rw [h, readCell_foldl_writeCell]
  rfl

/-- An instruction that retires behind what only touches memory and its order. -/
theorem retiresStore_of_touches {s u t : State} {len : Nat} (h : Touches s u)
    (hr : RetiresAt u t (u.cpu.front.pc + BitVec.ofNat 64 len)) : RetiresStore s t len := by
  obtain ⟨w, r, d, f, l, m, n, rfl⟩ := h
  obtain ⟨hfront, hhart, hothers, hpkg, hagenda, -⟩ := hr
  unfold SameHart at hhart
  refine ⟨hfront, ?_, ?_, ⟨f, hothers⟩, ?_, hagenda⟩
  · conv_lhs => rw [hhart]
    rw [show t.cpu.back = _ from congrArg Hart.back hhart, show t.cpu.digest = _ from congrArg Hart.digest hhart]
  · rw [SameBack, show t.cpu.back = _ from congrArg Hart.back hhart]
  · rw [SamePkg, hpkg]

theorem retiresLoad_of_orders {s u t : State} {len : Nat} (h : Orders s u)
    (hr : RetiresAt u t (u.cpu.front.pc + BitVec.ofNat 64 len)) : RetiresLoad s t len := by
  refine ⟨retiresStore_of_touches h.touches hr, ?_⟩
  obtain ⟨-, hhart, hothers, -, -, hmem⟩ := hr
  obtain ⟨w, r, l, n, rfl⟩ := h
  have hcpu : t.cpu = _ := hhart
  have hdigest := congrArg Hart.digest hcpu
  exact ⟨hdigest, hothers, hmem⟩

/-- The steps that a load's ordering may add behind its read only order accesses. -/
def OrdersAfter (after : List Nat → State → State) : Prop := ∀ pas u, Orders u (after pas u)

theorem getX_of_orders {s u : State} (h : Orders s u) (r : Reg) : u.getX r = s.getX r := by
  obtain ⟨_, _, _, _, rfl⟩ := h
  rfl

theorem getX_of_touches {s u : State} (h : Touches s u) (r : Reg) : u.getX r = s.getX r := by
  obtain ⟨_, _, _, _, _, _, _, rfl⟩ := h
  rfl

theorem pc_of_touches {s u : State} (h : Touches s u) : u.cpu.front.pc = s.cpu.front.pc := by
  obtain ⟨_, _, _, _, _, _, _, rfl⟩ := h
  rfl

theorem loadTo_eq_loadThen (s : State) (i : Instr) (d : Reg) (ea n : Nat) (e f : Nat → W64) (h : e = f) :
    (.next (s.loadTo i d ea n e) : Out) = .next (s.loadThen i d ea n f (fun _ s => s)) := by rw [h]; rfl

/-- What the model runs for each scalar load. -/
theorem exec_of_loadForm {i : Instr} {s : State} {d : Reg} {ea n : Nat} {ext : Nat → W64}
    (h : loadForm i s = some (d, ea, n, ext)) (hin : s.cpu.inflight = []) (hal : alignedFor i ea n) :
    ∃ after, OrdersAfter after ∧ exec i s = .next (s.loadThen i d ea n ext after) := by
  have hplain : OrdersAfter (fun _ u => u) := fun _ u => Orders.refl u
  unfold loadForm at h
  split at h <;> cases h
  case h_10 o =>
    refine ⟨fun pas s => s.acquireAt pas, fun pas u => orders_acquireAt u pas, ?_⟩
    have hz : s.getU o.a % amoSize o = 0 := hal
    have hn : ¬(s.getU o.a % amoSize o != 0) = true := by simp [hz]
    have hext : amoOut o = if o.dbl then BitVec.ofNat 64 else fun v => (BitVec.ofNat 32 v).signExtend 64 := by
      funext v
      unfold amoOut
      split <;> simp [sext64_eq]
    change Host.Outcome.next (s.inOrder _ _) = _
    rw [State.inOrder_nil s _ _ hin, if_neg hn, hext]
    rfl
  case h_1 => exact ⟨_, hplain, loadTo_eq_loadThen _ _ _ _ _ _ _ (funext (sext64_eq 8))⟩
  case h_2 => exact ⟨_, hplain, loadTo_eq_loadThen _ _ _ _ _ _ _ (funext (sext64_eq 16))⟩
  case h_3 | h_9 => exact ⟨_, hplain, loadTo_eq_loadThen _ _ _ _ _ _ _ (funext (sext64_eq 32))⟩
  all_goals exact ⟨_, hplain, loadTo_eq_loadThen _ _ _ _ _ _ _ rfl⟩

/-- A scalar load of readable bytes. -/
theorem loadThen_of_ok {s : State} {i : Instr} {d : Reg} {ea n : Nat} {ext : Nat → W64} {after : List Nat → State → State}
    {pas : List Nat} (hin : s.cpu.inflight = []) (h : s.accessBytes s.cpu.ctx .load false (vaRange ea n) = .ok pas) :
    s.loadThen i d ea n ext after = (after pas ((s.readLines s.cpu.id.die (pas.map s.key)).settleStrip pas)).compute i.len d
      (ext (leNat (pas.map (s.physByte s.cpu.id.die)))) := by
  unfold State.loadThen
  rw [State.inOrder_nil s _ _ hin]
  simp [h, (State.oldest_iff s).2 hin]

theorem loadThen_of_error {s : State} {i : Instr} {d : Reg} {ea n : Nat} {ext : Nat → W64} {after : List Nat → State → State}
    {f : AccFault} (hin : s.cpu.inflight = []) (h : s.accessBytes s.cpu.ctx .load false (vaRange ea n) = .error f) :
    s.loadThen i d ea n ext after = s.raise i (accTrap i f 15 false 0) := by
  unfold State.loadThen
  rw [State.inOrder_nil s _ _ hin]
  simp [h]

/-- Settles O5: behind what orders the access, a load is the writing of its bytes' value to x[d]. -/
theorem loadResults : Obligations.LoadResults := by
  unfold Obligations.LoadResults
  intro i s d ea n ext l hi hin hal hl
  obtain ⟨after, hafter, hexec⟩ := exec_of_loadForm hi hin hal
  obtain ⟨pas, hpas, rfl⟩ := (s.loadBytes_ok ea n l).1 hl
  rw [hexec, loadThen_of_ok hin hpas]
  have ho : Orders s (after pas ((s.readLines s.cpu.id.die (pas.map s.key)).settleStrip pas)) :=
    ((orders_readLines s _ _).trans (orders_settleStrip _ _)).trans (hafter _ _)
  obtain ⟨⟨hd, hx⟩, hret⟩ := compute_spec (after pas ((s.readLines s.cpu.id.die (pas.map s.key)).settleStrip pas)) i.len d
    (ext (leNat (pas.map (s.physByte s.cpu.id.die))))
  exact ⟨_, rfl, ⟨hd, fun r hr => (hx r hr).trans (getX_of_orders ho r)⟩, retiresLoad_of_orders ho hret⟩

/-- What the model runs for each scalar store but STL. -/
theorem exec_of_storeForm {i : Instr} {s : State} {b : Reg} {ea n : Nat} (h : storeForm i s = some (b, ea, n))
    (hi : ∀ o, i ≠ .stl o) : exec i s = .next (s.storeFrom i b ea n) := by
  unfold storeForm at h
  split at h <;> cases h
  case h_7 o => exact absurd rfl (hi o)
  all_goals rfl

theorem storeFrom_of_ok {s : State} {i : Instr} {b : Reg} {ea n : Nat} {pas : List Nat} (hin : s.cpu.inflight = [])
    (h : s.accessBytes s.cpu.ctx .store false (vaRange ea n) = .ok pas) :
    s.storeFrom i b ea n = (s.performWrite ea pas (leBytes n (s.getU b))).retire i.len := by
  unfold State.storeFrom State.storeBytes
  rw [State.whenOldest_nil s _ _ hin]
  simp [h]

theorem storeFrom_of_error {s : State} {i : Instr} {b : Reg} {ea n : Nat} {f : AccFault} (hin : s.cpu.inflight = [])
    (h : s.accessBytes s.cpu.ctx .store false (vaRange ea n) = .error f) :
    s.storeFrom i b ea n = s.raise i (accTrap i f 15 false 0) := by
  unfold State.storeFrom State.storeBytes
  rw [State.whenOldest_nil s _ _ hin]
  simp [h]

theorem amoChecked_of_aligned {s : State} (i : Instr) {o : AmoOps} (body : Nat → State) (hdup : s.inDup = false)
    (hal : s.getU o.a % amoSize o = 0) : s.amoChecked i o body = body (s.getU o.a) := by
  simp [State.amoChecked, hdup, hal]

theorem amoChecked_of_misaligned {s : State} (i : Instr) {o : AmoOps} (body : Nat → State) (hdup : s.inDup = false)
    (hal : s.getU o.a % amoSize o ≠ 0) :
    s.amoChecked i o body = s.raise i (trapOf i .misalignedAmo (s.getU o.a) 0) := by
  simp [State.amoChecked, hdup, hal]

/-- STL of writable bytes in a hart of no duplicated launch. -/
theorem exec_stl {s : State} {o : AmoOps} {pas : List Nat} (hin : s.cpu.inflight = []) (hdup : s.inDup = false)
    (hal : s.getU o.a % amoSize o = 0)
    (h : s.accessBytes s.cpu.ctx .store true (vaRange (s.getU o.a) (amoSize o)) = .ok pas) :
    exec (.stl o) s = .next (((s.performWrite (s.getU o.a) pas (leBytes (amoSize o) (s.getU o.b))).noteRelease .write pas).retire 4) := by
  change Host.Outcome.next (s.whenOldest _ _) = _
  rw [State.whenOldest_nil s _ _ hin, amoChecked_of_aligned _ _ hdup hal]
  simp [h]

/-- A scalar write to memory: only memory and its order are touched, and what is written are the bytes that are kept, none by copy 1 of
a duplicated launch (R288). -/
theorem performWrite_kept {s : State} (va : Nat) {pas : List Nat} (l : List Byte) (hmem : AllMemory s pas) :
    Touches s (s.performWrite va pas l)
      ∧ (if s.cpu.id.copy = 1 then SameMem s (s.performWrite va pas l) else StoresAt s (s.performWrite va pas l) pas l) := by
  have h1 := touches_noteWrite s va l
  have hcopy : (s.noteWrite va l).secondCopy = decide (s.cpu.id.copy = 1) := by
    obtain ⟨_, _, _, _, _, _, _, he⟩ := h1
    rw [he]
    rfl
  unfold State.performWrite
  dsimp only
  rw [hcopy]
  by_cases hc : s.cpu.id.copy = 1
  · rw [if_pos (by simp [hc]), if_pos hc]
    exact ⟨h1, fun a => by rw [State.noteWrite_mem]⟩
  · rw [if_neg (by simp [hc]), if_neg hc]
    have h2 := h1.trans (orders_settleStrip (s.noteWrite va l) pas).touches
    have hagent : (s.noteWrite va l).agent = ((s.noteWrite va l).settleStrip pas).agent := rfl
    rw [hagent]
    obtain ⟨h3, hm⟩ := ((s.noteWrite va l).settleStrip pas).physWriteList_kept (s.noteWrite va l).cpu.id.die pas l
      (by rw [h2.isLocal]; exact hmem)
    refine ⟨h2.trans h3, storesAt_of_mem (hm.trans ?_)⟩
    rw [State.kept, h2.key, h2.drops, State.settleStrip_mem, State.noteWrite_mem]
    rfl

theorem length_pas {s : State} {k : Access} {atomic : Bool} {ea n : Nat} {pas : List Nat}
    (h : s.accessBytes s.cpu.ctx k atomic (vaRange ea n) = .ok pas) : pas.length = n := by
  simpa using State.accessBytes_length s _ k atomic _ pas h

/-- Settles O6: a store is the write of the low bytes of x[b]; STL is that and the noting of its release. -/
theorem storeResults : Obligations.StoreResults := by
  unfold Obligations.StoreResults
  intro i s b ea n pas hi hin hal hdup hacc hmem
  obtain ⟨htouch, hwrite⟩ := performWrite_kept ea (leBytes n (s.getU b)) hmem
  by_cases hstl : ∃ o, i = .stl o
  · obtain ⟨o, rfl⟩ := hstl
    cases hi
    have ht := htouch.trans (orders_noteRelease _ .write pas).touches
    have hmem' : (((s.performWrite (s.getU o.a) pas (leBytes (amoSize o) (s.getU o.b))).noteRelease .write pas).retire 4).mem
        = (s.performWrite (s.getU o.a) pas (leBytes (amoSize o) (s.getU o.b))).mem := by
      obtain ⟨_, _, _, _, he⟩ := orders_noteRelease (s.performWrite (s.getU o.a) pas (leBytes (amoSize o) (s.getU o.b))) .write pas
      rw [he]
      rfl
    rw [exec_stl hin (hdup o rfl) hal (hacc true)]
    refine ⟨_, rfl, fun r => getX_of_touches ht r, retiresStore_of_touches ht (retiresAt_retireTo _ _), ?_⟩
    unfold SameMem StoresAt at hwrite ⊢
    rw [hmem']
    exact hwrite
  · rw [exec_of_storeForm hi (fun o ho => hstl ⟨o, ho⟩), storeFrom_of_ok hin (hacc false)]
    exact ⟨_, rfl, fun r => getX_of_touches htouch r, retiresStore_of_touches htouch (retiresAt_retireTo _ _), hwrite⟩

theorem trapEstat_accTrap (i : Instr) (f : AccFault) :
    trapEstat (accTrap i f 15 false 0) = estatOf f.sub f.kind 15 (sideOf i) false i.len := by
  unfold trapEstat accTrap estatOf
  rw [show (if i.len = 2 then 0 else if i.len = 4 then 1 else 2) = ilenCode i.len from rfl]
  simp [Nat.shiftLeft_eq, Nat.mul_comm]

theorem traps_raise_accTrap {s : State} (i : Instr) {f : AccFault} (hin : s.cpu.inflight = []) (hc : CanTrap s)
    (hd : f.cause ≠ .dataError) :
    Traps s (s.raise i (accTrap i f 15 false 0)) (causeCode f.cause) (BitVec.ofNat 64 f.addr)
      (estatOf f.sub f.kind 15 (sideOf i) false i.len) 0 := by
  rw [State.raise_nil s i _ hin, ← trapEstat_accTrap]
  exact traps_takeTrap (accTrap i f 15 false 0) hc hd

theorem sideOf_of_loadForm {i : Instr} {s : State} {e : Reg × Nat × Nat × (Nat → W64)} (h : loadForm i s = some e) :
    sideOf i = 1 := by
  unfold loadForm at h
  split at h <;> cases h <;> rfl

theorem sideOf_of_storeForm {i : Instr} {s : State} {e : Reg × Nat × Nat} (h : storeForm i s = some e) : sideOf i = 1 := by
  unfold storeForm at h
  split at h <;> cases h <;> rfl

/-- Settles O8: a load and a store raise the fault of the first byte that is refused. -/
theorem accessFaultsTrap : Obligations.AccessFaultsTrap := by
  unfold Obligations.AccessFaultsTrap
  intro i s ea n f k hform hstl hin hal hc hd hf
  have ht := traps_raise_accTrap i hin hc hd
  rcases hform with ⟨d, ext, hi, rfl⟩ | ⟨b, hi, rfl⟩
  · obtain ⟨after, -, hexec⟩ := exec_of_loadForm hi hin hal
    rw [hexec, loadThen_of_error hin hf, ← sideOf_of_loadForm hi]
    exact ⟨_, rfl, ht⟩
  · rw [exec_of_storeForm hi hstl, storeFrom_of_error hin hf, ← sideOf_of_storeForm hi]
    exact ⟨_, rfl, ht⟩

theorem leBytes_mod (n v : Nat) : leBytes n (v % 2 ^ (8 * n)) = leBytes n v := by
  have h := leBytes_leNat (leBytes n v)
  rw [leBytes_length, leNat_leBytes] at h
  rw [pow_mul]
  exact h

theorem sgn_eq_toInt (n v : Nat) : sgn n v = (BitVec.ofNat n v).toInt := by
  simp [sgn, BitVec.toInt]

/-- What the model runs for each atomic: its function of the old value, x[b] and x[d], all below the width. -/
theorem exec_of_amoForm {i : Instr} {o : AmoOps} {g : Nat → Nat → Nat → Nat → Nat} (h : amoForm i = some (o, g)) (s : State) :
    (∃ g' : Nat → Nat → Nat → Nat, exec i s = .next (s.amo i o g')
      ∧ ∀ v b c, leBytes (amoSize o) (g' v b c) = leBytes (amoSize o) (g (8 * amoSize o) v b c)) ∧ sideOf i = 1 ∧ i.len = 4 := by
  unfold amoForm at h
  split at h <;> cases h
  case h_2 => exact ⟨⟨_, rfl, fun v b _ => (leBytes_mod _ (v + b)).symm⟩, rfl, rfl⟩
  case h_6 | h_7 =>
    refine ⟨⟨_, rfl, fun v b _ => ?_⟩, rfl, rfl⟩
    rw [sgn_eq_toInt, sgn_eq_toInt]
  case h_8 =>
    refine ⟨⟨_, rfl, fun v b _ => congrArg _ ?_⟩, rfl, rfl⟩
    change min v b = if b < v then b else v
    split <;> omega
  case h_9 =>
    refine ⟨⟨_, rfl, fun v b _ => congrArg _ ?_⟩, rfl, rfl⟩
    change max v b = if v < b then b else v
    split <;> omega
  all_goals exact ⟨⟨_, rfl, fun _ _ _ => rfl⟩, rfl, rfl⟩

/-- An atomic of bytes that may be read and written. -/
theorem amo_of_ok {s : State} {i : Instr} {o : AmoOps} {g : Nat → Nat → Nat → Nat} {pas : List Nat} (hin : s.cpu.inflight = [])
    (hdup : s.inDup = false) (hal : s.getU o.a % amoSize o = 0)
    (h : s.accessBytes s.cpu.ctx .amo true (vaRange (s.getU o.a) (amoSize o)) = .ok pas) :
    let v := leNat (pas.map (s.physByte s.cpu.id.die))
    s.amo i o g = ((((s.settleStrip pas).amoOrder o pas).physWriteList s.agent s.cpu.id.die pas
      (leBytes (amoSize o) (g v (s.getU o.b % 2 ^ (8 * amoSize o)) (s.getU o.d % 2 ^ (8 * amoSize o)))))).compute i.len o.d
        (amoOut o v) := by
  unfold State.amo
  rw [State.whenOldest_nil s _ _ hin, amoChecked_of_aligned _ _ hdup hal]
  simp [h]

/-- Settles O7: behind what orders it, an atomic is a write to memory and the writing of the old value to x[d]. -/
theorem atomicResults : Obligations.AtomicResults := by
  unfold Obligations.AtomicResults
  intro i s o g pas hi hin hdup n old new hal hacc hmem
  obtain ⟨⟨g', hexec, hg⟩, -, hlen⟩ := exec_of_amoForm hi s
  have hnew : leBytes (amoSize o) (g' old (s.getU o.b % 2 ^ (8 * amoSize o)) (s.getU o.d % 2 ^ (8 * amoSize o))) = leBytes n new :=
    hg _ _ _
  rw [hexec, amo_of_ok hin hdup hal hacc, hlen, hnew]
  have ho := (orders_settleStrip s pas).trans (orders_amoOrder (s.settleStrip pas) o pas)
  have hagent : s.agent = ((s.settleStrip pas).amoOrder o pas).agent := by
    obtain ⟨_, _, _, _, he⟩ := ho
    rw [he]
    rfl
  obtain ⟨htouch, hwrite⟩ := ((s.settleStrip pas).amoOrder o pas).physWriteList_kept s.cpu.id.die pas (leBytes n new)
    (by rw [ho.touches.isLocal]; exact hmem)
  rw [← hagent] at htouch hwrite
  have ht := ho.touches.trans htouch
  obtain ⟨⟨hd, hx⟩, hret⟩ := compute_spec (((s.settleStrip pas).amoOrder o pas).physWriteList s.agent s.cpu.id.die pas
    (leBytes n new)) 4 o.d (amoOut o old)
  have hout : amoOut o old = if o.dbl then BitVec.ofNat 64 old else (BitVec.ofNat 32 old).signExtend 64 := by
    rw [amoOut, sext64_eq]
  rw [hout] at hd hx hret ⊢
  refine ⟨_, rfl, ⟨hd, fun r hr => (hx r hr).trans (getX_of_touches ht r)⟩, retiresStore_of_touches ht hret, ?_⟩
  refine storesAt_of_mem (hwrite.trans ?_)
  rw [State.kept, ho.touches.key, ho.touches.drops]
  obtain ⟨_, _, _, _, he⟩ := ho
  conv_lhs => rw [he]
  rfl

/-- Settles O9: each of the forms raises MISALIGNED_AMO before it accesses memory. -/
theorem misalignedAtomicsTrap : Obligations.MisalignedAtomicsTrap := by
  unfold Obligations.MisalignedAtomicsTrap
  intro i s o hi hin hdup hc hal
  have hmis : s.getU o.a % amoSize o ≠ 0 := hal
  have ht := traps_raise_trapOf (s := s) i (c := .misalignedAmo) (s.getU o.a) 0 hin hc (by decide)
  rw [ofNat_getU] at ht
  rcases hi with rfl | rfl | ⟨g, hi⟩
  · have he : exec (.lda o) s = .next (s.raise (.lda o) (trapOf (.lda o) .misalignedAmo (s.getU o.a) 0)) := by
      change Host.Outcome.next (s.inOrder _ _) = _
      rw [State.inOrder_nil s _ _ hin, if_pos (by simpa using hmis)]
    exact ⟨_, he, ht⟩
  · have he : exec (.stl o) s = .next (s.raise (.stl o) (trapOf (.stl o) .misalignedAmo (s.getU o.a) 0)) := by
      change Host.Outcome.next (s.whenOldest _ _) = _
      rw [State.whenOldest_nil s _ _ hin, amoChecked_of_misaligned _ _ hdup hmis]
    exact ⟨_, he, ht⟩
  · obtain ⟨⟨g', hexec, -⟩, hside, hlen⟩ := exec_of_amoForm hi s
    have he : s.amo i o g' = s.raise i (trapOf i .misalignedAmo (s.getU o.a) 0) := by
      unfold State.amo
      rw [State.whenOldest_nil s _ _ hin, amoChecked_of_misaligned _ _ hdup hmis]
    rw [hside, hlen] at ht
    rw [hexec, he]
    exact ⟨_, rfl, ht⟩

end Sys2Proof.Claims
end

section
/-! PROOF. The gang barrier (R354 to R358). -/

namespace Sys2Proof.Claims

open Sys2Proof Sys2Proof.Machine

theorem word_eq_barWord (g : Barrier) : g.word = barWord g := by
  simp [Barrier.word, barWord, Nat.shiftLeft_eq, Nat.mul_comm]

theorem ofNat_two_pow (h : Nat) : BitVec.ofNat 64 (2 ^ h) = 1#64 <<< h := by
  apply BitVec.eq_of_toNat_eq
  simp [Nat.shiftLeft_eq]

theorem arrive_eq_arrived (g : Barrier) (h : Nat) : g.arrive h = arrived g h := by
  unfold Barrier.arrive arrived
  rw [ofNat_two_pow]

theorem refuses_iff (g : Barrier) (h : Nat) : g.refuses h = true ↔ ¬MayArrive g h := by
  simp only [Barrier.refuses, MayArrive, Barrier.waits, Barrier.hasGone, Bool.or_eq_true, decide_eq_true_eq]
  cases bitAt g.arrbit.toNat h <;> cases bitAt g.gone.toNat h <;> simp

/-- The gang of the hart after the gang's record was replaced. -/
theorem gang_setGang {s : State} {g g' : Gang} (h : s.gang = some g) (hid : g'.gid = g.gid) : (s.setGang g').gang = some g' := by
  unfold State.gang at h ⊢
  have hg : g.gid = s.cpu.id.gang := by simpa using List.find?_some h
  have hfun : ((fun g : Gang => decide (g.gid = s.cpu.id.gang)) ∘ fun k : Gang => if k.gid = g'.gid then g' else k)
      = fun k : Gang => decide (k.gid = s.cpu.id.gang) := by
    funext k
    by_cases hk : k.gid = g'.gid
    · simp [hk, hid, hg]
    · simp [hk]
  change (List.map _ s.pkg.gangs).find? (fun k : Gang => decide (k.gid = s.cpu.id.gang)) = _
  rw [List.find?_map, hfun, h]
  simp [hid]

/-- Of the machine only the barrier of the hart's copy, which is `b` now, and what orders the strip's accesses have changed; `due`
may hold anything. -/
def Bars (s u : State) (b : Barrier) : Prop :=
  (∃ (w : List StripWrite) (r : List Release) (e : Option Nat) (gs : List Gang) (n : Nat), u = { s with
    cpu := { s.cpu with back := { s.cpu.back with strip := w, rels := r }, due := e }
    pkg := { s.pkg with gangs := gs }, tick := n }) ∧ u.bar = b

theorem bars_self (s : State) : Bars s s s.bar := ⟨⟨_, _, _, _, _, rfl⟩, rfl⟩

/-- The barrier of a gang member after it was replaced: nothing but the gang's record has changed. -/
theorem exists_setBar_eq {s : State} (b : Barrier) (hs : AtBarrier s) :
    (∃ gs, s.setBar b = { s with pkg := { s.pkg with gangs := gs } }) ∧ (s.setBar b).bar = b := by
  obtain ⟨-, -, hcopy, hgang⟩ := hs
  obtain ⟨g, hg⟩ := Option.isSome_iff_exists.1 hgang
  have he : s.setBar b = s.setGang { g with bars := vput g.bars s.cpu.id.copy b } := by simp [State.setBar, hg]
  have hg' : (s.setGang { g with bars := vput g.bars s.cpu.id.copy b }).gang
      = some { g with bars := vput g.bars s.cpu.id.copy b } := gang_setGang hg rfl
  rw [he]
  refine ⟨⟨_, rfl⟩, ?_⟩
  simp [State.bar, hg', vget_vput, hcopy]

theorem bars_setBar {s : State} (b : Barrier) (hs : AtBarrier s) : Bars s (s.setBar b) b := by
  obtain ⟨⟨gs, he⟩, hb⟩ := exists_setBar_eq b hs
  exact ⟨⟨_, _, _, _, _, he⟩, hb⟩

/-- What only orders accesses leaves the barrier. -/
theorem Bars.orders {s u v : State} {b : Barrier} (h : Bars s u b) (h' : ∃ (w : List StripWrite) (r : List Release) (n : Nat),
    v = { u with cpu := { u.cpu with back := { u.cpu.back with strip := w, rels := r } }, tick := n }) : Bars s v b := by
  obtain ⟨⟨_, _, _, _, _, rfl⟩, hb⟩ := h
  obtain ⟨_, _, _, rfl⟩ := h'
  exact ⟨⟨_, _, _, _, _, rfl⟩, hb⟩

theorem exists_noteRelease_eq (s : State) (k : RelKind) (pas : List Nat) : ∃ (w : List StripWrite) (r : List Release) (n : Nat),
    s.noteRelease k pas = { s with cpu := { s.cpu with back := { s.cpu.back with strip := w, rels := r } }, tick := n } := by
  unfold State.noteRelease
  dsimp only
  split <;> exact ⟨_, _, _, rfl⟩

theorem exists_acquire_eq (s : State) (reads : Release → Bool) : ∃ (w : List StripWrite) (r : List Release) (n : Nat),
    s.acquire reads = { s with cpu := { s.cpu with back := { s.cpu.back with strip := w, rels := r } }, tick := n } := by
  unfold State.acquire
  dsimp only
  split <;> exact ⟨_, _, _, rfl⟩

theorem bars_arrived {s : State} (b : Barrier) (hs : AtBarrier s) : Bars s (s.arrived b) b :=
  (bars_setBar b hs).orders (exists_noteRelease_eq _ _ _)

theorem Bars.noteArrival {s u : State} {b : Barrier} (h : Bars s u b) : Bars s u.noteArrival b := by
  obtain ⟨⟨_, _, _, _, _, rfl⟩, hb⟩ := h
  exact ⟨⟨_, _, _, _, _, rfl⟩, hb⟩

theorem Bars.idx {s u : State} {b : Barrier} (h : Bars s u b) : u.cpu.id = s.cpu.id := by
  obtain ⟨⟨_, _, _, _, _, rfl⟩, -⟩ := h
  rfl

/-- What retiring with a result leaves, written out. -/
theorem exists_compute_eq (s : State) (len : Nat) (d : Reg) (v : W64) :
    ∃ (x : Vector W64 32) (c : W64) (r n : Nat), s.compute len d v = { s with
      cpu := { s.cpu with
        front := { s.cpu.front with
          x := x, pc := s.cpu.front.pc + BitVec.ofNat 64 len, instret := s.cpu.front.instret + 1, cycle := c }
        wait := none, due := none, resumed := r, trapped := false }
      tick := n } := by
  have hx : s.setX d v = s.setFront { s.cpu.front with x := (s.cpu.front.setX d v).x } :=
    congrArg s.setFront (Front.setX_eq s.cpu.front d v)
  rw [compute_eq_retireTo, hx]
  exact ⟨_, _, _, _, rfl⟩

/-- A barrier instruction that retires behind its change of the register. -/
theorem barriers_compute {s u : State} {b : Barrier} (h : Bars s u b) (d : Reg) (w : W64) :
    Barriers s (u.compute 4 d w) d w b := by
  obtain ⟨hd, hx⟩ := (compute_spec u 4 d w).1
  obtain ⟨xs, c, r, n, ht⟩ := exists_compute_eq u 4 d w
  obtain ⟨⟨_, _, _, _, _, rfl⟩, hb⟩ := h
  refine ⟨⟨hd, hx⟩, ?_⟩
  rw [ht]
  exact ⟨hb, rfl, rfl, rfl, rfl, fun _ => rfl, rfl⟩

theorem barrier_body {s : State} (i : Instr) (body : Barrier → Nat → State → State) (hs : AtBarrier s) :
    s.barrier i body = body s.bar s.cpu.id.idx s := by
  obtain ⟨hin, hmember, -⟩ := hs
  simp [State.barrier, State.inGang, hmember, State.whenOldest_nil s _ _ hin]

theorem bar_takeTrap {s : State} (t : TrapInfo) (hc : CanTrap s) (hd : t.cause ≠ .dataError) : (s.takeTrap t).bar = s.bar := by
  rw [State.takeTrap_taken s t hc.1 hc.2 hd]
  rfl

theorem trapEstat_overArrival (i : Instr) (g : Barrier) : trapEstat (overArrival i g) = estatOf 0 0 15 4 false i.len := by
  unfold trapEstat overArrival estatOf
  rw [show (if i.len = 2 then 0 else if i.len = 4 then 1 else 2) = ilenCode i.len from rfl]
  simp [Nat.shiftLeft_eq, Nat.mul_comm]

/-- An arrival that is refused (R355). -/
theorem traps_overArrival {s : State} (i : Instr) (hin : s.cpu.inflight = []) (hc : CanTrap s) :
    Traps s (s.raise i (overArrival i s.bar)) 14 (barWord s.bar) (estatOf 0 0 15 4 false i.len) 0
      ∧ (s.raise i (overArrival i s.bar)).bar = s.bar := by
  rw [State.raise_nil s i _ hin, ← trapEstat_overArrival i s.bar, ← word_eq_barWord]
  exact ⟨traps_takeTrap (overArrival i s.bar) hc nofun, bar_takeTrap _ hc nofun⟩

theorem bitAt_zero_left (k : Nat) : bitAt 0 k = false := by
  simp [bitAt]

/-- The arrival that completes the phase: nobody waits any more (R355). -/
theorem waits_of_last {g : Barrier} {h : Nat} (hlast : g.arrived + 1 = g.expected) : (g.arrive h).waits h = false := by
  simp [Barrier.arrive, hlast, Barrier.waits, bitAt_zero_left]

theorem barArm_arms (d a : Reg) {s : State} (hs : AtBarrier s) (h64 : s.getU a ≤ 64) (hlive : s.getU a ≤ s.bar.live) :
    ∃ t, exec (.barArm d a) s = .next t ∧ Barriers s t d (barWord s.bar)
      { s.bar with nexp := s.getU a, expected := if s.bar.arrived = 0 then s.getU a else s.bar.expected } := by
  have he : exec (.barArm d a) s = .next ((s.setBar (s.bar.arm (s.getU a))).compute 4 d s.bar.word) := by
    change Host.Outcome.next (s.barrier _ _) = _
    rw [barrier_body _ _ hs, if_neg (by simp; omega)]
  have harm : s.bar.arm (s.getU a)
      = { s.bar with nexp := s.getU a, expected := if s.bar.arrived = 0 then s.getU a else s.bar.expected } := by
    unfold Barrier.arm
    split <;> rfl
  rw [he, word_eq_barWord, ← harm]
  exact ⟨_, rfl, barriers_compute (bars_setBar _ hs) d _⟩

theorem not_refuses {s : State} (h : MayArrive s.bar s.cpu.id.idx) : s.bar.refuses s.cpu.id.idx = false := by
  rw [← Bool.not_eq_true, refuses_iff]
  exact not_not.2 h

theorem barArv_arrives (d : Reg) {s : State} (hs : AtBarrier s) (hmay : MayArrive s.bar s.cpu.id.idx) :
    ∃ t, exec (.barArv d) s = .next t ∧ Barriers s t d (barWord s.bar) (arrived s.bar s.cpu.id.idx) := by
  have he : exec (.barArv d) s = .next ((s.arrived (s.bar.arrive s.cpu.id.idx)).compute 4 d s.bar.word) := by
    change Host.Outcome.next (s.barrier _ _) = _
    rw [barrier_body _ _ hs, if_neg (by simp [not_refuses hmay])]
  rw [he, word_eq_barWord, ← arrive_eq_arrived]
  exact ⟨_, rfl, barriers_compute (bars_arrived _ hs) d _⟩

theorem barWt_returns (d : Reg) {s : State} (hs : AtBarrier s) (h : bitAt s.bar.arrbit.toNat s.cpu.id.idx = false) :
    ∃ t, exec (.barWt d) s = .next t ∧ Barriers s t d (barWord s.bar) s.bar := by
  have he : exec (.barWt d) s = .next (s.leaveBarrier d s.bar) := by
    change Host.Outcome.next (s.inGang _ _) = _
    simp [State.inGang, hs.2.1, Barrier.waits, h]
  rw [he, State.leaveBarrier, word_eq_barWord]
  exact ⟨_, rfl, barriers_compute ((bars_self s).orders (exists_acquire_eq _ _)) d _⟩

theorem barSync_returns (d : Reg) {s : State} (hs : AtBarrier s) (hmay : MayArrive s.bar s.cpu.id.idx)
    (hlast : s.bar.arrived + 1 = s.bar.expected) (hdue : s.cpu.due = none) :
    ∃ t, exec (.barSync d) s = .next t
      ∧ Barriers s t d (barWord (arrived s.bar s.cpu.id.idx)) (arrived s.bar s.cpu.id.idx) := by
  have hb := (bars_arrived (s.bar.arrive s.cpu.id.idx) hs).noteArrival
  have he : exec (.barSync d) s
      = .next ((s.arrived (s.bar.arrive s.cpu.id.idx)).noteArrival.leaveBarrier d (s.bar.arrive s.cpu.id.idx)) := by
    change Host.Outcome.next (s.barrier _ _) = _
    rw [barrier_body _ _ hs]
    simp [hdue, not_refuses hmay, hb.2, waits_of_last hlast]
  rw [he, State.leaveBarrier, word_eq_barWord, ← arrive_eq_arrived]
  exact ⟨_, rfl, barriers_compute (hb.orders (exists_acquire_eq _ _)) d _⟩

theorem barDrop_leaves (d : Reg) {s : State} (hs : AtBarrier s) (hmay : MayArrive s.bar s.cpu.id.idx) :
    ∃ t, exec (.barDrop d) s = .next t ∧ Barriers s t d (barWord s.bar) (arrived
      { s.bar with gone := s.bar.gone ||| (1#64 <<< s.cpu.id.idx), live := s.bar.live - 1, nexp := s.bar.nexp - 1 }
      s.cpu.id.idx) := by
  have he : exec (.barDrop d) s
      = .next ((s.arrived ((s.bar.leave s.cpu.id.idx).arrive s.cpu.id.idx)).compute 4 d s.bar.word) := by
    change Host.Outcome.next (s.barrier _ _) = _
    rw [barrier_body _ _ hs, if_neg (by simp [not_refuses hmay])]
  rw [he, word_eq_barWord, arrive_eq_arrived, Barrier.leave, ofNat_two_pow]
  exact ⟨_, rfl, barriers_compute (bars_arrived _ hs) d _⟩

/-- Settles O16: each barrier instruction is one change of the register and the return of a value, or its trap. -/
theorem barrierResults : Obligations.BarrierResults := by
  unfold Obligations.BarrierResults
  refine ⟨fun d a s hs => ⟨barArm_arms d a hs, barArv_arrives d hs, barWt_returns d hs, barSync_returns d hs, barDrop_leaves d hs⟩,
    fun d a s hs hc => ⟨fun hno => ?_, fun hbad => ?_⟩⟩
  · have hr : s.bar.refuses s.cpu.id.idx = true := (refuses_iff _ _).2 hno
    have hin := hs.1
    refine ⟨⟨_, ?_, traps_overArrival (.barArv d) hin hc⟩, fun hdue => ⟨_, ?_, traps_overArrival (.barSync d) hin hc⟩,
      ⟨_, ?_, traps_overArrival (.barDrop d) hin hc⟩⟩
    all_goals
      change Host.Outcome.next (s.barrier _ _) = _
      rw [barrier_body _ _ hs]
    · rw [if_pos hr]
    · rw [if_pos (by simp [hr, hdue])]
    · rw [if_pos hr]
  · have he : exec (.barArm d a) s = .next (s.raise (.barArm d a) (illegalOf (.barArm d a))) := by
      change Host.Outcome.next (s.barrier _ _) = _
      rw [barrier_body _ _ hs, if_pos (by simpa using hbad)]
    refine ⟨_, he, traps_raise_illegalOf (.barArm d a) hs.1 hc, ?_⟩
    rw [State.raise_nil s _ _ hs.1]
    exact bar_takeTrap _ hc nofun

end Sys2Proof.Claims
end

section
/-! PROOF. A quiet hart: its engines are at rest, so what joins with them goes on at once (R191, R221, R362, R274). -/

namespace Sys2Proof.Claims

open Sys2Proof Sys2Proof.Machine

theorem Quiet.ops {s : State} (h : Quiet s) (c : Nat) : (s.chan c).ops = [] := by
  by_cases hc : c < 8
  · exact (h.2.1 c hc).1
  · simp [State.chan, vget, hc, Chan.idle]

theorem Quiet.runUntil {s : State} (h : Quiet s) (c : Nat) (stop : Chan → Bool) : s.runUntil c stop = s :=
  upto_eq_self fun _ => by
    have hstep : s.copyStep c = s := by
      unfold State.copyStep State.chanStep
      rw [h.ops c]
    rw [hstep, ite_self]

theorem Quiet.restChannels {s : State} (h : Quiet s) : s.restChannels = s := upto_eq_self fun c => h.runUntil c _

theorem Quiet.channelsAtRest {s : State} (h : Quiet s) : s.channelsAtRest = true := by
  unfold State.channelsAtRest
  rw [List.all_eq_true]
  intro c hc
  have hn : (s.chan c).nops = 0 := (h.2.1 c (List.mem_range.1 hc)).2.1
  simp [Chan.atRest, hn]

theorem Quiet.heldChan {s : State} (h : Quiet s) : s.heldChan = none := by
  unfold State.heldChan
  rw [List.find?_eq_none]
  intro ch hch
  obtain ⟨k, hk, rfl⟩ := Vector.mem_iff_getElem.1 (Vector.mem_toList_iff.1 hch)
  have he := (h.2.1 k hk).2.2
  simp only [vget, hk, dif_pos] at he
  simp [he]

theorem Quiet.settleInbound {s : State} (h : Quiet s) : s.settleInbound = s := by
  simp [State.settleInbound, h.2.2.2]

theorem Quiet.whenRested {s : State} (h : Quiet s) (body : State → State) : s.whenRested body = body s := by
  simp [State.whenRested, h.restChannels, h.channelsAtRest]

theorem Quiet.whenDelivered {s : State} (h : Quiet s) (body : State → State) : s.whenDelivered body = body s := by
  simp [State.whenDelivered, h.settleInbound, State.inboundDue, h.2.2.2]

theorem Quiet.grammarFault {s : State} (h : Quiet s) : s.grammarFault = none := by
  simp [State.grammarFault, h.2.2.1]

theorem Quiet.whenJoined {s : State} (h : Quiet s) (i : Instr) (body : State → State) : s.whenJoined i body = body s := by
  simp [State.whenJoined, h.grammarFault]

/-- Nothing is older than instruction number 0. -/
theorem orderBehind_zero (s : State) : s.orderBehind 0 = s := by
  simp [State.orderBehind, State.settleAll, State.setBack]

theorem Quiet.joinResults {s : State} (h : Quiet s) (sel : GPend → Bool) : s.joinResults sel = s := by
  simp only [State.joinResults, h.2.2.1, List.filter_nil, List.foldl_nil]
  rw [orderBehind_zero, ← h.2.2.1]
  rfl

theorem haltDrop_eq_haltedBar (g : Barrier) (h : Nat) : g.haltDrop h = haltedBar g h := by
  unfold Barrier.haltDrop haltedBar Barrier.hasGone Barrier.waits Barrier.leave
  simp only [arrive_eq_arrived, ofNat_two_pow]

theorem exec_halt {s : State} (hs : AtBarrier s) (hq : Quiet s) (hc : s.children = []) :
    exec .halt s = .next ((s.setBar (s.bar.haltDrop s.cpu.id.idx)).endHart 4) := by
  change execHalt s = _
  unfold execHalt
  rw [State.whenOldest_nil s _ _ hs.1, hc]
  simp [hq.whenRested, hq.heldChan, hq.whenJoined, hq.whenDelivered, hc, hs.2.1]

/-- Settles O20: the hart at rest leaves the barrier and ends. -/
theorem haltEndsAHart : Obligations.HaltEndsAHart := by
  unfold Obligations.HaltEndsAHart
  intro s hs hq hc
  rw [exec_halt hs hq hc, haltDrop_eq_haltedBar]
  obtain ⟨⟨gs, he⟩, hb⟩ := exists_setBar_eq (haltedBar s.bar s.cpu.id.idx) hs
  have hbar : ((s.setBar (haltedBar s.bar s.cpu.id.idx)).endHart 4).bar = haltedBar s.bar s.cpu.id.idx := hb
  refine ⟨_, rfl, rfl, hbar, ?_⟩
  rw [he]
  exact ⟨rfl, rfl, rfl, fun _ => rfl⟩

/-- With nothing in flight no class of results is pending in a quiet hart (R191). -/
theorem Quiet.dueClasses {s : State} (h : Quiet s) : s.dueClasses = 0 := by
  obtain ⟨hin, -, hpend, hinb⟩ := h
  simp [State.dueClasses, State.maskResults, State.xResults, State.gramDue, hin, hpend, hinb]

/-- The note that a wait leaves in a hart does not change which copies are on their way into it. -/
theorem Quiet.noteDue {s : State} (h : Quiet s) (e : Option Nat) (n : Nat) :
    Quiet { s with cpu := { s.cpu with due := e }, tick := n } := by
  obtain ⟨hin, hch, hpend, hinb⟩ := h
  refine ⟨hin, hch, hpend, ?_⟩
  rw [← hinb]
  unfold State.inbound State.harts
  rw [List.filter_cons, List.filter_cons]
  split <;> rfl

theorem awaitResults_of_quiet {s : State} (h : Quiet s) (hdue : s.cpu.due = none) (i : Instr) (d : Reg) (sel : Nat) :
    s.awaitResults i d sel
      = ({ s with cpu := { s.cpu with due := some 0 }, tick := s.tick + 2 } : State).compute 4 d 0 := by
  have hq := h.noteDue (some 0) (s.tick + 2)
  have hland : Nat.land sel s.dueClasses = 0 := by rw [h.dueClasses]; exact Nat.and_zero sel
  unfold State.awaitResults
  simp only [hdue, Option.isSome_none, Option.getD_none, hland, Bool.false_eq_true, if_false]
  generalize hu : ({ s with cpu := { s.cpu with due := some 0 }, tick := s.tick + 2 } : State) = u at hq
  have hmask : u.maskResults = false := by simp [State.maskResults, hq.1]
  have hx : u.xResults = false := by simp [State.xResults, hq.1]
  have hsel : u.selectedFault sel = none := by simp [State.selectedFault, hq.2.2.1]
  have hset : (if bitAt sel 1 = true then u.settleInbound else u) = u := by rw [hq.settleInbound, ite_self]
  simp [hmask, hx, hsel, hset, hq.2.2.2, hq.joinResults]

theorem exec_waite {s : State} (d a : Reg) (h : Quiet s) (hdue : s.cpu.due = none) (hsel : s.getU a < 8) :
    ∃ e n, exec (.waite d a) s = .next (({ s with cpu := { s.cpu with due := e }, tick := n } : State).compute 4 d 0) := by
  change ∃ e n, execWaite d a s = _
  unfold execWaite
  dsimp only
  rw [if_neg (by omega)]
  split
  · exact ⟨s.cpu.due, s.tick, rfl⟩
  · exact ⟨some 0, s.tick + 2, congrArg _ (awaitResults_of_quiet h hdue _ _ _)⟩

theorem upto_eq_self_of_lt {α : Type} {n : Nat} {f : Nat → α → α} {a : α} (hf : ∀ k, k < n → f k a = a) : upto n f a = a :=
  List.foldlRecOn (motive := (· = a)) (List.range n) _ rfl fun x hx k hk => by rw [hx, hf k (List.mem_range.1 hk)]

/-- Nothing of the hart waits to be written by the log engines. -/
theorem writeRecords_eq_self {s : State} (h : ∀ p, p < 16 → (s.part p).unwritten (fun r => r.hart = s.cpu.id.uid) = 0) :
    s.writeRecords s.cpu.id.uid = s :=
  upto_eq_self_of_lt fun p hp => by rw [h p hp]; rfl

/-- What FENCE leaves of a quiet hart: with e only the order of what is at rest is settled, with v nothing stays to be ordered
(R221, R222). -/
def fencedBack (s : State) (set : Nat) : State :=
  let u := if bitAt set 2 then s.joinEngines else s
  if bitAt set 1 then u.setBack { u.cpu.back with strip := [], rels := [] } else u

theorem exec_fence {s : State} (scope set : Fin 8) (h : Quiet s) (hscope : scope.val ≤ 4) (hset : set.val ≠ 0)
    (hrec : ∀ p, p < 16 → (s.part p).unwritten (fun r => r.hart = s.cpu.id.uid) = 0) :
    exec (.fence scope set) s = .next ((fencedBack s set.val).retire 4) := by
  have hrest : (if bitAt set.val 2 = true then (s.restChannels).writeRecords s.cpu.id.uid else s) = s := by
    rw [h.restChannels, writeRecords_eq_self hrec, ite_self]
  change execFence scope set s = _
  unfold execFence
  dsimp only
  rw [if_neg (by simp; omega), if_neg (by simp [h.1]), hrest, if_neg (by simp [h.channelsAtRest])]
  rfl

theorem exists_joinEngines_eq {s : State} (h : Quiet s) : ∃ w r,
    s.joinEngines = s.setBack { s.cpu.back with strip := w, rels := r } := by
  unfold State.joinEngines
  rw [h.joinResults]
  exact ⟨_, _, rfl⟩

theorem exists_fencedBack_eq {s : State} (set : Nat) (h : Quiet s) : ∃ w r,
    fencedBack s set = s.setBack { s.cpu.back with strip := w, rels := r } ∧ (bitAt set 1 = true → w = [] ∧ r = [])
      ∧ (bitAt set 1 = false → bitAt set 2 = false → w = s.cpu.back.strip ∧ r = s.cpu.back.rels) := by
  obtain ⟨w, r, he⟩ := exists_joinEngines_eq h
  unfold fencedBack
  rw [he]
  cases h1 : bitAt set 1 <;> cases h2 : bitAt set 2
  · exact ⟨_, _, rfl, by simp, by simp⟩
  · exact ⟨_, _, rfl, by simp, by simp⟩
  · exact ⟨[], [], rfl, by simp, by simp⟩
  · exact ⟨[], [], rfl, by simp, by simp⟩

/-- Settles O22: what FENCE and WAITE wait for is there in a quiet hart, so they retire at once. -/
theorem fencesComplete : Obligations.FencesComplete := by
  unfold Obligations.FencesComplete
  refine ⟨fun scope set s h hscope hset hrec => ?_, fun d a s h hdue hsel => ?_⟩
  · obtain ⟨w, r, he, hv, hnone⟩ := exists_fencedBack_eq set.val h
    rw [exec_fence scope set h hscope hset hrec, he]
    refine ⟨_, rfl, fun _ => rfl, ⟨⟨rfl, rfl, Or.inl rfl⟩, rfl, rfl, rfl, fun _ => rfl⟩, rfl, fun hb => ?_, fun hb => ?_⟩
    · exact hv (by simpa [bitAt] using hb)
    · obtain ⟨hw, hr⟩ := hnone (by simp [bitAt]; omega) (by simp [bitAt]; omega)
      simp only [State.retire_back, State.setBack_back]
      rw [hw, hr]
  · obtain ⟨e, n, he⟩ := exec_waite d a h hdue hsel
    obtain ⟨hx, hret⟩ := compute_spec ({ s with cpu := { s.cpu with due := e }, tick := n } : State) 4 d 0
    have hat : RetiresAt (s.setFront s.cpu.front) (({ s with cpu := { s.cpu with due := e }, tick := n } : State).compute 4 d 0)
      (s.cpu.front.pc + BitVec.ofNat 64 4) := hret
    have hx' : WritesX s (({ s with cpu := { s.cpu with due := e }, tick := n } : State).compute 4 d 0) d 0 := hx
    rw [he]
    exact ⟨_, rfl, hx', retiresOnly_of_retiresAt_setFront hat rfl, (congrArg Hart.back hret.2.1 :)⟩

end Sys2Proof.Claims
end

section
/-! PROOF. Matrix mode (R115, R116). -/

namespace Sys2Proof.Claims

open Sys2Proof Sys2Proof.Machine

/-- A table without some keys reads the default there, and what it read elsewhere. -/
theorem mget_filter_keys {α : Type} (d : α) (m : SMap α) (p : Nat → Bool) (k : Nat) :
    mget d (m.filter (fun e => p e.1)) k = if p k = true then mget d m k else d := by
  induction m with
  | nil => simp [mget]
  | cons e t ih =>
    obtain ⟨j, v⟩ := e
    by_cases hj : j = k
    · subst hj
      by_cases hp : p j = true
      · simp [hp, mget]
      · simpa [hp] using ih
    · by_cases hp : p j = true
      · simpa [hp, mget, hj] using ih
      · simpa [hp, mget, hj] using ih

theorem planeWord_dropTileRegs (b : Back) (k : Nat) {c : Nat} (hc : c < 65536) :
    planeWord b.dropTileRegs.v k c = if 20 ≤ k ∧ k < 28 then 0 else planeWord b.v k c := by
  change (mget 0 (clearKeys b.v (20 * 65536) (28 * 65536)) (k * 65536 + c)).toNat = _
  unfold clearKeys
  rw [mget_filter_keys 0 b.v (fun n => decide (n < 20 * 65536) || decide (28 * 65536 ≤ n))]
  by_cases hk : 20 ≤ k ∧ k < 28
  · rw [if_neg (by simp; omega), if_pos hk]; rfl
  · rw [if_pos (by simp; omega), if_neg hk]; rfl

theorem matrixGrant_eq (s : State) (q r : Nat) : s.matrixGrant q r
    = (if q = 0 ∨ r = 0 then 0 else min q (s.mrmaxOf s.cpu.id),
      if q = 0 ∨ r = 0 then 0 else min r (if s.cpu.id.share = 4 then 128 else 256)) := by
  unfold State.matrixGrant mcmaxOf
  by_cases h : q = 0 ∨ r = 0 <;> simp [h]

theorem exec_mxon (d a b : Reg) {s : State} (hin : s.cpu.inflight = []) (hm : s.cpu.front.mmode = false) (hc : s.children = []) :
    exec (.mxon d a b) s = .next ((s.setBack { s.cpu.back.dropTileRegs with
      za := [], zf := [], zsteps := Vector.replicate 2 0, zkinds := Vector.replicate 2 none }).finish (.mxon d a b)
        ({ s.cpu.front with
          mmode := true, mvr := (s.matrixGrant (s.getU a) (s.getU b)).1, mvc := (s.matrixGrant (s.getU a) (s.getU b)).2 }.setX d
          (BitVec.ofNat 64 (2 ^ 32 * (s.matrixGrant (s.getU a) (s.getU b)).1 + (s.matrixGrant (s.getU a) (s.getU b)).2)))) := by
  change execMxon d a b s = _
  unfold execMxon
  dsimp only
  rw [if_neg (by simp [hm, hc]), State.inOrderAs_nil s _ _ _ hin]

theorem exec_mxoff {s : State} (hin : s.cpu.inflight = []) (hm : s.cpu.front.mmode = true) :
    exec .mxoff s = .next ((s.setBack { s.cpu.back.dropTileRegs with za := [] }).finish .mxoff
      { s.cpu.front with mmode := false }) := by
  change execMxoff s = _
  unfold execMxoff
  dsimp only
  rw [if_neg (by simp [hm]), State.inOrderAs_nil s _ _ _ hin]

/-- An x register written in other front registers, under an instruction without a resume point. -/
theorem finish_setX_front_spec (s : State) (b : Back) (i : Instr) (f : Front) (d : Reg) (v : W64) (hkeep : keepsVstart i = true)
    (hlen : i.len = 4) (hret : f.instret = s.cpu.front.instret) (hx : f.x = s.cpu.front.x) :
    let t := (s.setBack b).finish i (f.setX d v)
    WritesX s t d v ∧ RetiresOnly s t { f with x := t.cpu.front.x, pc := f.pc + BitVec.ofNat 64 4 } ∧ t.cpu.back = b := by
  intro t
  have hget (r : Reg) : t.getX r = (f.setX d v).getX r := rfl
  refine ⟨⟨?_, fun r hr => ?_⟩, ?_, rfl⟩
  · rw [hget, Front.getX_setX_same]
  · rw [hget, Front.getX_setX_other _ _ _ _ hr]
    unfold Front.getX State.getX Front.getX
    rw [hx]
  · have h := retiresOnly_finish s b i (f.setX d v) hkeep hlen (by rw [Front.setX_eq, ← hret])
    have he : ({ f with x := t.cpu.front.x, pc := f.pc + BitVec.ofNat 64 4 } : Front)
        = { f.setX d v with pc := (f.setX d v).pc + BitVec.ofNat 64 4 } := by
      change { f with x := (f.setX d v).x, pc := f.pc + BitVec.ofNat 64 4 } = _
      rw [Front.setX_eq]
    rw [he]
    exact h

theorem traps_matrixState {s : State} (i : Instr) (eval : Nat) (hin : s.cpu.inflight = []) (hc : CanTrap s) :
    Traps s (s.raise i (trapOf i .matrixState eval 0)) 4 (BitVec.ofNat 64 eval) (estatOf 0 0 15 (sideOf i) false i.len) 0 :=
  traps_raise_trapOf i eval 0 hin hc (by decide)

theorem matrixEval_of_childless {s : State} (h : s.children = []) : s.matrixEval none = s.cpu.front.mmode.toNat := by
  simp [State.matrixEval, h]

/-- Settles O19: MXON and MXOFF each leave the mode they are for, and raise MATRIX_STATE in the other. -/
theorem matrixModeSwitches : Obligations.MatrixModeSwitches := by
  unfold Obligations.MatrixModeSwitches
  intro d a b s hin
  refine ⟨fun hm hch => ?_, fun hm => ?_, fun hc hm hch => ?_, fun hc hm hch => ?_⟩
  · obtain ⟨hx, hret, hback⟩ := finish_setX_front_spec s { s.cpu.back.dropTileRegs with
        za := [], zf := [], zsteps := Vector.replicate 2 0, zkinds := Vector.replicate 2 none } (.mxon d a b)
      { s.cpu.front with
        mmode := true, mvr := (s.matrixGrant (s.getU a) (s.getU b)).1, mvc := (s.matrixGrant (s.getU a) (s.getU b)).2 }
      d (BitVec.ofNat 64 (2 ^ 32 * (s.matrixGrant (s.getU a) (s.getU b)).1 + (s.matrixGrant (s.getU a) (s.getU b)).2))
      rfl rfl rfl rfl
    rw [exec_mxon d a b hin hm hch]
    refine ⟨_, rfl, ?_, ?_, fun k c hcol => ?_⟩
    · rw [matrixGrant_eq] at hx hret
      rw [matrixGrant_eq]
      exact ⟨hx, hret⟩
    · rw [hback]; rfl
    · rw [hback]; exact planeWord_dropTileRegs _ k hcol
  · rw [exec_mxoff hin hm]
    exact ⟨_, rfl, fun _ => rfl, retiresOnly_finish s _ .mxoff _ rfl rfl rfl, rfl, fun k c hcol => planeWord_dropTileRegs _ k hcol⟩
  · have he : exec (.mxon d a b) s = .next (s.raise (.mxon d a b) (trapOf (.mxon d a b) .matrixState (s.matrixEval none) 0)) := by
      change execMxon d a b s = _
      unfold execMxon
      rw [if_pos (by simp [hm])]
    have ht := traps_matrixState (.mxon d a b) (s.matrixEval none) hin hc
    rw [he]
    refine ⟨_, rfl, ?_⟩
    rw [matrixEval_of_childless hch, hm] at ht ⊢
    exact ht
  · have he : exec .mxoff s = .next (s.raise .mxoff (trapOf .mxoff .matrixState (s.matrixEval none) 0)) := by
      change execMxoff s = _
      unfold execMxoff
      rw [if_pos (by simp [hm])]
    have ht := traps_matrixState .mxoff (s.matrixEval none) hin hc
    rw [he]
    refine ⟨_, rfl, ?_⟩
    rw [matrixEval_of_childless hch, hm] at ht ⊢
    exact ht

end Sys2Proof.Claims
end

section
/-! PROOF. WAITC (R366). -/

namespace Sys2Proof.Claims

open Sys2Proof Sys2Proof.Machine

/-- What orders accesses changes no byte that a read finds. -/
theorem physByte_of_orders {s u : State} (h : Orders s u) : u.physByte = s.physByte := by
  obtain ⟨_, _, _, _, rfl⟩ := h
  rfl

/-- WAITC of a readable word behind nothing that it has to wait for. -/
theorem exec_waitc (d a b : Reg) {s : State} {pas : List Nat} (hal : s.getU a % 8 = 0)
    (hacc : s.accessBytes s.cpu.ctx .load false (vaRange (s.getU a) 8) = .ok pas)
    (hold : ∀ p ∈ s.cpu.inflight, acquires p.instr = false ∧ s.mayStore p pas = false) :
    let u := (s.readLines s.cpu.id.die (pas.map s.key)).settleStrip pas
    let w : W64 := BitVec.ofNat 64 (leNat (pas.map (s.physByte s.cpu.id.die)))
    exec (.waitc d a b) s = .next (if (w - s.getX b).toNat < 2 ^ 63 then (u.acquireAt pas).compute 4 d w else u.block .word) := by
  intro u w
  have ho : Orders s u := (orders_readLines s _ _).trans (orders_settleStrip _ _)
  have hw : (BitVec.ofNat 64 (leNat (pas.map (u.physByte u.cpu.id.die))) : W64) = w := by
    rw [physByte_of_orders ho]
    rfl
  have hx : u.getX b = s.getX b := getX_of_orders ho b
  have hany : s.cpu.inflight.any (fun p => acquires p.instr || s.mayStore p pas) = false := by
    rw [List.any_eq_false]
    intro p hp
    simp [hold p hp]
  change execWaitc d a b s = _
  unfold execWaitc
  simp only [hal, hacc, hany, bne_self_eq_false, Bool.false_eq_true, if_false]
  change Host.Outcome.next (if ((BitVec.ofNat 64 (leNat (pas.map (u.physByte u.cpu.id.die))) : W64) - u.getX b).toNat < 2 ^ 63 then
    (u.acquireAt pas).compute 4 d (BitVec.ofNat 64 (leNat (pas.map (u.physByte u.cpu.id.die)))) else u.block .word) = _
  rw [hw, hx]

/-- Settles O23: the word is read behind what orders it, and is returned or waited for. -/
theorem waitcReturnsTheWord : Obligations.WaitcReturnsTheWord := by
  unfold Obligations.WaitcReturnsTheWord
  intro d a b s pas hal hacc hold l w
  have hexec := exec_waitc d a b hal hacc hold
  have ho : Orders s ((s.readLines s.cpu.id.die (pas.map s.key)).settleStrip pas) :=
    (orders_readLines s _ _).trans (orders_settleStrip _ _)
  refine ⟨fun hreach => ?_, fun hbelow => ?_⟩
  · have ho' := ho.trans (orders_acquireAt _ pas)
    obtain ⟨⟨hd, hx⟩, hret⟩ := compute_spec (((s.readLines s.cpu.id.die (pas.map s.key)).settleStrip pas).acquireAt pas) 4 d w
    rw [hexec, if_pos hreach]
    exact ⟨_, rfl, ⟨hd, fun r hr => (hx r hr).trans (getX_of_orders ho' r)⟩, retiresLoad_of_orders ho' hret⟩
  · rw [hexec, if_neg (Nat.not_lt.2 hbelow)]
    exact ⟨_, rfl, fun _ => rfl, rfl, rfl, rfl, rfl, rfl, rfl, rfl, fun _ => rfl⟩

end Sys2Proof.Claims
end

section
/-! PROOF. LAUNCH (R279, R292). -/

namespace Sys2Proof.Claims

open Sys2Proof Sys2Proof.Machine

/-- As `Touches`, with the write digest as before. -/
def Appends (s u : State) : Prop := Touches s u ∧ u.cpu.digest = s.cpu.digest

theorem appends_of_orders {s u : State} (h : Orders s u) : Appends s u := by
  refine ⟨h.touches, ?_⟩
  obtain ⟨_, _, _, _, rfl⟩ := h
  rfl

theorem Appends.trans {s u v : State} (h : Appends s u) (h' : Appends u v) : Appends s v :=
  ⟨h.1.trans h'.1, h'.2.trans h.2⟩

theorem checkPhys_of_touches {s u : State} (h : Touches s u) : u.checkPhys = s.checkPhys := by
  obtain ⟨_, _, _, _, _, _, _, rfl⟩ := h
  rfl

theorem lands_of_touches {s u : State} (h : Touches s u) : u.lands = s.lands := by
  funext pa
  unfold State.lands
  rw [h.isLocal, h.drops]

/-- What an address of the ring allows a write of the queue engine: nothing refuses it, and it lands in memory (R208). -/
theorem lands_of_checkPhys {s : State} {d pa : Nat} (hloc : s.isLocal pa = true) (h : s.checkPhys d .store true pa pa = none) :
    s.lands pa = true := by
  have hr : s.refusePhys d .store true pa pa = none := by
    unfold State.checkPhys at h
    simpa using (Option.or_eq_none_iff.1 h).1
  have hmem : (regionOf (pa % pkgSpan)).isMem = true := by
    unfold State.refusePhys at hr
    simp only [hloc, Bool.not_true, Bool.false_eq_true, if_false] at hr
    unfold State.regionAt at hr
    cases hreg : regionOf (pa % pkgSpan) <;> simp [hreg, Region.isMem] at hr ⊢
  simp [State.lands, State.drops, hloc, hmem]

/-- One byte of the packet is written to its slot. -/
theorem physWriteList_byte {s : State} (d : Nat) {pa : Nat} (b : Byte) (h : s.lands pa = true) :
    Appends s (s.physWriteList .management d [pa] [b])
      ∧ (s.physWriteList .management d [pa] [b]).mem = writeCell s.mem (s.key pa) b := by
  have hland : (s.isLocal pa && !(regionOf (pa % pkgSpan)).isMem) = false ∧ s.drops pa = false := by
    simp only [State.lands, Bool.and_eq_true, Bool.not_eq_true'] at h
    exact h
  have hkept : (s.meetStrips false ([pa].map s.key)).kept [pa] [b] = [(s.key pa, b)] := by
    change s.kept [pa] [b] = _
    simp [State.kept, hland.2]
  obtain ⟨l2, he⟩ := (s.meetStrips false ([pa].map s.key)).physWrites_kept .management d [pa] [b] (by
    intro q hq
    obtain rfl := List.mem_singleton.1 hq
    change ¬(s.isLocal q = true ∧ (regionOf (q % pkgSpan)).isMem = false)
    simpa using hland.1)
  rw [hkept] at he
  have hbody : s.physWriteList .management d [pa] [b] = (s.meetStrips false ([pa].map s.key)).physWrites .management d [pa] [b] := rfl
  rw [hbody, he]
  exact ⟨⟨⟨_, _, _, fun h => (h.back.meet .other 0 _).strip, _, _, _, rfl⟩, rfl⟩, rfl⟩

/-- The bytes of a packet whose ring addresses nothing refuses. -/
theorem foldl_appendBytes {s : State} (d a k : Nat) (l : List Byte) (n : Nat)
    (hloc : ∀ j, n ≤ j → j < n + l.length → s.isLocal (a + j) = true ∧ s.key (a + j) = k + j)
    (hok : ∀ j, n ≤ j → j < n + l.length → s.checkPhys d .store true (a + j) (a + j) = none) :
    let u := (l.zipIdx n).foldl (fun s e =>
      match s.checkPhys d .store true (a + e.2) (a + e.2) with
      | some _ => s
      | none => s.physWriteList .management d [a + e.2] [e.1]) s
    Appends s u ∧ u.mem = writeCells s.mem (k + n) l := by
  induction l generalizing s n with
  | nil => exact ⟨appends_of_orders (Orders.refl s), rfl⟩
  | cons b t ih =>
    obtain ⟨hl, hk⟩ := hloc n le_rfl (by simp)
    have hc := hok n le_rfl (by simp)
    obtain ⟨h1, hm1⟩ := physWriteList_byte d b (lands_of_checkPhys hl hc)
    have hlen : n + 1 + t.length = n + (b :: t).length := by simp; omega
    obtain ⟨h2, hm2⟩ := ih (s := s.physWriteList .management d [a + n] [b]) (n + 1)
      (fun j hj hj' => by rw [h1.1.isLocal, h1.1.key]; exact hloc j (by omega) (by omega))
      (fun j hj hj' => by rw [checkPhys_of_touches h1.1]; exact hok j (by omega) (by omega))
    rw [List.zipIdx_cons, List.foldl_cons]
    simp only [hc]
    refine ⟨h1.trans h2, hm2.trans ?_⟩
    rw [hm1, hk]
    rfl

/-- The packet's bytes in a ring slot whose addresses nothing refuses (R292). -/
theorem appendPacket_spec {s : State} {w : WQ} {l : List Byte} {a k : Nat} (ha : s.ownPkg * pkgSpan + w.slot w.tail.toNat = a)
    (hloc : ∀ j, j < l.length → s.isLocal (a + j) = true ∧ s.key (a + j) = k + j)
    (hok : ∀ j, j < l.length → s.checkPhys w.die .store true (a + j) (a + j) = none) :
    Appends s (s.appendPacket w l) ∧ (s.appendPacket w l).mem = writeCells s.mem k l := by
  unfold State.appendPacket
  rw [ha]
  exact foldl_appendBytes w.die a k l 0 (fun j _ hj => hloc j (by omega)) (fun j _ hj => hok j (by omega))

theorem appends_forkLaunch (s : State) (w : WQ) (p : List Nat) :
    Appends s (s.forkLaunch w p) ∧ (s.forkLaunch w p).mem = s.mem := by
  have hrel (pas : List Nat) : Appends s (s.noteRelease .fork pas) ∧ (s.noteRelease .fork pas).mem = s.mem := by
    have ho := orders_noteRelease s .fork pas
    refine ⟨appends_of_orders ho, ?_⟩
    obtain ⟨_, _, _, _, he⟩ := ho
    rw [he]
  unfold State.forkLaunch
  split
  · exact ⟨appends_of_orders (Orders.refl s), rfl⟩
  · split
    · exact hrel _
    · exact ⟨appends_of_orders (Orders.refl s), rfl⟩

/-- The state behind LAUNCH's read of its packet. -/
def packetRead (s : State) (pas : List Nat) : State :=
  (s.readLines s.cpu.id.die (pas.map s.key)).setBack { s.cpu.back with strip := settleWrites s.cpu.back.strip (pas.map s.key) }

theorem orders_packetRead (s : State) (pas : List Nat) : Orders s (packetRead s pas) := ⟨_, _, _, _, rfl⟩

theorem loadRead_of_ok {s : State} {va n : Nat} {pas : List Nat}
    (h : s.accessBytes s.cpu.ctx .load false (vaRange va n) = .ok pas) :
    s.loadRead va n = .ok (packetRead s pas, pas.map (s.physByte s.cpu.id.die)) := by
  unfold State.loadRead
  rw [h]
  rfl

/-- LAUNCH of a packet that its checks pass, into a queue that harts launch into. -/
theorem exec_launch (d a b : Reg) {s : State} {pas : List Nat} (hin : s.cpu.inflight = []) (hdup : s.inDup = false)
    (hal : s.getU a % 128 = 0) (hq : s.getU b ≤ 2047) (hen : (s.wq (s.getU b)).en = true) (hby : (s.wq (s.getU b)).byHart = true)
    (hacc : s.accessBytes s.cpu.ctx .load false (vaRange (s.getU a) 128) = .ok pas)
    (hreason : launchReason (packetBytes (pas.map (s.physByte s.cpu.id.die))) (s.wq (s.getU b)).privok s.cpu.id.priv = 0) :
    let w := s.wq (s.getU b)
    let u := packetRead s pas
    let l := pas.map (s.physByte s.cpu.id.die)
    exec (.launch d a b) s = .next (if 2 ^ w.size ≤ w.tail.toNat - w.head.toNat then u.compute 4 d 0
      else (((u.appendPacket w l).forkLaunch w (packetBytes l)).setWq (s.getU b) { w with tail := w.tail + 1 }).compute 4 d
        (w.tail + 1)) := by
  intro w u l
  have hreason' : launchReason (packetBytes l) w.privok u.cpu.id.priv = 0 := hreason
  change execLaunch d a b s = _
  unfold execLaunch
  rw [State.whenOldest_nil s _ _ hin]
  simp only [hdup, hal, hen, hby, loadRead_of_ok hacc]
  rw [if_neg (by simp), if_neg (by simp), if_neg (by simp; omega)]
  simp only [l, w, u] at hreason' ⊢
  rw [if_neg (by simp [hreason'])]

/-- An instruction that retires behind writes of other agents' bytes. -/
theorem retiresWith_of_appends {s u : State} (h : Appends s u) (d : Reg) (v : W64) :
    let t := u.compute 4 d v
    RetiresWith s t (past s t 4) ∧ SameBack s t ∧ SameOthers s t := by
  intro t
  have hret := (compute_spec u 4 d v).2
  have hcpu : t.cpu = { u.cpu with front := t.cpu.front, wait := none, due := none, resumed := t.cpu.resumed, trapped := false } :=
    hret.2.1
  have hdigest : t.cpu.digest = s.cpu.digest := (congrArg Hart.digest hcpu).trans h.2
  have hlanes : t.cpu.lanes = s.cpu.lanes := by
    obtain ⟨⟨_, _, _, _, _, _, _, rfl⟩, -⟩ := h
    exact (congrArg Hart.lanes hcpu :)
  have hskips : t.cpu.skips = s.cpu.skips := by
    obtain ⟨⟨_, _, _, _, _, _, _, rfl⟩, -⟩ := h
    exact (congrArg Hart.skips hcpu :)
  obtain ⟨hfront, hcpu, hback, hothers, -, -⟩ := retiresStore_of_touches h.1 hret
  rw [hdigest] at hcpu
  refine ⟨⟨hfront, ?_, .inl hlanes⟩, hback, hothers⟩
  rw [hlanes, hskips]
  exact hcpu

/-- Settles O24: LAUNCH reads its packet, and either finds the ring full or writes the bytes of the packet into its slot and the new
tail into the queue's register. -/
theorem launchAppends : Obligations.LaunchAppends := by
  unfold Obligations.LaunchAppends
  intro d a b s l hin hdup hal hq hen hby hl hreason w slot at_
  obtain ⟨pas, hacc, rfl⟩ := (s.loadBytes_ok (s.getU a) 128 l).1 hl
  have hexec := exec_launch d a b hin hdup hal hq hen hby hacc hreason
  have ho := orders_packetRead s pas
  refine ⟨fun hfull => ?_, fun hroom hslot hok => ?_⟩
  · obtain ⟨⟨hd, hx⟩, hret⟩ := compute_spec (packetRead s pas) 4 d 0
    rw [hexec, if_pos hfull]
    exact ⟨_, rfl, ⟨hd, fun r hr => (hx r hr).trans (getX_of_orders ho r)⟩, retiresLoad_of_orders ho hret⟩
  · rw [hexec, if_neg (Nat.not_le.2 hroom)]
    have hlen : (pas.map (s.physByte s.cpu.id.die)).length = 128 := by rw [List.length_map, length_pas hacc]
    have hspan : ∀ k, k < 128 → s.isLocal (at_ + k) = true ∧ s.key (at_ + k) = slot + k := fun k hk => by
      have hdiv : (at_ + k) / pkgSpan = s.ownPkg := by
        change (s.ownPkg * 2 ^ 50 + slot + k) / 2 ^ 50 = _
        omega
      have hloc : s.isLocal (at_ + k) = true := by simp [State.isLocal, hdiv]
      refine ⟨hloc, ?_⟩
      rw [State.key, if_pos hloc]
      change (s.ownPkg * 2 ^ 50 + slot + k) % 2 ^ 50 = _
      omega
    obtain ⟨happ, hmem⟩ := appendPacket_spec (s := packetRead s pas) (w := w) (l := pas.map (s.physByte s.cpu.id.die)) (a := at_)
      (k := slot) rfl
      (fun j hj => by rw [ho.touches.isLocal, ho.touches.key]; exact hspan j (by omega))
      (fun j hj => by rw [checkPhys_of_touches ho.touches]; exact hok j (by omega))
    obtain ⟨hfork, hforkmem⟩ := appends_forkLaunch ((packetRead s pas).appendPacket w (pas.map (s.physByte s.cpu.id.die))) w
      (packetBytes (pas.map (s.physByte s.cpu.id.die)))
    generalize hu : ((packetRead s pas).appendPacket w (pas.map (s.physByte s.cpu.id.die))).forkLaunch w
      (packetBytes (pas.map (s.physByte s.cpu.id.die))) = u at hfork hforkmem ⊢
    have hall : Appends s u := ((appends_of_orders ho).trans happ).trans hfork
    have hread : u.mem = writeCells s.mem slot (pas.map (s.physByte s.cpu.id.die)) := hforkmem.trans hmem
    obtain ⟨hret, hback, hothers⟩ := retiresWith_of_appends hall d (w.tail + 1)
    obtain ⟨hd, hx⟩ := (compute_spec u 4 d (w.tail + 1)).1
    have hwqs : u.pkg.wqs = s.pkg.wqs := by
      obtain ⟨⟨_, _, _, _, _, _, _, rfl⟩, -⟩ := hall
      rfl
    have hwq (q : Nat) : ((u.setWq (s.getU b) { w with tail := w.tail + 1 }).compute 4 d (w.tail + 1)).wq q
        = if q = s.getU b then { w with tail := w.tail + 1 } else s.wq q := by
      change mget WQ.reset (mset WQ.reset u.pkg.wqs (s.getU b) { w with tail := w.tail + 1 }) q = _
      rw [mget_mset, hwqs]
      rfl
    refine ⟨_, rfl, ⟨hd, fun r hr => (hx r hr).trans (getX_of_touches hall.1 r)⟩, ?_, fun q hq => ?_, fun k => ?_, hret, hback,
      hothers, ?_⟩
    · rw [hwq, if_pos rfl]
    · rw [hwq, if_neg hq]
    · change readCell u.mem k = _
      rw [hread, readCell_writeCells, hlen]
    · obtain ⟨⟨_, _, _, _, _, _, _, rfl⟩, -⟩ := hall
      rfl

end Sys2Proof.Claims
end

section
/-! PROOF. SAFEPT and YIELD (R119, R182, R196, R367, R368, R392). -/

namespace Sys2Proof.Claims

open Sys2Proof Sys2Proof.Machine

/-! The refusals that mreq counts (R182). -/

theorem toNat_count (m : W64) : (m + BitVec.ofNat 64 (2 ^ 32)).toNat = (m.toNat + 4294967296) % 18446744073709551616 :=
  BitVec.toNat_add _ _

theorem mod_of_count (n : Nat) : (n + 4294967296) % 18446744073709551616 % 4294967296 = n % 4294967296 := by omega

theorem field_of_count (n : Nat) (h : n / 4294967296 % 65536 ≠ 65535) :
    (n + 4294967296) % 18446744073709551616 / 4294967296 % 65536 = min 65535 (n / 4294967296 % 65536 + 1) := by omega

theorem refuseReq_low (m : W64) : (refuseReq m).setWidth 32 = m.setWidth 32 := by
  unfold refuseReq
  split
  · rfl
  · apply BitVec.eq_of_toNat_eq
    rw [BitVec.toNat_setWidth, BitVec.toNat_setWidth, toNat_count]
    exact mod_of_count m.toNat

theorem refuseReq_count (m : W64) : bitsOf (refuseReq m).toNat 47 32 = min 0xFFFF (bitsOf m.toNat 47 32 + 1) := by
  unfold refuseReq
  split
  next h => rw [h]; rfl
  next h => rw [toNat_count]; exact field_of_count m.toNat h

/-! The ways SAFEPT goes. -/

/-- The state in which a share is reserved for the SAFEPT at hand. -/
def reserving (s : State) (r : Reservation) : State := { s with pkg := { s.pkg with reserved := s.pkg.reserved ++ [r] } }

theorem exec_safept_idle (d a b : Reg) {s : State} (hb : s.getU b < 2 ^ 28) (hres : s.reservation = none)
    (h : s.cpu.front.mreq.getLsbD 0 = false ∨ s.cpu.front.estat.getLsbD 0 = true) :
    exec (.safept d a b) s = .next (s.compute 4 d 0) := by
  change execSafept d a b s = _
  unfold execSafept
  dsimp only
  rw [if_neg (Nat.not_le.2 hb), hres]
  dsimp only
  rw [bitAt_zero, bitAt_zero, if_pos (by rcases h with h | h <;> simp only [h, Bool.not_false, Bool.true_or, Bool.or_true])]

theorem exec_safept_asked (d a b : Reg) {s : State} (hb : s.getU b < 2 ^ 28) (hres : s.reservation = none)
    (hm : s.cpu.front.mreq.getLsbD 0 = true) (he : s.cpu.front.estat.getLsbD 0 = false) (hgo : s.chosenToGo = false)
    (hin : s.cpu.inflight = []) :
    exec (.safept d a b) s = .next (match s.migrationTarget (s.gangHolds s.cpu.id.die) with
      | none => s.refuseMove d
      | some t =>
        let r : Reservation := ⟨s.cpu.id.uid, s.cpu.id.die, t.1, t.2, s.familyShare s.cpu, d, s.getU b, s.getU a % 2 ^ 32,
          s.getU a / 2 ^ 32⟩
        (reserving s r).migrate r) := by
  change execSafept d a b s = _
  unfold execSafept
  dsimp only
  rw [if_neg (Nat.not_le.2 hb), hres]
  dsimp only
  rw [bitAt_zero, bitAt_zero, hm, he, hgo]
  simp only [Bool.not_true, Bool.or_self, Bool.false_eq_true, if_false]
  cases s.migrationTarget (s.gangHolds s.cpu.id.die) with
  | none => rfl
  | some t => exact congrArg Host.Outcome.next (if_pos ((State.oldest_iff _).2 hin))

/-- The refusal changes nothing but mreq's count: no share was reserved. -/
theorem refuseMove_spec {s : State} (d : Reg) (hres : s.reservation = none) :
    let t := s.refuseMove d
    WritesX s t d 2 ∧ RetiresOnly s t { past s t 4 with mreq := refuseReq s.cpu.front.mreq } ∧ t.cpu.back = s.cpu.back := by
  have hkept : s.pkg.reserved.filter (fun e => e.uid != s.cpu.id.uid) = s.pkg.reserved := by
    rw [List.filter_eq_self]
    intro e he
    have := List.find?_eq_none.1 hres e he
    simpa using this
  have heq : s.refuseMove d = (s.setFront { s.cpu.front with mreq := refuseReq s.cpu.front.mreq }).compute 4 d 2 := by
    unfold State.refuseMove
    simp only [hkept]
  intro t
  obtain ⟨hx, hret⟩ := compute_spec (s.setFront { s.cpu.front with mreq := refuseReq s.cpu.front.mreq }) 4 d 2
  rw [← heq] at hx hret
  exact ⟨hx, retiresOnly_of_retiresAt_setFront hret rfl, (congrArg Hart.back hret.2.1 :)⟩

/-! The move of a hart without children. -/

theorem family_of_childless {s : State} (hp : s.cpu.id.parent = none) (hk : ∀ h ∈ s.others, h.id.parent ≠ some s.cpu.id.uid) :
    descendants s.harts 3 s.cpu.id.uid = [] := by
  have hnone : s.harts.filter (fun h => h.id.parent = some s.cpu.id.uid && h.status != .absent) = [] := by
    rw [List.filter_eq_nil_iff]
    intro h hh
    rcases List.mem_cons.1 (List.mem_filter.1 hh).1 with rfl | ho
    · simp [hp]
    · simp [hk h ho]
  unfold descendants
  rw [hnone]
  rfl

theorem Quiet.settleMove {s : State} (h : Quiet s) : s.settleMove = s := by
  have hout : s.finishOutbound = s := upto_eq_self fun c => h.runUntil c _
  unfold State.settleMove State.deliverGrammar
  rw [hout, h.settleInbound]
  simp only [h.2.2.1, List.filter_nil]
  rw [← h.2.2.1]
  rfl

theorem Quiet.moveReady {s : State} (h : Quiet s) : s.moveReady s.cpu = true := by
  unfold State.moveReady State.inboundDue
  rw [h.2.2.2]
  simp only [List.filter_nil, List.isEmpty_nil, Bool.and_true, List.all_eq_true]
  intro ch hch
  obtain ⟨k, hk, rfl⟩ := Vector.mem_iff_getElem.1 (Vector.mem_toList_iff.1 hch)
  have ho := (h.2.1 k hk).1
  simp only [vget, hk, dif_pos] at ho
  simp [ho]

/-- A choice between candidates gives one of them. -/
theorem mem_of_foldl_choice {α : Type} {f : Option α → α → Option α} (hf : ∀ best x, f best x = some x ∨ f best x = best)
    (l : List α) (best : Option α) {c : α} (h : l.foldl f best = some c) : best = some c ∨ c ∈ l := by
  induction l generalizing best with
  | nil => exact .inl h
  | cons x t ih =>
    rw [List.foldl_cons] at h
    rcases ih _ h with he | hm
    · rcases hf best x with hx | hx
      · rw [hx] at he
        cases he
        exact .inr List.mem_cons_self
      · exact .inl (hx ▸ he)
    · exact .inr (List.mem_cons_of_mem _ hm)

/-- The share that is chosen is one that its condition admits (R285). -/
theorem ok_of_firstShare {s : State} {d share : Nat} {taken : List (Nat × Nat)} {ok : Ident → Bool} {c : Nat × Nat}
    (h : s.firstShare d share taken ok = some c) :
    ok { Ident.none with die := d, core := c.1, slot := c.2, share := share } = true := by
  have hmem : c ∈ s.freeShares d share taken ok := by
    unfold State.firstShare at h
    refine (mem_of_foldl_choice (fun best x => ?_) _ none h).resolve_left nofun
    cases best with
    | none => exact .inl rfl
    | some b => by_cases hb : s.placeKey d taken x < s.placeKey d taken b <;> simp [hb]
  unfold State.freeShares at hmem
  obtain ⟨core, -, hcore⟩ := List.mem_flatMap.1 hmem
  split at hcore
  · cases hcore
  · obtain ⟨slot, hslot, rfl⟩ := List.mem_map.1 hcore
    have := (List.mem_filter.1 hslot).2
    simp only [Bool.and_eq_true] at this
    exact this.2

theorem fitsAt_of_target {s : State} {held : List (Nat × Nat)} {c : Nat × Nat} (h : s.migrationTarget held = some c) :
    s.cpu.id.parent = none ∧ s.fitsAt c = true := by
  unfold State.migrationTarget at h
  dsimp only at h
  split at h
  next => cases h
  next hp =>
    have := ok_of_firstShare h
    simp only [Bool.and_eq_true] at this
    exact ⟨by simpa using hp, this.2⟩

theorem swapSlots_frame (s : State) (d : Nat) (a b : Nat × Nat) :
    (s.swapSlots d a b).cpu = s.cpu ∧ (s.swapSlots d a b).mem = s.mem := ⟨rfl, rfl⟩

theorem swapShare_frame (s : State) (d : Nat) (a b : Nat × Nat) (n : Nat) (cores : Bool) :
    (s.swapShare d a b n cores).cpu = s.cpu ∧ (s.swapShare d a b n cores).mem = s.mem := by
  have hcpu : (upto n (fun k s => s.swapSlots d (a.1, a.2 + k) (b.1, b.2 + k)) s).cpu = s.cpu :=
    upto_frame State.cpu fun _ _ _ => rfl
  have hmem : (upto n (fun k s => s.swapSlots d (a.1, a.2 + k) (b.1, b.2 + k)) s).mem = s.mem :=
    upto_frame State.mem fun _ _ _ => rfl
  unfold State.swapShare
  dsimp only
  split
  · exact ⟨hcpu, hmem⟩
  · exact ⟨hcpu, hmem⟩

/-- What a move leaves of the hart (R196). -/
theorem moveHart_spec (s : State) (c : Nat × Nat) (regs first len : Nat) :
    (s.moveHart c regs first len).cpu.front = { s.cpu.front with mreq := 0 }
      ∧ (s.moveHart c regs first len).cpu.id = s.cpu.id.reseat (s.cpu.id.core, s.cpu.id.slot) c
      ∧ (s.moveHart c regs first len).mem = s.mem := by
  unfold State.moveHart State.regrant
  dsimp only
  rw [(swapShare_frame _ _ _ _ _ _).1, (swapShare_frame _ _ _ _ _ _).2]
  exact ⟨rfl, rfl, rfl⟩

theorem migrate_of_quiet {s : State} {r : Reservation} (hq : Quiet s) (hgo : s.chosenToGo = false) (hm : MayMove s)
    (hp : s.cpu.id.parent = none) (hfit : s.fitsAt (r.core, r.slot) = true) :
    s.migrate r = (s.moveHart (r.core, r.slot) r.regs r.first r.len).compute 4 r.d 1 := by
  obtain ⟨hahead, hkids⟩ := hm
  have hd := family_of_childless hp hkids
  unfold State.migrate
  dsimp only
  rw [hgo, hd]
  simp only [List.map_nil, List.foldl_nil, hq.settleMove, hfit, hahead, Bool.false_eq_true, if_false, Bool.not_true,
    Option.isSome_none, State.family, hd, List.all_cons, List.all_nil, hq.moveReady]
  simp

theorem quiet_reserving {s : State} (r : Reservation) (h : Quiet s) : Quiet (reserving s r) := h

theorem chosenToGo_reserving (s : State) (r : Reservation) : (reserving s r).chosenToGo = s.chosenToGo := rfl

theorem mayMove_reserving {s : State} (r : Reservation) (h : MayMove s) : MayMove (reserving s r) := h

theorem vlmaxOf_reserving (s : State) (r : Reservation) : (reserving s r).vlmaxOf = s.vlmaxOf := rfl

theorem mrmaxOf_reserving (s : State) (r : Reservation) : (reserving s r).mrmaxOf = s.mrmaxOf := rfl

theorem family_reserving (s : State) (r : Reservation) : (reserving s r).family = s.family := rfl

theorem fitsAt_reserving (s : State) (r : Reservation) : (reserving s r).fitsAt = s.fitsAt := by
  funext c
  unfold State.fitsAt
  rw [vlmaxOf_reserving, mrmaxOf_reserving, family_reserving]
  rfl

/-- The migration of a quiet hart without children to its target (R196, R392). -/
theorem safept_moves (d a b : Reg) {s : State} {c : Nat × Nat} (hb : s.getU b < 2 ^ 28) (hres : s.reservation = none)
    (hm : s.cpu.front.mreq.getLsbD 0 = true) (he : s.cpu.front.estat.getLsbD 0 = false) (hgo : s.chosenToGo = false)
    (hq : Quiet s) (hmay : MayMove s) (hto : s.migrationTarget (s.gangHolds s.cpu.id.die) = some c) :
    ∃ t, exec (.safept d a b) s = .next t ∧ t.getX d = (if d.val = 0 then 0 else 1) ∧ t.cpu.front.mreq = 0
      ∧ t.cpu.id.core = c.1 ∧ t.cpu.id.slot = c.2 ∧ t.cpu.front.pc = s.cpu.front.pc + 4 ∧ SameMem s t := by
  obtain ⟨hp, hfit⟩ := fitsAt_of_target hto
  have hexec := exec_safept_asked d a b hb hres hm he hgo hq.1
  rw [hto] at hexec
  dsimp only at hexec
  generalize hr : (⟨s.cpu.id.uid, s.cpu.id.die, c.1, c.2, s.familyShare s.cpu, d, s.getU b, s.getU a % 2 ^ 32,
    s.getU a / 2 ^ 32⟩ : Reservation) = r at hexec
  have hplace : (r.core, r.slot) = c := by rw [← hr]
  have hd : r.d = d := by rw [← hr]
  have hmig := migrate_of_quiet (quiet_reserving r hq) (by rw [chosenToGo_reserving]; exact hgo) (mayMove_reserving r hmay) hp
    (by rw [fitsAt_reserving, hplace]; exact hfit)
  obtain ⟨hfront, hid, hmem⟩ := moveHart_spec (reserving s r) (r.core, r.slot) r.regs r.first r.len
  rw [hd] at hmig
  generalize (reserving s r).moveHart (r.core, r.slot) r.regs r.first r.len = u at hmig hfront hid hmem
  rw [hplace] at hid
  obtain ⟨⟨hx, -⟩, hret, hhart, -, -, -, hsame⟩ := compute_spec u 4 d 1
  have hcpu : (u.compute 4 d 1).cpu = { u.cpu with
      front := (u.compute 4 d 1).cpu.front, wait := none, due := none, resumed := (u.compute 4 d 1).cpu.resumed, trapped := false } :=
    hhart
  have hid' : (u.compute 4 d 1).cpu.id = s.cpu.id.reseat (s.cpu.id.core, s.cpu.id.slot) c := (congrArg Hart.id hcpu).trans hid
  refine ⟨_, hexec.trans (congrArg Host.Outcome.next hmig), hx, ?_, ?_, ?_, ?_, fun k => ?_⟩
  · rw [hret, hfront]
  · rw [hid']; rfl
  · rw [hid']; simp [Ident.reseat]
  · rw [hret, hfront]; rfl
  · rw [hsame, hmem]; rfl

theorem exec_safept_illegal (d a b : Reg) {s : State} (hb : 2 ^ 28 ≤ s.getU b) :
    exec (.safept d a b) s = .next (s.raise (.safept d a b) (illegalOf (.safept d a b))) := by
  change execSafept d a b s = _
  unfold execSafept
  dsimp only
  rw [if_pos hb]

theorem exec_yield_alone (d : Reg) {s : State} (h : ∀ g, s.gang = some g → s.isNeeded g = false) :
    exec (.yield d) s = .next (s.compute 4 d 0) := by
  change execYield d s = _
  unfold execYield
  cases hg : s.gang with
  | none => rfl
  | some g => simp [h g hg]

/-- Settles O25: nothing asked, no target, a move to the target, an illegal mask, and YIELD with nobody waiting. -/
theorem safeptResults : Obligations.SafeptResults := by
  unfold Obligations.SafeptResults
  refine ⟨fun d a b s hin hb hres => ⟨fun hidle => ?_, fun hm he hgo hno => ?_, fun c hm he hgo hq hmay hto => ?_⟩,
    fun d a b s hin hc hb => ?_, fun d s h => ?_⟩
  · rw [exec_safept_idle d a b hb hres hidle]
    exact ⟨_, rfl, compute_spec s 4 d 0⟩
  · rw [exec_safept_asked d a b hb hres hm he hgo hin, hno]
    obtain ⟨hx, hret, hback⟩ := refuseMove_spec d hres
    have hmreq : (s.refuseMove d).cpu.front.mreq = refuseReq s.cpu.front.mreq := by rw [hret.1.1]
    rw [← hmreq] at hret
    exact ⟨_, rfl, hx, hret, hback, by rw [hmreq, refuseReq_low], by rw [hmreq, refuseReq_count]⟩
  · exact safept_moves d a b hb hres hm he hgo hq hmay hto
  · rw [exec_safept_illegal d a b hb]
    exact ⟨_, rfl, traps_raise_illegalOf (.safept d a b) hin hc⟩
  · rw [exec_yield_alone d h]
    exact ⟨_, rfl, compute_spec s 4 d 0⟩

end Sys2Proof.Claims
end

section
/-! PROOF. FORK and JOIN (R23, R24, R363, R364). -/

namespace Sys2Proof.Claims

open Sys2Proof Sys2Proof.Machine

theorem queuesEmpty_of {s : State} (h : QueuesEmpty s) : s.queuesEmpty = true := by
  unfold State.queuesEmpty
  rw [List.all_eq_true]
  intro q hq
  obtain ⟨k, hk, rfl⟩ := Vector.mem_iff_getElem.1 (Vector.mem_toList_iff.1 hq)
  obtain ⟨hrows, hpart⟩ := h k hk
  simp only [Back.queue, vget, hk, dif_pos] at hrows hpart
  simp [hrows, hpart]

theorem Quiet.whenQuiet {s : State} (h : Quiet s) (he : QueuesEmpty s) (body : State → State) : s.whenQuiet body = body s := by
  unfold State.whenQuiet
  rw [queuesEmpty_of he, h.whenRested, h.whenDelivered]
  rfl

/-! FORK. -/

theorem exec_fork_matrix (d a b : Reg) {s : State} (hm : s.cpu.front.mmode = true) :
    exec (.fork d a b) s = .next (s.raise (.fork d a b) (trapOf (.fork d a b) .matrixState (s.matrixEval none) 0)) := by
  change execFork d a b s = _
  unfold execFork
  dsimp only
  rw [if_pos hm]

theorem exec_fork_illegal (d a b : Reg) {s : State} (hm : s.cpu.front.mmode = false)
    (h : s.cpu.id.share = 4 ∨ s.bar.expected ≠ 0) :
    exec (.fork d a b) s = .next (s.raise (.fork d a b) (illegalOf (.fork d a b))) := by
  change execFork d a b s = _
  unfold execFork
  dsimp only
  rw [if_neg (by simp [hm]), if_pos (by simpa using h)]

theorem exec_fork_area (d a b : Reg) {s : State} (hm : s.cpu.front.mmode = false) (hshare : s.cpu.id.share ≠ 4)
    (hbar : s.bar.expected = 0) {sub va : Nat} (h : s.forkArea (s.getU b) = some (sub, va)) :
    exec (.fork d a b) s = .next (s.raise (.fork d a b) (trapOf (.fork d a b) .storeFault va sub)) := by
  change execFork d a b s = _
  unfold execFork
  dsimp only
  rw [if_neg (by simp [hm]), if_neg (by simp [hshare, hbar]), h]

theorem exec_fork_forks (d a b : Reg) {s : State} (hq : Quiet s) (he : QueuesEmpty s) (hm : s.cpu.front.mmode = false)
    (hshare : s.cpu.id.share ≠ 4) (hbar : s.bar.expected = 0) (h : s.forkArea (s.getU b) = none) :
    exec (.fork d a b) s = .next (s.forked d (s.getX a) (s.getX b)) := by
  change execFork d a b s = _
  unfold execFork
  dsimp only
  rw [if_neg (by simp [hm]), if_neg (by simp [hshare, hbar]), h]
  dsimp only
  rw [State.whenOldest_nil s _ _ hq.1, hq.whenQuiet he]

/-- The child that FORK begins. -/
def childOf (s : State) (a b : Reg) : Hart :=
  s.forkChild (s.getX a) (s.getX b) (s.cpu.id.share / 2) (s.vlmaxOf { s.cpu.id with share := s.cpu.id.share / 2 })

theorem getX_childOf (s : State) (a b r : Reg) :
    (childOf s a b).front.getX r = if 10 ≤ r.val ∧ r.val ≤ 13 then s.getX r else 0 := by
  have hx : (childOf s a b).front.x[r.val] = if 10 ≤ r.val ∧ r.val < 14 then s.cpu.front.x[r.val] else 0 := by
    simp [childOf, State.forkChild]
  unfold Front.getX State.getX Front.getX
  rw [hx]
  by_cases h0 : r.val = 0
  · simp [h0]
  · simp only [h0, if_false, Nat.lt_succ_iff]

/-- The state behind the split, before FORK retires. -/
def split (s : State) (a b : Reg) : State :=
  let b1 : Back := { s.cpu.back.reshare with
    v := below s.cpu.back.v (s.vlmaxOf { s.cpu.id with share := s.cpu.id.share / 2 })
    m := below s.cpu.back.m (s.vlmaxOf { s.cpu.id with share := s.cpu.id.share / 2 })
    spad := s.cpu.back.spad.filter (fun e => e.1 < 65536 * (s.cpu.id.share / 2)) }
  State.regrant { s with
    cpu := { s.cpu with id := { s.cpu.id with share := s.cpu.id.share / 2 }, back := b1, front := s.cpu.front.reshare }
    others := s.others ++ [childOf s a b]
    pkg := { s.pkg with nextUid := s.pkg.nextUid + 1 } } s.cpu.id.gang

theorem forked_eq (s : State) (d a b : Reg) :
    s.forked d (s.getX a) (s.getX b) = (split s a b).compute 4 d (BitVec.ofNat 64 (childOf s a b).id.addr) := rfl

/-- Retiring with a result behind a change of the share (R23, R24). -/
theorem reshare_compute {s u : State} (hf : u.cpu.front = s.cpu.front.reshare) (d : Reg) (v : W64) :
    let t := u.compute 4 d v
    WritesX s t d v ∧ t.cpu.front = { past s t 4 with
      vl := 0, rc := 0, interval := s.cpu.front.interval + 1, instret := s.cpu.front.instret + 1, cycle := t.cpu.front.cycle }
      ∧ t.cpu.id = u.cpu.id ∧ t.cpu.back = u.cpu.back ∧ t.others = u.others ∧ t.mem = u.mem := by
  intro t
  obtain ⟨⟨hd, hx⟩, hfront, -⟩ := compute_spec u 4 d v
  obtain ⟨x, c, r, n, ht⟩ := exists_compute_eq u 4 d v
  have hget (k : Reg) : u.getX k = s.getX k := by
    unfold State.getX
    rw [hf]
    rfl
  refine ⟨⟨hd, fun k hk => (hx k hk).trans (hget k)⟩, ?_, ?_⟩
  · refine hfront.trans ?_
    rw [hf]
    rfl
  · change (u.compute 4 d v).cpu.id = _ ∧ _
    simp only [t, ht, and_self]

/-- The launch state of a child, by field (R23, R363). -/
theorem childOf_frame (s : State) (a b : Reg) :
    let c := childOf s a b
    c.status = .running ∧ c.id.parent = some s.cpu.id.uid ∧ c.id.share = s.cpu.id.share / 2
      ∧ c.id.slot = s.cpu.id.slot + s.cpu.id.share / 8
      ∧ c.front.pc = s.getX a &&& ~~~(1 : W64) ∧ c.front.esave = s.getX b := by
  refine ⟨rfl, rfl, rfl, ?_, rfl, rfl⟩
  change s.cpu.id.slot + s.cpu.id.share / 2 / 4 = _
  rw [Nat.div_div_eq_div_mul]

theorem childOf_settings (s : State) (a b : Reg) :
    let f := (childOf s a b).front
    f.vtag = s.cpu.front.vtag ∧ f.tvec = s.cpu.front.tvec ∧ f.estat = 0 := by
  simp [childOf, State.forkChild, Front.reset]

theorem fork_forks (d a b : Reg) {s : State} (hq : Quiet s) (he : QueuesEmpty s) (hm : s.cpu.front.mmode = false)
    (hshare : s.cpu.id.share ≠ 4) (hbar : s.bar.expected = 0) (h : s.forkArea (s.getU b) = none) :
    ∃ t c, exec (.fork d a b) s = .next t ∧ t.others = s.others ++ [c] ∧ WritesX s t d (BitVec.ofNat 64 c.id.addr)
      ∧ c.status = .running ∧ c.id.parent = some s.cpu.id.uid ∧ c.id.share = s.cpu.id.share / 2
      ∧ t.cpu.id = { s.cpu.id with share := s.cpu.id.share / 2 }
      ∧ c.id.slot = s.cpu.id.slot + s.cpu.id.share / 8
      ∧ c.front.pc = s.getX a &&& ~~~(1 : W64) ∧ c.front.esave = s.getX b
      ∧ (∀ r : Reg, c.front.getX r = if 10 ≤ r.val ∧ r.val ≤ 13 then s.getX r else 0)
      ∧ c.front.vtag = s.cpu.front.vtag ∧ c.front.tvec = s.cpu.front.tvec ∧ c.front.estat = 0
      ∧ t.cpu.front = { past s t 4 with
          vl := 0, rc := 0, interval := s.cpu.front.interval + 1
          instret := s.cpu.front.instret + 1, cycle := t.cpu.front.cycle }
      ∧ SameMem s t := by
  obtain ⟨hx, hfront, hid, -, hothers, hmem⟩ := reshare_compute (s := s) (u := split s a b) rfl d
    (BitVec.ofNat 64 (childOf s a b).id.addr)
  obtain ⟨hrun, hparent, hcshare, hslot, hpc, hsave⟩ := childOf_frame s a b
  obtain ⟨htag, htvec, hstat⟩ := childOf_settings s a b
  have hregs := getX_childOf s a b
  rw [exec_fork_forks d a b hq he hm hshare hbar h, forked_eq]
  have hmem' : SameMem s ((split s a b).compute 4 d (BitVec.ofNat 64 (childOf s a b).id.addr)) := fun k => by
    rw [hmem]
    rfl
  have hothers' : _ = s.others ++ [childOf s a b] := hothers
  have hid' : _ = { s.cpu.id with share := s.cpu.id.share / 2 } := hid
  generalize (split s a b).compute 4 d (BitVec.ofNat 64 (childOf s a b).id.addr) = t at *
  generalize childOf s a b = c at *
  exact ⟨t, c, rfl, hothers', hx, hrun, hparent, hcshare, hid', hslot, hpc, hsave, hregs, htag, htvec, hstat, hfront, hmem'⟩

/-! JOIN. -/

theorem exec_join_waits (d : Reg) {s : State} {c : Hart} (hc : s.children.getLast? = some c) (hrun : c.status = .running)
    (hm : s.cpu.front.mmode = false) : exec (.join d) s = .next (s.block .family) := by
  change execJoin d s = _
  unfold execJoin
  simp [hc, hm, hrun]

theorem exec_join_joins (d : Reg) {s : State} {c : Hart} (hq : Quiet s) (hc : s.children.getLast? = some c)
    (hend : c.status ≠ .running) (hm : s.cpu.front.mmode = false) :
    exec (.join d) s = .next ((s.absorb c).compute 4 d (c.front.getX 10)) := by
  change execJoin d s = _
  unfold execJoin
  simp only [hc, hm, hend, Bool.false_eq_true, if_false]
  rw [State.whenOldest_nil s _ _ hq.1, hq.whenRested, hq.whenDelivered]

theorem exec_join_ends (d : Reg) {s : State} (hq : Quiet s) (he : QueuesEmpty s) (hc : s.children = [])
    (hp : s.cpu.id.parent.isSome = true) (hm : s.cpu.front.mmode = false) :
    exec (.join d) s = .next (s.endHart 4) := by
  have hp' : s.cpu.id.parent.isNone = false := by simpa using hp
  change execJoin d s = _
  unfold execJoin
  simp only [hc, hm, hp', List.getLast?_nil, Bool.false_eq_true, if_false]
  rw [State.whenOldest_nil s _ _ hq.1, hq.whenQuiet he, hq.whenJoined]

theorem exec_join_matrix (d : Reg) {s : State} (hm : s.cpu.front.mmode = true)
    (h : s.children ≠ [] ∨ s.cpu.id.parent.isSome = true) :
    exec (.join d) s = .next (s.raise (.join d) (trapOf (.join d) .matrixState (s.matrixEval none) 0)) := by
  change execJoin d s = _
  unfold execJoin
  cases hc : s.children.getLast? with
  | some c => simp [hm]
  | none =>
    have hp : s.cpu.id.parent.isNone = false := by
      have := h.resolve_left (by simpa using hc)
      simpa using this
    simp [hp, hm]

theorem exec_join_illegal (d : Reg) {s : State} (hc : s.children = []) (hp : s.cpu.id.parent = none) :
    exec (.join d) s = .next (s.raise (.join d) (illegalOf (.join d))) := by
  change execJoin d s = _
  unfold execJoin
  simp [hc, hp]

theorem matrixEval_of_matrix {s : State} (hm : s.cpu.front.mmode = true) :
    s.matrixEval none = if s.children = [] then 1 else 3 := by
  unfold State.matrixEval
  rw [hm]
  cases hc : s.children <;> simp

theorem traps_matrix {s : State} (i : Instr) (hside : sideOf i = 0) (hlen : i.len = 4) (hin : s.cpu.inflight = [])
    (hc : CanTrap s) (hm : s.cpu.front.mmode = true) :
    Traps s (s.raise i (trapOf i .matrixState (s.matrixEval none) 0)) 4 (if s.children = [] then 1 else 3)
      (estatOf 0 0 15 0 false 4) 0 := by
  have ht := traps_matrixState i (s.matrixEval none) hin hc
  rw [hside, hlen] at ht
  have heval : (BitVec.ofNat 64 (s.matrixEval none) : W64) = if s.children = [] then 1 else 3 := by
    rw [matrixEval_of_matrix hm]
    split <;> rfl
  rwa [heval] at ht

/-- The first page of the save area that cannot be used (R363). -/
theorem forkArea_of_refused {s : State} {va k : Nat} {f : AccFault} (hal : va % 65536 = 0) (hk : k < 145)
    (hbad : s.byteAccess s.cpu.ctx .store true ((va + 65536 * k) % 2 ^ 64) = .error f)
    (hgood : ∀ j, j < k → ∃ pa, s.byteAccess s.cpu.ctx .store true ((va + 65536 * j) % 2 ^ 64) = .ok pa) :
    s.forkArea va = some (1, (va + 65536 * k) % 2 ^ 64) := by
  have hfirst : ∀ p : Nat → Bool, p k = true → (∀ j, j < k → p j = false) → (List.range (cdiv 0x903000 65536)).find? p = some k := by
    intro p hp hbefore
    rw [List.find?_range_eq_some]
    exact ⟨hp, List.mem_range.2 hk, fun j hj => by simp [hbefore j hj]⟩
  unfold State.forkArea
  rw [if_neg (by simp [hal]), hfirst _ (by simp only [hbad]) (fun j hj => by obtain ⟨pa, h⟩ := hgood j hj; simp only [h])]
  rfl

/-- Settles O21: FORK and JOIN, each by its checks in their order and by what it does behind them. -/
theorem forksAndJoins : Obligations.ForksAndJoins := by
  unfold Obligations.ForksAndJoins
  refine ⟨fun d a b s hq he hm hshare hbar h => fork_forks d a b hq he hm hshare hbar h,
    ⟨fun d s c hq hc hend hm => ?_, fun d s hq he hc hp hm => ?_, fun d s c hc hrun hm => ?_⟩,
    fun d a b s hin hct => ⟨fun hm => ?_, fun hm hbad => ?_, fun hm hshare hbar => ⟨fun hal => ?_, fun k f hal hk hbad hgood => ?_⟩,
      fun hm h => ?_, fun hc hp => ?_⟩⟩
  · obtain ⟨hx, hfront, hid, hback, hothers, hmem⟩ := reshare_compute (s := s) (u := s.absorb c) rfl d (c.front.getX 10)
    rw [exec_join_joins d hq hc hend hm]
    exact ⟨_, rfl, hx, hid, hothers, hfront, by rw [hback]; rfl, by rw [hback]; rfl, fun k => by rw [hmem]; rfl⟩
  · rw [exec_join_ends d hq he hc hp hm]
    exact ⟨_, rfl, rfl, fun _ => rfl, rfl, fun _ => rfl⟩
  · rw [exec_join_waits d hc hrun hm]
    exact ⟨_, rfl, rfl, rfl, rfl, rfl, rfl, rfl, fun _ => rfl⟩
  · rw [exec_fork_matrix d a b hm]
    exact ⟨_, rfl, traps_matrix (.fork d a b) rfl rfl hin hct hm⟩
  · rw [exec_fork_illegal d a b hm hbad]
    exact ⟨_, rfl, traps_raise_illegalOf (.fork d a b) hin hct⟩
  · have harea : s.forkArea (s.getU b) = some (4, s.getU b) := if_pos (by simpa using hal)
    have ht := traps_raise_trapOf (.fork d a b) (c := .storeFault) (s.getU b) 4 hin hct (by decide)
    rw [ofNat_getU] at ht
    rw [exec_fork_area d a b hm hshare hbar harea]
    exact ⟨_, rfl, ht⟩
  · have ht := traps_raise_trapOf (.fork d a b) (c := .storeFault) ((s.getU b + 65536 * k) % 2 ^ 64) 1 hin hct (by decide)
    have heval : (BitVec.ofNat 64 ((s.getU b + 65536 * k) % 2 ^ 64) : W64) = BitVec.ofNat 64 (s.getU b + 65536 * k) :=
      BitVec.eq_of_toNat_eq (by rw [BitVec.toNat_ofNat, BitVec.toNat_ofNat, Nat.mod_mod])
    rw [heval] at ht
    rw [exec_fork_area d a b hm hshare hbar (forkArea_of_refused hal hk hbad hgood)]
    exact ⟨_, rfl, ht⟩
  · rw [exec_join_matrix d hm h]
    exact ⟨_, rfl, traps_matrix (.join d) rfl rfl hin hct hm⟩
  · rw [exec_join_illegal d hc hp]
    exact ⟨_, rfl, traps_raise_illegalOf (.join d) hin hct⟩

end Sys2Proof.Claims
end

section
/-! PROOF. TLBINV and ICINV.R (R302, R353, R52). -/

namespace Sys2Proof.Claims

open Sys2Proof Sys2Proof.Machine

/-- A privileged instruction of a hart that may run it, with nothing older uncompleted (R52). -/
theorem privileged_whenOldest {s : State} (i : Instr) (body : State → State) (hin : s.cpu.inflight = []) (hp : s.cpu.id.priv = true) :
    s.privileged i (fun s => s.whenOldest i body) = body s := by
  unfold State.privileged
  rw [if_pos hp]
  exact State.whenOldest_nil s _ _ hin

theorem privileged_refuses {s : State} (i : Instr) (body : State → State) (hp : s.cpu.id.priv = false) :
    s.privileged i body = s.raise i (protectOf i 0) := by
  unfold State.privileged
  rw [if_neg (by simp [hp])]

/-! TLBINV. -/

theorem tlbMatch_eq_true_iff (s : State) (a b : Reg) (e : TlbEnt) (h : s.getU b < 0x3000) :
    tlbMatch (s.getU a) (s.getU b) e = true ↔ Selects s a b e := by
  have hsel : bitsOf (s.getU b) 13 12 = s.getU b / 4096 := by
    unfold bitsOf
    omega
  unfold tlbMatch Selects
  rw [hsel]
  generalize s.getU b = sel at *
  obtain h0 | h1 | h2 : sel / 4096 = 0 ∨ sel / 4096 = 1 ∨ sel / 4096 = 2 := by omega
  · have hp : ¬0x1000 ≤ sel := by omega
    have hq : ¬0x2000 ≤ sel := by omega
    simp [h0, hp, hq, and_assoc]
  · have hp : 0x1000 ≤ sel := by omega
    have hq : ¬0x2000 ≤ sel := by omega
    simp [h1, hp, hq]
  · have hq : 0x2000 ≤ sel := by omega
    simp [h2, hq]

theorem exec_tlbinv (a b : Reg) {s : State} (hin : s.cpu.inflight = []) (hp : s.cpu.id.priv = true) (h : s.getU b < 0x3000)
    (hjobs : ∀ j ∈ s.pkg.jobs, ∀ e ∈ j.leaves, ¬Selects s a b e) :
    exec (.tlbinv a b) s = .next (({ s with pkg := { s.pkg with
      tlb := s.pkg.tlb.filter (fun e => !tlbMatch (s.getU a) (s.getU b) e) } } : State).retire 4) := by
  have hbits : bitsOf (s.getU b) 13 12 ≠ 3 := by
    unfold bitsOf
    omega
  have hnone : ¬s.pkg.jobs.any (fun j => j.leaves.any (tlbMatch (s.getU a) (s.getU b))) = true := by
    simp only [List.any_eq_true, not_exists, not_and]
    exact fun j hj e he hm => hjobs j hj e he ((tlbMatch_eq_true_iff s a b e h).1 hm)
  refine congrArg Host.Outcome.next ((privileged_whenOldest _ _ hin hp).trans ?_)
  dsimp only
  rw [if_neg (by simp [hbits]; omega), if_neg hnone]

/-! ICINV.R. -/

theorem exec_icinvR_zero (a b : Reg) {s : State} (hin : s.cpu.inflight = []) (hp : s.cpu.id.priv = true) (hn : s.getU b = 0) :
    exec (.icinvR a b) s = .next (s.retire 4) := by
  refine congrArg Host.Outcome.next ((privileged_whenOldest _ _ hin hp).trans ?_)
  dsimp only
  rw [if_pos hn]

theorem invPages_zero {s : State} {va n pa : Nat} (hva : va < 2 ^ 64) (h : va % 65536 + n ≤ 65536) (hpa : s.translateInv va = .ok pa) :
    s.invPages va n [0] = (s.dropLines pa n, none) := by
  have hhi : min n ((0 + 1) * 65536 - va % 65536) = n := by omega
  unfold State.invPages
  dsimp only
  rw [if_pos rfl, Nat.add_zero, Nat.mod_eq_of_lt hva, hpa, hhi]
  rfl

theorem exec_icinvR_page (a b : Reg) {s : State} {pa : Nat} (hin : s.cpu.inflight = []) (hp : s.cpu.id.priv = true)
    (hn : s.getU b ≠ 0) (h : s.getU a % 65536 + s.getU b ≤ 65536) (hpa : s.translateInv (s.getU a) = .ok pa) :
    exec (.icinvR a b) s = .next ((s.dropLines pa (s.getU b)).retire 4) := by
  have hpages : cdiv (s.getU a % 65536 + s.getU b) 65536 = 1 := by
    unfold cdiv
    omega
  refine congrArg Host.Outcome.next ((privileged_whenOldest _ _ hin hp).trans ?_)
  dsimp only
  rw [if_neg hn, if_neg (by omega), hpages, show List.range 1 = [0] from rfl,
    invPages_zero (va := s.getU a) (s.getX a).isLt h hpa]

/-- What is left of the code lines is what no dropped byte lies in. -/
theorem mem_icache_dropLines (s : State) (pa n : Nat) (e : Nat × Byte) :
    e ∈ (s.dropLines pa n).pkg.icache ↔ e ∈ s.pkg.icache ∧
      ¬ (n ≠ 0 ∧ s.isLocal pa = true ∧ pa % 2 ^ 50 / 128 ≤ e.1 % 2 ^ 50 / 128
        ∧ e.1 % 2 ^ 50 / 128 ≤ (pa % 2 ^ 50 + n - 1) / 128) := by
  unfold State.dropLines
  split
  next hl =>
    unfold State.dropCode pkgSpan
    rw [List.mem_filter]
    refine and_congr_right fun _ => ?_
    simp only [hl, Bool.true_and, Bool.not_eq_true', Bool.and_eq_false_iff, decide_eq_false_iff_not, bne_eq_false_iff_eq]
    tauto
  next hl => simp [hl]

theorem exists_dropLines_eq (s : State) (pa n : Nat) : ∃ c, s.dropLines pa n = { s with pkg := { s.pkg with icache := c } } := by
  unfold State.dropLines
  split
  · exact ⟨_, rfl⟩
  · exact ⟨s.pkg.icache, rfl⟩

/-- What retiring behind a change of the package's own tables leaves. -/
theorem retire_setPkg_frame (s : State) (p : Pkg) :
    let t := ({ s with pkg := p } : State).retire 4
    KeepsX s t
      ∧ t.cpu.front = { s.cpu.front with
          pc := s.cpu.front.pc + 4, instret := s.cpu.front.instret + 1, cycle := t.cpu.front.cycle }
      ∧ SameHart s t ∧ SameMem s t ∧ t.pkg = p :=
  ⟨fun _ => rfl, rfl, rfl, fun _ => rfl, rfl⟩

/-- Settles O15: TLBINV filters the cached leaves by its selector, ICINV.R over one page the code lines by the page's address. -/
theorem invalidationsDrop : Obligations.InvalidationsDrop := by
  unfold Obligations.InvalidationsDrop
  refine ⟨fun a b s hin hp h hjobs => ?_, fun a b s pa hin hp h hpa => ?_, fun a b s hin hp hc => ?_⟩
  · obtain ⟨hx, hfront, hhart, hmem, hpkg⟩ := retire_setPkg_frame s
      { s.pkg with tlb := s.pkg.tlb.filter (fun e => !tlbMatch (s.getU a) (s.getU b) e) }
    refine ⟨_, exec_tlbinv a b hin hp h hjobs, hx, hfront, hhart, hmem, fun e => ?_, by rw [hpkg]⟩
    rw [hpkg, List.mem_filter, ← tlbMatch_eq_true_iff s a b e h]
    simp
  · by_cases hn : s.getU b = 0
    · obtain ⟨hx, hfront, hhart, hmem, hpkg⟩ := retire_setPkg_frame s s.pkg
      exact ⟨_, exec_icinvR_zero a b hin hp hn, hx, hfront, hhart, hmem, fun e => by rw [hpkg]; simp [hn], by rw [hpkg]⟩
    · obtain ⟨c, hdrop⟩ := exists_dropLines_eq s pa (s.getU b)
      obtain ⟨hx, hfront, hhart, hmem, hpkg⟩ := retire_setPkg_frame s { s.pkg with icache := c }
      have hlines := mem_icache_dropLines s pa (s.getU b)
      rw [hdrop] at hlines
      refine ⟨_, exec_icinvR_page a b hin hp hn h hpa, ?_⟩
      rw [hdrop]
      exact ⟨hx, hfront, hhart, hmem, fun e => by rw [hpkg]; exact hlines e, by rw [hpkg]⟩
  · exact ⟨⟨_, congrArg Host.Outcome.next (privileged_refuses _ _ hp), traps_raise_protectOf _ 0 hin hc⟩,
      ⟨_, congrArg Host.Outcome.next (privileged_refuses _ _ hp), traps_raise_protectOf _ 0 hin hc⟩⟩

end Sys2Proof.Claims
end

section
/-! PROOF. The reset state (R379, R277, R278, R28, R303, R378). -/

namespace Sys2Proof.Claims

open Sys2Proof Sys2Proof.Machine

theorem vget_replicate {α : Type} (d x : α) (n k : Nat) (h : k < n) : vget d (Vector.replicate n x) k = x := by
  simp [vget, h]

/-- A reset counter or one that is not there reads 0. -/
theorem vget_replicate_self {α : Type} (x : α) (n k : Nat) : vget x (Vector.replicate n x) k = x := by
  unfold vget
  split
  · exact Vector.getElem_replicate _
  · rfl

theorem errorCounter_cases {off : Nat} (h8 : off % 8 = 0) (h : errorCounter off = true) :
    (0x1000 ≤ off ∧ off < 0x1058) ∨ (0x1080 ≤ off ∧ off < 0x10D8)
      ∨ off = 0x1100 ∨ off = 0x1108 ∨ off = 0x1110 ∨ off = 0x1118 ∨ off = 0x1120 ∨ off = 0x1128 := by
  simp only [errorCounter, Bool.or_eq_true, Bool.and_eq_true, decide_eq_true_eq] at h
  omega

/-- Every error counter of a die whose counters are reset reads 0 (R372). -/
theorem mgmtReg_errorCounter {s : State} {d off : Nat} (hd : vget DieCnt.reset s.pkg.dies d = DieCnt.reset) (h8 : off % 8 = 0)
    (h : errorCounter off = true) : s.mgmtReg d off = 0 := by
  have hz (k : Nat) : vget (0 : W64) DieCnt.reset.ce k = 0 := vget_replicate_self 0 11 k
  have hz' (k : Nat) : vget (0 : W64) DieCnt.reset.ue k = 0 := vget_replicate_self 0 11 k
  unfold State.mgmtReg
  rw [hd]
  dsimp only
  rw [if_neg (by rintro rfl; simp [errorCounter] at h)]
  obtain hr | hr | rfl | rfl | rfl | rfl | rfl | rfl := errorCounter_cases h8 h
  · rw [if_pos hr, hz]
    rfl
  · rw [if_neg (by omega), if_pos hr, hz']
    rfl
  all_goals rfl

/-- Settles O60: each table of the reset state is empty or holds one value. -/
theorem resetState : Obligations.ResetState := by
  unfold Obligations.ResetState
  refine ⟨Memory.wf_reset, fun _ => rfl, rfl, rfl, fun _ => rfl, fun d hd => vget_replicate 0 _ _ _ hd, fun _ => rfl,
    fun p hp => ?_, rfl, rfl, rfl, rfl, fun d off hd h8 h => mgmtReg_errorCounter ?_ h8 h, fun d p _ _ => ⟨rfl, rfl, rfl, rfl⟩, rfl,
    fun k hk => ?_⟩
  · exact congrArg Part.lcap (vget_replicate Part.reset Part.reset 16 p hp)
  · exact vget_replicate_self DieCnt.reset 3 d
  · exact vget_replicate 0 0x0071 28 k hk

end Sys2Proof.Claims
end

section
/-! PROOF. A step behind its instruction (R25, R330): a result of the grammar engine that awaits no mask and no register is dropped when
the instruction has completed, so the hart is not as its instruction left it. -/

namespace Sys2Proof.Claims

open Sys2Proof Sys2Proof.Machine Sys2Proof.Tests

/-- GMASK stands at pc, its context on an image of no tokens. -/
def tokenless : State := poke 0x10000 8 (encode (.gmask 0 4)) (poke 0x4000C 4 0 opened)

/-- The pending results of the hart at hand behind `o`. -/
def pendAfter (o : Out) : Option (List GPend) :=
  match o with
  | .next t => some t.cpu.back.gram.pend
  | _ => none

/-- GMASK of an image of no tokens leaves a result for no mask (R330). -/
theorem pendAfter_gmask_tokenless : pendAfter (exec (.gmask 0 4) tokenless) = some [⟨0, [], none, none, 0⟩] := by
  decide +kernel

/-- Behind the step nothing awaits it. -/
theorem pendAfter_step_tokenless : pendAfter (step tokenless) = some [] := by
  decide +kernel

theorem tokenless_fetches : FetchesTo tokenless (.gmask 0 4) :=
  ⟨leBytes 2 (encode (.gmask 0 4)), leBytes 8 (encode (.gmask 0 4)), [], by decide +kernel⟩

theorem tokenless_ready : tokenless.pkg.power = true ∧ tokenless.agenda = [] ∧ tokenless.cpu.status = .running
    ∧ tokenless.cpu.wait = none ∧ Quiet tokenless ∧ tokenless.cpu.owed = [] ∧ tokenless.aheadOf tokenless.cpu = none
    ∧ tokenless.mayEnter = true := by
  unfold Quiet
  decide +kernel

theorem stallQueues_gmask_tokenless : ∀ t, exec (.gmask 0 4) tokenless = .next t → t.stallQueues = none := by
  have h : (after (.gmask 0 4) tokenless).stallQueues = none := by decide +kernel
  intro t ht
  rwa [after, ht] at h

/-- Refutes O56: at a GMASK whose image has no tokens, the result that the instruction leaves pending is gone behind the step. -/
theorem not_stepRunsDecoded : ¬Obligations.StepRunsDecoded := by
  unfold Obligations.StepRunsDecoded
  rintro ⟨h, -, -⟩
  obtain ⟨hpower, hagenda, hrun, hwait, hquiet, howed, hahead, henter⟩ := tokenless_ready
  obtain ⟨t, u, ht, hu, hsame⟩ := h tokenless (.gmask 0 4) hpower hagenda hrun hwait hquiet howed hahead (fun _ => henter)
    tokenless_fetches
  obtain ⟨hcpu, -⟩ := hsame (stallQueues_gmask_tokenless t ht)
  have hpend : u.cpu.back.gram.pend = t.cpu.back.gram.pend := by rw [hcpu]
  have htp := pendAfter_gmask_tokenless
  have hup := pendAfter_step_tokenless
  rw [ht] at htp
  rw [hu] at hup
  have : some t.cpu.back.gram.pend = some [] := by
    rw [← hpend]
    exact hup
  exact absurd (htp.symm.trans this) (by decide)

end Sys2Proof.Claims
end

section
/-! PROOF. VTSEAL, VTATT, VTDROP and VTQRY (R303, R306 to R310). -/

namespace Sys2Proof.Claims

open Sys2Proof Sys2Proof.Machine

/-- `u` is `s` but for the package's own tables and what orders the strip's accesses. -/
def Engaged (s u : State) : Prop :=
  ∃ (w : List StripWrite) (r : List Release) (n : Nat) (p : Pkg),
    u = { s with cpu := { s.cpu with back := { s.cpu.back with strip := w, rels := r } }, tick := n, pkg := p }

theorem Engaged.setPkg (s : State) (p : Pkg) : Engaged s { s with pkg := p } := ⟨s.cpu.back.strip, s.cpu.back.rels, s.tick, p, rfl⟩

theorem Engaged.noteRelease {s u : State} (h : Engaged s u) (k : RelKind) (pas : List Nat) : Engaged s (u.noteRelease k pas) := by
  obtain ⟨w, r, n, p, rfl⟩ := h
  obtain ⟨w', r', n', he⟩ := exists_noteRelease_eq { s with
    cpu := { s.cpu with back := { s.cpu.back with strip := w, rels := r } }, tick := n, pkg := p } k pas
  exact ⟨w', r', n', p, he⟩

theorem noteRelease_pkg (s : State) (k : RelKind) (pas : List Nat) : (s.noteRelease k pas).pkg = s.pkg := by
  obtain ⟨_, _, _, he⟩ := exists_noteRelease_eq s k pas
  rw [he]

/-- An engine instruction that retires with a result behind what it has started. -/
theorem Engaged.compute {s u : State} (h : Engaged s u) (d : Reg) (v : W64) :
    RetiresEight s (u.compute 8 d v) d v ∧ (u.compute 8 d v).pkg = u.pkg := by
  obtain ⟨hd, hx⟩ := (compute_spec u 8 d v).1
  obtain ⟨xs, c, r, n, ht⟩ := exists_compute_eq u 8 d v
  obtain ⟨w, r', n', p, rfl⟩ := h
  refine ⟨⟨⟨hd, hx⟩, ?_⟩, ?_⟩ <;> rw [ht]
  exact ⟨⟨rfl, rfl, Or.inl rfl⟩, rfl, rfl, fun _ => rfl⟩

theorem vitrine_setVitrine (s : State) (v k : Nat) (x : Vitrine) :
    (s.setVitrine v x).vitrine k = if k = v then x else s.vitrine k :=
  mget_mset _ _ _ _ _

theorem vitrine_of_started {s t : State} {v : Nat} {x : Vitrine} {j : Job} (h : t.pkg = ((s.setVitrine v x).addJob j).pkg) (k : Nat) :
    t.vitrine k = if k = v then x else s.vitrine k :=
  (congrArg (fun p : Pkg => mget Vitrine.free p.vitrines k) h).trans (vitrine_setVitrine s v k x)

theorem withCword_ok {s : State} {c : Reg} {w : Option Nat} (i : Instr) (body : Option Nat → State) (h : s.cwordAt (s.getU c) = .ok w) :
    s.withCword i c body = body w := by
  unfold State.withCword
  rw [h]

theorem compute_zero (s : State) (len : Nat) (v : W64) : s.compute len 0 v = s.retire len := rfl

/-! VTSEAL. -/

/-- The range may be sealed (R307). -/
structure SealRange (s : State) (base size : Nat) : Prop where
  aligned : base % mib64 = 0
  pos : 0 < size
  whole : size % mib64 = 0
  small : size ≤ 4096 * mib64
  inside : vitrineRange s.pkg.tierOk base size = true
  noLog : ∀ p, p < 16 → (s.part p).lcap ≠ 0 →
    overlaps base size (s.part p).labase.toNat (4096 + 128 * 2 ^ (s.part p).lcap) = false
  noEntry : ∀ e ∈ s.pkg.vitrines, e.2.state ≠ 0 → overlaps base size e.2.base (e.2.units * mib64) = false

theorem SealRange.noLogHit {s : State} {base size : Nat} (h : SealRange s base size) :
    s.pkg.parts.toList.any (fun x => x.lcap != 0 && overlaps base size x.labase.toNat (4096 + 128 * 2 ^ x.lcap)) = false := by
  rw [List.any_eq_false]
  intro x hx
  obtain ⟨k, hk, rfl⟩ := Vector.mem_iff_getElem.1 (Vector.mem_toList_iff.1 hx)
  have hpart : s.part k = s.pkg.parts[k] := by simp [State.part, vget, hk]
  have hlog := h.noLog k hk
  rw [hpart] at hlog
  by_cases h0 : s.pkg.parts[k].lcap = 0
  · simp [h0]
  · simp [hlog h0]

theorem SealRange.noEntryHit {s : State} {base size : Nat} (h : SealRange s base size) :
    s.pkg.vitrines.any (fun e => e.2.state != 0 && overlaps base size e.2.base (e.2.units * mib64)) = false := by
  rw [List.any_eq_false]
  intro e he
  by_cases h0 : e.2.state = 0
  · simp [h0]
  · simp [h.noEntry e he h0]

/-- The entry that VTSEAL takes, and the job it starts (R307). -/
def sealStarted (s : State) (v base size : Nat) (j : Job) : State :=
  (s.setVitrine v { s.vitrine v with state := 1, base := base, units := size / mib64 }).addJob j

theorem exec_vtseal {d a b c : Reg} {s : State} {v : Nat} {w : Option Nat} (hp : s.cpu.id.priv = true) (hin : s.cpu.inflight = [])
    (hdup : s.inDup = false) (hr : SealRange s (s.getU a) (s.getU b)) (hv : s.freeVitrine = some v)
    (hlog : (s.part (s.cpu.front.acch.toNat % 16)).lcap ≠ 0) (hw : s.cwordAt (s.getU c) = .ok w) :
    exec (.vtseal d a b c) s = .next (((sealStarted s v (s.getU a) (s.getU b)
      ⟨0, v, 0, w, s.cpu.front.acch.toNat % 16, s.cpu.id.addr, s.launchOf.1, s.launchOf.2, s.wordLeaf (s.getU c)⟩).noteRelease
        .fork w.toList).compute 8 d (BitVec.ofNat 64 v)) := by
  refine congrArg Host.Outcome.next ((privileged_whenOldest _ _ hin hp).trans ?_)
  have hpos := hr.pos
  have hsmall := hr.small
  dsimp only
  rw [if_neg (by simp [hdup]), hr.noLogHit, if_neg (by simp [hr.aligned, hr.whole, hr.inside]; omega),
    if_neg (by simp [hr.noEntryHit]), hv]
  dsimp only
  rw [if_neg hlog, withCword_ok _ _ hw]
  rfl

theorem vtseal_starts (d a b c : Reg) (s : State) (v : Nat) (w : Option Nat) (hp : s.cpu.id.priv = true) (hin : s.cpu.inflight = [])
    (hdup : s.inDup = false) (hr : SealRange s (s.getU a) (s.getU b)) (hv : s.freeVitrine = some v)
    (hlog : (s.part (s.cpu.front.acch.toNat % 16)).lcap ≠ 0) (hw : s.cwordAt (s.getU c) = .ok w) :
    ∃ t, exec (.vtseal d a b c) s = .next t ∧ RetiresEight s t d (BitVec.ofNat 64 v)
      ∧ t.vitrine v = { s.vitrine v with state := 1, base := s.getU a, units := s.getU b / mib64 }
      ∧ (∀ k, k ≠ v → t.vitrine k = s.vitrine k)
      ∧ t.pkg.jobs = s.pkg.jobs
          ++ [⟨0, v, 0, w, s.cpu.front.acch.toNat % 16, s.cpu.id.addr, s.launchOf.1, s.launchOf.2, s.wordLeaf (s.getU c)⟩]
      ∧ { t.pkg with vitrines := s.pkg.vitrines, jobs := s.pkg.jobs } = s.pkg := by
  have hu : Engaged s (sealStarted s v (s.getU a) (s.getU b)
      ⟨0, v, 0, w, s.cpu.front.acch.toNat % 16, s.cpu.id.addr, s.launchOf.1, s.launchOf.2, s.wordLeaf (s.getU c)⟩) :=
    Engaged.setPkg s _
  obtain ⟨hret, hpkg⟩ := (hu.noteRelease .fork w.toList).compute d (BitVec.ofNat 64 v)
  rw [noteRelease_pkg] at hpkg
  have hvit := vitrine_of_started hpkg
  exact ⟨_, exec_vtseal hp hin hdup hr hv hlog hw, hret, (hvit v).trans (if_pos rfl),
    fun k hk => (hvit k).trans (if_neg hk), by rw [hpkg]; rfl, by rw [hpkg]; rfl⟩

/-! VTATT. -/

theorem exec_vtatt {a b c : Reg} {s : State} {w : Option Nat} {pa : Nat} (hp : s.cpu.id.priv = true) (hin : s.cpu.inflight = [])
    (ha : s.getU a ≤ 255) (h0 : (s.vitrine (s.getU a)).state ≠ 0) (h3 : (s.vitrine (s.getU a)).state ≠ 3)
    (hw : s.cwordAt (s.getU c) = .ok w) (hb : s.blockAt (s.getU b) = .ok pa) (h2 : s.secondCopy = false) :
    exec (.vtatt a b c) s = .next (((s.addJob ⟨2, s.getU a, pa, w, 0, 0, 0, 0, s.leafUsed (s.getU b) ++ s.wordLeaf (s.getU c)⟩).noteRelease
      .fork w.toList).retire 8) := by
  refine congrArg Host.Outcome.next ((privileged_whenOldest _ _ hin hp).trans ?_)
  dsimp only
  rw [if_neg (by omega), if_neg (by simp [h0, h3]), withCword_ok _ _ hw, hb]
  dsimp only
  rw [if_neg (by simp [h2])]

/-! VTDROP. -/

theorem exec_vtdrop {a c : Reg} {s : State} {w : Option Nat} (hp : s.cpu.id.priv = true) (hin : s.cpu.inflight = [])
    (hdup : s.inDup = false) (ha : s.getU a ≤ 255)
    (hst : (s.vitrine (s.getU a)).state = 2 ∨ (s.vitrine (s.getU a)).state = 4) (hpins : (s.vitrine (s.getU a)).pins = 0)
    (hw : s.cwordAt (s.getU c) = .ok w) :
    exec (.vtdrop a c) s = .next ((((s.setVitrine (s.getU a) { s.vitrine (s.getU a) with state := 3 }).addJob
      ⟨1, s.getU a, 0, w, 0, 0, 0, 0, s.wordLeaf (s.getU c)⟩).noteRelease .fork w.toList).retire 8) := by
  refine congrArg Host.Outcome.next ((privileged_whenOldest _ _ hin hp).trans ?_)
  dsimp only
  rw [if_neg (by simp [hdup]), if_neg (by omega), if_neg (by rcases hst with h | h <;> simp [h, hpins]), withCword_ok _ _ hw]

/-! VTQRY. -/

/-- The number that VTQRY returns (R310). -/
def queried (s : State) (v sel : Nat) : Nat :=
  if sel = 11 then ((s.vitrineAt v).map (fun x => x.1)).getD (2 ^ 64 - 1) else (s.vitrine v).item sel

theorem exec_vtqry {d a sel : Reg} {s : State} (hp : s.cpu.id.priv = true) (hsel : sel.val < 12) (ha : sel.val < 11 → s.getU a ≤ 255) :
    exec (.vtqry d a sel) s = .next (s.compute 8 d (BitVec.ofNat 64 (queried s (s.getU a) sel.val))) := by
  refine congrArg Host.Outcome.next ?_
  unfold State.privileged queried
  rw [if_pos hp]
  dsimp only
  rw [if_neg (by omega)]
  by_cases h : sel.val = 11
  · rw [if_pos h, if_pos h]
    cases s.vitrineAt (s.getU a) <;> rfl
  · rw [if_neg h, if_neg h, if_neg (by have := ha (by omega); omega)]

theorem queried_digest (s : State) (v : Nat) {sel : Nat} (h3 : 3 ≤ sel) (h11 : sel < 11) :
    queried s v sel = leNat (((digestBytes (s.vitrine v).digest).drop (8 * (sel - 3))).take 8).reverse := by
  unfold queried Vitrine.item
  rw [if_neg (by omega)]
  split
  · omega
  · omega
  · omega
  · rfl

/-- Settles O47: each passes its checks and starts its job, or reads the table; unprivileged, each is refused before. -/
theorem vitrineInstructions : Obligations.VitrineInstructions := by
  unfold Obligations.VitrineInstructions
  refine ⟨?_, ?_, ?_, ?_, ?_⟩
  · intro d a b c s v w hp hin hdup h1 h2 h3 h4 h5 h6 h7 hv hlog hw
    exact vtseal_starts d a b c s v w hp hin hdup ⟨h1, h2, h3, h4, h5, h6, h7⟩ hv hlog hw
  · intro a b c s w pa hp hin ha h0 h3 hw hb h2
    have hu := Engaged.setPkg s { s.pkg with
      jobs := s.pkg.jobs ++ [⟨2, s.getU a, pa, w, 0, 0, 0, 0, s.leafUsed (s.getU b) ++ s.wordLeaf (s.getU c)⟩] }
    obtain ⟨hret, hpkg⟩ := (hu.noteRelease .fork w.toList).compute 0 0
    rw [noteRelease_pkg] at hpkg
    exact ⟨_, exec_vtatt hp hin ha h0 h3 hw hb h2, hret, hpkg⟩
  · intro a c s w hp hin hdup ha hst hpins hw
    have hu : Engaged s ((s.setVitrine (s.getU a) { s.vitrine (s.getU a) with state := 3 }).addJob
      ⟨1, s.getU a, 0, w, 0, 0, 0, 0, s.wordLeaf (s.getU c)⟩) := Engaged.setPkg s _
    obtain ⟨hret, hpkg⟩ := (hu.noteRelease .fork w.toList).compute 0 0
    rw [noteRelease_pkg] at hpkg
    have hvit := vitrine_of_started hpkg
    exact ⟨_, exec_vtdrop hp hin hdup ha hst hpins hw, hret, (hvit _).trans (if_pos rfl),
      fun k hk => (hvit k).trans (if_neg hk), (congrArg Pkg.jobs hpkg :), by rw [compute_zero] at hpkg; rw [hpkg]; rfl⟩
  · intro d a sel s hp hsel ha
    obtain ⟨hret, hpkg⟩ := (Engaged.setPkg s s.pkg).compute d (BitVec.ofNat 64 (queried s (s.getU a) sel.val))
    refine ⟨_, _, exec_vtqry hp hsel ha, hret, hpkg, ?_, ?_, ?_, queried_digest s _, ?_⟩
    all_goals intro h; rw [h]; rfl
  · intro i s hp hin hc hi
    cases i <;> first | exact hi.elim | skip
    all_goals exact ⟨_, congrArg Host.Outcome.next (privileged_refuses _ _ hp), traps_raise_protectOf _ 0 hin hc⟩

end Sys2Proof.Claims
end

section
/-! PROOF. Writes of the work-queue, log and mailbox registers (R277 to R279, R339, R345, R372, R377, R378). -/

namespace Sys2Proof.Claims

open Sys2Proof Sys2Proof.Machine

/-! Addresses of registers (R201). -/

theorem regionOf_mgmt {d off : Nat} (hd : d < 3) (h : off < 0x10000000) :
    regionOf (0x100010000000 + 0x10000000 * d + off) = .mgmt d off := by
  unfold regionOf gib64 tierBase tierEnd mgmtBase dieBase
  rw [if_neg (by omega), if_neg (by omega), if_neg (by omega), if_pos (by omega)]
  have hdie : (0x100010000000 + 0x10000000 * d + off - 0x100010000000) / 0x10000000 = d := by omega
  have hoff : (0x100010000000 + 0x10000000 * d + off - 0x100010000000) % 0x10000000 = off := by omega
  rw [hdie, hoff]

theorem regionOf_own {off : Nat} (h : off < 0x10000000) : regionOf (0x100000000000 + off) = .own off := by
  unfold regionOf gib64 tierBase tierEnd mgmtBase dieBase
  rw [if_neg (by omega), if_neg (by omega), if_pos (by omega), Nat.add_sub_cancel_left]

theorem regionOf_wq {q off : Nat} (hq : q < 2048) (h : off < 4096) : regionOf (0x100100000000 + 4096 * q + off) = .wq q off := by
  unfold regionOf gib64 tierBase tierEnd mgmtBase dieBase wqWindow
  rw [if_neg (by omega), if_neg (by omega), if_neg (by omega), if_neg (by omega), if_pos (by omega)]
  have hq' : (0x100100000000 + 4096 * q + off - 0x100100000000) / 4096 = q := by omega
  have hoff : (0x100100000000 + 4096 * q + off - 0x100100000000) % 4096 = off := by omega
  rw [hq', hoff]

theorem regionAt_of_ne {s : State} {a : Nat} {r : Region} (h : regionOf a = r) (hr : r ≠ .tier2) : s.regionAt a = r := by
  unfold State.regionAt
  rw [h]
  simp [hr]

/-- A whole doubleword written over another. -/
theorem mergeBytes_whole (old : Nat) (v : W64) : mergeBytes old 0 (leBytes 8 v.toNat) = v := by
  have hl : (leBytes 8 old).mapIdx (fun i b => if 0 ≤ i && i < 0 + (leBytes 8 v.toNat).length then
      (leBytes 8 v.toNat).getD (i - 0) 0 else b) = leBytes 8 v.toNat := by
    apply List.ext_getElem
    · simp
    · intro i h1 h2
      simp at h1
      simp [h1]
  unfold mergeBytes
  rw [hl, leNat_leBytes]
  apply BitVec.eq_of_toNat_eq
  simpa using v.isLt

/-! Writes that are dropped (R372). -/

theorem drops_countDrop (s : State) (by_ : Agent) {d : Nat} (hd : d < 3) : Drops s (s.countDrop d by_) by_ d := by
  refine ⟨⟨rfl, rfl, rfl, fun _ => rfl⟩, ⟨?_, fun e he => ?_⟩, rfl⟩
  · unfold State.countDrop
    dsimp only
    rw [vget_vmod, if_pos ⟨rfl, hd⟩]
    cases by_ <;> simp
  · unfold State.countDrop
    dsimp only
    rw [vget_vmod, if_neg (fun h => he h.1)]

theorem wq_setWq (s : State) (q k : Nat) (w : WQ) : (s.setWq q w).wq k = if k = q then w else s.wq k := mget_mset _ _ _ _ _

theorem queueDrops_wqDrop (s : State) (by_ : Agent) (q : Nat) : QueueDrops s (s.wqDrop q by_) by_ q := by
  have hwq (w : WQ) (k : Nat) : ((s.setWq q w).countDrop 0 by_).wq k = if k = q then w else s.wq k := wq_setWq s q k w
  obtain ⟨-, ⟨hat, helse⟩, -⟩ := drops_countDrop (s.setWq q
    (if bitsOf (s.wq q).stat.toNat 47 32 < 0xFFFF then { s.wq q with stat := (s.wq q).stat + BitVec.ofNat 64 (2 ^ 32) } else s.wq q))
    by_ (d := 0) (by decide)
  refine ⟨⟨rfl, rfl, rfl, fun _ => rfl⟩, ⟨hat, helse⟩, rfl, ?_, fun k hk => (hwq _ k).trans (if_neg hk)⟩
  refine (hwq _ q).trans ((if_pos rfl).trans ?_)
  split <;> rfl

/-! Writes to a queue's page (R277 to R279). -/

theorem queueWrite_of {s : State} {by_ : Agent} {q off : Nat} {v : W64} {e : Instr} {ok : Prop} {w : WQ}
    (he : exec e s = .next (s.queueWrite by_ q off v)) (hok : ok → s.wqWrite by_ q off v = s.setWq q w)
    (hno : by_ ≠ .fabric → ¬ok → s.wqWrite by_ q off v = s.wqDrop q by_) : QueueWrite s by_ q e ok w := by
  rw [QueueWrite, he]
  unfold State.queueWrite
  refine ⟨fun hq hby h => ?_, fun hq h => ?_, fun hq => ?_⟩
  · refine ⟨s.setWq q w, ?_, ⟨rfl, rfl, rfl, fun _ => rfl⟩, rfl, (wq_setWq s q q w).trans (if_pos rfl),
      fun k hk => (wq_setWq s q k w).trans (if_neg hk)⟩
    rw [if_neg (by omega), if_neg hby, hok h]
  · refine ⟨s.wqDrop q by_, ?_, queueDrops_wqDrop s by_ q⟩
    rw [if_neg (by omega)]
    by_cases hby : by_ = .fabric
    · rw [if_pos hby]
    · rw [if_neg hby, hno hby (h.resolve_left hby)]
  · exact ⟨s.countDrop 0 by_, by rw [if_pos hq], drops_countDrop s by_ (by decide)⟩

theorem wqWriter_iff (by_ : Agent) : wqWriter by_ = true ↔ Owner by_ := by
  simp [wqWriter, Owner, or_assoc]

theorem ringOk_iff (tier : Bool) (base size : Nat) : ringOk tier base size = true ↔ RingFits tier base size := by
  have hpos : 0 < 128 * 2 ^ size := by positivity
  unfold ringOk RingFits gib64 tierBase tierEnd
  dsimp only
  generalize 128 * 2 ^ size = n at *
  simp only [Bool.or_eq_true, Bool.and_eq_true, decide_eq_true_eq]
  constructor
  · rintro (⟨⟨h1, h2⟩, h3⟩ | ⟨⟨h1, h2⟩, h3⟩)
    · exact Or.inl ⟨base / 68719476736, by omega, by omega, by omega⟩
    · exact Or.inr ⟨h1, h2, h3⟩
  · rintro (⟨k, h1, h2, h3⟩ | ⟨h1, h2, h3⟩)
    · left
      have hk : base / 68719476736 = k := by omega
      have hk' : (base + n - 1) / 68719476736 = k := by omega
      refine ⟨⟨by omega, by omega⟩, by omega⟩
    · exact Or.inr ⟨⟨h1, h2⟩, h3⟩

theorem getLsbD_eq_bitAt {w : Nat} (v : BitVec w) (k : Nat) : v.getLsbD k = bitAt v.toNat k := by
  unfold bitAt
  rw [BitVec.getLsbD, Nat.testBit_eq_decide_div_mod_eq]

/-- A write taken where `ok` holds and dropped elsewhere. -/
theorem wqWrite_ite {s : State} {by_ : Agent} {q off : Nat} {v : W64} {e : Instr} {w : WQ} {c ok : Prop} [Decidable c]
    (he : exec e s = .next (s.queueWrite by_ q off v))
    (hw : s.wqWrite by_ q off v = if c then s.wqDrop q by_ else s.setWq q w) (h : ¬c ↔ ok) : QueueWrite s by_ q e ok w :=
  queueWrite_of he (fun hok => hw.trans (if_neg (h.2 hok)))
    (fun _ hno => hw.trans (if_pos (not_not.1 fun hc => hno (h.1 hc))))

section
variable (s : State) (by_ : Agent) (q : Nat) (v : W64) {e : Instr}

theorem wqbase_write (he : exec e s = .next (s.queueWrite by_ q 0x000 v)) :
    QueueWrite s by_ q e (Owner by_ ∧ (s.wq q).en = false ∧ v.toNat % 4096 = 0 ∧ RingFits s.pkg.tierOk v.toNat (s.wq q).size)
      { s.wq q with base := v, tail := 0, head := 0, done := 0 } := by
  refine wqWrite_ite (c := ((s.wq q).en || !wqWriter by_ || v.toNat % 4096 != 0
    || !ringOk s.pkg.tierOk v.toNat (s.wq q).size) = true) he rfl ?_
  rw [← wqWriter_iff, ← ringOk_iff]
  simp only [Bool.or_eq_true, Bool.not_eq_true', bne_iff_ne, ne_eq]
  cases (s.wq q).en <;> cases wqWriter by_ <;> simp

theorem wqsize_write (he : exec e s = .next (s.queueWrite by_ q 0x008 v)) :
    QueueWrite s by_ q e (Owner by_ ∧ (s.wq q).en = false ∧ 4 ≤ v.toNat ∧ v.toNat ≤ 16
      ∧ RingFits s.pkg.tierOk (s.wq q).base.toNat v.toNat) { s.wq q with size := v.toNat } := by
  refine wqWrite_ite (c := ((s.wq q).en || !wqWriter by_ || v.toNat < 4 || 16 < v.toNat
    || !ringOk s.pkg.tierOk (s.wq q).base.toNat v.toNat) = true) he rfl ?_
  rw [← wqWriter_iff, ← ringOk_iff]
  simp only [Bool.or_eq_true, Bool.not_eq_true', decide_eq_true_eq]
  cases (s.wq q).en <;> cases wqWriter by_ <;> simp [and_assoc]

theorem wqroot_write (he : exec e s = .next (s.queueWrite by_ q 0x010 v)) :
    QueueWrite s by_ q e (Owner by_ ∧ (s.wq q).en = false ∧ v.toNat < 2 ^ 50 ∧ v.getLsbD 12 = false) { s.wq q with root := v } := by
  refine wqWrite_ite (c := ((s.wq q).en || !wqWriter by_ || v.toNat / 2 ^ 50 != 0 || bitAt v.toNat 12) = true) he rfl ?_
  have hsmall : v.toNat / 2 ^ 50 = 0 ↔ v.toNat < 2 ^ 50 := Nat.div_eq_zero_iff_lt (by positivity)
  rw [← wqWriter_iff, ← hsmall, getLsbD_eq_bitAt]
  simp only [Bool.or_eq_true, Bool.not_eq_true', bne_iff_ne, ne_eq]
  cases (s.wq q).en <;> cases wqWriter by_ <;> simp

theorem wqctl_write (he : exec e s = .next (s.queueWrite by_ q 0x018 v)) :
    QueueWrite s by_ q e (Owner by_ ∧ bitsOf v.toNat 2 1 ≠ 3
      ∧ ((s.wq q).en = true → bitsOf v.toNat 3 1 = bitsOf (s.wq q).ctl 3 1)
      ∧ (v.getLsbD 0 ≠ (s.wq q).en → s.pkg.mgmt.bstate = 3))
      { s.wq q with ctl := if by_ = .management then v.toNat % 32 else v.toNat % 16 + 16 * (s.wq q).privok.toNat } := by
  refine wqWrite_ite (c := (!wqWriter by_ || bitsOf v.toNat 2 1 = 3 || ((s.wq q).en && bitsOf v.toNat 3 1 != bitsOf (s.wq q).ctl 3 1)
    || (bitAt v.toNat 0 != (s.wq q).en && s.pkg.mgmt.bstate != 3)) = true) he rfl ?_
  rw [← wqWriter_iff, getLsbD_eq_bitAt]
  simp only [Bool.or_eq_true, Bool.and_eq_true, Bool.not_eq_true', bne_iff_ne, ne_eq, decide_eq_true_eq]
  cases wqWriter by_ <;> simp
  tauto

theorem wqtail_write (he : exec e s = .next (s.queueWrite by_ q 0x020 v)) :
    QueueWrite s by_ q e (by_ = .host ∧ (s.wq q).en = true ∧ (s.wq q).byHart = false
      ∧ (s.wq q).tail.toNat ≤ v.toNat ∧ v.toNat ≤ (s.wq q).head.toNat + 2 ^ (s.wq q).size) { s.wq q with tail := v } := by
  refine wqWrite_ite (c := ¬(by_ = .host && (s.wq q).en && !(s.wq q).byHart && (s.wq q).tail.toNat ≤ v.toNat
    && v.toNat - (s.wq q).head.toNat ≤ 2 ^ (s.wq q).size) = true) he ?_ ?_
  · exact (ite_not _ _ _).symm
  · simp only [Bool.and_eq_true, Bool.not_eq_true', decide_eq_true_eq, not_not, and_assoc, Nat.sub_le_iff_le_add']

theorem wqstat_write (he : exec e s = .next (s.queueWrite by_ q 0x038 v)) :
    QueueWrite s by_ q e (by_ ≠ .fabric) { s.wq q with stat := 0 } :=
  queueWrite_of he (fun _ => rfl) (fun h hno => (hno h).elim)

theorem wqOther_write {k : Nat} (hk : k ∉ [0, 1, 2, 3, 4, 7]) (he : exec e s = .next (s.queueWrite by_ q (8 * k) v)) :
    QueueWrite s by_ q e False (s.wq q) := by
  refine queueWrite_of he (fun h => h.elim) (fun _ _ => ?_)
  simp only [List.mem_cons, List.not_mem_nil, or_false, not_or] at hk
  unfold State.wqWrite
  split <;> first | omega | rfl

end

/-! REGISTER_WRITE by the place of its address (R208, R376, R377). -/

theorem regWrite_whole (s : State) (by_ : Agent) (a off : Nat) (v : W64) (h8 : off % 8 = 0) :
    (∀ d, regionOf a = .mgmt d off → s.regWrite by_ 0 a (leBytes 8 v.toNat) = s.mgmtWrite by_ d off v)
      ∧ (regionOf a = .own off → s.regWrite by_ 0 a (leBytes 8 v.toNat) = s.mgmtWrite by_ 0 off v)
      ∧ ∀ q, regionOf a = .wq q off → s.regWrite by_ 0 a (leBytes 8 v.toNat) = s.wqWrite by_ q off v := by
  have hoff : off / 8 * 8 = off := by omega
  unfold State.regWrite
  refine ⟨fun d hr => ?_, fun hr => ?_, fun q hr => ?_⟩ <;> rw [hr] <;> dsimp only <;> rw [hoff, h8, mergeBytes_whole]

/-- A doubleword of the management space of die `d`. -/
theorem exec_registerWrite_mgmt (s : State) (by_ : Agent) {d off : Nat} (v : W64) (hd : d < 3) (hoff : off < 0x10000000)
    (h8 : off % 8 = 0) : exec (.registerWrite by_ (0x100010000000 + 0x10000000 * d + off) v) s = .next (
      if by_ = .fabric ∨ (by_ = .host ∧ d ≠ 0) then s.countDrop (if by_ = .host then 0 else d) by_
      else if (by_ = .hart ∨ by_ = .privHart) ∧ mgmtNoHartWrite d off = true then s
      else s.mgmtWrite by_ d off v) := by
  have hr := regionOf_mgmt hd hoff
  have hat : s.regionAt (0x100010000000 + 0x10000000 * d + off) = .mgmt d off := regionAt_of_ne hr (by simp)
  have hmod : (0x100010000000 + 0x10000000 * d + off) % 8 = 0 := by omega
  generalize 0x100010000000 + 0x10000000 * d + off = a at *
  refine congrArg Host.Outcome.next ?_
  dsimp only
  rw [hr, (regWrite_whole s by_ a off v h8).1 d hr]
  dsimp only
  unfold State.refuseWrite State.hostReaches
  rw [hat, if_neg (by simp [hmod, Region.isMem])]
  simp only [Bool.or_eq_true, Bool.and_eq_true, Bool.not_eq_true', decide_eq_true_eq, decide_eq_false_iff_not, ne_eq]

/-- A doubleword of the alias of the management space of the writer's die. -/
theorem exec_registerWrite_own (s : State) (by_ : Agent) {off : Nat} (v : W64) (hoff : off < 0x10000000) (h8 : off % 8 = 0) :
    exec (.registerWrite by_ (0x100000000000 + off) v) s = .next (
      if by_ = .fabric ∨ by_ = .host then s.countDrop 0 by_
      else if (by_ = .hart ∨ by_ = .privHart) ∧ mgmtNoHartWrite 0 off = true then s
      else s.mgmtWrite by_ 0 off v) := by
  have hr := regionOf_own hoff
  have hat : s.regionAt (0x100000000000 + off) = .own off := regionAt_of_ne hr (by simp)
  have hmod : (0x100000000000 + off) % 8 = 0 := by omega
  generalize 0x100000000000 + off = a at *
  refine congrArg Host.Outcome.next ?_
  dsimp only
  rw [hr, (regWrite_whole s by_ a off v h8).2.1 hr]
  dsimp only
  unfold State.refuseWrite State.hostReaches
  rw [hat, if_neg (by simp [hmod, Region.isMem])]
  simp only [Bool.or_eq_true, Bool.and_eq_true, Bool.not_false, and_true, decide_eq_true_eq]

/-- A doubleword of the page of queue `q`. -/
theorem exec_registerWrite_wq (s : State) (by_ : Agent) {q off : Nat} (v : W64) (hq : q < 2048) (hoff : off < 4096) (h8 : off % 8 = 0) :
    exec (.registerWrite by_ (0x100100000000 + 4096 * q + off) v) s = .next (s.queueWrite by_ q off v) := by
  have hr := regionOf_wq hq hoff
  have hat : s.regionAt (0x100100000000 + 4096 * q + off) = .wq q off := regionAt_of_ne hr (by simp)
  have hmod : (0x100100000000 + 4096 * q + off) % 8 = 0 := by omega
  generalize 0x100100000000 + 4096 * q + off = a at *
  refine congrArg Host.Outcome.next ?_
  dsimp only
  rw [hr, (regWrite_whole s by_ a off v h8).2.2 q hr]
  dsimp only
  unfold State.refuseWrite State.hostReaches State.queueWrite
  rw [hat, if_neg (by simp [hmod, Region.isMem]), if_neg (by omega : ¬2048 ≤ q)]
  by_cases hf : by_ = .fabric <;> simp [hf]

/-! The registers of a log partition (R339, R345). -/

theorem headBad_isNone_iff (s : State) (x : Part) : (s.headBad x).isNone = true ↔ HeadReadable s x := by
  unfold State.headBad HeadReadable State.firstUnreadable
  by_cases h : x.lcap = 0
  · simp [h]
  · simp [h, List.find?_eq_none]

theorem drainOk_iff (s : State) (x : Part) (v : W64) : s.drainOk x v = true ↔
    HeadReadable s x ∧ v.toNat % 64 = 0 ∧ x.ldrain.toNat ≤ v.toNat ∧ v.toNat ≤ s.hseq x := by
  rw [← headBad_isNone_iff]
  simp [State.drainOk, and_assoc]

theorem mgmtWrite_ldrain (s : State) (by_ : Agent) (v : W64) {p : Nat} (hp : p < 16) :
    s.mgmtWrite by_ 0 (0x200000 + 0x40 * p + 0x10) v =
      if (by_ = .host ∨ by_ = .privHart) ∧ s.drainOk (s.part p) v = true then s.setLog p { s.part p with ldrain := v }
      else s.countDrop 0 by_ := by
  have hk : (0x200000 + 0x40 * p + 0x10 - 0x200000) / 0x40 = p := by omega
  unfold State.mgmtWrite
  dsimp only
  by_cases hf : by_ = .fabric
  · rw [if_pos hf, if_neg (by simp [hf])]
  · rw [if_neg hf, if_neg (by omega), if_neg (by omega), if_pos (by omega), hk]
    simp only [Bool.and_eq_true, Bool.or_eq_true, decide_eq_true_eq]
    rfl

theorem mgmtWrite_lsign (s : State) (by_ : Agent) (v : W64) {p : Nat} (hp : p < 16) :
    s.mgmtWrite by_ 0 (0x200000 + 0x40 * p + 0x20) v = if by_ = .fabric then s.countDrop 0 by_ else s.requestStatement p := by
  have hk : (0x200000 + 0x40 * p + 0x20 - 0x200000) / 0x40 = p := by omega
  unfold State.mgmtWrite
  dsimp only
  by_cases hf : by_ = .fabric
  · rw [if_pos hf, if_pos hf]
  · rw [if_neg hf, if_neg hf, if_neg (by omega), if_neg (by omega), if_neg (by omega), if_pos (by omega), hk]

/-- A value that R339 accepts for ldrain, and a writer of it. -/
def DrainTaken (s : State) (by_ : Agent) (x : Part) (v : W64) : Prop :=
  (by_ = .host ∨ by_ = .privHart) ∧ HeadReadable s x ∧ v.toNat % 64 = 0 ∧ x.ldrain.toNat ≤ v.toNat ∧ v.toNat ≤ s.hseq x

theorem exec_ldrainWrite (s : State) (by_ : Agent) (p : Fin 16) (v : W64) :
    (DrainTaken s by_ (s.part p.val) v →
      exec (.ldrainWrite by_ p v) s = .next (s.setLog p.val { s.part p.val with ldrain := v }))
    ∧ (¬DrainTaken s by_ (s.part p.val) v → ∃ t, exec (.ldrainWrite by_ p v) s = .next t ∧ Drops s t by_ 0) := by
  have he : exec (.ldrainWrite by_ p v) s = .next (s.mgmtWrite by_ 0 (0x200000 + 0x40 * p.val + 0x10) v) := rfl
  rw [he, mgmtWrite_ldrain s by_ v p.isLt]
  refine ⟨fun h => by rw [if_pos ⟨h.1, (drainOk_iff _ _ _).2 h.2⟩], fun h => ⟨_, by rw [if_neg fun hc => h ⟨hc.1, (drainOk_iff _ _ _).1 hc.2⟩],
    drops_countDrop s by_ (by decide)⟩⟩

theorem exec_lsignWrite (s : State) (by_ : Agent) (p : Fin 16) (v : W64) :
    exec (.lsignWrite by_ p v) s = .next (if by_ = .fabric then s.countDrop 0 by_ else s.requestStatement p.val) :=
  congrArg Host.Outcome.next (mgmtWrite_lsign s by_ v p.isLt)

theorem requestStatement_waiting {s : State} {p : Nat} (h : ∃ j ∈ s.pkg.jobs, j.kind = 3 ∧ j.v = p) : s.requestStatement p = s := by
  unfold State.requestStatement
  rw [if_pos]
  simpa using h

theorem requestStatement_new {s : State} {p : Nat} (h : ∀ j ∈ s.pkg.jobs, ¬(j.kind = 3 ∧ j.v = p)) :
    s.requestStatement p = { s with pkg := { s.pkg with jobs := s.pkg.jobs ++ [⟨3, p, 0, none, p, 0, 0, 0, []⟩] } } := by
  unfold State.requestStatement
  rw [if_neg]
  simpa using h

/-- A log register is one that harts may reach (R339). -/
theorem exec_registerWrite_log (s : State) (by_ : Agent) (v : W64) {p k : Nat} (hp : p < 16) (hk : k = 0x10 ∨ k = 0x20) :
    exec (.registerWrite by_ (0x100010200000 + k + 0x40 * p) v) s = .next (s.mgmtWrite by_ 0 (0x200000 + 0x40 * p + k) v) := by
  have ha : 0x100010200000 + k + 0x40 * p = 0x100010000000 + 0x10000000 * 0 + (0x200000 + 0x40 * p + k) := by omega
  have hfree : mgmtNoHartWrite 0 (0x200000 + 0x40 * p + k) = false := by
    simp only [mgmtNoHartWrite, Bool.or_eq_false_iff, Bool.and_eq_false_iff, decide_eq_false_iff_not]
    omega
  rw [ha, exec_registerWrite_mgmt s by_ v (by decide) (by omega) (by omega), hfree]
  by_cases hf : by_ = .fabric
  · rw [if_pos (Or.inl hf), hf]
    rfl
  · rw [if_neg (by simp [hf]), if_neg (by simp)]

/-! The registers of management space (R371, R372, R377, R378). -/

theorem mgmtWrite_command (s : State) (v : W64) (hbusy : s.pkg.mgmt.mbstat.getLsbD 0 = false) (h1 : 1 ≤ v.toNat) (h7 : v.toNat ≤ 7) :
    s.mgmtWrite .host 0 0x2000 v = { s with pkg := { s.pkg with
      mgmt := { s.pkg.mgmt with mbcmd := v, mbstat := s.pkg.mgmt.mbstat ||| 1 } } } := by
  have hv : v ≠ 0 := by
    rintro rfl
    simp at h1
  unfold State.mgmtWrite
  dsimp only
  rw [if_neg (by decide), if_pos (by simp), if_neg]
  rw [getLsbD_eq_bitAt] at hbusy
  simp only [hbusy, Bool.false_or, Bool.or_eq_true, decide_eq_true_eq, hv, false_or]
  omega

theorem mgmtWrite_argument (s : State) (v : W64) (k : Fin 4) :
    s.mgmtWrite .host 0 (0x2008 + 8 * k.val) v = { s with pkg := { s.pkg with
      mgmt := { s.pkg.mgmt with mbarg := s.pkg.mgmt.mbarg.set k.val v } } } := by
  have hk : (0x2008 + 8 * k.val - 0x2008) / 8 = k.val := by omega
  unfold State.mgmtWrite
  dsimp only
  rw [if_neg (by decide), if_neg (by omega), if_pos (by simp; omega), hk]
  simp [vput]

/-- The counter that the management core writes is what it then reads. -/
theorem mgmtReg_errorCounter_write (s : State) (v : W64) {d off : Nat} (hd : d < 3) (h8 : off % 8 = 0) (h : errorCounter off = true) :
    ∃ t, s.mgmtWrite .management d off v = t ∧ SameButPkg s t ∧ t.mgmtReg d off = v.toNat := by
  have hcases := errorCounter_cases h8 h
  have hw : ∃ c, s.mgmtWrite .management d off v = { s with pkg := { s.pkg with dies := c } }
      ∧ vget DieCnt.reset c d = (let x := vget DieCnt.reset s.pkg.dies d
        if off < 0x1058 then { x with ce := vput x.ce ((off - 0x1000) / 8) v }
        else if off < 0x10D8 then { x with ue := vput x.ue ((off - 0x1080) / 8) v }
        else if off = 0x1100 then { x with lretry := v }
        else if off = 0x1108 then { x with wdrop := v }
        else if off = 0x1110 then { x with hdrop := v }
        else if off = 0x1118 then { x with fdrop := v }
        else if off = 0x1120 then { x with dupmis := v }
        else { x with fenced := v }) := by
    unfold State.mgmtWrite
    dsimp only
    rw [if_neg (by decide), if_neg (by simp), if_neg (by simp), if_neg (by omega), if_neg (by omega), if_pos (by simp; omega)]
    exact ⟨_, rfl, (vget_vmod _ _ _ _ _).trans (if_pos ⟨rfl, hd⟩)⟩
  obtain ⟨c, hw, hc⟩ := hw
  refine ⟨_, rfl, ?_⟩
  rw [hw]
  refine ⟨⟨rfl, rfl, rfl, fun _ => rfl⟩, ?_⟩
  unfold State.mgmtReg
  dsimp only
  rw [hc, if_neg (by rintro rfl; simp [errorCounter] at h)]
  obtain hr | hr | rfl | rfl | rfl | rfl | rfl | rfl := hcases
  · rw [if_pos hr, if_pos hr.2]
    dsimp only
    rw [vget_vput, if_pos ⟨rfl, by omega⟩]
  · rw [if_neg (by omega), if_pos hr, if_neg (by omega), if_pos hr.2]
    dsimp only
    rw [vget_vput, if_pos ⟨rfl, by omega⟩]
  all_goals rfl

theorem core_setCore (s : State) (d p d' p' : Nat) (k : CoreSt) :
    (s.setCore d p k).core d' p' = if 128 * d' + p' = 128 * d + p then k else s.core d' p' := by
  unfold State.core
  simp only [State.setCore_pkg, mfind_minsert]
  split <;> rfl

/-- The counters of a core are written by the management core; where no core has the lcid the write is lost. -/
theorem mgmtWrite_core (s : State) (v : W64) {d off : Nat} (h : coreCounter off = true) :
    (s.coreOfLcid d ((off - 0x100000) / 64) = none → s.mgmtWrite .management d off v = s)
      ∧ ∀ p, s.coreOfLcid d ((off - 0x100000) / 64) = some p →
        s.mgmtWrite .management d off v = s.setCore d p (coreWrite (s.core d p) (off % 64) v) := by
  simp only [coreCounter, Bool.and_eq_true, decide_eq_true_eq] at h
  obtain ⟨⟨h1, h2⟩, h3⟩ := h
  unfold State.mgmtWrite
  dsimp only
  rw [if_neg (by decide), if_neg (by simp), if_neg (by simp), if_neg (by omega), if_neg (by omega), if_neg (by simp; omega),
    if_pos (by simp; omega)]
  refine ⟨fun hn => by rw [hn], fun p hp => ?_⟩
  rw [hp]
  dsimp only
  unfold coreWrite
  congr 1
  split <;> simp_all

/-- Any other write is dropped. -/
theorem mgmtWrite_other (s : State) (by_ : Agent) (v : W64) {d off : Nat}
    (hcmd : ¬(by_ = .host ∧ d = 0 ∧ off = 0x2000 ∧ s.pkg.mgmt.mbstat.getLsbD 0 = false ∧ 1 ≤ v.toNat ∧ v.toNat ≤ 7))
    (harg : ¬(by_ = .host ∧ d = 0 ∧ 0x2008 ≤ off ∧ off < 0x2028))
    (hcnt : ¬(by_ = .management ∧ (errorCounter off = true ∨ coreCounter off = true)))
    (hlog : ¬(d = 0 ∧ 0x200000 ≤ off ∧ off < 0x200400 ∧ (off % 0x40 = 0x10 ∨ off % 0x40 = 0x20))) :
    s.mgmtWrite by_ d off v = s.countDrop d by_ := by
  have herr : ¬(by_ = .management ∧ ((0x1000 ≤ off ∧ off < 0x1058) ∨ (0x1080 ≤ off ∧ off < 0x10D8) ∨ (0x1100 ≤ off ∧ off < 0x1130))) :=
    fun h => hcnt ⟨h.1, Or.inl (by simp [errorCounter]; omega)⟩
  have hcore : ¬(by_ = .management ∧ 0x100000 ≤ off ∧ off < 0x102000 ∧ off % 0x40 < 0x30) :=
    fun h => hcnt ⟨h.1, Or.inr (by simp [coreCounter]; omega)⟩
  unfold State.mgmtWrite
  dsimp only
  by_cases hf : by_ = .fabric
  · rw [if_pos hf]
  rw [if_neg hf]
  by_cases hc : d = 0 ∧ by_ = .host ∧ off = 0x2000
  · obtain ⟨rfl, rfl, rfl⟩ := hc
    rw [if_pos (by simp), if_pos]
    simp only [Bool.or_eq_true, decide_eq_true_eq]
    by_contra hno
    simp only [not_or, Bool.not_eq_true, not_lt] at hno
    refine hcmd ⟨rfl, rfl, rfl, by rw [getLsbD_eq_bitAt]; exact hno.1.1, ?_, hno.2⟩
    have hv := hno.1.2
    rw [Nat.one_le_iff_ne_zero]
    intro h0
    exact hv (BitVec.eq_of_toNat_eq (by simpa using h0))
  · rw [if_neg hc, if_neg fun h => harg ⟨h.2.1, h.1, h.2.2⟩, if_neg fun h => hlog ⟨h.1, h.2.1, h.2.2.1, Or.inl h.2.2.2⟩,
      if_neg fun h => hlog ⟨h.1, h.2.1, h.2.2.1, Or.inr h.2.2.2⟩, if_neg herr, if_neg hcore]

/-- Each register of a queue's page (R277 to R279). -/
theorem queuePage_writes (s : State) (by_ : Agent) (q : Nat) (v : W64) (hq : q < 2048) :
    let page := 0x100100000000 + 4096 * q
    exec (.registerWrite by_ page v) s = exec (.wqbaseWrite by_ q v) s
    ∧ exec (.registerWrite by_ (page + 0x018) v) s = exec (.wqctlWrite by_ q v) s
    ∧ exec (.registerWrite by_ (page + 0x020) v) s = exec (.wqtailWrite by_ q v) s
    ∧ exec (.registerWrite by_ (page + 0x038) v) s = exec (.wqstatWrite by_ q v) s
    ∧ QueueWrite s by_ q (.registerWrite by_ (page + 0x008) v) (Owner by_ ∧ (s.wq q).en = false ∧ 4 ≤ v.toNat ∧ v.toNat ≤ 16
      ∧ RingFits s.pkg.tierOk (s.wq q).base.toNat v.toNat) { s.wq q with size := v.toNat }
    ∧ QueueWrite s by_ q (.registerWrite by_ (page + 0x010) v) (Owner by_ ∧ (s.wq q).en = false ∧ v.toNat < 2 ^ 50
      ∧ v.getLsbD 12 = false) { s.wq q with root := v }
    ∧ ∀ k, k < 512 → k ∉ [0, 1, 2, 3, 4, 7] → QueueWrite s by_ q (.registerWrite by_ (page + 8 * k) v) False (s.wq q) := by
  have hw {off : Nat} (hoff : off < 4096) (h8 : off % 8 = 0) := exec_registerWrite_wq s by_ v hq hoff h8
  exact ⟨hw (off := 0) (by decide) rfl, hw (by decide) rfl, hw (by decide) rfl, hw (by decide) rfl,
    wqsize_write s by_ q v (hw (by decide) rfl), wqroot_write s by_ q v (hw (by decide) rfl),
    fun k hk hno => wqOther_write s by_ q v hno (hw (by omega) (by omega))⟩

/-- Each register of the management space of a die. -/
theorem management_writes (s : State) (by_ : Agent) {d off : Nat} (v : W64) (hd : d < 3) (hoff : off < 0x10000000) (h8 : off % 8 = 0) :
    let write := exec (.registerWrite by_ (0x100010000000 + 0x10000000 * d + off) v) s
    ((by_ = .hart ∨ by_ = .privHart) → mgmtNoHartWrite d off = true → write = .next s)
    ∧ (by_ = .host → d = 0 → off = 0x2000 → s.pkg.mgmt.mbstat.getLsbD 0 = false → 1 ≤ v.toNat → v.toNat ≤ 7 →
      write = .next { s with pkg := { s.pkg with mgmt := { s.pkg.mgmt with mbcmd := v, mbstat := s.pkg.mgmt.mbstat ||| 1 } } })
    ∧ (∀ k : Fin 4, by_ = .host → d = 0 → off = 0x2008 + 8 * k.val →
      write = .next { s with pkg := { s.pkg with mgmt := { s.pkg.mgmt with mbarg := s.pkg.mgmt.mbarg.set k.val v } } })
    ∧ (by_ = .management → errorCounter off = true → ∃ t, write = .next t ∧ SameButPkg s t ∧ t.mgmtReg d off = v.toNat)
    ∧ (by_ = .management → coreCounter off = true →
      (s.coreOfLcid d ((off - 0x100000) / 64) = none → write = .next s)
      ∧ ∀ p, s.coreOfLcid d ((off - 0x100000) / 64) = some p → ∃ t, write = .next t ∧ SameButPkg s t
        ∧ t.core d p = coreWrite (s.core d p) (off % 64) v)
    ∧ (¬((by_ = .hart ∨ by_ = .privHart) ∧ mgmtNoHartWrite d off = true) →
      ¬(by_ = .host ∧ d = 0 ∧ 0x2008 ≤ off ∧ off < 0x2028) →
      ¬(by_ = .host ∧ d = 0 ∧ off = 0x2000 ∧ s.pkg.mgmt.mbstat.getLsbD 0 = false ∧ 1 ≤ v.toNat ∧ v.toNat ≤ 7) →
      ¬(by_ = .management ∧ (errorCounter off = true ∨ coreCounter off = true)) →
      ¬(d = 0 ∧ 0x200000 ≤ off ∧ off < 0x200400 ∧ (off % 0x40 = 0x10 ∨ off % 0x40 = 0x20)) →
      ∃ t, write = .next t ∧ Drops s t by_ (if by_ = .host then 0 else d)) := by
  dsimp only
  rw [exec_registerWrite_mgmt s by_ v hd hoff h8]
  refine ⟨?_, ?_, ?_, ?_, ?_, ?_⟩
  · intro hhart hno
    rw [if_neg (by rcases hhart with rfl | rfl <;> simp), if_pos ⟨hhart, hno⟩]
  · rintro rfl rfl rfl hbusy h1 h7
    rw [if_neg (by simp), if_neg (by simp), mgmtWrite_command s v hbusy h1 h7]
  · rintro k rfl rfl rfl
    rw [if_neg (by simp), if_neg (by simp), mgmtWrite_argument s v k]
  · rintro rfl herr
    obtain ⟨t, ht, hsame, hreg⟩ := mgmtReg_errorCounter_write s v hd h8 herr
    exact ⟨t, by rw [if_neg (by simp), if_neg (by simp), ht], hsame, hreg⟩
  · rintro rfl hcore
    obtain ⟨hnone, hsome⟩ := mgmtWrite_core s v (d := d) hcore
    rw [if_neg (by simp), if_neg (by simp)]
    refine ⟨fun h => by rw [hnone h], fun p hp => ⟨_, congrArg Host.Outcome.next (hsome p hp), ⟨rfl, rfl, rfl, fun _ => rfl⟩, ?_⟩⟩
    rw [core_setCore, if_pos rfl]
  · intro hhart harg hcmd hcnt hlog
    by_cases hout : by_ = .fabric ∨ (by_ = .host ∧ d ≠ 0)
    · rw [if_pos hout]
      exact ⟨_, rfl, drops_countDrop s by_ (by split <;> omega)⟩
    · rw [if_neg hout, if_neg hhart, mgmtWrite_other s by_ v hcmd harg hcnt hlog]
      have hdie : (if by_ = .host then 0 else d) = d := by
        by_cases hh : by_ = .host
        · rw [if_pos hh]
          by_contra hne
          exact hout (Or.inr ⟨hh, Ne.symm hne⟩)
        · rw [if_neg hh]
      rw [hdie]
      exact ⟨_, rfl, drops_countDrop s by_ hd⟩

/-- The alias of the management space at the writer's die. -/
theorem alias_writes (s : State) (by_ : Agent) {off : Nat} (v : W64) (hoff : off < 0x10000000) (h8 : off % 8 = 0) :
    (by_ ≠ .host → exec (.registerWrite by_ (0x100000000000 + off) v) s = exec (.registerWrite by_ (0x100010000000 + off) v) s)
    ∧ ∃ t, exec (.registerWrite .host (0x100000000000 + off) v) s = .next t ∧ Drops s t .host 0 := by
  refine ⟨fun hh => ?_, ⟨_, ?_, drops_countDrop s .host (by decide)⟩⟩
  · have hmgmt := exec_registerWrite_mgmt s by_ v (d := 0) (by decide) hoff h8
    rw [Nat.mul_zero, Nat.add_zero] at hmgmt
    rw [exec_registerWrite_own s by_ v hoff h8, hmgmt]
    simp [hh]
  · rw [exec_registerWrite_own s .host v hoff h8, if_pos (Or.inr rfl)]

theorem exec_registerWrite_elsewhere (s : State) (by_ : Agent) (a : Nat) (v : W64)
    (h : (regionOf a).isMem = true ∨ regionOf a = .hole ∨ a % 8 ≠ 0) : exec (.registerWrite by_ a v) s = .next s := by
  refine congrArg Host.Outcome.next ?_
  dsimp only
  rw [if_pos]
  simpa [or_assoc] using h

/-- Settles O52: each form of write is one of a queue's page, of a log partition or of management space, and each register of those
takes or drops it. -/
theorem registerWrites : Obligations.RegisterWrites := by
  unfold Obligations.RegisterWrites
  refine ⟨fun by_ q v s => ⟨wqtail_write s by_ q v rfl, wqbase_write s by_ q v rfl, wqctl_write s by_ q v rfl, wqstat_write s by_ q v rfl⟩,
    fun by_ p v s => ?_, fun by_ q v s hq => queuePage_writes s by_ q v hq, fun by_ d off v s hd hoff h8 => ?_,
    fun by_ a v s h => exec_registerWrite_elsewhere s by_ a v h⟩
  · obtain ⟨htaken, hdropped⟩ := exec_ldrainWrite s by_ p v
    have hsign := exec_lsignWrite s by_ p v
    refine ⟨htaken, hdropped, fun hf hw => ?_, fun hf hn => ?_, fun hf => ?_,
      exec_registerWrite_log s by_ v p.isLt (Or.inl rfl), exec_registerWrite_log s by_ v p.isLt (Or.inr rfl)⟩
    · rw [hsign, if_neg hf, requestStatement_waiting hw]
    · rw [hsign, if_neg hf, requestStatement_new hn]
    · exact ⟨_, hsign.trans (by rw [if_pos hf]), drops_countDrop s by_ (by decide)⟩
  · obtain ⟨h1, h2, h3, h4, h5, h6⟩ := management_writes s by_ v hd hoff h8
    obtain ⟨h7, h8'⟩ := alias_writes s by_ v hoff h8
    exact ⟨h1, h2, h3, h4, h5, h6, h7, h8'⟩

end Sys2Proof.Claims
end

section
/-! PROOF. What dropping uncorrectable words (R189, R210) and a write of an agent that is no hart (R215) leave. -/

namespace Sys2Proof.Claims

open Sys2Proof Sys2Proof.Machine

/-! What stays but for the strips. -/

theorem SameCpu.refl (s : State) : SameCpu s s := rfl

theorem SameCpu.of_eq {s t : State} (h : t.cpu = s.cpu) : SameCpu s t := by
  unfold SameCpu
  rw [h]

theorem SameCpu.trans {s t u : State} (h : SameCpu s t) (h' : SameCpu t u) : SameCpu s u := by
  unfold SameCpu at *
  rw [h']
  dsimp only
  rw [h]

theorem SameOthers.of_eq {s t : State} (h : t.others = s.others) : SameOthers s t :=
  ⟨fun x => x.back.strip, by rw [h]; simp⟩

theorem SameOthers.trans {s t u : State} (h : SameOthers s t) (h' : SameOthers t u) : SameOthers s u := by
  obtain ⟨f, hf⟩ := h
  obtain ⟨g, hg⟩ := h'
  refine ⟨fun x => g { x with back := { x.back with strip := f x } }, ?_⟩
  rw [hg, hf, List.map_map]
  rfl

theorem SamePkg.of_eq {s t : State} (h : t.pkg = s.pkg) : SamePkg s t := by
  unfold SamePkg
  rw [h]

/-! Writes of agents that are no harts. -/

theorem sameCpu_meetStrips (s : State) (mine : Bool) (keys : List Nat) : SameCpu s (s.meetStrips mine keys) := by
  unfold State.meetStrips Back.meet SameCpu
  cases mine <;> rfl

theorem sameOthers_meetStrips (s : State) (mine : Bool) (keys : List Nat) : SameOthers s (s.meetStrips mine keys) :=
  ⟨fun h => (h.back.meet .other 0 (keys.map (fun k => (k, readCell s.mem k)))).strip, rfl⟩

/-- Memory after bytes are written from a key on. -/
theorem puts_of_mem {s t : State} {k : Nat} {l : List Byte} (h : t.mem = writeCells s.mem k l) : Puts s t k l := by
  intro a
  rw [h, readCell_writeCells]

theorem agentBytes_spec (s : State) (d k : Nat) (l : List Byte) :
    Puts s (s.agentBytes d k l) k l ∧ SamePkg s (s.agentBytes d k l) ∧ SameCpu s (s.agentBytes d k l)
      ∧ SameOthers s (s.agentBytes d k l) ∧ (s.agentBytes d k l).agenda = s.agenda :=
  ⟨puts_of_mem rfl, rfl, sameCpu_meetStrips s false _, sameOthers_meetStrips s false _, rfl⟩

/-! Uncorrectable words. -/

theorem Swept.refl (s : State) : Swept s s := ⟨rfl, rfl, rfl, rfl, fun _ h => h, fun _ => Or.inl rfl⟩

theorem Swept.trans {s t u : State} (h : Swept s t) (h' : Swept t u) : Swept s u := by
  obtain ⟨hcpu, hothers, hagenda, hpkg, hsub, hmem⟩ := h
  obtain ⟨hcpu', hothers', hagenda', hpkg', hsub', hmem'⟩ := h'
  refine ⟨hcpu'.trans hcpu, hothers'.trans hothers, hagenda'.trans hagenda, ?_, fun x hx => hsub x (hsub' x hx), fun a => ?_⟩
  · rw [hpkg']
    dsimp only
    rw [hpkg]
  · rcases hmem' a with heq | ⟨h0, w, hw, hline, hgone⟩
    · rcases hmem a with heq' | ⟨h0, w, hw, hline, hgone⟩
      · exact Or.inl (heq.trans heq')
      · exact Or.inr ⟨heq.trans h0, w, hw, hline, fun hx => hgone (hsub' w hx)⟩
    · exact Or.inr ⟨h0, w, hsub w hw, hline, hgone⟩

/-- Fencing a frame changes what is fenced and its count, and nothing else. -/
theorem exists_fenceFrame_eq (s : State) (a : Nat) : ∃ (f c : List Nat) (d : Vector DieCnt 3),
    s.fenceFrame a = { s with pkg := { s.pkg with fences := f, closed := c, dies := d } } := by
  unfold State.fenceFrame
  dsimp only
  split
  · exact ⟨s.pkg.fences, s.pkg.closed, s.pkg.dies, rfl⟩
  · split <;> exact ⟨_, _, _, rfl⟩

/-- A word that is dropped is zero, its errors are gone. -/
theorem exists_dropWord_eq {s : State} (kind a : Nat) (h : ∃ u ∈ s.pkg.poison, u / 8 = a / 64) :
    ∃ (f c : List Nat) (d : Vector DieCnt 3) (x : Vector Nat 4), s.dropWord kind a = { s with
      mem := writeCells s.mem (a / 64 * 64) (List.replicate 64 0)
      pkg := { s.pkg with
        poison := s.pkg.poison.filter (fun u => u / 8 != a / 64), fences := f, closed := c, dies := d, msix := x } } := by
  unfold State.dropWord
  rw [if_pos (by simpa using h)]
  generalize writeCells s.mem (a / 64 * 64) (List.replicate 64 0) = m
  generalize s.pkg.poison.filter (fun u => u / 8 != a / 64) = l
  generalize homeDie a = e
  obtain ⟨f, c, d, he⟩ := exists_fenceFrame_eq (State.countUe { s with mem := m, pkg := { s.pkg with poison := l } } e kind) a
  rw [he]
  exact ⟨f, c, d, s.pkg.msix.set 2 (s.pkg.msix[2] + 1), rfl⟩

theorem dropWord_eq_self {s : State} (kind a : Nat) (h : ¬∃ u ∈ s.pkg.poison, u / 8 = a / 64) : s.dropWord kind a = s := by
  unfold State.dropWord
  rw [if_neg (by simpa using h)]

theorem readCell_zeros (m : List Host.Cell) (a k n : Nat) :
    readCell (writeCells m a (List.replicate n 0)) k = if a ≤ k ∧ k < a + n then 0 else readCell m k := by
  rw [readCell_writeCells, List.length_replicate]
  split
  next h =>
    rw [List.getD_eq_getElem?_getD, List.getElem?_replicate]
    split <;> rfl
  next => rfl

theorem swept_dropWord (s : State) (kind a : Nat) : Swept s (s.dropWord kind a) := by
  by_cases h : ∃ u ∈ s.pkg.poison, u / 8 = a / 64
  · obtain ⟨f, c, d, x, he⟩ := exists_dropWord_eq kind a h
    obtain ⟨u, hu, hline⟩ := h
    rw [he]
    refine ⟨rfl, rfl, rfl, rfl, fun y hy => List.mem_of_mem_filter hy, fun b => ?_⟩
    dsimp only
    rw [readCell_zeros]
    split
    next hb => exact Or.inr ⟨rfl, u, hu, by omega, by simp [hline]⟩
    next => exact Or.inl rfl
  · rw [dropWord_eq_self kind a h]
    exact Swept.refl s

theorem swept_foldl {α : Type} (g : State → α → State) (hg : ∀ s x, Swept s (g s x)) (l : List α) (s : State) : Swept s (l.foldl g s) := by
  induction l generalizing s with
  | nil => exact Swept.refl s
  | cons x t ih => exact (hg s x).trans (ih (g s x))

theorem swept_sweep (s : State) (a n : Nat) : Swept s (s.sweep a n) :=
  swept_foldl (fun (s : State) u => s.dropWord (memKind a) (u * 8)) (fun s _ => swept_dropWord s _ _) _ s

theorem swept_sweepAt (s : State) (c : Ctx) (va n : Nat) : Swept s (s.sweepAt c va n) := by
  unfold State.sweepAt
  split
  · exact Swept.refl s
  · split
    · exact swept_sweep s _ _
    · exact Swept.refl s

theorem sweep_of_badWords_nil {s : State} {a n : Nat} (h : s.badWords a n = []) : s.sweep a n = s := by
  unfold State.sweep
  rw [h]
  rfl

theorem Swept.mgmt {s t : State} (h : Swept s t) : t.pkg.mgmt = s.pkg.mgmt := by
  obtain ⟨-, -, -, hpkg, -⟩ := h
  rw [hpkg]

end Sys2Proof.Claims
end

section
/-! PROOF. The mailbox commands of the management core (R28, R189, R305, R349, R370, R376, R378, R380, R382). -/

namespace Sys2Proof.Claims

open Sys2Proof Sys2Proof.Machine

/-! Loading a code object (R349). -/

theorem exec_load_unreadable {s : State} (hc : s.commandIs 1 = true)
    (h : ¬(s.loadable (s.mbArg 0) 128 = true ∧ s.loadable (s.mbArg 0) (leNat (readCells s.mem (s.mbArg 0 + 64) 8)) = true)) :
    ∃ n, exec .loadCodeObject s = .next ((s.sweep (s.mbArg 0) n).commandDone 1) := by
  refine ⟨if s.loadable (s.mbArg 0) 128 then leNat (readCells s.mem (s.mbArg 0 + 64) 8) else 128, congrArg Host.Outcome.next ?_⟩
  dsimp only
  rw [if_neg (by simp [hc]), if_pos]
  split
  next hl => simpa [hl] using h
  next hl => simpa using hl

/-- The bytes of the object that a load names. -/
def objectBytes (s : State) : List Byte := readCells s.mem (s.mbArg 0) (leNat (readCells s.mem (s.mbArg 0 + 64) 8))

/-- The object can be read. -/
def ObjectRead (s : State) : Prop :=
  s.loadable (s.mbArg 0) 128 = true ∧ s.loadable (s.mbArg 0) (leNat (readCells s.mem (s.mbArg 0 + 64) 8)) = true

theorem exec_load_refused {s : State} {e : Nat} (hc : s.commandIs 1 = true) (h : ObjectRead s)
    (hr : s.checkLoad (objectBytes s) = .error e) :
    exec .loadCodeObject s = .next ((if e = 8 then s.sweep (s.mbArg 3) 32 else s).commandDone e) := by
  refine congrArg Host.Outcome.next ?_
  unfold objectBytes at hr
  dsimp only
  rw [if_neg (by simp [hc]), if_pos h.1, if_neg (by simp [h.2]), hr]

theorem exec_load_performed {s : State} {c : CodeLoad} (hc : s.commandIs 1 = true) (h : ObjectRead s)
    (hr : s.checkLoad (objectBytes s) = .ok c) : exec .loadCodeObject s = .next ((s.performLoad c).commandDone 0) := by
  refine congrArg Host.Outcome.next ?_
  unfold objectBytes at hr
  dsimp only
  rw [if_neg (by simp [hc]), if_pos h.1, if_neg (by simp [h.2]), hr]

/-- A check that is passed. -/
theorem of_ite_error {α β : Type} {p : Prop} [Decidable p] {e : α} {x : Except α β} {y : β} (h : (if p then .error e else x) = .ok y) :
    x = .ok y := by
  split at h
  · cases h
  · exact h

theorem checkLoad_place {s : State} {l : List Byte} {c : CodeLoad} (h : s.checkLoad l = .ok c) : c.place = s.mbArg 1 := by
  unfold State.checkLoad at h
  have hpassed := of_ite_error (of_ite_error (of_ite_error (of_ite_error (of_ite_error (of_ite_error (of_ite_error (of_ite_error
    (of_ite_error (of_ite_error h)))))))))
  exact (congrArg CodeLoad.place (Except.ok.inj hpassed)).symm

/-- What a load changes beside the mailbox: memory and what notes a write, pins and code lines. -/
def Placed (s t : State) : Prop := SameCpu s t ∧ SameOthers s t ∧ t.pkg.mgmt = s.pkg.mgmt

theorem Placed.trans {s t u : State} (h : Placed s t) (h' : Placed t u) : Placed s u :=
  ⟨h.1.trans h'.1, h.2.1.trans h'.2.1, h'.2.2.trans h.2.2⟩

theorem Placed.refl (s : State) : Placed s s := ⟨rfl, SameOthers.of_eq rfl, rfl⟩

theorem placed_foldl {α : Type} (g : State → α → State) (hg : ∀ s x, Placed s (g s x)) (l : List α) (s : State) :
    Placed s (l.foldl g s) := by
  induction l generalizing s with
  | nil => exact Placed.refl s
  | cons x t ih => exact (hg s x).trans (ih (g s x))

theorem placed_agentBytes (s : State) (d k : Nat) (l : List Byte) : Placed s (s.agentBytes d k l) := by
  obtain ⟨-, -, hcpu, hothers, -⟩ := agentBytes_spec s d k l
  exact ⟨hcpu, hothers, rfl⟩

theorem placed_pin (s : State) (v : Nat) (up : Bool) : Placed s (s.pin v up) := ⟨rfl, SameOthers.of_eq rfl, rfl⟩

theorem placed_dropCode (s : State) (p : Option Nat) (a n : Nat) : Placed s (s.dropCode p a n) := ⟨rfl, SameOthers.of_eq rfl, rfl⟩

theorem performLoad_spec (s : State) (c : CodeLoad) :
    SameCpu s (s.performLoad c) ∧ SameOthers s (s.performLoad c)
      ∧ (s.performLoad c).pkg.mgmt.objects = s.pkg.mgmt.objects ++ [⟨c.place, c.size, c.symbols, c.pins, sha512 c.image.bytes⟩] := by
  have hpins := placed_foldl (fun (s : State) v => s.pin v true) (fun s v => placed_pin s v true) c.pins s
  have hpad := hpins.trans (placed_agentBytes _ 0 c.place (List.replicate c.size 0))
  have hparts := hpad.trans (placed_foldl (fun (s : State) (e : Nat × SecEnt × List Byte) => s.agentBytes 0 e.1 e.2.2)
    (fun s e => placed_agentBytes s 0 e.1 e.2.2) c.parts _)
  have htext := hparts.trans (placed_foldl (fun (s : State) (e : Nat × SecEnt × List Byte) => s.dropCode none e.1 e.2.1.size)
    (fun s e => placed_dropCode s none e.1 e.2.1.size)
    (c.parts.filter (fun (e : Nat × SecEnt × List Byte) => e.2.1.kind = 0)) _)
  obtain ⟨hcpu, hothers, hmgmt⟩ := htext
  refine ⟨hcpu, hothers, ?_⟩
  exact congrArg (fun m : Mgmt => m.objects ++ [⟨c.place, c.size, c.symbols, c.pins, sha512 c.image.bytes⟩]) hmgmt

/-! Unloading. -/

theorem exec_unload_none {s : State} (hc : s.commandIs 2 = true)
    (h : s.pkg.mgmt.objects.find? (fun o => o.place = s.mbArg 0) = none) : exec .unload s = .next (s.commandDone 9) := by
  refine congrArg Host.Outcome.next ?_
  rw [if_neg (by simp [hc]), h]

/-- The package with one use fewer of each entry that an object pins. -/
def unpinned (s : State) (o : CodeObj) : State := o.pins.foldl (fun (s : State) v => s.pin v false) s

theorem unpinned_spec (s : State) (o : CodeObj) : SameButPkg s (unpinned s o) ∧ (unpinned s o).pkg.mgmt = s.pkg.mgmt := by
  unfold unpinned
  generalize o.pins = l
  induction l generalizing s with
  | nil => exact ⟨⟨rfl, rfl, rfl, fun _ => rfl⟩, rfl⟩
  | cons v l ih => exact ih (s.pin v false)

theorem exec_unload_some {s : State} {o : CodeObj} (hc : s.commandIs 2 = true)
    (h : s.pkg.mgmt.objects.find? (fun o => o.place = s.mbArg 0) = some o) :
    exec .unload s = .next (State.commandDone { unpinned s o with pkg := { (unpinned s o).pkg with
      mgmt := { (unpinned s o).pkg.mgmt with
        objects := eraseFirst (fun x => x.place = o.place) (unpinned s o).pkg.mgmt.objects } } } 0) := by
  refine congrArg Host.Outcome.next ?_
  rw [if_neg (by simp [hc]), h]
  rfl

theorem unload_first {s : State} {o : CodeObj} {rest : List CodeObj} (hc : s.commandIs 2 = true) (hl : s.pkg.mgmt.objects = o :: rest)
    (ho : o.place = s.mbArg 0) :
    ∃ t, exec .unload s = .next t ∧ SameButPkg s t ∧ t.pkg.mgmt.objects = rest ∧ t.pkg.mgmt.mbres = some 0 := by
  have hfind : s.pkg.mgmt.objects.find? (fun o => o.place = s.mbArg 0) = some o := by
    rw [hl]
    simp [ho]
  obtain ⟨hsame, hmgmt⟩ := unpinned_spec s o
  refine ⟨_, exec_unload_some hc hfind, hsame, ?_, rfl⟩
  change eraseFirst _ (unpinned s o).pkg.mgmt.objects = rest
  rw [hmgmt, hl]
  simp [eraseFirst]

/-! The other commands (R28, R189, R305, R370, R378, R380, R382). -/

theorem Puts.commandDone {s u : State} {a : Nat} {l : List Byte} (h : Puts s u a l) (r : Nat) : Puts s (u.commandDone r) a l := h

theorem deviceBlock_eq (s : State) (nonce : Nat) :
    s.deviceBlock nonce =
      (let body := leBytes 8 0x4B4D5303B0000001 ++ leBytes 8 s.ownPkg ++ leBytes 8 nonce
          ++ digestBytes s.pkg.mgmt.measure ++ digestBytes (sha512 (s.pkg.mgmt.keys.flatMap (fun k => (leBytes 132 k.toNat).reverse)))
          ++ leBytes 8 (s.coreCount 0 + 256 * s.coreCount 1 + 65536 * s.coreCount 2)
       body ++ (leBytes 132 (Config.sign (sha512 body)).toNat).reverse ++ List.replicate 220 0) := by
  have hpart : partWord 0 = 0x4B4D5303B0000001 := rfl
  unfold State.deviceBlock signature Mgmt.keyBytes
  rw [hpart]

theorem attestDevice_writes {s : State} (hc : s.commandIs 3 = true) (ha : s.mbArg 0 % 512 = 0) (hr : regionOf (s.mbArg 0) = .hbm)
    (hw : s.writable (s.mbArg 0) = true) :
    exec .attestDevice s = .next ((s.agentBytes 0 (s.mbArg 0) (s.deviceBlock (s.mbArg 1))).commandDone 0) := by
  refine congrArg Host.Outcome.next ?_
  dsimp only
  rw [if_neg (by simp [hc]), if_neg (by simp [ha, hr, hw])]

theorem setPackageNumber_sets {s : State} (hc : s.commandIs 4 = true) (hn : s.mbArg 0 < 16384) (hnone : s.pkg.mgmt.package = none)
    (hq : ∀ e ∈ s.pkg.wqs, e.2.en = false) :
    ∃ t, exec .setPackageNumber s = .next t ∧ SameButPkg s t ∧ t.pkg.mgmt.package = some (s.mbArg 0) ∧ t.pkg.mgmt.mbres = some 0
      ∧ s.mbArg 0 ∉ t.pkg.reach := by
  have hoff : s.pkg.wqs.any (fun e => e.2.en) = false := by
    rw [List.any_eq_false]
    exact fun e he => by simp [hq e he]
  obtain ⟨reach, hreach, he⟩ : ∃ reach : List Nat, s.mbArg 0 ∉ reach ∧ exec .setPackageNumber s = .next (State.commandDone { s with
      pkg := { s.pkg with mgmt := { s.pkg.mgmt with package := some (s.mbArg 0) }, reach := reach }
      tick := s.tick + 16384 } 0) := by
    refine ⟨(List.range 16384).filter (fun p => p != s.mbArg 0 && Config.freeBool (s.tick + p)), by simp,
      congrArg Host.Outcome.next ?_⟩
    dsimp only
    rw [if_neg (by simp [hc]), if_neg (by simp [hnone, hoff]; omega)]
  exact ⟨_, he, ⟨rfl, rfl, rfl, fun _ => rfl⟩, rfl, rfl, hreach⟩

theorem releaseFencedFrame_releases {s : State} (hc : s.commandIs 5 = true) (hm : (s.regionAt (s.mbArg 0)).isMem = true)
    (hwhole : s.fencedWhole (s.mbArg 0) = false) (hf : s.mbArg 0 / 65536 ∈ s.pkg.fences) :
    exec .releaseFencedFrame s = .next (State.commandDone { s with pkg := { s.pkg with
      fences := s.pkg.fences.filter (· != s.mbArg 0 / 65536) } } 0) := by
  have hfenced : s.fenced (s.mbArg 0) = true := by simp [State.fenced, hf]
  refine congrArg Host.Outcome.next ?_
  dsimp only
  rw [if_neg (by simp [hc]), if_neg (by simp [hm, hfenced]), if_neg (by simp [hwhole])]

theorem releaseFencedFrame_whole {s : State} (hc : s.commandIs 5 = true) (hm : (s.regionAt (s.mbArg 0)).isMem = true)
    (hwhole : s.fencedWhole (s.mbArg 0) = true) : exec .releaseFencedFrame s = .next (s.commandDone 0) := by
  have hfenced : s.fenced (s.mbArg 0) = true := by simp [State.fenced, hwhole]
  refine congrArg Host.Outcome.next ?_
  dsimp only
  rw [if_neg (by simp [hc]), if_neg (by simp [hm, hfenced]), if_pos hwhole]

theorem releaseFencedFrame_fails {s : State} (hc : s.commandIs 5 = true)
    (h : (s.regionAt (s.mbArg 0)).isMem = false ∨ s.fenced (s.mbArg 0) = false) :
    exec .releaseFencedFrame s = .next (s.commandDone 0x22) := by
  refine congrArg Host.Outcome.next ?_
  dsimp only
  rw [if_neg (by simp [hc]), if_pos (by rcases h with h | h <;> simp [h])]

theorem setTripPoint_sets {s : State} {d p : Nat} (hc : s.commandIs 6 = true) (hd : d = bitsOf (s.mbArg 0) 9 8) (h3 : d < 3)
    (hp : s.coreOfLcid d (s.mbArg 0 % 128) = some p) :
    exec .setTripPoint s = .next (if (vget 0 s.pkg.mgmt.mbarg 1).toInt < -320 ∨ 1200 < (vget 0 s.pkg.mgmt.mbarg 1).toInt then
        s.commandDone 0x23
      else (s.setCore d p { s.core d p with trip := BitVec.ofInt 16 (vget 0 s.pkg.mgmt.mbarg 1).toInt }).commandDone 0) := by
  refine congrArg Host.Outcome.next ?_
  dsimp only
  rw [if_neg (by simp [hc]), ← hd, if_pos h3, hp]
  dsimp only
  simp only [Bool.or_eq_true, decide_eq_true_eq]

theorem setQuantum_sets {s : State} (hc : s.commandIs 7 = true) :
    exec .setQuantum s = .next (if s.mbArg 0 % 4 = 3 ∨ s.mbArg 1 < 65536 ∨ 2 ^ 32 ≤ s.mbArg 1 then s.commandDone 0x24
      else State.commandDone { s with pkg := { s.pkg with quantum := vput s.pkg.quantum (s.mbArg 0 % 4) (s.mbArg 1) } } 0) := by
  refine congrArg Host.Outcome.next ?_
  dsimp only
  rw [if_neg (by simp [hc])]
  simp only [Bool.or_eq_true, decide_eq_true_eq, or_assoc]

/-- Settles O54: each command passes to the branch that its checks name; the load's checks end in one answer. -/
theorem mailboxCommands : Obligations.MailboxCommands := by
  unfold Obligations.MailboxCommands
  refine ⟨fun s hc => ⟨fun hno => ?_, fun e hread hr => ?_, fun c hread hr => ?_⟩, fun s hc h => exec_unload_none hc h,
    fun s o rest hc hl ho => unload_first hc hl ho, fun s hc ha hr hw => ?_,
    fun s hc hn hnone hq => setPackageNumber_sets hc hn hnone hq, fun s hc => ⟨fun hm hwhole hf => ?_, fun hm hwhole =>
      releaseFencedFrame_whole hc hm hwhole, fun h => releaseFencedFrame_fails hc h⟩, fun s d p hc hd h3 hp => ?_, fun s hc => ?_,
    fun s r hr => ?_⟩
  · obtain ⟨n, he⟩ := exec_load_unreadable hc hno
    have hswept := swept_sweep s (s.mbArg 0) n
    have hmgmt := hswept.mgmt
    obtain ⟨hcpu, hothers, -⟩ := hswept
    exact ⟨_, he, rfl, hcpu, hothers, (congrArg Mgmt.objects hmgmt :)⟩
  · have hswept : Swept s (if e = 8 then s.sweep (s.mbArg 3) 32 else s) := by
      split
      · exact swept_sweep s _ _
      · exact Swept.refl s
    have hmgmt := hswept.mgmt
    refine ⟨_, exec_load_refused hc hread hr, ?_, ?_, fun h8 => ?_⟩
    · exact congrArg (fun m : Mgmt => { m with mbres := some e }) hmgmt
    · rw [← hmgmt]
      exact hswept
    · rw [if_neg h8]
      exact fun _ => rfl
  · obtain ⟨hcpu, hothers, hobjects⟩ := performLoad_spec s c
    exact ⟨_, _, exec_load_performed hc hread hr, rfl, hobjects, by rw [checkLoad_place hr], hcpu, hothers⟩
  · obtain ⟨hputs, -⟩ := agentBytes_spec s 0 (s.mbArg 0) (s.deviceBlock (s.mbArg 1))
    rw [deviceBlock_eq] at hputs
    refine ⟨_, attestDevice_writes hc ha hr hw, rfl, ?_⟩
    rw [deviceBlock_eq]
    exact Puts.commandDone hputs 0
  · refine ⟨_, releaseFencedFrame_releases hc hm hwhole hf, ⟨rfl, rfl, rfl, fun _ => rfl⟩, ?_, fun f hne => ?_, rfl⟩
    · change _ ∉ s.pkg.fences.filter _
      simp
    · change _ ∈ s.pkg.fences.filter _ ↔ _
      simp [hne]
  · have he := setTripPoint_sets hc hd h3 hp
    refine ⟨fun h1 h2 => ⟨_, he.trans (congrArg Host.Outcome.next (if_neg (by omega))), ⟨rfl, rfl, rfl, fun _ => rfl⟩, ?_, rfl⟩, fun h => ?_⟩
    · exact (core_setCore s d p d p _).trans (if_pos rfl)
    · rw [he, if_pos h]
      rfl
  · have he := setQuantum_sets hc
    refine ⟨fun h1 h2 h3 => ⟨_, he.trans (congrArg Host.Outcome.next (if_neg (by omega))), ⟨rfl, rfl, rfl, fun _ => rfl⟩, ?_, rfl⟩, fun h => ?_⟩
    · exact (vget_vput _ _ _ _ _).trans (if_pos ⟨rfl, h1⟩)
    · rw [he, if_pos h]
      rfl
  · refine ⟨{ s with pkg := { s.pkg with
        mgmt := { s.pkg.mgmt with mbstat := BitVec.ofNat 64 (256 * r), mbres := none }
        msix := s.pkg.msix.set 0 (s.pkg.msix[0] + 1) } }, congrArg Host.Outcome.next ?_, ⟨rfl, rfl, rfl, fun _ => rfl⟩, rfl, rfl, ?_⟩
    · rw [hr]
    · simp [vget]

end Sys2Proof.Claims
end

section
/-! PROOF. Reset, sensors, errors, links and accesses from outside (R208, R210, R370, R374, R376, R379, R381 to R383). -/

namespace Sys2Proof.Claims

open Sys2Proof Sys2Proof.Machine

/-! Memory addresses. -/

theorem isMem_iff {r : Region} : r.isMem = true ↔ r = .hbm ∨ r = .tier2 := by simp [Region.isMem]

theorem regionOf_of_isMem {s : State} {a : Nat} (h : (s.regionAt a).isMem = true) : regionOf a = .hbm ∨ regionOf a = .tier2 := by
  unfold State.regionAt at h
  split at h
  · cases h
  · exact isMem_iff.1 h

theorem homeDie_lt {s : State} {a : Nat} (h : (s.regionAt a).isMem = true) : homeDie a < 3 := by
  have hr := regionOf_of_isMem h
  unfold homeDie gib64
  unfold regionOf gib64 tierBase tierEnd at hr
  split
  · omega
  · omega

/-! RESET (R379). -/

theorem bootPartition_spec (l : List (Nat × Nat × Nat)) (s : State) : ∃ (m : List Host.Cell) (p : Vector Part 16),
    l.foldl State.bootPartition s = { s with mem := m, pkg := { s.pkg with parts := p } } := by
  induction l generalizing s with
  | nil => exact ⟨s.mem, s.pkg.parts, rfl⟩
  | cons e t ih =>
    have he : ∃ (m : List Host.Cell) (p : Vector Part 16), s.bootPartition e = { s with mem := m, pkg := { s.pkg with parts := p } } := by
      unfold State.bootPartition
      dsimp only
      split
      · exact ⟨_, _, rfl⟩
      · exact ⟨s.mem, s.pkg.parts, rfl⟩
    obtain ⟨m, p, he⟩ := he
    obtain ⟨m', p', ht⟩ := ih (s.bootPartition e)
    rw [List.foldl_cons, ht, he]
    exact ⟨m', p', rfl⟩

theorem reset_spec (b : BootInfo) (s : State) : ∃ t, exec (.reset b) s = .next t ∧ t.cpu = Hart.absent ∧ t.others = []
    ∧ t.pkg.mgmt.bstate = (if b.ok then 3 else 4) ∧ t.pkg.mgmt.package = none ∧ t.pkg.gangs = [] ∧ t.pkg.wqs = []
    ∧ t.pkg.vitrines = [] ∧ t.pkg.fences = [] ∧ t.pkg.power = true := by
  cases hb : b.ok
  · refine ⟨_, congrArg Host.Outcome.next (if_neg (by simp [hb])), rfl, rfl, ?_, rfl, rfl, rfl, rfl, rfl, rfl⟩
    exact (congrArg (fun c : Bool => if c then (3 : W64) else 4) hb :)
  · refine ⟨_, congrArg Host.Outcome.next (if_pos hb), ?_⟩
    generalize hs : State.resetTo s _ = u
    obtain ⟨m, p, he⟩ := bootPartition_spec b.parts u
    rw [he, ← hs]
    exact ⟨rfl, rfl, (congrArg (fun c : Bool => if c then (3 : W64) else 4) hb :), rfl, rfl, rfl, rfl, rfl, rfl⟩

/-! Readings of the sensors (R370, R383). -/

/-- What a thermal reading makes of a hart: a migration is requested of one that runs on a core at its trip point. -/
def warmed (s : State) (die core : Nat) (r : BitVec 16) (h : Hart) : Hart :=
  if h.status = .running && h.id.die = die && h.id.core = core && (s.core die core).trip.toInt ≤ r.toInt then
    { h with front := h.front.requestMove 1 } else h

theorem requestMove_spec (f : Front) : ∃ m, f.requestMove 1 = { f with mreq := m }
    ∧ (if f.mreq.getLsbD 0 = false then m.toNat = f.mreq.toNat / 65536 * 65536 + 257 else m = f.mreq) := by
  unfold Front.requestMove
  rw [getLsbD_eq_bitAt]
  cases bitAt f.mreq.toNat 0
  · refine ⟨_, if_neg Bool.false_ne_true, ?_⟩
    rw [if_pos rfl, BitVec.toNat_ofNat]
    omega
  · exact ⟨f.mreq, rfl, by simp⟩

theorem warmed_spec (s : State) (die core : Nat) (r : BitVec 16) (h : Hart) :
    ∃ m, warmed s die core r h = { h with front := { h.front with mreq := m } }
      ∧ (if h.status = .running ∧ (h.id.die, h.id.core) = (die, core) ∧ (s.core die core).trip.toInt ≤ r.toInt
            ∧ h.front.mreq.getLsbD 0 = false then m.toNat = h.front.mreq.toNat / 65536 * 65536 + 257
          else m = h.front.mreq) := by
  unfold warmed
  by_cases hw : h.status = .running ∧ h.id.die = die ∧ h.id.core = core ∧ (s.core die core).trip.toInt ≤ r.toInt
  · obtain ⟨hst, hd, hc, ht⟩ := hw
    obtain ⟨m, hm, hval⟩ := requestMove_spec h.front
    refine ⟨m, ?_, ?_⟩
    · rw [if_pos (by simp [hst, hd, hc, ht]), hm]
    · simpa [hst, hd, hc, ht] using hval
  · refine ⟨h.front.mreq, if_neg (by simpa [and_assoc] using hw), ?_⟩
    rw [if_neg]
    rintro ⟨hst, hdc, ht, -⟩
    exact hw ⟨hst, congrArg Prod.fst hdc, congrArg Prod.snd hdc, ht⟩

theorem thermalRefresh_spec {die core : Nat} {r : BitVec 16} (s : State) (hd : die < 3) (hc : core < 128) (hlo : -320 ≤ r.toInt)
    (hhi : r.toInt ≤ 1200) : ∃ t, exec (.thermalRefresh die core r) s = .next t ∧ SameMem s t
      ∧ t.core die core = { s.core die core with
          therm := r, slow := if 880 ≤ r.toInt then true else if r.toInt < 840 then false else (s.core die core).slow }
      ∧ t.pkg.power = (s.pkg.power && decide (r.toInt < 1000))
      ∧ t.cpu :: t.others = (s.cpu :: s.others).map (warmed s die core r) := by
  refine ⟨_, congrArg Host.Outcome.next (if_neg ?_), fun _ => rfl, ?_, rfl, rfl⟩
  · simp only [Bool.or_eq_true, decide_eq_true_eq]
    omega
  · exact (core_setCore s die core die core _).trans (if_pos rfl)

/-! Errors of memory (R189, R210). -/

theorem fenced_fenceFrame (s : State) (a : Nat) : (s.fenceFrame a).fenced a = true := by
  unfold State.fenceFrame
  dsimp only
  split
  next h => exact h
  next => split <;> simp [State.fenced, State.fencedWhole]

/-- Fencing a frame changes no count of errors. -/
theorem ue_fenceFrame (s : State) (a d : Nat) : (vget DieCnt.reset (s.fenceFrame a).pkg.dies d).ue = (vget DieCnt.reset s.pkg.dies d).ue := by
  unfold State.fenceFrame
  dsimp only
  split
  · rfl
  · split <;>
    · dsimp only
      rw [vget_vmod]
      split
      next h => rw [h.1]
      next => rfl

theorem ue_countUe (s : State) {d kind : Nat} (hd : d < 3) (hk : kind < 11) :
    vget 0 (vget DieCnt.reset (s.countUe d kind).pkg.dies d).ue kind = vget 0 (vget DieCnt.reset s.pkg.dies d).ue kind + 1 := by
  unfold State.countUe
  dsimp only
  rw [vget_vmod, if_pos ⟨rfl, hd⟩]
  dsimp only
  rw [vget_vmod, if_pos ⟨rfl, hk⟩]

theorem memKind_lt (a : Nat) : memKind a < 11 := by
  unfold memKind
  split <;> decide

/-- A word with an uncorrectable error is dropped: zero, its frame fenced, its errors gone, counted once. -/
theorem dropWord_spec {s : State} {kind a : Nat} (h : ∃ u ∈ s.pkg.poison, u / 8 = a / 64) (hd : homeDie a < 3) (hk : kind < 11) :
    Puts s (s.dropWord kind a) (a / 64 * 64) (List.replicate 64 0) ∧ (s.dropWord kind a).fenced a = true
      ∧ (∀ u ∈ (s.dropWord kind a).pkg.poison, u / 8 ≠ a / 64)
      ∧ vget 0 (vget DieCnt.reset (s.dropWord kind a).pkg.dies (homeDie a)).ue kind
        = vget 0 (vget DieCnt.reset s.pkg.dies (homeDie a)).ue kind + 1 := by
  refine ⟨?_, ?_⟩
  · obtain ⟨f, c, d, x, he⟩ := exists_dropWord_eq kind a h
    exact puts_of_mem (by rw [he])
  · unfold State.dropWord
    rw [if_pos (by simpa using h)]
    generalize writeCells s.mem (a / 64 * 64) (List.replicate 64 0) = m
    refine ⟨fenced_fenceFrame _ a, ?_, ?_⟩
    · generalize hp : s.pkg.poison.filter (fun u => u / 8 != a / 64) = l
      obtain ⟨f, c, d, he⟩ := exists_fenceFrame_eq (State.countUe { s with mem := m, pkg := { s.pkg with poison := l } } (homeDie a) kind) a
      rw [he]
      intro u hu
      have hu' : u ∈ s.pkg.poison.filter (fun u => u / 8 != a / 64) := hp ▸ hu
      simpa using List.of_mem_filter hu'
    · rw [ue_fenceFrame]
      exact ue_countUe { s with mem := m, pkg := { s.pkg with poison := s.pkg.poison.filter (fun u => u / 8 != a / 64) } } hd hk

theorem scrub_single {s : State} {a : Nat} (hm : (s.regionAt a).isMem = true) : ∃ t, exec (.scrub a false) s = .next t ∧ SameButPkg s t
    ∧ vget 0 (vget DieCnt.reset t.pkg.dies (homeDie a)).ce (memKind a)
      = vget 0 (vget DieCnt.reset s.pkg.dies (homeDie a)).ce (memKind a) + 1 := by
  have hk := memKind_lt a
  have hd := homeDie_lt hm
  have he : exec (.scrub a false) s = .next (s.countCe (homeDie a) (memKind a)) :=
    congrArg Host.Outcome.next (by dsimp only; rw [hm]; rfl)
  refine ⟨_, he, ?_⟩
  unfold State.countCe
  rw [if_pos (by simp; omega)]
  refine ⟨⟨rfl, rfl, rfl, fun _ => rfl⟩, ?_⟩
  dsimp only
  rw [vget_vmod, if_pos ⟨rfl, hd⟩]
  dsimp only
  rw [vget_vmod, if_pos ⟨rfl, hk⟩]

theorem scrub_double {s : State} {a : Nat} (hm : (s.regionAt a).isMem = true) : ∃ t, exec (.scrub a true) s = .next t
    ∧ Puts s t (a / 64 * 64) (List.replicate 64 0) ∧ t.fenced a = true ∧ (∀ u ∈ t.pkg.poison, u / 8 ≠ a / 64)
    ∧ vget 0 (vget DieCnt.reset t.pkg.dies (homeDie a)).ue (memKind a)
      = vget 0 (vget DieCnt.reset s.pkg.dies (homeDie a)).ue (memKind a) + 1 := by
  have he : exec (.scrub a true) s
      = .next (State.dropWord { s with pkg := { s.pkg with poison := a / 8 :: s.pkg.poison } } (memKind a) a) :=
    congrArg Host.Outcome.next (by dsimp only; rw [hm]; rfl)
  exact ⟨_, he, dropWord_spec (s := { s with pkg := { s.pkg with poison := a / 8 :: s.pkg.poison } })
    ⟨a / 8, List.mem_cons_self, by omega⟩ (homeDie_lt hm) (memKind_lt a)⟩

/-! Links (R374, R381, R382). -/

theorem flitRetry_counts (s : State) {die : Nat} (hd : die < 3) : ∃ t, exec (.flitRetry die false) s = .next t ∧ SameButPkg s t
    ∧ (vget DieCnt.reset t.pkg.dies die).lretry = (vget DieCnt.reset s.pkg.dies die).lretry + 1 := by
  refine ⟨_, congrArg Host.Outcome.next (if_pos rfl), ⟨rfl, rfl, rfl, fun _ => rfl⟩, ?_⟩
  dsimp only
  rw [vget_vmod, if_pos ⟨rfl, hd⟩]

/-- A frame of the second tier whose port is down is fenced. -/
theorem fenced_of_cxlDown {s : State} {a : Nat} (ha : 0x10000000000 ≤ a)
    (h : (a - 0x10000000000) / 65536 % 12 ∈ s.pkg.cxlDown) : s.fenced a = true := by
  unfold State.fenced State.fencedWhole controllerOf tierBase
  rw [if_neg (by omega), Nat.add_sub_cancel_left]
  simp [h, ha]

theorem cxlLinkDown_fences (s : State) {port : Nat} (hp : port < 12) : ∃ t, exec (.cxlLinkDown port) s = .next t ∧ SameButPkg s t
    ∧ ∀ a, 0x10000000000 ≤ a → (a - 0x10000000000) / 65536 % 12 = port → t.fenced a = true := by
  by_cases hdown : port ∈ s.pkg.cxlDown
  · refine ⟨_, congrArg Host.Outcome.next (if_pos (by simp [hdown])), ⟨rfl, rfl, rfl, fun _ => rfl⟩, fun a ha h => ?_⟩
    exact fenced_of_cxlDown ha (h ▸ hdown)
  · refine ⟨_, congrArg Host.Outcome.next (if_neg (by simp [hdown, hp])), ⟨rfl, rfl, rfl, fun _ => rfl⟩, fun a ha h => ?_⟩
    refine fenced_of_cxlDown ha ?_
    rw [h]
    exact List.mem_cons_self

theorem checkPhys_unanswered {s : State} {p : Nat} {t : State}
    (ht : t = { s with pkg := { s.pkg with unanswered := p :: s.pkg.unanswered } }) (d va pa : Nat) (hl : s.isLocal pa = false) (hp : pa / pkgSpan = p) :
    t.checkPhys d .load false va pa = some ⟨.loadFault, 3, 0, va⟩
      ∧ t.checkPhys d .store false va pa = s.checkPhys d .store false va pa := by
  have hl' : t.isLocal pa = false := by rw [ht]; exact hl
  have herr : t.errorResponse .load pa = true := by
    rw [ht]
    simp [State.errorResponse, hp]
  refine ⟨?_, by rw [ht]; rfl⟩
  unfold State.checkPhys State.refusePhys
  dsimp only
  rw [hl', herr, Bool.or_true]
  rfl

/-! Accesses from outside (R208, R376). -/

theorem all_places {f : Nat → Bool} {a n : Nat} (h : ∀ k, k < n → f (a + k) = true) : ((List.range n).map (a + ·)).all f = true := by
  simpa using h

theorem all_places_eq_false {f : Nat → Bool} {a n k : Nat} (hk : k < n) (h : f (a + k) = false) :
    ((List.range n).map (a + ·)).all f = false := by
  simpa using ⟨k, hk, h⟩

theorem refuseWrite_mem {s : State} {a : Nat} (by_ : Agent) (hm : (s.regionAt a).isMem = true) : Drops s (s.refuseWrite by_ a) by_ (homeDie a) := by
  have he : s.refuseWrite by_ a = s.countDrop (homeDie a) by_ := by
    unfold State.refuseWrite
    rcases isMem_iff.1 hm with h | h <;> rw [h]
  exact he ▸ drops_countDrop s by_ (homeDie_lt hm)

theorem outsideWrite_spec (s : State) (a : Nat) (l : List Byte) :
    Puts s (s.outsideWrite a l) a l ∧ SamePkg s (s.outsideWrite a l) ∧ SameCpu s (s.outsideWrite a l) ∧ SameOthers s (s.outsideWrite a l) := by
  obtain ⟨hput, hpkg, hcpu, hothers, -⟩ := agentBytes_spec s (homeDie a) a l
  exact ⟨hput, hpkg, hcpu, hothers⟩

theorem exec_fabricRequest {s : State} (w : Bool) (a : Nat) (l : List Byte) (h : s.pkg.mgmt.package ≠ none) :
    exec (.fabricRequest w a l) s = .next (if !w then s.fabricRead a l.length
      else if ((List.range l.length).map (a + ·)).all s.writable then s.outsideWrite a l else s.refuseWrite .fabric a) := by
  refine congrArg Host.Outcome.next ?_
  dsimp only
  rw [if_neg (by simpa using h)]

theorem hostReaches_of_isMem {s : State} {a : Nat} (h : (s.regionAt a).isMem = true) : s.hostReaches a = true := by
  unfold State.hostReaches
  rcases isMem_iff.1 h with h | h <;> rw [h]

theorem localByte_of_isMem {s : State} {a : Nat} (d : Nat) (h : (s.regionAt a).isMem = true) : s.localByte d a = readCell s.mem a := by
  unfold State.localByte
  rcases isMem_iff.1 h with h | h <;> rw [h]

theorem hostWrite_refused {s : State} {a k : Nat} {l : List Byte} (hm : (s.regionAt a).isMem = true) (hk : k < l.length)
    (h : s.writable (a + k) = false) : exec (.hostWrite a l) s = .next (s.refuseWrite .host a) := by
  refine congrArg Host.Outcome.next ?_
  dsimp only
  rw [all_places_eq_false hk h, if_neg (by decide),
    all_places_eq_false (f := fun a => s.hostReaches a && !(s.regionAt a).isMem) (Nat.zero_lt_of_lt hk) (by simp [hm]), if_neg (by decide)]

theorem hostRead_delivers {s : State} {a n : Nat} (h : ∀ k, k < n → (s.regionAt (a + k)).isMem = true ∧ s.fenced (a + k) = false)
    (hbad : s.badWords a n = []) : ∃ t, exec (.hostRead a n) s = .next t ∧ SameButPkg s t
      ∧ t.pkg = { s.pkg with hostData := readCells s.mem a n, l2 := t.pkg.l2 } := by
  have hall : ((List.range n).map (a + ·)).all (fun a => s.hostReaches a && !((s.regionAt a).isMem && s.fenced a)) = true := by
    refine all_places fun k hk => ?_
    obtain ⟨hm, hf⟩ := h k hk
    simp [hostReaches_of_isMem hm, hf]
  have hdata : ((List.range n).map (a + ·)).map (s.localByte 0) = readCells s.mem a n := by
    unfold readCells
    rw [List.map_map]
    exact List.map_congr_left fun k hk => localByte_of_isMem 0 (h k (List.mem_range.1 hk)).1
  refine ⟨{ s with pkg := { (s.readLines (homeDie a) ((List.range n).map (a + ·))).pkg with hostData := readCells s.mem a n } },
    congrArg Host.Outcome.next ?_, ⟨rfl, rfl, rfl, fun _ => rfl⟩, rfl⟩
  dsimp only
  rw [hall, hbad, hdata]
  rfl

theorem fabricRead_delivers {s : State} {a n : Nat} (h : ∀ k, k < n → (s.regionAt (a + k)).isMem = true ∧ s.fenced (a + k) = false)
    (hbad : s.badWords a n = []) : SameButPkg s (s.fabricRead a n)
      ∧ (s.fabricRead a n).pkg = { s.pkg with fabricData := readCells s.mem a n, l2 := (s.fabricRead a n).pkg.l2 } := by
  have hall : ((List.range n).map (a + ·)).all (fun a => (s.regionAt a).isMem && !s.fenced a) = true := by
    refine all_places fun k hk => ?_
    obtain ⟨hm, hf⟩ := h k hk
    simp [hm, hf]
  have he : s.fabricRead a n
      = { s with pkg := { (s.readLines (homeDie a) ((List.range n).map (a + ·))).pkg with fabricData := readCells s.mem a n } } := by
    unfold State.fabricRead
    dsimp only
    rw [hall, hbad]
    rfl
  rw [he]
  exact ⟨⟨rfl, rfl, rfl, fun _ => rfl⟩, rfl⟩

theorem fabricRead_refused {s : State} {a n k : Nat} (hk : k < n)
    (h : (s.regionAt (a + k)).isMem = false ∨ s.fenced (a + k) = true) :
    s.fabricRead a n = { s with pkg := { s.pkg with fabricData := [] } } := by
  unfold State.fabricRead
  dsimp only
  rw [all_places_eq_false (f := fun a => (s.regionAt a).isMem && !s.fenced a) hk (by rcases h with h | h <;> simp [h])]
  rfl

/-- Settles O55: each event is evaluated once by its own lemma. -/
theorem packageEvents : Obligations.PackageEvents := by
  unfold Obligations.PackageEvents
  refine ⟨reset_spec, fun die core r s hd hc hlo hhi => ?_, fun _ _ => rfl, fun a s hm => ⟨scrub_single hm, scrub_double hm⟩,
    fun die s hd => flitRetry_counts s hd, fun port s hp => cxlLinkDown_fences s hp,
    fun p s => ⟨rfl, fun d va pa hl hp => checkPhys_unanswered rfl d va pa hl hp⟩, fun w a l s h => ?_, fun a l s hw => ⟨fun hp => ?_, ?_⟩,
    fun a k l s hm hk hw => ⟨fun hp => ?_, ?_⟩, fun a n s h hbad => ⟨hostRead_delivers h hbad, fun l hl hp => ?_⟩,
    fun a k l s hp hk h => ?_⟩
  case refine_1 =>
    obtain ⟨t, he, hmem, hcore, hpower, hharts⟩ := thermalRefresh_spec s hd hc hlo hhi
    refine ⟨t, he, hmem, hcore, hpower, ?_, fun k h hk => ?_⟩
    · simpa using congrArg List.length hharts
    · obtain ⟨m, hm, hval⟩ := warmed_spec s die core r h
      refine ⟨m, ?_, hval⟩
      rw [hharts, List.getElem?_map, hk, ← hm]
      rfl
  case refine_2 =>
    refine congrArg Host.Outcome.next ?_
    dsimp only
    rw [h]
    rfl
  case refine_3 =>
    refine ⟨s.outsideWrite a l, ?_, outsideWrite_spec s a l⟩
    rw [exec_fabricRequest true a l hp, all_places hw]
    rfl
  case refine_4 =>
    refine ⟨s.outsideWrite a l, congrArg Host.Outcome.next ?_, outsideWrite_spec s a l⟩
    dsimp only
    rw [all_places hw]
    rfl
  case refine_5 =>
    refine ⟨s.refuseWrite .fabric a, ?_, refuseWrite_mem .fabric hm⟩
    rw [exec_fabricRequest true a l hp, all_places_eq_false hk hw]
    rfl
  case refine_6 => exact ⟨s.refuseWrite .host a, hostWrite_refused hm hk hw, refuseWrite_mem .host hm⟩
  case refine_7 =>
    refine ⟨s.fabricRead a n, ?_, fabricRead_delivers h hbad⟩
    rw [exec_fabricRequest false a l hp, hl]
    rfl
  case refine_8 =>
    rw [exec_fabricRequest false a l hp, ← fabricRead_refused hk h]
    rfl

end Sys2Proof.Claims
end

section
/-! PROOF. Elements of any width in a register group: each bit that is stored has a number, counted from v0 (R85, R87, R88). -/

namespace Sys2Proof.Machine

/-- Bit `n` of the lanes in column `c`, 16 of them a register. -/
def laneBit (v : SMap (BitVec 16)) (n c : Nat) : Bool := (planeWord v (n / 16) c).testBit (n % 16)

/-- The plane counts of R85. -/
def IsPlanes (p : Nat) : Prop := p = 1 ∨ p = 2 ∨ p = 4 ∨ p = 8 ∨ p = 16 ∨ p = 32

theorem tagW_bounds (t : Tag) : 1 ≤ tagW t ∧ tagW t ≤ 32 := by
  unfold tagW bitsOf
  split <;> omega

theorem isPlanes_tagP (t : Tag) : IsPlanes (tagP t) := by
  unfold IsPlanes tagP planesOf
  split
  · exact Or.inl rfl
  · split
    · exact Or.inr (Or.inl rfl)
    · split
      · simp
      · split
        · simp
        · split <;> simp

theorem tagW_le_tagP (t : Tag) : tagW t ≤ tagP t := by
  have := (tagW_bounds t).2
  unfold tagP planesOf
  repeat' split
  all_goals omega

/-- An element of at most 16 planes lies in one register. -/
theorem plane_fits {p r : Nat} (hp : IsPlanes p) (h : p ≠ 32) : r * p % 16 + p ≤ 16 := by
  obtain rfl | rfl | rfl | rfl | rfl | rfl := hp <;> omega

/-- A number with bits `lo` to `lo` + `n` − 1 replaced. -/
theorem testBit_replace_bits (o lo n x k : Nat) :
    (o - o / 2 ^ lo % 2 ^ n * 2 ^ lo + x % 2 ^ n * 2 ^ lo).testBit k
      = if lo ≤ k ∧ k < lo + n then x.testBit (k - lo) else o.testBit k := by
  have hsplit : o - o / 2 ^ lo % 2 ^ n * 2 ^ lo + x % 2 ^ n * 2 ^ lo
      = 2 ^ lo * (2 ^ n * (o / 2 ^ lo / 2 ^ n) + x % 2 ^ n) + o % 2 ^ lo := by
    have ho := Nat.div_add_mod o (2 ^ lo)
    have hmul : 2 ^ lo * (o / 2 ^ lo) = 2 ^ lo * (2 ^ n * (o / 2 ^ lo / 2 ^ n)) + o / 2 ^ lo % 2 ^ n * 2 ^ lo := by
      conv_lhs => rw [← Nat.div_add_mod (o / 2 ^ lo) (2 ^ n)]
      ring
    have hnew : 2 ^ lo * (2 ^ n * (o / 2 ^ lo / 2 ^ n) + x % 2 ^ n) = 2 ^ lo * (2 ^ n * (o / 2 ^ lo / 2 ^ n)) + x % 2 ^ n * 2 ^ lo := by ring
    omega
  rw [hsplit, Nat.testBit_two_pow_mul_add _ (Nat.mod_lt _ (by positivity)), Nat.testBit_mod_two_pow,
    Nat.testBit_two_pow_mul_add _ (Nat.mod_lt _ (by positivity)), Nat.testBit_mod_two_pow, Nat.testBit_div_two_pow, Nat.testBit_div_two_pow]
  by_cases hlo : k < lo
  · rw [if_pos hlo, if_neg (by omega)]
    simp [hlo]
  · rw [if_neg hlo]
    by_cases hn : k - lo < n
    · rw [if_pos hn, if_pos (by omega)]
      simp [hn]
    · rw [if_neg hn, if_neg (by omega), show k - lo - n + n + lo = k by omega]

/-- One word of a register with some of its bits replaced. -/
theorem laneBit_minsert (v : SMap (BitVec 16)) (reg lo n x : Nat) {c k d : Nat} (hc : c < 65536) (hd : d < 65536) (hn : lo + n ≤ 16) :
    laneBit (minsert v (reg * 65536 + c) (BitVec.ofNat 16 (planeWord v reg c - planeWord v reg c / 2 ^ lo % 2 ^ n * 2 ^ lo + x % 2 ^ n * 2 ^ lo))) k d
      = if d = c ∧ reg * 16 + lo ≤ k ∧ k < reg * 16 + lo + n then x.testBit (k - (reg * 16 + lo)) else laneBit v k d := by
  unfold laneBit
  rw [planeWord_minsert v reg _ (k / 16) hc hd]
  by_cases hreg : k / 16 = reg ∧ d = c
  · obtain ⟨hr, rfl⟩ := hreg
    rw [if_pos ⟨hr, rfl⟩, BitVec.toNat_ofNat, Nat.testBit_mod_two_pow, testBit_replace_bits, hr]
    by_cases hin : lo ≤ k % 16 ∧ k % 16 < lo + n
    · rw [if_pos hin, if_pos ⟨rfl, by omega, by omega⟩, show k % 16 - lo = k - (reg * 16 + lo) by omega]
      simp [show k % 16 < 16 by omega]
    · rw [if_neg hin, if_neg (by omega)]
      simp [show k % 16 < 16 by omega]
  · rw [if_neg hreg, if_neg (by omega)]

/-- A write of an element changes its planes and nothing else. -/
theorem laneBit_writeElem (v : SMap (BitVec 16)) {p : Nat} (hp : IsPlanes p) (base r x k : Nat) {c d : Nat} (hc : c < 65536) (hd : d < 65536) :
    laneBit (writeElem v base p r c x) k d
      = if d = c ∧ base * 16 + r * p ≤ k ∧ k < base * 16 + r * p + p then x.testBit (k - (base * 16 + r * p)) else laneBit v k d := by
  unfold writeElem
  dsimp only
  by_cases h32 : p = 32
  · subst h32
    rw [if_pos rfl, laneBit_minsert _ _ 0 16 _ hc hd (by decide), laneBit_minsert _ _ 0 16 _ hc hd (by decide)]
    by_cases hin : d = c ∧ base * 16 + r * 32 ≤ k ∧ k < base * 16 + r * 32 + 32
    · obtain ⟨rfl, hlo, hhi⟩ := hin
      rw [if_pos (show d = d ∧ base * 16 + r * 32 ≤ k ∧ k < base * 16 + r * 32 + 32 from ⟨rfl, hlo, hhi⟩)]
      by_cases hup : base * 16 + r * 32 + 16 ≤ k
      · rw [if_pos ⟨rfl, by omega, by omega⟩, show (65536 : Nat) = 2 ^ 16 from rfl, Nat.testBit_div_two_pow]
        congr 1
        omega
      · rw [if_neg (by omega), if_pos ⟨rfl, by omega, by omega⟩]
        congr 1
        omega
    · rw [if_neg (by omega), if_neg (by omega), if_neg hin]
  · have hfit := plane_fits (r := r) hp h32
    rw [if_neg h32, laneBit_minsert _ _ (r * p % 16) p _ hc hd (by omega)]
    have hat : (base + r * p / 16) * 16 + r * p % 16 = base * 16 + r * p := by omega
    rw [hat]

theorem testBit_readElem (v : SMap (BitVec 16)) {p w : Nat} (hp : IsPlanes p) (hw : w ≤ p) (base r c j : Nat) :
    (readElem v base w p r c).testBit j = (decide (j < w) && laneBit v (base * 16 + r * p + j) c) := by
  unfold readElem laneBit
  dsimp only
  rw [Nat.testBit_mod_two_pow, Nat.testBit_div_two_pow,
    show planeWord v (base + r * p / 16) c + 65536 * planeWord v (base + r * p / 16 + 1) c
      = 2 ^ 16 * planeWord v (base + r * p / 16 + 1) c + planeWord v (base + r * p / 16) c by omega,
    Nat.testBit_two_pow_mul_add _ (planeWord_lt v _ c)]
  by_cases hj : j < w
  · simp only [hj, decide_true, Bool.true_and]
    by_cases hlow : j + r * p % 16 < 16
    · rw [if_pos hlow, show (base * 16 + r * p + j) / 16 = base + r * p / 16 by omega,
        show (base * 16 + r * p + j) % 16 = j + r * p % 16 by omega]
    · have h32 : p = 32 := by
        by_contra h
        have := plane_fits (r := r) hp h
        omega
      subst h32
      rw [if_neg hlow, show (base * 16 + r * 32 + j) / 16 = base + r * 32 / 16 + 1 by omega,
        show (base * 16 + r * 32 + j) % 16 = j + r * 32 % 16 - 16 by omega]
  · simp [hj]

/-- Two elements are one when their bits are. -/
theorem readElem_congr {v u : SMap (BitVec 16)} {p w : Nat} (hp : IsPlanes p) (hw : w ≤ p) {base r c : Nat}
    (h : ∀ j, j < w → laneBit v (base * 16 + r * p + j) c = laneBit u (base * 16 + r * p + j) c) :
    readElem v base w p r c = readElem u base w p r c := by
  refine Nat.eq_of_testBit_eq fun j => ?_
  rw [testBit_readElem v hp hw, testBit_readElem u hp hw]
  by_cases hj : j < w
  · rw [h j hj]
  · simp [hj]

theorem planeWord_congr {v u : SMap (BitVec 16)} {k c : Nat} (h : ∀ j, j < 16 → laneBit v (16 * k + j) c = laneBit u (16 * k + j) c) :
    planeWord v k c = planeWord u k c := by
  refine Nat.eq_of_testBit_eq fun j => ?_
  by_cases hj : j < 16
  · have := h j hj
    unfold laneBit at this
    rwa [show (16 * k + j) / 16 = k by omega, show (16 * k + j) % 16 = j by omega] at this
  · have hbig (w : Nat) (hw : w < 65536) : w.testBit j = false :=
      Nat.testBit_lt_two_pow (hw.trans_le (Nat.pow_le_pow_right (by decide : 0 < 2) (by omega : 16 ≤ j)))
    rw [hbig _ (planeWord_lt v k c), hbig _ (planeWord_lt u k c)]

/-- The planes of a pattern hold its bits (R87). -/
theorem testBit_extPat (t : Tag) (x : Nat) {j : Nat} (hj : j < tagW t) : (extPat t x).testBit j = x.testBit j := by
  have hle := tagW_le_tagP t
  have hmod : extPat t x % 2 ^ tagW t = x % 2 ^ tagW t := by
    unfold extPat
    split
    · unfold intMod
      have hsgn : (sgn (tagW t) x) % ((2 ^ tagW t : Nat) : Int) = ((x % 2 ^ tagW t : Nat) : Int) := by
        unfold sgn
        dsimp only
        split <;> push_cast <;> simp
      have hdvd : ((2 ^ tagW t : Nat) : Int) ∣ (2 : Int) ^ tagP t := by
        push_cast
        exact pow_dvd_pow 2 hle
      have hnn : 0 ≤ sgn (tagW t) x % (2 : Int) ^ tagP t := Int.emod_nonneg _ (by positivity)
      zify
      rw [Int.toNat_of_nonneg hnn]
      push_cast at hsgn hdvd ⊢
      rw [Int.emod_emod_of_dvd _ hdvd, hsgn]
    · exact Nat.mod_mod _ _
  have h := congrArg (fun n => n.testBit j) hmod
  simpa [Nat.testBit_mod_two_pow, hj] using h

end Sys2Proof.Machine

namespace Sys2Proof.Claims

open Sys2Proof Sys2Proof.Machine

/-- An element of a group written under a tag, or kept. -/
def putUnder (t : Tag) (base r c : Nat) (x : Option Nat) (v : SMap (BitVec 16)) : SMap (BitVec 16) :=
  match x with
  | some x => writeElem v base (tagP t) r c (extPat t x)
  | none => v

theorem writeRow_map_range (t : Tag) (v : SMap (BitVec 16)) (base r n : Nat) (val : Nat → Option Nat) :
    writeRow v base t r 0 ((List.range n).map val) = upto n (fun c => putUnder t base r c (val c)) v := by
  unfold writeRow
  rw [foldl_zipIdx_map_range]
  exact upto_congr _ fun c _ v => by unfold putUnder; cases val c <;> simp

/-- A bit that is not of the element stays. -/
theorem laneBit_putUnder_other (t : Tag) (base r : Nat) (x : Option Nat) (v : SMap (BitVec 16)) {c k d : Nat} (hc : c < 65536) (hd : d < 65536)
    (h : k < base * 16 + r * tagP t ∨ base * 16 + r * tagP t + tagP t ≤ k ∨ d ≠ c) :
    laneBit (putUnder t base r c x v) k d = laneBit v k d := by
  cases x with
  | some x => exact (laneBit_writeElem v (isPlanes_tagP t) base r _ k hc hd).trans (if_neg (by omega))
  | none => rfl

theorem readElem_putUnder_same (t : Tag) (base r : Nat) (x : Option Nat) (v : SMap (BitVec 16)) {c : Nat} (hc : c < 65536) :
    readElem (putUnder t base r c x v) base (tagW t) (tagP t) r c
      = (x.map (· % 2 ^ tagW t)).getD (readElem v base (tagW t) (tagP t) r c) := by
  cases x with
  | none => rfl
  | some x =>
    refine Nat.eq_of_testBit_eq fun j => ?_
    have hle := tagW_le_tagP t
    rw [testBit_readElem _ (isPlanes_tagP t) hle]
    simp only [Option.map_some, Option.getD_some, Nat.testBit_mod_two_pow]
    by_cases hj : j < tagW t
    · rw [putUnder, laneBit_writeElem v (isPlanes_tagP t) base r _ _ hc hc, if_pos ⟨rfl, by omega, by omega⟩, Nat.add_sub_cancel_left,
        testBit_extPat t x hj]
    · simp [hj]

/-- Elements of two rows share no plane. -/
theorem rows_apart {p r i : Nat} (h : i ≠ r) : i * p + p ≤ r * p ∨ r * p + p ≤ i * p := by
  obtain hlt | hlt := Nat.lt_or_gt_of_ne h
  · have := Nat.mul_le_mul_right p hlt
    left
    linarith [Nat.succ_mul i p]
  · have := Nat.mul_le_mul_right p hlt
    right
    linarith [Nat.succ_mul r p]

/-- The lanes after a tile of results is written under a tag. -/
def putTile (t : Tag) (base rc vl : Nat) (val : Nat → Nat → Option Nat) (v : SMap (BitVec 16)) : SMap (BitVec 16) :=
  tileLoop rc vl (fun r c => putUnder t base r c (val r c)) v

theorem laneBit_putTile_outside (t : Tag) {base rc vl k d : Nat} (val : Nat → Nat → Option Nat) (v : SMap (BitVec 16)) (hvl : vl ≤ 65536)
    (hd : d < 65536) (h : k < base * 16 ∨ base * 16 + rc * tagP t ≤ k ∨ vl ≤ d) :
    laneBit (putTile t base rc vl val v) k d = laneBit v k d := by
  refine tileLoop_frame (fun v => laneBit v k d) fun r c hr hc v => laneBit_putUnder_other t base r _ v (by omega) hd ?_
  have := rows_apart (p := tagP t) (Nat.ne_of_lt hr)
  have hrc := Nat.mul_le_mul_right (tagP t) hr
  rw [Nat.succ_mul] at hrc
  omega

theorem readElem_putTile (t : Tag) {base rc vl r c : Nat} (val : Nat → Nat → Option Nat) (v : SMap (BitVec 16)) (hvl : vl ≤ 65536) (hr : r < rc)
    (hc : c < vl) : readElem (putTile t base rc vl val v) base (tagW t) (tagP t) r c
      = ((val r c).map (· % 2 ^ tagW t)).getD (readElem v base (tagW t) (tagP t) r c) := by
  refine tileLoop_at (fun v => readElem v base (tagW t) (tagP t) r c) (((val r c).map (· % 2 ^ tagW t)).getD ·) hr hc (fun v => ?_)
    fun i j hi hj hne v => ?_
  · exact readElem_putUnder_same t base r _ v (by omega)
  · refine readElem_congr (isPlanes_tagP t) (tagW_le_tagP t) fun b hb => laneBit_putUnder_other t base i _ v (by omega) (by omega) ?_
    have hle := tagW_le_tagP t
    by_cases hir : i = r
    · subst hir
      omega
    · have := rows_apart (p := tagP t) hir
      omega

/-- A tile of results written into a group. -/
theorem holdsGroup_of_putTile {s t : State} {vd : Reg} {kr : Tag} {rows n : Nat} {val : Nat → Nat → Option Nat} (hn : n ≤ 65536)
    (h : t.cpu.back.v = putTile kr vd.val rows n val s.cpu.back.v) : HoldsGroup s t vd kr rows n val := by
  have hregs : 16 * regsFor rows kr ≥ rows * tagP kr := by
    unfold regsFor
    omega
  refine ⟨fun r c hr hc => ?_, fun k c hc hout => ?_, fun r c hr hrow hc => ?_⟩
  · unfold elemAt
    rw [h, readElem_putTile kr val _ hn hr hc]
    cases val r c <;> rfl
  · rw [h]
    exact planeWord_congr fun j hj => laneBit_putTile_outside kr val _ hn hc (by omega)
  · rw [h]
    refine readElem_congr (isPlanes_tagP kr) le_rfl fun j hj => laneBit_putTile_outside kr val _ hn hc ?_
    have := Nat.mul_le_mul_right (tagP kr) hr
    omega

/-- The bits of a mask after a tile of results is written. -/
theorem holdsMask_of_putBits {s t : State} {k : Nat} {val : Nat → Nat → Option Bool} (hs : Begins s)
    (h : t.cpu.back.m = tileLoop s.cpu.front.rc s.cpu.front.vl (fun r c => putBit k r c (val r c)) s.cpu.back.m) : HoldsMask s t k val := by
  obtain ⟨-, -, -, -, hrc, hvl⟩ := hs
  refine ⟨fun r c hr hc => ?_, fun j r c _ hc hout => ?_⟩
  · rw [h, maskBit_tileLoop_putBit val _ hrc hvl hr hc]
  · rw [h, maskBit_tileLoop_putBit_outside val _ hrc hvl hc hout]

end Sys2Proof.Claims
end

section
/-! PROOF. Instructions that make their rows architectural one after another (R125, R128, R130, R254, R255): from the first element on,
with rows at their queue heads and room at their store queue, every row is done. -/

namespace Sys2Proof.Machine

/-- One row is taken from each of these heads. -/
def popEach (heads : List Nat) (b : Back) : Back := heads.foldl (fun b q => b.popRows q 1) b

/-- What row `r` of results makes of the lanes. -/
def rowLanes (d : Dst) (r : Nat) (o : RowOut) (v : SMap (BitVec 16)) : SMap (BitVec 16) :=
  match d with
  | .reg base t => writeRow v base t r 0 o.vals
  | _ => v

/-- What row `r` of results makes of the masks: first the destination, then the flags. -/
def rowMasks (d : Dst) (flagMask : Option Nat) (r : Nat) (o : RowOut) (m : SMap (BitVec 16)) : SMap (BitVec 16) :=
  let m1 := match d with
    | .msk k => writeMaskRow m k r 0 (o.vals.map (fun x => x.map (· != 0)))
    | _ => m
  match flagMask with
  | some k => writeMaskRow m1 k r 0 o.flags
  | none => m1

/-- What row `r` of results appends to a queue, as row number `id` of instruction `no`. -/
def rowAppended (d : Dst) (id no : Nat) (o : RowOut) (b : Back) : Back :=
  match d with
  | .sq q => b.modQueue q (fun x => { x with rows := x.rows ++ [⟨o.vals.map (fun x => x.getD 0), 0, id, no⟩] })
  | _ => b

/-- How many rows a row of results appends. -/
def Dst.appends (d : Dst) : Nat :=
  match d with
  | .sq _ => 1
  | _ => 0

/-- The lanes' side behind the first `n` rows of a job that gives `out`. -/
def rowsBack (s : State) (j : RowJob) (out : Nat → RowOut) (n : Nat) : Back :=
  upto n (fun r b => popEach j.heads
    { rowAppended j.dst (s.cpu.nextId + r * j.dst.appends) s.cpu.front.instret.toNat (out r) b with
      v := rowLanes j.dst r (out r) b.v, m := rowMasks j.dst j.flagMask r (out r) b.m }) s.cpu.back

end Sys2Proof.Machine

namespace Sys2Proof.Claims

open Sys2Proof Sys2Proof.Machine

theorem popEach_eq_popHeads (heads : List Nat) (b : Back) : popEach heads b = popHeads (heads.map (fun q => (q, 1))) b := by
  unfold popEach popHeads
  rw [List.foldl_map]

theorem popEach_eq (heads : List Nat) (b : Back) : popEach heads b = { b with queues := (popEach heads b).queues } := by
  rw [popEach_eq_popHeads]
  exact popHeads_eq _ b

theorem queue_popEach {heads : List Nat} (hd : heads.Nodup) (b : Back) {k : Nat} (hk : k < 6) :
    (popEach heads b).queue k = if k ∈ heads then (b.queue k).take 1 else b.queue k := by
  have hmap : (heads.map (fun q => (q, 1))).map (·.1) = heads := by
    rw [List.map_map]
    exact List.map_id' heads
  rw [popEach_eq_popHeads, queue_popHeads b hk (by rwa [hmap]) (n := 1) (by simp), hmap]

theorem rowAppended_eq (d : Dst) (id no : Nat) (o : RowOut) (b : Back) :
    rowAppended d id no o b = { b with queues := (rowAppended d id no o b).queues } := by
  unfold rowAppended
  split <;> rfl

theorem rowsBack_succ (s : State) (j : RowJob) (out : Nat → RowOut) (n : Nat) : rowsBack s j out (n + 1) = popEach j.heads
    { rowAppended j.dst (s.cpu.nextId + n * j.dst.appends) s.cpu.front.instret.toNat (out n) (rowsBack s j out n) with
      v := rowLanes j.dst n (out n) (rowsBack s j out n).v, m := rowMasks j.dst j.flagMask n (out n) (rowsBack s j out n).m } :=
  upto_succ n _ _

/-- Of the lanes' side the rows change lanes, masks and queues. -/
theorem rowsBack_eq (s : State) (j : RowJob) (out : Nat → RowOut) (n : Nat) : rowsBack s j out n = { s.cpu.back with
    v := upto n (fun r v => rowLanes j.dst r (out r) v) s.cpu.back.v
    m := upto n (fun r m => rowMasks j.dst j.flagMask r (out r) m) s.cpu.back.m
    queues := (rowsBack s j out n).queues } := by
  induction n with
  | zero => rfl
  | succ n ih =>
    rw [rowsBack_succ, upto_succ, upto_succ, popEach_eq, rowAppended_eq]
    dsimp only
    rw [ih]

/-- The queues behind a row. -/
theorem queue_rowsBack_succ {s : State} {j : RowJob} (out : Nat → RowOut) (n : Nat) (hd : j.heads.Nodup) {k : Nat} (hk : k < 6) :
    (rowsBack s j out (n + 1)).queue k =
      let x := (rowAppended j.dst (s.cpu.nextId + n * j.dst.appends) s.cpu.front.instret.toNat (out n) (rowsBack s j out n)).queue k
      if k ∈ j.heads then x.take 1 else x := by
  rw [rowsBack_succ, queue_popEach hd _ hk]
  rfl

theorem queue_rowAppended_of_ne {d : Dst} (id no : Nat) (o : RowOut) (b : Back) {k : Nat} (h : d ≠ .sq k) :
    (rowAppended d id no o b).queue k = b.queue k := by
  unfold rowAppended
  split
  next q =>
    rw [Back.queue_modQueue, if_neg]
    rintro ⟨rfl, -⟩
    exact h rfl
  next => rfl

theorem queue_rowAppended_same (id no : Nat) (o : RowOut) (b : Back) {q : Nat} (hq : q < 6) :
    (rowAppended (.sq q) id no o b).queue q
      = { b.queue q with rows := (b.queue q).rows ++ [⟨o.vals.map (fun x => x.getD 0), 0, id, no⟩] } := by
  unfold rowAppended
  rw [Back.queue_modQueue, if_pos ⟨rfl, hq⟩]

/-- A queue that no row is appended to has lost a row for each row, where it is a head. -/
theorem queue_rowsBack {s : State} {j : RowJob} (out : Nat → RowOut) (n : Nat) (hd : j.heads.Nodup) {k : Nat} (hk : k < 6)
    (hne : j.dst ≠ .sq k) :
    ((rowsBack s j out n).queue k).rows = (s.cpu.back.queue k).rows.drop (if k ∈ j.heads then n else 0)
      ∧ ((rowsBack s j out n).queue k).part = (s.cpu.back.queue k).part
      ∧ ((rowsBack s j out n).queue k).sub = (s.cpu.back.queue k).sub := by
  induction n with
  | zero => exact ⟨by rw [ite_self]; rfl, rfl, rfl⟩
  | succ n ih =>
    obtain ⟨hrows, hpart, hsub⟩ := ih
    rw [queue_rowsBack_succ out n hd hk]
    dsimp only
    rw [queue_rowAppended_of_ne _ _ _ _ hne]
    by_cases hm : k ∈ j.heads
    · rw [if_pos hm, if_pos hm]
      rw [if_pos hm] at hrows
      refine ⟨?_, hpart, hsub⟩
      unfold QState.take
      dsimp only
      rw [hrows, List.drop_drop]
    · rw [if_neg hm, if_neg hm]
      rw [if_neg hm] at hrows
      exact ⟨hrows, hpart, hsub⟩

/-- A queue that is neither a head nor the destination is as before. -/
theorem queue_rowsBack_other {s : State} {j : RowJob} (out : Nat → RowOut) (n : Nat) (hd : j.heads.Nodup) {k : Nat} (hk : k < 6)
    (hne : j.dst ≠ .sq k) (hm : k ∉ j.heads) : (rowsBack s j out n).queue k = s.cpu.back.queue k := by
  induction n with
  | zero => rfl
  | succ n ih =>
    rw [queue_rowsBack_succ out n hd hk]
    dsimp only
    rw [if_neg hm, queue_rowAppended_of_ne _ _ _ _ hne, ih]

/-- The store queue that is the destination has gained a row for each row. -/
theorem elems_rowsBack {s : State} {j : RowJob} (out : Nat → RowOut) (n : Nat) (hd : j.heads.Nodup) {q : Nat} (hq : q < 6)
    (hdst : j.dst = .sq q) (hm : q ∉ j.heads) : ((rowsBack s j out n).queue q).rows.map (fun x => x.elems)
      = (s.cpu.back.queue q).rows.map (fun x => x.elems) ++ (List.range n).map (fun r => (out r).vals.map (fun x => x.getD 0)) := by
  induction n with
  | zero => exact (List.append_nil _).symm
  | succ n ih =>
    rw [queue_rowsBack_succ out n hd hq]
    dsimp only
    rw [if_neg hm, hdst, queue_rowAppended_same _ _ _ _ hq]
    dsimp only
    rw [List.map_append, ih, List.range_succ, List.map_append, List.append_assoc]
    rfl

/-- The rows of a job are all there to be done: its heads, which are load queues, hold a row for each, its store queue has room for all of
them, and row `r` of what it gives, wherever the heads have lost `r` rows, is `out r`. -/
structure RowsGo (s : State) (j : RowJob) (out : Nat → RowOut) : Prop where
  nodup : j.heads.Nodup
  load : ∀ q ∈ j.heads, q < 4
  there : ∀ q ∈ j.heads, j.rows ≤ (s.cpu.back.queue q).rows.length
  held : j.held = []
  room : ∀ q, j.dst = .sq q → 4 ≤ q ∧ q < 6 ∧ (∀ r, r < j.rows → (out r).vals.length = j.outLen)
    ∧ j.rows * rowBytes (s.cpu.front.queueTag q) j.outLen ≤ s.free q
  row : ∀ r, r < j.rows → ∀ b, (∀ q ∈ j.heads, (b.queue q).rows = (s.cpu.back.queue q).rows.drop r) →
    j.row s.cpu.back.v s.cpu.back.m b r = out r

/-- The state behind `n` rows, with what the job has noted of them. -/
def rowsState (s : State) (j : RowJob) (out : Nat → RowOut) (n skips : Nat) : State :=
  { s with cpu := { s.cpu with back := rowsBack s j out n, nextId := s.cpu.nextId + n * j.dst.appends, skips := skips } }

theorem RowsGo.not_sq {s : State} {j : RowJob} {out : Nat → RowOut} (h : RowsGo s j out) {q : Nat} (hq : q ∈ j.heads) : j.dst ≠ .sq q := by
  intro hd
  have hload := h.load q hq
  have hge := (h.room q hd).1
  omega

theorem RowsGo.heads_left {s : State} {j : RowJob} {out : Nat → RowOut} (h : RowsGo s j out) (n : Nat) {q : Nat} (hq : q ∈ j.heads) :
    ((rowsBack s j out n).queue q).rows = (s.cpu.back.queue q).rows.drop n := by
  have hload := h.load q hq
  obtain ⟨hrows, -, -⟩ := queue_rowsBack (s := s) out n h.nodup (k := q) (by omega) (h.not_sq hq)
  rw [hrows, if_pos hq]

theorem RowsGo.emptyHeads {s : State} {j : RowJob} {out : Nat → RowOut} (h : RowsGo s j out) {n : Nat} (hn : n < j.rows) :
    Machine.emptyHeads (rowsBack s j out n) (j.heads ++ j.held) 1 = [] := by
  unfold Machine.emptyHeads
  rw [h.held, List.append_nil, List.filter_eq_nil_iff]
  intro q hq
  have hthere := h.there q hq
  rw [h.heads_left n hq, List.length_drop]
  simp only [decide_eq_true_eq]
  omega

/-- Room for the rows to come stays. -/
theorem RowsGo.dstFull {s : State} {j : RowJob} {out : Nat → RowOut} (h : RowsGo s j out) {n : Nat} (hn : n < j.rows) (k : Nat) :
    (rowsState s j out n k).dstFull j.dst (j.dst.bytes (rowsState s j out n k).cpu.front j.outLen) = none := by
  cases hd : j.dst with
  | reg => rfl
  | msk => rfl
  | nowhere => rfl
  | sq q =>
    obtain ⟨hge, hlt, hlen, hroom⟩ := h.room q hd
    have hmem : q ∉ j.heads := fun hq => absurd (h.load q hq) (by omega)
    have hfill : (rowsState s j out n k).fill q = s.fill q + n * rowBytes (s.cpu.front.queueTag q) j.outLen := by
      have helems := elems_rowsBack (s := s) out n h.nodup hlt hd hmem
      have hsum (l : List Row) (f : Nat → Nat) : (l.map (fun r => f r.elems.length)).sum = ((l.map (fun x => x.elems)).map (fun e => f e.length)).sum := by
        rw [List.map_map]
        rfl
      unfold State.fill
      rw [hsum _ (rowBytes _), hsum _ (rowBytes _)]
      change ((((rowsBack s j out n).queue q).rows.map (fun x => x.elems)).map (fun e => rowBytes (s.cpu.front.queueTag q) e.length)).sum = _
      rw [helems, List.map_append, List.sum_append]
      congr 1
      rw [List.map_map, List.map_congr_left (g := fun _ => rowBytes (s.cpu.front.queueTag q) j.outLen) fun r hr => ?_]
      · simp
      · have hr' := List.mem_range.1 hr
        simp [hlen r (by omega)]
    have hfree (u : State) : u.free q = u.qcap - u.fill q := by
      unfold State.free
      have hnil : (u.cpu.back.queue q).reserved.filter (fun _ => decide (q < 4)) = [] :=
        List.filter_eq_nil_iff.2 fun _ _ => by simp; omega
      rw [hnil]
      rfl
    rw [hfree] at hroom
    unfold State.dstFull Dst.bytes
    dsimp only
    rw [if_neg]
    rw [hfree, hfill]
    change ¬(s.qcap - _ < rowBytes (s.cpu.front.queueTag q) j.outLen)
    have hone : n * rowBytes (s.cpu.front.queueTag q) j.outLen + rowBytes (s.cpu.front.queueTag q) j.outLen
        ≤ j.rows * rowBytes (s.cpu.front.queueTag q) j.outLen := by
      rw [← Nat.succ_mul]
      exact Nat.mul_le_mul_right _ hn
    omega

/-- A row of results written where it goes. -/
theorem putRow_rowsState (s : State) (j : RowJob) (out : Nat → RowOut) (n k : Nat) :
    (rowsState s j out n k).putRow j.dst j.flagMask n 0 (out n) =
      { s with cpu := { s.cpu with
          back := { rowAppended j.dst (s.cpu.nextId + n * j.dst.appends) s.cpu.front.instret.toNat (out n) (rowsBack s j out n) with
            v := rowLanes j.dst n (out n) (rowsBack s j out n).v, m := rowMasks j.dst j.flagMask n (out n) (rowsBack s j out n).m }
          nextId := s.cpu.nextId + (n + 1) * j.dst.appends, skips := k } } := by
  unfold State.putRow rowsState rowMasks rowLanes rowAppended Dst.appends
  rcases j.dst <;> rcases j.flagMask <;> simp <;> rfl

theorem rowsState_zero (s : State) (j : RowJob) (out : Nat → RowOut) : rowsState s j out 0 s.cpu.skips = s := by
  unfold rowsState
  rw [Nat.zero_mul]
  rfl

theorem runRows_eq {s : State} {j : RowJob} {out : Nat → RowOut} (i : Instr) (cont : Front) (h : RowsGo s j out) (hg : s.cpu.groups = none)
    (hv : s.cpu.front.vstart = 0) (m : Nat) : ∀ (n k : Nat), n + m = j.rows →
      ∃ k', runRows i j cont (s.cpu.back.v, s.cpu.back.m) m n (rowsState s j out n k) = (rowsState s j out j.rows k').finish i cont := by
  induction m with
  | zero =>
    intro n k hn
    refine ⟨k, ?_⟩
    unfold runRows
    rw [h.held, show n = j.rows by omega]
    rfl
  | succ m ih =>
    intro n k hn
    have hempty : Machine.emptyHeads (rowsState s j out n k).cpu.back (j.heads ++ j.held) 1 = [] := h.emptyHeads (by omega)
    have hfull := h.dstFull (n := n) (by omega) k
    have hrow := h.row n (by omega) (rowsBack s j out n) fun q hq => h.heads_left n hq
    unfold runRows
    dsimp only
    rw [hempty]
    dsimp only
    rw [hfull]
    have hgoes : j.rowGoes (rowsState s j out n k).cpu.groups (rowsState s j out n k).cpu.front.vstart n = true := by
      change j.rowGoes s.cpu.groups _ n = true
      rw [hg]
      rfl
    have hcol : (if j.inRow then (rowsState s j out n k).cpu.front.vstart - n * j.len else 0) = 0 := by
      change (if j.inRow then s.cpu.front.vstart - n * j.len else 0) = 0
      rw [hv, Nat.zero_sub, ite_self]
    have hback : (rowsState s j out n k).cpu.back = rowsBack s j out n := rfl
    dsimp only
    rw [hgoes, hcol, hback, hrow, putRow_rowsState, if_neg (by decide)]
    obtain ⟨k', hk'⟩ := ih (n + 1) (k + j.skip s.cpu.back.v s.cpu.back.m (rowsBack s j out n) n) (by omega)
    refine ⟨k', (congrArg (runRows i j cont (s.cpu.back.v, s.cpu.back.m) m (n + 1)) ?_).trans hk'⟩
    unfold rowsState
    rw [rowsBack_succ]
    rfl

/-- A job whose rows are all there to be done does them. -/
theorem rowJob_eq {s : State} {j : RowJob} {out : Nat → RowOut} (i : Instr) (cont : Front) (hs : Begins s) (h : RowsGo s j out)
    (hpos : j.rows * j.len ≠ 0) : ∃ k, s.rowJob i j cont = (rowsState s j out j.rows k).finish i cont := by
  obtain ⟨-, hlanes, hgroups, hv, -, -⟩ := hs
  unfold State.rowJob
  rw [hv, if_neg (by omega), srcLanes_of_none hlanes, Nat.zero_div]
  have hrun := runRows_eq i cont h hgroups hv j.rows 0 s.cpu.skips (by omega)
  rwa [rowsState_zero] at hrun

theorem rowJob_empty {s : State} {j : RowJob} (i : Instr) (cont : Front) (h : j.rows * j.len = 0) : s.rowJob i j cont = s.finish i cont := by
  unfold State.rowJob
  rw [if_pos (by omega)]

/-- The rows that a job does: none where they have no elements (R128). -/
def doneRows (j : RowJob) : Nat := if j.len = 0 then 0 else j.rows

/-- Completion behind work on the lanes' side: of the front only the tags, vstart, pc and the counters have changed. -/
theorem finish_spec {s u : State} {i : Instr} {tags : Vector Tag 28} {n : Nat} (hi : keepsVstart i = false) (hlen : i.len = n)
    (hu : u = { s with cpu := { s.cpu with back := u.cpu.back, nextId := u.cpu.nextId, skips := u.cpu.skips } }) :
    let t := u.finish i { s.cpu.front with vtag := tags }
    KeepsX s t ∧ SameRest s t ∧ t.cpu.front = { past s t n with
        vtag := tags, vstart := 0, instret := s.cpu.front.instret + 1, cycle := t.cpu.front.cycle }
      ∧ (u.cpu.nextId = s.cpu.nextId → RetiresOnly s t { past s t n with vtag := tags, vstart := 0 }) ∧ t.cpu.back = u.cpu.back := by
  intro t
  have ht : t = (u.setFront { s.cpu.front with vtag := tags, vstart := 0 } |>.setBack u.cpu.back |> fun w =>
      ({ w with cpu := { w.cpu with lanes := none } } : State)).retire n := by
    change u.finish i _ = _
    unfold State.finish vstartAfter
    rw [hi, hlen]
    rfl
  have hfront : t.cpu.front = { past s t n with
      vtag := tags, vstart := 0, instret := s.cpu.front.instret + 1, cycle := t.cpu.front.cycle } := by
    rw [ht]
    rfl
  have hrest : SameRest s t := by
    rw [ht, hu]
    exact ⟨rfl, rfl, rfl, fun _ => rfl⟩
  refine ⟨fun r => ?_, hrest, hfront, fun hid => ⟨⟨hfront, ?_, .inr (by rw [ht]; rfl)⟩, hrest⟩, by rw [ht]; rfl⟩
  · rw [ht]
    rfl
  · have hcpu : t.cpu = { u.cpu with
        front := t.cpu.front, lanes := none, wait := none, due := none, resumed := t.cpu.resumed, trapped := false } := by
      rw [ht]
      rfl
    rw [hcpu, hu]
    dsimp only
    rw [hid]

/-- What a row job leaves. -/
theorem rowJob_spec {s : State} {j : RowJob} {out : Nat → RowOut} {i : Instr} {tags : Vector Tag 28} (hs : Begins s) (h : RowsGo s j out)
    (hi : keepsVstart i = false) (hlen : i.len = 4) :
    ∃ t, s.rowJob i j { s.cpu.front with vtag := tags } = t ∧ KeepsX s t ∧ SameRest s t ∧ t.cpu.front = { past s t 4 with
        vtag := tags, vstart := 0, instret := s.cpu.front.instret + 1, cycle := t.cpu.front.cycle }
      ∧ (j.dst.appends = 0 → RetiresOnly s t { past s t 4 with vtag := tags, vstart := 0 })
      ∧ t.cpu.back = rowsBack s j out (doneRows j) := by
  refine ⟨_, rfl, ?_⟩
  by_cases hempty : j.rows * j.len = 0
  · have hnone : doneRows j = 0 := by
      unfold doneRows
      rcases Nat.mul_eq_zero.1 hempty with h0 | h0
      · rw [h0, ite_self]
      · rw [if_pos h0]
    rw [rowJob_empty i _ hempty, hnone]
    obtain ⟨hx, hrest, hfront, hret, hback⟩ := finish_spec (s := s) (u := s) (tags := tags) hi hlen rfl
    exact ⟨hx, hrest, hfront, fun _ => hret rfl, hback⟩
  · have hall : doneRows j = j.rows := if_neg fun h0 => hempty (by rw [h0, Nat.mul_zero])
    obtain ⟨k, hk⟩ := rowJob_eq i { s.cpu.front with vtag := tags } hs h hempty
    rw [hk, hall]
    obtain ⟨hx, hrest, hfront, hret, hback⟩ := finish_spec (s := s) (u := rowsState s j out j.rows k) (tags := tags) hi hlen rfl
    refine ⟨hx, hrest, hfront, fun h0 => hret ?_, hback⟩
    change s.cpu.nextId + j.rows * j.dst.appends = _
    rw [h0, Nat.mul_zero, Nat.add_zero]

theorem back_eq_of_rows {s t : State} {j : RowJob} {out : Nat → RowOut} {n : Nat} (h : t.cpu.back = rowsBack s j out n) :
    t.cpu.back = { s.cpu.back with v := t.cpu.back.v, m := t.cpu.back.m, queues := t.cpu.back.queues } := by
  rw [h]
  conv_lhs => rw [rowsBack_eq]
  rw [rowsBack_eq]

/-- Rows that neither come from a queue nor go to one leave the queues as they are. -/
theorem queues_rowsBack {s : State} {j : RowJob} (out : Nat → RowOut) (n : Nat) (hheads : j.heads = []) (hdst : j.dst.appends = 0) :
    (rowsBack s j out n).queues = s.cpu.back.queues := by
  unfold rowsBack
  refine upto_frame (fun b : Back => b.queues) fun r _ b => ?_
  rw [hheads]
  unfold rowAppended popEach
  cases hd : j.dst with
  | sq q => rw [hd] at hdst; cases hdst
  | reg => rfl
  | msk => rfl
  | nowhere => rfl

/-- Rows of no elements do nothing. -/
theorem upto_doneRows {α : Type} (rc vl : Nat) (f : Nat → Nat → α → α) (a : α) :
    upto (if vl = 0 then 0 else rc) (fun r a => upto vl (f r) a) a = tileLoop rc vl f a := by
  by_cases h : vl = 0
  · subst h
    rw [if_pos rfl, tileLoop_empty f a (Nat.mul_zero rc)]
    rfl
  · rw [if_neg h]
    rfl

end Sys2Proof.Claims
end

section
/-! PROOF. The mask instructions (R159). -/

namespace Sys2Proof.Claims

open Sys2Proof Sys2Proof.Machine

/-- The bit that a mask instruction writes at (r, c), none where it keeps the old one. -/
def maskResult (o : VOps) (g : Bool → Bool → Bool) (s : State) (r c : Nat) : Option Bool :=
  if pmAt s o r c then some (g (maskBit s.cpu.back.m o.va.val r c) (maskBit s.cpu.back.m o.vb.val r c))
  else if o.mod.val = 3 then some false else none

/-- The job of a mask instruction. -/
def maskJob (o : VOps) (srcs : List Nat) (g : Bool → Bool → Bool) (f : Front) : RowJob :=
  { rows := f.rc, len := f.vl, heads := [], held := [], dst := .msk o.vd.val, outLen := f.vl, flagMask := none, inRow := true
    ordered := overlapping [] [] [o.vd.val] (o.pm.val :: srcs), row := fun _ m _ r =>
      ⟨(List.range f.vl).map (fun c =>
        if o.pm.val = 0 || maskBit m o.pm.val r c then
          some (g (maskBit m o.va.val r c) (maskBit m o.vb.val r c)).toNat
        else if o.mod.val = 3 then some 0 else none), []⟩ }

theorem rowsGo_maskJob (o : VOps) (srcs : List Nat) (g : Bool → Bool → Bool) (s : State) :
    RowsGo s (maskJob o srcs g s.cpu.front)
      (fun r => ⟨(List.range s.cpu.front.vl).map (fun c => (maskResult o g s r c).map Bool.toNat), []⟩) where
  nodup := List.nodup_nil
  load := nofun
  there := nofun
  held := rfl
  room := nofun
  row r hr b _ := by
    unfold maskJob maskResult pmAt
    dsimp only
    congr 1
    refine List.map_congr_left fun c _ => ?_
    split
    · rfl
    · split <;> rfl

theorem maskForm_spec {i : Instr} {o : VOps} {srcs : List Nat} {g : Bool → Bool → Bool} {s : State} (hs : Begins s)
    (hi : keepsVstart i = false) (hlen : i.len = 4) :
    ∃ t, maskForm i o srcs g s = t ∧ RetiresVec s t ∧ t.cpu.front.vtag = s.cpu.front.vtag ∧ t.cpu.back.v = s.cpu.back.v
      ∧ HoldsMask s t o.vd.val (maskResult o g s) := by
  have hin := hs.1
  obtain ⟨t, ht, hx, -, hfront, hret, hback⟩ := rowJob_spec (tags := s.cpu.front.vtag) hs (rowsGo_maskJob o srcs g s) hi hlen
  have hv : t.cpu.back.v = s.cpu.back.v := by
    rw [hback, rowsBack_eq]
    exact upto_frame id fun _ _ _ => rfl
  have hqueues : t.cpu.back.queues = s.cpu.back.queues := by
    rw [hback]
    exact queues_rowsBack _ _ rfl rfl
  refine ⟨t, ?_, ⟨hx, ?_, ?_⟩, by rw [hfront], hv, holdsMask_of_putBits hs ?_⟩
  · unfold maskForm
    rw [State.inOrder_nil s i _ hin]
    exact ht
  · rw [hfront]
    exact hret rfl
  · have hall := back_eq_of_rows hback
    rwa [hqueues] at hall
  · rw [hback, rowsBack_eq, ← upto_doneRows]
    refine upto_congr _ fun r _ m => ?_
    unfold rowMasks maskJob
    dsimp only
    rw [List.map_map, writeMaskRow_map_range]
    refine upto_congr _ fun c _ m => ?_
    congr 1
    dsimp only [Function.comp]
    cases maskResult o g s r c with
    | none => rfl
    | some b => cases b <;> rfl

/-- Settles O34. -/
theorem maskResults : Obligations.MaskResults := by
  unfold Obligations.MaskResults
  intro i o g s hform hs
  have hfinish (srcs : List Nat) (he : exec i s = .next (maskForm i o srcs g s)) (hi : keepsVstart i = false) (hlen : i.len = 4) :
      ∃ t, exec i s = .next t ∧ RetiresVec s t ∧ t.cpu.front.vtag = s.cpu.front.vtag ∧ t.cpu.back.v = s.cpu.back.v
        ∧ HoldsMask s t o.vd.val (maskResult o g s) := by
    obtain ⟨t, ht, hspec⟩ := maskForm_spec (srcs := srcs) hs hi hlen
    exact ⟨t, he.trans (congrArg Host.Outcome.next ht), hspec⟩
  cases i
  case mand => obtain ⟨rfl, rfl⟩ := Prod.mk.inj (Option.some.inj hform); exact hfinish _ rfl rfl rfl
  case mor => obtain ⟨rfl, rfl⟩ := Prod.mk.inj (Option.some.inj hform); exact hfinish _ rfl rfl rfl
  case mxor => obtain ⟨rfl, rfl⟩ := Prod.mk.inj (Option.some.inj hform); exact hfinish _ rfl rfl rfl
  case mandn => obtain ⟨rfl, rfl⟩ := Prod.mk.inj (Option.some.inj hform); exact hfinish _ rfl rfl rfl
  case mnot => obtain ⟨rfl, rfl⟩ := Prod.mk.inj (Option.some.inj hform); exact hfinish _ rfl rfl rfl
  case mseti => obtain ⟨rfl, rfl⟩ := Prod.mk.inj (Option.some.inj hform); exact hfinish _ rfl rfl rfl
  all_goals cases hform

end Sys2Proof.Claims
end

section
/-! PROOF. The element-wise instructions and the compares (R42, R123 to R142, R157, R158): one lemma says what any of them leaves,
whether its operands are registers or queues. -/

namespace Sys2Proof.Claims

open Sys2Proof Sys2Proof.Machine

/-! Queue heads named by a list of fields. -/

theorem nodup_eraseDups {α : Type} [BEq α] [LawfulBEq α] (l : List α) : l.eraseDups.Nodup := by
  induction hn : l.length using Nat.strong_induction_on generalizing l with
  | _ n ih =>
    cases l with
    | nil => simp
    | cons a t =>
      rw [List.eraseDups_cons, List.nodup_cons]
      refine ⟨fun hm => ?_, ih _ ?_ _ rfl⟩
      · simpa using List.of_mem_filter (List.mem_eraseDups.1 hm)
      · have := List.length_filter_le (fun b => !b == a) t
        simp only [List.length_cons] at hn
        omega

theorem mem_headsOf {l : List Reg} {q : Nat} : q ∈ headsOf l ↔ ∃ r ∈ l, r.val = 28 + q := by
  unfold headsOf headOf
  rw [List.mem_eraseDups, List.mem_filterMap]
  refine exists_congr fun r => and_congr_right fun _ => ?_
  split
  · rw [Option.some.injEq]
    omega
  · exact ⟨nofun, fun h => by omega⟩

/-- The rows that each head named by the fields has lost. -/
theorem consumes_rowsBack {s t : State} {j : RowJob} {out : Nat → RowOut} {l : List Reg} {n : Nat} (h : RowsGo s j out) (hheads : j.heads = headsOf l)
    (hback : t.cpu.back = rowsBack s j out n) : Consumes s t l n := by
  intro q hq
  have hne : j.dst ≠ .sq q := fun hd => by
    have := (h.room q hd).1
    omega
  have hiff : q ∈ j.heads ↔ l.any (fun r => r.val == 28 + q) = true := by
    rw [hheads, mem_headsOf, List.any_eq_true]
    simp
  obtain ⟨hrows, hpart, hsub⟩ := queue_rowsBack (s := s) out n h.nodup (k := q) (by omega) hne
  unfold Loses
  rw [hback]
  refine ⟨?_, hpart, hsub⟩
  rw [hrows]
  exact congrArg (fun k => List.drop k _) (if_congr hiff rfl rfl)

/-- A head that has lost `row` rows has row number `row` first. -/
theorem headElems_dropped {b b' : Back} {q row : Nat} (n : Nat) (h : (b.queue q).rows = (b'.queue q).rows.drop row) :
    headElems b q 0 n = headElems b' q row n := by
  unfold headElems
  rw [h, List.getElem?_drop, Nat.add_zero]

/-- The heads among the fields have lost `row` rows. -/
def Dropped (s : State) (b : Back) (l : List Reg) (row : Nat) : Prop :=
  ∀ q ∈ headsOf l, (b.queue q).rows = (s.cpu.back.queue q).rows.drop row

theorem srcRow_dropped {s : State} {b : Back} {l : List Reg} {row rows : Nat} (n : Nat) (h : Dropped s b l row) {r : Reg} (hr : r ∈ l)
    (hready : SourceReady s r rows) (hrow : row < rows) :
    srcRow s.cpu.back.v b s.cpu.front r row 0 n = (List.range n).map (srcEl s r row) := by
  rw [← srcRow_eq_map n hready hrow]
  unfold srcRow
  cases hh : headOf r with
  | none => rfl
  | some q =>
    dsimp only
    rw [headElems_dropped n (h q (mem_headsOf.2 ⟨r, hr, ?_⟩))]
    unfold headOf at hh
    split at hh
    · have := Option.some.inj hh
      omega
    · cases hh

/-- The source with all its stored planes. -/
def planesEl (s : State) (r : Reg) (row c : Nat) : Nat :=
  if r.val < 28 then readElem s.cpu.back.v r.val (tagP (vtagOf s r)) (tagP (vtagOf s r)) row c
  else extPat (s.cpu.front.srcTag r) (headElem s.cpu.back (r.val - 28) row c)

theorem srcTag_of_lt {s : State} {r : Reg} (h : r.val < 28) : s.cpu.front.srcTag r = vtagOf s r := if_pos h

theorem srcPlanes_dropped {s : State} {b : Back} {l : List Reg} {row rows : Nat} (n : Nat) (h : Dropped s b l row) {r : Reg} (hr : r ∈ l)
    (hready : SourceReady s r rows) (hrow : row < rows) :
    srcPlanes s.cpu.back.v b s.cpu.front r row 0 n = (List.range n).map (planesEl s r row) := by
  unfold srcPlanes planesEl
  by_cases hlt : r.val < 28
  · rw [headOf_of_lt hlt]
    simp only [hlt, if_true, srcTag_of_lt hlt]
  · have hq := rows_of_sourceReady hready hlt
    rw [headOf_of_le (by omega)]
    dsimp only
    rw [headElems_dropped n (h _ (mem_headsOf.2 ⟨r, hr, by omega⟩)), headElems_eq_map _ _ _ _ (by omega), List.map_map]
    simp only [hlt, if_false]
    rfl

/-! Rows as lists over the columns. -/

theorem zipIdx_map_range {α : Type} (n : Nat) (f : Nat → α) : ((List.range n).map f).zipIdx = (List.range n).map (fun k => (f k, k)) := by
  apply List.ext_getElem <;> simp

theorem replicate_eq_map {α : Type} (n : Nat) (a : α) : List.replicate n a = (List.range n).map (fun _ => a) := by
  simp

theorem predRow_eq_map_active (s : State) (o : VOps) (r n : Nat) :
    predRow s.cpu.back.m o (o.mod.val = 2) r n = (List.range n).map (activeAt s o r) := by
  by_cases hm : o.mod.val = 2
  · have hall : activeAt s o r = fun _ => true := funext fun c => by simp [activeAt, hm]
    unfold predRow
    rw [if_pos (by simp [hm]), hall, replicate_eq_map]
  · have hact : activeAt s o r = pmAt s o r := funext fun c => by simp [activeAt, pmAt, hm]
    rw [hact, ← predRow_eq_map]
    simp [hm]

/-! One element-wise instruction. -/

/-- The job of an element-wise instruction (R123 to R132). -/
def elemJob (o : VOps) (form : EForm) (kr : Tag) (s : State) : RowJob :=
  let f := s.cpu.front
  let c := form.ctx o f (s.getX o.vb) kr (fun _ => 0)
  { rows := f.rc, len := f.vl, heads := headsOf (formSources o form), held := []
    dst := if form.toMask then .msk o.vd.val else dstOf o.vd kr
    outLen := f.vl, flagMask := vFlagMask o, inRow := true
    ordered := vopsOverlap o f
      ((if form.useA then [(o.va, f.srcTag o.va)] else []) ++ (if form.useB then [(o.vb, f.srcTag o.vb)] else [])
        ++ (if form.useD then [(o.vd, f.dstTag o.vd)] else [])) (if form.toMask then none else some kr)
    row := elemRow form o f c
    skip := elemSkip form o f c }

/-- The value at (r, c), none where the old one stays. -/
def elemValue (s : State) (o : VOps) (form : EForm) (kr : Tag) (r c : Nat) : Option Nat :=
  if form.select || activeAt s o r c then some (formFrom s o form kr r c).1 else if o.mod.val = 3 then some 0 else none

/-- The flag at (r, c). -/
def elemFlag (s : State) (o : VOps) (form : EForm) (kr : Tag) (r c : Nat) : Bool :=
  (form.select || activeAt s o r c) && (formFrom s o form kr r c).2

/-- Row `r` of the results. -/
def elemOut (s : State) (o : VOps) (form : EForm) (kr : Tag) (r : Nat) : RowOut :=
  ⟨(List.range s.cpu.front.vl).map (elemValue s o form kr r), (List.range s.cpu.front.vl).map (fun c => some (elemFlag s o form kr r c))⟩

/-- The operands of an element-wise instruction that begins: its sources can be read, its tags give `kr`, its group fits, or its store
queue has room. -/
structure ElemGoes (s : State) (o : VOps) (form : EForm) (kr : Tag) : Prop where
  planes : form.planes = true → form.useA = true
  sources : ∀ r ∈ formSources o form, SourceReady s r s.cpu.front.rc
  tag : form.kr s.cpu.front = .ok kr
  fits : form.toMask = false → o.vd.val < 28 → Fits s o.vd s.cpu.front.rc kr
  room : form.toMask = false → 28 ≤ o.vd.val → 30 ≤ o.vd.val
    ∧ s.cpu.front.rc * rowBytes (s.cpu.front.queueTag (o.vd.val - 26)) s.cpu.front.vl ≤ s.free (o.vd.val - 26)

theorem elemRow_eq {s : State} {o : VOps} {form : EForm} {kr : Tag} {b : Back} {r : Nat} (h : ElemGoes s o form kr) (hr : r < s.cpu.front.rc)
    (hb : Dropped s b (formSources o form) r) :
    elemRow form o s.cpu.front (form.ctx o s.cpu.front (s.getX o.vb) kr (fun _ => 0)) s.cpu.back.v s.cpu.back.m b r = elemOut s o form kr r := by
  have hA : form.useA = true → o.va ∈ formSources o form := fun hu => by simp [formSources, hu]
  have hB : form.useB = true → o.vb ∈ formSources o form := fun hu => by simp [formSources, hu]
  have hra : (if form.planes then srcPlanes s.cpu.back.v b s.cpu.front o.va r 0 s.cpu.front.vl
      else if form.useA then srcRow s.cpu.back.v b s.cpu.front o.va r 0 s.cpu.front.vl else List.replicate s.cpu.front.vl 0)
      = (List.range s.cpu.front.vl).map (fun c => if form.useA then
          (if form.planes then planesEl s o.va r c else srcEl s o.va r c) else 0) := by
    by_cases hu : form.useA = true
    · have hsrc := h.sources _ (hA hu)
      by_cases hp : form.planes = true
      · rw [if_pos hp, srcPlanes_dropped _ hb (hA hu) hsrc hr]
        simp [hu, hp]
      · rw [if_neg hp, if_pos hu, srcRow_dropped _ hb (hA hu) hsrc hr]
        simp [hu, hp]
    · rw [if_neg (mt h.planes hu), if_neg hu, replicate_eq_map]
      simp [hu]
  have hrb : (if form.useB then srcRow s.cpu.back.v b s.cpu.front o.vb r 0 s.cpu.front.vl else List.replicate s.cpu.front.vl 0)
      = (List.range s.cpu.front.vl).map (fun c => if form.useB then srcEl s o.vb r c else 0) := by
    by_cases hu : form.useB = true
    · rw [if_pos hu, srcRow_dropped _ hb (hB hu) (h.sources _ (hB hu)) hr]
      simp [hu]
    · rw [if_neg hu, replicate_eq_map]
      simp [hu]
  have hrd (td : Tag) (htd : o.vd.val < 28 → td = vtagOf s o.vd) : (if form.useD && decide (o.vd.val < 28) then
        (List.range s.cpu.front.vl).map (fun k => readElem s.cpu.back.v o.vd.val (tagW td) (tagP td) r k) else List.replicate s.cpu.front.vl 0)
      = (List.range s.cpu.front.vl).map (fun c => if form.useD && decide (o.vd.val < 28) then el s o.vd r c else 0) := by
    by_cases hu : (form.useD && decide (o.vd.val < 28)) = true
    · have hlt : o.vd.val < 28 := by simpa using (Bool.and_eq_true_iff.1 hu).2
      rw [if_pos hu, htd hlt]
      simp only [hu, if_true]
      rfl
    · rw [if_neg hu, replicate_eq_map]
      simp only [hu]
      rfl
  have hact : (if form.select then List.replicate s.cpu.front.vl true else predRow s.cpu.back.m o (o.mod.val = 2) r s.cpu.front.vl)
      = (List.range s.cpu.front.vl).map (fun c => form.select || activeAt s o r c) := by
    cases hsel : form.select
    · rw [if_neg Bool.false_ne_true, predRow_eq_map_active]
      simp
    · rw [if_pos rfl, replicate_eq_map]
      simp
  unfold elemRow maskRow
  dsimp only
  rw [hra, hrb, hrd _ (fun hlt => by simp [EForm.ctx, hlt, Front.dstTag, vtagOf]), hact, List.zip_map', List.zip_map', List.zip_map', List.zip_map',
    zipIdx_map_range]
  simp only [List.map_map]
  unfold elemOut
  have hcell (c : Nat) : form.elem (form.ctx o s.cpu.front (s.getX o.vb) kr (fun _ => 0))
      (if form.useA then (if form.planes then planesEl s o.va r c else srcEl s o.va r c) else 0) (if form.useB then srcEl s o.vb r c else 0)
      (if form.useD && decide (o.vd.val < 28) then el s o.vd r c else 0) (r * s.cpu.front.vl + c) (maskBit s.cpu.back.m o.pm.val r c)
      = formFrom s o form kr r c := by
    unfold formFrom firstSource planesEl srcEl
    dsimp only
    congr 1
    by_cases hlt : o.va.val < 28
    · simp only [hlt, if_true]
    · simp only [hlt, if_false]
  congr 1
  · refine List.map_congr_left fun c _ => ?_
    dsimp only [Function.comp]
    unfold elemValue
    rw [hcell]
    split <;> rfl
  · refine List.map_congr_left fun c _ => ?_
    dsimp only [Function.comp]
    unfold elemFlag
    rw [hcell]
    split
    next ha => rw [ha, Bool.true_and]
    next ha => rw [Bool.not_eq_true] at ha; rw [ha, Bool.false_and]

theorem elemValue_getD (s : State) (o : VOps) (form : EForm) (kr : Tag) (r c : Nat) :
    (elemValue s o form kr r c).getD 0 = if form.select || activeAt s o r c then (formFrom s o form kr r c).1 else 0 := by
  unfold elemValue
  split
  · rfl
  · split <;> rfl

theorem rowsGo_elemJob {s : State} {o : VOps} {form : EForm} {kr : Tag} (h : ElemGoes s o form kr) :
    RowsGo s (elemJob o form kr s) (elemOut s o form kr) where
  nodup := nodup_eraseDups _
  load q hq := by
    obtain ⟨r, -, hr⟩ := mem_headsOf.1 hq
    have := r.isLt
    omega
  there q hq := by
    obtain ⟨r, hm, hr⟩ := mem_headsOf.1 hq
    have hrows := rows_of_sourceReady (h.sources r hm) (by omega)
    rwa [show r.val - 28 = q by omega] at hrows
  held := rfl
  room q hq := by
    have hlt := o.vd.isLt
    unfold elemJob dstOf at hq
    dsimp only at hq
    split at hq
    · cases hq
    next hmask =>
      split at hq
      · cases hq
      · cases hq
        obtain ⟨hge, hroom⟩ := h.room (by simpa using hmask) (by omega)
        exact ⟨by omega, by omega, fun r _ => by simp [elemOut, elemJob], hroom⟩
  row r hr b hb := elemRow_eq h hr hb

/-- The tags behind an element-wise instruction (R105, R128). -/
def elemTags (s : State) (o : VOps) (form : EForm) (kr : Tag) : Vector Tag 28 :=
  if form.toMask then s.cpu.front.vtag else (s.cpu.front.retagDst o.vd s.cpu.front.rc kr).vtag

theorem retagDst_eq (f : Front) (d : Reg) (rows : Nat) (kr : Tag) : f.retagDst d rows kr = { f with vtag := (f.retagDst d rows kr).vtag } := by
  unfold Front.retagDst
  split <;> rfl

theorem retags_of_vtag {s t : State} {d : Reg} {rows : Nat} {kr : Tag} (hd : d.val < 28)
    (h : t.cpu.front.vtag = (s.cpu.front.retagDst d rows kr).vtag) : Retags s t d rows kr := by
  intro k hk
  rw [h]
  unfold Front.retagDst
  rw [if_pos hd]
  exact vget_retag s.cpu.front d.val _ k kr hk

/-- The checks of R126 let an element-wise instruction pass. -/
theorem elementwise_eq {i : Instr} {s : State} {o : VOps} {form : EForm} {kr : Tag} (hs : Begins s) (h : ElemGoes s o form kr) :
    elementwise i o form s = s.rowJob i (elemJob o form kr s) { s.cpu.front with vtag := elemTags s o form kr } := by
  have hA (hu : form.useA = true) := h.sources o.va (by simp [formSources, hu])
  have hB (hu : form.useB = true) := h.sources o.vb (by simp [formSources, hu])
  have htile : tileFault s.cpu.front (form.fields o s.cpu.front) = none := by
    refine tileFault_eq_none fun e he => ?_
    unfold EForm.fields at he
    rcases List.mem_append.1 he with he | he
    · rcases List.mem_append.1 he with he | he
      · split at he
        next hu => rw [List.mem_singleton.1 he]; exact namesTile_of_sourceReady (hA hu)
        next => cases he
      · split at he
        next hu => rw [List.mem_singleton.1 he]; exact namesTile_of_sourceReady (hB hu)
        next => cases he
    · split at he
      · cases he
      next hd =>
        simp only [Bool.or_eq_true, decide_eq_true_eq, not_or, Bool.not_eq_true] at hd
        obtain ⟨hmask, hd⟩ := hd
        rw [List.mem_singleton.1 he]
        exact namesTile_of_fits (h.fits hmask (by omega))
  have hgroup : groupFault s.cpu.front ((if form.useA then [(o.va, s.cpu.front.srcTag o.va, s.cpu.front.rc)] else [])
      ++ (if form.useB then [(o.vb, s.cpu.front.srcTag o.vb, s.cpu.front.rc)] else [])
      ++ (if form.toMask then [] else [(o.vd, kr, s.cpu.front.rc)])) = none := by
    refine groupFault_eq_none fun e he hlt => ?_
    rcases List.mem_append.1 he with he | he
    · rcases List.mem_append.1 he with he | he
      · split at he
        next hu => rw [List.mem_singleton.1 he] at hlt ⊢; exact groupBad_of_sourceReady (hA hu) hlt
        next => cases he
      · split at he
        next hu => rw [List.mem_singleton.1 he] at hlt ⊢; exact groupBad_of_sourceReady (hB hu) hlt
        next => cases he
    · split at he
      · cases he
      next hmask =>
        rw [List.mem_singleton.1 he] at hlt ⊢
        exact groupBad_of_fits (h.fits (by simpa using hmask) hlt)
  have hcont : (if form.toMask then s.cpu.front else s.cpu.front.retagDst o.vd s.cpu.front.rc kr)
      = { s.cpu.front with vtag := elemTags s o form kr } := by
    unfold elemTags
    split
    · rfl
    · exact retagDst_eq _ _ _ _
  unfold elementwise
  dsimp only
  rw [htile]
  dsimp only
  rw [h.tag]
  dsimp only
  rw [hgroup]
  dsimp only
  rw [hcont, State.inOrderAs_nil s i _ _ hs.1]
  rfl

/-- What an element-wise instruction leaves. -/
theorem elementwise_spec {i : Instr} {s : State} {o : VOps} {form : EForm} {kr : Tag} (hs : Begins s) (h : ElemGoes s o form kr)
    (hi : keepsVstart i = false) (hlen : i.len = 4) :
    ∃ t, elementwise i o form s = t ∧ KeepsX s t ∧ SameRest s t ∧ t.cpu.front = { past s t 4 with
        vtag := elemTags s o form kr, vstart := 0, instret := s.cpu.front.instret + 1, cycle := t.cpu.front.cycle }
      ∧ (form.toMask = true ∨ o.vd.val < 28 → RetiresOnly s t { past s t 4 with vtag := elemTags s o form kr, vstart := 0 })
      ∧ t.cpu.back = rowsBack s (elemJob o form kr s) (elemOut s o form kr) (tileRows s) := by
  obtain ⟨t, ht, hx, hrest, hfront, hret, hback⟩ := rowJob_spec (tags := elemTags s o form kr) hs (rowsGo_elemJob h) hi hlen
  refine ⟨t, (elementwise_eq hs h).trans ht, hx, hrest, hfront, fun hd => hret ?_, hback⟩
  unfold elemJob dstOf
  dsimp only
  split
  · rfl
  next hmask =>
    rw [if_pos (hd.resolve_left hmask)]
    rfl

/-! What the rows leave in lanes, masks and queues. -/

theorem elem_lanes {s : State} {o : VOps} {form : EForm} {kr : Tag} (hmask : form.toMask = false) (hd : o.vd.val < 28) :
    (rowsBack s (elemJob o form kr s) (elemOut s o form kr) (tileRows s)).v
      = putTile kr o.vd.val s.cpu.front.rc s.cpu.front.vl (elemValue s o form kr) s.cpu.back.v := by
  rw [rowsBack_eq]
  unfold putTile
  rw [← upto_doneRows]
  refine upto_congr _ fun r _ v => ?_
  unfold rowLanes elemJob dstOf elemOut
  dsimp only
  rw [hmask, if_neg Bool.false_ne_true, if_pos hd]
  exact writeRow_map_range kr v o.vd.val r s.cpu.front.vl _

theorem elem_lanes_same {s : State} {o : VOps} {form : EForm} {kr : Tag} (h : form.toMask = true ∨ 28 ≤ o.vd.val) (n : Nat) :
    (rowsBack s (elemJob o form kr s) (elemOut s o form kr) n).v = s.cpu.back.v := by
  rw [rowsBack_eq]
  refine upto_frame id fun r _ v => ?_
  unfold rowLanes elemJob dstOf
  dsimp only
  by_cases hmask : form.toMask = true
  · rw [if_pos hmask]
  · have hd := h.resolve_left hmask
    rw [if_neg hmask, if_neg (by omega)]

/-- A mask written bit by bit, behind which the flags are written to another one. -/
theorem rowMasks_map_range (k : Nat) (flag : Option Nat) (r n : Nat) (val : Nat → Option Nat) (fl : Nat → Bool) (m : SMap (BitVec 16)) :
    rowMasks (.msk k) flag r ⟨(List.range n).map val, (List.range n).map (fun c => some (fl c))⟩ m =
      (match flag with
        | some j => fun m => upto n (fun c => putBit j r c (some (fl c))) m
        | none => id) (upto n (fun c => putBit k r c ((val c).map (· != 0))) m) := by
  unfold rowMasks
  dsimp only
  rw [List.map_map, writeMaskRow_map_range]
  cases flag with
  | none => rfl
  | some j => exact writeMaskRow_map_range _ j r n _

theorem rowMasks_flags {d : Dst} (hd : ∀ k, d ≠ .msk k) (flag : Option Nat) (r n : Nat) (l : List (Option Nat)) (fl : Nat → Bool)
    (m : SMap (BitVec 16)) : rowMasks d flag r ⟨l, (List.range n).map (fun c => some (fl c))⟩ m =
      (match flag with
        | some j => fun m => upto n (fun c => putBit j r c (some (fl c))) m
        | none => id) m := by
  unfold rowMasks
  cases d with
  | msk k => exact absurd rfl (hd k)
  | _ =>
    cases flag with
    | none => rfl
    | some j => exact writeMaskRow_map_range _ j r n _

theorem elem_masks_same {s : State} {o : VOps} {form : EForm} {kr : Tag} (hmask : form.toMask = false) (hm : o.mod.val ≠ 2) (n : Nat) :
    (rowsBack s (elemJob o form kr s) (elemOut s o form kr) n).m = s.cpu.back.m := by
  rw [rowsBack_eq]
  refine upto_frame id fun r _ m => ?_
  have hdst : ∀ k, (elemJob o form kr s).dst ≠ .msk k := fun k hk => by
    unfold elemJob dstOf at hk
    dsimp only at hk
    rw [hmask, if_neg Bool.false_ne_true] at hk
    split at hk <;> cases hk
  have hflag : (elemJob o form kr s).flagMask = none := if_neg hm
  unfold elemOut
  rw [rowMasks_flags hdst, hflag]
  rfl

/-- The flags of an instruction that writes no mask. -/
theorem elem_flags {s : State} {o : VOps} {form : EForm} {kr : Tag} (hmask : form.toMask = false) (hm : o.mod.val = 2) :
    (rowsBack s (elemJob o form kr s) (elemOut s o form kr) (tileRows s)).m
      = tileLoop s.cpu.front.rc s.cpu.front.vl (fun r c => putBit (8 + o.pm.val) r c (some (elemFlag s o form kr r c))) s.cpu.back.m := by
  rw [rowsBack_eq, ← upto_doneRows]
  refine upto_congr _ fun r _ m => ?_
  have hdst : ∀ k, (elemJob o form kr s).dst ≠ .msk k := fun k hk => by
    unfold elemJob dstOf at hk
    dsimp only at hk
    rw [hmask, if_neg Bool.false_ne_true] at hk
    split at hk <;> cases hk
  have hflag : (elemJob o form kr s).flagMask = some (8 + o.pm.val) := if_pos hm
  unfold elemOut
  rw [rowMasks_flags hdst, hflag]

/-- Under .XM every position is active. -/
theorem elemFlag_of_xm {s : State} {o : VOps} {form : EForm} {kr : Tag} (hm : o.mod.val = 2) (r c : Nat) :
    elemFlag s o form kr r c = (formFrom s o form kr r c).2 := by
  unfold elemFlag activeAt
  simp [hm]

/-! Compares: a mask of results and a mask of flags. -/

theorem maskBit_rowBits {n k r : Nat} (val : Nat → Option Bool) (m : SMap (BitVec 16)) (hr : r < 16) (hn : n ≤ 65536) (j i : Nat) {c : Nat}
    (hc : c < 65536) : maskBit (upto n (fun c => putBit k r c (val c)) m) j i c
      = if j = k ∧ i = r ∧ c < n then (val c).getD (maskBit m j i c) else maskBit m j i c := by
  by_cases hin : j = k ∧ i = r ∧ c < n
  · rw [if_pos hin]
    obtain ⟨rfl, rfl, hcn⟩ := hin
    refine upto_at (fun m => maskBit m j i c) ((val c).getD ·) hcn (fun m => ?_) fun d hd hne m => ?_
    · rw [maskBit_putBit m j _ j hr hc hc, if_pos ⟨rfl, rfl, rfl⟩]
    · rw [maskBit_putBit m j _ j hr (by omega) hc, if_neg (by omega)]
  · rw [if_neg hin]
    refine upto_frame (fun m => maskBit m j i c) fun d hd m => ?_
    rw [maskBit_putBit m k _ j hr (by omega) hc, if_neg (by omega)]

/-- The bit a compare writes at (r, c), none where the old one stays. -/
def elemBit (s : State) (o : VOps) (form : EForm) (kr : Tag) (r c : Nat) : Option Bool := (elemValue s o form kr r c).map (· != 0)

/-- One row of a compare. -/
def compareRow (s : State) (o : VOps) (form : EForm) (kr : Tag) (r : Nat) (m : SMap (BitVec 16)) : SMap (BitVec 16) :=
  let m1 := upto s.cpu.front.vl (fun c => putBit o.vd.val r c (elemBit s o form kr r c)) m
  if o.mod.val = 2 then upto s.cpu.front.vl (fun c => putBit (8 + o.pm.val) r c (some (elemFlag s o form kr r c))) m1 else m1

theorem elem_compares {s : State} {o : VOps} {form : EForm} {kr : Tag} (hmask : form.toMask = true) (n : Nat) :
    (rowsBack s (elemJob o form kr s) (elemOut s o form kr) n).m = upto n (compareRow s o form kr) s.cpu.back.m := by
  rw [rowsBack_eq]
  refine upto_congr _ fun r _ m => ?_
  have hdst : (elemJob o form kr s).dst = .msk o.vd.val := if_pos hmask
  have hflag : (elemJob o form kr s).flagMask = if o.mod.val = 2 then some (8 + o.pm.val) else none := rfl
  unfold elemOut compareRow
  rw [hdst, rowMasks_map_range, hflag]
  by_cases hm : o.mod.val = 2
  · rw [if_pos hm, if_pos hm]
    rfl
  · rw [if_neg hm, if_neg hm]
    rfl

theorem maskBit_compareRow {s : State} {o : VOps} {form : EForm} {kr : Tag} (hvl : s.cpu.front.vl ≤ 65536) {r : Nat} (hr : r < 16)
    (m : SMap (BitVec 16)) (j i : Nat) {c : Nat} (hc : c < 65536) : maskBit (compareRow s o form kr r m) j i c =
      if o.mod.val = 2 ∧ j = 8 + o.pm.val ∧ i = r ∧ c < s.cpu.front.vl then elemFlag s o form kr r c
      else if j = o.vd.val ∧ i = r ∧ c < s.cpu.front.vl then (elemBit s o form kr r c).getD (maskBit m j i c) else maskBit m j i c := by
  unfold compareRow
  dsimp only
  by_cases hm : o.mod.val = 2
  · rw [if_pos hm, maskBit_rowBits _ _ hr hvl _ _ hc, maskBit_rowBits _ _ hr hvl _ _ hc]
    simp [hm]
  · rw [if_neg hm, maskBit_rowBits _ _ hr hvl _ _ hc, if_neg (c := o.mod.val = 2 ∧ _) fun h => hm h.1]

/-- The bits behind a compare whose results and flags go to two masks. -/
theorem maskBit_elem {s : State} {o : VOps} {form : EForm} {kr : Tag} (hs : Begins s) (hmask : form.toMask = true) {r c : Nat}
    (hr : r < s.cpu.front.rc) (hc : c < s.cpu.front.vl) (j : Nat) :
    maskBit (rowsBack s (elemJob o form kr s) (elemOut s o form kr) (tileRows s)).m j r c =
      if o.mod.val = 2 ∧ j = 8 + o.pm.val then elemFlag s o form kr r c
      else if j = o.vd.val then (elemBit s o form kr r c).getD (maskBit s.cpu.back.m j r c) else maskBit s.cpu.back.m j r c := by
  obtain ⟨-, -, -, -, hrc, hvl⟩ := hs
  have hrows : tileRows s = s.cpu.front.rc := if_neg (by omega)
  rw [elem_compares hmask, hrows]
  refine upto_at (fun m => maskBit m j r c) (fun b => if o.mod.val = 2 ∧ j = 8 + o.pm.val then elemFlag s o form kr r c
    else if j = o.vd.val then (elemBit s o form kr r c).getD b else b) hr (fun m => ?_) fun i hi hne m => ?_
  · rw [maskBit_compareRow hvl (by omega) m j r (by omega)]
    simp only [hc, and_true]
  · rw [maskBit_compareRow hvl (by omega) m j r (by omega), if_neg (by omega), if_neg (by omega)]

theorem maskBit_elem_outside {s : State} {o : VOps} {form : EForm} {kr : Tag} (hs : Begins s) (hmask : form.toMask = true) {j r c : Nat}
    (hc : c < 65536) (h : (j ≠ o.vd.val ∧ ¬(o.mod.val = 2 ∧ j = 8 + o.pm.val)) ∨ s.cpu.front.rc ≤ r ∨ s.cpu.front.vl ≤ c) :
    maskBit (rowsBack s (elemJob o form kr s) (elemOut s o form kr) (tileRows s)).m j r c = maskBit s.cpu.back.m j r c := by
  obtain ⟨-, -, -, -, hrc, hvl⟩ := hs
  have hrows : tileRows s ≤ s.cpu.front.rc := by
    unfold tileRows
    split <;> omega
  rw [elem_compares hmask]
  refine upto_frame (fun m => maskBit m j r c) fun i hi m => ?_
  rw [maskBit_compareRow hvl (by omega) m j r hc]
  rw [if_neg (by omega), if_neg (by omega)]

theorem elemBit_getD (s : State) (o : VOps) (form : EForm) (kr : Tag) (hsel : form.select = false) (r c : Nat) (b : Bool) :
    (elemBit s o form kr r c).getD b = if activeAt s o r c then decide ((formFrom s o form kr r c).1 ≠ 0)
      else if o.mod.val = 3 then false else b := by
  unfold elemBit elemValue
  rw [hsel, Bool.false_or]
  split
  · rw [Option.map_some, Option.getD_some, decide_not]
    rfl
  · split <;> rfl

end Sys2Proof.Claims
end

section
/-! PROOF. The table of the element-wise instructions and compares: the form of each is the model's, but for which operand a multiply skips
the zero planes of (R34), which no result depends on. -/

namespace Sys2Proof.Claims

open Sys2Proof Sys2Proof.Machine

/-- A form with another multiplier. -/
def EForm.withMult (form : EForm) (m : Multiplier) : EForm := { form with mult := m }

/-- What the table of forms says of an instruction: it runs its form, has a resume point and four bytes; its sources' planes are those of
va, and only a register or a mask that can be written is its destination. -/
structure RunsForm (i : Instr) (o : VOps) (form : EForm) (s : State) : Prop where
  runs : ∃ m, exec i s = .next (elementwise i o (EForm.withMult form m) s)
  resumes : keepsVstart i = false
  len : i.len = 4
  planes : form.planes = true → form.useA = true
  dest : wellFormed i = true → form.toMask = false → 28 ≤ o.vd.val → 30 ≤ o.vd.val
  flags : wellFormed i = true → form.toMask = true → o.mod.val = 2 → o.vd.val ≠ 8 + o.pm.val

theorem dest_of_ok {o : VOps} {d a b : VField} {mods : List Nat} (h : o.ok d a b mods = true) (hd : d = .vec ∨ d = .vreg) (hge : 28 ≤ o.vd.val) :
    30 ≤ o.vd.val := by
  have hdest : d.dest o.vd = true := by
    unfold VOps.ok at h
    simp only [Bool.and_eq_true] at h
    exact h.1.1.1.1
  rcases hd with rfl | rfl
  · unfold VField.dest at hdest
    simp at hdest
    omega
  · unfold VField.dest at hdest
    simp at hdest
    omega

theorem flags_of_okMask {o : VOps} {a b : VField} {mods : List Nat} (h : o.okMask a b mods = true) (hm : o.mod.val = 2) :
    o.vd.val ≠ 8 + o.pm.val := by
  unfold VOps.okMask at h
  simp only [Bool.and_eq_true, Bool.or_eq_true, bne_iff_ne] at h
  exact h.2.resolve_left fun hne => hne hm

theorem dest_of_okSelect {o : VOps} {b : VField} (h : o.okSelect b = true) (hge : 28 ≤ o.vd.val) : 30 ≤ o.vd.val :=
  dest_of_ok (Bool.and_eq_true_iff.1 h).1 (.inl rfl) hge

/-- A form whose result is a vector. -/
theorem RunsForm.of_vec {i : Instr} {o : VOps} {form : EForm} {s : State} (m : Multiplier)
    (hruns : exec i s = .next (elementwise i o (EForm.withMult form m) s)) (hi : keepsVstart i = false) (hlen : i.len = 4)
    (hplanes : form.planes = true → form.useA = true) (hmask : form.toMask = false)
    (hdest : wellFormed i = true → 28 ≤ o.vd.val → 30 ≤ o.vd.val) : RunsForm i o form s :=
  ⟨⟨m, hruns⟩, hi, hlen, hplanes, fun hw _ => hdest hw, fun _ h => absurd h (by simp [hmask])⟩

theorem runsForm_of_vecForm {i : Instr} {o : VOps} {form : EForm} {s : State} (h : vecForm i = some (o, form))
    (hH : i = .vcvtH o → 28 ≤ o.vb.val ∨ o.vb.val < lanesEnd s) : RunsForm i o form s := by
  cases i with
  | vadd | vsub | vdiv | vmin | vmax | vsqrt | vaddX | vsubX | vrsubX | vdivX | vrdivX | vminX | vmaxX | vabs | vneg | vand | vor | vxor
  | vandX | vorX | vxorX | vsll | vsrl | vsra | vsllX | vsrlX | vsraX | vmv | vsplat | vcvtD | vcvtQ4 | vcvtI | vcvtF | vcvtT
  | vpack | vid | vclz | vcpop | vordk | vbrev =>
    cases h
    exact .of_vec .none rfl rfl rfl nofun rfl fun hw => dest_of_ok hw (.inl rfl)
  | vunpk =>
    cases h
    exact .of_vec .none rfl rfl rfl (fun _ => rfl) rfl fun hw => dest_of_ok hw (.inl rfl)
  | vmul | vmulh =>
    cases h
    exact .of_vec .vb rfl rfl rfl nofun rfl fun hw => dest_of_ok hw (.inl rfl)
  | vmulX =>
    cases h
    exact .of_vec .x rfl rfl rfl nofun rfl fun hw => dest_of_ok hw (.inl rfl)
  | vmacc | vnmsac =>
    cases h
    exact .of_vec .vb rfl rfl rfl nofun rfl fun hw => dest_of_ok hw (.inr rfl)
  | vmadd | vnmsub =>
    cases h
    exact .of_vec .va rfl rfl rfl nofun rfl fun hw => dest_of_ok hw (.inr rfl)
  | vmaccX | vnmsacX =>
    cases h
    exact .of_vec .x rfl rfl rfl nofun rfl fun hw => dest_of_ok hw (.inr rfl)
  | vmerge | vmergeX =>
    cases h
    exact .of_vec .none rfl rfl rfl nofun rfl fun hw => dest_of_okSelect hw
  | vcvtH =>
    cases h
    have hname : namesTile s.cpu.front o.vb = false := by
      refine Bool.eq_false_iff.2 fun hn => ?_
      obtain ⟨hm, hlo, hhi⟩ := (namesTile_iff _ _).1 hn
      have := hH rfl
      unfold lanesEnd at this
      rw [if_pos hm] at this
      omega
    refine .of_vec .none (congrArg Host.Outcome.next ?_) rfl rfl nofun rfl fun hw => dest_of_ok hw (.inl rfl)
    unfold namingTagSource
    dsimp only
    rw [hname]
    rfl
  | _ => cases h

theorem runsForm_of_cmpForms {i : Instr} {o : VOps} {form : EForm} (s : State) (h : cmpForms i = some (o, form)) :
    RunsForm i o form s ∧ form.toMask = true ∧ form.select = false := by
  cases i with
  | vseq | vsne | vslt | vsle | vsltX | vsgtX | vlbnd | vclass =>
    cases h
    exact ⟨⟨⟨.none, rfl⟩, rfl, rfl, nofun, nofun, fun hw _ => flags_of_okMask hw⟩, rfl, rfl⟩
  | _ => cases h

theorem toMask_of_vecForm {i : Instr} {o : VOps} {form : EForm} (h : vecForm i = some (o, form)) : form.toMask = false := by
  cases i <;> cases h <;> rfl

/-- What an instruction of the table leaves. -/
theorem RunsForm.spec {i : Instr} {s : State} {o : VOps} {form : EForm} {kr : Tag} (h : RunsForm i o form s) (hs : Begins s)
    (hgo : ElemGoes s o form kr) :
    ∃ t, exec i s = .next t ∧ KeepsX s t ∧ SameRest s t ∧ t.cpu.front = { past s t 4 with
        vtag := elemTags s o form kr, vstart := 0, instret := s.cpu.front.instret + 1, cycle := t.cpu.front.cycle }
      ∧ (form.toMask = true ∨ o.vd.val < 28 → RetiresOnly s t { past s t 4 with vtag := elemTags s o form kr, vstart := 0 })
      ∧ t.cpu.back = rowsBack s (elemJob o form kr s) (elemOut s o form kr) (tileRows s) := by
  obtain ⟨m, hruns⟩ := h.runs
  obtain ⟨t, ht, hspec⟩ := elementwise_spec (form := EForm.withMult form m) hs
    ⟨hgo.planes, hgo.sources, hgo.tag, hgo.fits, hgo.room⟩ h.resumes h.len
  exact ⟨t, hruns.trans (congrArg Host.Outcome.next ht), hspec⟩

/-- Settles O29, from what any element-wise instruction leaves in lanes, masks and queues. -/
theorem queueOperands : Obligations.QueueOperands := by
  unfold Obligations.QueueOperands
  intro i o form s kr hform hw hs hH hsrc hkr hfit hroom
  have hrun : RunsForm i o form s := hform.elim (fun h => runsForm_of_vecForm h hH) fun h => (runsForm_of_cmpForms s h).1
  have hsel : form.toMask = true → form.select = false := fun hmask => by
    rcases hform with h | h
    · rw [toMask_of_vecForm h] at hmask
      cases hmask
    · exact (runsForm_of_cmpForms s h).2.2
  have hgo : ElemGoes s o form kr := ⟨hrun.planes, hsrc, hkr, hfit, fun hmask hge => ⟨hrun.dest hw hmask hge, hroom hmask hge⟩⟩
  obtain ⟨t, ht, hx, hrest, hfront, -, hback⟩ := hrun.spec hs hgo
  have hrows := rowsGo_elemJob hgo
  have hvl := hs.2.2.2.2.2
  have hvtag : t.cpu.front.vtag = elemTags s o form kr := by rw [hfront]
  have hother (q : Nat) (hq : q < 6) (hge : 4 ≤ q) (hne : (elemJob o form kr s).dst ≠ .sq q) : t.cpu.back.queue q = s.cpu.back.queue q := by
    rw [hback]
    exact queue_rowsBack_other _ _ hrows.nodup hq hne fun hm => absurd (hrows.load q hm) (by omega)
  refine ⟨t, ht, hx, hrest, ?_, back_eq_of_rows hback, consumes_rowsBack hrows rfl hback, fun hmask hd => ⟨?_, ?_, fun q hge hq => ?_⟩,
    fun hmask hd => ⟨?_, ?_, fun q hge hq => ?_⟩, fun hmask => ⟨?_, ?_, fun r c hr hc => ?_⟩, fun hm r c hr hc => ?_, fun hmask hm => ?_⟩
  case refine_1 => rw [hvtag]; exact hfront
  case refine_2 =>
    refine retags_of_vtag hd ?_
    rw [hvtag, elemTags, if_neg (by simp [hmask])]
  case refine_3 => exact holdsGroup_of_putTile hvl (by rw [hback]; exact elem_lanes hmask hd)
  case refine_4 =>
    refine hother q hq hge ?_
    unfold elemJob dstOf
    dsimp only
    rw [hmask, if_pos hd]
    exact nofun
  case refine_5 => rw [hback]; exact elem_lanes_same (.inr hd) _
  case refine_6 =>
    rw [hvtag, elemTags, if_neg (by simp [hmask]), Front.retagDst, if_neg (by omega)]
  case refine_7 =>
    have hdst : (elemJob o form kr s).dst = .sq (o.vd.val - 26) := by
      unfold elemJob dstOf
      dsimp only
      rw [hmask, if_neg (c := o.vd.val < 28) (by omega)]
      rfl
    by_cases hqd : q = o.vd.val - 26
    · subst hqd
      rw [hback, elems_rowsBack _ _ hrows.nodup hq hdst fun hm => absurd (hrows.load _ hm) (by omega)]
      congr 1
      by_cases h0 : s.cpu.front.vl = 0
      · rw [if_neg (by simp [h0]), tileRows, if_pos h0]
        rfl
      · rw [if_pos ⟨rfl, h0⟩, tileRows, if_neg h0]
        refine List.map_congr_left fun r _ => ?_
        unfold elemOut
        rw [List.map_map]
        exact List.map_congr_left fun c _ => elemValue_getD s o form kr r c
    · rw [if_neg fun h => hqd h.1, List.append_nil, hother q hq hge (by rw [hdst]; exact fun h => hqd (Dst.sq.inj h).symm)]
  case refine_8 => rw [hback]; exact elem_lanes_same (.inl hmask) _
  case refine_9 => rw [hvtag, elemTags, if_pos hmask]
  case refine_10 =>
    rw [hback, maskBit_elem hs hmask hr hc, if_neg fun h => hrun.flags hw hmask h.1 h.2, if_pos rfl]
    exact elemBit_getD s o form kr (hsel hmask) r c _
  case refine_11 =>
    rw [hback, ← elemFlag_of_xm hm]
    by_cases hmask : form.toMask = true
    · rw [maskBit_elem hs hmask hr hc, if_pos ⟨hm, rfl⟩]
    · obtain ⟨-, -, -, -, hrc, -⟩ := hs
      rw [elem_flags (by simpa using hmask) hm, maskBit_tileLoop_putBit _ _ hrc hvl hr hc]
      rfl
  case refine_12 => rw [hback]; exact elem_masks_same hmask hm _

/-! Register operands. -/

theorem sources_of_formFits {s : State} {o : VOps} {form : EForm} (h : FormFits s o form) :
    ∀ r ∈ formSources o form, SourceReady s r s.cpu.front.rc := by
  obtain ⟨hA, hB⟩ := h
  have hready {r : Reg} (hr : r.val < 28 ∧ Fits s r s.cpu.front.rc (vtagOf s r)) : SourceReady s r s.cpu.front.rc := by
    unfold SourceReady
    rw [if_pos hr.1]
    exact hr.2
  intro r hr
  unfold formSources at hr
  rcases List.mem_append.1 hr with hr | hr
  · split at hr
    next hu => rw [List.mem_singleton.1 hr]; exact hready (hA hu)
    next => cases hr
  · split at hr
    next hu => rw [List.mem_singleton.1 hr]; exact hready (hB hu)
    next => cases hr

/-- Register sources are not queues. -/
theorem headsOf_of_formFits {s : State} {o : VOps} {form : EForm} (h : FormFits s o form) : headsOf (formSources o form) = [] := by
  obtain ⟨hA, hB⟩ := h
  refine List.eq_nil_iff_forall_not_mem.2 fun q hq => ?_
  obtain ⟨r, hr, hval⟩ := mem_headsOf.1 hq
  unfold formSources at hr
  rcases List.mem_append.1 hr with hr | hr
  · split at hr
    next hu => rw [List.mem_singleton.1 hr] at hval; have := (hA hu).1; omega
    next => cases hr
  · split at hr
    next hu => rw [List.mem_singleton.1 hr] at hval; have := (hB hu).1; omega
    next => cases hr

theorem formFrom_eq_formAt {s : State} {o : VOps} {form : EForm} (kr : Tag) (h : FormFits s o form) (hd : form.useD = true → o.vd.val < 28)
    (r c : Nat) : formFrom s o form kr r c = formAt s o form kr r c := by
  obtain ⟨hA, hB⟩ := h
  have hfirst (x : Nat) : (if form.useA then (if o.va.val < 28 then firstSource s o form r c else x) else 0)
      = if form.useA then firstSource s o form r c else 0 := by
    split
    next hu => rw [if_pos (hA hu).1]
    next => rfl
  have hsecond : (if form.useB then srcEl s o.vb r c else 0) = if form.useB then el s o.vb r c else 0 := by
    split
    next hu => rw [srcEl, if_pos (hB hu).1]
    next => rfl
  have hthird : (if form.useD && decide (o.vd.val < 28) then el s o.vd r c else 0) = if form.useD then el s o.vd r c else 0 := by
    cases hu : form.useD
    · rfl
    · simp [hd hu]
  unfold formFrom formAt
  dsimp only
  rw [hfirst, hsecond, hthird]

/-- Settles O26. -/
theorem elementwiseResults : Obligations.ElementwiseResults := by
  unfold Obligations.ElementwiseResults
  intro i o form s kr hform hs hd hfits hkr hfit hH
  have hmask := toMask_of_vecForm hform
  have hrun : RunsForm i o form s := runsForm_of_vecForm hform fun h => .inr (hH h)
  have hgo : ElemGoes s o form kr := ⟨hrun.planes, sources_of_formFits hfits, hkr, fun _ _ => hfit, fun _ hge => by omega⟩
  obtain ⟨t, ht, hx, -, hfront, hret, hback⟩ := hrun.spec hs hgo
  have hvl := hs.2.2.2.2.2
  have hvtag : t.cpu.front.vtag = elemTags s o form kr := by rw [hfront]
  have hvalue : elemValue s o form kr = fun r c => if form.select || activeAt s o r c then some (formAt s o form kr r c).1
      else if o.mod.val = 3 then some 0 else none := by
    funext r c
    unfold elemValue
    rw [formFrom_eq_formAt kr hfits fun _ => hd]
  have hqueues : t.cpu.back.queues = s.cpu.back.queues := by
    rw [hback]
    refine queues_rowsBack _ _ (headsOf_of_formFits hfits) ?_
    unfold elemJob dstOf
    dsimp only
    rw [hmask, if_pos hd]
    rfl
  refine ⟨t, ht, ⟨hx, ?_, ?_⟩, retags_of_vtag hd ?_, ?_, ?_⟩
  · rw [hvtag]
    exact hret (.inr hd)
  · have hall := back_eq_of_rows hback
    rwa [hqueues] at hall
  · rw [hvtag, elemTags, if_neg (by simp [hmask])]
  · rw [← hvalue]
    exact holdsGroup_of_putTile hvl (by rw [hback]; exact elem_lanes hmask hd)
  · split
    next hm =>
      refine holdsMask_of_putBits hs ?_
      rw [hback, elem_flags hmask hm]
      congr 1
      funext r c
      rw [elemFlag_of_xm hm, formFrom_eq_formAt kr hfits fun _ => hd]
    next hm => rw [hback]; exact elem_masks_same hmask hm _

/-- Settles O27. -/
theorem compareResults : Obligations.CompareResults := by
  unfold Obligations.CompareResults
  intro i o form s kr hform hs hfits hkr hne
  obtain ⟨hrun, hmask, hsel⟩ := runsForm_of_cmpForms s hform
  have hgo : ElemGoes s o form kr := ⟨hrun.planes, sources_of_formFits hfits, hkr, fun h => absurd h (by simp [hmask]),
    fun h => absurd h (by simp [hmask])⟩
  obtain ⟨t, ht, hx, -, hfront, hret, hback⟩ := hrun.spec hs hgo
  have hvtag : t.cpu.front.vtag = s.cpu.front.vtag := by
    rw [hfront]
    exact if_pos hmask
  have huseD : form.useD = false := by
    cases i <;> cases hform <;> rfl
  have hform' := formFrom_eq_formAt kr hfits (fun h => absurd h (by simp [huseD]))
  have hqueues : t.cpu.back.queues = s.cpu.back.queues := by
    rw [hback]
    refine queues_rowsBack _ _ (headsOf_of_formFits hfits) ?_
    unfold elemJob
    dsimp only
    rw [if_pos hmask]
    rfl
  refine ⟨t, ht, ⟨hx, ?_, ?_⟩, hvtag, ?_, fun r c hr hc => ?_, fun hm r c hr hc => ?_, fun j r c _ hc hout => ?_⟩
  · have hall := hret (.inl hmask)
    rwa [elemTags, if_pos hmask, ← hvtag] at hall
  · have hall := back_eq_of_rows hback
    rwa [hqueues] at hall
  · rw [hback]
    exact elem_lanes_same (.inl hmask) _
  · rw [hback, maskBit_elem hs hmask hr hc, if_neg fun h => hne h.1 h.2, if_pos rfl, elemBit_getD s o form kr hsel, hform']
  · rw [hback, maskBit_elem hs hmask hr hc, if_pos ⟨hm, rfl⟩, elemFlag_of_xm hm, hform']
  · rw [hback]
    exact maskBit_elem_outside hs hmask hc hout

end Sys2Proof.Claims
end

section
/-! PROOF. Integers under integer tags (R83, R91): what a pattern stands for, what writing an integer leaves, and the exact arithmetic of
the integer element functions (R131, R132). -/

namespace Sys2Proof.Claims

open Sys2Proof Sys2Proof.Machine

/-! What a pattern stands for. -/

theorem toInt_ofNat_eq_sgn {w : Nat} (hw : 1 ≤ w) (p : Nat) : (BitVec.ofNat w p).toInt = sgn w p := by
  obtain ⟨n, rfl⟩ : ∃ n, w = n + 1 := ⟨w - 1, by omega⟩
  unfold sgn
  dsimp only
  rw [BitVec.toInt_eq_toNat_cond, BitVec.toNat_ofNat]
  push_cast
  rfl

theorem intOf_eq_tint (t : Tag) (p : Nat) : intOf t p = tint t p := by
  unfold intOf tint
  rw [toInt_ofNat_eq_sgn (tagW_bounds t).1]

theorem rangeOf_eq (t : Tag) : rangeOf t = (tagMin t, tagMax t) := by
  unfold rangeOf tagMin tagMax
  split <;> rfl

theorem intMod_lt (w : Nat) (z : Int) : intMod w z < 2 ^ w := by
  unfold intMod
  have h := Int.emod_lt_of_pos z (by positivity : (0 : Int) < 2 ^ w)
  have hnn := Int.emod_nonneg z (by positivity : (2 : Int) ^ w ≠ 0)
  zify
  rwa [Int.toNat_of_nonneg hnn]

/-- The pattern of an integer stands for it, modulo 2^w. -/
theorem tint_intMod_modEq (t : Tag) (z : Int) : (tint t (intMod (tagW t) z) - z) % ((2 ^ tagW t : Nat) : Int) = 0 := by
  have hcast : ((intMod (tagW t) z : Nat) : Int) = z % 2 ^ tagW t := by
    unfold intMod
    exact Int.toNat_of_nonneg (Int.emod_nonneg z (by positivity))
  have hlow : intMod (tagW t) z % 2 ^ tagW t = intMod (tagW t) z := Nat.mod_eq_of_lt (intMod_lt _ z)
  have hdvd : ((2 ^ tagW t : Nat) : Int) ∣ (intMod (tagW t) z : Nat) - z := by
    rw [hcast]
    push_cast
    exact (Int.mod_modEq z _).symm.dvd
  refine Int.emod_eq_zero_of_dvd ?_
  unfold tint
  split
  · unfold sgn
    dsimp only
    rw [hlow]
    split
    · exact hdvd
    · have hself : ((2 ^ tagW t : Nat) : Int) ∣ 2 ^ tagW t := by push_cast; exact dvd_refl _
      have := hdvd.sub hself
      rwa [show (intMod (tagW t) z : Int) - z - 2 ^ tagW t = (intMod (tagW t) z : Int) - 2 ^ tagW t - z by ring] at this
  · rw [hlow]
    exact hdvd

theorem tint_bounds (t : Tag) (p : Nat) : tagMin t ≤ tint t p ∧ tint t p ≤ tagMax t := by
  have hlt : p % 2 ^ tagW t < 2 ^ tagW t := Nat.mod_lt _ (by positivity)
  have hhalf : 2 ^ tagW t = 2 * 2 ^ (tagW t - 1) := by
    rw [← Nat.pow_succ']
    congr 1
    have := (tagW_bounds t).1
    omega
  have hcast : ((2 ^ (tagW t - 1) : Nat) : Int) = 2 ^ (tagW t - 1) := by push_cast; rfl
  have hcast' : ((2 ^ tagW t : Nat) : Int) = 2 ^ tagW t := by push_cast; rfl
  unfold tagMin tagMax tint sgn
  dsimp only
  split
  · split <;> omega
  · omega

/-- An integer in range is what its pattern stands for. -/
theorem tint_intMod {t : Tag} {z : Int} (hlo : tagMin t ≤ z) (hhi : z ≤ tagMax t) : tint t (intMod (tagW t) z) = z := by
  obtain ⟨hlo', hhi'⟩ := tint_bounds t (intMod (tagW t) z)
  have hmod := tint_intMod_modEq t z
  have hspan : tagMax t - tagMin t < ((2 ^ tagW t : Nat) : Int) := by
    have hhalf : 2 ^ tagW t = 2 * 2 ^ (tagW t - 1) := by
      rw [← Nat.pow_succ']
      congr 1
      have := (tagW_bounds t).1
      omega
    have hcast : ((2 ^ (tagW t - 1) : Nat) : Int) = 2 ^ (tagW t - 1) := by push_cast; rfl
    have hcast' : ((2 ^ tagW t : Nat) : Int) = 2 ^ tagW t := by push_cast; rfl
    unfold tagMin tagMax
    split <;> omega
  obtain ⟨k, hk⟩ := Int.dvd_of_emod_eq_zero hmod
  have hk0 : k = 0 := by
    by_contra hne
    rcases lt_or_gt_of_ne hne with h | h
    · nlinarith
    · nlinarith
  rw [hk0, mul_zero] at hk
  omega

theorem tagMin_le_tagMax (t : Tag) : tagMin t ≤ tagMax t := (tint_bounds t 0).1.trans (tint_bounds t 0).2

/-- What writing an integer leaves (R91). -/
theorem writesInt_intWrite (t : Tag) (sat : Bool) (z : Int) : WritesInt t sat z ((intWrite t sat z).1 % 2 ^ tagW t) := by
  have hle := tagMin_le_tagMax t
  have hlow (y : Int) : intMod (tagW t) y % 2 ^ tagW t = intMod (tagW t) y := Nat.mod_eq_of_lt (intMod_lt _ y)
  unfold WritesInt intWrite
  rw [rangeOf_eq]
  dsimp only
  simp only [intOf_eq_tint]
  by_cases hlo : z < tagMin t
  · rw [if_pos hlo]
    dsimp only
    rw [hlow]
    refine ⟨fun h => by omega, fun _ hs => ?_, fun h => by omega, fun hs => ?_⟩
    · rw [if_pos hs, tint_intMod le_rfl hle]
    · rw [hs]
      exact tint_intMod_modEq t z
  · rw [if_neg hlo]
    by_cases hhi : tagMax t < z
    · rw [if_pos hhi]
      dsimp only
      rw [hlow]
      refine ⟨fun _ h => by omega, fun h => by omega, fun _ hs => ?_, fun hs => ?_⟩
      · rw [if_pos hs, tint_intMod hle le_rfl]
      · rw [hs]
        exact tint_intMod_modEq t z
    · rw [if_neg hhi]
      dsimp only
      rw [hlow]
      exact ⟨fun _ _ => tint_intMod (by omega) (by omega), fun h => by omega, fun h => by omega, fun _ => tint_intMod_modEq t z⟩

/-! Exact values that are integers. -/

/-- The exact value is the integer `z`. -/
def IsInt (x : Ex) (z : Int) : Prop := (z = 0 ∧ ∃ b, x = .zero b) ∨ (z ≠ 0 ∧ x = .rat z 1)

theorem isInt_int (z : Int) : IsInt (Ex.int z) z := by
  unfold IsInt Ex.int
  by_cases h : z = 0
  · exact Or.inl ⟨h, false, if_pos h⟩
  · exact Or.inr ⟨h, if_neg h⟩

theorem tval_of_int {t : Tag} (h : tagIsInt t = true) (p : Nat) : tval t p = Ex.int (tint t p) := by
  have hk : tagKind t = 0 ∨ tagKind t = 1 := by
    have : tagKind t < 2 := by simpa [tagIsInt] using h
    omega
  unfold tval tint tagSigned
  rcases hk with hk | hk <;> simp [hk]

theorem IsInt.add {x y : Ex} {a b : Int} (rm : Nat) (hx : IsInt x a) (hy : IsInt y b) : IsInt (x.add rm y) (a + b) := by
  rcases hx with ⟨rfl, p, rfl⟩ | ⟨ha, rfl⟩ <;> rcases hy with ⟨rfl, q, rfl⟩ | ⟨hb, rfl⟩
  · unfold Ex.add
    dsimp only
    split <;> exact Or.inl ⟨by omega, _, rfl⟩
  · exact Or.inr ⟨by omega, by simp [Ex.add]⟩
  · exact Or.inr ⟨by omega, by simp [Ex.add]⟩
  · unfold Ex.add Ex.frac
    simp only [Nat.cast_one, mul_one]
    by_cases h : a + b = 0
    · exact Or.inl ⟨h, _, if_pos h⟩
    · exact Or.inr ⟨h, if_neg h⟩

theorem IsInt.neg {x : Ex} {a : Int} (hx : IsInt x a) : IsInt x.neg (-a) := by
  rcases hx with ⟨rfl, p, rfl⟩ | ⟨ha, rfl⟩
  · exact Or.inl ⟨neg_zero, _, rfl⟩
  · exact Or.inr ⟨by omega, rfl⟩

theorem IsInt.sub {x y : Ex} {a b : Int} (rm : Nat) (hx : IsInt x a) (hy : IsInt y b) : IsInt (x.sub rm y) (a - b) := by
  rw [sub_eq_add_neg]
  exact hx.add rm hy.neg

theorem IsInt.mul {x y : Ex} {a b : Int} (hx : IsInt x a) (hy : IsInt y b) : IsInt (x.mul y) (a * b) := by
  rcases hx with ⟨rfl, p, rfl⟩ | ⟨ha, rfl⟩ <;> rcases hy with ⟨rfl, q, rfl⟩ | ⟨hb, rfl⟩
  · exact Or.inl ⟨mul_zero 0, _, rfl⟩
  · exact Or.inl ⟨zero_mul b, _, rfl⟩
  · exact Or.inl ⟨mul_zero a, _, rfl⟩
  · exact Or.inr ⟨mul_ne_zero ha hb, rfl⟩

theorem lt_int (a b : Int) : (Ex.int a).lt (Ex.int b) = decide (a < b) := by
  unfold Ex.int
  by_cases ha : a = 0 <;> by_cases hb : b = 0 <;> simp [ha, hb, Ex.lt]

theorem isNan_int (a : Int) : (Ex.int a).isNan = false := by
  unfold Ex.int Ex.isNan
  split <;> rfl

/-- An integer zero has no sign. -/
theorem neg?_of_isZero_int {a : Int} (h : (Ex.int a).isZero = true) : (Ex.int a).neg? = false := by
  unfold Ex.int at *
  split at h
  next h0 => rw [if_pos h0]; rfl
  next => cases h

theorem exMin_int (a b : Int) : exMin (Ex.int a) (Ex.int b) = Ex.int (min a b) := by
  unfold exMin
  rw [isNan_int, isNan_int, lt_int, lt_int]
  have hzero : ((Ex.int b).isZero && (Ex.int b).neg? && !(Ex.int a).neg?) = false := by
    cases hz : (Ex.int b).isZero
    · rfl
    · rw [neg?_of_isZero_int hz]
      rfl
  simp only [hzero, decide_eq_true_eq, Bool.false_eq_true, if_false]
  split
  · rw [min_eq_right (by omega)]
  · rw [ite_self, min_eq_left (by omega)]

theorem exMax_int (a b : Int) : exMax (Ex.int a) (Ex.int b) = Ex.int (max a b) := by
  unfold exMax
  rw [isNan_int, isNan_int, lt_int, lt_int]
  have hzero : ((Ex.int a).isZero && (Ex.int a).neg? && !(Ex.int b).neg?) = false := by
    cases hz : (Ex.int a).isZero
    · rfl
    · rw [neg?_of_isZero_int hz]
      rfl
  simp only [hzero, decide_eq_true_eq, Bool.false_eq_true, if_false]
  split
  · rw [max_eq_right (by omega)]
  · rw [ite_self, max_eq_left (by omega)]

/-! Writing an exact integer under an integer tag. -/

theorem tagWrite_int {t : Tag} (h : tagIsInt t = true) (rm : Nat) (sat : Bool) {x : Ex} {z : Int} (hx : IsInt x z) :
    (tagWrite t rm sat false x).1 = (intWrite t sat z).1 := by
  have hk : tagKind t = 0 ∨ tagKind t = 1 := by
    have : tagKind t < 2 := by simpa [tagIsInt] using h
    omega
  have hz0 : (intWrite t sat 0).1 = 0 := by
    have hlo : tagMin t ≤ 0 := by
      unfold tagMin
      split
      · exact neg_nonpos.2 (by positivity)
      · exact le_rfl
    have hhi : 0 ≤ tagMax t := by
      unfold tagMax
      split <;> exact Int.sub_nonneg_of_le (one_le_pow₀ (by decide))
    unfold intWrite
    rw [if_neg (by omega), if_neg (by omega)]
    simp [intMod]
  unfold tagWrite
  rcases hx with ⟨rfl, b, rfl⟩ | ⟨hz, rfl⟩
  · rcases hk with hk | hk <;> simp [hk, hz0]
  · rcases hk with hk | hk <;> simp [hk]

theorem write_int {c : ECtx} (h : tagIsInt c.out = true) (hc : c.clamp = false) (nanIn pre : Bool) {x : Ex} {z : Int} (hx : IsInt x z) :
    (c.write nanIn pre x).1 = (intWrite c.out c.sat z).1 := by
  unfold ECtx.write arithWrite resultWrite
  rw [hc, Bool.false_and, if_neg Bool.false_ne_true]
  exact tagWrite_int h c.rm c.sat hx

theorem sign_mul_tdiv (a b : Int) : (a * b.sign).tdiv b.natAbs = a.tdiv b := by
  rcases lt_trichotomy b 0 with h | rfl | h
  · rw [Int.sign_eq_neg_one_of_neg h, show ((b.natAbs : Nat) : Int) = -b by omega, mul_neg_one, Int.neg_tdiv_neg]
  · simp
  · rw [Int.sign_eq_one_of_pos h, show ((b.natAbs : Nat) : Int) = b by omega, mul_one]

/-- Division of integers (R131). -/
theorem divElem_int {c : ECtx} (h : tagIsInt c.out = true) (hc : c.clamp = false) (a b : Int) :
    (divElem c (Ex.int a) (Ex.int b)).1 = if b = 0 then 2 ^ tagW c.out - 1 else (intWrite c.out c.sat (a.tdiv b)).1 := by
  unfold divElem
  rw [if_pos h]
  by_cases hb : b = 0
  · rw [if_pos hb, if_pos (by simp [hb, Ex.int, Ex.isZero])]
  · rw [if_neg hb, if_neg (by simp [hb, Ex.int, Ex.isZero])]
    by_cases ha : a = 0
    · subst ha
      have hdiv : (Ex.int 0).div (Ex.int b) = .zero (false != (Ex.int b).neg?) := by
        simp [Ex.int, hb, Ex.div]
      rw [hdiv]
      dsimp only
      rw [write_int h hc _ _ (z := 0) (Or.inl ⟨rfl, _, rfl⟩), Int.zero_tdiv]
    · have hdiv : (Ex.int a).div (Ex.int b) = .rat (a * b.sign) b.natAbs := by
        simp [Ex.int, ha, hb, Ex.div]
      rw [hdiv]
      dsimp only
      rw [hc, Bool.or_false, sign_mul_tdiv]

/-! VADD, VSUB, VMUL, VMIN, VMAX and VDIV on integers (R131, R132). -/

theorem promote_self {t : Tag} (h : tagIsInt t = true) : promote t t = some t := by
  have he : tagE8 t = false := by
    unfold tagIsInt at h
    unfold tagE8
    simp only [decide_eq_true_eq] at h
    simp only [decide_eq_false_iff_not]
    omega
  unfold promote
  rw [he, h]
  simp

theorem promoteRule_int {s : State} {o : VOps} (ha : o.va.val < 28) (hb : o.vb.val < 28) (hd : o.vd.val < 28)
    (hint : tagIsInt (vtagOf s o.va) = true) (hsame : vtagOf s o.vb = vtagOf s o.va) : promoteRule o s.cpu.front = .ok (vtagOf s o.va) := by
  unfold promoteRule noScale overQueue tagRule
  rw [srcTag_of_lt ha, srcTag_of_lt hb, hsame, promote_self hint]
  simp [Except.bind, hd]

/-- What the integer element function of an instruction gives, none for a division by 0. -/
def IntElem (e : ECtx → Ex → Ex → Nat × Bool) (op : Int → Int → Option Int) : Prop :=
  ∀ (c : ECtx) (a b : Int), tagIsInt c.out = true → c.clamp = false →
    (e c (Ex.int a) (Ex.int b)).1 = match op a b with
      | none => 2 ^ tagW c.out - 1
      | some z => (intWrite c.out c.sat z).1

theorem intElem_of_intVec {i : Instr} {o : VOps} {op : Int → Int → Option Int} (h : intVec i = some (o, op)) :
    ∃ e, vecForm i = some (o, vvForm (promoteRule o) e) ∧ IntElem e op := by
  cases i with
  | vadd => cases h; exact ⟨_, rfl, fun c a b hc hcl => write_int hc hcl _ _ ((isInt_int a).add c.rm (isInt_int b))⟩
  | vsub => cases h; exact ⟨_, rfl, fun c a b hc hcl => write_int hc hcl _ _ ((isInt_int a).sub c.rm (isInt_int b))⟩
  | vmul => cases h; exact ⟨_, rfl, fun c a b hc hcl => write_int hc hcl _ _ ((isInt_int a).mul (isInt_int b))⟩
  | vmin => cases h; exact ⟨_, rfl, fun c a b hc hcl => write_int hc hcl _ _ (exMin_int a b ▸ isInt_int _)⟩
  | vmax => cases h; exact ⟨_, rfl, fun c a b hc hcl => write_int hc hcl _ _ (exMax_int a b ▸ isInt_int _)⟩
  | vdiv =>
    cases h
    refine ⟨_, rfl, fun c a b hc hcl => (divElem_int hc hcl a b).trans ?_⟩
    dsimp only
    by_cases hb : b = 0
    · rw [if_pos hb, if_pos hb]
    · rw [if_neg hb, if_neg hb]
  | _ => cases h

theorem formAt_int {s : State} {o : VOps} {e : ECtx → Ex → Ex → Nat × Bool} {op : Int → Int → Option Int} (he : IntElem e op)
    (ha : o.va.val < 28) (hb : o.vb.val < 28) (hd : o.vd.val < 28)
    (hint : tagIsInt (vtagOf s o.va) = true) (hsame : vtagOf s o.vb = vtagOf s o.va) (r c : Nat) :
    (formAt s o (vvForm (promoteRule o) e) (vtagOf s o.va) r c).1 =
      match op (intOf (vtagOf s o.va) (el s o.va r c)) (intOf (vtagOf s o.va) (el s o.vb r c)) with
      | none => 2 ^ tagW (vtagOf s o.va) - 1
      | some z => (intWrite (vtagOf s o.va) (decide (o.mod.val = 1)) z).1 := by
  let c' := (vvForm (promoteRule o) e).ctx o s.cpu.front (s.getX o.vb) (vtagOf s o.va) (fun _ => 0)
  have hta : c'.ta = vtagOf s o.va := srcTag_of_lt ha
  have htb : c'.tb = vtagOf s o.va := (srcTag_of_lt hb).trans hsame
  have hout : c'.out = vtagOf s o.va := if_pos hd
  have hclamp : c'.clamp = false := by
    change (tagIsInt c'.out && ((true && !tagIsInt c'.ta) || (true && !tagIsInt c'.tb) || (false && _))) = false
    rw [hout, hta, htb, hint]
    rfl
  have hval : formAt s o (vvForm (promoteRule o) e) (vtagOf s o.va) r c = e c' (tval c'.ta (el s o.va r c)) (tval c'.tb (el s o.vb r c)) := rfl
  rw [hval, hta, htb, tval_of_int hint, tval_of_int hint, he c' _ _ (by rw [hout]; exact hint) hclamp, hout, intOf_eq_tint, intOf_eq_tint]
  rfl

/-- Settles O28, from the element-wise rule and the exact arithmetic of integers. -/
theorem integerElements : Obligations.IntegerElements := by
  unfold Obligations.IntegerElements
  intro i o op s hform hs ha hb hd hint hsame _ hfa hfb hfd
  obtain ⟨e, hvec, he⟩ := intElem_of_intVec hform
  have hresult := elementwiseResults i o _ s (vtagOf s o.va) hvec hs hd ⟨fun _ => ⟨ha, hfa⟩, fun _ => ⟨hb, by rw [hsame]; exact hfb⟩⟩
    (promoteRule_int ha hb hd hint hsame) hfd (fun h => by rw [h] at hform; cases hform)
  obtain ⟨t, ht, hret, htags, ⟨hgroup, -, -⟩, -⟩ := hresult
  refine ⟨t, ht, hret, htags, fun r c hr hc hact => ?_⟩
  have hel := hgroup r c hr hc
  dsimp only at hel
  rw [hact, Bool.or_true, if_pos rfl, formAt_int he ha hb hd hint hsame r c] at hel
  dsimp only at hel ⊢
  cases hop : op (intOf (vtagOf s o.va) (el s o.va r c)) (intOf (vtagOf s o.va) (el s o.vb r c)) with
  | none =>
    rw [hop] at hel
    dsimp only at hel ⊢
    rw [hel, Nat.mod_eq_of_lt (Nat.sub_lt (by positivity) (by decide))]
  | some z =>
    rw [hop] at hel
    dsimp only at hel ⊢
    obtain ⟨hin, hlo, hhi, hwrap⟩ := writesInt_intWrite (vtagOf s o.va) (decide (o.mod.val = 1)) z
    rw [hel]
    refine ⟨hin, fun hz hm => hlo hz (by simp [hm]), fun hz hm => hhi hz (by simp [hm]), fun _ hm => ?_⟩
    have := hwrap (by simp [hm])
    push_cast at this
    exact this

end Sys2Proof.Claims
end

section
/-! PROOF. A moved element keeps its pattern, but for a NaN, which becomes the canonical one (R84): every value of a number format rounds
to the pattern it has (R83, R89). -/

namespace Sys2Proof.Claims

open Sys2Proof Sys2Proof.Machine

/-! Values of a float format round to their patterns. -/

/-- The shape of a format: its patterns below the largest finite one are finite, and one infinity follows them where it has them. -/
structure IsFmt (f : Fmt) : Prop where
  max : f.maxPat < 2 ^ (f.ebits + f.mbits)
  inf : f.hasInf = true → f.maxPat + 1 = (2 ^ f.ebits - 1) * 2 ^ f.mbits

theorem floorLog2_mul_pow {m : Nat} (hm : m ≠ 0) (k : Nat) : floorLog2 (m * 2 ^ k) 1 = (Nat.log2 m : Int) + k := by
  have hlog : Nat.log2 (m * 2 ^ k) = Nat.log2 m + k := by
    obtain ⟨hlo, hhi⟩ := (Nat.log2_eq_iff hm).1 (Eq.refl (Nat.log2 m))
    rw [Nat.log2_eq_iff (by positivity), Nat.pow_add, Nat.add_right_comm, Nat.pow_add 2 (Nat.log2 m + 1)]
    exact ⟨Nat.mul_le_mul_right _ hlo, Nat.mul_lt_mul_of_pos_right hhi (by positivity)⟩
  unfold floorLog2
  rw [hlog, show Nat.log2 1 = 0 from rfl]
  dsimp only
  have hle : 2 ^ (Nat.log2 m + k) ≤ m * 2 ^ k := by
    rw [Nat.pow_add]
    exact Nat.mul_le_mul_right _ (Nat.log2_self_le hm)
  rw [if_neg]
  · push_cast
    omega
  · rw [if_pos (by omega), show (((Nat.log2 m + k : Nat) : Int) - ((0 : Nat) : Int)).toNat = Nat.log2 m + k by omega]
    simpa using hle

theorem floorLog2_div_pow {m : Nat} (hm : m ≠ 0) (k : Nat) : floorLog2 m (2 ^ k) = (Nat.log2 m : Int) - k := by
  have hle := Nat.log2_self_le hm
  unfold floorLog2
  rw [Nat.log2_two_pow]
  dsimp only
  by_cases hk : k ≤ Nat.log2 m
  · rw [if_neg]
    rw [if_pos (by omega), not_lt, show ((Nat.log2 m : Int) - (k : Int)).toNat = Nat.log2 m - k by omega, ← Nat.pow_add, Nat.add_sub_cancel' hk]
    exact hle
  · rw [if_neg]
    rw [if_neg (by omega), not_lt, show (-((Nat.log2 m : Int) - (k : Int))).toNat = k - Nat.log2 m by omega]
    calc 2 ^ k = 2 ^ Nat.log2 m * 2 ^ (k - Nat.log2 m) := by rw [← Nat.pow_add]; congr 1; omega
      _ ≤ _ := Nat.mul_le_mul_right _ hle

theorem roundUp_exact (rm : Nat) (neg : Bool) (q : Nat) {d : Nat} (hd : 0 < d) : roundUp rm neg q 0 d = false := by
  unfold roundUp
  split <;> simp <;> omega

theorem roundMag_mul_pow (rm : Nat) (neg : Bool) (m k : Nat) : roundMag rm neg (m * 2 ^ k) 1 k = m := by
  have hpos : 0 < 2 ^ k := by positivity
  have hk : (0 : Int) ≤ k := Int.natCast_nonneg k
  unfold roundMag
  dsimp only
  rw [if_pos hk, if_pos hk, Int.toNat_natCast, Nat.one_mul, Nat.mul_div_cancel _ hpos, Nat.mul_mod_left, roundUp_exact _ _ _ hpos]
  rfl

theorem roundMag_div_pow (rm : Nat) (neg : Bool) (m : Nat) {k : Nat} (hk : 0 < k) : roundMag rm neg m (2 ^ k) (-(k : Int)) = m := by
  have hpos : 0 < 2 ^ k := by positivity
  have hneg : ¬(0 : Int) ≤ -(k : Int) := by omega
  unfold roundMag
  dsimp only
  rw [if_neg hneg, if_neg hneg, Int.neg_neg, Int.toNat_natCast, Nat.mul_div_cancel _ hpos, Nat.mul_mod_left, roundUp_exact _ _ _ hpos]
  rfl

/-- m · 2^q as an exact value, with a sign. -/
theorem scaled_eq (m : Nat) (neg : Bool) (q : Int) : ∃ n d, (Ex.rat (if neg then -(m : Int) else m) 1).scale q = .rat n d
    ∧ (m ≠ 0 → decide (n < 0) = neg) ∧ (m ≠ 0 → floorLog2 n.natAbs d = (Nat.log2 m : Int) + q) ∧ ∀ rm b, roundMag rm b n.natAbs d q = m := by
  have habs : (if neg then -(m : Int) else m).natAbs = m := by
    split <;> omega
  have hneg (p : Nat) (hp : 0 < p) (hm : m ≠ 0) : decide ((if neg then -(m : Int) else m) * (p : Int) < 0) = neg := by
    have hpm : 0 < (m : Int) * p := by positivity
    cases neg
    · simp only [Bool.false_eq_true, if_false, decide_eq_false_iff_not]
      omega
    · simp only [if_true, decide_eq_true_eq]
      rw [Int.neg_mul]
      omega
  unfold Ex.scale
  dsimp only
  by_cases hq : 0 ≤ q
  · obtain ⟨k, rfl⟩ := Int.eq_ofNat_of_zero_le hq
    rw [if_pos hq]
    have habs' : ((if neg then -(m : Int) else m) * 2 ^ (k : Int).toNat).natAbs = m * 2 ^ k := by
      rw [Int.natAbs_mul, habs, Int.natAbs_pow]
      rfl
    refine ⟨_, _, rfl, fun hm => ?_, fun hm => ?_, fun rm b => ?_⟩
    · have := hneg (2 ^ k) (by positivity) hm
      push_cast at this
      simpa using this
    · rw [habs', floorLog2_mul_pow hm]
    · rw [habs', roundMag_mul_pow]
  · obtain ⟨k, hk⟩ := Int.eq_ofNat_of_zero_le (by omega : 0 ≤ -q)
    obtain rfl : q = -(k : Int) := by omega
    rw [if_neg hq, Int.neg_neg, Int.toNat_natCast, Nat.one_mul]
    refine ⟨_, _, rfl, fun hm => ?_, fun hm => ?_, fun rm b => ?_⟩
    · simpa using hneg 1 one_pos hm
    · rw [habs, floorLog2_div_pow hm]
      omega
    · rw [habs, roundMag_div_pow _ _ _ (by omega)]

/-- Rounding the value of a pattern gives its low bits again. -/
theorem round_val {f : Fmt} (hf : IsFmt f) (rm p : Nat) (hnan : (f.val p).isNan = false) :
    f.round rm (f.val p) = (p % 2 ^ f.width, false) := by
  have hp : f.sign (bitAt p (f.ebits + f.mbits)) (p % 2 ^ (f.ebits + f.mbits)) = p % 2 ^ f.width := by
    have hsplit : p % 2 ^ (f.ebits + f.mbits + 1) = p % 2 ^ (f.ebits + f.mbits) + 2 ^ (f.ebits + f.mbits) * (p / 2 ^ (f.ebits + f.mbits) % 2) := by
      rw [Nat.pow_succ, Nat.mod_mul]
    rw [show f.width = f.ebits + f.mbits + 1 by unfold Fmt.width; omega, hsplit]
    unfold Fmt.sign bitAt
    rcases Nat.mod_two_eq_zero_or_one (p / 2 ^ (f.ebits + f.mbits)) with h | h <;> simp [h]
  rw [← hp]
  have hmag : p % 2 ^ (f.ebits + f.mbits) < 2 ^ f.ebits * 2 ^ f.mbits := by
    rw [← Nat.pow_add]
    exact Nat.mod_lt _ (by positivity)
  unfold Fmt.val at hnan ⊢
  dsimp only at hnan ⊢
  generalize bitAt p (f.ebits + f.mbits) = neg at *
  generalize p % 2 ^ (f.ebits + f.mbits) = mag at *
  have hpos : 0 < 2 ^ f.mbits := by positivity
  have hdm := Nat.div_add_mod mag (2 ^ f.mbits)
  have hdlt : mag / 2 ^ f.mbits < 2 ^ f.ebits := Nat.div_lt_of_lt_mul (by rwa [Nat.mul_comm])
  have hml : mag % 2 ^ f.mbits < 2 ^ f.mbits := Nat.mod_lt _ hpos
  generalize mag / 2 ^ f.mbits = e at *
  generalize mag % 2 ^ f.mbits = m at *
  by_cases hmax : f.maxPat < mag
  · rw [if_pos hmax] at hnan ⊢
    by_cases hinf : (f.hasInf && decide (m = 0)) = true
    · rw [if_pos hinf]
      obtain ⟨hi, hm⟩ := Bool.and_eq_true_iff.1 hinf
      have hm0 : m = 0 := by simpa using hm
      have heq := hf.inf hi
      have : mag = f.maxPat + 1 := by
        have hle : e ≤ 2 ^ f.ebits - 1 := by omega
        have := Nat.mul_le_mul_left (2 ^ f.mbits) hle
        rw [Nat.mul_comm (2 ^ f.ebits - 1)] at heq
        omega
      unfold Fmt.round
      simp only [this, hi, if_true]
    · rw [if_neg hinf] at hnan
      cases hnan
  · rw [if_neg hmax]
    by_cases h0 : mag = 0
    · rw [if_pos h0, h0]
      rfl
    · rw [if_neg h0]
      have hsig : (if e = 0 then m else 2 ^ f.mbits + m) ≠ 0 := by
        split
        next he => rw [he] at hdm; omega
        next => omega
      obtain ⟨n, d, hz, hneg, hlog, hround⟩ := scaled_eq
        (if e = 0 then m else 2 ^ f.mbits + m) neg
        (((if e = 0 then 1 else e : Nat) : Int) - f.bias - f.mbits)
      rw [hz]
      unfold Fmt.round
      dsimp only
      -- the exponent that rounding finds is the pattern's own
      have hexp : max (1 - (f.bias : Int)) (floorLog2 n.natAbs d)
          = ((if e = 0 then 1 else e : Nat) : Int) - f.bias := by
        rw [hlog hsig]
        split
        next he =>
          rw [if_pos he] at hsig
          have : Nat.log2 m < f.mbits := (Nat.log2_lt hsig).2 hml
          omega
        next he =>
          have : Nat.log2 (2 ^ f.mbits + m) = f.mbits := by
            rw [Nat.log2_eq_iff (by omega)]
            refine ⟨by omega, ?_⟩
            rw [Nat.pow_succ]
            omega
          rw [this]
          omega
      rw [hexp, hround, hneg hsig]
      have hall : (if e = 0 then m else 2 ^ f.mbits + m)
          + (((if e = 0 then 1 else e : Nat) : Int) - f.bias - (1 - (f.bias : Int))).toNat * 2 ^ f.mbits = mag := by
        split
        next he =>
          rw [he] at hdm
          rw [show (((1 : Nat) : Int) - f.bias - (1 - (f.bias : Int))).toNat = 0 by omega]
          omega
        next he =>
          rw [show (((e : Nat) : Int) - f.bias - (1 - (f.bias : Int))).toNat = e - 1 by omega, Nat.sub_mul]
          have : 2 ^ f.mbits ≤ e * 2 ^ f.mbits := Nat.le_mul_of_pos_left _ (by omega)
          rw [Nat.mul_comm] at hdm
          omega
      rw [hall, if_neg hmax]

/-! The moved element under each kind of tag. -/

theorem isFmt_fmtOf (k w : Nat) : IsFmt (fmtOf k w) := by
  unfold fmtOf
  split
  · split <;> exact ⟨by decide, by decide⟩
  all_goals exact ⟨by decide, by decide⟩

/-- The kinds of valid tags (R82), with the widths that floats have. -/
theorem kind_of_valid {t : Tag} (h : tagValid t = true) :
    tagIsInt t = true ∨ tagKind t = 9 ∨ (2 ≤ tagKind t ∧ tagKind t ≤ 8 ∧ (fmtOf (tagKind t) (tagW t)).width = tagW t) := by
  unfold tagValid at h
  simp only [Bool.and_eq_true] at h
  obtain ⟨-, hkind⟩ := h
  unfold tagIsInt tagW
  split at hkind
  next hk => simp [hk]
  next hk => simp [hk]
  next hk =>
    rw [Bool.or_eq_true, decide_eq_true_eq, decide_eq_true_eq] at hkind
    rcases hkind with hw | hw <;> simp [hk, hw, fmtOf, Fmt.width, fp16, fp32]
  next hk => simp [hk, fmtOf, Fmt.width, bf16]
  next hk => simp [hk, fmtOf, Fmt.width, e4m3]
  next hk => simp [hk, fmtOf, Fmt.width, e5m2]
  next hk => simp [hk, fmtOf, Fmt.width, e3m2]
  next hk => simp [hk, fmtOf, Fmt.width, e2m3]
  next hk => simp [hk, fmtOf, Fmt.width, e2m1]
  next hk => simp [hk]
  next => cases hkind

theorem intMod_tint (t : Tag) (p : Nat) : intMod (tagW t) (tint t p) = p % 2 ^ tagW t := by
  have hmod : tint t p % 2 ^ tagW t = ((p % 2 ^ tagW t : Nat) : Int) := by
    unfold tint sgn
    dsimp only
    split
    · split <;> push_cast <;> simp
    · push_cast
      simp
  unfold intMod
  rw [hmod]
  exact Int.toNat_natCast _

theorem isNan_scale_rat (n : Int) (d : Nat) (k : Int) : ((Ex.rat n d).scale k).isNan = false := by
  unfold Ex.scale
  dsimp only
  split <;> rfl

/-- The value of a scale rounds to its pattern. -/
theorem e8Write_scale {p : Nat} (h : p % 256 ≠ 255) : (e8Write ((Ex.rat 1 1).scale ((p % 256 : Nat) - 127 : Int))).1 = p % 256 := by
  obtain ⟨n, d, hz, -, hlog, -⟩ := scaled_eq 1 false ((p % 256 : Nat) - 127 : Int)
  have hz' : (Ex.rat 1 1).scale ((p % 256 : Nat) - 127 : Int) = .rat n d := hz
  have hlog := hlog one_ne_zero
  have hlt : p % 256 < 256 := Nat.mod_lt _ (by decide)
  rw [hz']
  unfold e8Write
  dsimp only
  rw [hlog, show Nat.log2 1 = 0 from rfl]
  generalize p % 256 = e at *
  rw [if_neg (by omega), if_neg (by omega)]
  omega

/-- The canonical NaN of a float kind, where it has one (R84). -/
theorem isNan_float {t : Tag} (hlo : 2 ≤ tagKind t) (hhi : tagKind t ≤ 8) {p rm : Nat} (h : (tval t p).isNan = true) :
    (fmtOf (tagKind t) (tagW t)).round rm .nan = (moved t p, false) := by
  have hsmall (f : Fmt) (hmax : f.maxPat = 2 ^ (f.ebits + f.mbits) - 1) (q : Nat) : (f.val q).isNan = false := by
    have hlt : q % 2 ^ (f.ebits + f.mbits) < 2 ^ (f.ebits + f.mbits) := Nat.mod_lt _ (by positivity)
    unfold Fmt.val
    dsimp only
    rw [if_neg (by omega)]
    by_cases h0 : q % 2 ^ (f.ebits + f.mbits) = 0
    · rw [if_pos h0]
      rfl
    · rw [if_neg h0]
      exact isNan_scale_rat _ _ _
  unfold moved
  rw [if_pos h]
  unfold tval at h
  generalize hk : tagKind t = k at *
  interval_cases k
  · simp only [fmtOf, Fmt.round]
    split <;> rfl
  · rfl
  · rfl
  · rfl
  · exact absurd h (Bool.eq_false_iff.1 (hsmall e3m2 rfl p))
  · exact absurd h (Bool.eq_false_iff.1 (hsmall e2m3 rfl p))
  · exact absurd h (Bool.eq_false_iff.1 (hsmall e2m1 rfl p))

theorem tval_float {t : Tag} (hlo : 2 ≤ tagKind t) (hhi : tagKind t ≤ 8) (p : Nat) : tval t p = (fmtOf (tagKind t) (tagW t)).val p := by
  unfold tval
  split
  next h0 => omega
  next h1 => omega
  next h9 => omega
  next => rfl

/-- What writing a float's value back under its own tag leaves: its pattern, or the canonical NaN (R84), without a flag. -/
theorem tagWrite_float {t : Tag} (hlo : 2 ≤ tagKind t) (hhi : tagKind t ≤ 8) (hwidth : (fmtOf (tagKind t) (tagW t)).width = tagW t)
    (rm : Nat) (sat clamp : Bool) (p : Nat) :
    (tagWrite t rm sat clamp (tval t p)).1 % 2 ^ tagW t = moved t p % 2 ^ tagW t ∧ (tagWrite t rm sat clamp (tval t p)).2 = false := by
  have hwrite (x : Ex) : tagWrite t rm sat clamp x = (fmtOf (tagKind t) (tagW t)).round rm x := by
    unfold tagWrite
    split
    next h0 => omega
    next h1 => omega
    next h9 => omega
    next => rfl
  rw [hwrite]
  by_cases hnan : (tval t p).isNan = true
  · rw [show tval t p = .nan by simpa [Ex.isNan] using hnan, isNan_float hlo hhi hnan]
    exact ⟨rfl, rfl⟩
  · rw [show moved t p = p from if_neg hnan]
    rw [tval_float hlo hhi] at hnan ⊢
    rw [round_val (isFmt_fmtOf _ _) rm p (by simpa using hnan), hwidth]
    exact ⟨Nat.mod_mod _ _, rfl⟩

/-- What writing an integer's pattern back under its own tag leaves: the pattern, without a flag. -/
theorem tagWrite_intPat {t : Tag} (h : tagIsInt t = true) (rm : Nat) (sat : Bool) (p : Nat) :
    (tagWrite t rm sat false (tval t p)).1 % 2 ^ tagW t = moved t p % 2 ^ tagW t ∧ (tagWrite t rm sat false (tval t p)).2 = false := by
  have hnan : (tval t p).isNan = false := by rw [tval_of_int h, isNan_int]
  obtain ⟨hmin, hmax⟩ := tint_bounds t p
  have hin : intWrite t sat (tint t p) = (intMod (tagW t) (tint t p), false) := by
    unfold intWrite
    rw [if_neg (by omega), if_neg (by omega)]
  rw [tval_of_int h] at hnan ⊢
  refine ⟨?_, ?_⟩
  · rw [tagWrite_int h rm sat (isInt_int _), hin]
    unfold moved
    rw [tval_of_int h, hnan, if_neg Bool.false_ne_true]
    dsimp only
    rw [intMod_tint, Nat.mod_mod]
  · have hk : tagKind t = 0 ∨ tagKind t = 1 := by
      have : tagKind t < 2 := by simpa [tagIsInt] using h
      omega
    unfold tagWrite Ex.int
    by_cases hz : tint t p = 0
    · rcases hk with hk | hk <;> simp [hk, hz]
    · rcases hk with hk | hk <;> simp [hk, hz, hin]

/-- What writing a scale back leaves: its pattern. -/
theorem tagWrite_scale {t : Tag} (hk : tagKind t = 9) (rm : Nat) (sat clamp : Bool) (p : Nat) :
    (tagWrite t rm sat clamp (tval t p)).1 % 2 ^ tagW t = moved t p % 2 ^ tagW t := by
  have hw : tagW t = 8 := by simp [tagW, hk]
  have hval : tval t p = if p % 256 = 255 then .nan else (Ex.rat 1 1).scale ((p % 256 : Nat) - 127 : Int) := by
    simp [tval, hk]
  have hwrite (x : Ex) : tagWrite t rm sat clamp x = e8Write x := by simp [tagWrite, hk]
  rw [hwrite, hw]
  unfold moved
  rw [hval]
  by_cases hp : p % 256 = 255
  · rw [if_pos hp, if_pos (by rfl)]
    simp [hk, e8Write]
  · rw [if_neg hp, e8Write_scale hp, isNan_scale_rat, if_neg Bool.false_ne_true]
    exact Nat.mod_mod _ _

/-- A moved element under its own tag (R84). -/
theorem moveElem_mod {c : ECtx} (hv : tagValid c.kf = true) (hout : c.out = c.kf) (hclamp : c.clamp = false) (p : Nat) :
    (moveElem c p).1 % 2 ^ tagW c.kf = moved c.kf p % 2 ^ tagW c.kf := by
  unfold moveElem ECtx.write arithWrite resultWrite
  rw [hclamp, Bool.false_and, if_neg Bool.false_ne_true, hout]
  rcases kind_of_valid hv with hint | hk | ⟨hlo, hhi, hwidth⟩
  · exact (tagWrite_intPat hint _ _ p).1
  · exact tagWrite_scale hk _ _ _ p
  · exact (tagWrite_float hlo hhi hwidth _ _ _ p).1

/-- A move sets no flag, but for a scale. -/
theorem moveElem_flag {c : ECtx} (hv : tagValid c.kf = true) (hout : c.out = c.kf) (hclamp : c.clamp = false) (h8 : tagE8 c.kf = false) (p : Nat) :
    (moveElem c p).2 = false := by
  unfold moveElem ECtx.write arithWrite resultWrite
  rw [hclamp, Bool.false_and, if_neg Bool.false_ne_true, hout]
  dsimp only
  rw [Bool.not_true, Bool.and_false, Bool.or_false, Bool.or_false]
  rcases kind_of_valid hv with hint | hk | ⟨hlo, hhi, hwidth⟩
  · exact (tagWrite_intPat hint _ _ p).2
  · simp [tagE8, hk] at h8
  · exact (tagWrite_float hlo hhi hwidth _ _ _ p).2

end Sys2Proof.Claims
end

section
/-! PROOF. Jobs that write a register group, row by row or whole (R125, R152): which lanes and which mask bits they leave, and VLUT and
VRETAG (R142, R157). -/

namespace Sys2Proof.Claims

open Sys2Proof Sys2Proof.Machine

/-! Rows of results in lanes and masks. -/

/-- The rows of a job without queues. -/
theorem rowsGo_of_regs {s : State} {j : RowJob} {out : Nat → RowOut} (hheads : j.heads = []) (hheld : j.held = []) (hdst : j.dst.appends = 0)
    (hrow : ∀ r, r < j.rows → ∀ b, j.row s.cpu.back.v s.cpu.back.m b r = out r) : RowsGo s j out where
  nodup := by rw [hheads]; exact List.nodup_nil
  load := by rw [hheads]; exact nofun
  there := by rw [hheads]; exact nofun
  held := hheld
  room q hq := by rw [hq] at hdst; cases hdst
  row r hr b _ := hrow r hr b

/-- The lanes behind rows of `n` results each. -/
theorem upto_rowLanes {base : Nat} {kr : Tag} {out : Nat → RowOut} (n : Nat) {val : Nat → Nat → Option Nat} (m : Nat) (v : SMap (BitVec 16))
    (hout : ∀ r, r < m → (out r).vals = (List.range n).map (val r)) :
    upto m (fun r v => rowLanes (.reg base kr) r (out r) v) v = putTile kr base m n val v :=
  upto_congr _ fun r hr v => by
    unfold rowLanes
    dsimp only
    rw [hout r hr, writeRow_map_range]

/-- The flags behind rows that go to registers. -/
theorem upto_rowMasks {base : Nat} {kr : Tag} {out : Nat → RowOut} (k n : Nat) {fl : Nat → Nat → Option Bool} (m : Nat) (v : SMap (BitVec 16))
    (hout : ∀ r, r < m → (out r).flags = (List.range n).map (fl r)) :
    upto m (fun r v => rowMasks (.reg base kr) (some k) r (out r) v) v = tileLoop m n (fun r c => putBit k r c (fl r c)) v :=
  upto_congr _ fun r hr v => by
    unfold rowMasks
    dsimp only
    rw [hout r hr, writeMaskRow_map_range]

theorem upto_rowMasks_none {base : Nat} {kr : Tag} {out : Nat → RowOut} (m : Nat) (v : SMap (BitVec 16)) :
    upto m (fun r v => rowMasks (.reg base kr) none r (out r) v) v = v :=
  upto_frame id fun _ _ _ => rfl

/-- Rows that a job without elements does not do would have written nothing. -/
theorem putTile_doneRows (kr : Tag) (base : Nat) (j : RowJob) {n : Nat} (val : Nat → Nat → Option Nat) (v : SMap (BitVec 16))
    (h : j.len = 0 → n = 0) : putTile kr base (doneRows j) n val v = putTile kr base j.rows n val v := by
  unfold doneRows
  split
  next h0 =>
    rw [h h0]
    exact (tileLoop_empty _ _ rfl).trans (tileLoop_empty _ _ rfl).symm
  next => rfl

theorem putBits_doneRows (k : Nat) (j : RowJob) {n : Nat} (val : Nat → Nat → Option Bool) (m : SMap (BitVec 16)) (h : j.len = 0 → n = 0) :
    tileLoop (doneRows j) n (fun r c => putBit k r c (val r c)) m = tileLoop j.rows n (fun r c => putBit k r c (val r c)) m := by
  unfold doneRows
  split
  next h0 =>
    rw [h h0]
    exact (tileLoop_empty _ _ rfl).trans (tileLoop_empty _ _ rfl).symm
  next => rfl

/-- What a row job leaves whose results go to registers: tags `tags`, the lanes and the flags. -/
theorem regJob_spec {s : State} {j : RowJob} {out : Nat → RowOut} {i : Instr} {tags : Vector Tag 28} {base n : Nat} {kr : Tag}
    {val : Nat → Nat → Option Nat} (hs : Begins s) (h : RowsGo s j out) (hi : keepsVstart i = false) (hlen : i.len = 4)
    (hdst : j.dst = .reg base kr) (hout : ∀ r, r < doneRows j → (out r).vals = (List.range n).map (val r)) (hn : j.len = 0 → n = 0) :
    ∃ t, s.rowJob i j { s.cpu.front with vtag := tags } = t ∧ KeepsX s t
      ∧ RetiresOnly s t { past s t 4 with vtag := tags, vstart := 0 } ∧ t.cpu.front.vtag = tags
      ∧ t.cpu.back = rowsBack s j out (doneRows j)
      ∧ t.cpu.back.v = putTile kr base j.rows n val s.cpu.back.v
      ∧ t.cpu.back.m = upto (doneRows j) (fun r m => rowMasks (.reg base kr) j.flagMask r (out r) m) s.cpu.back.m := by
  obtain ⟨t, ht, hx, -, hfront, hret, hback⟩ := rowJob_spec (tags := tags) hs h hi hlen
  refine ⟨t, ht, hx, hret (by rw [hdst]; rfl), by rw [hfront], hback, ?_, ?_⟩
  · rw [hback, rowsBack_eq, hdst]
    exact (upto_rowLanes n (doneRows j) s.cpu.back.v hout).trans (putTile_doneRows kr base j val _ hn)
  · rw [hback, rowsBack_eq, hdst]

theorem retiresVec_of_regs {s t : State} {j : RowJob} {out : Nat → RowOut} {tags : Vector Tag 28} (hheads : j.heads = [])
    (hdst : j.dst.appends = 0) (hx : KeepsX s t) (hret : RetiresOnly s t { past s t 4 with vtag := tags, vstart := 0 })
    (htags : t.cpu.front.vtag = tags) (hback : t.cpu.back = rowsBack s j out (doneRows j)) : RetiresVec s t := by
  have hqueues : t.cpu.back.queues = s.cpu.back.queues := by
    rw [hback]
    exact queues_rowsBack _ _ hheads hdst
  refine ⟨hx, by rw [htags]; exact hret, ?_⟩
  have hall := back_eq_of_rows hback
  rwa [hqueues] at hall

/-! What the operand checks say of a register source. -/

theorem sourceReady_of_fits {s : State} {r : Reg} {n : Nat} (hr : r.val < 28) (h : Fits s r n (vtagOf s r)) : SourceReady s r n := by
  unfold SourceReady
  rwa [if_pos hr]

theorem headsOf_of_regs {l : List Reg} (h : ∀ r ∈ l, r.val < 28) : headsOf l = [] := by
  refine List.eq_nil_iff_forall_not_mem.2 fun q hq => ?_
  obtain ⟨r, hr, hval⟩ := mem_headsOf.1 hq
  have := h r hr
  omega

theorem srcRow_reg (s : State) (b : Back) {r : Reg} (hr : r.val < 28) (row k n : Nat) :
    srcRow s.cpu.back.v b s.cpu.front r row k n = (List.range n).map (el s r row) := by
  unfold srcRow regRow
  rw [headOf_of_lt hr]
  dsimp only
  rw [srcTag_of_lt hr]
  rfl

/-- A column reference (R154). -/
theorem srcCol_eq {s : State} {b : Back} {r : Reg} (row k : Nat) (c : Int)
    (h : 28 ≤ r.val → headElem b (r.val - 28) k c.toNat = headElem s.cpu.back (r.val - 28) row c.toNat) :
    srcCol s.vlmax s.cpu.back.v b s.cpu.front r row k c = colOf s r row c := by
  unfold srcCol colOf srcEl
  by_cases hin : 0 ≤ c ∧ c < (s.vlmax : Int)
  · rw [if_pos hin, if_neg (by simp; omega)]
    by_cases hr : r.val < 28
    · rw [if_pos hr, headOf_of_lt hr]
      dsimp only
      rw [srcTag_of_lt hr]
      rfl
    · rw [if_neg hr, headOf_of_le (by omega)]
      dsimp only
      rw [h (by omega)]
  · rw [if_neg hin, if_pos (by simp; omega)]

/-- Of the values of a group only the low bits count. -/
theorem HoldsGroup.congr {s t : State} {vd : Reg} {kr : Tag} {rows n : Nat} {val val' : Nat → Nat → Option Nat}
    (h : HoldsGroup s t vd kr rows n val)
    (heq : ∀ r c, r < rows → c < n → (val r c).map (· % 2 ^ tagW kr) = (val' r c).map (· % 2 ^ tagW kr)) : HoldsGroup s t vd kr rows n val' := by
  obtain ⟨hin, hout, htail⟩ := h
  refine ⟨fun r c hr hc => ?_, hout, htail⟩
  have hval := heq r c hr hc
  rw [hin r c hr hc]
  cases hv : val r c <;> cases hv' : val' r c <;> simp_all

/-! VLUT (R157). -/

/-- The result of VLUT at (r, c), none where the old element stays. -/
def lutValue (s : State) (o : VOps) (c : ECtx) (r k : Nat) : Option Nat :=
  if activeAt s o r k then some (moveElem c (colOf s o.vb 0 (intOf (vtagOf s o.va) (el s o.va r k)))).1
  else if o.mod.val = 3 then some 0 else none

/-- The element context of VLUT. -/
def lutCtx (s : State) (o : VOps) : ECtx :=
  { (vForm (fun _ => .ok (s.cpu.front.srcTag o.vb)) moveElem).ctx o s.cpu.front 0 (s.cpu.front.srcTag o.vb) (fun _ => 0) with
    clamp := tagIsInt (s.cpu.front.outTag o.vd (s.cpu.front.srcTag o.vb)) && !tagIsInt (s.cpu.front.srcTag o.vb) }

theorem lutCtx_spec {s : State} {o : VOps} (hb : o.vb.val < 28) (hd : o.vd.val < 28) :
    (lutCtx s o).kf = vtagOf s o.vb ∧ (lutCtx s o).out = (lutCtx s o).kf ∧ (lutCtx s o).clamp = false := by
  refine ⟨srcTag_of_lt hb, if_pos hd, ?_⟩
  unfold lutCtx
  dsimp only
  rw [show s.cpu.front.outTag o.vd (s.cpu.front.srcTag o.vb) = s.cpu.front.srcTag o.vb from if_pos hd]
  exact Bool.and_not_self _

/-- The job of VLUT where its sources are registers. -/
def lutJob (s : State) (o : VOps) : RowJob :=
  let f := s.cpu.front
  { rows := f.rc, len := f.vl, heads := headsOf [o.va], held := headsOf [o.vb], dst := dstOf o.vd (f.srcTag o.vb)
    outLen := f.vl, flagMask := vFlagMask o, inRow := true
    ordered := vopsOverlap o f [(o.va, f.srcTag o.va), (o.vb, f.srcTag o.vb)] (some (f.srcTag o.vb))
    row := fun v m bk r => lutRow o f (lutCtx s o) s.vlmax v m bk r 0 }

/-- The checks of VLUT let register operands pass. -/
theorem execVlut_eq {s : State} {o : VOps} (hs : Begins s) (ha : o.va.val < 28) (hb : o.vb.val < 28) (hd : o.vd.val < 28)
    (hint : tagIsInt (vtagOf s o.va) = true) (h8 : tagE8 (vtagOf s o.vb) = false) (hfa : Fits s o.va s.cpu.front.rc (vtagOf s o.va))
    (hfb : Fits s o.vb (min s.cpu.front.rc 1) (vtagOf s o.vb)) (hfd : Fits s o.vd s.cpu.front.rc (vtagOf s o.vb)) :
    exec (.vlut o) s = .next (s.rowJob (.vlut o) (lutJob s o)
      { s.cpu.front with vtag := (s.cpu.front.retagDst o.vd s.cpu.front.rc (vtagOf s o.vb)).vtag }) := by
  have hta : s.cpu.front.srcTag o.va = vtagOf s o.va := srcTag_of_lt ha
  have htb : s.cpu.front.srcTag o.vb = vtagOf s o.vb := srcTag_of_lt hb
  have htile : tileFault s.cpu.front [(o.va, vtagOf s o.va), (o.vb, vtagOf s o.vb), (o.vd, s.cpu.front.dstTag o.vd)] = none := by
    refine tileFault_eq_none fun e he => ?_
    simp only [List.mem_cons, List.not_mem_nil, or_false] at he
    rcases he with rfl | rfl | rfl
    · exact namesTile_of_fits hfa
    · exact namesTile_of_fits hfb
    · exact namesTile_of_fits hfd
  have hgroup : groupFault s.cpu.front [(o.va, vtagOf s o.va, s.cpu.front.rc), (o.vb, vtagOf s o.vb, min s.cpu.front.rc 1),
      (o.vd, vtagOf s o.vb, s.cpu.front.rc)] = none := by
    refine groupFault_eq_none fun e he _ => ?_
    simp only [List.mem_cons, List.not_mem_nil, or_false] at he
    rcases he with rfl | rfl | rfl
    · exact groupBad_of_fits hfa
    · exact groupBad_of_fits hfb
    · exact groupBad_of_fits hfd
  refine congrArg Host.Outcome.next ?_
  unfold lutJob lutCtx
  dsimp only
  rw [hta, htb, htile]
  dsimp only
  rw [hint, h8, if_neg (by decide), show s.cpu.front.outTag o.vd (vtagOf s o.vb) = vtagOf s o.vb from if_pos hd, h8, if_neg (by decide), hgroup]
  dsimp only
  rw [State.inOrderAs_nil s _ _ _ hs.1, headOf_of_lt ha, headOf_of_lt hb, retagDst_eq]

/-- A row of VLUT. -/
theorem lutRow_eq {s : State} {o : VOps} (b : Back) (ha : o.va.val < 28) (hb : o.vb.val < 28) (hd : o.vd.val < 28)
    (hv : tagValid (vtagOf s o.vb) = true) (h8 : tagE8 (vtagOf s o.vb) = false) (r : Nat) :
    lutRow o s.cpu.front (lutCtx s o) s.vlmax s.cpu.back.v s.cpu.back.m b r 0 =
      ⟨(List.range s.cpu.front.vl).map (lutValue s o (lutCtx s o) r), (List.range s.cpu.front.vl).map (fun _ => some false)⟩ := by
  obtain ⟨hkf, hout, hclamp⟩ := lutCtx_spec (s := s) hb hd
  have hflag (p : Nat) : (moveElem (lutCtx s o) p).2 = false :=
    moveElem_flag (by rw [hkf]; exact hv) hout hclamp (by rw [hkf]; exact h8) p
  unfold lutRow lutValue
  dsimp only
  rw [srcRow_reg s b ha, predRow_eq_map_active, List.zip_map']
  simp only [List.map_map]
  have hcol (x : Nat) : srcCol s.vlmax s.cpu.back.v b s.cpu.front o.vb 0 0 (tint (lutCtx s o).ta x) = colOf s o.vb 0 (intOf (vtagOf s o.va) x) := by
    rw [srcCol_eq _ _ _ fun h => by omega, intOf_eq_tint, show (lutCtx s o).ta = vtagOf s o.va from srcTag_of_lt ha]
  congr 1
  · refine List.map_congr_left fun c _ => ?_
    dsimp only [Function.comp]
    rw [hcol]
    split <;> rfl
  · refine List.map_congr_left fun c _ => ?_
    dsimp only [Function.comp]
    rw [hcol]
    split
    · exact congrArg some (hflag _)
    · rfl

/-! VRETAG (R142). -/

/-- The element context of VRETAG. -/
def retagCtx (s : State) (o : VOps) : ECtx :=
  (cvtForm (fun f => .ok (f.srcTag o.vb)) ECtx.rm).ctx o s.cpu.front 0 (s.cpu.front.srcTag o.vb) (fun _ => 0)

/-- The job of VRETAG. -/
def retagJob (s : State) (o : VOps) : RowJob :=
  let f := s.cpu.front
  { rows := f.rc, len := f.vl, heads := headsOf [o.va], held := [], dst := dstOf o.vd (f.srcTag o.vb)
    outLen := f.vl, flagMask := none, inRow := true, ordered := vopsOverlap o f [(o.va, f.srcTag o.vb)] (some (f.srcTag o.vb))
    row := retagRow o f (retagCtx s o) }

/-- The result of VRETAG at (r, c), none where the old element stays. -/
def retagValue (s : State) (o : VOps) (r c : Nat) : Option Nat :=
  if pmAt s o r c then some (elemAt s o.va (vtagOf s o.vb) r c) else if o.mod.val = 3 then some 0 else none

theorem execVretag_eq {s : State} {o : VOps} (hs : Begins s) (hb : o.vb.val < lanesEnd s)
    (hfa : Fits s o.va s.cpu.front.rc (vtagOf s o.vb)) (hfd : Fits s o.vd s.cpu.front.rc (vtagOf s o.vb)) :
    exec (.vretag o) s = .next (s.rowJob (.vretag o) (retagJob s o)
      { s.cpu.front with vtag := (s.cpu.front.retagDst o.vd s.cpu.front.rc (vtagOf s o.vb)).vtag }) := by
  have hb28 : o.vb.val < 28 := by
    unfold lanesEnd at hb
    split at hb <;> omega
  have htb : s.cpu.front.srcTag o.vb = vtagOf s o.vb := srcTag_of_lt hb28
  have hname : namesTile s.cpu.front o.vb = false := by
    refine Bool.eq_false_iff.2 fun hn => ?_
    obtain ⟨hm, hlo, hhi⟩ := (namesTile_iff _ _).1 hn
    unfold lanesEnd at hb
    rw [if_pos hm] at hb
    omega
  have htile (x : Tag) : tileFault s.cpu.front [(o.va, x), (o.vd, vtagOf s o.vb)] = none := by
    refine tileFault_eq_none fun e he => ?_
    simp only [List.mem_cons, List.not_mem_nil, or_false] at he
    rcases he with rfl | rfl
    · exact namesTile_of_fits hfa
    · exact namesTile_of_fits hfd
  have hgroup : groupFault s.cpu.front [(o.va, vtagOf s o.vb, s.cpu.front.rc), (o.vd, vtagOf s o.vb, s.cpu.front.rc)] = none := by
    refine groupFault_eq_none fun e he _ => ?_
    simp only [List.mem_cons, List.not_mem_nil, or_false] at he
    rcases he with rfl | rfl
    · exact groupBad_of_fits hfa
    · exact groupBad_of_fits hfd
  refine congrArg Host.Outcome.next ?_
  unfold namingTagSource retagJob retagCtx
  dsimp only
  rw [hname, Bool.false_and, if_neg Bool.false_ne_true, htb, htile]
  dsimp only
  rw [hgroup]
  dsimp only
  rw [State.inOrderAs_nil s _ _ _ hs.1, retagDst_eq]

theorem retagRow_eq {s : State} {o : VOps} (b : Back) (ha : o.va.val < 28) (hb : o.vb.val < 28) (hd : o.vd.val < 28) (r : Nat) :
    retagRow o s.cpu.front (retagCtx s o) s.cpu.back.v s.cpu.back.m b r =
      ⟨(List.range s.cpu.front.vl).map (retagValue s o r), (List.range s.cpu.front.vl).map (fun _ => some false)⟩ := by
  have hkf : (retagCtx s o).kf = vtagOf s o.vb := srcTag_of_lt hb
  have hout : (retagCtx s o).out = vtagOf s o.vb := (if_pos hd).trans (srcTag_of_lt hb)
  have hpat (x : Nat) : ((retagCtx s o).writePat x false).1 = x % 2 ^ tagW (vtagOf s o.vb) := by
    unfold ECtx.writePat
    rw [if_pos (hout.trans hkf.symm), hout]
  unfold retagRow regRow
  rw [headOf_of_lt ha]
  dsimp only
  rw [predRow_eq_map, List.zip_map', List.map_map, hkf]
  have hmod (c : Nat) : readElem s.cpu.back.v o.va.val (tagW (vtagOf s o.vb)) (tagP (vtagOf s o.vb)) r c % 2 ^ tagW (vtagOf s o.vb)
      = elemAt s o.va (vtagOf s o.vb) r c := Nat.mod_mod _ _
  congr 1
  · refine List.map_congr_left fun c _ => ?_
    dsimp only [Function.comp]
    rw [hpat, hmod]
    rfl
  · rw [List.map_map]
    rfl

/-- Settles O31. -/
theorem tablesAndRetags : Obligations.TablesAndRetags := by
  unfold Obligations.TablesAndRetags
  refine ⟨fun o s hs ha hb hd hint h8 hv hfa hfb hfd => ?_, fun o s hs ha hb hd hv hfa hfd => ?_⟩
  · have hdst : (lutJob s o).dst = .reg o.vd.val (vtagOf s o.vb) := by
      unfold lutJob dstOf
      dsimp only
      rw [if_pos hd, srcTag_of_lt hb]
    have hheads : (lutJob s o).heads = [] := headsOf_of_regs (by simpa using ha)
    have hrows : RowsGo s (lutJob s o) (fun r => ⟨(List.range s.cpu.front.vl).map (lutValue s o (lutCtx s o) r),
        (List.range s.cpu.front.vl).map (fun _ => some false)⟩) :=
      rowsGo_of_regs hheads (headsOf_of_regs (by simpa using hb)) (by rw [hdst]; rfl) fun r _ b => lutRow_eq b ha hb hd hv h8 r
    obtain ⟨t, ht, hx, hret, htags, hback, hlanes, hmasks⟩ := regJob_spec (i := .vlut o) hs hrows rfl rfl hdst (fun _ _ => rfl) id
    have hvl := hs.2.2.2.2.2
    refine ⟨t, (execVlut_eq hs ha hb hd hint h8 hfa hfb hfd).trans (congrArg Host.Outcome.next ht),
      retiresVec_of_regs hheads (by rw [hdst]; rfl) hx hret htags hback, retags_of_vtag hd htags,
      (holdsGroup_of_putTile hvl hlanes).congr fun r c _ _ => ?_, ?_⟩
    · unfold lutValue
      split
      · obtain ⟨hkf, hout, hclamp⟩ := lutCtx_spec (s := s) hb hd
        have hmove := moveElem_mod (by rw [hkf]; exact hv) hout hclamp (colOf s o.vb 0 (intOf (vtagOf s o.va) (el s o.va r c)))
        rw [hkf] at hmove
        rw [Option.map_some, Option.map_some, hmove]
      · rfl
    · rw [hmasks]
      split
      next hm =>
        refine holdsMask_of_putBits hs (hmasks.trans ?_)
        rw [show (lutJob s o).flagMask = some (8 + o.pm.val) from if_pos hm]
        exact (upto_rowMasks _ _ _ _ fun _ _ => rfl).trans (putBits_doneRows _ (lutJob s o) _ _ id)
      next hm =>
        rw [show (lutJob s o).flagMask = none from if_neg hm]
        exact upto_rowMasks_none _ _
  · have hb28 : o.vb.val < 28 := by
      unfold lanesEnd at hb
      split at hb <;> omega
    have hdst : (retagJob s o).dst = .reg o.vd.val (vtagOf s o.vb) := by
      unfold retagJob dstOf
      dsimp only
      rw [if_pos hd, srcTag_of_lt hb28]
    have hheads : (retagJob s o).heads = [] := headsOf_of_regs (by simpa using ha)
    have hrows : RowsGo s (retagJob s o) (fun r => ⟨(List.range s.cpu.front.vl).map (retagValue s o r),
        (List.range s.cpu.front.vl).map (fun _ => some false)⟩) :=
      rowsGo_of_regs hheads rfl (by rw [hdst]; rfl) fun r _ b => retagRow_eq b ha hb28 hd r
    obtain ⟨t, ht, hx, hret, htags, hback, hlanes, hmasks⟩ := regJob_spec (i := .vretag o) hs hrows rfl rfl hdst (fun _ _ => rfl) id
    refine ⟨t, (execVretag_eq hs hb hfa hfd).trans (congrArg Host.Outcome.next ht),
      retiresVec_of_regs hheads (by rw [hdst]; rfl) hx hret htags hback, retags_of_vtag hd htags, ?_,
      holdsGroup_of_putTile hs.2.2.2.2.2 hlanes⟩
    rw [hmasks]
    exact upto_rowMasks_none _ _

end Sys2Proof.Claims
end

section
/-! PROOF. Jobs that take effect whole (R152), and the rearrangements (R154, R155, R156). -/

namespace Sys2Proof.Claims

open Sys2Proof Sys2Proof.Machine

/-! What a job leaves that takes effect whole. -/

/-- A whole job's results in registers, and its flags in a mask where it has one. -/
theorem wholeJob_eq {s : State} (i : Instr) {j : WholeJob} (cont : Front) {base n : Nat} {t : Tag} {row : Nat → RowOut}
    (hdst : j.dst = .reg base t) (hshort : shortHeads s.cpu.back j.heads = []) (hres : j.result s.cpu.back = (List.range n).map row) :
    s.wholeJob i j cont = (s.setBack (popHeads j.heads { s.cpu.back with
      v := upto n (fun r v => rowLanes (.reg base t) r (row r) v) s.cpu.back.v
      m := upto n (fun r m => rowMasks (.reg base t) j.flagMask r (row r) m) s.cpu.back.m })).finish i cont := by
  have hput (r : Nat) (u : State) : u.putRow j.dst j.flagMask r 0 (row r) = u.setBack { u.cpu.back with
      v := rowLanes (.reg base t) r (row r) u.cpu.back.v, m := rowMasks (.reg base t) j.flagMask r (row r) u.cpu.back.m } := by
    rw [hdst]
    unfold State.putRow rowMasks rowLanes
    cases j.flagMask <;> rfl
  have hloop : (j.result s.cpu.back).zipIdx.foldl (fun s e => s.putRow j.dst j.flagMask e.2 0 e.1) s
      = s.setBack { s.cpu.back with
          v := upto n (fun r v => rowLanes (.reg base t) r (row r) v) s.cpu.back.v
          m := upto n (fun r m => rowMasks (.reg base t) j.flagMask r (row r) m) s.cpu.back.m } := by
    rw [hres, foldl_zipIdx_map_range, ← upto_lanes, ← upto_setBack]
    exact upto_congr _ fun r _ u => hput r u
  unfold State.wholeJob
  rw [hshort]
  dsimp only
  rw [show s.dstFull j.dst _ = none by rw [hdst]; rfl]
  dsimp only
  rw [hloop]
  rfl

/-- The rows an instruction takes from each of its heads: none where it has no elements. -/
def takenRows (s : State) : Nat := if s.cpu.front.vl = 0 then 0 else s.cpu.front.rc

/-- What an instruction leaves that does nothing but retag where it has no elements, and else runs a whole job over registers. -/
theorem wholeStep_spec {s : State} {i : Instr} {j : WholeJob} {tags : Vector Tag 28} {base n : Nat} {kr : Tag} {row : Nat → RowOut} {len : Nat}
    (hi : keepsVstart i = false) (hlen : i.len = len) (hdst : j.dst = .reg base kr)
    (hshort : s.cpu.front.rc * s.cpu.front.vl ≠ 0 → shortHeads s.cpu.back j.heads = [])
    (hres : j.result s.cpu.back = (List.range n).map row) :
    ∃ t, (if s.cpu.front.rc = 0 || s.cpu.front.vl = 0 then s.finish i { s.cpu.front with vtag := tags }
        else s.wholeJob i j { s.cpu.front with vtag := tags }) = t
      ∧ KeepsX s t ∧ RetiresOnly s t { past s t len with vtag := tags, vstart := 0 } ∧ t.cpu.front.vtag = tags
      ∧ t.cpu.back = if s.cpu.front.rc * s.cpu.front.vl = 0 then s.cpu.back else popHeads j.heads { s.cpu.back with
          v := upto n (fun r v => rowLanes (.reg base kr) r (row r) v) s.cpu.back.v
          m := upto n (fun r m => rowMasks (.reg base kr) j.flagMask r (row r) m) s.cpu.back.m } := by
  by_cases h0 : s.cpu.front.rc * s.cpu.front.vl = 0
  · have hcond : (decide (s.cpu.front.rc = 0) || decide (s.cpu.front.vl = 0)) = true := by
      simpa using Nat.mul_eq_zero.1 h0
    obtain ⟨hx, -, hfront, hret, hback⟩ := finish_spec (s := s) (u := s) (tags := tags) hi hlen rfl
    rw [if_pos hcond, if_pos h0]
    exact ⟨_, rfl, hx, hret rfl, by rw [hfront], hback⟩
  · have hcond : ¬(decide (s.cpu.front.rc = 0) || decide (s.cpu.front.vl = 0)) = true := by
      simpa using Nat.mul_ne_zero_iff.1 h0
    rw [if_neg hcond, if_neg h0, wholeJob_eq i _ hdst (hshort h0) hres]
    obtain ⟨hx, -, hfront, hret, hback⟩ := finish_spec (s := s) (u := s.setBack (popHeads j.heads { s.cpu.back with
      v := upto n (fun r v => rowLanes (.reg base kr) r (row r) v) s.cpu.back.v
      m := upto n (fun r m => rowMasks (.reg base kr) j.flagMask r (row r) m) s.cpu.back.m })) (tags := tags) hi hlen rfl
    exact ⟨_, rfl, hx, hret rfl, by rw [hfront], hback⟩

/-- The sides of the back that such an instruction changes. -/
theorem back_of_wholeStep {s t : State} {heads : List (Nat × Nat)} {v m : SMap (BitVec 16)}
    (h : t.cpu.back = if s.cpu.front.rc * s.cpu.front.vl = 0 then s.cpu.back else popHeads heads { s.cpu.back with v := v, m := m }) :
    t.cpu.back = { s.cpu.back with v := t.cpu.back.v, m := t.cpu.back.m, queues := t.cpu.back.queues }
      ∧ t.cpu.back.v = (if s.cpu.front.rc * s.cpu.front.vl = 0 then s.cpu.back.v else v)
      ∧ t.cpu.back.m = (if s.cpu.front.rc * s.cpu.front.vl = 0 then s.cpu.back.m else m)
      ∧ t.cpu.back.queues = if s.cpu.front.rc * s.cpu.front.vl = 0 then s.cpu.back.queues
          else (popHeads heads { s.cpu.back with v := v, m := m }).queues := by
  rw [h]
  split
  · exact ⟨rfl, rfl, rfl, rfl⟩
  · rw [popHeads_eq]
    exact ⟨rfl, rfl, rfl, rfl⟩

/-- The rows that the heads have lost. -/
theorem consumes_of_wholeStep {s t : State} {l : List Reg} {heads : List (Nat × Nat)} {b : Back} (hh : TakesHeads l s.cpu.front.rc heads)
    (ht : t.cpu.back.queues = if s.cpu.front.rc * s.cpu.front.vl = 0 then s.cpu.back.queues else (popHeads heads b).queues)
    (hb : b.queues = s.cpu.back.queues) :
    Consumes s t l (takenRows s) := by
  unfold takenRows
  by_cases h0 : s.cpu.front.rc * s.cpu.front.vl = 0
  · rw [if_pos h0] at ht
    have hnone : (if s.cpu.front.vl = 0 then 0 else s.cpu.front.rc) = 0 := by
      rcases Nat.mul_eq_zero.1 h0 with h | h
      · rw [h, ite_self]
      · rw [if_pos h]
    rw [hnone]
    intro q _
    unfold Loses Back.queue
    rw [ht, ite_self]
    exact ⟨rfl, rfl, rfl⟩
  · rw [if_neg h0] at ht
    rw [if_neg fun h => h0 (by rw [h, Nat.mul_zero])]
    exact consumes_popHeads hh hb ht

/-- A list of `n` results as a function of the column. -/
theorem eq_map_getD {α : Type} {n : Nat} {l : List (Option α)} (h : l.length = n) : l = (List.range n).map (fun c => l.getD c none) := by
  apply List.ext_getElem
  · simp [h]
  · intro c hc _
    simp [List.getD_eq_getElem?_getD, List.getElem?_eq_getElem hc]

/-! What a rearrangement reads. -/

/-- The element context of a rearrangement: va's tag, in and out. -/
def moveCtx (s : State) (o : VOps) : ECtx :=
  (vForm (fun _ => .ok (s.cpu.front.srcTag o.va)) moveElem).ctx o s.cpu.front 0 (s.cpu.front.srcTag o.va) (fun _ => 0)

theorem moveCtx_mod {s : State} {o : VOps} (hd : o.vd.val < 28) (hv : tagValid (s.cpu.front.srcTag o.va) = true) (x : Nat) :
    (moveElem (moveCtx s o) x).1 % 2 ^ tagW (s.cpu.front.srcTag o.va)
      = moved (s.cpu.front.srcTag o.va) x % 2 ^ tagW (s.cpu.front.srcTag o.va) := by
  have hout : (moveCtx s o).out = (moveCtx s o).kf := if_pos hd
  have hclamp : (moveCtx s o).clamp = false := by
    change (tagIsInt (s.cpu.front.outTag o.vd (s.cpu.front.srcTag o.va)) && ((true && !tagIsInt (s.cpu.front.srcTag o.va)) || (false && _) || (false && _))) = false
    rw [show s.cpu.front.outTag o.vd (s.cpu.front.srcTag o.va) = s.cpu.front.srcTag o.va from if_pos hd, Bool.true_and, Bool.false_and,
      Bool.false_and, Bool.or_false, Bool.or_false, Bool.and_not_self]
  exact moveElem_mod hv hout hclamp x

/-- What a rearrangement reads of the state. -/
def permIn (s : State) (o : VOps) : PermIn :=
  { vl := s.cpu.front.vl
    a := fun r k => (moveElem (moveCtx s o) (srcCol s.vlmax s.cpu.back.v s.cpu.back s.cpu.front o.va r r k)).1
    put := fun x => (moveElem (moveCtx s o) x).1
    b := fun r k => tint (s.cpu.front.srcTag o.vb) (srcCol s.vlmax s.cpu.back.v s.cpu.back s.cpu.front o.vb r r k)
    msk := fun r k => maskBit s.cpu.back.m o.vb.val r k
    act := fun r k => o.pm.val = 0 || maskBit s.cpu.back.m o.pm.val r k }

theorem colOf_natCast {s : State} {c : Nat} (r : Reg) (row : Nat) (h : c < s.vlmax) : colOf s r row (c : Int) = srcEl s r row c := by
  unfold colOf
  rw [if_pos ⟨by omega, by omega⟩, Int.toNat_natCast]

/-! The rows of each rearrangement. -/

/-- Rows `l` hold, modulo the bits of va's tag, the moved elements `val`. -/
def PermRows (s : State) (o : VOps) (l : Nat → List (Option Nat)) (val : Nat → Nat → Option Nat) : Prop :=
  ∀ r, (l r).length = s.cpu.front.vl ∧ ∀ c, c < s.cpu.front.vl → ((l r).getD c none).map (· % 2 ^ tagW (s.cpu.front.srcTag o.va))
    = (val r c).map (fun x => moved (s.cpu.front.srcTag o.va) x % 2 ^ tagW (s.cpu.front.srcTag o.va))

/-- Rows that are functions of their columns. -/
theorem permRows_permRow {s : State} {o : VOps} {h val : Nat → Nat → Option Nat}
    (heq : ∀ r c, c < s.cpu.front.vl → (h r c).map (· % 2 ^ tagW (s.cpu.front.srcTag o.va))
      = (val r c).map (fun x => moved (s.cpu.front.srcTag o.va) x % 2 ^ tagW (s.cpu.front.srcTag o.va))) :
    PermRows s o (fun r => permRow (permIn s o).vl (h r)) val := by
  refine fun r => ⟨by simp [permRow, permIn], fun c hc => ?_⟩
  rw [← heq r c hc]
  simp [permRow, permIn, List.getD_eq_getElem?_getD, hc]

theorem moved_zero (t : Tag) : moved t 0 = 0 := by
  unfold moved
  rw [if_neg]
  have hscale : ¬((Ex.rat 1 1).scale ((0 % 256 : Nat) - 127 : Int)).isNan = true := by
    rw [isNan_scale_rat]
    exact Bool.false_ne_true
  have hfloat (f : Fmt) : ¬(f.val 0).isNan = true := by
    unfold Fmt.val
    simp [Ex.isNan]
  unfold tval
  split
  · rw [isNan_int]
    exact Bool.false_ne_true
  · rw [isNan_int]
    exact Bool.false_ne_true
  · exact hscale
  · exact hfloat _

theorem permIn_a {s : State} {o : VOps} (hd : o.vd.val < 28) (hv : tagValid (s.cpu.front.srcTag o.va) = true) (r : Nat) (k : Int) :
    (permIn s o).a r k % 2 ^ tagW (s.cpu.front.srcTag o.va)
      = moved (s.cpu.front.srcTag o.va) (colOf s o.va r k) % 2 ^ tagW (s.cpu.front.srcTag o.va) := by
  unfold permIn
  dsimp only
  rw [moveCtx_mod hd hv, srcCol_eq r r k fun _ => rfl]

theorem permIn_b (s : State) (o : VOps) (r c : Nat) (h : c < s.vlmax) :
    (permIn s o).b r c = intOf (s.cpu.front.srcTag o.vb) (srcEl s o.vb r c) := by
  unfold permIn
  dsimp only
  rw [srcCol_eq r r c fun _ => rfl, colOf_natCast o.vb r h, intOf_eq_tint]

/-- The columns of a mask below `c` are those below `n` that are less (R155). -/
theorem filter_below {n c : Nat} (hc : c ≤ n) (p : Nat → Bool) :
    ((List.range n).filter p).filter (fun k => decide (k < c)) = (List.range c).filter p := by
  induction n, hc using Nat.le_induction with
  | base =>
    rw [List.filter_eq_self]
    intro k hk
    simpa using (List.mem_range.1 (List.mem_of_mem_filter hk))
  | succ n hn ih =>
    have hlast : ([n].filter p).filter (fun k => decide (k < c)) = [] := by
      rw [List.filter_eq_nil_iff]
      intro k hk
      have : k = n := by simpa using List.mem_of_mem_filter hk
      simp only [decide_eq_true_eq]
      omega
    rw [List.range_succ, List.filter_append, List.filter_append, ih, hlast, List.append_nil]

/-- VEXPM's row behind `n` columns: the number of columns with a bit, and what each column receives. -/
theorem expandRow_loop (p : PermIn) (r n : Nat) :
    (List.range n).foldl (fun (st : Nat × List (Option Nat)) c =>
      if p.msk r c then (st.1 + 1, some (p.a r st.1) :: st.2) else (st.1, none :: st.2)) (0, [])
      = (((List.range n).filter (p.msk r)).length,
          ((List.range n).map (fun c => if p.msk r c then some (p.a r ((List.range c).filter (p.msk r)).length) else none)).reverse) := by
  induction n with
  | zero => rfl
  | succ n ih =>
    rw [List.range_succ, List.foldl_append, ih, List.filter_append, List.map_append, List.reverse_append]
    by_cases h : p.msk r n = true <;> simp [h]

theorem expandRow_eq (p : PermIn) (r : Nat) : expandRow p r =
    permRow p.vl (fun c => if p.msk r c then some (p.a r ((List.range c).filter (p.msk r)).length) else none) := by
  unfold expandRow permRow
  rw [expandRow_loop, List.reverse_reverse]

/-- VCOMPR's row. -/
theorem compressRow_eq (p : PermIn) (r : Nat) :
    (setColumns p r).map (fun (c : Nat) => some (p.a r c)) ++ List.replicate (p.vl - (setColumns p r).length) none
      = permRow p.vl (fun c => ((setColumns p r)[c]?).map (fun k => p.a r k)) := by
  have hlen : (setColumns p r).length ≤ p.vl := (List.length_filter_le _ _).trans (by simp)
  unfold permRow
  apply List.ext_getElem
  · simp
    omega
  · intro c hc hc'
    rw [List.getElem_map, List.getElem_range]
    by_cases hin : c < (setColumns p r).length
    · rw [List.getElem_append_left (by simpa using hin), List.getElem_map, List.getElem?_eq_getElem hin]
      rfl
    · rw [List.getElem_append_right (by simpa using hin), List.getElem_replicate, List.getElem?_eq_none (by omega)]
      rfl

/-- Each rearrangement runs with rows that hold its elements (R154, R155). -/
theorem rearrange_of_permForm {i : Instr} {o : VOps} {val : Nat → Nat → Option Nat} {s : State} (h : permForm i s = some (o, val))
    (hd : o.vd.val < 28) (hv : tagValid (s.cpu.front.srcTag o.va) = true) (hvl : s.cpu.front.vl ≤ s.vlmax) :
    ∃ useB g, exec i s = .next (rearrange i o useB g s) ∧ (useB = true ↔ i = .vrgath o) ∧ keepsVstart i = false ∧ i.len = 4
      ∧ PermRows s o (g s (permIn s o)) val := by
  have ha := permIn_a (s := s) (o := o) hd hv
  have hcol (r c : Nat) (hc : c < s.cpu.front.vl) : (permIn s o).a r c % 2 ^ tagW (s.cpu.front.srcTag o.va)
      = moved (s.cpu.front.srcTag o.va) (srcEl s o.va r c) % 2 ^ tagW (s.cpu.front.srcTag o.va) := by
    rw [ha, colOf_natCast o.va r (by omega)]
  cases i with
  | vrgath =>
    cases h
    refine ⟨true, _, rfl, ⟨fun _ => rfl, fun _ => rfl⟩, rfl, rfl, permRows_permRow fun r c hc => ?_⟩
    have hact : (permIn s o).act r c = pmAt s o r c := rfl
    rw [hact, permIn_b s o r c (by omega)]
    split
    · rw [Option.map_some, Option.map_some, ha]
    · split
      · rw [Option.map_some, Option.map_some, moved_zero]
      · rfl
  | vslideup =>
    cases h
    refine ⟨false, _, rfl, ⟨nofun, nofun⟩, rfl, rfl, permRows_permRow fun r c hc => ?_⟩
    split
    · rfl
    · rw [Option.map_some, Option.map_some, hcol r _ (by omega)]
  | vslidedn =>
    cases h
    refine ⟨false, _, rfl, ⟨nofun, nofun⟩, rfl, rfl, permRows_permRow fun r c hc => ?_⟩
    rw [Option.map_some, Option.map_some, ha, Nat.cast_add]
  | vslide1up =>
    cases h
    refine ⟨false, _, rfl, ⟨nofun, nofun⟩, rfl, rfl, permRows_permRow fun r c hc => ?_⟩
    rw [Option.map_some, Option.map_some]
    split
    · exact congrArg some (moveCtx_mod hd hv _)
    · rw [hcol r _ (by omega)]
  | vslide1dn =>
    cases h
    refine ⟨false, _, rfl, ⟨nofun, nofun⟩, rfl, rfl, permRows_permRow fun r c hc => ?_⟩
    rw [Option.map_some, Option.map_some, show (permIn s o).vl = s.cpu.front.vl from rfl]
    split
    · exact congrArg some (moveCtx_mod hd hv _)
    · rw [hcol r _ (by omega)]
  | vcompr =>
    cases h
    refine ⟨false, _, rfl, ⟨nofun, nofun⟩, rfl, rfl, ?_⟩
    dsimp only
    simp only [compressRow_eq]
    refine permRows_permRow fun r c _ => ?_
    have hset : setColumns (permIn s o) r = maskCols s o.vb.val r := rfl
    rw [hset]
    cases hk : (maskCols s o.vb.val r)[c]? with
    | none => rfl
    | some k =>
      have hlt : k < s.cpu.front.vl := List.mem_range.1 (List.mem_of_mem_filter (List.mem_of_getElem? hk))
      exact congrArg some (hcol r k hlt)
  | vexpm =>
    cases h
    refine ⟨false, _, rfl, ⟨nofun, nofun⟩, rfl, rfl, ?_⟩
    simp only [expandRow_eq]
    refine permRows_permRow fun r c hc => ?_
    have hmsk : (permIn s o).msk r = fun k => maskBit s.cpu.back.m o.vb.val r k := rfl
    have hbelow : ((maskCols s o.vb.val r).filter (fun k => decide (k < c))).length
        = ((List.range c).filter (fun k => maskBit s.cpu.back.m o.vb.val r k)).length := by
      unfold maskCols
      rw [filter_below hc.le]
    have hle : ((List.range c).filter (fun k => maskBit s.cpu.back.m o.vb.val r k)).length ≤ c :=
      (List.length_filter_le _ _).trans (by simp)
    rw [hmsk, hbelow]
    dsimp only
    split
    · rw [Option.map_some, Option.map_some, hcol r _ (by omega)]
    · rfl
  | _ => cases h

/-! What a rearrangement leaves. -/

/-- The fields a rearrangement reads as vectors. -/
def permFields (o : VOps) (useB : Bool) : List Reg := o.va :: (if useB then [o.vb] else [])

theorem takesHeads_permFields (o : VOps) (useB : Bool) (n : Nat) : TakesHeads (permFields o useB) n (wholeHeads o n n useB) := by
  cases useB with
  | true => exact takesHeads_wholeHeads o n
  | false =>
    have hone : wholeHeads o n n false = oneHead o.va n := by
      unfold wholeHeads oneHead
      rw [if_neg Bool.false_ne_true]
      cases headOf o.va <;> rfl
    rw [hone]
    exact takesHeads_oneHead o.va n

/-- The job of a rearrangement. -/
def permJob (s : State) (o : VOps) (useB : Bool) (g : State → PermIn → Nat → List (Option Nat)) : WholeJob :=
  { heads := wholeHeads o s.cpu.front.rc s.cpu.front.rc useB, dst := dstOf o.vd (s.cpu.front.srcTag o.va), outRows := s.cpu.front.rc
    outLen := s.cpu.front.vl, flagMask := none
    result := fun bk => (List.range s.cpu.front.rc).map (fun r =>
      let l := g s { permIn s o with
          a := fun r k => (moveElem (moveCtx s o) (srcCol s.vlmax s.cpu.back.v bk s.cpu.front o.va r r k)).1
          b := fun r k => tint (s.cpu.front.srcTag o.vb) (srcCol s.vlmax s.cpu.back.v bk s.cpu.front o.vb r r k) } r
      ⟨l, l.map (fun _ => none)⟩) }

/-- The checks of a rearrangement let sources that can be read pass. -/
theorem rearrange_eq {i : Instr} {o : VOps} {useB : Bool} {g : State → PermIn → Nat → List (Option Nat)} {s : State} (hs : Begins s)
    (hready : ∀ r ∈ permFields o useB, SourceReady s r s.cpu.front.rc)
    (hint : useB = true → tagIsInt (s.cpu.front.srcTag o.vb) = true) (hfd : Fits s o.vd s.cpu.front.rc (s.cpu.front.srcTag o.va)) :
    rearrange i o useB g s = if s.cpu.front.rc = 0 || s.cpu.front.vl = 0 then
        s.finish i { s.cpu.front with vtag := (s.cpu.front.retagDst o.vd s.cpu.front.rc (s.cpu.front.srcTag o.va)).vtag }
      else s.wholeJob i (permJob s o useB g)
        { s.cpu.front with vtag := (s.cpu.front.retagDst o.vd s.cpu.front.rc (s.cpu.front.srcTag o.va)).vtag } := by
  have hlanes := hs.2.1
  have hva := hready o.va (by simp [permFields])
  have hvb (hu : useB = true) := hready o.vb (by simp [permFields, hu])
  have htile : tileFault s.cpu.front ([(o.va, s.cpu.front.srcTag o.va)] ++ (if useB then [(o.vb, s.cpu.front.srcTag o.vb)] else [])
      ++ [(o.vd, s.cpu.front.srcTag o.va)]) = none := by
    refine tileFault_eq_none fun e he => ?_
    rw [List.mem_append, List.mem_append, List.mem_singleton, List.mem_singleton] at he
    rcases he with (rfl | he) | rfl
    · exact namesTile_of_sourceReady hva
    · split at he
      next hu => rw [List.mem_singleton.1 he]; exact namesTile_of_sourceReady (hvb hu)
      next => cases he
    · exact namesTile_of_fits hfd
  have hgroup : groupFault s.cpu.front ([(o.va, s.cpu.front.srcTag o.va, s.cpu.front.rc)]
      ++ (if useB then [(o.vb, s.cpu.front.srcTag o.vb, s.cpu.front.rc)] else [])
      ++ [(o.vd, s.cpu.front.srcTag o.va, s.cpu.front.rc)]) = none := by
    refine groupFault_eq_none fun e he hlt => ?_
    rw [List.mem_append, List.mem_append, List.mem_singleton, List.mem_singleton] at he
    rcases he with (rfl | he) | rfl
    · exact groupBad_of_sourceReady hva hlt
    · split at he
      next hu =>
        rw [List.mem_singleton.1 he] at hlt ⊢
        exact groupBad_of_sourceReady (hvb hu) hlt
      next => cases he
    · exact groupBad_of_fits hfd
  have hintB : (useB && !tagIsInt (s.cpu.front.srcTag o.vb)) = false := by
    cases useB with
    | false => rfl
    | true => rw [hint rfl]; rfl
  unfold rearrange
  dsimp only
  rw [htile]
  dsimp only
  rw [hintB, if_neg Bool.false_ne_true, hgroup]
  dsimp only
  rw [State.inOrderAs_nil s i _ _ hs.1, srcLanes_of_none hlanes, retagDst_eq]
  rfl

/-- VRESHP's element at (r, c) of its `n` columns, none beyond the last one (R156). -/
def reshaped (s : State) (o : VOps) (n r c : Nat) : Option Nat :=
  if r * n + c < s.cpu.front.rc * s.cpu.front.vl then
    some (srcEl s o.va ((r * n + c) / s.cpu.front.vl) ((r * n + c) % s.cpu.front.vl))
  else none

/-- The row of results of VRESHP. -/
def reshapeRow (s : State) (o : VOps) (b : Back) (n r : Nat) : List (Option Nat) :=
  (List.range n).map (fun k =>
    let e := r * n + k
    if e < s.cpu.front.rc * s.cpu.front.vl then
      some (moveElem (moveCtx s o) (srcCol s.vlmax s.cpu.back.v b s.cpu.front o.va (e / s.cpu.front.vl) (e / s.cpu.front.vl)
        (e % s.cpu.front.vl : Nat))).1
    else none)

/-- The job of VRESHP. -/
def reshapeJob (s : State) (o : VOps) (rows : Nat) : WholeJob :=
  { heads := wholeHeads o s.cpu.front.rc 0 false, dst := dstOf o.vd (s.cpu.front.srcTag o.va), outRows := rows
    outLen := s.getU o.vb, flagMask := none
    result := fun bk => (List.range rows).map (fun r =>
      ⟨reshapeRow s o bk (s.getU o.vb) r, (reshapeRow s o bk (s.getU o.vb) r).map (fun _ => none)⟩) }

/-- The checks of VRESHP let a source that can be read pass (R156). -/
theorem execVreshp_eq {o : VOps} {s : State} {rows : Nat} (hs : Begins s) (hready : SourceReady s o.va s.cpu.front.rc)
    (hpos : 0 < s.getU o.vb) (hmax : s.getU o.vb ≤ s.vlmax)
    (hrows : rows = (s.cpu.front.rc * s.cpu.front.vl + s.getU o.vb - 1) / s.getU o.vb)
    (hcap : rows ≤ min 16 (128 / tagP (s.cpu.front.srcTag o.va))) (hfd : Fits s o.vd rows (s.cpu.front.srcTag o.va)) :
    exec (.vreshp o) s = .next (if s.cpu.front.rc = 0 || s.cpu.front.vl = 0 then
        s.finish (.vreshp o) { s.cpu.front with vtag := (s.cpu.front.retagDst o.vd rows (s.cpu.front.srcTag o.va)).vtag }
      else s.wholeJob (.vreshp o) (reshapeJob s o rows)
        { s.cpu.front with vtag := (s.cpu.front.retagDst o.vd rows (s.cpu.front.srcTag o.va)).vtag }) := by
  have hlanes := hs.2.1
  have htile : tileFault s.cpu.front [(o.va, s.cpu.front.srcTag o.va), (o.vd, s.cpu.front.srcTag o.va)] = none := by
    refine tileFault_eq_none fun e he => ?_
    simp only [List.mem_cons, List.not_mem_nil, or_false] at he
    rcases he with rfl | rfl
    · exact namesTile_of_sourceReady hready
    · exact namesTile_of_fits hfd
  have hgroup : groupFault s.cpu.front [(o.va, s.cpu.front.srcTag o.va, s.cpu.front.rc)] = none :=
    groupFault_eq_none fun e he hlt => by
      rw [List.mem_singleton.1 he] at hlt ⊢
      exact groupBad_of_sourceReady hready hlt
  have hdiv : (if s.getU o.vb = 0 then 0 else cdiv (s.cpu.front.rc * s.cpu.front.vl) (s.getU o.vb)) = rows := by
    rw [if_neg (by omega), hrows]
    rfl
  have hfault : reshapeFault s.cpu.front s.vlmax o (s.cpu.front.srcTag o.va) (s.getU o.vb) rows = none := by
    unfold reshapeFault
    rw [if_neg (by simp; omega)]
    exact groupFault_eq_none fun e he _ => by
      rw [List.mem_singleton.1 he]
      exact groupBad_of_fits hfd
  refine congrArg Host.Outcome.next ?_
  dsimp only
  rw [htile]
  dsimp only
  rw [hgroup]
  dsimp only
  rw [hdiv, hfault]
  dsimp only
  rw [State.inOrderAs_nil s _ _ _ hs.1, srcLanes_of_none hlanes, retagDst_eq]
  rfl

/-- Settles O30. -/
theorem rearrangements : Obligations.Rearrangements := by
  unfold Obligations.Rearrangements
  refine ⟨fun i o val s hform hs hd hva hv hvb hfd hvl => ?_, fun o s rows hs hd hva hv hpos hmax hlim hvl hrows hcap hfd => ?_⟩
  · obtain ⟨useB, g, hexec, hu, hi, hlen, hperm⟩ := rearrange_of_permForm hform hd hv hvl
    have hready : ∀ r ∈ permFields o useB, SourceReady s r s.cpu.front.rc := by
      intro r hr
      unfold permFields at hr
      rcases List.mem_cons.1 hr with rfl | hr
      · exact hva
      · split at hr
        next hb => rw [List.mem_singleton.1 hr]; exact (hvb (hu.1 hb)).1
        next => cases hr
    have hheads := takesHeads_permFields o useB s.cpu.front.rc
    have hdst : dstOf o.vd (s.cpu.front.srcTag o.va) = .reg o.vd.val (s.cpu.front.srcTag o.va) := if_pos hd
    rw [rearrange_eq hs hready (fun hb => (hvb (hu.1 hb)).2) hfd] at hexec
    obtain ⟨t, ht, hx, hret, htags, hback⟩ := wholeStep_spec (s := s) (i := i) (j := permJob s o useB g) hi hlen hdst
      (fun _ => shortHeads_eq_nil hheads hready) rfl
    obtain ⟨hsides, hlanes, hmasks, hqueues⟩ := back_of_wholeStep hback
    have hm : t.cpu.back.m = s.cpu.back.m := by
      rw [hmasks, show (permJob s o useB g).flagMask = none from rfl, upto_rowMasks_none, ite_self]
    refine ⟨t, hexec.trans (congrArg Host.Outcome.next ht), hx, by rw [htags]; exact hret, by rw [hm] at hsides; exact hsides, ?_,
      retags_of_vtag hd htags, HoldsGroup.congr (val := fun r c => (g s (permIn s o) r).getD c none)
        (holdsGroup_of_putTile hs.2.2.2.2.2 ?_) fun r c hr hc => ?_⟩
    · have hfields : permFields o useB = o.va :: (if i = .vrgath o then [o.vb] else []) := by
        unfold permFields
        exact congrArg _ (if_congr hu rfl rfl)
      rw [← hfields]
      exact consumes_of_wholeStep hheads hqueues rfl
    · rw [hlanes]
      split
      next h0 => exact (tileLoop_empty _ _ h0).symm
      next => exact upto_rowLanes _ _ _ fun r _ => eq_map_getD (hperm r).1
    · rw [(hperm r).2 c hc, Option.map_map]
      rfl
  · have hheads : TakesHeads [o.va] s.cpu.front.rc (wholeHeads o s.cpu.front.rc 0 false) := by
      have hone : wholeHeads o s.cpu.front.rc 0 false = wholeHeads o s.cpu.front.rc s.cpu.front.rc false := by
        unfold wholeHeads
        rw [if_neg Bool.false_ne_true]
        cases headOf o.va <;> rfl
      rw [hone]
      exact takesHeads_permFields o false s.cpu.front.rc
    have hready : ∀ r ∈ [o.va], SourceReady s r s.cpu.front.rc := by simpa using hva
    have hdst : dstOf o.vd (s.cpu.front.srcTag o.va) = .reg o.vd.val (s.cpu.front.srcTag o.va) := if_pos hd
    obtain ⟨t, ht, hx, hret, htags, hback⟩ := wholeStep_spec (s := s) (i := .vreshp o) (j := reshapeJob s o rows) rfl rfl hdst
      (fun _ => shortHeads_eq_nil hheads hready) rfl
    obtain ⟨hsides, hlanes, hmasks, hqueues⟩ := back_of_wholeStep hback
    have hm : t.cpu.back.m = s.cpu.back.m := by
      rw [hmasks, show (reshapeJob s o rows).flagMask = none from rfl, upto_rowMasks_none, ite_self]
    have hnone : s.cpu.front.rc * s.cpu.front.vl = 0 → rows = 0 := fun h0 => by
      rw [hrows, h0]
      exact Nat.div_eq_of_lt (by omega)
    refine ⟨t, (execVreshp_eq hs hva hpos hmax hrows hcap hfd).trans (congrArg Host.Outcome.next ht), hx, by rw [htags]; exact hret,
      by rw [hm] at hsides; exact hsides, consumes_of_wholeStep hheads hqueues rfl, retags_of_vtag hd htags,
      HoldsGroup.congr (val := fun r c => (reshapeRow s o s.cpu.back (s.getU o.vb) r).getD c none)
        (holdsGroup_of_putTile (by omega) ?_) fun r c hr hc => ?_⟩
    · rw [hlanes]
      split
      next h0 => rw [hnone h0]; exact (tileLoop_empty _ _ (Nat.zero_mul _)).symm
      next => exact upto_rowLanes _ _ _ fun r _ => eq_map_getD (by simp [reshapeRow])
    · have hcell : (reshapeRow s o s.cpu.back (s.getU o.vb) r).getD c none =
          if r * s.getU o.vb + c < s.cpu.front.rc * s.cpu.front.vl then
            some (moveElem (moveCtx s o) (srcCol s.vlmax s.cpu.back.v s.cpu.back s.cpu.front o.va ((r * s.getU o.vb + c) / s.cpu.front.vl)
              ((r * s.getU o.vb + c) / s.cpu.front.vl) ((r * s.getU o.vb + c) % s.cpu.front.vl : Nat))).1
          else none := by
        simp [reshapeRow, List.getD_eq_getElem?_getD, hc]
      rw [hcell]
      dsimp only
      split
      next hin =>
        have hvlpos : 0 < s.cpu.front.vl := Nat.pos_of_ne_zero fun h0 => by simp [h0] at hin
        have hcol : (r * s.getU o.vb + c) % s.cpu.front.vl < s.vlmax := (Nat.mod_lt _ hvlpos).trans_le hvl
        rw [Option.map_some, Option.map_some, moveCtx_mod hd hv, srcCol_eq _ _ _ fun _ => rfl, colOf_natCast _ _ hcol]
      next => rfl

end Sys2Proof.Claims
end

section
/-! PROOF. Row reductions, VSCAN and VREDCOL (R143 to R152). -/

namespace Sys2Proof.Claims

open Sys2Proof Sys2Proof.Machine

/-! What the queues lose. -/

theorem loses_popHeads (heads : List (Nat × Nat)) (b : Back) {k : Nat} (hk : k < 6) :
    ((popHeads heads b).queue k).rows = (b.queue k).rows.drop ((heads.filter (fun h => h.1 == k)).map (·.2)).sum
      ∧ ((popHeads heads b).queue k).part = (b.queue k).part ∧ ((popHeads heads b).queue k).sub = (b.queue k).sub := by
  induction heads generalizing b with
  | nil => exact ⟨rfl, rfl, rfl⟩
  | cons e heads ih =>
    obtain ⟨hrows, hpart, hsub⟩ := ih (b.popRows e.1 e.2)
    have hq : (b.popRows e.1 e.2).queue k = if k = e.1 ∧ e.1 < 6 then (b.queue e.1).take e.2 else b.queue k := Back.queue_modQueue _ _ _ _
    rw [show popHeads (e :: heads) b = popHeads heads (b.popRows e.1 e.2) from rfl, hrows, hpart, hsub, hq]
    by_cases he : e.1 = k
    · rw [if_pos ⟨he.symm, by omega⟩, List.filter_cons, if_pos (by simpa using he), List.map_cons, List.sum_cons, he]
      exact ⟨List.drop_drop .., rfl, rfl⟩
    · rw [if_neg fun h => he h.1.symm, List.filter_cons, if_neg (by simpa using he)]
      exact ⟨rfl, rfl, rfl⟩

theorem queues_popHeads (heads : List (Nat × Nat)) {b b' : Back} (h : b.queues = b'.queues) :
    (popHeads heads b).queues = (popHeads heads b').queues := by
  induction heads generalizing b b' with
  | nil => exact h
  | cons e heads ih =>
    refine ih ?_
    unfold Back.popRows Back.modQueue
    dsimp only
    rw [h]

/-! Checks that all reductions share (R126, R143). -/

theorem redChecks_eq {trap : Front → Instr → Cause → Nat → TrapInfo} {i : Instr} {o : VOps} {ok : Tag → Tag → Tag → Bool} {vbRows outRows : Nat}
    {body : State → Front → State} {s : State} (hs : Begins s) (hd : o.vd.val < 28)
    (hok : ok (s.cpu.front.srcTag o.va) (s.cpu.front.srcTag o.vb) (vtagOf s o.vd) = true)
    (hva : SourceReady s o.va s.cpu.front.rc) (hvb : SourceReady s o.vb vbRows) (hfd : Fits s o.vd outRows (vtagOf s o.vd)) :
    redChecks trap i o ok vbRows outRows body s
      = body s { s.cpu.front with vtag := (s.cpu.front.retagDst o.vd outRows (vtagOf s o.vd)).vtag } := by
  have hkd : s.cpu.front.dstTag o.vd = vtagOf s o.vd := if_pos hd
  have htile : tileFault s.cpu.front [(o.va, s.cpu.front.srcTag o.va), (o.vb, s.cpu.front.srcTag o.vb), (o.vd, vtagOf s o.vd)] = none := by
    refine tileFault_eq_none fun e he => ?_
    simp only [List.mem_cons, List.not_mem_nil, or_false] at he
    rcases he with rfl | rfl | rfl
    · exact namesTile_of_sourceReady hva
    · exact namesTile_of_sourceReady hvb
    · exact namesTile_of_fits hfd
  have hgroup : groupFault s.cpu.front [(o.va, s.cpu.front.srcTag o.va, s.cpu.front.rc), (o.vb, s.cpu.front.srcTag o.vb, vbRows),
      (o.vd, vtagOf s o.vd, outRows)] = none := by
    refine groupFault_eq_none fun e he hlt => ?_
    simp only [List.mem_cons, List.not_mem_nil, or_false] at he
    rcases he with rfl | rfl | rfl
    · exact groupBad_of_sourceReady hva hlt
    · exact groupBad_of_sourceReady hvb hlt
    · exact groupBad_of_fits hfd
  unfold redChecks
  dsimp only
  rw [hkd, htile]
  dsimp only
  rw [hok, Bool.not_true, if_neg Bool.false_ne_true, hgroup]
  dsimp only
  rw [State.inOrderAs_nil s i _ _ hs.1, retagDst_eq]

/-! Row reductions (R143, R144). -/

/-- The columns that count: all under .XM, but not for the scaled reduction, whose mod is a block size. -/
def redActive (s : State) (o : VOps) (sc : Bool) (r c : Nat) : Bool := pmAt s o r c || (!sc && decide (o.mod.val = 2))

/-- The result of row `r` and its flag. -/
def redValue (s : State) (o : VOps) (sc : Bool) (g : RedFn) (r : Nat) : Nat × Bool :=
  g (s.cpu.front.srcTag o.va) (s.cpu.front.srcTag o.vb) (vtagOf s o.vd) s.cpu.front.rmode.toNat
    (!sc && decide (o.mod.val = 1)) (srcRowOf s o.va r) ((List.range s.cpu.front.vl).map (redActive s o sc r)) (srcRowOf s o.vb r)
    (el s o.vd r 0)

/-- The job of a row reduction. -/
def redJob (s : State) (o : VOps) (sc : Bool) (g : RedFn) : RowJob :=
  let f := s.cpu.front
  { rows := f.rc, len := f.vl, heads := headsOf [o.va, o.vb], held := [], dst := dstOf o.vd (f.dstTag o.vd)
    outLen := 1, flagMask := if sc then none else vFlagMask o, inRow := false, ordered := true
    row := redRow o f sc g }

theorem predRow_eq_map_red (s : State) (o : VOps) (sc : Bool) (r n : Nat) :
    predRow s.cpu.back.m o (!sc && decide (o.mod.val = 2)) r n = (List.range n).map (redActive s o sc r) := by
  cases hx : (!sc && decide (o.mod.val = 2)) with
  | true =>
    have hall : redActive s o sc r = fun _ => true := funext fun c => by rw [redActive, hx, Bool.or_true]
    unfold predRow
    rw [if_pos (by simp), hall, replicate_eq_map]
  | false =>
    have hact : redActive s o sc r = pmAt s o r := funext fun c => by rw [redActive, hx, Bool.or_false]
    rw [hact, predRow_eq_map]

theorem redRow_eq {s : State} {o : VOps} {sc : Bool} {g : RedFn} {b : Back} {r : Nat} (hd : o.vd.val < 28)
    (hva : SourceReady s o.va s.cpu.front.rc) (hvb : SourceReady s o.vb s.cpu.front.rc) (hr : r < s.cpu.front.rc)
    (hb : Dropped s b [o.va, o.vb] r) : redRow o s.cpu.front sc g s.cpu.back.v s.cpu.back.m b r
      = ⟨[some (redValue s o sc g r).1], [some (redValue s o sc g r).2]⟩ := by
  unfold redRow
  dsimp only
  rw [srcRow_dropped _ hb (by simp) hva hr, srcRow_dropped _ hb (by simp) hvb hr, if_pos hd, predRow_eq_map_red,
    show s.cpu.front.dstTag o.vd = vtagOf s o.vd from if_pos hd]
  rfl

theorem rowsGo_redJob {s : State} {o : VOps} {sc : Bool} {g : RedFn} (hd : o.vd.val < 28) (hva : SourceReady s o.va s.cpu.front.rc)
    (hvb : SourceReady s o.vb s.cpu.front.rc) :
    RowsGo s (redJob s o sc g) (fun r => ⟨[some (redValue s o sc g r).1], [some (redValue s o sc g r).2]⟩) where
  nodup := nodup_eraseDups _
  load q hq := by
    obtain ⟨r, -, hr⟩ := mem_headsOf.1 hq
    have := r.isLt
    omega
  there q hq := by
    obtain ⟨r, hm, hr⟩ := mem_headsOf.1 hq
    have hready : SourceReady s r s.cpu.front.rc := by
      simp only [List.mem_cons, List.not_mem_nil, or_false] at hm
      rcases hm with rfl | rfl
      · exact hva
      · exact hvb
    have hrows := rows_of_sourceReady hready (by omega)
    rwa [show r.val - 28 = q by omega] at hrows
  held := rfl
  room q hq := by
    have hreg : (redJob s o sc g).dst = .reg o.vd.val (s.cpu.front.dstTag o.vd) := if_pos hd
    rw [hreg] at hq
    cases hq
  row r hr b hb := redRow_eq hd hva hvb hr hb

/-- What a row reduction leaves. -/
theorem rowReduction_spec {i : Instr} {o : VOps} {sc : Bool} {ok : Tag → Tag → Tag → Bool} {g : RedFn} {s : State} (hs : Begins s)
    (hd : o.vd.val < 28) (hok : ok (s.cpu.front.srcTag o.va) (s.cpu.front.srcTag o.vb) (vtagOf s o.vd) = true)
    (hva : SourceReady s o.va s.cpu.front.rc) (hvb : SourceReady s o.vb s.cpu.front.rc) (hfd : Fits s o.vd s.cpu.front.rc (vtagOf s o.vd))
    (hi : keepsVstart i = false) (hlen : i.len = 4) :
    ∃ t, rowReduction i o sc ok g s = t ∧ KeepsX s t ∧ RetiresOnly s t { past s t 4 with vtag := t.cpu.front.vtag, vstart := 0 }
      ∧ Retags s t o.vd s.cpu.front.rc (vtagOf s o.vd)
      ∧ t.cpu.back = rowsBack s (redJob s o sc g) (fun r => ⟨[some (redValue s o sc g r).1], [some (redValue s o sc g r).2]⟩) (takenRows s)
      ∧ HoldsGroup s t o.vd (vtagOf s o.vd) s.cpu.front.rc (min 1 s.cpu.front.vl) (fun r _ => some (redValue s o sc g r).1)
      ∧ (if sc = false ∧ o.mod.val = 2 then
          HoldsMask s t (8 + o.pm.val) (fun r c => if c = 0 then some (redValue s o sc g r).2 else none)
        else t.cpu.back.m = s.cpu.back.m) := by
  have hreg : (redJob s o sc g).dst = .reg o.vd.val (vtagOf s o.vd) := by
    unfold redJob dstOf
    dsimp only
    rw [if_pos hd]
    exact congrArg _ (if_pos hd)
  have hone (h : doneRows (redJob s o sc g) ≠ 0) : min 1 s.cpu.front.vl = 1 := by
    have : s.cpu.front.vl ≠ 0 := fun h0 => h (if_pos h0)
    omega
  obtain ⟨t, ht, hx, hret, htags, hback, hlanes, hmasks⟩ := regJob_spec (i := i) (n := min 1 s.cpu.front.vl)
    (val := fun r _ => some (redValue s o sc g r).1)
    (tags := (s.cpu.front.retagDst o.vd s.cpu.front.rc (vtagOf s o.vd)).vtag)
    hs (rowsGo_redJob (sc := sc) (g := g) hd hva hvb) hi hlen hreg (fun r hr => by rw [hone (by omega)]; rfl)
    (fun h0 => by rw [show s.cpu.front.vl = 0 from h0]; rfl)
  refine ⟨t, (redChecks_eq hs hd hok hva hvb hfd).trans ht, hx, by rw [htags]; exact hret, retags_of_vtag hd htags, hback,
    holdsGroup_of_putTile (by omega) hlanes, ?_⟩
  split
  next hm =>
    refine holdsMask_of_putBits hs (hmasks.trans ?_)
    have hflag : (redJob s o sc g).flagMask = some (8 + o.pm.val) := by
      unfold redJob vFlagMask
      dsimp only
      rw [hm.1, if_neg Bool.false_ne_true, if_pos hm.2]
    rw [hflag, upto_rowMasks (n := min 1 s.cpu.front.vl) (fl := fun r _ => some (redValue s o sc g r).2) _ _ _
      fun r hr => by rw [hone (by omega)]; rfl, putBits_doneRows _ _ _ _ (fun h0 => by rw [show s.cpu.front.vl = 0 from h0]; rfl)]
    refine upto_congr _ fun r _ m => ?_
    -- the other columns keep their bits
    cases hvl : s.cpu.front.vl with
    | zero => rfl
    | succ n =>
      have hrest (k : Nat) : upto (k + 1) (fun c => putBit (8 + o.pm.val) r c (if c = 0 then some (redValue s o sc g r).2 else none)) m
          = putBit (8 + o.pm.val) r 0 (some (redValue s o sc g r).2) m := by
        induction k with
        | zero => rfl
        | succ k ih => rw [upto_succ, ih, if_neg (by omega)]; rfl
      rw [hrest, show min 1 (n + 1) = 1 by omega]
      rfl
  next hm =>
    rw [hmasks]
    have hflag : (redJob s o sc g).flagMask = none := by
      unfold redJob vFlagMask
      dsimp only
      split
      · rfl
      next hsc => exact if_neg fun h => hm ⟨by simpa using hsc, h⟩
    rw [hflag]
    exact upto_rowMasks_none _ _

/-! VSCAN and VREDCOL, which take effect whole (R150 to R152). -/

theorem flatten_blocks {α : Type} (k : Nat) (l : List α) (hk : l.length ≤ 32 * k) :
    ((List.range k).map (fun j => (l.drop (32 * j)).take 32)).flatten = l := by
  have hpre (j : Nat) : ((List.range j).map (fun j => (l.drop (32 * j)).take 32)).flatten = l.take (32 * j) := by
    induction j with
    | zero => simp
    | succ j ih =>
      rw [List.range_succ, List.map_append, List.flatten_append, ih, Nat.mul_succ, List.take_add]
      simp
  rw [hpre, List.take_of_length_le (by omega)]

/-- The blocks of a row make up the row. -/
theorem flatten_blocks32 (l : List (Option Ex)) : (blocks32 l).flatten = l := by
  refine flatten_blocks _ l ?_
  unfold cdiv
  omega

/-- VSCAN over one block: the sum so far, whether a NaN was met, and the results (R150). -/
def scanStep (md : SumMode) (kd : Tag) (sat : Bool) (st : Part32 × Bool × List (Option (Nat × Bool))) (blk : List (Option Ex)) :
    Part32 × Bool × List (Option (Nat × Bool)) :=
  (match blockValue md blk with
    | some x => sumFold md st.1 x
    | none => st.1, st.2.1 || nanMet blk (.zero false), st.2.2 ++ scanBlock md kd sat st.1 st.2.1 blk)

/-- What a column of VSCAN receives of its result, none where the old element stays. -/
def scanCell (o : VOps) (e : Option (Nat × Bool)) : Option Nat :=
  match e with
  | some z => some z.1
  | none => if o.mod.val = 3 then some 0 else none

/-- The row that VSCAN reads: va's elements where they count. -/
def scanSource (s : State) (o : VOps) (r : Nat) : List (Option Ex) :=
  presentRow (s.cpu.front.srcTag o.va) (srcRow s.cpu.back.v s.cpu.back s.cpu.front o.va r r s.cpu.front.vl)
    (predRow s.cpu.back.m o (o.mod.val = 2) r s.cpu.front.vl)

/-- The carry of a row of VSCAN. -/
def scanCarry (s : State) (o : VOps) (r : Nat) : Ex :=
  tval (s.cpu.front.dstTag o.vd) ((srcRow s.cpu.back.v s.cpu.back s.cpu.front o.vb r r s.cpu.front.vl).headD 0)

/-- The results of a row of VSCAN. -/
def scanned (s : State) (o : VOps) (r : Nat) : List (Option (Nat × Bool)) :=
  ((blocks32 (scanSource s o r)).foldl (scanStep (sumMode (s.cpu.front.srcTag o.va)) (s.cpu.front.dstTag o.vd) (vSat o))
    ((scanCarry s o r, false), (scanCarry s o r).isNan, [])).2.2

theorem scanRow_vals (s : State) (o : VOps) (r : Nat) :
    (scanRow o s.cpu.front s.cpu.back.v s.cpu.back.m s.cpu.back r r r).vals = (scanned s o r).map (scanCell o) := by
  unfold scanRow
  dsimp only
  rw [List.map_map]
  change List.map _ (scanned s o r) = _
  refine List.map_congr_left fun e _ => ?_
  cases e <;> rfl

theorem length_scanSteps (md : SumMode) (kd : Tag) (sat : Bool) (bs : List (List (Option Ex))) (st : Part32 × Bool × List (Option (Nat × Bool))) :
    (bs.foldl (scanStep md kd sat) st).2.2.length = st.2.2.length + bs.flatten.length := by
  induction bs generalizing st with
  | nil => rfl
  | cons b bs ih =>
    rw [List.foldl_cons, ih, List.flatten_cons, List.length_append]
    simp [scanStep, scanBlock]
    omega

theorem length_scanSource {s : State} {o : VOps} {r : Nat} (hva : SourceReady s o.va s.cpu.front.rc) (hr : r < s.cpu.front.rc) :
    (scanSource s o r).length = s.cpu.front.vl := by
  unfold scanSource presentRow
  rw [srcRow_eq_map _ hva hr, predRow_eq_map_active]
  simp

theorem length_scanned {s : State} {o : VOps} {r : Nat} (hva : SourceReady s o.va s.cpu.front.rc) (hr : r < s.cpu.front.rc) :
    (scanned s o r).length = s.cpu.front.vl := by
  unfold scanned
  rw [length_scanSteps, flatten_blocks32, length_scanSource hva hr, List.length_nil, Nat.zero_add]

/-- The job of VSCAN. -/
def scanJob (s : State) (o : VOps) : WholeJob :=
  { heads := wholeHeads o s.cpu.front.rc s.cpu.front.rc true, dst := dstOf o.vd (s.cpu.front.dstTag o.vd), outRows := s.cpu.front.rc
    outLen := s.cpu.front.vl, flagMask := vFlagMask o
    result := fun b => (List.range s.cpu.front.rc).map (fun r => scanRow o s.cpu.front s.cpu.back.v s.cpu.back.m b r r r) }

/-- The job of VREDCOL. -/
def colJob (s : State) (o : VOps) : WholeJob :=
  { heads := wholeHeads o s.cpu.front.rc 1 true, dst := dstOf o.vd (s.cpu.front.dstTag o.vd), outRows := 1, outLen := s.cpu.front.vl
    flagMask := vFlagMask o, result := fun b => [colRow o s.cpu.front s.cpu.back.v s.cpu.back.m b] }

theorem dstOf_dstTag {s : State} {o : VOps} (hd : o.vd.val < 28) : dstOf o.vd (s.cpu.front.dstTag o.vd) = .reg o.vd.val (vtagOf s o.vd) := by
  unfold dstOf
  rw [if_pos hd]
  exact congrArg _ (if_pos hd)

/-- Without .XM a job has no flags to write. -/
theorem masks_of_no_flags {s t : State} {o : VOps} {base n : Nat} {kr : Tag} {row : Nat → RowOut} (hm : o.mod.val ≠ 2)
    (h : t.cpu.back.m = if s.cpu.front.rc * s.cpu.front.vl = 0 then s.cpu.back.m
      else upto n (fun r m => rowMasks (.reg base kr) (vFlagMask o) r (row r) m) s.cpu.back.m) : t.cpu.back.m = s.cpu.back.m := by
  rw [h, show vFlagMask o = none from if_neg hm, upto_rowMasks_none, ite_self]

/-- What VSCAN leaves. -/
theorem vscan_spec {o : VOps} {s : State} (hs : Begins s) (hd : o.vd.val < 28)
    (hok : sumTags (s.cpu.front.srcTag o.va) (s.cpu.front.srcTag o.vb) (vtagOf s o.vd) = true)
    (hva : SourceReady s o.va s.cpu.front.rc) (hvb : SourceReady s o.vb s.cpu.front.rc) (hfd : Fits s o.vd s.cpu.front.rc (vtagOf s o.vd)) :
    ∃ t, exec (.vscan o) s = .next t ∧ KeepsX s t ∧ RetiresOnly s t { past s t 4 with vtag := t.cpu.front.vtag, vstart := 0 }
      ∧ t.cpu.back = { s.cpu.back with v := t.cpu.back.v, m := t.cpu.back.m, queues := t.cpu.back.queues }
      ∧ (t.cpu.back.queues = if s.cpu.front.rc * s.cpu.front.vl = 0 then s.cpu.back.queues
          else (popHeads (scanJob s o).heads s.cpu.back).queues)
      ∧ Retags s t o.vd s.cpu.front.rc (vtagOf s o.vd)
      ∧ HoldsGroup s t o.vd (vtagOf s o.vd) s.cpu.front.rc s.cpu.front.vl (fun r c => ((scanned s o r).map (scanCell o)).getD c none)
      ∧ (o.mod.val ≠ 2 → t.cpu.back.m = s.cpu.back.m) := by
  have hheads : TakesHeads [o.va, o.vb] s.cpu.front.rc (scanJob s o).heads := takesHeads_wholeHeads o _
  have hready : ∀ r ∈ [o.va, o.vb], SourceReady s r s.cpu.front.rc := by simpa using ⟨hva, hvb⟩
  obtain ⟨t, ht, hx, hret, htags, hback⟩ := wholeStep_spec (s := s) (i := .vscan o) (j := scanJob s o)
    (tags := (s.cpu.front.retagDst o.vd s.cpu.front.rc (vtagOf s o.vd)).vtag) rfl rfl (dstOf_dstTag hd)
    (fun _ => shortHeads_eq_nil hheads hready) rfl
  have hbody : exec (.vscan o) s = .next (if s.cpu.front.rc = 0 || s.cpu.front.vl = 0 then s.finish (.vscan o)
        { s.cpu.front with vtag := (s.cpu.front.retagDst o.vd s.cpu.front.rc (vtagOf s o.vd)).vtag }
      else s.wholeJob (.vscan o) (scanJob s o) { s.cpu.front with vtag := (s.cpu.front.retagDst o.vd s.cpu.front.rc (vtagOf s o.vd)).vtag }) := by
    refine congrArg Host.Outcome.next ((redChecks_eq hs hd hok hva hvb hfd).trans ?_)
    dsimp only
    rw [srcLanes_of_none hs.2.1]
    rfl
  obtain ⟨hsides, hlanes, hmasks, hqueues⟩ := back_of_wholeStep hback
  refine ⟨t, hbody.trans (congrArg Host.Outcome.next ht), hx, by rw [htags]; exact hret, hsides, ?_, retags_of_vtag hd htags,
    holdsGroup_of_putTile hs.2.2.2.2.2 ?_, fun hm => masks_of_no_flags hm hmasks⟩
  · rw [hqueues]
    exact if_congr Iff.rfl rfl (queues_popHeads _ rfl)
  · rw [hlanes]
    split
    next h0 => exact (tileLoop_empty _ _ h0).symm
    next =>
      refine upto_rowLanes _ _ _ fun r hr => ?_
      rw [scanRow_vals]
      exact eq_map_getD (by rw [List.length_map, length_scanned hva hr])

/-- The row of VREDCOL has vl elements. -/
theorem length_colRow {s : State} {o : VOps} (hva : SourceReady s o.va s.cpu.front.rc) (hvb : SourceReady s o.vb (min s.cpu.front.rc 1))
    (hrc : s.cpu.front.rc ≠ 0) : (colRow o s.cpu.front s.cpu.back.v s.cpu.back.m s.cpu.back).vals.length = s.cpu.front.vl := by
  have hloop (n : Nat) (hn : n ≤ s.cpu.front.rc) (acc : List (Part32 × Bool)) (hacc : acc.length = s.cpu.front.vl) :
      ((List.range n).foldl (fun acc r =>
        (acc.zip ((srcRow s.cpu.back.v s.cpu.back s.cpu.front o.va r r s.cpu.front.vl).zip
          (predRow s.cpu.back.m o (o.mod.val = 2) r s.cpu.front.vl))).map (fun e =>
          if e.2.2 then
            (sumFold (sumMode (s.cpu.front.srcTag o.va)) e.1.1 (tval (s.cpu.front.srcTag o.va) e.2.1, false),
              e.1.2 || (tval (s.cpu.front.srcTag o.va) e.2.1).isNan)
          else e.1)) acc).length = s.cpu.front.vl := by
    induction n with
    | zero => exact hacc
    | succ n ih =>
      rw [List.range_succ, List.foldl_append, List.foldl_cons, List.foldl_nil, srcRow_eq_map _ hva (by omega), predRow_eq_map_active]
      simp [ih (by omega)]
  unfold colRow
  dsimp only
  rw [List.length_map, List.length_map]
  refine hloop _ le_rfl _ ?_
  rw [srcRow_eq_map _ hvb (by omega)]
  simp

/-- What VREDCOL leaves. -/
theorem vredcol_spec {o : VOps} {s : State} (hs : Begins s) (hd : o.vd.val < 28)
    (hok : sumTags (s.cpu.front.srcTag o.va) (s.cpu.front.srcTag o.vb) (vtagOf s o.vd) = true)
    (hva : SourceReady s o.va s.cpu.front.rc) (hvb : SourceReady s o.vb (min s.cpu.front.rc 1))
    (hfd : Fits s o.vd (min s.cpu.front.rc 1) (vtagOf s o.vd)) :
    ∃ t, exec (.vredcol o) s = .next t ∧ KeepsX s t ∧ RetiresOnly s t { past s t 4 with vtag := t.cpu.front.vtag, vstart := 0 }
      ∧ t.cpu.back = { s.cpu.back with v := t.cpu.back.v, m := t.cpu.back.m, queues := t.cpu.back.queues }
      ∧ (t.cpu.back.queues = if s.cpu.front.rc * s.cpu.front.vl = 0 then s.cpu.back.queues
          else (popHeads (colJob s o).heads s.cpu.back).queues)
      ∧ Retags s t o.vd (min s.cpu.front.rc 1) (vtagOf s o.vd)
      ∧ HoldsGroup s t o.vd (vtagOf s o.vd) (min s.cpu.front.rc 1) s.cpu.front.vl
          (fun _ c => (colRow o s.cpu.front s.cpu.back.v s.cpu.back.m s.cpu.back).vals.getD c none)
      ∧ (o.mod.val ≠ 2 → t.cpu.back.m = s.cpu.back.m) := by
  have hshort (h0 : s.cpu.front.rc * s.cpu.front.vl ≠ 0) : shortHeads s.cpu.back (colJob s o).heads = [] := by
    have hrc : s.cpu.front.rc ≠ 0 := (Nat.mul_ne_zero_iff.1 h0).1
    have hrowsA (q : Nat) (h : headOf o.va = some q) : s.cpu.front.rc ≤ (s.cpu.back.queue q).rows.length := by
      unfold headOf at h
      split at h
      · cases h
        exact rows_of_sourceReady hva (by omega)
      · cases h
    have hrowsB (q : Nat) (h : headOf o.vb = some q) : 1 ≤ (s.cpu.back.queue q).rows.length := by
      unfold headOf at h
      split at h
      · cases h
        have := rows_of_sourceReady hvb (by omega)
        omega
      · cases h
    unfold shortHeads
    rw [List.map_eq_nil_iff, List.filter_eq_nil_iff]
    intro e he
    have hle : e.2 ≤ (s.cpu.back.queue e.1).rows.length := by
      unfold colJob wholeHeads at he
      dsimp only at he
      rw [if_pos rfl] at he
      cases hA : headOf o.va with
      | none =>
        rw [hA] at he
        cases hB : headOf o.vb with
        | none => rw [hB] at he; cases he
        | some q => rw [hB] at he; rw [List.mem_singleton.1 he]; exact hrowsB q hB
      | some p =>
        rw [hA] at he
        cases hB : headOf o.vb with
        | none => rw [hB] at he; rw [List.mem_singleton.1 he]; exact hrowsA p hA
        | some q =>
          rw [hB] at he
          dsimp only at he
          split at he
          · rw [List.mem_singleton.1 he]
            exact (max_eq_left (by omega : 1 ≤ s.cpu.front.rc)).le.trans (hrowsA p hA)
          · simp only [List.mem_cons, List.not_mem_nil, or_false] at he
            rcases he with rfl | rfl
            · exact hrowsA p hA
            · exact hrowsB q hB
    simp only [decide_eq_true_eq]
    omega
  obtain ⟨t, ht, hx, hret, htags, hback⟩ := wholeStep_spec (s := s) (i := .vredcol o) (j := colJob s o) (n := 1)
    (row := fun _ => colRow o s.cpu.front s.cpu.back.v s.cpu.back.m s.cpu.back)
    (tags := (s.cpu.front.retagDst o.vd (min s.cpu.front.rc 1) (vtagOf s o.vd)).vtag) rfl rfl (dstOf_dstTag hd) hshort rfl
  have hbody : exec (.vredcol o) s = .next (if s.cpu.front.rc = 0 || s.cpu.front.vl = 0 then s.finish (.vredcol o)
        { s.cpu.front with vtag := (s.cpu.front.retagDst o.vd (min s.cpu.front.rc 1) (vtagOf s o.vd)).vtag }
      else s.wholeJob (.vredcol o) (colJob s o)
        { s.cpu.front with vtag := (s.cpu.front.retagDst o.vd (min s.cpu.front.rc 1) (vtagOf s o.vd)).vtag }) := by
    refine congrArg Host.Outcome.next ((redChecks_eq hs hd hok hva hvb hfd).trans ?_)
    dsimp only
    rw [srcLanes_of_none hs.2.1]
    rfl
  obtain ⟨hsides, hlanes, hmasks, hqueues⟩ := back_of_wholeStep hback
  refine ⟨t, hbody.trans (congrArg Host.Outcome.next ht), hx, by rw [htags]; exact hret, hsides, ?_, retags_of_vtag hd htags,
    holdsGroup_of_putTile hs.2.2.2.2.2 ?_, fun hm => masks_of_no_flags hm hmasks⟩
  · rw [hqueues]
    exact if_congr Iff.rfl rfl (queues_popHeads _ rfl)
  · rw [hlanes]
    split
    next h0 =>
      refine (tileLoop_empty _ _ ?_).symm
      rcases Nat.mul_eq_zero.1 h0 with h | h
      · rw [h, Nat.zero_min, Nat.zero_mul]
      · rw [h, Nat.mul_zero]
    next h0 =>
      have hrc : s.cpu.front.rc ≠ 0 := (Nat.mul_ne_zero_iff.1 h0).1
      rw [show min s.cpu.front.rc 1 = 1 by omega]
      exact upto_rowLanes _ _ _ fun r _ => eq_map_getD (length_colRow hva hvb hrc)

/-- The rows that VREDCOL takes from its heads: all of va's, one of vb's (R42, R151). -/
theorem loses_colJob {s t : State} {o : VOps} (h : t.cpu.back.queues = if s.cpu.front.rc * s.cpu.front.vl = 0 then s.cpu.back.queues
      else (popHeads (colJob s o).heads s.cpu.back).queues) {q : Nat} (hq : q < 4) :
    Loses s t q (if s.cpu.front.vl = 0 then 0 else if o.va.val = 28 + q then s.cpu.front.rc
      else if o.vb.val = 28 + q then min s.cpu.front.rc 1 else 0) := by
  unfold Loses Back.queue
  by_cases h0 : s.cpu.front.rc * s.cpu.front.vl = 0
  · have hnone : (if s.cpu.front.vl = 0 then 0 else if o.va.val = 28 + q then s.cpu.front.rc
        else if o.vb.val = 28 + q then min s.cpu.front.rc 1 else 0) = 0 := by
      rcases Nat.mul_eq_zero.1 h0 with hz | hz
      · simp [hz]
      · rw [if_pos hz]
    rw [h, if_pos h0, hnone]
    exact ⟨rfl, rfl, rfl⟩
  · obtain ⟨hrc, hvl⟩ := Nat.mul_ne_zero_iff.1 h0
    obtain ⟨hrows, hpart, hsub⟩ := loses_popHeads (colJob s o).heads s.cpu.back (k := q) (by omega)
    rw [h, if_neg h0]
    refine ⟨hrows.trans (congrArg (fun n => List.drop n _) ?_), hpart, hsub⟩
    have hA := o.va.isLt
    have hB := o.vb.isLt
    unfold colJob wholeHeads headOf
    dsimp only
    rw [if_neg hvl, if_pos rfl]
    have hone : min s.cpu.front.rc 1 = 1 := by omega
    have hmax : max s.cpu.front.rc 1 = s.cpu.front.rc := by omega
    have hhead (v : Nat) (hv : 28 ≤ v) : (v - 28 == q) = decide (v = 28 + q) := by
      rw [Bool.eq_iff_iff, beq_iff_eq, decide_eq_true_eq]
      omega
    by_cases ha : 28 ≤ o.va.val
    · rw [if_pos ha]
      by_cases hb : 28 ≤ o.vb.val
      · rw [if_pos hb]
        dsimp only
        by_cases hsame : o.va.val - 28 = o.vb.val - 28
        · rw [if_pos hsame]
          by_cases hq' : o.va.val = 28 + q
          · simp [hq', hmax]
          · simp [hhead _ ha, hq', show o.vb.val ≠ 28 + q by omega]
        · rw [if_neg hsame]
          by_cases hq' : o.va.val = 28 + q
          · simp [hhead _ hb, hq', show o.vb.val ≠ 28 + q by omega]
          · by_cases hq'' : o.vb.val = 28 + q <;> simp [hhead _ ha, hhead _ hb, hq', hq'', hone]
      · rw [if_neg hb]
        by_cases hq' : o.va.val = 28 + q <;> simp [hhead _ ha, hq', show o.vb.val ≠ 28 + q by omega]
    · rw [if_neg ha]
      by_cases hb : 28 ≤ o.vb.val
      · rw [if_pos hb]
        by_cases hq'' : o.vb.val = 28 + q <;> simp [hhead _ hb, hq'', hone, show o.va.val ≠ 28 + q by omega]
      · rw [if_neg hb]
        simp [show o.va.val ≠ 28 + q by omega, show o.vb.val ≠ 28 + q by omega]

/-- Each instruction of the table runs as a row reduction. -/
theorem exec_of_redForm {i : Instr} {o : VOps} {sc : Bool} {ok : Tag → Tag → Tag → Bool} {g : RedFn} (s : State)
    (h : redForm i = some (o, sc, ok, g)) :
    exec i s = .next (rowReduction i o sc ok g s) ∧ keepsVstart i = false ∧ i.len = 4 := by
  cases i with
  | vredsum | vredmax | vredmin | vredand | vredor | vredsc => cases h; exact ⟨rfl, rfl, rfl⟩
  | _ => cases h

/-- Settles O32. -/
theorem rowReductions : Obligations.RowReductions := by
  unfold Obligations.RowReductions
  refine ⟨fun i o sc ok g s hform hs hd hok hva hvb hfd hv => ?_, fun o s hs hd hok hva hv => ⟨fun hvb hfd => ?_, fun hvb hfd => ?_⟩⟩
  · obtain ⟨hexec, hi, hlen⟩ := exec_of_redForm s hform
    obtain ⟨t, ht, hx, hret, htags, hback, hgroup, hmasks⟩ := rowReduction_spec (g := g) (sc := sc) hs hd hok hva hvb hfd hi hlen
    exact ⟨t, hexec.trans (congrArg Host.Outcome.next ht), hx, hret, back_eq_of_rows hback,
      consumes_rowsBack (rowsGo_redJob hd hva hvb) rfl hback, htags, hgroup, hmasks⟩
  · obtain ⟨t, ht, hx, hret, hsides, hqueues, htags, hgroup, hmasks⟩ := vscan_spec hs hd hok hva hvb hfd
    refine ⟨t, ht, hx, hret, hsides, consumes_of_wholeStep (takesHeads_wholeHeads o _) hqueues rfl, htags, ?_, hmasks⟩
    simp only [scanRow_vals]
    exact hgroup
  · obtain ⟨t, ht, hx, hret, hsides, hqueues, htags, hgroup, hmasks⟩ := vredcol_spec hs hd hok hva hvb hfd
    exact ⟨t, ht, hx, hret, hsides, fun q hq => loses_colJob hqueues hq, htags, hgroup, hmasks⟩

end Sys2Proof.Claims
end

section
/-! PROOF. Reductions, scans and column sums of integers are exact (R145 to R147, R150, R151). -/

namespace Sys2Proof.Claims

open Sys2Proof Sys2Proof.Machine

/-! Sums of integers, absent ones left out. -/

/-- The exact values of integers, none where one is absent. -/
def intVals (l : List (Option Int)) : List (Option Ex) := l.map (Option.map Ex.int)

/-- The sum of the integers that are there. -/
def total (l : List (Option Int)) : Int := (l.filterMap id).sum

theorem total_append (a b : List (Option Int)) : total (a ++ b) = total a + total b := by
  unfold total
  rw [List.filterMap_append, List.sum_append]

theorem total_range (n : Nat) (p : Nat → Bool) (v : Nat → Int) :
    total ((List.range n).map (fun c => if p c then some (v c) else none)) = (((List.range n).filter p).map v).sum := by
  unfold total
  congr 1
  induction List.range n with
  | nil => rfl
  | cons c l ih =>
    rw [List.map_cons, List.filter_cons]
    cases h : p c
    · simpa using ih
    · simpa using ih

theorem foldl_add_int (l : List Int) {x : Ex} {z : Int} (hx : IsInt x z) :
    ∃ y, (l.map Ex.int).foldl (fun a x => match a with
      | none => some x
      | some y => some (y.add 0 x)) (some x) = some y ∧ IsInt y (z + l.sum) := by
  induction l generalizing x z with
  | nil => exact ⟨x, rfl, by simpa using hx⟩
  | cons a l ih =>
    obtain ⟨y, hy, hsum⟩ := ih (hx.add 0 (isInt_int a))
    exact ⟨y, hy, by rwa [List.sum_cons, ← add_assoc]⟩

/-- The value of a block of integers: none where all are absent (R97). -/
theorem blockValue_int (l : List (Option Int)) :
    (l.filterMap id = [] ∧ blockValue .int (intVals l) = none)
      ∨ ∃ x, blockValue .int (intVals l) = some (x, false) ∧ IsInt x (total l) := by
  have hpresent : (intVals l).filterMap id = (l.filterMap id).map Ex.int := by
    unfold intVals
    rw [List.filterMap_map, List.map_filterMap]
    rfl
  unfold blockValue
  dsimp only
  rw [hpresent]
  cases hl : l.filterMap id with
  | nil => exact Or.inl ⟨rfl, rfl⟩
  | cons a as =>
    obtain ⟨y, hy, hsum⟩ := foldl_add_int as (isInt_int a)
    refine Or.inr ⟨y, ?_, ?_⟩
    · rw [if_neg (by simp)]
      exact congrArg (fun w : Option Ex => some (w.getD (.zero false), false)) hy
    · unfold total
      rwa [hl, List.sum_cons]

/-- A block added to a sum. -/
theorem sumBlock_int (l : List (Option Int)) {acc : Part32} {z : Int} (h : IsInt acc.1 z) :
    IsInt (match blockValue .int (intVals l) with
      | some x => sumFold .int acc x
      | none => acc).1 (z + total l) := by
  rcases blockValue_int l with ⟨hnil, hv⟩ | ⟨x, hv, hx⟩
  · rw [hv]
    unfold total
    rw [hnil]
    simpa using h
  · rw [hv]
    exact h.add 0 hx

/-- The blocks of a row of integers. -/
def intBlocks (l : List (Option Int)) : List (List (Option Int)) :=
  (List.range (cdiv l.length 32)).map (fun j => (l.drop (32 * j)).take 32)

theorem blocks32_intVals (l : List (Option Int)) : blocks32 (intVals l) = (intBlocks l).map intVals := by
  unfold blocks32 intBlocks intVals
  rw [List.length_map, List.map_map]
  refine List.map_congr_left fun j _ => ?_
  dsimp only [Function.comp]
  rw [List.map_take, List.map_drop]

theorem flatten_intBlocks (l : List (Option Int)) : (intBlocks l).flatten = l := by
  refine flatten_blocks _ l ?_
  unfold cdiv
  omega

theorem sumBlocks_int (bs : List (List (Option Int))) {acc : Part32} {z : Int} (h : IsInt acc.1 z) :
    IsInt ((bs.map intVals).foldl (fun acc b => match blockValue .int b with
      | some x => sumFold .int acc x
      | none => acc) acc).1 (z + total bs.flatten) := by
  induction bs generalizing acc z with
  | nil => simpa [total] using h
  | cons b bs ih =>
    rw [List.flatten_cons, total_append, ← add_assoc]
    exact ih (sumBlock_int b h)

/-- The fold of a row of integers is its sum, whatever the blocks (R146). -/
theorem rowFold_int (l : List (Option Int)) (c : Int) : IsInt (rowFold .int (intVals l) (Ex.int c)).1 (c + total l) := by
  unfold rowFold
  rw [blocks32_intVals]
  have h := sumBlocks_int (intBlocks l) (acc := (Ex.int c, false)) (isInt_int c)
  rwa [flatten_intBlocks] at h

theorem sumWrite_int {kd : Tag} (hkd : tagIsInt kd = true) (sat nanIn : Bool) {p : Part32} {z : Int} (h : IsInt p.1 z) :
    (sumWrite kd sat nanIn p).1 = (intWrite kd sat z).1 := tagWrite_int hkd 0 sat h

/-! The elements a reduction reads. -/

theorem presentRow_int {s : State} {o : VOps} (hint : tagIsInt (vtagOf s o.va) = true) (act : Nat → Bool) (r n : Nat) :
    presentRow (vtagOf s o.va) ((List.range n).map (el s o.va r)) ((List.range n).map act)
      = intVals ((List.range n).map (fun c => if act c then some (intOf (vtagOf s o.va) (el s o.va r c)) else none)) := by
  unfold presentRow intVals
  rw [List.zip_map', List.map_map, List.map_map]
  refine List.map_congr_left fun c _ => ?_
  dsimp only [Function.comp]
  rw [tval_of_int hint, intOf_eq_tint]
  split <;> rfl

theorem srcRowOf_reg {s : State} {r : Reg} (hr : r.val < 28) (row : Nat) : srcRowOf s r row = (List.range s.cpu.front.vl).map (el s r row) := by
  unfold srcRowOf
  refine List.map_congr_left fun c _ => ?_
  unfold srcEl
  rw [if_pos hr]

theorem headD_row (n : Nat) (f : Nat → Nat) (h : 0 < n) : ((List.range n).map f).headD 0 = f 0 := by
  obtain ⟨n, rfl⟩ : ∃ m, n = m + 1 := ⟨n - 1, by omega⟩
  rw [List.range_succ_eq_map]
  rfl

theorem sumMode_int {t : Tag} (h : tagIsInt t = true) : sumMode t = .int := if_pos h

theorem redActive_false (s : State) (o : VOps) (r : Nat) : redActive s o false r = activeAt s o r := by
  funext c
  unfold redActive activeAt pmAt
  cases decide (o.pm.val = 0) <;> cases decide (o.mod.val = 2) <;> cases maskBit s.cpu.back.m o.pm.val r c <;> rfl

/-! VREDSUM, VREDMAX and VREDMIN (R146, R147). -/

section
variable {s : State} {o : VOps} (ha : o.va.val < 28) (hb : o.vb.val < 28) (hint : tagIsInt (vtagOf s o.va) = true)
  (hkd : tagIsInt (vtagOf s o.vd) = true) (hsame : vtagOf s o.vb = vtagOf s o.vd)
include ha hb hint hkd hsame

theorem redValue_sum (r : Nat) (hvl : 0 < s.cpu.front.vl) : (redValue s o false redSum r).1
    = (intWrite (vtagOf s o.vd) (decide (o.mod.val = 1)) (intOf (vtagOf s o.vb) (el s o.vb r 0) + activeSum s o r s.cpu.front.vl)).1 := by
  unfold redValue redSum
  dsimp only
  rw [srcTag_of_lt ha, srcTag_of_lt hb, srcRowOf_reg ha, srcRowOf_reg hb, headD_row _ _ hvl, redActive_false, presentRow_int hint,
    tval_of_int (by rw [hsame]; exact hkd), sumMode_int hint]
  rw [sumWrite_int hkd _ _ (rowFold_int _ _), total_range, intOf_eq_tint]
  rfl

theorem redValue_pick {pick : Ex → Ex → Ex} {op : Int → Int → Int} (hpick : ∀ a b, pick (Ex.int a) (Ex.int b) = Ex.int (op a b)) (r : Nat)
    (hvl : 0 < s.cpu.front.vl) : (redValue s o false (redPick pick) r).1
      = (intWrite (vtagOf s o.vd) (decide (o.mod.val = 1)) (((List.range s.cpu.front.vl).filter (activeAt s o r)).foldl
          (fun a c => op a (intOf (vtagOf s o.va) (el s o.va r c))) (intOf (vtagOf s o.vb) (el s o.vb r 0)))).1 := by
  have hfold (l : List Nat) (a : Int) : (intVals (l.map (fun c => if activeAt s o r c then some (intOf (vtagOf s o.va) (el s o.va r c)) else none))).foldl
      (fun a x => match x with
        | some y => pick a y
        | none => a) (Ex.int a) = Ex.int ((l.filter (activeAt s o r)).foldl (fun a c => op a (intOf (vtagOf s o.va) (el s o.va r c))) a) := by
    induction l generalizing a with
    | nil => rfl
    | cons c l ih =>
      rw [List.filter_cons]
      cases h : activeAt s o r c
      · simpa [intVals, h] using ih a
      · simpa [intVals, h, hpick] using ih (op a (intOf (vtagOf s o.va) (el s o.va r c)))
  unfold redValue redPick arithWrite resultWrite
  dsimp only
  rw [srcTag_of_lt ha, srcTag_of_lt hb, srcRowOf_reg ha, srcRowOf_reg hb, headD_row _ _ hvl, redActive_false, presentRow_int hint,
    tval_of_int (by rw [hsame]; exact hkd), ← intOf_eq_tint, hint, Bool.not_true, Bool.and_false, Bool.false_and,
    if_neg Bool.false_ne_true]
  exact (congrArg (fun x => (tagWrite (vtagOf s o.vd) s.cpu.front.rmode.toNat (!false && decide (o.mod.val = 1)) false x).1) (hfold _ _)).trans
    (tagWrite_int hkd _ _ (isInt_int _))

end

/-! VSCAN (R150). -/

/-- Results `res` hold, where `l` has an integer, the sum of `z` and the integers of `l` up to there. -/
def Scans (kd : Tag) (sat : Bool) (z : Int) (l : List (Option Int)) (res : List (Option (Nat × Bool))) : Prop :=
  res.length = l.length ∧ ∀ k x, l[k]? = some (some x) →
    ∃ w, res[k]? = some (some w) ∧ w.1 = (intWrite kd sat (z + total (l.take (k + 1)))).1

theorem Scans.append {kd : Tag} {sat : Bool} {z : Int} {a b : List (Option Int)} {ra rb : List (Option (Nat × Bool))}
    (ha : Scans kd sat z a ra) (hb : Scans kd sat (z + total a) b rb) : Scans kd sat z (a ++ b) (ra ++ rb) := by
  obtain ⟨hla, hra⟩ := ha
  obtain ⟨hlb, hrb⟩ := hb
  refine ⟨by rw [List.length_append, List.length_append, hla, hlb], fun k x hk => ?_⟩
  by_cases hin : k < a.length
  · rw [List.getElem?_append_left hin] at hk
    obtain ⟨w, hw, hval⟩ := hra k x hk
    refine ⟨w, by rw [List.getElem?_append_left (by omega), hw], ?_⟩
    rw [hval, List.take_append_of_le_length (by omega)]
  · rw [List.getElem?_append_right (by omega)] at hk
    obtain ⟨w, hw, hval⟩ := hrb _ x hk
    refine ⟨w, by rw [List.getElem?_append_right (by omega), hla, hw], ?_⟩
    rw [hval, List.take_append, List.take_of_length_le (by omega : a.length ≤ k + 1), total_append, ← add_assoc,
      show k - a.length + 1 = k + 1 - a.length by omega]

/-- One block of a scan of integers. -/
theorem scans_scanBlock {kd : Tag} (hkd : tagIsInt kd = true) (sat nan : Bool) (l : List (Option Int)) {acc : Part32} {z : Int}
    (h : IsInt acc.1 z) : Scans kd sat z l (scanBlock .int kd sat acc nan (intVals l)) := by
  refine ⟨by simp [scanBlock, intVals], fun k x hk => ?_⟩
  have hlen : k < l.length := (List.getElem?_eq_some_iff.1 hk).1
  have htake : (intVals l).take (k + 1) = intVals (l.take (k + 1)) := by
    unfold intVals
    rw [List.map_take]
  have hat : (intVals l).getD k none = some (Ex.int x) := by
    unfold intVals
    rw [List.getD_eq_getElem?_getD, List.getElem?_map, hk]
    rfl
  have hpresent : (l.take (k + 1)).filterMap id ≠ [] := by
    intro hnil
    have hmem : some x ∈ l.take (k + 1) := List.mem_of_getElem? (i := k) (by rw [List.getElem?_take, if_pos (by omega), hk])
    have : x ∈ (l.take (k + 1)).filterMap id := List.mem_filterMap.2 ⟨some x, hmem, rfl⟩
    rw [hnil] at this
    cases this
  obtain ⟨y, hy, hsum⟩ := (blockValue_int (l.take (k + 1))).resolve_left fun h => hpresent h.1
  have hcell : (scanBlock .int kd sat acc nan (intVals l))[k]? = some (some (sumWrite kd sat
      (nan || nanMet ((intVals l).take (k + 1)) (.zero false)) (sumFold .int acc (y, false)))) := by
    unfold scanBlock
    rw [List.getElem?_map, List.getElem?_range (by simpa [intVals] using hlen), Option.map_some]
    dsimp only
    rw [hat, htake, hy]
  exact ⟨_, hcell, sumWrite_int hkd _ _ (h.add 0 hsum)⟩

theorem scans_scanSteps {kd : Tag} (hkd : tagIsInt kd = true) (sat : Bool) (bs : List (List (Option Int)))
    (st : Part32 × Bool × List (Option (Nat × Bool))) {z : Int} (h : IsInt st.1.1 z) :
    ∃ res, ((bs.map intVals).foldl (scanStep .int kd sat) st).2.2 = st.2.2 ++ res ∧ Scans kd sat z bs.flatten res := by
  induction bs generalizing st z with
  | nil => exact ⟨[], (List.append_nil _).symm, rfl, nofun⟩
  | cons b bs ih =>
    obtain ⟨res, hres, hscan⟩ := ih (scanStep .int kd sat st (intVals b)) (sumBlock_int b h)
    refine ⟨scanBlock .int kd sat st.1 st.2.1 (intVals b) ++ res, ?_, (scans_scanBlock hkd sat _ b h).append hscan⟩
    rw [List.map_cons, List.foldl_cons, hres, ← List.append_assoc]
    rfl

/-- The integers that row `r` of a scan reads. -/
def scanInts (s : State) (o : VOps) (r : Nat) : List (Option Int) :=
  (List.range s.cpu.front.vl).map (fun c => if activeAt s o r c then some (intOf (vtagOf s o.va) (el s o.va r c)) else none)

section
variable {s : State} {o : VOps} (ha : o.va.val < 28) (hb : o.vb.val < 28) (hd : o.vd.val < 28) (hint : tagIsInt (vtagOf s o.va) = true)
  (hkd : tagIsInt (vtagOf s o.vd) = true) (hsame : vtagOf s o.vb = vtagOf s o.vd)
include ha hb hd hint hkd hsame

/-- What a scan of integers leaves at an active column. -/
theorem scanned_int (r c : Nat) (hc : c < s.cpu.front.vl) (hact : activeAt s o r c = true) :
    ((scanned s o r).map (scanCell o)).getD c none
      = some (intWrite (vtagOf s o.vd) (decide (o.mod.val = 1)) (intOf (vtagOf s o.vb) (el s o.vb r 0) + activeSum s o r (c + 1))).1 := by
  have hdt : s.cpu.front.dstTag o.vd = vtagOf s o.vd := if_pos hd
  have hsource : scanSource s o r = intVals (scanInts s o r) := by
    unfold scanSource
    rw [srcTag_of_lt ha, srcRow_reg s _ ha, predRow_eq_map_active, presentRow_int hint]
    rfl
  have hcarry : scanCarry s o r = Ex.int (intOf (vtagOf s o.vb) (el s o.vb r 0)) := by
    unfold scanCarry
    rw [srcRow_reg s _ hb, headD_row _ _ (by omega), hdt, tval_of_int hkd, ← hsame, intOf_eq_tint]
  have hstart : IsInt (scanCarry s o r) (intOf (vtagOf s o.vb) (el s o.vb r 0)) := hcarry ▸ isInt_int _
  obtain ⟨res, hres, -, hscan⟩ := scans_scanSteps hkd (vSat o) (intBlocks (scanInts s o r))
    ((scanCarry s o r, false), (scanCarry s o r).isNan, []) hstart
  have hall : scanned s o r = res := by
    unfold scanned
    rw [hsource, blocks32_intVals, srcTag_of_lt ha, sumMode_int hint, hdt, hres]
    rfl
  rw [flatten_intBlocks] at hscan
  obtain ⟨w, hw, hval⟩ := hscan c (intOf (vtagOf s o.va) (el s o.va r c)) (by
    unfold scanInts
    rw [List.getElem?_map, List.getElem?_range hc, Option.map_some, if_pos hact])
  have htake : total ((scanInts s o r).take (c + 1)) = activeSum s o r (c + 1) := by
    unfold scanInts activeSum
    rw [← List.map_take, List.take_range, show min (c + 1) s.cpu.front.vl = c + 1 by omega, total_range]
  rw [hall, List.getD_eq_getElem?_getD, List.getElem?_map, hw]
  exact congrArg some (hval.trans (by rw [htake]; rfl))

/-- The sums of columns of integers, row by row (R151). -/
theorem colRow_int (c : Nat) (hc : c < s.cpu.front.vl) :
    (colRow o s.cpu.front s.cpu.back.v s.cpu.back.m s.cpu.back).vals.getD c none
      = some (intWrite (vtagOf s o.vd) (decide (o.mod.val = 1)) (intOf (vtagOf s o.vb) (el s o.vb 0 c)
          + (((List.range s.cpu.front.rc).filter (fun r => activeAt s o r c)).map
              (fun r => intOf (vtagOf s o.va) (el s o.va r c))).sum)).1 := by
  have hdt : s.cpu.front.dstTag o.vd = vtagOf s o.vd := if_pos hd
  have hrow (k : Nat) (p : Nat → Part32 × Bool) : ((((List.range s.cpu.front.vl).map p).zip
      ((srcRow s.cpu.back.v s.cpu.back s.cpu.front o.va k k s.cpu.front.vl).zip (predRow s.cpu.back.m o (o.mod.val = 2) k s.cpu.front.vl))).map (fun e =>
        if e.2.2 then
          (sumFold .int e.1.1 (tval (vtagOf s o.va) e.2.1, false), e.1.2 || (tval (vtagOf s o.va) e.2.1).isNan)
        else e.1))
      = (List.range s.cpu.front.vl).map (fun c => if activeAt s o k c then
          (sumFold .int (p c).1 (tval (vtagOf s o.va) (el s o.va k c), false), (p c).2 || (tval (vtagOf s o.va) (el s o.va k c)).isNan)
        else p c) := by
    rw [srcRow_reg s _ ha, predRow_eq_map_active, List.zip_map', List.zip_map', List.map_map]
    rfl
  have hloop (n : Nat) : ∃ p : Nat → Part32 × Bool, (List.range n).foldl (fun acc r =>
      (acc.zip ((srcRow s.cpu.back.v s.cpu.back s.cpu.front o.va r r s.cpu.front.vl).zip (predRow s.cpu.back.m o (o.mod.val = 2) r s.cpu.front.vl))).map (fun e =>
        if e.2.2 then
          (sumFold .int e.1.1 (tval (vtagOf s o.va) e.2.1, false), e.1.2 || (tval (vtagOf s o.va) e.2.1).isNan)
        else e.1)) ((List.range s.cpu.front.vl).map (fun c => ((tval (vtagOf s o.vd) (el s o.vb 0 c), false), (tval (vtagOf s o.vd) (el s o.vb 0 c)).isNan)))
      = (List.range s.cpu.front.vl).map p
      ∧ IsInt (p c).1.1 (intOf (vtagOf s o.vb) (el s o.vb 0 c) + (((List.range n).filter (fun r => activeAt s o r c)).map
              (fun r => intOf (vtagOf s o.va) (el s o.va r c))).sum) := by
    induction n with
    | zero =>
      refine ⟨_, rfl, ?_⟩
      dsimp only
      rw [tval_of_int hkd, hsame, intOf_eq_tint]
      simpa using isInt_int _
    | succ n ih =>
      obtain ⟨p, hp, hsum⟩ := ih
      refine ⟨_, by rw [List.range_succ, List.foldl_append, hp]; exact hrow n p, ?_⟩
      rw [List.range_succ, List.filter_append, List.map_append, List.sum_append, ← add_assoc]
      by_cases hact : activeAt s o n c = true
      · have hv : IsInt (tval (vtagOf s o.va) (el s o.va n c)) (intOf (vtagOf s o.va) (el s o.va n c)) := by
          rw [tval_of_int hint, intOf_eq_tint]
          exact isInt_int _
        rw [if_pos hact, List.filter_cons, if_pos hact]
        simpa [sumFold] using hsum.add 0 hv
      · rw [if_neg hact, List.filter_cons, if_neg hact]
        simpa using hsum
  obtain ⟨p, hp, hsum⟩ := hloop s.cpu.front.rc
  unfold colRow
  dsimp only
  rw [srcTag_of_lt ha, sumMode_int hint, hdt, srcRow_reg s _ hb, List.map_map, List.map_map]
  change (List.map _ ((List.range s.cpu.front.rc).foldl _ _)).getD c none = _
  rw [show (fun p_1 => (((tval (vtagOf s o.vd) p_1, false) : Part32), (tval (vtagOf s o.vd) p_1).isNan)) ∘ el s o.vb 0 = fun c =>
    ((tval (vtagOf s o.vd) (el s o.vb 0 c), false), (tval (vtagOf s o.vd) (el s o.vb 0 c)).isNan) from rfl, hp, List.map_map,
    List.getD_eq_getElem?_getD, List.getElem?_map, List.getElem?_range hc]
  exact congrArg some (sumWrite_int hkd _ _ hsum)

end

/-! The obligation. -/

/-- Reductions of registers change lanes and masks only. -/
theorem retiresVec_of_sides {s t : State} (hx : KeepsX s t) (hret : RetiresOnly s t { past s t 4 with vtag := t.cpu.front.vtag, vstart := 0 })
    (hsides : t.cpu.back = { s.cpu.back with v := t.cpu.back.v, m := t.cpu.back.m, queues := t.cpu.back.queues })
    (hqueues : t.cpu.back.queues = s.cpu.back.queues) : RetiresVec s t :=
  ⟨hx, hret, by rwa [hqueues] at hsides⟩

/-- A written integer in the element it is written to. -/
theorem writesInt_of_holds {s t : State} {vd : Reg} {kd : Tag} {rows n r c : Nat} {val : Nat → Nat → Option Nat} {sat : Bool} {z : Int}
    (h : HoldsGroup s t vd kd rows n val) (hr : r < rows) (hc : c < n) (hval : val r c = some (intWrite kd sat z).1) :
    WritesInt kd sat z (elemAt t vd kd r c) := by
  have hel := h.1 r c hr hc
  rw [hval] at hel
  dsimp only at hel
  rw [hel]
  exact writesInt_intWrite kd sat z

/-- A row reduction of integers whose results are known. -/
theorem rowReduction_int {i : Instr} {o : VOps} {ok : Tag → Tag → Tag → Bool} {g : RedFn} {s : State} {val : Nat → Int} (hs : Begins s)
    (ha : o.va.val < 28) (hb : o.vb.val < 28) (hd : o.vd.val < 28) (hform : redForm i = some (o, false, ok, g))
    (hok : ok (vtagOf s o.va) (vtagOf s o.vb) (vtagOf s o.vd) = true)
    (hfa : Fits s o.va s.cpu.front.rc (vtagOf s o.va)) (hfb : Fits s o.vb s.cpu.front.rc (vtagOf s o.vb))
    (hfd : Fits s o.vd s.cpu.front.rc (vtagOf s o.vd))
    (hval : 0 < s.cpu.front.vl → ∀ r, (redValue s o false g r).1 = (intWrite (vtagOf s o.vd) (decide (o.mod.val = 1)) (val r)).1) :
    ∃ t, exec i s = .next t ∧ RetiresVec s t ∧ ∀ r c, r < s.cpu.front.rc → c < min 1 s.cpu.front.vl →
      WritesInt (vtagOf s o.vd) (decide (o.mod.val = 1)) (val r) (elemAt t o.vd (vtagOf s o.vd) r c) := by
  obtain ⟨hexec, hi, hlen⟩ := exec_of_redForm s hform
  obtain ⟨t, ht, hx, hret, -, hback, hgroup, -⟩ := rowReduction_spec (g := g) (sc := false) (ok := ok) hs hd
    (by rw [srcTag_of_lt ha, srcTag_of_lt hb]; exact hok) (sourceReady_of_fits ha hfa) (sourceReady_of_fits hb hfb) hfd hi hlen
  have hheads : (redJob s o false g).heads = [] := headsOf_of_regs fun r hr => by
    simp only [List.mem_cons, List.not_mem_nil, or_false] at hr
    rcases hr with rfl | rfl
    · exact ha
    · exact hb
  have hdst : (redJob s o false g).dst.appends = 0 := by
    rw [show (redJob s o false g).dst = .reg o.vd.val (vtagOf s o.vd) from dstOf_dstTag hd]
    rfl
  exact ⟨t, hexec.trans (congrArg Host.Outcome.next ht), retiresVec_of_regs hheads hdst hx hret rfl hback,
    fun r c hr hc => writesInt_of_holds hgroup hr hc (congrArg some (hval (by omega) r))⟩

/-- Settles O33, from the exact sums of integers. -/
theorem integerReductions : Obligations.IntegerReductions := by
  unfold Obligations.IntegerReductions
  intro i o rows n val s hform hs ha hb hd hint hkd hsame hva hvd hmod hfa hfb hfd
  have hnoQueues (r : Reg) (hr : r.val < 28) : headOf r = none := headOf_of_lt hr
  have hheads (m : Nat) : wholeHeads o s.cpu.front.rc m true = [] := by
    unfold wholeHeads
    rw [hnoQueues o.va ha, if_pos rfl, hnoQueues o.vb hb]
  have hsum : sumTags (s.cpu.front.srcTag o.va) (s.cpu.front.srcTag o.vb) (vtagOf s o.vd) = true := by
    rw [srcTag_of_lt ha, srcTag_of_lt hb, hsame]
    simp [sumTags, hint, hkd]
  have hmax : maxTags (vtagOf s o.va) (vtagOf s o.vb) (vtagOf s o.vd) = true := by
    have hscale (t : Tag) (h : tagIsInt t = true) : tagE8 t = false := by
      unfold tagIsInt at h
      unfold tagE8
      simp only [decide_eq_true_eq] at h
      simp only [decide_eq_false_iff_not]
      omega
    simp [maxTags, hsame, hscale _ hint, hscale _ hkd]
  rw [← hsame] at hfb
  cases i with
  | vredsum =>
    cases hform
    obtain ⟨t, ht, hret, hval⟩ := rowReduction_int (i := .vredsum o) hs ha hb hd rfl (by rw [srcTag_of_lt ha, srcTag_of_lt hb] at hsum; exact hsum) hfa hfb hfd
      fun hvl r => redValue_sum ha hb hint hkd hsame r hvl
    exact ⟨t, ht, hret, fun r c z hr hc hz => by cases hz; exact hval r c hr hc⟩
  | vredmax =>
    cases hform
    obtain ⟨t, ht, hret, hval⟩ := rowReduction_int (i := .vredmax o) hs ha hb hd rfl hmax hfa hfb hfd
      fun hvl r => redValue_pick ha hb hint hkd hsame exMax_int r hvl
    exact ⟨t, ht, hret, fun r c z hr hc hz => by cases hz; exact hval r c hr hc⟩
  | vredmin =>
    cases hform
    obtain ⟨t, ht, hret, hval⟩ := rowReduction_int (i := .vredmin o) hs ha hb hd rfl hmax hfa hfb hfd
      fun hvl r => redValue_pick ha hb hint hkd hsame exMin_int r hvl
    exact ⟨t, ht, hret, fun r c z hr hc hz => by cases hz; exact hval r c hr hc⟩
  | vscan =>
    cases hform
    obtain ⟨t, ht, hx, hret, hsides, hqueues, -, hgroup, -⟩ := vscan_spec hs hd hsum (sourceReady_of_fits ha hfa) (sourceReady_of_fits hb hfb) hfd
    refine ⟨t, ht, retiresVec_of_sides hx hret hsides ?_, fun r c z hr hc hz => ?_⟩
    · rw [hqueues, show (scanJob s o).heads = [] from hheads _]
      exact ite_self _
    · dsimp only at hz
      split at hz
      next hact =>
        cases hz
        exact writesInt_of_holds hgroup hr hc (scanned_int ha hb hd hint hkd hsame r c hc hact)
      next => cases hz
  | vredcol =>
    cases hform
    obtain ⟨t, ht, hx, hret, hsides, hqueues, -, hgroup, -⟩ := vredcol_spec hs hd hsum (sourceReady_of_fits ha hfa) (sourceReady_of_fits hb hfb) hfd
    refine ⟨t, ht, retiresVec_of_sides hx hret hsides ?_, fun r c z hr hc hz => ?_⟩
    · rw [hqueues, show (colJob s o).heads = [] from hheads _]
      exact ite_self _
    · cases hz
      exact writesInt_of_holds hgroup hr hc (colRow_int ha hb hd hint hkd hsame c hc)
  | _ => cases hform

end Sys2Proof.Claims
end

section
/-! PROOF. Outer products read their register operands from the lanes that stood before the instruction (R19, R171): where a hart holds such
lanes beside its registers, they need not be the registers. -/

namespace Sys2Proof.Claims

open Sys2Proof Sys2Proof.Machine Sys2Proof.Tests

/-- In matrix mode a tile of one element; v0 is 0, and the lanes that sources are read from have 1 there. -/
def heldLanes : State :=
  let s := onFront (fun f => { f with mmode := true, rc := 1, vl := 1, mvr := 1, mvc := 1 }) demo
  { s with cpu := { s.cpu with lanes := some (writeElem [] 0 8 0 0 1, []) } }

/-- Element (0, 0) of the tile behind `o`. -/
def cornerAfter (o : Out) : Option W32 :=
  match o with
  | .next t => some (zaAt t 0 0 0)
  | _ => none

theorem cornerAfter_mopa_heldLanes : cornerAfter (exec (.mopa 0 0 0 false false) heldLanes) = some 1 := by
  decide +kernel

theorem heldLanes_ready : heldLanes.cpu.inflight = [] ∧ heldLanes.cpu.front.mmode = true ∧ heldLanes.cpu.front.mvr ≤ 256
    ∧ heldLanes.cpu.front.mvc ≤ 256 ∧ SourceReady heldLanes 0 heldLanes.cpu.front.rc
    ∧ productTags (heldLanes.cpu.front.srcTag 0) (heldLanes.cpu.front.srcTag 0) = true ∧ kindsOf heldLanes 0 = none
    ∧ stepsOf heldLanes 0 + heldLanes.cpu.front.rc ≤ 32 := by
  unfold SourceReady Fits
  decide +kernel

/-- The product of the registers themselves is 0. -/
theorem productAt_heldLanes : zaAt heldLanes 0 0 0 + BitVec.ofInt 32 (((List.range
    (if heldLanes.cpu.front.mvr = 0 ∨ heldLanes.cpu.front.mvc = 0 then 0 else heldLanes.cpu.front.rc)).map (fun st =>
      productAt heldLanes 0 st 0 * productAt heldLanes 0 st 0)).sum) = 0 := by
  decide +kernel

/-- Refutes O41: the statement has MOPA multiply the elements of the registers, but a hart that holds lanes from before its instruction
multiplies those. -/
theorem not_outerProducts : ¬Obligations.OuterProducts := by
  unfold Obligations.OuterProducts
  rintro ⟨⟨-, h⟩, -⟩
  obtain ⟨hin, hmode, hmvr, hmvc, hready, htags, hkinds, hsteps⟩ := heldLanes_ready
  obtain ⟨t, ht, -, -, -, -, -, htiles, -⟩ := h (.mopa 0 0 0 false false) 0 0 0 false heldLanes rfl hin hmode hmvr hmvc hready hready
    htags (.inl hkinds) hsteps
  obtain ⟨hcorner, -⟩ := htiles 0 0 0 (by decide) (by decide) (by decide)
  have hzero : zaAt t 0 0 0 = 0 := (hcorner.trans (if_pos ⟨rfl, by decide +kernel, by decide +kernel⟩)).trans productAt_heldLanes
  have hone := cornerAfter_mopa_heldLanes
  rw [ht] at hone
  have : (some 0 : Option W32) = some 1 := by
    rw [← hzero]
    exact hone
  exact absurd this (by decide)

end Sys2Proof.Claims
end

section
/-! PROOF. Tiles moved to registers, to store rows and back (R167, R175 to R177). -/

namespace Sys2Proof.Claims

open Sys2Proof Sys2Proof.Machine

/-- Element (i, j) of tile `k` after every element inside the grant is written. -/
theorem mget_overTile (m : SMap W32) (g : Nat → Nat → W32 → W32) {k k' mvr mvc i j : Nat} (hr : mvr ≤ 256) (hc : mvc ≤ 256) (hi : i < 256)
    (hj : j < 256) : mget 0 (overTile m k mvr mvc g) (k' * 65536 + i * 256 + j)
      = if k' = k ∧ i < mvr ∧ j < mvc then g i j (mget 0 m (k' * 65536 + i * 256 + j)) else mget 0 m (k' * 65536 + i * 256 + j) := by
  change mget 0 (tileLoop mvr mvc (fun i j m => minsert m (tileKey k i j) (g i j (mget 0 m (tileKey k i j)))) m) _ = _
  unfold tileKey
  by_cases hin : k' = k ∧ i < mvr ∧ j < mvc
  · obtain ⟨rfl, hir, hjc⟩ := hin
    rw [if_pos ⟨rfl, hir, hjc⟩]
    refine tileLoop_at (fun m => mget 0 m (k' * 65536 + i * 256 + j)) (g i j) hir hjc (fun m => ?_) fun r c hr' hc' hne m => ?_
    · rw [mget_minsert, if_pos rfl]
    · exact (mget_minsert _ _ _ _ _).trans (if_neg (by omega))
  · rw [if_neg hin]
    refine tileLoop_frame (fun m => mget 0 m (k' * 65536 + i * 256 + j)) fun r c hr' hc' m => ?_
    exact (mget_minsert _ _ _ _ _).trans (if_neg (by omega))

/-! MRDZ (R175). -/

/-- The value that MRDZ reads for element (r, c). -/
def drainValue (s : State) (vd : Reg) (zf : Nat) (row0 r c : Nat) : Nat :=
  (tagWrite (vtagOf s vd) s.cpu.front.rmode.toNat false true
    (if row0 + r < s.cpu.front.mvr ∧ c < s.cpu.front.mvc then fp32.val (zfAt s zf (row0 + r) c).toNat else .zero false)).1

/-- The job of MRDZ. -/
def drainJob (s : State) (vd : Reg) (zf : Nat) (row0 : Nat) : WholeJob :=
  { heads := [], dst := dstOf vd (vtagOf s vd), outRows := s.cpu.front.rc, outLen := s.cpu.front.vl, flagMask := none
    result := fun b => (List.range s.cpu.front.rc).map (fun r =>
      ⟨(List.range s.cpu.front.vl).map (fun c =>
        let z := if row0 + r < s.cpu.front.mvr && c < s.cpu.front.mvc then
            fp32.val (mget 0 b.zf (tileKey zf (row0 + r) c)).toNat else .zero false
        some (tagWrite (vtagOf s vd) s.cpu.front.rm false true z).1), []⟩) }

theorem execMrdz_eq {vd : Reg} {zf : Fin 2} {xb : Reg} {s : State} (hs : Begins s) (hd : vd.val < 28) (hfd : Fits s vd s.cpu.front.rc (vtagOf s vd))
    (h8 : tagE8 (vtagOf s vd) = false) :
    exec (.mrdz vd zf xb) s = .next (if s.cpu.front.rc = 0 || s.cpu.front.vl = 0 then
        s.finish (.mrdz vd zf xb) { s.cpu.front with vtag := (s.cpu.front.retagDst vd s.cpu.front.rc (vtagOf s vd)).vtag }
      else s.wholeJob (.mrdz vd zf xb) (drainJob s vd zf.val (s.getU xb))
        { s.cpu.front with vtag := (s.cpu.front.retagDst vd s.cpu.front.rc (vtagOf s vd)).vtag }) := by
  have hkd : s.cpu.front.dstTag vd = vtagOf s vd := if_pos hd
  have htile : tileFault s.cpu.front [(vd, vtagOf s vd)] = none :=
    tileFault_eq_none fun e he => by rw [List.mem_singleton.1 he]; exact namesTile_of_fits hfd
  have hgroup : groupFault s.cpu.front [(vd, vtagOf s vd, s.cpu.front.rc)] = none :=
    groupFault_eq_none fun e he _ => by rw [List.mem_singleton.1 he]; exact groupBad_of_fits hfd
  refine congrArg Host.Outcome.next ?_
  dsimp only
  rw [hkd, htile]
  dsimp only
  rw [h8, if_neg Bool.false_ne_true, hgroup]
  dsimp only
  rw [State.inOrderAs_nil s _ _ _ hs.1, retagDst_eq]
  rfl

theorem drainRow_eq (s : State) (vd : Reg) (zf row0 : Nat) :
    (drainJob s vd zf row0).result s.cpu.back = (List.range s.cpu.front.rc).map (fun r =>
      ⟨(List.range s.cpu.front.vl).map (fun c => some (drainValue s vd zf row0 r c)), []⟩) := by
  refine List.map_congr_left fun r _ => ?_
  congr 1
  refine List.map_congr_left fun c _ => ?_
  unfold drainValue
  by_cases h : row0 + r < s.cpu.front.mvr ∧ c < s.cpu.front.mvc
  · rw [if_pos h]
    dsimp only
    rw [if_pos (by simpa using h)]
    rfl
  · rw [if_neg h]
    dsimp only
    rw [if_neg (by simpa using h)]
    rfl

/-- What MRDZ leaves. -/
theorem mrdz_spec {vd : Reg} {zf : Fin 2} {xb : Reg} {s : State} (hs : Begins s) (hd : vd.val < 28) (hfd : Fits s vd s.cpu.front.rc (vtagOf s vd))
    (h8 : tagE8 (vtagOf s vd) = false) :
    ∃ t, exec (.mrdz vd zf xb) s = .next t ∧ KeepsX s t ∧ RetiresTile s t 8 ∧ t.cpu.back.queues = s.cpu.back.queues
      ∧ HoldsTiles t (zaAt s) (zfAt s) ∧ Retags s t vd s.cpu.front.rc (vtagOf s vd)
      ∧ HoldsGroup s t vd (vtagOf s vd) s.cpu.front.rc s.cpu.front.vl (fun r c => some (drainValue s vd zf.val (s.getU xb) r c)) := by
  have hdst : (drainJob s vd zf.val (s.getU xb)).dst = .reg vd.val (vtagOf s vd) := if_pos hd
  obtain ⟨t, ht, hx, hret, htags, hback⟩ := wholeStep_spec (s := s) (i := .mrdz vd zf xb) (j := drainJob s vd zf.val (s.getU xb))
    (tags := (s.cpu.front.retagDst vd s.cpu.front.rc (vtagOf s vd)).vtag) rfl rfl hdst (fun _ => rfl) (drainRow_eq s vd zf.val (s.getU xb))
  obtain ⟨hsides, hlanes, hmasks, hqueues⟩ := back_of_wholeStep hback
  have hm : t.cpu.back.m = s.cpu.back.m := by
    rw [hmasks, show (drainJob s vd zf.val (s.getU xb)).flagMask = none from rfl, upto_rowMasks_none, ite_self]
  have hq : t.cpu.back.queues = s.cpu.back.queues := by
    rw [hqueues]
    exact ite_self _
  have hall : t.cpu.back = { s.cpu.back with v := t.cpu.back.v } := by
    rw [hm, hq] at hsides
    exact hsides
  refine ⟨t, (execMrdz_eq hs hd hfd h8).trans (congrArg Host.Outcome.next ht), hx, ⟨by rw [htags]; exact hret, ?_⟩, hq, fun k i j _ _ _ => ?_,
    retags_of_vtag hd htags, holdsGroup_of_putTile hs.2.2.2.2.2 ?_⟩
  · rw [hall]
  · unfold zaAt zfAt
    rw [hall]
    exact ⟨rfl, rfl⟩
  · rw [hlanes]
    split
    next h0 => exact (tileLoop_empty _ _ h0).symm
    next => exact upto_rowLanes _ _ _ fun _ _ => rfl

/-! MSPILL (R176). -/

/-- Completion with one x register written, behind work on the lanes' side. -/
theorem finish_setX {s u : State} {i : Instr} {d : Reg} {v : W64} {n : Nat} (hi : keepsVstart i = false) (hlen : i.len = n)
    (hu : u = { s with cpu := { s.cpu with back := u.cpu.back, nextId := u.cpu.nextId } }) :
    let t := u.finish i (s.cpu.front.setX d v)
    WritesX s t d v ∧ SameRest s t
      ∧ t.cpu.front = { past s t n with vstart := 0, instret := s.cpu.front.instret + 1, cycle := t.cpu.front.cycle }
      ∧ t.cpu.back = u.cpu.back := by
  intro t
  have ht : t = ({ u with cpu := { u.cpu with lanes := none } }.setFront { s.cpu.front.setX d v with vstart := 0 }).retire n := by
    change u.finish i _ = _
    unfold State.finish vstartAfter
    rw [hi, hlen]
    rfl
  have hx (r : Reg) : t.getX r = (s.setX d v).getX r := by rw [ht]; rfl
  refine ⟨⟨?_, fun r hr => ?_⟩, ?_, ?_, by rw [ht]; rfl⟩
  · rw [hx, State.getX_setX, if_pos rfl]
  · rw [hx, State.getX_setX, if_neg hr]
  · rw [ht, hu]
    exact ⟨rfl, rfl, rfl, fun _ => rfl⟩
  · rw [ht, Front.setX_eq]
    rfl

/-- Rows pushed to a store queue, one after another. -/
def pushed (s : State) (q n : Nat) (row : Nat → List Nat) : State := upto n (fun r s => s.pushRow q (row r)) s

theorem pushed_eq (s : State) (q n : Nat) (row : Nat → List Nat) : pushed s q n row =
    { s with cpu := { s.cpu with back := { s.cpu.back with queues := (pushed s q n row).cpu.back.queues }, nextId := (pushed s q n row).cpu.nextId } } := by
  unfold pushed
  induction n with
  | zero => rfl
  | succ n ih =>
    rw [upto_succ]
    generalize upto n (fun r s => s.pushRow q (row r)) s = u at *
    rw [ih]
    rfl

theorem pushed_back (s : State) (q n : Nat) (row : Nat → List Nat) :
    (pushed s q n row).cpu.back = { s.cpu.back with queues := (pushed s q n row).cpu.back.queues } :=
  congrArg (fun u : State => u.cpu.back) (pushed_eq s q n row)

theorem pushed_state (s : State) (q n : Nat) (row : Nat → List Nat) : pushed s q n row =
    { s with cpu := { s.cpu with back := (pushed s q n row).cpu.back, nextId := (pushed s q n row).cpu.nextId } } := by
  have hall := pushed_eq s q n row
  have hback := pushed_back s q n row
  generalize pushed s q n row = u at *
  rw [← hback] at hall
  exact hall

theorem rowsOf_pushed (s : State) {q : Nat} (hq : q < 6) (n : Nat) (row : Nat → List Nat) :
    rowsOf (pushed s q n row) q = rowsOf s q ++ (List.range n).map row := by
  unfold pushed
  induction n with
  | zero => exact (List.append_nil _).symm
  | succ n ih =>
    rw [upto_succ, List.range_succ, List.map_append, ← List.append_assoc, ← ih]
    unfold rowsOf
    rw [State.pushRow_rows _ _ _ hq, List.map_append]
    rfl

theorem queue_pushed_other (s : State) {q k : Nat} (h : k ≠ q) (n : Nat) (row : Nat → List Nat) :
    (pushed s q n row).cpu.back.queue k = s.cpu.back.queue k :=
  upto_frame (fun s : State => s.cpu.back.queue k) fun r _ s => State.pushRow_other s q k (row r) h

/-- A row of a spilled tile. -/
def spillRow (s : State) (tile : Fin 4) (r : Nat) : List Nat :=
  (List.range s.cpu.front.vl).map (fun c =>
    if c < s.cpu.front.mvc then (if tile.val < 2 then zaAt s tile.val r c else zfAt s (tile.val - 2) r c).toNat else 0)

/-- The register that MSPILL writes: x[c] where the tile is a za tile, none else. -/
def spillDest (tile : Fin 4) (xc : Reg) : Reg := if tile.val < 2 then xc else 0

theorem execMspill_eq {sq : Fin 2} {tile : Fin 4} {xc : Reg} {s : State} (hs : s.cpu.inflight = [])
    (hw : tagW (s.cpu.front.queueTag (4 + sq.val)) = 32) (hmode : tile.val < 2 → s.cpu.front.mmode = true)
    (hroom : s.cpu.front.mvr * rowBytes (s.cpu.front.queueTag (4 + sq.val)) s.cpu.front.vl ≤ s.free (4 + sq.val)) :
    exec (.mspill sq tile xc) s = .next ((pushed s (4 + sq.val) (if s.cpu.front.vl = 0 then 0 else s.cpu.front.mvr) (spillRow s tile)).finish
      (.mspill sq tile xc) (s.cpu.front.setX (spillDest tile xc) (tileWord s tile.val))) := by
  have hcont : (if tile.val < 2 then s.cpu.front.setX xc (tileDescriptor s.cpu.back (tile.val % 2)) else s.cpu.front)
      = s.cpu.front.setX (spillDest tile xc) (tileWord s tile.val) := by
    unfold spillDest
    split
    next ht => rw [show tile.val % 2 = tile.val by omega]; rfl
    next => rfl
  have hrow : (fun r : Nat => (List.range s.cpu.front.vl).map (fun c =>
      if c < s.cpu.front.mvc then (mget 0 (if tile.val < 2 then s.cpu.back.za else s.cpu.back.zf) (tileKey (tile.val % 2) r c)).toNat else 0))
      = spillRow s tile := by
    funext r
    unfold spillRow
    refine List.map_congr_left fun c _ => ?_
    split
    · by_cases ht : tile.val < 2
      · rw [if_pos ht, if_pos ht, show tile.val % 2 = tile.val by omega]
        rfl
      · rw [if_neg ht, if_neg ht, show tile.val % 2 = tile.val - 2 by have := tile.isLt; omega]
        rfl
    · rfl
  refine congrArg Host.Outcome.next ?_
  rw [State.inOrder_nil _ _ _ hs]
  dsimp only
  rw [hw, if_neg (by decide), if_neg (by simpa using hmode), hcont]
  by_cases hvl : s.cpu.front.vl = 0
  · rw [if_pos hvl, if_pos hvl]
    rfl
  · rw [if_neg hvl, if_neg hvl, if_neg (by omega), ← hrow]
    rfl

/-! MFILL (R177). -/

/-- The bits of a tile that MFILL takes from the rows of a queue. -/
def filledBits (s : State) (q r c : Nat) : W32 := BitVec.ofNat 32 (queueElem s q r c)

theorem queueElem_eq (s : State) (q r c : Nat) : (match (s.cpu.back.queue q).rows[r]? with
    | some x => x.elems.getD c 0
    | none => 0) = queueElem s q r c := by
  unfold queueElem rowsOf
  rw [List.getD_eq_getElem?_getD (l := List.map _ _), List.getElem?_map]
  cases (s.cpu.back.queue q).rows[r]? <;> rfl

/-- The lanes' side behind MFILL, but for the rows it has taken. -/
def filledBack (s : State) (tile lq : Fin 4) (xc : Reg) : Back :=
  if tile.val < 2 then
    { s.cpu.back with
      za := overTile s.cpu.back.za tile.val s.cpu.front.mvr s.cpu.front.mvc (fun r c _ => filledBits s lq.val r c)
      zsteps := vput s.cpu.back.zsteps tile.val (s.getU xc / 2 ^ 18 % 64)
      zkinds := vput s.cpu.back.zkinds tile.val (if (s.getX xc).getLsbD 24 then
        some (BitVec.ofNat 16 (s.getU xc % 512), BitVec.ofNat 16 (s.getU xc / 512 % 512)) else none) }
  else { s.cpu.back with
    zf := overTile s.cpu.back.zf (tile.val - 2) s.cpu.front.mvr s.cpu.front.mvc (fun r c _ => filledBits s lq.val r c) }

/-- What MFILL asks of the descriptor in x[c] where it fills a za tile (R177). -/
def FillOk (s : State) (tile : Fin 4) (xc : Reg) : Prop :=
  tile.val < 2 → s.cpu.front.mmode = true ∧ s.getU xc < 2 ^ 25 ∧ s.getU xc / 2 ^ 18 % 64 ≤ 32
    ∧ ((s.getX xc).getLsbD 24 = false → s.getU xc / 2 ^ 18 % 64 = 0)
    ∧ ((s.getX xc).getLsbD 24 = true → tagValid (BitVec.ofNat 16 (s.getU xc % 512)) = true
        ∧ tagValid (BitVec.ofNat 16 (s.getU xc / 512 % 512)) = true
        ∧ productTags (BitVec.ofNat 16 (s.getU xc % 512)) (BitVec.ofNat 16 (s.getU xc / 512 % 512)) = true)

theorem execMfill_eq {tile lq : Fin 4} {xc : Reg} {s : State} (hs : s.cpu.inflight = []) (hw : tagW (s.cpu.front.queueTag lq.val) = 32)
    (hrows : s.cpu.front.mvr ≤ (rowsOf s lq.val).length) (hok : FillOk s tile xc) :
    exec (.mfill tile lq xc) s = .next ((s.setBack ((filledBack s tile lq xc).popRows lq.val s.cpu.front.mvr)).finish (.mfill tile lq xc) s.cpu.front) := by
  have hbit : bitAt (s.getU xc) 24 = (s.getX xc).getLsbD 24 := (getLsbD_eq_bitAt _ _).symm
  have hsteps : bitsOf (s.getU xc) 23 18 = s.getU xc / 2 ^ 18 % 64 := rfl
  have htags : descriptorTags (s.getU xc) = (BitVec.ofNat 16 (s.getU xc % 512), BitVec.ofNat 16 (s.getU xc / 512 % 512)) := by
    unfold descriptorTags bitsOf
    rw [Nat.pow_zero, Nat.div_one]
    rfl
  have hmode : ¬(decide (tile.val < 2) && !s.cpu.front.mmode) = true := by
    rw [Bool.and_eq_true, decide_eq_true_eq]
    rintro ⟨ht, hm⟩
    rw [(hok ht).1] at hm
    cases hm
  have hbad : ¬(decide (tile.val < 2) && badDescriptor (s.getU xc)) = true := by
    rw [Bool.and_eq_true, decide_eq_true_eq]
    rintro ⟨ht, hb⟩
    obtain ⟨-, hlt, hle, hzero, -⟩ := hok ht
    unfold badDescriptor at hb
    rw [hbit, hsteps, Nat.div_eq_of_lt hlt] at hb
    cases hl : (s.getX xc).getLsbD 24 with
    | true => rw [hl] at hb; simp at hb; omega
    | false => rw [hzero hl] at hb; simp at hb
  have hkinds : ¬(decide (tile.val < 2) && bitAt (s.getU xc) 24 && !(tagValid (BitVec.ofNat 16 (s.getU xc % 512))
      && tagValid (BitVec.ofNat 16 (s.getU xc / 512 % 512))
      && productTags (BitVec.ofNat 16 (s.getU xc % 512)) (BitVec.ofNat 16 (s.getU xc / 512 % 512)))) = true := by
    rw [Bool.and_eq_true, Bool.and_eq_true, decide_eq_true_eq, hbit]
    rintro ⟨⟨ht, hl⟩, hb⟩
    obtain ⟨-, -, -, -, htag⟩ := hok ht
    obtain ⟨ha, hb', hp⟩ := htag hl
    rw [ha, hb', hp] at hb
    cases hb
  have hlen : ¬(s.cpu.back.queue lq.val).rows.length < s.cpu.front.mvr := by
    unfold rowsOf at hrows
    rw [List.length_map] at hrows
    omega
  refine congrArg Host.Outcome.next ?_
  rw [State.inOrder_nil _ _ _ hs]
  dsimp only
  rw [htags]
  dsimp only
  rw [hw, if_neg (by decide), if_neg hmode, if_neg hbad, if_neg hkinds, if_neg hlen]
  have hfill : (fun r c (_ : W32) => BitVec.ofNat 32 (match (s.cpu.back.queue lq.val).rows[r]? with
      | some x => x.elems.getD c 0
      | none => 0)) = fun r c _ => filledBits s lq.val r c := by
    funext r c _
    exact congrArg _ (queueElem_eq s lq.val r c)
  have hback : filledBack s tile lq xc = (if tile.val < 2 then
      { s.cpu.back with
        za := overTile s.cpu.back.za (tile.val % 2) s.cpu.front.mvr s.cpu.front.mvc (fun r c _ => filledBits s lq.val r c)
        zsteps := vput s.cpu.back.zsteps (tile.val % 2) (bitsOf (s.getU xc) 23 18)
        zkinds := vput s.cpu.back.zkinds (tile.val % 2) (if bitAt (s.getU xc) 24 then
          some (BitVec.ofNat 16 (s.getU xc % 512), BitVec.ofNat 16 (s.getU xc / 512 % 512)) else none) }
    else { s.cpu.back with
      zf := overTile s.cpu.back.zf (tile.val % 2) s.cpu.front.mvr s.cpu.front.mvc (fun r c _ => filledBits s lq.val r c) }) := by
    unfold filledBack
    rw [hbit, hsteps]
    by_cases ht : tile.val < 2
    · rw [if_pos ht, if_pos ht, show tile.val % 2 = tile.val by omega]
    · rw [if_neg ht, if_neg ht, show tile.val % 2 = tile.val - 2 by have := tile.isLt; omega]
  rw [hback, ← hfill] <;> rfl

/-- The tiles behind MFILL: inside the grant of its tile the bits it took, all else as before. -/
theorem tiles_filledBack {s : State} (tile lq : Fin 4) (xc : Reg) (hr : s.cpu.front.mvr ≤ 256) (hc : s.cpu.front.mvc ≤ 256) {k i j : Nat}
    (hk : k < 2) (hi : i < 256) (hj : j < 256) :
    mget 0 (filledBack s tile lq xc).za (k * 65536 + i * 256 + j)
        = (if k = tile.val ∧ i < s.cpu.front.mvr ∧ j < s.cpu.front.mvc then filledBits s lq.val i j else zaAt s k i j)
      ∧ mget 0 (filledBack s tile lq xc).zf (k * 65536 + i * 256 + j)
        = (if k + 2 = tile.val ∧ i < s.cpu.front.mvr ∧ j < s.cpu.front.mvc then filledBits s lq.val i j else zfAt s k i j) := by
  unfold filledBack
  by_cases ht : tile.val < 2
  · rw [if_pos ht]
    refine ⟨mget_overTile (k := tile.val) (k' := k) _ (fun r c _ => filledBits s lq.val r c) hr hc hi hj, ?_⟩
    exact (if_neg fun h => by omega).symm
  · rw [if_neg ht]
    refine ⟨?_, (mget_overTile (k := tile.val - 2) (k' := k) _ (fun r c _ => filledBits s lq.val r c) hr hc hi hj).trans ?_⟩
    · exact (if_neg fun h => by omega).symm
    · exact if_congr (and_congr_left fun _ => by omega) rfl rfl

/-- Settles O42. -/
theorem tilesMove : Obligations.TilesMove := by
  unfold Obligations.TilesMove
  refine ⟨fun vd zf xb s hs hd hfd h8 _ => mrdz_spec hs hd hfd h8, fun sq tile xc s hs hw hmode hroom => ?_,
    fun tile lq xc s hs hmvr hmvc hw hrows hok => ?_⟩
  · have hpush := pushed_back s (4 + sq.val) (if s.cpu.front.vl = 0 then 0 else s.cpu.front.mvr) (spillRow s tile)
    obtain ⟨hx, hrest, hfront, hback⟩ := finish_setX (s := s) (i := .mspill sq tile xc) (d := spillDest tile xc) (v := tileWord s tile.val) rfl rfl
      (pushed_state s (4 + sq.val) (if s.cpu.front.vl = 0 then 0 else s.cpu.front.mvr) (spillRow s tile))
    refine ⟨_, execMspill_eq hs hw hmode hroom, hrest, ?_, hfront, ?_, ?_, fun k _ hne => ?_⟩
    · by_cases ht : tile.val < 2
      · have hd : spillDest tile xc = xc := if_pos ht
        rw [if_pos ht]
        rw [hd] at hx ⊢
        exact hx
      · have hd : spillDest tile xc = 0 := if_neg ht
        rw [if_neg ht]
        rw [hd] at hx ⊢
        intro r
        by_cases hr : r = 0
        · rw [hr]
          exact hx.1.trans (if_pos rfl)
        · exact hx.2 r hr
    · rw [hback, hpush]
    · have hq : 4 + sq.val < 6 := by omega
      unfold rowsOf at *
      rw [hback]
      refine (rowsOf_pushed s hq _ _).trans (congrArg _ ?_)
      by_cases hvl : s.cpu.front.vl = 0
      · rw [if_pos hvl, if_pos hvl]
        rfl
      · rw [if_neg hvl, if_neg hvl]
        rfl
    · rw [hback]
      exact queue_pushed_other s hne _ _
  · obtain ⟨hx, hrest, hfront, hret, hback⟩ := finish_spec (s := s) (u := s.setBack ((filledBack s tile lq xc).popRows lq.val s.cpu.front.mvr))
      (i := .mfill tile lq xc) (tags := s.cpu.front.vtag) rfl rfl rfl
    have hsides : filledBack s tile lq xc = { s.cpu.back with
        za := (filledBack s tile lq xc).za, zf := (filledBack s tile lq xc).zf, zsteps := (filledBack s tile lq xc).zsteps
        zkinds := (filledBack s tile lq xc).zkinds } := by
      unfold filledBack
      split <;> rfl
    have hqueue (k : Nat) : ((filledBack s tile lq xc).popRows lq.val s.cpu.front.mvr).queue k
        = if k = lq.val ∧ lq.val < 6 then (s.cpu.back.queue lq.val).take s.cpu.front.mvr else s.cpu.back.queue k := by
      unfold Back.popRows
      rw [Back.queue_modQueue, hsides]
      rfl
    refine ⟨_, execMfill_eq hs hw hrows hok, hx, ⟨?_, ?_⟩, ?_, ?_, fun k _ hne => ?_, ?_, fun k i j hk hi hj => ?_, fun k hk => ?_⟩
    case refine_1 =>
      have := hret rfl
      rw [hfront]
      exact this
    case refine_2 =>
      rw [hback]
      change (filledBack s tile lq xc).popRows lq.val s.cpu.front.mvr = _
      rw [hsides]
      rfl
    case refine_3 => rw [hfront]
    case refine_4 =>
      rw [hback]
      change (filledBack s tile lq xc).v = _
      rw [hsides]
    case refine_5 =>
      rw [hback]
      exact (hqueue k).trans (if_neg fun h => hne h.1)
    case refine_6 =>
      have hq := (hqueue lq.val).trans (if_pos ⟨rfl, by omega⟩)
      unfold Loses
      rw [hback]
      refine ⟨?_, ?_, ?_⟩
      · exact congrArg QState.rows hq
      · exact (congrArg QState.part hq :)
      · exact (congrArg QState.sub hq :)
    case refine_7 =>
      obtain ⟨hza, hzf⟩ := tiles_filledBack tile lq xc hmvr hmvc hk hi hj
      have htile (t : State) (b : Back) (h : t.cpu.back = b) : zaAt t k i j = mget 0 b.za (k * 65536 + i * 256 + j)
          ∧ zfAt t k i j = mget 0 b.zf (k * 65536 + i * 256 + j) := by
        rw [← h]
        exact ⟨rfl, rfl⟩
      obtain ⟨hza'', hzf''⟩ := htile _ _ hback
      have hza' := hza''.trans hza
      have hzf' := hzf''.trans hzf
      refine ⟨fun hkt hin => hza'.trans (if_pos ⟨hkt, hin⟩), fun hout => hza'.trans (if_neg hout), fun hkt hin => hzf'.trans (if_pos ⟨hkt, hin⟩),
        fun hout => hzf'.trans (if_neg hout)⟩
    case refine_8 =>
      unfold stepsOf kindsOf
      rw [hback]
      change vget 0 (filledBack s tile lq xc).zsteps k = _ ∧ vget none (filledBack s tile lq xc).zkinds k = _
      unfold filledBack
      by_cases ht : tile.val < 2
      · rw [if_pos ht]
        exact ⟨(vget_vput _ _ _ _ _).trans (if_congr (and_iff_left ht) rfl rfl), (vget_vput _ _ _ _ _).trans (if_congr (and_iff_left ht) rfl rfl)⟩
      · rw [if_neg ht, if_neg (by omega), if_neg (by omega)]
        exact ⟨rfl, rfl⟩

end Sys2Proof.Claims
end

section
/-! PROOF. The accession log's engine, seals, drops, attestation blocks and signed statements (R307–R309, R341, R343, R345). -/

namespace Sys2Proof.Claims

open Sys2Proof Sys2Proof.Machine

theorem homeDie_lt_three (a : Nat) : homeDie a < 3 := by
  unfold homeDie gib64
  split <;> omega

theorem part_setLog (s : State) (p k : Nat) (x : Part) : (s.setLog p x).part k = if k = p ∧ p < 16 then x else s.part k :=
  vget_vput _ _ _ _ _

/-! Records (R340, R343). -/

theorem part_appendRecord (s : State) (p k : Nat) (bytes : List Byte) :
    (s.appendRecord p bytes).part k = (s.setLog p { s.part p with lnext := (s.part p).lnext + 1 }).part k := by
  unfold State.appendRecord
  dsimp only
  split <;> rfl

/-- A record's write: dropped and counted in a fenced slot, else the record stands in its slot. -/
theorem appendRecord_writes (s : State) (p : Nat) (bytes : List Byte) :
    let slot := (s.part p).slot (s.part p).lnext.toNat
    (s.fenced slot = false → Puts s (s.appendRecord p bytes) slot (leBytes 8 (s.part p).lnext.toNat ++ bytes))
      ∧ (s.fenced slot = true → SameMem s (s.appendRecord p bytes) ∧ Counted s (s.appendRecord p bytes) .management (homeDie slot)) := by
  dsimp only
  unfold State.appendRecord
  dsimp only
  constructor
  · intro h
    rw [if_neg (by simp [h])]
    exact puts_of_mem rfl
  · intro h
    rw [if_pos h]
    obtain ⟨⟨-, -, -, hmem⟩, hcount, -⟩ := drops_countDrop (s.setLog p { s.part p with lnext := (s.part p).lnext + 1 }) .management
      (homeDie_lt_three ((s.part p).slot (s.part p).lnext.toNat))
    exact ⟨hmem, hcount⟩

/-- Records that are all of one hart, the first of them not written yet: that hart is the only one to choose from. -/
theorem waiting_harts {r : AccRec} {rest : List AccRec} (h : r.seq = none) (hrest : ∀ e ∈ rest, e.hart = r.hart) :
    (((r :: rest).filter (fun r => r.seq.isNone)).map (fun r => r.hart)).eraseDups = [r.hart] := by
  rw [List.filter_cons_of_pos (by simp [h]), List.map_cons, List.eraseDups_cons, List.filter_eq_nil_iff.2, List.eraseDups_nil]
  intro e he
  obtain ⟨x, hx, rfl⟩ := List.mem_map.1 he
  simp [hrest x (List.mem_of_mem_filter hx)]

theorem exec_accessionAppend {p : Fin 16} {s : State} {r : AccRec} {rest : List AccRec} (hl : (s.part p.val).pending = r :: rest)
    (hseq : r.seq = none) (hrest : ∀ e ∈ rest, e.hart = r.hart) : exec (.accessionAppend p) s
      = .next ((s.setLog p.val { s.part p.val with
          pending := { r with seq := some (s.part p.val).lnext.toNat } :: rest }).appendRecord p.val r.bytes).tock := by
  show execAccessionAppend p s = _
  unfold execAccessionAppend
  refine congrArg Host.Outcome.next ?_
  rw [hl]
  dsimp only
  rw [waiting_harts hseq hrest]
  simp only [List.length_singleton, Nat.max_self, Nat.mod_one, List.getElem?_cons_zero]
  unfold State.appendOf
  simp [hl, hseq, replaceFirst]

theorem accessionAppend_writes {p : Fin 16} {s : State} {r : AccRec} {rest : List AccRec} (hl : (s.part p.val).pending = r :: rest)
    (hseq : r.seq = none) (hrest : ∀ e ∈ rest, e.hart = r.hart) :
    let slot := (s.part p.val).labase.toNat + 4096 + 128 * ((s.part p.val).lnext.toNat % 2 ^ (s.part p.val).lcap)
    ∃ t, exec (.accessionAppend p) s = .next t ∧ (t.part p.val).lnext = (s.part p.val).lnext + 1
      ∧ (s.fenced slot = false → Puts s t slot (leBytes 8 (s.part p.val).lnext.toNat ++ r.bytes))
      ∧ (s.fenced slot = true → SameMem s t ∧ Counted s t .management (homeDie slot)) := by
  have h := appendRecord_writes (s.setLog p.val { s.part p.val with
    pending := { r with seq := some (s.part p.val).lnext.toNat } :: rest }) p.val r.bytes
  have hp := part_appendRecord (s.setLog p.val { s.part p.val with
    pending := { r with seq := some (s.part p.val).lnext.toNat } :: rest }) p.val p.val r.bytes
  rw [part_setLog, part_setLog, if_pos ⟨rfl, p.isLt⟩, if_pos ⟨rfl, p.isLt⟩] at hp
  rw [part_setLog, if_pos ⟨rfl, p.isLt⟩] at h
  exact ⟨_, exec_accessionAppend hl hseq hrest, congrArg Part.lnext hp, h⟩

/-! Batches (R341). -/

theorem chainBatch_ready {s : State} {p : Nat} (hcap : (s.part p).lcap ≠ 0) (h : s.hseq (s.part p) + 64 ≤ (s.part p).lnext.toNat) :
    s.chainBatch p = if (s.batchBad (s.part p)).isSome then
        (s.sweep (s.part p).labase.toNat 0x50).sweep ((s.part p).slot (s.hseq (s.part p))) 8192
      else
        (((s.putBytes (homeDie (s.part p).labase.toNat) ((s.part p).labase.toNat + 0x10)
          (digestBytes (sha512 (s.chainBytes (s.part p) ++ readCells s.mem ((s.part p).slot (s.hseq (s.part p))) 8192)))).putBytes
            (homeDie (s.part p).labase.toNat) (s.part p).labase.toNat (leBytes 8 (s.hseq (s.part p) + 64))).setLog p
          { s.part p with pending := (s.part p).pending.filter (fun r =>
              match r.seq with
              | some q => s.hseq (s.part p) + 64 ≤ q
              | none => true) }) := by
  unfold State.chainBatch
  dsimp only
  exact if_neg (by simp [hcap]; omega)

theorem batchBad_isNone_iff {s : State} {x : Part} : (s.batchBad x).isSome = false ↔
    HeadReadable s x ∧ ∀ k, k < 8192 → s.unreadable (x.slot (s.hseq x) + k) = false := by
  rw [← headBad_isNone_iff]
  unfold State.batchBad
  cases h : s.headBad x with
  | some f => simp
  | none => simp [State.firstUnreadable, List.find?_eq_none]

theorem length_digestBytes (d : BitVec 512) : (digestBytes d).length = 64 := by
  unfold digestBytes
  rw [List.length_reverse, leBytes_length]

theorem readCells_writeCells_outside (m : List Host.Cell) (a b n : Nat) (l : List Byte) (h : b + n ≤ a ∨ a + l.length ≤ b) :
    readCells (writeCells m a l) b n = readCells m b n := by
  unfold readCells
  refine List.map_congr_left fun k hk => readCell_writeCells_outside m a (b + k) l ?_
  rw [List.mem_range] at hk
  omega

/-- The head block after a batch: the new hseq and the new chain. -/
theorem headBlock_written (m : List Host.Cell) (b n : Nat) (d : BitVec 512) (hn : n < 2 ^ 64) :
    leNat (readCells (writeCells (writeCells m (b + 0x10) (digestBytes d)) b (leBytes 8 n)) b 8) = n
      ∧ readCells (writeCells (writeCells m (b + 0x10) (digestBytes d)) b (leBytes 8 n)) (b + 0x10) 64 = digestBytes d := by
  constructor
  · have h := readCells_writeCells (writeCells m (b + 0x10) (digestBytes d)) b (leBytes 8 n)
    rw [leBytes_length] at h
    rw [h, leNat_leBytes]
    exact Nat.mod_eq_of_lt hn
  · rw [readCells_writeCells_outside _ _ _ _ _ (Or.inr (by rw [leBytes_length]; omega))]
    have h := readCells_writeCells m (b + 0x10) (digestBytes d)
    rwa [length_digestBytes] at h

/-- hseq and the chain where memory holds them. -/
theorem head_of_mem {t : State} {x : Part} {n : Nat} {c : BitVec 512} {m : List Host.Cell} (hcap : x.lcap ≠ 0) (hn : n < 2 ^ 64)
    (hm : t.mem = writeCells (writeCells m (x.labase.toNat + 0x10) (digestBytes c)) x.labase.toNat (leBytes 8 n)) :
    t.hseq x = n ∧ t.chainBytes x = digestBytes c := by
  obtain ⟨hseq, hchain⟩ := headBlock_written m x.labase.toNat n c hn
  unfold State.hseq State.chainBytes
  rw [hm, if_neg hcap, if_neg hcap]
  exact ⟨hseq, hchain⟩

theorem batch_chained {p : Fin 16} {s : State} (hcap : (s.part p.val).lcap ≠ 0) (h : s.hseq (s.part p.val) + 64 ≤ (s.part p.val).lnext.toNat)
    (hbad : (s.batchBad (s.part p.val)).isSome = false) :
    ∃ t, exec (.batchDurable p) s = .next t ∧ t.hseq (t.part p.val) = s.hseq (s.part p.val) + 64
      ∧ t.chainBytes (t.part p.val) = digestBytes (sha512 (s.chainBytes (s.part p.val)
          ++ readCells s.mem ((s.part p.val).slot (s.hseq (s.part p.val))) 8192)) := by
  refine ⟨s.chainBatch p.val, rfl, ?_⟩
  rw [chainBatch_ready hcap h, if_neg (by simp [hbad]), part_setLog, if_pos ⟨rfl, p.isLt⟩]
  exact head_of_mem hcap (lt_of_le_of_lt h (s.part p.val).lnext.isLt)
    (by rw [State.setLog_mem, State.putBytes_mem, State.putBytes_mem])

theorem Swept.part {s t : State} (h : Swept s t) (p : Nat) : t.part p = s.part p := by
  obtain ⟨-, -, -, hpkg, -⟩ := h
  unfold State.part
  rw [hpkg]

theorem batch_unreadable {p : Fin 16} {s : State} (hcap : (s.part p.val).lcap ≠ 0) (h : s.hseq (s.part p.val) + 64 ≤ (s.part p.val).lnext.toNat)
    (hbad : (s.batchBad (s.part p.val)).isSome = true) :
    ∃ t, exec (.batchDurable p) s = .next t ∧ t.part p.val = s.part p.val ∧ Swept s t := by
  have hs : Swept s (s.chainBatch p.val) := by
    rw [chainBatch_ready hcap h, if_pos hbad]
    exact (swept_sweep s _ _).trans (swept_sweep _ _ _)
  exact ⟨_, rfl, hs.part p.val, hs⟩

/-! Seals and drops (R307, R309). -/

/-- The state in which the work on an entry ends without a completion word to count. -/
theorem vitrine_ended (s : State) (v kind : Nat) (x : Vitrine) (d : Nat) {w : Option Nat} (hw : w = none) :
    (((s.setVitrine v x).dropJob kind v).bumpOpt d w).vitrine v = x ∧ (((s.setVitrine v x).dropJob kind v).bumpOpt d w).mem = s.mem := by
  rw [hw]
  exact ⟨(vitrine_setVitrine s v v x).trans (if_pos rfl), rfl⟩

theorem mib64_eq : mib64 = 67108864 := rfl

section Seal

variable {v : Nat} {s : State} {j : Job}

theorem exec_sealCompletion (c : Bool) (hj : s.pkg.jobs.find? (fun j => j.kind = 0 && j.v = v) = some j) :
    exec (.sealCompletion v c) s = .next (
      let e := s.vitrine v
      let n := e.units * mib64
      let s := s.performRange e.base n
      if c || !(s.badWords e.base n).isEmpty || s.rangeFenced e.base n then
        ((((if c && (s.badWords e.base n).isEmpty then s.upsetIn e.base n else s).sweep e.base n).setVitrine v
          { e with state := 4 }).dropJob 0 v).bumpOpt 0 j.cword
      else if (s.part j.part).full 1 then s
      else
        (((s.appendRecord j.part (recordBytes 2 j.hart v j.wq e.base 0 j.launch n (sha512 (readCells s.mem e.base n)))).setVitrine v
          { e with state := 2, digest := sha512 (readCells s.mem e.base n), vseq := (s.part j.part).lnext }).dropJob 0 v).bumpOpt 0
            j.cword) := by
  show execSealCompletion v c s = _
  unfold execSealCompletion
  refine congrArg Host.Outcome.next ?_
  rw [hj]

theorem seal_passes (hj : s.pkg.jobs.find? (fun j => j.kind = 0 && j.v = v) = some j)
    (hw : j.cword = none) (hbad : s.badWords (s.vitrine v).base ((s.vitrine v).units * mib64) = [])
    (hf : s.rangeFenced (s.vitrine v).base ((s.vitrine v).units * mib64) = false) (hroom : (s.part j.part).full 1 = false) :
    ∃ t, exec (.sealCompletion v false) s = .next t ∧ t.vitrine v = { s.vitrine v with
      state := 2, vseq := (s.part j.part).lnext
      digest := sha512 (readCells s.mem (s.vitrine v).base ((s.vitrine v).units * mib64)) } := by
  refine ⟨_, exec_sealCompletion false hj, ?_⟩
  dsimp only
  have hbad' : (s.performRange (s.vitrine v).base ((s.vitrine v).units * mib64)).badWords (s.vitrine v).base
      ((s.vitrine v).units * mib64) = [] := hbad
  have hf' : (s.performRange (s.vitrine v).base ((s.vitrine v).units * mib64)).rangeFenced (s.vitrine v).base
      ((s.vitrine v).units * mib64) = false := hf
  have hroom' : ((s.performRange (s.vitrine v).base ((s.vitrine v).units * mib64)).part j.part).full 1 = false := hroom
  rw [if_neg (by simp [hbad', hf']), if_neg (by simp [hroom'])]
  exact (vitrine_ended _ v 0 _ 0 hw).1

theorem seal_meets_fence (hj : s.pkg.jobs.find? (fun j => j.kind = 0 && j.v = v) = some j)
    (hw : j.cword = none) (hbad : s.badWords (s.vitrine v).base ((s.vitrine v).units * mib64) = [])
    (hf : s.rangeFenced (s.vitrine v).base ((s.vitrine v).units * mib64) = true) :
    ∃ t, exec (.sealCompletion v false) s = .next t ∧ t.vitrine v = { s.vitrine v with state := 4 } ∧ SameMem s t := by
  refine ⟨_, exec_sealCompletion false hj, ?_⟩
  dsimp only
  have hbad' : (s.performRange (s.vitrine v).base ((s.vitrine v).units * mib64)).badWords (s.vitrine v).base
      ((s.vitrine v).units * mib64) = [] := hbad
  have hf' : (s.performRange (s.vitrine v).base ((s.vitrine v).units * mib64)).rangeFenced (s.vitrine v).base
      ((s.vitrine v).units * mib64) = true := hf
  rw [if_pos (by simp [hf']), Bool.false_and, if_neg Bool.false_ne_true, sweep_of_badWords_nil hbad']
  obtain ⟨hv, hm⟩ := vitrine_ended (s.performRange (s.vitrine v).base ((s.vitrine v).units * mib64)) v 0 { s.vitrine v with state := 4 } 0 hw
  exact ⟨hv, fun a => by rw [hm]; rfl⟩

/-- A range without bad words, after an error has arisen in one of its words and the range has been swept. -/
theorem sweep_upsetIn (s : State) {a n : Nat} (hbad : s.badWords a n = []) (h8 : 8 ≤ n) (hn : n % 8 = 0) :
    ∃ u, a < u + 8 ∧ u < a + n ∧ ((s.upsetIn a n).sweep a n).fenced u = true
      ∧ Puts s ((s.upsetIn a n).sweep a n) (u / 64 * 64) (List.replicate 64 0) := by
  have hlt : s.draw % (n / 8) < n / 8 := Nat.mod_lt _ (by omega)
  generalize hk : a / 8 + s.draw % (n / 8) = k
  have hlo : a < k * 8 + 8 := by omega
  have hhi : k * 8 < a + n := by omega
  have hp : (s.upsetIn a n).pkg.poison = k :: s.pkg.poison := by
    rw [← hk]
    rfl
  have hb : (s.upsetIn a n).badWords a n = [k] := by
    have hrest : s.pkg.poison.filter (fun u => a < u * 8 + 8 && u * 8 < a + n) = [] := hbad
    show (s.upsetIn a n).pkg.poison.filter (fun u => a < u * 8 + 8 && u * 8 < a + n) = [k]
    rw [hp, List.filter_cons_of_pos (by simp [hlo, hhi]), hrest]
  have hs : (s.upsetIn a n).sweep a n = (s.upsetIn a n).dropWord (memKind a) (k * 8) := by
    unfold State.sweep
    rw [hb]
    rfl
  have hw : ∃ u ∈ (s.upsetIn a n).pkg.poison, u / 8 = k * 8 / 64 := ⟨k, by simp [hp], by omega⟩
  obtain ⟨hputs, hfenced, -⟩ := dropWord_spec hw (homeDie_lt_three (k * 8)) (memKind_lt a)
  exact ⟨k * 8, hlo, hhi, hs ▸ hfenced, hs ▸ hputs⟩

theorem seal_meets_error (hj : s.pkg.jobs.find? (fun j => j.kind = 0 && j.v = v) = some j)
    (hw : j.cword = none) (hbad : s.badWords (s.vitrine v).base ((s.vitrine v).units * mib64) = []) (hu : 0 < (s.vitrine v).units) :
    ∃ t a, exec (.sealCompletion v true) s = .next t ∧ t.vitrine v = { s.vitrine v with state := 4 }
      ∧ (s.vitrine v).base < a + 8 ∧ a < (s.vitrine v).base + (s.vitrine v).units * mib64 ∧ t.fenced a = true
      ∧ ∀ x, readCell t.mem x = if x / 64 = a / 64 then 0 else readCell s.mem x := by
  have hbad' : (s.performRange (s.vitrine v).base ((s.vitrine v).units * mib64)).badWords (s.vitrine v).base
      ((s.vitrine v).units * mib64) = [] := hbad
  obtain ⟨a, hlo, hhi, hfenced, hputs⟩ := sweep_upsetIn _ hbad' (by rw [mib64_eq]; omega) (by rw [mib64_eq]; omega)
  refine ⟨_, a, exec_sealCompletion true hj, ?_⟩
  dsimp only
  rw [if_pos (by simp), if_pos (by simp [hbad'])]
  obtain ⟨hv, hm⟩ := vitrine_ended (((s.performRange (s.vitrine v).base ((s.vitrine v).units * mib64)).upsetIn (s.vitrine v).base
    ((s.vitrine v).units * mib64)).sweep (s.vitrine v).base ((s.vitrine v).units * mib64)) v 0 { s.vitrine v with state := 4 } 0 hw
  refine ⟨hv, hlo, hhi, ?_, fun x => ?_⟩
  · rw [hw]
    exact hfenced
  · rw [hm, hputs x, List.length_replicate]
    split
    next h =>
      rw [if_pos (by omega), List.getD_eq_getElem?_getD, List.getElem?_replicate]
      split <;> rfl
    next h =>
      rw [if_neg (by omega)]
      rfl

end Seal

theorem drop_ends {v : Nat} {s : State} {j : Job} (hj : s.pkg.jobs.find? (fun j => j.kind = 1 && j.v = v) = some j)
    (hw : j.cword = none) :
    ∃ t, exec (.dropCompletion v) s = .next t ∧ t.vitrine v = { s.vitrine v with state := 0 }
      ∧ Puts s t (s.vitrine v).base (List.replicate ((s.vitrine v).units * mib64) 0) := by
  have he : exec (.dropCompletion v) s = .next (
      let s0 := s.putBytes (homeDie (s.vitrine v).base) (s.vitrine v).base (List.replicate ((s.vitrine v).units * mib64) 0)
      let s1 := { s0 with pkg := { s0.pkg with poison := s.pkg.poison.filter (fun w =>
        !(s.badWords (s.vitrine v).base ((s.vitrine v).units * mib64)).contains w) } }
      ((s1.setVitrine v { s.vitrine v with state := 0 }).dropJob 1 v).bumpOpt 0 j.cword) := by
    show execDropCompletion v s = _
    unfold execDropCompletion
    rw [hj]
  refine ⟨_, he, ?_⟩
  dsimp only
  rw [hw]
  exact ⟨(vitrine_setVitrine _ v v _).trans (if_pos rfl), puts_of_mem rfl⟩

/-! Attestation blocks and signed statements (R308, R345). -/

/-- Memory ends at multiples of 256. -/
theorem isMem_in_block {a k : Nat} (h : (regionOf a).isMem = true) (hal : a % 256 = 0) (hk : k < 256) : (regionOf (a + k)).isMem = true := by
  unfold regionOf gib64 tierBase tierEnd at *
  by_cases h1 : a < 12 * 68719476736
  · rw [if_pos h1] at h
    by_cases h2 : a % 68719476736 < 64000000000
    · rw [if_pos (by omega), if_pos (by omega)]
      rfl
    · rw [if_neg h2] at h
      exact absurd h (by decide)
  · rw [if_neg h1] at h
    by_cases h2 : 0x10000000000 ≤ a ∧ a < 0x90000000000
    · rw [if_neg (by omega), if_pos (by omega)]
      rfl
    · rw [if_neg h2] at h
      split at h
      · exact absurd h (by simp [Region.isMem])
      · split at h
        · exact absurd h (by simp [Region.isMem])
        · split at h <;> exact absurd h (by simp [Region.isMem])

/-- Of what a hart may write atomically, the local part is memory. -/
theorem isMem_of_refusePhys {s : State} {d va pa : Nat} (hl : s.isLocal pa = true) (h : s.refusePhys d .store true va pa = none) :
    (regionOf (pa % pkgSpan)).isMem = true := by
  unfold State.refusePhys State.regionAt at h
  rw [hl] at h
  cases hr : regionOf (pa % pkgSpan) <;> simp [hr, Region.isMem] at h ⊢

/-- A block of 256 bytes whose first byte may be written stands in one package, and there in memory. -/
theorem block_places {s : State} {a k : Nat} (h : s.checkPhys 0 .store true 0 a = none) (hal : a % 256 = 0) (hk : k < 256) :
    s.key (a + k) = s.key a + k ∧ s.drops (a + k) = s.drops a
      ∧ ¬(s.isLocal (a + k) = true ∧ (regionOf ((a + k) % pkgSpan)).isMem = false) := by
  have hspan : pkgSpan = 1125899906842624 := rfl
  have hloc : s.isLocal (a + k) = s.isLocal a := by
    unfold State.isLocal
    rw [hspan, show (a + k) / 1125899906842624 = a / 1125899906842624 by omega]
  have hmod : (a + k) % pkgSpan = a % pkgSpan + k := by
    rw [hspan]
    omega
  have hkey : s.key (a + k) = s.key a + k := by
    unfold State.key
    rw [hloc, hmod]
    split <;> omega
  have hal' : s.key a % 256 = 0 := by
    unfold State.key
    rw [hspan]
    split <;> omega
  refine ⟨hkey, ?_, ?_⟩
  · unfold State.drops
    rw [hloc, hkey, show (s.key a + k) / 65536 = s.key a / 65536 by omega]
  · rintro ⟨hl, hm⟩
    have href : s.refusePhys 0 .store true 0 a = none := by
      unfold State.checkPhys at h
      exact (Option.or_eq_none_iff.1 h).1
    have hl' : s.isLocal a = true := by rw [← hloc, hl]
    rw [hmod, isMem_in_block (isMem_of_refusePhys hl' href) (by rw [hspan]; omega) hk] at hm
    exact absurd hm (by decide)

theorem attestation_eq (s : State) (v : Nat) : s.attestation v = attested s v := rfl

theorem length_attestation (s : State) (v : Nat) : (s.attestation v).length = 256 := by
  unfold State.attestation signature
  dsimp only
  split <;> simp [length_digestBytes]

/-- One byte after another at rising keys. -/
theorem foldl_writeCell_range' (m : List Host.Cell) (b : Nat) (l : List Byte) :
    ((List.range' b l.length).zip l).foldl (fun m e => writeCell m e.1 e.2) m = writeCells m b l := by
  induction l generalizing m b with
  | nil => rfl
  | cons x t ih =>
    rw [List.length_cons, List.range'_succ, List.zip_cons_cons, List.foldl_cons]
    exact ih (writeCell m b x) (b + 1)

/-- The bytes of a write to memory of one package, whose keys follow each other. -/
theorem kept_block {s : State} {a : Nat} {l : List Byte}
    (h : ∀ k, k < l.length → s.key (a + k) = s.key a + k ∧ s.drops (a + k) = false) :
    s.kept ((List.range l.length).map (a + ·)) l = (List.range' (s.key a) l.length).zip l := by
  unfold State.kept
  rw [List.range'_eq_map_range, List.zip_map_left, List.zip_map_left, List.filter_eq_self.2, List.map_map]
  · refine List.map_congr_left fun e he => ?_
    have hk := (h e.1 (List.mem_range.1 (List.of_mem_zip he).1)).1
    exact Prod.ext hk rfl
  · intro e he
    obtain ⟨x, hx, rfl⟩ := List.mem_map.1 he
    have hd := (h x.1 (List.mem_range.1 (List.of_mem_zip hx).1)).2
    simpa using hd

/-- An agent's write to a block of memory of one package. -/
theorem puts_physWriteList {s : State} {a : Nat} {l : List Byte} (d : Nat)
    (h : ∀ k, k < l.length → s.key (a + k) = s.key a + k ∧ s.drops (a + k) = false
      ∧ ¬(s.isLocal (a + k) = true ∧ (regionOf ((a + k) % pkgSpan)).isMem = false)) :
    Puts s (s.physWriteList .management d ((List.range l.length).map (a + ·)) l) (s.key a) l := by
  unfold State.physWriteList
  obtain ⟨l2, he⟩ := (s.meetStrips (decide (Agent.management = .hart) || decide (Agent.management = .privHart))
    (((List.range l.length).map (a + ·)).map s.key)).physWrites_kept .management d ((List.range l.length).map (a + ·)) l (by
      intro pa hpa
      obtain ⟨k, hk, rfl⟩ := List.mem_map.1 hpa
      exact (h k (List.mem_range.1 hk)).2.2)
  rw [he]
  refine puts_of_mem ?_
  have hkept : (s.meetStrips (decide (Agent.management = .hart) || decide (Agent.management = .privHart))
    (((List.range l.length).map (a + ·)).map s.key)).kept ((List.range l.length).map (a + ·)) l = s.kept ((List.range l.length).map (a + ·)) l := rfl
  dsimp only
  rw [hkept, kept_block fun k hk => ⟨(h k hk).1, (h k hk).2.1⟩]
  exact foldl_writeCell_range' s.mem _ l

theorem attestation_writes {s : State} {j : Job} (hj : s.pkg.jobs.find? (fun j => j.kind = 2 && (s.vitrine j.v).state != 1) = some j)
    (hw : j.cword = none) (hc : s.checkPhys 0 .store true 0 j.block = none) (hal : j.block % 256 = 0) (hd : s.drops j.block = false) :
    ∃ t, exec .attestationBlock s = .next t ∧ Puts s t (s.key j.block) (s.attestation j.v) := by
  have hputs := puts_physWriteList (s := s) (a := j.block) (l := s.attestation j.v) 0 (by
    rw [length_attestation]
    intro k hk
    obtain ⟨hkey, hdrop, hmem⟩ := block_places hc hal hk
    exact ⟨hkey, hdrop.trans hd, hmem⟩)
  rw [length_attestation] at hputs
  have he : exec .attestationBlock s = .next (
      let s1 := s.physWriteList .management 0 ((List.range 256).map (j.block + ·)) (s.attestation j.v)
      ({ s1 with pkg := { s1.pkg with
          jobs := eraseFirst (fun j => j.kind = 2 && (s.vitrine j.v).state != 1) s1.pkg.jobs } }).bumpOpt 0 j.cword) := by
    show execAttestationBlock s = _
    unfold execAttestationBlock
    refine congrArg Host.Outcome.next ?_
    dsimp only
    rw [hj]
    dsimp only
    rw [hc]
  refine ⟨_, he, ?_⟩
  dsimp only
  rw [hw]
  exact hputs

/-- The head statement of a partition (R345). -/
def headStatement (s : State) (p : Nat) : List Byte :=
  leBytes 8 p ++ leBytes 8 (s.hseq (s.part p)) ++ s.chainBytes (s.part p) ++ leBytes 8 s.ownPkg

/-- A statement `l` of partition `p` is written, counted, notified, and asked for no more. -/
def stated (s : State) (p : Nat) (l : List Byte) : State :=
  let s1 := s.putBytes (homeDie (s.part p).labase.toNat) ((s.part p).labase.toNat + 0x50) l
  let s2 := s1.setLog p { s.part p with lsign := (s.part p).lsign + 1 }
  { s2 with pkg := { s2.pkg with
      jobs := s2.pkg.jobs.filter (fun j => !(j.kind = 3 && j.v = p)), msix := s2.pkg.msix.set 1 (s2.pkg.msix[1] + 1) } }

theorem stated_spec (s : State) {p : Nat} (l : List Byte) (hp : p < 16) :
    ((stated s p l).part p).lsign = (s.part p).lsign + 1 ∧ (∀ j ∈ (stated s p l).pkg.jobs, ¬(j.kind = 3 ∧ j.v = p))
      ∧ vget 0 (stated s p l).pkg.msix 1 = vget 0 s.pkg.msix 1 + 1 ∧ Puts s (stated s p l) ((s.part p).labase.toNat + 0x50) l := by
  refine ⟨?_, fun j hm => ?_, ?_, puts_of_mem rfl⟩
  · exact congrArg Part.lsign ((part_setLog s p p _).trans (if_pos ⟨rfl, hp⟩))
  · have := List.of_mem_filter hm
    exact fun h => by simp [h.1, h.2] at this
  · simp [stated, vget]

theorem exec_signedStatement {p : Fin 16} {s : State} (hcap : (s.part p.val).lcap ≠ 0) (hr : HeadReadable s (s.part p.val))
    (hj : s.pkg.jobs.any (fun j => j.kind = 3 && j.v = p.val) = true) :
    exec (.signedStatement p) s = .next (stated s p.val (headStatement s p.val ++ signature (headStatement s p.val))) := by
  have hbad : ¬(s.headBad (s.part p.val)).isSome = true := by
    have := (headBad_isNone_iff s (s.part p.val)).2 hr
    cases h : s.headBad (s.part p.val) <;> simp_all
  show execSignedStatement p s = _
  unfold execSignedStatement
  refine congrArg Host.Outcome.next ?_
  dsimp only
  rw [if_neg (by rw [hj]; simp [hcap]), if_neg hbad]
  rfl

/-- Settles O53: each event's state is given by an equation, and what the engine writes by the bytes that stand there afterwards. -/
theorem engineEvents : Obligations.EngineEvents := by
  unfold Obligations.EngineEvents
  refine ⟨fun p s r rest hl hseq hrest => accessionAppend_writes hl hseq hrest, fun p s => ?_, fun v s j hj hw hbad => ⟨?_, ?_, ?_⟩,
    fun v s j hj hw => drop_ends hj hw, fun s j hj hw hc hal hd => attestation_writes hj hw hc hal hd, fun p s hcap hr hj => ?_⟩
  · intro x h ring read hcap hh
    refine ⟨fun hr => ?_, fun hr => ?_⟩
    · exact batch_chained hcap hh (batchBad_isNone_iff.2 hr)
    · exact batch_unreadable hcap hh (Bool.not_eq_false _ ▸ fun hb => hr (batchBad_isNone_iff.1 hb))
  · exact fun hf hroom => seal_passes hj hw hbad hf hroom
  · exact fun hf => seal_meets_fence hj hw hbad hf
  · exact fun hu => seal_meets_error hj hw hbad hu
  · exact ⟨_, exec_signedStatement hcap hr hj, stated_spec s _ p.isLt⟩

end Sys2Proof.Claims
end

section
/-! PROOF. Packets, sowing and the completion of launches (R21, R281–R287, R390). -/

namespace Sys2Proof.Claims

open Sys2Proof Sys2Proof.Machine

/-! Words that are read (R210). -/

theorem swept_sweepWaits (s : State) (c : Ctx) (p : List Nat) : Swept s (s.sweepWaits c p) :=
  swept_foldl (fun (s : State) k => s.sweepAt c (pktWait p k).1 8) (fun s _ => swept_sweepAt s c _ 8) _ s

theorem sweep_of_poison_nil {s : State} (a n : Nat) (h : s.pkg.poison = []) : s.sweep a n = s := by
  refine sweep_of_badWords_nil ?_
  unfold State.badWords
  rw [h]
  rfl

theorem sweepAt_eq_self {s : State} {c : Ctx} {va n : Nat} (h : ∀ pa, s.translate c .load va = .ok pa → s.badWords (pa % pkgSpan) n = []) :
    s.sweepAt c va n = s := by
  unfold State.sweepAt
  split
  · rfl
  next pa hpa =>
    split
    · exact sweep_of_badWords_nil (h pa hpa)
    · rfl

theorem foldl_eq_self {α : Type} {g : State → α → State} {s : State} {l : List α} (h : ∀ x ∈ l, g s x = s) : l.foldl g s = s := by
  induction l with
  | nil => rfl
  | cons x t ih =>
    rw [List.foldl_cons, h x (by simp)]
    exact ih fun y hy => h y (by simp [hy])

theorem sweepWaits_eq_self {s : State} {c : Ctx} {p : List Nat} (h : ∀ k pa, k < pktWaits p → k < 2 →
    s.translate c .load (pktWait p k).1 = .ok pa → s.badWords (pa % pkgSpan) 8 = []) : s.sweepWaits c p = s := by
  refine foldl_eq_self fun k hk => sweepAt_eq_self fun pa hpa => h k pa ?_ ?_ hpa
  · rw [List.mem_range] at hk
    omega
  · rw [List.mem_range] at hk
    omega

theorem waitConditionEvaluation_reads (q : Nat) (s : State) :
    ∃ t, exec (.waitConditionEvaluation q) s = .next t ∧ Swept s t ∧ (s.pkg.poison = [] → t = s) := by
  refine ⟨_, rfl, ?_⟩
  dsimp only
  split
  · exact ⟨Swept.refl s, fun _ => rfl⟩
  · refine ⟨swept_sweepWaits s _ _, fun hp => sweepWaits_eq_self fun k pa _ _ _ => ?_⟩
    unfold State.badWords
    rw [hp]
    rfl

/-! Taking a packet (R279, R281, R283). -/

/-- The state in which its dispatcher serves the head packet of queue `q`. -/
def serving (s : State) (q : Nat) (g : Gang) : State :=
  { s with pkg := { s.pkg with served := vput s.pkg.served (4 * (s.wq q).die + g.prio) q } }

theorem seatsFound_serving (s : State) (q : Nat) (g : Gang) (d : Nat) (taken : List (Nat × Nat)) (done : List (Seat × Nat × Nat))
    (l : List Seat) : (serving s q g).seatsFound d taken done l = s.seatsFound d taken done l := by
  induction l generalizing taken done with
  | nil => rfl
  | cons w t ih =>
    have hfirst : (serving s q g).firstShare d w.share taken ((serving s q g).seatFits d done w)
        = s.firstShare d w.share taken (s.seatFits d done w) := rfl
    unfold State.seatsFound
    rw [hfirst]
    split
    · exact ih _ _
    · exact ih _ _

/-- Accesses are checked by what translates, refuses and spoils a byte. -/
theorem accessBytes_congr {s u : State} (ht : u.translate = s.translate) (hr : u.refusePhys = s.refusePhys) (hb : u.badPhys = s.badPhys) :
    u.accessBytes = s.accessBytes := by
  have hadmit : ∀ c k b l, u.admitBytes c k b l = s.admitBytes c k b l := by
    intro c k b l
    induction l with
    | nil => rfl
    | cons va t ih =>
      unfold State.admitBytes
      rw [ht, hr, ih]
  funext c k b l
  unfold State.accessBytes
  rw [hadmit, hb]

/-- Queues and interrupts say nothing about an access. -/
theorem accessBytes_queues (s : State) (x : Vector Nat 12) (y : SMap WQ) (z : Vector Nat 4) :
    ({ s with pkg := { s.pkg with served := x, wqs := y, msix := z } } : State).accessBytes = s.accessBytes := by
  refine accessBytes_congr ?_ ?_ ?_
  · rfl
  · rfl
  · rfl

/-- Which queue was served last says nothing about a packet. -/
theorem takeReason_serving (s : State) (q : Nat) (g : Gang) (p : List Nat) (k : Gang) (b : Bool) :
    (serving s q g).takeReason p k b = s.takeReason p k b := by
  unfold State.takeReason State.unplaceable State.placeSeats
  rw [seatsFound_serving]
  rfl

/-- The head packet of queue `q` is its dispatcher's choice, and nothing that is read of it is uncorrectable. -/
structure HeadServed (s : State) (q : Nat) : Prop where
  choice : s.choice (s.wq q).die = some (.queue q)
  sound : s.badWords ((s.wq q).slot (s.wq q).head.toNat) 128 = []
  waits : ∀ k pa, k < pktWaits (s.ringPacket q (s.wq q).head.toNat) → k < 2 →
    s.translate ⟨(s.wq q).root.toNat, pktPriv (s.ringPacket q (s.wq q).head.toNat), (s.wq q).die⟩ .load
      (pktWait (s.ringPacket q (s.wq q).head.toNat) k).1 = .ok pa → s.badWords (pa % pkgSpan) 8 = []

theorem exec_packetTake {q : Nat} {s : State} (h : HeadServed s q) :
    exec (.packetTake q) s = .next (
      let w := s.wq q
      let p := s.ringPacket q w.head.toNat
      let g := gangOf p q w.head.toNat w.die w.root
      let u := serving s q g
      if s.takeReason p g w.privok != 0 then u.reject q p g (s.takeReason p g w.privok)
      else
        let s1 := u.setWq q { w with head := w.head + 1 }
        { s1 with pkg := { s1.pkg with
            gangs := s1.pkg.gangs ++ [{ g with gid := s1.pkg.nextGang, order := s1.pkg.nextOrder }]
            nextGang := s1.pkg.nextGang + 1
            nextOrder := s1.pkg.nextOrder + 1 } }) := by
  show execPacketTake q s = _
  unfold execPacketTake
  refine congrArg Host.Outcome.next ?_
  dsimp only
  rw [if_neg (by simp [h.choice])]
  have hw : (serving s q (gangOf (s.ringPacket q (s.wq q).head.toNat) q (s.wq q).head.toNat (s.wq q).die (s.wq q).root)).sweepWaits
      ⟨(s.wq q).root.toNat, pktPriv (s.ringPacket q (s.wq q).head.toNat), (s.wq q).die⟩ (s.ringPacket q (s.wq q).head.toNat)
      = serving s q (gangOf (s.ringPacket q (s.wq q).head.toNat) q (s.wq q).head.toNat (s.wq q).die (s.wq q).root) :=
    sweepWaits_eq_self h.waits
  have hs : (serving s q (gangOf (s.ringPacket q (s.wq q).head.toNat) q (s.wq q).head.toNat (s.wq q).die (s.wq q).root)).sweep
      ((s.wq q).slot (s.wq q).head.toNat) 128
      = serving s q (gangOf (s.ringPacket q (s.wq q).head.toNat) q (s.wq q).head.toNat (s.wq q).die (s.wq q).root) :=
    sweep_of_badWords_nil h.sound
  have hr := takeReason_serving s q (gangOf (s.ringPacket q (s.wq q).head.toNat) q (s.wq q).head.toNat (s.wq q).die (s.wq q).root)
    (s.ringPacket q (s.wq q).head.toNat) (gangOf (s.ringPacket q (s.wq q).head.toNat) q (s.wq q).head.toNat (s.wq q).die (s.wq q).root)
    (s.wq q).privok
  unfold serving at hw hs hr ⊢
  rw [hw, hs, hr]

theorem bumpCword_zero (s : State) {g : Gang} (h : g.cword = 0) : s.bumpCword g = s := by
  unfold State.bumpCword
  exact if_pos h

theorem wq_wqDone (s : State) (q k : Nat) : (s.wqDone q).wq k = if k = q then { s.wq q with done := (s.wq q).done + 1 } else s.wq k :=
  wq_setWq s q k _

/-- The state in which the head packet of queue `q` has been turned down (R281), with these interrupts counted. -/
def turnedDown (s : State) (q reason : Nat) (m : Vector Nat 4) : State :=
  let w := s.wq q
  let s1 := s.setWq q { w with head := w.head + 1, stat := BitVec.ofNat 64 (w.stat.toNat / 65536 * 65536 + 256 * reason + 1) }
  { s1 with pkg := { s1.pkg with msix := m } }

theorem wq_turnedDown (s : State) (q reason : Nat) (m : Vector Nat 4) : (turnedDown s q reason m).wq q
    = { s.wq q with head := (s.wq q).head + 1, stat := BitVec.ofNat 64 ((s.wq q).stat.toNat / 65536 * 65536 + 256 * reason + 1) } :=
  (wq_setWq s q q _).trans (if_pos rfl)

/-- What a packet that was turned down changes: its queue, and what was served and interrupted. -/
theorem turnedDown_rest (s : State) (q reason : Nat) (m : Vector Nat 4) :
    SameButPkg s ((turnedDown s q reason m).wqDone q) ∧ ((turnedDown s q reason m).wqDone q).pkg.gangs = s.pkg.gangs :=
  ⟨⟨rfl, rfl, rfl, fun _ => rfl⟩, rfl⟩

/-- A rejection whose completion word is none, or misaligned. -/
theorem reject_eq {s : State} {q : Nat} (reason : Nat) {p : List Nat} {g : Gang} (hw : pkt p 11 % 8 ≠ 0 ∨ g.cword = 0) :
    ∃ m, s.reject q p g reason = (if badArea p || s.areaUnmapped g then turnedDown s q reason m
      else (turnedDown s q reason m).launchWrite g g.area.toNat (g.record 2 reason 0 0 false [])).wqDone q := by
  have hword : ∀ u : State, (if pkt p 11 % 8 != 0 then u else u.bumpCword g) = u := by
    intro u
    rcases hw with h | h
    · exact if_pos (by simpa using h)
    · rw [bumpCword_zero u h, ite_self]
  unfold State.reject
  dsimp only
  rw [hword]
  cases bitAt (s.wq q).stat.toNat 0
  · exact ⟨s.pkg.msix.set 3 (s.pkg.msix[3] + 1), rfl⟩
  · exact ⟨s.pkg.msix, rfl⟩

/-- A record without a fault (R282). -/
theorem record_eq (g : Gang) (status reason : Nat) :
    g.record status reason 0 0 false [] = leBytes 8 (status + 256 * reason + 2 ^ 32 * g.seq) ++ List.replicate 56 0 := by
  unfold Gang.record
  have hzero : (List.range 5).flatMap (fun k => leBytes 8 (([] : List W64).getD k 0).toNat) ++ leBytes 16 0 = List.replicate 56 0 := by decide
  rw [List.append_assoc, hzero]
  simp

/-- A launch's write of its record, where its area can be written. -/
theorem launchWrite_writes {s : State} {g : Gang} {va : Nat} {l : List Byte} {pas : List Nat}
    (h : s.accessBytes g.ctx .store true (vaRange va l.length) = .ok pas) (hmem : AllMemory s pas) :
    ∃ l2, s.launchWrite g va l = { s.meetStrips false (pas.map s.key) with
      mem := (s.kept pas l).foldl (fun m e => writeCell m e.1 e.2) s.mem, pkg := { s.pkg with l2 := l2 } } := by
  unfold State.launchWrite
  rw [h]
  exact (s.meetStrips false (pas.map s.key)).physWrites_kept .management g.die pas l hmem

section Packet

variable {q : Nat} {s : State} {w : WQ} {p : List Nat} {g : Gang}

theorem packet_taken (h : HeadServed s q) (hw : w = s.wq q) (hp : p = s.ringPacket q w.head.toNat)
    (hg : g = gangOf p q w.head.toNat w.die w.root) (hr : s.takeReason p g w.privok = 0) :
    ∃ t, exec (.packetTake q) s = .next t ∧ SameButPkg s t ∧ t.wq q = { w with head := w.head + 1 }
      ∧ t.pkg.gangs = s.pkg.gangs ++ [{ g with gid := s.pkg.nextGang, order := s.pkg.nextOrder }] := by
  subst hw hp hg
  refine ⟨_, exec_packetTake h, ?_⟩
  dsimp only
  rw [if_neg (by simp [hr])]
  exact ⟨⟨rfl, rfl, rfl, fun _ => rfl⟩, (wq_setWq _ q q _).trans (if_pos rfl), rfl⟩

theorem exec_packetTake_rejects (h : HeadServed s q) (hw : w = s.wq q) (hp : p = s.ringPacket q w.head.toNat)
    (hg : g = gangOf p q w.head.toNat w.die w.root) (hr : s.takeReason p g w.privok ≠ 0)
    (hword : pkt p 11 % 8 ≠ 0 ∨ pkt p 11 % 2 ^ 64 = 0) :
    ∃ m, exec (.packetTake q) s = .next ((if badArea p || s.areaUnmapped g
      then turnedDown (serving s q g) q (s.takeReason p g w.privok) m
      else (turnedDown (serving s q g) q (s.takeReason p g w.privok) m).launchWrite g g.area.toNat
        (g.record 2 (s.takeReason p g w.privok) 0 0 false [])).wqDone q) := by
  have hword' : pkt p 11 % 8 ≠ 0 ∨ g.cword = 0 := by
    refine hword.imp_right fun h => ?_
    rw [hg]
    refine BitVec.eq_of_toNat_eq ?_
    show (BitVec.ofNat 64 (pkt p 11)).toNat = 0
    rw [BitVec.toNat_ofNat]
    exact h
  obtain ⟨m, hm⟩ := reject_eq (s := serving s q g) (q := q) (s.takeReason p g w.privok) hword'
  refine ⟨m, ?_⟩
  rw [exec_packetTake h]
  subst hw hp hg
  refine congrArg Host.Outcome.next ?_
  dsimp only
  rw [if_pos (by simpa using hr), hm]
  rfl

theorem packet_rejected (h : HeadServed s q) (hw : w = s.wq q) (hp : p = s.ringPacket q w.head.toNat)
    (hg : g = gangOf p q w.head.toNat w.die w.root) (hr : s.takeReason p g w.privok ≠ 0)
    (harea : badArea p = true ∨ s.areaUnmapped g = true) (hword : pkt p 11 % 8 ≠ 0 ∨ pkt p 11 % 2 ^ 64 = 0) :
    ∃ t, exec (.packetTake q) s = .next t ∧ SameButPkg s t ∧ t.pkg.gangs = s.pkg.gangs ∧ t.wq q = { w with
      head := w.head + 1, done := w.done + 1
      stat := BitVec.ofNat 64 (w.stat.toNat / 65536 * 65536 + 256 * s.takeReason p g w.privok + 1) } := by
  obtain ⟨m, hm⟩ := exec_packetTake_rejects h hw hp hg hr hword
  rw [if_pos (by simpa using harea)] at hm
  obtain ⟨hrest, hgangs⟩ := turnedDown_rest (serving s q g) q (s.takeReason p g w.privok) m
  refine ⟨_, hm, hrest, hgangs, ?_⟩
  rw [wq_wqDone, if_pos rfl, wq_turnedDown, hw]
  rfl

theorem packet_recorded (h : HeadServed s q) (hw : w = s.wq q) (hp : p = s.ringPacket q w.head.toNat)
    (hg : g = gangOf p q w.head.toNat w.die w.root) (hr : s.takeReason p g w.privok ≠ 0)
    (hbad : badArea p = false) (hmap : s.areaUnmapped g = false) (hword : pkt p 11 % 2 ^ 64 = 0) {pas : List Nat}
    (hpas : s.accessBytes g.ctx .store true (vaRange g.area.toNat 64) = .ok pas) (hmem : AllMemory s pas) :
    ∃ t, exec (.packetTake q) s = .next t ∧ t.pkg.gangs = s.pkg.gangs ∧ (t.wq q).done = w.done + 1
      ∧ StoresAt s t pas (leBytes 8 (2 + 256 * s.takeReason p g w.privok + 2 ^ 32 * g.seq) ++ List.replicate 56 0) := by
  obtain ⟨m, hm⟩ := exec_packetTake_rejects h hw hp hg hr (Or.inr hword)
  rw [if_neg (by simp [hbad, hmap])] at hm
  rw [record_eq] at hm
  have hlen : (leBytes 8 (2 + 256 * s.takeReason p g w.privok + 2 ^ 32 * g.seq) ++ List.replicate 56 0 : List Byte).length = 64 := by
    rw [List.length_append, leBytes_length, List.length_replicate]
  generalize (leBytes 8 (2 + 256 * s.takeReason p g w.privok + 2 ^ 32 * g.seq) ++ List.replicate 56 0 : List Byte) = l at hm hlen ⊢
  have haccess : (turnedDown (serving s q g) q (s.takeReason p g w.privok) m).accessBytes = s.accessBytes :=
    accessBytes_queues s _ _ _
  obtain ⟨l2, hl⟩ := launchWrite_writes (s := turnedDown (serving s q g) q (s.takeReason p g w.privok) m) (g := g) (va := g.area.toNat)
    (l := l) (pas := pas) (by rw [hlen, haccess]; exact hpas) hmem
  rw [hl] at hm
  refine ⟨_, hm, rfl, ?_, storesAt_of_mem rfl⟩
  have hdone : ((turnedDown (serving s q g) q (s.takeReason p g w.privok) m).wq q).done = w.done := by
    rw [wq_turnedDown, hw]
    rfl
  rw [wq_wqDone, if_pos rfl]
  exact congrArg (· + 1) hdone

end Packet

/-! Sowing (R21, R285, R286). -/

theorem vget_launchX (g : Gang) (idx : Nat) {k : Nat} (hk : k < 32) : vget 0 (launchX g idx) k =
    if k = 10 then g.count else if k = 11 then BitVec.ofNat 64 idx else if k = 12 then BitVec.ofNat 64 g.n
    else if 13 ≤ k ∧ k ≤ 17 then g.args.getD (k - 13) 0 else if 5 ≤ k ∧ k ≤ 7 then g.args.getD k 0 else 0 := by
  unfold vget launchX
  rw [dif_pos hk, Vector.getElem_ofFn]
  simp [Nat.lt_succ_iff]

theorem beginsLaunch_sownHart (s : State) (g : Gang) (uid : Nat) (e : Seat × Nat × Nat) : BeginsLaunch g (s.sownHart g uid e) e.1.idx :=
  ⟨rfl, rfl, rfl, rfl, rfl, rfl, rfl, fun _ hk => vget_launchX g e.1.idx hk⟩

/-- The entries of a gang that was set and whose grant was computed again. -/
theorem gangIs_regrant {s : State} {g : Gang} {P : Gang → Prop} (hs : ∃ u : State, s.pkg.gangs = (u.setGang g).pkg.gangs)
    (h : ∀ v, P { g with gvlmax := v }) : GangIs (s.regrant g.gid) g.gid P := by
  obtain ⟨u, hu⟩ := hs
  intro x hx hid
  unfold State.regrant at hx
  dsimp only at hx
  rw [hu] at hx
  obtain ⟨y, hy, rfl⟩ := List.mem_map.1 hx
  obtain ⟨z, hz, rfl⟩ := List.mem_map.1 hy
  by_cases hzg : z.gid = g.gid
  · rw [if_pos hzg, if_pos rfl]
    exact h _
  · rw [if_neg hzg, if_neg hzg] at hid
    exact absurd hid hzg

theorem exec_gangSowing {s : State} {g : Gang} {held : List (Nat × Nat)} {seats : List (Seat × Nat × Nat)} (hg : s.gangById g.gid = some g)
    (hsown : g.sown = false) (hc : s.chosenGang g = some held) (hp : s.placement g held (fun _ => false) = some seats) :
    exec (.gangSowing g.gid) s = .next (s.sow g seats) := by
  show execGangSowing g.gid s = _
  unfold execGangSowing
  refine congrArg Host.Outcome.next ?_
  rw [hg]
  dsimp only
  rw [if_neg (by simp [hsown]), hc, Option.bind_some, hp]

/-- The members of a gang that is sown on these seats. -/
def sownHarts (s : State) (g : Gang) (seats : List (Seat × Nat × Nat)) : List Hart :=
  seats.zipIdx.map (fun e => s.sownHart g (s.pkg.nextUid + e.2) e.1)

theorem others_sow (s : State) (g : Gang) (seats : List (Seat × Nat × Nat)) :
    (s.sow g seats).others = s.others.filter (fun h => !h.replaced (sownHarts s g seats)) ++ sownHarts s g seats := by
  unfold State.sow State.regrant
  dsimp only
  rfl

theorem sow_spec (s : State) (g : Gang) (seats : List (Seat × Nat × Nat)) : ∃ hs, (s.sow g seats).cpu = s.cpu
    ∧ (s.sow g seats).others = s.others.filter (fun h => !h.replaced hs) ++ hs ∧ hs.length = seats.length ∧ SameMem s (s.sow g seats)
    ∧ (∀ (k : Nat) (e : Seat × Nat × Nat) (h : Hart), seats[k]? = some e → hs[k]? = some h →
        BeginsLaunch g h e.1.idx ∧ (h.id.gang, h.id.die, h.id.core, h.id.slot) = (g.gid, g.die, e.2.1, e.2.2)
          ∧ (h.id.idx, h.id.copy, h.id.priv) = (e.1.idx, e.1.copy, g.priv))
    ∧ GangIs (s.sow g seats) g.gid (fun x => x.sown = true ∧ x.bars = Vector.replicate 2 { Barrier.reset with live := g.n }) := by
  have hmem : (s.sow g seats).mem = s.mem := rfl
  refine ⟨sownHarts s g seats, rfl, others_sow s g seats, ?_, fun a => by rw [hmem], fun k e h he hh => ?_, ?_⟩
  · rw [sownHarts, List.length_map, List.length_zipIdx]
  · rw [sownHarts, List.getElem?_map, List.getElem?_zipIdx, he] at hh
    obtain rfl := Option.some.inj hh
    exact ⟨beginsLaunch_sownHart s g _ e, rfl, rfl⟩
  · unfold State.sow
    exact gangIs_regrant (g := { g with
      sown := true, bars := Vector.replicate 2 { Barrier.reset with live := g.n }, order := s.pkg.nextOrder, quantum := vget 0 s.pkg.quantum g.die })
      ⟨s, rfl⟩ fun v => ⟨rfl, rfl⟩

/-! Completion (R287, R390). -/

theorem performGang_eq_self {s : State} {g : Gang} (h : ∀ h ∈ s.gangHarts g.gid, (h.back.chans.toList.all (fun c => c.ops.isEmpty)) = true
    ∧ ∀ p, p < 16 → (s.part p).unwritten (fun r => r.hart = h.id.uid) = 0) : s.performGang g = s := by
  refine foldl_eq_self fun x hx => ?_
  obtain ⟨hops, hrecs⟩ := h x hx
  unfold State.performOf
  rw [if_pos hops]
  unfold State.writeRecords
  exact upto_eq_self_of_lt fun p hp => by rw [hrecs p hp, upto_zero]

theorem exec_launchCompletion {s : State} {g : Gang} (hg : s.gangById g.gid = some g) (hdone : s.gangDone g = true) (hf : g.fault = none)
    (hdup : g.dup = false) (hw : g.cword = 0) (hrest : s.performGang g = s) :
    exec (.launchCompletion g.gid) s = .next (((s.launchWrite g g.area.toNat (g.record 1 0 0 0 false [])).wqDone g.queue).dropGang g.gid) := by
  show execLaunchCompletion g.gid s = _
  unfold execLaunchCompletion
  refine congrArg Host.Outcome.next ?_
  rw [hg]
  dsimp only
  rw [if_pos hdone]
  unfold State.completeGang
  dsimp only
  have hm : s.twinsDiffer g = false := by
    unfold State.twinsDiffer
    rw [hdup]
    rfl
  rw [hrest, hm, hf]
  dsimp only
  rw [bumpCword_zero _ hw]
  rfl

/-- A hart of a launch that has completed (R390). -/
theorem gone_spec (h : Hart) (gid : Nat) :
    (((if h.id.gang = gid then h.gone else h).id, (if h.id.gang = gid then h.gone else h).front) = (h.id, h.front))
      ∧ ((if h.id.gang = gid then h.gone else h).id.gang = gid → (if h.id.gang = gid then h.gone else h).status = .absent) := by
  by_cases hg : h.id.gang = gid
  · rw [if_pos hg]
    exact ⟨rfl, fun _ => rfl⟩
  · rw [if_neg hg]
    exact ⟨rfl, fun h => absurd h hg⟩

theorem dropGang_spec (s : State) (gid : Nat) : GangIs (s.dropGang gid) gid (fun _ => False)
    ∧ (∀ h ∈ (s.dropGang gid).cpu :: (s.dropGang gid).others, h.id.gang = gid → h.status = .absent)
    ∧ ((s.dropGang gid).cpu :: (s.dropGang gid).others).map (fun h => (h.id, h.front)) = (s.cpu :: s.others).map (fun h => (h.id, h.front)) := by
  have hharts : (s.dropGang gid).cpu :: (s.dropGang gid).others = (s.cpu :: s.others).map (fun h => if h.id.gang = gid then h.gone else h) := rfl
  rw [hharts]
  refine ⟨fun x hx hid => ?_, fun x hx => ?_, ?_⟩
  · have := List.of_mem_filter hx
    simp [hid] at this
  · obtain ⟨h, -, rfl⟩ := List.mem_map.1 hx
    exact (gone_spec h gid).2
  · rw [List.map_map]
    exact List.map_congr_left fun h _ => (gone_spec h gid).1

theorem launch_completes {s : State} {g : Gang} {pas : List Nat} (hg : s.gangById g.gid = some g) (hdone : s.gangDone g = true)
    (hf : g.fault = none) (hdup : g.dup = false) (hw : g.cword = 0)
    (hrest : ∀ h ∈ s.gangHarts g.gid, (h.back.chans.toList.all (fun c => c.ops.isEmpty)) = true
      ∧ ∀ p, p < 16 → (s.part p).unwritten (fun r => r.hart = h.id.uid) = 0)
    (hpas : s.accessBytes g.ctx .store true (vaRange g.area.toNat 64) = .ok pas) (hmem : AllMemory s pas) :
    ∃ t, exec (.launchCompletion g.gid) s = .next t
      ∧ StoresAt s t pas (leBytes 8 (1 + 2 ^ 32 * g.seq) ++ List.replicate 56 0)
      ∧ (t.wq g.queue).done = (s.wq g.queue).done + 1
      ∧ GangIs t g.gid (fun _ => False) ∧ (∀ h ∈ t.cpu :: t.others, h.id.gang = g.gid → h.status = .absent)
      ∧ (t.cpu :: t.others).map (fun h => (h.id, h.front)) = (s.cpu :: s.others).map (fun h => (h.id, h.front)) := by
  have he := exec_launchCompletion hg hdone hf hdup hw (performGang_eq_self hrest)
  rw [record_eq, show 1 + 256 * 0 + 2 ^ 32 * g.seq = 1 + 2 ^ 32 * g.seq by omega] at he
  have hlen : (leBytes 8 (1 + 2 ^ 32 * g.seq) ++ List.replicate 56 0 : List Byte).length = 64 := by
    rw [List.length_append, leBytes_length, List.length_replicate]
  generalize (leBytes 8 (1 + 2 ^ 32 * g.seq) ++ List.replicate 56 0 : List Byte) = l at he hlen ⊢
  obtain ⟨l2, hl⟩ := launchWrite_writes (s := s) (g := g) (va := g.area.toNat) (l := l) (by rw [hlen]; exact hpas) hmem
  rw [hl] at he
  obtain ⟨hgang, habsent, hkept⟩ := dropGang_spec (({ s.meetStrips false (pas.map s.key) with
    mem := (s.kept pas l).foldl (fun m e => writeCell m e.1 e.2) s.mem, pkg := { s.pkg with l2 := l2 } } : State).wqDone g.queue) g.gid
  refine ⟨_, he, storesAt_of_mem rfl, ?_, hgang, habsent, ?_⟩
  · exact congrArg WQ.done ((wq_wqDone _ g.queue g.queue).trans (if_pos rfl))
  · rw [hkept, List.map_cons, List.map_cons]
    refine congrArg₂ List.cons rfl ?_
    exact (List.map_map ..)

/-- Settles O50: each event's state is an equation where what it reads is sound, and its claims are read off that state. -/
theorem packetsAndLaunches : Obligations.PacketsAndLaunches := by
  unfold Obligations.PacketsAndLaunches
  refine ⟨waitConditionEvaluation_reads, fun q s hc => ?_, fun s g held seats hg hsown hc hp => ?_,
    fun s g pas hg hdone hf hdup hw hrest hpas hmem => launch_completes hg hdone hf hdup hw hrest hpas hmem⟩
  · intro w p g hbad hwaits
    have h : HeadServed s q := ⟨hc, hbad, hwaits⟩
    exact ⟨fun hr => packet_taken h rfl rfl rfl hr, fun hr ha hw => packet_rejected h rfl rfl rfl hr ha hw,
      fun pas hr hb hm hw hpas hmem => packet_recorded h rfl rfl rfl hr hb hm hw hpas hmem⟩
  · obtain ⟨hs, h⟩ := sow_spec s g seats
    exact ⟨_, hs, exec_gangSowing hg hsown hc hp, h⟩

end Sys2Proof.Claims
end

section
/-! PROOF. Pre-emption, restore and quanta (R27, R28, R193, R195, R229). -/

namespace Sys2Proof.Claims

open Sys2Proof Sys2Proof.Machine

/-! Writes of a save area (R194): only memory, what the L2s hold and the strips change. -/

/-- At most memory, what the L2s hold of it and the strips have changed. -/
def AreaWritten (s t : State) : Prop := SameCpu s t ∧ SameOthers s t ∧ SamePkg s t

theorem SamePkg.trans {s t u : State} (h : SamePkg s t) (h' : SamePkg t u) : SamePkg s u := by
  unfold SamePkg at *
  rw [h']
  dsimp only
  rw [h]

theorem SameOthers.congr {s t u : State} (h : SameOthers s t) (he : u.others = t.others) : SameOthers s u := by
  unfold SameOthers
  rw [he]
  exact h

theorem SamePkg.congr {s t u : State} (h : SamePkg s t) (he : u.pkg = t.pkg) : SamePkg s u := by
  unfold SamePkg
  rw [he]
  exact h

theorem AreaWritten.refl (s : State) : AreaWritten s s := ⟨SameCpu.refl s, SameOthers.of_eq rfl, SamePkg.of_eq rfl⟩

theorem AreaWritten.trans {s t u : State} (h : AreaWritten s t) (h' : AreaWritten t u) : AreaWritten s u :=
  ⟨h.1.trans h'.1, h.2.1.trans h'.2.1, h.2.2.trans h'.2.2⟩

theorem areaWritten_foldl {α : Type} {g : State → α → State} (hg : ∀ s x, AreaWritten s (g s x)) (l : List α) (s : State) : AreaWritten s (l.foldl g s) := by
  induction l generalizing s with
  | nil => exact AreaWritten.refl s
  | cons x t ih => exact (hg s x).trans (ih (g s x))

/-- A byte of this package that may be written atomically is memory. -/
theorem isMem_of_byteAccess {s : State} {c : Ctx} {va pa : Nat} (h : s.byteAccess c .store true va = .ok pa) (hl : s.isLocal pa = true) :
    (regionOf (pa % pkgSpan)).isMem = true := by
  unfold State.byteAccess State.checkPhys at h
  cases ht : s.translate c .store va with
  | error f => simp [ht] at h
  | ok q =>
    cases hr : s.refusePhys c.die .store true va q with
    | some f => simp [ht, hr] at h
    | none =>
      cases hb : s.badPhys .store q with
      | some f => simp [ht, hr, hb] at h
      | none =>
        have hq : q = pa := by simpa [ht, hr, hb] using h
        exact isMem_of_refusePhys hl (hq ▸ hr)

/-- The write of an agent to a byte that it may write atomically. -/
theorem areaWritten_physWriteList {s : State} {c : Ctx} {va pa : Nat} (d : Nat) (b : Byte) (h : s.byteAccess c .store true va = .ok pa) :
    AreaWritten s (s.physWriteList .management d [pa] [b]) := by
  have hmem : ∀ q ∈ [pa], ¬(s.isLocal q = true ∧ (regionOf (q % pkgSpan)).isMem = false) := by
    rintro q hq ⟨hl, hm⟩
    obtain rfl := List.mem_singleton.1 hq
    rw [isMem_of_byteAccess h hl] at hm
    exact absurd hm (by decide)
  obtain ⟨l2, he⟩ := (s.meetStrips false ([pa].map s.key)).physWrites_kept .management d [pa] [b] hmem
  have hw : s.physWriteList .management d [pa] [b] = (s.meetStrips false ([pa].map s.key)).physWrites .management d [pa] [b] := rfl
  rw [hw, he]
  exact ⟨sameCpu_meetStrips s false _, sameOthers_meetStrips s false _, rfl⟩

theorem areaWritten_areaWrite (s : State) (h : Hart) (off : Nat) (l : List Byte) : AreaWritten s (s.areaWrite h off l) := by
  refine areaWritten_foldl (fun u e => ?_) _ s
  split
  · exact AreaWritten.refl u
  next pa hpa => exact areaWritten_physWriteList _ _ hpa

theorem areaWritten_tock (s : State) : AreaWritten s s.tock := ⟨SameCpu.refl s, SameOthers.of_eq rfl, SamePkg.of_eq rfl⟩

theorem areaWritten_sections (s : State) (h : Hart) (l : List (Nat × List Byte)) :
    AreaWritten s (l.foldl (fun s e => s.areaWrite h e.1 e.2) s) := by
  induction l generalizing s with
  | nil => exact AreaWritten.refl s
  | cons e t ih => exact (areaWritten_areaWrite s h e.1 e.2).trans (ih _)

theorem areaWritten_saveHart (s : State) (h : Hart) : AreaWritten s (s.saveHart h) := by
  unfold State.saveHart
  generalize s.saveSections h = l
  generalize leBytes 8 1 = m
  exact ((areaWritten_sections s h l).trans (areaWritten_areaWrite _ h 0 m)).trans (areaWritten_tock _)

/-! Pre-emption (R27, R193). -/

/-- The hart at hand at its boundary, nothing of it being in flight. -/
theorem toBoundary_of_empty {h : Hart} (hin : h.inflight = []) :
    h.toBoundary = { h with wait := none, lanes := none, halting := false, owed := [] } := by
  unfold Hart.toBoundary
  rw [hin]

/-- Delivering the results of a hart that has none. -/
theorem deliverGrammar_of_empty {s : State} (h : s.cpu.back.gram.pend = []) : s.deliverGrammar = s := by
  have hg : { s.cpu.back.gram with pend := s.cpu.back.gram.pend.filter (fun p => p.fault.isSome) } = s.cpu.back.gram := by
    rw [h, List.filter_nil, ← h]
  show s.setBack { s.cpu.back with gram := { s.cpu.back.gram with pend := s.cpu.back.gram.pend.filter (fun p => p.fault.isSome) } } = s
  rw [hg]
  rfl

/-- A hart of which every older write has performed (R229). -/
def performed (h : Hart) : Hart := { h with back := { h.back with strip := [], rels := [] } }

/-- The hart at hand as pre-emption takes it (R193, R229). -/
def taken (h : Hart) : Hart :=
  { h with
    wait := none, lanes := none, halting := false, owed := [], status := .saved, back := { h.back with strip := [], rels := [] } }

theorem putHart_self {s : State} {h : Hart} (hid : h.id = s.cpu.id) : s.putHart h = { s with cpu := h } := by
  unfold State.putHart
  exact if_pos (by rw [hid])

theorem hart?_self {s : State} (h : s.cpu.status ≠ .absent) : s.hart? s.cpu.id.uid = some s.cpu := by
  unfold State.hart? State.harts
  rw [List.filter_cons_of_pos (by simpa using h), List.find?_cons_of_pos (by simp)]

/-- The state in which the hart at hand is saved as `h`. -/
theorem saved_spec {s : State} {h : Hart} (hid : h.id = s.cpu.id) :
    ∃ v, ((s.putHart (performed h)).saveHart (performed h)).putHart { performed h with status := .saved } = v
      ∧ v.cpu = { performed h with status := .saved } ∧ SameOthers s v ∧ SamePkg s v := by
  have hput : s.putHart (performed h) = { s with cpu := performed h } := putHart_self hid
  rw [hput]
  obtain ⟨hcpu, hothers, hpkg⟩ := areaWritten_saveHart { s with cpu := performed h } (performed h)
  generalize ({ s with cpu := performed h } : State).saveHart (performed h) = w at hcpu hothers hpkg ⊢
  refine ⟨_, putHart_self ?_, rfl, hothers, hpkg⟩
  rw [hcpu]

theorem takeHart_self {s : State} (hq : Quiet s) (hrun : s.cpu.status = .running) :
    ∃ t, s.takeHart s.cpu.id.uid = t ∧ t.cpu = taken s.cpu ∧ SameOthers s t ∧ SamePkg s t := by
  have hb : s.asHart s.cpu.id.uid (fun s => State.deliverGrammar { s with cpu := s.cpu.toBoundary })
      = { s with cpu := { s.cpu with wait := none, lanes := none, halting := false, owed := [] } } := by
    unfold State.asHart
    rw [if_pos rfl]
    show State.deliverGrammar { s with cpu := s.cpu.toBoundary } = _
    rw [toBoundary_of_empty hq.1]
    exact deliverGrammar_of_empty hq.2.2.1
  have hh := hart?_self (s := { s with cpu := { s.cpu with wait := none, lanes := none, halting := false, owed := [] } })
    (by rw [hrun]; decide)
  obtain ⟨v, hv, hcpu, hothers, hpkg⟩ := saved_spec (s := s)
    (h := { s.cpu with wait := none, lanes := none, halting := false, owed := [] }) rfl
  refine ⟨v, ?_, hcpu, hothers, hpkg⟩
  unfold State.takeHart
  rw [hb, ← hv]
  dsimp only at hh
  rw [hh]
  rfl

theorem GangIs.of_map {s : State} {gid : Nat} {P : Gang → Prop} {f : Gang → Gang} {l : List Gang}
    (hs : s.pkg.gangs = l.map (fun g => if g.gid = gid then f g else g)) (h : ∀ g, P (f g)) : GangIs s gid P := by
  intro x hx hid
  rw [hs] at hx
  obtain ⟨y, -, rfl⟩ := List.mem_map.1 hx
  by_cases hy : y.gid = gid
  · rw [if_pos hy]
    exact h y
  · rw [if_neg hy] at hid
    exact absurd hid hy

theorem exec_preemption {s : State} {g : Gang} (hg : s.gangById g.gid = some g) (hv : s.isVictim g = true ∨ g.due = true)
    (hsaved : g.saved = false) (hdone : s.gangDone g = false) : exec (.preemption g.gid) s = .next (s.preempt g.gid) := by
  show execPreemption g.gid s = _
  unfold execPreemption
  refine congrArg Host.Outcome.next ?_
  rw [hg]
  dsimp only
  rw [if_pos (by simpa [hsaved, hdone] using hv)]

/-- The only hart of its gang that runs. -/
theorem runs_self {s : State} {gid : Nat} (hrun : s.cpu.status = .running) (hid : s.cpu.id.gang = gid)
    (hothers : ∀ h ∈ s.others, h.runs gid = false) : s.harts.filter (fun h => h.runs gid) = [s.cpu] := by
  have hcpu : s.cpu.runs gid = true := by simp [Hart.runs, hrun, hid]
  unfold State.harts
  rw [List.filter_filter, List.filter_cons_of_pos (by simp [hcpu, hrun]), List.filter_eq_nil_iff.2]
  intro h hh
  simp [hothers h hh]

theorem Quiet.hartRests {s : State} (h : Quiet s) : s.hartRests s.cpu = true := by
  have hc : ({ s with cpu := s.cpu } : State).channelsAtRest = true := h.channelsAtRest
  unfold State.hartRests State.inboundDue
  rw [hc, h.2.2.2]
  rfl

theorem preempt_quiet {s : State} {gid : Nat} (hq : Quiet s) (hrun : s.cpu.status = .running) (hid : s.cpu.id.gang = gid)
    (hothers : ∀ h ∈ s.others, h.runs gid = false) (hi : s.interruptible s.cpu = true) :
    (s.preempt gid).cpu = taken s.cpu ∧ SameOthers s (s.preempt gid)
      ∧ GangIs (s.preempt gid) gid (fun x => x.saved = true ∧ x.due = false ∧ x.order = s.pkg.nextOrder) := by
  obtain ⟨t, ht, hcpu, hsame, hpkg⟩ := takeHart_self hq hrun
  have hrest : s.asHart s.cpu.id.uid State.restEngines = s := by
    unfold State.asHart State.restEngines
    rw [if_pos rfl, hq.restChannels, hq.settleInbound]
  have he : s.preempt gid = { t with pkg := { t.pkg.release s.cpu.id.uid with
      gangs := (t.pkg.release s.cpu.id.uid).gangs.map (fun g =>
        if g.gid = gid then { g with saved := true, due := false, order := (t.pkg.release s.cpu.id.uid).nextOrder } else g)
      nextOrder := (t.pkg.release s.cpu.id.uid).nextOrder + 1 } } := by
    unfold State.preempt
    rw [runs_self hrun hid hothers]
    simp only [List.map_cons, List.map_nil, List.foldl_cons, List.foldl_nil, hrest, runs_self hrun hid hothers]
    rw [if_neg (by simp [hi, hq.hartRests]), ht]
  have horder : t.pkg.nextOrder = s.pkg.nextOrder := by rw [hpkg]
  rw [he]
  refine ⟨hcpu, hsame, GangIs.of_map rfl fun g => ⟨rfl, rfl, horder⟩⟩

/-! Quanta (R28). -/

theorem quantumExpiry_renews {s : State} {g : Gang} {h : Hart} (hg : s.gangById g.gid = some g) (hsown : g.sown = true)
    (hsaved : g.saved = false) (hdone : s.gangDone g = false) (hn : s.isNeeded g = false) (hm : h ∈ s.harts) (hid : h.id.gang = g.gid)
    (hrun : h.status = .running) (hp : h.id.parent = none) (hover : g.quantum ≤ (h.front.cycle - mget 0 g.since h.id.uid).toNat) :
    ∃ t, exec (.quantumExpiry g.gid) s = .next t ∧ SameButPkg s t
      ∧ GangIs t g.gid (fun x => x = { g with since := s.clocks g.gid, quantum := vget 0 s.pkg.quantum g.die }) := by
  have hq : s.quantumOver g = true := by
    unfold State.quantumOver State.gangHarts
    rw [List.any_eq_true]
    exact ⟨h, List.mem_filter.2 ⟨hm, by simp [hid]⟩, by rw [hrun, hp, decide_eq_true hover]; rfl⟩
  have he : exec (.quantumExpiry g.gid) s
      = .next (s.setGang { g with since := s.clocks g.gid, quantum := vget 0 s.pkg.quantum g.die }) := by
    show execQuantumExpiry g.gid s = _
    unfold execQuantumExpiry
    refine congrArg Host.Outcome.next ?_
    rw [hg]
    dsimp only
    rw [if_neg (by simp [hsown, hsaved, hdone, hq]), if_neg (by simp [hn])]
  refine ⟨_, he, ⟨rfl, rfl, rfl, fun _ => rfl⟩, ?_⟩
  exact GangIs.of_map (f := fun _ => { g with since := s.clocks g.gid, quantum := vget 0 s.pkg.quantum g.die }) rfl fun _ => rfl

/-! Restore (R195). -/

/-- The addresses that slots carry may have changed, and nothing else. -/
def Readdressed (s t : State) : Prop := ∃ m, t = { s with pkg := { s.pkg with slots := m } }

theorem readdressed_setSlotAddr (s : State) (d core slot : Nat) (a : Nat × Nat) : Readdressed s (s.setSlotAddr d core slot a) := ⟨_, rfl⟩

theorem Readdressed.trans {s t u : State} (h : Readdressed s t) (h' : Readdressed t u) : Readdressed s u := by
  obtain ⟨m, rfl⟩ := h
  obtain ⟨n, rfl⟩ := h'
  exact ⟨n, rfl⟩

theorem readdressed_carryAddr (s : State) (h : Hart) (to_ : Nat × Nat) (k : Nat) : Readdressed s (s.carryAddr h to_ k) := by
  unfold State.carryAddr
  split
  · exact ⟨s.pkg.slots, rfl⟩
  · split
    · exact ⟨s.pkg.slots, rfl⟩
    · exact (readdressed_setSlotAddr s _ _ _ _).trans (readdressed_setSlotAddr _ _ _ _ _)

theorem readdressed_upto (s : State) (h : Hart) (to_ : Nat × Nat) (n : Nat) : Readdressed s (upto n (fun k s => s.carryAddr h to_ k) s) :=
  upto_induction (P := Readdressed s) ⟨s.pkg.slots, rfl⟩ fun k u hu => hu.trans (readdressed_carryAddr u h to_ k)

/-- A save area is read at the same bytes whatever slots are called. -/
theorem areaRead_slots (s : State) (m : SMap (Nat × Nat)) (h : Hart) (off n : Nat) :
    ({ s with pkg := { s.pkg with slots := m } } : State).areaRead h off n = s.areaRead h off n := by
  have haccess : ({ s with pkg := { s.pkg with slots := m } } : State).accessBytes = s.accessBytes := by
    refine accessBytes_congr ?_ ?_ ?_
    · rfl
    · rfl
    · rfl
  have hbyte : ({ s with pkg := { s.pkg with slots := m } } : State).physByte = s.physByte := rfl
  unfold State.areaRead
  rw [haccess, hbyte]

/-- Hart `h` with what it has reloaded, at its place (R195). -/
def revived (h : Hart) (id : Ident) (vlmax : Nat) : Hart :=
  { h with
    id := id, front := { h.front with mreq := h.front.mreq &&& ~~~(1 : W64) }, back := h.back.clip vlmax, status := .running, wait := none }

theorem reload_eq {s : State} {h : Hart} {x l : List Byte} (hx : s.areaRead h 8 248 = some x) (hl : s.areaRead h 0x100 256 = some l) :
    ∃ b, s.reload h = { h with front := h.front.fromSection x l, back := b } := by
  unfold State.reload
  rw [hx, hl]
  exact ⟨_, rfl⟩

theorem revive_eq {s : State} {h : Hart} (base to_ : Nat × Nat) (hs : h.status = .saved) :
    s.revive h base to_ = (s.areaWrite h 0 (leBytes 8 0)).putHart
      (revived (s.reload h) (h.id.reseat base to_) (s.vlmaxOf (h.id.reseat base to_))) := by
  unfold State.revive revived
  exact if_neg (by simp [hs])

/-- The hart at hand comes back from its save area to a place. -/
theorem revive_saved {s : State} {h : Hart} {base to_ : Nat × Nat} (hs : h.status = .saved) (hid : h.id = s.cpu.id)
    {x l : List Byte} (hx : s.areaRead h 8 248 = some x) (hl : s.areaRead h 0x100 256 = some l) :
    ∃ b n, (s.revive h base to_).cpu = revived { h with front := h.front.fromSection x l, back := b } (h.id.reseat base to_) n
      ∧ SameOthers s (s.revive h base to_) ∧ SamePkg s (s.revive h base to_) := by
  obtain ⟨b, hr⟩ := reload_eq hx hl
  rw [revive_eq base to_ hs, hr]
  generalize s.vlmaxOf (h.id.reseat base to_) = n
  generalize leBytes 8 0 = m
  obtain ⟨hcpu, hothers, hpkg⟩ := areaWritten_areaWrite s h 0 m
  generalize s.areaWrite h 0 m = u at hcpu hothers hpkg ⊢
  have hput : u.putHart (revived { h with front := h.front.fromSection x l, back := b } (h.id.reseat base to_) n)
      = { u with cpu := revived { h with front := h.front.fromSection x l, back := b } (h.id.reseat base to_) n } :=
    if_pos (by rw [hcpu, ← hid]; rfl)
  rw [hput]
  exact ⟨b, n, rfl, hothers.congr rfl, hpkg.congr rfl⟩

theorem family_alone {s : State} (hp : s.cpu.id.parent = none) (h : ∀ h ∈ s.others, h.id.parent ≠ some s.cpu.id.uid) :
    s.family s.cpu = [s.cpu] := by
  have hf : s.harts.filter (fun h => h.id.parent = some s.cpu.id.uid && h.status != .absent) = [] := by
    rw [List.filter_eq_nil_iff]
    intro x hx
    rcases List.mem_cons.1 (List.mem_of_mem_filter hx) with rfl | hx
    · simp [hp]
    · simp [h x hx]
  unfold State.family descendants
  rw [hf]
  rfl

theorem code_address (n : Nat) : BitVec.ofNat 64 (n / 2 * 2) = BitVec.ofNat 64 n &&& ~~~(1 : W64) := by
  apply BitVec.eq_of_getLsbD_eq
  intro k hk
  rw [BitVec.getLsbD_and, BitVec.getLsbD_not, BitVec.getLsbD_ofNat, BitVec.getLsbD_ofNat]
  cases k with
  | zero => simp
  | succ k =>
    have hone : (1#64).getLsbD (k + 1) = false := by
      rw [BitVec.getLsbD_one]
      simp
    change _ = (_ && (_ && !(1#64).getLsbD (k + 1)))
    rw [hone, Nat.testBit_succ, Nat.testBit_succ, Nat.mul_div_cancel _ (by omega)]
    simp [hk]

theorem mask_pending (v : W64) : v &&& 0xFFFF0000FF01#64 &&& ~~~(1 : W64) = v &&& 0xFFFF0000FF00#64 := by
  rw [BitVec.and_assoc]
  rfl

/-- The hart at hand, alone in its gang's place, comes back there. -/
theorem restoreFamily_alone {s : State} {to_ : Nat × Nat} (hs : s.cpu.status = .saved) (hp : s.cpu.id.parent = none)
    (hkids : ∀ h ∈ s.others, h.id.parent ≠ some s.cpu.id.uid)
    {x l : List Byte} (hx : s.areaRead s.cpu 8 248 = some x) (hl : s.areaRead s.cpu 0x100 256 = some l) :
    ∃ b n m, (s.restoreFamily s.cpu to_).cpu = revived { s.cpu with front := s.cpu.front.fromSection x l, back := b }
        (s.cpu.id.reseat (s.cpu.id.core, s.cpu.id.slot) to_) n
      ∧ SameOthers s (s.restoreFamily s.cpu to_)
      ∧ (s.restoreFamily s.cpu to_).pkg = { s.pkg with slots := m, l2 := (s.restoreFamily s.cpu to_).pkg.l2 } := by
  obtain ⟨m, hm⟩ := readdressed_upto s s.cpu to_ (s.familyShare s.cpu / 4)
  have he : s.restoreFamily s.cpu to_
      = ({ s with pkg := { s.pkg with slots := m } } : State).revive s.cpu (s.cpu.id.core, s.cpu.id.slot) to_ := by
    unfold State.restoreFamily
    dsimp only
    rw [hm, show ({ s with pkg := { s.pkg with slots := m } } : State).family s.cpu = [s.cpu] from family_alone hp hkids]
    rfl
  obtain ⟨b, n, hcpu, hothers, hpkg⟩ := revive_saved (s := { s with pkg := { s.pkg with slots := m } }) (base := (s.cpu.id.core, s.cpu.id.slot))
    (to_ := to_) hs rfl (by rw [areaRead_slots]; exact hx) (by rw [areaRead_slots]; exact hl)
  rw [← he] at hcpu hothers hpkg
  exact ⟨b, n, m, hcpu, hothers, hpkg⟩

/-- The only hart of its gang among those that are there. -/
theorem gangHarts_alone {s : State} {gid : Nat} {f : Hart → Bool} (hs : s.cpu.status = .saved) (hid : s.cpu.id.gang = gid)
    (hothers : ∀ h ∈ s.others, h.id.gang ≠ gid) (hf : f s.cpu = true) : s.harts.filter (fun h => h.id.gang = gid && f h) = [s.cpu] := by
  unfold State.harts
  rw [List.filter_filter, List.filter_cons_of_pos (by simp [hid, hs, hf]), List.filter_eq_nil_iff.2]
  intro h hh
  simp [hothers h hh]

/-- The state behind a restore: the gang is no longer saved. -/
def resumed (s : State) (g : Gang) (n v : Nat) (c : SMap W64) : State :=
  let s2 := s.setGang { g with saved := false, order := n, quantum := v, since := c }
  ({ s2 with pkg := { s2.pkg with nextOrder := s2.pkg.nextOrder + 1 } }).regrant g.gid

theorem resumed_spec (s : State) (g : Gang) (n v : Nat) (c : SMap W64) : (resumed s g n v c).cpu = s.cpu
    ∧ (resumed s g n v c).others = s.others ∧ GangIs (resumed s g n v c) g.gid (fun y => y.saved = false ∧ y.sown = g.sown) :=
  ⟨rfl, rfl, gangIs_regrant (g := { g with saved := false, order := n, quantum := v, since := c }) ⟨s, rfl⟩ fun _ => ⟨rfl, rfl⟩⟩

theorem exec_contextRestore {s : State} {g : Gang} {held : List (Nat × Nat)} {seat : Seat} {to_ : Nat × Nat}
    (hg : s.gangById g.gid = some g) (hsaved : g.saved = true) (hc : s.chosenGang g = some held)
    (hp : s.placement g held (fun _ => false) = some [(seat, to_)]) (hs : s.cpu.status = .saved) (hid : s.cpu.id.gang = g.gid)
    (hparent : s.cpu.id.parent = none) (hothers : ∀ h ∈ s.others, h.id.gang ≠ g.gid) (hvalid : s.invalidArea s.cpu = false)
    (hfault : s.areaFault s.cpu = none) : ∃ n v c, exec (.contextRestore g.gid) s = .next (resumed (s.restoreFamily s.cpu to_) g n v c) := by
  refine ⟨(s.restoreFamily s.cpu to_).pkg.nextOrder, vget 0 (s.restoreFamily s.cpu to_).pkg.quantum g.die,
    (s.restoreFamily s.cpu to_).clocks g.gid, ?_⟩
  have hheads : s.savedHeads g.gid = [s.cpu] := by
    have h := gangHarts_alone (f := fun h => h.id.parent.isNone && h.status = .saved) hs hid hothers (by simp [hparent, hs])
    unfold State.savedHeads
    simpa [Bool.and_assoc] using h
  show execContextRestore g.gid s = _
  unfold execContextRestore
  refine congrArg Host.Outcome.next ?_
  rw [hg]
  dsimp only
  rw [if_neg (by simp [hsaved]), hc, Option.bind_some, hp]
  dsimp only
  rw [gangHarts_alone (f := fun h => h.status = .saved) hs hid hothers (by simp [hs]), hheads, List.find?_cons_of_neg (by simp [hvalid, hfault])]
  rfl

/-- Registers of a hart that has come back. -/
theorem revived_registers (h : Hart) (x l : List Byte) (b : Back) (id : Ident) (n : Nat) :
    let f := (revived { h with front := h.front.fromSection x l, back := b } id n).front
    f.lcid = h.front.lcid ∧ f.pc = BitVec.ofNat 64 (dwordAt l 0) &&& ~~~(1 : W64) ∧ f.vstart = bitsOf (dwordAt l 13) 41 22
      ∧ f.mreq = BitVec.ofNat 64 (dwordAt l 10) &&& 0xFFFF0000FF00#64
      ∧ ∀ k, 0 < k → k < 32 → vget 0 f.x k = BitVec.ofNat 64 (dwordAt x (k - 1)) := by
  unfold revived Front.fromSection
  dsimp only
  refine ⟨rfl, code_address _, rfl, mask_pending _, fun k h0 h32 => ?_⟩
  unfold vget
  rw [dif_pos h32, Vector.getElem_ofFn]
  exact if_neg h0.ne'

theorem restore_returns {s : State} {g : Gang} {held : List (Nat × Nat)} {seat : Seat} {to_ : Nat × Nat} {x l : List Byte}
    (hg : s.gangById g.gid = some g) (hsaved : g.saved = true) (hc : s.chosenGang g = some held)
    (hp : s.placement g held (fun _ => false) = some [(seat, to_)]) (hs : s.cpu.status = .saved) (hid : s.cpu.id.gang = g.gid)
    (hparent : s.cpu.id.parent = none) (hothers : ∀ h ∈ s.others, h.id.gang ≠ g.gid ∧ h.id.parent ≠ some s.cpu.id.uid)
    (hvalid : s.invalidArea s.cpu = false) (hfault : s.areaFault s.cpu = none) (hx : s.areaRead s.cpu 8 248 = some x)
    (hl : s.areaRead s.cpu 0x100 256 = some l) :
    ∃ t, exec (.contextRestore g.gid) s = .next t ∧ t.cpu.status = .running ∧ SameOthers s t
      ∧ (t.cpu.id.core, t.cpu.id.slot) = to_ ∧ t.cpu.front.lcid = s.cpu.front.lcid
      ∧ t.cpu.front.pc = BitVec.ofNat 64 (dwordAt l 0) &&& ~~~(1 : W64)
      ∧ t.cpu.front.vstart = bitsOf (dwordAt l 13) 41 22
      ∧ t.cpu.front.mreq = BitVec.ofNat 64 (dwordAt l 10) &&& 0xFFFF0000FF00#64
      ∧ (∀ k, 0 < k → k < 32 → vget 0 t.cpu.front.x k = BitVec.ofNat 64 (dwordAt x (k - 1)))
      ∧ GangIs t g.gid (fun y => y.saved = false ∧ y.sown = g.sown) := by
  obtain ⟨n, v, c, he⟩ := exec_contextRestore hg hsaved hc hp hs hid hparent (fun h hh => (hothers h hh).1) hvalid hfault
  obtain ⟨b, k, m, hcpu, hsame, -⟩ := restoreFamily_alone (to_ := to_) hs hparent (fun h hh => (hothers h hh).2) hx hl
  obtain ⟨hlcid, hpc, hvstart, hmreq, hx⟩ := revived_registers s.cpu x l b (s.cpu.id.reseat (s.cpu.id.core, s.cpu.id.slot) to_) k
  obtain ⟨hr, hothers', hgang⟩ := resumed_spec (s.restoreFamily s.cpu to_) g n v c
  refine ⟨_, he, ?_⟩
  rw [hr, hcpu]
  refine ⟨rfl, hsame.congr hothers', Prod.ext rfl ?_, hlcid, hpc, hvstart, hmreq, hx, hgang⟩
  show s.cpu.id.slot - s.cpu.id.slot + to_.2 = to_.2
  omega

/-- Settles O51: what a save writes changes neither registers nor gangs, and a restore takes them from the area's sections. -/
theorem gangsComeAndGo : Obligations.GangsComeAndGo := by
  unfold Obligations.GangsComeAndGo
  refine ⟨fun s g hg hv hsaved hdone hrun hid hothers hq hi => ?_,
    fun s g held seat to_ x l hg hsaved hc hp hs hid hparent hothers hvalid hfault hx hl =>
      restore_returns hg hsaved hc hp hs hid hparent hothers hvalid hfault hx hl,
    fun s g h hg hsown hsaved hdone hn hm hid hrun hp hover => quantumExpiry_renews hg hsown hsaved hdone hn hm hid hrun hp hover⟩
  obtain ⟨hcpu, hsame, hgangs⟩ := preempt_quiet hq hrun hid hothers hi
  refine ⟨_, exec_preemption hg hv hsaved hdone, ?_⟩
  rw [hcpu]
  exact ⟨rfl, rfl, rfl, hsame, hgangs⟩

end Sys2Proof.Claims
end

section
/-! PROOF. One element, or one element group, of a copy (R261–R263, R265, R266, R268). -/

namespace Sys2Proof.Claims

open Sys2Proof Sys2Proof.Machine

/-! Channels. -/

theorem chan_setChan (s : State) (c k : Nat) (x : Chan) : (s.setChan c x).chan k = if k = c ∧ c < 8 then x else s.chan k :=
  vget_vput _ _ _ _ _

/-- Uncorrectable data never stands in a channel: the hart's own storage that is zeroed holds none. -/
theorem chans_dropLaneRow (s : State) (e : Nat) : (s.dropLaneRow e).cpu.back.chans = s.cpu.back.chans := by
  unfold State.dropLaneRow
  cases s.segmentColumn e with
  | none => rfl
  | some c0 =>
    generalize (if s.cpu.id.share = 4 then 128 else 256) = mc
    dsimp only
    split
    · rfl
    split
    · rfl
    split <;> rfl

theorem cpu_fenceFrame (s : State) (a : Nat) : (s.fenceFrame a).cpu = s.cpu := by
  unfold State.fenceFrame
  dsimp only
  split
  · rfl
  split <;> rfl

theorem cpu_countUe (s : State) (d k : Nat) : (s.countUe d k).cpu = s.cpu := rfl

theorem cpu_dropWord (s : State) (k a : Nat) : (s.dropWord k a).cpu = s.cpu := by
  unfold State.dropWord
  split
  · rw [cpu_fenceFrame, cpu_countUe]
  · rfl

theorem cpu_dropRemote (s : State) (d k : Nat) : (s.dropRemote d k).cpu = s.cpu := by
  unfold State.dropRemote
  split
  · rw [cpu_countUe]
  · rfl

theorem cpu_dropLine (s : State) (d a : Nat) : (s.dropLine d a).cpu = s.cpu := by
  unfold State.dropLine
  split
  · rfl
  split
  · rfl
  dsimp only
  split
  · rw [cpu_fenceFrame]
    rfl
  · rfl

theorem chans_dropBad (s : State) (kind e : Nat) : (s.dropBad kind e).cpu.back.chans = s.cpu.back.chans := by
  obtain ⟨u, hu⟩ : ∃ u : State, u = if 3 ≤ kind && kind ≤ 9 then s.countUe s.cpu.id.die kind else s := ⟨_, rfl⟩
  have hcpu : u.cpu = s.cpu := by
    rw [hu]
    split <;> rfl
  rw [← hcpu]
  unfold State.dropBad
  rw [← hu]
  dsimp only
  split
  case h_1 => rw [cpu_dropLine]
  case h_2 => exact chans_dropLaneRow u e
  case h_9 => rw [cpu_dropRemote]
  case h_10 => rw [cpu_dropWord]
  all_goals rfl

theorem chan_dropBad (s : State) (kind e c : Nat) : (s.dropBad kind e).chan c = s.chan c := by
  unfold State.chan
  rw [chans_dropBad]

theorem ops_of_head? {ch : Chan} {o : CopyOp} (h : ch.ops.head? = some o) : ∃ t, ch.ops = o :: t :=
  ⟨_, List.eq_cons_of_mem_head? h⟩

theorem advance_counts {ch : Chan} {o : CopyOp} (n cw clipped : Nat) (h : ch.ops.head? = some o) :
    (ch.advance n cw clipped).cwm = ch.cwm + BitVec.ofNat 64 cw ∧ (ch.advance n cw clipped).cclip = ch.cclip + BitVec.ofNat 64 clipped := by
  obtain ⟨t, ht⟩ := ops_of_head? h
  unfold Chan.advance
  rw [ht]
  dsimp only
  split <;> exact ⟨rfl, rfl⟩

theorem remaining_pos {ch : Chan} {o : CopyOp} (h : ch.ops.head? = some o) (hat : o.at_ < o.units) : 1 ≤ ch.remaining := by
  obtain ⟨t, ht⟩ := ops_of_head? h
  unfold Chan.remaining
  rw [ht, List.map_cons, List.sum_cons]
  omega

section Element

variable {s : State} {c : Nat} {o : CopyOp}

theorem NextElement.headNeeds (h : NextElement s c o) : s.headNeeds c o = [] := by
  unfold State.headNeeds
  rw [h.2.2.2.2, ite_self]

/-- The next element of a box operation, which waits for nothing, is moved. -/
theorem copyStep_ok (h : NextElement s c o) {u : State} (he : s.copyElem o o.at_ = .ok u) :
    s.copyStep c = u.setChan c ((u.chan c).advance 1 1 (o.mem o.at_).isNone.toNat) := by
  obtain ⟨t, ht⟩ := ops_of_head? h.1
  have hops : (s.chan c).ops = o :: t := ht
  have herr : (s.chan c).error = false := h.2.1
  unfold State.copyStep State.chanStep
  rw [hops]
  dsimp only
  rw [if_neg (by simp [herr]), if_neg h.2.2.2.1, h.headNeeds, List.foldl_nil, if_neg (by simp [h.headNeeds]), he]

/-- An element at fault stops its channel, which holds the fault. -/
theorem copyStep_error (h : NextElement s c o) {f : AccFault} (he : s.copyElem o o.at_ = .error f) :
    s.copyStep c = (if f.cause = .dataError then s.dropBad f.kind f.addr else s).setChan c
      (((if f.cause = .dataError then s.dropBad f.kind f.addr else s).chan c).hold f ((o.mem o.at_).getD 0)) := by
  obtain ⟨t, ht⟩ := ops_of_head? h.1
  have hops : (s.chan c).ops = o :: t := ht
  have herr : (s.chan c).error = false := h.2.1
  unfold State.copyStep State.chanStep
  rw [hops]
  dsimp only
  rw [if_neg (by simp [herr]), if_neg h.2.2.2.1, h.headNeeds, List.foldl_nil, if_neg (by simp [h.headNeeds]), he]

end Element

theorem copyProgress_one {s : State} {c : Fin 8} {o : CopyOp} (h : NextElement s c.val o) :
    exec (.copyProgress c 1) s = .next (s.copyStep c.val) := by
  have hr := remaining_pos h.1 h.2.2.1
  show execCopyProgress c 1 s = _
  unfold execCopyProgress
  rw [show min 1 (s.chan c.val).remaining = 1 from Nat.min_eq_left hr]
  rfl

/-! The scratchpad. -/

theorem mget_foldl_minsert {α : Type} (d : α) (l : List (Nat × α)) (m : SMap α) (k : Nat) :
    mget d (l.foldl (fun m e => minsert m e.1 e.2) m) k = ((l.reverse.find? (fun e => e.1 == k)).map (fun e => e.2)).getD (mget d m k) := by
  induction l generalizing m with
  | nil => rfl
  | cons e t ih =>
    rw [List.foldl_cons, ih, List.reverse_cons, List.find?_append, mget_minsert]
    cases t.reverse.find? (fun e => e.1 == k) with
    | some x => rfl
    | none =>
      by_cases he : e.1 = k
      · simp [he]
      · simp [he, Ne.symm he]

theorem spadByte_spadWrite (b : Back) (places : List Nat) (l : List Byte) (p : Nat) :
    (b.spadWrite places l).spadByte p = (placedAt places l p).getD (b.spadByte p) := mget_foldl_minsert 0 _ _ p

/-! Elements. -/

theorem not_isReg_of_engineByte {s : State} {c : Ctx} {k : Access} {remote : Bool} {va pa : Nat} (h : s.engineByte c k remote va = .ok pa) :
    ¬(s.isLocal pa = true ∧ (regionOf (pa % pkgSpan)).isMem = false) := by
  rintro ⟨hl, hm⟩
  unfold State.engineByte at h
  cases ht : s.translate c k va with
  | error f => simp [ht] at h
  | ok q =>
    rw [ht] at h
    dsimp only at h
    by_cases hr : s.engineReach remote q = true
    · rw [if_pos hr] at h
      have hq : q = pa := by
        unfold State.byteAccess at h
        rw [ht] at h
        dsimp only at h
        split at h
        · exact absurd h (by simp)
        · exact Except.ok.inj h
      subst hq
      unfold State.engineReach at hr
      rw [if_pos hl] at hr
      rcases regionOf_of_isMem hr with he | he <;> simp [he, Region.isMem] at hm
    · rw [if_neg hr] at h
      exact absurd h (by simp)

/-- What an engine reaches is memory (R208). -/
theorem allMemory_of_engineBytes {s : State} {c : Ctx} {k : Access} {remote : Bool} {vas pas : List Nat}
    (h : s.engineBytes c k remote vas = .ok pas) : AllMemory s pas := by
  induction vas generalizing pas with
  | nil =>
    obtain rfl := Except.ok.inj h
    exact fun _ hp => absurd hp (by simp)
  | cons va t ih =>
    unfold State.engineBytes at h
    cases he : s.engineByte c k remote va with
    | error f => simp [he] at h
    | ok pa =>
      cases hr : s.engineBytes c k remote t with
      | error f => simp [he, hr] at h
      | ok r =>
        have hp : pa :: r = pas := by simpa [he, hr] using h
        intro q hq
        rw [← hp] at hq
        rcases List.mem_cons.1 hq with rfl | hq
        · exact not_isReg_of_engineByte he
        · exact ih hr q hq

section Moved

variable {s : State} {c : Fin 8} {o : CopyOp}

/-- An element that is moved to state `u` counts in its channel. -/
theorem element_counts (h : NextElement s c.val o) {u : State} (he : s.copyElem o o.at_ = .ok u) (hu : u.chan c.val = s.chan c.val) :
    ∃ t, exec (.copyProgress c 1) s = .next t ∧ t.mem = u.mem ∧ t.cpu.back.spad = u.cpu.back.spad
      ∧ (t.chan c.val).cwm = (s.chan c.val).cwm + 1
      ∧ (t.chan c.val).cclip = (s.chan c.val).cclip + BitVec.ofNat 64 (o.mem o.at_).isNone.toNat := by
  obtain ⟨hcwm, hclip⟩ := advance_counts (ch := s.chan c.val) 1 1 (o.mem o.at_).isNone.toNat h.1
  refine ⟨_, copyProgress_one h, ?_⟩
  rw [copyStep_ok h he, hu]
  refine ⟨rfl, rfl, ?_, ?_⟩
  · rw [chan_setChan, if_pos ⟨rfl, c.isLt⟩, hcwm]
    rfl
  · rw [chan_setChan, if_pos ⟨rfl, c.isLt⟩, hclip]

theorem spadByte_of_spad {b b' : Back} (h : b.spad = b'.spad) (p : Nat) : b.spadByte p = b'.spadByte p := by
  unfold Back.spadByte
  rw [h]

/-- An element is clipped: CPY.G and CPY.IX fill it (R265, R266). -/
theorem clipped_filled (h : NextElement s c.val o) (hm : o.mem o.at_ = none) (hform : o.form ≠ 1) :
    ∃ t, exec (.copyProgress c 1) s = .next t ∧ SameMem s t
      ∧ (t.chan c.val).cwm = (s.chan c.val).cwm + 1 ∧ (t.chan c.val).cclip = (s.chan c.val).cclip + 1
      ∧ ∀ p, t.cpu.back.spadByte p = (placedAt (o.places o.at_) (leBytes o.esz o.fillv) p).getD (s.cpu.back.spadByte p) := by
  have he : s.copyElem o o.at_ = .ok (s.setBack (s.cpu.back.spadWrite (o.places o.at_) (leBytes o.esz o.fillv))) := by
    unfold State.copyElem
    rw [hm]
    dsimp only
    rw [if_neg hform]
  obtain ⟨t, ht, hmem, hspad, hcwm, hclip⟩ := element_counts h he rfl
  rw [hm] at hclip
  refine ⟨t, ht, fun a => by rw [hmem]; rfl, hcwm, hclip, fun p => ?_⟩
  rw [spadByte_of_spad hspad]
  exact spadByte_spadWrite _ _ _ p

/-- CPY.G and CPY.IX write an element into the scratchpad. -/
theorem element_loaded (h : NextElement s c.val o) {mp : Nat} {pas : List Nat} (hm : o.mem o.at_ = some mp) (hform : o.form ≠ 1)
    (hpas : s.engineBytes s.cpu.ctx .load true (vaRange mp o.esz) = .ok pas) :
    ∃ t, exec (.copyProgress c 1) s = .next t ∧ SameMem s t
      ∧ (t.chan c.val).cwm = (s.chan c.val).cwm + 1 ∧ (t.chan c.val).cclip = (s.chan c.val).cclip
      ∧ ∀ p, t.cpu.back.spadByte p
          = (placedAt (o.places o.at_) (pas.map (s.physByte s.cpu.id.die)) p).getD (s.cpu.back.spadByte p) := by
  have he : s.copyElem o o.at_ = .ok ((s.readLines s.cpu.id.die (pas.map s.key)).setBack
      (s.cpu.back.spadWrite (o.places o.at_) (pas.map (s.physByte s.cpu.id.die)))) := by
    unfold State.copyElem
    rw [hm]
    dsimp only
    rw [if_neg hform, hpas]
  obtain ⟨t, ht, hmem, hspad, hcwm, hclip⟩ := element_counts h he rfl
  rw [hm] at hclip
  refine ⟨t, ht, fun a => by rw [hmem]; rfl, hcwm, hclip.trans (BitVec.add_zero _), fun p => ?_⟩
  rw [spadByte_of_spad hspad]
  exact spadByte_spadWrite _ _ _ p

/-- CPY.P writes an element to memory. -/
theorem element_stored (h : NextElement s c.val o) {mp : Nat} {pas : List Nat} (hm : o.mem o.at_ = some mp) (hform : o.form = 1)
    (hdup : s.inDup = false) (hcopy : s.secondCopy = false) (hpas : s.engineBytes s.cpu.ctx .store true (vaRange mp o.esz) = .ok pas) :
    ∃ t, exec (.copyProgress c 1) s = .next t ∧ StoresAt s t pas ((o.places o.at_).map s.cpu.back.spadByte)
      ∧ (t.chan c.val).cwm = (s.chan c.val).cwm + 1 ∧ t.cpu.back.spad = s.cpu.back.spad := by
  have he : s.copyElem o o.at_ = .ok (s.copyOut o.seq pas ((o.places o.at_).map s.cpu.back.spadByte)) := by
    have hnote : ∀ l, s.noteWriteAt o.seq 0 mp l = s := fun l => if_neg (by simp [hdup])
    unfold State.copyElem
    rw [hm]
    dsimp only
    rw [if_pos hform, hpas]
    dsimp only
    rw [hnote, if_neg (by simp [hcopy])]
  generalize (o.places o.at_).map s.cpu.back.spadByte = l at he ⊢
  obtain ⟨u, hu⟩ : ∃ u : State, u = (s.settleBefore o.seq pas).setBack ((s.settleBefore o.seq pas).cpu.back.meet .copy o.seq
    (pas.map (fun pa => (s.key pa, readCell s.mem (s.key pa))))) := ⟨_, rfl⟩
  have hout : s.copyOut o.seq pas l = u.physWriteList u.agent u.cpu.id.die pas l := by
    rw [hu]
    rfl
  have hmemu : AllMemory u pas := by
    rw [hu]
    exact (allMemory_of_engineBytes hpas : AllMemory s pas)
  obtain ⟨⟨w, r, d, f, l2, m, n, ht⟩, hmem⟩ := u.physWriteList_kept u.cpu.id.die pas l hmemu
  rw [hout] at he
  have hkept : u.kept pas l = s.kept pas l := by
    rw [hu]
    rfl
  have hchan : (u.physWriteList u.agent u.cpu.id.die pas l).chan c.val = s.chan c.val := by
    rw [ht, hu]
    rfl
  obtain ⟨t, hexec, hmemt, hspad, hcwm, -⟩ := element_counts h he hchan
  refine ⟨t, hexec, storesAt_of_mem ?_, hcwm, ?_⟩
  · rw [hmemt, hmem, hkept, hu]
    rfl
  · rw [hspad, ht, hu]
    rfl

/-- An element faults: its channel stops and holds the fault (R263). -/
theorem element_held (h : NextElement s c.val o) {mp : Nat} {f : AccFault} (hm : o.mem o.at_ = some mp)
    (hf : s.engineBytes s.cpu.ctx (if o.form = 1 then .store else .load) true (vaRange mp o.esz) = .error f) :
    ∃ t, exec (.copyFaultHeld c) s = .next t ∧ (f.cause ≠ .dataError → SameMem s t ∧ t.cpu.back.spad = s.cpu.back.spad)
      ∧ (t.chan c.val).error = true ∧ (t.chan c.val).fcause = causeCode f.cause ∧ (t.chan c.val).fsub = f.sub
      ∧ (t.chan c.val).feval = BitVec.ofNat 64 (if f.cause = .dataError then f.addr else mp)
      ∧ (t.chan c.val).cwm = (s.chan c.val).cwm := by
  have he : s.copyElem o o.at_ = .error f := by
    unfold State.copyElem
    rw [hm]
    dsimp only
    split
    next h1 => rw [if_pos h1] at hf; rw [hf]
    next h1 => rw [if_neg h1] at hf; rw [hf]
  have hchan : (if f.cause = .dataError then s.dropBad f.kind f.addr else s).chan c.val = s.chan c.val := by
    split
    · exact chan_dropBad s _ _ _
    · rfl
  have hstep := copyStep_error h he
  rw [hchan, hm] at hstep
  have hheld : (s.copyStep c.val).chan c.val = (s.chan c.val).hold f mp := by
    rw [hstep, chan_setChan, if_pos ⟨rfl, c.isLt⟩]
    rfl
  have hrun : s.runUntil c.val Chan.error = s.copyStep c.val := by
    obtain ⟨m, hm⟩ := Nat.exists_eq_add_of_le (remaining_pos h.1 h.2.2.1)
    have hr : (s.chan c.val).remaining = 1 + m := hm
    have hnot : ¬(s.chan c.val).error = true := by simp [show (s.chan c.val).error = false from h.2.1]
    have hstop : ((s.copyStep c.val).chan c.val).error = true := by rw [hheld]; rfl
    unfold State.runUntil
    rw [hr, upto_add, show upto 1 (fun _ u => if (u.chan c.val).error then u else u.copyStep c.val) s = s.copyStep c.val from if_neg hnot]
    exact upto_eq_self fun _ => if_pos hstop
  have hexec : exec (.copyFaultHeld c) s = .next (s.copyStep c.val) := by
    show execCopyFaultHeld c s = _
    unfold execCopyFaultHeld
    refine congrArg Host.Outcome.next ?_
    rw [hrun]
    exact if_pos (by rw [hheld]; rfl)
  refine ⟨_, hexec, fun hne => ?_, ?_⟩
  · rw [hstep, if_neg hne]
    exact ⟨fun _ => rfl, rfl⟩
  · rw [hheld]
    exact ⟨rfl, rfl, rfl, rfl, rfl⟩

end Moved

/-! CPY.X (R268). -/

theorem mget_upto_minsert {α : Type} (d : α) (base n : Nat) (f : Nat → α) (m : SMap α) (k : Nat) :
    mget d (upto n (fun j m => minsert m (base + j) (f j)) m) k = if base ≤ k ∧ k < base + n then f (k - base) else mget d m k := by
  induction n with
  | zero => rw [upto_zero, if_neg (by omega)]
  | succ n ih =>
    rw [upto_succ, mget_minsert, ih]
    by_cases hk : k = base + n
    · rw [if_pos hk, if_pos (by omega), hk, Nat.add_sub_cancel_left]
    · rw [if_neg hk]
      by_cases hin : base ≤ k ∧ k < base + n
      · rw [if_pos hin, if_pos (by omega)]
      · rw [if_neg hin, if_neg (by omega)]

theorem mget_putGroup (o : CopyOp) (b : Back) (j c0 n k : Nat) : mget 0 (o.putGroup b j c0 n).v k =
    if (o.vdst + j) * 65536 + c0 ≤ k ∧ k < (o.vdst + j) * 65536 + c0 + n
      then o.planes.getD (j * o.cols + c0 + (k - ((o.vdst + j) * 65536 + c0))) 0 else mget 0 b.v k :=
  mget_upto_minsert 0 ((o.vdst + j) * 65536 + c0) n (fun i => o.planes.getD (j * o.cols + c0 + i) 0) b.v k

/-- The first live hart of a number, once every hart of that number is replaced by a live one of it. -/
theorem find?_replaced {uid : Nat} {h h' : Hart} (huid : h'.id.uid = uid) (hlive : h'.status ≠ .absent) (l : List Hart)
    (hh : (l.filter (fun x => x.status != .absent)).find? (fun x => x.id.uid = uid) = some h) :
    ((l.map (fun x => if x.id.uid = uid then h' else x)).filter (fun x => x.status != .absent)).find? (fun x => x.id.uid = uid)
      = some h' := by
  induction l with
  | nil => exact nomatch hh
  | cons x t ih =>
    rw [List.map_cons]
    by_cases hx : x.id.uid = uid
    · rw [if_pos hx, List.filter_cons_of_pos (by simpa using hlive), List.find?_cons_of_pos (by simpa using huid)]
    · rw [if_neg hx]
      by_cases hl : x.status = .absent
      · rw [List.filter_cons_of_neg (by simp [hl])] at hh ⊢
        exact ih hh
      · rw [List.filter_cons_of_pos (by simp [hl]), List.find?_cons_of_neg (by simp [hx])] at hh ⊢
        exact ih hh

theorem live_of_hart? {s : State} {uid : Nat} {h : Hart} (hh : s.hart? uid = some h) : h.status ≠ .absent ∧ h.id.uid = uid := by
  have hmem := List.mem_of_find?_eq_some hh
  unfold State.harts at hmem
  exact ⟨by simpa using (List.mem_filter.1 hmem).2, by simpa using List.find?_some hh⟩

/-- A hart that is put back under its number is found there. -/
theorem hart?_putHart {s : State} {h h' : Hart} {uid : Nat} (hh : s.hart? uid = some h) (hid : h'.id = h.id)
    (hst : h'.status = h.status) : (s.putHart h').hart? uid = some h' := by
  obtain ⟨hlive, huid⟩ := live_of_hart? hh
  rw [← hst] at hlive
  rw [← hid] at huid
  unfold State.putHart
  rw [huid]
  split
  next => 
    unfold State.hart? State.harts
    rw [List.filter_cons_of_pos (by simpa using hlive), List.find?_cons_of_pos (by simpa using huid)]
  next hcpu =>
    have := find?_replaced huid hlive (s.cpu :: s.others) hh
    rw [List.map_cons, if_neg hcpu] at this
    exact this

theorem hart?_setChan_other {s : State} {uid : Nat} (hcpu : s.cpu.id.uid ≠ uid) (c : Nat) (x : Chan) : (s.setChan c x).hart? uid = s.hart? uid := by
  unfold State.hart? State.harts
  rw [List.filter_cons, List.filter_cons]
  show List.find? _ (if (s.cpu.status != .absent) = true then (s.setChan c x).cpu :: _ else _) = _
  split
  · rw [List.find?_cons_of_neg (by simp [hcpu]), List.find?_cons_of_neg (by simp [hcpu])]
    rfl
  · rfl

/-- The hart at hand after its channel has moved on is found under its number. -/
theorem hart?_setChan_self {s : State} (hlive : s.cpu.status ≠ .absent) (c : Nat) (x : Chan) :
    (s.setChan c x).hart? s.cpu.id.uid = some (s.setChan c x).cpu := by
  unfold State.hart? State.harts
  have h1 : (s.setChan c x).cpu.status ≠ .absent := hlive
  rw [List.filter_cons_of_pos (by simpa using h1), List.find?_cons_of_pos (by simp)]

theorem chans_putHart (s : State) (h' : Hart) (hsame : s.cpu.id.uid = h'.id.uid → h'.back.chans = s.cpu.back.chans) :
    (s.putHart h').cpu.back.chans = s.cpu.back.chans := by
  unfold State.putHart
  split
  next h => exact hsame h
  next => rfl

theorem mem_putHart (s : State) (h' : Hart) : (s.putHart h').mem = s.mem := by
  unfold State.putHart
  split <;> rfl

/-- A hart whose number was put is still found after a channel of the hart at hand has moved on, with the same vector planes. -/
theorem hart?_putHart_setChan {s : State} {h h' : Hart} {uid : Nat} (hh : s.hart? uid = some h) (hid : h'.id = h.id)
    (hst : h'.status = h.status) (c : Nat) (x : Chan) :
    ∃ h2, ((s.putHart h').setChan c x).hart? uid = some h2 ∧ h2.back.v = h'.back.v := by
  obtain ⟨hlive, huid⟩ := live_of_hart? hh
  rw [← hst] at hlive
  rw [← hid] at huid
  by_cases hcpu : s.cpu.id.uid = uid
  · have hput : s.putHart h' = { s with cpu := h' } := if_pos (hcpu.trans huid.symm)
    rw [hput]
    have := hart?_setChan_self (s := { s with cpu := h' }) hlive c x
    rw [show ({ s with cpu := h' } : State).cpu.id.uid = uid from huid] at this
    exact ⟨_, this, rfl⟩
  · refine ⟨h', ?_, rfl⟩
    rw [hart?_setChan_other (by unfold State.putHart; rw [if_neg (huid ▸ hcpu)]; exact hcpu)]
    exact hart?_putHart hh hid hst

/-- The destination of a CPY.X with its next element group written. -/
def grouped (o : CopyOp) (h : Hart) : Hart :=
  { h with
    back := o.putGroup h.back (o.at_ / o.cols) (o.at_ % o.cols) (min 4096 (o.cols - o.at_ % o.cols))
    inflight := h.inflight.map (fun p =>
      { p with ckpt := o.putGroup p.ckpt (o.at_ / o.cols) (o.at_ % o.cols) (min 4096 (o.cols - o.at_ % o.cols)) }) }

theorem copyGroup_of_hart {s : State} {c : Nat} {o : CopyOp} {h : Hart} (hh : s.hart? o.dst = some h) (hf : h.olderFlight o.place = false) :
    s.copyGroup c o = (s.putHart (grouped o h)).setChan c (((s.putHart (grouped o h)).chan c).advance (min 4096 (o.cols - o.at_ % o.cols))
      (if o.at_ % o.cols + min 4096 (o.cols - o.at_ % o.cols) = o.cols then o.cols else 0) 0) := by
  unfold State.copyGroup
  rw [hh]
  exact if_neg (by simp [hf])

theorem copyStep_group {s : State} {c : Nat} {o : CopyOp} (ho : (s.chan c).ops.head? = some o) (herr : (s.chan c).error = false)
    (hform : o.form = 2) : s.copyStep c = s.copyGroup c o := by
  obtain ⟨t, hops⟩ := ops_of_head? ho
  unfold State.copyStep State.chanStep
  rw [hops]
  dsimp only
  rw [if_neg (by simp [herr])]
  exact if_pos hform

theorem exec_cpyXGroupWrite {s : State} {c : Fin 8} {o : CopyOp} (ho : (s.chan c.val).ops.head? = some o) (hform : o.form = 2) :
    exec (.cpyXGroupWrite c) s = .next (s.copyStep c.val) := by
  obtain ⟨t, hops⟩ := ops_of_head? ho
  show execCpyXGroupWrite c s = _
  unfold execCpyXGroupWrite
  rw [hops]
  exact congrArg Host.Outcome.next (if_pos hform)

/-- The next element group of a CPY.X is written into the destination's planes (R268). -/
theorem group_written {c : Fin 8} {s : State} {o : CopyOp} {h : Hart} (ho : (s.chan c.val).ops.head? = some o)
    (hrun : s.cpu.status = .running) (herr : (s.chan c.val).error = false) (hform : o.form = 2) (hh : s.hart? o.dst = some h) (hf : h.olderFlight o.place = false) :
    ∃ t h', exec (.cpyXGroupWrite c) s = .next t ∧ t.hart? o.dst = some h' ∧ SameMem s t
      ∧ (t.chan c.val).cwm = (s.chan c.val).cwm
          + (if o.at_ % o.cols + min 4096 (o.cols - o.at_ % o.cols) = o.cols then BitVec.ofNat 64 o.cols else 0)
      ∧ h'.back.v = (grouped o h).back.v := by
  have hchan : (s.putHart (grouped o h)).chan c.val = s.chan c.val := by
    unfold State.chan
    rw [chans_putHart]
    intro hsame
    have hself : s.hart? o.dst = some s.cpu := by
      have hdst : s.cpu.id.uid = o.dst := hsame.trans (live_of_hart? hh).2
      unfold State.hart? State.harts
      rw [List.filter_cons_of_pos (by simp [hrun]), List.find?_cons_of_pos (by simpa using hdst)]
    rw [hself] at hh
    obtain rfl := Option.some.inj hh
    rfl
  obtain ⟨h', hfound, hv⟩ := hart?_putHart_setChan (h' := grouped o h) hh rfl rfl c.val
    (((s.putHart (grouped o h)).chan c.val).advance (min 4096 (o.cols - o.at_ % o.cols))
      (if o.at_ % o.cols + min 4096 (o.cols - o.at_ % o.cols) = o.cols then o.cols else 0) 0)
  refine ⟨_, h', exec_cpyXGroupWrite ho hform, ?_, fun a => ?_, ?_, hv⟩
  · rw [copyStep_group ho herr hform, copyGroup_of_hart hh hf]
    exact hfound
  · rw [copyStep_group ho herr hform, copyGroup_of_hart hh hf]
    exact congrArg (readCell · a) (mem_putHart s (grouped o h))
  · rw [copyStep_group ho herr hform, copyGroup_of_hart hh hf, chan_setChan, if_pos ⟨rfl, c.isLt⟩, hchan,
      (advance_counts _ _ _ ho).1]
    split <;> rfl

/-- Settles O49: each event of a copy moves the channel's head operation by one element or one group. -/
theorem copyEvents : Obligations.CopyEvents := by
  unfold Obligations.CopyEvents
  refine ⟨fun c s o h => ⟨fun hm hf => clipped_filled h hm hf, fun mp pas hm hf hpas => element_loaded h hm hf hpas,
    fun mp pas hm hf hd hc hpas => element_stored h hm hf hd hc hpas, fun mp f hm hf => element_held h hm hf⟩, ?_⟩
  intro c s o h hrun ho herr hform hh hf
  obtain ⟨t, h', hexec, hfound, hmem, hcwm, hv⟩ := group_written ho hrun herr hform hh hf
  refine ⟨t, h', hexec, hfound, hmem, hcwm, fun k => ?_⟩
  rw [hv]
  exact mget_putGroup o h.back _ _ _ k

end Sys2Proof.Claims
end

section
/-! PROOF. ACCSYNC where a pending record is longer than its slot (R340, R344): the record's write spills into what lies behind the ring, and
what lies there may be the head block of the next partition. -/

namespace Sys2Proof.Claims

open Sys2Proof Sys2Proof.Machine Sys2Proof.Tests

/-! The log engine leaves the harts as they are. -/

theorem cpu_appendRecord (s : State) (p : Nat) (bytes : List Byte) : (s.appendRecord p bytes).cpu = s.cpu := by
  unfold State.appendRecord
  dsimp only
  split <;> rfl

theorem cpu_sweep (s : State) (a n : Nat) : (s.sweep a n).cpu = s.cpu := by
  unfold State.sweep
  generalize s.badWords a n = l
  induction l generalizing s with
  | nil => rfl
  | cons u l ih => rw [List.foldl_cons, ih, cpu_dropWord]

theorem cpu_putBytes (s : State) (d k : Nat) (l : List Byte) : (s.putBytes d k l).cpu = s.cpu := rfl

theorem cpu_setLog (s : State) (p : Nat) (x : Part) : (s.setLog p x).cpu = s.cpu := rfl

theorem cpu_chainBatch (s : State) (p : Nat) : (s.chainBatch p).cpu = s.cpu := by
  unfold State.chainBatch
  dsimp only
  split
  · rfl
  split
  · rw [cpu_sweep, cpu_sweep]
  · rw [cpu_setLog, cpu_putBytes, cpu_putBytes]

theorem front_dropLaneRow (s : State) (e : Nat) : (s.dropLaneRow e).cpu.front = s.cpu.front := by
  unfold State.dropLaneRow
  cases s.segmentColumn e with
  | none => rfl
  | some c0 =>
    generalize (if s.cpu.id.share = 4 then 128 else 256) = mc
    dsimp only
    split
    · rfl
    split
    · rfl
    split <;> rfl

theorem front_dropBad (s : State) (kind e : Nat) : (s.dropBad kind e).cpu.front = s.cpu.front := by
  obtain ⟨u, hu⟩ : ∃ u : State, u = if 3 ≤ kind && kind ≤ 9 then s.countUe s.cpu.id.die kind else s := ⟨_, rfl⟩
  have hcpu : u.cpu = s.cpu := by
    rw [hu]
    split <;> rfl
  rw [← hcpu]
  unfold State.dropBad
  rw [← hu]
  dsimp only
  split
  case h_1 => rw [cpu_dropLine]
  case h_2 => exact front_dropLaneRow u e
  case h_9 => rw [cpu_dropRemote]
  case h_10 => rw [cpu_dropWord]
  all_goals rfl

/-- No trap counts as a retired instruction (R369). -/
theorem instret_takeTrap (s : State) (t : TrapInfo) : (s.takeTrap t).cpu.front.instret = s.cpu.front.instret := by
  obtain ⟨u, hu⟩ : ∃ u : State, u = if t.cause = .dataError then s.dropBad t.kind t.eval.toNat else s := ⟨_, rfl⟩
  have hfront : u.cpu.front = s.cpu.front := by
    rw [hu]
    split
    · exact front_dropBad s _ _
    · rfl
  rw [← hfront]
  unfold State.takeTrap
  rw [← hu]
  dsimp only
  split <;> rfl

/-- Where a record of the hart is left after its partitions have been written out, ACCSYNC traps. -/
theorem accsync_stuck {s : State} {d : Reg} {x : Part} (hin : s.cpu.inflight = [])
    (hcpu : (upto 16 (fun p s => s.syncPartition s.cpu.id.uid p) s).cpu = s.cpu)
    (h : (upto 16 (fun p s => s.syncPartition s.cpu.id.uid p) s).stuckPart s.cpu.id.uid = some x) :
    ∃ t, exec (.accsync d) s = .next t ∧ t.cpu.front.instret = s.cpu.front.instret := by
  generalize hu : upto 16 (fun p s => s.syncPartition s.cpu.id.uid p) s = u at hcpu h
  refine ⟨u.takeTrap (accTrap (.accsync d) ((u.batchBad x).getD ⟨.dataError, 0, memKind x.labase.toNat, x.labase.toNat⟩) 15 false 0),
    ?_, ?_⟩
  · show execAccsync d s = _
    unfold execAccsync
    refine congrArg Host.Outcome.next ?_
    rw [hin]
    dsimp only
    rw [hu, h]
    dsimp only
    have hold : u.oldest = true := by
      unfold State.oldest
      rw [hcpu, hin]
      rfl
    rw [if_neg (by simp)]
    unfold State.raise
    exact if_pos hold
  · rw [instret_takeTrap, hcpu]

/-! The state. -/

/-- A partition whose ring of two slots stands behind a head block at `base`, with 63 records written and one to come. -/
def shortRing (base : Nat) (bytes : List Byte) : Part :=
  ⟨BitVec.ofNat 64 base, 1, 0, 63, 0, [⟨demo.cpu.id.uid, none, bytes⟩], []⟩

/-- Two partitions, one right behind the other; the record that the first has still to write reaches 8 bytes into the second. -/
def spilling : State :=
  { demo with
    mem := writeCells (writeCells [] 0 (leBytes 8 0)) 4352 (leBytes 8 0)
    pkg := { demo.pkg with
      parts := vput (vput demo.pkg.parts 0 (shortRing 0 (List.replicate 128 0xFF))) 1 (shortRing 4352 []) } }

theorem demo_part {p : Nat} (hp : p < 16) : demo.part p = Part.reset := by
  have h : ∀ p, p < 16 → demo.part p = Part.reset := by decide +kernel
  exact h p hp

theorem spilling_part {p : Nat} (hp : p < 16) : spilling.part p =
    if p = 1 then shortRing 4352 [] else if p = 0 then shortRing 0 (List.replicate 128 0xFF) else Part.reset := by
  have h : spilling.part p = if p = 1 ∧ 1 < 16 then shortRing 4352 []
      else if p = 0 ∧ 0 < 16 then shortRing 0 (List.replicate 128 0xFF) else demo.part p := by
    unfold State.part spilling
    rw [vget_vput, vget_vput]
  rw [h, demo_part hp]
  simp

theorem shortRing_sound {base : Nat} (bytes : List Byte) (hb : spilling.hseq (shortRing base bytes) = 0) :
    LogSound spilling (shortRing base bytes) := by
  unfold LogSound
  rw [hb]
  refine ⟨Nat.one_ne_zero, rfl, Nat.zero_le _, fun r hr q hq => ?_, show 63 + 1 + 64 < 2 ^ 64 by decide⟩
  rw [List.mem_singleton.1 hr] at hq
  exact nomatch hq

theorem hseq_spilling : spilling.hseq (shortRing 0 (List.replicate 128 0xFF)) = 0 ∧ spilling.hseq (shortRing 4352 []) = 0 := by
  constructor
  · decide +kernel
  · decide +kernel

theorem spilling_sound (p : Nat) (hp : p < 16) (h : ∃ r ∈ (spilling.part p).pending, r.hart = spilling.cpu.id.uid) :
    LogSound spilling (spilling.part p) := by
  rw [spilling_part hp] at h ⊢
  split
  · exact shortRing_sound _ hseq_spilling.2
  split
  · exact shortRing_sound _ hseq_spilling.1
  next h1 h0 =>
    rw [if_neg h1, if_neg h0] at h
    obtain ⟨r, hr, -⟩ := h
    exact absurd hr List.not_mem_nil

theorem spilling_live {p : Nat} (hp : p < 16) (h : (spilling.part p).lcap ≠ 0) : p = 1 ∨ p = 0 := by
  rw [spilling_part hp] at h
  by_contra hne
  rw [not_or] at hne
  rw [if_neg hne.1, if_neg hne.2] at h
  exact h rfl

theorem spilling_apart (p k : Nat) (hp : p < 16) (hk : k < 16) (hne : p ≠ k) (hcp : (spilling.part p).lcap ≠ 0)
    (hck : (spilling.part k).lcap ≠ 0) :
    overlaps (spilling.part p).labase.toNat (4096 + 128 * 2 ^ (spilling.part p).lcap) (spilling.part k).labase.toNat
      (4096 + 128 * 2 ^ (spilling.part k).lcap) = false := by
  rcases spilling_live hp hcp with rfl | rfl <;> rcases spilling_live hk hck with rfl | rfl
  · exact absurd rfl hne
  · decide +kernel
  · decide +kernel
  · exact absurd rfl hne

/-- Nothing is fenced and no data is bad. -/
def Clean (s : State) : Prop :=
  s.pkg.fences = [] ∧ s.pkg.closed = [] ∧ s.pkg.cxlDown = [] ∧ s.pkg.poison = []

theorem Clean.fenced {s : State} (h : Clean s) (a : Nat) : s.fenced a = false := by
  obtain ⟨hf, hc, hd, -⟩ := h
  unfold State.fenced State.fencedWhole
  rw [hf, hc, hd]
  simp

theorem Clean.unreadable {s : State} (h : Clean s) (a : Nat) : s.unreadable a = false := by
  unfold State.unreadable State.poisoned
  rw [h.fenced, h.2.2.2]
  simp

theorem clean_spilling : Clean spilling := by
  unfold Clean
  decide +kernel

/-! One partition with a single record to write, the 64th of its batch. -/

/-- The 64th record of the batch is written. -/
def written (s : State) (p : Nat) (r : AccRec) : State :=
  (s.tock.setLog p { s.part p with pending := [{ r with seq := some 63 }] }).appendRecord p r.bytes

section Sync

variable {s : State} {p : Nat} {r : AccRec}

theorem part_written (hp : p < 16) (hl : (s.part p).lnext = 63) : (written s p r).part p =
    { s.part p with pending := [{ r with seq := some 63 }], lnext := 64 } := by
  unfold written
  rw [part_appendRecord, part_setLog, if_pos ⟨rfl, hp⟩, part_setLog, if_pos ⟨rfl, hp⟩, hl]
  rfl

theorem part_written_other {k : Nat} (hk : k ≠ p) : (written s p r).part k = s.part k := by
  unfold written
  rw [part_appendRecord, part_setLog, if_neg (fun h => hk h.1), part_setLog, if_neg (fun h => hk h.1)]
  rfl

theorem mem_written (hp : p < 16) (hc : Clean s) (hl : (s.part p).lnext = 63) :
    (written s p r).mem = writeCells s.mem ((s.part p).slot 63) (leBytes 8 63 ++ r.bytes) := by
  obtain ⟨u, hu⟩ : ∃ u : State, u = s.tock.setLog p { s.part p with pending := [{ r with seq := some 63 }] } := ⟨_, rfl⟩
  have hpart : u.part p = { s.part p with pending := [{ r with seq := some 63 }] } := by
    rw [hu, part_setLog, if_pos ⟨rfl, hp⟩]
  have hclean : Clean u := by
    rw [hu]
    exact hc
  have hmem : u.mem = s.mem := by
    rw [hu, State.setLog_mem]
    rfl
  unfold written
  rw [← hu]
  unfold State.appendRecord
  dsimp only
  rw [if_neg (by simp [hclean.fenced]), State.putBytes_mem, State.setLog_mem, hmem, hpart]
  dsimp only
  rw [hl]
  rfl

theorem clean_written (hc : Clean s) : Clean (written s p r) := by
  unfold written State.appendRecord
  dsimp only
  split <;> exact hc

/-- The state behind the record, before any batch is chained. -/
theorem syncPartition_written (hp : p < 16) (hpend : (s.part p).pending = [r]) (hr : r.seq = none) (hl : (s.part p).lnext = 63) :
    s.syncPartition r.hart p = upto (1 - (written s p r).hseq ((written s p r).part p) / 64) (fun _ s => s.chainBatch p) (written s p r) := by
  have hpart := part_written (s := s) (p := p) (r := r) hp hl
  have happ : s.tock.appendOf p (fun x => x.hart = r.hart) = written s p r := by
    unfold State.appendOf written
    rw [show s.tock.part p = s.part p from rfl]
    dsimp only
    rw [hpend]
    simp [hr, replaceFirst, hl]
  unfold State.syncPartition
  dsimp only
  rw [if_neg (by simp [hpend])]
  have hothers : (s.part p).unwritten (fun x => !decide (x.hart = r.hart)) = 0 := by simp [Part.unwritten, hpend]
  have hmine : (s.part p).unwritten (fun x => decide (x.hart = r.hart)) = 1 := by simp [Part.unwritten, hpend, hr]
  rw [hothers, Nat.zero_add, Nat.mod_one, upto_zero, show s.tock.part p = s.part p from rfl, hmine,
    show upto 1 (fun _ u => State.appendOf u p (fun x => decide (x.hart = r.hart))) s.tock = written s p r from happ]
  have hlist : ((written s p r).part p).pending.filter (fun x => decide (x.hart = r.hart)) = [{ r with seq := some 63 }] := by
    rw [hpart]
    simp
  have hnext : ((written s p r).part p).lnext.toNat = 64 := by rw [hpart]; rfl
  rw [hlist, List.foldl_cons, List.foldl_nil, hnext,
    show max 0 ((some 63 : Option Nat).getD 0) = 63 from rfl, if_pos (show 63 / 64 * 64 + 64 ≤ 64 by decide)]

theorem syncPartition_none {uid : Nat} (h : (s.part p).pending = []) : s.syncPartition uid p = s := by
  unfold State.syncPartition
  dsimp only
  rw [h]
  rfl

end Sync

/-! What a chained batch leaves (R341). -/

/-- What is as it was behind the first partition's work: the second partition, and memory behind the first one's head block. -/
structure Beside (s t : State) : Prop where
  base : (t.part 0).labase = (s.part 0).labase
  part : ∀ k, k ≠ 0 → t.part k = s.part k
  mem : ∀ a, (s.part 0).labase.toNat + 0x50 ≤ a → readCell t.mem a = readCell s.mem a
  cpu : t.cpu = s.cpu
  clean : Clean t

theorem Beside.trans {s t u : State} (h : Beside s t) (h' : Beside t u) : Beside s u where
  base := h'.base.trans h.base
  part k hk := (h'.part k hk).trans (h.part k hk)
  mem a ha := (h'.mem a (by rw [h.base]; exact ha)).trans (h.mem a ha)
  cpu := h'.cpu.trans h.cpu
  clean := h'.clean

theorem Clean.batchBad {s : State} (hc : Clean s) (x : Part) : (s.batchBad x).isSome = false :=
  batchBad_isNone_iff.2 ⟨.inr fun _ _ => hc.unreadable _, fun _ _ => hc.unreadable _⟩

theorem beside_chainBatch {s : State} (hc : Clean s) : Beside s (s.chainBatch 0) := by
  have hself : Beside s s := ⟨rfl, fun _ _ => rfl, fun _ _ => rfl, rfl, hc⟩
  by_cases hcap : (s.part 0).lcap = 0
  · have h : s.chainBatch 0 = s := if_pos (by simp [hcap])
    rwa [h]
  by_cases hready : s.hseq (s.part 0) + 64 ≤ (s.part 0).lnext.toNat
  · obtain ⟨d, n, l, hd, hs⟩ : ∃ (d : List Byte) (n : Nat) (l : List AccRec), d.length = 64 ∧ s.chainBatch 0 =
        ((s.putBytes (homeDie (s.part 0).labase.toNat) ((s.part 0).labase.toNat + 0x10) d).putBytes
          (homeDie (s.part 0).labase.toNat) (s.part 0).labase.toNat (leBytes 8 n)).setLog 0 { s.part 0 with pending := l } :=
      ⟨_, _, _, length_digestBytes _, (chainBatch_ready hcap hready).trans (if_neg (by simp [hc.batchBad]))⟩
    generalize hb : leBytes 8 n = b at hs
    have hlen : b.length = 8 := by rw [← hb, leBytes_length]
    rw [hs]
    refine ⟨by rw [part_setLog, if_pos ⟨rfl, by decide⟩], fun k hk => ?_, fun a ha => ?_, rfl, hc⟩
    · rw [part_setLog, if_neg (fun h => hk h.1)]
      rfl
    · rw [State.setLog_mem, State.putBytes_mem, State.putBytes_mem, readCell_writeCells_outside _ _ _ _ (.inr (by omega)),
        readCell_writeCells_outside _ _ _ _ (.inr (by omega))]
  · have h : s.chainBatch 0 = s := if_pos (by simp; omega)
    rwa [h]

theorem beside_chainBatches {s : State} (hc : Clean s) (n : Nat) : Beside s (upto n (fun _ u => u.chainBatch 0) s) :=
  upto_induction (P := Beside s) ⟨rfl, fun _ _ => rfl, fun _ _ => rfl, rfl, hc⟩ fun _ _ h => h.trans (beside_chainBatch h.clean)

/-! ACCSYNC on the spilling state. -/

/-- Behind the first partition: its record stands in the second one's head block. -/
def firstSynced : State := spilling.syncPartition demo.cpu.id.uid 0

def longRecord : AccRec := ⟨demo.cpu.id.uid, none, List.replicate 128 0xFF⟩

theorem beside_firstSynced : Beside (written spilling 0 longRecord) firstSynced := by
  have hpart := spilling_part (p := 0) (by decide)
  unfold firstSynced
  have h := syncPartition_written (s := spilling) (p := 0) (r := longRecord) (by decide) (congrArg Part.pending hpart) rfl
    (congrArg Part.lnext hpart)
  rw [show spilling.syncPartition demo.cpu.id.uid 0 = spilling.syncPartition longRecord.hart 0 from rfl, h]
  exact beside_chainBatches (clean_written clean_spilling) _

theorem firstSynced_part {k : Nat} (h0 : k ≠ 0) : firstSynced.part k = spilling.part k :=
  (beside_firstSynced.part k h0).trans (part_written_other h0)

theorem firstSynced_hseq : leNat (readCells firstSynced.mem 4352 8) = 2 ^ 64 - 1 := by
  have hpart := spilling_part (p := 0) (by decide)
  have hread : readCells firstSynced.mem 4352 8 = readCells (written spilling 0 longRecord).mem 4352 8 := by
    have hbase : (spilling.part 0).labase.toNat = 0 := by rw [hpart]; rfl
    have hb : ((written spilling 0 longRecord).part 0).labase.toNat = 0 := by
      rw [part_written (by decide) (congrArg Part.lnext hpart)]
      exact hbase
    exact List.map_congr_left fun k _ => beside_firstSynced.mem _ (by omega)
  have hslot : (spilling.part 0).slot 63 = 4224 := by
    rw [hpart]
    rfl
  rw [hread, mem_written (by decide) clean_spilling (congrArg Part.lnext hpart), hslot]
  have hlong : ∀ k, k < 8 → readCell (writeCells spilling.mem 4224 (leBytes 8 63 ++ longRecord.bytes)) (4352 + k) = 0xFF := by
    have hbytes : (leBytes 8 63 ++ longRecord.bytes).length = 136 ∧ ∀ k, k < 8 → (leBytes 8 63 ++ longRecord.bytes).getD (128 + k) 0 = 0xFF := by
      decide +kernel
    intro k hk
    rw [readCell_writeCells, hbytes.1, if_pos (by omega), show 4352 + k - 4224 = 128 + k by omega]
    exact hbytes.2 k hk
  have hall : readCells (writeCells spilling.mem 4224 (leBytes 8 63 ++ longRecord.bytes)) 4352 8 = List.replicate 8 0xFF :=
    List.eq_replicate_iff.2 ⟨by unfold readCells; simp, fun b hb => by
      unfold readCells at hb
      obtain ⟨k, hk, rfl⟩ := List.mem_map.1 hb
      exact hlong k (List.mem_range.1 hk)⟩
  rw [hall]
  decide

theorem secondSynced : firstSynced.syncPartition demo.cpu.id.uid 1 = written firstSynced 1 ⟨demo.cpu.id.uid, none, []⟩ := by
  have hpart : firstSynced.part 1 = shortRing 4352 [] :=
    (firstSynced_part (by decide)).trans (spilling_part (by decide))
  obtain ⟨r, hr⟩ : ∃ r : AccRec, r = ⟨demo.cpu.id.uid, none, []⟩ := ⟨_, rfl⟩
  have hpend : (firstSynced.part 1).pending = [r] := by rw [hpart, hr]; rfl
  have hl : (firstSynced.part 1).lnext = 63 := by rw [hpart]; rfl
  have hseq : (written firstSynced 1 r).hseq ((written firstSynced 1 r).part 1) = 2 ^ 64 - 1 := by
    have hslot : (firstSynced.part 1).slot 63 = 8576 := by rw [hpart]; rfl
    have hclean := beside_firstSynced.clean
    rw [part_written (by decide) hl, hpart]
    unfold State.hseq
    rw [if_neg (show ¬(shortRing 4352 []).lcap = 0 from Nat.one_ne_zero), mem_written (by decide) hclean hl, hslot]
    rw [show (shortRing 4352 []).labase.toNat = 4352 from rfl, readCells_writeCells_outside _ _ _ _ _ (.inl (by decide))]
    exact firstSynced_hseq
  rw [← hr, show demo.cpu.id.uid = r.hart by rw [hr], syncPartition_written (by decide) hpend (by rw [hr]) hl, hseq]
  rfl

/-- Both partitions are behind, and no other has a record. -/
theorem all_synced : upto 16 (fun p s => s.syncPartition s.cpu.id.uid p) spilling = written firstSynced 1 ⟨demo.cpu.id.uid, none, []⟩ := by
  have hcpu : firstSynced.cpu = demo.cpu := by
    rw [beside_firstSynced.cpu]
    unfold written
    rw [cpu_appendRecord]
    rfl
  have htwo : upto 2 (fun p s => s.syncPartition s.cpu.id.uid p) spilling = written firstSynced 1 ⟨demo.cpu.id.uid, none, []⟩ := by
    rw [upto_succ, upto_succ, upto_zero, show spilling.syncPartition spilling.cpu.id.uid 0 = firstSynced from rfl, hcpu, secondSynced]
  rw [show 16 = 2 + 14 from rfl, upto_add, htwo]
  refine upto_eq_self_of_lt fun k hk => syncPartition_none ?_
  rw [part_written_other (by omega), firstSynced_part (by omega), spilling_part (by omega), if_neg (by omega), if_neg (by omega)]
  rfl

theorem cpu_lastSynced : (written firstSynced 1 ⟨demo.cpu.id.uid, none, []⟩).cpu = spilling.cpu := by
  unfold written
  rw [cpu_appendRecord]
  show firstSynced.cpu = _
  rw [beside_firstSynced.cpu]
  unfold written
  rw [cpu_appendRecord]
  rfl

/-- The second partition still has the hart's record. -/
theorem stuck_spilling : ∃ x, (upto 16 (fun p s => s.syncPartition s.cpu.id.uid p) spilling).stuckPart spilling.cpu.id.uid = some x := by
  rw [all_synced]
  have hpart : firstSynced.part 1 = shortRing 4352 [] :=
    (firstSynced_part (by decide)).trans (spilling_part (by decide))
  generalize hu : written firstSynced 1 ⟨demo.cpu.id.uid, none, []⟩ = u
  have hpend : (u.part 1).pending = [⟨demo.cpu.id.uid, some 63, []⟩] := by
    rw [← hu, part_written (by decide) (by rw [hpart]; rfl)]
  refine Option.isSome_iff_exists.1 (List.find?_isSome.2 ⟨u.part 1, ?_, ?_⟩)
  · exact Array.mem_toList_iff.2 (Array.getElem_mem (xs := u.pkg.parts.toArray) (i := 1) (by simp))
  · rw [hpend]
    rfl

/-- Refutes O46: where a pending record is longer than its slot, its write changes what stands behind the ring; there it can be the hseq of
the hart's next partition, whose batch then never becomes durable. -/
theorem not_accessionInstructions : ¬Obligations.AccessionInstructions := by
  unfold Obligations.AccessionInstructions
  rintro ⟨-, h, -⟩
  obtain ⟨t, hexec, -, -, hfront, -⟩ := (h 0 spilling (fun p hp => absurd hp List.not_mem_nil)).1 clean_spilling.unreadable spilling_sound
    spilling_apart
  obtain ⟨x, hx⟩ := stuck_spilling
  obtain ⟨u, hu, hinstret⟩ := accsync_stuck (s := spilling) (d := 0) rfl (by rw [all_synced, cpu_lastSynced]) hx
  obtain rfl : t = u := Host.Outcome.next.inj (hexec.symm.trans hu)
  have hretired := (congrArg Front.instret hfront).symm.trans hinstret
  exact absurd hretired (show ¬(demo.cpu.front.instret + 1 = demo.cpu.front.instret) by decide +kernel)

end Sys2Proof.Claims
end

section
/-! PROOF. The grammar engine's instructions (R323–R331). -/

namespace Sys2Proof.Claims

open Sys2Proof Sys2Proof.Machine

/-! What the engine reads does not depend on its own state. -/

section Reads

variable (s : State) (gr : Gram)

theorem engineByte_setGram (c : Ctx) (k : Access) (r : Bool) (va : Nat) : (s.setGram gr).engineByte c k r va = s.engineByte c k r va := rfl

theorem engineBytes_setGram (c : Ctx) (k : Access) (r : Bool) (l : List Nat) :
    (s.setGram gr).engineBytes c k r l = s.engineBytes c k r l := by
  induction l with
  | nil => rfl
  | cons a l ih =>
    unfold State.engineBytes
    rw [ih]
    rfl

theorem engineLoad_setGram (va n : Nat) : (s.setGram gr).engineLoad va n = s.engineLoad va n := by
  unfold State.engineLoad
  rw [engineBytes_setGram]
  rfl

theorem readNat_setGram (va n : Nat) : (s.setGram gr).readNat va n = s.readNat va n := by
  unfold State.readNat
  rw [engineLoad_setGram]

theorem imageAt_setGram (a : Nat) : (s.setGram gr).imageAt a = s.imageAt a := by
  unfold State.imageAt
  rw [engineLoad_setGram]

variable (g : GImage)

theorem transition_setGram (st byte : Nat) : (s.setGram gr).transition g st byte = s.transition g st byte := by
  unfold State.transition
  simp only [readNat_setGram]

theorem stateRecord_setGram (st : Nat) : (s.setGram gr).stateRecord g st = s.stateRecord g st := by
  unfold State.stateRecord
  simp only [readNat_setGram]

theorem checkEdges_setGram (n e low : Nat) : (s.setGram gr).checkEdges g n e low = s.checkEdges g n e low := by
  induction n generalizing e low with
  | zero => rfl
  | succ n ih =>
    unfold State.checkEdges
    simp only [readNat_setGram, ih]

theorem besidePath_setGram (n edge0 nedges : Nat) : (s.setGram gr).besidePath g n edge0 nedges = s.besidePath g n edge0 nedges := by
  unfold State.besidePath
  simp only [readNat_setGram, checkEdges_setGram]
  rfl

theorem nodePath_setGram (fuel n : Nat) (token : Option Nat) (acc : List Nat) :
    (s.setGram gr).nodePath g fuel n token acc = s.nodePath g fuel n token acc := by
  induction fuel generalizing n token acc with
  | zero => rfl
  | succ m ih =>
    unfold State.nodePath
    simp only [readNat_setGram, besidePath_setGram, ih]

theorem tokenPath_setGram (t : Nat) : (s.setGram gr).tokenPath g t = s.tokenPath g t := by
  unfold State.tokenPath
  simp only [readNat_setGram, nodePath_setGram]

theorem gstep_setGram (byte fuel : Nat) (w : GWalk) : (s.setGram gr).gstep g byte fuel w = s.gstep g byte fuel w := by
  induction fuel generalizing w with
  | zero => rfl
  | succ m ih =>
    unfold State.gstep
    simp only [transition_setGram, ih]

theorem gwalk_setGram (l : List Nat) (w : GWalk) : (s.setGram gr).gwalk g l w = s.gwalk g l w := by
  induction l generalizing w with
  | nil => rfl
  | cons b l ih =>
    unfold State.gwalk
    simp only [gstep_setGram, ih]

theorem allow_setGram (c : GConf) (t : Nat) : (s.setGram gr).allow g c t = s.allow g c t := by
  unfold State.allow
  simp only [tokenPath_setGram, gwalk_setGram]

theorem gcomplete_setGram (st : Nat) (stack : List Nat) : (s.setGram gr).gcomplete g st stack = s.gcomplete g st stack := by
  unfold State.gcomplete
  rw [stateRecord_setGram]

theorem tokenBits_setGram (c : GConf) (ci n t : Nat) : (s.setGram gr).tokenBits g c ci n t = s.tokenBits g c ci n t := by
  induction n generalizing t with
  | zero => rfl
  | succ m ih =>
    unfold State.tokenBits
    simp only [readNat_setGram, gcomplete_setGram, allow_setGram, ih]

theorem maskBits_setGram (c : GConf) : (s.setGram gr).maskBits g c = s.maskBits g c := by
  unfold State.maskBits
  simp only [stateRecord_setGram, tokenBits_setGram]

end Reads

/-! The contexts of the engine. -/

theorem ctxs_use (g : Gram) (h : Nat) : (g.use h).ctxs = g.ctxs := rfl

theorem ctxs_due (g : Gram) (p : GPend) : (g.due p).ctxs = g.ctxs := rfl

theorem poolUsed_congr {g g' : Gram} (h : g'.ctxs = g.ctxs) (base : W64) : g'.poolUsed base = g.poolUsed base := by
  unfold Gram.poolUsed Gram.onPool
  rw [h]

theorem mfind_setCtx (l : List (Nat × GCtx)) (h k : Nat) (c : GCtx) : mfind (l.map (fun e => if e.1 = h then (h, c) else e)) k =
    if k = h then (mfind l h).map (fun _ => c) else mfind l k := by
  induction l with
  | nil => simp [mfind]
  | cons e l ih =>
    obtain ⟨a, x⟩ := e
    rw [List.map_cons]
    by_cases ha : a = h
    · subst ha
      rw [if_pos rfl]
      by_cases hk : k = a
      · simp [mfind, hk]
      · simp only [mfind, if_neg (Ne.symm hk), if_neg hk, ih]
    · simp only [if_neg ha, mfind, ih]
      by_cases hk : k = h
      · simp [hk, ha]
      · simp [hk]

theorem mfind_filter_ne (l : List (Nat × GCtx)) (h k : Nat) :
    mfind (l.filter (fun e => e.1 != h)) k = if k = h then none else mfind l k := by
  induction l with
  | nil => simp [mfind]
  | cons e l ih =>
    obtain ⟨a, x⟩ := e
    by_cases ha : a = h
    · subst ha
      rw [List.filter_cons_of_neg (by simp), ih]
      by_cases hk : k = a
      · rw [if_pos hk, if_pos hk]
      · simp only [mfind, if_neg hk, if_neg (Ne.symm hk)]
    · rw [List.filter_cons_of_pos (by simpa using ha)]
      simp only [mfind, ih]
      by_cases hk : k = h
      · simp [hk, ha]
      · simp [hk]

/-! An operation on a context that is sound. -/

theorem readRecords_clean {s : State} {c : GCtx} (hunr : s.poolUnreadable c = none) (hdam : s.poolDamaged c = false) (i : Instr)
    (form : GForm) (h : Nat) (body : Nat → GCtx → State → State) : s.readRecords i form h c body = body h c s := by
  unfold State.readRecords
  rw [hunr, hdam]

theorem OnContext.runs {s : State} {a : Reg} {c : GCtx} (h : OnContext s a c) {i : Instr} {form : GForm}
    (hfreed : form.freed = false) (hcheck : form.check s c = none) (body : Nat → GCtx → State → State) :
    s.onContext i a form body
      = body (s.getU a) c (if form.uses then s.setGram (s.cpu.back.gram.use (s.getU a)) else s) := by
  obtain ⟨hin, hfind, hfailed, hdam, hunr⟩ := h
  unfold State.onContext
  rw [State.whenOldest_nil _ _ _ hin]
  dsimp only
  rw [hfind]
  dsimp only
  rw [if_neg (by simp [hfailed]), hcheck]
  dsimp only
  rw [if_neg (by simp [hfreed])]
  refine readRecords_clean ?_ ?_ _ _ _ _
  · split
    · exact hunr
    · exact hunr
  · split
    · exact hdam
    · exact hdam

/-! What an operation has done before it retires. -/

/-- Only masks, the engine's own state and bytes of the pool of `c` have changed, and what orders the strip's accesses. -/
structure Acted (s u : State) (c : GCtx) : Prop where
  cpu : u.cpu = { s.cpu with back := { s.cpu.back with m := u.cpu.back.m, gram := u.cpu.back.gram, strip := u.cpu.back.strip } }
  others : SameOthers s u
  pkg : SamePkg s u
  agenda : u.agenda = s.agenda
  mem : ∀ a, (∀ k pa, k < u.cpu.back.gram.poolUsed c.pool → s.translate s.cpu.ctx .store (s.poolBase c + k) = .ok pa → s.key pa ≠ a) →
    readCell u.mem a = readCell s.mem a

theorem acted_setGram (s : State) (g : Gram) (c : GCtx) : Acted s (s.setGram g) c :=
  ⟨rfl, SameOthers.of_eq rfl, SamePkg.of_eq rfl, rfl, fun _ _ => rfl⟩

theorem areaWritten_agentBytes (s : State) (d k : Nat) (l : List Byte) : AreaWritten s (s.agentBytes d k l) :=
  ⟨sameCpu_meetStrips s false _, sameOthers_meetStrips s false _, rfl⟩

theorem areaWritten_writePool (s : State) (c : GCtx) : AreaWritten s (s.writePool c) := by
  unfold State.writePool
  exact areaWritten_foldl (fun u pa => areaWritten_agentBytes u _ _ _) _ s

theorem gram_writePool (s : State) (c : GCtx) : (s.writePool c).cpu.back.gram = s.cpu.back.gram := by
  rw [(areaWritten_writePool s c).1]

theorem readCell_writePool (s : State) (c : GCtx) (a : Nat) (h : ∀ pa ∈ s.poolBytes c, s.key pa ≠ a) :
    readCell (s.writePool c).mem a = readCell s.mem a := by
  unfold State.writePool
  generalize s.poolBytes c = l at h
  induction l generalizing s with
  | nil => rfl
  | cons pa l ih =>
    have hkey : ∀ q, (s.agentBytes s.cpu.id.die (s.key pa) [Config.privateByte (s.key pa)]).key q = s.key q := fun _ => rfl
    rw [List.foldl_cons, ih _ fun q hq => by rw [hkey]; exact h q (List.mem_cons_of_mem _ hq)]
    refine readCell_writeCells_outside s.mem (s.key pa) a [Config.privateByte (s.key pa)] ?_
    have := h pa List.mem_cons_self
    rw [List.length_singleton]
    omega

theorem agenda_writePool (s : State) (c : GCtx) : (s.writePool c).agenda = s.agenda := by
  unfold State.writePool
  generalize s.poolBytes c = l
  induction l generalizing s with
  | nil => rfl
  | cons pa l ih => exact ih _

/-- A byte that an engine may reach is where translation puts it. -/
theorem translate_of_engineByte {s : State} {c : Ctx} {k : Access} {r : Bool} {va pa : Nat} (h : s.engineByte c k r va = .ok pa) :
    s.translate c k va = .ok pa := by
  unfold State.engineByte State.byteAccess at h
  cases ht : s.translate c k va with
  | error f => simp [ht] at h
  | ok q =>
    simp only [ht] at h
    split at h
    · split at h
      · exact nomatch h
      · rw [Except.ok.inj h]
    · exact nomatch h

theorem translate_of_mem_poolBytes {s : State} {c : GCtx} {pa : Nat} (h : pa ∈ s.poolBytes c) :
    ∃ k < s.cpu.back.gram.poolUsed c.pool, s.translate s.cpu.ctx .store (s.poolBase c + k) = .ok pa := by
  obtain ⟨k, hk, he⟩ := List.mem_filterMap.1 h
  refine ⟨k, List.mem_range.1 hk, translate_of_engineByte (r := false) ?_⟩
  cases hb : s.engineByte s.cpu.ctx .store false (s.poolBase c + k) with
  | error f => simp [hb] at he
  | ok q => simpa [hb] using he

/-- The engine writes its records. -/
theorem acted_writePool (s : State) (g : Gram) {c c' : GCtx} (hpool : c'.pool = c.pool) (hsize : c'.size = c.size) :
    Acted s ((s.setGram g).writePool c') c := by
  obtain ⟨hcpu, hothers, hpkg⟩ := areaWritten_writePool (s.setGram g) c'
  refine ⟨?_, hothers, hpkg, ?_, fun a ha => readCell_writePool _ _ _ fun pa hpa => ?_⟩
  · rw [hcpu]
    rfl
  · exact agenda_writePool _ _
  · obtain ⟨k, hk, ht⟩ := translate_of_mem_poolBytes hpa
    have hbase : (s.setGram g).poolBase c' = s.poolBase c := by
      unfold State.poolBase
      rw [hpool, hsize]
      rfl
    rw [hbase] at ht
    rw [gram_writePool] at ha
    exact ha k pa (by rw [hpool] at hk; exact hk) ht

theorem Acted.front {s u : State} {c : GCtx} (h : Acted s u c) : u.cpu.front = s.cpu.front := by
  rw [h.cpu]

/-- What the engine notes of its pending results leaves the pool as it is. -/
theorem Acted.setGram {s u : State} {c : GCtx} (h : Acted s u c) {g : Gram} (hg : g.ctxs = u.cpu.back.gram.ctxs) : Acted s (u.setGram g) c where
  cpu := by
    show { u.cpu with back := { u.cpu.back with gram := g } } = _
    rw [h.cpu]
    rfl
  others := h.others
  pkg := h.pkg
  agenda := h.agenda
  mem a ha := by
    refine h.mem a fun k pa hk => ha k pa ?_
    rw [show (u.setGram g).cpu.back.gram = g from rfl, poolUsed_congr hg]
    exact hk

/-- An operation retires with the front `f`. -/
theorem acted_finish {s u : State} {c : GCtx} (h : Acted s u c) {i : Instr} (hkeep : keepsVstart i = true) (hlen : i.len = 8) {f : Front}
    (hf : f = { s.cpu.front with x := f.x }) :
    RetiresGrammar s (u.finish i f) c ∧ (∀ r, (u.finish i f).getX r = f.getX r) ∧ (u.finish i f).cpu.back = u.cpu.back := by
  obtain ⟨t, ht⟩ : ∃ t, t = u.finish i f := ⟨_, rfl⟩
  have hfin : t = ({ u with cpu := { u.cpu with lanes := none } }.setFront f).retire 8 := by
    rw [ht]
    unfold State.finish vstartAfter
    rw [hkeep, hlen]
    rfl
  have hfront : t.cpu.front = { s.cpu.front with
      x := f.x, pc := s.cpu.front.pc + 8, instret := s.cpu.front.instret + 1, cycle := t.cpu.front.cycle } := by
    have hx : t.cpu.front = { f with pc := f.pc + 8, instret := f.instret + 1, cycle := t.cpu.front.cycle } := by
      rw [hfin]
      rfl
    rw [hx, hf]
  have hback : t.cpu.back = u.cpu.back := by rw [hfin]; rfl
  rw [← ht]
  refine ⟨⟨?_, ?_, ?_, ?_, ?_, ?_, fun a ha => ?_⟩, fun r => ?_, hback⟩
  · have hx : t.cpu.front.x = f.x := by rw [hfront]
    unfold past
    rw [hx]
    exact hfront
  · have hcpu : t.cpu = { u.cpu with
        front := t.cpu.front, lanes := none, wait := none, due := none, resumed := t.cpu.resumed, trapped := false } := by
      rw [hfin]
      rfl
    rw [hcpu, h.cpu]
  · rw [hback, h.cpu]
  · exact h.others.congr (by rw [hfin]; rfl)
  · exact h.pkg.congr (by rw [hfin]; rfl)
  · rw [hfin]
    exact h.agenda
  · have hm : t.mem = u.mem := by rw [hfin]; rfl
    rw [hm]
    refine h.mem a fun k pa hk => ha k pa ?_
    rw [hback]
    exact lt_of_lt_of_le hk (le_max_right _ _)
  · rw [hfin]
    rfl

/-- An operation with an x result retires. -/
theorem acted_gresult {s u : State} {c : GCtx} (h : Acted s u c) {i : Instr} (hkeep : keepsVstart i = true) (hlen : i.len = 8) (d : Reg)
    (v : Nat) : RetiresGrammar s (u.gresult i d v) c ∧ WritesX s (u.gresult i d v) d (BitVec.ofNat 64 v)
      ∧ (u.gresult i d v).cpu.back.m = u.cpu.back.m ∧ ∀ k, ctxOf (u.gresult i d v) k = ctxOf u k := by
  have hnote : Acted s (u.setGram (u.cpu.back.gram.due (u.xResult d))) c := h.setGram (ctxs_due _ _)
  have hres : u.gresult i d v
      = (u.setGram (u.cpu.back.gram.due (u.xResult d))).finish i (s.cpu.front.setX d (BitVec.ofNat 64 v)) := by
    unfold State.gresult
    dsimp only
    rw [hnote.front]
  obtain ⟨hret, hx, hback⟩ := acted_finish hnote hkeep hlen (Front.setX_eq s.cpu.front d (BitVec.ofNat 64 v))
  rw [hres]
  refine ⟨hret, ⟨?_, fun r hr => ?_⟩, ?_, fun k => ?_⟩
  · rw [hx, Front.getX_setX_same]
  · rw [hx, Front.getX_setX_other _ _ _ _ hr]
    rfl
  · rw [hback]
    rfl
  · unfold ctxOf
    rw [hback]
    rfl

/-! Checkpoints, rollback, fork, free and status (R325, R326, R328, R331). -/

section Contexts

variable {s : State} {a d b : Reg} {c : GCtx}

/-- The state in which an operation on an open context runs: its handle has been named for residency (R324). -/
def used (s : State) (a : Reg) : State := s.setGram (s.cpu.back.gram.use (s.getU a))

theorem ctxs_used (s : State) (a : Reg) : (used s a).cpu.back.gram.ctxs = s.cpu.back.gram.ctxs := rfl

/-- An operation that changes no context delivers its result. -/
theorem unchanged_gresult (s : State) (a d : Reg) (c : GCtx) {i : Instr} (hkeep : keepsVstart i = true) (hlen : i.len = 8) (v : Nat) :
    RetiresGrammar s ((used s a).gresult i d v) c ∧ WritesX s ((used s a).gresult i d v) d (BitVec.ofNat 64 v)
      ∧ ∀ k, ctxOf ((used s a).gresult i d v) k = ctxOf s k := by
  obtain ⟨hret, hw, -, hctx⟩ := acted_gresult (acted_setGram s (s.cpu.back.gram.use (s.getU a)) c) hkeep hlen d v
  exact ⟨hret, hw, hctx⟩

/-- An operation that leaves the contexts of `g`, and writes the pool, delivers its result. -/
theorem written_gresult (s : State) (g : Gram) (d : Reg) {c c' : GCtx} (hpool : c'.pool = c.pool) (hsize : c'.size = c.size) {i : Instr}
    (hkeep : keepsVstart i = true) (hlen : i.len = 8) (v : Nat) :
    RetiresGrammar s (((s.setGram g).writePool c').gresult i d v) c
      ∧ WritesX s (((s.setGram g).writePool c').gresult i d v) d (BitVec.ofNat 64 v)
      ∧ (((s.setGram g).writePool c').gresult i d v).cpu.back.m = s.cpu.back.m
      ∧ ∀ k, ctxOf (((s.setGram g).writePool c').gresult i d v) k = mfind g.ctxs k := by
  obtain ⟨hret, hw, hm, hctx⟩ := acted_gresult (acted_writePool s g hpool hsize) hkeep hlen d v
  refine ⟨hret, hw, ?_, fun k => ?_⟩
  · rw [hm, (areaWritten_writePool (s.setGram g) c').1]
    rfl
  · rw [hctx]
    unfold ctxOf
    rw [gram_writePool]
    rfl

theorem gfree_spec (hin : s.cpu.inflight = []) (hc : ctxOf s (s.getU a) = some c) :
    ∃ t, exec (.gfree a) s = .next t ∧ KeepsX s t ∧ RetiresGrammar s t c ∧ ctxOf t (s.getU a) = none ∧ OtherContexts s t (s.getU a) := by
  have hact := acted_setGram s ((s.cpu.back.gram.use (s.getU a)).drop (s.getU a)) c
  obtain ⟨hret, hx, hback⟩ := acted_finish hact (i := .gfree a) rfl rfl (f := s.cpu.front) rfl
  have hctx : ∀ k, ctxOf ((s.setGram ((s.cpu.back.gram.use (s.getU a)).drop (s.getU a))).finish (.gfree a) s.cpu.front) k =
      if k = s.getU a then none else ctxOf s k := by
    intro k
    unfold ctxOf
    rw [hback]
    exact mfind_filter_ne s.cpu.back.gram.ctxs (s.getU a) k
  refine ⟨_, ?_, hx, hret, ?_, fun k hk => ?_⟩
  · show execGfree a s = _
    unfold execGfree State.onContext
    refine congrArg Host.Outcome.next ?_
    rw [State.whenOldest_nil _ _ _ hin]
    dsimp only
    rw [show mfind s.cpu.back.gram.ctxs (s.getU a) = some c from hc]
    dsimp only
    rw [if_neg (by simp)]
    rfl
  · rw [hctx, if_pos rfl]
  · rw [hctx, if_neg hk]

theorem gckpt_full (h : OnContext s a c) (hfull : s.poolSize c.size < (s.cpu.back.gram.setCtx (s.getU a) (checkpointed c)).poolUsed c.pool) :
    ∃ t, exec (.gckpt d a) s = .next t ∧ RetiresGrammar s t c ∧ WritesX s t d 0 ∧ ∀ k, ctxOf t k = ctxOf s k := by
  refine ⟨(used s a).gresult (.gckpt d a) d 0, ?_, unchanged_gresult s a d c rfl rfl 0⟩
  show execGckpt d a s = _
  unfold execGckpt
  refine congrArg Host.Outcome.next ?_
  rw [h.runs rfl rfl]
  exact if_pos hfull

theorem gckpt_takes (h : OnContext s a c) (hroom : (s.cpu.back.gram.setCtx (s.getU a) (checkpointed c)).poolUsed c.pool ≤ s.poolSize c.size) :
    ∃ t, exec (.gckpt d a) s = .next t ∧ RetiresGrammar s t c ∧ WritesX s t d (BitVec.ofNat 64 (c.latest + 1))
      ∧ ctxOf t (s.getU a) = some (checkpointed c) ∧ OtherContexts s t (s.getU a) := by
  obtain ⟨hret, hw, -, hctx⟩ := written_gresult s ((used s a).cpu.back.gram.setCtx (s.getU a) (checkpointed c)) d
    (c := c) (c' := checkpointed c) rfl rfl (i := .gckpt d a) rfl rfl (c.latest + 1)
  refine ⟨_, ?_, hret, hw, ?_, fun k hk => ?_⟩
  · show execGckpt d a s = _
    unfold execGckpt
    refine congrArg Host.Outcome.next ?_
    rw [h.runs rfl rfl]
    exact if_neg (Nat.not_lt.2 hroom)
  · rw [hctx]
    refine (mfind_setCtx s.cpu.back.gram.ctxs (s.getU a) (s.getU a) (checkpointed c)).trans ?_
    rw [if_pos rfl, h.2.1]
    rfl
  · rw [hctx]
    exact (mfind_setCtx s.cpu.back.gram.ctxs (s.getU a) k (checkpointed c)).trans (if_neg hk)

/-- A context after GROLL to checkpoint `n` (R326). -/
def rolled (c : GCtx) (conf : GConf) (n : Nat) : GCtx := { c with conf := conf, ring := c.ring.filter (fun x => x.1 ≤ n), latest := n }

theorem groll_takes (h : OnContext s a c) {conf : GConf} (hconf : mfind c.ring (s.getU b) = some conf) (hold : c.oldest ≤ s.getU b)
    (hlate : s.getU b ≤ c.latest) :
    ∃ t, exec (.groll d a b) s = .next t ∧ RetiresGrammar s t c ∧ OtherContexts s t (s.getU a) ∧ WritesX s t d 0
      ∧ ctxOf t (s.getU a) = some (rolled c conf (s.getU b)) := by
  obtain ⟨hret, hw, -, hctx⟩ := written_gresult s ((used s a).cpu.back.gram.setCtx (s.getU a) (rolled c conf (s.getU b))) d
    (c := c) (c' := rolled c conf (s.getU b)) rfl rfl (i := .groll d a b) rfl rfl 0
  refine ⟨_, ?_, hret, fun k hk => ?_, hw, ?_⟩
  · show execGroll d a b s = _
    unfold execGroll
    refine congrArg Host.Outcome.next ?_
    rw [h.runs rfl rfl]
    dsimp only
    rw [show (if (GForm.toX d).uses = true then s.setGram (s.cpu.back.gram.use (s.getU a)) else s) = used s a from rfl,
      show (used s a).getU b = s.getU b from rfl, hconf]
    exact if_neg (by simp; omega)
  · rw [hctx]
    exact (mfind_setCtx s.cpu.back.gram.ctxs (s.getU a) k _).trans (if_neg hk)
  · rw [hctx]
    refine (mfind_setCtx s.cpu.back.gram.ctxs (s.getU a) (s.getU a) _).trans ?_
    rw [if_pos rfl, h.2.1]
    rfl

theorem groll_invalid (h : OnContext s a c) (hbad : mfind c.ring (s.getU b) = none ∨ s.getU b < c.oldest ∨ c.latest < s.getU b) :
    ∃ t, exec (.groll d a b) s = .next t ∧ RetiresGrammar s t c ∧ WritesX s t d 1 ∧ ∀ k, ctxOf t k = ctxOf s k := by
  refine ⟨(used s a).gresult (.groll d a b) d 1, ?_, unchanged_gresult s a d c rfl rfl 1⟩
  show execGroll d a b s = _
  unfold execGroll
  refine congrArg Host.Outcome.next ?_
  rw [h.runs rfl rfl]
  dsimp only
  rw [show (if (GForm.toX d).uses = true then s.setGram (s.cpu.back.gram.use (s.getU a)) else s) = used s a from rfl,
    show (used s a).getU b = s.getU b from rfl]
  cases hr : mfind c.ring (s.getU b) with
  | none => rfl
  | some conf =>
    rcases hbad with hn | hlt
    · rw [hr] at hn
      exact nomatch hn
    · exact if_pos (by simpa using hlt)

theorem gfork_refused (h : OnContext s a c) (hno : ∀ k, s.cpu.back.gram.freeHandle = some k →
      s.poolSize c.size < { s.cpu.back.gram with ctxs := minsert s.cpu.back.gram.ctxs k c }.poolUsed c.pool) :
    ∃ t, exec (.gfork d a) s = .next t ∧ RetiresGrammar s t c ∧ WritesX s t d 0 ∧ ∀ k, ctxOf t k = ctxOf s k := by
  refine ⟨(used s a).gresult (.gfork d a) d 0, ?_, unchanged_gresult s a d c rfl rfl 0⟩
  show execGfork d a s = _
  unfold execGfork
  refine congrArg Host.Outcome.next ?_
  rw [h.runs rfl rfl]
  dsimp only
  rw [show (if (GForm.toX d).uses = true then s.setGram (s.cpu.back.gram.use (s.getU a)) else s) = used s a from rfl,
    show (used s a).cpu.back.gram.freeHandle = s.cpu.back.gram.freeHandle from rfl]
  cases hf : s.cpu.back.gram.freeHandle with
  | none => rfl
  | some k => exact if_pos (hno k hf)

theorem gfork_takes (h : OnContext s a c) {k : Nat} (hf : s.cpu.back.gram.freeHandle = some k)
    (hroom : { s.cpu.back.gram with ctxs := minsert s.cpu.back.gram.ctxs k c }.poolUsed c.pool ≤ s.poolSize c.size) :
    ∃ t, exec (.gfork d a) s = .next t ∧ RetiresGrammar s t c ∧ WritesX s t d (BitVec.ofNat 64 k) ∧ ctxOf t k = some c
      ∧ OtherContexts s t k := by
  obtain ⟨hret, hw, -, hctx⟩ := written_gresult s
    ({ (used s a).cpu.back.gram with ctxs := minsert s.cpu.back.gram.ctxs k c }.use k) d
    (c := c) (c' := c) rfl rfl (i := .gfork d a) rfl rfl k
  refine ⟨_, ?_, hret, hw, ?_, fun j hj => ?_⟩
  · show execGfork d a s = _
    unfold execGfork
    refine congrArg Host.Outcome.next ?_
    rw [h.runs rfl rfl]
    dsimp only
    rw [show (if (GForm.toX d).uses = true then s.setGram (s.cpu.back.gram.use (s.getU a)) else s) = used s a from rfl,
      show (used s a).cpu.back.gram.freeHandle = s.cpu.back.gram.freeHandle from rfl, hf]
    exact if_neg (Nat.not_lt.2 hroom)
  · rw [hctx]
    exact (mfind_minsert _ _ _ _).trans (if_pos rfl)
  · rw [hctx]
    exact (mfind_minsert _ _ _ _).trans (if_neg hj)

theorem gstat_reads (h : OnContext s a c) {sel : Reg} {v : Nat} (hv : s.gstatItem (s.getU a) c sel.val = .ok v) :
    ∃ t, exec (.gstat d a sel) s = .next t ∧ RetiresGrammar s t c ∧ WritesX s t d (BitVec.ofNat 64 v) ∧ ∀ k, ctxOf t k = ctxOf s k := by
  obtain ⟨hret, hw, -, hctx⟩ := acted_gresult (acted_setGram s s.cpu.back.gram c) (i := .gstat d a sel) rfl rfl d v
  refine ⟨s.gresult (.gstat d a sel) d v, ?_, hret, hw, hctx⟩
  show execGstat d a sel s = _
  unfold execGstat
  refine congrArg Host.Outcome.next ?_
  rw [h.runs rfl rfl]
  dsimp only
  rw [if_neg (by simp), hv]

theorem gstatItem_low {sel v : Nat} (hs : sel < 5) (hv : s.gstatItem (s.getU a) c sel = .ok v) :
    some v = [c.conf.st, c.conf.stack.length, c.conf.stack.headD (2 ^ 64 - 1), c.latest, c.oldest][sel]? := by
  match sel, hs with
  | 0, _ => exact congrArg some (Except.ok.inj hv).symm
  | 1, _ => exact congrArg some (Except.ok.inj hv).symm
  | 2, _ =>
    refine congrArg some ((Except.ok.inj hv).symm.trans ?_)
    cases c.conf.stack <;> rfl
  | 3, _ => exact congrArg some (Except.ok.inj hv).symm
  | 4, _ => exact congrArg some (Except.ok.inj hv).symm

end Contexts

/-- Settles O45: each operation runs on the contexts of the engine, and writes its records into the pool. -/
theorem grammarContexts : Obligations.GrammarContexts := by
  unfold Obligations.GrammarContexts
  refine ⟨fun a s c hin hc => gfree_spec hin hc, fun d a b sel s c h => ⟨gckpt_full h, gckpt_takes h, fun conf hconf hold hlate =>
    groll_takes h hconf hold hlate, groll_invalid h, gfork_refused h, fun k hf hroom => gfork_takes h hf hroom, fun v hv => ?_⟩⟩
  obtain ⟨t, hexec, hret, hw, hctx⟩ := gstat_reads (d := d) h hv
  exact ⟨t, hexec, hret, hw, hctx, fun hs => gstatItem_low hs hv⟩

end Sys2Proof.Claims
end

section
/-! PROOF. GOPEN, GADV and the token bits of GMASK (R323, R324, R327–R330). -/

namespace Sys2Proof.Claims

open Sys2Proof Sys2Proof.Machine

/-! GOPEN (R327). -/

section Open

variable {s : State} {a b c d : Reg} {g : GImage}

/-- The context that GOPEN opens. -/
def opened (s : State) (a b c : Reg) (g : GImage) : GCtx := ⟨s.getX a, s.getX b, s.getX c, ⟨g.start, [], []⟩, [], 0, 1, false⟩

theorem exec_gopen (hin : s.cpu.inflight = []) (hg : s.gopenChecks (.gopen d a b c) (s.getU a) (s.getU b) (s.getU c) = .ok g)
    {h : Nat} (hfree : s.cpu.back.gram.freeHandle = some h) :
    exec (.gopen d a b c) s = .next (if s.poolSize (opened s a b c g).size < s.cpu.back.gram.poolUsed (opened s a b c g).pool + 256
        then s.gresult (.gopen d a b c) d 0
        else ((s.setGram ({ s.cpu.back.gram with ctxs := minsert s.cpu.back.gram.ctxs h (opened s a b c g) }.use h)).writePool
          (opened s a b c g)).gresult (.gopen d a b c) d h) := by
  show execGopen d a b c s = _
  unfold execGopen
  refine congrArg Host.Outcome.next ?_
  rw [State.whenOldest_nil _ _ _ hin]
  dsimp only
  rw [hg]
  dsimp only
  rw [hfree]
  rfl

theorem exec_gopen_none (hin : s.cpu.inflight = []) (hg : s.gopenChecks (.gopen d a b c) (s.getU a) (s.getU b) (s.getU c) = .ok g)
    (hfree : s.cpu.back.gram.freeHandle = none) : exec (.gopen d a b c) s = .next (s.gresult (.gopen d a b c) d 0) := by
  show execGopen d a b c s = _
  unfold execGopen
  refine congrArg Host.Outcome.next ?_
  rw [State.whenOldest_nil _ _ _ hin]
  dsimp only
  rw [hg]
  dsimp only
  rw [hfree]

/-- GOPEN without room. -/
theorem gopen_refused (x : GCtx) :
    RetiresGrammar s (s.gresult (.gopen d a b c) d 0) x ∧ (s.gresult (.gopen d a b c) d 0).cpu.back.m = s.cpu.back.m
      ∧ WritesX s (s.gresult (.gopen d a b c) d 0) d 0 ∧ ∀ k, ctxOf (s.gresult (.gopen d a b c) d 0) k = ctxOf s k := by
  obtain ⟨hret, hw, hm, hctx⟩ := acted_gresult (acted_setGram s s.cpu.back.gram x) (i := .gopen d a b c) rfl rfl d 0
  exact ⟨hret, hm, hw, hctx⟩

/-- GOPEN with room. -/
theorem gopen_takes (x : GCtx) (h : Nat) :
    let t := ((s.setGram ({ s.cpu.back.gram with ctxs := minsert s.cpu.back.gram.ctxs h x }.use h)).writePool x).gresult (.gopen d a b c) d h
    RetiresGrammar s t x ∧ t.cpu.back.m = s.cpu.back.m ∧ WritesX s t d (BitVec.ofNat 64 h) ∧ ctxOf t h = some x ∧ OtherContexts s t h := by
  obtain ⟨hret, hw, hm, hctx⟩ := written_gresult s ({ s.cpu.back.gram with ctxs := minsert s.cpu.back.gram.ctxs h x }.use h) d
    (c := x) (c' := x) rfl rfl (i := .gopen d a b c) rfl rfl h
  refine ⟨hret, hm, hw, ?_, fun k hk => ?_⟩
  · rw [hctx]
    exact (mfind_minsert _ _ _ _).trans (if_pos rfl)
  · rw [hctx]
    exact (mfind_minsert _ _ _ _).trans (if_neg hk)

end Open

/-! GADV (R329). -/

section Advance

variable {s : State} {a b d : Reg} {c : GCtx} {g : GImage}

theorem exec_gadv (h : OnContext s a c) {v : Nat} {gr : Gram} (hv : (used s a).advance (s.getU a) c (s.getU b) = .ok (v, gr)) :
    exec (.gadv d a b) s = .next (((s.setGram gr).writePool c).gresult (.gadv d a b) d v) := by
  show execGadv d a b s = _
  unfold execGadv
  refine congrArg Host.Outcome.next ?_
  rw [h.runs rfl rfl, show (if (GForm.toX d).uses = true then s.setGram (s.cpu.back.gram.use (s.getU a)) else s) = used s a from rfl,
    show (used s a).getU b = s.getU b from rfl, hv]
  rfl

/-- GADV leaves every context. -/
theorem gadv_stays (h : OnContext s a c) {v : Nat} {x : W64} (hx : BitVec.ofNat 64 v = x) (hv : (used s a).advance (s.getU a) c (s.getU b) = .ok (v, (used s a).cpu.back.gram)) :
    ∃ t, exec (.gadv d a b) s = .next t ∧ RetiresGrammar s t c ∧ WritesX s t d x ∧ ∀ k, ctxOf t k = ctxOf s k := by
  subst hx
  obtain ⟨hret, hw, -, hctx⟩ := written_gresult s (used s a).cpu.back.gram d (c := c) (c' := c) rfl rfl (i := .gadv d a b) rfl rfl v
  exact ⟨_, exec_gadv h hv, hret, hw, hctx⟩

/-- GADV moves its context to the configuration of `r`. -/
theorem gadv_moves (h : OnContext s a c) {v : Nat} {x : W64} (hx : BitVec.ofNat 64 v = x) {w : GWalk} (hv : (used s a).advance (s.getU a) c (s.getU b) =
      .ok (v, ((used s a).cpu.back.gram.restack (s.getU a) c w).1.setCtx (s.getU a)
        { c with conf := ((used s a).cpu.back.gram.restack (s.getU a) c w).2 })) :
    ∃ t e, exec (.gadv d a b) s = .next t ∧ RetiresGrammar s t c ∧ WritesX s t d x
      ∧ OtherContexts s t (s.getU a) ∧ ctxOf t (s.getU a) = some { c with conf := e } ∧ confOf e = (w.st, w.stack) := by
  subst hx
  obtain ⟨hret, hw, -, hctx⟩ := written_gresult s (((used s a).cpu.back.gram.restack (s.getU a) c w).1.setCtx (s.getU a)
    { c with conf := ((used s a).cpu.back.gram.restack (s.getU a) c w).2 }) d (c := c) (c' := c) rfl rfl (i := .gadv d a b) rfl rfl v
  refine ⟨_, ((used s a).cpu.back.gram.restack (s.getU a) c w).2, exec_gadv h hv, hret, hw, fun k hk => ?_, ?_, rfl⟩
  · rw [hctx]
    exact (mfind_setCtx s.cpu.back.gram.ctxs (s.getU a) k _).trans (if_neg hk)
  · rw [hctx]
    refine (mfind_setCtx s.cpu.back.gram.ctxs (s.getU a) (s.getU a) _).trans ?_
    rw [if_pos rfl, h.2.1]
    rfl

variable (hg : s.imageAt c.image.toNat = .ok g)
include hg

/-- The end of text. -/
theorem advance_eos (h : Nat) {ok : Bool} (he : g.eos ≠ none32) (hok : s.gcomplete g c.conf.st c.conf.stack = .ok ok) :
    (used s a).advance h c g.eos = .ok (if ok then 2 else 0, (used s a).cpu.back.gram) := by
  unfold State.advance used
  rw [imageAt_setGram, hg]
  dsimp only
  rw [if_pos (by simpa using he), gcomplete_setGram, hok]

theorem advance_refused (h : Nat) {t : Nat} (he : ¬(t = g.eos ∧ g.eos ≠ none32)) (hno : g.ntok ≤ t ∨ s.allow g c.conf t = .ok none) :
    (used s a).advance h c t = .ok (0, (used s a).cpu.back.gram) := by
  unfold State.advance used
  rw [imageAt_setGram, hg]
  dsimp only
  rw [if_neg (by simpa using he)]
  split
  · rfl
  next hlt =>
    rw [allow_setGram, hno.resolve_left hlt]

theorem advance_admitted (h : Nat) {t : Nat} {w : GWalk} {ok : Bool} (he : ¬(t = g.eos ∧ g.eos ≠ none32)) (ht : t < g.ntok)
    (hw : s.allow g c.conf t = .ok (some w)) (hok : s.gcomplete g w.st w.stack = .ok ok) :
    (used s a).advance h c t = if s.poolSize c.size < (movedGram s h c w).poolUsed c.pool then .ok (3, (used s a).cpu.back.gram)
      else .ok (if ok then 2 else 1, ((used s a).cpu.back.gram.restack h c w).1.setCtx h
        { c with conf := ((used s a).cpu.back.gram.restack h c w).2 }) := by
  unfold State.advance used
  rw [imageAt_setGram, hg]
  dsimp only
  rw [if_neg (by simpa using he), if_neg (Nat.not_le.2 ht), allow_setGram, hw]
  dsimp only
  rw [gcomplete_setGram, hok]
  rfl

end Advance

/-! GMASK and GMASK.M (R330). -/

section Masks

/-- A linear position within rows of `vl` columns. -/
theorem linear_split {vl q col : Nat} (hcol : col < vl) : (q * vl + col) / vl = q ∧ (q * vl + col) % vl = col := by
  have hpos : 0 < vl := by omega
  constructor
  · rw [Nat.mul_comm, Nat.mul_add_div hpos, Nat.div_eq_of_lt hcol, Nat.add_zero]
  · rw [Nat.mul_comm, Nat.mul_add_mod, Nat.mod_eq_of_lt hcol]

/-- Linear positions of a mask group are apart where their planes, rows or columns are. -/
theorem linear_eq {vl t q col : Nat} (hrow : t / vl / 16 = q / 16) (hin : t / vl % 16 = q % 16) (hc : t % vl = col) :
    t = q * vl + col := by
  have hq : t / vl = q := by omega
  have := Nat.div_add_mod t vl
  rw [hq, hc] at this
  rw [← this, Nat.mul_comm]

variable {vl n md : Nat} (val : Nat → Bool) (m : SMap (BitVec 16))

/-- Bits written in linear order from plane `md` on. -/
def maskRun (vl n md : Nat) (val : Nat → Bool) (m : SMap (BitVec 16)) : SMap (BitVec 16) :=
  upto (16 * n * vl) (fun t m => setMaskBit m (md + t / vl / 16) (t / vl % 16) (t % vl) (val t)) m

theorem maskBit_maskRun (hvl : vl ≤ 65536) {q col : Nat} (hq : q < 16 * n) (hcol : col < vl) :
    maskBit (maskRun vl n md val m) (md + q / 16) (q % 16) col = val (q * vl + col) := by
  have hpos : 0 < vl := by omega
  obtain ⟨hdiv, hmod⟩ := linear_split (q := q) hcol
  have hlt : q * vl + col < 16 * n * vl := by
    calc q * vl + col < q * vl + vl := by omega
      _ = (q + 1) * vl := (Nat.succ_mul q vl).symm
      _ ≤ 16 * n * vl := Nat.mul_le_mul_right vl hq
  refine upto_at (fun m => maskBit m (md + q / 16) (q % 16) col) (fun _ => val (q * vl + col)) hlt (fun x => ?_) fun t ht hne x => ?_
  · rw [hdiv, hmod, maskBit_setMaskBit _ _ _ _ (by omega) (by omega) (by omega), if_pos ⟨rfl, rfl, rfl⟩]
  · have htc := Nat.mod_lt t hpos
    rw [maskBit_setMaskBit _ _ _ _ (by omega) (by omega) (by omega), if_neg]
    rintro ⟨hk, hr, hc⟩
    exact hne (linear_eq (by omega) hr.symm hc.symm)

theorem maskBit_maskRun_outside (hvl : vl ≤ 65536) (hpos : 0 < vl) {k r col : Nat} (hcol : col < 65536)
    (hout : k < md ∨ md + n ≤ k ∨ vl ≤ col) : maskBit (maskRun vl n md val m) k r col = maskBit m k r col := by
  refine upto_frame (fun m => maskBit m k r col) fun t ht x => ?_
  have htc := Nat.mod_lt t hpos
  have hrow : t / vl < 16 * n := Nat.div_lt_of_lt_mul (by rw [Nat.mul_comm vl]; exact ht)
  generalize t / vl = x at hrow
  rw [maskBit_setMaskBit _ _ _ _ (by omega) (by omega) hcol, if_neg (by omega)]

end Masks

section TokenBits

variable {s : State} {i : Instr} {a : Reg} {c : GCtx} {g : GImage} {l : List Bool} {md : Nat} {ms : Option Nat}

/-- The bit that GMASK writes at a linear position, and GMASK.M from the masks at `ms` on. -/
def tokenBit (s : State) (l : List Bool) (ms : Option Nat) (t : Nat) : Bool :=
  l.getD t false && ms.elim true fun k =>
    maskBit s.cpu.back.m (k + t / s.cpu.front.vl / 16) (t / s.cpu.front.vl % 16) (t % s.cpu.front.vl)

/-- The masks fit, and the source masks are those of the destination or apart from them. -/
def MasksFit (n md : Nat) (ms : Option Nat) : Prop :=
  md + n ≤ 16 ∧ ∀ k, ms = some k → k + n ≤ 16 ∧ (k = md ∨ k + n ≤ md ∨ md + n ≤ k)

theorem gmaskShape_none (hg : s.imageAt c.image.toNat = .ok g)
    (hfit : MasksFit (gmaskCount g s.cpu.front.vl) md ms) : s.gmaskShape i md ms c = none := by
  obtain ⟨hmd, hms⟩ := hfit
  unfold State.gmaskShape
  rw [hg]
  dsimp only
  refine if_neg ?_
  cases ms with
  | none => simp; omega
  | some k =>
    obtain ⟨hk, hapart⟩ := hms k rfl
    simp
    omega

/-- What GMASK leaves in the engine's hart before it retires. -/
def masked (s : State) (a : Reg) (l : List Bool) (n md : Nat) (ms : Option Nat) (p : GPend) : State :=
  (used s a).setBack { (used s a).cpu.back with
    m := maskRun s.cpu.front.vl n md (tokenBit s l ms) s.cpu.back.m, gram := (used s a).cpu.back.gram.due p }

theorem gmask_spec (h : OnContext s a c) (hg : s.imageAt c.image.toNat = .ok g) (hvl : 0 < s.cpu.front.vl)
    (hl : s.maskBits g c.conf = .ok l) (hfit : MasksFit (gmaskCount g s.cpu.front.vl) md ms) :
    s.gmask i md a ms = (masked s a l (gmaskCount g s.cpu.front.vl) md ms ((used s a).gmaskDest md c)).finish i s.cpu.front := by
  have hto : (used s a).gmaskTo i md ms c
      = (masked s a l (gmaskCount g s.cpu.front.vl) md ms ((used s a).gmaskDest md c)).finish i s.cpu.front := by
    unfold State.gmaskTo
    rw [show (used s a).imageAt c.image.toNat = .ok g by unfold used; rw [imageAt_setGram, hg]]
    dsimp only
    rw [if_neg (show ¬(used s a).cpu.front.vl = 0 from Nat.ne_of_gt hvl),
      show (used s a).maskBits g c.conf = .ok l by unfold used; rw [maskBits_setGram, hl]]
    cases ms <;> rfl
  unfold State.gmask
  rw [h.runs rfl (gmaskShape_none hg hfit)]
  exact hto

theorem acted_masked (n : Nat) (p : GPend) : Acted s (masked s a l n md ms p) c :=
  ⟨rfl, SameOthers.of_eq rfl, SamePkg.of_eq rfl, rfl, fun _ _ => rfl⟩

/-- GMASK and GMASK.M write the token bits of a context. -/
theorem gmask_writes (h : OnContext s a c) (hg : s.imageAt c.image.toNat = .ok g) (hvl : 0 < s.cpu.front.vl) (hmax : s.cpu.front.vl ≤ 65536)
    {n : Nat} (hcount : gmaskCount g s.cpu.front.vl = n) (hl : s.maskBits g c.conf = .ok l) (hfit : MasksFit n md ms)
    (hkeep : keepsVstart i = true) (hlen : i.len = 8) :
    let t := s.gmask i md a ms
    KeepsX s t ∧ RetiresGrammar s t c ∧ SameMem s t ∧ (∀ k, ctxOf t k = ctxOf s k)
      ∧ (∀ q col, q < 16 * n → col < s.cpu.front.vl → maskBit t.cpu.back.m (md + q / 16) (q % 16) col =
          tokenBit s l ms (q * s.cpu.front.vl + col))
      ∧ ∀ k r col, col < 65536 → (k < md ∨ md + n ≤ k ∨ s.cpu.front.vl ≤ col) → maskBit t.cpu.back.m k r col = maskBit s.cpu.back.m k r col := by
  subst hcount
  intro t
  obtain ⟨hret, hx, hback⟩ := acted_finish (acted_masked (s := s) (a := a) (c := c) (l := l) (md := md) (ms := ms)
    (gmaskCount g s.cpu.front.vl) ((used s a).gmaskDest md c)) hkeep hlen (f := s.cpu.front) rfl
  have ht : t = (masked s a l (gmaskCount g s.cpu.front.vl) md ms ((used s a).gmaskDest md c)).finish i s.cpu.front :=
    gmask_spec h hg hvl hl hfit
  rw [← ht] at hret hx hback
  have hm : t.cpu.back.m = maskRun s.cpu.front.vl (gmaskCount g s.cpu.front.vl) md (tokenBit s l ms) s.cpu.back.m := by
    rw [hback]
    rfl
  refine ⟨hx, hret, fun x => by rw [ht]; rfl, fun k => ?_, fun q col hq hcol => ?_, fun k r col hcol hout => ?_⟩
  · unfold ctxOf
    rw [hback]
    rfl
  · rw [hm]
    exact maskBit_maskRun _ _ hmax hq hcol
  · rw [hm]
    exact maskBit_maskRun_outside _ _ hmax hvl hcol hout

theorem gmaskForm_cases {md : Fin 16} {ms : Option (Fin 16)} (h : gmaskForm i = some (md, a, ms)) :
    exec i s = .next (s.gmask i md.val a (ms.map (·.val))) ∧ keepsVstart i = true ∧ i.len = 8 := by
  cases i
  case gmask md' a' =>
    obtain ⟨rfl, rfl, rfl⟩ : md' = md ∧ a' = a ∧ none = ms := by simpa [gmaskForm] using h
    exact ⟨rfl, rfl, rfl⟩
  case gmaskM md' a' ms' =>
    obtain ⟨rfl, rfl, rfl⟩ : md' = md ∧ a' = a ∧ some ms' = ms := by simpa [gmaskForm] using h
    exact ⟨rfl, rfl, rfl⟩
  all_goals exact nomatch h

end TokenBits

theorem tokenBit_linear (s : State) (l : List Bool) (ms : Option Nat) {q col : Nat} (hcol : col < s.cpu.front.vl) :
    tokenBit s l ms (q * s.cpu.front.vl + col) =
      (l.getD (q * s.cpu.front.vl + col) false && ms.elim true fun k => maskBit s.cpu.back.m (k + q / 16) (q % 16) col) := by
  obtain ⟨hdiv, hmod⟩ := linear_split (q := q) hcol
  unfold tokenBit
  rw [hdiv, hmod]

/-- Settles O44: GOPEN and GADV change one context, GMASK the bits of its masks. -/
theorem grammarMoves : Obligations.GrammarMoves := by
  unfold Obligations.GrammarMoves
  refine ⟨⟨fun d a b c s g hin hg => ?_, fun d a b s c g h hg => ⟨fun he hne ok hok => ?_, fun he hno => ?_,
    fun w ok he ht hw hok => ⟨fun hfull => ?_, fun hroom => ?_⟩⟩⟩, fun i md a ms s c g l hi h hg hvl hmax hn hl => ?_⟩
  · intro ctx
    cases hf : s.cpu.back.gram.freeHandle with
    | none =>
      obtain ⟨hret, hm, hw, hctx⟩ := gopen_refused (s := s) (a := a) (b := b) (c := c) (d := d) ctx
      exact ⟨_, exec_gopen_none hin hg hf, hret, hm, hw, hctx⟩
    | some h =>
      by_cases hroom : s.poolSize ctx.size < s.cpu.back.gram.poolUsed ctx.pool + 256
      · obtain ⟨hret, hm, hw, hctx⟩ := gopen_refused (s := s) (a := a) (b := b) (c := c) (d := d) ctx
        refine ⟨_, (exec_gopen hin hg hf).trans (congrArg Host.Outcome.next (if_pos hroom)), hret, hm, ?_⟩
        dsimp only
        rw [if_pos hroom]
        exact ⟨hw, hctx⟩
      · obtain ⟨hret, hm, hw, hctx, hoth⟩ := gopen_takes (s := s) (a := a) (b := b) (c := c) (d := d) ctx h
        refine ⟨_, (exec_gopen hin hg hf).trans (congrArg Host.Outcome.next (if_neg hroom)), hret, hm, ?_⟩
        dsimp only
        rw [if_neg hroom]
        exact ⟨hw, hctx, hoth⟩
  · exact gadv_stays h (v := if ok then 2 else 0) (by cases ok <;> rfl) (by rw [he]; exact advance_eos hg _ hne hok)
  · exact gadv_stays h rfl (advance_refused hg _ he hno)
  · exact gadv_stays h rfl ((advance_admitted hg _ he ht hw hok).trans (if_pos hfull))
  · exact gadv_moves h (v := if ok then 2 else 1) (by cases ok <;> rfl) ((advance_admitted hg _ he ht hw hok).trans (if_neg (Nat.not_lt.2 hroom)))
  · intro vl n hmd hms
    obtain ⟨hexec, hkeep, hlen⟩ := gmaskForm_cases (s := s) hi
    have hfit : MasksFit n md.val (ms.map (·.val)) := by
      refine ⟨hmd, fun k hk => ?_⟩
      obtain ⟨k', hk', rfl⟩ := Option.map_eq_some_iff.1 hk
      obtain ⟨h1, h2⟩ := hms k' hk'
      exact ⟨h1, h2.imp_left (congrArg Fin.val)⟩
    obtain ⟨hx, hret, hmem, hctx, hbits, hout⟩ := gmask_writes (i := i) h hg hvl hmax (n := n) rfl hl hfit hkeep hlen
    refine ⟨_, hexec, hx, hret, hmem, hctx, fun q col hq hcol => ?_, fun k r col _ hcol ho => hout k r col hcol ho⟩
    rw [hbits q col hq hcol, tokenBit_linear s l _ hcol]
    cases ms <;> rfl

end Sys2Proof.Claims
end

section
/-! PROOF. The copies fork (R259, R260, R264–R268). -/

namespace Sys2Proof.Claims

open Sys2Proof Sys2Proof.Machine

/-! The fork (R260). -/

section Fork

variable {s u : State}

/-- At most the queues, the strip and what the L2s hold have changed: what an operation has read before it forks. -/
structure BeforeFork (s u : State) : Prop where
  cpu : u.cpu = { s.cpu with back := { s.cpu.back with queues := u.cpu.back.queues, strip := u.cpu.back.strip } }
  others : u.others = s.others
  pkg : SamePkg s u
  agenda : u.agenda = s.agenda
  mem : SameMem s u

theorem BeforeFork.refl (s : State) : BeforeFork s s := ⟨rfl, rfl, SamePkg.of_eq rfl, rfl, fun _ => rfl⟩

theorem BeforeFork.chan (h : BeforeFork s u) (c : Nat) : u.chan c = s.chan c := by
  unfold State.chan
  rw [h.cpu]

theorem forkCopy_eq (s : State) (i : Instr) (d : Reg) (c grant : Nat) (o : CopyOp) (hc : c < 8) (hlen : i.len = 4) :
    ∃ v, s.forkCopy i d c grant o = (s.setBack { s.cpu.back with chans := v }).compute 4 d (BitVec.ofNat 64 grant)
      ∧ ∀ k, k < 8 → vget Chan.idle v k = if k = c then granted (chanOf s c) grant o else chanOf s k := by
  unfold State.forkCopy
  rw [hlen]
  dsimp only
  by_cases hg : grant = 0
  · refine ⟨s.cpu.back.chans, by rw [if_pos hg]; rfl, fun k _ => ?_⟩
    unfold granted
    rw [if_pos hg]
    split
    next h => rw [h]; rfl
    next => rfl
  · refine ⟨_, by rw [if_neg hg]; rfl, fun k _ => ?_⟩
    rw [vget_vput]
    unfold granted
    rw [if_neg hg]
    by_cases hk : k = c
    · rw [if_pos ⟨hk, hc⟩, if_pos hk]
      rfl
    · rw [if_neg (fun h => hk h.1), if_neg hk]
      rfl

/-- The operation joins its channel and x[d] receives the grant. -/
theorem forks_forkCopy (h : BeforeFork s u) {i : Instr} (hlen : i.len = 4) (d : Reg) {c : Nat} (hc : c < 8) (grant : Nat) (o : CopyOp) :
    Forks s (u.forkCopy i d c grant o) d grant c (granted (chanOf s c) grant o)
      ∧ (u.forkCopy i d c grant o).cpu.back.queues = u.cpu.back.queues ∧ (u.forkCopy i d c grant o).pkg = u.pkg
      ∧ (u.forkCopy i d c grant o).cpu.back.strip = u.cpu.back.strip := by
  obtain ⟨v, hv, hchans⟩ := forkCopy_eq u i d c grant o hc hlen
  have hchan : ∀ k, chanOf u k = chanOf s k := h.chan
  rw [hv]
  obtain ⟨w, hw⟩ : ∃ w, w = u.setBack { u.cpu.back with chans := v } := ⟨_, rfl⟩
  obtain ⟨t, ht⟩ : ∃ t, t = w.compute 4 d (BitVec.ofNat 64 grant) := ⟨_, rfl⟩
  obtain ⟨⟨hx, hother⟩, hfront, hhart, hothers, hpkg, hagenda, hmem⟩ := compute_spec w 4 d (BitVec.ofNat 64 grant)
  rw [← ht] at hx hother hfront hhart hothers hpkg hagenda hmem
  have hwcpu : w.cpu = { s.cpu with back := { s.cpu.back with chans := v, queues := u.cpu.back.queues, strip := u.cpu.back.strip } } := by
    rw [hw]
    show { u.cpu with back := { u.cpu.back with chans := v } } = _
    rw [h.cpu]
  have hwfront : w.cpu.front = s.cpu.front := by rw [hwcpu]
  have hget (r : Reg) : w.getX r = s.getX r := by
    unfold State.getX
    rw [hwfront]
  have hback : t.cpu.back = w.cpu.back := by rw [hhart]
  rw [← hw, ← ht]
  refine ⟨⟨⟨hx, fun r hr => (hother r hr).trans (hget r)⟩, ⟨?_, ?_, .inl ?_⟩, ?_, ?_, ?_, fun a => ?_, ?_, fun k hk => ?_⟩, ?_, ?_, ?_⟩
  · rw [hwfront] at hfront
    exact hfront
  · rw [hhart, hwcpu]
  · rw [hhart, hwcpu]
  · rw [hothers, hw]
    exact h.others
  · refine h.pkg.congr ?_
    rw [hpkg, hw]
    rfl
  · rw [hagenda, hw]
    exact h.agenda
  · rw [hmem a, hw]
    exact h.mem a
  · rw [hback, hwcpu]
  · unfold chanOf
    rw [hback, hwcpu]
    dsimp only
    rw [hchans k hk, hchan, hchan]
    rfl
  · rw [hback, hwcpu]
  · rw [hpkg, hw]
    rfl
  · rw [hback, hwcpu]

end Fork

/-! Descriptors (R264). -/

section Descriptor

variable {s : State} {a b : Reg} {w : List Nat} {form h : Nat}

/-- The descriptor has been read. -/
def fetched (s : State) (pas : List Nat) : State :=
  (s.readLines s.cpu.id.die (pas.map s.key)).setBack { s.cpu.back with strip := settleWrites s.cpu.back.strip (pas.map s.key) }

theorem beforeFork_fetched (s : State) (pas : List Nat) : BeforeFork s (fetched s pas) := ⟨rfl, rfl, rfl, rfl, fun _ => rfl⟩

theorem descriptorAt_reads (hw : descriptorAt s a = some w) : s.getU a % 8 = 0 ∧ ∃ pas l, s.loadRead (s.getU a) 64 = .ok (fetched s pas, l)
    ∧ w = (List.range 8).map (fun k => leNat ((l.drop (8 * k)).take 8)) := by
  unfold descriptorAt State.loadBytes at hw
  split at hw
  next => exact nomatch hw
  next hal =>
    unfold State.loadRead
    cases hp : s.accessBytes s.cpu.ctx .load false (vaRange (s.getU a) 64) with
    | error f =>
      rw [hp] at hw
      exact nomatch hw
    | ok pas =>
      rw [hp] at hw
      exact ⟨Decidable.not_not.1 hal, pas, _, rfl, (Option.some.inj hw).symm⟩

/-- The operation of a descriptor whose grant and channel are still open. -/
def openOp (s : State) (form h : Nat) (w : List Nat) (b : Reg) : CopyOp := { boxOp s form h w b [] with fillv := 0, foot := 0 }

theorem copyDescriptor_of_boxOk (hok : BoxOk form w h) :
    copyDescriptor form w (s.getU b / 2 ^ 32) s.cpu.front.instret.toNat = some (openOp s form h w b) := by
  obtain ⟨hw0, hw1, hh, hh0, hh1, h3, hp, h5, h6, h7⟩ := hok
  unfold copyDescriptor
  dsimp only
  rw [if_neg]
  · unfold openOp boxOp
    rw [hh]
    simp only [sgn_eq_toInt]
    rfl
  · dsimp only at hw0 hw1 hh hp
    subst hh
    simp only [Bool.or_eq_true, decide_eq_true_eq, bne_iff_ne, ne_eq, Bool.and_eq_true, not_or, not_and, Decidable.not_not, not_lt]
    exact ⟨⟨⟨⟨⟨⟨⟨⟨Nat.ne_of_gt hw0, hw1⟩, Nat.ne_of_gt hh0⟩, hh1⟩, h3⟩, hp⟩, Nat.div_eq_of_lt h5⟩, h6⟩, h7⟩

theorem boxOk_of_copyDescriptor {sb q : Nat} {o : CopyOp} (ho : copyDescriptor form w sb q = some o) : BoxOk form w (w.getD 2 0 / 2 ^ 32) := by
  unfold copyDescriptor at ho
  dsimp only at ho
  split at ho
  next => exact nomatch ho
  next hc =>
    simp only [Bool.or_eq_true, decide_eq_true_eq, bne_iff_ne, ne_eq, Bool.and_eq_true, not_or, not_and, Decidable.not_not, not_lt] at hc
    obtain ⟨⟨⟨⟨⟨⟨⟨⟨h1, h2⟩, h3⟩, h4⟩, h5⟩, h6⟩, h7⟩, h8⟩, h9⟩ := hc
    exact ⟨Nat.pos_of_ne_zero h1, h2, rfl, Nat.pos_of_ne_zero h3, h4, h5, h6, by omega, h8, h9⟩

end Descriptor

/-! The box copies (R259, R260, R264–R266). -/

section Box

variable {s u : State} {i : Instr} {d a b : Reg} {w : List Nat} {form h c : Nat}

/-- The last scratchpad byte that `rows` rows of an operation reach. -/
def lastByte (o : CopyOp) (rows : Nat) : Nat := o.sbase + (rows - 1) * o.spitch + o.w * o.esz - 1

/-- The operation of a descriptor, for `rows` rows, to be granted by a channel of `v`. -/
def aimed (v : State) (c : Nat) (o : CopyOp) (rows : Nat) : CopyOp :=
  { o with fillv := (v.chan c).cfill.toNat, foot := lastByte o rows + 1 - o.sbase }

/-- What becomes of a box copy that has read the operation `o` in state `u`: its footprint leaves the scratchpad, or it forks. -/
structure BoxGoes (s u t : State) (i : Instr) (form : Nat) (d : Reg) (c rows : Nat) (o : CopyOp) : Prop where
  outside : rows ≠ 0 → s.spadSize ≤ lastByte o rows →
    t = u.raise i (copyTrap i (if form = 1 then .loadFault else .storeFault) (max o.sbase s.spadSize) 2)
  indexed : (rows ≠ 0 → lastByte o rows < s.spadSize) → s.inDup = false → form = 3 → t = u.forkIndexed i d c (aimed u c o rows)
  full : (rows ≠ 0 → lastByte o rows < s.spadSize) → s.inDup = false → form ≠ 3 → ((u.chan c).error = true ∨ (u.chan c).nops = 15) →
    t = u.forkCopy i d c 0 (aimed u c o rows)
  forks : (rows ≠ 0 → lastByte o rows < s.spadSize) → s.inDup = false → form ≠ 3 → (u.chan c).error = false → (u.chan c).nops ≠ 15 →
    (form = 1 → ∀ l, u.deadPlace l = none) →
    t = u.forkCopy i d c (boxGrant o.units (o.w * o.esz) (u.chan c).out * o.w)
      { aimed u c o rows with units := boxGrant o.units (o.w * o.esz) (u.chan c).out * o.w }

/-- A box copy whose operands stand where they must reads its descriptor. -/
theorem copyBox_reads (i : Instr) (d : Reg) (hin : s.cpu.inflight = []) (htag : form = 3 → tagIsInt (s.cpu.front.queueTag 5) = true)
    (hb : s.getU b / 8 % 2 ^ 29 = 0) (hw : descriptorAt s a = some w) : ∃ u, BeforeFork s u ∧ u.cpu.back.queues = s.cpu.back.queues ∧
      (copyDescriptor form w (s.getU b / 2 ^ 32) s.cpu.front.instret.toNat = none →
        s.copyBox i form d a b = u.raise i (copyTrap i .loadFault (s.getU a) 4))
      ∧ ∀ o, copyDescriptor form w (s.getU b / 2 ^ 32) s.cpu.front.instret.toNat = some o →
        BoxGoes s u (s.copyBox i form d a b) i form d (s.getU b % 8) (if form = 3 then s.cpu.front.vl else o.units) o := by
  obtain ⟨hal, pas, l, hload, rfl⟩ := descriptorAt_reads hw
  have hopen : s.copyBox i form d a b = s.copyBox i form d a b := rfl
  conv at hopen =>
    rhs
    unfold State.copyBox
    rw [State.whenOldest_nil _ _ _ hin]
    dsimp only
    rw [if_neg (show ¬(form = 3 && !tagIsInt (s.cpu.front.queueTag 5)) = true by simpa using htag),
      if_neg (show ¬(bitsOf (s.getU b) 31 3 != 0) = true by simpa [bitsOf] using hb), if_neg (show ¬(s.getU a % 8 != 0) = true by simp [hal]),
      hload]
    dsimp only
  refine ⟨fetched s pas, beforeFork_fetched s pas, rfl, fun hnone => ?_, fun o ho => ?_⟩
  · rw [hopen, hnone]
  · rw [ho] at hopen
    dsimp only at hopen
    generalize (if form = 3 then s.cpu.front.vl else o.units) = rows at hopen ⊢
    have hinside : (rows ≠ 0 → lastByte o rows < s.spadSize) → s.inDup = false → s.copyBox i form d a b = _ := fun hfit hdup =>
      hopen.trans ((if_neg (by
        simp only [Bool.and_eq_true, bne_iff_ne, decide_eq_true_eq, not_and, not_le]
        exact hfit)).trans (if_neg (by
          rw [show (fetched s pas).inDup = s.inDup from rfl, hdup]
          exact Bool.false_ne_true)))
    exact {
      outside := fun hr hl => hopen.trans (if_pos (by
        simp only [Bool.and_eq_true, bne_iff_ne, decide_eq_true_eq]
        exact ⟨hr, hl⟩))
      indexed := fun hfit hdup hf => (hinside hfit hdup).trans (if_pos hf)
      full := fun hfit hdup hf hc => (hinside hfit hdup).trans ((if_neg hf).trans (if_pos (by simpa using hc)))
      forks := fun hfit hdup hf he hn hdead => (hinside hfit hdup).trans ((if_neg hf).trans ((if_neg (by simp [he, hn])).trans (by
        have hnone : ∀ l, (if form = 1 then (fetched s pas).deadPlace l else none) = none := by
          intro l
          split
          next h1 => exact hdead h1 l
          next => rfl
        rw [hnone]
        rfl))) }

theorem out_eq_outOf (ch : Chan) : ch.out = outOf ch := rfl

/-- The footprint of a sound descriptor's rows. -/
theorem boxFits_iff (rows : Nat) : BoxFits s w b rows ↔ lastByte (openOp s form h w b) rows < s.spadSize := Iff.rfl

/-- A sound operation aimed at its channel is the one that is granted, up to its elements and its index row. -/
theorem aimed_openOp (hu : BeforeFork s u) (hok : BoxOk form w h) (n : Nat) (idx : List Int) :
    { aimed u (s.getU b % 8) (openOp s form h w b) (if form = 3 then s.cpu.front.vl else h) with units := n, idx := idx }
      = boxOp s form n w b idx := by
  obtain ⟨hw0, -, hh, -⟩ := hok
  have hfoot : lastByte (openOp s form h w b) (if form = 3 then s.cpu.front.vl else h) + 1 - s.getU b / 2 ^ 32
      = ((if form = 3 then s.cpu.front.vl else w.getD 2 0 / 2 ^ 32) - 1) * (w.getD 1 0 / 2 ^ 32)
        + w.getD 2 0 % 2 ^ 32 * 2 ^ (w.getD 5 0 % 4) := by
    subst hh
    have hpos : 0 < w.getD 2 0 % 2 ^ 32 * 2 ^ (w.getD 5 0 % 4) := Nat.mul_pos hw0 (Nat.pow_pos (by decide))
    unfold lastByte openOp boxOp
    dsimp only
    generalize ((if form = 3 then s.cpu.front.vl else w.getD 2 0 / 2 ^ 32) - 1) * (w.getD 1 0 / 2 ^ 32) = x
    generalize w.getD 2 0 % 2 ^ 32 * 2 ^ (w.getD 5 0 % 4) = y at hpos
    omega
  have hchan : u.chan (s.getU b % 8) = chanOf s (s.getU b % 8) := hu.chan _
  unfold aimed
  rw [hchan, show (openOp s form h w b).sbase = s.getU b / 2 ^ 32 from rfl, hfoot]
  rfl

/-- No channel is stopped. -/
theorem deadPlace_none (h : ∀ k, k < 8 → (chanOf u k).error = false) (l : List Nat) : u.deadPlace l = none := by
  unfold State.deadPlace
  rw [List.find?_eq_none]
  intro ch hch
  obtain ⟨k, hk, rfl⟩ := List.getElem_of_mem hch
  have hk8 : k < 8 := by simpa using hk
  have herr := h k hk8
  unfold chanOf vget at herr
  rw [dif_pos hk8] at herr
  simp [herr]

theorem copyBox_forks (hin : s.cpu.inflight = []) (hdup : s.inDup = false) (hw : descriptorAt s a = some w) (hok : BoxOk form w h)
    (hb : s.getU b / 8 % 2 ^ 29 = 0) (hfits : BoxFits s w b h) (h3 : form ≠ 3) (hlen : i.len = 4)
    (hdead : form = 1 → ∀ k, k < 8 → k ≠ s.getU b % 8 → (chanOf s k).error = false) :
    let c := s.getU b % 8
    let ch := chanOf s c
    let n := w.getD 2 0 % 2 ^ 32
    let g := min h ((262144 - outOf ch) / (n * 2 ^ (w.getD 5 0 % 4)))
    let rows := if ch.error = true ∨ ch.nops = 15 then 0 else if outOf ch = 0 then max g 1 else g
    (s.copyBox i form d a b).cpu.back.queues = s.cpu.back.queues
      ∧ Forks s (s.copyBox i form d a b) d (rows * n) c (granted ch (rows * n) (boxOp s form (rows * n) w b [])) := by
  intro c ch n g rows
  obtain ⟨u, hu, hq, -, hgo⟩ := copyBox_reads (form := form) i d hin (fun h => absurd h h3) hb hw
  have hgoes := hgo _ (copyDescriptor_of_boxOk hok)
  have hch : u.chan c = ch := hu.chan c
  have hc : c < 8 := Nat.mod_lt _ (by decide)
  have hunits : (openOp s form h w b).units = h := rfl
  rw [hunits] at hgoes
  have hrows : (if form = 3 then s.cpu.front.vl else h) = h := if_neg h3
  rw [hrows] at hgoes
  by_cases hstop : ch.error = true ∨ ch.nops = 15
  · have hzero : rows = 0 := if_pos hstop
    rw [hgoes.full (fun _ => hfits) hdup h3 (by rw [← hch] at hstop; exact hstop), hzero, Nat.zero_mul]
    obtain ⟨hforks, hqueues, -⟩ := forks_forkCopy hu hlen d hc 0 (aimed u c (openOp s form h w b) h)
    exact ⟨hqueues.trans hq, hforks⟩
  · rw [not_or] at hstop
    obtain ⟨herr, hnops⟩ := hstop
    have herr' : ch.error = false := by simpa using herr
    have hgrant : boxGrant h ((openOp s form h w b).w * (openOp s form h w b).esz) (u.chan c).out = rows := by
      rw [hch]
      exact (if_neg (not_or.2 ⟨herr, hnops⟩)).symm
    have hop := aimed_openOp (b := b) hu hok (rows * n) []
    rw [hrows] at hop
    rw [hgoes.forks (fun _ => hfits) hdup h3 (by rw [hch]; exact herr') (by rw [hch]; exact hnops) fun h1 => deadPlace_none fun k hk => ?_]
    · rw [hunits, hgrant, show (openOp s form h w b).w = n from rfl, ← hop]
      obtain ⟨hforks, hqueues, -⟩ := forks_forkCopy hu hlen d hc (rows * n)
        { aimed u c (openOp s form h w b) h with units := rows * n, idx := [] }
      exact ⟨hqueues.trans hq, hforks⟩
    · rw [show chanOf u k = chanOf s k from hu.chan k]
      by_cases hk' : k = c
      · rw [hk']
        exact herr'
      · exact hdead h1 k hk hk'

/-! CPY.IX (R266). -/

theorem forkIndexed_full (hu : u.cpu.front = s.cpu.front) (i : Instr) (d : Reg) (o : CopyOp)
    (h : (u.chan c).error = true ∨ (u.chan c).nops = 15 ∨ s.cpu.front.vl = 0) : u.forkIndexed i d c o = u.forkCopy i d c 0 o := by
  unfold State.forkIndexed
  rw [hu]
  exact if_pos (by simpa [or_assoc] using h)

/-- The index row is at the head of sq1, and the window holds what it asks for. -/
theorem forkIndexed_takes (hu : u.cpu.front = s.cpu.front) (i : Instr) (d : Reg) (o : CopyOp) (herr : (u.chan c).error = false)
    (hn : (u.chan c).nops ≠ 15) (hvl : s.cpu.front.vl ≠ 0) {r : Row} {rs : List Row} (hr : (u.cpu.back.queue 5).rows = r :: rs)
    (hroom : (u.chan c).out = 0 ∨ s.cpu.front.vl * o.w * o.esz + (u.chan c).out ≤ 262144) :
    u.forkIndexed i d c o = (u.setBack (u.cpu.back.popRows 5 1)).forkCopy i d c (s.cpu.front.vl * o.w)
      { o with
        units := s.cpu.front.vl * o.w
        idx := (List.range s.cpu.front.vl).map (fun k => tint (s.cpu.front.queueTag 5) (r.elems.getD k 0)) } := by
  have hrun : u.runUntil c (fun ch => decide (ch.out = 0) || decide (s.cpu.front.vl * o.w * o.esz + ch.out ≤ 262144)) = u :=
    upto_eq_self fun _ => if_pos (by simpa using hroom)
  unfold State.forkIndexed
  rw [hu]
  dsimp only
  rw [if_neg (by simp [herr, hn, hvl]), hrun, if_neg (by simp [herr]), if_neg (by rcases hroom with h | h <;> simp [h]), hr]

theorem beforeFork_popRows (hu : BeforeFork s u) (q n : Nat) : BeforeFork s (u.setBack (u.cpu.back.popRows q n)) where
  cpu := by
    have hpop : (u.setBack (u.cpu.back.popRows q n)).cpu = { u.cpu with back := u.cpu.back.popRows q n } := rfl
    rw [hpop, hu.cpu]
    rfl
  others := hu.others
  pkg := hu.pkg
  agenda := hu.agenda
  mem := hu.mem

/-- What CPY.IX finds behind its descriptor. -/
theorem cpyIX_goes {d : Reg} (hin : s.cpu.inflight = []) (hdup : s.inDup = false) (htag : tagIsInt (s.cpu.front.queueTag 5) = true)
    (hw : descriptorAt s a = some w) (hok : BoxOk 3 w 1) (hb : s.getU b / 8 % 2 ^ 29 = 0)
    (hfits : s.cpu.front.vl ≠ 0 → BoxFits s w b s.cpu.front.vl) :
    ∃ u, BeforeFork s u ∧ u.cpu.back.queues = s.cpu.back.queues ∧ exec (.cpyIX d a b) s
      = .next (u.forkIndexed (.cpyIX d a b) d (s.getU b % 8) (aimed u (s.getU b % 8) (openOp s 3 1 w b) s.cpu.front.vl)) := by
  obtain ⟨u, hu, hq, -, hgo⟩ := copyBox_reads (form := 3) (.cpyIX d a b) d hin (fun _ => htag) hb hw
  exact ⟨u, hu, hq, congrArg Host.Outcome.next ((hgo _ (copyDescriptor_of_boxOk hok)).indexed hfits hdup rfl)⟩

theorem cpyIX_full (hu : BeforeFork s u) (hq : u.cpu.back.queues = s.cpu.back.queues) (d : Reg) (o : CopyOp) (hc : c < 8)
    (h : (chanOf s c).error = true ∨ (chanOf s c).nops = 15 ∨ s.cpu.front.vl = 0) :
    let t := u.forkIndexed (.cpyIX d a b) d c o
    Forks s t d 0 c (chanOf s c) ∧ t.cpu.back.queues = s.cpu.back.queues := by
  intro t
  have ht : t = u.forkCopy (.cpyIX d a b) d c 0 o := forkIndexed_full (s := s) (by rw [hu.cpu]) _ d o (by
    rw [show u.chan c = chanOf s c from hu.chan c]
    exact h)
  obtain ⟨hforks, hqueues, -⟩ := forks_forkCopy hu (i := .cpyIX d a b) rfl d hc 0 o
  rw [ht]
  exact ⟨hforks, hqueues.trans hq⟩

theorem cpyIX_takes (hu : BeforeFork s u) (hq : u.cpu.back.queues = s.cpu.back.queues) (d : Reg) (hok : BoxOk 3 w 1)
    {row : List Nat} {rest : List (List Nat)} (herr : (chanOf s (s.getU b % 8)).error = false) (hn : (chanOf s (s.getU b % 8)).nops ≠ 15)
    (hvl : s.cpu.front.vl ≠ 0) (hrow : rowsOf s 5 = row :: rest)
    (hroom : outOf (chanOf s (s.getU b % 8)) = 0
      ∨ s.cpu.front.vl * (w.getD 2 0 % 2 ^ 32) * 2 ^ (w.getD 5 0 % 4) + outOf (chanOf s (s.getU b % 8)) ≤ 262144) :
    let c := s.getU b % 8
    let n := w.getD 2 0 % 2 ^ 32
    let t := u.forkIndexed (.cpyIX d a b) d c (aimed u c (openOp s 3 1 w b) s.cpu.front.vl)
    rowsOf t 5 = rest ∧ (∀ k, k < 5 → t.cpu.back.queue k = s.cpu.back.queue k)
      ∧ Forks s t d (s.cpu.front.vl * n) c (granted (chanOf s c) (s.cpu.front.vl * n) (boxOp s 3 (s.cpu.front.vl * n) w b
          ((List.range s.cpu.front.vl).map (fun k => tint (s.cpu.front.queueTag 5) (row.getD k 0))))) := by
  intro c n t
  have hch : u.chan c = chanOf s c := hu.chan c
  have hsame : ∀ k, u.cpu.back.queue k = s.cpu.back.queue k := fun k => by
    unfold Back.queue
    rw [hq]
  obtain ⟨r, rs, hr, hre, hrest⟩ : ∃ r rs, (s.cpu.back.queue 5).rows = r :: rs ∧ r.elems = row ∧ rs.map (fun r => r.elems) = rest := by
    unfold rowsOf at hrow
    cases hrows : (s.cpu.back.queue 5).rows with
    | nil => simp [hrows] at hrow
    | cons r rs =>
      rw [hrows, List.map_cons, List.cons.injEq] at hrow
      exact ⟨r, rs, rfl, hrow⟩
  have ht := forkIndexed_takes (s := s) (by rw [hu.cpu]) (.cpyIX d a b) d (aimed u c (openOp s 3 1 w b) s.cpu.front.vl) (by rw [hch]; exact herr)
    (by rw [hch]; exact hn) hvl ((congrArg QState.rows (hsame 5)).trans hr) (by rw [hch]; exact hroom)
  obtain ⟨hforks, hqueues, -⟩ := forks_forkCopy (beforeFork_popRows hu 5 1) (i := .cpyIX d a b) rfl d (c := c) (Nat.mod_lt _ (by decide))
    (s.cpu.front.vl * n) { aimed u c (openOp s 3 1 w b) s.cpu.front.vl with
      units := s.cpu.front.vl * n
      idx := (List.range s.cpu.front.vl).map (fun k => tint (s.cpu.front.queueTag 5) (r.elems.getD k 0)) }
  have hqueue : ∀ k, t.cpu.back.queue k = (u.cpu.back.popRows 5 1).queue k := fun k => by
    unfold Back.queue
    rw [show t = _ from ht]
    exact congrArg (fun q => vget QState.empty q k) hqueues
  refine ⟨?_, fun k hk => ?_, ?_⟩
  · unfold rowsOf
    rw [hqueue, Back.popRows_queue, if_pos ⟨rfl, by decide⟩, hsame, ← hrest]
    unfold QState.take
    rw [hr]
    rfl
  · rw [hqueue, Back.popRows_queue, if_neg (by omega), hsame]
  · rw [show t = _ from ht, ← hre, ← aimed_openOp hu hok]
    exact hforks

/-! The faults (R259, R264). -/

/-- A trap behind the descriptor's read is the hart's. -/
theorem BeforeFork.traps (hu : BeforeFork s u) (hin : s.cpu.inflight = []) (hc : CanTrap s) (i : Instr) {x : Cause} (eval sub : Nat)
    (hx : x ≠ .dataError) :
    Traps s (u.raise i (trapOf i x eval sub)) (causeCode x) (BitVec.ofNat 64 eval) (estatOf sub 0 15 (sideOf i) false i.len) 0 := by
  have hfront : u.cpu.front = s.cpu.front := by rw [hu.cpu]
  obtain ⟨htr, hstatus, hinf, htrapped, hothers, hmem⟩ := traps_raise_trapOf (s := u) i eval sub (by rw [hu.cpu]; exact hin)
    (by unfold CanTrap; rw [hfront]; exact hc) hx
  rw [hfront] at htr
  exact ⟨htr, hstatus.trans (by rw [hu.cpu]), hinf, htrapped, hothers.trans hu.others, fun a => (hmem a).trans (hu.mem a)⟩

theorem copyBox_misplaced_b (i : Instr) (d : Reg) (hin : s.cpu.inflight = []) (htag : form = 3 → tagIsInt (s.cpu.front.queueTag 5) = true)
    (hb : s.getU b / 8 % 2 ^ 29 ≠ 0) : s.copyBox i form d a b = s.raise i (copyTrap i .loadFault (s.getU b) 4) := by
  unfold State.copyBox
  rw [State.whenOldest_nil _ _ _ hin]
  dsimp only
  rw [if_neg (show ¬(form = 3 && !tagIsInt (s.cpu.front.queueTag 5)) = true by simpa using htag)]
  exact if_pos (by simpa [bitsOf] using hb)

theorem copyBox_misplaced_a (i : Instr) (d : Reg) (hin : s.cpu.inflight = []) (htag : form = 3 → tagIsInt (s.cpu.front.queueTag 5) = true)
    (hb : s.getU b / 8 % 2 ^ 29 = 0) (ha : s.getU a % 8 ≠ 0) : s.copyBox i form d a b = s.raise i (copyTrap i .loadFault (s.getU a) 4) := by
  unfold State.copyBox
  rw [State.whenOldest_nil _ _ _ hin]
  dsimp only
  rw [if_neg (show ¬(form = 3 && !tagIsInt (s.cpu.front.queueTag 5)) = true by simpa using htag),
    if_neg (show ¬(bitsOf (s.getU b) 31 3 != 0) = true by simpa [bitsOf] using hb)]
  exact if_pos (by simpa using ha)

theorem copyBox_broken (i : Instr) (d : Reg) (hin : s.cpu.inflight = []) (htag : form = 3 → tagIsInt (s.cpu.front.queueTag 5) = true)
    (hb : s.getU b / 8 % 2 ^ 29 = 0) (hw : descriptorAt s a = some w) (hbad : ∀ h, ¬BoxOk form w h) :
    ∃ u, BeforeFork s u ∧ s.copyBox i form d a b = u.raise i (copyTrap i .loadFault (s.getU a) 4) := by
  obtain ⟨u, hu, -, hnone, -⟩ := copyBox_reads i d hin htag hb hw
  refine ⟨u, hu, hnone ?_⟩
  cases ho : copyDescriptor form w (s.getU b / 2 ^ 32) s.cpu.front.instret.toNat with
  | none => rfl
  | some o => exact absurd (boxOk_of_copyDescriptor ho) (hbad _)

theorem copyBox_outside (i : Instr) (d : Reg) (hin : s.cpu.inflight = []) (htag : form = 3 → tagIsInt (s.cpu.front.queueTag 5) = true)
    (hb : s.getU b / 8 % 2 ^ 29 = 0) (hw : descriptorAt s a = some w) (hok : BoxOk form w h) (hvl : form = 3 → s.cpu.front.vl ≠ 0)
    (hfits : ¬BoxFits s w b (if form = 3 then s.cpu.front.vl else h)) : ∃ u, BeforeFork s u ∧ s.copyBox i form d a b
      = u.raise i (copyTrap i (if form = 1 then .loadFault else .storeFault) (max (s.getU b / 2 ^ 32) s.spadSize) 2) := by
  obtain ⟨u, hu, -, -, hgo⟩ := copyBox_reads i d hin htag hb hw
  have hrows : (if form = 3 then s.cpu.front.vl else h) ≠ 0 := by
    split
    next h3 => exact hvl h3
    next => exact Nat.ne_of_gt hok.2.2.2.1
  exact ⟨u, hu, (hgo _ (copyDescriptor_of_boxOk hok)).outside hrows (Nat.not_lt.1 hfits)⟩

end Box

/-! CPY.X (R267, R268). -/

section Planes

variable {s : State} {h : Hart} {n g vdst vsrc xb : Nat}

theorem copyDest_some (h14 : xb / 2 ^ 14 = 0) (h11 : xb / 2 ^ 11 % 2 = 0) (h4 : xb / 4 % 4 = 0) (h3 : xb % 4 ≠ 3) (hh : s.hartAt xb = some h)
    (hg : copyGroupBad h.front vdst g = false) (hn : n ≤ s.vlmaxOf h.id) : s.copyDest n g vdst xb = some h := by
  have hbits : (bitsOf xb 63 14 != 0 || bitAt xb 11 || bitsOf xb 3 2 != 0 || decide (xb % 4 = 3)) = false := by
    simp [bitsOf, bitAt, h3, h4]
    omega
  unfold State.copyDest
  rw [if_neg (by rw [hbits]; exact Bool.false_ne_true), hh]
  exact if_neg (by simp [hg]; omega)

/-- The operation that a CPY.X forks. -/
def planeOp (s : State) (h : Hart) (g vdst vsrc cols : Nat) : CopyOp :=
  { form := 2, units := g * cols, at_ := 0, esz := 2, mbase := 0, mpitch := 0, spitch := 0, w := 1, ox := 0, oy := 0
    clipw := 0, cliph := 0, code := 0, sbase := 0, fillv := 0, idx := [], dst := h.id.uid, vdst := vdst, regs := g
    cols := cols
    planes := (List.range (g * cols)).map (fun k => mget 0 s.srcLanes.1 ((vsrc + k / cols) * 65536 + k % cols))
    place := if h.id.uid = s.cpu.id.uid then s.cpu.front.instret.toNat + 1 else h.front.instret.toNat
    seq := s.cpu.front.instret.toNat, foot := 0 }

/-- It carries the planes of its source registers as they stand. -/
theorem planeOp_planes (hl : s.cpu.lanes = none) {cols j k : Nat} (hj : j < g) (hk : k < cols) :
    ((planeOp s h g vdst vsrc cols).planes.getD (j * cols + k) 0).toNat = planeWord s.cpu.back.v (vsrc + j) k := by
  obtain ⟨hdiv, hmod⟩ := linear_split (q := j) hk
  have hlt : j * cols + k < g * cols := by
    calc j * cols + k < j * cols + cols := by omega
      _ = (j + 1) * cols := (Nat.succ_mul j cols).symm
      _ ≤ g * cols := Nat.mul_le_mul_right cols hj
  unfold planeOp planeWord State.srcLanes
  rw [hl]
  simp [List.getD_eq_getElem?_getD, hlt, hdiv, hmod]

/-- CPY.X forks with a grant of columns. -/
theorem exec_cpyX {a b : Reg} (d : Reg) (hin : s.cpu.inflight = []) (hdup : s.inDup = false)
    (h17 : s.getU a / 2 ^ 17 % 2 ^ 15 = 0) (h13 : s.getU a / 2 ^ 13 % 2 = 0) (hsrc : s.getU a % 32 ≤ 27) (hdst : s.getU a / 2 ^ 5 % 32 ≤ 27)
    (hgroup : copyGroupBad s.cpu.front (s.getU a % 32) (s.getU a / 2 ^ 10 % 8 + 1) = false) (hn : s.getU a / 2 ^ 32 ≤ s.vlmax)
    (hdest : s.copyDest (s.getU a / 2 ^ 32) (s.getU a / 2 ^ 10 % 8 + 1) (s.getU a / 2 ^ 5 % 32) (s.getU b) = some h) {cols : Nat}
    (hcols : cols = if (chanOf s (s.getU a / 2 ^ 14 % 8)).error = true ∨ (chanOf s (s.getU a / 2 ^ 14 % 8)).nops = 15 ∨ s.getU a / 2 ^ 32 = 0
      then 0 else planeGrant (s.getU a / 2 ^ 32) (s.getU a / 2 ^ 10 % 8 + 1) (outOf (chanOf s (s.getU a / 2 ^ 14 % 8)))) :
    exec (.cpyX d a b) s = .next (s.forkCopy (.cpyX d a b) d (s.getU a / 2 ^ 14 % 8) cols
      (planeOp s h (s.getU a / 2 ^ 10 % 8 + 1) (s.getU a / 2 ^ 5 % 32) (s.getU a % 32) cols)) := by
  have hbits : (bitsOf (s.getU a) 31 17 != 0 || bitAt (s.getU a) 13 || decide (27 < s.getU a % 32)
      || decide (27 < bitsOf (s.getU a) 9 5)) = false := by
    have h1 : bitsOf (s.getU a) 31 17 = 0 := h17
    have h2 : bitsOf (s.getU a) 9 5 ≤ 27 := hdst
    simp [h1, bitAt]
    exact ⟨⟨by omega, hsrc⟩, h2⟩
  have hcols' : cols = if ((chanOf s (s.getU a / 2 ^ 14 % 8)).error || decide ((chanOf s (s.getU a / 2 ^ 14 % 8)).nops = 15)
      || decide (s.getU a / 2 ^ 32 = 0)) = true then 0
      else planeGrant (s.getU a / 2 ^ 32) (s.getU a / 2 ^ 10 % 8 + 1) (outOf (chanOf s (s.getU a / 2 ^ 14 % 8))) := by
    rw [hcols]
    simp [or_assoc]
  show execCpyX d a b s = _
  unfold execCpyX
  refine congrArg Host.Outcome.next ?_
  rw [State.whenOldest_nil _ _ _ hin]
  dsimp only
  rw [if_neg (by rw [hbits]; exact Bool.false_ne_true), if_neg (by
    have h1 : copyGroupBad s.cpu.front (s.getU a % 32) (bitsOf (s.getU a) 12 10 + 1) = false := hgroup
    simp [h1]
    omega)]
  rw [show s.copyDest (s.getU a / 2 ^ 32) (bitsOf (s.getU a) 12 10 + 1) (bitsOf (s.getU a) 9 5) (s.getU b) = some h from hdest]
  dsimp only
  unfold State.quiesceDup
  rw [if_neg (by rw [hdup]; exact Bool.false_ne_true), hcols']
  rfl

end Planes

theorem boxForm_runs {i : Instr} {form : Nat} {d a b : Reg} {s : State} (hi : boxForm i = some (form, d, a, b)) :
    form ≠ 3 ∧ exec i s = .next (s.copyBox i form d a b) ∧ i.len = 4 := by
  cases i
  case cpyG d' a' b' =>
    obtain ⟨rfl, rfl, rfl, rfl⟩ : 0 = form ∧ d' = d ∧ a' = a ∧ b' = b := by simpa [boxForm] using hi
    exact ⟨by decide, rfl, rfl⟩
  case cpyP d' a' b' =>
    obtain ⟨rfl, rfl, rfl, rfl⟩ : 1 = form ∧ d' = d ∧ a' = a ∧ b' = b := by simpa [boxForm] using hi
    exact ⟨by decide, rfl, rfl⟩
  all_goals exact nomatch hi

theorem sideOf_boxForm {i : Instr} {x : Nat × Reg × Reg × Reg} (hi : boxForm i = some x) : sideOf i = 1 := by
  cases i
  case cpyG => rfl
  case cpyP => rfl
  all_goals exact nomatch hi

/-- Settles O39: a copy with sound operands forks behind what it has read; others take their faults. -/
theorem boxCopiesFork : Obligations.BoxCopiesFork := by
  unfold Obligations.BoxCopiesFork
  refine ⟨⟨fun i form d a b s w h hi hin hdup hw hok hb hfits hdead => ?_, fun d a b s w hin hdup htag hw hok hb hfits => ?_⟩,
    fun d a b s h hin hdup hl => ?_, fun i form d a b s hi hin hc => ?_⟩
  · intro c ch n g rows
    obtain ⟨h3, hexec, hlen⟩ : form ≠ 3 ∧ exec i s = .next (s.copyBox i form d a b) ∧ i.len = 4 := boxForm_runs hi
    obtain ⟨hq, hforks⟩ := copyBox_forks (d := d) hin hdup hw hok hb hfits h3 hlen hdead
    exact ⟨_, hexec, hq, hforks⟩
  · intro c ch n
    obtain ⟨u, hu, hq, hexec⟩ := cpyIX_goes (d := d) hin hdup htag hw hok hb hfits
    refine ⟨fun hfull => ⟨_, hexec, cpyIX_full hu hq d _ (Nat.mod_lt _ (by decide)) hfull⟩, fun row rest herr hn hvl hrow hroom => ?_⟩
    exact ⟨_, hexec, cpyIX_takes hu hq d hok herr hn hvl hrow hroom⟩
  · intro xa n c g vdst vsrc ch room cols h17 h13 hsrc hdst hgroup hn h14 h11 h4 h3 hh hgd hnd
    have hexec := exec_cpyX d hin hdup h17 h13 hsrc hdst hgroup hn (copyDest_some h14 h11 h4 h3 hh hgd hnd) (cols := cols) rfl
    obtain ⟨hforks, hq, hpkg, hstrip⟩ := forks_forkCopy (BeforeFork.refl s) (i := .cpyX d a b) rfl d (c := c) (Nat.mod_lt _ (by decide)) cols
      (planeOp s h g vdst vsrc cols)
    exact ⟨_, _, hexec, hq, hpkg, hstrip, hforks, rfl, rfl, rfl, rfl, rfl, rfl, rfl, fun j k hj hk => planeOp_planes hl hj hk⟩
  · obtain ⟨htag, hexec, hlen, hside⟩ : (form = 3 → tagIsInt (s.cpu.front.queueTag 5) = true) ∧ exec i s = .next (s.copyBox i form d a b)
        ∧ i.len = 4 ∧ sideOf i = 1 := by
      rcases hi with hi | ⟨rfl, rfl, ht⟩
      · obtain ⟨h3, hexec, hlen⟩ := boxForm_runs (s := s) hi
        exact ⟨fun h => absurd h h3, hexec, hlen, sideOf_boxForm hi⟩
      · exact ⟨fun _ => ht, rfl, rfl, rfl⟩
    have htraps : ∀ {u : State}, BeforeFork s u → ∀ {x : Cause} (eval sub : Nat), x ≠ .dataError →
        Traps s (u.raise i (copyTrap i x eval sub)) (causeCode x) (BitVec.ofNat 64 eval) (estatOf sub 0 15 1 false 4) 0 := by
      intro u hu x eval sub hx
      have := hu.traps hin hc i eval sub hx
      rwa [hlen, hside] at this
    have hself : ∀ r, BitVec.ofNat 64 (s.getU r) = s.getX r := fun r => by simp [State.getU]
    refine ⟨fun hb ha => ?_, fun w hw => ⟨fun hb => ?_, fun hb hbad => ?_, fun h hb hok hvl hfits => ?_⟩⟩
    · rw [hexec, copyBox_misplaced_a i d hin htag hb ha, ← hself]
      exact ⟨_, rfl, htraps (BeforeFork.refl s) _ 4 (by decide)⟩
    · rw [hexec, copyBox_misplaced_b i d hin htag hb, ← hself]
      exact ⟨_, rfl, htraps (BeforeFork.refl s) _ 4 (by decide)⟩
    · obtain ⟨u, hu, he⟩ := copyBox_broken i d hin htag hb hw hbad
      rw [hexec, he, ← hself]
      exact ⟨_, rfl, htraps hu _ 4 (by decide)⟩
    · obtain ⟨u, hu, he⟩ := copyBox_outside i d hin htag hb hw hok hvl hfits
      rw [hexec, he]
      refine ⟨_, rfl, ?_⟩
      have := htraps hu (x := if form = 1 then .loadFault else .storeFault) (max (s.getU b / 2 ^ 32) s.spadSize) 2 (by split <;> decide)
      convert this using 2
      split <;> rfl

end Sys2Proof.Claims
end

section
/-! PROOF. Loads that find every element and have room for all of their rows (R240, R248, R249): row after row is read, becomes visible at
the tail of the queue, and the load retires. -/

namespace Sys2Proof.Machine

/-- A load under way: what it has changed so far. -/
def State.onLoad (s : State) (v : Nat) (qs : Vector QState 6) (n : Nat) (l2 : SMap L2Line) (tick : Nat) : State :=
  { s with
    cpu := { s.cpu with front := { s.cpu.front with vstart := v }, back := { s.cpu.back with queues := qs }, nextId := n }
    pkg := { s.pkg with l2 := l2 }
    tick := tick }

end Sys2Proof.Machine

namespace Sys2Proof.Claims

open Sys2Proof Sys2Proof.Machine

/-- Load `j` has read the tile rows of its first `u` reads, and queue row number `n` of them is `row n`. -/
structure Loaded (s : State) (j : LoadJob) (row : Nat → List Nat) (u : Nat) (t : State) : Prop where
  shape : ∃ qs n l2 tick, t = s.onLoad (u / j.reads * j.len) qs n l2 tick
  rows : rowsOf t j.q = rowsOf s j.q ++ (List.range (u * j.width)).map row
  part : (t.cpu.back.queue j.q).part = []
  sub : u % j.reads = 0 → (t.cpu.back.queue j.q).sub = 0
  index : Loses s t 5 (if j.idx then u else 0)
  kept : ∀ k, k < 5 → k ≠ j.q → t.cpu.back.queue k = s.cpu.back.queue k

/-- What a load needs to go through: it is the oldest, starts at its first element, has room for its rows, and each of its reads gives the
rows `row`. -/
structure LoadGoes (s : State) (j : LoadJob) (row : Nat → List Nat) : Prop where
  load : j.q < 4
  oldest : s.cpu.inflight = []
  start : s.cpu.front.vstart = 0
  part : (s.cpu.back.queue j.q).part = []
  sub : (s.cpu.back.queue j.q).sub = 0
  reads : 0 < j.reads
  width : 0 < j.width
  long : ∀ n, (row n).length = j.len
  room : s.fill j.q + j.rows * j.reads * j.width * rowBytes (s.cpu.front.queueTag j.q) j.len ≤ s.qcap
  index : j.idx = true → j.rows * j.reads ≤ (s.cpu.back.queue 5).rows.length
  gate : ∀ u t, u < j.rows * j.reads → Loaded s j row u t → j.gate t (u / j.reads) 0 = .ok t
  read : ∀ u t, u < j.rows * j.reads → Loaded s j row u t → ∃ cols pas, j.read t (u / j.reads) (u % j.reads) 0 = ⟨cols, none, pas, []⟩
    ∧ cols.length = j.len ∧ ∀ k, k < j.width → cols.map (fun c => c.getD k 0) = row (u * j.width + k)

theorem Loaded.start {s : State} {j : LoadJob} {row : Nat → List Nat} (h : LoadGoes s j row) : Loaded s j row 0 s where
  shape := by
    refine ⟨s.cpu.back.queues, s.cpu.nextId, s.pkg.l2, s.tick, ?_⟩
    unfold State.onLoad
    rw [Nat.zero_div, Nat.zero_mul, ← h.start]
  rows := by rw [Nat.zero_mul]; exact (List.append_nil _).symm
  part := h.part
  sub _ := h.sub
  index := ⟨by rw [ite_self]; rfl, rfl, rfl⟩
  kept _ _ _ := rfl

/-- The bytes that the rows of a queue fill. -/
theorem fill_eq (s : State) (q : Nat) :
    s.fill q = ((rowsOf s q).map (fun e => rowBytes (s.cpu.front.queueTag q) e.length)).sum := by
  unfold State.fill rowsOf
  rw [List.map_map]
  rfl

theorem sum_rowBytes {l : List (List Nat)} {t : Tag} {len : Nat} (h : ∀ e ∈ l, e.length = len) :
    (l.map (fun e => rowBytes t e.length)).sum = l.length * rowBytes t len := by
  rw [List.map_congr_left (g := fun _ => rowBytes t len) fun e he => by rw [h e he], List.map_const', List.sum_replicate_nat]

/-- Of a queue with room the rows read all become visible. -/
theorem pushRows_of_room {q : Nat} (hq : q < 6) {len : Nat} (l : List Row) (s : State) (hlen : ∀ r ∈ l, r.elems.length = len)
    (hroom : s.fill q + l.length * rowBytes (s.cpu.front.queueTag q) len ≤ s.qcap) :
    pushRows q l s = (l.foldl (fun s r => s.pushRow q r.elems) s, []) := by
  induction l generalizing s with
  | nil => rfl
  | cons r l ih =>
    have hr := hlen r List.mem_cons_self
    rw [List.length_cons, Nat.succ_mul] at hroom
    unfold pushRows
    rw [hr, if_neg (by omega)]
    refine ih _ (fun x hx => hlen x (List.mem_cons_of_mem _ hx)) ?_
    have hfill : (s.pushRow q r.elems).fill q = s.fill q + rowBytes (s.cpu.front.queueTag q) len := by
      unfold State.fill
      rw [State.pushRow_rows _ _ _ hq, List.map_append, List.sum_append, ← hr]
      rfl
    rw [hfill]
    change _ + _ * rowBytes (s.cpu.front.queueTag q) len ≤ s.qcap
    omega

/-- The rows of one read, pushed. -/
theorem pushRows_partRows {q : Nat} (hq : q < 6) {w len n0 : Nat} {row : Nat → List Nat} {cols : List (List Nat)} (pc : W64) (s : State)
    (hcols : cols.length = len) (hrow : ∀ k, k < w → cols.map (fun c => c.getD k 0) = row (n0 + k))
    (hroom : s.fill q + w * rowBytes (s.cpu.front.queueTag q) len ≤ s.qcap) :
    pushRows q (partRows pc w len cols) s = (pushed s q w (fun k => row (n0 + k)), []) := by
  rw [pushRows_of_room hq _ s (len := len)]
  · unfold pushed upto partRows
    rw [List.foldl_map]
    refine congrArg (·, []) (List.foldl_ext _ _ _ fun t k hk => ?_)
    dsimp only
    rw [hcols, Nat.sub_self, List.replicate_zero, List.append_nil, hrow k (List.mem_range.mp hk)]
  · intro r hr
    obtain ⟨k, -, rfl⟩ := List.mem_map.mp hr
    dsimp only
    rw [hcols, Nat.sub_self, List.replicate_zero, List.append_nil, List.length_map, hcols]
  · unfold partRows
    rwa [List.length_map, List.length_range]

/-- What is free in a queue that no load has begun a row of. -/
theorem free_of_part {s : State} {q : Nat} (h : (s.cpu.back.queue q).part = []) : s.free q = s.qcap - s.fill q := by
  unfold State.free QState.reserved
  rw [h]
  rfl

theorem ownPart_of_part {s : State} {q : Nat} (h : (s.cpu.back.queue q).part = []) : s.ownPart q = [] := by
  unfold State.ownPart
  rw [h]
  rfl

/-- The rows that the load at pc has read are its own. -/
theorem ownPart_setPart {s : State} {q : Nat} (hq : q < 6) (l : List Row) (h : ∀ r ∈ l, r.by_ = s.cpu.front.pc.toNat) :
    (s.setPart q l).ownPart q = l := by
  unfold State.ownPart State.setPart
  change List.filter _ ((s.cpu.back.modQueue q _).queue q).part = l
  rw [Back.queue_modQueue, if_pos ⟨rfl, hq⟩]
  change List.filter (fun r : Row => decide (r.by_ = s.cpu.front.pc.toNat)) _ = l
  rw [List.filter_append, List.filter_filter, List.filter_eq_nil_iff.mpr, List.nil_append, List.filter_eq_self.mpr]
  · intro r hr
    exact decide_eq_true (h r hr)
  · intro r _
    simp

theorem by_partRows (pc : W64) (fields len : Nat) (cols : List (List Nat)) : ∀ r ∈ partRows pc fields len cols, r.by_ = pc.toNat := by
  intro r hr
  obtain ⟨k, -, rfl⟩ := List.mem_map.mp hr
  rfl

/-- Rows pushed to a load under way. -/
theorem pushed_onLoad (s : State) (v : Nat) (qs : Vector QState 6) (n : Nat) (l2 : SMap L2Line) (tick q w : Nat) (row : Nat → List Nat) :
    ∃ qs' n', pushed (s.onLoad v qs n l2 tick) q w row = s.onLoad v qs' n' l2 tick := ⟨_, _, pushed_eq _ q w row⟩

theorem queue_pushed (s : State) {q : Nat} (hq : q < 6) (n : Nat) (row : Nat → List Nat) :
    ((pushed s q n row).cpu.back.queue q).part = (s.cpu.back.queue q).part
      ∧ ((pushed s q n row).cpu.back.queue q).sub = (s.cpu.back.queue q).sub := by
  unfold pushed
  induction n with
  | zero => exact ⟨rfl, rfl⟩
  | succ n ih =>
    obtain ⟨hpart, hsub⟩ := ih
    rw [upto_succ, ← hpart, ← hsub]
    unfold State.pushRow
    dsimp only
    rw [Back.queue_modQueue, if_pos ⟨rfl, hq⟩]
    exact ⟨rfl, rfl⟩

theorem queue_setPart (s : State) {q : Nat} (hq : q < 6) (l : List Row) (k : Nat) : (s.setPart q l).cpu.back.queue k =
    if k = q then { s.cpu.back.queue q with
        part := (s.cpu.back.queue q).part.filter (fun r => r.by_ != s.cpu.front.pc.toNat) ++ l }
    else s.cpu.back.queue k := by
  unfold State.setPart
  change (s.cpu.back.modQueue q _).queue k = _
  rw [Back.queue_modQueue]
  by_cases hk : k = q
  · rw [if_pos ⟨hk, hq⟩, if_pos hk]
  · rw [if_neg fun h => hk h.1, if_neg hk]

/-- The state behind a row that has been read and has become visible: `w` is what the read left. -/
def afterRow (j : LoadJob) (row : Nat → List Nat) (u : Nat) (w : State) : State :=
  let w1 := (pushed w j.q j.width (fun k => row (u * j.width + k))).setPart j.q []
  let next := if u % j.reads + 1 = j.reads then 0 else u % j.reads + 1
  let w2 := if j.reads = 1 then w1 else w1.setBack (w1.cpu.back.setSub j.q w.cpu.front.pc next)
  w2.setFront { w2.cpu.front with vstart := if next = 0 then (u / j.reads + 1) * j.len else u / j.reads * j.len }

/-- What a read of bytes `pas` leaves, its columns not yet visible. -/
def afterRead (j : LoadJob) (cols : List (List Nat)) (pas : List Nat) (t : State) : State :=
  let w := (t.readLines t.cpu.id.die (pas.map t.key)).tock.setPart j.q (partRows t.cpu.front.pc j.width j.len cols)
  if j.idx then w.setBack (w.cpu.back.popRows 5 1) else w

theorem succ_div_mod {u n : Nat} (hn : 0 < n) :
    (u + 1) / n = (if u % n + 1 = n then u / n + 1 else u / n) ∧ (u + 1) % n = if u % n + 1 = n then 0 else u % n + 1 := by
  have hlt := Nat.mod_lt u hn
  have hdiv := Nat.div_add_mod u n
  split
  next h =>
    have he : u + 1 = n * (u / n + 1) := by rw [Nat.mul_succ]; omega
    rw [he]
    exact ⟨Nat.mul_div_cancel_left _ hn, Nat.mul_mod_right _ _⟩
  next h =>
    have he : u + 1 = n * (u / n) + (u % n + 1) := by omega
    have hl : u % n + 1 < n := by omega
    rw [he, Nat.mul_add_div hn, Nat.div_eq_of_lt hl, Nat.mul_add_mod, Nat.mod_eq_of_lt hl]
    exact ⟨rfl, rfl⟩

theorem queue_afterRead (j : LoadJob) (cols : List (List Nat)) (pas : List Nat) (t : State) {k : Nat} (hk : k < 6) (hq : j.q < 4) :
    (afterRead j cols pas t).cpu.back.queue k =
      if k = j.q then { t.cpu.back.queue j.q with
        part := (t.cpu.back.queue j.q).part.filter (fun r => r.by_ != t.cpu.front.pc.toNat) ++ partRows t.cpu.front.pc j.width j.len cols }
      else if k = 5 ∧ j.idx = true then (t.cpu.back.queue 5).take 1 else t.cpu.back.queue k := by
  unfold afterRead
  dsimp only
  cases hi : j.idx with
  | false =>
    rw [if_neg Bool.false_ne_true, queue_setPart _ (by omega)]
    by_cases h : k = j.q
    · rw [if_pos h, if_pos h]
      rfl
    · rw [if_neg h, if_neg h, if_neg (by simp)]
      rfl
  | true =>
    rw [if_pos rfl]
    change (Back.popRows _ 5 1).queue k = _
    rw [Back.popRows_queue]
    by_cases h5 : k = 5
    · subst h5
      rw [if_pos ⟨rfl, by omega⟩, if_neg (by omega), if_pos ⟨rfl, rfl⟩, queue_setPart _ (by omega), if_neg (by omega)]
      rfl
    · rw [if_neg fun h => h5 h.1, queue_setPart _ (by omega), if_neg (c := k = 5 ∧ _) fun h => h5 h.1]
      rfl

theorem queue_afterRow (j : LoadJob) (row : Nat → List Nat) (u : Nat) (w : State) {k : Nat} (hq : j.q < 4) (hk : k ≠ j.q) :
    (afterRow j row u w).cpu.back.queue k = w.cpu.back.queue k := by
  unfold afterRow
  dsimp only
  have hpart : ((pushed w j.q j.width (fun k => row (u * j.width + k))).setPart j.q []).cpu.back.queue k = w.cpu.back.queue k := by
    rw [queue_setPart _ (by omega), if_neg hk, queue_pushed_other _ hk]
  rw [← hpart]
  by_cases h1 : j.reads = 1
  · rw [if_pos h1]
    rfl
  · rw [if_neg h1]
    change (Back.setSub _ _ _ _).queue k = _
    unfold Back.setSub
    rw [Back.queue_modQueue, if_neg fun h => hk h.1]

/-- The queue of the load behind a row. -/
theorem queue_afterRow_same (j : LoadJob) (row : Nat → List Nat) (u : Nat) (w : State) (hq : j.q < 4) (hn : 0 < j.reads) :
    let x := (afterRow j row u w).cpu.back.queue j.q
    x.rows.map (fun r => r.elems) = rowsOf w j.q ++ (List.range j.width).map (fun k => row (u * j.width + k))
      ∧ x.part = (w.cpu.back.queue j.q).part.filter (fun r => r.by_ != w.cpu.front.pc.toNat)
      ∧ ((u + 1) % j.reads = 0 → (j.reads = 1 → (w.cpu.back.queue j.q).sub = 0) → x.sub = 0) := by
  intro x
  obtain ⟨hpart, hsub⟩ := queue_pushed w (q := j.q) (by omega) j.width (fun k => row (u * j.width + k))
  have hrows := rowsOf_pushed w (q := j.q) (by omega) j.width (fun k => row (u * j.width + k))
  have hpc : (pushed w j.q j.width (fun k => row (u * j.width + k))).cpu.front.pc = w.cpu.front.pc := by rw [pushed_eq]
  have hset := queue_setPart (pushed w j.q j.width (fun k => row (u * j.width + k))) (q := j.q) (by omega) [] j.q
  rw [if_pos rfl, hpart, hpc, List.append_nil] at hset
  have hx : x = (afterRow j row u w).cpu.back.queue j.q := rfl
  unfold afterRow at hx
  dsimp only at hx
  rw [hx]
  by_cases h1 : j.reads = 1
  · rw [if_pos h1]
    change ((State.setPart _ _ _).cpu.back.queue j.q).rows.map _ = _ ∧ ((State.setPart _ _ _).cpu.back.queue j.q).part = _
      ∧ (_ → _ → ((State.setPart _ _ _).cpu.back.queue j.q).sub = 0)
    rw [hset]
    exact ⟨hrows, rfl, fun _ h => hsub.trans (h h1)⟩
  · rw [if_neg h1]
    change ((Back.setSub _ _ _ _).queue j.q).rows.map _ = _ ∧ ((Back.setSub _ _ _ _).queue j.q).part = _
      ∧ (_ → _ → ((Back.setSub _ _ _ _).queue j.q).sub = 0)
    unfold Back.setSub
    rw [Back.queue_modQueue, if_pos ⟨rfl, by omega⟩, hset]
    refine ⟨hrows, rfl, fun h _ => ?_⟩
    dsimp only
    rw [(succ_div_mod hn).2] at h
    rw [h, if_pos rfl]

theorem afterRead_onLoad (j : LoadJob) (cols : List (List Nat)) (pas : List Nat) (s : State) (v : Nat) (qs : Vector QState 6) (n : Nat)
    (l2 : SMap L2Line) (tick : Nat) :
    ∃ qs' l2' tick', afterRead j cols pas (s.onLoad v qs n l2 tick) = s.onLoad v qs' n l2' tick' := by
  unfold afterRead
  cases j.idx with
  | false => exact ⟨_, _, _, rfl⟩
  | true => exact ⟨_, _, _, rfl⟩

theorem afterRow_onLoad (j : LoadJob) (row : Nat → List Nat) (u : Nat) (s : State) (v : Nat) (qs : Vector QState 6) (n : Nat)
    (l2 : SMap L2Line) (tick : Nat) (hn : 0 < j.reads) :
    ∃ qs' n', afterRow j row u (s.onLoad v qs n l2 tick) = s.onLoad ((u + 1) / j.reads * j.len) qs' n' l2 tick := by
  obtain ⟨qs', n', hp⟩ := pushed_onLoad s v qs n l2 tick j.q j.width (fun k => row (u * j.width + k))
  unfold afterRow
  dsimp only
  rw [hp]
  have hv : (if (if u % j.reads + 1 = j.reads then 0 else u % j.reads + 1) = 0 then (u / j.reads + 1) * j.len else u / j.reads * j.len)
      = (u + 1) / j.reads * j.len := by
    rw [(succ_div_mod hn).1]
    split
    · rw [if_pos rfl]
    · rw [if_neg (Nat.succ_ne_zero _)]
  rw [hv]
  split
  · exact ⟨_, _, rfl⟩
  · exact ⟨_, _, rfl⟩

section
variable {s : State} {j : LoadJob} {row : Nat → List Nat} (h : LoadGoes s j row)
include h

theorem LoadGoes.fill_loaded {u : Nat} {t : State} (ht : Loaded s j row u t) :
    t.fill j.q = s.fill j.q + u * j.width * rowBytes (s.cpu.front.queueTag j.q) j.len := by
  have htag : t.cpu.front.queueTag j.q = s.cpu.front.queueTag j.q := by
    obtain ⟨qs, n, l2, tick, rfl⟩ := ht.shape
    rfl
  rw [fill_eq, ht.rows, List.map_append, List.sum_append, htag, ← fill_eq,
    sum_rowBytes (l := (List.range (u * j.width)).map row) (len := j.len), List.length_map, List.length_range]
  intro e he
  obtain ⟨n, -, rfl⟩ := List.mem_map.mp he
  exact h.long n

/-- Room for the rows of the next read. -/
theorem LoadGoes.room_loaded {u : Nat} {t : State} (hu : u < j.rows * j.reads) (ht : Loaded s j row u t) :
    t.fill j.q + j.width * rowBytes (t.cpu.front.queueTag j.q) j.len ≤ t.qcap := by
  have hfill := h.fill_loaded ht
  obtain ⟨qs, n, l2, tick, rfl⟩ := ht.shape
  rw [hfill]
  change _ + _ * rowBytes (s.cpu.front.queueTag j.q) j.len ≤ s.qcap
  have hle := Nat.mul_le_mul_right (j.width * rowBytes (s.cpu.front.queueTag j.q) j.len) (Nat.succ_le_of_lt hu)
  rw [Nat.succ_mul, ← Nat.mul_assoc, ← Nat.mul_assoc] at hle
  have hroom := h.room
  omega

theorem LoadGoes.index_loaded {u : Nat} {t : State} (hu : u < j.rows * j.reads) (ht : Loaded s j row u t) :
    (j.idx && (t.cpu.back.queue 5).rows.isEmpty) = false := by
  cases hi : j.idx with
  | false => rfl
  | true =>
    have hlen := h.index hi
    obtain ⟨hrows, -, -⟩ := ht.index
    rw [Bool.true_and, hrows, if_pos hi, List.isEmpty_eq_false_iff, ← List.length_pos_iff, List.length_drop]
    omega

/-- The state in which a read of `pas` leaves the columns `cols` to become visible. -/
theorem LoadGoes.readTileRow {u : Nat} {t : State} (i : Instr) (hu : u < j.rows * j.reads) (ht : Loaded s j row u t) :
    ∃ (cols : List (List Nat)) (pas : List Nat), cols.length = j.len ∧ (∀ k, k < j.width → cols.map (fun c => c.getD k 0) = row (u * j.width + k))
      ∧ t.readTileRow i j (u / j.reads) (u % j.reads) (u / j.reads * j.len) = .ok (afterRead j cols pas t) := by
  obtain ⟨cols, pas, hread, hlen, hrow⟩ := h.read u t hu ht
  refine ⟨cols, pas, hlen, hrow, ?_⟩
  have hroom := h.room_loaded hu ht
  have hold : t.oldest = true := by
    obtain ⟨qs, n, l2, tick, rfl⟩ := ht.shape
    exact List.isEmpty_iff.mpr h.oldest
  have hbytes : ¬ t.free j.q < rowBytes (t.cpu.front.queueTag j.q) j.len := by
    rw [free_of_part ht.part]
    have hw := Nat.mul_le_mul_right (rowBytes (t.cpu.front.queueTag j.q) j.len) h.width
    omega
  have hreg : ∀ l : List Nat, (l.any (t.readLines t.cpu.id.die (pas.map t.key)).tock.isReg
      && !(t.readLines t.cpu.id.die (pas.map t.key)).tock.oldest) = false := fun l => by
    change (_ && !t.oldest) = false
    rw [hold, Bool.not_true, Bool.and_false]
  have hgate := h.gate u t hu ht
  unfold State.readTileRow
  simp only [Nat.sub_self, h.index_loaded hu ht, Bool.false_eq_true, if_false, bne_self_eq_false, Bool.false_and, hbytes, List.length_nil,
    hgate, hread, List.isEmpty_nil, if_true, List.nil_append, hreg]
  rfl

/-- A read with its rows visible. -/
theorem LoadGoes.step {u : Nat} {t : State} (ht : Loaded s j row u t) (cols : List (List Nat)) (pas : List Nat) :
    Loaded s j row (u + 1) (afterRow j row u (afterRead j cols pas t)) := by
  have hload := h.load
  have hsame := queue_afterRead j cols pas t (k := j.q) (by omega) hload
  rw [if_pos rfl, ht.part, List.filter_nil, List.nil_append] at hsame
  obtain ⟨hrows, hpart, hsub⟩ := queue_afterRow_same j row u (afterRead j cols pas t) hload h.reads
  refine ⟨?_, ?_, ?_, ?_, ?_, ?_⟩
  · obtain ⟨qs, n, l2, tick, rfl⟩ := ht.shape
    obtain ⟨qs', l2', tick', hr⟩ := afterRead_onLoad j cols pas s (u / j.reads * j.len) qs n l2 tick
    obtain ⟨qs'', n'', hw⟩ := afterRow_onLoad j row u s (u / j.reads * j.len) qs' n l2' tick' h.reads
    exact ⟨qs'', n'', l2', tick', by rw [hr, hw]⟩
  · refine hrows.trans ?_
    have hw : rowsOf (afterRead j cols pas t) j.q = rowsOf t j.q := by
      unfold rowsOf
      rw [hsame]
    rw [hw, ht.rows, Nat.succ_mul, List.range_add, List.map_append, List.append_assoc, List.map_map]
    rfl
  · rw [hpart, hsame]
    dsimp only
    have hpc : (afterRead j cols pas t).cpu.front.pc = t.cpu.front.pc := by
      unfold afterRead
      cases j.idx with
      | false => rfl
      | true => rfl
    rw [hpc, List.filter_eq_nil_iff]
    intro r hr
    rw [by_partRows _ _ _ _ r hr, bne_self_eq_false]
    exact Bool.false_ne_true
  · intro h0
    refine hsub h0 fun h1 => ?_
    rw [hsame]
    exact ht.sub (by rw [h1, Nat.mod_one])
  · obtain ⟨hr, hp, hs⟩ := ht.index
    unfold Loses
    rw [queue_afterRow j row u _ hload (by omega : (5 : Nat) ≠ j.q), queue_afterRead _ _ _ _ (by omega) hload,
      if_neg (by omega : (5 : Nat) ≠ j.q)]
    by_cases hidx : j.idx = true
    · rw [if_pos hidx] at hr ⊢
      rw [if_pos ⟨rfl, hidx⟩]
      refine ⟨?_, hp, hs⟩
      unfold QState.take
      dsimp only
      rw [hr, List.drop_drop]
    · rw [if_neg hidx] at hr ⊢
      rw [if_neg fun h => hidx h.2]
      exact ⟨hr, hp, hs⟩
  · intro k hk hne
    rw [queue_afterRow j row u _ hload hne, queue_afterRead _ _ _ _ (by omega) hload, if_neg hne,
      if_neg (by omega : ¬ (k = 5 ∧ j.idx = true))]
    exact ht.kept k hk hne

/-- One read of the loop. -/
theorem LoadGoes.loadRows_succ {u : Nat} {t : State} (i : Instr) (fin : State → Front) (m : Nat) (hu : u < j.rows * j.reads)
    (ht : Loaded s j row u t) :
    ∃ t', loadRows i j fin (m + 1) u t = loadRows i j fin m (u + 1) t' ∧ Loaded s j row (u + 1) t' := by
  obtain ⟨cols, pas, hlen, hrow, hread⟩ := h.readTileRow i hu ht
  refine ⟨_, ?_, h.step ht cols pas⟩
  have hload := h.load
  have hsame := queue_afterRead j cols pas t (k := j.q) (by omega) hload
  rw [if_pos rfl, ht.part, List.filter_nil, List.nil_append] at hsame
  have hroom := h.room_loaded hu ht
  have hpc : (afterRead j cols pas t).cpu.front = t.cpu.front ∧ (afterRead j cols pas t).qcap = t.qcap := by
    unfold afterRead
    cases j.idx with
    | false => exact ⟨rfl, rfl⟩
    | true => exact ⟨rfl, rfl⟩
  have hown : (afterRead j cols pas t).ownPart j.q = partRows t.cpu.front.pc j.width j.len cols := by
    unfold State.ownPart
    rw [hsame, hpc.1, List.filter_eq_self]
    intro r hr
    exact decide_eq_true (by_partRows _ _ _ _ r hr)
  have hfill : (afterRead j cols pas t).fill j.q = t.fill j.q := by
    unfold State.fill
    rw [hsame, hpc.1]
  have hpush : pushRows j.q (partRows t.cpu.front.pc j.width j.len cols) (afterRead j cols pas t)
      = (pushed (afterRead j cols pas t) j.q j.width (fun k => row (u * j.width + k)), []) :=
    pushRows_partRows (by omega) _ _ hlen hrow (by rw [hfill, hpc.1, hpc.2]; exact hroom)
  have hmax : max t.cpu.front.vstart (u / j.reads * j.len) = u / j.reads * j.len := by
    obtain ⟨qs, n, l2, tick, rfl⟩ := ht.shape
    exact Nat.max_self _
  have hpart : t.ownPart j.q = [] := ownPart_of_part ht.part
  conv_lhs => unfold loadRows
  simp only [hmax, hpart, List.isEmpty_nil, Bool.not_true, Bool.false_and, Bool.false_eq_true, if_false, hread, hown, hpush, if_true]
  unfold afterRow
  rw [hpc.1]

/-- The loop. -/
theorem LoadGoes.loadRows (i : Instr) (fin : State → Front) (m u : Nat) {t : State} (hu : u + m = j.rows * j.reads) (ht : Loaded s j row u t) :
    ∃ t', loadRows i j fin m u t = t'.finish i (fin t') ∧ Loaded s j row (j.rows * j.reads) t' := by
  induction m generalizing u t with
  | zero =>
    obtain rfl : u = j.rows * j.reads := hu
    exact ⟨t, by unfold Machine.loadRows; rfl, ht⟩
  | succ m ih =>
    obtain ⟨t1, heq, ht1⟩ := h.loadRows_succ i fin m (by omega) ht
    obtain ⟨t2, heq2, ht2⟩ := ih (u + 1) (by omega) ht1
    exact ⟨t2, heq.trans heq2, ht2⟩

end

/-- The reads of a load: none of an empty tile (R235). -/
def jobReads (j : LoadJob) : Nat := if j.len = 0 then 0 else j.rows * j.reads

theorem LoadGoes.loadJob {s : State} {j : LoadJob} {row : Nat → List Nat} (h : LoadGoes s j row) (i : Instr) (fin : State → Front) :
    ∃ t, s.loadJob i j fin = t.finish i (fin t) ∧ Loaded s j row (jobReads j) t := by
  unfold State.loadJob jobReads
  by_cases hempty : j.rows = 0 ∨ j.len = 0
  · have hz : (if j.len = 0 then 0 else j.rows * j.reads) = 0 := by
      rcases hempty with h0 | h0
      · rw [h0, Nat.zero_mul, ite_self]
      · rw [if_pos h0]
    rw [if_pos (by simpa using hempty), hz]
    exact ⟨s, rfl, Loaded.start h⟩
  · have hlen : j.len ≠ 0 := fun h0 => hempty (.inr h0)
    rw [if_neg (by simpa using hempty), if_neg hlen]
    have hsub : s.cpu.back.getSub j.q s.cpu.front.pc = 0 := by
      unfold Back.getSub
      rw [h.sub, Nat.zero_mod, ite_self]
    dsimp only
    rw [h.start, hsub, Nat.zero_div, Nat.zero_mul, Nat.zero_min, Nat.sub_zero]
    exact h.loadRows i fin _ 0 (Nat.zero_add _) (Loaded.start h)

/-- A load that goes through has delivered its rows. -/
theorem LoadGoes.delivers {s : State} {j : LoadJob} {row : Nat → List Nat} (h : LoadGoes s j row) {i : Instr} {n : Nat}
    (hi : keepsVstart i = false) (hlen : i.len = n) (fin : State → Front) {f : Front}
    (hfin : ∀ v qs k l2 tick, { fin (s.onLoad v qs k l2 tick) with vstart := 0 } = { f with vstart := 0 })
    (hpc : f.pc = s.cpu.front.pc) (hret : f.instret = s.cpu.front.instret) :
    Delivers s (s.loadJob i j fin) { f with pc := s.cpu.front.pc + BitVec.ofNat 64 n, vstart := 0 } j.q
      (if j.idx then jobReads j else 0) ((List.range (jobReads j * j.width)).map row) := by
  obtain ⟨w, heq, hw⟩ := h.loadJob i fin
  rw [heq]
  obtain ⟨qs, k, l2, tick, rfl⟩ := hw.shape
  have hsub := hw.sub
  have hmod : jobReads j % j.reads = 0 := by
    unfold jobReads
    split
    · exact Nat.zero_mod _
    · exact Nat.mul_mod_left _ _
  have hf := hfin (jobReads j / j.reads * j.len) qs k l2 tick
  unfold State.finish vstartAfter
  rw [hi, hlen, if_neg Bool.false_ne_true, hf]
  refine ⟨?_, rfl, rfl, hw.rows, hw.part, hw.sub hmod, hw.index, hw.kept, rfl, rfl, rfl, fun _ => rfl⟩
  change Front.mk .. = Front.mk ..
  rw [← hret, ← hpc]
  rfl

end Sys2Proof.Claims
end

section
/-! PROOF. The plain loads and the record load (R235 to R238, R240, R242, R243, R248). -/

namespace Sys2Proof.Claims

open Sys2Proof Sys2Proof.Machine

theorem memoryAt_eq {s : State} {vas : List Nat} {l : List Byte} (h : memoryAt s vas = some l) :
    ∃ pas, s.accessBytes s.cpu.ctx .load false vas = .ok pas ∧ (∀ pa ∈ pas, s.isReg pa = false) ∧ l = pas.map (s.physByte s.cpu.id.die) := by
  unfold memoryAt at h
  cases ha : s.accessBytes s.cpu.ctx .load false vas with
  | error f =>
    rw [ha] at h
    cases h
  | ok pas =>
    rw [ha] at h
    dsimp only at h
    cases hr : pas.any s.isReg with
    | true =>
      rw [hr, if_pos rfl] at h
      cases h
    | false =>
      rw [hr, if_neg Bool.false_ne_true] at h
      exact ⟨pas, rfl, List.any_eq_false.mp hr |> fun h pa hp => by simpa using h pa hp, (Option.some.inj h).symm⟩

/-- A load under way reads as it began. -/
theorem accessBytes_onLoad (s : State) (v : Nat) (qs : Vector QState 6) (n : Nat) (l2 : SMap L2Line) (tick : Nat) :
    (s.onLoad v qs n l2 tick).accessBytes = s.accessBytes := by
  refine accessBytes_congr ?_ ?_ ?_
  · rfl
  · rfl
  · rfl

/-- With no vector write open, the elements are read as they stand. -/
theorem readElems_nil {s : State} {e : ElemSpec} (gather : Option Nat) {v : Nat → List Nat} (n i : Nat)
    (h : ∀ k, k < n → ∃ pas, s.accessBytes s.cpu.ctx .load false (e.addrs (i + k)) = .ok pas
      ∧ e.vals (i + k) (pas.map (s.physByte s.cpu.id.die)) = v (i + k)) :
    ∃ pas, s.readElems [] gather e n i = ⟨(List.range n).map (fun k => v (i + k)), none, pas, []⟩ := by
  induction n generalizing i with
  | zero => exact ⟨[], rfl⟩
  | succ n ih =>
    obtain ⟨pas0, hacc, hval⟩ := h 0 (Nat.zero_lt_succ n)
    obtain ⟨pas, hr⟩ := ih (i + 1) fun k hk => by
      have := h (k + 1) (by omega)
      rwa [show i + (k + 1) = i + 1 + k by omega] at this
    rw [Nat.add_zero] at hacc hval
    have hmark : markSeen [] gather [] = [] := by
      unfold markSeen
      cases gather with
      | none => rfl
      | some g => rfl
    refine ⟨pas0 ++ pas, ?_⟩
    unfold State.readElems
    rw [hacc]
    unfold State.readElement
    dsimp only
    rw [List.isEmpty_nil, if_pos rfl, hmark, hr, hval, List.range_succ_eq_map, List.map_cons, List.map_map]
    refine congrArg (RowRead.mk · _ _ _) (congrArg₂ List.cons rfl (List.map_congr_left fun k _ => ?_))
    change _ = v (i + (k + 1))
    rw [Nat.add_right_comm, Nat.add_assoc]

theorem tagW_pos (t : Tag) : 0 < tagW t := by
  unfold tagW
  split <;> omega

theorem bitRange_eq {a lo n : Nat} (hlo : lo < 8) (hn : 0 < n) : bitRange a lo n = bytesOfBits a lo n := by
  unfold bitRange vaRange bytesOfBits
  rw [Nat.mod_eq_of_lt hlo, Nat.div_eq_of_lt hlo]
  have : (lo + n - 1) / 8 - 0 + 1 = (lo + n + 7) / 8 := by omega
  rw [this]

theorem index_rowsOf {s t : State} {u : Nat} (h : Loses s t 5 u) (hu : u < (rowsOf s 5).length) : t.indexRow = (rowsOf s 5).getD u [] := by
  obtain ⟨hrows, -, -⟩ := h
  have hlen : u < (s.cpu.back.queue 5).rows.length := by
    unfold rowsOf at hu
    rwa [List.length_map] at hu
  unfold State.indexRow rowsOf
  rw [hrows, List.drop_eq_getElem_cons hlen]
  dsimp only
  rw [List.getD_eq_getElem?_getD, List.getElem?_map, List.getElem?_eq_getElem hlen]
  rfl

/-- The tag checks of a plain form pass. -/
theorem accessChecks_of_tags {i : Instr} {s : State} {q : Nat} {p : Place} {kind : Option Tag} (body : State → State)
    (he8 : ¬(tagE8 (s.cpu.front.queueTag q) = true ∧ kind.isSome = true))
    (hidx : ∀ sh, p = .index sh → tagIsInt (s.cpu.front.queueTag 5) = true)
    (hwhole : p ≠ .dense → memWidth s q kind % 8 = 0) : s.accessChecks i q p kind body = body s := by
  have hwm : tagW (kind.getD (s.cpu.front.queueTag q)) = (kind.elim (tagW (s.cpu.front.queueTag q)) tagW) := by
    cases kind with
    | none => rfl
    | some m => rfl
  unfold memWidth at hwhole
  unfold State.accessChecks
  dsimp only
  rw [if_neg (by simpa using he8)]
  cases kind with
  | none =>
    cases p with
    | dense => rfl
    | stride st =>
      have hw := hwhole (by simp)
      dsimp only [Option.getD_none] at hw ⊢
      rw [hw, if_neg (by simp)]
    | index sh =>
      have hw := hwhole (by simp)
      dsimp only [Option.getD_none] at hw ⊢
      rw [hw, hidx sh rfl, if_neg (by simp), if_neg (by simp)]
  | some m =>
    cases p with
    | dense => rfl
    | stride st =>
      have hw := hwhole (by simp)
      dsimp only [Option.getD_some] at hw ⊢
      rw [hw, if_neg (by simp)]
    | index sh =>
      have hw := hwhole (by simp)
      dsimp only [Option.getD_some] at hw ⊢
      rw [hw, hidx sh rfl, if_neg (by simp), if_neg (by simp)]

/-- An element of a plain load, read where it stands. -/
theorem plainSpec_reads {i : Instr} {o : VMOps} {s w : State} {p : Place} {kind : Option Tag} {r c v : Nat} (hkind : kindOf i o = kind)
    (hst : elemStart w p (s.vmBase o) (memWidth s o.q.val kind) s.cpu.front.vl r c = startOf i s o (memWidth s o.q.val kind) r c)
    (hlt : (startOf i s o (memWidth s o.q.val kind) r c).2 < 8) (hel : loadedElem i s o r c = some v) :
    let e := plainSpec w p (s.vmBase o) (memWidth s o.q.val kind) s.cpu.front.vl r
      (loadConvert s.cpu.front.rm kind (s.cpu.front.queueTag o.q.val))
    ∃ pas, s.accessBytes s.cpu.ctx .load false (e.addrs c) = .ok pas ∧ e.vals c (pas.map (s.physByte s.cpu.id.die)) = [v] := by
  unfold loadedElem at hel
  dsimp only at hel
  rw [hkind] at hel
  obtain ⟨l, hl, hval⟩ := Option.map_eq_some_iff.mp hel
  obtain ⟨pas, hacc, -, rfl⟩ := memoryAt_eq hl
  refine ⟨pas, ?_, ?_⟩
  · unfold plainSpec
    dsimp only
    rw [hst, bitRange_eq hlt (show 0 < memWidth s o.q.val kind from tagW_pos _)]
    exact hacc
  · unfold plainSpec
    dsimp only
    rw [hst, ← hval]
    cases kind with
    | none => rfl
    | some m => rfl

/-- A load form whose elements stand where `startOf` says and are read one for one goes through. -/
theorem plainLoad_goes {i : Instr} {o : VMOps} {s : State} {val : Nat → Nat → Nat} {p : Place} {kind : Option Tag} {ordered : Bool}
    (hmay : MayDeliver s o.q.val s.cpu.front.rc s.cpu.front.vl) (hkind : kindOf i o = kind)
    (hidx : (plainLoad s o p kind ordered).idx = true → s.cpu.front.rc ≤ (rowsOf s 5).length)
    (hstart : ∀ r c t, ((plainLoad s o p kind ordered).idx = true → t.indexRow = (rowsOf s 5).getD r [])
      → t.cpu.front.queueTag 5 = s.cpu.front.queueTag 5
      → elemStart t p (s.vmBase o) (memWidth s o.q.val kind) s.cpu.front.vl r c = startOf i s o (memWidth s o.q.val kind) r c
        ∧ (startOf i s o (memWidth s o.q.val kind) r c).2 < 8)
    (hload : ∀ r c, r < s.cpu.front.rc → c < s.cpu.front.vl → loadedElem i s o r c = some (val r c)) :
    LoadGoes s (plainLoad s o p kind ordered) (fun r => (List.range s.cpu.front.vl).map (val r)) := by
  obtain ⟨hin, hv, hpart, hsub, hroom, hstrip⟩ := hmay
  have hwm : (plainLoad s o p kind ordered).read = fun t r _ c0 =>
      t.readElems t.openStrip (if ordered then some t.cpu.front.instret.toNat else none)
        (plainSpec t p (s.vmBase o) (memWidth s o.q.val kind) s.cpu.front.vl r
          (loadConvert s.cpu.front.rm kind (s.cpu.front.queueTag o.q.val))) (s.cpu.front.vl - c0) c0 := by
    cases kind with
    | none => rfl
    | some m => rfl
  refine ⟨o.q.isLt, hin, hv, hpart, hsub, Nat.one_pos, Nat.one_pos, fun n => ?_, ?_, fun hi => ?_, fun _ _ _ _ => rfl, ?_⟩
  · rw [List.length_map, List.length_range]
    rfl
  · change _ + s.cpu.front.rc * 1 * 1 * _ ≤ _
    rw [Nat.mul_one, Nat.mul_one]
    exact hroom
  · have := hidx hi
    unfold rowsOf at this
    rw [List.length_map] at this
    change s.cpu.front.rc * 1 ≤ _
    rwa [Nat.mul_one]
  · intro u t hu ht
    have hr : u < s.cpu.front.rc := by
      change u < s.cpu.front.rc * 1 at hu
      rwa [Nat.mul_one] at hu
    have hrow : (plainLoad s o p kind ordered).idx = true → t.indexRow = (rowsOf s 5).getD u [] := fun h => by
      refine index_rowsOf ?_ (lt_of_lt_of_le hr (hidx h))
      have := ht.index
      rwa [if_pos h] at this
    obtain ⟨v, qs, n, l2, tick, rfl⟩ : ∃ v qs n l2 tick, t = s.onLoad v qs n l2 tick := ⟨_, ht.shape⟩
    obtain ⟨pas, hread⟩ := readElems_nil (s := s.onLoad v qs n l2 tick) (v := fun c => [val u c])
      (e := plainSpec (s.onLoad v qs n l2 tick) p (s.vmBase o) (memWidth s o.q.val kind) s.cpu.front.vl u
          (loadConvert s.cpu.front.rm kind (s.cpu.front.queueTag o.q.val)))
      (if ordered then some s.cpu.front.instret.toNat else none) s.cpu.front.vl 0 (fun c hc => by
        obtain ⟨hst, hlt⟩ := hstart u c _ hrow rfl
        rw [accessBytes_onLoad, Nat.zero_add]
        exact plainSpec_reads hkind hst hlt (hload u c hr hc))
    refine ⟨(List.range s.cpu.front.vl).map (fun k => [val u (0 + k)]), pas, ?_, ?_, ?_⟩
    · rw [hwm]
      dsimp only
      change State.readElems _ s.openStrip _ _ _ _ = _
      rw [hstrip, Nat.sub_zero]
      refine Eq.trans ?_ hread
      rw [show u / (plainLoad s o p kind ordered).reads = u from Nat.div_one u]
      rfl
    · rw [List.length_map, List.length_range]
      rfl
    · intro k hk
      obtain rfl : k = 0 := Nat.lt_one_iff.mp hk
      rw [List.map_map]
      change _ = (List.range s.cpu.front.vl).map (val (u * 1 + 0))
      rw [Nat.mul_one, Nat.add_zero]
      refine List.map_congr_left fun c _ => ?_
      dsimp only [Function.comp]
      rw [Nat.zero_add]
      rfl

/-- The plain loads deliver. -/
theorem vld_delivers {i : Instr} {o : VMOps} {s : State} {val : Nat → Nat → Nat} {p : Place} {kind : Option Tag} {ordered : Bool}
    (hkeep : keepsVstart i = false) (hlen : i.len = 4) (hmay : MayDeliver s o.q.val s.cpu.front.rc s.cpu.front.vl)
    (hturn : s.inTurn i s.cpu.front = true) (hkind : kindOf i o = kind)
    (hchecks : ∀ body, s.accessChecks i o.q.val p kind body = body s)
    (hidx : (plainLoad s o p kind ordered).idx = indexed i)
    (hrows : indexed i = true → s.cpu.front.rc ≤ (rowsOf s 5).length)
    (hstart : ∀ r c t, (indexed i = true → t.indexRow = (rowsOf s 5).getD r [])
      → t.cpu.front.queueTag 5 = s.cpu.front.queueTag 5
      → elemStart t p (s.vmBase o) (memWidth s o.q.val kind) s.cpu.front.vl r c = startOf i s o (memWidth s o.q.val kind) r c
        ∧ (startOf i s o (memWidth s o.q.val kind) r c).2 < 8)
    (hload : ∀ r c, r < s.cpu.front.rc → c < s.cpu.front.vl → loadedElem i s o r c = some (val r c)) :
    ∃ t, Host.Outcome.next (s.vld i o p kind ordered) = (.next t : Out)
      ∧ Delivers s t { past s t 4 with x := s.cpu.front.x, vstart := 0 } o.q.val
          (if indexed i then tileRows s else 0)
          ((List.range (tileRows s)).map (fun r => (List.range s.cpu.front.vl).map (val r))) := by
  have hgoes := plainLoad_goes (p := p) (ordered := ordered) hmay hkind (fun h => hrows (hidx.symm.trans h))
    (fun r c t hrow => hstart r c t fun h => hrow (hidx.trans h)) hload
  have hdel := hgoes.delivers (i := i) (n := 4) hkeep hlen (fun s => s.cpu.front) (f := s.cpu.front) (fun _ _ _ _ _ => rfl) rfl rfl
  refine ⟨_, rfl, ?_⟩
  unfold State.vld State.inOrder
  dsimp only
  rw [if_pos hturn, hchecks]
  have hreads : jobReads (plainLoad s o p kind ordered) = tileRows s := by
    unfold jobReads tileRows
    change (if s.cpu.front.vl = 0 then 0 else s.cpu.front.rc * 1) = _
    rw [Nat.mul_one]
  have hwidth : (plainLoad s o p kind ordered).width = 1 := rfl
  rw [hreads, hwidth, Nat.mul_one, hidx] at hdel
  exact hdel

theorem plainLoads_cases {i : Instr} {o : VMOps} (h : plainLoads i = some o) : i = .vldU o ∨ i = .vldS o ∨ i = .vldX o ∨ i = .vldXO o := by
  unfold plainLoads at h
  split at h
  · exact .inl (congrArg Instr.vldU (Option.some.inj h))
  · exact .inr (.inl (congrArg Instr.vldS (Option.some.inj h)))
  · exact .inr (.inr (.inl (congrArg Instr.vldX (Option.some.inj h))))
  · exact .inr (.inr (.inr (congrArg Instr.vldXO (Option.some.inj h))))
  · cases h

/-- Where an indexed form's element stands: at A plus its index, scaled. -/
def indexStart (s : State) (o : VMOps) (r c : Nat) : Nat × Nat :=
  ((((s.vmBase o : Nat) + tint (s.cpu.front.queueTag 5) (((rowsOf s 5).getD r []).getD c 0) * 2 ^ o.sub.val : Int) % 2 ^ 64).toNat, 0)

theorem elemStart_index {s t : State} {o : VMOps} {wm r c : Nat} (hrow : t.indexRow = (rowsOf s 5).getD r [])
    (htag : t.cpu.front.queueTag 5 = s.cpu.front.queueTag 5) :
    elemStart t (.index o.sub.val) (s.vmBase o) wm s.cpu.front.vl r c = indexStart s o r c ∧ (indexStart s o r c).2 < 8 := by
  unfold elemStart
  dsimp only
  rw [hrow, htag]
  exact ⟨rfl, Nat.zero_lt_succ 7⟩

/-- Where an element of a strided form stands. -/
theorem elemStart_stride {s t : State} {o : VMOps} {wm r c : Nat} {z : Nat × Nat}
    (hz : z = ((((s.vmBase o : Nat) + (r * s.cpu.front.vl + c : Nat) * (s.getX o.xb).toInt : Int) % 2 ^ 64).toNat, 0)) :
    elemStart t (s.strideOf o) (s.vmBase o) wm s.cpu.front.vl r c = z ∧ z.2 < 8 := by
  rw [hz]
  exact ⟨rfl, Nat.zero_lt_succ 7⟩

theorem elemStart_dense {s t : State} {o : VMOps} {wm r c : Nat} {z : Nat × Nat}
    (hz : z = ((s.vmBase o + (r * s.cpu.front.vl + c) * wm / 8) % 2 ^ 64, (r * s.cpu.front.vl + c) * wm % 8)) :
    elemStart t .dense (s.vmBase o) wm s.cpu.front.vl r c = z ∧ z.2 < 8 := by
  rw [hz]
  exact ⟨rfl, Nat.mod_lt _ (by omega)⟩

/-- Every plain load delivers. -/
theorem plainLoads_deliver {i : Instr} {o : VMOps} {s : State} {val : Nat → Nat → Nat} (hi : plainLoads i = some o)
    (hmay : MayDeliver s o.q.val s.cpu.front.rc s.cpu.front.vl) (htags : FormTags i s o.q.val o)
    (hload : ∀ r c, r < s.cpu.front.rc → c < s.cpu.front.vl → loadedElem i s o r c = some (val r c)) :
    ∃ t, exec i s = .next t
      ∧ Delivers s t { past s t 4 with x := s.cpu.front.x, vstart := 0 } o.q.val
          (if indexed i then tileRows s else 0)
          ((List.range (tileRows s)).map (fun r => (List.range s.cpu.front.vl).map (val r))) := by
  obtain ⟨-, he8, hidx, hwhole⟩ := htags
  have hturn := State.inTurn_nil s i s.cpu.front hmay.1
  rcases plainLoads_cases hi with rfl | rfl | rfl | rfl
  · exact vld_delivers (p := .dense) (ordered := false) rfl rfl hmay hturn rfl
      (fun body => accessChecks_of_tags body he8 (by simp) (by simp)) rfl (by intro h; cases h)
      (fun r c t _ _ => elemStart_dense rfl) hload
  · exact vld_delivers (p := s.strideOf o) (ordered := false) rfl rfl hmay hturn rfl
      (fun body => accessChecks_of_tags body he8 (by simp [State.strideOf]) fun _ => hwhole (.inr (.inl rfl))) rfl
      (by intro h; cases h) (fun r c t _ _ => elemStart_stride rfl) hload
  · exact vld_delivers (p := .index o.sub.val) (ordered := false) rfl rfl hmay hturn rfl
      (fun body => accessChecks_of_tags body he8 (fun _ _ => (hidx rfl).1) fun _ => hwhole (.inl rfl)) rfl
      (fun h => (hidx h).2) (fun r c t hrow htag => elemStart_index (hrow rfl) htag) hload
  · exact vld_delivers (p := .index o.sub.val) (ordered := true) rfl rfl hmay hturn rfl
      (fun body => accessChecks_of_tags body he8 (fun _ _ => (hidx rfl).1) fun _ => hwhole (.inl rfl)) rfl
      (fun h => (hidx h).2) (fun r c t hrow htag => elemStart_index (hrow rfl) htag) hload

/-! The record load (R243). -/

theorem segFields_eq (xb n : Nat) : segFields xb n = (List.range n).map (fun k =>
    ((xb / 2 ^ (4 * k)) % 16 + 1, ((List.range k).map (fun j => (xb / 2 ^ (4 * j)) % 16 + 1)).sum)) := by
  have hw : ∀ k, bitsOf xb (4 * k + 3) (4 * k) + 1 = (xb / 2 ^ (4 * k)) % 16 + 1 := fun k => by
    unfold bitsOf
    rw [show 4 * k + 3 + 1 - 4 * k = 4 by omega]
    rfl
  unfold segFields
  induction n with
  | zero => rfl
  | succ n ih =>
    rw [List.range_succ, List.map_append, List.foldl_append, ih, List.map_append]
    simp only [List.map_map, List.map_cons, List.map_nil, List.foldl_cons, List.foldl_nil, hw, Function.comp_def]

theorem segFields_record (s : State) (o : VMOps) : segFields (s.getU o.xb) (o.sub.val + 1) = recordFields s o := segFields_eq _ _

/-- A field of a record lies inside it. -/
theorem field_le {s : State} {o : VMOps} {k : Nat} (hk : k ≤ o.sub.val) :
    ((recordFields s o).getD k (1, 0)).2 + ((recordFields s o).getD k (1, 0)).1 ≤ recordWidth s o
      ∧ 0 < ((recordFields s o).getD k (1, 0)).1 ∧ ((recordFields s o).getD k (1, 0)).1 ≤ 16 := by
  have hget : (recordFields s o).getD k (1, 0) = ((s.getU o.xb / 2 ^ (4 * k)) % 16 + 1,
      ((List.range k).map (fun j => (s.getU o.xb / 2 ^ (4 * j)) % 16 + 1)).sum) := by
    unfold recordFields
    rw [List.getD_eq_getElem?_getD, List.getElem?_map, List.getElem?_range (by omega)]
    rfl
  have hw : recordWidth s o = ((List.range (o.sub.val + 1)).map (fun j => (s.getU o.xb / 2 ^ (4 * j)) % 16 + 1)).sum := by
    unfold recordWidth recordFields
    rw [List.map_map]
    rfl
  rw [hget, hw]
  dsimp only
  refine ⟨?_, by omega, by omega⟩
  obtain ⟨m, hm⟩ : ∃ m, o.sub.val + 1 = (k + 1) + m := ⟨o.sub.val - k, by omega⟩
  rw [hm, List.range_add, List.map_append, List.sum_append, List.range_succ, List.map_append, List.sum_append]
  simp only [List.map_cons, List.map_nil, List.sum_cons, List.sum_nil]
  omega

/-- The bytes of a field are a run of the record's. -/
theorem bitRange_slice {a lo n m : Nat} (h : lo + n ≤ 8 * m) (hn : 0 < n) :
    bitRange a lo n = ((vaRange a m).drop (lo / 8)).take ((lo + n - 1) / 8 - lo / 8 + 1) := by
  unfold bitRange vaRange
  refine List.ext_getElem? fun k => ?_
  rw [List.getElem?_map, List.getElem?_take, List.getElem?_drop, List.getElem?_map]
  by_cases hk : k < (lo + n - 1) / 8 - lo / 8 + 1
  · rw [if_pos hk, List.getElem?_range hk, List.getElem?_range (by omega)]
    dsimp only [Option.map_some]
    rw [Nat.add_assoc]
  · rw [if_neg hk, List.getElem?_eq_none (by rw [List.length_range]; omega)]
    rfl

theorem accessBytes_slice {s : State} {c : Ctx} {k : Access} {b : Bool} {vas pas : List Nat} (h : s.accessBytes c k b vas = .ok pas)
    (m n : Nat) : s.accessBytes c k b ((vas.drop m).take n) = .ok ((pas.drop m).take n) :=
  (s.accessBytes_ok c k b _ _).mpr (List.forall₂_take n (List.forall₂_drop m ((s.accessBytes_ok c k b _ _).mp h)))

theorem leNat_drop (l : List Byte) (m : Nat) : leNat (l.drop m) = leNat l / 2 ^ (8 * m) := by
  rcases Nat.lt_or_ge m l.length with h | h
  · conv_rhs => rw [← List.take_append_drop m l, leNat_append]
    have hlen : (l.take m).length = m := by rw [List.length_take]; omega
    have hlt := leNat_lt (l.take m)
    rw [hlen] at hlt ⊢
    rw [pow_mul, show (2 : Nat) ^ 8 = 256 from rfl, Nat.add_mul_div_left _ _ (by positivity), Nat.div_eq_of_lt hlt, Nat.zero_add]
  · rw [List.drop_eq_nil_of_le h, Nat.div_eq_of_lt]
    · rfl
    · refine lt_of_lt_of_le (leNat_lt l) ?_
      rw [pow_mul]
      exact Nat.pow_le_pow_right (by omega) h

theorem leNat_take (l : List Byte) (m : Nat) : leNat (l.take m) = leNat l % 2 ^ (8 * m) := by
  rcases Nat.lt_or_ge m l.length with h | h
  · conv_rhs => rw [← List.take_append_drop m l, leNat_append]
    have hlen : (l.take m).length = m := by rw [List.length_take]; omega
    have hlt := leNat_lt (l.take m)
    rw [hlen] at hlt ⊢
    rw [pow_mul, show (2 : Nat) ^ 8 = 256 from rfl, Nat.add_mul_mod_self_left, Nat.mod_eq_of_lt hlt]
  · rw [List.take_of_length_le h, Nat.mod_eq_of_lt]
    refine lt_of_lt_of_le (leNat_lt l) ?_
    rw [pow_mul]
    exact Nat.pow_le_pow_right (by omega) h

/-- The bits of a field, from the bytes it lies in and from those of its record. -/
theorem field_bits (l : List Byte) {lo n : Nat} (hn : 0 < n) :
    leNat ((l.drop (lo / 8)).take ((lo + n - 1) / 8 - lo / 8 + 1)) / 2 ^ (lo % 8) % 2 ^ n = leNat l / 2 ^ lo % 2 ^ n := by
  rw [leNat_take, leNat_drop]
  have hlo : 2 ^ lo = 2 ^ (8 * (lo / 8)) * 2 ^ (lo % 8) := by rw [← pow_add, Nat.div_add_mod]
  rw [hlo, ← Nat.div_div_eq_div_mul]
  generalize leNat l / 2 ^ (8 * (lo / 8)) = x
  obtain ⟨d, hd⟩ : ∃ d, 8 * ((lo + n - 1) / 8 - lo / 8 + 1) = lo % 8 + n + d :=
    ⟨8 * ((lo + n - 1) / 8 - lo / 8 + 1) - (lo % 8 + n), by omega⟩
  rw [hd]
  refine Nat.eq_of_testBit_eq fun i => ?_
  simp only [Nat.testBit_mod_two_pow, Nat.testBit_div_two_pow]
  by_cases hi : i < n
  · have : i + lo % 8 < lo % 8 + n + d := by omega
    simp [hi, this]
  · simp [hi]

/-- The integer write of a saturated integer (R91). -/
theorem intWrite_sat (t : Tag) (z : Int) : (intWrite t true z).1 = ((max (rangeOf t).1 (min (rangeOf t).2 z)) % 2 ^ tagW t).toNat := by
  have hmin : tagMin t = (rangeOf t).1 := by unfold tagMin rangeOf; split <;> rfl
  have hmax : tagMax t = (rangeOf t).2 := by unfold tagMax rangeOf; split <;> rfl
  have hle : (rangeOf t).1 ≤ (rangeOf t).2 := by
    unfold rangeOf
    have hp : (0 : Int) < 2 ^ (tagW t - 1) := by positivity
    have hq : (0 : Int) < 2 ^ tagW t := by positivity
    split
    · dsimp only
      omega
    · dsimp only
      omega
  unfold intWrite
  rw [hmin, hmax]
  split
  next h =>
    rw [if_pos rfl, min_eq_right (by omega), max_eq_left (by omega)]
    rfl
  next h =>
    split
    next h2 =>
      rw [if_pos rfl, min_eq_left (by omega), max_eq_right hle]
      rfl
    next h2 =>
      rw [min_eq_right (by omega), max_eq_right (by omega)]
      rfl

theorem fieldInt_congr (t : Tag) {n p q : Nat} (h : p % 2 ^ n = q % 2 ^ n) : fieldInt t n p = fieldInt t n q := by
  unfold fieldInt
  split
  · refine congrArg BitVec.toInt (BitVec.eq_of_toNat_eq ?_)
    rw [BitVec.toNat_ofNat, BitVec.toNat_ofNat, h]
  · rw [h]

/-- A field read, as its integer under the queue's tag (R243). -/
theorem segLoad_eq (t : Tag) (n p : Nat) :
    segLoad t n p = ((max (rangeOf t).1 (min (rangeOf t).2 (fieldInt t n p))) % 2 ^ tagW t).toNat := by
  have hf : (if tagSigned t then sgn n p else ((p % 2 ^ n : Nat) : Int)) = fieldInt t n p := by
    unfold fieldInt
    rw [sgn_eq_toInt]
  unfold segLoad
  rw [hf, intWrite_sat]

/-- No record faults. -/
theorem firstFault_none {s : State} {addrs : Nat → List Nat} (n k : Nat)
    (h : ∀ c, c < n → ∃ pas, s.accessBytes s.cpu.ctx .load false (addrs (k + c)) = .ok pas) : s.firstFault addrs n k = none := by
  induction n generalizing k with
  | zero => rfl
  | succ n ih =>
    obtain ⟨pas, hp⟩ := h 0 (Nat.zero_lt_succ n)
    rw [Nat.add_zero] at hp
    unfold State.firstFault
    rw [hp]
    refine ih (k + 1) fun c hc => ?_
    rw [Nat.add_assoc, Nat.add_comm 1 c]
    exact h (c + 1) (by omega)

/-- A record's bytes as `recordAt` counts them are those of the model's record load. -/
theorem record_bytes (a n : Nat) : (List.range n).map (fun k => (a + k) % 2 ^ 64) = vaRange a n := rfl

/-- The elements that a field of a row of records gives. -/
def recordSpec (s : State) (o : VMOps) (r k : Nat) : ElemSpec where
  addrs c := bitRange (recordAt s o r c) ((recordFields s o).getD k (1, 0)).2 ((recordFields s o).getD k (1, 0)).1
  atoms c := if ((recordFields s o).getD k (1, 0)).2 % 8 = 0
      && atomicElem ((recordFields s o).getD k (1, 0)).1
        (bitRange (recordAt s o r c) ((recordFields s o).getD k (1, 0)).2 ((recordFields s o).getD k (1, 0)).1)
    then [(0, ((recordFields s o).getD k (1, 0)).1 / 8)] else []
  vals _ l := [segLoad (s.cpu.front.queueTag o.q.val) ((recordFields s o).getD k (1, 0)).1
    (leNat l / 2 ^ (((recordFields s o).getD k (1, 0)).2 % 8))]

/-- The read of a field of a row of records, from its first column on. -/
def recordRead (s : State) (o : VMOps) (t : State) (r k : Nat) : RowRead :=
  let bad := if k = 0 then t.firstFault (fun c => vaRange (recordAt s o r c) (recordWidth s o / 8)) s.cpu.front.vl 0 else none
  let rd := t.readElems t.openStrip none (recordSpec s o r k) ((bad.map (fun e => e.1)).getD s.cpu.front.vl) 0
  { rd with fault := rd.fault.or (bad.map (fun e => e.2)) }

/-- VLD.SEG of records that all stand in readable memory goes through. -/
theorem segJob_goes {o : VMOps} {s : State} {val : Nat → Nat → Nat → Nat}
    (hmay : MayDeliver s o.q.val (s.cpu.front.rc * (o.sub.val + 1)) s.cpu.front.vl) (hwhole : recordWidth s o % 8 = 0)
    (hload : ∀ r c k, r < s.cpu.front.rc → c < s.cpu.front.vl → k ≤ o.sub.val →
      ∃ l, memoryAt s (vaRange (recordAt s o r c) (recordWidth s o / 8)) = some l
        ∧ val r k c = segLoad (s.cpu.front.queueTag o.q.val) ((recordFields s o).getD k (1, 0)).1
            (leNat l / 2 ^ ((recordFields s o).getD k (1, 0)).2)) :
    LoadGoes s (segJob s o) (fun n => (List.range s.cpu.front.vl).map (val (n / (o.sub.val + 1)) (n % (o.sub.val + 1)))) := by
  obtain ⟨hin, hv, hpart, hsub, hroom, hstrip⟩ := hmay
  have hreads : (segJob s o).reads = o.sub.val + 1 := by
    change (segFields (s.getU o.xb) (o.sub.val + 1)).length = _
    rw [segFields_eq, List.length_map, List.length_range]
  refine ⟨o.q.isLt, hin, hv, hpart, hsub, by rw [hreads]; omega, Nat.one_pos, fun n => ?_, ?_, fun hi => (by cases hi),
    fun _ _ _ _ => rfl, ?_⟩
  · rw [List.length_map, List.length_range]
    rfl
  · rw [hreads]
    change _ + s.cpu.front.rc * (o.sub.val + 1) * 1 * _ ≤ _
    rw [Nat.mul_one]
    exact hroom
  · intro u t hu ht
    rw [hreads] at hu ⊢
    have hr : u / (o.sub.val + 1) < s.cpu.front.rc := Nat.div_lt_of_lt_mul (by rw [Nat.mul_comm]; exact hu)
    have hk : u % (o.sub.val + 1) ≤ o.sub.val := Nat.lt_succ_iff.mp (Nat.mod_lt _ (Nat.succ_pos _))
    generalize hre : u / (o.sub.val + 1) = r at hr ⊢
    generalize hke : u % (o.sub.val + 1) = k at hk ⊢
    obtain ⟨v, qs, n, l2, tick, rfl⟩ : ∃ v qs n l2 tick, t = s.onLoad v qs n l2 tick := ⟨_, ht.shape⟩
    have hrec : ∀ k c, k ≤ o.sub.val → c < s.cpu.front.vl → ∃ pas, (s.onLoad v qs n l2 tick).accessBytes s.cpu.ctx .load false
        (vaRange (recordAt s o r c) (recordWidth s o / 8)) = .ok pas
        ∧ val r k c = segLoad (s.cpu.front.queueTag o.q.val) ((recordFields s o).getD k (1, 0)).1
            (leNat (pas.map (s.physByte s.cpu.id.die)) / 2 ^ ((recordFields s o).getD k (1, 0)).2) := fun k c hk hc => by
      obtain ⟨l, hl, hval⟩ := hload r c k hr hc hk
      obtain ⟨pas, hacc, -, rfl⟩ := memoryAt_eq hl
      exact ⟨pas, by rw [accessBytes_onLoad]; exact hacc, hval⟩
    have hbad : (s.onLoad v qs n l2 tick).firstFault (fun c => vaRange (recordAt s o r c) (recordWidth s o / 8)) s.cpu.front.vl 0 = none :=
      firstFault_none _ _ fun c hc => by
        obtain ⟨pas, hacc, -⟩ := hrec 0 (0 + c) (Nat.zero_le _) (by omega)
        exact ⟨pas, hacc⟩
    obtain ⟨pas, hread⟩ := readElems_nil (s := s.onLoad v qs n l2 tick) (v := fun c => [val r k c]) (e := recordSpec s o r k) none
      s.cpu.front.vl 0 (fun c hc => by
        rw [Nat.zero_add]
        obtain ⟨pas, hacc, hval⟩ := hrec k c hk hc
        obtain ⟨hle, hpos, -⟩ := field_le (s := s) hk
        refine ⟨(pas.drop (((recordFields s o).getD k (1, 0)).2 / 8)).take ((((recordFields s o).getD k (1, 0)).2
          + ((recordFields s o).getD k (1, 0)).1 - 1) / 8 - ((recordFields s o).getD k (1, 0)).2 / 8 + 1), ?_, ?_⟩
        · unfold recordSpec
          dsimp only
          rw [bitRange_slice (m := recordWidth s o / 8) (by omega) hpos]
          exact accessBytes_slice hacc _ _
        · unfold recordSpec
          dsimp only
          rw [hval, segLoad_eq, segLoad_eq, List.map_take, List.map_drop, fieldInt_congr _ (field_bits _ hpos)]
          rfl)
    refine ⟨(List.range s.cpu.front.vl).map (fun c => [val r k (0 + c)]), pas, ?_, ?_, ?_⟩
    · have hjob : (segJob s o).read (s.onLoad v qs n l2 tick) r k 0
          = recordRead s o (s.onLoad v qs n l2 tick) r k := by
        unfold segJob recordRead recordSpec recordWidth
        rw [segFields_record]
        rfl
      rw [hjob]
      unfold recordRead
      rw [hbad, ite_self]
      have hopen : (s.onLoad v qs n l2 tick).openStrip = [] := hstrip
      rw [hopen]
      dsimp only [Option.map_none, Option.getD_none]
      rw [hread]
      rfl
    · rw [List.length_map, List.length_range]
      rfl
    · intro m hm
      obtain rfl : m = 0 := Nat.lt_one_iff.mp hm
      have hu1 : u * (segJob s o).width + 0 = u := Nat.mul_one u
      rw [hu1, hre, hke, List.map_map]
      refine List.map_congr_left fun c _ => ?_
      dsimp only [Function.comp]
      rw [Nat.zero_add]
      rfl

/-- The record load delivers. -/
theorem vldSeg_delivers {o : VMOps} {s : State} {val : Nat → Nat → Nat → Nat}
    (hmay : MayDeliver s o.q.val (s.cpu.front.rc * (o.sub.val + 1)) s.cpu.front.vl)
    (hint : tagIsInt (s.cpu.front.queueTag o.q.val) = true) (hwhole : recordWidth s o % 8 = 0)
    (hload : ∀ r c k, r < s.cpu.front.rc → c < s.cpu.front.vl → k ≤ o.sub.val →
      ∃ l, memoryAt s (vaRange (recordAt s o r c) (recordWidth s o / 8)) = some l
        ∧ val r k c = segLoad (s.cpu.front.queueTag o.q.val) ((recordFields s o).getD k (1, 0)).1
            (leNat l / 2 ^ ((recordFields s o).getD k (1, 0)).2)) :
    ∃ t, exec (.vldSeg o) s = .next t
      ∧ Delivers s t { past s t 4 with x := s.cpu.front.x, vstart := 0 } o.q.val 0
          ((List.range (tileRows s * (o.sub.val + 1))).map (fun n =>
            (List.range s.cpu.front.vl).map (val (n / (o.sub.val + 1)) (n % (o.sub.val + 1))))) := by
  have hdel := (segJob_goes hmay hwhole hload).delivers (i := .vldSeg o) (n := 4) rfl rfl (fun s => s.cpu.front) (f := s.cpu.front)
    (fun _ _ _ _ _ => rfl) rfl rfl
  refine ⟨s.loadJob (.vldSeg o) (segJob s o) (fun s => s.cpu.front), ?_, ?_⟩
  · change execVldSeg o s = _
    unfold execVldSeg State.inOrder State.segChecks
    rw [if_pos (State.inTurn_nil _ _ _ hmay.1)]
    dsimp only
    have hwidth : segWidth (segFields (s.getU o.xb) (o.sub.val + 1)) = recordWidth s o := by
      rw [segFields_record]
      rfl
    rw [hint, Bool.not_true, if_neg Bool.false_ne_true, hwidth, hwhole, if_neg (by simp)]
  · have hreads : (segJob s o).reads = o.sub.val + 1 := by
      change (segFields (s.getU o.xb) (o.sub.val + 1)).length = _
      rw [segFields_eq, List.length_map, List.length_range]
    have hjob : jobReads (segJob s o) * (segJob s o).width = tileRows s * (o.sub.val + 1) := by
      unfold jobReads tileRows
      rw [hreads]
      change (if s.cpu.front.vl = 0 then 0 else s.cpu.front.rc * (o.sub.val + 1)) * 1 = _
      rw [Nat.mul_one]
      split
      · rw [Nat.zero_mul]
      · rfl
    rw [hjob] at hdel
    exact hdel

/-- Settles O36: each read finds its elements, gives one queue row, and there is room for it (`LoadGoes`). -/
theorem plainLoadsDeliver : Obligations.PlainLoadsDeliver := by
  unfold Obligations.PlainLoadsDeliver
  refine ⟨fun i o s val hi hmay htags hload => plainLoads_deliver hi hmay htags hload, fun o s val hmay hint _ hwhole hload =>
    vldSeg_delivers hmay hint hwhole fun r c k hr hc hk => ?_⟩
  obtain ⟨l, hl, hval⟩ := hload r c k hr hc hk
  refine ⟨l, hl, ?_⟩
  rw [segLoad_eq]
  exact hval

end Sys2Proof.Claims
end

section
/-! PROOF. The loads of streams, of the tile before a fault, of forests and of the scratchpad (R178, R179, R186, R245, R246, R336 to R338):
each is a load job whose reads depend on nothing that the load itself changes. -/

namespace Sys2Proof.Claims

open Sys2Proof Sys2Proof.Machine

/-! Streams (R245, R246). -/

section
variable {s : State} (hstrip : s.openStrip = []) (v : Nat) (qs : Vector QState 6) (n : Nat) (l2 : SMap L2Line) (tick : Nat)
include hstrip

theorem vecBytes_onLoad (va m : Nat) : (s.onLoad v qs n l2 tick).vecBytes va m = s.vecBytes va m := by
  unfold State.vecBytes
  rw [accessBytes_onLoad]
  have hopen : (s.onLoad v qs n l2 tick).openStrip = [] := hstrip
  rw [hopen, hstrip]
  rfl

theorem scout_onLoad (m a : Nat) (pas : List Nat) : (s.onLoad v qs n l2 tick).scout m a pas = s.scout m a pas := by
  induction m generalizing a pas with
  | zero =>
    unfold State.scout
    rw [vecBytes_onLoad hstrip]
  | succ m ih =>
    unfold State.scout
    rw [vecBytes_onLoad hstrip]
    simp only [ih]

theorem chunkAt_onLoad (a : Nat) (cache : Option (Nat × Chunk × List Bool)) (k : Nat) :
    (s.onLoad v qs n l2 tick).chunkAt a cache k = s.chunkAt a cache k := by
  unfold State.chunkAt State.chunkBits
  simp only [scout_onLoad hstrip, vecBytes_onLoad hstrip]

theorem readStream_onLoad (t : Tag) (a : Nat) (cache : Option (Nat × Chunk × List Bool)) (m e : Nat) :
    (s.onLoad v qs n l2 tick).readStream t a cache m e = s.readStream t a cache m e := by
  induction m generalizing cache e with
  | zero => rfl
  | succ m ih =>
    have hopen : (s.onLoad v qs n l2 tick).openStrip = [] := hstrip
    unfold State.readStream
    simp only [chunkAt_onLoad hstrip, ih, accessBytes_onLoad, hopen, hstrip]
    rfl

end

/-- The stream's load: rows of elements on from the offset. -/
def streamLoad (s : State) (o : VMOps) : LoadJob where
  q := o.q.val
  rows := s.cpu.front.rc
  len := s.cpu.front.vl
  read := fun t r _ c0 => t.readStream (s.cpu.front.queueTag o.q.val) (s.vmBase o) none (s.cpu.front.vl - c0)
    (s.getU o.xb + r * s.cpu.front.vl + c0)

/-- The stream element that VLD.C stops before. -/
def streamEnd (s : State) (o : VMOps) : Nat := s.getU o.xb + s.cpu.front.rc * s.cpu.front.vl

/-- Where the chunk begins in which the stream goes on. -/
def streamNext (s : State) (o : VMOps) (w : State) : Nat :=
  if streamEnd s o / 4096 = 0 then s.vmBase o
  else (w.scout (streamEnd s o / 4096 - 1) (s.vmBase o) []).toOption.elim (s.vmBase o) (fun c => (c.addr + 520 + c.paylen) % 2 ^ 64)

/-- x[a] and x[b] behind VLD.C. -/
def streamFront (s : State) (o : VMOps) (w : State) : Front :=
  (w.cpu.front.setX o.xa (BitVec.ofNat 64 (streamNext s o w))).setX o.xb (BitVec.ofNat 64 (streamEnd s o % 4096))

theorem loadJob_empty {s : State} (i : Instr) {j : LoadJob} (fin : State → Front) (h : j.rows = 0 ∨ j.len = 0) :
    s.loadJob i j fin = s.finish i (fin s) := by
  unfold State.loadJob
  rw [if_pos (by simpa using h)]

/-- VLD.C runs its load job. -/
theorem vldStream_eq {s : State} (i : Instr) {o : VMOps} (hin : s.cpu.inflight = []) (hoff : s.getU o.xb < 4096) :
    s.vldStream i o = s.loadJob i (streamLoad s o) (streamFront s o) := by
  unfold State.vldStream State.inOrder
  rw [if_pos (State.inTurn_nil _ i _ hin)]
  dsimp only
  rw [if_neg (by omega)]
  have hfin : ∀ w : State, streamFront s o w = (w.cpu.front.setX o.xa (BitVec.ofNat 64
      (if (s.getU o.xb + s.cpu.front.rc * s.cpu.front.vl) / 4096 = 0 then s.vmBase o else
        match w.scout ((s.getU o.xb + s.cpu.front.rc * s.cpu.front.vl) / 4096 - 1) (s.vmBase o) [] with
        | .ok c => if (s.getU o.xb + s.cpu.front.rc * s.cpu.front.vl) / 4096 = 0 then s.vmBase o else (c.addr + 520 + c.paylen) % 2 ^ 64
        | .error _ => s.vmBase o))).setX o.xb (BitVec.ofNat 64 ((s.getU o.xb + s.cpu.front.rc * s.cpu.front.vl) % 4096)) := fun w => by
    unfold streamFront streamNext streamEnd
    by_cases he : (s.getU o.xb + s.cpu.front.rc * s.cpu.front.vl) / 4096 = 0
    · rw [if_pos he, if_pos he]
    · rw [if_neg he, if_neg he]
      cases w.scout ((s.getU o.xb + s.cpu.front.rc * s.cpu.front.vl) / 4096 - 1) (s.vmBase o) [] with
      | error f => rfl
      | ok c =>
        dsimp only
        rw [if_neg he]
        rfl
  by_cases hn : s.cpu.front.rc * s.cpu.front.vl = 0
  · rw [if_pos hn, loadJob_empty i _ (Nat.mul_eq_zero.mp hn)]
    exact congrArg (s.finish i) (hfin s).symm
  · rw [if_neg hn]
    exact congrArg (s.loadJob i (streamLoad s o)) (funext fun w => (hfin w).symm)

theorem streamFront_onLoad {s : State} (hstrip : s.openStrip = []) (o : VMOps) (v : Nat) (qs : Vector QState 6) (n : Nat)
    (l2 : SMap L2Line) (tick : Nat) : { streamFront s o (s.onLoad v qs n l2 tick) with vstart := 0 } = { streamFront s o s with vstart := 0 } := by
  have hnext : streamNext s o (s.onLoad v qs n l2 tick) = streamNext s o s := by
    unfold streamNext
    rw [scout_onLoad hstrip]
  unfold streamFront
  rw [hnext]
  unfold Front.setX
  by_cases ha : o.xa.val = 0
  · rw [if_pos ha, if_pos ha]
    by_cases hb : o.xb.val = 0
    · rw [if_pos hb, if_pos hb]
      rfl
    · rw [if_neg hb, if_neg hb]
      rfl
  · rw [if_neg ha, if_neg ha]
    by_cases hb : o.xb.val = 0
    · rw [if_pos hb, if_pos hb]
      rfl
    · rw [if_neg hb, if_neg hb]
      rfl

theorem setX_kept (f : Front) (r : Reg) (v : W64) : (f.setX r v).pc = f.pc ∧ (f.setX r v).instret = f.instret := by
  rw [Front.setX_eq]
  exact ⟨rfl, rfl⟩

theorem streamLoad_goes {o : VMOps} {s : State} {val : Nat → Nat → Nat} (hmay : MayDeliver s o.q.val s.cpu.front.rc s.cpu.front.vl)
    (hread : ∀ r, r < s.cpu.front.rc → ∃ pas, s.readStream (s.cpu.front.queueTag o.q.val) (s.vmBase o) none s.cpu.front.vl
      (s.getU o.xb + r * s.cpu.front.vl) = ⟨(List.range s.cpu.front.vl).map (fun c => [val r c]), none, pas, []⟩) :
    LoadGoes s (streamLoad s o) (fun r => (List.range s.cpu.front.vl).map (val r)) := by
  obtain ⟨hin, hv, hpart, hsub, hroom, hstrip⟩ := hmay
  refine ⟨o.q.isLt, hin, hv, hpart, hsub, Nat.one_pos, Nat.one_pos, fun n => ?_, ?_, fun hi => (by cases hi), fun _ _ _ _ => rfl, ?_⟩
  · rw [List.length_map, List.length_range]
    rfl
  · change _ + s.cpu.front.rc * 1 * 1 * _ ≤ _
    rw [Nat.mul_one, Nat.mul_one]
    exact hroom
  · intro u t hu ht
    have hr : u < s.cpu.front.rc := by
      change u < s.cpu.front.rc * 1 at hu
      rwa [Nat.mul_one] at hu
    obtain ⟨v, qs, n, l2, tick, rfl⟩ : ∃ v qs n l2 tick, t = s.onLoad v qs n l2 tick := ⟨_, ht.shape⟩
    obtain ⟨pas, hp⟩ := hread u hr
    have hdiv : u / (streamLoad s o).reads = u := Nat.div_one u
    refine ⟨(List.range s.cpu.front.vl).map (fun c => [val u c]), pas, ?_, ?_, ?_⟩
    · rw [hdiv]
      change (s.onLoad v qs n l2 tick).readStream _ _ _ _ _ = _
      rw [readStream_onLoad hstrip, Nat.sub_zero, Nat.add_zero, hp]
    · rw [List.length_map, List.length_range]
      rfl
    · intro k hk
      obtain rfl : k = 0 := Nat.lt_one_iff.mp hk
      have hu1 : u * (streamLoad s o).width + 0 = u := Nat.mul_one u
      rw [hu1, List.map_map]
      rfl

/-- VLD.C delivers its stream's elements and moves x[a] and x[b] past them. -/
theorem vldC_delivers {o : VMOps} {s : State} {val : Nat → Nat → Nat} (hmay : MayDeliver s o.q.val s.cpu.front.rc s.cpu.front.vl)
    (hoff : s.getU o.xb < 4096)
    (hread : ∀ r, r < s.cpu.front.rc → ∃ pas, s.readStream (s.cpu.front.queueTag o.q.val) (s.vmBase o) none s.cpu.front.vl
      (s.getU o.xb + r * s.cpu.front.vl) = ⟨(List.range s.cpu.front.vl).map (fun c => [val r c]), none, pas, []⟩) :
    ∃ t, exec (.vldC o) s = .next t
      ∧ Delivers s t { streamFront s o s with pc := s.cpu.front.pc + 4, vstart := 0 } o.q.val 0
          ((List.range (tileRows s)).map (fun r => (List.range s.cpu.front.vl).map (val r))) := by
  have hdel := (streamLoad_goes hmay hread).delivers (i := .vldC o) (n := 4) rfl rfl (streamFront s o) (f := streamFront s o s)
    (streamFront_onLoad hmay.2.2.2.2.2 o) 
    ((setX_kept _ _ _).1.trans (setX_kept _ _ _).1) ((setX_kept _ _ _).2.trans (setX_kept _ _ _).2)
  refine ⟨s.loadJob (.vldC o) (streamLoad s o) (streamFront s o), ?_, ?_⟩
  · change execVldC o s = _
    unfold execVldC
    rw [vldStream_eq _ hmay.1 hoff]
  · have hjob : jobReads (streamLoad s o) * (streamLoad s o).width = tileRows s := by
      unfold jobReads tileRows
      change (if s.cpu.front.vl = 0 then 0 else s.cpu.front.rc * 1) * 1 = _
      rw [Nat.mul_one, Nat.mul_one]
    rw [hjob] at hdel
    exact hdel

/-! The tile before the first fault (R186). -/

theorem vaRange_mod (a n : Nat) : vaRange (a % 2 ^ 64) n = vaRange a n :=
  List.map_congr_left fun k _ => by rw [Nat.mod_add_mod]

/-- The bytes of an element of VLD.FF, as the model counts them. -/
theorem firstBytes_eq (s : State) (o : VMOps) (k : Nat) :
    let wm := memWidth s o.q.val (memTag o.sub.val)
    firstBytes s o k = bitRange ((s.vmBase o + k * wm / 8) % 2 ^ 64) (k * wm % 8) wm
      ∧ firstBytes s o k = bitRange (s.vmBase o + k * wm / 8) (k * wm % 8) wm := by
  intro wm
  have hlt : k * wm % 8 < 8 := Nat.mod_lt _ (by omega)
  have hpos : 0 < wm := tagW_pos _
  have hfirst : firstBytes s o k = bitRange ((s.vmBase o + k * wm / 8) % 2 ^ 64) (k * wm % 8) wm := (bitRange_eq hlt hpos).symm
  refine ⟨hfirst, hfirst.trans ?_⟩
  unfold bitRange
  rw [Nat.div_eq_of_lt hlt, Nat.add_zero, vaRange_mod]
  rfl

/-- The first element that faults is found. -/
theorem firstFault_some {s : State} {addrs : Nat → List Nat} {e : AccFault} (n k m : Nat) (hm : m < n)
    (h : ∀ c, c < m → ∃ pas, s.accessBytes s.cpu.ctx .load false (addrs (k + c)) = .ok pas)
    (he : s.accessBytes s.cpu.ctx .load false (addrs (k + m)) = .error e) : s.firstFault addrs n k = some (k + m, e) := by
  induction m generalizing n k with
  | zero =>
    obtain ⟨n, rfl⟩ : ∃ n', n = n' + 1 := ⟨n - 1, by omega⟩
    rw [Nat.add_zero] at he ⊢
    unfold State.firstFault
    rw [he]
    rfl
  | succ m ih =>
    obtain ⟨n, rfl⟩ : ∃ n', n = n' + 1 := ⟨n - 1, by omega⟩
    obtain ⟨pas, hp⟩ := h 0 (Nat.zero_lt_succ m)
    rw [Nat.add_zero] at hp
    unfold State.firstFault
    rw [hp]
    dsimp only
    rw [show k + (m + 1) = k + 1 + m by omega] at he ⊢
    refine ih n (k + 1) (by omega) (fun c hc => ?_) he
    rw [Nat.add_assoc, Nat.add_comm 1 c]
    exact h (c + 1) (by omega)

/-- The front under a settled tile: ffi, vl and rc. -/
def tileFront (f : Front) (z : Nat × Nat × Nat) : Front := { f with ffi := z.1, vl := z.2.1, rc := z.2.2 }

/-- The load of a settled tile. -/
def tileLoad (s : State) (o : VMOps) (z : Nat × Nat × Nat) : LoadJob :=
  { plainLoad (s.setFront (tileFront s.cpu.front z)) o .dense (memTag o.sub.val) false with cont := fun f => tileFront f z }

theorem tileLoad_read (s : State) (o : VMOps) (z : Nat × Nat × Nat) : (tileLoad s o z).read = fun t r _ c0 =>
    t.readElems t.openStrip none (plainSpec t .dense (s.vmBase o) (memWidth s o.q.val (memTag o.sub.val)) z.2.1 r
      (loadConvert s.cpu.front.rm (memTag o.sub.val) (s.cpu.front.queueTag o.q.val))) (z.2.1 - c0) c0 := by
  unfold tileLoad plainLoad memWidth
  cases memTag o.sub.val with
  | none => rfl
  | some m => rfl

/-- A settled tile whose elements all stand in readable memory goes through. -/
theorem tileLoad_goes {o : VMOps} {s : State} {z : Nat × Nat × Nat} {val : Nat → Nat}
    (hmay : MayDeliver s o.q.val z.2.2 z.2.1) (d : Option Nat)
    (hload : ∀ k, k < z.2.2 * z.2.1 → ∃ l, memoryAt s (firstBytes s o k) = some l ∧
      loadConvert s.cpu.front.rm (memTag o.sub.val) (s.cpu.front.queueTag o.q.val)
        (leNat l / 2 ^ (k * memWidth s o.q.val (memTag o.sub.val) % 8) % 2 ^ memWidth s o.q.val (memTag o.sub.val)) = val k) :
    LoadGoes { s with cpu := { s.cpu with due := d } } (tileLoad s o z)
      (fun r => (List.range z.2.1).map (fun c => val (r * z.2.1 + c))) := by
  obtain ⟨hin, hv, hpart, hsub, hroom, hstrip⟩ := hmay
  refine ⟨o.q.isLt, hin, hv, hpart, hsub, Nat.one_pos, Nat.one_pos, fun n => ?_, ?_, fun hi => (by cases hi), fun _ _ _ _ => rfl, ?_⟩
  · rw [List.length_map, List.length_range]
    rfl
  · change _ + z.2.2 * 1 * 1 * _ ≤ _
    rw [Nat.mul_one, Nat.mul_one]
    exact hroom
  · intro u t hu ht
    have hr : u < z.2.2 := by
      change u < z.2.2 * 1 at hu
      rwa [Nat.mul_one] at hu
    obtain ⟨v, qs, n, l2, tick, rfl⟩ : ∃ v qs n l2 tick, t = State.onLoad { s with cpu := { s.cpu with due := d } } v qs n l2 tick :=
      ⟨_, ht.shape⟩
    have hacc : (State.onLoad { s with cpu := { s.cpu with due := d } } v qs n l2 tick).accessBytes = s.accessBytes :=
      (accessBytes_onLoad _ v qs n l2 tick).trans (accessBytes_congr rfl rfl rfl)
    obtain ⟨pas, hread⟩ := readElems_nil (s := State.onLoad { s with cpu := { s.cpu with due := d } } v qs n l2 tick)
      (v := fun c => [val (u * z.2.1 + c)])
      (e := plainSpec (State.onLoad { s with cpu := { s.cpu with due := d } } v qs n l2 tick) .dense (s.vmBase o)
        (memWidth s o.q.val (memTag o.sub.val)) z.2.1 u
        (loadConvert s.cpu.front.rm (memTag o.sub.val) (s.cpu.front.queueTag o.q.val))) none z.2.1 0 (fun c hc => by
          have hlt : u * z.2.1 + c < z.2.2 * z.2.1 := by
            have := Nat.mul_le_mul_right z.2.1 (Nat.succ_le_of_lt hr)
            rw [Nat.succ_mul] at this
            omega
          obtain ⟨l, hl, hval⟩ := hload _ hlt
          obtain ⟨pas, hp, -, rfl⟩ := memoryAt_eq hl
          rw [(firstBytes_eq s o _).1] at hp
          rw [Nat.zero_add, hacc]
          exact ⟨pas, hp, congrArg (fun x => [x]) hval⟩)
    refine ⟨(List.range z.2.1).map (fun c => [val (u * z.2.1 + (0 + c))]), pas, ?_, ?_, ?_⟩
    · rw [tileLoad_read, show u / (tileLoad s o z).reads = u from Nat.div_one u]
      dsimp only
      have hopen : (State.onLoad { s with cpu := { s.cpu with due := d } } v qs n l2 tick).openStrip = [] := hstrip
      rw [hopen, Nat.sub_zero]
      exact hread
    · rw [List.length_map, List.length_range]
      rfl
    · intro k hk
      obtain rfl : k = 0 := Nat.lt_one_iff.mp hk
      have hu1 : u * (tileLoad s o z).width + 0 = u := Nat.mul_one u
      rw [hu1, List.map_map]
      refine List.map_congr_left fun c _ => ?_
      dsimp only [Function.comp]
      rw [Nat.zero_add]
      rfl

theorem rowBytes_mono (t : Tag) {m n : Nat} (h : m ≤ n) : rowBytes t m ≤ rowBytes t n := by
  unfold rowBytes cdiv
  have := Nat.mul_le_mul_right (tagP t) h
  omega

/-- What VLD.FF settles is a tile inside the tile, before the first fault. -/
theorem settled_le {s : State} {first : Option Nat} (t : Tag) (h : ∀ k, first = some k → 0 < k ∧ k < s.cpu.front.rc * s.cpu.front.vl) :
    (settled s first).2.2 * rowBytes t (settled s first).2.1 ≤ s.cpu.front.rc * rowBytes t s.cpu.front.vl
      ∧ (settled s first).2.2 * (settled s first).2.1 ≤ first.getD (s.cpu.front.rc * s.cpu.front.vl) := by
  unfold settled
  cases first with
  | none => exact ⟨Nat.le_refl _, Nat.le_refl _⟩
  | some k =>
    obtain ⟨-, hk⟩ := h k rfl
    dsimp only [Option.getD_some]
    split
    next hlt =>
      have hrc : 1 ≤ s.cpu.front.rc := Nat.pos_of_ne_zero fun h0 => by rw [h0, Nat.zero_mul] at hk; omega
      exact ⟨Nat.mul_le_mul hrc (rowBytes_mono t hlt.le), (Nat.one_mul k).le⟩
    next hge =>
      have hle : k / s.cpu.front.vl ≤ s.cpu.front.rc := (Nat.div_lt_of_lt_mul (by rw [Nat.mul_comm]; exact hk)).le
      exact ⟨Nat.mul_le_mul_right _ hle, Nat.div_mul_le_self k _⟩

/-- The tile that the model goes on with. -/
theorem ffShape_settled {s : State} {first : Option Nat} (h : ∀ k, first = some k → 0 < k ∧ k < s.cpu.front.rc * s.cpu.front.vl) :
    s.cpu.front.ffShape (s.cpu.front.rc * s.cpu.front.vl) (first.getD (s.cpu.front.rc * s.cpu.front.vl))
      = tileFront s.cpu.front (settled s first) := by
  unfold Front.ffShape settled
  cases first with
  | none =>
    rw [Option.getD_none, if_neg (Nat.lt_irrefl _)]
    rfl
  | some k =>
    obtain ⟨-, hk⟩ := h k rfl
    rw [Option.getD_some, if_pos hk]
    unfold Front.trim
    dsimp only
    split
    · rfl
    · rfl

/-- The first fault among the elements of the tile is the one given. -/
theorem firstFault_tile {s : State} {first : Option Nat} {n : Nat} {addrs : Nat → List Nat}
    (hok : ∀ k, k < first.getD n → ∃ pas, s.accessBytes s.cpu.ctx .load false (addrs k) = .ok pas)
    (hfirst : ∀ k, first = some k → k < n ∧ ∃ e, s.accessBytes s.cpu.ctx .load false (addrs k) = .error e ∧ e.cause = .loadFault) :
    (first = none → s.firstFault addrs n 0 = none)
      ∧ ∀ k, first = some k → ∃ e, s.firstFault addrs n 0 = some (k, e) ∧ e.cause = .loadFault := by
  refine ⟨fun h0 => firstFault_none _ _ fun c hc => ?_, fun k hk => ?_⟩
  · rw [h0] at hok
    rw [Nat.zero_add]
    exact hok c hc
  · obtain ⟨hlt, e, he, hcause⟩ := hfirst k hk
    rw [hk] at hok
    have := firstFault_some (s := s) (addrs := addrs) (e := e) n 0 k hlt (fun c hc => by rw [Nat.zero_add]; exact hok c hc)
      (by rw [Nat.zero_add]; exact he)
    rw [Nat.zero_add] at this
    exact ⟨e, this, hcause⟩

/-- VLD.FF runs the load of the tile that it settles. -/
theorem vldFirst_eq {s : State} (i : Instr) {o : VMOps} {first : Option Nat} (hin : s.cpu.inflight = []) (hv : s.cpu.front.vstart = 0)
    (hdue : s.cpu.due = none) (he8 : ¬(tagE8 (s.cpu.front.queueTag o.q.val) = true ∧ o.sub.val ≠ 0))
    (hfirst : ∀ k, first = some k → 0 < k ∧ k < s.cpu.front.rc * s.cpu.front.vl
      ∧ ∃ e, s.accessBytes s.cpu.ctx .load false (firstBytes s o k) = .error e ∧ e.cause = .loadFault)
    (hload : ∀ k, k < first.getD (s.cpu.front.rc * s.cpu.front.vl) → (memoryAt s (firstBytes s o k)).isSome = true) :
    s.vldFirst i o = State.loadJob { s with cpu := { s.cpu with due := some (first.getD (s.cpu.front.rc * s.cpu.front.vl)) } } i
      (tileLoad s o (settled s first)) (fun w => tileFront w.cpu.front (settled s first)) := by
  have hshape := ffShape_settled (s := s) (first := first) fun k hk => ⟨(hfirst k hk).1, (hfirst k hk).2.1⟩
  have hok : ∀ k, k < first.getD (s.cpu.front.rc * s.cpu.front.vl) → ∃ pas, s.accessBytes s.cpu.ctx .load false
      (bitRange (s.vmBase o + k * memWidth s o.q.val (memTag o.sub.val) / 8) (k * memWidth s o.q.val (memTag o.sub.val) % 8)
        (memWidth s o.q.val (memTag o.sub.val))) = .ok pas := fun k hk => by
    obtain ⟨l, hl⟩ := Option.isSome_iff_exists.mp (hload k hk)
    obtain ⟨pas, hp, -, -⟩ := memoryAt_eq hl
    rw [(firstBytes_eq s o k).2] at hp
    exact ⟨pas, hp⟩
  have hsub : ¬(tagE8 (s.cpu.front.queueTag o.q.val) = true ∧ (memTag o.sub.val).isSome = true) := fun hh => by
    refine he8 ⟨hh.1, fun h0 => ?_⟩
    rw [h0] at hh
    exact Bool.false_ne_true hh.2
  have htile := firstFault_tile hok fun k hk => by
    obtain ⟨-, hlt, e, he, hcause⟩ := hfirst k hk
    rw [(firstBytes_eq s o k).2] at he
    exact ⟨hlt, e, he, hcause⟩
  unfold State.vldFirst State.inOrder
  rw [if_pos (State.inTurn_nil _ i _ hin)]
  dsimp only
  rw [accessChecks_of_tags _ hsub (by simp) (by simp), hdue, hv, Nat.sub_zero]
  unfold memWidth at htile
  unfold tileLoad
  generalize memTag o.sub.val = kind at htile ⊢
  have hnone := htile.1
  have hsome := htile.2
  cases kind with
  | none =>
    dsimp only [Option.getD_none] at hnone hsome ⊢
    cases first with
    | none =>
      rw [hnone rfl]
      dsimp only [Option.getD_none] at hshape ⊢
      rw [hshape]
      rfl
    | some k =>
      obtain ⟨e, he, hcause⟩ := hsome k rfl
      rw [he]
      dsimp only
      rw [hcause, if_pos (by simpa using (hfirst k rfl).1.ne')]
      dsimp only [Option.getD_some] at hshape ⊢
      rw [hshape]
      rfl
  | some m =>
    dsimp only [Option.getD_some] at hnone hsome ⊢
    cases first with
    | none =>
      rw [hnone rfl]
      dsimp only [Option.getD_none] at hshape ⊢
      rw [hshape]
      rfl
    | some k =>
      obtain ⟨e, he, hcause⟩ := hsome k rfl
      rw [he]
      dsimp only
      rw [hcause, if_pos (by simpa using (hfirst k rfl).1.ne')]
      dsimp only [Option.getD_some] at hshape ⊢
      rw [hshape]
      rfl

/-- VLD.FF delivers the tile before the first fault. -/
theorem vldFF_delivers {o : VMOps} {s : State} {first : Option Nat} {val : Nat → Nat}
    (hmay : MayDeliver s o.q.val s.cpu.front.rc s.cpu.front.vl) (hdue : s.cpu.due = none)
    (he8 : ¬(tagE8 (s.cpu.front.queueTag o.q.val) = true ∧ o.sub.val ≠ 0))
    (hfirst : ∀ k, first = some k → 0 < k ∧ k < s.cpu.front.rc * s.cpu.front.vl
      ∧ ∃ e, s.accessBytes s.cpu.ctx .load false (firstBytes s o k) = .error e ∧ e.cause = .loadFault)
    (hload : ∀ k, k < first.getD (s.cpu.front.rc * s.cpu.front.vl) → ∃ l, memoryAt s (firstBytes s o k) = some l ∧
      loadConvert s.cpu.front.rm (memTag o.sub.val) (s.cpu.front.queueTag o.q.val)
        (leNat l / 2 ^ (k * memWidth s o.q.val (memTag o.sub.val) % 8) % 2 ^ memWidth s o.q.val (memTag o.sub.val)) = val k) :
    let z := settled s first
    ∃ t, exec (.vldFF o) s = .next t
      ∧ Delivers s t { past s t 4 with x := s.cpu.front.x, vstart := 0, ffi := z.1, vl := z.2.1, rc := z.2.2 } o.q.val 0
          (if z.2.1 = 0 then []
            else (List.range z.2.2).map (fun r => (List.range z.2.1).map (fun c => val (r * z.2.1 + c)))) := by
  intro z
  obtain ⟨hin, hv, hpart, hsub, hroom, hstrip⟩ := hmay
  obtain ⟨hrows, hcount⟩ := settled_le (s := s) (first := first) (s.cpu.front.queueTag o.q.val)
    fun k hk => ⟨(hfirst k hk).1, (hfirst k hk).2.1⟩
  have hgoes := tileLoad_goes (s := s) (o := o) (z := z) (val := val) ⟨hin, hv, hpart, hsub,
      le_trans (Nat.add_le_add_left hrows _) hroom, hstrip⟩
    (some (first.getD (s.cpu.front.rc * s.cpu.front.vl))) (fun k hk => hload k (lt_of_lt_of_le hk hcount))
  have hdel := hgoes.delivers (i := .vldFF o) (n := 4) rfl rfl (fun w => tileFront w.cpu.front z) (f := tileFront s.cpu.front z)
    (fun _ _ _ _ _ => rfl) rfl rfl
  refine ⟨_, congrArg Host.Outcome.next (vldFirst_eq (.vldFF o) hin hv hdue he8 hfirst fun k hk => ?_), ?_⟩
  · obtain ⟨l, hl, -⟩ := hload k hk
    rw [hl]
    rfl
  · have hjob : jobReads (tileLoad s o z) * (tileLoad s o z).width = if z.2.1 = 0 then 0 else z.2.2 := by
      unfold jobReads
      change (if z.2.1 = 0 then 0 else z.2.2 * 1) * 1 = _
      rw [Nat.mul_one, Nat.mul_one]
    rw [hjob] at hdel
    have hlist : (if z.2.1 = 0 then [] else (List.range z.2.2).map (fun r => (List.range z.2.1).map (fun c => val (r * z.2.1 + c))))
        = (List.range (if z.2.1 = 0 then 0 else z.2.2)).map (fun r => (List.range z.2.1).map (fun c => val (r * z.2.1 + c))) := by
      split
      · rfl
      · rfl
    rw [hlist]
    exact hdel

/-! Forests (R336 to R338). -/

section
variable {s u : State}

/-- Numbers are read through what an engine reaches and what the bytes hold. -/
theorem readNat_congr (hb : u.engineByte = s.engineByte) (hc : u.cpu.ctx = s.cpu.ctx) (hd : u.cpu.id = s.cpu.id)
    (hp : u.physByte = s.physByte) : u.readNat = s.readNat := by
  have hbytes : ∀ c k r l, u.engineBytes c k r l = s.engineBytes c k r l := by
    intro c k r l
    induction l with
    | nil => rfl
    | cons va t ih =>
      unfold State.engineBytes
      rw [hb, ih]
  funext va m
  unfold State.readNat State.engineLoad
  rw [hbytes, hc, hd, hp]

variable (h : u.readNat = s.readNat)
include h

theorem treeWalk_congr (f : Forest) (smp tree fuel m k : Nat) (d : W64) : u.treeWalk f smp tree fuel m k d = s.treeWalk f smp tree fuel m k d := by
  induction fuel generalizing m k d with
  | zero => rfl
  | succ fuel ih =>
    unfold State.treeWalk State.forestDir
    simp only [h, ih]

theorem trees_congr (f : Forest) (smp m t sum : Nat) (d : W64) : u.trees f smp m t sum d = s.trees f smp m t sum d := by
  induction m generalizing t sum d with
  | zero => rfl
  | succ m ih =>
    unfold State.trees
    simp only [h, treeWalk_congr h, ih]

theorem samples_congr (f : Forest) (m smp : Nat) : u.samples f m smp = s.samples f m smp := by
  induction m generalizing smp with
  | zero => rfl
  | succ m ih =>
    unfold State.samples
    simp only [trees_congr h, ih]

end

/-- A load whose first read begins with a note goes on as from behind that note. -/
theorem loadJob_noted {s s' : State} {j : LoadJob} {row : Nat → List Nat} {d : Option Nat} (h : LoadGoes s' j row)
    (hs : s' = { s with cpu := { s.cpu with due := d } }) (hgate : j.gate s 0 0 = .ok s') (hrows : j.rows ≠ 0) (hlen : j.len ≠ 0)
    (i : Instr) (fin : State → Front) : s.loadJob i j fin = s'.loadJob i j fin := by
  have hpos : 0 < j.rows * j.reads := Nat.mul_pos (Nat.pos_of_ne_zero hrows) h.reads
  have hstart := Loaded.start h
  have hgate' := h.gate 0 s' hpos hstart
  rw [Nat.zero_div] at hgate'
  have hidx' := h.index_loaded hpos hstart
  have hroom := h.room_loaded hpos hstart
  have hbytes' : ¬ s'.free j.q < rowBytes (s'.cpu.front.queueTag j.q) j.len := by
    rw [free_of_part h.part]
    have hw := Nat.mul_le_mul_right (rowBytes (s'.cpu.front.queueTag j.q) j.len) h.width
    omega
  have hidx : (j.idx && (s.cpu.back.queue 5).rows.isEmpty) = false := by rw [hs] at hidx'; exact hidx'
  have hbytes : ¬ s.free j.q < rowBytes (s.cpu.front.queueTag j.q) j.len := by rw [hs] at hbytes'; exact hbytes'
  have hread : s.readTileRow i j 0 0 0 = s'.readTileRow i j 0 0 0 := by
    unfold State.readTileRow
    simp only [Nat.zero_mul, Nat.sub_zero, bne_self_eq_false, Bool.false_and, Bool.false_eq_true, if_false, hidx, hidx', hbytes, hbytes',
      List.length_nil, hgate, hgate']
  have hsub' : s'.cpu.back.getSub j.q s'.cpu.front.pc = 0 := by
    unfold Back.getSub
    rw [h.sub, Nat.zero_mod, ite_self]
  have hsub : s.cpu.back.getSub j.q s.cpu.front.pc = 0 := by rw [hs] at hsub'; exact hsub'
  have hv : s.cpu.front.vstart = 0 := by have := h.start; rw [hs] at this; exact this
  have hown' : s'.ownPart j.q = [] := ownPart_of_part h.part
  have hown : s.ownPart j.q = [] := by rw [hs] at hown'; exact hown'
  have hpc : s'.cpu.front.pc = s.cpu.front.pc := by rw [hs]
  obtain ⟨m, hm⟩ : ∃ m, j.rows * j.reads = m + 1 := ⟨j.rows * j.reads - 1, by omega⟩
  have hne : ¬ (decide (j.rows = 0) || decide (j.len = 0)) = true := by simp [hrows, hlen]
  unfold State.loadJob
  rw [if_neg hne, if_neg hne]
  dsimp only
  rw [h.start, hv, hsub, hsub', Nat.zero_div, Nat.zero_mul, Nat.zero_min, Nat.sub_zero, hm]
  unfold Machine.loadRows
  simp only [h.start, hv, hown, hown', hpc, hread, Nat.add_zero, Nat.zero_div, Nat.zero_mul, Nat.zero_mod, Nat.max_self, List.isEmpty_nil, Bool.not_true,
    Bool.false_and, Bool.false_eq_true, if_false]

theorem treeRow_of_noted {t : State} {m a vl c0 smp : Nat} {f : Forest} (hdue : t.cpu.due = some m) (hnote : forestNoted a m = some f) :
    t.treeRow a vl c0 smp = t.samples f (vl - c0) (smp + c0) := by
  unfold State.treeRow
  rw [hdue, Option.bind_some, hnote]

/-- VTREE of a sound forest goes through. -/
theorem treeJob_goes {o : VMOps} {s : State} {m : Nat} {f : Forest} {val : Nat → Nat → List Nat}
    (hmay : MayDeliver s o.q.val (3 * s.cpu.front.rc) s.cpu.front.vl) (hnote : forestNoted (s.vmBase o) m = some f)
    (hsamples : ∀ r, r < s.cpu.front.rc → s.samples f s.cpu.front.vl (s.getU o.xb + r * s.cpu.front.vl)
      = ⟨(List.range s.cpu.front.vl).map (val r), none, [], []⟩) :
    LoadGoes { s with cpu := { s.cpu with due := some m } } (treeJob s o)
      (fun n => (List.range s.cpu.front.vl).map (fun c => (val (n / 3) c).getD (n % 3) 0)) := by
  obtain ⟨hin, hv, hpart, hsub, hroom, hstrip⟩ := hmay
  refine ⟨o.q.isLt, hin, hv, hpart, hsub, Nat.one_pos, (by decide : 0 < 3), fun n => ?_, ?_, fun hi => (by cases hi), fun u t hu ht => ?_, ?_⟩
  · rw [List.length_map, List.length_range]
    rfl
  · change _ + s.cpu.front.rc * 1 * 3 * _ ≤ _
    rw [Nat.mul_one, Nat.mul_comm _ 3]
    exact hroom
  · obtain ⟨v, qs, n, l2, tick, rfl⟩ : ∃ v qs n l2 tick, t = State.onLoad { s with cpu := { s.cpu with due := some m } } v qs n l2 tick :=
      ⟨_, ht.shape⟩
    rfl
  · intro u t hu ht
    have hr : u < s.cpu.front.rc := by
      change u < s.cpu.front.rc * 1 at hu
      rwa [Nat.mul_one] at hu
    obtain ⟨v, qs, n, l2, tick, rfl⟩ : ∃ v qs n l2 tick, t = State.onLoad { s with cpu := { s.cpu with due := some m } } v qs n l2 tick :=
      ⟨_, ht.shape⟩
    refine ⟨(List.range s.cpu.front.vl).map (val u), [], ?_, ?_, ?_⟩
    · rw [show u / (treeJob s o).reads = u from Nat.div_one u]
      change State.treeRow _ (s.vmBase o) s.cpu.front.vl 0 (s.getU o.xb + u * s.cpu.front.vl) = _
      rw [treeRow_of_noted rfl hnote, Nat.sub_zero, Nat.add_zero]
      refine Eq.trans (samples_congr (s := s) ?_ f _ _) (hsamples u hr)
      exact readNat_congr rfl rfl rfl rfl
    · rw [List.length_map, List.length_range]
      rfl
    · intro k hk
      have hk3 : k < 3 := hk
      have hw : (treeJob s o).width = 3 := rfl
      rw [hw, List.map_map, Nat.mul_comm u 3, Nat.mul_add_div (by omega), Nat.div_eq_of_lt hk3, Nat.mul_add_mod, Nat.mod_eq_of_lt hk3]
      rfl

/-- VTREE delivers sums and fingerprints. -/
theorem vtree_delivers {o : VMOps} {s : State} {m : Nat} {f : Forest} {val : Nat → Nat → List Nat} (hdue : s.cpu.due = none)
    (hmay : MayDeliver s o.q.val (3 * s.cpu.front.rc) s.cpu.front.vl)
    (htag : s.cpu.front.queueTag o.q.val = tagInt 32 ∨ s.cpu.front.queueTag o.q.val = tagUint 32) (hforest : s.forest (s.vmBase o) = .ok m)
    (hnote : forestNoted (s.vmBase o) m = some f)
    (hsamples : ∀ r, r < s.cpu.front.rc → s.samples f s.cpu.front.vl (s.getU o.xb + r * s.cpu.front.vl)
      = ⟨(List.range s.cpu.front.vl).map (val r), none, [], []⟩) :
    ∃ t, exec (.vtree o) s = .next t
      ∧ Delivers s t { past s t 4 with x := s.cpu.front.x, vstart := 0 } o.q.val 0
          ((List.range (3 * tileRows s)).map (fun n =>
            (List.range s.cpu.front.vl).map (fun c => (val (n / 3) c).getD (n % 3) 0))) := by
  have hgoes := treeJob_goes hmay hnote hsamples
  have hdel := hgoes.delivers (i := .vtree o) (n := 4) rfl rfl (fun w => w.cpu.front) (f := s.cpu.front) (fun _ _ _ _ _ => rfl) rfl rfl
  have hjob : jobReads (treeJob s o) * (treeJob s o).width = 3 * tileRows s := by
    unfold jobReads tileRows
    change (if s.cpu.front.vl = 0 then 0 else s.cpu.front.rc * 1) * 3 = _
    rw [Nat.mul_one, Nat.mul_comm]
  rw [hjob] at hdel
  have hgate : (treeJob s o).gate s 0 0 = .ok { s with cpu := { s.cpu with due := some m } } := by
    change s.treeGate o (s.vmBase o) = _
    unfold State.treeGate
    rw [hdue, hforest, hmay.2.2.2.2.2]
    rfl
  have hexec : exec (.vtree o) s = .next (s.loadJob (.vtree o) (treeJob s o) (fun w => w.cpu.front)) := by
    change execVtree o s = _
    unfold execVtree
    rw [State.whenOldest_nil _ _ _ hmay.1, if_neg]
    rcases htag with ht | ht
    · simp [ht]
    · simp [ht]
  have hrun : s.loadJob (.vtree o) (treeJob s o) (fun w => w.cpu.front)
      = State.loadJob { s with cpu := { s.cpu with due := some m } } (.vtree o) (treeJob s o) (fun w => w.cpu.front) := by
    by_cases hempty : (treeJob s o).rows = 0 ∨ (treeJob s o).len = 0
    · rw [loadJob_empty _ _ hempty, loadJob_empty _ _ hempty]
      rfl
    · rw [not_or] at hempty
      exact loadJob_noted hgoes rfl hgate hempty.1 hempty.2 _ _
  exact ⟨_, hexec.trans (congrArg _ hrun), hdel⟩

/-! The scratchpad (R178, R179). -/

/-- With no copy under way nothing keeps a place of the scratchpad back (R262, R263). -/
theorem placesGate_ok {w : State} (hops : ∀ k, (w.chan k).ops = []) (herr : ∀ k, k < 8 → (chanOf w k).error = false) (i : Instr) (k : Nat)
    (places : List Nat) : w.placesGate i k places = .ok w := by
  have hneeds : w.needs false 8 (2 ^ 64) places = [] := by
    unfold State.needs
    rw [List.flatMap_eq_nil_iff]
    intro c _
    rw [hops c, List.filterMap_nil, ite_self]
  have hsettle : w.settlePlaces places = w := by
    unfold State.settlePlaces
    rw [hneeds]
    rfl
  unfold State.placesGate
  rw [hsettle]
  dsimp only
  rw [deadPlace_none herr, hneeds]
  rfl

/-- The element of row `u` at column `i`. -/
def scratchElem (s : State) (o : MldqOps) (u i : Nat) : Nat :=
  leNat ((scratchAt s o u i).1.map (fun a => s.cpu.back.spadByte (swz o.code.val a.toNat))) / 2 ^ (scratchAt s o u i).2
    % 2 ^ tagP (s.cpu.front.queueTag o.q.val)

theorem mldqBit_eq (s : State) (o : MldqOps) (u i : Nat) :
    let p := tagP (s.cpu.front.queueTag o.q.val)
    (mldqBytes s o p u i, (mldqBit s o p u i % 8).toNat) = scratchAt s o u i := by
  unfold mldqBytes scratchAt mldqBit
  dsimp only
  rw [sgn_eq_toInt, sgn_eq_toInt, sgn_eq_toInt]
  rfl

theorem mldqRow_eq {s w : State} {o : MldqOps} {u : Nat} (n i : Nat) (hspad : w.cpu.back.spad = s.cpu.back.spad) (hx : w.getU = s.getU)
    (hsize : w.spadSize = s.spadSize)
    (h : ∀ k, k < n → ∀ a ∈ (scratchAt s o u (i + k)).1, 0 ≤ a ∧ a < (s.spadSize : Int)) :
    mldqRow w o (tagP (s.cpu.front.queueTag o.q.val)) u n i
      = ⟨(List.range n).map (fun k => [scratchElem s o u (i + k)]), none, [], []⟩ := by
  induction n generalizing i with
  | zero => rfl
  | succ n ih =>
    have hbit : ∀ i, mldqBit w o (tagP (s.cpu.front.queueTag o.q.val)) u i = mldqBit s o (tagP (s.cpu.front.queueTag o.q.val)) u i := fun i => by
      unfold mldqBit
      rw [hx]
    have hbytes : mldqBytes w o (tagP (s.cpu.front.queueTag o.q.val)) u i = (scratchAt s o u i).1 := by
      rw [← mldqBit_eq]
      unfold mldqBytes
      rw [hbit]
    have hfind : (scratchAt s o u i).1.find? (fun a => decide (a < 0) || decide ((w.spadSize : Int) ≤ a)) = none := by
      rw [List.find?_eq_none]
      intro a ha
      have := h 0 (Nat.zero_lt_succ n) a ha
      rw [hsize]
      simp only [Bool.or_eq_true, decide_eq_true_eq]
      omega
    unfold mldqRow
    rw [hbytes]
    dsimp only
    rw [hfind]
    dsimp only
    rw [ih (i + 1) fun k hk => by rw [Nat.add_right_comm, Nat.add_assoc]; exact h (k + 1) (by omega), hbit,
      List.range_succ_eq_map, List.map_cons, List.map_map]
    have hel : leNat ((scratchAt s o u i).1.map (fun a => w.cpu.back.spadByte (swz o.code.val a.toNat)))
        / 2 ^ (mldqBit s o (tagP (s.cpu.front.queueTag o.q.val)) u i % 8).toNat % 2 ^ tagP (s.cpu.front.queueTag o.q.val)
        = scratchElem s o u i := by
      unfold scratchElem Back.spadByte
      rw [hspad, ← mldqBit_eq]
    rw [hel]
    refine congrArg (RowRead.mk · _ _ _) (congrArg₂ List.cons rfl (List.map_congr_left fun k _ => ?_))
    change _ = [scratchElem s o u (i + (k + 1))]
    rw [Nat.add_right_comm, Nat.add_assoc]

/-- The scratchpad's load. -/
def scratchLoad (s : State) (o : MldqOps) : LoadJob where
  q := o.q.val
  rows := o.k.val * o.t.val
  len := o.n.val
  gate := fun t u c0 => t.placesGate (.mldq o) (max t.cpu.front.vstart (u * o.n.val))
    (mldqPlaces t o (tagP (s.cpu.front.queueTag o.q.val)) u (o.n.val - c0) c0)
  read := fun t u _ c0 => mldqRow t o (tagP (s.cpu.front.queueTag o.q.val)) u (o.n.val - c0) c0

theorem scratchLoad_goes {o : MldqOps} {s : State} (hmay : MayDeliver s o.q.val (o.k.val * o.t.val) o.n.val) (hq : Quiet s)
    (hin : ∀ u i, u < o.k.val * o.t.val → i < o.n.val → ∀ a ∈ (scratchAt s o u i).1, 0 ≤ a ∧ a < (s.spadSize : Int)) :
    LoadGoes s (scratchLoad s o) (fun u => (List.range o.n.val).map (scratchElem s o u)) := by
  obtain ⟨hfl, hv, hpart, hsub, hroom, hstrip⟩ := hmay
  refine ⟨o.q.isLt, hfl, hv, hpart, hsub, Nat.one_pos, Nat.one_pos, fun n => ?_, ?_, fun hi => (by cases hi), fun u t hu ht => ?_, ?_⟩
  · rw [List.length_map, List.length_range]
    rfl
  · change _ + o.k.val * o.t.val * 1 * 1 * _ ≤ _
    rw [Nat.mul_one, Nat.mul_one]
    exact hroom
  · obtain ⟨v, qs, n, l2, tick, rfl⟩ : ∃ v qs n l2 tick, t = s.onLoad v qs n l2 tick := ⟨_, ht.shape⟩
    refine placesGate_ok (w := s.onLoad v qs n l2 tick) ?_ ?_ _ _ _
    · exact fun k => hq.ops k
    · exact fun k hk => (hq.2.1 k hk).2.2
  · intro u t hu ht
    have hr : u < o.k.val * o.t.val := by
      change u < o.k.val * o.t.val * 1 at hu
      rwa [Nat.mul_one] at hu
    obtain ⟨v, qs, n, l2, tick, rfl⟩ : ∃ v qs n l2 tick, t = s.onLoad v qs n l2 tick := ⟨_, ht.shape⟩
    refine ⟨(List.range o.n.val).map (fun k => [scratchElem s o u (0 + k)]), [], ?_, ?_, ?_⟩
    · rw [show u / (scratchLoad s o).reads = u from Nat.div_one u]
      change mldqRow _ _ _ _ (o.n.val - 0) 0 = _
      rw [Nat.sub_zero]
      exact mldqRow_eq _ _ rfl rfl rfl fun k hk => by rw [Nat.zero_add]; exact hin u k hr hk
    · rw [List.length_map, List.length_range]
      rfl
    · intro k hk
      obtain rfl : k = 0 := Nat.lt_one_iff.mp hk
      rw [show u * (scratchLoad s o).width + 0 = u from Nat.mul_one u, List.map_map]
      refine List.map_congr_left fun c _ => ?_
      dsimp only [Function.comp]
      rw [Nat.zero_add]
      rfl

/-- MLDQ delivers elements of the scratchpad. -/
theorem mldq_delivers {o : MldqOps} {s : State} (hmay : MayDeliver s o.q.val (o.k.val * o.t.val) o.n.val) (hq : Quiet s)
    (hstride : tagP (s.cpu.front.queueTag o.q.val) < 8 → (BitVec.ofNat 32 (s.getU o.b)).toInt = 1)
    (hin : ∀ u i, u < o.k.val * o.t.val → i < o.n.val → ∀ a ∈ (scratchAt s o u i).1, 0 ≤ a ∧ a < (s.spadSize : Int)) :
    ∃ t, exec (.mldq o) s = .next t
      ∧ Delivers s t { past s t 8 with x := s.cpu.front.x, vstart := 0 } o.q.val 0
          (if o.n.val = 0 then []
            else (List.range (o.k.val * o.t.val)).map (fun u => (List.range o.n.val).map (scratchElem s o u))) := by
  have hdel := (scratchLoad_goes hmay hq hin).delivers (i := .mldq o) (n := 8) rfl rfl (fun w => w.cpu.front) (f := s.cpu.front)
    (fun _ _ _ _ _ => rfl) rfl rfl
  refine ⟨s.loadJob (.mldq o) (scratchLoad s o) (fun w => w.cpu.front), ?_, ?_⟩
  · change execMldq o s = _
    unfold execMldq State.inOrder
    rw [if_pos (State.inTurn_nil _ _ _ hmay.1)]
    dsimp only
    rw [if_neg]
    · rfl
    · rw [sgn_eq_toInt]
      intro hh
      simp only [Bool.and_eq_true, decide_eq_true_eq, bne_iff_ne, ne_eq] at hh
      exact hh.2 (hstride hh.1)
  · have hjob : jobReads (scratchLoad s o) * (scratchLoad s o).width = if o.n.val = 0 then 0 else o.k.val * o.t.val := by
      unfold jobReads
      change (if o.n.val = 0 then 0 else o.k.val * o.t.val * 1) * 1 = _
      rw [Nat.mul_one, Nat.mul_one]
    rw [hjob] at hdel
    have hlist : (if o.n.val = 0 then [] else (List.range (o.k.val * o.t.val)).map (fun u => (List.range o.n.val).map (scratchElem s o u)))
        = (List.range (if o.n.val = 0 then 0 else o.k.val * o.t.val)).map (fun u => (List.range o.n.val).map (scratchElem s o u)) := by
      split
      · rfl
      · rfl
    rw [hlist]
    exact hdel

/-- Settles O37: in each of the four every read finds its elements and there is room for its rows (`LoadGoes`). -/
theorem otherLoadsDeliver : Obligations.OtherLoadsDeliver := by
  unfold Obligations.OtherLoadsDeliver
  refine ⟨fun o s val hmay hoff hread hscout => ?_, fun o s first val hmay hdue hvalid he8 hnone hsome hval => ?_,
    fun o s m f val hdue hmay htag hforest hnote hsamples => vtree_delivers hdue hmay htag hforest hnote hsamples,
    fun o s hmay hq hstride hin => mldq_delivers hmay hq hstride hin⟩
  · obtain ⟨t, ht, hdel⟩ := vldC_delivers hmay hoff hread
    refine ⟨t, streamFront s o s, ht, ?_, hdel⟩
    unfold streamFront streamNext streamEnd
    dsimp only
    by_cases he : s.getU o.xb + s.cpu.front.rc * s.cpu.front.vl < 4096
    · rw [if_pos he, if_pos (Nat.div_eq_of_lt he)]
    · obtain ⟨c, hc⟩ := hscout (by omega)
      rw [if_neg he, if_neg (by omega), hc]
      rfl
  · refine vldFF_delivers hmay hdue he8 (fun k hk => ⟨(hsome k hk).1, (hsome k hk).2.1, (hsome k hk).2.2.1⟩) fun k hk => ?_
    have hread : (memoryAt s (firstBytes s o k)).isSome = true := by
      cases first with
      | none => exact hnone rfl k hk
      | some n => exact (hsome n rfl).2.2.2 k hk
    obtain ⟨l, hl⟩ := Option.isSome_iff_exists.mp hread
    refine ⟨l, hl, ?_⟩
    rw [hval k l hl]
    unfold loadConvert
    generalize memTag o.sub.val = kind
    cases kind with
    | none => rfl
    | some m => rfl

end Sys2Proof.Claims
end

section
/-! PROOF. What the access unit leaves alone: canonical memory stays canonical, and the pending results of the grammar engine stay as they
are, whatever a load or a store does (log 1, R328). -/

namespace Sys2Proof.Claims

open Sys2Proof Sys2Proof.Machine

/-- Canonical memory stays canonical. -/
def Canon (s t : State) : Prop := Memory.wf s.mem = true → Memory.wf t.mem = true

theorem Canon.refl (s : State) : Canon s s := id

theorem Canon.trans {s t u : State} (h : Canon s t) (h' : Canon t u) : Canon s u := h' ∘ h

theorem Canon.of_mem {s t : State} (h : t.mem = s.mem) : Canon s t := fun hs => by rw [h]; exact hs

theorem Canon.ite {s a b : State} (c : Prop) [Decidable c] (ha : Canon s a) (hb : Canon s b) : Canon s (if c then a else b) := by
  split
  · exact ha
  · exact hb

/-- What the grammar engine has pending for a hart, and whether there is one. -/
def Hart.pending (h : Hart) : Status × List GPend := (h.status, h.back.gram.pend)

/-- Canonical memory stays canonical, and the pending results of the grammar engine stay as they are, for the hart at hand. -/
structure Frame (s t : State) : Prop where
  canon : Canon s t
  hart : s.cpu.status ≠ .absent → t.cpu.status ≠ .absent ∧ t.cpu.back.gram.pend = s.cpu.back.gram.pend

theorem Frame.refl (s : State) : Frame s s := ⟨Canon.refl s, fun h => ⟨h, rfl⟩⟩

theorem Frame.trans {s t u : State} (h : Frame s t) (h' : Frame t u) : Frame s u :=
  ⟨h.canon.trans h'.canon, fun h0 => by
    obtain ⟨h1, e1⟩ := h.hart h0
    obtain ⟨h2, e2⟩ := h'.hart h1
    exact ⟨h2, e2.trans e1⟩⟩

theorem Frame.of_canon {s t : State} (h : Canon s t) (hp : Hart.pending t.cpu = Hart.pending s.cpu) : Frame s t :=
  ⟨h, fun h0 => by
    obtain ⟨hs, hg⟩ := Prod.mk.inj hp
    exact ⟨by rw [hs]; exact h0, hg⟩⟩

theorem Frame.of_mem {s t : State} (h : t.mem = s.mem) (hp : Hart.pending t.cpu = Hart.pending s.cpu) : Frame s t :=
  Frame.of_canon (Canon.of_mem h) hp

theorem Frame.ite {s a b : State} (c : Prop) [Decidable c] (ha : Frame s a) (hb : Frame s b) : Frame s (if c then a else b) := by
  split
  · exact ha
  · exact hb

theorem Frame.upto {f : Nat → State → State} (n : Nat) (h : ∀ k s, Frame s (f k s)) (s : State) : Frame s (upto n f s) := by
  induction n with
  | zero => exact Frame.refl s
  | succ n ih =>
    rw [upto_succ]
    exact ih.trans (h n _)

theorem Frame.foldl {α : Type} {f : State → α → State} (l : List α) (h : ∀ s x, Frame s (f s x)) (s : State) : Frame s (l.foldl f s) := by
  induction l generalizing s with
  | nil => exact Frame.refl s
  | cons x l ih => exact (h s x).trans (ih _)

theorem Frame.foldl_fst {α β : Type} {f : State × β → α → State × β} (l : List α) (h : ∀ st x, Frame st.1 (f st x).1) (st : State × β) :
    Frame st.1 (l.foldl f st).1 := by
  induction l generalizing st with
  | nil => exact Frame.refl _
  | cons x l ih => exact (h st x).trans (ih _)

/-! Writes of agents. -/

theorem cpu_ite {s a b : State} (c : Prop) [Decidable c] (ha : a.cpu = s.cpu) (hb : b.cpu = s.cpu) : (if c then a else b).cpu = s.cpu := by
  split
  · exact ha
  · exact hb

theorem cpu_requestStatement (s : State) (n : Nat) : (s.requestStatement n).cpu = s.cpu := by
  unfold State.requestStatement
  split
  · rfl
  · rfl

theorem cpu_mgmtWrite (s : State) (w : Agent) (d off : Nat) (v : W64) : (s.mgmtWrite w d off v).cpu = s.cpu := by
  unfold State.mgmtWrite
  extract_lets m
  refine cpu_ite _ rfl (cpu_ite _ (cpu_ite _ rfl rfl) (cpu_ite _ rfl (cpu_ite _ (cpu_ite _ rfl rfl) ?_)))
  refine cpu_ite _ (cpu_requestStatement _ _) (cpu_ite _ rfl (cpu_ite _ ?_ rfl))
  split
  · rfl
  · rfl

theorem cpu_wqWrite (s : State) (w : Agent) (q off : Nat) (v : W64) : (s.wqWrite w q off v).cpu = s.cpu := by
  unfold State.wqWrite
  extract_lets u
  repeat' split
  all_goals rfl

theorem cpu_regWrite (s : State) (w : Agent) (d a : Nat) (l : List Byte) : (s.regWrite w d a l).cpu = s.cpu := by
  unfold State.regWrite
  split
  · exact cpu_mgmtWrite _ _ _ _ _
  · exact cpu_mgmtWrite _ _ _ _ _
  · exact cpu_wqWrite _ _ _ _ _
  · rfl

theorem cpu_physWrite (s : State) (w : Agent) (d pa : Nat) (l : List Byte) : (s.physWrite w d pa l).cpu = s.cpu := by
  unfold State.physWrite
  dsimp only
  split
  · split
    · rw [cpu_regWrite, cpu_regWrite]
    · exact cpu_regWrite _ _ _ _ _
  · rfl

theorem cpu_physWrites (s : State) (w : Agent) (d : Nat) (pas : List Nat) (l : List Byte) : (s.physWrites w d pas l).cpu = s.cpu := by
  induction pas generalizing s l with
  | nil => unfold State.physWrites; rfl
  | cons pa ps ih =>
    cases l with
    | nil => unfold State.physWrites; rfl
    | cons b bs =>
      unfold State.physWrites
      split
      · exact cpu_physWrite _ _ _ _ _
      · split
        · exact ih _ _
        · exact ih _ _

theorem frame_meetStrips (s : State) (mine : Bool) (keys : List Nat) : Frame s (s.meetStrips mine keys) := by
  refine Frame.of_mem rfl ?_
  rw [sameCpu_meetStrips s mine keys]
  rfl

theorem frame_physWriteList (s : State) (w : Agent) (d : Nat) (pas : List Nat) (l : List Byte) : Frame s (s.physWriteList w d pas l) := by
  refine (frame_meetStrips s (w = .hart || w = .privHart) (pas.map s.key)).trans (Frame.of_canon ?_ ?_)
  · exact State.physWrites_wf _ w d pas l
  · unfold State.physWriteList
    rw [cpu_physWrites]

theorem frame_noteWriteAt (s : State) (k j va : Nat) (l : List Byte) : Frame s (s.noteWriteAt k j va l) := by
  refine Frame.of_mem (State.noteWriteAt_mem s k j va l) ?_
  unfold State.noteWriteAt
  split
  · rfl
  · rfl

theorem frame_noteWrite (s : State) (va : Nat) (l : List Byte) : Frame s (s.noteWrite va l) := frame_noteWriteAt _ _ _ _ _

theorem frame_setBack (s : State) {b : Back} (h : b.gram.pend = s.cpu.back.gram.pend) : Frame s (s.setBack b) :=
  Frame.of_mem rfl (congrArg (Prod.mk _) h)

theorem frame_setFront (s : State) (f : Front) : Frame s (s.setFront f) := Frame.of_mem rfl rfl

theorem frame_putBytes (s : State) (d k : Nat) (l : List Byte) : Frame s (s.putBytes d k l) :=
  Frame.of_canon (State.putBytes_wf s d k l) rfl

/-- A vector write of bytes that land together. -/
theorem frame_stripWrite (s : State) (ordered whole : Bool) (access : Nat) (l : List (Nat × Byte × Byte)) :
    Frame s (s.stripWrite ordered whole access l) := by
  unfold State.stripWrite
  dsimp only
  split
  · exact Frame.refl s
  · have hm := frame_meetStrips s true ((l.filter (fun e => !s.drops e.1)).map (fun e => s.key e.1))
    generalize s.meetStrips true _ = w at hm ⊢
    refine hm.trans (Frame.trans (t := (List.foldl _ (_, _, _) _).1) ?_ (frame_setBack _ rfl))
    refine Frame.trans (t := w.tock) (Frame.of_mem rfl rfl) (Frame.foldl_fst _ (fun st e => ?_) (_, _, _))
    exact frame_putBytes _ _ _ _

/-- A vector element, or a packed run of them, is written. -/
theorem frame_vecWrite (s : State) (ordered atomic packed : Bool) (pas : List Nat) (lo n pat : Nat) :
    Frame s (s.vecWrite ordered atomic packed pas lo n pat) := by
  unfold State.vecWrite
  dsimp only
  split
  · exact Frame.refl s
  · split
    · exact frame_physWriteList _ _ _ _ _
    · split
      · exact frame_stripWrite _ _ _ _ _
      · exact Frame.foldl _ (fun s e => frame_stripWrite _ _ _ _ _) s

/-! Traps and waits. -/

theorem pending_dropLaneRow (s : State) (e : Nat) : Hart.pending (s.dropLaneRow e).cpu = Hart.pending s.cpu := by
  unfold State.dropLaneRow
  dsimp only
  split
  · rfl
  · split
    · rfl
    · split
      · rfl
      · split
        · rfl
        · rfl

theorem frame_dropBad (s : State) (kind e : Nat) : Frame s (s.dropBad kind e) := by
  refine Frame.of_canon (State.dropBad_wf s kind e) ?_
  unfold State.dropBad
  have h0 : (if 3 ≤ kind && kind ≤ 9 then s.countUe s.cpu.id.die kind else s).cpu = s.cpu := by split <;> rfl
  generalize (if 3 ≤ kind && kind ≤ 9 then s.countUe s.cpu.id.die kind else s) = u at h0
  rw [← h0]
  dsimp only
  split
  · rw [cpu_dropLine]
  · exact pending_dropLaneRow _ _
  · rfl
  · rfl
  · rfl
  · rfl
  · rfl
  · rfl
  · rw [cpu_dropRemote]
  · rw [cpu_dropWord]

theorem frame_takeTrap (s : State) (t : TrapInfo) : Frame s (s.takeTrap t) := by
  refine ⟨State.takeTrap_wf s t, fun h0 => ?_⟩
  have hbad : Frame s (if t.cause = .dataError then s.dropBad t.kind t.eval.toNat else s) :=
    Frame.ite _ (frame_dropBad _ _ _) (Frame.refl s)
  obtain ⟨hs, hg⟩ := hbad.hart h0
  unfold State.takeTrap
  generalize (if t.cause = .dataError then s.dropBad t.kind t.eval.toNat else s) = u at hs hg
  dsimp only
  split
  · exact ⟨(nofun : Status.stopped ≠ Status.absent), hg⟩
  · exact ⟨hs, hg⟩

theorem frame_suspendAs (s : State) (i : Instr) (k : Nat) (on : List Nat) (full : Bool) (cont : Front)
    (src : Option (SMap (BitVec 16) × SMap (BitVec 16))) : Frame s (s.suspendAs i k on full cont src) := Frame.of_mem rfl rfl

theorem frame_hold (s : State) (i : Instr) : Frame s (s.hold i) := by
  unfold State.hold
  split
  · exact Frame.of_mem rfl rfl
  · exact frame_suspendAs _ _ _ _ _ _ _

theorem frame_holdFault (s : State) (i : Instr) : Frame s (s.holdFault i) := by
  unfold State.holdFault
  split
  · exact Frame.of_mem rfl rfl
  · exact Frame.of_mem rfl rfl

theorem frame_raise (s : State) (i : Instr) (t : TrapInfo) : Frame s (s.raise i t) := by
  unfold State.raise
  split
  · exact frame_takeTrap _ _
  · refine Frame.trans (t := if t.cause = .dataError then s.dropBad t.kind t.eval.toNat else s) ?_ (frame_holdFault _ _)
    exact Frame.ite _ (frame_dropBad _ _ _) (Frame.refl s)

theorem frame_raiseAt (s : State) (i : Instr) (q k : Nat) (f : AccFault) : Frame s (s.raiseAt i q k f) :=
  (frame_setFront s _).trans (frame_raise _ _ _)

theorem frame_whenOldest {s : State} (i : Instr) {body : State → State} (h : Frame s (body s)) : Frame s (s.whenOldest i body) :=
  Frame.ite _ h (frame_hold _ _)

theorem frame_inOrder {s : State} (i : Instr) {body : State → State} (h : Frame s (body s)) : Frame s (s.inOrder i body) :=
  Frame.ite _ h (frame_hold _ _)

theorem frame_accessChecks {s : State} (i : Instr) (q : Nat) (p : Place) (kind : Option Tag) {body : State → State} (h : Frame s (body s)) :
    Frame s (s.accessChecks i q p kind body) := by
  unfold State.accessChecks
  dsimp only
  refine Frame.ite _ (frame_raise _ _ _) ?_
  split
  · exact h
  · exact Frame.ite _ (frame_raise _ _ _) h
  · exact Frame.ite _ (frame_raise _ _ _) (Frame.ite _ (frame_raise _ _ _) h)

theorem frame_segChecks {s : State} (i : Instr) (q : Nat) (fs : List (Nat × Nat)) {body : State → State} (h : Frame s (body s)) :
    Frame s (s.segChecks i q fs body) :=
  Frame.ite _ (frame_raise _ _ _) (Frame.ite _ (frame_raise _ _ _) h)

theorem frame_finish (s : State) (i : Instr) (f : Front) : Frame s (s.finish i f) := Frame.of_mem rfl rfl

theorem frame_settleAll (s : State) (p : StripWrite → Bool) : Frame s (s.settleAll p) := Frame.of_mem rfl rfl

theorem frame_orderBehind (s : State) (n : Nat) : Frame s (s.orderBehind n) := Frame.of_mem rfl rfl

/-! Loads. -/

theorem frame_pushRow (s : State) (q : Nat) (l : List Nat) : Frame s (s.pushRow q l) := Frame.of_mem rfl rfl

theorem frame_pushRows (q : Nat) (l : List Row) (s : State) : Frame s (pushRows q l s).1 := by
  induction l generalizing s with
  | nil => exact Frame.refl s
  | cons r l ih =>
    unfold pushRows
    split
    · exact Frame.refl s
    · exact (frame_pushRow s q r.elems).trans (ih _)

theorem frame_setPart (s : State) (q : Nat) (l : List Row) : Frame s (s.setPart q l) := Frame.of_mem rfl rfl

/-- What a gate of a load leaves, whichever way it goes. -/
def GateFrame (j : LoadJob) : Prop :=
  ∀ s r c, (∀ t, j.gate s r c = .ok t → Frame s t) ∧ ∀ t x, j.gate s r c = .error (t, x) → Frame s t

theorem gateFrame_ok {j : LoadJob} (h : ∀ s r c, j.gate s r c = .ok s) : GateFrame j := fun s r c => by
  refine ⟨fun t ht => ?_, fun t x ht => ?_⟩
  · rw [h] at ht
    cases ht
    exact Frame.refl s
  · rw [h] at ht
    cases ht

/-- Both ways that a part of an instruction can end keep the frame. -/
def FrameBoth (s : State) (r : Except State State) : Prop := (∀ t, r = .ok t → Frame s t) ∧ ∀ t, r = .error t → Frame s t

theorem FrameBoth.ok {s t : State} (h : Frame s t) : FrameBoth s (.ok t) :=
  ⟨fun _ he => (by cases he; exact h), fun _ he => by cases he⟩

theorem FrameBoth.error {s t : State} (h : Frame s t) : FrameBoth s (.error t) :=
  ⟨fun _ he => (by cases he), fun _ he => by cases he; exact h⟩

theorem FrameBoth.ite {s : State} {a b : Except State State} (c : Prop) [Decidable c] (ha : FrameBoth s a) (hb : FrameBoth s b) :
    FrameBoth s (if c then a else b) := by
  split
  · exact ha
  · exact hb

theorem frame_readTileRow {j : LoadJob} (h : GateFrame j) (s : State) (i : Instr) (r fld k : Nat) :
    FrameBoth s (s.readTileRow i j r fld k) := by
  unfold State.readTileRow
  dsimp only
  refine FrameBoth.ite _ (.error (frame_suspendAs _ _ _ _ _ _ _)) (FrameBoth.ite _ (.error (frame_suspendAs _ _ _ _ _ _ _)) ?_)
  split
  next s1 heq => exact .error (((h _ _ _).2 _ _ heq).trans (frame_suspendAs _ _ _ _ _ _ _))
  next s1 x heq => exact .error (((h _ _ _).2 _ _ heq).trans ((frame_setFront _ _).trans (frame_raise _ _ _)))
  next s1 heq =>
    have h1 := (h _ _ _).1 _ heq
    generalize j.read s1 _ _ _ = rd
    have h2 : Frame s1 (if rd.seen.isEmpty then (s1.readLines s1.cpu.id.die (rd.pas.map s1.key)).tock
        else ((s1.readLines s1.cpu.id.die (rd.pas.map s1.key)).setBack { (s1.readLines s1.cpu.id.die (rd.pas.map s1.key)).cpu.back with
          strip := markSeen (s1.readLines s1.cpu.id.die (rd.pas.map s1.key)).openStrip
            (some (s1.readLines s1.cpu.id.die (rd.pas.map s1.key)).cpu.front.instret.toNat) rd.seen }).tock) :=
      Frame.ite _ (Frame.of_mem rfl rfl) (Frame.of_mem rfl rfl)
    generalize (if rd.seen.isEmpty then _ else _ : State) = w at h2 ⊢
    have h3 := h1.trans h2
    split
    · exact .error (h3.trans ((frame_setPart w _ _).trans (frame_raiseAt _ _ _ _ _)))
    · refine FrameBoth.ite _ (.error (h3.trans (frame_suspendAs _ _ _ _ _ _ _))) (.ok (h3.trans ?_))
      exact Frame.ite _ ((frame_setPart w _ _).trans (frame_setBack _ rfl)) (frame_setPart w _ _)

theorem frame_loadRows {j : LoadJob} (h : GateFrame j) (i : Instr) (fin : State → Front) (n u : Nat) (s : State) :
    Frame s (loadRows i j fin n u s) := by
  induction n generalizing u s with
  | zero => exact frame_finish _ _ _
  | succ n ih =>
    unfold loadRows
    dsimp only
    split
    next s1 heq =>
      split at heq
      · cases heq
      · exact (frame_readTileRow h s i _ _ _).2 s1 heq
    next s1 heq =>
      have h1 : Frame s s1 := by
        split at heq
        · cases heq
          exact Frame.refl s
        · exact (frame_readTileRow h s i _ _ _).1 s1 heq
      have hp := frame_pushRows j.q (s1.ownPart j.q) s1
      generalize pushRows j.q (s1.ownPart j.q) s1 = p at hp ⊢
      have h2 : Frame s (p.1.setPart j.q p.2) := (h1.trans hp).trans (frame_setPart _ _ _)
      generalize p.1.setPart j.q p.2 = w at h2 ⊢
      refine h2.trans (Frame.ite _ ?_ (frame_suspendAs _ _ _ _ _ _ _))
      have h3 : Frame w (if j.reads = 1 then w else w.setBack (w.cpu.back.setSub j.q s.cpu.front.pc
          (if u % j.reads + 1 = j.reads then 0 else u % j.reads + 1))) := Frame.ite _ (Frame.refl w) (frame_setBack w rfl)
      generalize (if j.reads = 1 then w else _ : State) = w3 at h3 ⊢
      exact h3.trans ((frame_setFront w3 _).trans (ih _ _))

theorem frame_loadJob {j : LoadJob} (h : GateFrame j) (s : State) (i : Instr) (fin : State → Front) : Frame s (s.loadJob i j fin) := by
  unfold State.loadJob
  exact Frame.ite _ (frame_finish _ _ _) (frame_loadRows h i fin _ _ s)

/-! The copies that a read of the scratchpad waits for. -/

theorem frame_setChan (s : State) (c : Nat) (x : Chan) : Frame s (s.setChan c x) := Frame.of_mem rfl rfl

theorem canon_putHart (s : State) (h : Hart) : Canon s (s.putHart h) := Canon.ite _ (Canon.refl s) (Canon.refl s)

theorem frame_putHart (s : State) (h : Hart) (hp : s.cpu.status ≠ .absent → s.cpu.id.uid = h.id.uid → Hart.pending h = Hart.pending s.cpu) :
    Frame s (s.putHart h) := by
  refine ⟨canon_putHart s h, fun h0 => ?_⟩
  unfold State.putHart
  split
  next hu =>
    obtain ⟨hs, hg⟩ := Prod.mk.inj (hp h0 hu)
    exact ⟨by rw [hs]; exact h0, hg⟩
  next => exact ⟨h0, rfl⟩

theorem frame_copyGroup (s : State) (c : Nat) (o : CopyOp) : Frame s (s.copyGroup c o) := by
  unfold State.copyGroup
  split
  · exact frame_setChan _ _ _
  next h hh =>
    refine Frame.ite _ (Frame.refl s) ?_
    refine Frame.trans (frame_putHart s _ fun hlive hu => ?_) (frame_setChan _ _ _)
    have huid : h.id.uid = o.dst := by
      unfold State.hart? at hh
      simpa using List.find?_some hh
    rw [← hu.trans huid, hart?_self hlive] at hh
    cases hh
    rfl

theorem frame_copyOut (s : State) (no : Nat) (pas : List Nat) (l : List Byte) : Frame s (s.copyOut no pas l) := by
  unfold State.copyOut
  dsimp only
  refine Frame.trans (t := (s.settleBefore no pas).setBack _) ?_ (frame_physWriteList _ _ _ _ _)
  exact (frame_setBack s rfl).trans (frame_setBack _ rfl)

theorem frame_copyElem {s t : State} {o : CopyOp} {k : Nat} (h : s.copyElem o k = .ok t) : Frame s t := by
  unfold State.copyElem at h
  split at h
  · cases h
    exact Frame.ite _ (Frame.refl s) (frame_setBack s rfl)
  · split at h
    · split at h
      · cases h
      · cases h
        exact (frame_noteWriteAt _ _ _ _ _).trans (Frame.ite _ (Frame.refl _) (frame_copyOut _ _ _ _))
    · split at h
      · cases h
      · cases h
        exact Frame.of_mem rfl rfl

theorem frame_chanStep (fuel c : Nat) (s : State) : Frame s (s.chanStep fuel c) := by
  induction fuel generalizing c s with
  | zero => exact Frame.refl s
  | succ fuel ih =>
    unfold State.chanStep
    split
    · exact Frame.refl s
    next o rest hops =>
      refine Frame.ite _ (Frame.refl s) (Frame.ite _ (frame_copyGroup _ _ _) ?_)
      have h1 : Frame s ((s.headNeeds c o).foldl (fun s e => upto (s.chan e.1).remaining
          (fun _ s => if (s.chan e.1).past e.2.1 e.2.2 then s else s.chanStep fuel e.1) s) s) :=
        Frame.foldl _ (fun s e => Frame.upto _ (fun _ s => Frame.ite _ (Frame.refl s) (ih _ s)) s) s
      dsimp only
      generalize List.foldl _ s _ = w at h1 ⊢
      refine h1.trans (Frame.ite _ (Frame.refl w) ?_)
      split
      · exact (Frame.ite _ (frame_dropBad w _ _) (Frame.refl w)).trans (frame_setChan _ _ _)
      next t ht => exact (frame_copyElem ht).trans (frame_setChan _ _ _)

theorem frame_runUntil (s : State) (c : Nat) (stop : Chan → Bool) : Frame s (s.runUntil c stop) :=
  Frame.upto _ (fun _ s => Frame.ite _ (Frame.refl s) (frame_chanStep _ _ s)) s

theorem frame_settlePlaces (s : State) (l : List Nat) : Frame s (s.settlePlaces l) := Frame.foldl _ (fun s _ => frame_runUntil s _ _) s

theorem gateFrame_placesGate {j : LoadJob} (i : Instr) (k : State → Nat → Nat → Nat) (places : State → Nat → Nat → List Nat)
    (h : ∀ s r c, j.gate s r c = s.placesGate i (k s r c) (places s r c)) : GateFrame j := fun s r c => by
  rw [h]
  unfold State.placesGate
  have hs := frame_settlePlaces s (places s r c)
  dsimp only
  generalize s.settlePlaces _ = w at hs ⊢
  refine ⟨fun t ht => ?_, fun t x ht => ?_⟩
  · split at ht
    · cases ht
    · split at ht
      · cases ht
        exact hs
      · cases ht
  · split at ht
    · cases ht
      exact hs
    · split at ht
      · cases ht
      · cases ht
        exact hs

theorem gateFrame_treeJob (s : State) (o : VMOps) : GateFrame (treeJob s o) := fun w r c => by
  change (∀ t, w.treeGate o (w.vmBase o) = .ok t → _) ∧ ∀ t x, w.treeGate o (w.vmBase o) = .error (t, x) → _
  unfold State.treeGate
  refine ⟨fun t ht => ?_, fun t x ht => ?_⟩
  · split at ht
    · cases ht
      exact Frame.refl w
    · split at ht
      · cases ht
      · cases ht
        exact Frame.ite _ (Frame.of_mem rfl rfl) (Frame.of_mem rfl rfl)
  · split at ht
    · cases ht
    · split at ht
      · cases ht
        exact Frame.refl w
      · cases ht

/-! The load forms. -/

theorem frame_vld (s : State) (i : Instr) (o : VMOps) (p : Place) (kind : Option Tag) (ordered : Bool) : Frame s (s.vld i o p kind ordered) :=
  frame_inOrder _ (frame_accessChecks _ _ _ _ (frame_loadJob (gateFrame_ok fun _ _ _ => rfl) _ _ _))

theorem frame_vldStream (s : State) (i : Instr) (o : VMOps) : Frame s (s.vldStream i o) :=
  frame_inOrder _ (Frame.ite _ (frame_raise _ _ _)
    (Frame.ite _ (frame_finish _ _ _) (frame_loadJob (gateFrame_ok fun _ _ _ => rfl) _ _ _)))

theorem frame_vldFirst (s : State) (i : Instr) (o : VMOps) : Frame s (s.vldFirst i o) := by
  refine frame_inOrder _ (frame_accessChecks _ _ _ _ ?_)
  have hgo : ∀ (d : Option Nat) (j : LoadJob) (fin : State → Front), GateFrame j →
      Frame s (State.loadJob { s with cpu := { s.cpu with due := d } } i j fin) := fun d j fin hj =>
    Frame.trans (t := { s with cpu := { s.cpu with due := d } }) (Frame.of_mem rfl rfl) (frame_loadJob hj _ _ _)
  dsimp only
  split
  · exact hgo _ _ _ (gateFrame_ok fun _ _ _ => rfl)
  · split
    · exact hgo _ _ _ (gateFrame_ok fun _ _ _ => rfl)
    · exact Frame.ite _ (hgo _ _ _ (gateFrame_ok fun _ _ _ => rfl)) (frame_raiseAt _ _ _ _ _)

theorem frame_execVldSeg (s : State) (o : VMOps) : Frame s ((execVldSeg o s).state s) := by
  refine frame_inOrder (s := s) (.vldSeg o) (body := fun s => s.segChecks (.vldSeg o) o.q.val (segFields (s.getU o.xb) (o.sub.val + 1)) fun s =>
    s.loadJob (.vldSeg o) (segJob s o) (fun s => s.cpu.front)) ?_
  exact frame_segChecks _ _ _ (frame_loadJob (gateFrame_ok fun _ _ _ => rfl) _ _ _)

theorem frame_execVtree (s : State) (o : VMOps) : Frame s ((execVtree o s).state s) := by
  unfold execVtree
  dsimp only [Out.state]
  refine frame_whenOldest (s := s) (.vtree o) ?_
  exact Frame.ite _ (frame_raise s _ _) (frame_loadJob (gateFrame_treeJob s o) s _ _)

theorem frame_execMldq (s : State) (o : MldqOps) : Frame s ((execMldq o s).state s) := by
  unfold execMldq
  dsimp only [Out.state]
  refine frame_inOrder (s := s) (.mldq o) ?_
  exact Frame.ite _ (frame_raise s _ _) (frame_loadJob (gateFrame_placesGate _ _ _ fun _ _ _ => rfl) s _ _)

/-- A load form keeps the frame. -/
theorem frame_runLoad (i : Instr) (s : State) : Frame s (runLoad i s) := by
  unfold runLoad
  split
  · exact frame_vld _ _ _ _ _ _
  · exact frame_vld _ _ _ _ _ _
  · exact frame_vld _ _ _ _ _ _
  · exact frame_vld _ _ _ _ _ _
  · exact frame_execVldSeg _ _
  · exact frame_vldStream _ _ _
  · exact frame_vldFirst _ _ _
  · exact frame_execVtree _ _
  · exact frame_execMldq _ _
  · exact Frame.refl s

/-! Stores. -/

theorem gram_markSub (b : Back) (q k : Nat) (pc : W64) (n : Nat) : ((b.markHead q k).setSub q pc n).gram.pend = b.gram.pend := rfl

/-- What a store's write keeps. -/
def WriteFrame (j : StoreJob) : Prop := ∀ s r f e c0 c1, Frame s (j.write s r f e c0 c1)

theorem writeFrame_plainStore (s : State) (o : VMOps) (p : Place) (kind : Option Tag) (ordered : Bool) :
    WriteFrame (plainStore s o p kind ordered) := fun w r fld e c0 c1 => by
  unfold plainStore
  dsimp only
  generalize hu : upto (c1 - c0) _ w = u
  have h1 : Frame w u := by
    rw [← hu]
    exact Frame.upto _ (fun _ s => frame_noteWrite s _ _) w
  refine h1.trans ?_
  refine Frame.ite _ (Frame.upto _ (fun _ s => frame_vecWrite s _ _ _ _ _ _ _) _) (Frame.ite _ (Frame.refl _) (frame_vecWrite _ _ _ _ _ _ _ _))

theorem writeFrame_segStore (s : State) (o : VMOps) : WriteFrame (segStore s o) := fun w _ _ _ _ _ =>
  Frame.upto _ (fun _ s => (frame_noteWriteAt s _ _ _ _).trans (frame_vecWrite _ _ _ _ _ _ _ _)) w

theorem frame_waitAt (s : State) (i : Instr) (k : Nat) (on : List Nat) (full : Bool) : Frame s (s.waitAt i k on full) := frame_suspendAs _ _ _ _ _ _ _

theorem frame_storeRows {j : StoreJob} (h : WriteFrame j) (i : Instr) (n u : Nat) (s : State) : Frame s (storeRows i j n u s) := by
  induction n generalizing u s with
  | zero => exact frame_finish _ _ _
  | succ n ih =>
    unfold storeRows
    dsimp only
    split
    next row rest _ _ =>
      split
      next c f _ => exact (h s _ _ _ _ c).trans ((frame_setBack _ (gram_markSub _ _ _ _ _)).trans (frame_raiseAt _ _ _ _ _))
      next =>
        have hw := h s (u / j.fields) (u % j.fields) row.elems (max s.cpu.front.vstart (u / j.fields * j.len) - u / j.fields * j.len) j.len
        generalize j.write s _ _ _ _ _ = w at hw ⊢
        refine hw.trans (Frame.trans (t := w.setBack _) (frame_setBack w ?_) ((frame_setFront _ _).trans (ih _ _)))
        split
        · rfl
        · rfl
    · exact frame_waitAt _ _ _ _ _

theorem frame_storeJob {j : StoreJob} (h : WriteFrame j) (s : State) (i : Instr) : Frame s (s.storeJob i j) :=
  Frame.ite _ (frame_finish _ _ _) (frame_storeRows h i _ _ s)

/-! Streams stored. -/

theorem frame_chunkBytes (s : State) (va : Nat) (l : List Byte) : Frame s (s.chunkBytes va l) :=
  Frame.foldl _ (fun s _ => (frame_noteWrite s _ _).trans (frame_vecWrite _ _ _ _ _ _ _ _)) s

theorem frame_chunkWrite (s : State) (c : ChunkStore) (hi : Nat) (done : Bool) : Frame s (s.chunkWrite c hi done) := by
  unfold State.chunkWrite
  dsimp only
  have h1 : Frame s (if c.fresh && c.k < hi then s.chunkBytes c.a (leBytes 8 (chunkHead c.t c.nnz)
      ++ leBytes 512 (bitsNat ((c.pats ++ List.replicate (4096 - c.pats.length) 0).map (· != 0)))) else s) :=
    Frame.ite _ (frame_chunkBytes s _ _) (Frame.refl s)
  generalize (if c.fresh && c.k < hi then _ else s : State) = w at h1 ⊢
  generalize hu : List.foldl _ w _ = u
  have h2 : Frame w u := by
    rw [← hu]
    exact Frame.foldl _ (fun s _ => (frame_noteWrite s _ _).trans (frame_vecWrite _ _ _ _ _ _ _ _)) w
  refine h1.trans (h2.trans (Frame.ite _ (Frame.refl u) ?_))
  refine Frame.trans (t := if c.nnz * tagW c.t % 8 = 0 then u
    else u.vecWrite false false true (u.physOf (bitRange (c.a + 520) (c.nnz * tagW c.t) 1)) (c.nnz * tagW c.t % 8)
      (8 - c.nnz * tagW c.t % 8) 0) ?_ (frame_chunkBytes _ _ _)
  exact Frame.ite _ (Frame.refl u) (frame_vecWrite u _ _ _ _ _ _ _)

theorem frame_setSub (s : State) (q : Nat) (pc : W64) (n : Nat) : Frame s (s.setBack (s.cpu.back.setSub q pc n)) := Frame.of_mem rfl rfl

theorem frame_popRows (s : State) (q n : Nat) : Frame s (s.setBack (s.cpu.back.popRows q n)) := Frame.of_mem rfl rfl

theorem frame_popMark (s : State) (q n k : Nat) : Frame s (s.setBack ((s.cpu.back.popRows q n).markHead q k)) := Frame.of_mem rfl rfl

theorem frame_storeChunks (i : Instr) (o : VMOps) (n k off nz : Nat) (s : State) : Frame s (storeChunks i o n k off nz s) := by
  induction n generalizing k off nz s with
  | zero => exact (frame_setBack s (b := s.cpu.back.setSub (4 + o.q.val) s.cpu.front.pc 0) rfl).trans (frame_finish _ _ _)
  | succ n ih =>
    unfold storeChunks
    dsimp only
    refine Frame.ite _ ?_ ?_
    · exact (frame_setFront s _).trans ((frame_setSub _ _ _ _).trans (frame_waitAt _ _ _ _ _))
    · have hf := frame_setFront s { s.cpu.front with vstart := k }
      generalize s.setFront _ = w at hf ⊢
      refine hf.trans ?_
      split
      next e g _ => exact (frame_chunkWrite w _ e false).trans ((frame_popMark _ _ _ _).trans ((frame_setSub _ _ _ _).trans (frame_raiseAt _ _ _ _ _)))
      next => exact (frame_chunkWrite w _ _ true).trans ((frame_popRows _ _ _).trans (ih _ _ _ _))

theorem frame_vstStream (s : State) (i : Instr) (o : VMOps) : Frame s (s.vstStream i o) :=
  frame_whenOldest i (Frame.ite _ (frame_raise s _ _) (Frame.ite _ (frame_finish _ _ _) (frame_storeChunks _ _ _ _ _ _ _)))

theorem frame_vst (s : State) (i : Instr) (o : VMOps) (p : Place) (kind : Option Tag) (ordered : Bool) : Frame s (s.vst i o p kind ordered) :=
  frame_whenOldest i (frame_accessChecks _ _ _ _ (frame_storeJob (writeFrame_plainStore s o p kind ordered) s i))

theorem frame_execVstSeg (s : State) (o : VMOps) : Frame s ((execVstSeg o s).state s) := by
  unfold execVstSeg
  dsimp only [Out.state]
  refine frame_whenOldest (s := s) (.vstSeg o) ?_
  exact frame_segChecks _ _ _ (frame_storeJob (writeFrame_segStore s o) s _)

/-- A store form keeps the frame. -/
theorem frame_runStore (i : Instr) (s : State) : Frame s (runStore i s) := by
  unfold runStore
  split
  · exact frame_vst _ _ _ _ _ _
  · exact frame_vst _ _ _ _ _ _
  · exact frame_vst _ _ _ _ _ _
  · exact frame_vst _ _ _ _ _ _
  · exact frame_execVstSeg _ _
  · exact frame_vstStream _ _ _
  · exact Frame.refl s

end Sys2Proof.Claims
end

section
/-! PROOF. The events of a hart (R25, R31, R33, R182, R184, R196, R240, R241, R328). -/

namespace Sys2Proof.Claims

open Sys2Proof Sys2Proof.Machine

/-! Traps and stalls. -/

theorem trapEstat_eq (tr : TrapInfo) : trapEstat tr = estatOf tr.sub tr.kind tr.queue tr.side (tr.evValid || tr.ev != 0) tr.ilen := by
  unfold trapEstat estatOf
  rw [show (if tr.ilen = 2 then 0 else if tr.ilen = 4 then 1 else 2) = ilenCode tr.ilen from rfl]
  simp [Nat.shiftLeft_eq, Nat.mul_comm]

theorem trapEntry_traps {tr : TrapInfo} {s : State} (hrun : s.cpu.status = .running) (hin : s.cpu.inflight = []) (hc : CanTrap s)
    (hd : tr.cause ≠ .dataError) : ∃ t, exec (.trapEntry tr) s = .next t
      ∧ Traps s t (causeCode tr.cause) tr.eval
          (estatOf tr.sub tr.kind tr.queue tr.side (tr.evValid || tr.ev != 0) tr.ilen) (tr.ev % 2 ^ 20) := by
  refine ⟨_, congrArg Host.Outcome.next (if_pos hrun), ?_⟩
  rw [toBoundary_of_empty hin, ← trapEstat_eq]
  obtain ⟨hfront, hst, hfl, htr, hothers, hmem⟩ := traps_takeTrap
    (s := { s with cpu := { s.cpu with wait := none, lanes := none, halting := false, owed := [] } }) tr hc hd
  exact ⟨hfront, hst, hfl, htr, hothers, hmem⟩

/-- The hart at the boundary of its oldest instruction in flight, the stall counted (R31, R371). -/
def stalledAt (s : State) (p : Pend) : State :=
  let i := s.cpu.id
  { s.setCore i.die i.core { s.core i.die i.core with cqstall := (s.core i.die i.core).cqstall + 1 } with
    cpu := { s.cpu with
      front := p.front.now s.cpu.front, back := s.cpu.back.restoreTo p.ckpt, inflight := [], wait := none, lanes := none
      due := none, trapped := false, stall := 0, halting := false, owed := [] } }

theorem takeStall_eq {s : State} {p : Pend} {l : List Pend} (qs : List Nat) (hl : s.cpu.inflight = p :: l) :
    s.takeStall qs = (stalledAt s p).takeTrap (stallTrap p qs s.indexWait) := by
  have hbound : ∀ k, (s.setCore s.cpu.id.die s.cpu.id.core k).cpu.toBoundary = (stalledAt s p).cpu := fun k => by
    unfold Hart.toBoundary
    rw [show (s.setCore s.cpu.id.die s.cpu.id.core k).cpu = s.cpu from rfl, hl]
    rfl
  unfold State.takeStall
  rw [hl]
  dsimp only
  rw [hbound]
  rfl

theorem core_stalled (s : State) (p : Pend) :
    ((stalledAt s p).core s.cpu.id.die s.cpu.id.core).cqstall = (s.core s.cpu.id.die s.cpu.id.core).cqstall + 1 := by
  change ((s.setCore s.cpu.id.die s.cpu.id.core _).core _ _).cqstall = _
  rw [core_setCore, if_pos rfl]

theorem stallTrap_eval (p : Pend) (qs : List Nat) (index : Bool) : (stallTrap p qs index).eval = queueBits qs := by
  unfold stallTrap queueBits
  rfl

/-- A trap that is taken counts nothing on a core. -/
theorem core_takeTrap {s : State} (t : TrapInfo) {d c : Nat} (htvec : s.cpu.front.tvec ≠ 0) (hactive : s.cpu.front.estat.getLsbD 0 = false)
    (hd : t.cause ≠ .dataError) : (s.takeTrap t).core d c = s.core d c := by
  rw [State.takeTrap_taken s t htvec hactive hd]
  rfl

theorem exec_queueStall {s : State} {qs : List Nat} (hrun : s.cpu.status = .running)
    (hlim : s.cpu.front.qslim ≠ 0) (hstall : s.cpu.front.qslim.toNat ≤ s.cpu.stall) (hqs : s.stallQueues = some qs) :
    exec .queueStall s = .next (s.takeStall qs) := by
  change execQueueStall s = _
  unfold execQueueStall
  rw [hqs]
  dsimp only
  rw [hrun, bne_iff_ne.mpr hlim, decide_eq_true hstall]
  exact congrArg Host.Outcome.next (if_pos rfl)

theorem front_stalledAt (s : State) (p : Pend) : (stalledAt s p).cpu.front = p.front.now s.cpu.front := rfl

theorem restamped_kept (f : Front) (y m : W64) :
    ({ f with cycle := y, mreq := m } : Front).tvec = f.tvec ∧ ({ f with cycle := y, mreq := m } : Front).estat = f.estat
      ∧ ({ f with cycle := y, mreq := m } : Front).pc = f.pc ∧ ({ f with cycle := y, mreq := m } : Front).vstart = f.vstart :=
  ⟨rfl, rfl, rfl, rfl⟩

theorem now_kept (f c : Front) : (f.now c).tvec = f.tvec ∧ (f.now c).estat = f.estat ∧ (f.now c).pc = f.pc ∧ (f.now c).vstart = f.vstart :=
  restamped_kept f _ _

theorem canTrap_stalledAt {s : State} {p : Pend} (htvec : p.front.tvec ≠ 0) (hactive : p.front.estat.getLsbD 0 = false) :
    CanTrap (stalledAt s p) := by
  unfold CanTrap
  rw [front_stalledAt, (now_kept p.front s.cpu.front).1, (now_kept p.front s.cpu.front).2.1]
  exact ⟨htvec, hactive⟩

theorem stallTrap_cause (p : Pend) (qs : List Nat) (index : Bool) : (stallTrap p qs index).cause ≠ .dataError := by
  unfold stallTrap
  exact Cause.noConfusion

theorem queueStall_traps {s : State} {p : Pend} {qs : List Nat} (hrun : s.cpu.status = .running) (hp : s.cpu.inflight.head? = some p)
    (hlim : s.cpu.front.qslim ≠ 0) (hstall : s.cpu.front.qslim.toNat ≤ s.cpu.stall) (hqs : s.stallQueues = some qs)
    (htvec : p.front.tvec ≠ 0) (hactive : p.front.estat.getLsbD 0 = false) :
    ∃ t, exec .queueStall s = .next t ∧ t.cpu.front.epc = p.front.pc ∧ t.cpu.front.ecause = 12
      ∧ t.cpu.front.eval = queueBits qs ∧ t.cpu.front.evstart = p.front.vstart % 2 ^ 20 ∧ t.cpu.front.pc = p.front.tvec
      ∧ t.cpu.inflight = [] ∧ t.others = s.others ∧ SameMem s t
      ∧ (t.core s.cpu.id.die s.cpu.id.core).cqstall = (s.core s.cpu.id.die s.cpu.id.core).cqstall + 1 := by
  obtain ⟨l, hl⟩ : ∃ l, s.cpu.inflight = p :: l := List.head?_eq_some_iff.mp hp
  have hc := canTrap_stalledAt (s := s) htvec hactive
  obtain ⟨hvec, -, hpc, hvstart⟩ := now_kept p.front s.cpu.front
  have hcause := stallTrap_cause p qs s.indexWait
  obtain ⟨hfront, -, hfl, -, hothers, hmem⟩ := traps_takeTrap (stallTrap p qs s.indexWait) hc hcause
  refine ⟨_, (exec_queueStall hrun hlim hstall hqs).trans (congrArg Host.Outcome.next (takeStall_eq qs hl)), ?_, ?_, ?_, ?_, ?_, hfl, hothers, hmem, ?_⟩
  · rw [hfront, front_stalledAt]; exact hpc
  · rw [hfront]; rfl
  · rw [hfront]; exact stallTrap_eval p qs s.indexWait
  · rw [hfront, ← hvstart]; rfl
  · rw [hfront, front_stalledAt]; exact hvec
  · rw [core_takeTrap _ hc.1 hc.2 hcause]
    exact core_stalled s p

/-! Lane timing, grammar results and requests. -/

theorem microOperationStart_counts (die core bed cost : Nat) {s : State} (hd : die < 3) (hc : core < 128) (hb : bed < 16)
    (hbed : bed ∉ (s.core die core).retired) : ∃ t, exec (.microOperationStart die core bed cost) s = .next t ∧ SameButPkg s t
      ∧ t.core die core = { s.core die core with clane := (s.core die core).clane + BitVec.ofNat 64 cost } := by
  refine ⟨_, congrArg Host.Outcome.next (if_pos (by simp [hd, hc, hb, hbed])), ⟨rfl, rfl, rfl, fun _ => rfl⟩, ?_⟩
  rw [core_setCore, if_pos rfl]

theorem grammarResult_delivers {s : State} {p : GPend} {rest : List GPend} (hp : s.cpu.back.gram.pend = p :: rest) (hf : p.fault = none) :
    exec .grammarResult s = .next (s.setBack { s.cpu.back with gram := { s.cpu.back.gram with pend := rest } }) := by
  change execGrammarResult s = _
  unfold execGrammarResult
  dsimp only
  rw [hp]
  unfold eraseFirst
  rw [hf]
  rfl

theorem requestMove_reason (f : Front) {reason : Nat} (h : reason < 4) (hm : f.mreq.getLsbD 0 = false) :
    ∃ m, f.requestMove reason = { f with mreq := m } ∧ m.toNat = f.mreq.toNat / 65536 * 65536 + 256 * reason + 1 := by
  unfold Front.requestMove
  rw [bitAt_zero, hm]
  refine ⟨_, if_neg Bool.false_ne_true, ?_⟩
  rw [BitVec.toNat_ofNat]
  omega

theorem migrationRequest_sets (reason : Fin 4) {s : State} (hrun : s.cpu.status = .running) (hm : s.cpu.front.mreq.getLsbD 0 = false) :
    ∃ t, exec (.migrationRequest s.cpu.id.uid reason) s = .next t
      ∧ t.cpu = { s.cpu with front := { s.cpu.front with mreq := t.cpu.front.mreq } }
      ∧ t.cpu.front.mreq.toNat = s.cpu.front.mreq.toNat / 65536 * 65536 + 256 * reason.val + 1
      ∧ t.others = s.others ∧ t.pkg = s.pkg ∧ SameMem s t := by
  obtain ⟨m, hreq, hval⟩ := requestMove_reason s.cpu.front reason.isLt hm
  refine ⟨{ s with cpu := { s.cpu with front := { s.cpu.front with mreq := m } } }, ?_, rfl, hval, rfl, rfl, fun _ => rfl⟩
  change execMigrationRequest s.cpu.id.uid reason s = _
  unfold execMigrationRequest
  rw [hart?_self (by rw [hrun]; decide)]
  dsimp only
  rw [if_pos hrun, hreq]
  unfold State.putHart
  rw [if_pos rfl]

/-! Migration. -/

/-- Whatever a hart names as its parent, a hart that no other one names as its own has no descendant but itself. -/
theorem descendants_alone {s : State} (hk : ∀ h ∈ s.others, h.id.parent ≠ some s.cpu.id.uid) (n : Nat) :
    ∀ h ∈ descendants s.harts n s.cpu.id.uid, h = s.cpu := by
  induction n with
  | zero => exact fun h hh => by cases hh
  | succ n ih =>
    intro h hh
    unfold descendants at hh
    obtain ⟨k, hmem, hin⟩ := List.mem_flatMap.mp hh
    obtain ⟨hharts, hpar⟩ := List.mem_filter.mp hmem
    have hself : k = s.cpu := by
      rcases List.mem_cons.mp (List.mem_filter.mp hharts).1 with rfl | ho
      · rfl
      · have hpar' : k.id.parent = some s.cpu.id.uid := by
          rw [Bool.and_eq_true, decide_eq_true_eq] at hpar
          exact hpar.1
        exact absurd hpar' (hk k ho)
    rw [hself] at hin
    rcases List.mem_cons.mp hin with rfl | hin
    · rfl
    · exact ih h hin

/-- A quiet hart that stands alone moves to its reserved share. -/
theorem migrate_of_alone {s : State} {r : Reservation} (hq : Quiet s) (hgo : s.chosenToGo = false) (hm : MayMove s)
    (hfit : s.fitsAt (r.core, r.slot) = true) : s.migrate r = (s.moveHart (r.core, r.slot) r.regs r.first r.len).compute 4 r.d 1 := by
  obtain ⟨hahead, hkids⟩ := hm
  have hd := descendants_alone hkids 3
  have hsettle : ∀ l : List Nat, (∀ u ∈ l, u = s.cpu.id.uid) → l.foldl (fun s u => s.asHart u State.settleMove) s = s := fun l => by
    intro hl
    induction l with
    | nil => rfl
    | cons u l ih =>
      have hu : u = s.cpu.id.uid := hl u List.mem_cons_self
      have hself : s.asHart u State.settleMove = s := by
        unfold State.asHart
        rw [if_pos hu.symm, hq.settleMove]
      rw [List.foldl_cons, hself]
      exact ih fun x hx => hl x (List.mem_cons_of_mem _ hx)
  have hall : (s.family s.cpu).all (fun h => s.moveReady h && (decide (h.id.uid = s.cpu.id.uid) || s.interruptible h)) = true := by
    rw [List.all_eq_true]
    intro h hh
    have hself : h = s.cpu := (List.mem_cons.mp hh).elim id (hd h)
    rw [hself, hq.moveReady]
    simp
  unfold State.migrate
  dsimp only
  rw [hgo, if_neg Bool.false_ne_true, hq.settleMove, hsettle, hfit, hahead, hall]
  · rfl
  · intro u hu
    obtain ⟨h, hh, rfl⟩ := List.mem_map.mp hu
    rw [hd h hh]

theorem migration_moves {s : State} {r : Reservation} (hrun : s.cpu.status = .running) (hq : Quiet s) (hm : MayMove s)
    (hgo : s.chosenToGo = false) (hres : s.reservation = some r) (hfit : s.fitsAt (r.core, r.slot) = true) :
    ∃ t, exec .migration s = .next t ∧ WritesX s t r.d 1 ∧ t.cpu.front.pc = s.cpu.front.pc + 4 ∧ t.cpu.front.mreq = 0
      ∧ (t.cpu.id.core, t.cpu.id.slot) = (r.core, r.slot) ∧ t.cpu.id.uid = s.cpu.id.uid ∧ SameMem s t := by
  have hold : s.oldest = true := List.isEmpty_iff.mpr hq.1
  obtain ⟨hfront, hid, hmem⟩ := moveHart_spec s (r.core, r.slot) r.regs r.first r.len
  have hexec : exec .migration s = .next (State.count s ((s.moveHart (r.core, r.slot) r.regs r.first r.len).compute 4 r.d 1)) := by
    change execMigration s = _
    unfold execMigration
    rw [hres]
    dsimp only
    rw [hold, hrun, if_pos (by decide), migrate_of_alone hq hgo hm hfit]
  generalize s.moveHart (r.core, r.slot) r.regs r.first r.len = u at hexec hfront hid hmem
  obtain ⟨⟨hx, hxs⟩, hret, hhart, -, -, -, hsame⟩ := compute_spec u 4 r.d 1
  have hget : ∀ k, u.getX k = s.getX k := fun k => by
    unfold State.getX
    rw [hfront]
    rfl
  have hcpu : (u.compute 4 r.d 1).cpu.id = u.cpu.id := by rw [hhart]
  refine ⟨_, hexec, ⟨hx, fun k hk => (hxs k hk).trans (hget k)⟩, ?_, ?_, ?_, ?_, fun k => ?_⟩
  · change (u.compute 4 r.d 1).cpu.front.pc = _
    rw [hret, hfront]
    rfl
  · change (u.compute 4 r.d 1).cpu.front.mreq = _
    rw [hret, hfront]
  · change ((u.compute 4 r.d 1).cpu.id.core, (u.compute 4 r.d 1).cpu.id.slot) = _
    rw [hcpu, hid]
    simp [Ident.reseat]
  · change (u.compute 4 r.d 1).cpu.id.uid = _
    rw [hcpu, hid]
    rfl
  · change readCell (u.compute 4 r.d 1).mem k = _
    rw [hsame, hmem]

/-! The load or store in flight going on. -/

theorem inbound_goingOn (s : State) (p : Pend) (uid : Nat) : (goingOn s p).inbound uid = s.inbound uid := by
  unfold State.inbound State.harts goingOn
  simp only [List.filter_cons]
  split
  · simp only [List.flatMap_cons]
  · rfl

/-- Nothing is in the way of a hart's only instruction in flight: it owes nothing, nothing of the grammar engine is pending and no copy comes. -/
theorem start_goingOn {s : State} {p : Pend} (run : Instr → State → State) (howed : p.owed = []) (hpend : s.cpu.back.gram.pend = [])
    (hcome : s.inbound s.cpu.id.uid = []) : State.start run p.instr (goingOn s p) = run p.instr (goingOn s p) := by
  have hbusy : (goingOn s p).xBusy p.instr = false := by
    unfold State.xBusy
    rw [show (goingOn s p).cpu.owed = p.owed from rfl, howed]
    simp
  have hin : (goingOn s p).inbound (goingOn s p).cpu.id.uid = [] := (inbound_goingOn s p s.cpu.id.uid).trans hcome
  have hg : (goingOn s p).cpu.back.gram.pend = [] := hpend
  have hparks : (goingOn s p).parks p.instr = false := by
    unfold State.parks
    rw [hbusy, hin]
    simp
  have hfault : (goingOn s p).joinFault p.instr = none := by
    unfold State.joinFault
    rw [hg]
    rfl
  have hsettle : (goingOn s p).settleGrammar p.instr = goingOn s p := by
    unfold State.settleGrammar
    rw [hg]
    rfl
  unfold State.start
  rw [hparks, hfault, hsettle]
  exact if_neg Bool.false_ne_true

/-- What the hart keeps behind an access that has gone to its end. -/
def AccessEnded (s u t : State) : Prop :=
  t.cpu.inflight = [] ∧ t.cpu.back = u.cpu.back ∧ t.mem = u.mem ∧ t.cpu.front.instret = s.cpu.front.instret
    ∧ t.cpu.front.pc = s.cpu.front.pc

theorem settled_pc (f b : Front) (p : Pend) : (f.settled p b).instret = f.instret ∧ (f.settled p b).pc = f.pc := by
  unfold Front.settled
  split
  · split <;> exact ⟨rfl, rfl⟩
  · exact ⟨rfl, rfl⟩

theorem withX_kept (f : Front) (x : Vector W64 32) :
    ({ f with x := x } : Front).instret = f.instret ∧ ({ f with x := x } : Front).pc = f.pc := ⟨rfl, rfl⟩

/-- What an instruction delivers to the stream moves neither its count nor its place. -/
theorem deliver_kept (f b : Front) (owed : List (Nat × Nat)) (no : Nat) :
    (f.deliver owed no b).instret = f.instret ∧ (f.deliver owed no b).pc = f.pc := withX_kept f _

/-- The only instruction in flight goes to its end: its effects are the hart's, and the stream stays where it was. -/
theorem resumePend_ends {s : State} {p : Pend} {run : Instr → State → State} {u : State} (hin : s.cpu.inflight = [p])
    (hrun : run p.instr (goingOn s p) = u) (hstat : u.cpu.status = s.cpu.status) (htrap : u.cpu.trapped = false)
    (hfl : u.cpu.inflight = []) (hwait : u.cpu.wait = none) (hpend : u.cpu.back.gram.pend = []) :
    AccessEnded s u (s.resumePend run 0).1 := by
  have hgo : run p.instr { s with cpu := { s.cpu with
      front := p.front.now s.cpu.front, inflight := [], lanes := p.sources, owed := p.owed, wait := none, due := p.noted
      trapped := false } } = u := hrun
  have hstay : ¬ (u.cpu.trapped || u.cpu.status != s.cpu.status) = true := by rw [htrap, hstat, bne_self_eq_false]; exact Bool.false_ne_true
  have hwrote : u.cpu.back.wrote p.front.instret.toNat p.instr = u.cpu.back := if_pos (by rw [hpend]; rfl)
  unfold State.resumePend
  simp only [hin, List.getElem?_cons_zero, List.take_zero, List.drop_succ_cons, List.length_nil, List.map_nil, hgo,
    if_neg hstay, hfl, hwait, List.drop_nil, Option.isSome_none, Option.isNone_none, List.isEmpty_nil, Bool.and_self, if_true,
    Bool.false_eq_true, if_false, State.setBack, hwrote]
  obtain ⟨hret, hpc⟩ := settled_pc s.cpu.front u.cpu.front p
  obtain ⟨hret', hpc'⟩ := deliver_kept (s.cpu.front.settled p u.cpu.front) u.cpu.front s.cpu.owed p.front.instret.toNat
  refine ⟨rfl, rfl, rfl, ?_, ?_⟩
  · dsimp only
    rw [hret', hret]
  · dsimp only
    rw [hpc', hpc]

/-- The load or store in flight, of a hart with no other, goes to its end. -/
theorem accessGoes_ends {s : State} {p : Pend} {ok : Instr → Bool} {run : Instr → State → State} {u : State}
    (hs : s.cpu.status = .running) (hin : s.cpu.inflight = [p]) (howed : p.owed = []) (hpend : s.cpu.back.gram.pend = [])
    (hcome : s.inbound s.cpu.id.uid = []) (hok : ok p.instr = true) (hside : sideOf p.instr = 1)
    (hframe : ∀ i s, Frame s (run i s)) (hrun : run p.instr (goingOn s p) = u) (hfl : u.cpu.inflight = []) (hwait : u.cpu.wait = none)
    (htrap : u.cpu.trapped = false) (hstat : u.cpu.status = .running) :
    AccessEnded s u (s.accessGoes ok run) := by
  have hgoes : s.accessGoes ok run = State.count s (s.resumePend (State.start run) 0).1 := by
    unfold State.accessGoes
    rw [hin, List.findIdx?_cons, decide_eq_true hside, if_pos rfl]
    exact if_pos (show (decide (s.cpu.status = .running) && ok p.instr) = true by rw [hs, hok]; rfl)
  have hpend' : u.cpu.back.gram.pend = [] := by
    have h := (hrun ▸ hframe p.instr (goingOn s p)).hart (by change s.cpu.status ≠ _; rw [hs]; decide)
    exact h.2.trans hpend
  obtain ⟨h1, h2, h3, h4, h5⟩ := resumePend_ends hin ((start_goingOn run howed hpend hcome).trans hrun) (hstat.trans hs.symm) htrap hfl
    hwait hpend'
  rw [hgoes]
  exact ⟨h1, h2, h3, h4, h5⟩

theorem sideOf_loadsInto {i : Instr} (h : (loadsInto i).isSome) : sideOf i = 1 := by
  unfold loadsInto at h
  split at h
  all_goals first | rfl | exact absurd h (by decide)

theorem sideOf_storesFrom {i : Instr} (h : (storesFrom i).isSome) : sideOf i = 1 := by
  unfold storesFrom at h
  split at h
  all_goals first | rfl | exact absurd h (by decide)

/-- A load form means what it does when it is run. -/
theorem runLoad_exec {i : Instr} {s u : State} (h : (loadsInto i).isSome) (hu : exec i s = .next u) : runLoad i s = u := by
  have hst : ∀ o : Out, o = .next u → o.state s = u := fun o ho => by rw [ho]; rfl
  unfold loadsInto at h
  split at h
  all_goals first | exact hst _ hu | exact absurd h (by decide)

/-- A store form means what it does when it is run. -/
theorem runStore_exec {i : Instr} {s u : State} (h : (storesFrom i).isSome) (hu : exec i s = .next u) : runStore i s = u := by
  have hst : ∀ o : Out, o = .next u → o.state s = u := fun o ho => by rw [ho]; rfl
  unfold storesFrom at h
  split at h
  all_goals first | exact hst _ hu | exact absurd h (by decide)

theorem loadRowDelivery_goesOn {s : State} {p : Pend} (hs : s.cpu.status = .running) (hin : s.cpu.inflight = [p]) (howed : p.owed = [])
    (hpend : s.cpu.back.gram.pend = []) (hcome : s.inbound s.cpu.id.uid = []) (hload : (loadsInto p.instr).isSome) :
    ∃ t, exec .loadRowDelivery s = .next t ∧ ∀ u, exec p.instr (goingOn s p) = .next u → u.cpu.inflight = [] → u.cpu.wait = none →
      u.cpu.trapped = false → u.cpu.status = .running → AccessEnded s u t :=
  ⟨_, rfl, fun _ hu => accessGoes_ends hs hin howed hpend hcome hload (sideOf_loadsInto hload) frame_runLoad (runLoad_exec hload hu)⟩

theorem storeRowDrain_goesOn {s : State} {p : Pend} (hs : s.cpu.status = .running) (hin : s.cpu.inflight = [p]) (howed : p.owed = [])
    (hpend : s.cpu.back.gram.pend = []) (hcome : s.inbound s.cpu.id.uid = []) (hstore : (storesFrom p.instr).isSome) :
    ∃ t, exec .storeRowDrain s = .next t ∧ ∀ u, exec p.instr (goingOn s p) = .next u → u.cpu.inflight = [] → u.cpu.wait = none →
      u.cpu.trapped = false → u.cpu.status = .running → AccessEnded s u t :=
  ⟨_, rfl, fun _ hu => accessGoes_ends hs hin howed hpend hcome hstore (sideOf_storesFrom hstore) frame_runStore
    (runStore_exec hstore hu)⟩

/-- Settles O48: each event by its lemma. -/
theorem hartEvents : Obligations.HartEvents := by
  unfold Obligations.HartEvents
  exact ⟨fun _ _ => trapEntry_traps, fun _ _ _ => queueStall_traps, fun _ => rfl, fun die core bed cost _ => microOperationStart_counts die core bed cost,
    fun _ _ _ _ => rfl,
    fun _ _ hs hin howed hpend hcome =>
      ⟨loadRowDelivery_goesOn hs hin howed hpend hcome, storeRowDrain_goesOn hs hin howed hpend hcome⟩,
    fun _ _ _ => grammarResult_delivers, fun reason _ => migrationRequest_sets reason, fun _ _ => migration_moves⟩

end Sys2Proof.Claims
end

section
/-! PROOF. Canonical memory stays canonical (log 1): the rules that compose. -/

namespace Sys2Proof.Claims

open Sys2Proof Sys2Proof.Machine

theorem Canon.of_eq {s t u : State} (h : Canon s t) (e : u.mem = t.mem) : Canon s u := h.trans (Canon.of_mem e)

/-- A state with the memory of another. -/
theorem Canon.upd {s t : State} (h : Canon s t) {c : Hart} {o : List Hart} {p : Pkg} {a : List AgendaItem} {k : Nat} :
    Canon s ⟨c, o, t.mem, p, a, k⟩ := h

theorem Canon.foldl {α : Type} {s t : State} (h : Canon s t) {f : State → α → State} (hf : ∀ u x, Canon u (f u x)) {l : List α} :
    Canon s (l.foldl f t) := by
  induction l generalizing t with
  | nil => exact h
  | cons x l ih => exact ih (h.trans (hf t x))

theorem Canon.upto {s t : State} (h : Canon s t) {f : Nat → State → State} (hf : ∀ k u, Canon u (f k u)) {n : Nat} :
    Canon s (upto n f t) := by
  induction n with
  | zero => exact h
  | succ n ih =>
    rw [upto_succ]
    exact ih.trans (hf n _)

/-- Wherever an instruction goes on, memory that was canonical is. -/
def Ends (s : State) (o : Out) : Prop := ∀ t, o = .next t → Canon s t

theorem Ends.next {s t : State} (h : Canon s t) : Ends s (.next t) := fun _ ht => by
  cases ht
  exact h

theorem Ends.refused (s : State) (r : Refusal) : Ends s (.refused r) := fun _ ht => by cases ht

theorem Ends.fault (s : State) (f : Fault) : Ends s (.fault f) := fun _ ht => by cases ht

theorem Ends.ite {s : State} {a b : Out} (c : Prop) [Decidable c] (ha : Ends s a) (hb : Ends s b) : Ends s (if c then a else b) := by
  split
  · exact ha
  · exact hb

end Sys2Proof.Claims
end

section
/-! PROOF. Each operation on the state keeps canonical memory canonical (log 1): memory, registers, launches. -/

namespace Sys2Proof.Claims

open Sys2Proof Sys2Proof.Machine

theorem Canon.tock {s t : State} (hc : Canon s t) : Canon s t.tock :=
  hc.of_eq (State.tock_mem _)

theorem Canon.swapIn {s t : State} (hc : Canon s t) {k : ℕ} : Canon s (t.swapIn k) := by
  unfold State.swapIn
  split
  · exact hc
  · exact hc.upd

theorem Canon.putHart {s t : State} (hc : Canon s t) {h : Hart} : Canon s (t.putHart h) := hc.trans (canon_putHart t h)

theorem Canon.setWq {s t : State} (hc : Canon s t) {q : ℕ} {w : WQ} : Canon s (t.setWq q w) :=
  hc.of_eq (State.setWq_mem _ _ _)

theorem Canon.countDrop {s t : State} (hc : Canon s t) {d : ℕ} {by_ : Agent} : Canon s (t.countDrop d by_) :=
  hc.of_eq (State.countDrop_mem _ _ _)

theorem Canon.wqDrop {s t : State} (hc : Canon s t) {q : ℕ} {by_ : Agent} : Canon s (t.wqDrop q by_) :=
  hc.of_eq (State.wqDrop_mem _ _ _)

theorem Canon.refuseWrite {s t : State} (hc : Canon s t) {by_ : Agent} {a : ℕ} : Canon s (t.refuseWrite by_ a) := by
  unfold State.refuseWrite
  split
  · exact hc.countDrop
  · exact hc.countDrop
  · exact hc.countDrop
  · exact hc.wqDrop
  · exact hc.countDrop
  · exact hc.countDrop

theorem Canon.wqWrite {s t : State} (hc : Canon s t) {by_ : Agent} {q off : ℕ} {v : W64} : Canon s (t.wqWrite by_ q off v) :=
  hc.of_eq (State.wqWrite_mem _ _ _ _ _)

theorem Canon.setCore {s t : State} (hc : Canon s t) {d p : ℕ} {c : CoreSt} : Canon s (t.setCore d p c) :=
  hc.of_eq (State.setCore_mem _ _ _ _)

theorem Canon.requestStatement {s t : State} (hc : Canon s t) {p : ℕ} : Canon s (t.requestStatement p) :=
  hc.of_eq (State.requestStatement_mem _ _)

theorem Canon.mgmtWrite {s t : State} (hc : Canon s t) {by_ : Agent} {d off : ℕ} {v : W64} : Canon s (t.mgmtWrite by_ d off v) :=
  fun hs => State.mgmtWrite_wf _ _ _ _ _ (hc hs)

theorem Canon.regWrite {s t : State} (hc : Canon s t) {by_ : Agent} {d a : ℕ} {l : List Byte} : Canon s (t.regWrite by_ d a l) :=
  fun hs => State.regWrite_wf _ _ _ _ _ (hc hs)

theorem Canon.regWrites {s t : State} (hc : Canon s t) {fuel : ℕ} {by_ : Agent} {a : ℕ} {l : List Byte} :
    Canon s (State.regWrites fuel by_ a l t) := by
  induction fuel generalizing a l t with
  | zero => exact hc
  | succ fuel ih => exact Canon.ite _ hc (ih hc.regWrite)

theorem Canon.meetStrips {s t : State} (hc : Canon s t) {mine : Bool} {keys : List ℕ} : Canon s (t.meetStrips mine keys) :=
  hc.trans (frame_meetStrips _ _ _).canon

theorem Canon.putBytes {s t : State} (hc : Canon s t) {d k : ℕ} {l : List Byte} : Canon s (t.putBytes d k l) :=
  hc.trans (frame_putBytes _ _ _ _).canon

theorem Canon.agentBytes {s t : State} (hc : Canon s t) {d k : ℕ} {l : List Byte} : Canon s (t.agentBytes d k l) := by
  unfold State.agentBytes
  exact hc.meetStrips.putBytes

theorem Canon.outsideWrite {s t : State} (hc : Canon s t) {a : ℕ} {l : List Byte} : Canon s (t.outsideWrite a l) := by
  unfold State.outsideWrite
  exact hc.agentBytes

theorem Canon.readLines {s t : State} (hc : Canon s t) {d : ℕ} {keys : List ℕ} : Canon s (t.readLines d keys) := by
  unfold State.readLines
  exact hc.upd

theorem Canon.countUe {s t : State} (hc : Canon s t) {d kind : ℕ} : Canon s (t.countUe d kind) :=
  hc.of_eq (State.countUe_mem _ _ _)

theorem Canon.fenceFrame {s t : State} (hc : Canon s t) {a : ℕ} : Canon s (t.fenceFrame a) :=
  hc.of_eq (State.fenceFrame_mem _ _)

theorem Canon.dropWord {s t : State} (hc : Canon s t) {kind a : ℕ} : Canon s (t.dropWord kind a) :=
  fun hs => State.dropWord_wf _ _ _ (hc hs)

theorem Canon.sweep {s t : State} (hc : Canon s t) {a n : ℕ} : Canon s (t.sweep a n) := by
  unfold State.sweep
  exact hc.foldl (fun u _ => (Canon.refl u).dropWord)

theorem Canon.fabricRead {s t : State} (hc : Canon s t) {a n : ℕ} : Canon s (t.fabricRead a n) := by
  unfold State.fabricRead
  exact Canon.ite _ hc.upd (Canon.ite _ hc.readLines.upd (hc.foldl (fun u _ => (Canon.refl u).dropWord)).upd)

theorem Canon.launchFault {s t : State} (hc : Canon s t) {t' : TrapInfo} : Canon s (t.launchFault t') :=
  hc.of_eq (State.launchFault_mem _ _)

theorem Canon.asHart {s t : State} (hc : Canon s t) {uid : ℕ} {f : State → State} (hf : ∀ u, Canon u (f u)) : Canon s (t.asHart uid f) := by
  unfold State.asHart
  refine Canon.ite _ (hc.trans (hf _)) ?_
  split
  · exact hc
  · exact (hc.upd.trans (hf _)).upd

theorem Canon.faultAll {s t : State} (hc : Canon s t) : Canon s t.faultAll := by
  unfold State.faultAll
  refine hc.foldl (fun u _ => Canon.ite _ (Canon.refl u) ?_)
  split
  · exact (Canon.refl u).asHart (fun u => (Canon.refl u).launchFault)
  · exact Canon.refl u

theorem Canon.countCe {s t : State} (hc : Canon s t) {d kind : ℕ} : Canon s (t.countCe d kind) := by
  unfold State.countCe
  exact Canon.ite _ hc.upd hc

theorem Canon.bootPartition {s t : State} (hc : Canon s t) {e : ℕ × ℕ × ℕ} : Canon s (t.bootPartition e) :=
  fun hs => State.bootPartition_wf _ _ (hc hs)

theorem Canon.resetTo {s t : State} (hc : Canon s t) {p : Pkg} : Canon s (t.resetTo p) :=
  fun hs => keysRise_map t.mem _ (hc hs)

theorem Canon.commandDone {s t : State} (hc : Canon s t) {res : ℕ} : Canon s (t.commandDone res) := by
  unfold State.commandDone
  exact hc.upd

theorem Canon.setVitrine {s t : State} (hc : Canon s t) {v : ℕ} {x : Vitrine} : Canon s (t.setVitrine v x) := by
  unfold State.setVitrine
  exact hc.upd

theorem Canon.pin {s t : State} (hc : Canon s t) {v : ℕ} {up : Bool} : Canon s (t.pin v up) := by
  unfold State.pin
  exact hc.setVitrine

theorem Canon.dropCode {s t : State} (hc : Canon s t) {place : Option ℕ} {a n : ℕ} : Canon s (t.dropCode place a n) := by
  unfold State.dropCode
  exact hc.upd

theorem Canon.performLoad {s t : State} (hc : Canon s t) {c : CodeLoad} : Canon s (t.performLoad c) := by
  unfold State.performLoad
  exact (((hc.foldl (fun u _ => (Canon.refl u).pin)).agentBytes.foldl (fun u _ => (Canon.refl u).agentBytes)).foldl (fun u _ => (Canon.refl
      u).dropCode)).upd

theorem Canon.setLog {s t : State} (hc : Canon s t) {p : ℕ} {x : Part} : Canon s (t.setLog p x) :=
  hc.of_eq (State.setLog_mem _ _ _)

theorem Canon.queueWrite {s t : State} (hc : Canon s t) {by_ : Agent} {q off : ℕ} {v : W64} : Canon s (t.queueWrite by_ q off v) := by
  unfold State.queueWrite
  exact Canon.ite _ hc.countDrop (Canon.ite _ hc.wqDrop hc.wqWrite)

theorem Canon.physWrite {s t : State} (hc : Canon s t) {by_ : Agent} {d pa : ℕ} {l : List Byte} : Canon s (t.physWrite by_ d pa l) :=
  fun hs => State.physWrite_wf _ _ _ _ _ (hc hs)

theorem Canon.physWrites {s t : State} (hc : Canon s t) {by_ : Agent} {d : ℕ} {pas : List ℕ} {l : List Byte} : Canon s (t.physWrites by_ d pas
    l) :=
  fun hs => State.physWrites_wf _ _ _ _ _ (hc hs)

theorem Canon.physWriteList {s t : State} (hc : Canon s t) {by_ : Agent} {d : ℕ} {pas : List ℕ} {l : List Byte} : Canon s (t.physWriteList by_
    d pas l) :=
  hc.trans (frame_physWriteList _ _ _ _ _).canon

theorem Canon.launchWrite {s t : State} (hc : Canon s t) {g : Gang} {va : ℕ} {l : List Byte} : Canon s (t.launchWrite g va l) := by
  unfold State.launchWrite
  split
  · exact hc
  · exact hc.physWriteList

theorem Canon.dropRemote {s t : State} (hc : Canon s t) {d k : ℕ} : Canon s (t.dropRemote d k) :=
  fun hs => State.dropRemote_wf _ _ _ (hc hs)

theorem Canon.setBack {s t : State} (hc : Canon s t) {b : Back} : Canon s (t.setBack b) := hc.of_eq (State.setBack_mem t b)

theorem Canon.dropLaneRow {s t : State} (hc : Canon s t) {eval : ℕ} : Canon s (t.dropLaneRow eval) :=
  hc.of_eq (State.dropLaneRow_mem _ _)

theorem Canon.evictLine {s t : State} (hc : Canon s t) {d a : ℕ} : Canon s (t.evictLine d a) := by
  unfold State.evictLine
  exact hc.upd

theorem Canon.dropLine {s t : State} (hc : Canon s t) {d a : ℕ} : Canon s (t.dropLine d a) :=
  fun hs => State.dropLine_wf _ _ _ (hc hs)

theorem Canon.dropBad {s t : State} (hc : Canon s t) {kind eval : ℕ} : Canon s (t.dropBad kind eval) :=
  hc.trans (frame_dropBad _ _ _).canon

theorem Canon.bumpWord {s t : State} (hc : Canon s t) {d pa : ℕ} : Canon s (t.bumpWord d pa) := by
  unfold State.bumpWord
  split
  · exact Canon.ite _ hc.dropBad hc
  · exact hc.physWriteList.upd

theorem Canon.bumpCword {s t : State} (hc : Canon s t) {g : Gang} : Canon s (t.bumpCword g) := by
  unfold State.bumpCword
  refine Canon.ite _ hc ?_
  split
  · exact hc
  · exact hc.bumpWord

theorem Canon.wqDone {s t : State} (hc : Canon s t) {q : ℕ} : Canon s (t.wqDone q) := by
  unfold State.wqDone
  exact hc.setWq

theorem Canon.dropGang {s t : State} (hc : Canon s t) {gid : ℕ} : Canon s (t.dropGang gid) := by
  unfold State.dropGang
  exact hc.upd

theorem Canon.appendRecord {s t : State} (hc : Canon s t) {p : ℕ} {bytes : List Byte} : Canon s (t.appendRecord p bytes) := by
  unfold State.appendRecord
  exact Canon.ite _ hc.setLog.countDrop hc.setLog.putBytes

theorem Canon.appendOf {s t : State} (hc : Canon s t) {p : ℕ} {who : AccRec → Bool} : Canon s (t.appendOf p who) := by
  unfold State.appendOf
  dsimp only
  split
  · exact hc
  · exact hc.setLog.appendRecord

theorem Canon.writeRecords {s t : State} (hc : Canon s t) {uid : ℕ} : Canon s (t.writeRecords uid) := by
  unfold State.writeRecords
  exact hc.upto (fun _ u => (Canon.refl u).upto (fun _ u => (Canon.refl u).appendOf))

theorem Canon.setChan {s t : State} (hc : Canon s t) {c : ℕ} {x : Chan} : Canon s (t.setChan c x) :=
  hc.trans (frame_setChan _ _ _).canon

theorem Canon.settleBefore {s t : State} (hc : Canon s t) {no : ℕ} {pas : List ℕ} : Canon s (t.settleBefore no pas) := by
  unfold State.settleBefore
  exact hc.setBack

theorem Canon.copyOut {s t : State} (hc : Canon s t) {no : ℕ} {pas : List ℕ} {l : List Byte} : Canon s (t.copyOut no pas l) :=
  hc.trans (frame_copyOut _ _ _ _).canon

theorem Canon.noteWriteAt {s t : State} (hc : Canon s t) {no sub va : ℕ} {l : List Byte} : Canon s (t.noteWriteAt no sub va l) :=
  hc.trans (frame_noteWriteAt _ _ _ _ _).canon

theorem Canon.copyGroup {s t : State} (hc : Canon s t) {c : ℕ} {o : CopyOp} : Canon s (t.copyGroup c o) :=
  hc.trans (frame_copyGroup _ _ _).canon

theorem Canon.chanStep {s t : State} (hc : Canon s t) {fuel c : ℕ} : Canon s (State.chanStep fuel c t) :=
  hc.trans (frame_chanStep _ _ _).canon

theorem Canon.copyStep {s t : State} (hc : Canon s t) {c : ℕ} : Canon s (State.copyStep c t) := by
  unfold State.copyStep
  exact hc.chanStep

theorem Canon.runUntil {s t : State} (hc : Canon s t) {c : ℕ} {stop : Chan → Bool} : Canon s (State.runUntil c stop t) :=
  hc.trans (frame_runUntil _ _ _).canon

theorem Canon.restChannels {s t : State} (hc : Canon s t) : Canon s t.restChannels := by
  unfold State.restChannels
  exact hc.upto (fun _ u => (Canon.refl u).runUntil)

theorem Canon.performOf {s t : State} (hc : Canon s t) {h : Hart} : Canon s (t.performOf h) := by
  unfold State.performOf
  exact (Canon.ite _ hc (hc.asHart (fun u => (Canon.refl u).restChannels))).writeRecords

theorem Canon.performGang {s t : State} (hc : Canon s t) {g : Gang} : Canon s (t.performGang g) := by
  unfold State.performGang
  exact hc.foldl (fun u _ => (Canon.refl u).performOf)

theorem Canon.completeGang {s t : State} (hc : Canon s t) {g : Gang} : Canon s (t.completeGang g) := by
  unfold State.completeGang
  exact (Canon.ite _ hc.performGang.upd hc.performGang).launchWrite.bumpCword.wqDone.dropGang

theorem Canon.regrant {s t : State} (hc : Canon s t) {gid : ℕ} : Canon s (t.regrant gid) := by
  unfold State.regrant
  exact hc.upd

theorem Canon.setGang {s t : State} (hc : Canon s t) {g : Gang} : Canon s (t.setGang g) :=
  hc.of_eq (State.setGang_mem _ _)

theorem Canon.sow {s t : State} (hc : Canon s t) {g : Gang} {seats : List (Seat × ℕ × ℕ)} : Canon s (t.sow g seats) := by
  unfold State.sow
  exact hc.setGang.upd.regrant

theorem Canon.reject {s t : State} (hc : Canon s t) {q : ℕ} {p : List ℕ} {g : Gang} {reason : ℕ} : Canon s (t.reject q p g reason) := by
  unfold State.reject
  exact (Canon.ite _ (Canon.ite _ (Canon.ite _ hc.setWq hc.setWq.upd) (Canon.ite _ hc.setWq hc.setWq.upd).launchWrite) (Canon.ite _ (Canon.ite
      _ hc.setWq hc.setWq.upd) (Canon.ite _ hc.setWq hc.setWq.upd).launchWrite).bumpCword).wqDone

theorem Canon.sweepAt {s t : State} (hc : Canon s t) {c : Ctx} {va n : ℕ} : Canon s (t.sweepAt c va n) := by
  unfold State.sweepAt
  split
  · exact hc
  · exact Canon.ite _ hc.sweep hc

theorem Canon.sweepWaits {s t : State} (hc : Canon s t) {c : Ctx} {p : List ℕ} : Canon s (t.sweepWaits c p) := by
  unfold State.sweepWaits
  exact hc.foldl (fun u _ => (Canon.refl u).sweepAt)

theorem Canon.areaWrite {s t : State} (hc : Canon s t) {h : Hart} {off : ℕ} {l : List Byte} : Canon s (t.areaWrite h off l) := by
  unfold State.areaWrite
  refine hc.foldl (fun u _ => ?_)
  split
  · exact Canon.refl u
  · exact (Canon.refl u).physWriteList

theorem Canon.saveHart {s t : State} (hc : Canon s t) {h : Hart} : Canon s (t.saveHart h) := by
  unfold State.saveHart
  exact (hc.foldl (fun u _ => (Canon.refl u).areaWrite)).areaWrite.tock

end Sys2Proof.Claims
end

section
/-! PROOF. Each operation on the state keeps canonical memory canonical (log 1): traps, loads, engines. -/

namespace Sys2Proof.Claims

open Sys2Proof Sys2Proof.Machine

theorem Canon.deliverGrammar {s t : State} (hc : Canon s t) : Canon s t.deliverGrammar := by
  unfold State.deliverGrammar
  exact hc.setBack

theorem Canon.takeHart {s t : State} (hc : Canon s t) {uid : ℕ} : Canon s (t.takeHart uid) := by
  unfold State.takeHart
  split
  · exact hc
  · exact hc.putHart.saveHart.putHart

theorem Canon.settleInbound {s t : State} (hc : Canon s t) : Canon s t.settleInbound := by
  unfold State.settleInbound
  exact hc.foldl (fun u _ => (Canon.refl u).asHart (fun u => (Canon.refl u).runUntil))

theorem Canon.restEngines {s t : State} (hc : Canon s t) : Canon s t.restEngines := by
  unfold State.restEngines
  exact hc.restChannels.settleInbound

theorem Canon.preempt {s t : State} (hc : Canon s t) {gid : ℕ} : Canon s (t.preempt gid) := by
  unfold State.preempt
  exact Canon.ite _ (hc.foldl (fun u _ => (Canon.refl u).asHart (fun u => (Canon.refl u).restEngines))).upd ((hc.foldl (fun u _ => (Canon.refl
      u).asHart (fun u => (Canon.refl u).restEngines))).foldl (fun u _ => (Canon.refl u).takeHart)).upd.upd

theorem Canon.setSlotAddr {s t : State} (hc : Canon s t) {d core slot : ℕ} {a : ℕ × ℕ} : Canon s (t.setSlotAddr d core slot a) := by
  unfold State.setSlotAddr
  exact hc.upd

theorem Canon.swapSlots {s t : State} (hc : Canon s t) {d : ℕ} {a b : ℕ × ℕ} : Canon s (t.swapSlots d a b) := by
  unfold State.swapSlots
  exact hc.setSlotAddr.setSlotAddr

theorem Canon.swapShare {s t : State} (hc : Canon s t) {d : ℕ} {a b : ℕ × ℕ} {n : ℕ} {cores : Bool} : Canon s (t.swapShare d a b n cores) := by
  unfold State.swapShare
  exact Canon.ite _ (hc.upto (fun _ u => (Canon.refl u).swapSlots)).setCore.setCore (hc.upto (fun _ u => (Canon.refl u).swapSlots))

theorem Canon.moveHart {s t : State} (hc : Canon s t) {to_ : ℕ × ℕ} {regs first len : ℕ} : Canon s (t.moveHart to_ regs first len) := by
  unfold State.moveHart
  exact hc.upd.upd.swapShare.regrant

theorem Canon.setFront {s t : State} (hc : Canon s t) {f : Front} : Canon s (t.setFront f) :=
  hc.trans (frame_setFront _ _).canon

theorem Canon.setX {s t : State} (hc : Canon s t) {r : Reg} {v : W64} : Canon s (t.setX r v) :=
  hc.of_eq (State.setX_mem _ _ _)

theorem Canon.retireTo {s t : State} (hc : Canon s t) {target : W64} : Canon s (t.retireTo target) :=
  hc.of_eq (State.retireTo_mem _ _)

theorem Canon.retire {s t : State} (hc : Canon s t) {len : ℕ} : Canon s (t.retire len) :=
  hc.of_eq (State.retire_mem _ _)

theorem Canon.compute {s t : State} (hc : Canon s t) {len : ℕ} {d : Reg} {v : W64} : Canon s (t.compute len d v) := by
  unfold State.compute
  exact hc.setX.retire

theorem Canon.block {s t : State} (hc : Canon s t) {w : Wait} : Canon s (t.block w) :=
  hc.of_eq (State.block_mem _ _)

theorem Canon.refuseMove {s t : State} (hc : Canon s t) {d : Reg} : Canon s (t.refuseMove d) := by
  unfold State.refuseMove
  exact hc.upd.setFront.compute

theorem Canon.finishOutbound {s t : State} (hc : Canon s t) : Canon s t.finishOutbound := by
  unfold State.finishOutbound
  exact hc.upto (fun _ u => (Canon.refl u).runUntil)

theorem Canon.settleMove {s t : State} (hc : Canon s t) : Canon s t.settleMove := by
  unfold State.settleMove
  exact hc.finishOutbound.settleInbound.deliverGrammar

theorem Canon.yieldFirst {s t : State} (hc : Canon s t) : Canon s t.yieldFirst := by
  unfold State.yieldFirst
  exact Canon.ite _ hc.upd.preempt.block hc.upd.preempt

theorem Canon.migrate {s t : State} (hc : Canon s t) {r : Reservation} : Canon s (t.migrate r) := by
  unfold State.migrate
  exact Canon.ite _ hc.yieldFirst (Canon.ite _ (hc.settleMove.foldl (fun u _ => (Canon.refl u).asHart (fun u => (Canon.refl
      u).settleMove))).refuseMove (Canon.ite _ (hc.settleMove.foldl (fun u _ => (Canon.refl u).asHart (fun u => (Canon.refl
      u).settleMove))).block (Canon.ite _ (hc.settleMove.foldl (fun u _ => (Canon.refl u).asHart (fun u => (Canon.refl u).settleMove))).block
      (hc.settleMove.foldl (fun u _ => (Canon.refl u).asHart (fun u => (Canon.refl u).settleMove))).moveHart.compute)))

theorem Canon.count {s t : State} (hc : Canon s t) {before : State} : Canon s (before.count t) := by
  unfold State.count
  exact hc.setCore.upd

theorem Canon.revive {s t : State} (hc : Canon s t) {h : Hart} {base to_ : ℕ × ℕ} : Canon s (t.revive h base to_) := by
  unfold State.revive
  exact Canon.ite _ hc.putHart hc.areaWrite.putHart

theorem Canon.carryAddr {s t : State} (hc : Canon s t) {h : Hart} {to_ : ℕ × ℕ} {k : ℕ} : Canon s (t.carryAddr h to_ k) := by
  unfold State.carryAddr
  split
  · exact hc
  · exact Canon.ite _ hc hc.swapSlots

theorem Canon.restoreFamily {s t : State} (hc : Canon s t) {h : Hart} {to_ : ℕ × ℕ} : Canon s (t.restoreFamily h to_) := by
  unfold State.restoreFamily
  exact (hc.upto (fun _ u => (Canon.refl u).carryAddr)).foldl (fun u _ => (Canon.refl u).revive)

theorem Canon.bumpOpt {s t : State} (hc : Canon s t) {d : ℕ} {pa : Option ℕ} : Canon s (t.bumpOpt d pa) := by
  unfold State.bumpOpt
  split
  · exact hc.bumpWord
  · exact hc

theorem Canon.dropJob {s t : State} (hc : Canon s t) {kind v : ℕ} : Canon s (t.dropJob kind v) := by
  unfold State.dropJob
  exact hc.upd

theorem Canon.upsetIn {s t : State} (hc : Canon s t) {a n : ℕ} : Canon s (t.upsetIn a n) := by
  unfold State.upsetIn
  exact hc.upd

theorem Canon.performRange {s t : State} (hc : Canon s t) {a n : ℕ} : Canon s (t.performRange a n) := by
  unfold State.performRange
  exact hc.upd

theorem Canon.chainBatch {s t : State} (hc : Canon s t) {p : ℕ} : Canon s (t.chainBatch p) := by
  unfold State.chainBatch
  exact Canon.ite _ hc (Canon.ite _ hc.sweep.sweep hc.putBytes.putBytes.setLog)

theorem Canon.suspendAs {s t : State} (hc : Canon s t) {i : Instr} {k : ℕ} {on : List ℕ} {full : Bool} {cont : Front} {src : Option (SMap
    (BitVec 16) × SMap (BitVec 16))} : Canon s (t.suspendAs i k on full cont src) :=
  hc.trans (frame_suspendAs _ _ _ _ _ _ _).canon

theorem Canon.suspend {s t : State} (hc : Canon s t) {i : Instr} {k : ℕ} {on : List ℕ} {full : Bool} : Canon s (t.suspend i k on full) := by
  unfold State.suspend
  exact hc.suspendAs

theorem Canon.holdFault {s t : State} (hc : Canon s t) {i : Instr} : Canon s (t.holdFault i) :=
  hc.trans (frame_holdFault _ _).canon

theorem Canon.takeTrap {s t : State} (hc : Canon s t) {t' : TrapInfo} : Canon s (t.takeTrap t') :=
  hc.trans (frame_takeTrap _ _).canon

theorem Canon.raise {s t : State} (hc : Canon s t) {i : Instr} {t' : TrapInfo} : Canon s (t.raise i t') :=
  hc.trans (frame_raise _ _ _).canon

theorem Canon.raiseAt {s t : State} (hc : Canon s t) {i : Instr} {q k : ℕ} {f : AccFault} : Canon s (t.raiseAt i q k f) :=
  hc.trans (frame_raiseAt _ _ _ _ _).canon

theorem Canon.noteWrite {s t : State} (hc : Canon s t) {va : ℕ} {l : List Byte} : Canon s (t.noteWrite va l) :=
  hc.trans (frame_noteWrite _ _ _).canon

theorem Canon.stripWrite {s t : State} (hc : Canon s t) {ordered whole : Bool} {access : ℕ} {l : List (ℕ × Byte × Byte)} : Canon s
    (t.stripWrite ordered whole access l) :=
  hc.trans (frame_stripWrite _ _ _ _ _).canon

theorem Canon.vecWrite {s t : State} (hc : Canon s t) {ordered atomic packed : Bool} {pas : List ℕ} {lo n pat : ℕ} : Canon s (t.vecWrite
    ordered atomic packed pas lo n pat) :=
  hc.trans (frame_vecWrite _ _ _ _ _ _ _ _).canon

theorem Canon.finish {s t : State} (hc : Canon s t) {i : Instr} {cont : Front} : Canon s (t.finish i cont) :=
  hc.trans (frame_finish _ _ _).canon

theorem Canon.hold {s t : State} (hc : Canon s t) {i : Instr} : Canon s (t.hold i) :=
  hc.trans (frame_hold _ _).canon

theorem Canon.whenOldest {s t : State} (hc : Canon s t) {i : Instr} {body : State → State} (hbody : ∀ u, Canon u (body u)) : Canon s
    (t.whenOldest i body) := by
  unfold State.whenOldest
  exact Canon.ite _ (hc.trans (hbody _)) hc.hold

theorem Canon.runStore {s t : State} (hc : Canon s t) {i : Instr} : Canon s (runStore i t) :=
  hc.trans (frame_runStore _ _).canon

theorem Canon.setGram {s t : State} (hc : Canon s t) {g : Gram} : Canon s (t.setGram g) :=
  hc.of_eq (State.setGram_mem _ _)

theorem Canon.takeGrammarFault {s t : State} (hc : Canon s t) {i : Instr} {p : GPend} : Canon s (t.takeGrammarFault i p) := by
  unfold State.takeGrammarFault
  dsimp only
  split
  · exact hc
  · exact hc.setGram.takeTrap

theorem Canon.settleAll {s t : State} (hc : Canon s t) {p : StripWrite → Bool} : Canon s (t.settleAll p) :=
  hc.trans (frame_settleAll _ _).canon

theorem Canon.orderBehind {s t : State} (hc : Canon s t) {no : ℕ} : Canon s (t.orderBehind no) :=
  hc.trans (frame_orderBehind _ _).canon

theorem Canon.joinResults {s t : State} (hc : Canon s t) {sel : GPend → Bool} : Canon s (t.joinResults sel) := by
  unfold State.joinResults
  exact hc.setGram.orderBehind

theorem Canon.settleGrammar {s t : State} (hc : Canon s t) {i : Instr} : Canon s (t.settleGrammar i) := by
  unfold State.settleGrammar
  exact Canon.ite _ hc hc.joinResults

theorem Canon.park {s t : State} (hc : Canon s t) {run : Instr → State → State} {i : Instr} (hrun : ∀ (a : Instr) (a_1 : State), Canon a_1
    (run a a_1)) : Canon s (t.park run i) := by
  unfold State.park
  exact (hc.upd.trans (hrun _ _)).upd

theorem Canon.start {s t : State} (hc : Canon s t) {run : Instr → State → State} {i : Instr} (hrun : ∀ (a : Instr) (a_1 : State), Canon a_1
    (run a a_1)) : Canon s (State.start run i t) := by
  unfold State.start
  refine Canon.ite _ (hc.park (fun _ u => (hrun _ _))) ?_
  split
  · exact hc.settleGrammar.trans (hrun _ _)
  · exact Canon.ite _ hc.takeGrammarFault (Canon.ite _ hc.block (hc.park (fun _ u => (hrun _ _))))

theorem Canon.resumePend {s t : State} (hc : Canon s t) {run : Instr → State → State} {k : ℕ} (hrun : ∀ i u, Canon u (run i u)) :
    Canon s (t.resumePend run k).1 := by
  unfold State.resumePend
  split
  · exact hc
  next p _ =>
    have h1 : ∀ c : Hart, Canon s (run p.instr { t with cpu := c }) := fun c => hc.upd.trans (hrun _ _)
    dsimp only
    split
    · exact (h1 _).upd
    · split
      · exact (h1 _).upd
      · split
        · exact (h1 _).upd
        · exact (h1 _).upd.setBack

theorem Canon.accessGoes {s t : State} (hc : Canon s t) {ok : Instr → Bool} {run : Instr → State → State}
    (hrun : ∀ i u, Canon u (run i u)) : Canon s (t.accessGoes ok run) := by
  unfold State.accessGoes
  split
  · exact hc
  · split
    · exact Canon.ite _ (hc.resumePend fun i u => (Canon.refl u).start hrun).count hc
    · exact hc

theorem Canon.settlePlaces {s t : State} (hc : Canon s t) {places : List ℕ} : Canon s (t.settlePlaces places) :=
  hc.trans (frame_settlePlaces _ _).canon

theorem Canon.setPart {s t : State} (hc : Canon s t) {q : ℕ} {l : List Row} : Canon s (t.setPart q l) :=
  hc.trans (frame_setPart _ _ _).canon

theorem Canon.pushRow {s t : State} (hc : Canon s t) {q : ℕ} {elems : List ℕ} : Canon s (t.pushRow q elems) :=
  hc.trans (frame_pushRow _ _ _).canon

theorem Canon.inOrder {s t : State} (hc : Canon s t) {i : Instr} {body : State → State} (hbody : ∀ u, Canon u (body u)) : Canon s (t.inOrder i
    body) := by
  unfold State.inOrder
  exact Canon.ite _ (hc.trans (hbody _)) hc.hold

theorem Canon.runLoad {s t : State} (hc : Canon s t) {i : Instr} : Canon s (runLoad i t) :=
  hc.trans (frame_runLoad _ _).canon

theorem Canon.takeStall {s t : State} (hc : Canon s t) {qs : List ℕ} : Canon s (t.takeStall qs) := by
  unfold State.takeStall
  split
  · exact hc
  · exact hc.setCore.upd.takeTrap

theorem Canon.branch {s t : State} (hc : Canon s t) {len : ℕ} {taken : Bool} {off : W64} : Canon s (t.branch len taken off) := by
  unfold State.branch
  exact Canon.ite _ hc.retireTo hc.retire

theorem Canon.alu {s t : State} (hc : Canon s t) {len : ℕ} {d a b : Reg} {g : W64 → W64 → W64} : Canon s (t.alu len d a b g) := by
  unfold State.alu
  exact hc.compute

theorem Canon.alu1 {s t : State} (hc : Canon s t) {len : ℕ} {d a : Reg} {g : W64 → W64} : Canon s (t.alu1 len d a g) := by
  unfold State.alu1
  exact hc.compute

theorem Canon.jump {s t : State} (hc : Canon s t) {len : ℕ} {d : Reg} {target : W64} : Canon s (t.jump len d target) := by
  unfold State.jump
  exact hc.setX.retireTo

theorem Canon.privileged {s t : State} (hc : Canon s t) {i : Instr} {body : State → State} (hbody : ∀ u, Canon u (body u)) : Canon s
    (t.privileged i body) := by
  unfold State.privileged
  exact Canon.ite _ (hc.trans (hbody _)) hc.raise

theorem Canon.addJob {s t : State} (hc : Canon s t) {j : Job} : Canon s (t.addJob j) := by
  unfold State.addJob
  exact hc.upd

theorem Canon.noteRelease {s t : State} (hc : Canon s t) {kind : RelKind} {pas : List ℕ} : Canon s (t.noteRelease kind pas) := by
  unfold State.noteRelease
  exact Canon.ite _ hc hc.setBack

theorem Canon.withCword {s t : State} (hc : Canon s t) {i : Instr} {c : Reg} {body : Option ℕ → State} (hbody : ∀ (a : Option ℕ), Canon s
    (body a)) : Canon s (t.withCword i c body) := by
  unfold State.withCword
  split
  · exact hc.raise
  · exact (hbody _)

theorem Canon.acquire {s t : State} (hc : Canon s t) {reads : Release → Bool} : Canon s (t.acquire reads) := by
  unfold State.acquire
  exact Canon.ite _ hc.settleAll hc.settleAll.orderBehind.tock

theorem Canon.fillBatch {s t : State} (hc : Canon s t) {p : ℕ} : Canon s (t.fillBatch p) := by
  unfold State.fillBatch
  exact hc.upto (fun _ u => (Canon.refl u).appendRecord)

theorem Canon.syncPartition {s t : State} (hc : Canon s t) {uid p : ℕ} : Canon s (t.syncPartition uid p) := by
  unfold State.syncPartition
  exact Canon.ite _ hc ((Canon.ite _ ((hc.tock.upto (fun _ u => (Canon.refl u).appendOf)).upto (fun _ u => (Canon.refl u).appendOf))
      ((hc.tock.upto (fun _ u => (Canon.refl u).appendOf)).upto (fun _ u => (Canon.refl u).appendOf)).fillBatch).upto (fun _ u => (Canon.refl
      u).chainBatch))

theorem Canon.forkRecords {s t : State} (hc : Canon s t) {p base v : ℕ} : Canon s (t.forkRecords p base v) := by
  unfold State.forkRecords
  exact Canon.ite _ (hc.foldl (fun u _ => (Canon.refl u).noteWrite)).setBack.upd (hc.foldl (fun u _ => (Canon.refl
      u).noteWrite)).setBack.upd.setLog

theorem Canon.awaitAccRows {s t : State} (hc : Canon s t) {i : Instr} {b : Back} : Canon s (t.awaitAccRows i b) := by
  unfold State.awaitAccRows
  exact hc.suspend.upd

theorem Canon.takeAccRows {s t : State} (hc : Canon s t) {n : ℕ} : Canon s (t.takeAccRows n) := by
  unfold State.takeAccRows
  exact hc.setBack

theorem Canon.gresult {s t : State} (hc : Canon s t) {i : Instr} {d : Reg} {v : ℕ} : Canon s (t.gresult i d v) := by
  unfold State.gresult
  exact hc.setGram.finish

end Sys2Proof.Claims
end

section
/-! PROOF. Each operation on the state keeps canonical memory canonical (log 1): forms, shapes, synchronisation. -/

namespace Sys2Proof.Claims

open Sys2Proof Sys2Proof.Machine

theorem Canon.gheld {s t : State} (hc : Canon s t) {i : Instr} {p : GPend} {f : AccFault} : Canon s (t.gheld i p f) := by
  unfold State.gheld
  exact (Canon.ite _ hc.setGram.dropBad hc.setGram).finish

theorem Canon.readRecords {s t : State} (hc : Canon s t) {i : Instr} {form : GForm} {h : ℕ} {c : GCtx} {body : ℕ → GCtx → State → State}
    (hbody : ∀ (a : ℕ) (a_1 : GCtx) (a_2 : State), Canon a_2 (body a a_1 a_2)) : Canon s (t.readRecords i form h c body) := by
  unfold State.readRecords
  split
  · exact hc.trans (hbody _ _ _)
  · exact Canon.ite _ hc.tock.gheld (hc.tock.trans (hbody _ _ _))
  · exact Canon.ite _ hc.tock.setGram.finish (hc.tock.setGram.trans (hbody _ _ _))

theorem Canon.onContext {s t : State} (hc : Canon s t) {i : Instr} {a : Reg} {form : GForm} {body : ℕ → GCtx → State → State} (hbody : ∀ (a :
    ℕ) (a_1 : GCtx) (a_2 : State), Canon a_2 (body a a_1 a_2)) : Canon s (t.onContext i a form body) := by
  unfold State.onContext
  refine hc.whenOldest (fun u => ?_)
  dsimp only
  split
  · exact (Canon.refl u).raise
  · refine Canon.ite _ (Canon.refl u).raise ?_
    split
    · exact (Canon.refl u).raise
    · exact Canon.ite _ ((Canon.ite _ (Canon.refl u).setGram (Canon.refl u)).trans (hbody _ _ _)) ((Canon.ite _ (Canon.refl u).setGram
          (Canon.refl u)).readRecords (fun _ _ u => (hbody _ _ _)))

theorem Canon.writePool {s t : State} (hc : Canon s t) {c : GCtx} : Canon s (t.writePool c) := by
  unfold State.writePool
  exact hc.foldl (fun u _ => (Canon.refl u).agentBytes)

theorem Canon.gmaskTo {s t : State} (hc : Canon s t) {i : Instr} {md : ℕ} {ms : Option ℕ} {c : GCtx} : Canon s (t.gmaskTo i md ms c) := by
  unfold State.gmaskTo
  dsimp only
  split
  · exact hc.gheld
  · refine Canon.ite _ hc.finish ?_
    split
    · exact hc.gheld
    · exact hc.setBack.finish

theorem Canon.gmask {s t : State} (hc : Canon s t) {i : Instr} {md : ℕ} {a : Reg} {ms : Option ℕ} : Canon s (t.gmask i md a ms) := by
  unfold State.gmask
  exact hc.onContext (fun _ _ u => (Canon.refl u).gmaskTo)

theorem Canon.matrixTrap {s t : State} (hc : Canon s t) {i : Instr} {tile : Option ℕ} : Canon s (t.matrixTrap i tile) := by
  unfold State.matrixTrap
  exact hc.raise

theorem Canon.putRow {s t : State} (hc : Canon s t) {d : Dst} {flagMask : Option ℕ} {r c0 : ℕ} {o : RowOut} :
    Canon s (t.putRow d flagMask r c0 o) := by
  have hflags : ∀ u, Canon s u → Canon s (u.putRow .nowhere flagMask r c0 o) := fun u hu => by
    unfold State.putRow
    dsimp only
    split
    · exact hu.setBack
    · exact hu
  cases d with
  | reg base tag => exact hflags _ hc.setBack
  | sq q => exact hflags (t.pushRow q _) hc.pushRow
  | msk m => exact hflags _ hc.setBack
  | nowhere => exact hflags t hc

theorem Canon.wholeJob {s t : State} (hc : Canon s t) {i : Instr} {j : WholeJob} {cont : Front} : Canon s (t.wholeJob i j cont) := by
  unfold State.wholeJob
  split
  · exact hc.suspendAs
  · split
    · exact hc.suspendAs
    · exact (hc.foldl (fun u _ => (Canon.refl u).putRow)).setBack.finish

theorem Canon.inOrderAs {s t : State} (hc : Canon s t) {i : Instr} {cont : Front} {body : State → State} (hbody : ∀ u, Canon u (body u)) :
    Canon s (t.inOrderAs i cont body) := by
  unfold State.inOrderAs
  exact Canon.ite _ (hc.trans (hbody _)) hc.suspendAs

theorem Canon.skipped {s t : State} (hc : Canon s t) {n : ℕ} : Canon s (t.skipped n) :=
  hc.of_eq (State.skipped_mem _ _)

theorem Canon.outerProduct {s t : State} (hc : Canon s t) {i : Instr} {za : Fin 2} {va vb : Reg} {neg : Bool} : Canon s (outerProduct i za va
    vb neg t) := by
  unfold Machine.outerProduct
  refine hc.inOrder (fun u => Canon.ite _ (Canon.refl u).matrixTrap ?_)
  split
  · exact (Canon.refl u).raise
  · refine Canon.ite _ (Canon.refl u).raise (Canon.ite _ (Canon.refl u).raise (Canon.ite _ (Canon.refl u).matrixTrap (Canon.ite _ (Canon.refl
        u).finish ?_)))
    dsimp only
    split
    · exact (Canon.refl u).suspendAs
    · exact (Canon.refl u).setBack.skipped.finish

theorem Canon.settleStrip {s t : State} (hc : Canon s t) {pas : List ℕ} : Canon s (t.settleStrip pas) :=
  hc.of_eq (State.settleStrip_mem _ _)

theorem Canon.performWrite {s t : State} (hc : Canon s t) {va : ℕ} {pas : List ℕ} {l : List Byte} : Canon s (t.performWrite va pas l) :=
  fun hs => State.performWrite_wf _ _ _ _ (hc hs)

theorem Canon.storeBytes {s t : State} {va : ℕ} {l : List Byte} (h : s.storeBytes va l = .ok t) : Canon s t :=
  fun hs => State.storeBytes_wf s t va l hs h

theorem Canon.storeFrom {s t : State} (hc : Canon s t) {i : Instr} {b : Reg} {ea n : ℕ} : Canon s (t.storeFrom i b ea n) := by
  unfold State.storeFrom
  refine hc.whenOldest fun u => ?_
  split
  · exact (Canon.refl _).raise
  next hok => exact (Canon.storeBytes hok).retire

theorem Canon.loadThen {s t : State} (hc : Canon s t) {i : Instr} {d : Reg} {ea n : ℕ} {ext : ℕ → W64} {after : List ℕ → State → State}
    (hafter : ∀ (a : List ℕ) (a_1 : State), Canon a_1 (after a a_1)) : Canon s (t.loadThen i d ea n ext after) := by
  unfold State.loadThen
  refine hc.inOrder (fun u => ?_)
  split
  · exact (Canon.refl u).raise
  · exact Canon.ite _ (Canon.refl u).hold ((Canon.refl u).readLines.settleStrip.trans (hafter _ _)).compute

theorem Canon.loadTo {s t : State} (hc : Canon s t) {i : Instr} {d : Reg} {ea n : ℕ} {ext : ℕ → W64} : Canon s (t.loadTo i d ea n ext) := by
  unfold State.loadTo
  exact hc.loadThen (fun _ u => Canon.refl u)

theorem Canon.copyByteOut {s t : State} (hc : Canon s t) {o : CopyOp} {k b : ℕ} : Canon s (t.copyByteOut o k b) := by
  unfold State.copyByteOut
  split
  · exact hc
  · split
    · exact hc
    · exact Canon.ite _ hc hc.copyOut

theorem Canon.abortOp {s t : State} (hc : Canon s t) {o : CopyOp} : Canon s (t.abortOp o) := by
  unfold State.abortOp
  refine Canon.ite _ (hc.upto (fun _ u => (Canon.refl u).upto (fun _ u => Canon.ite _ (Canon.refl u).tock ?_))) (hc.upto (fun _ u => ?_))
  · split
    · exact (Canon.refl u).tock
    · exact (Canon.refl u).putHart.tock
  · dsimp only
    split
    · exact (Canon.refl u).tock
    · exact (Canon.refl u).upto (fun _ u => Canon.ite _ (Canon.refl u).tock (Canon.ite _ (Canon.refl u).copyByteOut.tock (Canon.refl
          u).setBack.tock))

theorem Canon.orderCopies {s t : State} (hc : Canon s t) {no : ℕ} : Canon s (t.orderCopies no) := by
  unfold State.orderCopies
  exact hc.settleAll

theorem Canon.forkCopy {s t : State} (hc : Canon s t) {i : Instr} {d : Reg} {c grant : ℕ} {o : CopyOp} : Canon s (t.forkCopy i d c grant o) := by
  unfold State.forkCopy
  exact (Canon.ite _ hc hc.setChan).compute

theorem Canon.forkIndexed {s t : State} (hc : Canon s t) {i : Instr} {d : Reg} {c : ℕ} {o : CopyOp} : Canon s (t.forkIndexed i d c o) := by
  unfold State.forkIndexed
  refine Canon.ite _ hc.forkCopy (Canon.ite _ hc.runUntil.forkCopy (Canon.ite _ hc.runUntil.hold ?_))
  split
  · exact hc.runUntil.suspend
  · exact hc.runUntil.setBack.forkCopy

theorem Canon.quiesceDup {s t : State} (hc : Canon s t) {i : Instr} {c : ℕ} {body : State → State} (hbody : ∀ u, Canon u (body u)) : Canon s
    (t.quiesceDup i c body) := by
  unfold State.quiesceDup
  exact Canon.ite _ (Canon.ite _ (hc.runUntil.trans (hbody _)) hc.runUntil.hold) (hc.trans (hbody _))

theorem Canon.loadRead {s t : State} {va n : ℕ} {l : List Byte} (h : s.loadRead va n = .ok (t, l)) : Canon s t := by
  unfold State.loadRead at h
  split at h
  · cases h
  · cases h
    exact (Canon.refl _).readLines.setBack

theorem Canon.copyBox {s t : State} (hc : Canon s t) {i : Instr} {form : ℕ} {d a b : Reg} : Canon s (t.copyBox i form d a b) := by
  unfold State.copyBox
  refine hc.whenOldest fun u => Canon.ite _ (Canon.refl _).raise (Canon.ite _ (Canon.refl _).raise (Canon.ite _ (Canon.refl _).raise ?_))
  split
  · exact (Canon.refl _).raise
  next hok =>
    have hr := Canon.loadRead hok
    dsimp only
    split
    · exact hr.raise
    · refine Canon.ite _ hr.raise (hr.quiesceDup fun u => Canon.ite _ (Canon.refl _).forkIndexed (Canon.ite _ (Canon.refl _).forkCopy ?_))
      split
      · exact (Canon.refl _).raise
      · exact (Canon.refl _).forkCopy

theorem Canon.catChecks {s t u : State} (hc : Canon s t) (hb : Canon s u) {i : Instr} {fields : List (Reg × Tag)} {bad : Option ℕ}
    {groups : List (Reg × Tag × ℕ)} : Canon s (catChecks i t fields bad groups u) := by
  unfold Machine.catChecks
  dsimp only
  split
  · exact hc.raise
  · split
    · exact hc.raise
    · split
      · exact hc.raise
      · exact hb

theorem Canon.catUpdate {s t : State} (hc : Canon s t) {i : Instr} {o : VOps} {acc : Bool} : Canon s (catUpdate i o acc t) := by
  unfold Machine.catUpdate
  refine hc.catChecks (hc.inOrder (fun u => Canon.ite _ (Canon.refl u).finish ?_))
  dsimp only
  split
  · exact (Canon.refl u).suspendAs
  · exact (Canon.refl u).setBack.finish

theorem Canon.toX {s t : State} (hc : Canon s t) {i : Instr} {d : Reg} {g : State → W64} : Canon s (toX i d g t) := by
  unfold Machine.toX
  exact hc.inOrder (fun u => (Canon.refl u).setX.finish)

theorem Canon.suspendRows {s t : State} (hc : Canon s t) {i : Instr} {k : ℕ} {on : List ℕ} {full : Bool} {cont : Front} {src : Option (SMap
    (BitVec 16) × SMap (BitVec 16))} {ordered : Bool} : Canon s (t.suspendRows i k on full cont src ordered) := by
  unfold State.suspendRows
  exact hc.suspendAs.upd

theorem Canon.putGroups {s t : State} (hc : Canon s t) {j : RowJob} {src : SMap (BitVec 16) × SMap (BitVec 16)} {gs : List ℕ} {r : ℕ} : Canon
    s (t.putGroups j src gs r) := by
  unfold State.putGroups
  exact hc.putRow

theorem Canon.stopRows {s t : State} (hc : Canon s t) {i : Instr} {j : RowJob} {cont : Front} {src : SMap (BitVec 16) × SMap (BitVec 16)} {gs
    : List ℕ} {r : ℕ} : Canon s (t.stopRows i j cont src gs r) := by
  unfold State.stopRows
  exact (Canon.ite _ hc (Canon.ite _ hc.putGroups (Canon.ite _ (hc.upto (fun _ u => (Canon.refl u).putGroups)) hc.putGroups))).suspendRows

theorem Canon.runRows {s t : State} (hc : Canon s t) {i : Instr} {j : RowJob} {cont : Front} {src : SMap (BitVec 16) × SMap (BitVec 16)}
    {n r : ℕ} : Canon s (runRows i j cont src n r t) := by
  induction n generalizing r t with
  | zero => exact hc.setBack.finish
  | succ n ih =>
    unfold Machine.runRows
    dsimp only
    split
    · exact hc.suspendRows
    · split
      · exact hc.suspendRows
      · exact Canon.ite _ hc.stopRows (ih hc.putRow.setBack.skipped)

theorem Canon.rowJob {s t : State} (hc : Canon s t) {i : Instr} {j : RowJob} {cont : Front} : Canon s (t.rowJob i j cont) := by
  unfold State.rowJob
  exact Canon.ite _ hc.finish hc.runRows

theorem Canon.maskForm {s t : State} (hc : Canon s t) {i : Instr} {o : VOps} {srcs : List ℕ} {g : Bool → Bool → Bool} : Canon s (maskForm i o
    srcs g t) := by
  unfold Machine.maskForm
  exact hc.inOrder (fun u => (Canon.refl u).rowJob)

theorem Canon.elementwise {s t : State} (hc : Canon s t) {i : Instr} {o : VOps} {form : EForm} : Canon s (elementwise i o form t) := by
  unfold Machine.elementwise
  dsimp only
  split
  · exact hc.raise
  · split
    · exact hc.raise
    · split
      · exact hc.raise
      · exact hc.inOrderAs (fun u => (Canon.refl u).rowJob)

theorem Canon.rearrange {s t : State} (hc : Canon s t) {i : Instr} {o : VOps} {useB : Bool} {g : State → PermIn → ℕ → List (Option ℕ)} : Canon
    s (rearrange i o useB g t) := by
  unfold Machine.rearrange
  dsimp only
  split
  · exact hc.raise
  · refine Canon.ite _ hc.raise ?_
    split
    · exact hc.raise
    · exact hc.inOrderAs (fun u => Canon.ite _ (Canon.refl u).finish (Canon.refl u).wholeJob)

theorem Canon.redChecks {s t : State} (hc : Canon s t) {trap : Front → Instr → Cause → ℕ → TrapInfo} {i : Instr} {o : VOps} {ok : Tag → Tag →
    Tag → Bool} {vbRows outRows : ℕ} {body : State → Front → State} (hbody : ∀ (a : State) (a_1 : Front), Canon a (body a a_1)) : Canon s
    (redChecks trap i o ok vbRows outRows body t) := by
  unfold Machine.redChecks
  dsimp only
  split
  · exact hc.raise
  · refine Canon.ite _ hc.raise ?_
    split
    · exact hc.raise
    · exact hc.inOrderAs (fun u => (hbody _ _))

theorem Canon.rowReduction {s t : State} (hc : Canon s t) {i : Instr} {o : VOps} {sc : Bool} {ok : Tag → Tag → Tag → Bool} {g : RedFn} : Canon
    s (rowReduction i o sc ok g t) := by
  unfold Machine.rowReduction
  exact hc.redChecks (fun u _ => (Canon.refl u).rowJob)

theorem Canon.namingTagSource {s t : State} (hc : Canon s t) {i : Instr} {o : VOps} {body : State → State} (hbody : ∀ u, Canon u (body u)) :
    Canon s (namingTagSource i o body t) := by
  unfold Machine.namingTagSource
  exact Canon.ite _ hc.raise (hc.trans (hbody _))

theorem Canon.granted {s t : State} (hc : Canon s t) {d : Reg} {tag : Tag} {g : ℕ × ℕ} : Canon s (t.granted d tag g) := by
  unfold State.granted
  exact hc.setFront.compute

theorem Canon.setBar {s t : State} (hc : Canon s t) {b : Barrier} : Canon s (t.setBar b) := by
  unfold State.setBar
  split
  · exact hc.setGang
  · exact hc

theorem Canon.dropTiles {s t : State} (hc : Canon s t) : Canon s t.dropTiles := by
  unfold State.dropTiles
  exact Canon.ite _ hc.setBack.setFront hc

theorem Canon.endHart {s t : State} (hc : Canon s t) {len : ℕ} : Canon s (t.endHart len) := by
  unfold State.endHart
  exact hc.setBack.retire.upd

theorem Canon.absorb {s t : State} (hc : Canon s t) {c : Hart} : Canon s (t.absorb c) := by
  unfold State.absorb
  exact hc.upd.regrant

theorem Canon.whenDelivered {s t : State} (hc : Canon s t) {body : State → State} (hbody : ∀ u, Canon u (body u)) : Canon s (t.whenDelivered
    body) := by
  unfold State.whenDelivered
  exact Canon.ite _ (hc.settleInbound.trans (hbody _)) hc.settleInbound.block

theorem Canon.whenJoined {s t : State} (hc : Canon s t) {i : Instr} {body : State → State} (hbody : ∀ u, Canon u (body u)) : Canon s
    (t.whenJoined i body) := by
  unfold State.whenJoined
  split
  · exact hc.takeGrammarFault
  · exact hc.trans (hbody _)

theorem Canon.whenRested {s t : State} (hc : Canon s t) {body : State → State} (hbody : ∀ u, Canon u (body u)) : Canon s (t.whenRested body)
    := by
  unfold State.whenRested
  exact Canon.ite _ (hc.restChannels.trans (hbody _)) hc.restChannels.block

theorem Canon.appendPacket {s t : State} (hc : Canon s t) {w : WQ} {l : List Byte} : Canon s (t.appendPacket w l) := by
  unfold State.appendPacket
  refine hc.foldl (fun u _ => ?_)
  split
  · exact Canon.refl u
  · exact (Canon.refl u).physWriteList

theorem Canon.forkLaunch {s t : State} (hc : Canon s t) {w : WQ} {p : List ℕ} : Canon s (t.forkLaunch w p) := by
  unfold State.forkLaunch
  refine Canon.ite _ hc ?_
  split
  · exact hc.noteRelease
  · exact hc

theorem Canon.acquireAt {s t : State} (hc : Canon s t) {pas : List ℕ} : Canon s (t.acquireAt pas) := by
  unfold State.acquireAt
  exact hc.acquire

theorem Canon.whenQuiet {s t : State} (hc : Canon s t) {body : State → State} (hbody : ∀ u, Canon u (body u)) : Canon s (t.whenQuiet body) := by
  unfold State.whenQuiet
  exact Canon.ite _ hc.block (hc.whenRested (fun u => (Canon.refl u).whenDelivered (fun u => (hbody _))))

theorem Canon.forked {s t : State} (hc : Canon s t) {d : Reg} {entry area : W64} : Canon s (t.forked d entry area) := by
  unfold State.forked
  exact hc.upd.regrant.compute

theorem Canon.arrived {s t : State} (hc : Canon s t) {g : Barrier} : Canon s (t.arrived g) := by
  unfold State.arrived
  exact hc.setBar.noteRelease

theorem Canon.inGang {s t : State} (hc : Canon s t) {i : Instr} {body : State → State} (hbody : ∀ u, Canon u (body u)) : Canon s (t.inGang i
    body) := by
  unfold State.inGang
  exact Canon.ite _ hc.raise (hc.trans (hbody _))

theorem Canon.barrier {s t : State} (hc : Canon s t) {i : Instr} {body : Barrier → ℕ → State → State} (hbody : ∀ (a : Barrier) (a_1 : ℕ) (a_2
    : State), Canon a_2 (body a a_1 a_2)) : Canon s (t.barrier i body) := by
  unfold State.barrier
  exact hc.inGang (fun u => (Canon.refl u).whenOldest (fun u => (hbody _ _ _)))

theorem Canon.leaveBarrier {s t : State} (hc : Canon s t) {d : Reg} {g : Barrier} : Canon s (t.leaveBarrier d g) := by
  unfold State.leaveBarrier
  exact hc.acquire.compute

theorem Canon.noteArrival {s t : State} (hc : Canon s t) : Canon s t.noteArrival := by
  unfold State.noteArrival
  exact hc.upd

theorem Canon.awaitResults {s t : State} (hc : Canon s t) {i : Instr} {d : Reg} {sel : ℕ} : Canon s (t.awaitResults i d sel) := by
  unfold State.awaitResults
  refine Canon.ite _ (Canon.ite _ hc hc.upd).block ?_
  split
  · exact Canon.ite _ (Canon.ite _ hc hc.upd).takeGrammarFault (Canon.ite _ hc hc.upd).block
  · refine Canon.ite _ ?_ (Canon.ite _ (Canon.ite _ hc hc.upd).settleInbound (Canon.ite _ hc hc.upd)).joinResults.compute
    split
    · exact (Canon.ite _ (Canon.ite _ hc hc.upd).settleInbound (Canon.ite _ hc hc.upd)).raise
    · exact (Canon.ite _ (Canon.ite _ hc hc.upd).settleInbound (Canon.ite _ hc hc.upd)).block

theorem Canon.dropLines {s t : State} (hc : Canon s t) {pa n : ℕ} : Canon s (t.dropLines pa n) := by
  unfold State.dropLines
  exact Canon.ite _ hc.dropCode hc

theorem canon_invPages_fst {s t : State} (hc : Canon s t) {va n : ℕ} {pages : List ℕ} : Canon s (t.invPages va n pages).1 := by
  induction pages generalizing t with
  | nil => exact hc
  | cons p pages ih =>
    unfold State.invPages
    dsimp only
    split
    · exact hc
    · exact ih hc.dropLines

theorem Canon.invPages {s t : State} {va n : ℕ} {pages : List ℕ} {f : Option AccFault} (h : s.invPages va n pages = (t, f)) : Canon s t := by
  have hp := canon_invPages_fst (Canon.refl s) (va := va) (n := n) (pages := pages)
  rwa [h] at hp

theorem Canon.joinEngines {s t : State} (hc : Canon s t) : Canon s t.joinEngines := by
  unfold State.joinEngines
  exact hc.joinResults.orderBehind.orderCopies

theorem Canon.sysWrite {s t : State} (hc : Canon s t) {i : Instr} {d a : Reg} {num : BitVec 11} {g : W64 → W64 → W64} : Canon s (t.sysWrite i
    d a num g) := by
  unfold State.sysWrite
  refine Canon.ite _ hc.raise (Canon.ite _ hc.raise ?_)
  split
  · exact hc.raise
  · exact hc.setFront.compute

theorem Canon.returnFromTrap {s t : State} (hc : Canon s t) : Canon s t.returnFromTrap := by
  unfold State.returnFromTrap
  exact hc.setFront.retireTo.upd

theorem Canon.amoChecked {s t : State} (hc : Canon s t) {i : Instr} {o : AmoOps} {body : ℕ → State} (hbody : ∀ (a : ℕ), Canon s (body a)) :
    Canon s (t.amoChecked i o body) := by
  unfold State.amoChecked
  exact Canon.ite _ hc.raise (Canon.ite _ hc.raise (hbody _))

theorem Canon.amoOrder {s t : State} (hc : Canon s t) {o : AmoOps} {pas : List ℕ} : Canon s (t.amoOrder o pas) := by
  unfold State.amoOrder
  exact Canon.ite _ (Canon.ite _ (Canon.ite _ hc.orderBehind hc.acquireAt) hc).noteRelease (Canon.ite _ (Canon.ite _ hc.orderBehind
      hc.acquireAt) hc)

theorem Canon.amo {s t : State} (hc : Canon s t) {i : Instr} {o : AmoOps} {g : ℕ → ℕ → ℕ → ℕ} : Canon s (t.amo i o g) := by
  unfold State.amo
  refine hc.whenOldest (fun u => (Canon.refl u).amoChecked (fun _ => ?_))
  dsimp only
  split
  · exact (Canon.refl u).raise
  · exact (Canon.refl u).settleStrip.amoOrder.physWriteList.compute

theorem Canon.firmwareRead {s t : State} (hc : Canon s t) {a n : ℕ} : Canon s (t.firmwareRead a n) := by
  unfold State.firmwareRead
  exact hc.readLines.sweep

theorem Canon.bootTo {s t : State} (hc : Canon s t) {b : BootInfo} {k : ℕ} : Canon s (t.bootTo b k) := by
  unfold State.bootTo
  exact Canon.ite _ hc hc.resetTo

theorem Canon.remoteHome {s t : State} (hc : Canon s t) {pa : ℕ} {refused shut : Bool} : Canon s (t.remoteHome pa refused shut) := by
  unfold State.remoteHome
  exact Canon.ite _ hc hc.upd

theorem Canon.firmwareWrite {s t : State} (hc : Canon s t) {a : ℕ} {l : List Byte} : Canon s (t.firmwareWrite a l) := by
  unfold State.firmwareWrite
  exact Canon.ite _ hc.agentBytes (Canon.ite _ hc.regWrites hc)

theorem Canon.writeCell {s t : State} (hc : Canon s t) {k : ℕ} {b : Byte} : Canon s { t with mem := writeCell t.mem k b } :=
  fun hs => Memory.wf_writeCell _ _ _ (hc hs)

theorem Canon.remoteWrite {s t : State} (hc : Canon s t) {pa : ℕ} {l : List Byte} : Canon s (t.remoteWrite pa l) :=
  hc.meetStrips.foldl fun u _ => Canon.ite _ (Canon.refl u) (Canon.refl u).writeCell

theorem Canon.fillLine {s t : State} (hc : Canon s t) {d a : ℕ} : Canon s (t.fillLine d a) := by
  unfold State.fillLine
  exact Canon.ite _ hc.upd hc

theorem Canon.evictCode {s t : State} (hc : Canon s t) {die core pa : ℕ} : Canon s (t.evictCode die core pa) := by
  unfold State.evictCode
  exact hc.upd

theorem Canon.cacheCode {s t : State} (hc : Canon s t) {die core pa : ℕ} : Canon s (t.cacheCode die core pa) := by
  unfold State.cacheCode
  exact Canon.ite _ hc.upd hc

theorem Canon.cacheLeaf {s t : State} (hc : Canon s t) {va : ℕ} : Canon s (t.cacheLeaf va) := by
  unfold State.cacheLeaf
  split
  · exact Canon.ite _ hc.dropBad hc
  · exact hc.upd

end Sys2Proof.Claims
end

section
/-! PROOF. Each instruction and event keeps canonical memory canonical (log 1), the first half. -/

namespace Sys2Proof.Claims

open Sys2Proof Sys2Proof.Machine

theorem ends_execMigrationRequest (hart : ℕ) (reason : Fin 4) (s : State) : Ends s (execMigrationRequest hart reason s) := by
  unfold execMigrationRequest
  refine Ends.next ?_
  split
  · exact Canon.ite _ (Canon.refl _).putHart (Canon.refl _)
  · exact Canon.refl _

theorem ends_execHostWrite (addr : ℕ) (bytes : List Byte) (s : State) : Ends s (execHostWrite addr bytes s) :=
  Ends.next (Canon.ite _ (Canon.refl _).outsideWrite (Canon.ite _ (Canon.refl _).regWrites (Canon.refl _).refuseWrite))

theorem ends_execHostRead (addr size : ℕ) (s : State) : Ends s (execHostRead addr size s) :=
  Ends.next (Canon.ite _ (Canon.refl _).upd (Canon.ite _ (Canon.refl _).sweep.upd (Canon.refl _).readLines.upd))

theorem ends_execFabricRequest (write : Bool) (addr : ℕ) (bytes : List Byte) (s : State) : Ends s (execFabricRequest write addr bytes s) :=
  Ends.next (Canon.ite _ (Canon.refl _) (Canon.ite _ (Canon.refl _).fabricRead (Canon.ite _ (Canon.refl _).outsideWrite (Canon.refl
      _).refuseWrite)))

theorem ends_execFabricReadTimeout (package : ℕ) (s : State) : Ends s (execFabricReadTimeout package s) :=
  Ends.next (Canon.refl _).upd

theorem ends_execCxlLinkDown (port : ℕ) (s : State) : Ends s (execCxlLinkDown port s) :=
  Ends.next (Canon.ite _ (Canon.refl _) (Canon.refl _).upd)

theorem ends_execFlitRetry (die : ℕ) (retrainFails : Bool) (s : State) : Ends s (execFlitRetry die retrainFails s) :=
  Ends.next (Canon.ite _ (Canon.refl _).upd (Canon.refl _).upd.upd.faultAll)

theorem ends_execScrub (addr : ℕ) (double : Bool) (s : State) : Ends s (execScrub addr double s) :=
  Ends.next (Canon.ite _ (Canon.refl _) (Canon.ite _ (Canon.refl _).upd.dropWord (Canon.refl _).countCe))

theorem ends_execPowerLimitThrottle (excess : Bool) (s : State) : Ends s (execPowerLimitThrottle excess s) :=
  Ends.next (Canon.refl _).upd

theorem ends_execThermalRefresh (die core : ℕ) (reading : BitVec 16) (s : State) : Ends s (execThermalRefresh die core reading s) :=
  Ends.next (Canon.ite _ (Canon.refl _) (Canon.refl _).setCore.upd)

theorem ends_execReset (b : BootInfo) (s : State) : Ends s (execReset b s) :=
  Ends.next (Canon.ite _ ((Canon.refl _).resetTo.foldl (fun u _ => (Canon.refl u).bootPartition)) (Canon.refl _).resetTo)

theorem ends_execMailboxCompletion (s : State) : Ends s (execMailboxCompletion s) := by
  unfold execMailboxCompletion
  refine Ends.next ?_
  split
  · exact Canon.refl _
  · exact (Canon.refl _).upd

theorem ends_execSetQuantum (s : State) : Ends s (execSetQuantum s) :=
  Ends.next (Canon.ite _ (Canon.refl _) (Canon.ite _ (Canon.refl _).commandDone (Canon.refl _).upd.commandDone))

theorem ends_execSetTripPoint (s : State) : Ends s (execSetTripPoint s) := by
  unfold execSetTripPoint
  refine Ends.next (Canon.ite _ (Canon.refl _) ?_)
  split
  · exact (Canon.refl _).commandDone
  · exact Canon.ite _ (Canon.refl _).commandDone (Canon.refl _).setCore.commandDone

theorem ends_execReleaseFencedFrame (s : State) : Ends s (execReleaseFencedFrame s) :=
  Ends.next (Canon.ite _ (Canon.refl _) (Canon.ite _ (Canon.refl _).commandDone (Canon.ite _ (Canon.refl _).commandDone (Canon.refl
      _).upd.commandDone)))

theorem ends_execSetPackageNumber (s : State) : Ends s (execSetPackageNumber s) :=
  Ends.next (Canon.ite _ (Canon.refl _) (Canon.ite _ (Canon.refl _).commandDone (Canon.refl _).upd.commandDone))

theorem ends_execAttestDevice (s : State) : Ends s (execAttestDevice s) :=
  Ends.next (Canon.ite _ (Canon.refl _) (Canon.ite _ (Canon.refl _).commandDone (Canon.refl _).agentBytes.commandDone))

theorem ends_execUnload (s : State) : Ends s (execUnload s) := by
  unfold execUnload
  refine Ends.next (Canon.ite _ (Canon.refl _) ?_)
  split
  · exact (Canon.refl _).commandDone
  · exact ((Canon.refl _).foldl (fun u _ => (Canon.refl u).pin)).upd.commandDone

theorem ends_execLoadCodeObject (s : State) : Ends s (execLoadCodeObject s) := by
  unfold execLoadCodeObject
  refine Ends.next (Canon.ite _ (Canon.refl _) (Canon.ite _ (Canon.refl _).sweep.commandDone ?_))
  split
  · exact (Canon.ite _ (Canon.refl _).sweep (Canon.refl _)).commandDone
  · exact (Canon.refl _).performLoad.commandDone

theorem ends_execRegisterWrite (by_ : Agent) (addr : ℕ) (v : W64) (s : State) : Ends s (execRegisterWrite by_ addr v s) :=
  Ends.next (Canon.ite _ (Canon.refl _) (Canon.ite _ (Canon.refl _).refuseWrite (Canon.ite _ (Canon.refl _) (Canon.refl _).regWrite)))

theorem ends_execSignedStatement (p : Fin 16) (s : State) : Ends s (execSignedStatement p s) :=
  Ends.next (Canon.ite _ (Canon.refl _) (Canon.ite _ (Canon.refl _).sweep (Canon.refl _).putBytes.setLog.upd))

theorem ends_execLsignWrite (by_ : Agent) (p : Fin 16) (v : W64) (s : State) : Ends s (execLsignWrite by_ p v s) :=
  Ends.next (Canon.refl _).mgmtWrite

theorem ends_execLdrainWrite (by_ : Agent) (p : Fin 16) (v : W64) (s : State) : Ends s (execLdrainWrite by_ p v s) :=
  Ends.next (Canon.refl _).mgmtWrite

theorem ends_execWqstatWrite (by_ : Agent) (queue : ℕ) (v : W64) (s : State) : Ends s (execWqstatWrite by_ queue v s) :=
  Ends.next (Canon.refl _).queueWrite

theorem ends_execWqctlWrite (by_ : Agent) (queue : ℕ) (v : W64) (s : State) : Ends s (execWqctlWrite by_ queue v s) :=
  Ends.next (Canon.refl _).queueWrite

theorem ends_execWqbaseWrite (by_ : Agent) (queue : ℕ) (v : W64) (s : State) : Ends s (execWqbaseWrite by_ queue v s) :=
  Ends.next (Canon.refl _).queueWrite

theorem ends_execWqtailWrite (by_ : Agent) (queue : ℕ) (v : W64) (s : State) : Ends s (execWqtailWrite by_ queue v s) :=
  Ends.next (Canon.refl _).queueWrite

theorem ends_execLaunchCompletion (gang : ℕ) (s : State) : Ends s (execLaunchCompletion gang s) := by
  unfold execLaunchCompletion
  refine Ends.next ?_
  split
  · exact Canon.refl _
  · exact Canon.ite _ (Canon.refl _).completeGang (Canon.refl _)

theorem ends_execGangSowing (gang : ℕ) (s : State) : Ends s (execGangSowing gang s) := by
  unfold execGangSowing
  refine Ends.next ?_
  split
  · exact Canon.refl _
  · refine Canon.ite _ (Canon.refl _) ?_
    split
    · exact Canon.refl _
    · exact (Canon.refl _).sow

theorem ends_execPacketTake (queue : ℕ) (s : State) : Ends s (execPacketTake queue s) :=
  Ends.next (Canon.ite _ (Canon.refl _) (Canon.ite _ (Canon.refl _).upd.sweepWaits.sweep.reject (Canon.refl _).upd.sweepWaits.sweep.setWq.upd))

theorem ends_execWaitConditionEvaluation (queue : ℕ) (s : State) : Ends s (execWaitConditionEvaluation queue s) :=
  Ends.next (Canon.ite _ (Canon.refl _) (Canon.refl _).sweepWaits)

theorem ends_execQuantumExpiry (gang : ℕ) (s : State) : Ends s (execQuantumExpiry gang s) := by
  unfold execQuantumExpiry
  refine Ends.next ?_
  split
  · exact Canon.refl _
  · exact Canon.ite _ (Canon.refl _) (Canon.ite _ (Canon.refl _).preempt (Canon.refl _).setGang)

theorem ends_execMigration (s : State) : Ends s (execMigration s) := by
  unfold execMigration
  refine Ends.next ?_
  split
  · exact Canon.refl _
  · exact Canon.ite _ (Canon.refl _).migrate.count (Canon.refl _)

theorem ends_execContextRestore (gang : ℕ) (s : State) : Ends s (execContextRestore gang s) := by
  unfold execContextRestore
  refine Ends.next ?_
  split
  · exact Canon.refl _
  · refine Canon.ite _ (Canon.refl _) ?_
    split
    · exact Canon.refl _
    · dsimp only
      split
      · refine (Canon.refl _).asHart (fun u => ?_)
        split
        · exact (Canon.refl u).dropBad.launchFault
        · exact (Canon.refl u).launchFault
      · exact ((Canon.refl _).foldl (fun u _ => (Canon.refl u).restoreFamily)).setGang.upd.regrant

theorem ends_execPreemption (gang : ℕ) (s : State) : Ends s (execPreemption gang s) := by
  unfold execPreemption
  refine Ends.next ?_
  split
  · exact Canon.refl _
  · exact Canon.ite _ (Canon.refl _).preempt (Canon.refl _)

theorem ends_execAttestationBlock (s : State) : Ends s (execAttestationBlock s) := by
  unfold execAttestationBlock
  refine Ends.next ?_
  dsimp only
  split
  · exact Canon.refl _
  · refine Canon.bumpOpt (Canon.upd ?_)
    split
    · exact Canon.refl _
    · exact (Canon.refl _).physWriteList

theorem ends_execDropCompletion (v : ℕ) (s : State) : Ends s (execDropCompletion v s) := by
  unfold execDropCompletion
  refine Ends.next ?_
  split
  · exact Canon.refl _
  · exact (Canon.refl _).putBytes.upd.setVitrine.dropJob.bumpOpt

theorem ends_execSealCompletion (v : ℕ) (corrupt : Bool) (s : State) : Ends s (execSealCompletion v corrupt s) := by
  unfold execSealCompletion
  refine Ends.next ?_
  split
  · exact Canon.refl _
  · exact Canon.ite _ (Canon.ite _ (Canon.refl _).performRange.upsetIn (Canon.refl _).performRange).sweep.setVitrine.dropJob.bumpOpt
        (Canon.ite _ (Canon.refl _).performRange (Canon.refl _).performRange.appendRecord.setVitrine.dropJob.bumpOpt)

theorem ends_execBatchDurable (p : Fin 16) (s : State) : Ends s (execBatchDurable p s) := Ends.next (Canon.refl _).chainBatch

theorem ends_execAccessionAppend (p : Fin 16) (s : State) : Ends s (execAccessionAppend p s) := by
  unfold execAccessionAppend
  refine Ends.next ?_
  dsimp only
  split
  · exact Canon.refl _
  · exact (Canon.refl _).appendOf.tock

theorem ends_execGrammarResult (s : State) : Ends s (execGrammarResult s) := Ends.next (Canon.refl _).setBack

theorem ends_execCpyXGroupWrite (c : Fin 8) (s : State) : Ends s (execCpyXGroupWrite c s) := by
  unfold execCpyXGroupWrite
  refine Ends.next ?_
  split
  · exact Canon.ite _ (Canon.refl _).copyStep (Canon.refl _)
  · exact Canon.refl _

theorem ends_execCopyFaultHeld (c : Fin 8) (s : State) : Ends s (execCopyFaultHeld c s) :=
  Ends.next (Canon.ite _ (Canon.refl _).runUntil (Canon.refl _))

theorem ends_execCopyProgress (c : Fin 8) (n : ℕ) (s : State) : Ends s (execCopyProgress c n s) :=
  Ends.next ((Canon.refl _).upto (fun _ u => (Canon.refl u).copyStep))

theorem ends_execVstC (o : VMOps) (s : State) : Ends s (execVstC o s) := Ends.next (frame_vstStream _ _ _).canon

theorem ends_execVstSeg (o : VMOps) (s : State) : Ends s (execVstSeg o s) := Ends.next (frame_execVstSeg s o).canon

theorem ends_execVstXO (o : VMOps) (s : State) : Ends s (execVstXO o s) := Ends.next (frame_vst _ _ _ _ _ _).canon

theorem ends_execVstX (o : VMOps) (s : State) : Ends s (execVstX o s) := Ends.next (frame_vst _ _ _ _ _ _).canon

theorem ends_execVstS (o : VMOps) (s : State) : Ends s (execVstS o s) := Ends.next (frame_vst _ _ _ _ _ _).canon

theorem ends_execVstU (o : VMOps) (s : State) : Ends s (execVstU o s) := Ends.next (frame_vst _ _ _ _ _ _).canon

theorem ends_execStoreRowDrain (s : State) : Ends s (execStoreRowDrain s) :=
  Ends.next ((Canon.refl _).accessGoes (fun _ u => (Canon.refl u).runStore))

theorem ends_execMldq (o : MldqOps) (s : State) : Ends s (execMldq o s) := Ends.next (frame_execMldq s o).canon

theorem ends_execVtree (o : VMOps) (s : State) : Ends s (execVtree o s) := Ends.next (frame_execVtree s o).canon

theorem ends_execVldFF (o : VMOps) (s : State) : Ends s (execVldFF o s) := Ends.next (frame_vldFirst _ _ _).canon

theorem ends_execVldC (o : VMOps) (s : State) : Ends s (execVldC o s) := Ends.next (frame_vldStream _ _ _).canon

theorem ends_execVldSeg (o : VMOps) (s : State) : Ends s (execVldSeg o s) := Ends.next (frame_execVldSeg s o).canon

theorem ends_execVldXO (o : VMOps) (s : State) : Ends s (execVldXO o s) := Ends.next (frame_vld _ _ _ _ _ _).canon

theorem ends_execVldX (o : VMOps) (s : State) : Ends s (execVldX o s) := Ends.next (frame_vld _ _ _ _ _ _).canon

theorem ends_execVldS (o : VMOps) (s : State) : Ends s (execVldS o s) := Ends.next (frame_vld _ _ _ _ _ _).canon

theorem ends_execVldU (o : VMOps) (s : State) : Ends s (execVldU o s) := Ends.next (frame_vld _ _ _ _ _ _).canon

theorem ends_execLoadRowDelivery (s : State) : Ends s (execLoadRowDelivery s) :=
  Ends.next ((Canon.refl _).accessGoes (fun _ u => (Canon.refl u).runLoad))

theorem ends_execMicroOperationEnd (_die _core _bed : ℕ) (s : State) : Ends s (execMicroOperationEnd _die _core _bed s) :=
  Ends.next (Canon.refl _)

theorem ends_execMicroOperationStart (die core : ℕ) (bed cost : ℕ) (s : State) : Ends s (execMicroOperationStart die core bed cost s) :=
  Ends.next (Canon.ite _ (Canon.refl _).setCore (Canon.refl _))

theorem ends_execWaitEnd (s : State) : Ends s (execWaitEnd s) := Ends.next (Canon.refl _).upd

theorem ends_execQueueStall (s : State) : Ends s (execQueueStall s) := by
  unfold execQueueStall
  refine Ends.next ?_
  split
  · exact Canon.refl _
  · exact Canon.ite _ (Canon.refl _).takeStall (Canon.refl _)

theorem ends_execTrapEntry (t : TrapInfo) (s : State) : Ends s (execTrapEntry t s) :=
  Ends.next (Canon.ite _ (Canon.refl _).upd.takeTrap (Canon.refl _))

theorem ends_execHJmpr (a : Reg) (s : State) : Ends s (execHJmpr a s) := Ends.next (Canon.refl _).retireTo

theorem ends_execHJmp (off : BitVec 11) (s : State) : Ends s (execHJmp off s) := Ends.next (Canon.refl _).retireTo

theorem ends_execHBnz (a : Fin 8) (off : BitVec 8) (s : State) : Ends s (execHBnz a off s) := Ends.next (Canon.refl _).branch

theorem ends_execHBz (a : Fin 8) (off : BitVec 8) (s : State) : Ends s (execHBz a off s) := Ends.next (Canon.refl _).branch

theorem ends_execHSub (d a : Reg) (s : State) : Ends s (execHSub d a s) := Ends.next (Canon.refl _).alu

theorem ends_execHAdd (d a : Reg) (s : State) : Ends s (execHAdd d a s) := Ends.next (Canon.refl _).alu

theorem ends_execHNop (s : State) : Ends s (execHNop s) := Ends.next (Canon.refl _).retire

theorem ends_execHMov (d a : Reg) (s : State) : Ends s (execHMov d a s) := Ends.next (Canon.refl _).alu1

theorem ends_execHLiu (d : Reg) (imm : BitVec 6) (s : State) : Ends s (execHLiu d imm s) := Ends.next (Canon.refl _).compute

theorem ends_execHSlli (d : Reg) (sh : Fin 64) (s : State) : Ends s (execHSlli d sh s) := Ends.next (Canon.refl _).alu1

theorem ends_execHLi (d : Reg) (imm : BitVec 6) (s : State) : Ends s (execHLi d imm s) := Ends.next (Canon.refl _).compute

theorem ends_execHAddi (d : Reg) (imm : BitVec 6) (s : State) : Ends s (execHAddi d imm s) := Ends.next (Canon.refl _).alu1

theorem ends_execFcvtLD (d a : Reg) (s : State) : Ends s (execFcvtLD d a s) := Ends.next (Canon.refl _).alu1

theorem ends_execFcvtDL (d a : Reg) (s : State) : Ends s (execFcvtDL d a s) := Ends.next (Canon.refl _).alu1

theorem ends_execFcvtDS (d a : Reg) (s : State) : Ends s (execFcvtDS d a s) := Ends.next (Canon.refl _).alu1

theorem ends_execFsqrtD (d a : Reg) (s : State) : Ends s (execFsqrtD d a s) := Ends.next (Canon.refl _).alu1

theorem ends_execFdivD (d a b : Reg) (s : State) : Ends s (execFdivD d a b s) := Ends.next (Canon.refl _).alu

theorem ends_execFmulD (d a b : Reg) (s : State) : Ends s (execFmulD d a b s) := Ends.next (Canon.refl _).alu

theorem ends_execFsubD (d a b : Reg) (s : State) : Ends s (execFsubD d a b s) := Ends.next (Canon.refl _).alu

theorem ends_execFaddD (d a b : Reg) (s : State) : Ends s (execFaddD d a b s) := Ends.next (Canon.refl _).alu

theorem ends_execFcvtSD (d a : Reg) (s : State) : Ends s (execFcvtSD d a s) := Ends.next (Canon.refl _).alu1

theorem ends_execFcvtLS (d a : Reg) (s : State) : Ends s (execFcvtLS d a s) := Ends.next (Canon.refl _).alu1

theorem ends_execFcvtSL (d a : Reg) (s : State) : Ends s (execFcvtSL d a s) := Ends.next (Canon.refl _).alu1

theorem ends_execFltS (d a b : Reg) (s : State) : Ends s (execFltS d a b s) := Ends.next (Canon.refl _).alu

theorem ends_execFeqS (d a b : Reg) (s : State) : Ends s (execFeqS d a b s) := Ends.next (Canon.refl _).alu

theorem ends_execFmaxS (d a b : Reg) (s : State) : Ends s (execFmaxS d a b s) := Ends.next (Canon.refl _).alu

theorem ends_execFminS (d a b : Reg) (s : State) : Ends s (execFminS d a b s) := Ends.next (Canon.refl _).alu

theorem ends_execFsqrtS (d a : Reg) (s : State) : Ends s (execFsqrtS d a s) := Ends.next (Canon.refl _).alu1

theorem ends_execFdivS (d a b : Reg) (s : State) : Ends s (execFdivS d a b s) := Ends.next (Canon.refl _).alu

theorem ends_execFmulS (d a b : Reg) (s : State) : Ends s (execFmulS d a b s) := Ends.next (Canon.refl _).alu

theorem ends_execFsubS (d a b : Reg) (s : State) : Ends s (execFsubS d a b s) := Ends.next (Canon.refl _).alu

theorem ends_execFaddS (d a b : Reg) (s : State) : Ends s (execFaddS d a b s) := Ends.next (Canon.refl _).alu

theorem ends_execJalr (d a : Reg) (imm : BitVec 12) (s : State) : Ends s (execJalr d a imm s) :=
  Ends.next (Canon.refl _).jump

theorem ends_execJal (d : Reg) (off : BitVec 20) (s : State) : Ends s (execJal d off s) := Ends.next (Canon.refl _).jump

theorem ends_execBgeu (a b : Reg) (off : BitVec 12) (s : State) : Ends s (execBgeu a b off s) :=
  Ends.next (Canon.refl _).branch

theorem ends_execBltu (a b : Reg) (off : BitVec 12) (s : State) : Ends s (execBltu a b off s) :=
  Ends.next (Canon.refl _).branch

theorem ends_execBge (a b : Reg) (off : BitVec 12) (s : State) : Ends s (execBge a b off s) :=
  Ends.next (Canon.refl _).branch

theorem ends_execBlt (a b : Reg) (off : BitVec 12) (s : State) : Ends s (execBlt a b off s) :=
  Ends.next (Canon.refl _).branch

theorem ends_execBne (a b : Reg) (off : BitVec 12) (s : State) : Ends s (execBne a b off s) :=
  Ends.next (Canon.refl _).branch

theorem ends_execBeq (a b : Reg) (off : BitVec 12) (s : State) : Ends s (execBeq a b off s) :=
  Ends.next (Canon.refl _).branch

theorem ends_execPcadd (d : Reg) (imm : BitVec 20) (s : State) : Ends s (execPcadd d imm s) := Ends.next (Canon.refl _).compute

theorem ends_execLiu (d : Reg) (imm : BitVec 20) (s : State) : Ends s (execLiu d imm s) := Ends.next (Canon.refl _).compute

theorem ends_execAddiw (d a : Reg) (imm : BitVec 12) (s : State) : Ends s (execAddiw d a imm s) :=
  Ends.next (Canon.refl _).alu1

theorem ends_execRori (d a : Reg) (sh : Fin 64) (s : State) : Ends s (execRori d a sh s) := Ends.next (Canon.refl _).alu1

theorem ends_execSrai (d a : Reg) (sh : Fin 64) (s : State) : Ends s (execSrai d a sh s) := Ends.next (Canon.refl _).alu1

theorem ends_execSrli (d a : Reg) (sh : Fin 64) (s : State) : Ends s (execSrli d a sh s) := Ends.next (Canon.refl _).alu1

theorem ends_execSlli (d a : Reg) (sh : Fin 64) (s : State) : Ends s (execSlli d a sh s) := Ends.next (Canon.refl _).alu1

theorem ends_execSltiu (d a : Reg) (imm : BitVec 12) (s : State) : Ends s (execSltiu d a imm s) :=
  Ends.next (Canon.refl _).alu1

theorem ends_execSlti (d a : Reg) (imm : BitVec 12) (s : State) : Ends s (execSlti d a imm s) :=
  Ends.next (Canon.refl _).alu1

theorem ends_execXori (d a : Reg) (imm : BitVec 12) (s : State) : Ends s (execXori d a imm s) :=
  Ends.next (Canon.refl _).alu1

theorem ends_execOri (d a : Reg) (imm : BitVec 12) (s : State) : Ends s (execOri d a imm s) := Ends.next (Canon.refl _).alu1

theorem ends_execAndi (d a : Reg) (imm : BitVec 12) (s : State) : Ends s (execAndi d a imm s) :=
  Ends.next (Canon.refl _).alu1

theorem ends_execAddi (d a : Reg) (imm : BitVec 12) (s : State) : Ends s (execAddi d a imm s) :=
  Ends.next (Canon.refl _).alu1

theorem ends_execRor (d a b : Reg) (s : State) : Ends s (execRor d a b s) := Ends.next (Canon.refl _).alu

theorem ends_execRol (d a b : Reg) (s : State) : Ends s (execRol d a b s) := Ends.next (Canon.refl _).alu

theorem ends_execCpop (d a : Reg) (s : State) : Ends s (execCpop d a s) := Ends.next (Canon.refl _).alu1

theorem ends_execCtz (d a : Reg) (s : State) : Ends s (execCtz d a s) := Ends.next (Canon.refl _).alu1

theorem ends_execClz (d a : Reg) (s : State) : Ends s (execClz d a s) := Ends.next (Canon.refl _).alu1

theorem ends_execSubw (d a b : Reg) (s : State) : Ends s (execSubw d a b s) := Ends.next (Canon.refl _).alu

theorem ends_execAddw (d a b : Reg) (s : State) : Ends s (execAddw d a b s) := Ends.next (Canon.refl _).alu

theorem ends_execMaxu (d a b : Reg) (s : State) : Ends s (execMaxu d a b s) := Ends.next (Canon.refl _).alu

theorem ends_execMinu (d a b : Reg) (s : State) : Ends s (execMinu d a b s) := Ends.next (Canon.refl _).alu

theorem ends_execMax (d a b : Reg) (s : State) : Ends s (execMax d a b s) := Ends.next (Canon.refl _).alu

theorem ends_execMin (d a b : Reg) (s : State) : Ends s (execMin d a b s) := Ends.next (Canon.refl _).alu

theorem ends_execRemu (d a b : Reg) (s : State) : Ends s (execRemu d a b s) := Ends.next (Canon.refl _).alu

theorem ends_execRem (d a b : Reg) (s : State) : Ends s (execRem d a b s) := Ends.next (Canon.refl _).alu

theorem ends_execDivu (d a b : Reg) (s : State) : Ends s (execDivu d a b s) := Ends.next (Canon.refl _).alu

theorem ends_execDiv (d a b : Reg) (s : State) : Ends s (execDiv d a b s) := Ends.next (Canon.refl _).alu

theorem ends_execMulhu (d a b : Reg) (s : State) : Ends s (execMulhu d a b s) := Ends.next (Canon.refl _).alu

theorem ends_execMulh (d a b : Reg) (s : State) : Ends s (execMulh d a b s) := Ends.next (Canon.refl _).alu

theorem ends_execMul (d a b : Reg) (s : State) : Ends s (execMul d a b s) := Ends.next (Canon.refl _).alu

theorem ends_execSltu (d a b : Reg) (s : State) : Ends s (execSltu d a b s) := Ends.next (Canon.refl _).alu

theorem ends_execSlt (d a b : Reg) (s : State) : Ends s (execSlt d a b s) := Ends.next (Canon.refl _).alu

theorem ends_execSra (d a b : Reg) (s : State) : Ends s (execSra d a b s) := Ends.next (Canon.refl _).alu

theorem ends_execSrl (d a b : Reg) (s : State) : Ends s (execSrl d a b s) := Ends.next (Canon.refl _).alu

theorem ends_execSll (d a b : Reg) (s : State) : Ends s (execSll d a b s) := Ends.next (Canon.refl _).alu

theorem ends_execXor (d a b : Reg) (s : State) : Ends s (execXor d a b s) := Ends.next (Canon.refl _).alu

theorem ends_execOr (d a b : Reg) (s : State) : Ends s (execOr d a b s) := Ends.next (Canon.refl _).alu

theorem ends_execAnd (d a b : Reg) (s : State) : Ends s (execAnd d a b s) := Ends.next (Canon.refl _).alu

theorem ends_execSub (d a b : Reg) (s : State) : Ends s (execSub d a b s) := Ends.next (Canon.refl _).alu

theorem ends_execAdd (d a b : Reg) (s : State) : Ends s (execAdd d a b s) := Ends.next (Canon.refl _).alu

theorem ends_execVtqry (d a sel : Reg) (s : State) : Ends s (execVtqry d a sel s) :=
  Ends.next ((Canon.refl _).privileged (fun u => Canon.ite _ (Canon.refl u).raise (Canon.ite _ (Canon.refl u).compute (Canon.ite _ (Canon.refl
      u).raise (Canon.refl u).compute))))

theorem ends_execVtdrop (a c : Reg) (s : State) : Ends s (execVtdrop a c s) :=
  Ends.next ((Canon.refl _).privileged (fun u => (Canon.refl u).whenOldest (fun u => Canon.ite _ (Canon.refl u).raise (Canon.ite _ (Canon.refl
      u).raise (Canon.ite _ (Canon.refl u).raise ((Canon.refl u).withCword (fun _ => (Canon.refl u).setVitrine.addJob.noteRelease.retire)))))))

theorem ends_execVtatt (a b c : Reg) (s : State) : Ends s (execVtatt a b c s) := by
  unfold execVtatt
  refine Ends.next ((Canon.refl _).privileged (fun u => (Canon.refl u).whenOldest (fun u => Canon.ite _ (Canon.refl u).raise (Canon.ite _
      (Canon.refl u).raise ((Canon.refl u).withCword (fun _ => ?_))))))
  split
  · exact (Canon.refl u).raise
  · exact (Canon.ite _ (Canon.refl u) (Canon.refl u).addJob).noteRelease.retire

theorem ends_execVtseal (d a : Reg) (b c : Reg) (s : State) : Ends s (execVtseal d a b c s) := by
  unfold execVtseal
  refine Ends.next ((Canon.refl _).privileged (fun u => (Canon.refl u).whenOldest (fun u => Canon.ite _ (Canon.refl u).raise (Canon.ite _
      (Canon.refl u).raise (Canon.ite _ (Canon.refl u).raise ?_)))))
  split
  · exact (Canon.refl u).raise
  · refine Canon.ite _ (Canon.refl u).raise ((Canon.refl u).withCword (fun _ => ?_))
    exact (Canon.refl u).setVitrine.addJob.noteRelease.compute

theorem ends_execAcchead (d sel : Reg) (s : State) : Ends s (execAcchead d sel s) := by
  unfold execAcchead
  refine Ends.next ?_
  dsimp only
  split
  · exact (Canon.refl _).raise
  · exact (Canon.refl _).compute

theorem ends_execAccsync (d : Reg) (s : State) : Ends s (execAccsync d s) := by
  have hsync : Canon s (upto 16 (fun p s => s.syncPartition s.cpu.id.uid p) s) :=
    (Canon.refl s).upto fun _ u => (Canon.refl u).syncPartition
  unfold execAccsync
  generalize upto 16 _ s = u at hsync ⊢
  refine Ends.next (Canon.ite _ (Canon.refl s).block ?_)
  dsimp only
  split
  · exact hsync.raise
  · exact hsync.acquire.compute

theorem ends_execAcclog (a b : Reg) (s : State) : Ends s (execAcclog a b s) :=
  Ends.next ((Canon.refl _).whenOldest (fun u => Canon.ite _ (Canon.refl u).raise (Canon.ite _ (Canon.refl u).raise (Canon.ite _ (Canon.refl
      u).raise (Canon.ite _ (Canon.refl u).finish (Canon.ite _ (Canon.refl u).raise (Canon.ite _ (Canon.ite _ (Canon.refl u) (Canon.refl
      u).setLog).takeAccRows.awaitAccRows (Canon.ite _ (Canon.refl u) (Canon.refl u).setLog).takeAccRows.forkRecords.noteRelease.finish)))))))

theorem ends_execGstat (d a sel : Reg) (s : State) : Ends s (execGstat d a sel s) := by
  unfold execGstat
  refine Ends.next ((Canon.refl _).onContext (fun _ _ u => ?_))
  split
  · exact (Canon.refl u).gheld
  · exact (Canon.refl u).gresult

theorem ends_execGfree (a : Reg) (s : State) : Ends s (execGfree a s) :=
  Ends.next ((Canon.refl _).onContext (fun _ _ u => (Canon.refl u).setGram.finish))

theorem ends_execGfork (d a : Reg) (s : State) : Ends s (execGfork d a s) := by
  unfold execGfork
  refine Ends.next ((Canon.refl _).onContext (fun _ _ u => ?_))
  dsimp only
  split
  · exact (Canon.refl u).gresult
  · exact Canon.ite _ (Canon.refl u).gresult (Canon.refl u).setGram.writePool.gresult

theorem ends_execGroll (d a b : Reg) (s : State) : Ends s (execGroll d a b s) := by
  unfold execGroll
  refine Ends.next ((Canon.refl _).onContext (fun _ _ u => ?_))
  dsimp only
  split
  · exact (Canon.refl u).gresult
  · exact Canon.ite _ (Canon.refl u).gresult (Canon.refl u).setGram.writePool.gresult

theorem ends_execGckpt (d a : Reg) (s : State) : Ends s (execGckpt d a s) :=
  Ends.next ((Canon.refl _).onContext (fun _ _ u => Canon.ite _ (Canon.refl u).gresult (Canon.refl u).setGram.writePool.gresult))

theorem ends_execGmaskM (md : Fin 16) (a : Reg) (ms : Fin 16) (s : State) : Ends s (execGmaskM md a ms s) :=
  Ends.next (Canon.refl _).gmask

theorem ends_execGmask (md : Fin 16) (a : Reg) (s : State) : Ends s (execGmask md a s) := Ends.next (Canon.refl _).gmask

theorem ends_execGadv (d a b : Reg) (s : State) : Ends s (execGadv d a b s) := by
  unfold execGadv
  refine Ends.next ((Canon.refl _).onContext (fun _ _ u => ?_))
  split
  · exact (Canon.refl u).gheld
  · exact (Canon.refl u).setGram.writePool.gresult

theorem ends_execGopen (d a : Reg) (b c : Reg) (s : State) : Ends s (execGopen d a b c s) := by
  unfold execGopen
  refine Ends.next ((Canon.refl _).whenOldest (fun u => ?_))
  dsimp only
  split
  · exact (Canon.refl u).raise
  · split
    · exact (Canon.refl u).gresult
    · exact Canon.ite _ (Canon.refl u).gresult (Canon.refl u).setGram.writePool.gresult

theorem ends_execMfill (tile lq : Fin 4) (xc : Reg) (s : State) : Ends s (execMfill tile lq xc s) := by
  unfold execMfill
  refine Ends.next ((Canon.refl _).inOrder (fun u => ?_))
  exact Canon.ite _ (Canon.refl u).raise (Canon.ite _ (Canon.refl u).matrixTrap (Canon.ite _ (Canon.refl u).matrixTrap (Canon.ite _
      (Canon.refl u).raise (Canon.ite _ (Canon.refl u).suspendAs (Canon.refl u).setBack.finish))))

theorem ends_execMspill (sq : Fin 2) (tile : Fin 4) (xc : Reg) (s : State) : Ends s (execMspill sq tile xc s) :=
  Ends.next ((Canon.refl _).inOrder (fun u => Canon.ite _ (Canon.refl u).raise (Canon.ite _ (Canon.refl u).matrixTrap (Canon.ite _ (Canon.refl
      u).finish (Canon.ite _ (Canon.refl u).suspendAs ((Canon.refl u).upto (fun _ u => (Canon.refl u).pushRow)).finish)))))

theorem ends_execMrdz (vd : Reg) (zf : Fin 2) (xb : Reg) (s : State) : Ends s (execMrdz vd zf xb s) := by
  unfold execMrdz
  refine Ends.next ?_
  dsimp only
  split
  · exact (Canon.refl _).raise
  · refine Canon.ite _ (Canon.refl _).raise ?_
    split
    · exact (Canon.refl _).raise
    · exact (Canon.refl _).inOrderAs (fun u => Canon.ite _ (Canon.refl u).finish (Canon.refl u).wholeJob)

theorem ends_execMblk (zf za : Fin 2) (ns keep : Bool) (s : State) : Ends s (execMblk zf za ns keep s) :=
  Ends.next ((Canon.refl _).inOrder (fun u => Canon.ite _ (Canon.refl u).matrixTrap (Canon.ite _ (Canon.refl u).raise (Canon.refl
      u).setBack.finish)))

theorem ends_execMops (za : Fin 2) (va vb : Reg) (ca cb : Bool) (s : State) : Ends s (execMops za va vb ca cb s) :=
  Ends.next (Canon.refl _).outerProduct

end Sys2Proof.Claims
end

section
/-! PROOF. Each instruction and event keeps canonical memory canonical (log 1), the second half. -/

namespace Sys2Proof.Claims

open Sys2Proof Sys2Proof.Machine

theorem ends_execMopa (za : Fin 2) (va vb : Reg) (ca cb : Bool) (s : State) : Ends s (execMopa za va vb ca cb s) :=
  Ends.next (Canon.refl _).outerProduct

theorem ends_execMzero (tile : Fin 4) (s : State) : Ends s (execMzero tile s) :=
  Ends.next ((Canon.refl _).inOrder (fun u => Canon.ite _ (Canon.ite _ (Canon.refl u).matrixTrap (Canon.refl u).setBack.finish) (Canon.refl
      u).setBack.finish))

theorem ends_execHBrk (s : State) : Ends s (execHBrk s) := Ends.next (Canon.refl _).raise

theorem ends_execHStw (b a : Fin 8) (off : Fin 32) (s : State) : Ends s (execHStw b a off s) :=
  Ends.next (Canon.refl _).storeFrom

theorem ends_execHLdw (d a : Fin 8) (off : Fin 32) (s : State) : Ends s (execHLdw d a off s) :=
  Ends.next (Canon.refl _).loadTo

theorem ends_execHStd (b a : Fin 8) (off : Fin 32) (s : State) : Ends s (execHStd b a off s) :=
  Ends.next (Canon.refl _).storeFrom

theorem ends_execHLdd (d a : Fin 8) (off : Fin 32) (s : State) : Ends s (execHLdd d a off s) :=
  Ends.next (Canon.refl _).loadTo

theorem ends_execCpyFill (d : Reg) (c : Fin 8) (b : Reg) (s : State) : Ends s (execCpyFill d c b s) :=
  Ends.next ((Canon.refl _).inOrder (fun u => (Canon.refl u).setChan.compute))

theorem ends_execCpyAbort (d : Reg) (c : Fin 8) (s : State) : Ends s (execCpyAbort d c s) :=
  Ends.next ((Canon.refl _).whenOldest (fun u => (Canon.ite _ (Canon.refl u) ((Canon.refl u).foldl (fun u _ => (Canon.refl
      u).abortOp))).setChan.compute))

theorem ends_execCpyStat (d : Reg) (c : Fin 8) (sel : Reg) (s : State) : Ends s (execCpyStat d c sel s) :=
  Ends.next ((Canon.refl _).inOrder (fun u => (Canon.refl u).compute))

theorem ends_execCpyWait (d : Reg) (c : Fin 8) (b : Reg) (s : State) : Ends s (execCpyWait d c b s) := by
  unfold execCpyWait
  refine Ends.next ((Canon.refl _).inOrder (fun u => Canon.ite _ (Canon.refl u).runUntil.orderBehind.orderCopies.compute ?_))
  split
  · exact (Canon.refl u).runUntil.raise
  · exact (Canon.refl u).runUntil.block

theorem ends_execCpyIX (d a b : Reg) (s : State) : Ends s (execCpyIX d a b s) := Ends.next (Canon.refl _).copyBox

theorem ends_execCpyX (d a b : Reg) (s : State) : Ends s (execCpyX d a b s) := by
  unfold execCpyX
  refine Ends.next ((Canon.refl _).whenOldest (fun u => Canon.ite _ (Canon.refl u).raise (Canon.ite _ (Canon.refl u).raise ?_)))
  split
  · exact (Canon.refl u).raise
  · exact (Canon.refl u).quiesceDup (fun u => (Canon.refl u).forkCopy)

theorem ends_execCpyP (d a b : Reg) (s : State) : Ends s (execCpyP d a b s) := Ends.next (Canon.refl _).copyBox

theorem ends_execCpyG (d a b : Reg) (s : State) : Ends s (execCpyG d a b s) := Ends.next (Canon.refl _).copyBox

theorem ends_execCatcfg (o : VOps) (s : State) : Ends s (execCatcfg o s) :=
  Ends.next ((Canon.refl _).inOrder (fun u => Canon.ite _ (Canon.refl u).raise (Canon.refl u).setBack.finish))

theorem ends_execCatcnt (o : VOps) (s : State) : Ends s (execCatcnt o s) :=
  Ends.next ((Canon.refl _).inOrder (fun u => (Canon.refl u).finish))

theorem ends_execCatclr (s : State) : Ends s (execCatclr s) :=
  Ends.next ((Canon.refl _).inOrder (fun u => (Canon.refl u).setBack.finish))

theorem ends_execCatdrn (o : VOps) (s : State) : Ends s (execCatdrn o s) :=
  Ends.next (Canon.ite _ (Canon.refl _).raise ((Canon.refl _).catChecks ((Canon.refl _).inOrderAs (fun u => Canon.ite _ (Canon.refl u).finish
      (Canon.refl u).setBack.finish))))

theorem ends_execCatacc (o : VOps) (s : State) : Ends s (execCatacc o s) := Ends.next (Canon.refl _).catUpdate

theorem ends_execCatlkp (o : VOps) (s : State) : Ends s (execCatlkp o s) :=
  Ends.next ((Canon.refl _).catChecks ((Canon.refl _).inOrderAs (fun u => Canon.ite _ (Canon.refl u).finish (Canon.refl u).wholeJob)))

theorem ends_execCatins (o : VOps) (s : State) : Ends s (execCatins o s) := Ends.next (Canon.refl _).catUpdate

theorem ends_execQdrop (o : VOps) (s : State) : Ends s (execQdrop o s) :=
  Ends.next ((Canon.refl _).inOrder (fun u => Canon.ite _ (Canon.refl u).setBack.finish (Canon.refl u).setBack.suspendAs))

theorem ends_execQstat (o : VOps) (s : State) : Ends s (execQstat o s) :=
  Ends.next ((Canon.refl _).inOrder (fun u => (Canon.refl u).tock.tock.setX.finish))

theorem ends_execMmvs (o : VOps) (s : State) : Ends s (execMmvs o s) :=
  Ends.next ((Canon.refl _).inOrder (fun u => (Canon.refl u).setBack.finish))

theorem ends_execMmvx (o : VOps) (s : State) : Ends s (execMmvx o s) := Ends.next (Canon.refl _).toX

theorem ends_execVmvs (o : VOps) (s : State) : Ends s (execVmvs o s) := by
  unfold execVmvs
  refine Ends.next ?_
  dsimp only
  split
  · exact (Canon.refl _).raise
  · split
    · exact (Canon.refl _).raise
    · exact (Canon.refl _).inOrderAs (fun u => (Canon.ite _ (Canon.refl u).setBack (Canon.refl u)).finish)

theorem ends_execVmvx (o : VOps) (s : State) : Ends s (execVmvx o s) := by
  unfold execVmvx
  refine Ends.next ((Canon.refl _).inOrder (fun u => ?_))
  dsimp only
  split
  · exact (Canon.refl u).raise
  · split
    · exact (Canon.refl u).raise
    · split
      · exact (Canon.refl u).suspendAs
      · exact (Canon.refl u).setBack.finish

theorem ends_execMseti (o : VOps) (s : State) : Ends s (execMseti o s) := Ends.next (Canon.refl _).maskForm

theorem ends_execMfirst (o : VOps) (s : State) : Ends s (execMfirst o s) := Ends.next (Canon.refl _).toX

theorem ends_execMpopc (o : VOps) (s : State) : Ends s (execMpopc o s) := Ends.next (Canon.refl _).toX

theorem ends_execMnot (o : VOps) (s : State) : Ends s (execMnot o s) := Ends.next (Canon.refl _).maskForm

theorem ends_execMandn (o : VOps) (s : State) : Ends s (execMandn o s) := Ends.next (Canon.refl _).maskForm

theorem ends_execMxor (o : VOps) (s : State) : Ends s (execMxor o s) := Ends.next (Canon.refl _).maskForm

theorem ends_execMor (o : VOps) (s : State) : Ends s (execMor o s) := Ends.next (Canon.refl _).maskForm

theorem ends_execMand (o : VOps) (s : State) : Ends s (execMand o s) := Ends.next (Canon.refl _).maskForm

theorem ends_execVbrev (o : VOps) (s : State) : Ends s (execVbrev o s) := Ends.next (Canon.refl _).elementwise

theorem ends_execVordk (o : VOps) (s : State) : Ends s (execVordk o s) := Ends.next (Canon.refl _).elementwise

theorem ends_execVcpop (o : VOps) (s : State) : Ends s (execVcpop o s) := Ends.next (Canon.refl _).elementwise

theorem ends_execVclz (o : VOps) (s : State) : Ends s (execVclz o s) := Ends.next (Canon.refl _).elementwise

theorem ends_execVid (o : VOps) (s : State) : Ends s (execVid o s) := Ends.next (Canon.refl _).elementwise

theorem ends_execVlut (o : VOps) (s : State) : Ends s (execVlut o s) := by
  unfold execVlut
  refine Ends.next ?_
  dsimp only
  split
  · exact (Canon.refl _).raise
  · refine Canon.ite _ (Canon.refl _).raise (Canon.ite _ (Canon.refl _).raise ?_)
    split
    · exact (Canon.refl _).raise
    · refine (Canon.refl _).inOrderAs (fun u => ?_)
      split
      · exact Canon.ite _ (Canon.ite _ (Canon.refl u).finish (Canon.refl u).wholeJob) (Canon.refl u).rowJob
      · exact (Canon.refl u).rowJob

theorem ends_execVpack (o : VOps) (s : State) : Ends s (execVpack o s) := Ends.next (Canon.refl _).elementwise

theorem ends_execVunpk (o : VOps) (s : State) : Ends s (execVunpk o s) := Ends.next (Canon.refl _).elementwise

theorem ends_execVreshp (o : VOps) (s : State) : Ends s (execVreshp o s) := by
  unfold execVreshp
  refine Ends.next ?_
  dsimp only
  split
  · exact (Canon.refl _).raise
  · split
    · exact (Canon.refl _).raise
    · split
      · exact (Canon.refl _).raise
      · exact (Canon.refl _).inOrderAs (fun u => Canon.ite _ (Canon.refl u).finish (Canon.refl u).wholeJob)

theorem ends_execVexpm (o : VOps) (s : State) : Ends s (execVexpm o s) := Ends.next (Canon.refl _).rearrange

theorem ends_execVcompr (o : VOps) (s : State) : Ends s (execVcompr o s) := Ends.next (Canon.refl _).rearrange

theorem ends_execVslide1dn (o : VOps) (s : State) : Ends s (execVslide1dn o s) := Ends.next (Canon.refl _).rearrange

theorem ends_execVslide1up (o : VOps) (s : State) : Ends s (execVslide1up o s) := Ends.next (Canon.refl _).rearrange

theorem ends_execVslidedn (o : VOps) (s : State) : Ends s (execVslidedn o s) := Ends.next (Canon.refl _).rearrange

theorem ends_execVslideup (o : VOps) (s : State) : Ends s (execVslideup o s) := Ends.next (Canon.refl _).rearrange

theorem ends_execVrgath (o : VOps) (s : State) : Ends s (execVrgath o s) := Ends.next (Canon.refl _).rearrange

theorem ends_execVredcol (o : VOps) (s : State) : Ends s (execVredcol o s) :=
  Ends.next ((Canon.refl _).redChecks (fun u _ => Canon.ite _ (Canon.refl u).finish (Canon.refl u).wholeJob))

theorem ends_execVscan (o : VOps) (s : State) : Ends s (execVscan o s) :=
  Ends.next ((Canon.refl _).redChecks (fun u _ => Canon.ite _ (Canon.refl u).finish (Canon.refl u).wholeJob))

theorem ends_execVredsc (o : VOps) (s : State) : Ends s (execVredsc o s) := Ends.next (Canon.refl _).rowReduction

theorem ends_execVredor (o : VOps) (s : State) : Ends s (execVredor o s) := Ends.next (Canon.refl _).rowReduction

theorem ends_execVredand (o : VOps) (s : State) : Ends s (execVredand o s) := Ends.next (Canon.refl _).rowReduction

theorem ends_execVredmin (o : VOps) (s : State) : Ends s (execVredmin o s) := Ends.next (Canon.refl _).rowReduction

theorem ends_execVredmax (o : VOps) (s : State) : Ends s (execVredmax o s) := Ends.next (Canon.refl _).rowReduction

theorem ends_execVredsum (o : VOps) (s : State) : Ends s (execVredsum o s) := Ends.next (Canon.refl _).rowReduction

theorem ends_execVretag (o : VOps) (s : State) : Ends s (execVretag o s) := by
  unfold execVretag
  refine Ends.next ((Canon.refl _).namingTagSource (fun u => ?_))
  dsimp only
  split
  · exact (Canon.refl u).raise
  · split
    · exact (Canon.refl u).raise
    · exact (Canon.refl u).inOrderAs (fun u => (Canon.refl u).rowJob)

theorem ends_execVcvtT (o : VOps) (s : State) : Ends s (execVcvtT o s) := Ends.next (Canon.refl _).elementwise

theorem ends_execVcvtF (o : VOps) (s : State) : Ends s (execVcvtF o s) := Ends.next (Canon.refl _).elementwise

theorem ends_execVcvtI (o : VOps) (s : State) : Ends s (execVcvtI o s) := Ends.next (Canon.refl _).elementwise

theorem ends_execVcvtQ4 (o : VOps) (s : State) : Ends s (execVcvtQ4 o s) := Ends.next (Canon.refl _).elementwise

theorem ends_execVcvtD (o : VOps) (s : State) : Ends s (execVcvtD o s) := Ends.next (Canon.refl _).elementwise

theorem ends_execVcvtH (o : VOps) (s : State) : Ends s (execVcvtH o s) :=
  Ends.next ((Canon.refl _).namingTagSource (fun u => (Canon.refl u).elementwise))

theorem ends_execVclass (o : VOps) (s : State) : Ends s (execVclass o s) := Ends.next (Canon.refl _).elementwise

theorem ends_execVlbnd (o : VOps) (s : State) : Ends s (execVlbnd o s) := Ends.next (Canon.refl _).elementwise

theorem ends_execVsgtX (o : VOps) (s : State) : Ends s (execVsgtX o s) := Ends.next (Canon.refl _).elementwise

theorem ends_execVsltX (o : VOps) (s : State) : Ends s (execVsltX o s) := Ends.next (Canon.refl _).elementwise

theorem ends_execVsle (o : VOps) (s : State) : Ends s (execVsle o s) := Ends.next (Canon.refl _).elementwise

theorem ends_execVslt (o : VOps) (s : State) : Ends s (execVslt o s) := Ends.next (Canon.refl _).elementwise

theorem ends_execVsne (o : VOps) (s : State) : Ends s (execVsne o s) := Ends.next (Canon.refl _).elementwise

theorem ends_execVseq (o : VOps) (s : State) : Ends s (execVseq o s) := Ends.next (Canon.refl _).elementwise

theorem ends_execVneg (o : VOps) (s : State) : Ends s (execVneg o s) := Ends.next (Canon.refl _).elementwise

theorem ends_execVabs (o : VOps) (s : State) : Ends s (execVabs o s) := Ends.next (Canon.refl _).elementwise

theorem ends_execVnmsacX (o : VOps) (s : State) : Ends s (execVnmsacX o s) := Ends.next (Canon.refl _).elementwise

theorem ends_execVmaccX (o : VOps) (s : State) : Ends s (execVmaccX o s) := Ends.next (Canon.refl _).elementwise

theorem ends_execVnmsub (o : VOps) (s : State) : Ends s (execVnmsub o s) := Ends.next (Canon.refl _).elementwise

theorem ends_execVmadd (o : VOps) (s : State) : Ends s (execVmadd o s) := Ends.next (Canon.refl _).elementwise

theorem ends_execVnmsac (o : VOps) (s : State) : Ends s (execVnmsac o s) := Ends.next (Canon.refl _).elementwise

theorem ends_execVmacc (o : VOps) (s : State) : Ends s (execVmacc o s) := Ends.next (Canon.refl _).elementwise

theorem ends_execVsplat (o : VOps) (s : State) : Ends s (execVsplat o s) := Ends.next (Canon.refl _).elementwise

theorem ends_execVmergeX (o : VOps) (s : State) : Ends s (execVmergeX o s) := Ends.next (Canon.refl _).elementwise

theorem ends_execVsraX (o : VOps) (s : State) : Ends s (execVsraX o s) := Ends.next (Canon.refl _).elementwise

theorem ends_execVsrlX (o : VOps) (s : State) : Ends s (execVsrlX o s) := Ends.next (Canon.refl _).elementwise

theorem ends_execVsllX (o : VOps) (s : State) : Ends s (execVsllX o s) := Ends.next (Canon.refl _).elementwise

theorem ends_execVxorX (o : VOps) (s : State) : Ends s (execVxorX o s) := Ends.next (Canon.refl _).elementwise

theorem ends_execVorX (o : VOps) (s : State) : Ends s (execVorX o s) := Ends.next (Canon.refl _).elementwise

theorem ends_execVandX (o : VOps) (s : State) : Ends s (execVandX o s) := Ends.next (Canon.refl _).elementwise

theorem ends_execVmv (o : VOps) (s : State) : Ends s (execVmv o s) := Ends.next (Canon.refl _).elementwise

theorem ends_execVmerge (o : VOps) (s : State) : Ends s (execVmerge o s) := Ends.next (Canon.refl _).elementwise

theorem ends_execVsra (o : VOps) (s : State) : Ends s (execVsra o s) := Ends.next (Canon.refl _).elementwise

theorem ends_execVsrl (o : VOps) (s : State) : Ends s (execVsrl o s) := Ends.next (Canon.refl _).elementwise

theorem ends_execVsll (o : VOps) (s : State) : Ends s (execVsll o s) := Ends.next (Canon.refl _).elementwise

theorem ends_execVxor (o : VOps) (s : State) : Ends s (execVxor o s) := Ends.next (Canon.refl _).elementwise

theorem ends_execVor (o : VOps) (s : State) : Ends s (execVor o s) := Ends.next (Canon.refl _).elementwise

theorem ends_execVand (o : VOps) (s : State) : Ends s (execVand o s) := Ends.next (Canon.refl _).elementwise

theorem ends_execVmaxX (o : VOps) (s : State) : Ends s (execVmaxX o s) := Ends.next (Canon.refl _).elementwise

theorem ends_execVminX (o : VOps) (s : State) : Ends s (execVminX o s) := Ends.next (Canon.refl _).elementwise

theorem ends_execVrdivX (o : VOps) (s : State) : Ends s (execVrdivX o s) := Ends.next (Canon.refl _).elementwise

theorem ends_execVdivX (o : VOps) (s : State) : Ends s (execVdivX o s) := Ends.next (Canon.refl _).elementwise

theorem ends_execVmulX (o : VOps) (s : State) : Ends s (execVmulX o s) := Ends.next (Canon.refl _).elementwise

theorem ends_execVrsubX (o : VOps) (s : State) : Ends s (execVrsubX o s) := Ends.next (Canon.refl _).elementwise

theorem ends_execVsubX (o : VOps) (s : State) : Ends s (execVsubX o s) := Ends.next (Canon.refl _).elementwise

theorem ends_execVaddX (o : VOps) (s : State) : Ends s (execVaddX o s) := Ends.next (Canon.refl _).elementwise

theorem ends_execVsqrt (o : VOps) (s : State) : Ends s (execVsqrt o s) := Ends.next (Canon.refl _).elementwise

theorem ends_execVmax (o : VOps) (s : State) : Ends s (execVmax o s) := Ends.next (Canon.refl _).elementwise

theorem ends_execVmin (o : VOps) (s : State) : Ends s (execVmin o s) := Ends.next (Canon.refl _).elementwise

theorem ends_execVdiv (o : VOps) (s : State) : Ends s (execVdiv o s) := Ends.next (Canon.refl _).elementwise

theorem ends_execVmulh (o : VOps) (s : State) : Ends s (execVmulh o s) := Ends.next (Canon.refl _).elementwise

theorem ends_execVmul (o : VOps) (s : State) : Ends s (execVmul o s) := Ends.next (Canon.refl _).elementwise

theorem ends_execVsub (o : VOps) (s : State) : Ends s (execVsub o s) := Ends.next (Canon.refl _).elementwise

theorem ends_execVadd (o : VOps) (s : State) : Ends s (execVadd o s) := Ends.next (Canon.refl _).elementwise

theorem ends_execGetsh (d sel n : Reg) (s : State) : Ends s (execGetsh d sel n s) := Ends.next (Canon.refl _).compute

theorem ends_execMxoff (s : State) : Ends s (execMxoff s) :=
  Ends.next (Canon.ite _ (Canon.refl _).raise ((Canon.refl _).inOrderAs (fun u => (Canon.refl u).setBack.finish)))

theorem ends_execMxon (d a b : Reg) (s : State) : Ends s (execMxon d a b s) :=
  Ends.next (Canon.ite _ (Canon.refl _).raise ((Canon.refl _).inOrderAs (fun u => (Canon.refl u).setBack.finish)))

theorem ends_execQcfg (q a : Reg) (s : State) : Ends s (execQcfg q a s) :=
  Ends.next (Canon.ite _ (Canon.refl _).raise (Canon.ite _ (Canon.refl _).suspendAs (Canon.refl _).setBack.setFront.retire))

theorem ends_execVtag (n a : Reg) (s : State) : Ends s (execVtag n a s) :=
  Ends.next (Canon.ite _ (Canon.refl _).raise (Canon.ite _ (Canon.refl _).raise (Canon.refl _).setFront.retire))

theorem ends_execShapeG (d a : Reg) (b t : Reg) (s : State) : Ends s (execShapeG d a b t s) :=
  Ends.next (Canon.refl _).granted

theorem ends_execShapeM (d a : Reg) (b t : Reg) (s : State) : Ends s (execShapeM d a b t s) :=
  Ends.next (Canon.ite _ (Canon.refl _).block (Canon.refl _).tock.tock.granted)

theorem ends_execShape (d a : Reg) (b t : Reg) (s : State) : Ends s (execShape d a b t s) :=
  Ends.next (Canon.refl _).granted

theorem ends_execHalt (s : State) : Ends s (execHalt s) := by
  unfold execHalt
  refine Ends.next ((Canon.refl _).whenOldest (fun u => Canon.ite _ (Canon.refl u).block ((Canon.refl u).whenRested (fun u => ?_))))
  split
  · exact (Canon.refl u).takeTrap
  · exact (Canon.refl u).whenJoined (fun u => (Canon.refl u).whenDelivered (fun u => Canon.ite _ (Canon.ite _ ((Canon.refl u).dropTiles.foldl
        (fun u _ => (Canon.refl u).absorb)).endHart (Canon.refl u).block) ((Canon.refl u).foldl (fun u _ => (Canon.refl
        u).absorb)).setBar.endHart))

theorem ends_execYield (d : Reg) (s : State) : Ends s (execYield d s) := by
  unfold execYield
  refine Ends.next ?_
  split
  · exact (Canon.refl _).compute
  · exact Canon.ite _ (Canon.refl _).compute.preempt (Canon.refl _).compute

theorem ends_execSafept (d a b : Reg) (s : State) : Ends s (execSafept d a b s) := by
  unfold execSafept
  refine Ends.next (Canon.ite _ (Canon.refl _).raise ?_)
  split
  · exact Canon.ite _ (Canon.refl _).migrate (Canon.refl _).block
  · refine Canon.ite _ (Canon.refl _).compute (Canon.ite _ (Canon.refl _).yieldFirst ?_)
    split
    · exact (Canon.refl _).refuseMove
    · exact Canon.ite _ (Canon.refl _).upd.migrate (Canon.refl _).upd.block

theorem ends_execLaunch (d a b : Reg) (s : State) : Ends s (execLaunch d a b s) := by
  unfold execLaunch
  refine Ends.next ((Canon.refl _).whenOldest fun u =>
    Canon.ite _ (Canon.refl _).raise (Canon.ite _ (Canon.refl _).raise (Canon.ite _ (Canon.refl _).raise ?_)))
  split
  · exact (Canon.refl _).raise
  next hok =>
    have hr := Canon.loadRead hok
    exact Canon.ite _ hr.raise (Canon.ite _ hr.compute hr.appendPacket.forkLaunch.setWq.compute)

theorem ends_execWaitc (d a b : Reg) (s : State) : Ends s (execWaitc d a b s) := by
  unfold execWaitc
  refine Ends.next (Canon.ite _ (Canon.refl _).raise ?_)
  split
  · exact (Canon.refl _).raise
  · exact Canon.ite _ (Canon.refl _).block (Canon.ite _ (Canon.refl _).readLines.settleStrip.acquireAt.compute (Canon.refl
        _).readLines.settleStrip.block)

theorem ends_execJoin (d : Reg) (s : State) : Ends s (execJoin d s) := by
  unfold execJoin
  refine Ends.next ?_
  dsimp only
  split
  · exact Canon.ite _ (Canon.refl _).raise (Canon.ite _ (Canon.refl _).block ((Canon.refl _).whenOldest (fun u => (Canon.refl u).whenRested
        (fun u => (Canon.refl u).whenDelivered (fun u => (Canon.refl u).absorb.compute)))))
  · exact Canon.ite _ (Canon.refl _).raise (Canon.ite _ (Canon.refl _).raise ((Canon.refl _).whenOldest (fun u => (Canon.refl u).whenQuiet
        (fun u => (Canon.refl u).whenJoined (fun u => (Canon.refl u).endHart)))))

theorem ends_execFork (d a b : Reg) (s : State) : Ends s (execFork d a b s) := by
  unfold execFork
  refine Ends.next (Canon.ite _ (Canon.refl _).raise (Canon.ite _ (Canon.refl _).raise ?_))
  split
  · exact (Canon.refl _).raise
  · exact (Canon.refl _).whenOldest (fun u => (Canon.refl u).whenQuiet (fun u => (Canon.refl u).forked))

theorem ends_execBarDrop (d : Reg) (s : State) : Ends s (execBarDrop d s) :=
  Ends.next ((Canon.refl _).barrier (fun _ _ u => Canon.ite _ (Canon.refl u).raise (Canon.refl u).arrived.compute))

theorem ends_execBarSync (d : Reg) (s : State) : Ends s (execBarSync d s) :=
  Ends.next ((Canon.refl _).barrier (fun _ _ u => Canon.ite _ (Canon.refl u).raise (Canon.ite _ (Canon.ite _ (Canon.refl
      u).arrived.noteArrival (Canon.refl u)).block (Canon.ite _ (Canon.refl u).arrived.noteArrival (Canon.refl u)).leaveBarrier)))

theorem ends_execBarWt (d : Reg) (s : State) : Ends s (execBarWt d s) :=
  Ends.next ((Canon.refl _).inGang (fun u => Canon.ite _ (Canon.refl u).block (Canon.refl u).leaveBarrier))

theorem ends_execBarArv (d : Reg) (s : State) : Ends s (execBarArv d s) :=
  Ends.next ((Canon.refl _).barrier (fun _ _ u => Canon.ite _ (Canon.refl u).raise (Canon.refl u).arrived.compute))

theorem ends_execBarArm (d a : Reg) (s : State) : Ends s (execBarArm d a s) :=
  Ends.next ((Canon.refl _).barrier (fun _ _ u => Canon.ite _ (Canon.refl u).raise (Canon.refl u).setBar.compute))

theorem ends_execWaite (d a : Reg) (s : State) : Ends s (execWaite d a s) :=
  Ends.next (Canon.ite _ (Canon.refl _).raise (Canon.ite _ (Canon.refl _).compute (Canon.refl _).awaitResults))

theorem ends_execTlbinv (a b : Reg) (s : State) : Ends s (execTlbinv a b s) :=
  Ends.next ((Canon.refl _).privileged (fun u => (Canon.refl u).whenOldest (fun u => Canon.ite _ (Canon.refl u).raise (Canon.ite _ (Canon.refl
      u).block (Canon.refl u).upd.retire))))

theorem ends_execIcinvR (a b : Reg) (s : State) : Ends s (execIcinvR a b s) := by
  unfold execIcinvR
  refine Ends.next ((Canon.refl _).privileged fun u => (Canon.refl _).whenOldest fun u =>
    Canon.ite _ (Canon.refl _).retire (Canon.ite _ (Canon.refl _).raise ?_))
  split
  next heq => exact (Canon.invPages heq).raise
  next heq => exact (Canon.invPages heq).retire

theorem ends_execFence (scope set : Fin 8) (s : State) : Ends s (execFence scope set s) :=
  Ends.next (Canon.ite _ (Canon.refl _).raise (Canon.ite _ (Canon.refl _).block (Canon.ite _ (Canon.ite _ (Canon.refl
      _).restChannels.writeRecords (Canon.refl _)).block (Canon.ite _ (Canon.ite _ (Canon.ite _ (Canon.refl _).restChannels.writeRecords
      (Canon.refl _)).joinEngines (Canon.ite _ (Canon.refl _).restChannels.writeRecords (Canon.refl _))).setBack (Canon.ite _ (Canon.ite _
      (Canon.refl _).restChannels.writeRecords (Canon.refl _)).joinEngines (Canon.ite _ (Canon.refl _).restChannels.writeRecords (Canon.refl
      _)))).retire)))

theorem ends_execSrclr (d a : Reg) (num : BitVec 11) (s : State) : Ends s (execSrclr d a num s) :=
  Ends.next (Canon.refl _).sysWrite

theorem ends_execSrset (d a : Reg) (num : BitVec 11) (s : State) : Ends s (execSrset d a num s) :=
  Ends.next (Canon.refl _).sysWrite

theorem ends_execSwr (d a : Reg) (num : BitVec 11) (s : State) : Ends s (execSwr d a num s) :=
  Ends.next (Canon.refl _).sysWrite

theorem ends_execSrd (d : Reg) (num : BitVec 11) (s : State) : Ends s (execSrd d num s) := Ends.next (Canon.refl _).compute

theorem ends_execEret (s : State) : Ends s (execEret s) :=
  Ends.next (Canon.ite _ (Canon.refl _).raise ((Canon.refl _).whenOldest (fun u => (Canon.refl u).returnFromTrap)))

theorem ends_execEbreak (s : State) : Ends s (execEbreak s) := Ends.next (Canon.refl _).raise

theorem ends_execEcall (s : State) : Ends s (execEcall s) := Ends.next (Canon.refl _).raise

theorem ends_execStl (o : AmoOps) (s : State) : Ends s (execStl o s) := by
  unfold execStl
  refine Ends.next ((Canon.refl _).whenOldest (fun u => (Canon.refl u).amoChecked (fun _ => ?_)))
  split
  · exact (Canon.refl u).raise
  · exact (Canon.refl u).performWrite.noteRelease.retire

theorem ends_execLda (o : AmoOps) (s : State) : Ends s (execLda o s) :=
  Ends.next ((Canon.refl _).inOrder (fun u => Canon.ite _ (Canon.refl u).raise ((Canon.refl u).loadThen (fun _ u => (Canon.refl u).acquireAt))))

theorem ends_execAmocas (o : AmoOps) (s : State) : Ends s (execAmocas o s) := Ends.next (Canon.refl _).amo

theorem ends_execAmomaxu (o : AmoOps) (s : State) : Ends s (execAmomaxu o s) := Ends.next (Canon.refl _).amo

theorem ends_execAmominu (o : AmoOps) (s : State) : Ends s (execAmominu o s) := Ends.next (Canon.refl _).amo

theorem ends_execAmomax (o : AmoOps) (s : State) : Ends s (execAmomax o s) := Ends.next (Canon.refl _).amo

theorem ends_execAmomin (o : AmoOps) (s : State) : Ends s (execAmomin o s) := Ends.next (Canon.refl _).amo

theorem ends_execAmoxor (o : AmoOps) (s : State) : Ends s (execAmoxor o s) := Ends.next (Canon.refl _).amo

theorem ends_execAmoor (o : AmoOps) (s : State) : Ends s (execAmoor o s) := Ends.next (Canon.refl _).amo

theorem ends_execAmoand (o : AmoOps) (s : State) : Ends s (execAmoand o s) := Ends.next (Canon.refl _).amo

theorem ends_execAmoadd (o : AmoOps) (s : State) : Ends s (execAmoadd o s) := Ends.next (Canon.refl _).amo

theorem ends_execAmoswp (o : AmoOps) (s : State) : Ends s (execAmoswp o s) := Ends.next (Canon.refl _).amo

theorem ends_execStd (b a : Reg) (imm : BitVec 12) (s : State) : Ends s (execStd b a imm s) :=
  Ends.next (Canon.refl _).storeFrom

theorem ends_execStw (b a : Reg) (imm : BitVec 12) (s : State) : Ends s (execStw b a imm s) :=
  Ends.next (Canon.refl _).storeFrom

theorem ends_execSth (b a : Reg) (imm : BitVec 12) (s : State) : Ends s (execSth b a imm s) :=
  Ends.next (Canon.refl _).storeFrom

theorem ends_execStb (b a : Reg) (imm : BitVec 12) (s : State) : Ends s (execStb b a imm s) :=
  Ends.next (Canon.refl _).storeFrom

theorem ends_execLdwu (d a : Reg) (imm : BitVec 12) (s : State) : Ends s (execLdwu d a imm s) :=
  Ends.next (Canon.refl _).loadTo

theorem ends_execLdhu (d a : Reg) (imm : BitVec 12) (s : State) : Ends s (execLdhu d a imm s) :=
  Ends.next (Canon.refl _).loadTo

theorem ends_execLdbu (d a : Reg) (imm : BitVec 12) (s : State) : Ends s (execLdbu d a imm s) :=
  Ends.next (Canon.refl _).loadTo

theorem ends_execLdd (d a : Reg) (imm : BitVec 12) (s : State) : Ends s (execLdd d a imm s) :=
  Ends.next (Canon.refl _).loadTo

theorem ends_execLdw (d a : Reg) (imm : BitVec 12) (s : State) : Ends s (execLdw d a imm s) :=
  Ends.next (Canon.refl _).loadTo

theorem ends_execLdh (d a : Reg) (imm : BitVec 12) (s : State) : Ends s (execLdh d a imm s) :=
  Ends.next (Canon.refl _).loadTo

theorem ends_execLdb (d a : Reg) (imm : BitVec 12) (s : State) : Ends s (execLdb d a imm s) :=
  Ends.next (Canon.refl _).loadTo

end Sys2Proof.Claims
end

section
/-! PROOF. Every step keeps canonical memory canonical (log 1). -/

namespace Sys2Proof.Claims

open Sys2Proof Sys2Proof.Machine

theorem ends_exec (i : Instr) (s : State) : Ends s (exec i s) := by
  cases i with
  | ldb d a imm => exact ends_execLdb d a imm s
  | ldh d a imm => exact ends_execLdh d a imm s
  | ldw d a imm => exact ends_execLdw d a imm s
  | ldd d a imm => exact ends_execLdd d a imm s
  | ldbu d a imm => exact ends_execLdbu d a imm s
  | ldhu d a imm => exact ends_execLdhu d a imm s
  | ldwu d a imm => exact ends_execLdwu d a imm s
  | stb b a imm => exact ends_execStb b a imm s
  | sth b a imm => exact ends_execSth b a imm s
  | stw b a imm => exact ends_execStw b a imm s
  | std b a imm => exact ends_execStd b a imm s
  | amoswp o => exact ends_execAmoswp o s
  | amoadd o => exact ends_execAmoadd o s
  | amoand o => exact ends_execAmoand o s
  | amoor o => exact ends_execAmoor o s
  | amoxor o => exact ends_execAmoxor o s
  | amomin o => exact ends_execAmomin o s
  | amomax o => exact ends_execAmomax o s
  | amominu o => exact ends_execAmominu o s
  | amomaxu o => exact ends_execAmomaxu o s
  | amocas o => exact ends_execAmocas o s
  | lda o => exact ends_execLda o s
  | stl o => exact ends_execStl o s
  | ecall => exact ends_execEcall s
  | ebreak => exact ends_execEbreak s
  | eret => exact ends_execEret s
  | srd d num => exact ends_execSrd d num s
  | swr d a num => exact ends_execSwr d a num s
  | srset d a num => exact ends_execSrset d a num s
  | srclr d a num => exact ends_execSrclr d a num s
  | fence scope set => exact ends_execFence scope set s
  | icinvR a b => exact ends_execIcinvR a b s
  | tlbinv a b => exact ends_execTlbinv a b s
  | waite d a => exact ends_execWaite d a s
  | barArm d a => exact ends_execBarArm d a s
  | barArv d => exact ends_execBarArv d s
  | barWt d => exact ends_execBarWt d s
  | barSync d => exact ends_execBarSync d s
  | barDrop d => exact ends_execBarDrop d s
  | fork d a b => exact ends_execFork d a b s
  | join d => exact ends_execJoin d s
  | waitc d a b => exact ends_execWaitc d a b s
  | launch d a b => exact ends_execLaunch d a b s
  | safept d a b => exact ends_execSafept d a b s
  | yield d => exact ends_execYield d s
  | halt => exact ends_execHalt s
  | shape d a b t => exact ends_execShape d a b t s
  | shapeM d a b t => exact ends_execShapeM d a b t s
  | shapeG d a b t => exact ends_execShapeG d a b t s
  | vtag n a => exact ends_execVtag n a s
  | qcfg q a => exact ends_execQcfg q a s
  | mxon d a b => exact ends_execMxon d a b s
  | mxoff => exact ends_execMxoff s
  | getsh d sel n => exact ends_execGetsh d sel n s
  | vldU o => exact ends_execVldU o s
  | vldS o => exact ends_execVldS o s
  | vldX o => exact ends_execVldX o s
  | vldXO o => exact ends_execVldXO o s
  | vldSeg o => exact ends_execVldSeg o s
  | vldC o => exact ends_execVldC o s
  | vldFF o => exact ends_execVldFF o s
  | vtree o => exact ends_execVtree o s
  | vstU o => exact ends_execVstU o s
  | vstS o => exact ends_execVstS o s
  | vstX o => exact ends_execVstX o s
  | vstXO o => exact ends_execVstXO o s
  | vstSeg o => exact ends_execVstSeg o s
  | vstC o => exact ends_execVstC o s
  | vadd o => exact ends_execVadd o s
  | vsub o => exact ends_execVsub o s
  | vmul o => exact ends_execVmul o s
  | vmulh o => exact ends_execVmulh o s
  | vdiv o => exact ends_execVdiv o s
  | vmin o => exact ends_execVmin o s
  | vmax o => exact ends_execVmax o s
  | vsqrt o => exact ends_execVsqrt o s
  | vaddX o => exact ends_execVaddX o s
  | vsubX o => exact ends_execVsubX o s
  | vrsubX o => exact ends_execVrsubX o s
  | vmulX o => exact ends_execVmulX o s
  | vdivX o => exact ends_execVdivX o s
  | vrdivX o => exact ends_execVrdivX o s
  | vminX o => exact ends_execVminX o s
  | vmaxX o => exact ends_execVmaxX o s
  | vand o => exact ends_execVand o s
  | vor o => exact ends_execVor o s
  | vxor o => exact ends_execVxor o s
  | vsll o => exact ends_execVsll o s
  | vsrl o => exact ends_execVsrl o s
  | vsra o => exact ends_execVsra o s
  | vmerge o => exact ends_execVmerge o s
  | vmv o => exact ends_execVmv o s
  | vandX o => exact ends_execVandX o s
  | vorX o => exact ends_execVorX o s
  | vxorX o => exact ends_execVxorX o s
  | vsllX o => exact ends_execVsllX o s
  | vsrlX o => exact ends_execVsrlX o s
  | vsraX o => exact ends_execVsraX o s
  | vmergeX o => exact ends_execVmergeX o s
  | vsplat o => exact ends_execVsplat o s
  | vmacc o => exact ends_execVmacc o s
  | vnmsac o => exact ends_execVnmsac o s
  | vmadd o => exact ends_execVmadd o s
  | vnmsub o => exact ends_execVnmsub o s
  | vmaccX o => exact ends_execVmaccX o s
  | vnmsacX o => exact ends_execVnmsacX o s
  | vabs o => exact ends_execVabs o s
  | vneg o => exact ends_execVneg o s
  | vseq o => exact ends_execVseq o s
  | vsne o => exact ends_execVsne o s
  | vslt o => exact ends_execVslt o s
  | vsle o => exact ends_execVsle o s
  | vsltX o => exact ends_execVsltX o s
  | vsgtX o => exact ends_execVsgtX o s
  | vlbnd o => exact ends_execVlbnd o s
  | vclass o => exact ends_execVclass o s
  | vcvtH o => exact ends_execVcvtH o s
  | vcvtD o => exact ends_execVcvtD o s
  | vcvtQ4 o => exact ends_execVcvtQ4 o s
  | vcvtI o => exact ends_execVcvtI o s
  | vcvtF o => exact ends_execVcvtF o s
  | vcvtT o => exact ends_execVcvtT o s
  | vretag o => exact ends_execVretag o s
  | vredsum o => exact ends_execVredsum o s
  | vredmax o => exact ends_execVredmax o s
  | vredmin o => exact ends_execVredmin o s
  | vredand o => exact ends_execVredand o s
  | vredor o => exact ends_execVredor o s
  | vredsc o => exact ends_execVredsc o s
  | vscan o => exact ends_execVscan o s
  | vredcol o => exact ends_execVredcol o s
  | vrgath o => exact ends_execVrgath o s
  | vslideup o => exact ends_execVslideup o s
  | vslidedn o => exact ends_execVslidedn o s
  | vslide1up o => exact ends_execVslide1up o s
  | vslide1dn o => exact ends_execVslide1dn o s
  | vcompr o => exact ends_execVcompr o s
  | vexpm o => exact ends_execVexpm o s
  | vreshp o => exact ends_execVreshp o s
  | vunpk o => exact ends_execVunpk o s
  | vpack o => exact ends_execVpack o s
  | vlut o => exact ends_execVlut o s
  | vid o => exact ends_execVid o s
  | vclz o => exact ends_execVclz o s
  | vcpop o => exact ends_execVcpop o s
  | vordk o => exact ends_execVordk o s
  | vbrev o => exact ends_execVbrev o s
  | mand o => exact ends_execMand o s
  | mor o => exact ends_execMor o s
  | mxor o => exact ends_execMxor o s
  | mandn o => exact ends_execMandn o s
  | mnot o => exact ends_execMnot o s
  | mpopc o => exact ends_execMpopc o s
  | mfirst o => exact ends_execMfirst o s
  | mseti o => exact ends_execMseti o s
  | vmvx o => exact ends_execVmvx o s
  | vmvs o => exact ends_execVmvs o s
  | mmvx o => exact ends_execMmvx o s
  | mmvs o => exact ends_execMmvs o s
  | qstat o => exact ends_execQstat o s
  | qdrop o => exact ends_execQdrop o s
  | catins o => exact ends_execCatins o s
  | catlkp o => exact ends_execCatlkp o s
  | catacc o => exact ends_execCatacc o s
  | catdrn o => exact ends_execCatdrn o s
  | catclr => exact ends_execCatclr s
  | catcnt o => exact ends_execCatcnt o s
  | catcfg o => exact ends_execCatcfg o s
  | cpyG d a b => exact ends_execCpyG d a b s
  | cpyP d a b => exact ends_execCpyP d a b s
  | cpyX d a b => exact ends_execCpyX d a b s
  | cpyIX d a b => exact ends_execCpyIX d a b s
  | cpyWait d c b => exact ends_execCpyWait d c b s
  | cpyStat d c sel => exact ends_execCpyStat d c sel s
  | cpyAbort d c => exact ends_execCpyAbort d c s
  | cpyFill d c b => exact ends_execCpyFill d c b s
  | hLdd d a off => exact ends_execHLdd d a off s
  | hStd b a off => exact ends_execHStd b a off s
  | hLdw d a off => exact ends_execHLdw d a off s
  | hStw b a off => exact ends_execHStw b a off s
  | hBrk => exact ends_execHBrk s
  | mzero tile => exact ends_execMzero tile s
  | mopa za va vb ca cb => exact ends_execMopa za va vb ca cb s
  | mops za va vb ca cb => exact ends_execMops za va vb ca cb s
  | mblk zf za ns keep => exact ends_execMblk zf za ns keep s
  | mrdz vd zf xb => exact ends_execMrdz vd zf xb s
  | mspill sq tile xc => exact ends_execMspill sq tile xc s
  | mfill tile lq xc => exact ends_execMfill tile lq xc s
  | mldq o => exact ends_execMldq o s
  | gopen d a b c => exact ends_execGopen d a b c s
  | gadv d a b => exact ends_execGadv d a b s
  | gmask md a => exact ends_execGmask md a s
  | gmaskM md a ms => exact ends_execGmaskM md a ms s
  | gckpt d a => exact ends_execGckpt d a s
  | groll d a b => exact ends_execGroll d a b s
  | gfork d a => exact ends_execGfork d a s
  | gfree a => exact ends_execGfree a s
  | gstat d a sel => exact ends_execGstat d a sel s
  | acclog a b => exact ends_execAcclog a b s
  | accsync d => exact ends_execAccsync d s
  | acchead d sel => exact ends_execAcchead d sel s
  | vtseal d a b c => exact ends_execVtseal d a b c s
  | vtatt a b c => exact ends_execVtatt a b c s
  | vtdrop a c => exact ends_execVtdrop a c s
  | vtqry d a sel => exact ends_execVtqry d a sel s
  | add d a b => exact ends_execAdd d a b s
  | sub d a b => exact ends_execSub d a b s
  | and d a b => exact ends_execAnd d a b s
  | or d a b => exact ends_execOr d a b s
  | xor d a b => exact ends_execXor d a b s
  | sll d a b => exact ends_execSll d a b s
  | srl d a b => exact ends_execSrl d a b s
  | sra d a b => exact ends_execSra d a b s
  | slt d a b => exact ends_execSlt d a b s
  | sltu d a b => exact ends_execSltu d a b s
  | mul d a b => exact ends_execMul d a b s
  | mulh d a b => exact ends_execMulh d a b s
  | mulhu d a b => exact ends_execMulhu d a b s
  | div d a b => exact ends_execDiv d a b s
  | divu d a b => exact ends_execDivu d a b s
  | rem d a b => exact ends_execRem d a b s
  | remu d a b => exact ends_execRemu d a b s
  | min d a b => exact ends_execMin d a b s
  | max d a b => exact ends_execMax d a b s
  | minu d a b => exact ends_execMinu d a b s
  | maxu d a b => exact ends_execMaxu d a b s
  | addw d a b => exact ends_execAddw d a b s
  | subw d a b => exact ends_execSubw d a b s
  | clz d a => exact ends_execClz d a s
  | ctz d a => exact ends_execCtz d a s
  | cpop d a => exact ends_execCpop d a s
  | rol d a b => exact ends_execRol d a b s
  | ror d a b => exact ends_execRor d a b s
  | addi d a imm => exact ends_execAddi d a imm s
  | andi d a imm => exact ends_execAndi d a imm s
  | ori d a imm => exact ends_execOri d a imm s
  | xori d a imm => exact ends_execXori d a imm s
  | slti d a imm => exact ends_execSlti d a imm s
  | sltiu d a imm => exact ends_execSltiu d a imm s
  | slli d a sh => exact ends_execSlli d a sh s
  | srli d a sh => exact ends_execSrli d a sh s
  | srai d a sh => exact ends_execSrai d a sh s
  | rori d a sh => exact ends_execRori d a sh s
  | addiw d a imm => exact ends_execAddiw d a imm s
  | liu d imm => exact ends_execLiu d imm s
  | pcadd d imm => exact ends_execPcadd d imm s
  | beq a b off => exact ends_execBeq a b off s
  | bne a b off => exact ends_execBne a b off s
  | blt a b off => exact ends_execBlt a b off s
  | bge a b off => exact ends_execBge a b off s
  | bltu a b off => exact ends_execBltu a b off s
  | bgeu a b off => exact ends_execBgeu a b off s
  | jal d off => exact ends_execJal d off s
  | jalr d a imm => exact ends_execJalr d a imm s
  | faddS d a b => exact ends_execFaddS d a b s
  | fsubS d a b => exact ends_execFsubS d a b s
  | fmulS d a b => exact ends_execFmulS d a b s
  | fdivS d a b => exact ends_execFdivS d a b s
  | fsqrtS d a => exact ends_execFsqrtS d a s
  | fminS d a b => exact ends_execFminS d a b s
  | fmaxS d a b => exact ends_execFmaxS d a b s
  | feqS d a b => exact ends_execFeqS d a b s
  | fltS d a b => exact ends_execFltS d a b s
  | fcvtSL d a => exact ends_execFcvtSL d a s
  | fcvtLS d a => exact ends_execFcvtLS d a s
  | fcvtSD d a => exact ends_execFcvtSD d a s
  | faddD d a b => exact ends_execFaddD d a b s
  | fsubD d a b => exact ends_execFsubD d a b s
  | fmulD d a b => exact ends_execFmulD d a b s
  | fdivD d a b => exact ends_execFdivD d a b s
  | fsqrtD d a => exact ends_execFsqrtD d a s
  | fcvtDS d a => exact ends_execFcvtDS d a s
  | fcvtDL d a => exact ends_execFcvtDL d a s
  | fcvtLD d a => exact ends_execFcvtLD d a s
  | hAddi d imm => exact ends_execHAddi d imm s
  | hLi d imm => exact ends_execHLi d imm s
  | hSlli d sh => exact ends_execHSlli d sh s
  | hLiu d imm => exact ends_execHLiu d imm s
  | hMov d a => exact ends_execHMov d a s
  | hNop => exact ends_execHNop s
  | hAdd d a => exact ends_execHAdd d a s
  | hSub d a => exact ends_execHSub d a s
  | hBz a off => exact ends_execHBz a off s
  | hBnz a off => exact ends_execHBnz a off s
  | hJmp off => exact ends_execHJmp off s
  | hJmpr a => exact ends_execHJmpr a s
  | trapEntry t => exact ends_execTrapEntry t s
  | queueStall => exact ends_execQueueStall s
  | waitEnd => exact ends_execWaitEnd s
  | microOperationStart die core bed cost => exact ends_execMicroOperationStart die core bed cost s
  | microOperationEnd die core bed => exact ends_execMicroOperationEnd die core bed s
  | loadRowDelivery => exact ends_execLoadRowDelivery s
  | storeRowDrain => exact ends_execStoreRowDrain s
  | copyProgress c n => exact ends_execCopyProgress c n s
  | copyFaultHeld c => exact ends_execCopyFaultHeld c s
  | cpyXGroupWrite c => exact ends_execCpyXGroupWrite c s
  | grammarResult => exact ends_execGrammarResult s
  | accessionAppend p => exact ends_execAccessionAppend p s
  | batchDurable p => exact ends_execBatchDurable p s
  | sealCompletion v corrupt => exact ends_execSealCompletion v corrupt s
  | dropCompletion v => exact ends_execDropCompletion v s
  | attestationBlock => exact ends_execAttestationBlock s
  | preemption gang => exact ends_execPreemption gang s
  | contextRestore gang => exact ends_execContextRestore gang s
  | migration => exact ends_execMigration s
  | quantumExpiry gang => exact ends_execQuantumExpiry gang s
  | waitConditionEvaluation queue => exact ends_execWaitConditionEvaluation queue s
  | packetTake queue => exact ends_execPacketTake queue s
  | gangSowing gang => exact ends_execGangSowing gang s
  | launchCompletion gang => exact ends_execLaunchCompletion gang s
  | wqtailWrite by_ queue v => exact ends_execWqtailWrite by_ queue v s
  | wqbaseWrite by_ queue v => exact ends_execWqbaseWrite by_ queue v s
  | wqctlWrite by_ queue v => exact ends_execWqctlWrite by_ queue v s
  | wqstatWrite by_ queue v => exact ends_execWqstatWrite by_ queue v s
  | ldrainWrite by_ p v => exact ends_execLdrainWrite by_ p v s
  | lsignWrite by_ p v => exact ends_execLsignWrite by_ p v s
  | signedStatement p => exact ends_execSignedStatement p s
  | registerWrite by_ addr v => exact ends_execRegisterWrite by_ addr v s
  | loadCodeObject => exact ends_execLoadCodeObject s
  | unload => exact ends_execUnload s
  | attestDevice => exact ends_execAttestDevice s
  | setPackageNumber => exact ends_execSetPackageNumber s
  | releaseFencedFrame => exact ends_execReleaseFencedFrame s
  | setTripPoint => exact ends_execSetTripPoint s
  | setQuantum => exact ends_execSetQuantum s
  | mailboxCompletion => exact ends_execMailboxCompletion s
  | reset b => exact ends_execReset b s
  | thermalRefresh die core reading => exact ends_execThermalRefresh die core reading s
  | powerLimitThrottle excess => exact ends_execPowerLimitThrottle excess s
  | scrub addr double => exact ends_execScrub addr double s
  | flitRetry die retrainFails => exact ends_execFlitRetry die retrainFails s
  | cxlLinkDown port => exact ends_execCxlLinkDown port s
  | fabricReadTimeout package => exact ends_execFabricReadTimeout package s
  | fabricRequest write addr bytes => exact ends_execFabricRequest write addr bytes s
  | hostRead addr size => exact ends_execHostRead addr size s
  | hostWrite addr bytes => exact ends_execHostWrite addr bytes s
  | migrationRequest hart reason => exact ends_execMigrationRequest hart reason s

theorem Ends.state {s : State} {o : Out} (h : Ends s o) : Canon s (Out.state s o) := by
  unfold Out.state
  split
  · exact h _ rfl
  · exact Canon.refl s

theorem Canon.run {s t : State} (hc : Canon s t) {i : Instr} : Canon s (t.run i) := hc.trans (ends_exec i t).state

theorem Canon.firstEvent {s t : State} {l : List Instr} (h : s.firstEvent l = some t) : Canon s t := by
  induction l with
  | nil => cases h
  | cons e l ih =>
    unfold State.firstEvent at h
    split at h
    · exact ih h
    · cases h
      exact (Canon.refl s).run

theorem Canon.issue {s t : State} (hc : Canon s t) {i : Instr} : Canon s (t.issue i) := by
  unfold State.issue
  exact (hc.start (fun _ u => (Canon.refl u).run)).upd

theorem Canon.hand {s t : State} (hc : Canon s t) {i : Instr} : Canon s (t.hand i) := by
  unfold State.hand
  exact Canon.ite _ hc.block (Canon.ite _ hc.block (Canon.ite _ hc.block (Canon.ite _ (Canon.ite _ hc hc.settleInbound).block (Canon.ite _ hc
      hc.settleInbound).issue)))

theorem Canon.nextInstr {s t : State} (hc : Canon s t) : Canon s t.nextInstr := by
  unfold State.nextInstr
  refine Canon.ite _ hc.block ?_
  split
  · exact hc.hand
  · exact Canon.ite _ hc.takeTrap hc.block

theorem Canon.stallCheck {s t : State} (hc : Canon s t) {before : State} : Canon s (t.stallCheck before) := by
  unfold State.stallCheck
  split
  · exact hc.upd
  · exact Canon.ite _ hc.takeStall hc.upd

theorem Canon.resumeFirst {s t : State} (hc : Canon s t) {run : Instr → State → State} {n k : ℕ} (hrun : ∀ i u, Canon u (run i u)) :
    Canon s (State.resumeFirst run n k t).1 := by
  induction n generalizing k t with
  | zero => exact hc
  | succ n ih =>
    unfold State.resumeFirst
    dsimp only
    split
    · exact hc.resumePend hrun
    · exact ih hc

theorem Canon.progress {s t : State} (hc : Canon s t) : Canon s t.progress.1 :=
  (Canon.ite _ hc hc.settleInbound).resumeFirst fun _ u => (Canon.refl u).start fun _ v => (Canon.refl v).run

theorem Canon.hartStep {s t : State} (hc : Canon s t) : Canon s t.hartStep :=
  (Canon.ite _ hc.progress hc.nextInstr).stallCheck.count

theorem Canon.rotate {s t : State} (h : s.rotate = some t) : Canon s t := by
  obtain ⟨k, -, hk⟩ := Option.map_eq_some_iff.mp h
  rw [← hk]
  exact (Canon.refl s).swapIn

theorem Canon.defaultStep {s t : State} (hc : Canon s t) : Canon s t.defaultStep := by
  unfold State.defaultStep
  refine Canon.ite _ hc.hartStep ?_
  split
  next h => exact hc.trans (Canon.firstEvent h)
  · split
    next h => exact (hc.trans (Canon.rotate h)).hartStep
    · exact Canon.ite _ hc.hartStep hc.tock

theorem Canon.stoppedStep {s t : State} (hc : Canon s t) {gs : List ℕ} : Canon s (t.stoppedStep gs) := by
  unfold State.stoppedStep
  exact hc.upd.hartStep.upd

theorem Canon.dropProgress {s t : State} (hc : Canon s t) {v first len : ℕ} : Canon s (t.dropProgress v first len) := by
  unfold State.dropProgress
  exact Canon.ite _ hc.putBytes hc

theorem Canon.turnTo {s t : State} (hc : Canon s t) {uid : ℕ} : Canon s (t.turnTo uid) := by
  unfold State.turnTo
  refine Canon.ite _ hc ?_
  split
  · exact hc.swapIn
  · exact hc

theorem ends_act (a : AgendaItem) (s : State) : Ends s (s.act a) := by
  unfold State.act
  split
  · exact Ends.next (Canon.ite _ (Canon.refl _).turnTo.hartStep (Canon.refl _).turnTo)
  · exact Ends.ite _ (ends_exec _ s) (Ends.next (Canon.refl _))
  · exact Ends.next (Canon.refl _).cacheLeaf
  · exact Ends.next (Canon.refl _).upd
  · exact Ends.next (Canon.refl _).cacheCode
  · exact Ends.next (Canon.refl _).evictCode
  · exact Ends.next (Canon.ite _ (Canon.refl _).upd (Canon.refl _))
  · exact Ends.next (Canon.refl _).fillLine
  · exact Ends.next (Canon.refl _).evictLine
  · exact Ends.next (Canon.refl _).dropLine
  · exact Ends.next (Canon.refl _).remoteWrite
  · exact Ends.next (Canon.refl _).firmwareWrite
  · exact Ends.next (Canon.refl _).remoteHome
  · exact Ends.next (Canon.refl _).bootTo
  · exact Ends.next (Canon.refl _).firmwareRead
  · exact Ends.next (Canon.refl _).dropProgress
  · exact Ends.next (Canon.ite _ (Canon.refl _).turnTo.stoppedStep (Canon.refl _).turnTo)
  · exact Ends.next (Canon.refl _).countCe
  · exact Ends.next ((Canon.refl _).asHart fun u => Canon.ite _ (Canon.refl u).dropBad (Canon.refl u))

theorem ends_stepOf (s : State) : Ends s s.stepOf := by
  unfold State.stepOf
  split
  · exact fun t ht => (Canon.refl s).upd.trans (ends_act _ _ t ht)
  · exact Ends.next (Canon.refl _).defaultStep

theorem ends_step (s : State) : Ends s (step s) := by
  unfold step
  refine Ends.ite _ (Ends.fault s _) (Ends.ite _ (ends_stepOf s) ?_)
  split
  next ht => exact Ends.next ((ends_stepOf s _ ht).upd)
  next => exact ends_stepOf s

/-- Settles O59: whatever a step does to memory, it does by writes that keep its addresses rising. -/
theorem memoryStaysCanonical : Obligations.MemoryStaysCanonical := by
  unfold Obligations.MemoryStaysCanonical
  exact fun s t hs ht => ends_step s t ht hs

end Sys2Proof.Claims
end

section
/-! PROOF. The writes of an open strip interval (R216, R241): where writes fall on bits that no other write of the interval falls on, it does
not matter in which order they are placed; each leaves its bits in memory and no other. -/

namespace Sys2Proof.Claims

open Sys2Proof Sys2Proof.Machine

theorem stripSaved_none {w : StripWrite} {a : Nat} (h : mfind w.bytes a = none) (t : List StripWrite) :
    stripSaved (w :: t) a = stripSaved t a := by
  simp only [stripSaved, h]

theorem stripSaved_some {w : StripWrite} {a : Nat} {p : Byte × Byte} (h : mfind w.bytes a = some p) (t : List StripWrite) :
    stripSaved (w :: t) a = some p.1 := by
  simp only [stripSaved, h]

theorem stripPatch_none {w : StripWrite} {a : Nat} (h : mfind w.bytes a = none) (t : List StripWrite) (v cur : Byte) :
    stripPatch (w :: t) a v cur = (w :: (stripPatch t a v cur).1, (stripPatch t a v cur).2) := by
  simp only [stripPatch, h]

/-- A write that found `p.1` now finds `v`, and what it leaves is what it left, with `v` in the bits that it does not write. -/
def repatched (t : List StripWrite) (a : Nat) (v cur : Byte) (p : Byte × Byte) : Byte :=
  (((stripSaved t a).getD cur) &&& p.2) ||| (v &&& ~~~p.2)

theorem stripPatch_some {w : StripWrite} {a : Nat} {p : Byte × Byte} (h : mfind w.bytes a = some p) (t : List StripWrite) (v cur : Byte) :
    stripPatch (w :: t) a v cur =
      ({ w with bytes := w.bytes.map (fun e => if e.1 = a then (a, v, p.2) else e) } :: (stripPatch t a (repatched t a v cur p) cur).1,
        (stripPatch t a (repatched t a v cur p) cur).2) := by
  simp only [stripPatch, h]
  rfl

theorem getLsbD_repatched (t : List StripWrite) (a : Nat) (v cur : Byte) (p : Byte × Byte) (b : Nat) :
    (repatched t a v cur p).getLsbD b = if p.2.getLsbD b then ((stripSaved t a).getD cur).getLsbD b else v.getLsbD b := by
  unfold repatched
  rw [BitVec.getLsbD_or, BitVec.getLsbD_and, BitVec.getLsbD_and, BitVec.getLsbD_not]
  by_cases hb : b < 8
  · cases p.2.getLsbD b <;> simp [hb]
  · rw [BitVec.getLsbD_of_ge p.2 b (by omega), BitVec.getLsbD_of_ge v b (by omega)]
    simp

/-- Along a list of writes, what a write found under a key is what the next one found there, or memory holds, but for the bits that it
wrote. -/
def Coherent : List StripWrite → Nat → Byte → Prop
  | [], _, _ => True
  | w :: t, a, cur =>
    (∀ p, mfind w.bytes a = some p → ∀ b, p.2.getLsbD b = false → ((stripSaved t a).getD cur).getLsbD b = p.1.getLsbD b)
      ∧ Coherent t a cur

/-- A list of writes with, at each place, the same bytes under key `a`. -/
def SameUnder (a : Nat) : List StripWrite → List StripWrite → Prop := List.Forall₂ (fun w w' => mfind w'.bytes a = mfind w.bytes a)

theorem SameUnder.saved {a : Nat} {l l' : List StripWrite} (h : SameUnder a l l') : stripSaved l' a = stripSaved l a := by
  induction h with
  | nil => rfl
  | @cons w w' _ _ hw _ ih =>
    cases hp : mfind w.bytes a with
    | none => rw [stripSaved_none hp, stripSaved_none (hw.trans hp), ih]
    | some p => rw [stripSaved_some hp, stripSaved_some (hw.trans hp)]

theorem SameUnder.coherent {a : Nat} {cur : Byte} {l l' : List StripWrite} (h : SameUnder a l l') (hc : Coherent l a cur) :
    Coherent l' a cur := by
  induction h with
  | nil => exact hc
  | cons hw ht ih =>
    obtain ⟨hhead, htail⟩ := hc
    refine ⟨?_, ih htail⟩
    rw [hw, SameUnder.saved ht]
    exact hhead

theorem stripSaved_append (l l' : List StripWrite) (a : Nat) : stripSaved (l ++ l') a = (stripSaved l a).or (stripSaved l' a) := by
  induction l with
  | nil => rfl
  | cons w l ih =>
    rw [List.cons_append]
    cases hw : mfind w.bytes a with
    | none => rw [stripSaved_none hw, stripSaved_none hw, ih]
    | some p => rw [stripSaved_some hw, stripSaved_some hw, Option.some_or]

/-- The writes behind a place may change, where what they leave to be found stays. -/
theorem Coherent.append {x l l' : List StripWrite} {a : Nat} {c c' : Byte} (h : Coherent (x ++ l) a c) (h' : Coherent l' a c')
    (he : (stripSaved l' a).getD c' = (stripSaved l a).getD c) : Coherent (x ++ l') a c' := by
  induction x with
  | nil => exact h'
  | cons w x ih =>
    obtain ⟨hhead, htail⟩ := h
    refine ⟨?_, ih htail⟩
    have hsaved : (stripSaved (x ++ l') a).getD c' = (stripSaved (x ++ l) a).getD c := by
      rw [stripSaved_append, stripSaved_append]
      cases stripSaved x a with
      | none => exact he
      | some v => rfl
    intro p hp b hb
    exact (congrArg (fun v => v.getLsbD b) hsaved).trans (hhead p hp b hb)

theorem Coherent.drop {x l : List StripWrite} {a : Nat} {c : Byte} (h : Coherent (x ++ l) a c) : Coherent l a c := by
  induction x with
  | nil => exact h
  | cons w x ih => exact ih h.2

theorem mfind_patched {bytes : List (Nat × Byte × Byte)} {a : Nat} {v : Byte} {p : Byte × Byte} (h : mfind bytes a = some p) (k : Nat) :
    mfind (bytes.map (fun e => if e.1 = a then (a, v, p.2) else e)) k = if k = a then some (v, p.2) else mfind bytes k := by
  have hmap : ∀ l : List (Nat × Byte × Byte), k ≠ a →
      mfind (l.map (fun e => if e.1 = a then (a, v, p.2) else e)) k = mfind l k := fun l hk => by
    induction l with
    | nil => rfl
    | cons e l ih =>
      obtain ⟨e1, e2⟩ := e
      rw [List.map_cons]
      by_cases he : e1 = a
      · rw [if_pos he, mfind, mfind, ih, if_neg (Ne.symm hk), if_neg (by rw [he]; exact Ne.symm hk)]
      · rw [if_neg he, mfind, mfind, ih]
  by_cases hk : k = a
  · subst hk
    rw [if_pos rfl]
    induction bytes with
    | nil => cases h
    | cons e l ih =>
      obtain ⟨e1, e2⟩ := e
      rw [List.map_cons]
      by_cases he : e1 = k
      · rw [if_pos he, mfind, if_pos rfl]
      · rw [mfind, if_neg he] at h
        rw [if_neg he, mfind, if_neg he]
        exact ih h
  · rw [if_neg hk]
    exact hmap bytes hk

/-- What a write that is placed before the writes `l` leaves of them, and of the byte: the value under the key changes in the bits of
mask `m`, which none of them writes. -/
theorem stripPatch_spec {l : List StripWrite} {a : Nat} {new cur m : Byte} (hc : Coherent l a cur)
    (hfree : ∀ w ∈ l, ∀ p, mfind w.bytes a = some p → ∀ b, m.getLsbD b = true → p.2.getLsbD b = false)
    (hnew : ∀ b, m.getLsbD b = false → new.getLsbD b = ((stripSaved l a).getD cur).getLsbD b) :
    (∀ b, (stripPatch l a new cur).2.getLsbD b = if m.getLsbD b then new.getLsbD b else cur.getLsbD b)
      ∧ Coherent (stripPatch l a new cur).1 a (stripPatch l a new cur).2
      ∧ (stripSaved (stripPatch l a new cur).1 a).getD (stripPatch l a new cur).2 = new := by
  induction l generalizing new with
  | nil =>
    refine ⟨fun b => ?_, trivial, rfl⟩
    cases hm : m.getLsbD b with
    | true => rfl
    | false => exact hnew b hm
  | cons w t ih =>
    obtain ⟨hhead, htail⟩ := hc
    have hfree' := fun x hx => hfree x (List.mem_cons_of_mem w hx)
    cases hw : mfind w.bytes a with
    | none =>
      rw [stripSaved_none hw] at hnew
      obtain ⟨h1, h2, h3⟩ := ih htail hfree' hnew
      rw [stripPatch_none hw]
      refine ⟨h1, ⟨fun p hp => ?_, h2⟩, ?_⟩
      · rw [hw] at hp
        cases hp
      · rw [stripSaved_none hw]
        exact h3
    | some p =>
      rw [stripSaved_some hw] at hnew
      have hp := hfree w List.mem_cons_self p hw
      have hnew' : ∀ b, m.getLsbD b = false → (repatched t a new cur p).getLsbD b = ((stripSaved t a).getD cur).getLsbD b := by
        intro b hb
        rw [getLsbD_repatched]
        cases hpb : p.2.getLsbD b with
        | true => rfl
        | false => exact (hnew b hb).trans (hhead p hw b hpb).symm
      obtain ⟨h1, h2, h3⟩ := ih htail hfree' hnew'
      have hfind := mfind_patched (v := new) hw a
      rw [if_pos rfl] at hfind
      rw [stripPatch_some hw]
      refine ⟨fun b => ?_, ⟨fun q hq b hb => ?_, h2⟩, ?_⟩
      · refine (h1 b).trans ?_
        cases hm : m.getLsbD b with
        | true =>
          rw [if_pos rfl, if_pos rfl, getLsbD_repatched, hp b hm]
          rfl
        | false => rfl
      · obtain rfl : (new, p.2) = q := Option.some.inj (hfind.symm.trans hq)
        refine (congrArg (fun v => v.getLsbD b) h3).trans ?_
        rw [getLsbD_repatched, if_neg (by rw [hb]; exact Bool.false_ne_true)]
      · rw [stripSaved_some hfind]
        rfl

/-- The writes keep their intervals, what they have under other keys, and their masks. -/
theorem stripPatch_keeps (l : List StripWrite) (a : Nat) (v cur : Byte) :
    List.Forall₂ (fun w w' : StripWrite => w'.interval = w.interval ∧ (∀ k, k ≠ a → mfind w'.bytes k = mfind w.bytes k)
      ∧ (mfind w'.bytes a).map (fun p => p.2) = (mfind w.bytes a).map (fun p => p.2)) l (stripPatch l a v cur).1 := by
  induction l generalizing v with
  | nil => exact .nil
  | cons w t ih =>
    cases hw : mfind w.bytes a with
    | none =>
      rw [stripPatch_none hw]
      exact .cons ⟨rfl, fun _ _ => rfl, rfl⟩ (ih v)
    | some p =>
      rw [stripPatch_some hw]
      refine .cons ⟨rfl, fun k hk => ?_, ?_⟩ (ih _)
      · rw [mfind_patched hw, if_neg hk]
      · rw [mfind_patched hw, if_pos rfl, hw]
        rfl

end Sys2Proof.Claims
end

section
/-! PROOF. A vector write of bytes that land together (R216, R241): each byte is placed before some of the writes of the open interval, and all
of the interval stays coherent with memory. -/

namespace Sys2Proof.Claims

open Sys2Proof Sys2Proof.Machine

/-- The new value of a byte of which mask `m` is written. -/
def merged (old v m : Byte) : Byte := (old &&& ~~~m) ||| (v &&& m)

theorem getLsbD_merged (old v m : Byte) (b : Nat) :
    (merged old v m).getLsbD b = if m.getLsbD b then v.getLsbD b else old.getLsbD b := by
  unfold merged
  rw [BitVec.getLsbD_or, BitVec.getLsbD_and, BitVec.getLsbD_and, BitVec.getLsbD_not]
  by_cases hb : b < 8
  · cases m.getLsbD b <;> simp [hb]
  · rw [BitVec.getLsbD_of_ge m b (by omega), BitVec.getLsbD_of_ge old b (by omega)]
    simp

/-- Byte `e`, key, value and mask, of a write of die `d`: memory, the writes placed behind it, what the write has found. -/
def placeByte (d : Nat) (st : State × List StripWrite × List (Nat × Byte × Byte)) (e : Nat × Byte × Byte) :
    State × List StripWrite × List (Nat × Byte × Byte) :=
  let cur := readCell st.1.mem e.1
  let old := (stripSaved st.2.1 e.1).getD cur
  let p := stripPatch st.2.1 e.1 (merged old e.2.1 e.2.2) cur
  (st.1.putBytes d e.1 [p.2], p.1, st.2.2 ++ [(e.1, old, e.2.2)])

/-- The same write, found with other bytes of it. -/
def SameMasks (w w' : StripWrite) : Prop :=
  w'.interval = w.interval ∧ ∀ a, (mfind w'.bytes a).map (fun p => p.2) = (mfind w.bytes a).map (fun p => p.2)

/-- Bytes `es` of a write have been placed before the writes `later`, from state `w` on. -/
structure Placing (w : State) (later : List StripWrite) (es : List (Nat × Byte × Byte))
    (st : State × List StripWrite × List (Nat × Byte × Byte)) : Prop where
  frame : ∃ m l2, st.1 = { w with mem := m, pkg := { w.pkg with l2 := l2 } }
  coherent : ∀ a, Coherent st.2.1 a (readCell st.1.mem a)
  keeps : List.Forall₂ SameMasks later st.2.1
  mine : ∀ a p, mfind st.2.2 a = some p → (∃ e ∈ es, e.1 = a ∧ p.2 = e.2.2) ∧ p.1 = (stripSaved later a).getD (readCell w.mem a)
    ∧ ∀ b, p.2.getLsbD b = false → ((stripSaved st.2.1 a).getD (readCell st.1.mem a)).getLsbD b = p.1.getLsbD b
  other : ∀ a, mfind st.2.2 a = none → stripSaved st.2.1 a = stripSaved later a ∧ readCell st.1.mem a = readCell w.mem a
  wrote : ∀ e ∈ es, ∀ b, e.2.2.getLsbD b = true → (readCell st.1.mem e.1).getLsbD b = e.2.1.getLsbD b
  kept : ∀ a b, (∀ e ∈ es, e.1 = a → e.2.2.getLsbD b = false) → (readCell st.1.mem a).getLsbD b = (readCell w.mem a).getLsbD b

theorem Placing.start (w : State) {later : List StripWrite} (hc : ∀ a, Coherent later a (readCell w.mem a)) :
    Placing w later [] (w, later, []) where
  frame := ⟨w.mem, w.pkg.l2, rfl⟩
  coherent := hc
  keeps := List.forall₂_same.mpr fun _ _ => ⟨rfl, fun _ => rfl⟩
  mine a p hp := by cases hp
  other a _ := ⟨rfl, rfl⟩
  wrote e he := by cases he
  kept a b _ := rfl

theorem mfind_concat {α : Type} (l : List (Nat × α)) (a k : Nat) (x : α) :
    mfind (l ++ [(a, x)]) k = (mfind l k).or (if a = k then some x else none) := by
  induction l with
  | nil =>
    rw [List.nil_append, mfind, mfind]
    rfl
  | cons e l ih =>
    obtain ⟨e1, e2⟩ := e
    rw [List.cons_append, mfind, mfind]
    split
    · rfl
    · exact ih

theorem readCell_putBytes_one (s : State) (d a k : Nat) (b : Byte) :
    readCell (s.putBytes d a [b]).mem k = if k = a then b else readCell s.mem k := readCell_writeCell _ _ _ _

theorem mem_of_keeps {later l : List StripWrite} (h : List.Forall₂ SameMasks later l) {w : StripWrite} (hw : w ∈ l) :
    ∃ w0 ∈ later, SameMasks w0 w := by
  induction h with
  | nil => cases hw
  | cons hxy _ ih =>
    rcases List.mem_cons.mp hw with rfl | hw
    · exact ⟨_, List.mem_cons_self, hxy⟩
    · obtain ⟨w0, h0, hsame⟩ := ih hw
      exact ⟨w0, List.mem_cons_of_mem _ h0, hsame⟩

theorem mask_of_keeps {later l : List StripWrite} (h : List.Forall₂ SameMasks later l) {w : StripWrite} (hw : w ∈ l) {a : Nat}
    {p : Byte × Byte} (hp : mfind w.bytes a = some p) : ∃ w0 ∈ later, ∃ p0, mfind w0.bytes a = some p0 ∧ p0.2 = p.2 := by
  obtain ⟨w0, h0, hsame⟩ := mem_of_keeps h hw
  have hm := hsame.2 a
  rw [hp] at hm
  obtain ⟨p0, hp0, he⟩ := Option.map_eq_some_iff.mp hm.symm
  exact ⟨w0, h0, p0, hp0, he⟩

theorem SameMasks.trans_list {l l' l'' : List StripWrite} (h : List.Forall₂ SameMasks l l') (h' : List.Forall₂ SameMasks l' l'') :
    List.Forall₂ SameMasks l l'' := by
  induction h generalizing l'' with
  | nil =>
    cases h'
    exact .nil
  | cons hx _ ih =>
    cases h' with
    | cons hy ht => exact .cons ⟨hy.1.trans hx.1, fun a => (hy.2 a).trans (hx.2 a)⟩ (ih ht)

/-- One byte more, under a key of which the write has placed no byte, on bits that no write of the interval writes. -/
theorem Placing.step {w : State} {later : List StripWrite} {es : List (Nat × Byte × Byte)}
    {st : State × List StripWrite × List (Nat × Byte × Byte)} (h : Placing w later es st) (d : Nat) (e : Nat × Byte × Byte)
    (hfresh : ∀ x ∈ es, x.1 ≠ e.1)
    (hfree : ∀ x ∈ later, ∀ p, mfind x.bytes e.1 = some p → ∀ b, e.2.2.getLsbD b = true → p.2.getLsbD b = false) :
    Placing w later (es ++ [e]) (placeByte d st e) := by
  obtain ⟨a, v, m⟩ := e
  dsimp only at hfresh hfree
  have hnone : mfind st.2.2 a = none := by
    cases hf : mfind st.2.2 a with
    | none => rfl
    | some p =>
      obtain ⟨⟨e, he, hea, -⟩, -⟩ := h.mine a p hf
      exact absurd hea (hfresh e he)
  obtain ⟨hsaved, hmem⟩ := h.other a hnone
  have hspec := stripPatch_spec (new := merged ((stripSaved st.2.1 a).getD (readCell st.1.mem a)) v m) (m := m) (h.coherent a)
    (fun x hx p hp b hb => by
      obtain ⟨x0, hx0, p0, hp0, he⟩ := mask_of_keeps h.keeps hx hp
      rw [← he]
      exact hfree x0 hx0 p0 hp0 b hb)
    (fun b hb => by rw [getLsbD_merged, hb]; rfl)
  have hkeeps := stripPatch_keeps st.2.1 a (merged ((stripSaved st.2.1 a).getD (readCell st.1.mem a)) v m) (readCell st.1.mem a)
  unfold placeByte
  dsimp only
  generalize hold : (stripSaved st.2.1 a).getD (readCell st.1.mem a) = old at hspec hkeeps ⊢
  generalize hpatch : stripPatch st.2.1 a (merged old v m) (readCell st.1.mem a) = p at hspec hkeeps ⊢
  obtain ⟨hbits, hcoh, hfound⟩ := hspec
  have hunder : ∀ k, k ≠ a → SameUnder k st.2.1 p.1 := fun k hk => hkeeps.imp fun x y hxy => hxy.2.1 k hk
  have hread : ∀ k, readCell (st.1.putBytes d a [p.2]).mem k = if k = a then p.2 else readCell st.1.mem k :=
    fun k => readCell_putBytes_one _ _ _ _ _
  refine ⟨?_, fun k => ?_, ?_, fun k q hq => ?_, fun k hq => ?_, fun x hx b hb => ?_, fun k b hb => ?_⟩
  · obtain ⟨m', l2, hst⟩ := h.frame
    rw [hst]
    exact ⟨_, _, rfl⟩
  · rw [hread]
    by_cases hk : k = a
    · rw [if_pos hk, hk]
      exact hcoh
    · rw [if_neg hk]
      exact (hunder k hk).coherent (h.coherent k)
  · refine SameMasks.trans_list h.keeps (hkeeps.imp fun x y hxy => ⟨hxy.1, fun k => ?_⟩)
    by_cases hk : k = a
    · rw [hk]
      exact hxy.2.2
    · rw [hxy.2.1 k hk]
  · dsimp only at hq
    rw [mfind_concat] at hq
    rw [hread]
    by_cases hk : k = a
    · subst hk
      rw [hnone, if_pos rfl, Option.none_or] at hq
      obtain rfl : (old, m) = q := Option.some.inj hq
      refine ⟨⟨_, List.mem_append_right _ List.mem_cons_self, rfl, rfl⟩, ?_, fun b hb => ?_⟩
      · rw [← hold, hsaved, hmem]
      · rw [if_pos rfl, hfound, getLsbD_merged, if_neg (by rw [hb]; exact Bool.false_ne_true)]
    · rw [if_neg (Ne.symm hk), Option.or_none] at hq
      obtain ⟨⟨x, hx, hxk, hxm⟩, hwas, hagree⟩ := h.mine k q hq
      refine ⟨⟨x, List.mem_append_left _ hx, hxk, hxm⟩, hwas, ?_⟩
      rw [if_neg hk, (hunder k hk).saved]
      exact hagree
  · dsimp only at hq
    rw [mfind_concat] at hq
    obtain ⟨hq1, hq2⟩ := Option.or_eq_none_iff.mp hq
    have hk : k ≠ a := fun hk => by rw [if_pos hk.symm] at hq2; cases hq2
    obtain ⟨hs, hm⟩ := h.other k hq1
    rw [hread, if_neg hk, (hunder k hk).saved]
    exact ⟨hs, hm⟩
  · rw [hread]
    rcases List.mem_append.mp hx with hx | hx
    · rw [if_neg (hfresh x hx)]
      exact h.wrote x hx b hb
    · obtain rfl := List.mem_singleton.mp hx
      rw [if_pos rfl, hbits b, if_pos hb, getLsbD_merged, if_pos hb]
  · have hes : ∀ x ∈ es, x.1 = k → x.2.2.getLsbD b = false := fun x hx => hb x (List.mem_append_left _ hx)
    rw [hread]
    by_cases hk : k = a
    · have hm := hb _ (List.mem_append_right _ List.mem_cons_self) hk.symm
      dsimp only at hm
      rw [if_pos hk, hbits b, if_neg (by rw [hm]; exact Bool.false_ne_true), ← hk]
      exact h.kept k b hes
    · rw [if_neg hk]
      exact h.kept k b hes

/-- The bytes of a write, under keys of their own, on bits that no write of the interval writes. -/
theorem Placing.fold {w : State} {later : List StripWrite} (d : Nat) (es : List (Nat × Byte × Byte))
    (hc : ∀ a, Coherent later a (readCell w.mem a)) (hkeys : (es.map (fun e => e.1)).Nodup)
    (hfree : ∀ e ∈ es, ∀ x ∈ later, ∀ p, mfind x.bytes e.1 = some p → ∀ b, e.2.2.getLsbD b = true → p.2.getLsbD b = false) :
    Placing w later es (es.foldl (placeByte d) (w, later, [])) := by
  induction es using List.reverseRecOn with
  | nil => exact Placing.start w hc
  | append_singleton es e ih =>
    rw [List.map_append, List.nodup_append] at hkeys
    obtain ⟨hnodup, -, hnew⟩ := hkeys
    rw [List.foldl_append]
    refine Placing.step (ih hnodup fun x hx => hfree x (List.mem_append_left _ hx)) d e (fun x hx => ?_)
      (hfree e (List.mem_append_right _ List.mem_cons_self))
    exact hnew _ (List.mem_map_of_mem hx) _ List.mem_cons_self

end Sys2Proof.Claims
end

section
/-! PROOF. A vector store under way (R216, R235, R241): memory holds its bits where it has written, and what it held everywhere else. -/

namespace Sys2Proof.Claims

open Sys2Proof Sys2Proof.Machine

/-- A vector store that began in state `s` has written the bits of memory that `C` says, each with the value of `V`, in the order of its
choice. -/
structure Storing (s : State) (V : Nat → Nat → Bool) (C : Nat → Nat → Prop) (u : State) : Prop where
  shape : ∃ m f b dg os l2 n, u = { s with
    mem := m, cpu := { s.cpu with front := f, back := b, digest := dg }, others := os, pkg := { s.pkg with l2 := l2 }, tick := n }
  front : u.cpu.front = { s.cpu.front with vstart := u.cpu.front.vstart }
  back : u.cpu.back = { s.cpu.back with queues := u.cpu.back.queues, strip := u.cpu.back.strip }
  others : SameOthers s u
  coherent : ∀ a, Coherent u.openStrip a (readCell u.mem a)
  masks : ∀ w ∈ u.openStrip, ∀ a p b, mfind w.bytes a = some p → p.2.getLsbD b = true → C a b
  wrote : ∀ a b, C a b → (readCell u.mem a).getLsbD b = V a b
  kept : ∀ a b, ¬C a b → (readCell u.mem a).getLsbD b = (readCell s.mem a).getLsbD b

theorem Storing.start {s : State} (V : Nat → Nat → Bool) (h : s.openStrip = []) : Storing s V (fun _ _ => False) s where
  shape := ⟨s.mem, s.cpu.front, s.cpu.back, s.cpu.digest, s.others, s.pkg.l2, s.tick, rfl⟩
  front := rfl
  back := rfl
  others := SameOthers.of_eq rfl
  coherent a := by rw [h]; trivial
  masks w hw := by rw [h] at hw; cases hw
  wrote _ _ hf := hf.elim
  kept _ _ _ := rfl

theorem Storing.congr {s u : State} {V : Nat → Nat → Bool} {C C' : Nat → Nat → Prop} (h : Storing s V C u) (hc : ∀ a b, C a b ↔ C' a b) :
    Storing s V C' u := by
  obtain rfl : C = C' := funext fun a => funext fun b => propext (hc a b)
  exact h

/-- What a step of a store that touches no memory and no strip keeps. -/
theorem Storing.moved {s u t : State} {V : Nat → Nat → Bool} {C : Nat → Nat → Prop} (h : Storing s V C u)
    (hs : ∃ f b dg n, t = { u with cpu := { u.cpu with front := f, back := b, digest := dg }, tick := n })
    (hf : t.cpu.front = { u.cpu.front with vstart := t.cpu.front.vstart })
    (hb : t.cpu.back = { u.cpu.back with queues := t.cpu.back.queues }) : Storing s V C t := by
  have hstrip : t.openStrip = u.openStrip := by
    unfold State.openStrip
    rw [hb, hf]
  obtain ⟨f, b, dg, n, ht⟩ := hs
  have hmem : t.mem = u.mem := by rw [ht]
  refine ⟨?_, ?_, ?_, ?_, ?_, ?_, ?_, ?_⟩
  · obtain ⟨m, f', b', dg', os, l2, n', hu⟩ := h.shape
    rw [ht, hu]
    exact ⟨m, f, b, dg, os, l2, n, rfl⟩
  · rw [hf, h.front]
  · rw [hb, h.back]
  · obtain ⟨g, hg⟩ := h.others
    exact ⟨g, by rw [ht]; exact hg⟩
  · rw [hstrip, hmem]
    exact h.coherent
  · rw [hstrip]
    exact h.masks
  · rw [hmem]
    exact h.wrote
  · rw [hmem]
    exact h.kept

/-- The bytes that a write leaves at physical addresses, by their keys; one that its home package drops is none of them (R208). -/
def landing (s : State) (l : List (Nat × Byte × Byte)) : List (Nat × Byte × Byte) :=
  (l.filter (fun e => !s.drops e.1)).map (fun e => (s.key e.1, e.2))

/-- The bits that `es` writes. -/
def Hit (es : List (Nat × Byte × Byte)) (a b : Nat) : Prop := ∃ e ∈ es, e.1 = a ∧ e.2.2.getLsbD b = true

/-- The state that a strip write leaves from the places of its bytes: `older` stays ahead of it. -/
def stripped (u : State) (whole : Bool) (access : Nat) (older : List StripWrite)
    (r : State × List StripWrite × List (Nat × Byte × Byte)) : State :=
  r.1.setBack { r.1.cpu.back with
    strip := older ++ ⟨u.cpu.front.interval, .vector, u.cpu.front.instret.toNat, access, whole, r.2.2, [], []⟩ :: r.2.1 }

theorem stripWrite_eq (u : State) (ordered whole : Bool) (access : Nat) (l : List (Nat × Byte × Byte)) :
    landing u l = [] ∧ u.stripWrite ordered whole access l = u
    ∨ ∃ n, u.stripWrite ordered whole access l
      = stripped u whole access (u.openStrip.take n)
          ((landing u l).foldl (placeByte u.cpu.id.die) ((u.meetStrips true ((landing u l).map (fun e => e.1))).tock, u.openStrip.drop n, [])) := by
  have hkeys : (landing u l).map (fun e => e.1) = (l.filter (fun e => !u.drops e.1)).map (fun e => u.key e.1) := by
    unfold landing
    rw [List.map_map]
    rfl
  rw [hkeys]
  unfold State.stripWrite landing
  generalize l.filter (fun e => !u.drops e.1) = l'
  dsimp only
  cases l' with
  | nil => exact .inl ⟨rfl, rfl⟩
  | cons e l' =>
    obtain ⟨n, hn⟩ : ∃ n, _ = stripped u whole access (u.openStrip.take n) ((e :: l').foldl
        (fun st x => placeByte u.cpu.id.die st (u.key x.1, x.2))
        ((u.meetStrips true ((e :: l').map (fun x => u.key x.1))).tock, u.openStrip.drop n, [])) := ⟨_, if_neg Bool.false_ne_true⟩
    exact .inr ⟨n, hn.trans (by rw [List.foldl_map])⟩

theorem openStrip_stripped {u : State} {whole : Bool} {access : Nat} {older later : List StripWrite} {es : List (Nat × Byte × Byte)} {w : State}
    {r : State × List StripWrite × List (Nat × Byte × Byte)} (hr : Placing w later es r) (hw : w.cpu = u.cpu)
    (holder : ∀ x ∈ older, x ∈ u.openStrip) (hlater : ∀ x ∈ later, x ∈ u.openStrip) :
    (stripped u whole access older r).openStrip
      = older ++ ⟨u.cpu.front.interval, .vector, u.cpu.front.instret.toNat, access, whole, r.2.2, [], []⟩ :: r.2.1 := by
  have hcpu : r.1.cpu = u.cpu := by
    obtain ⟨m, l2, h⟩ := hr.frame
    rw [h]
    exact hw
  have hopen : ∀ x ∈ u.openStrip, x.interval = u.cpu.front.interval := fun x hx => by simpa using (List.mem_filter.mp hx).2
  unfold State.openStrip stripped State.setBack
  dsimp only
  rw [List.filter_eq_self, hcpu]
  intro x hx
  rw [decide_eq_true_eq]
  rcases List.mem_append.mp hx with hx | hx
  · exact hopen x (holder x hx)
  · rcases List.mem_cons.mp hx with rfl | hx
    · rfl
    · obtain ⟨x0, hx0, hsame⟩ := mem_of_keeps hr.keeps hx
      exact hsame.1.trans (hopen x0 (hlater x0 hx0))

theorem withStrip_eq {b c : Back} (h : b = { c with queues := b.queues, strip := b.strip }) (l : List StripWrite) :
    ({ b with strip := l } : Back) = { c with queues := b.queues, strip := l } := congrArg (fun x : Back => { x with strip := l }) h

/-- A strip write of bytes under keys of their own, on bits that the store has not written yet. -/
theorem Storing.stripWrite {s u : State} {V : Nat → Nat → Bool} {C : Nat → Nat → Prop} (h : Storing s V C u) (ordered whole : Bool)
    (access : Nat) (l : List (Nat × Byte × Byte)) (hkeys : ((landing u l).map (fun e => e.1)).Nodup)
    (hnew : ∀ e ∈ landing u l, ∀ b, e.2.2.getLsbD b = true → ¬C e.1 b ∧ e.2.1.getLsbD b = V e.1 b) :
    Storing s V (fun a b => C a b ∨ Hit (landing u l) a b) (u.stripWrite ordered whole access l)
      ∧ (u.stripWrite ordered whole access l).cpu.front = u.cpu.front
      ∧ (u.stripWrite ordered whole access l).cpu.back.queues = u.cpu.back.queues := by
  rcases stripWrite_eq u ordered whole access l with ⟨hnil, heq⟩ | ⟨n, heq⟩
  · rw [heq, hnil]
    exact ⟨h.congr fun a b => by simp [Hit], rfl, rfl⟩
  · generalize landing u l = es at hkeys hnew heq ⊢
    have hr := Placing.fold (w := (u.meetStrips true (es.map (fun e => e.1))).tock) (later := u.openStrip.drop n) u.cpu.id.die es
      (fun a => Coherent.drop (x := u.openStrip.take n) (by rw [List.take_append_drop]; exact h.coherent a)) hkeys
      (fun e he x hx p hp b hb => by
        cases hpb : p.2.getLsbD b with
        | false => rfl
        | true => exact absurd (h.masks x (List.mem_of_mem_drop hx) _ p b hp hpb) (hnew e he b hb).1)
    rw [heq]
    generalize es.foldl (placeByte u.cpu.id.die) _ = r at hr ⊢
    have hopen := openStrip_stripped (u := u) (whole := whole) (access := access) (older := u.openStrip.take n) hr rfl
      (fun x hx => List.mem_of_mem_take hx) (fun x hx => List.mem_of_mem_drop hx)
    obtain ⟨m, l2, hframe⟩ := hr.frame
    have hmem : (stripped u whole access (u.openStrip.take n) r).mem = r.1.mem := rfl
    have hkept : ∀ a b, C a b → ∀ e ∈ es, e.1 = a → e.2.2.getLsbD b = false := fun a b hab e he hea => by
      cases hb : e.2.2.getLsbD b with
      | false => rfl
      | true => exact absurd (hea ▸ hab) (hnew e he b hb).1
    refine ⟨⟨?_, ?_, ?_, ?_, fun a => ?_, fun x hx a p b hp hb => ?_, fun a b hab => ?_, fun a b hab => ?_⟩, ?_, ?_⟩
    · obtain ⟨m0, f, k, dg, os, l0, n0, hu⟩ := h.shape
      unfold stripped
      rw [hframe, hu]
      exact ⟨_, _, _, _, _, _, _, rfl⟩
    · unfold stripped
      rw [hframe]
      exact h.front
    · unfold stripped
      rw [hframe]
      exact withStrip_eq h.back _
    · refine SameOthers.congr (h.others.trans (sameOthers_meetStrips u true (es.map (fun e => e.1)))) ?_
      unfold stripped
      rw [hframe]
      rfl
    · rw [hopen, hmem]
      have hc := h.coherent a
      rw [← List.take_append_drop n u.openStrip] at hc
      refine hc.append ⟨fun p hp b hb => (hr.mine a p hp).2.2 b hb, hr.coherent a⟩ ?_
      cases hf : mfind r.2.2 a with
      | none =>
        obtain ⟨hs, hm⟩ := hr.other a hf
        rw [stripSaved_none hf, hs, hm]
        rfl
      | some p =>
        rw [stripSaved_some hf]
        exact (hr.mine a p hf).2.1
    · rw [hopen] at hx
      rcases List.mem_append.mp hx with hx | hx
      · exact .inl (h.masks x (List.mem_of_mem_take hx) a p b hp hb)
      · rcases List.mem_cons.mp hx with rfl | hx
        · obtain ⟨e, he, hea, hm⟩ := (hr.mine a p hp).1
          exact .inr ⟨e, he, hea, by rw [← hm]; exact hb⟩
        · obtain ⟨x0, hx0, p0, hp0, hm⟩ := mask_of_keeps hr.keeps hx hp
          exact .inl (h.masks x0 (List.mem_of_mem_drop hx0) a p0 b hp0 (by rw [hm]; exact hb))
    · rw [hmem]
      rcases hab with hab | ⟨e, he, rfl, hb⟩
      · exact (hr.kept a b (hkept a b hab)).trans (h.wrote a b hab)
      · exact (hr.wrote e he b hb).trans (hnew e he b hb).2
    · rw [hmem]
      refine (hr.kept a b fun e he hea => ?_).trans (h.kept a b fun hc => hab (.inl hc))
      cases hb : e.2.2.getLsbD b with
      | false => rfl
      | true => exact absurd (.inr ⟨e, he, hea, hb⟩) hab
    · unfold stripped
      rw [hframe]
      rfl
    · unfold stripped
      rw [hframe]
      rfl

end Sys2Proof.Claims
end

section
/-! PROOF. One vector element, or a packed run of them, is written (R235 to R239): what is reached, which bits fall where. -/

namespace Sys2Proof.Claims

open Sys2Proof Sys2Proof.Machine

/-- Where the byte at a virtual address stands. -/
def phys (s : State) (va : Nat) : Nat := (s.physOf [va]).headD 0

/-- The byte at `va` stands under memory key `a`, and its home package does not drop it. -/
def Lands (s : State) (va a : Nat) : Prop := s.drops (phys s va) = false ∧ s.key (phys s va) = a

/-- The bytes at `vas` can be stored. -/
def Reached (s : State) (vas : List Nat) : Prop :=
  ∀ va ∈ vas, s.byteAccess s.cpu.ctx .store false va = .ok (phys s va) ∧ s.isReg (phys s va) = false

theorem physOf_of_ok {s : State} {vas pas : List Nat} (h : s.accessBytes s.cpu.ctx .store false vas = .ok pas) : s.physOf vas = pas := by
  unfold State.physOf
  rw [h]

theorem phys_of_ok {s : State} {va pa : Nat} (h : s.byteAccess s.cpu.ctx .store false va = .ok pa) : phys s va = pa := by
  unfold phys
  rw [physOf_of_ok ((s.accessBytes_ok _ _ _ _ [pa]).mpr (.cons h .nil))]
  rfl

theorem accessBytes_of_reached {s : State} {vas : List Nat} (h : Reached s vas) :
    s.accessBytes s.cpu.ctx .store false vas = .ok (vas.map (phys s)) :=
  (s.accessBytes_ok _ _ _ _ _).mpr (List.forall₂_map_right_iff.mpr (List.forall₂_same.mpr fun va hva => (h va hva).1))

theorem reached_of_ok {s : State} {vas pas : List Nat} (h : s.accessBytes s.cpu.ctx .store false vas = .ok pas)
    (hreg : ∀ pa ∈ pas, s.isReg pa = false) : Reached s vas := by
  have hall := (s.accessBytes_ok _ _ _ _ _).mp h
  clear h
  induction hall with
  | nil => exact fun va hva => by cases hva
  | @cons va pa vas pas hva _ ih =>
    intro x hx
    rcases List.mem_cons.mp hx with rfl | hx
    · rw [phys_of_ok hva]
      exact ⟨hva, hreg pa List.mem_cons_self⟩
    · exact ih (fun q hq => hreg q (List.mem_cons_of_mem _ hq)) x hx

/-- The bits that a piece covers, where its bytes can be stored. -/
theorem covers_iff {s : State} {p : Piece} (h : Reached s p.vas) (a b j : Nat) :
    p.covers s a b j ↔ j < p.n ∧ (p.lo + j) % 8 = b ∧ ∃ va, p.vas[(p.lo + j) / 8]? = some va ∧ Lands s va a := by
  unfold Piece.covers Lands
  rw [accessBytes_of_reached h]
  constructor
  · rintro ⟨hj, hb, pas, pa, hok, hget, hd, hk⟩
    obtain rfl : p.vas.map (phys s) = pas := Except.ok.inj hok
    rw [List.getElem?_map] at hget
    obtain ⟨va, hva, rfl⟩ := Option.map_eq_some_iff.mp hget
    exact ⟨hj, hb, va, hva, hd, hk⟩
  · rintro ⟨hj, hb, va, hva, hd, hk⟩
    exact ⟨hj, hb, _, phys s va, rfl, by rw [List.getElem?_map, hva]; rfl, hd, hk⟩

/-! Masks and values of bytes. -/

/-- The bits of byte `k` that a write of `n` bits from bit `lo` on touches. -/
def maskAt (lo n k : Nat) : Byte := BitVec.ofNat 8 (2 ^ min 8 (lo + n - 8 * k) - 2 ^ (lo - 8 * k))

/-- Byte `k` of what a write of the `n` bits of `pat` from bit `lo` on leaves. -/
def byteAt (lo n pat k : Nat) : Byte := BitVec.ofNat 8 (pat % 2 ^ n * 2 ^ lo / 2 ^ (8 * k))

theorem testBit_sub_two_pow {x y : Nat} (h : y ≤ x) (i : Nat) : (2 ^ x - 2 ^ y).testBit i = decide (y ≤ i ∧ i < x) := by
  have he : 2 ^ x - 2 ^ y = 2 ^ y * (2 ^ (x - y) - 1) := by
    rw [Nat.mul_sub, ← Nat.pow_add, Nat.mul_one, Nat.add_sub_cancel' h]
  rw [he, Nat.testBit_two_pow_mul, Nat.testBit_two_pow_sub_one]
  by_cases hy : y ≤ i
  · simp [hy]
    omega
  · simp [hy]

theorem getLsbD_maskAt {lo : Nat} (hlo : lo < 8) (n k b : Nat) :
    (maskAt lo n k).getLsbD b = decide (b < 8 ∧ lo ≤ 8 * k + b ∧ 8 * k + b < lo + n) := by
  unfold maskAt
  rw [BitVec.getLsbD_ofNat, testBit_sub_two_pow (by omega)]
  rw [Bool.eq_iff_iff]
  simp only [Bool.and_eq_true, decide_eq_true_eq]
  omega

theorem getLsbD_byteAt {lo n pat k b : Nat} (hb : b < 8) (hlo : lo ≤ 8 * k + b) (hn : 8 * k + b < lo + n) :
    (byteAt lo n pat k).getLsbD b = pat.testBit (8 * k + b - lo) := by
  unfold byteAt
  rw [BitVec.getLsbD_ofNat, Nat.testBit_div_two_pow, Nat.mul_comm, Nat.testBit_two_pow_mul, Nat.testBit_mod_two_pow]
  have h1 : b + 8 * k = 8 * k + b := by omega
  have h2 : 8 * k + b - lo < n := by omega
  simp [hb, hlo, h1, h2]

/-! The bytes of an element. -/

/-- Bit `b` of key `a` is one that a write of `n` bits from bit `lo` of the bytes `vas` on touches in its byte number `k`. -/
def Touches (s : State) (lo n : Nat) (vas : List Nat) (k a b : Nat) : Prop :=
  b < 8 ∧ lo ≤ 8 * k + b ∧ 8 * k + b < lo + n ∧ ∃ va, vas[k]? = some va ∧ Lands s va a

theorem covers_iff_touches {s : State} {p : Piece} (h : Reached s p.vas) (a b : Nat) :
    (∃ j, p.covers s a b j) ↔ ∃ k, Touches s p.lo p.n p.vas k a b := by
  constructor
  · rintro ⟨j, hj⟩
    obtain ⟨hn, hb, va, hva, hl⟩ := (covers_iff h a b j).mp hj
    exact ⟨(p.lo + j) / 8, by omega, by omega, by omega, va, hva, hl⟩
  · rintro ⟨k, hb, hlo, hn, va, hva, hl⟩
    refine ⟨8 * k + b - p.lo, (covers_iff h _ _ _).mpr ⟨by omega, by omega, va, ?_, hl⟩⟩
    rw [show (p.lo + (8 * k + b - p.lo)) / 8 = k by omega]
    exact hva

theorem covers_of_touches {s : State} {p : Piece} (h : Reached s p.vas) {k a b : Nat} (ht : Touches s p.lo p.n p.vas k a b) :
    p.covers s a b (8 * k + b - p.lo) := by
  obtain ⟨hb, hlo, hn, va, hva, hl⟩ := ht
  refine (covers_iff h _ _ _).mpr ⟨by omega, by omega, va, ?_, hl⟩
  rw [show (p.lo + (8 * k + b - p.lo)) / 8 = k by omega]
  exact hva

/-- Bits of piece `p` that nothing has written, each once, and their values. -/
structure Fresh (s : State) (V : Nat → Nat → Bool) (C : Nat → Nat → Prop) (p : Piece) : Prop where
  low : p.lo < 8
  unwritten : ∀ a b j, p.covers s a b j → ¬C a b ∧ V a b = p.pat.testBit j
  once : ∀ a b j j', p.covers s a b j → p.covers s a b j' → j = j'

theorem landing_keeps {s u : State} (hd : u.drops = s.drops) (hk : u.key = s.key) (l : List (Nat × Byte × Byte)) : landing u l = landing s l := by
  unfold landing
  rw [hd, hk]

theorem getLsbD_byteAt_of_mask {lo n pat k b : Nat} (hlo : lo < 8) (h : (maskAt lo n k).getLsbD b = true) :
    (byteAt lo n pat k).getLsbD b = pat.testBit (8 * k + b - lo) := by
  rw [getLsbD_maskAt hlo, decide_eq_true_eq] at h
  obtain ⟨hb, h1, h2⟩ := h
  exact getLsbD_byteAt hb h1 h2

/-- A byte of a piece lands where it stands. -/
theorem mem_landing_single {s : State} {va : Nat} {v m : Byte} {e : Nat × Byte × Byte} :
    e ∈ landing s [(phys s va, v, m)] ↔ Lands s va e.1 ∧ e.2 = (v, m) := by
  unfold landing Lands
  cases hd : s.drops (phys s va) with
  | true => simp [hd]
  | false =>
    obtain ⟨e1, e2⟩ := e
    simp [hd, Prod.ext_iff, eq_comm]

theorem nodup_landing_single (s : State) (x : Nat × Byte × Byte) : ((landing s [x]).map (fun e => e.1)).Nodup := by
  unfold landing
  cases hd : s.drops x.1 with
  | true => simp [hd]
  | false => simp [hd]

end Sys2Proof.Claims
end
section
/-! PROOF. The bits that a store writes, numbered by piece and place in it, and the vector writes that draw on them (R235 to R239). -/

namespace Sys2Proof.Claims

open Sys2Proof Sys2Proof.Machine

theorem Storing.drops {s u : State} {V : Nat → Nat → Bool} {C : Nat → Nat → Prop} (h : Storing s V C u) : u.drops = s.drops := by
  obtain ⟨m, f, b, dg, os, l2, n, rfl⟩ := h.shape
  rfl

theorem Storing.key {s u : State} {V : Nat → Nat → Bool} {C : Nat → Nat → Prop} (h : Storing s V C u) : u.key = s.key := by
  obtain ⟨m, f, b, dg, os, l2, n, rfl⟩ := h.shape
  rfl

theorem Storing.isReg {s u : State} {V : Nat → Nat → Bool} {C : Nat → Nat → Prop} (h : Storing s V C u) : u.isReg = s.isReg := by
  obtain ⟨m, f, b, dg, os, l2, n, rfl⟩ := h.shape
  rfl

theorem Storing.secondCopy {s u : State} {V : Nat → Nat → Bool} {C : Nat → Nat → Prop} (h : Storing s V C u) :
    u.secondCopy = s.secondCopy := by
  obtain ⟨m, f, b, dg, os, l2, n, rfl⟩ := h.shape
  rfl

/-- A store has changed no register and no queue between these two states. -/
def Kept (u t : State) : Prop := t.cpu.front = u.cpu.front ∧ t.cpu.back.queues = u.cpu.back.queues

/-- The bytes of a write, one after another, each a strip write of its own. -/
theorem Storing.bytes {s u : State} {V : Nat → Nat → Bool} {C : Nat → Nat → Prop} (h : Storing s V C u) (ordered whole : Bool)
    (acc : State → Nat) {lo n pat : Nat} (hlo : lo < 8) (vas : List Nat)
    (hnew : ∀ k a b, Touches s lo n vas k a b → ¬C a b ∧ V a b = pat.testBit (8 * k + b - lo))
    (honce : ∀ k k' a b, Touches s lo n vas k a b → Touches s lo n vas k' a b → k = k') :
    let t := ((vas.map (phys s)).zipIdx).foldl
      (fun u e => u.stripWrite ordered whole (acc u) [(e.1, byteAt lo n pat e.2, maskAt lo n e.2)]) u
    Storing s V (fun a b => C a b ∨ ∃ k, Touches s lo n vas k a b) t ∧ Kept u t := by
  induction vas using List.reverseRecOn with
  | nil => exact ⟨h.congr fun a b => by simp [Touches], rfl, rfl⟩
  | append_singleton vas va ih =>
    have hgrow : ∀ {k a b}, Touches s lo n vas k a b → Touches s lo n (vas ++ [va]) k a b := fun {k a b} ht => by
      obtain ⟨hb, h1, h2, x, hx, hl⟩ := ht
      exact ⟨hb, h1, h2, x, by rw [List.getElem?_append_left (List.getElem?_eq_some_iff.mp hx).1]; exact hx, hl⟩
    have hlast : ∀ {a b}, Touches s lo n (vas ++ [va]) vas.length a b
        ↔ b < 8 ∧ lo ≤ 8 * vas.length + b ∧ 8 * vas.length + b < lo + n ∧ Lands s va a := fun {a b} => by
      unfold Touches
      rw [List.getElem?_concat_length]
      simp
    have hsplit : ∀ a b, (∃ k, Touches s lo n (vas ++ [va]) k a b)
        ↔ (∃ k, Touches s lo n vas k a b) ∨ Touches s lo n (vas ++ [va]) vas.length a b := fun a b => by
      constructor
      · rintro ⟨k, ht⟩
        by_cases hk : k = vas.length
        · exact .inr (hk ▸ ht)
        · obtain ⟨hb, h1, h2, x, hx, hl⟩ := ht
          have hlt : k < vas.length := by
            have := (List.getElem?_eq_some_iff.mp hx).1
            rw [List.length_append, List.length_singleton] at this
            omega
          rw [List.getElem?_append_left hlt] at hx
          exact .inl ⟨k, hb, h1, h2, x, hx, hl⟩
      · rintro (⟨k, ht⟩ | ht)
        · exact ⟨k, hgrow ht⟩
        · exact ⟨_, ht⟩
    obtain ⟨hs, hfront, hqueues⟩ := ih (fun k a b ht => hnew k a b (hgrow ht)) (fun k k' a b h1 h2 => honce k k' a b (hgrow h1) (hgrow h2))
    rw [List.map_append, List.zipIdx_append, List.foldl_append, List.length_map]
    simp only [List.map_cons, List.map_nil, List.zipIdx_cons, List.zipIdx_nil, List.foldl_cons, List.foldl_nil, Nat.zero_add]
    generalize ((vas.map (phys s)).zipIdx).foldl _ u = t at hs hfront hqueues ⊢
    have hland := landing_keeps hs.drops hs.key [(phys s va, byteAt lo n pat vas.length, maskAt lo n vas.length)]
    have hbit : ∀ e ∈ landing s [(phys s va, byteAt lo n pat vas.length, maskAt lo n vas.length)], ∀ b, e.2.2.getLsbD b = true →
        Touches s lo n (vas ++ [va]) vas.length e.1 b ∧ e.2.1.getLsbD b = pat.testBit (8 * vas.length + b - lo) := fun e he b hb => by
      obtain ⟨hl, hvm⟩ := mem_landing_single.mp he
      rw [hvm] at hb ⊢
      dsimp only at hb ⊢
      refine ⟨?_, getLsbD_byteAt_of_mask hlo hb⟩
      rw [getLsbD_maskAt hlo, decide_eq_true_eq] at hb
      exact hlast.mpr ⟨hb.1, hb.2.1, hb.2.2, hl⟩
    obtain ⟨hw, hwf, hwq⟩ := hs.stripWrite ordered whole (acc t) [(phys s va, byteAt lo n pat vas.length, maskAt lo n vas.length)]
      (by rw [hland]; exact nodup_landing_single _ _) (fun e he b hb => by
        rw [hland] at he
        obtain ⟨ht, hv⟩ := hbit e he b hb
        obtain ⟨hc, hV⟩ := hnew _ _ _ ht
        refine ⟨?_, hv.trans hV.symm⟩
        rintro (hin | ⟨k, hk⟩)
        · exact hc hin
        · have hkl := honce _ _ _ _ (hgrow hk) ht
          obtain ⟨-, -, -, x, hx, -⟩ := hk
          exact absurd (List.getElem?_eq_some_iff.mp hx).1 (by omega))
    refine ⟨hw.congr fun a b => ?_, hwf.trans hfront, hwq.trans hqueues⟩
    rw [hsplit, hland, or_assoc]
    refine or_congr_right (or_congr_right ⟨?_, fun ht => ?_⟩)
    · rintro ⟨e, he, rfl, hb⟩
      exact (hbit e he b hb).1
    · obtain ⟨hb, h1, h2, hl⟩ := hlast.mp ht
      exact ⟨(a, byteAt lo n pat vas.length, maskAt lo n vas.length), mem_landing_single.mpr ⟨hl, rfl⟩, rfl, by
        rw [getLsbD_maskAt hlo, decide_eq_true_eq]
        exact ⟨hb, h1, h2⟩⟩

theorem mem_landing {s : State} {l : List (Nat × Byte × Byte)} {x : Nat × Byte × Byte} :
    x ∈ landing s l ↔ ∃ e ∈ l, s.drops e.1 = false ∧ (s.key e.1, e.2) = x := by
  unfold landing
  rw [List.mem_map]
  constructor
  · rintro ⟨e, he, rfl⟩
    obtain ⟨hm, hd⟩ := List.mem_filter.mp he
    exact ⟨e, hm, by simpa using hd, rfl⟩
  · rintro ⟨e, he, hd, rfl⟩
    exact ⟨e, List.mem_filter.mpr ⟨he, by simp [hd]⟩, rfl⟩

/-- The bytes that an atomic element leaves. -/
def wholeBytes (s : State) (n pat : Nat) (vas : List Nat) : List (Nat × Byte × Byte) :=
  (vas.map (phys s)).mapIdx (fun k pa => (pa, byteAt 0 n pat k, 0xFF#8))

theorem mem_wholeBytes {s : State} {n pat : Nat} {vas : List Nat} {e : Nat × Byte × Byte} :
    e ∈ wholeBytes s n pat vas ↔ ∃ k va, vas[k]? = some va ∧ e = (phys s va, byteAt 0 n pat k, 0xFF#8) := by
  unfold wholeBytes
  rw [List.mem_iff_getElem?]
  refine exists_congr fun k => ?_
  rw [List.getElem?_mapIdx, List.getElem?_map, Option.map_map, Option.map_eq_some_iff]
  refine exists_congr fun va => and_congr_right fun _ => ?_
  exact eq_comm

theorem maskAt_whole {n k : Nat} (h : 8 * k + 8 ≤ n) (b : Nat) : (maskAt 0 n k).getLsbD b = (0xFF#8).getLsbD b := by
  have hff : (0xFF#8 : Byte).getLsbD b = decide (b < 8) := by
    rw [show (0xFF#8 : Byte) = BitVec.allOnes 8 from rfl, BitVec.getLsbD_allOnes]
  rw [getLsbD_maskAt (by omega), hff, decide_eq_decide]
  omega

theorem nodup_wholeBytes {s : State} {pat n : Nat} (vas : List Nat) (hn : n = 8 * vas.length)
    (honce : ∀ k k' a b, Touches s 0 n vas k a b → Touches s 0 n vas k' a b → k = k') :
    ((landing s (wholeBytes s n pat vas)).map (fun e => e.1)).Nodup := by
  have hpos : (wholeBytes s n pat vas).Pairwise (fun e e' => s.drops e.1 = false → s.drops e'.1 = false → s.key e.1 ≠ s.key e'.1) := by
    rw [List.pairwise_iff_getElem]
    intro i k hi hk hik hdi hdk heq
    have hlen : (wholeBytes s n pat vas).length = vas.length := by
      unfold wholeBytes
      rw [List.length_mapIdx, List.length_map]
    rw [hlen] at hi hk
    have hget : ∀ m (hm : m < vas.length), ((wholeBytes s n pat vas)[m]'(by rw [hlen]; exact hm)).1 = phys s vas[m] := fun m hm => by
      unfold wholeBytes
      rw [List.getElem_mapIdx, List.getElem_map]
    rw [hget i hi] at hdi heq
    rw [hget k hk] at hdk heq
    have := honce i k (s.key (phys s vas[i])) 0 ⟨by omega, by omega, by omega, _, List.getElem?_eq_getElem hi, hdi, rfl⟩
      ⟨by omega, by omega, by omega, _, List.getElem?_eq_getElem hk, hdk, heq.symm⟩
    omega
  unfold landing List.Nodup
  rw [List.map_map, List.pairwise_map, List.pairwise_filter]
  refine hpos.imp fun {e e'} h hd hd' => h (by simpa using hd) (by simpa using hd')

/-- An atomic element, as one strip write. -/
theorem Storing.whole {s u : State} {V : Nat → Nat → Bool} {C : Nat → Nat → Prop} (h : Storing s V C u) (ordered whole : Bool)
    (access : Nat) {n pat : Nat} (vas : List Nat) (hn : n = 8 * vas.length)
    (hnew : ∀ k a b, Touches s 0 n vas k a b → ¬C a b ∧ V a b = pat.testBit (8 * k + b - 0))
    (honce : ∀ k k' a b, Touches s 0 n vas k a b → Touches s 0 n vas k' a b → k = k') :
    let t := u.stripWrite ordered whole access (wholeBytes s n pat vas)
    Storing s V (fun a b => C a b ∨ ∃ k, Touches s 0 n vas k a b) t ∧ Kept u t := by
  have hland := landing_keeps h.drops h.key (wholeBytes s n pat vas)
  have hmask : ∀ {k va}, vas[k]? = some va → ∀ b, (maskAt 0 n k).getLsbD b = (0xFF#8).getLsbD b := fun hk b =>
    maskAt_whole (by have := (List.getElem?_eq_some_iff.mp hk).1; omega) b
  have hbit : ∀ e ∈ landing s (wholeBytes s n pat vas), ∀ b, e.2.2.getLsbD b = true →
      ∃ k, Touches s 0 n vas k e.1 b ∧ e.2.1.getLsbD b = pat.testBit (8 * k + b - 0) := fun x hx b hb => by
    obtain ⟨e, he, hd, rfl⟩ := mem_landing.mp hx
    obtain ⟨k, va, hk, rfl⟩ := mem_wholeBytes.mp he
    dsimp only at hb hd ⊢
    rw [← hmask hk] at hb
    refine ⟨k, ?_, getLsbD_byteAt_of_mask (by omega) hb⟩
    rw [getLsbD_maskAt (by omega), decide_eq_true_eq] at hb
    exact ⟨hb.1, hb.2.1, hb.2.2, va, hk, hd, rfl⟩
  obtain ⟨hw, hwf, hwq⟩ := h.stripWrite ordered whole access (wholeBytes s n pat vas) (by rw [hland]; exact nodup_wholeBytes vas hn honce)
    (fun e he b hb => by
      rw [hland] at he
      obtain ⟨k, ht, hv⟩ := hbit e he b hb
      exact ⟨(hnew _ _ _ ht).1, hv.trans (hnew _ _ _ ht).2.symm⟩)
  refine ⟨hw.congr fun a b => or_congr_right ?_, hwf, hwq⟩
  rw [hland]
  constructor
  · rintro ⟨e, he, rfl, hb⟩
    obtain ⟨k, ht, -⟩ := hbit e he b hb
    exact ⟨k, ht⟩
  · rintro ⟨k, hb, h1, h2, va, hk, hd, rfl⟩
    refine ⟨_, mem_landing.mpr ⟨_, mem_wholeBytes.mpr ⟨k, va, hk, rfl⟩, hd, rfl⟩, rfl, ?_⟩
    dsimp only
    rw [← hmask hk, getLsbD_maskAt (by omega), decide_eq_true_eq]
    exact ⟨hb, h1, h2⟩

/-- A vector write of a piece whose bits nothing has written. -/
theorem Storing.vecWrite {s u : State} {V : Nat → Nat → Bool} {C : Nat → Nat → Prop} (h : Storing s V C u) (hcopy : s.secondCopy = false)
    (ordered atomic packed : Bool) {p : Piece} (hr : Reached s p.vas) (hf : Fresh s V C p) :
    let t := u.vecWrite ordered atomic packed (p.vas.map (phys s)) p.lo p.n p.pat
    Storing s V (fun a b => C a b ∨ ∃ j, p.covers s a b j) t ∧ Kept u t := by
  have hnew : ∀ k a b, Touches s p.lo p.n p.vas k a b → ¬C a b ∧ V a b = p.pat.testBit (8 * k + b - p.lo) := fun k a b ht =>
    hf.unwritten a b _ (covers_of_touches hr ht)
  have honce : ∀ k k' a b, Touches s p.lo p.n p.vas k a b → Touches s p.lo p.n p.vas k' a b → k = k' := fun k k' a b h1 h2 => by
    have he := hf.once a b _ _ (covers_of_touches hr h1) (covers_of_touches hr h2)
    obtain ⟨hb, hl1, -⟩ := h1
    obtain ⟨-, hl2, -⟩ := h2
    omega
  have hreg : (p.vas.map (phys s)).any u.isReg = false := by
    rw [h.isReg, List.any_map, List.any_eq_false]
    intro va hva
    rw [Function.comp_apply, (hr va hva).2]
    exact Bool.false_ne_true
  have hcov : ∀ {t : State}, (Storing s V (fun a b => C a b ∨ ∃ k, Touches s p.lo p.n p.vas k a b) t ∧ Kept u t) →
      Storing s V (fun a b => C a b ∨ ∃ j, p.covers s a b j) t ∧ Kept u t := fun ⟨h1, h2⟩ =>
    ⟨h1.congr fun a b => or_congr_right (covers_iff_touches hr a b).symm, h2⟩
  unfold State.vecWrite
  rw [h.secondCopy, hcopy, if_neg Bool.false_ne_true, hreg, if_neg Bool.false_ne_true]
  split
  next hat =>
    simp only [Bool.and_eq_true, decide_eq_true_eq, List.length_map] at hat
    obtain ⟨⟨-, hlo⟩, hn⟩ := hat
    have hwhole := h.whole ordered true u.tick p.vas hn (pat := p.pat) (by rw [← hlo]; exact hnew) (by rw [← hlo]; exact honce)
    rw [hlo] at hcov ⊢
    exact hcov hwhole
  next =>
    exact hcov (h.bytes ordered _ (fun t => if packed then t.tick else u.tick) hf.low p.vas hnew honce)

end Sys2Proof.Claims
end
section
/-! PROOF. A vector store that can go through (R235, R241): its pieces, the part of them that stands in memory, and the writes that draw on
them. -/

namespace Sys2Proof.Claims

open Sys2Proof Sys2Proof.Machine

/-- The bits of memory that bits `S` of the pieces, by number of the piece and place in it, stand in. -/
def Covered (s : State) (l : List Piece) (S : Nat → Nat → Prop) (a b : Nat) : Prop :=
  ∃ i p j, l[i]? = some p ∧ S i j ∧ p.covers s a b j

open Classical in
/-- The value that the pieces give a bit of memory. -/
noncomputable def pieceBit (s : State) (l : List Piece) (a b : Nat) : Bool :=
  decide (∃ p ∈ l, ∃ j, p.covers s a b j ∧ p.pat.testBit j = true)

open Classical in
theorem pieceBit_iff {s : State} {l : List Piece} {a b : Nat} :
    pieceBit s l a b = true ↔ ∃ p ∈ l, ∃ j, p.covers s a b j ∧ p.pat.testBit j = true := decide_eq_true_iff

/-- The bits of write `w` are bits of the pieces, each another: bit `j` is bit `(f j).2` of piece number `(f j).1`. -/
structure Draws (l : List Piece) (w : Piece) (f : Nat → Nat × Nat) : Prop where
  low : w.lo < 8
  pos : 0 < w.n
  len : w.vas.length = (w.lo + w.n - 1) / 8 + 1
  once : ∀ j j', j < w.n → j' < w.n → f j = f j' → j = j'
  bits : ∀ j, j < w.n → ∃ p, l[(f j).1]? = some p ∧ (f j).2 < p.n ∧ (p.lo + (f j).2) % 8 = (w.lo + j) % 8
    ∧ p.vas[(p.lo + (f j).2) / 8]? = w.vas[(w.lo + j) / 8]? ∧ p.pat.testBit (f j).2 = w.pat.testBit j

/-- The store that began in `s` has written the bits `S` of its pieces; its place is `v`, and its queues are `qs`. -/
structure Going (s : State) (l : List Piece) (S : Nat → Nat → Prop) (v : Nat) (qs : Vector QState 6) (u : State) : Prop where
  storing : Storing s (pieceBit s l) (Covered s l S) u
  place : u.cpu.front.vstart = v
  queues : u.cpu.back.queues = qs

theorem covered_piece {s : State} {l : List Piece} {S : Nat → Nat → Prop} {a b : Nat} (h : Covered s l S a b) :
    ∃ p ∈ l, ∃ j, p.covers s a b j := by
  obtain ⟨i, p, j, hi, -, hc⟩ := h
  exact ⟨p, List.mem_of_getElem? hi, j, hc⟩

theorem Storing.ctx {s u : State} {V : Nat → Nat → Bool} {C : Nat → Nat → Prop} (h : Storing s V C u) : u.cpu.ctx = s.cpu.ctx := by
  obtain ⟨m, f, b, dg, os, l2, n, rfl⟩ := h.shape
  rfl

theorem Draws.mem {l : List Piece} {w : Piece} {f : Nat → Nat × Nat} (hd : Draws l w f) : ∀ va ∈ w.vas, ∃ p ∈ l, va ∈ p.vas := by
  intro va hva
  obtain ⟨k, hk⟩ := List.mem_iff_getElem?.mp hva
  have hlt := (List.getElem?_eq_some_iff.mp hk).1
  have hlo := hd.low
  have hn := hd.pos
  rw [hd.len] at hlt
  obtain ⟨p, hp, -, -, hva', -⟩ := hd.bits (8 * k - w.lo) (by omega)
  rw [show (w.lo + (8 * k - w.lo)) / 8 = k by omega, hk] at hva'
  exact ⟨p, List.mem_of_getElem? hp, List.mem_of_getElem? hva'⟩

section
variable {s : State} {l : List Piece} (hl : Storable s l)
include hl

theorem Storable.reached {p : Piece} (hp : p ∈ l) : Reached s p.vas := by
  obtain ⟨pas, hok, -, hreg⟩ := hl.1 p hp
  exact reached_of_ok hok hreg

theorem Storable.pieceBit_eq {p : Piece} (hp : p ∈ l) {a b j : Nat} (hc : p.covers s a b j) : pieceBit s l a b = p.pat.testBit j := by
  obtain ⟨i, hi⟩ := List.mem_iff_getElem?.mp hp
  rw [Bool.eq_iff_iff, pieceBit_iff]
  constructor
  · rintro ⟨r, hr, h, hrc, hbit⟩
    obtain ⟨k, hk⟩ := List.mem_iff_getElem?.mp hr
    obtain ⟨rfl, rfl⟩ := hl.2.1 i k p r a b j h hi hk hc hrc
    obtain rfl : p = r := Option.some.inj (hi.symm.trans hk)
    exact hbit
  · exact fun hbit => ⟨p, hp, j, hc, hbit⟩

/-- What the store has written changes nothing about where its bytes stand. -/
theorem Storable.accessBytes {S : Nat → Nat → Prop} {u : State} (h : Storing s (pieceBit s l) (Covered s l S) u) {p : Piece} (hp : p ∈ l) :
    u.accessBytes s.cpu.ctx .store false p.vas = .ok (p.vas.map (phys s)) := by
  rw [← accessBytes_of_reached (hl.reached hp)]
  have hkept : ∀ a, (∀ p ∈ l, ∀ b j, ¬p.covers s a b j) → readCell u.mem a = readCell s.mem a := fun a ha => by
    refine BitVec.eq_of_getLsbD_eq fun b _ => h.kept a b fun hc => ?_
    obtain ⟨p, hp, j, hj⟩ := covered_piece hc
    exact ha p hp b j hj
  obtain ⟨m, f, b, dg, os, l2, n, rfl⟩ := h.shape
  rw [← hl.2.2 m f b os l2 n hkept p hp]
  exact congrArg (fun g : Ctx → Access → Bool → List Nat → Except AccFault (List Nat) => g s.cpu.ctx .store false p.vas)
    (accessBytes_congr rfl rfl rfl)

/-- The bytes of the pieces can be stored on. -/
theorem Storable.accessBytes_of_mem {S : Nat → Nat → Prop} {u : State} (h : Storing s (pieceBit s l) (Covered s l S) u) {vas : List Nat}
    (hvas : ∀ va ∈ vas, ∃ p ∈ l, va ∈ p.vas) : u.accessBytes u.cpu.ctx .store false vas = .ok (vas.map (phys s)) := by
  rw [h.ctx]
  refine (u.accessBytes_ok _ _ _ _ _).mpr (List.forall₂_map_right_iff.mpr (List.forall₂_same.mpr fun va hva => ?_))
  obtain ⟨p, hp, hvp⟩ := hvas va hva
  have hall := (u.accessBytes_ok _ _ _ _ _).mp (hl.accessBytes h hp)
  exact List.forall₂_same.mp (List.forall₂_map_right_iff.mp hall) va hvp

theorem Draws.reached {w : Piece} {f : Nat → Nat × Nat} (hd : Draws l w f) : Reached s w.vas := by
  intro va hva
  obtain ⟨p, hp, hvp⟩ := hd.mem va hva
  exact hl.reached hp va hvp

theorem Draws.covers {w : Piece} {f : Nat → Nat × Nat} (hd : Draws l w f) {j : Nat} (hj : j < w.n) (a b : Nat) :
    ∃ p, l[(f j).1]? = some p ∧ (w.covers s a b j ↔ p.covers s a b (f j).2) ∧ p.pat.testBit (f j).2 = w.pat.testBit j := by
  obtain ⟨p, hp, hn, hb, hva, hbit⟩ := hd.bits j hj
  refine ⟨p, hp, ?_, hbit⟩
  rw [covers_iff (Draws.reached hl hd), covers_iff (hl.reached (List.mem_of_getElem? hp)), hb, hva]
  exact and_congr_left fun _ => iff_of_true hj hn

/-- The bits of a write that draws on bits that have not been written. -/
theorem Draws.fresh {w : Piece} {f : Nat → Nat × Nat} (hd : Draws l w f) {S : Nat → Nat → Prop} (hS : ∀ j, j < w.n → ¬S (f j).1 (f j).2) :
    Fresh s (pieceBit s l) (Covered s l S) w where
  low := hd.low
  unwritten a b j hc := by
    have hj : j < w.n := hc.1
    obtain ⟨p, hp, hiff, hbit⟩ := Draws.covers hl hd hj a b
    have hpc := hiff.mp hc
    refine ⟨?_, (hl.pieceBit_eq (List.mem_of_getElem? hp) hpc).trans hbit⟩
    rintro ⟨i, r, h, hi, hs, hr⟩
    obtain ⟨hi', hj'⟩ := hl.2.1 _ _ _ _ _ _ _ _ hp hi hpc hr
    rw [← hi', ← hj'] at hs
    exact hS j hj hs
  once a b j j' hc hc' := by
    obtain ⟨p, hp, hiff, -⟩ := Draws.covers hl hd hc.1 a b
    obtain ⟨p', hp', hiff', -⟩ := Draws.covers hl hd hc'.1 a b
    obtain ⟨h1, h2⟩ := hl.2.1 _ _ _ _ _ _ _ _ hp hp' (hiff.mp hc) (hiff'.mp hc')
    exact hd.once j j' hc.1 hc'.1 (Prod.ext h1 h2)

/-- A vector write of bits of the pieces. -/
theorem Going.vecWrite (hcopy : s.secondCopy = false) {S : Nat → Nat → Prop} {v : Nat} {qs : Vector QState 6} {u : State}
    (h : Going s l S v qs u) (ordered atomic packed : Bool) {w : Piece} {f : Nat → Nat × Nat} (hd : Draws l w f)
    (hS : ∀ j, j < w.n → ¬S (f j).1 (f j).2) :
    Going s l (fun i j => S i j ∨ ∃ k, k < w.n ∧ f k = (i, j)) v qs (u.vecWrite ordered atomic packed (u.physOf w.vas) w.lo w.n w.pat) := by
  rw [physOf_of_ok (hl.accessBytes_of_mem h.storing (hd.mem))]
  obtain ⟨hw, hfront, hqueues⟩ := h.storing.vecWrite hcopy ordered atomic packed (Draws.reached hl hd) (Draws.fresh hl hd hS)
  refine ⟨hw.congr fun a b => ?_, by rw [hfront]; exact h.place, hqueues.trans h.queues⟩
  constructor
  · rintro (⟨i, p, j, hi, hs, hc⟩ | ⟨j, hc⟩)
    · exact ⟨i, p, j, hi, .inl hs, hc⟩
    · obtain ⟨p, hp, hiff, -⟩ := Draws.covers hl hd hc.1 a b
      exact ⟨_, p, _, hp, .inr ⟨j, hc.1, rfl⟩, hiff.mp hc⟩
  · rintro ⟨i, p, j, hi, hs | ⟨k, hk, hf⟩, hc⟩
    · exact .inl ⟨i, p, j, hi, hs, hc⟩
    · obtain ⟨r, hr, hiff, -⟩ := Draws.covers hl hd hk a b
      rw [hf] at hr hiff
      obtain rfl : p = r := Option.some.inj (hi.symm.trans hr)
      exact .inr ⟨k, hiff.mpr hc⟩

/-- All of the pieces stand in memory. -/
theorem Storing.stored {u : State} (h : Storing s (pieceBit s l) (Covered s l fun _ _ => True) u) : Stored s u l := by
  refine ⟨fun p hp a b j hc => ?_, fun a b _ hfree => h.kept a b fun hc => ?_⟩
  · obtain ⟨i, hi⟩ := List.mem_iff_getElem?.mp hp
    exact (h.wrote a b ⟨i, p, j, hi, trivial, hc⟩).trans (hl.pieceBit_eq hp hc)
  · obtain ⟨p, hp, j, hj⟩ := covered_piece hc
    exact hfree p hp j hj

end

theorem Going.congr {s u : State} {l : List Piece} {S S' : Nat → Nat → Prop} {v : Nat} {qs : Vector QState 6} (h : Going s l S v qs u)
    (hS : ∀ i p j, l[i]? = some p → j < p.n → (S i j ↔ S' i j)) : Going s l S' v qs u := by
  refine ⟨h.storing.congr fun a b => ?_, h.place, h.queues⟩
  unfold Covered
  refine exists_congr fun i => exists_congr fun p => exists_congr fun j => and_congr_right fun hi => ?_
  constructor
  · rintro ⟨hs, hc⟩
    exact ⟨(hS i p j hi hc.1).mp hs, hc⟩
  · rintro ⟨hs, hc⟩
    exact ⟨(hS i p j hi hc.1).mpr hs, hc⟩

theorem Going.noteWriteAt {s u : State} {l : List Piece} {S : Nat → Nat → Prop} {v : Nat} {qs : Vector QState 6} (h : Going s l S v qs u)
    (no sub va : Nat) (bytes : List Byte) : Going s l S v qs (u.noteWriteAt no sub va bytes) := by
  unfold State.noteWriteAt
  split
  · exact ⟨h.storing.moved ⟨_, _, _, _, rfl⟩ rfl rfl, h.place, h.queues⟩
  · exact h

theorem Going.noteWrite {s u : State} {l : List Piece} {S : Nat → Nat → Prop} {v : Nat} {qs : Vector QState 6} (h : Going s l S v qs u)
    (va : Nat) (bytes : List Byte) : Going s l S v qs (u.noteWrite va bytes) := h.noteWriteAt _ _ _ _

end Sys2Proof.Claims
end
section
/-! PROOF. Stores that find every byte and every row (R241, R250): row after row is written and leaves its queue, and the store retires. -/

namespace Sys2Proof.Claims

open Sys2Proof Sys2Proof.Machine

theorem Going.moved {s u t : State} {l : List Piece} {S : Nat → Nat → Prop} {v : Nat} {qs : Vector QState 6} (h : Going s l S v qs u)
    (hs : ∃ f b dg n, t = { u with cpu := { u.cpu with front := f, back := b, digest := dg }, tick := n })
    (hf : t.cpu.front = { u.cpu.front with vstart := t.cpu.front.vstart })
    (hb : t.cpu.back = { u.cpu.back with queues := t.cpu.back.queues }) : Going s l S t.cpu.front.vstart t.cpu.back.queues t :=
  ⟨h.storing.moved hs hf hb, rfl, rfl⟩

theorem queue_of_queues {b c : Back} (h : b.queues = c.queues) (k : Nat) : b.queue k = c.queue k := by
  unfold Back.queue
  rw [h]

/-- Rows that a store through queue `q` has taken from queue `k` behind `u` of its rows: an index row with each. -/
def rowsTaken (q : Nat) (idx : Bool) (u k : Nat) : Nat := if k = q then u else if k = 5 ∧ idx = true then u else 0

/-- Store `j` has written the first `u` of its queue rows. -/
structure Stowed (s : State) (l : List Piece) (j : StoreJob) (S : Nat → Nat → Nat → Prop) (u : Nat) (t : State) : Prop where
  going : Going s l (S u) (u / j.fields * j.len) t.cpu.back.queues t
  rows : ∀ k, k < 6 → rowsOf t k = (rowsOf s k).drop (rowsTaken j.q j.idx u k)

/-- What a store needs to go through: it is the oldest, starts at its first element, has its rows, and finds every byte; behind `u` of
its rows the bits `S u` are written. -/
structure StoreGoes (s : State) (l : List Piece) (j : StoreJob) (S : Nat → Nat → Nat → Prop) : Prop where
  queue : j.q < 6
  apart : j.idx = true → j.q ≠ 5
  start : s.cpu.front.vstart = 0
  sub : (s.cpu.back.queue j.q).sub = 0
  strip : s.openStrip = []
  fields : 0 < j.fields
  rows : j.rows * j.fields ≤ (rowsOf s j.q).length
  index : j.idx = true → j.rows * j.fields ≤ (rowsOf s 5).length
  nothing : ∀ i k, ¬S 0 i k
  find : ∀ u t, u < j.rows * j.fields → Stowed s l j S u t → ∀ c, c < j.len →
    ∃ pas, t.accessBytes t.cpu.ctx .store false (j.addrs t (u / j.fields) c) = .ok pas
  write : ∀ u t, u < j.rows * j.fields → Stowed s l j S u t → Going s l (S (u + 1)) (u / j.fields * j.len) t.cpu.back.queues
    (j.write t (u / j.fields) (u % j.fields) ((rowsOf s j.q).getD u []) 0 j.len)

/-- Every element of the row can be stored. -/
theorem storeFault_none {s : State} {addrs : Nat → List Nat} (n c : Nat)
    (h : ∀ k, k < n → ∃ pas, s.accessBytes s.cpu.ctx .store false (addrs (c + k)) = .ok pas) : s.storeFault addrs n c = none := by
  induction n generalizing c with
  | zero => rfl
  | succ n ih =>
    obtain ⟨pas, hp⟩ := h 0 (Nat.zero_lt_succ n)
    rw [Nat.add_zero] at hp
    unfold State.storeFault
    rw [hp]
    refine ih (c + 1) fun k hk => ?_
    rw [Nat.add_assoc, Nat.add_comm 1 k]
    exact h (k + 1) (by omega)

/-- The state behind a row that has been written: `w` is what the writes left. -/
def stowedRow (j : StoreJob) (pc : W64) (u : Nat) (w : State) : State :=
  let b := w.cpu.back.popRows j.q 1
  let b := if j.idx then b.popRows 5 1 else b
  let next := if u % j.fields + 1 = j.fields then 0 else u % j.fields + 1
  let w := w.setBack (b.setSub j.q pc next)
  w.setFront { w.cpu.front with vstart := if next = 0 then (u / j.fields + 1) * j.len else u / j.fields * j.len }

theorem elems_take (x : QState) (n : Nat) : (x.take n).rows.map (fun r => r.elems) = (x.rows.map (fun r => r.elems)).drop n := by
  rw [← List.map_drop]
  rfl

theorem rowsOf_stowedRow (j : StoreJob) (pc : W64) (u : Nat) (w : State) {k : Nat} (hk : k < 6) (hq : j.q < 6)
    (hidx : j.idx = true → j.q ≠ 5) : rowsOf (stowedRow j pc u w) k = (rowsOf w k).drop (rowsTaken j.q j.idx 1 k) := by
  have hsub : ∀ (b : Back) (n : Nat), ((b.setSub j.q pc n).queue k).rows = (b.queue k).rows := fun b n => by
    unfold Back.setSub
    rw [Back.queue_modQueue]
    split
    next h => rw [h.1]
    next => rfl
  unfold rowsOf stowedRow rowsTaken
  change (((Back.setSub _ _ _ _).queue k).rows.map _) = _
  rw [hsub]
  cases hi : j.idx with
  | false =>
    rw [if_neg Bool.false_ne_true, Back.popRows_queue, if_neg (c := k = 5 ∧ _) (by simp)]
    by_cases h : k = j.q
    · rw [if_pos ⟨h, hq⟩, if_pos h, elems_take, h]
    · rw [if_neg fun hc => h hc.1, if_neg h, List.drop_zero]
  | true =>
    have hne := hidx hi
    rw [if_pos rfl, Back.popRows_queue, Back.popRows_queue, Back.popRows_queue]
    by_cases h5 : k = 5
    · subst h5
      rw [if_pos ⟨rfl, by omega⟩, if_neg (by omega), if_neg (by omega), if_pos ⟨rfl, rfl⟩, elems_take]
    · rw [if_neg fun hc => h5 hc.1, if_neg (c := k = 5 ∧ _) fun hc => h5 hc.1]
      by_cases h : k = j.q
      · rw [if_pos ⟨h, hq⟩, if_pos h, elems_take, h]
      · rw [if_neg fun hc => h hc.1, if_neg h, List.drop_zero]

theorem stowedRow_shape (j : StoreJob) (pc : W64) (u : Nat) (w : State) (hn : 0 < j.fields) :
    (∃ f b dg n, stowedRow j pc u w = { w with cpu := { w.cpu with front := f, back := b, digest := dg }, tick := n })
      ∧ (stowedRow j pc u w).cpu.front = { w.cpu.front with vstart := (u + 1) / j.fields * j.len }
      ∧ (stowedRow j pc u w).cpu.back = { w.cpu.back with queues := (stowedRow j pc u w).cpu.back.queues } := by
  unfold stowedRow
  refine ⟨⟨_, _, w.cpu.digest, w.tick, rfl⟩, ?_, ?_⟩
  · have hv : (if (if u % j.fields + 1 = j.fields then 0 else u % j.fields + 1) = 0 then (u / j.fields + 1) * j.len else u / j.fields * j.len)
        = (u + 1) / j.fields * j.len := by
      rw [(succ_div_mod hn).1]
      split
      · rw [if_pos rfl]
      · rw [if_neg (Nat.succ_ne_zero _)]
    dsimp only
    rw [hv]
    rfl
  · cases j.idx with
    | false => rfl
    | true => rfl

/-- A queue that a row of the store comes from still holds it. -/
theorem Stowed.head {s t : State} {l : List Piece} {j : StoreJob} {S : Nat → Nat → Nat → Prop} {u : Nat}
    (ht : Stowed s l j S u t) {k : Nat} (hk : k < 6) (hn : rowsTaken j.q j.idx u k = u)
    (hlen : u < (rowsOf s k).length) :
    ∃ row rest, (t.cpu.back.queue k).rows = row :: rest ∧ row.elems = (rowsOf s k).getD u [] := by
  have hrows := ht.rows k hk
  rw [hn, List.drop_eq_getElem_cons hlen] at hrows
  unfold rowsOf at hrows
  obtain ⟨row, rest, hq, hrow, -⟩ := List.map_eq_cons_iff.mp hrows
  refine ⟨row, rest, hq, hrow.trans ?_⟩
  rw [List.getD_eq_getElem?_getD, List.getElem?_eq_getElem hlen]
  rfl

section
variable {s : State} {l : List Piece} {j : StoreJob} {S : Nat → Nat → Nat → Prop} (h : StoreGoes s l j S)
include h

theorem StoreGoes.begin : Stowed s l j S 0 s where
  going := by
    refine ⟨(Storing.start (pieceBit s l) h.strip).congr fun a b => ⟨False.elim, ?_⟩, ?_, rfl⟩
    · rintro ⟨i, p, k, -, hs, -⟩
      exact h.nothing i k hs
    · rw [h.start, Nat.zero_div, Nat.zero_mul]
  rows k _ := by
    unfold rowsTaken
    rw [ite_self, ite_self, List.drop_zero]

theorem StoreGoes.step {u : Nat} {t : State} (hu : u < j.rows * j.fields) (ht : Stowed s l j S u t) (pc : W64) :
    Stowed s l j S (u + 1)
      (stowedRow j pc u (j.write t (u / j.fields) (u % j.fields) ((rowsOf s j.q).getD u []) 0 j.len)) := by
  have hw := h.write u t hu ht
  generalize j.write t (u / j.fields) (u % j.fields) ((rowsOf s j.q).getD u []) 0 j.len = w at hw ⊢
  obtain ⟨hshape, hfront, hback⟩ := stowedRow_shape j pc u w h.fields
  refine ⟨?_, fun k hk => ?_⟩
  · have hm := hw.moved hshape (by rw [hfront]) hback
    rw [hfront] at hm
    exact hm
  · have hsame : rowsOf w k = rowsOf t k := by
      unfold rowsOf
      rw [queue_of_queues hw.queues]
    rw [rowsOf_stowedRow j pc u w hk h.queue h.apart, hsame, ht.rows k hk, List.drop_drop]
    refine congrArg (fun n => (rowsOf s k).drop n) ?_
    unfold rowsTaken
    split
    · rfl
    · split
      · rfl
      · rfl

theorem StoreGoes.storeRows_succ {u : Nat} {t : State} (i : Instr) (m : Nat) (hu : u < j.rows * j.fields) (ht : Stowed s l j S u t) :
    ∃ t', storeRows i j (m + 1) u t = storeRows i j m (u + 1) t' ∧ Stowed s l j S (u + 1) t' := by
  refine ⟨_, ?_, h.step hu ht t.cpu.front.pc⟩
  obtain ⟨row, rest, hq, hrow⟩ := ht.head h.queue (if_pos rfl) (lt_of_lt_of_le hu h.rows)
  have hlacks : (if (t.cpu.back.queue j.q).rows.isEmpty then [j.q] else [])
      ++ (if j.idx && (t.cpu.back.queue 5).rows.isEmpty then [5] else []) = [] := by
    rw [hq]
    cases hi : j.idx with
    | false => rfl
    | true =>
      have htaken : rowsTaken j.q j.idx u 5 = u := by
        unfold rowsTaken
        rw [if_neg (Ne.symm (h.apart hi)), if_pos ⟨rfl, hi⟩]
      obtain ⟨x, r5, hq5, -⟩ := ht.head (k := 5) (by omega) htaken (lt_of_lt_of_le hu (h.index hi))
      rw [hq5]
      rfl
  have hmax : max t.cpu.front.vstart (u / j.fields * j.len) = u / j.fields * j.len := by
    rw [ht.going.place, Nat.max_self]
  have hfind : t.storeFault (j.addrs t (u / j.fields)) j.len 0 = none := storeFault_none _ _ fun c hc => by
    rw [Nat.zero_add]
    exact h.find u t hu ht c hc
  conv_lhs => unfold storeRows
  dsimp only
  rw [hmax, Nat.sub_self, Nat.sub_zero, hlacks, hq]
  dsimp only
  rw [hfind, hrow]
  dsimp only
  refine congrArg (storeRows i j m (u + 1)) ?_
  unfold stowedRow
  by_cases hmore : u % j.fields + 1 = j.fields
  · simp [hmore]
  · simp [hmore]

theorem StoreGoes.storeRows (i : Instr) (m u : Nat) {t : State} (hu : u + m = j.rows * j.fields) (ht : Stowed s l j S u t) :
    ∃ t', storeRows i j m u t = t'.finish i t'.cpu.front ∧ Stowed s l j S (j.rows * j.fields) t' := by
  induction m generalizing u t with
  | zero =>
    obtain rfl : u = j.rows * j.fields := hu
    exact ⟨t, by unfold Machine.storeRows; rfl, ht⟩
  | succ m ih =>
    obtain ⟨t1, heq, ht1⟩ := h.storeRows_succ i m (by omega) ht
    obtain ⟨t2, heq2, ht2⟩ := ih (u + 1) (by omega) ht1
    exact ⟨t2, heq.trans heq2, ht2⟩

/-- The queue rows of a store: none of an empty tile (R235). -/
theorem StoreGoes.storeJob (i : Instr) {n : Nat} (hn : n = if j.len = 0 then 0 else j.rows * j.fields) :
    ∃ t, s.storeJob i j = t.finish i t.cpu.front ∧ Stowed s l j S n t := by
  subst hn
  unfold State.storeJob
  by_cases hempty : j.rows = 0 ∨ j.len = 0
  · have hz : (if j.len = 0 then 0 else j.rows * j.fields) = 0 := by
      rcases hempty with h0 | h0
      · rw [h0, Nat.zero_mul, ite_self]
      · rw [if_pos h0]
    rw [if_pos (by simpa using hempty), hz]
    exact ⟨s, rfl, h.begin⟩
  · have hlen : j.len ≠ 0 := fun h0 => hempty (.inr h0)
    rw [if_neg (by simpa using hempty), if_neg hlen]
    have hsub : s.cpu.back.getSub j.q s.cpu.front.pc = 0 := by
      unfold Back.getSub
      rw [h.sub, Nat.zero_mod, ite_self]
    dsimp only
    rw [h.start, hsub, Nat.zero_div, Nat.zero_mul, Nat.zero_min, Nat.sub_zero]
    exact h.storeRows i _ 0 (Nat.zero_add _) h.begin

end

/-- A store retires from a state in which all of its pieces stand in memory. -/
theorem Going.retires {s t : State} {l : List Piece} {v : Nat} {qs : Vector QState 6} (hl : Storable s l)
    (h : Going s l (fun _ _ => True) v qs t) {i : Instr} {n q d idx : Nat} (hi : keepsVstart i = false) (hlen : i.len = n)
    {g f : Front} (hg : { g with vstart := 0 } = { f with vstart := 0 })
    (hpc : f.pc = s.cpu.front.pc) (hret : f.instret = s.cpu.front.instret)
    (hrows : ∀ k, k < 6 → rowsOf t k = (rowsOf s k).drop (if k = q then d else if k = 5 then idx else 0)) :
    Stored s (t.finish i g) l
      ∧ RetiresDrain s (t.finish i g) { f with pc := s.cpu.front.pc + BitVec.ofNat 64 n, vstart := 0 } q d idx := by
  have hstored := Storing.stored hl h.storing
  have hback := h.storing.back
  have hothers := h.storing.others
  obtain ⟨m, f0, b, dg, os, l2, k, rfl⟩ := h.storing.shape
  unfold State.finish vstartAfter
  rw [hi, hlen, if_neg Bool.false_ne_true, hg]
  refine ⟨hstored, ?_, rfl, hback, hrows, SameOthers.congr hothers rfl, rfl, rfl⟩
  change Front.mk .. = Front.mk ..
  rw [← hret, ← hpc]
  rfl

end Sys2Proof.Claims
end
section
/-! PROOF. Writes of one piece, and of a run of pieces that lie packed, each behind the one before (R237, R239, R247). -/

namespace Sys2Proof.Claims

open Sys2Proof Sys2Proof.Machine

/-- A write of one piece. -/
theorem Draws.self {l : List Piece} {i : Nat} {p w : Piece} (hi : l[i]? = some p) (hlow : p.lo < 8) (hpos : 0 < p.n)
    (hlen : p.vas.length = (p.lo + p.n - 1) / 8 + 1) (hvas : w.vas = p.vas) (hlo : w.lo = p.lo) (hn : w.n = p.n)
    (hbit : ∀ j, j < p.n → p.pat.testBit j = w.pat.testBit j) : Draws l w (fun j => (i, j)) where
  low := by rw [hlo]; exact hlow
  pos := by rw [hn]; exact hpos
  len := by rw [hvas, hlo, hn]; exact hlen
  once j j' _ _ h := congrArg Prod.snd h
  bits j hj := by
    rw [hn] at hj
    exact ⟨p, hi, hj, by rw [hlo], by rw [hvas, hlo], hbit j hj⟩

theorem length_bitRange (a lo n : Nat) : (bitRange a lo n).length = (lo + n - 1) / 8 - lo / 8 + 1 := by
  unfold bitRange vaRange
  rw [List.length_map, List.length_range]

/-- Bit `x + j` of the bits from address `a` on lies in this byte. -/
theorem bitRange_getElem (a x : Nat) {n j : Nat} (hj : j < n) :
    (bitRange ((a + x / 8) % 2 ^ 64) (x % 8) n)[(x % 8 + j) / 8]? = some ((a + (x + j) / 8) % 2 ^ 64) := by
  unfold bitRange vaRange
  rw [List.getElem?_map, List.getElem?_range (by omega)]
  simp only [Option.map_some, Option.some.injEq]
  omega

/-- The piece of `n` bits at bit `x` behind address `a`. -/
def pieceAt (a x n pat : Nat) : Piece := ⟨bitRange ((a + x / 8) % 2 ^ 64) (x % 8) n, x % 8, n, pat⟩

/-- A write of a run of bits of pieces of `w` bits each that lie packed from address `a` on. -/
theorem Draws.packed {l : List Piece} {a w x n pat : Nat} (hw : 0 < w) (hn : 0 < n)
    (hl : ∀ j, j < n → ∃ q, l[(x + j) / w]? = some (pieceAt a ((x + j) / w * w) w q) ∧ q.testBit ((x + j) % w) = pat.testBit j) :
    Draws l (pieceAt a x n pat) (fun j => ((x + j) / w, (x + j) % w)) where
  low := Nat.mod_lt _ (by omega)
  pos := hn
  len := by
    change (bitRange _ _ _).length = _
    rw [length_bitRange]
    change _ = (x % 8 + n - 1) / 8 + 1
    omega
  once j j' _ _ h := by
    obtain ⟨h1, h2⟩ := Prod.ext_iff.mp h
    dsimp only at h1 h2
    have := Nat.div_add_mod (x + j) w
    rw [h1, h2, Nat.div_add_mod] at this
    omega
  bits j hj := by
    change j < n at hj
    obtain ⟨q, hq, hbit⟩ := hl j hj
    have hlt := Nat.mod_lt (x + j) hw
    have hsum : (x + j) / w * w + (x + j) % w = x + j := by rw [Nat.mul_comm]; exact Nat.div_add_mod _ _
    refine ⟨_, hq, hlt, ?_, ?_, hbit⟩
    · change ((x + j) / w * w % 8 + (x + j) % w) % 8 = (x % 8 + j) % 8
      omega
    · change (bitRange _ ((x + j) / w * w % 8) w)[((x + j) / w * w % 8 + (x + j) % w) / 8]? = (bitRange _ (x % 8) n)[(x % 8 + j) / 8]?
      rw [bitRange_getElem _ _ hlt, bitRange_getElem _ _ hj, hsum]

section
variable {s : State} {l : List Piece} (hl : Storable s l) (hcopy : s.secondCopy = false) {v : Nat} {qs : Vector QState 6} {u : State}
include hl hcopy

/-- A run of packed pieces, written behind those before it. -/
theorem Going.packed {a w x n pat : Nat} (hg : Going s l (fun i j => i * w + j < x) v qs u) (ordered atomic packed : Bool) (hw : 0 < w)
    (hn : 0 < n) (hpiece : ∀ (i : Nat) (p : Piece), l[i]? = some p → p.n = w)
    (hrun : ∀ j, j < n → ∃ q, l[(x + j) / w]? = some (pieceAt a ((x + j) / w * w) w q) ∧ q.testBit ((x + j) % w) = pat.testBit j) :
    Going s l (fun i j => i * w + j < x + n) v qs
      (u.vecWrite ordered atomic packed (u.physOf (bitRange ((a + x / 8) % 2 ^ 64) (x % 8) n)) (x % 8) n pat) := by
  refine (Going.vecWrite hl hcopy hg ordered atomic packed (Draws.packed hw hn hrun) fun j hj => ?_).congr fun i p j hi hj => ?_
  · dsimp only
    rw [Nat.mul_comm, Nat.div_add_mod]
    omega
  · rw [hpiece i p hi] at hj
    constructor
    · rintro (h | ⟨k, hk, hkij⟩)
      · omega
      · change k < n at hk
        obtain ⟨rfl, rfl⟩ := Prod.ext_iff.mp hkij
        have := Nat.div_add_mod (x + k) w
        rw [Nat.mul_comm] at this
        dsimp only
        omega
    · intro h
      rcases Nat.lt_or_ge (i * w + j) x with hx | hx
      · exact .inl hx
      · refine .inr ⟨i * w + j - x, by change _ < n; omega, ?_⟩
        rw [Nat.add_sub_cancel' hx, Nat.mul_comm i w, Nat.mul_add_div hw, Nat.div_eq_of_lt hj, Nat.mul_add_mod, Nat.mod_eq_of_lt hj,
          Nat.add_zero]

/-- One piece, written behind those before it. -/
theorem Going.piece {x : Nat} {p w : Piece} (hg : Going s l (fun i _ => i < x) v qs u) (ordered atomic packed : Bool)
    (hi : l[x]? = some p) (hlow : p.lo < 8) (hpos : 0 < p.n) (hlen : p.vas.length = (p.lo + p.n - 1) / 8 + 1) (hvas : w.vas = p.vas)
    (hlo : w.lo = p.lo) (hn : w.n = p.n) (hbit : ∀ j, j < p.n → p.pat.testBit j = w.pat.testBit j) :
    Going s l (fun i _ => i < x + 1) v qs (u.vecWrite ordered atomic packed (u.physOf w.vas) w.lo w.n w.pat) := by
  refine (Going.vecWrite hl hcopy hg ordered atomic packed (Draws.self hi hlow hpos hlen hvas hlo hn hbit) fun j _ => ?_).congr
    fun i r j hr hj => ?_
  · exact Nat.lt_irrefl x
  · constructor
    · rintro (h | ⟨k, hk, hkij⟩)
      · exact Nat.lt_succ_of_lt h
      · obtain rfl : x = i := (Prod.ext_iff.mp hkij).1
        exact Nat.lt_succ_self x
    · intro h
      rcases Nat.lt_or_ge i x with hx | hx
      · exact .inl hx
      · obtain rfl : x = i := by omega
        obtain rfl : p = r := Option.some.inj (hi.symm.trans hr)
        exact .inr ⟨j, by rw [hn]; exact hj, rfl⟩

end

/-- Steps of a store, one after another. -/
theorem Going.upto {s u : State} {l : List Piece} {S : Nat → Nat → Nat → Prop} {v : Nat} {qs : Vector QState 6} {f : Nat → State → State}
    (m : Nat) (h : Going s l (S 0) v qs u) (hf : ∀ n w, n < m → Going s l (S n) v qs w → Going s l (S (n + 1)) v qs (f n w)) :
    Going s l (S m) v qs (upto m f u) := by
  induction m with
  | zero => exact h
  | succ m ih =>
    rw [upto_succ]
    exact hf m _ (Nat.lt_succ_self m) (ih fun n w hn => hf n w (Nat.lt_succ_of_lt hn))

/-! Packed values. -/

/-- The values `f 0`, `f 1`, … in fields of `w` bits. -/
def packedNat (w : Nat) (f : Nat → Nat) (n : Nat) : Nat := (List.range n).foldl (fun v k => v + f k * 2 ^ (k * w)) 0

theorem packedNat_succ (w : Nat) (f : Nat → Nat) (n : Nat) : packedNat w f (n + 1) = packedNat w f n + f n * 2 ^ (n * w) := by
  unfold packedNat
  rw [List.range_succ, List.foldl_append]
  rfl

theorem packedNat_lt {w : Nat} {f : Nat → Nat} (n : Nat) (hf : ∀ k, k < n → f k < 2 ^ w) : packedNat w f n < 2 ^ (n * w) := by
  induction n with
  | zero => exact Nat.two_pow_pos _
  | succ n ih =>
    have h1 := ih fun k hk => hf k (Nat.lt_succ_of_lt hk)
    have h2 := hf n (Nat.lt_succ_self n)
    rw [packedNat_succ, Nat.succ_mul, Nat.pow_add, Nat.mul_comm (2 ^ (n * w))]
    have := Nat.mul_le_mul_right (2 ^ (n * w)) (Nat.succ_le_of_lt h2)
    rw [Nat.succ_mul] at this
    omega

theorem testBit_packedNat {w : Nat} {f : Nat → Nat} (n : Nat) (hf : ∀ k, k < n → f k < 2 ^ w) (j : Nat) (hj : j < n * w) :
    (packedNat w f n).testBit j = (f (j / w)).testBit (j % w) := by
  induction n with
  | zero => omega
  | succ n ih =>
    have hf' : ∀ k, k < n → f k < 2 ^ w := fun k hk => hf k (Nat.lt_succ_of_lt hk)
    have hlt := packedNat_lt n hf'
    rw [packedNat_succ, Nat.add_comm, Nat.mul_comm (f n), Nat.testBit_two_pow_mul_add _ hlt]
    split
    next h => exact ih hf' h
    next h =>
      rw [Nat.succ_mul] at hj
      have hd : j / w = n := by
        refine Nat.div_eq_of_lt_le (by omega) ?_
        rw [Nat.succ_mul]
        exact hj
      rw [hd]
      have hm := Nat.div_add_mod j w
      rw [hd, Nat.mul_comm] at hm
      rw [show j - n * w = j % w by omega]

/-! Grids of pieces. -/

theorem flatMap_grid {α : Type} (m n : Nat) (g : Nat → Nat → List α) :
    (List.range m).flatMap (fun r => (List.range n).flatMap (g r)) = (List.range (m * n)).flatMap (fun u => g (u / n) (u % n)) := by
  induction m with
  | zero => rw [Nat.zero_mul]; rfl
  | succ m ih =>
    rw [List.range_succ, List.flatMap_append, ih, Nat.succ_mul, List.range_add, List.flatMap_append]
    refine congrArg _ ?_
    rw [List.flatMap_singleton, List.flatMap_map]
    refine List.flatMap_congr fun k hk => ?_
    have hk := List.mem_range.mp hk
    rw [Nat.mul_comm m n, Nat.mul_add_div (by omega), Nat.div_eq_of_lt hk, Nat.mul_add_mod, Nat.mod_eq_of_lt hk, Nat.add_zero]

theorem flatMap_rows {α : Type} (m n : Nat) (g : Nat → Nat → α) :
    (List.range m).flatMap (fun r => (List.range n).map (g r)) = (List.range (m * n)).map (fun u => g (u / n) (u % n)) := by
  have h := flatMap_grid m n fun r c => [g r c]
  simp only [← List.map_eq_flatMap] at h
  exact h

end Sys2Proof.Claims
end
section
/-! PROOF. The plain stores (R236, R237, R239): element after element, or a packed run of them. -/

namespace Sys2Proof.Claims

open Sys2Proof Sys2Proof.Machine

/-- What a plain store writes for element `c` of the queue row `e`. -/
def elemPat (s : State) (o : VMOps) (kind : Option Tag) (e : List Nat) (c : Nat) : Nat :=
  storeConvert s.cpu.front.rm kind (s.cpu.front.queueTag (4 + o.q.val)) (e.getD c 0) % 2 ^ memWidth s (4 + o.q.val) kind

/-- Element `c` of tile row `r`, where the store finds it in state `w`. -/
def placeAt (s : State) (o : VMOps) (p : Place) (kind : Option Tag) (w : State) (r c : Nat) : Nat × Nat :=
  elemStart w p (s.vmBase o) (memWidth s (4 + o.q.val) kind) s.cpu.front.vl r c

/-- The digest records of a row (R288). -/
def notedRow (s : State) (o : VMOps) (p : Place) (kind : Option Tag) (r : Nat) (e : List Nat) (w : State) : State :=
  upto s.cpu.front.vl (fun n w => w.noteWrite (placeAt s o p kind w r (0 + n)).1
    (leBytes (((placeAt s o p kind w r (0 + n)).2 + memWidth s (4 + o.q.val) kind + 7) / 8) (elemPat s o kind e (0 + n)))) w

/-- The elements of a row, written one after another. -/
def elemsRow (s : State) (o : VMOps) (p : Place) (kind : Option Tag) (ordered : Bool) (r : Nat) (e : List Nat) (w : State) : State :=
  upto s.cpu.front.vl (fun n w => w.vecWrite ordered
    (atomicElem (memWidth s (4 + o.q.val) kind) (bitRange (placeAt s o p kind w r (0 + n)).1 0 (memWidth s (4 + o.q.val) kind))) false
    (w.physOf (bitRange (placeAt s o p kind w r (0 + n)).1 0 (memWidth s (4 + o.q.val) kind))) 0 (memWidth s (4 + o.q.val) kind)
    (elemPat s o kind e (0 + n))) w

/-- The elements of a row, written as a packed run. -/
def runRow (s : State) (o : VMOps) (p : Place) (kind : Option Tag) (ordered : Bool) (r : Nat) (e : List Nat) (w : State) : State :=
  w.vecWrite ordered false true
    (w.physOf (bitRange (placeAt s o p kind w r 0).1 (placeAt s o p kind w r 0).2 (s.cpu.front.vl * memWidth s (4 + o.q.val) kind)))
    (placeAt s o p kind w r 0).2 (s.cpu.front.vl * memWidth s (4 + o.q.val) kind)
    (packedNat (memWidth s (4 + o.q.val) kind) (fun n => elemPat s o kind e (0 + n)) s.cpu.front.vl)

theorem plainStore_write (s : State) (o : VMOps) (p : Place) (kind : Option Tag) (ordered : Bool) (t : State) (r fld : Nat) (e : List Nat) :
    (plainStore s o p kind ordered).write t r fld e 0 s.cpu.front.vl =
      if memWidth s (4 + o.q.val) kind % 8 = 0 then elemsRow s o p kind ordered r e (notedRow s o p kind r e t)
      else if s.cpu.front.vl = 0 then notedRow s o p kind r e t
      else runRow s o p kind ordered r e (notedRow s o p kind r e t) := by
  cases kind with
  | none => rfl
  | some k => rfl

theorem plainStore_addrs (s : State) (o : VMOps) (p : Place) (kind : Option Tag) (ordered : Bool) (t : State) (r c : Nat) :
    (plainStore s o p kind ordered).addrs t r c
      = bitRange (placeAt s o p kind t r c).1 (placeAt s o p kind t r c).2 (memWidth s (4 + o.q.val) kind) := by
  cases kind with
  | none => rfl
  | some k => rfl

theorem elemPat_lt (s : State) (o : VMOps) (kind : Option Tag) (e : List Nat) (c : Nat) :
    elemPat s o kind e c < 2 ^ memWidth s (4 + o.q.val) kind := Nat.mod_lt _ (Nat.two_pow_pos _)

theorem elemPat_eq (i : Instr) (s : State) (o : VMOps) (r c : Nat) :
    elemPat s o (kindOf i o) ((rowsOf s (4 + o.q.val)).getD r []) c
      = (storedPiece i s o r c).pat % 2 ^ memWidth s (4 + o.q.val) (kindOf i o) := by
  unfold elemPat storedPiece storeConvert queueElem
  cases kindOf i o with
  | none => rfl
  | some k => rfl

theorem testBit_elemPat (i : Instr) (s : State) (o : VMOps) (r c : Nat) {j : Nat} (hj : j < memWidth s (4 + o.q.val) (kindOf i o)) :
    (elemPat s o (kindOf i o) ((rowsOf s (4 + o.q.val)).getD r []) c).testBit j = (storedPiece i s o r c).pat.testBit j := by
  rw [elemPat_eq, Nat.testBit_mod_two_pow, decide_eq_true hj, Bool.true_and]

/-- The pieces of a plain store. -/
def plainPieces (i : Instr) (s : State) (o : VMOps) : List Piece :=
  (List.range s.cpu.front.rc).flatMap (fun r => (List.range s.cpu.front.vl).map (storedPiece i s o r))

theorem plainPieces_get (i : Instr) (s : State) (o : VMOps) {r c : Nat} (hr : r < s.cpu.front.rc) (hc : c < s.cpu.front.vl) :
    (plainPieces i s o)[r * s.cpu.front.vl + c]? = some (storedPiece i s o r c) := by
  have hlt : r * s.cpu.front.vl + c < s.cpu.front.rc * s.cpu.front.vl := by
    have := Nat.mul_le_mul_right s.cpu.front.vl (Nat.succ_le_of_lt hr)
    rw [Nat.succ_mul] at this
    omega
  unfold plainPieces
  rw [flatMap_rows, List.getElem?_map, List.getElem?_range hlt]
  dsimp only [Option.map_some]
  rw [Nat.mul_comm r, Nat.mul_add_div (by omega), Nat.div_eq_of_lt hc, Nat.mul_add_mod, Nat.mod_eq_of_lt hc, Nat.add_zero]

theorem plainPieces_mem {i : Instr} {s : State} {o : VMOps} {p : Piece} (h : p ∈ plainPieces i s o) :
    p.n = memWidth s (4 + o.q.val) (kindOf i o) := by
  obtain ⟨r, -, hp⟩ := List.mem_flatMap.mp h
  obtain ⟨c, -, rfl⟩ := List.mem_map.mp hp
  rfl

theorem plainPieces_length (i : Instr) (s : State) (o : VMOps) : (plainPieces i s o).length = s.cpu.front.rc * s.cpu.front.vl := by
  unfold plainPieces
  rw [flatMap_rows, List.length_map, List.length_range]

theorem indexRow_of_drop {s t : State} {u : Nat} (h : rowsOf t 5 = (rowsOf s 5).drop u) (hu : u < (rowsOf s 5).length) :
    t.indexRow = (rowsOf s 5).getD u [] := by
  have hhead : t.indexRow = (rowsOf t 5).headD [] := by
    unfold State.indexRow rowsOf
    cases (t.cpu.back.queue 5).rows with
    | nil => rfl
    | cons r l => rfl
  rw [hhead, h, List.drop_eq_getElem_cons hu, List.getD_eq_getElem?_getD, List.getElem?_eq_getElem hu]
  rfl

/-- The store finds the elements of tile row `r` where they are to be. -/
def Finds (i : Instr) (s : State) (o : VMOps) (p : Place) (kind : Option Tag) (r : Nat) (w : State) : Prop :=
  ∀ c, placeAt s o p kind w r c = startOf i s o (memWidth s (4 + o.q.val) kind) r c

section
variable {i : Instr} {s : State} {o : VMOps} {p : Place} {kind : Option Tag} {r : Nat} {v : Nat} {qs : Vector QState 6} {u : State}
  (hl : Storable s (plainPieces i s o)) (hcopy : s.secondCopy = false) (hkind : kindOf i o = kind) (hr : r < s.cpu.front.rc)
  (hfind : ∀ S w, Going s (plainPieces i s o) S v qs w → Finds i s o p kind r w)
include hl hcopy hkind hr hfind

theorem elemsRow_going (ordered : Bool) (hwhole : memWidth s (4 + o.q.val) kind % 8 = 0)
    (hzero : ∀ c, (startOf i s o (memWidth s (4 + o.q.val) kind) r c).2 = 0)
    (hg : Going s (plainPieces i s o) (fun k _ => k < r * s.cpu.front.vl) v qs u) :
    Going s (plainPieces i s o) (fun k _ => k < r * s.cpu.front.vl + s.cpu.front.vl) v qs
      (elemsRow s o p kind ordered r ((rowsOf s (4 + o.q.val)).getD r []) u) := by
  refine Going.upto (S := fun n k _ => k < r * s.cpu.front.vl + n) s.cpu.front.vl hg fun n w hn hw => ?_
  have hst := hfind _ w hw n
  have hpos : 0 < memWidth s (4 + o.q.val) kind := tagW_pos _
  subst hkind
  rw [Nat.zero_add, hst]
  exact Going.piece hl hcopy hw ordered (atomicElem (memWidth s (4 + o.q.val) (kindOf i o)) _) false
    (w := ⟨bitRange (startOf i s o (memWidth s (4 + o.q.val) (kindOf i o)) r n).1 0 (memWidth s (4 + o.q.val) (kindOf i o)), 0,
      memWidth s (4 + o.q.val) (kindOf i o), elemPat s o (kindOf i o) ((rowsOf s (4 + o.q.val)).getD r []) n⟩)
    (plainPieces_get i s o hr hn) (by change (startOf i s o _ r n).2 < 8; rw [hzero]; omega) hpos
    (by
      change (bytesOfBits _ (startOf i s o _ r n).2 _).length
        = ((startOf i s o _ r n).2 + memWidth s (4 + o.q.val) (kindOf i o) - 1) / 8 + 1
      rw [hzero, ← bitRange_eq (by omega) hpos, length_bitRange]
      omega)
    (by
      change bitRange _ 0 _ = bytesOfBits _ (startOf i s o _ r n).2 _
      rw [hzero, bitRange_eq (by omega) hpos])
    (hzero n).symm rfl fun j hj => (testBit_elemPat i s o r n hj).symm

theorem runRow_going (ordered : Bool) (hvl : s.cpu.front.vl ≠ 0)
    (hdense : ∀ r c, startOf i s o (memWidth s (4 + o.q.val) kind) r c
      = ((s.vmBase o + (r * s.cpu.front.vl + c) * memWidth s (4 + o.q.val) kind / 8) % 2 ^ 64,
        (r * s.cpu.front.vl + c) * memWidth s (4 + o.q.val) kind % 8))
    (hg : Going s (plainPieces i s o) (fun k _ => k < r * s.cpu.front.vl) v qs u) :
    Going s (plainPieces i s o) (fun k _ => k < r * s.cpu.front.vl + s.cpu.front.vl) v qs
      (runRow s o p kind ordered r ((rowsOf s (4 + o.q.val)).getD r []) u) := by
  have hst := hfind _ u hg 0
  rw [hdense, Nat.add_zero] at hst
  have hpos : 0 < memWidth s (4 + o.q.val) kind := tagW_pos _
  subst hkind
  have hpiece : ∀ (k : Nat) (q : Piece), (plainPieces i s o)[k]? = some q → q.n = memWidth s (4 + o.q.val) (kindOf i o) := fun k q hk =>
    plainPieces_mem (List.mem_of_getElem? hk)
  have hbits : ∀ x k q j, (plainPieces i s o)[k]? = some q → j < q.n →
      (k < x ↔ k * memWidth s (4 + o.q.val) (kindOf i o) + j < x * memWidth s (4 + o.q.val) (kindOf i o)) := fun x k q j hk hj => by
    rw [hpiece k q hk] at hj
    constructor
    · intro h
      have := Nat.mul_le_mul_right (memWidth s (4 + o.q.val) (kindOf i o)) (Nat.succ_le_of_lt h)
      rw [Nat.succ_mul] at this
      omega
    · intro h
      refine Nat.lt_of_not_le fun hle => ?_
      have := Nat.mul_le_mul_right (memWidth s (4 + o.q.val) (kindOf i o)) hle
      omega
  unfold runRow
  rw [hst]
  refine (Going.packed hl hcopy (hg.congr (hbits _)) ordered false true (a := s.vmBase o) (w := memWidth s (4 + o.q.val) (kindOf i o))
    hpos (Nat.mul_pos (by omega) hpos) hpiece fun j hj => ?_).congr fun k q j hk hj => ?_
  · have hc : j / memWidth s (4 + o.q.val) (kindOf i o) < s.cpu.front.vl := Nat.div_lt_of_lt_mul (by rw [Nat.mul_comm]; exact hj)
    have hm := Nat.mod_lt j hpos
    rw [Nat.mul_comm (r * s.cpu.front.vl), Nat.mul_add_div hpos, Nat.mul_add_mod, plainPieces_get i s o hr hc]
    refine ⟨(storedPiece i s o r (j / memWidth s (4 + o.q.val) (kindOf i o))).pat, ?_, ?_⟩
    · unfold storedPiece pieceAt
      dsimp only
      rw [hdense, bitRange_eq (Nat.mod_lt _ (by omega)) hpos]
    · rw [testBit_packedNat _ (fun k _ => elemPat_lt s o _ _ _) _ hj, Nat.zero_add, testBit_elemPat i s o _ _ hm]
  · rw [← Nat.add_mul]
    exact (hbits _ k q j hk hj).symm

end

/-- A plain store whose elements stand where `startOf` says goes through. -/
theorem plainStore_goes {i : Instr} {o : VMOps} {s : State} {p : Place} {kind : Option Tag} {ordered : Bool}
    (hl : Storable s (plainPieces i s o)) (hq : o.q.val < 2) (hmay : MayStore s (4 + o.q.val)) (hkind : kindOf i o = kind)
    (hrows : s.cpu.front.rc ≤ (rowsOf s (4 + o.q.val)).length)
    (hidx : (plainStore s o p kind ordered).idx = true → o.q.val = 0 ∧ s.cpu.front.rc ≤ (rowsOf s 5).length)
    (hstart : ∀ r c t, ((plainStore s o p kind ordered).idx = true → t.indexRow = (rowsOf s 5).getD r [])
      → t.cpu.front.queueTag 5 = s.cpu.front.queueTag 5
      → elemStart t p (s.vmBase o) (memWidth s (4 + o.q.val) kind) s.cpu.front.vl r c
        = startOf i s o (memWidth s (4 + o.q.val) kind) r c)
    (hlow : ∀ r c, (startOf i s o (memWidth s (4 + o.q.val) kind) r c).2 < 8)
    (hzero : memWidth s (4 + o.q.val) kind % 8 = 0 → ∀ r c, (startOf i s o (memWidth s (4 + o.q.val) kind) r c).2 = 0)
    (hdense : memWidth s (4 + o.q.val) kind % 8 ≠ 0 → ∀ r c, startOf i s o (memWidth s (4 + o.q.val) kind) r c
      = ((s.vmBase o + (r * s.cpu.front.vl + c) * memWidth s (4 + o.q.val) kind / 8) % 2 ^ 64,
        (r * s.cpu.front.vl + c) * memWidth s (4 + o.q.val) kind % 8)) :
    StoreGoes s (plainPieces i s o) (plainStore s o p kind ordered) (fun u k _ => k < u * s.cpu.front.vl) := by
  obtain ⟨-, hv, hsub, hstrip, hcopy⟩ := hmay
  have hcount : (plainStore s o p kind ordered).rows * (plainStore s o p kind ordered).fields = s.cpu.front.rc := Nat.mul_one _
  have hpos : 0 < memWidth s (4 + o.q.val) kind := tagW_pos _
  have hfind : ∀ u t, u < s.cpu.front.rc →
      Stowed s (plainPieces i s o) (plainStore s o p kind ordered) (fun u k _ => k < u * s.cpu.front.vl) u t →
      ∀ S v w, Going s (plainPieces i s o) S v t.cpu.back.queues w → Finds i s o p kind u w := fun u t hu ht S v w hw c => by
    refine hstart u c w (fun h => ?_) ?_
    · obtain ⟨h0, h5⟩ := hidx h
      refine indexRow_of_drop ?_ (lt_of_lt_of_le hu h5)
      have hr := ht.rows 5 (by omega)
      unfold rowsTaken at hr
      rw [if_neg (by change ¬5 = 4 + o.q.val; omega), if_pos ⟨rfl, h⟩] at hr
      rw [← hr]
      unfold rowsOf
      rw [queue_of_queues hw.queues]
    · rw [hw.storing.front]
      rfl
  refine ⟨by change 4 + o.q.val < 6; omega, fun h => by change 4 + o.q.val ≠ 5; have := (hidx h).1; omega, hv, hsub, hstrip, Nat.one_pos,
    by rw [hcount]; exact hrows, fun h => by rw [hcount]; exact (hidx h).2, fun k _ => by omega, fun u t hu ht c hc => ?_,
    fun u t hu ht => ?_⟩
  · rw [hcount] at hu
    rw [show u / (plainStore s o p kind ordered).fields = u from Nat.div_one u, plainStore_addrs, hfind u t hu ht _ _ t ht.going]
    refine ⟨_, hl.accessBytes_of_mem ht.going.storing fun va hva => ⟨_, List.mem_of_getElem? (plainPieces_get i s o hu hc), ?_⟩⟩
    subst hkind
    rw [bitRange_eq (hlow _ _) hpos] at hva
    exact hva
  · rw [hcount] at hu
    have hg := ht.going
    have hf := hfind u t hu ht
    rw [show u / (plainStore s o p kind ordered).fields = u from Nat.div_one u] at hg ⊢
    rw [show (plainStore s o p kind ordered).len = s.cpu.front.vl from rfl] at hg ⊢
    rw [plainStore_write, Nat.succ_mul, show (plainStore s o p kind ordered).q = 4 + o.q.val from rfl]
    have hnoted : Going s (plainPieces i s o) (fun k _ => k < u * s.cpu.front.vl) (u * s.cpu.front.vl) t.cpu.back.queues
        (notedRow s o p kind u ((rowsOf s (4 + o.q.val)).getD u []) t) :=
      Going.upto (S := fun _ k _ => k < u * s.cpu.front.vl) _ hg fun n w _ hw => hw.noteWrite _ _
    split
    next hw => exact elemsRow_going hl hcopy hkind hu (fun S w hw => hf S _ w hw) ordered hw (hzero hw u) hnoted
    next hw =>
      split
      next h0 =>
        rw [h0] at hnoted ⊢
        exact hnoted
      next h0 => exact runRow_going hl hcopy hkind hu (fun S w hw => hf S _ w hw) ordered h0 (hdense hw) hnoted

/-- All queue rows of an empty or whole tile have been written. -/
theorem StoreGoes.retires {s : State} {l : List Piece} {j : StoreJob} {S : Nat → Nat → Nat → Prop} (h : StoreGoes s l j S)
    (hl : Storable s l) {i : Instr} {n d : Nat} (hi : keepsVstart i = false) (hlen : i.len = n)
    (hd : d = if j.len = 0 then 0 else j.rows * j.fields) (hall : ∀ k p b, l[k]? = some p → b < p.n → S d k b) :
    Stored s (s.storeJob i j) l
      ∧ RetiresDrain s (s.storeJob i j) { past s (s.storeJob i j) n with x := s.cpu.front.x, vstart := 0 } j.q d (if j.idx then d else 0) := by
  obtain ⟨t, heq, ht⟩ := h.storeJob i hd
  rw [heq]
  have hg := ht.going.congr (S' := fun _ _ => True) fun k p b hk hb => iff_of_true (hall k p b hk hb) trivial
  have hfront := hg.storing.front
  refine Going.retires hl hg hi hlen (f := s.cpu.front) (by rw [hfront]) rfl rfl fun k hk => ?_
  rw [ht.rows k hk]
  unfold rowsTaken
  congr 1
  by_cases h1 : k = j.q
  · rw [if_pos h1, if_pos h1]
  · rw [if_neg h1, if_neg h1]
    by_cases h5 : k = 5
    · cases j.idx <;> simp [h5]
    · simp [h5]

end Sys2Proof.Claims
end
section
/-! PROOF. VST.U, VST.S, VST.X and VST.XO (R235 to R239, R241, R242). -/

namespace Sys2Proof.Claims

open Sys2Proof Sys2Proof.Machine

theorem plainStores_cases {i : Instr} {o : VMOps} (h : plainStores i = some o) : i = .vstU o ∨ i = .vstS o ∨ i = .vstX o ∨ i = .vstXO o := by
  unfold plainStores at h
  split at h
  · exact .inl (congrArg Instr.vstU (Option.some.inj h))
  · exact .inr (.inl (congrArg Instr.vstS (Option.some.inj h)))
  · exact .inr (.inr (.inl (congrArg Instr.vstX (Option.some.inj h))))
  · exact .inr (.inr (.inr (congrArg Instr.vstXO (Option.some.inj h))))
  · cases h

/-- A plain store has written its elements. -/
theorem vst_stores {i : Instr} {o : VMOps} {s : State} {p : Place} {kind : Option Tag} {ordered : Bool}
    (hkeep : keepsVstart i = false) (hlen : i.len = 4) (hq : o.q.val < 2) (hmay : MayStore s (4 + o.q.val))
    (hkind : kindOf i o = kind) (hrows : s.cpu.front.rc ≤ (rowsOf s (4 + o.q.val)).length) (hl : Storable s (plainPieces i s o))
    (hchecks : ∀ body, s.accessChecks i (4 + o.q.val) p kind body = body s)
    (hidx : (plainStore s o p kind ordered).idx = indexed i)
    (hindex : indexed i = true → o.q.val = 0 ∧ s.cpu.front.rc ≤ (rowsOf s 5).length)
    (hstart : ∀ r c t, (indexed i = true → t.indexRow = (rowsOf s 5).getD r [])
      → t.cpu.front.queueTag 5 = s.cpu.front.queueTag 5
      → elemStart t p (s.vmBase o) (memWidth s (4 + o.q.val) kind) s.cpu.front.vl r c
        = startOf i s o (memWidth s (4 + o.q.val) kind) r c)
    (hlow : ∀ r c, (startOf i s o (memWidth s (4 + o.q.val) kind) r c).2 < 8)
    (hzero : memWidth s (4 + o.q.val) kind % 8 = 0 → ∀ r c, (startOf i s o (memWidth s (4 + o.q.val) kind) r c).2 = 0)
    (hdense : memWidth s (4 + o.q.val) kind % 8 ≠ 0 → ∀ r c, startOf i s o (memWidth s (4 + o.q.val) kind) r c
      = ((s.vmBase o + (r * s.cpu.front.vl + c) * memWidth s (4 + o.q.val) kind / 8) % 2 ^ 64,
        (r * s.cpu.front.vl + c) * memWidth s (4 + o.q.val) kind % 8)) :
    ∃ t, Host.Outcome.next (s.vst i o p kind ordered) = (.next t : Out) ∧ Stored s t (plainPieces i s o)
      ∧ RetiresDrain s t { past s t 4 with x := s.cpu.front.x, vstart := 0 } (4 + o.q.val) (tileRows s)
          (if indexed i then tileRows s else 0) := by
  have hgoes := plainStore_goes (p := p) (ordered := ordered) hl hq hmay hkind hrows (fun h => hindex (hidx.symm.trans h))
    (fun r c t hrow htag => hstart r c t (fun h => hrow (hidx.trans h)) htag) hlow hzero hdense
  have hret := hgoes.retires hl (i := i) (n := 4) (d := tileRows s) hkeep hlen
    (by
      unfold tileRows
      change _ = if s.cpu.front.vl = 0 then 0 else s.cpu.front.rc * 1
      rw [Nat.mul_one])
    (fun k q b hk _ => by
      have hlt := (List.getElem?_eq_some_iff.mp hk).1
      rw [plainPieces_length] at hlt
      unfold tileRows
      split
      next h0 => rw [h0] at hlt; omega
      next => exact hlt)
  refine ⟨_, rfl, ?_⟩
  unfold State.vst
  rw [State.whenOldest_nil s _ _ hmay.1, hchecks]
  rw [hidx] at hret
  exact hret

theorem whole_dense {a w n : Nat} (h : w % 8 = 0) : ((a + n * w / 8) % 2 ^ 64, n * w % 8).2 = 0 :=
  Nat.mod_eq_zero_of_dvd (Dvd.dvd.mul_left (Nat.dvd_of_mod_eq_zero h) n)

/-- Every plain store writes its elements. -/
theorem plainStores_store {i : Instr} {o : VMOps} {s : State} (hi : plainStores i = some o) (hwf : wellFormed i = true)
    (hmay : MayStore s (4 + o.q.val)) (htags : FormTags i s (4 + o.q.val) o)
    (hrows : s.cpu.front.rc ≤ (rowsOf s (4 + o.q.val)).length) (hl : Storable s (plainPieces i s o)) :
    ∃ t, exec i s = .next t ∧ Stored s t (plainPieces i s o)
      ∧ RetiresDrain s t { past s t 4 with x := s.cpu.front.x, vstart := 0 } (4 + o.q.val) (tileRows s)
          (if indexed i then tileRows s else 0) := by
  obtain ⟨-, he8, hidx, hwhole⟩ := htags
  rcases plainStores_cases hi with rfl | rfl | rfl | rfl
  · have hq : o.q.val < 2 := by
      simp only [wellFormed, VMOps.okSq, Bool.and_eq_true, decide_eq_true_eq] at hwf
      exact hwf.1
    exact vst_stores (p := .dense) (ordered := false) rfl rfl hq hmay rfl hrows hl
      (fun body => accessChecks_of_tags body he8 (by simp) (by simp)) rfl (by intro h; cases h)
      (fun r c t _ _ => (elemStart_dense rfl).1) (fun _ _ => Nat.mod_lt _ (by omega)) (fun h r c => whole_dense h) (fun _ _ _ => rfl)
  · have hq : o.q.val < 2 := by
      simp only [wellFormed, VMOps.okSq, decide_eq_true_eq] at hwf
      exact hwf
    have h8 := hwhole (.inr (.inr rfl))
    exact vst_stores (p := s.strideOf o) (ordered := false) rfl rfl hq hmay rfl hrows hl
      (fun body => accessChecks_of_tags body he8 (by simp [State.strideOf]) fun _ => h8) rfl
      (by intro h; cases h) (fun r c t _ _ => (elemStart_stride rfl).1) (fun _ _ => Nat.zero_lt_succ 7) (fun _ _ _ => rfl) (fun h => absurd h8 h)
  · have hq : o.q.val = 0 := by
      simp only [wellFormed, Bool.and_eq_true, decide_eq_true_eq] at hwf
      exact hwf.1
    have h8 := hwhole (.inl rfl)
    exact vst_stores (p := .index o.sub.val) (ordered := false) rfl rfl (by omega) hmay rfl hrows hl
      (fun body => accessChecks_of_tags body he8 (fun _ _ => (hidx rfl).1) fun _ => h8) rfl
      (fun h => ⟨hq, (hidx h).2⟩) (fun r c t hrow htag => (elemStart_index (hrow rfl) htag).1) (fun _ _ => Nat.zero_lt_succ 7)
      (fun _ _ _ => rfl) (fun h => absurd h8 h)
  · have hq : o.q.val = 0 := by
      simp only [wellFormed, Bool.and_eq_true, decide_eq_true_eq] at hwf
      exact hwf.1
    have h8 := hwhole (.inl rfl)
    exact vst_stores (p := .index o.sub.val) (ordered := true) rfl rfl (by omega) hmay rfl hrows hl
      (fun body => accessChecks_of_tags body he8 (fun _ _ => (hidx rfl).1) fun _ => h8) rfl
      (fun h => ⟨hq, (hidx h).2⟩) (fun r c t hrow htag => (elemStart_index (hrow rfl) htag).1) (fun _ _ => Nat.zero_lt_succ 7)
      (fun _ _ _ => rfl) (fun h => absurd h8 h)

end Sys2Proof.Claims
end
section
/-! PROOF. VST.SEG (R243): the fields of a record tile its bytes, and each is a piece of its own. -/

namespace Sys2Proof.Claims

open Sys2Proof Sys2Proof.Machine

theorem field_tags (w : Fin 16) : tagW (tagInt (w.val + 1)) = w.val + 1 ∧ tagSigned (tagInt (w.val + 1)) = true
    ∧ tagW (tagUint (w.val + 1)) = w.val + 1 ∧ tagSigned (tagUint (w.val + 1)) = false := by
  revert w
  decide

theorem bytesOfBits_eq {a lo n : Nat} (hn : 0 < n) : bytesOfBits a lo n = bitRange a lo n := by
  unfold bitRange vaRange bytesOfBits
  rw [show (lo + n - 1) / 8 - lo / 8 + 1 = (lo % 8 + n + 7) / 8 by omega]

/-- Some summand reaches over each place below a sum. -/
theorem exists_summand (f : Nat → Nat) (m x : Nat) (h : x < ((List.range m).map f).sum) :
    ∃ k, k < m ∧ ((List.range k).map f).sum ≤ x ∧ x < ((List.range k).map f).sum + f k := by
  induction m with
  | zero => exact absurd h (Nat.not_lt_zero x)
  | succ m ih =>
    rcases Nat.lt_or_ge x ((List.range m).map f).sum with hlt | hge
    · obtain ⟨k, hk, hx⟩ := ih hlt
      exact ⟨k, Nat.lt_succ_of_lt hk, hx⟩
    · refine ⟨m, Nat.lt_succ_self m, hge, ?_⟩
      rw [List.range_succ, List.map_append, List.sum_append] at h
      simpa using h

/-- Every bit of a record belongs to a field. -/
theorem field_of_bit {s : State} {o : VMOps} {x : Nat} (h : x < recordWidth s o) :
    ∃ k, k ≤ o.sub.val ∧ ((recordFields s o).getD k (1, 0)).2 ≤ x
      ∧ x < ((recordFields s o).getD k (1, 0)).2 + ((recordFields s o).getD k (1, 0)).1 := by
  unfold recordWidth recordFields at h
  rw [List.map_map] at h
  obtain ⟨k, hk, hx⟩ := exists_summand _ _ _ h
  refine ⟨k, Nat.lt_succ_iff.mp hk, ?_⟩
  have hget : (recordFields s o).getD k (1, 0) = ((s.getU o.xb / 2 ^ (4 * k)) % 16 + 1,
      ((List.range k).map (fun j => (s.getU o.xb / 2 ^ (4 * j)) % 16 + 1)).sum) := by
    unfold recordFields
    rw [List.getD_eq_getElem?_getD, List.getElem?_map, List.getElem?_range hk]
    rfl
  rw [hget]
  exact hx

/-- What a field receives of an integer (R243). -/
def fieldPat (t : Tag) (n : Nat) (z : Int) : Nat := (intWrite (if tagSigned t then tagInt n else tagUint n) true z).1

theorem fieldPat_eq (t : Tag) {n : Nat} (hn : 0 < n) (hle : n ≤ 16) (z : Int) :
    fieldPat t n z = ((max (if tagSigned t then (-(2 ^ (n - 1)), 2 ^ (n - 1) - 1) else ((0 : Int), (2 ^ n - 1 : Int))).1
      (min (if tagSigned t then (-(2 ^ (n - 1)), 2 ^ (n - 1) - 1) else ((0 : Int), (2 ^ n - 1 : Int))).2 z)) % 2 ^ n).toNat := by
  obtain ⟨hiw, his, huw, hus⟩ := field_tags ⟨n - 1, by omega⟩
  rw [show (⟨n - 1, by omega⟩ : Fin 16).val + 1 = n from Nat.sub_add_cancel hn] at hiw his huw hus
  unfold fieldPat
  rw [intWrite_sat]
  unfold rangeOf
  cases tagSigned t with
  | true => rw [if_pos rfl, if_pos rfl, hiw, his, if_pos rfl]
  | false => rw [if_neg Bool.false_ne_true, if_neg Bool.false_ne_true, huw, hus, if_neg Bool.false_ne_true]

/-- The pieces of a record store, in the order of its queue rows. -/
def recordPieces (s : State) (o : VMOps) : List Piece :=
  (List.range s.cpu.front.rc).flatMap (fun r => (List.range (o.sub.val + 1)).flatMap (fun k =>
    (List.range s.cpu.front.vl).map (fun c => recordPiece s o r c k)))

theorem recordPieces_eq (s : State) (o : VMOps) :
    recordPieces s o = (List.range (s.cpu.front.rc * (o.sub.val + 1) * s.cpu.front.vl)).map (fun n =>
      recordPiece s o (n / s.cpu.front.vl / (o.sub.val + 1)) (n % s.cpu.front.vl) (n / s.cpu.front.vl % (o.sub.val + 1))) := by
  unfold recordPieces
  rw [flatMap_grid, flatMap_rows]

theorem recordPieces_get (s : State) (o : VMOps) {u c : Nat} (hu : u < s.cpu.front.rc * (o.sub.val + 1)) (hc : c < s.cpu.front.vl) :
    (recordPieces s o)[u * s.cpu.front.vl + c]? = some (recordPiece s o (u / (o.sub.val + 1)) c (u % (o.sub.val + 1))) := by
  have hlt : u * s.cpu.front.vl + c < s.cpu.front.rc * (o.sub.val + 1) * s.cpu.front.vl := by
    have := Nat.mul_le_mul_right s.cpu.front.vl (Nat.succ_le_of_lt hu)
    rw [Nat.succ_mul] at this
    omega
  rw [recordPieces_eq, List.getElem?_map, List.getElem?_range hlt]
  dsimp only [Option.map_some]
  rw [Nat.mul_comm u, Nat.mul_add_div (by omega), Nat.div_eq_of_lt hc, Nat.mul_add_mod, Nat.mod_eq_of_lt hc, Nat.add_zero]

/-- The bytes of a record are bytes of its fields. -/
theorem record_tiled {s : State} {o : VMOps} (hwhole : recordWidth s o % 8 = 0) {r c : Nat} (hr : r < s.cpu.front.rc)
    (hc : c < s.cpu.front.vl) : ∀ va ∈ vaRange (recordAt s o r c) (recordWidth s o / 8), ∃ p ∈ recordPieces s o, va ∈ p.vas := by
  intro va hva
  obtain ⟨n, hn, rfl⟩ := List.mem_map.mp hva
  have hn := List.mem_range.mp hn
  obtain ⟨k, hk, hlo, hhi⟩ := field_of_bit (s := s) (o := o) (x := 8 * n) (by omega)
  refine ⟨recordPiece s o r c k, ?_, ?_⟩
  · unfold recordPieces
    exact List.mem_flatMap.mpr ⟨r, List.mem_range.mpr hr, List.mem_flatMap.mpr ⟨k, List.mem_range.mpr (Nat.lt_succ_of_le hk),
      List.mem_map.mpr ⟨c, List.mem_range.mpr hc, rfl⟩⟩⟩
  · change _ ∈ bytesOfBits _ ((recordFields s o).getD k (1, 0)).2 ((recordFields s o).getD k (1, 0)).1
    generalize ((recordFields s o).getD k (1, 0)).2 = lo at hlo hhi ⊢
    generalize ((recordFields s o).getD k (1, 0)).1 = w at hhi ⊢
    refine List.mem_map.mpr ⟨n - lo / 8, List.mem_range.mpr (by omega), ?_⟩
    rw [show recordAt s o r c + lo / 8 + (n - lo / 8) = recordAt s o r c + n by omega]

/-- The fields with number `k` of the records of row `r`, written one after another. -/
def fieldRow (s : State) (o : VMOps) (r k : Nat) (e : List Nat) (w : State) : State :=
  upto s.cpu.front.vl (fun n w =>
    let vas := bitRange (recordAt s o r (0 + n)) ((recordFields s o).getD k (1, 0)).2 ((recordFields s o).getD k (1, 0)).1
    let p := fieldPat (s.cpu.front.queueTag (4 + o.q.val)) ((recordFields s o).getD k (1, 0)).1
      (tint (s.cpu.front.queueTag (4 + o.q.val)) (e.getD (0 + n) 0))
    let w := w.noteWriteAt w.cpu.front.instret.toNat ((r * s.cpu.front.vl + 0 + n) * 8 + k) (vas.headD 0) (leBytes vas.length p)
    w.vecWrite false (atomicElem ((recordFields s o).getD k (1, 0)).1 vas) false (w.physOf vas) (((recordFields s o).getD k (1, 0)).2 % 8)
      ((recordFields s o).getD k (1, 0)).1 p) w

theorem segStore_write (s : State) (o : VMOps) (t : State) (r k : Nat) (e : List Nat) :
    (segStore s o).write t r k e 0 s.cpu.front.vl = fieldRow s o r k e t := by
  unfold segStore fieldRow fieldPat recordAt recordWidth
  dsimp only
  simp only [segFields_record, Nat.sub_zero, Nat.add_assoc]
  rfl

theorem fieldRow_going {s : State} {o : VMOps} {v u : Nat} {qs : Vector QState 6} {w : State} (hl : Storable s (recordPieces s o))
    (hcopy : s.secondCopy = false) (hu : u < s.cpu.front.rc * (o.sub.val + 1))
    (hg : Going s (recordPieces s o) (fun k _ => k < u * s.cpu.front.vl) v qs w) :
    Going s (recordPieces s o) (fun k _ => k < u * s.cpu.front.vl + s.cpu.front.vl) v qs
      (fieldRow s o (u / (o.sub.val + 1)) (u % (o.sub.val + 1)) ((rowsOf s (4 + o.q.val)).getD u []) w) := by
  obtain ⟨-, hpos, hle⟩ := field_le (s := s) (o := o) (k := u % (o.sub.val + 1))
    (Nat.lt_succ_iff.mp (Nat.mod_lt _ (Nat.succ_pos _)))
  refine Going.upto (S := fun n k _ => k < u * s.cpu.front.vl + n) s.cpu.front.vl hg fun n x hn hx => ?_
  have hget := recordPieces_get s o hu hn
  have hq : queueElem s (4 + o.q.val) (u / (o.sub.val + 1) * (o.sub.val + 1) + u % (o.sub.val + 1)) n
      = ((rowsOf s (4 + o.q.val)).getD u []).getD n 0 := by
    unfold queueElem
    rw [Nat.mul_comm, Nat.div_add_mod]
  generalize u / (o.sub.val + 1) = r at hget hq ⊢
  generalize u % (o.sub.val + 1) = k at hget hq hpos hle ⊢
  dsimp only
  rw [Nat.zero_add]
  exact Going.piece hl hcopy (hx.noteWriteAt _ _ _ _) false (atomicElem _ _) false
    (w := ⟨bitRange (recordAt s o r n) ((recordFields s o).getD k (1, 0)).2 ((recordFields s o).getD k (1, 0)).1,
      ((recordFields s o).getD k (1, 0)).2 % 8, ((recordFields s o).getD k (1, 0)).1,
      fieldPat (s.cpu.front.queueTag (4 + o.q.val)) ((recordFields s o).getD k (1, 0)).1
        (tint (s.cpu.front.queueTag (4 + o.q.val)) (((rowsOf s (4 + o.q.val)).getD u []).getD n 0))⟩)
    hget (Nat.mod_lt _ (by omega)) hpos
    (by
      change (bytesOfBits _ _ _).length = (((recordFields s o).getD k (1, 0)).2 % 8 + ((recordFields s o).getD k (1, 0)).1 - 1) / 8 + 1
      rw [bytesOfBits_eq hpos, length_bitRange]
      omega)
    (bytesOfBits_eq hpos).symm rfl rfl
    (fun j _ => by
      rw [fieldPat_eq _ hpos hle, ← hq]
      rfl)

/-- VST.SEG of records that can be stored goes through. -/
theorem segStore_goes {o : VMOps} {s : State} (hl : Storable s (recordPieces s o)) (hq : o.q.val < 2) (hmay : MayStore s (4 + o.q.val))
    (hwhole : recordWidth s o % 8 = 0) (hrows : s.cpu.front.rc * (o.sub.val + 1) ≤ (rowsOf s (4 + o.q.val)).length) :
    StoreGoes s (recordPieces s o) (segStore s o) (fun u k _ => k < u * s.cpu.front.vl) := by
  obtain ⟨-, hv, hsub, hstrip, hcopy⟩ := hmay
  have hfields : (segStore s o).fields = o.sub.val + 1 := by
    change (segFields (s.getU o.xb) (o.sub.val + 1)).length = _
    rw [segFields_eq, List.length_map, List.length_range]
  refine ⟨by change 4 + o.q.val < 6; omega, fun h => (by cases h), hv, hsub, hstrip, by rw [hfields]; omega, by rw [hfields]; exact hrows,
    fun h => (by cases h), fun k _ => by omega, fun u t hu ht c hc => ?_, fun u t hu ht => ?_⟩
  · have hr : u / (segStore s o).fields < s.cpu.front.rc := Nat.div_lt_of_lt_mul (by rw [Nat.mul_comm]; exact hu)
    generalize u / (segStore s o).fields = r at hr ⊢
    have haddrs : (segStore s o).addrs t r c = vaRange (recordAt s o r c) (recordWidth s o / 8) := by
      unfold segStore recordAt recordWidth
      dsimp only
      rw [segFields_record]
      rfl
    rw [haddrs]
    exact ⟨_, hl.accessBytes_of_mem ht.going.storing (record_tiled hwhole hr hc)⟩
  · have hg := ht.going
    rw [hfields] at hu hg ⊢
    rw [show (segStore s o).len = s.cpu.front.vl from rfl, segStore_write, Nat.succ_mul]
    exact fieldRow_going hl hcopy hu hg

/-- The record store has written its fields. -/
theorem vstSeg_stores {o : VMOps} {s : State} (hq : o.q.val < 2) (hmay : MayStore s (4 + o.q.val))
    (hint : tagIsInt (s.cpu.front.queueTag (4 + o.q.val)) = true) (hwhole : recordWidth s o % 8 = 0)
    (hrows : s.cpu.front.rc * (o.sub.val + 1) ≤ (rowsOf s (4 + o.q.val)).length) (hl : Storable s (recordPieces s o)) :
    ∃ t, exec (.vstSeg o) s = .next t ∧ Stored s t (recordPieces s o)
      ∧ RetiresDrain s t { past s t 4 with x := s.cpu.front.x, vstart := 0 } (4 + o.q.val) (tileRows s * (o.sub.val + 1)) 0 := by
  have hret := (segStore_goes hl hq hmay hwhole hrows).retires hl (i := .vstSeg o) (n := 4) (d := tileRows s * (o.sub.val + 1)) rfl rfl
    (by
      have hfields : (segStore s o).fields = o.sub.val + 1 := by
        change (segFields (s.getU o.xb) (o.sub.val + 1)).length = _
        rw [segFields_eq, List.length_map, List.length_range]
      unfold tileRows
      rw [hfields]
      change _ = if s.cpu.front.vl = 0 then 0 else s.cpu.front.rc * (o.sub.val + 1)
      split
      · rw [Nat.zero_mul]
      · rfl)
    (fun k q b hk _ => by
      have hlt := (List.getElem?_eq_some_iff.mp hk).1
      rw [recordPieces_eq, List.length_map, List.length_range] at hlt
      unfold tileRows
      split
      next h0 => rw [h0] at hlt; omega
      next => exact hlt)
  refine ⟨s.storeJob (.vstSeg o) (segStore s o), ?_, hret⟩
  change execVstSeg o s = _
  unfold execVstSeg State.segChecks
  have hwidth : segWidth (segFields (s.getU o.xb) (o.sub.val + 1)) = recordWidth s o := by
    rw [segFields_record]
    rfl
  rw [State.whenOldest_nil s _ _ hmay.1]
  dsimp only
  rw [hint, Bool.not_true, if_neg Bool.false_ne_true, hwidth, hwhole, if_neg (by simp)]

end Sys2Proof.Claims
end
section
/-! PROOF. A store of a stream of bytes, written bit after bit from its first on (R244, R247). -/

namespace Sys2Proof.Claims

open Sys2Proof Sys2Proof.Machine

theorem testBit_leNat (l : List Byte) (y : Nat) : (leNat l).testBit y = (l.getD (y / 8) 0).getLsbD (y % 8) := by
  induction l generalizing y with
  | nil =>
    rw [leNat_nil, Nat.zero_testBit, List.getD_nil]
    exact BitVec.getLsbD_zero.symm
  | cons b l ih =>
    rw [leNat_cons, Nat.add_comm, show (256 : Nat) = 2 ^ 8 from rfl, Nat.testBit_two_pow_mul_add _ b.isLt]
    split
    next h =>
      rw [Nat.div_eq_of_lt h, Nat.mod_eq_of_lt h]
      rfl
    next h =>
      obtain ⟨z, rfl⟩ : ∃ z, y = z + 8 := ⟨y - 8, by omega⟩
      rw [Nat.add_sub_cancel, ih, Nat.add_div_right _ (by omega), Nat.add_mod_right]
      rfl

/-- The bytes `l` stand at place `x` of `w`. -/
def Holds (w : List Byte) (x : Nat) (l : List Byte) : Prop := ∀ (n : Nat) (b : Byte), l[n]? = some b → w[x + n]? = some b

theorem Holds.left {w : List Byte} {x : Nat} {l l' : List Byte} (h : Holds w x (l ++ l')) : Holds w x l := fun n b hb =>
  h n b ((List.getElem?_append_left (List.getElem?_eq_some_iff.mp hb).1).trans hb)

theorem Holds.right {w : List Byte} {x : Nat} {l l' : List Byte} (h : Holds w x (l ++ l')) : Holds w (x + l.length) l' := fun n b hb => by
  rw [Nat.add_assoc]
  refine h _ b ?_
  rw [List.getElem?_append_right (Nat.le_add_right _ _), Nat.add_sub_cancel_left]
  exact hb

theorem Holds.length {w : List Byte} {x : Nat} {l : List Byte} (h : Holds w x l) : l = [] ∨ x + l.length ≤ w.length := by
  cases hl : l with
  | nil => exact .inl rfl
  | cons b t =>
    refine .inr ?_
    have hlt := (List.getElem?_eq_some_iff.mp (h (l.length - 1) (l[l.length - 1]'(by rw [hl]; simp)) (List.getElem?_eq_getElem _))).1
    rw [← hl]
    have : 0 < l.length := by rw [hl]; simp
    omega

theorem Holds.testBit {w : List Byte} {x : Nat} {l : List Byte} (h : Holds w x l) {y : Nat} (hy : y < 8 * l.length) :
    (leNat w).testBit (8 * x + y) = (leNat l).testBit y := by
  have hlt : y / 8 < l.length := by omega
  rw [testBit_leNat, testBit_leNat, Nat.mul_add_div (by omega), Nat.mul_add_mod, List.getD_eq_getElem?_getD, List.getD_eq_getElem?_getD,
    h _ _ (List.getElem?_eq_getElem hlt), List.getElem?_eq_getElem hlt]

theorem holds_flatMap (g : Nat → List Byte) {m j : Nat} (hj : j < m) :
    Holds ((List.range m).flatMap g) ((List.range j).flatMap g).length (g j) := by
  obtain ⟨d, rfl⟩ : ∃ d, m = j + 1 + d := ⟨m - (j + 1), by omega⟩
  intro n b hb
  have hlt := (List.getElem?_eq_some_iff.mp hb).1
  rw [List.range_add, List.flatMap_append, List.range_succ, List.flatMap_append, List.append_assoc,
    List.getElem?_append_right (Nat.le_add_right _ _), Nat.add_sub_cancel_left, List.flatMap_singleton, List.getElem?_append_left hlt]
  exact hb

/-- The pieces of a stream of bytes: each byte one. -/
def bytePieces (a : Nat) (w : List Byte) : List Piece := w.mapIdx (fun n b => ⟨[(a + n) % 2 ^ 64], 0, 8, b.toNat⟩)

theorem bytePieces_get {a : Nat} {w : List Byte} {k : Nat} {b : Byte} (h : w[k]? = some b) :
    (bytePieces a w)[k]? = some (pieceAt a (k * 8) 8 b.toNat) := by
  have hrange : bitRange ((a + k) % 2 ^ 64) 0 8 = [(a + k) % 2 ^ 64] := by
    change [((a + k) % 2 ^ 64 + 0) % 2 ^ 64] = _
    rw [Nat.add_zero, Nat.mod_mod]
  unfold bytePieces pieceAt
  rw [List.getElem?_mapIdx, h, Nat.mul_div_cancel _ (by omega), Nat.mul_mod_left, hrange]
  rfl

theorem bytePieces_bits {a : Nat} {w : List Byte} (k : Nat) (p : Piece) (h : (bytePieces a w)[k]? = some p) : p.n = 8 := by
  unfold bytePieces at h
  rw [List.getElem?_mapIdx] at h
  obtain ⟨b, -, rfl⟩ := Option.map_eq_some_iff.mp h
  rfl

theorem bytePieces_mem (a : Nat) {w : List Byte} {n : Nat} (h : n < w.length) : ∃ p ∈ bytePieces a w, (a + n) % 2 ^ 64 ∈ p.vas :=
  ⟨⟨[(a + n) % 2 ^ 64], 0, 8, w[n].toNat⟩, List.mem_of_getElem? (i := n) (by
    unfold bytePieces
    rw [List.getElem?_mapIdx, List.getElem?_eq_getElem h]
    rfl), List.mem_singleton.mpr rfl⟩

/-- The bits below `x` of the stream stand in memory. -/
def Streamed (s : State) (a : Nat) (w : List Byte) (x v : Nat) (qs : Vector QState 6) (u : State) : Prop :=
  Going s (bytePieces a w) (fun i j => i * 8 + j < x) v qs u

section
variable {s : State} {a : Nat} {w : List Byte} {x v : Nat} {qs : Vector QState 6} {u u0 : State}
  (hl : Storable s (bytePieces a w))
include hl

/-- Where bytes of the stream stand does not change as it is written. -/
theorem Streamed.physOf {y v' : Nat} {qs' : Vector QState 6} (h : Streamed s a w x v qs u) (h0 : Streamed s a w y v' qs' u0) {vas : List Nat}
    (hvas : ∀ va ∈ vas, ∃ n, n < w.length ∧ va = (a + n) % 2 ^ 64) : u0.physOf vas = u.physOf vas := by
  have hmem : ∀ va ∈ vas, ∃ p ∈ bytePieces a w, va ∈ p.vas := fun va hva => by
    obtain ⟨n, hn, rfl⟩ := hvas va hva
    exact bytePieces_mem a hn
  rw [physOf_of_ok (hl.accessBytes_of_mem h.storing hmem), physOf_of_ok (hl.accessBytes_of_mem h0.storing hmem)]

theorem Streamed.reach (h : Streamed s a w x v qs u) {vas : List Nat} (hvas : ∀ va ∈ vas, ∃ n, n < w.length ∧ va = (a + n) % 2 ^ 64) :
    ∃ pas, u.accessBytes u.cpu.ctx .store false vas = .ok pas :=
  ⟨_, hl.accessBytes_of_mem h.storing fun va hva => by
    obtain ⟨n, hn, rfl⟩ := hvas va hva
    exact bytePieces_mem a hn⟩

variable (hcopy : s.secondCopy = false)
include hcopy

/-- The next `n` bits of the stream, where `u0` has found their bytes. -/
theorem Streamed.write (h : Streamed s a w x v qs u) (h0 : Streamed s a w x v qs u0) (ordered atomic packed : Bool) {n pat lo : Nat}
    {vas : List Nat} (hn : 0 < n) (hx : x + n ≤ 8 * w.length) (hvas : vas = bitRange ((a + x / 8) % 2 ^ 64) (x % 8) n) (hlo : lo = x % 8)
    (hbit : ∀ j, j < n → (leNat w).testBit (x + j) = pat.testBit j) :
    Streamed s a w (x + n) v qs (u.vecWrite ordered atomic packed (u0.physOf vas) lo n pat) := by
  have hin : ∀ va ∈ vas, ∃ k, k < w.length ∧ va = (a + k) % 2 ^ 64 := fun va hva => by
    rw [hvas] at hva
    obtain ⟨k, hk, rfl⟩ := List.mem_map.mp hva
    have hk := List.mem_range.mp hk
    refine ⟨x / 8 + k, by omega, ?_⟩
    omega
  rw [Streamed.physOf hl h h0 hin, hvas, hlo]
  refine Going.packed hl hcopy h ordered atomic packed (by omega) hn bytePieces_bits fun j hj => ?_
  have hlt : (x + j) / 8 < w.length := by omega
  refine ⟨_, bytePieces_get (List.getElem?_eq_getElem hlt), ?_⟩
  rw [← hbit j hj, testBit_leNat, List.getD_eq_getElem?_getD, List.getElem?_eq_getElem hlt]
  rfl

/-- The next bytes of the stream. -/
theorem Streamed.bytes {X va : Nat} (h : Streamed s a w (8 * X) v qs u) (l : List Byte) (hl' : Holds w X l)
    (hva : l ≠ [] → va % 2 ^ 64 = (a + X) % 2 ^ 64) : Streamed s a w (8 * (X + l.length)) v qs (u.chunkBytes va l) := by
  unfold State.chunkBytes
  induction l using List.reverseRecOn with
  | nil => exact h
  | append_singleton l b ih =>
    have hb : w[X + l.length]? = some b := hl' _ _ (List.getElem?_concat_length ..)
    have hlt := (List.getElem?_eq_some_iff.mp hb).1
    have hprev := ih hl'.left fun _ => hva (by simp)
    have hva := hva (by simp)
    have hrange : vaRange va (l.length + 1) = vaRange va l.length ++ [(va + l.length) % 2 ^ 64] := by
      unfold vaRange
      rw [List.range_succ, List.map_append]
      rfl
    rw [List.length_append, List.length_singleton, hrange, List.zip_append (by rw [vaRange_length]), List.foldl_append]
    simp only [List.zip_cons_cons, List.zip_nil_right, List.foldl_cons, List.foldl_nil]
    generalize (l.zip (vaRange va l.length)).foldl _ u = t at hprev ⊢
    have hbyte : [(va + l.length) % 2 ^ 64] = bitRange ((a + 8 * (X + l.length) / 8) % 2 ^ 64) (8 * (X + l.length) % 8) 8 := by
      rw [Nat.mul_div_cancel_left _ (by omega), Nat.mul_mod_right]
      change _ = [((a + (X + l.length)) % 2 ^ 64 + 0) % 2 ^ 64]
      rw [List.cons.injEq]
      exact ⟨by omega, rfl⟩
    have hwrite := Streamed.write hl hcopy (u := t.noteWrite ((va + l.length) % 2 ^ 64) [b]) (hprev.noteWrite _ _) hprev false true false
      (n := 8) (pat := b.toNat) (lo := 0) (by omega) (by omega) hbyte (Nat.mul_mod_right 8 _).symm fun j hj => by
        rw [testBit_leNat, Nat.mul_add_div (by omega), Nat.div_eq_of_lt hj, Nat.add_zero, Nat.mul_add_mod, Nat.mod_eq_of_lt hj,
          List.getD_eq_getElem?_getD, hb]
        rfl
    exact hwrite

end

end Sys2Proof.Claims
end
section
/-! PROOF. VST.C writes a chunk: its header and bitmap, its values, its padding (R244, R247, R250). -/

namespace Sys2Proof.Claims

open Sys2Proof Sys2Proof.Machine

theorem cdiv_eq (n m : Nat) (hm : 0 < m) : n ≤ m * cdiv n m ∧ m * cdiv n m < n + m := by
  unfold cdiv
  have h1 := Nat.div_add_mod (n + m - 1) m
  have h2 := Nat.mod_lt (n + m - 1) hm
  omega

theorem bitsNat_patterns (l : List Nat) (k : Nat) :
    ((l.zipIdx k).map (fun e => if e.1 = 0 then 0 else 2 ^ e.2)).sum = 2 ^ k * bitsNat (l.map (fun p => p != 0)) := by
  induction l generalizing k with
  | nil => rfl
  | cons p l ih =>
    rw [List.zipIdx_cons, List.map_cons, List.sum_cons, ih, List.map_cons]
    change _ = 2 ^ k * ((p != 0).toNat + 2 * bitsNat (l.map (fun p => p != 0)))
    rw [Nat.mul_add, ← Nat.mul_assoc, ← Nat.pow_succ]
    refine congrArg (· + _) ?_
    by_cases hp : p = 0
    · rw [if_pos hp, hp]
      rfl
    · rw [if_neg hp, (bne_iff_ne (b := 0)).mpr hp]
      exact (Nat.mul_one _).symm

theorem packedNat_zipIdx (w : Nat) (l : List Nat) :
    (l.zipIdx.map (fun e => e.1 * 2 ^ (e.2 * w))).sum = packedNat w (fun k => l.getD k 0) l.length := by
  induction l using List.reverseRecOn with
  | nil => rfl
  | append_singleton l p ih =>
    have hcongr : packedNat w (fun k => (l ++ [p]).getD k 0) l.length = packedNat w (fun k => l.getD k 0) l.length := by
      unfold packedNat
      refine List.foldl_ext _ _ _ fun v k hk => ?_
      dsimp only
      rw [List.getD_append _ _ _ _ (List.mem_range.mp hk)]
    have hlast : (l ++ [p]).getD l.length 0 = p := by
      rw [List.getD_eq_getElem?_getD, List.getElem?_concat_length]
      rfl
    rw [List.zipIdx_append, List.map_append, List.sum_append, ih, List.length_append, List.length_singleton, packedNat_succ, hcongr, hlast,
      Nat.zero_add]
    rfl

/-! The parts of a chunk of patterns. -/

/-- The patterns of a chunk that are not zero. -/
def solid (l : List Nat) : List Nat := l.filter (fun p => p != 0)

/-- The bytes of the values of a chunk. -/
def valueBytes (t : Tag) (l : List Nat) : List Byte :=
  leBytes (chunkPay t (solid l).length) (packedNat (tagW t) (fun k => (solid l).getD k 0) (solid l).length)

theorem chunkOfPatterns_eq (t : Tag) (l : List Nat) :
    chunkOfPatterns t l = leBytes 8 (chunkHead t (solid l).length) ++ leBytes 512 (bitsNat (l.map (fun p => p != 0))) ++ valueBytes t l := by
  have hbits := bitsNat_patterns l 0
  rw [Nat.pow_zero, Nat.one_mul] at hbits
  unfold chunkOfPatterns valueBytes
  dsimp only
  rw [hbits, packedNat_zipIdx]
  rfl

theorem chunkOfPatterns_length (t : Tag) (l : List Nat) : (chunkOfPatterns t l).length = 520 + chunkPay t (solid l).length := by
  rw [chunkOfPatterns_eq, List.length_append, List.length_append, leBytes_length, leBytes_length]
  unfold valueBytes
  rw [leBytes_length]

theorem chunkPay_bounds (t : Tag) (n : Nat) : n * tagW t ≤ 8 * chunkPay t n ∧ cdiv (n * tagW t) 8 ≤ chunkPay t n := by
  have h1 := cdiv_eq (n * tagW t) 64 (by omega)
  have h2 := cdiv_eq (n * tagW t) 8 (by omega)
  unfold chunkPay
  omega

theorem solid_append_zeros (l : List Nat) (n : Nat) : solid (l ++ List.replicate n 0) = solid l := by
  unfold solid
  rw [List.filter_append, List.filter_replicate, if_neg (by simp), List.append_nil]

section
variable {t : Tag} {l : List Nat} (hl : ∀ p ∈ l, p < 2 ^ tagW t)
include hl

theorem solid_lt (k : Nat) (_ : k < (solid l).length) : (solid l).getD k 0 < 2 ^ tagW t := by
  rw [List.getD_eq_getElem?_getD]
  cases h : (solid l)[k]? with
  | none => exact Nat.two_pow_pos _
  | some p => exact hl p (List.mem_filter.mp (List.mem_of_getElem? h)).1

/-- The bits of the values, and the zeros behind them. -/
theorem testBit_valueBytes (y : Nat) (hy : y < 8 * chunkPay t (solid l).length) : (leNat (valueBytes t l)).testBit y =
    if y < (solid l).length * tagW t then ((solid l).getD (y / tagW t) 0).testBit (y % tagW t) else false := by
  unfold valueBytes
  rw [leNat_leBytes, show (256 : Nat) = 2 ^ 8 from rfl, ← Nat.pow_mul, Nat.testBit_mod_two_pow, decide_eq_true hy, Bool.true_and]
  split
  next h => exact testBit_packedNat _ (solid_lt hl) y h
  next h =>
    refine Nat.testBit_lt_two_pow (lt_of_lt_of_le (packedNat_lt _ (solid_lt hl)) ?_)
    exact Nat.pow_le_pow_right (by omega) (Nat.le_of_not_lt h)

/-- Behind the last value the bytes are zero. -/
theorem holds_padding {w : List Byte} {x : Nat} (h : Holds w x (valueBytes t l)) :
    Holds w (x + cdiv ((solid l).length * tagW t) 8)
      (List.replicate (chunkPay t (solid l).length - cdiv ((solid l).length * tagW t) 8) 0) := by
  intro n b hb
  obtain ⟨hn, rfl⟩ := List.getElem?_eq_some_iff.mp hb
  rw [List.getElem_replicate]
  rw [List.length_replicate] at hn
  have hused := cdiv_eq ((solid l).length * tagW t) 8 (by omega)
  have hlen : (valueBytes t l).length = chunkPay t (solid l).length := by
    unfold valueBytes
    rw [leBytes_length]
  generalize hm : cdiv ((solid l).length * tagW t) 8 = m at hn hused ⊢
  have hlt : m + n < (valueBytes t l).length := by omega
  rw [Nat.add_assoc, h _ _ (List.getElem?_eq_getElem hlt)]
  refine congrArg some (BitVec.eq_of_getLsbD_eq fun z hz => ?_)
  have hbit := testBit_leNat (valueBytes t l) (8 * (m + n) + z)
  rw [testBit_valueBytes hl _ (by omega), if_neg (by omega), Nat.mul_add_div (by omega), Nat.div_eq_of_lt hz, Nat.mul_add_mod,
    Nat.mod_eq_of_lt hz, Nat.add_zero, List.getD_eq_getElem?_getD, List.getElem?_eq_getElem hlt] at hbit
  exact hbit.symm.trans BitVec.getLsbD_zero.symm

end

/-! The writes of a chunk. -/

/-- The value `e.1`, number `e.2` of those of the chunk that are not zero, is written. -/
def valueStep (c : ChunkStore) (u : State) (e : Nat × Nat) : State :=
  (u.noteWrite ((c.place e.2).headD 0) (leBytes (c.place e.2).length e.1)).vecWrite false (atomicElem (tagW c.t) (c.place e.2))
    (tagW c.t < 8) (u.physOf (c.place e.2)) (e.2 * tagW c.t % 8) (tagW c.t) e.1

theorem filled_length {c : ChunkStore} : c.filled.length = (solid c.pats).length := by
  have h : ((c.pats.zipIdx.filter (fun e => e.1 != 0)).map Prod.fst).length = (solid c.pats).length := by
    unfold solid
    conv_rhs => rw [← List.zipIdx_map_fst 0 c.pats, List.filter_map]
    rfl
  rw [List.length_map] at h
  unfold ChunkStore.filled
  rw [List.length_map, List.length_zipIdx, h]

theorem filled_bounds {c : ChunkStore} (hb : c.before = 0) : ∀ e ∈ c.filled, e.1 < c.k + c.pats.length ∧ e.2.1 < (solid c.pats).length := by
  intro e he
  have hlen : c.filled.length = _ := filled_length
  obtain ⟨k, hk⟩ := List.mem_iff_getElem?.mp he
  have hlt := (List.getElem?_eq_some_iff.mp hk).1
  unfold ChunkStore.filled at hk
  rw [List.getElem?_map, List.getElem?_zipIdx] at hk
  simp only [Option.map_map, Option.map_eq_some_iff] at hk
  obtain ⟨x, hx, rfl⟩ := hk
  have hmem := (List.mem_filter.mp (List.mem_of_getElem? hx)).1
  obtain ⟨-, h2, -⟩ := List.mem_zipIdx hmem
  dsimp only [Function.comp]
  rw [hb]
  omega

theorem filled_foldl (c : ChunkStore) (hb : c.before = 0) (f : State → Nat × Nat → State) (u : State) :
    c.filled.foldl (fun u e => f u (e.2.2, e.2.1)) u = (solid c.pats).zipIdx.foldl f u := by
  have h : solid c.pats = (c.pats.zipIdx.filter (fun e => e.1 != 0)).map Prod.fst := by
    unfold solid
    conv_lhs => rw [← List.zipIdx_map_fst 0 c.pats, List.filter_map]
    rfl
  rw [h, List.zipIdx_map, List.foldl_map]
  unfold ChunkStore.filled
  rw [List.foldl_map, hb]
  simp only [Nat.zero_add]
  rfl

section
variable {s : State} {a : Nat} {w : List Byte} {v off : Nat} {qs : Vector QState 6} {u : State} {c : ChunkStore}
  (hl : Storable s (bytePieces a w)) (hcopy : s.secondCopy = false) (hb : c.before = 0) (hpats : ∀ p ∈ c.pats, p < 2 ^ tagW c.t)
  (haddr : c.a % 2 ^ 64 = (a + off) % 2 ^ 64)
  (hholds : Holds w off (chunkOfPatterns c.t (c.pats ++ List.replicate (4096 - c.pats.length) 0)))
include hholds

theorem chunk_values : Holds w (off + 520) (valueBytes c.t c.pats) := by
  rw [chunkOfPatterns_eq] at hholds
  have h := hholds.right
  rw [List.length_append, leBytes_length, leBytes_length] at h
  unfold valueBytes at h ⊢
  rw [solid_append_zeros] at h
  exact h

theorem chunk_inside : off + 520 + chunkPay c.t (solid c.pats).length ≤ w.length := by
  have hlen := chunkOfPatterns_length c.t (c.pats ++ List.replicate (4096 - c.pats.length) 0)
  rw [solid_append_zeros] at hlen
  rcases hholds.length with h0 | h
  · rw [h0] at hlen
    exact absurd hlen (by simp only [List.length_nil]; omega)
  · omega

include hl hcopy hpats haddr

/-- The values of the chunk are written one behind the other. -/
theorem values_going (h : Streamed s a w (8 * (off + 520)) v qs u) :
    Streamed s a w (8 * (off + 520) + (solid c.pats).length * tagW c.t) v qs ((solid c.pats).zipIdx.foldl (valueStep c) u) := by
  have hvals := chunk_values hholds
  have hin := chunk_inside hholds
  have hlen : (valueBytes c.t c.pats).length = chunkPay c.t (solid c.pats).length := by
    unfold valueBytes
    rw [leBytes_length]
  have hpay := (chunkPay_bounds c.t (solid c.pats).length).1
  have hpos := tagW_pos c.t
  have hgo : ∀ n, n ≤ (solid c.pats).length →
      Streamed s a w (8 * (off + 520) + n * tagW c.t) v qs (((solid c.pats).zipIdx.take n).foldl (valueStep c) u) := fun n => by
    induction n with
    | zero =>
      intro _
      rw [Nat.zero_mul, Nat.add_zero]
      exact h
    | succ n ih =>
      intro hn
      have hprev := ih (by omega)
      have hle := Nat.mul_le_mul_right (tagW c.t) hn
      rw [Nat.succ_mul] at hle
      rw [List.take_add_one, List.foldl_append, List.getElem?_zipIdx, List.getElem?_eq_getElem (by omega)]
      simp only [Option.map_some, Option.toList_some, List.foldl_cons, List.foldl_nil, Nat.zero_add]
      generalize ((solid c.pats).zipIdx.take n).foldl (valueStep c) u = t at hprev ⊢
      rw [Nat.succ_mul n, ← Nat.add_assoc]
      refine Streamed.write hl hcopy (hprev.noteWrite _ _) hprev false _ _ hpos (by omega) ?_ (by dsimp only; omega) fun j hj => ?_
      · unfold ChunkStore.place bitRange
        dsimp only
        rw [show (8 * (off + 520) + n * tagW c.t) / 8 = off + 520 + n * tagW c.t / 8 by omega,
          show (8 * (off + 520) + n * tagW c.t) % 8 = n * tagW c.t % 8 by omega, Nat.div_eq_of_lt (Nat.mod_lt _ (by omega : 0 < 8))]
        rw [show (n * tagW c.t + tagW c.t - 1) / 8 - n * tagW c.t / 8 + 1 = (n * tagW c.t % 8 + tagW c.t - 1) / 8 - 0 + 1 by omega]
        unfold vaRange
        refine List.map_congr_left fun k _ => ?_
        omega
      · have hdiv : (n * tagW c.t + j) / tagW c.t = n := by
          rw [Nat.mul_comm, Nat.mul_add_div hpos, Nat.div_eq_of_lt hj, Nat.add_zero]
        have hmod : (n * tagW c.t + j) % tagW c.t = j := by
          rw [Nat.mul_comm, Nat.mul_add_mod, Nat.mod_eq_of_lt hj]
        rw [Nat.add_assoc, hvals.testBit (by omega), testBit_valueBytes hpats _ (by omega), if_pos (by omega), hdiv, hmod,
          List.getD_eq_getElem?_getD, List.getElem?_eq_getElem (by omega)]
        rfl
  have hall := hgo _ (Nat.le_refl _)
  rw [List.take_of_length_le (by rw [List.length_zipIdx])] at hall
  exact hall

/-- The bits behind the last value up to a whole byte, and the padding. -/
def paddedWith (c : ChunkStore) (u : State) : State :=
  (if c.nnz * tagW c.t % 8 = 0 then u
    else u.vecWrite false false true (u.physOf (bitRange (c.a + 520) (c.nnz * tagW c.t) 1)) (c.nnz * tagW c.t % 8)
      (8 - c.nnz * tagW c.t % 8) 0).chunkBytes (c.padding.headD 0) (List.replicate c.padding.length 0)

theorem padded_going (hn : c.nnz = (solid c.pats).length)
    (h : Streamed s a w (8 * (off + 520) + (solid c.pats).length * tagW c.t) v qs u) :
    Streamed s a w (8 * (off + 520 + chunkPay c.t (solid c.pats).length)) v qs (paddedWith c u) := by
  have hvals := chunk_values hholds
  have hin := chunk_inside hholds
  have hlen : (valueBytes c.t c.pats).length = chunkPay c.t (solid c.pats).length := by
    unfold valueBytes
    rw [leBytes_length]
  obtain ⟨-, hpay⟩ := chunkPay_bounds c.t (solid c.pats).length
  have hused := cdiv_eq ((solid c.pats).length * tagW c.t) 8 (by omega)
  have hzeros := holds_padding hpats hvals
  have hpad : c.padding = vaRange (c.a + 520 + cdiv ((solid c.pats).length * tagW c.t) 8)
      (chunkPay c.t (solid c.pats).length - cdiv ((solid c.pats).length * tagW c.t) 8) := by
    unfold ChunkStore.padding
    rw [hn]
  have hbits := fun j (hj : (solid c.pats).length * tagW c.t + j < 8 * chunkPay c.t (solid c.pats).length) =>
    (hvals.testBit (y := (solid c.pats).length * tagW c.t + j) (by omega)).trans
      ((testBit_valueBytes hpats _ hj).trans (if_neg (by omega)))
  unfold paddedWith
  rw [hn, hpad, vaRange_length]
  generalize cdiv ((solid c.pats).length * tagW c.t) 8 = m at hpay hused hzeros ⊢
  generalize (solid c.pats).length * tagW c.t = lo at hused h hbits ⊢
  generalize chunkPay c.t (solid c.pats).length = pay at hin hlen hpay hzeros hbits ⊢
  have hbyte : Streamed s a w (8 * (off + 520 + m)) v qs (if lo % 8 = 0 then u
      else u.vecWrite false false true (u.physOf (bitRange (c.a + 520) lo 1)) (lo % 8) (8 - lo % 8) 0) := by
    split
    next h0 =>
      rw [show 8 * (off + 520 + m) = 8 * (off + 520) + lo by omega]
      exact h
    next h0 =>
      rw [show 8 * (off + 520 + m) = 8 * (off + 520) + lo + (8 - lo % 8) by omega]
      refine Streamed.write hl hcopy h h false false true (by omega) (by omega) ?_ (by omega) fun j hj => ?_
      · unfold bitRange
        rw [show (lo + 1 - 1) / 8 - lo / 8 + 1 = 1 by omega, show ((8 * (off + 520) + lo) % 8 + (8 - lo % 8) - 1) / 8
          - (8 * (off + 520) + lo) % 8 / 8 + 1 = 1 by omega]
        unfold vaRange
        refine List.map_congr_left fun k _ => ?_
        omega
      · rw [Nat.add_assoc, hbits j (by omega), Nat.zero_testBit]
  have hrun := Streamed.bytes hl hcopy hbyte _ hzeros (va := (vaRange (c.a + 520 + m) (pay - m)).headD 0) fun hne => by
    obtain ⟨d, hd⟩ : ∃ d, pay - m = d + 1 := ⟨pay - m - 1, by
      have : pay - m ≠ 0 := fun h0 => hne (by rw [h0]; rfl)
      omega⟩
    rw [hd]
    unfold vaRange
    rw [List.range_succ_eq_map, List.map_cons, List.headD_cons]
    omega
  rw [List.length_replicate, show off + 520 + m + (pay - m) = off + 520 + pay by omega] at hrun
  exact hrun

include hb in
/-- A chunk is written whole. -/
theorem chunkWrite_going (hfresh : c.fresh = true) {hi : Nat} (hpos : 0 < c.pats.length) (hhi : c.k + c.pats.length ≤ hi)
    (h : Streamed s a w (8 * off) v qs u) :
    Streamed s a w (8 * (off + 520 + chunkPay c.t (solid c.pats).length)) v qs (u.chunkWrite c hi true) := by
  have hn : c.nnz = (solid c.pats).length := by
    unfold ChunkStore.nnz
    rw [hb, filled_length, Nat.zero_add]
  have hhead : Holds w off (leBytes 8 (chunkHead c.t c.nnz)
      ++ leBytes 512 (bitsNat ((c.pats ++ List.replicate (4096 - c.pats.length) 0).map (fun p => p != 0)))) := by
    have h0 := hholds
    rw [chunkOfPatterns_eq, solid_append_zeros] at h0
    rw [hn]
    exact h0.left
  have h1 := Streamed.bytes hl hcopy h _ hhead fun _ => haddr
  rw [List.length_append, leBytes_length, leBytes_length] at h1
  have h2 := padded_going hl hcopy hpats haddr hholds hn (values_going hl hcopy hpats haddr hholds h1)
  have hall : c.filled.filter (fun e => decide (e.1 < hi)) = c.filled := List.filter_eq_self.mpr fun e he => by
    have := (filled_bounds hb e he).1
    rw [decide_eq_true_eq]
    omega
  rw [← filled_foldl c hb] at h2
  unfold State.chunkWrite
  dsimp only
  rw [hfresh, decide_eq_true (show c.k < hi by omega), hall]
  exact h2

omit hcopy hpats in
include hb in
/-- No byte of the chunk faults. -/
theorem chunkFault_none (h : Streamed s a w (8 * off) v qs u) : u.chunkFault c = none := by
  have hin := chunk_inside hholds
  have hn : c.nnz = (solid c.pats).length := by
    unfold ChunkStore.nnz
    rw [hb, filled_length, Nat.zero_add]
  obtain ⟨hpay, hused⟩ := chunkPay_bounds c.t (solid c.pats).length
  have hrange : ∀ x n, x + n ≤ 520 + chunkPay c.t (solid c.pats).length →
      ∃ pas, u.accessBytes u.cpu.ctx .store false (vaRange (c.a + x) n) = .ok pas := fun x n hx =>
    Streamed.reach hl h fun va hva => by
      obtain ⟨k, hk, rfl⟩ := List.mem_map.mp hva
      have hk := List.mem_range.mp hk
      exact ⟨off + x + k, by omega, by omega⟩
  unfold State.chunkFault
  dsimp only
  rw [List.findSome?_eq_none_iff]
  intro e he
  have hok : ∃ pas, u.accessBytes u.cpu.ctx .store false e.2 = .ok pas := by
    rcases List.mem_append.mp he with he | he
    · rcases List.mem_append.mp he with he | he
      · cases hf : c.fresh with
        | false =>
          rw [hf] at he
          cases he
        | true =>
          rw [hf] at he
          obtain rfl := List.mem_singleton.mp he
          obtain ⟨pas, hpas⟩ := hrange 0 520 (by omega)
          rw [Nat.add_zero c.a] at hpas
          dsimp only
          exact ⟨pas, hpas⟩
      · obtain ⟨x, hx, rfl⟩ := List.mem_map.mp he
        have hlt := (filled_bounds hb x hx).2
        have hle := Nat.mul_le_mul_right (tagW c.t) (Nat.succ_le_of_lt hlt)
        have hpos := tagW_pos c.t
        rw [Nat.succ_mul] at hle
        dsimp only
        unfold ChunkStore.place bitRange
        rw [Nat.add_assoc]
        exact hrange _ _ (by omega)
    · obtain rfl := List.mem_singleton.mp he
      dsimp only
      unfold ChunkStore.padding
      dsimp only
      rw [hn, Nat.add_assoc]
      exact hrange _ _ (by omega)
  obtain ⟨pas, hok⟩ := hok
  rw [hok]

end

end Sys2Proof.Claims
end
section
/-! PROOF. VST.C, chunk after chunk (R244, R247, R250), and the vector stores together. -/

namespace Sys2Proof.Claims

open Sys2Proof Sys2Proof.Machine

/-- The patterns of chunk `j` of VST.C's stream. -/
def streamPats (s : State) (o : VMOps) (j : Nat) : List Nat :=
  (List.range 4096).map (fun k =>
    let e := 4096 * j + k
    if e < s.cpu.front.rc * s.cpu.front.vl then
      queueElem s (4 + o.q.val) (e / s.cpu.front.vl) (e % s.cpu.front.vl) % 2 ^ tagW (s.cpu.front.queueTag (4 + o.q.val))
    else 0)

/-- Chunk `j` of the stream. -/
def streamChunk (s : State) (o : VMOps) (j : Nat) : List Byte :=
  chunkOfPatterns (s.cpu.front.queueTag (4 + o.q.val)) (streamPats s o j)

theorem streamBytes_eq (s : State) (o : VMOps) :
    streamBytes s o = (List.range (cdiv (s.cpu.front.rc * s.cpu.front.vl) 4096)).flatMap (streamChunk s o) := by
  have hcount : (s.cpu.front.rc * s.cpu.front.vl + 4095) / 4096 = cdiv (s.cpu.front.rc * s.cpu.front.vl) 4096 := by
    unfold cdiv
    omega
  unfold streamBytes
  dsimp only
  rw [hcount]
  rfl

/-- The bytes before chunk `j`. -/
def streamOff (s : State) (o : VMOps) (j : Nat) : Nat := ((List.range j).flatMap (streamChunk s o)).length

theorem streamOff_succ (s : State) (o : VMOps) (j : Nat) :
    streamOff s o (j + 1) = streamOff s o j + 520 + chunkPay (s.cpu.front.queueTag (4 + o.q.val)) (solid (streamPats s o j)).length := by
  unfold streamOff
  rw [List.range_succ, List.flatMap_append, List.length_append, List.flatMap_singleton]
  change _ + (chunkOfPatterns _ _).length = _
  rw [chunkOfPatterns_length, Nat.add_assoc]

/-- The tile element that chunk `j` begins with. -/
def chunkStart (s : State) (j : Nat) : Nat := min (s.cpu.front.rc * s.cpu.front.vl) (4096 * j)

/-- The patterns of the elements of chunk `j`. -/
def tilePats (s : State) (o : VMOps) (j : Nat) : List Nat :=
  (List.range (chunkStart s (j + 1) - chunkStart s j)).map (fun n =>
    queueElem s (4 + o.q.val) ((4096 * j + n) / s.cpu.front.vl) ((4096 * j + n) % s.cpu.front.vl)
      % 2 ^ tagW (s.cpu.front.queueTag (4 + o.q.val)))

theorem tilePats_length (s : State) (o : VMOps) (j : Nat) : (tilePats s o j).length = chunkStart s (j + 1) - chunkStart s j := by
  unfold tilePats
  rw [List.length_map, List.length_range]

/-- A chunk's patterns are those of its elements, padded with zeros. -/
theorem streamPats_eq {s : State} {o : VMOps} {j : Nat} (hj : 4096 * j ≤ s.cpu.front.rc * s.cpu.front.vl) :
    streamPats s o j = tilePats s o j ++ List.replicate (4096 - (tilePats s o j).length) 0 := by
  have hlen := tilePats_length s o j
  unfold chunkStart at hlen
  refine List.ext_getElem? fun k => ?_
  unfold streamPats
  rw [List.getElem?_map]
  rcases Nat.lt_or_ge k (tilePats s o j).length with hk | hk
  · rw [List.getElem?_append_left hk, List.getElem?_range (by omega)]
    unfold tilePats chunkStart
    rw [List.getElem?_map, List.getElem?_range (by omega)]
    simp only [Option.map_some, Option.some.injEq]
    rw [if_pos (by omega)]
  · rw [List.getElem?_append_right hk, List.getElem?_replicate]
    rcases Nat.lt_or_ge k 4096 with h4 | h4
    · rw [List.getElem?_range h4, if_pos (by omega)]
      simp only [Option.map_some, Option.some.injEq]
      rw [if_neg (by omega)]
    · rw [List.getElem?_eq_none (by rw [List.length_range]; exact h4), if_neg (by omega)]
      rfl

theorem solid_stream {s : State} {o : VMOps} {j : Nat} (hj : 4096 * j ≤ s.cpu.front.rc * s.cpu.front.vl) :
    solid (streamPats s o j) = solid (tilePats s o j) := by rw [streamPats_eq hj, solid_append_zeros]

/-- An element of the tile, found in the rows that are left of its queue. -/
theorem rowsElem_eq {s t : State} {q vl k0 n : Nat} (h : rowsOf t q = (rowsOf s q).drop (k0 / vl)) :
    rowsElem (t.cpu.back.queue q).rows vl (k0 / vl * vl) (k0 + n) = queueElem s q ((k0 + n) / vl) ((k0 + n) % vl) := by
  have hrow : (k0 + n - k0 / vl * vl) / vl = (k0 + n) / vl - k0 / vl := by
    rw [Nat.mul_comm, Nat.sub_mul_div]
  have hle : k0 / vl ≤ (k0 + n) / vl := Nat.div_le_div_right (Nat.le_add_right _ _)
  have hget : ((t.cpu.back.queue q).rows[(k0 + n) / vl - k0 / vl]?).map (fun r => r.elems) = (rowsOf s q)[(k0 + n) / vl]? := by
    rw [← List.getElem?_map]
    change (rowsOf t q)[_]? = _
    rw [h, List.getElem?_drop, Nat.add_sub_cancel' hle]
  unfold rowsElem queueElem
  rw [hrow, List.getD_eq_getElem?_getD (l := rowsOf s q), ← hget]
  cases (t.cpu.back.queue q).rows[(k0 + n) / vl - k0 / vl]? with
  | none => rfl
  | some r => rfl

theorem Going.setPlace {s u : State} {l : List Piece} {S : Nat → Nat → Prop} {v : Nat} {qs : Vector QState 6} (h : Going s l S v qs u)
    (k : Nat) :
    Going s l S k qs (u.setFront { u.cpu.front with vstart := k }) := by
  obtain ⟨hs, -, -⟩ := h.moved (t := u.setFront { u.cpu.front with vstart := k })
    ⟨{ u.cpu.front with vstart := k }, u.cpu.back, u.cpu.digest, u.tick, rfl⟩ rfl rfl
  exact ⟨hs, rfl, h.queues⟩

theorem Going.setQueues {s u : State} {l : List Piece} {S : Nat → Nat → Prop} {v : Nat} {qs : Vector QState 6} (h : Going s l S v qs u)
    {b : Back} (hb : b = { u.cpu.back with queues := b.queues }) : Going s l S v b.queues (u.setBack b) := by
  obtain ⟨hs, -, -⟩ := h.moved (t := u.setBack b) ⟨u.cpu.front, b, u.cpu.digest, u.tick, rfl⟩ rfl hb
  exact ⟨hs, h.place, rfl⟩

/-- VST.C has written the chunks before chunk `j`. -/
structure Chunked (s : State) (o : VMOps) (j : Nat) (t : State) : Prop where
  going : Streamed s (s.vmBase o) (streamBytes s o) (8 * streamOff s o j) t.cpu.front.vstart t.cpu.back.queues t
  rows : ∀ k, k < 6 → rowsOf t k = (rowsOf s k).drop (if k = 4 + o.q.val then chunkStart s j / s.cpu.front.vl else 0)

/-- The chunk that VST.C writes next. -/
def nextChunk (s : State) (o : VMOps) (j : Nat) : ChunkStore :=
  ⟨s.cpu.front.queueTag (4 + o.q.val), (s.vmBase o + streamOff s o j) % 2 ^ 64, 4096 * j, true, 0, tilePats s o j⟩

/-- The rows that chunk `j` completes leave the queue. -/
def chunkDone (s : State) (o : VMOps) (j : Nat) (w : State) : State :=
  w.setBack (w.cpu.back.popRows (4 + o.q.val) (chunkStart s (j + 1) / s.cpu.front.vl - 4096 * j / s.cpu.front.vl))

theorem chunkStart_succ (s : State) (j : Nat) :
    chunkStart s (j + 1) = min (s.cpu.front.rc * s.cpu.front.vl) (4096 * j + 4096) := by
  unfold chunkStart
  rw [Nat.mul_succ]

theorem nextChunk_pats (s : State) (o : VMOps) (j : Nat) : ∀ p ∈ (nextChunk s o j).pats, p < 2 ^ tagW (nextChunk s o j).t := by
  intro p hp
  obtain ⟨n, -, rfl⟩ := List.mem_map.mp hp
  exact Nat.mod_lt _ (Nat.two_pow_pos _)

theorem nextChunk_nnz (s : State) (o : VMOps) (j : Nat) : (nextChunk s o j).nnz = (solid (nextChunk s o j).pats).length := by
  unfold ChunkStore.nnz
  rw [filled_length]
  exact Nat.zero_add _

section
variable {s : State} {o : VMOps} {j : Nat} (hj : 4096 * j < s.cpu.front.rc * s.cpu.front.vl)
include hj

theorem chunkStart_of_lt : chunkStart s j = 4096 * j := min_eq_right hj.le

theorem nextChunk_length : (nextChunk s o j).pats.length = chunkStart s (j + 1) - 4096 * j := by
  rw [← chunkStart_of_lt hj]
  exact tilePats_length s o j

/-- The stream holds the chunk at its place. -/
theorem nextChunk_holds : Holds (streamBytes s o) (streamOff s o j) (chunkOfPatterns (nextChunk s o j).t
    ((nextChunk s o j).pats ++ List.replicate (4096 - (nextChunk s o j).pats.length) 0)) := by
  have hflat := holds_flatMap (streamChunk s o) (m := cdiv (s.cpu.front.rc * s.cpu.front.vl) 4096) (j := j) (by
    have := cdiv_eq (s.cpu.front.rc * s.cpu.front.vl) 4096 (by omega)
    omega)
  unfold streamChunk at hflat
  rw [streamPats_eq hj.le] at hflat
  exact hflat

theorem streamOff_next : streamOff s o (j + 1) = streamOff s o j + 520
    + chunkPay (s.cpu.front.queueTag (4 + o.q.val)) (nextChunk s o j).nnz := by
  rw [streamOff_succ, solid_stream hj.le, nextChunk_nnz]
  rfl

omit hj in
/-- The rows of a chunk are rows of the tile. -/
theorem chunk_rows_le (hvl : 0 < s.cpu.front.vl) :
    cdiv (chunkStart s (j + 1) - 4096 * j / s.cpu.front.vl * s.cpu.front.vl) s.cpu.front.vl
      ≤ s.cpu.front.rc - 4096 * j / s.cpu.front.vl := by
  have hbase : chunkStart s (j + 1) - 4096 * j / s.cpu.front.vl * s.cpu.front.vl
      ≤ (s.cpu.front.rc - 4096 * j / s.cpu.front.vl) * s.cpu.front.vl := by
    rw [Nat.sub_mul, chunkStart_succ]
    omega
  have hneed := cdiv_eq (chunkStart s (j + 1) - 4096 * j / s.cpu.front.vl * s.cpu.front.vl) s.cpu.front.vl hvl
  refine Nat.lt_succ_iff.mp (Nat.lt_of_mul_lt_mul_left (a := s.cpu.front.vl) ?_)
  rw [Nat.mul_succ, Nat.mul_comm _ (s.cpu.front.rc - _)]
  omega

/-- The queue when chunk `j` begins. -/
theorem Chunked.queue {t : State} (h : Chunked s o j t) (hq : o.q.val < 2) :
    rowsOf t (4 + o.q.val) = (rowsOf s (4 + o.q.val)).drop (4096 * j / s.cpu.front.vl) := by
  rw [h.rows _ (by omega), if_pos rfl, chunkStart_of_lt hj]

/-- The chunk that the model builds is the next one. -/
theorem nextChunk_eq {t : State} (h : Chunked s o j t) (hq : o.q.val < 2) :
    (⟨t.cpu.front.queueTag (4 + o.q.val), (t.vmBase o + streamOff s o j) % 2 ^ 64, 4096 * j, decide (4096 * j % 4096 = 0), 0,
      (List.range (min (t.cpu.front.rc * t.cpu.front.vl) (4096 * j / 4096 * 4096 + 4096) - 4096 * j)).map (fun n =>
        rowsElem (t.cpu.back.queue (4 + o.q.val)).rows t.cpu.front.vl (4096 * j / t.cpu.front.vl * t.cpu.front.vl) (4096 * j + n)
          % 2 ^ tagW (t.cpu.front.queueTag (4 + o.q.val)))⟩ : ChunkStore) = nextChunk s o j := by
  have hfront := h.going.storing.front
  have hbase : t.vmBase o = s.vmBase o := by
    unfold State.vmBase State.getX
    rw [hfront]
    rfl
  unfold nextChunk tilePats
  rw [hbase, hfront, Nat.mul_div_cancel_left j (by omega : 0 < 4096), Nat.mul_comm j, chunkStart_of_lt hj, chunkStart_succ,
    decide_eq_true (by omega)]
  dsimp only
  simp only [rowsElem_eq (h.queue hj hq)]
  rfl

/-- Behind the writes of chunk `j` its rows leave the queue. -/
theorem Chunked.done {t w : State} (h : Chunked s o j t) (hq : o.q.val < 2)
    (hw : Streamed s (s.vmBase o) (streamBytes s o) (8 * streamOff s o (j + 1)) (4096 * j) t.cpu.back.queues w) :
    Chunked s o (j + 1) (chunkDone s o j w) := by
  refine ⟨?_, fun k hk => ?_⟩
  · have hmoved := Going.setQueues hw
      (b := w.cpu.back.popRows (4 + o.q.val) (chunkStart s (j + 1) / s.cpu.front.vl - 4096 * j / s.cpu.front.vl)) rfl
    exact ⟨hmoved.storing, rfl, rfl⟩
  · have hsame : rowsOf w k = rowsOf t k := by
      unfold rowsOf
      rw [queue_of_queues hw.queues]
    have hrowk := h.rows k hk
    unfold chunkDone
    change (((Back.popRows _ _ _).queue k).rows.map _) = _
    rw [Back.popRows_queue]
    by_cases hkq : k = 4 + o.q.val
    · have hle : 4096 * j / s.cpu.front.vl ≤ chunkStart s (j + 1) / s.cpu.front.vl :=
        Nat.div_le_div_right (by rw [chunkStart_succ]; omega)
      rw [if_pos ⟨hkq, by omega⟩, if_pos hkq, elems_take]
      change (rowsOf w (4 + o.q.val)).drop _ = _
      rw [← hkq, hsame, hrowk, if_pos hkq, chunkStart_of_lt hj, List.drop_drop, Nat.add_sub_cancel' hle]
    · rw [if_neg fun hc => hkq hc.1, if_neg hkq]
      rw [if_neg hkq] at hrowk
      exact hsame.trans hrowk

end

section
variable {s : State} {o : VMOps} (hl : Storable s (bytePieces (s.vmBase o) (streamBytes s o))) (hcopy : s.secondCopy = false)
  (hq : o.q.val < 2) (hrows : s.cpu.front.rc ≤ (rowsOf s (4 + o.q.val)).length) (hvl : 0 < s.cpu.front.vl)
include hl hcopy hq hrows hvl

/-- Chunk `j` is written, and the rows that it completes leave the queue. -/
theorem Chunked.step {j : Nat} {t : State} (hj : 4096 * j < s.cpu.front.rc * s.cpu.front.vl) (h : Chunked s o j t) (i : Instr) (m : Nat) :
    ∃ t', storeChunks i o (m + 1) (4096 * j) (streamOff s o j) 0 t
        = storeChunks i o m (chunkStart s (j + 1)) (streamOff s o (j + 1)) 0 t'
      ∧ Chunked s o (j + 1) t' := by
  have hfront := h.going.storing.front
  have hvlt : t.cpu.front.vl = s.cpu.front.vl := by rw [hfront]
  have htag : t.cpu.front.queueTag (4 + o.q.val) = s.cpu.front.queueTag (4 + o.q.val) := by
    rw [hfront]
    rfl
  have hnext := chunkStart_succ s j
  have hlen := nextChunk_length (o := o) hj
  have hholds := nextChunk_holds (o := o) hj
  have haddr : (nextChunk s o j).a % 2 ^ 64 = (s.vmBase o + streamOff s o j) % 2 ^ 64 := Nat.mod_mod _ _
  have hplaced : Streamed s (s.vmBase o) (streamBytes s o) (8 * streamOff s o j) (4096 * j) t.cpu.back.queues
      (t.setFront { t.cpu.front with vstart := 4096 * j }) := Going.setPlace h.going _
  have hfault := chunkFault_none hl rfl haddr hholds hplaced
  have hwrite := chunkWrite_going hl hcopy rfl (nextChunk_pats s o j) haddr hholds rfl (hi := chunkStart s (j + 1)) (by omega)
    (by change 4096 * j + _ ≤ _; omega) hplaced
  have hoff := streamOff_next (o := o) hj
  rw [← nextChunk_nnz, show (nextChunk s o j).t = s.cpu.front.queueTag (4 + o.q.val) from rfl, ← hoff] at hwrite
  have hhi : min (t.cpu.front.rc * t.cpu.front.vl) (4096 * j / 4096 * 4096 + 4096) = chunkStart s (j + 1) := by
    rw [hfront, hnext]
    dsimp only
    omega
  have henough : ¬(t.cpu.back.queue (4 + o.q.val)).rows.length
      < cdiv (chunkStart s (j + 1) - 4096 * j / t.cpu.front.vl * t.cpu.front.vl) t.cpu.front.vl := by
    have hle := chunk_rows_le (j := j) hvl
    have hleft : (t.cpu.back.queue (4 + o.q.val)).rows.length = (rowsOf s (4 + o.q.val)).length - 4096 * j / s.cpu.front.vl := by
      rw [← List.length_drop, ← h.queue hj hq]
      unfold rowsOf
      rw [List.length_map]
    rw [hvlt, hleft]
    omega
  refine ⟨_, ?_, h.done hj hq hwrite⟩
  conv_lhs => unfold storeChunks
  dsimp only
  rw [nextChunk_eq hj h hq, hhi, if_neg henough, hfault, hoff]
  dsimp only
  rw [htag]
  unfold chunkDone
  rw [← hvlt]

/-- The chunks from `j` on. -/
theorem Chunked.run (i : Instr) (m j : Nat) {t : State} (hm : j + m = cdiv (s.cpu.front.rc * s.cpu.front.vl) 4096) (h : Chunked s o j t) :
    ∃ t', storeChunks i o m (chunkStart s j) (streamOff s o j) 0 t
        = (t'.setBack (t'.cpu.back.setSub (4 + o.q.val) t'.cpu.front.pc 0)).finish i
            (t'.cpu.front.setX o.xa (BitVec.ofNat 64 (t'.vmBase o + streamOff s o (j + m))))
      ∧ Chunked s o (j + m) t' := by
  induction m generalizing j t with
  | zero => exact ⟨t, by unfold storeChunks; rfl, h⟩
  | succ m ih =>
    have hcount := cdiv_eq (s.cpu.front.rc * s.cpu.front.vl) 4096 (by omega)
    have hj : 4096 * j < s.cpu.front.rc * s.cpu.front.vl := by omega
    obtain ⟨t1, heq, h1⟩ := h.step hl hcopy hq hrows hvl hj i m
    obtain ⟨t2, heq2, h2⟩ := ih (j + 1) (by omega) h1
    rw [show j + (m + 1) = j + 1 + m by omega, show chunkStart s j = 4096 * j from min_eq_right hj.le]
    exact ⟨t2, heq.trans heq2, h2⟩

end

theorem Chunked.start {s : State} (o : VMOps) (hstrip : s.openStrip = []) : Chunked s o 0 s where
  going := by
    refine ⟨(Storing.start _ hstrip).congr fun a b => ⟨False.elim, ?_⟩, rfl, rfl⟩
    rintro ⟨i, p, k, -, hs, -⟩
    have h0 : streamOff s o 0 = 0 := rfl
    rw [h0] at hs
    omega
  rows k _ := by
    have h0 : chunkStart s 0 = 0 := Nat.min_zero _
    rw [h0, Nat.zero_div, ite_self, List.drop_zero]

theorem rowsOf_setSub (t : State) (q : Nat) (pc : W64) (n k : Nat) : rowsOf (t.setBack (t.cpu.back.setSub q pc n)) k = rowsOf t k := by
  unfold rowsOf
  change ((Back.setSub _ _ _ _).queue k).rows.map _ = _
  unfold Back.setSub
  rw [Back.queue_modQueue]
  split
  next h => rw [h.1]
  next => rfl

/-- A VST.C that has written all of its chunks retires. -/
theorem Chunked.retires {s t : State} {o : VMOps} (hl : Storable s (bytePieces (s.vmBase o) (streamBytes s o)))
    (h : Chunked s o (cdiv (s.cpu.front.rc * s.cpu.front.vl) 4096) t) {b : Back}
    (hb : b = { t.cpu.back with queues := b.queues }) (hrows : ∀ k, rowsOf (t.setBack b) k = rowsOf t k) :
    let u := (t.setBack b).finish (.vstC o)
      (t.cpu.front.setX o.xa (BitVec.ofNat 64 (t.vmBase o + streamOff s o (cdiv (s.cpu.front.rc * s.cpu.front.vl) 4096))))
    Stored s u (bytePieces (s.vmBase o) (streamBytes s o))
      ∧ RetiresDrain s u
          { (s.cpu.front.setX o.xa (BitVec.ofNat 64 (s.vmBase o + (streamBytes s o).length))) with
            pc := s.cpu.front.pc + 4, vstart := 0 } (4 + o.q.val) (tileRows s) 0 := by
  intro u
  have hfront := h.going.storing.front
  have hbase : t.vmBase o = s.vmBase o := by
    unfold State.vmBase State.getX
    rw [hfront]
    rfl
  have hlen : streamOff s o (cdiv (s.cpu.front.rc * s.cpu.front.vl) 4096) = (streamBytes s o).length := by
    rw [streamBytes_eq]
    rfl
  have hgoing := (Going.setQueues h.going hb).congr (S' := fun _ _ => True) fun i p j hi hj => by
    refine iff_of_true ?_ trivial
    have hlt := (List.getElem?_eq_some_iff.mp hi).1
    rw [bytePieces_bits i p hi] at hj
    unfold bytePieces at hlt
    rw [List.length_mapIdx] at hlt
    rw [hlen]
    omega
  obtain ⟨hpc, hret⟩ := setX_kept s.cpu.front o.xa (BitVec.ofNat 64 (s.vmBase o + (streamBytes s o).length))
  refine Going.retires hl hgoing (n := 4) rfl rfl ?_ hpc hret fun k hk => ?_
  · rw [hbase, hlen, hfront]
    unfold Front.setX
    split
    · rfl
    · rfl
  · have hdone : chunkStart s (cdiv (s.cpu.front.rc * s.cpu.front.vl) 4096) / s.cpu.front.vl = tileRows s := by
      unfold chunkStart tileRows
      rw [min_eq_left (cdiv_eq (s.cpu.front.rc * s.cpu.front.vl) 4096 (by omega)).1]
      split
      next h0 => rw [h0, Nat.div_zero]
      next h0 => exact Nat.mul_div_cancel _ (Nat.pos_of_ne_zero h0)
    rw [hrows, h.rows k hk, hdone, ite_self]

/-- VST.C writes its stream. -/
theorem vstC_stores {o : VMOps} {s : State} (hq : o.q.val < 2) (hmay : MayStore s (4 + o.q.val))
    (htag : streamTag (s.cpu.front.queueTag (4 + o.q.val)) = true) (hrows : s.cpu.front.rc ≤ (rowsOf s (4 + o.q.val)).length)
    (hl : Storable s (bytePieces (s.vmBase o) (streamBytes s o))) :
    ∃ t, exec (.vstC o) s = .next t ∧ Stored s t (bytePieces (s.vmBase o) (streamBytes s o))
      ∧ RetiresDrain s t
          { (s.cpu.front.setX o.xa (BitVec.ofNat 64 (s.vmBase o + (streamBytes s o).length))) with
            pc := s.cpu.front.pc + 4, vstart := 0 } (4 + o.q.val) (tileRows s) 0 := by
  obtain ⟨hin, hv, hsub, hstrip, hcopy⟩ := hmay
  have hexec : exec (.vstC o) s = .next (s.vstStream (.vstC o) o) := rfl
  unfold State.vstStream at hexec
  rw [State.whenOldest_nil s _ _ hin] at hexec
  dsimp only at hexec
  rw [htag, Bool.not_true, if_neg Bool.false_ne_true] at hexec
  refine ⟨_, hexec, ?_⟩
  have hbegin := Chunked.start o hstrip
  by_cases h0 : s.cpu.front.rc * s.cpu.front.vl = 0
  · rw [if_pos h0]
    have hzero : cdiv (s.cpu.front.rc * s.cpu.front.vl) 4096 = 0 := by rw [h0]; rfl
    have hret := Chunked.retires hl (b := s.cpu.back) (hzero.symm ▸ hbegin) rfl fun _ => rfl
    rw [hzero] at hret
    exact hret
  · have hvl : 0 < s.cpu.front.vl := Nat.pos_of_ne_zero fun hz => h0 (by rw [hz, Nat.mul_zero])
    obtain ⟨t, heq, ht⟩ := Chunked.run hl hcopy hq hrows hvl (.vstC o) _ 0 (Nat.zero_add _) hbegin
    rw [Nat.zero_add] at heq ht
    rw [show chunkStart s 0 = 0 from Nat.min_zero _, show streamOff s o 0 = 0 from rfl] at heq
    rw [if_neg h0, hv, if_pos rfl, Nat.zero_div, Nat.sub_zero, Nat.zero_mod, heq]
    exact Chunked.retires hl ht rfl (rowsOf_setSub t _ _ _)

/-- Settles O38: each write of a store draws on bits of its pieces that no write before has drawn on (`Storing`), row after row
(`StoreGoes`) and chunk after chunk (`Chunked`). -/
theorem vectorStores : Obligations.VectorStores := by
  unfold Obligations.VectorStores
  refine ⟨fun i o s hi hwf hmay htags hrows hl => plainStores_store hi hwf hmay htags hrows hl,
    fun o s hq hmay hint hwhole hrows _ hl => vstSeg_stores hq hmay hint hwhole hrows hl,
    fun o s hq hmay htag hrows hl => vstC_stores hq hmay htag hrows hl⟩

end Sys2Proof.Claims
end
